-- ==== Sys2Proof/Word.lean ====
section
/-! DEFINITION. The words the manual moves about: the widths it names and nothing else. -/

namespace Sys2Proof

/-- One byte of an addressed memory. -/
abbrev Byte := BitVec 8
/-- A 32-bit word: a BAR0 register, a D register, an instruction (R9, R217, R223). -/
abbrev Word := BitVec 32
/-- A 48-bit thread address (R209, R216). -/
abbrev Addr := BitVec 48
/-- A fabric time in FTU, 1/16 ns (R53). -/
abbrev Time := BitVec 64
/-- A 72-bit accumulator (R218). -/
abbrev Acc := BitVec 72
/-- A hardware thread: 0–1023 packet threads, 1024–1031 the threads of the management core (R52, R221). -/
abbrev ThreadId := Fin 1032

/-- Sparse plain data by key: the key rises strictly along the list, and no entry holds the value an
unlisted key reads as.  Two equal contents are therefore equal lists. -/
abbrev SMap (α : Type) := List (Nat × α)

end Sys2Proof
end

