-- ==== Sys2Proof/Syntax.lean ====
section
/-! DEFINITION. The commands of the block: one constructor of `Instr` for each row of the manual's table of operations and
events, with the operands the sender gives. -/

namespace Sys2Proof

/-- R223: fields of a format R instruction beside OP and FN. -/
structure RFields where
  rd : BitVec 4
  rs1 : BitVec 4
  rs2 : BitVec 4
  aux : BitVec 8
  deriving DecidableEq, Repr

/-- R223: fields of a format I instruction beside OP. -/
structure IFields where
  rd : BitVec 4
  rs1 : BitVec 4
  imm : BitVec 18
  deriving DecidableEq, Repr

/-- R223: fields of a format M instruction beside OP. -/
structure MFields where
  rt : BitVec 4
  ab : BitVec 3
  mode : BitVec 2
  disp : BitVec 17
  deriving DecidableEq, Repr

/-- R223: fields of a format B instruction beside OP. -/
structure BFields where
  cond : BitVec 4
  rs1 : BitVec 4
  rs2 : BitVec 4
  off : BitVec 14
  deriving DecidableEq, Repr

/-- R223: fields of a format J instruction beside OP. -/
structure JFields where
  link : BitVec 1
  la : BitVec 3
  off : BitVec 22
  deriving DecidableEq, Repr

/-- R223: fields of a format JR instruction beside OP; `rsv` is the reserved bit 18. -/
structure JRFields where
  link : BitVec 1
  la : BitVec 3
  ab : BitVec 3
  rsv : BitVec 1
  imm : BitVec 18
  deriving DecidableEq, Repr

/-- R223: fields of a format S instruction beside OP and SUB. -/
structure SFields where
  rd : BitVec 4
  rs1 : BitVec 4
  imm : BitVec 12
  deriving DecidableEq, Repr

/-- R223: fields of a format X instruction beside OP and CXF. -/
structure XFields where
  rd : BitVec 4
  rs1 : BitVec 4
  rs2 : BitVec 4
  cxc : BitVec 8
  deriving DecidableEq, Repr

/-- R223: fields of a format BF instruction beside OP and FN; `rsv` are the reserved bits 5:0. -/
structure BFFields where
  rd : BitVec 4
  rs1 : BitVec 4
  pos : BitVec 5
  wm1 : BitVec 5
  rsv : BitVec 6
  deriving DecidableEq, Repr

/-- R587: the paths by which an access reaches the BAR0 space; a thread path names the thread.  A VF reaches its own VF BAR0 and
nothing else (R586). -/
inductive Path where
  | pf (f : Fin 4)
  | mc (k : Fin 8)
  | thread (t : Fin 1024)
  | vf (v : Fin 1024)
  | board
  | fabric
  deriving DecidableEq, Repr

/-- A 32-byte descriptor, W0–W7 (R450, R456). -/
structure Desc where
  w0 : Word
  w1 : Word
  w2 : Word
  w3 : Word
  w4 : Word
  w5 : Word
  w6 : Word
  w7 : Word
  deriving DecidableEq, Repr

/-- The port by which a command descriptor reached the executor, with what its answer goes back to (R28, R535): a command ring's
descriptor, an MCTP message's TAG, a fabric manager's SEQ. -/
inductive CmdPort where
  | ring (fn : Fin 1028) (ring : BitVec 16) (index : BitVec 16) (solicit : Bool)
  | board (tag : BitVec 8)
  | fabric (node : BitVec 14) (seq : BitVec 16)
  deriving DecidableEq, Repr

/-- What the check code of a read says: no error, an error corrected, an error that cannot be corrected. -/
inductive Ecc where
  | good | corrected | uncorrectable
  deriving DecidableEq, Repr

/-- A host write to a function's configuration space, as far as the manual gives such a write an effect (R438, R443, R464). -/
inductive ConfigWrite where
  /-- AtomicOp Requester Enable. -/
  | atomicEnable (on : Bool)
  /-- VF Enable of a PF. -/
  | vfEnable (on : Bool)
  /-- MSI-X Enable and Function Mask. -/
  | msix (enable mask : Bool)
  deriving DecidableEq, Repr

/-- The commands of the block. -/
inductive Instr where
  /-- REGISTER_WRITE (R7): A 32-bit write to a register that has no row of its own stores each field as its type states. -/
  | registerWrite (path : Path) (off : BitVec 26) (value : Word)
  /-- UNMAPPED_ACCESS (R12): An access to an unmapped offset reads 0 or is ignored, and it sets GLB_ERR.UNMAPPED with capture under R13. -/
  | unmappedAccess (path : Path) (off : BitVec 26) (write : Bool)
  /-- RC_READ (R7): A read of an RC field returns the value and clears it in the same access, subject to R593. -/
  | rcRead (path : Path) (off : BitVec 26)
  /-- LATCHING_READ (R595): A read of the _LO part of an RO multi-register value latches the upper parts for the reading path. -/
  | latchingRead (path : Path) (off : BitVec 26)
  /-- PARTIAL_ACCESS (R590): An access with incomplete byte enables is ignored, or reads 0, and sets BAD_ACCESS with capture in GLB_ERR_ACC. -/
  | partialAccess (path : Path) (off : BitVec 26) (write : Bool)
  /-- OVERSIZE_REQUEST (R589): A PCIe memory request longer than 64 bytes completes with Unsupported Request or is discarded, and sets BAD_ACCESS. -/
  | oversizeRequest (path : Path) (off : BitVec 26) (write : Bool)
  /-- GLB_RESET (R598): A write of KEY 0xA5C3 with WARM = 1 schedules a warm reset 10 µs later. -/
  | glbReset (path : Path) (value : Word)
  /-- GLB_EXPERT (R597): Writing 1 to a bit of GLB_EXPERT clears the EXPERT_EN bit of that block. -/
  | glbExpert (path : Path) (value : Word)
  /-- GLB_EXPERT_THR (R597): Writing 1 to a bit of GLB_EXPERT_THR clears THR_CTRL.EXPERT_EN of that cluster block. -/
  | glbExpertThr (path : Path) (value : Word)
  /-- WARM_RESET_START (R598): The 10 µs delay after DEVICE_RESET or GLB_RESET expires, and a warm reset pulse of 1 µs begins. -/
  | warmResetStart
  /-- PORESET_N_ASSERT (R49): Assertion of PORESET_N resets all units, puts the ring in Pass, loses the Negatives and enters RESET. -/
  | poresetNAssert
  /-- PORESET_N_DEASSERT (R49): Deassertion of PORESET_N samples PROFILE_SEL, restarts fabric time at 0 and starts the boot ROM in BOOT. -/
  | poresetNDeassert (sel : BitVec 2)
  /-- WARMRST_N_ASSERT (R49): Assertion of WARMRST_N resets all units but keeps the Negatives, possibly postponed until each Negative is complete. -/
  | warmrstNAssert
  /-- WARMRST_N_DEASSERT (R49): Deassertion of WARMRST_N starts BOOT, with the boot profile taken from BOOT_SEL. -/
  | warmrstNDeassert
  /-- PERST_N_ASSERT (R49): Assertion of PERST0_N or PERST1_N resets only that PCIe port and its functions. -/
  | perstNAssert (h : Fin 2)
  /-- PERST_N_DEASSERT (R571): Deassertion of PERSTn_N lets its port leave reset once any device reset is also deasserted. -/
  | perstNDeassert (h : Fin 2)
  /-- JTAG_TRST (R569): Assertion of JTAG_TRST_N resets the IEEE 1149.1 TAP only. -/
  | jtagTrst
  /-- POWER_LOSS (R49): Loss of power or of VDD_CORE acts as a cold reset, and the bypass dies spring back to Pass. -/
  | powerLoss (vddIo : Bool)
  /-- BROWNOUT (R561): VDD_CORE or VDD_SRAM held below its threshold for 1 µs acts as PORESET_N and records BROWNOUT. -/
  | brownout
  /-- FIRMWARE_VERIFIED (R524): The boot ROM finishes verifying a firmware slot and either runs it, tries the fallback slot or stays in BOOT. -/
  | firmwareVerified (a b : Bool)
  /-- BOOT_PROFILE_APPLIED (R525): The boot profile is checked and applied, and the device enters RUN, or enters IDLE on refusal. -/
  | bootProfileApplied (flashOk : Bool)
  /-- HBM_TRAIN_DONE (R499): A controller finishes training and becomes ACTIVE, or freezes with TRAIN_FAIL after a second failure. -/
  | hbmTrainDone (c : Fin 4) (ok : Bool) (repair : Byte)
  /-- STRETCH_LEVEL_UP (R563): The local supply of an adaptive island falls below a threshold, and the island lengthens its cycle from the next cycle. -/
  | stretchLevelUp (n : Fin 38) (mv : BitVec 10) (cycles : Word)
  /-- STRETCH_LEVEL_DOWN (R563): After HOLD consecutive cycles at least HYST above its threshold, an island falls one level. -/
  | stretchLevelDown (n : Fin 38) (mv : BitVec 10) (cycles : Word)
  /-- DIE_TEMP_SAMPLE (R567): The 100 µs die-sensor read applies the THERM_WARN, THROTTLE and trip thresholds. -/
  | dieTempSample (t : Byte)
  /-- INPUT_CHANGE (R577): A slow control input changes level, starting its 2 µs deglitch. -/
  | inputChange (i : Fin 21) (level : Bool)
  /-- INPUT_LEVEL_ACCEPT (R577): A level held for 2 µs is accepted, and a BOARD_EVT edge with BEVT_EN set sets PEND. -/
  | inputLevelAccept (i : Fin 21)
  /-- INPUT_STUCK (R578): An edge input held active 10 ms after acceptance latches STUCK and raises INPUT_STUCK. -/
  | inputStuck (i : Fin 5)
  /-- TIMEREF_LOSS (R581): Missing or off-frequency TIMEREF_10M edges clear TIMEREF_OK and freeze the servo rate. -/
  | timerefLoss
  /-- TIMEREF_RESTORE (R581): After 1 ms of valid TIMEREF_10M edges, the device uses the reference again. -/
  | timerefRestore
  /-- SYNC_T (R60): A received SYNC_T word gives link delay and offset, corrected by TIM_ASYM, and steers a follower to its parent. -/
  | syncT (p : Fin 4) (w : BitVec 136)
  /-- SYNC_A (R63): A received SYNC_A word drives the master election, parent choice, break notices and the TIM state table. -/
  | syncA (p : Fin 4) (w : BitVec 136)
  /-- SYNC_TAI (R64): A received SYNC_TAI word lets a follower copy TAI_OFFSET and TIM_TAI_GEN from its master. -/
  | syncTai (p : Fin 4) (w : BitVec 136)
  /-- SYNC_T_SEND (R60): The 1 µs interval expires and a port whose link is UP sends SYNC_T. -/
  | syncTSend (p : Fin 4)
  /-- SYNC_A_SEND (R394): The 1 µs interval expires and a port whose link is UP sends SYNC_A. -/
  | syncASend (p : Fin 4)
  /-- SYNC_TAI_SEND (R394): The 10 µs interval expires and a port whose link is UP sends SYNC_TAI. -/
  | syncTaiSend (p : Fin 4)
  /-- ACQUIRE_LOCK (R63): The 16th consecutive offset within ±16 FTU moves ACQUIRE to LOCKED and opens the ingress gate. -/
  | acquireLock
  /-- ACQUIRE_TIMEOUT (R63): No sync word from the parent for 10 µs returns ACQUIRE to UNSYNC. -/
  | acquireTimeout
  /-- ELECT_TIMEOUT (R63): An ELECT node in UNSYNC that hears no master for 1 ms becomes MASTER. -/
  | electTimeout
  /-- PARENT_LOSS_TIMEOUT (R63): A parent lost for 10 µs with no alternative moves LOCKED to HOLDOVER. -/
  | parentLossTimeout
  /-- MASTER_TAKEOVER (R63): A LOCKED ELECT node with a lower tuple for 1 ms continuously becomes MASTER without a step. -/
  | masterTakeover
  /-- HOLDOVER_TIMEOUT (R63): After 1 ms in HOLDOVER, an ELECT node with the lowest tuple heard becomes MASTER. -/
  | holdoverTimeout
  /-- ROLE_WRITE (R63): Writing TIM_CTRL.ROLE to FOLLOW or FREE on a MASTER gives up the master role. -/
  | roleWrite (path : Path) (value : Word)
  /-- TAI_OFFSET_WRITE (R66): The write to TIM_TAI_OFFSET_HI commits TAI_OFFSET and increments TIM_TAI_GEN, and it is ignored on a follower. -/
  | taiOffsetWrite (path : Path) (value : Word)
  /-- PPS_OUT_EDGE (R67): Fabric time + TAI_OFFSET crosses a whole TAI second, and PPS_OUT rises for WIDTH. -/
  | ppsOutEdge
  /-- ETH_RX_FRAME (R478): A whole Ethernet frame is checked, timestamped and admitted to packet buffer SRAM, or dropped and counted. -/
  | ethRxFrame (p : Fin 16) (frame : List Byte) (good : Bool)
  /-- LOUPE_INTAKE (R97): A pipeline takes one waiting frame in round-robin order and hands it to a free engine. -/
  | loupeIntake (pipe : Fin 2)
  /-- LOUPE_WORD (R108): An engine executes one microword through the ten steps of R108. -/
  | loupeWord (pipe : Fin 2) (e : Fin 32) (ecc : Ecc)
  /-- LOUPE_DELIVER (R98): The output stage delivers a result to the classifier in intake order once earlier results are delivered and a context is free. -/
  | loupeDeliver (pipe : Fin 2)
  /-- CLS_RESULT_ACCEPT (R164): A lane accepts a parse result, pins its epoch, reserves its Fixer entry and starts the walk. -/
  | clsResultAccept (lane : Fin 2)
  /-- CLS_LINE_RETURN (R145): A tree node line returns from cache or HBM and one step of the walk is evaluated. -/
  | clsLineReturn (lane : Fin 2) (k : BitVec 11) (ecc : Ecc)
  /-- CLS_ACTION_EVAL (R156): The action list and its template lines are evaluated whole and applied, and the key is delivered to the Fixer. -/
  | clsActionEval (lane : Fin 2) (k : BitVec 11)
  /-- METER_OP (R365): A METER operation reaches the meter engine, adds tokens, colours the packet and writes the entry back. -/
  | meterOp (lane : Fin 2) (k : BitVec 11)
  /-- CLS_DELIVER (R195): A finished walk delivers its work item to the Dealer once its group is not in STOP. -/
  | clsDeliver (lane : Fin 2) (k : BitVec 11)
  /-- EPOCH_COMMIT_TIME (R167): Fabric time reaches a PENDING slot's T, and the slot becomes LIVE and CURRENT. -/
  | epochCommitTime (k : BitVec 2)
  /-- EPOCH_SUPERSEDED_RELEASE (R41): The superseded reference is released at the successor's commit time plus TTL. -/
  | epochSupersededRelease (k : BitVec 2)
  /-- DLR_ITEM_ARRIVE (R183): A work item reaches the Dealer and enters a ready list, the slow-path list or a delay list. -/
  | dlrItemArrive
  /-- DLR_DISPATCH (R184): The Dealer selects an item for an idle dispatch thread, writes the dispatch area and starts the thread. -/
  | dlrDispatch
  /-- DLR_TRUMP (R185): An item's wait reaches TRUMP_AGE, and it moves to the Trump list with TRUMPED set. -/
  | dlrTrump (g : Fin 16)
  /-- DLR_TICK (R192): At a tick boundary, due delay-list entries are released to ready lists, discarded or completed. -/
  | dlrTick
  /-- DLR_INH_SIGNAL (R198): An INH signal from the lock unit updates a thread's EP, and the change is reported back. -/
  | dlrInhSignal
  /-- FIX_COMPLETION (R89): A thread's completion report makes an INFLIGHT entry READY, or frees a tombstone's buffers. -/
  | fixCompletion
  /-- FIX_RELEASE (R78): A READY entry whose release conditions hold is released to SWT, and it returns its reference and slot. -/
  | fixRelease (e : BitVec 17)
  /-- FIX_SETTLE_EXPIRE (R78): Fabric time passes an entry's T + SETTLE, and a FABRIC release may proceed without watermarks. -/
  | fixSettleExpire (e : BitVec 17)
  /-- FIX_HOLD_EXPIRE (R82): A READY entry's hold time reaches HOLD_LIMIT, and earlier INFLIGHT entries are tombstoned or bypassed. -/
  | fixHoldExpire (e : BitVec 17)
  /-- FIX_TTL_EXPIRE (R83): A terminating ring frame older than TTL is discarded wherever the Fixer holds it. -/
  | fixTtlExpire (e : BitVec 17)
  /-- FIX_DOMAIN_EXPIRE (R74): A FABRIC domain's slot is freed once fabric time exceeds its last released timestamp plus TTL. -/
  | fixDomainExpire (key : BitVec 24)
  /-- FIX_ECC (R89): An uncorrectable ECC error in an entry tombstones it and raises FIX_ECC. -/
  | fixEcc (e : BitVec 17)
  /-- LOAD_DATA_RETURN (R206): The data of a load or atomic, or a status word, returns and is written to its register. -/
  | loadDataReturn (t : ThreadId) (ecc : Bool)
  /-- MACHINE_CHECK (R213): A posted store that fails in its target raises MACHINE_CHECK at Monitor. -/
  | machineCheck (t : ThreadId) (target : Addr)
  /-- INTERRUPT_TAKE (R247): A pending unmasked interrupt is taken between instructions, withdrawing any wait. -/
  | interruptTake (t : ThreadId)
  /-- ADD (R227): rd = rs1 + rs2, setting C and HC. -/
  | add (t : ThreadId) (f : RFields)
  /-- ADDC (R227): rd = rs1 + rs2 + C, setting C and HC. -/
  | addc (t : ThreadId) (f : RFields)
  /-- SUB (R227): rd = rs1 − rs2, with C as borrow. -/
  | sub (t : ThreadId) (f : RFields)
  /-- SUBC (R227): rd = rs1 − rs2 − C, with C as borrow. -/
  | subc (t : ThreadId) (f : RFields)
  /-- AND (R227): Bitwise AND. -/
  | and (t : ThreadId) (f : RFields)
  /-- OR (R227): Bitwise OR. -/
  | or (t : ThreadId) (f : RFields)
  /-- XOR (R227): Bitwise XOR. -/
  | xor (t : ThreadId) (f : RFields)
  /-- ANDN (R227): rs1 AND NOT rs2. -/
  | andn (t : ThreadId) (f : RFields)
  /-- SLL (R227): Shift left logical by rs2[4:0]. -/
  | sll (t : ThreadId) (f : RFields)
  /-- SRL (R227): Shift right logical by rs2[4:0]. -/
  | srl (t : ThreadId) (f : RFields)
  /-- SRA (R227): Shift right arithmetic by rs2[4:0]. -/
  | sra (t : ThreadId) (f : RFields)
  /-- ROR (R227): Rotate right by rs2[4:0]. -/
  | ror (t : ThreadId) (f : RFields)
  /-- SLLI (R227): Shift left logical by AUX[4:0]. -/
  | slli (t : ThreadId) (f : RFields)
  /-- SRLI (R227): Shift right logical by AUX[4:0]. -/
  | srli (t : ThreadId) (f : RFields)
  /-- SRAI (R227): Shift right arithmetic by AUX[4:0]. -/
  | srai (t : ThreadId) (f : RFields)
  /-- RORI (R227): Rotate right by AUX[4:0]. -/
  | rori (t : ThreadId) (f : RFields)
  /-- SLT (R227): rd = 1 when rs1 < rs2 signed, else 0. -/
  | slt (t : ThreadId) (f : RFields)
  /-- SLTU (R227): rd = 1 when rs1 < rs2 unsigned, else 0. -/
  | sltu (t : ThreadId) (f : RFields)
  /-- MIN (R227): Signed minimum. -/
  | min (t : ThreadId) (f : RFields)
  /-- MAX (R227): Signed maximum. -/
  | max (t : ThreadId) (f : RFields)
  /-- MINU (R227): Unsigned minimum. -/
  | minu (t : ThreadId) (f : RFields)
  /-- MAXU (R227): Unsigned maximum. -/
  | maxu (t : ThreadId) (f : RFields)
  /-- MUL (R227): Low 32 bits of rs1 × rs2. -/
  | mul (t : ThreadId) (f : RFields)
  /-- MULH (R227): High 32 bits of the signed product. -/
  | mulh (t : ThreadId) (f : RFields)
  /-- MULHU (R227): High 32 bits of the unsigned product. -/
  | mulhu (t : ThreadId) (f : RFields)
  /-- DIV (R227): Signed quotient rounded toward zero, with defined results for zero and overflow. -/
  | div (t : ThreadId) (f : RFields)
  /-- DIVU (R227): Unsigned quotient, returning 0xFFFF_FFFF on division by zero. -/
  | divu (t : ThreadId) (f : RFields)
  /-- REM (R227): Signed remainder taking the sign of rs1. -/
  | rem (t : ThreadId) (f : RFields)
  /-- REMU (R227): Unsigned remainder. -/
  | remu (t : ThreadId) (f : RFields)
  /-- CLZ (R227): Leading zero count of rs1. -/
  | clz (t : ThreadId) (f : RFields)
  /-- POPC (R227): Count of 1 bits in rs1. -/
  | popc (t : ThreadId) (f : RFields)
  /-- BSWAP (R227): Byte order of rs1 reversed. -/
  | bswap (t : ThreadId) (f : RFields)
  /-- ADDI (R228): rd = rs1 + sign-extended IMM. -/
  | addi (t : ThreadId) (f : IFields)
  /-- ANDI (R228): rs1 AND zero-extended IMM. -/
  | andi (t : ThreadId) (f : IFields)
  /-- ORI (R228): rs1 OR zero-extended IMM. -/
  | ori (t : ThreadId) (f : IFields)
  /-- XORI (R228): rs1 XOR zero-extended IMM. -/
  | xori (t : ThreadId) (f : IFields)
  /-- LI (R228): rd = sign-extended IMM. -/
  | li (t : ThreadId) (f : IFields)
  /-- LUI (R228): rd = IMM << 14. -/
  | lui (t : ThreadId) (f : IFields)
  /-- AADDI (R228): A[rd] = A[rs1] + sign-extended IMM. -/
  | aaddi (t : ThreadId) (f : IFields)
  /-- ALPC (R228): A[rd] = PC + sign-extended IMM. -/
  | alpc (t : ThreadId) (f : IFields)
  /-- LDB (R229): Load a byte, sign-extended. -/
  | ldb (t : ThreadId) (f : MFields)
  /-- LDBU (R229): Load a byte, zero-extended. -/
  | ldbu (t : ThreadId) (f : MFields)
  /-- LDH (R229): Load a halfword, sign-extended. -/
  | ldh (t : ThreadId) (f : MFields)
  /-- LDHU (R229): Load a halfword, zero-extended. -/
  | ldhu (t : ThreadId) (f : MFields)
  /-- LDW (R229): Load a word. -/
  | ldw (t : ThreadId) (f : MFields)
  /-- LDA (R229): Load 8 bytes, bits 47:0 into an A register. -/
  | lda (t : ThreadId) (f : MFields)
  /-- STB (R229): Store the low byte, posted. -/
  | stb (t : ThreadId) (f : MFields)
  /-- STH (R229): Store the low halfword, posted. -/
  | sth (t : ThreadId) (f : MFields)
  /-- STW (R229): Store a word, posted. -/
  | stw (t : ThreadId) (f : MFields)
  /-- STA (R229): Store an A register zero-extended to 8 bytes. -/
  | sta (t : ThreadId) (f : MFields)
  /-- BRC (R230): Conditional branch on D registers. -/
  | brc (t : ThreadId) (f : BFields)
  /-- BRF (R230): Conditional branch on a TSR flag. -/
  | brf (t : ThreadId) (f : BFields)
  /-- BRA (R230): Conditional branch on A registers. -/
  | bra (t : ThreadId) (f : BFields)
  /-- J (R230): PC-relative jump, optionally linking. -/
  | j (t : ThreadId) (f : JFields)
  /-- JR (R230): Jump to A[ab] + IMM, optionally linking. -/
  | jr (t : ThreadId) (f : JRFields)
  /-- EXTU (R231): Extract a bit field, zero-extended. -/
  | extu (t : ThreadId) (f : BFFields)
  /-- EXTS (R231): Extract a bit field, sign-extended. -/
  | exts (t : ThreadId) (f : BFFields)
  /-- INS (R231): Insert the low bits of rs1 into a field of rd. -/
  | ins (t : ThreadId) (f : BFFields)
  /-- MAC (R232): acc += rs1 × rs2 signed, setting AV on overflow. -/
  | mac (t : ThreadId) (f : RFields)
  /-- MACU (R232): acc += rs1 × rs2 unsigned. -/
  | macu (t : ThreadId) (f : RFields)
  /-- MSU (R232): acc −= signed product. -/
  | msu (t : ThreadId) (f : RFields)
  /-- MSUU (R232): acc −= unsigned product. -/
  | msuu (t : ThreadId) (f : RFields)
  /-- MULA (R232): acc = signed product, sign-extended. -/
  | mula (t : ThreadId) (f : RFields)
  /-- ACLR (R232): acc = 0. -/
  | aclr (t : ThreadId) (f : RFields)
  /-- MTAC (R232): acc = {rs2, rs1} sign-extended. -/
  | mtac (t : ThreadId) (f : RFields)
  /-- MTACU (R232): acc = {rs2, rs1} zero-extended. -/
  | mtacu (t : ThreadId) (f : RFields)
  /-- MFACL (R232): rd = acc[31:0]. -/
  | mfacl (t : ThreadId) (f : RFields)
  /-- MFACH (R232): rd = acc[63:32]. -/
  | mfach (t : ThreadId) (f : RFields)
  /-- MFACG (R232): rd = guard bits sign-extended. -/
  | mfacg (t : ThreadId) (f : RFields)
  /-- ASAT (R232): rd = acc shifted right and saturated to 32 bits. -/
  | asat (t : ThreadId) (f : RFields)
  /-- ASHR (R232): acc shifted right arithmetically. -/
  | ashr (t : ThreadId) (f : RFields)
  /-- DADD (R239): Packed BCD add modulo 10⁸. -/
  | dadd (t : ThreadId) (f : RFields)
  /-- DADDC (R239): Packed BCD add with DC. -/
  | daddc (t : ThreadId) (f : RFields)
  /-- DSUB (R239): Packed BCD subtract. -/
  | dsub (t : ThreadId) (f : RFields)
  /-- DSUBC (R239): Packed BCD subtract with DC. -/
  | dsubc (t : ThreadId) (f : RFields)
  /-- DAJ (R240): Decimal adjust after ADD or ADDC. -/
  | daj (t : ThreadId) (f : RFields)
  /-- DACC (R241): Decimal accumulate into a 16-digit accumulator with a carry count. -/
  | dacc (t : ThreadId) (f : RFields)
  /-- ASC2P (R242): Convert ASCII digits to packed BCD with a non-digit mask. -/
  | asc2p (t : ThreadId) (f : RFields)
  /-- P2BIN (R239): Packed BCD to binary. -/
  | p2bin (t : ThreadId) (f : RFields)
  /-- BIN2P (R239): Binary to eight-digit packed BCD. -/
  | bin2p (t : ThreadId) (f : RFields)
  /-- MOVDA (R233): A[rd] = D[rs1] zero-extended. -/
  | movda (t : ThreadId) (f : RFields)
  /-- MOVDAS (R233): A[rd] = D[rs1] sign-extended. -/
  | movdas (t : ThreadId) (f : RFields)
  /-- MOVAD (R233): D[rd] = A[rs1][31:0]. -/
  | movad (t : ThreadId) (f : RFields)
  /-- MOVAH (R233): D[rd] = A[rs1][47:32]. -/
  | movah (t : ThreadId) (f : RFields)
  /-- MOVHA (R233): A[rd] = {D[rs2][15:0], D[rs1]}. -/
  | movha (t : ThreadId) (f : RFields)
  /-- AADD (R233): A[rd] = A[rs1] + scaled D[rs2]. -/
  | aadd (t : ThreadId) (f : RFields)
  /-- ASUB (R233): A[rd] = A[rs1] − scaled D[rs2]. -/
  | asub (t : ThreadId) (f : RFields)
  /-- ADIFF (R233): D[rd] = low 32 bits of A[rs1] − A[rs2]. -/
  | adiff (t : ThreadId) (f : RFields)
  /-- AMOV (R233): A[rd] = A[rs1]. -/
  | amov (t : ThreadId) (f : RFields)
  /-- MFS (R234): Read a 32-bit system register. -/
  | mfs (t : ThreadId) (f : SFields)
  /-- MTS (R234): Write a 32-bit system register. -/
  | mts (t : ThreadId) (f : SFields)
  /-- MFSA (R234): Read a 48-bit system register into an A register. -/
  | mfsa (t : ThreadId) (f : SFields)
  /-- MTSA (R234): Write a 48-bit system register from an A register. -/
  | mtsa (t : ThreadId) (f : SFields)
  /-- SYSCALL (R234): Raise SYSCALL with IMM12 in EINFO. -/
  | syscall (t : ThreadId) (f : SFields)
  /-- MONCALL (R234): Raise MONCALL to Monitor. -/
  | moncall (t : ThreadId) (f : SFields)
  /-- BREAK (R234): Raise BREAK. -/
  | breakOp (t : ThreadId) (f : SFields)
  /-- ERET (R248): Return from exception, restoring LEVEL and IE. -/
  | eret (t : ThreadId) (f : SFields)
  /-- FENCE (R212): Wait until earlier accesses to the selected region classes complete. -/
  | fence (t : ThreadId) (f : SFields)
  /-- CLRF (R234): Clear selected TSR flags. -/
  | clrf (t : ThreadId) (f : SFields)
  /-- FORK (R258): Start an idle pool thread as a child, or return NO_THREAD. -/
  | fork (t : ThreadId) (f : RFields)
  /-- JOIN (R259): Wait until the live-child count is 0. -/
  | join (t : ThreadId) (f : RFields)
  /-- END (R260): End the thread's work, reporting outputs to the Fixer or completing a HOST item, or wait in ENDJOIN. -/
  | endOp (t : ThreadId) (f : RFields)
  /-- WAITT (R262): Wait until the timer compare is reached. -/
  | waitt (t : ThreadId) (f : RFields)
  /-- WAITE (R264): Wait until a masked event is pending, then consume it. -/
  | waite (t : ThreadId) (f : RFields)
  /-- POST (R263): Post an event to a thread by requester ID. -/
  | post (t : ThreadId) (f : RFields)
  /-- POST_ARRIVE (R263): A posted event reaches its target, sets EVPEND or is discarded, and may end a WAITE. -/
  | postArrive
  /-- CHW (R268): Write a channel word, claiming the channel or waiting in CLAIM. -/
  | chw (t : ThreadId) (f : RFields)
  /-- CHCOMMIT (R269): Make N words of an owned FILLING channel visible as FULL. -/
  | chcommit (t : ThreadId) (f : RFields)
  /-- SEND (R270): Commit a message as SENDING and wait for a receiver. -/
  | send (t : ThreadId) (f : RFields)
  /-- RECV (R271): Wait for and take a channel message into the data scratch. -/
  | recv (t : ThreadId) (f : RFields)
  /-- YIELD (R235): Yield the issue slot. -/
  | yield (t : ThreadId) (f : RFields)
  /-- SUBMIT (R186): Submit a THREAD work item to the Dealer and return its status. -/
  | submit (t : ThreadId) (f : RFields)
  /-- SUBMIT_RESUME (R186): A blocking SUBMIT that waited for room enqueues once room exists. -/
  | submitResume (t : ThreadId)
  /-- PKTOUT (R261): Register a thread-created packet as READY with one output. -/
  | pktout (t : ThreadId) (f : RFields)
  /-- PKTOUT_RESUME (R261): A PKTOUT waiting on FULL registers once a Fixer entry frees. -/
  | pktoutResume (t : ThreadId)
  /-- TIMER_COMPARE_REACHED (R262): Fabric time reaches TCMP, ending WAITT with OK and other waits with TIMEOUT or a withdrawal. -/
  | timerCompareReached (t : ThreadId)
  /-- CLUSTER_DEADLOCK (R283): The detector count reaches DL_CYCLES, snapshots the cluster and ends the lowest-indexed closed wait. -/
  | clusterDeadlock (c : Fin 17)
  /-- HALT (R276): Debug request halting a thread at its next instruction boundary. -/
  | halt (c : Fin 17) (k : Fin 64)
  /-- RESUME (R276): Debug request continuing a halted thread at its halt PC. -/
  | resume (c : Fin 17) (k : Fin 64)
  /-- STEP (R276): Debug request issuing one instruction of a halted thread. -/
  | step (c : Fin 17) (k : Fin 64)
  /-- KILL (R278): Debug request ending a thread under R278. -/
  | kill (c : Fin 17) (k : Fin 64)
  /-- TRAP (R276): Debug request raising DEBUG in a thread. -/
  | trap (c : Fin 17) (k : Fin 64)
  /-- CHABORT (R273): Debug request discarding a FILLING or HELD channel's partial message. -/
  | chabort (c : Fin 17) (ch : Fin 32)
  /-- DBG_WIN_WRITE (R285): A THR_DBG_WIN write changes a halted thread's register in FULL mode, else is refused. -/
  | dbgWinWrite (c : Fin 17) (offset : BitVec 8) (value : Word)
  /-- BREAKPOINT_HIT (R279): An instruction at a breakpoint's PC halts, traps or is traced. -/
  | breakpointHit (t : ThreadId) (bp : Fin 4)
  /-- DRAIN_LIMIT_EXPIRE (R281): The Stop Bath drain limit expires and every non-idle thread is ended with THREAD_KILLED_SWAP. -/
  | drainLimitExpire
  /-- CRC32C (R290): CRC32C update by 1–4 bytes. -/
  | crc32c (t : ThreadId) (f : XFields)
  /-- CRC64 (R290): CRC64 update of a register pair. -/
  | crc64 (t : ThreadId) (f : XFields)
  /-- TOEP (R292): Toeplitz hash step. -/
  | toep (t : ThreadId) (f : XFields)
  /-- SYMH (R290): Symmetric hash update. -/
  | symh (t : ThreadId) (f : XFields)
  /-- AESE (R293): One AES encryption round. -/
  | aese (t : ThreadId) (f : XFields)
  /-- AESD (R293): One AES decryption round. -/
  | aesd (t : ThreadId) (f : XFields)
  /-- GHASH (R293): GCM multiply in GF(2¹²⁸). -/
  | ghash (t : ThreadId) (f : XFields)
  /-- SHA256R (R293): Two SHA-256 rounds. -/
  | sha256r (t : ThreadId) (f : XFields)
  /-- SHA256M (R290): SHA-256 message schedule step. -/
  | sha256m (t : ThreadId) (f : XFields)
  /-- MCMP128 (R294): 128-bit masked compare. -/
  | mcmp128 (t : ThreadId) (f : XFields)
  /-- BGATH (R290): Bit-field gather. -/
  | bgath (t : ThreadId) (f : XFields)
  /-- BSCAT (R290): Bit-field scatter. -/
  | bscat (t : ThreadId) (f : XFields)
  /-- CX_LATE (R299): A residue check fails after a result is written, logging CX_LOG and raising CX_LATE, or counting a squashed fault. -/
  | cxLate (t : ThreadId) (cxf : BitVec 6) (pc : BitVec 17) (squashed : Bool)
  /-- LOCK (R303): Acquire a lock, waiting or refused with DEADLOCK. -/
  | lock (t : ThreadId) (f : RFields)
  /-- TRYLOCK (R303): Acquire a lock or return BUSY. -/
  | trylock (t : ThreadId) (f : RFields)
  /-- UNLOCK (R310): Release a lock with release order, handing it to a waiter. -/
  | unlock (t : ThreadId) (f : RFields)
  /-- SEMP (R303): Take a semaphore unit, waiting or returning BUSY. -/
  | semp (t : ThreadId) (f : RFields)
  /-- SEMV (R303): Give a semaphore unit or grant it to a waiter. -/
  | semv (t : ThreadId) (f : RFields)
  /-- AADDW (R317): Atomic add to a word. -/
  | aaddw (t : ThreadId) (f : RFields)
  /-- ASWPW (R317): Atomic swap of a word. -/
  | aswpw (t : ThreadId) (f : RFields)
  /-- ACASW (R317): Atomic compare-and-swap of a word. -/
  | acasw (t : ThreadId) (f : RFields)
  /-- AANDW (R317): Atomic AND into a word. -/
  | aandw (t : ThreadId) (f : RFields)
  /-- AORW (R317): Atomic OR into a word. -/
  | aorw (t : ThreadId) (f : RFields)
  /-- LOCK_TRUMP (R308): A lock or semaphore waiter's age reaches TRUMP_AGE and it is trumped. -/
  | lockTrump (onSem : Bool) (n : BitVec 14) (req : BitVec 12)
  /-- LOCK_WITHDRAW (R313): A withdrawal of a LOCK or SEMP wait reaches the lock unit, and the request leaves the queue unless already granted. -/
  | lockWithdraw (t : ThreadId)
  /-- LCK_FORCE (R311): A write of a lock number to LCK_FORCE force-releases a DATA lock. -/
  | lckForce (p : Path) (n : BitVec 14)
  /-- SEM_INIT_WRITE (R323): A write to LCK_SEM_INIT sets a semaphore's count at once and grants waiters. -/
  | semInitWrite (p : Path) (n : BitVec 11) (value : Word)
  /-- TRAYS_ALLOC_SIZE (R333): An allocation load by size, blocking or non-blocking, allocates from the first fitting candidate. -/
  | traysAllocSize (t : ThreadId) (u : BitVec 10) (blocking : Bool) (rt : BitVec 4)
  /-- TRAYS_ALLOC_POOL (R333): An allocation load from a named pool, blocking or non-blocking. -/
  | traysAllocPool (t : ThreadId) (p : BitVec 3) (blocking : Bool) (rt : BitVec 4)
  /-- FREE (R340): A portal FREE removes one name and returns the chain when the last name goes. -/
  | free (t : ThreadId) (handle : Word)
  /-- GIVE (R341): A portal GIVE replaces one of the requester's names with r. -/
  | give (t : ThreadId) (whom : BitVec 12) (handle : Word)
  /-- SHARE (R341): A portal SHARE adds r as a further name. -/
  | share (t : ThreadId) (whom : BitVec 12) (handle : Word)
  /-- TRAYS_WAIT_REPORT (R338): A blocking wait reaches WAIT_REPORT, is reported and becomes a closed wait. -/
  | traysWaitReport (t : ThreadId)
  /-- TRAYS_WITHDRAW (R338): A withdrawal of a Trays wait reaches Trays, ending the request unless a buffer was granted. -/
  | traysWithdraw (t : ThreadId)
  /-- TRY_RECLAIM (R347): A write to TRY_RECLAIM starts a scan that removes every name of a requester ID. -/
  | tryReclaim (p : Path) (req : BitVec 12)
  /-- TRAYS_RECLAIMED (R347): A reclaim scan finishes, records its count and raises TRAYS_RECLAIMED. -/
  | traysReclaimed
  /-- TRAYS_ECC (R346): An uncorrectable error in an ownership entry withdraws the buffer as LOST. -/
  | traysEcc (handle : Word)
  /-- SWT_ENQUEUE (R360): The copies of a released entry are checked and enqueued, up to four per clock. -/
  | swtEnqueue
  /-- SWT_DEQUEUE (R376): An output that can start a frame selects a queue through four levels and starts its head frame. -/
  | swtDequeue (o : Fin 22)
  /-- SWT_TX_DONE (R359): A frame's transmission or delivery ends, and the chain returns when its last copy is done. -/
  | swtTxDone (o : Fin 22)
  /-- SWT_TX_ECC (R512): A buffer read returns an uncorrectable error during transmission, and the frame ends with inverted FCS or STOMP. -/
  | swtTxEcc (o : Fin 22)
  /-- SWT_QUEUE_TRUMP (R378): A queue's head frame reaches TRUMP_AGE, and the queue becomes trumped. -/
  | swtQueueTrump (q : BitVec 15)
  /-- SWT_QFLUSH (R375): A write to SWT_QFLUSH drops all frames of a queue with reason FLUSH. -/
  | swtQflush (path : Path) (q : BitVec 15)
  /-- SWT_HOLD_EXPIRE (R381): An Ethernet output's hold timer reaches HOLD, flushing its queues and entering DOWN. -/
  | swtHoldExpire (o : Fin 16)
  /-- ETH_PORT_CFG_WRITE (R481): A write to ETH_Pp_CFG that changes EN or LOOPBACK starts or stops a port's link. -/
  | ethPortCfgWrite (path : Path) (p : Fin 16) (value : Word)
  /-- AUTO_NEGOTIATION (R481): Clause 73 auto-negotiation finishes with or without the mode's ability. -/
  | autoNegotiation (p : Fin 16) (able : Bool)
  /-- TRAIN_DONE (R481): Every lane of a port has trained, and the port enters ALIGN. -/
  | trainDone (p : Fin 16)
  /-- TRAIN_LIMIT_EXPIRE (R481): TRAIN_LIMIT elapses and the port raises ETH_TRAIN_FAIL and restarts. -/
  | trainLimitExpire (p : Fin 16)
  /-- UP_DEB_EXPIRE (R481): Alignment and FEC lock held for UP_DEB bring the port UP and report link up to SWT. -/
  | upDebExpire (p : Fin 16)
  /-- ETH_LINK_FAULT (R481): A local or remote fault or loss of alignment arises or clears on a port. -/
  | ethLinkFault (p : Fin 16) (aligned local_ remote : Bool)
  /-- DOWN_DEB_EXPIRE (R481): A fault held for DOWN_DEB takes the port down and reports link down to SWT. -/
  | downDebExpire (p : Fin 16)
  /-- PFC_SEND (R488): After an XOFF or XON change, the MAC sends a PFC frame once any frame in transmission ends. -/
  | pfcSend (p : Fin 16)
  /-- PFC_REFRESH (R488): Half the XOFF_QUANTA time passes and the MAC repeats the PFC frame for held priorities. -/
  | pfcRefresh (p : Fin 16)
  /-- PFC_RX (R489): A received PFC frame pauses or releases enabled priorities. -/
  | pfcRx (p : Fin 16) (frame : List Byte)
  /-- PFC_PAUSE_EXPIRE (R489): A received pause time runs out and the priority is released. -/
  | pfcPauseExpire (p : Fin 16) (k : Fin 8)
  /-- TSQ_READ (R485): A read of ETH_Pp_TSQ_INFO returns and removes the oldest timestamp-queue entry. -/
  | tsqRead (path : Path) (p : Fin 16)
  /-- SOF (R405): A ring frame's SOF arrives and the checks of R405 decide discard, termination or forwarding. -/
  | sof (p : Fin 4) (flags : Byte) (hdr : BitVec 128) (blocks : BitVec 16)
  /-- RING_TERMINATE (R419): A whole terminating DATA frame is checked and admitted to packet buffer SRAM, or discarded. -/
  | ringTerminate (p : Fin 4) (arrives : Option (List Byte))
  /-- CTRL_FRAME (R420): A terminating CTRL frame raises RING_DEST_FROZEN or RING_UNREACHABLE and updates the avoid table. -/
  | ctrlFrame (p : Fin 4) (data : List Byte)
  /-- MGMT_FRAME (R421): A terminating MGMT frame from a listed fabric manager is executed with fabric authority, or rejected. -/
  | mgmtFrame (p : Fin 4) (data : List Byte)
  /-- RING_OUTPUT_SELECT (R406): An idle ring output with credits selects the next waiting transit frame or SWT frame and starts it. -/
  | ringOutputSelect (p : Fin 4)
  /-- TRANSIT_TTL_RECHECK (R406): Every 1 µs, a waiting transit frame is rechecked against TTL. -/
  | transitTtlRecheck
  /-- RING_UNDERRUN (R408): An input stalls mid-frame longer than UNDERRUN, and the frame in progress is stomped. -/
  | ringUnderrun (p : Fin 4)
  /-- FEC_UNCORRECTABLE (R395): An uncorrectable codeword is discarded, later blocks are discarded and a NAK is sent. -/
  | fecUncorrectable (p : Fin 4) (codeword : BitVec 160)
  /-- IDLE (R394): A received IDLE word updates the link watermark and acknowledged sequence. -/
  | idle (p : Fin 4) (w : BitVec 136)
  /-- CREDIT (R399): A received CREDIT word updates the watermark and the credits held for the peer's pools. -/
  | credit (p : Fin 4) (w : BitVec 136)
  /-- NAK (R395): A received NAK makes the transmitter send REPLAY and resend, or enter HOLD after NAK_LIMIT. -/
  | nak (p : Fin 4) (w : BitVec 136)
  /-- REPLAY (R395): A received REPLAY resets the receive sequence and ends discarding. -/
  | replay (p : Fin 4) (w : BitVec 136)
  /-- HELLO (R426): A received HELLO is checked, accepted or answered with REFUSE. -/
  | hello (p : Fin 4) (w : BitVec 136)
  /-- RING_RESUME (R397): A received RESUME sets the point from which the neighbour resends its retry buffer. -/
  | ringResume (p : Fin 4) (w : BitVec 136)
  /-- REFUSE (R430): A received REFUSE returns the link to DOWN and fails any splice. -/
  | refuse (p : Fin 4) (w : BitVec 136)
  /-- LEAVE (R428): A received LEAVE makes a neighbour answer LEAVE_ACK and send no further SOF. -/
  | leave (p : Fin 4) (w : BitVec 136)
  /-- LEAVE_ACK (R428): A received LEAVE_ACK lets the leaving node drain. -/
  | leaveAck (p : Fin 4) (w : BitVec 136)
  /-- BAD_CONTROL_WORD (R394): A reserved control word is discarded and counted. -/
  | badControlWord (p : Fin 4) (w : BitVec 144)
  /-- NAK_REPEAT (R395): Every 1 µs until the replay arrives, the receiver repeats its NAK. -/
  | nakRepeat (p : Fin 4)
  /-- ACK_SEND (R395): After ACK_INT sequenced blocks, the receiver inserts an IDLE word carrying ACK. -/
  | ackSend (p : Fin 4)
  /-- CREDIT_REPORT (R399): The 4 µs interval expires and every pool's freed count is reported. -/
  | creditReport (p : Fin 4)
  /-- WM_IDLE_SEND (R85): No IDLE or CREDIT word has been sent for FIX_WM.PERIOD, and an IDLE word is sent. -/
  | wmIdleSend (p : Fin 4)
  /-- CTRL_GAP_EXPIRE (R420): CTRL_GAP passes, and a pending CTRL frame with its discard count may go to a source. -/
  | ctrlGapExpire (src : BitVec 14)
  /-- SPLICE_X (R425): Start a splice into the X dimension. -/
  | spliceX (path : Path)
  /-- SPLICE_Y (R425): Start a splice into the Y dimension. -/
  | spliceY (path : Path)
  /-- LEAVE_X (R428): Leave the X dimension in good order. -/
  | leaveX (path : Path)
  /-- LEAVE_Y (R428): Leave the Y dimension in good order. -/
  | leaveY (path : Path)
  /-- PASS_X (R429): Release the X bypass die at once. -/
  | passX (path : Path)
  /-- PASS_Y (R429): Release the Y bypass die at once. -/
  | passY (path : Path)
  /-- BYPASS_ACTUATED (R423): A die finishes moving to Play or Pass, counts the actuation and lets ports train. -/
  | bypassActuated (dim : Fin 2)
  /-- SPLICE_TIMEOUT (R427): SPLICE_LIMIT expires in JOIN or LEAVE, and the die is released. -/
  | spliceTimeout (dim : Fin 2)
  /-- LEAVE_DRAIN_DONE (R428): The leaving node's retry buffers empty, and it releases the die. -/
  | leaveDrainDone (dim : Fin 2)
  /-- LINK_SIGNAL_DETECT (R430): A signal is present on a port in JOIN or PLAY, and training starts. -/
  | linkSignalDetect (p : Fin 4)
  /-- TRAIN_LOCK (R430): Block lock on all four lanes moves the port to HELLO. -/
  | trainLock (p : Fin 4)
  /-- TRAIN_TIMEOUT (R430): No lock for 100 µs restarts training. -/
  | trainTimeout (p : Fin 4)
  /-- HELLO_SEND (R430): The 1 µs interval expires and a port in HELLO sends HELLO. -/
  | helloSend (p : Fin 4)
  /-- REFUSE_RETRY (R430): 1 ms after a REFUSE, training restarts. -/
  | refuseRetry (p : Fin 4)
  /-- LINK_LOCK_LOSS (R430): Loss of lock, or 16 uncorrectable codewords, puts an UP link in HOLD. -/
  | linkLockLoss (p : Fin 4)
  /-- LINK_HOLD_EXPIRE (R430): The HOLD timer expires, and the link is declared DOWN with reroute and break notices. -/
  | linkHoldExpire (p : Fin 4)
  /-- BREAK_CLEAR (R415): No break notice for 10 µs clears a ring's broken mark. -/
  | breakClear (p : Fin 4)
  /-- AVOID_EXPIRE (R417): An avoid-table entry expires after 10 ms. -/
  | avoidExpire
  /-- HQE_POLL (R448): A function's poll interval expires and the HQE starts a poll of its summary bitmap or doorbells. -/
  | hqePoll (fn : Fin 1028)
  /-- SUMMARY_READ_DONE (R448): A level-1 summary line read returns and swaps of its nonzero words are issued. -/
  | summaryReadDone (fn : Fin 1028) (line : BitVec 512)
  /-- ATOMIC_SWAP_DONE (R448): A 64-bit Swap of a bitmap word returns its old value and the next reads are issued. -/
  | atomicSwapDone (fn : Fin 1028) (slot : BitVec 11) (old : BitVec 64)
  /-- DOORBELL_READ (R445): A doorbell record read returns and is ignored, faults the ring or starts descriptor fetches. -/
  | doorbellRead (fn : Fin 1028) (r : BitVec 16) (record : BitVec 64)
  /-- DESCRIPTOR_FETCH (R450): A batch of descriptors arrives and each is stamped with the fetch time. -/
  | descriptorFetch (fn : Fin 1028) (r : BitVec 16) (ds : List Desc)
  /-- TX_SEG (R451): A TX_SEG descriptor is processed into a frame and its data reads are issued, or the frame fails. -/
  | txSeg (fn : Fin 1028) (r : BitVec 16)
  /-- TX_DATA_READ_DONE (R453): The last data read of a TX frame returns, the frame goes to the Loupe and its completion is written. -/
  | txDataReadDone (fn : Fin 1028) (r : BitVec 16) (data : List Byte) (ok : Bool)
  /-- MOD_TIME_EXPIRE (R464): MOD_TIME elapses since the first unsignalled entry and the vector is signalled. -/
  | modTimeExpire (fn : Fin 1028) (q : BitVec 16)
  /-- RX_BUF (R454): An RX_BUF descriptor posts one receive buffer. -/
  | rxBuf (fn : Fin 1028) (r : BitVec 16)
  /-- RX_DELIVER (R455): A HOST copy at the head of its queue is written into receive buffers, dropped or made to wait. -/
  | rxDeliver (o : Fin 22)
  /-- CQ_RECHECK (R460): Every POLL_MIN, the HQE rereads a FULL completion ring's consumer record. -/
  | cqRecheck (fn : Fin 1028) (q : BitVec 16) (ci : Word)
  /-- CMD (R456): A CMD descriptor is passed to the executor in EXEC mode, or submitted to the Dealer as a HOST item in CORE mode. -/
  | cmd (fn : Fin 1028) (r : BitVec 16) (data : List Byte) (ok : Bool)
  /-- FN_CTRL_WRITE (R443): A write of FN_CTRL.EN creates the admin pair or destroys every ring of the function. -/
  | fnCtrlWrite (path : Path) (fn : Fin 1028) (value : Word)
  /-- FLR (R470): A function-level reset destroys the function's rings and streams and clears its page within 1 ms. -/
  | flr (fn : Fin 1028)
  /-- SNAPSHOT_TAKE (R467): A periodic or requested snapshot time is reached and each unit freezes its copy. -/
  | snapshotTake (k : BitVec 8)
  /-- SNAPSHOT_DELIVER (R468): A snapshot's slot writes complete and its SNAPSHOT completion is written. -/
  | snapshotDeliver (k : BitVec 8)
  /-- RING_CREATE (R462): Create a descriptor ring. -/
  | ringCreate (p : CmdPort) (d : Desc)
  /-- CQ_CREATE (R462): Create a completion ring. -/
  | cqCreate (p : CmdPort) (d : Desc)
  /-- RING_DESTROY (R469): Destroy a descriptor or completion ring. -/
  | ringDestroy (p : CmdPort) (d : Desc)
  /-- VF_CONFIG (R462): Give a VF its ring, vector and classifier-line ranges. -/
  | vfConfig (p : CmdPort) (d : Desc)
  /-- SNAP_CREATE (R466): Create a snapshot stream from a stream descriptor. -/
  | snapCreate (p : CmdPort) (d : Desc) (data : List Byte) (ok : Bool)
  /-- SNAP_REQUEST (R467): Request one snapshot at time T. -/
  | snapRequest (p : CmdPort) (d : Desc)
  /-- SNAP_DESTROY (R462): Destroy a snapshot stream. -/
  | snapDestroy (p : CmdPort) (d : Desc)
  /-- CLS_NODE_WRITE (R162): Check and write up to 256 node, action or template lines. -/
  | clsNodeWrite (p : CmdPort) (d : Desc) (data : List Byte) (ok : Bool)
  /-- CLS_EPOCH_STAGE (R162): Copy and check an epoch descriptor into the staging area. -/
  | clsEpochStage (p : CmdPort) (d : Desc) (data : List Byte) (ok : Bool)
  /-- CLS_EPOCH_COMMIT (R163): Commit the staged epoch at time T into a PENDING slot. -/
  | clsEpochCommit (p : CmdPort) (d : Desc)
  /-- CLS_EPOCH_ABORT (R162): Cancel a PENDING epoch slot. -/
  | clsEpochAbort (p : CmdPort) (d : Desc)
  /-- METER_WRITE (R364): Write a meter entry and fill its buckets. -/
  | meterWrite (p : CmdPort) (d : Desc) (data : List Byte) (ok : Bool)
  /-- LOCK_ACQUIRE (R315): Command acting as TRYLOCK. -/
  | lockAcquire (p : CmdPort) (d : Desc)
  /-- LOCK_RELEASE (R315): Command acting as UNLOCK. -/
  | lockRelease (p : CmdPort) (d : Desc)
  /-- SEM_TAKE (R315): Command acting as a non-blocking SEMP. -/
  | semTake (p : CmdPort) (d : Desc)
  /-- LOCK_FORCE (R311): Command force-releasing a DATA lock. -/
  | lockForce (p : CmdPort) (d : Desc)
  /-- RING_OP (R433): Command carrying a RING_CMD operation. -/
  | ringOp (p : CmdPort) (d : Desc)
  /-- PROFILE_SWITCH (R531): Check and accept a profile switch at time T. -/
  | profileSwitch (p : CmdPort) (d : Desc) (flashOk : Bool)
  /-- PROFILE_CANCEL (R532): Cancel a pending profile switch. -/
  | profileCancel (p : CmdPort) (d : Desc)
  /-- PROFILE_STATUS (R538): Return the active and pending profile and the device state. -/
  | profileStatus (p : CmdPort) (d : Desc)
  /-- NEGATIVE_READ (R517): Copy part of a Negative to the requester. -/
  | negativeRead (p : CmdPort) (d : Desc)
  /-- NEGATIVE_CLEAR (R517): Clear a Negative and reset NEG_VALID. -/
  | negativeClear (p : CmdPort) (d : Desc)
  /-- EVENT_RING_SET (R546): Set or disable a PF event ring. -/
  | eventRingSet (p : CmdPort) (d : Desc)
  /-- EVENT_READ (R538): Copy event records from the log. -/
  | eventRead (p : CmdPort) (d : Desc)
  /-- CSH_ARM (R552): Arm the Contact Sheet with an optional start time. -/
  | cshArm (p : CmdPort) (d : Desc)
  /-- CSH_STOP (R552): Stop the Contact Sheet at once or at time T. -/
  | cshStop (p : CmdPort) (d : Desc)
  /-- CSH_MARK (R549): Write a MARK record. -/
  | cshMark (p : CmdPort) (d : Desc)
  /-- CSH_READ (R553): Copy Contact Sheet records to the requester. -/
  | cshRead (p : CmdPort) (d : Desc)
  /-- DEBUG_MODE (R275): Set THR_DBG_CTRL.MODE of a cluster or of all. -/
  | debugMode (p : CmdPort) (d : Desc)
  /-- THREAD_RESET (R278): End a thread under R278. -/
  | threadReset (p : CmdPort) (d : Desc)
  /-- TRAYS_RECLAIM (R347): Command starting a reclaim scan for a requester ID. -/
  | traysReclaim (p : CmdPort) (d : Desc)
  /-- TAI_SET (R538): Set TAI_OFFSET on a node that is not a follower. -/
  | taiSet (p : CmdPort) (d : Desc)
  /-- REG_READ (R538): Return the value of a BAR0 register. -/
  | regRead (p : CmdPort) (d : Desc)
  /-- REG_WRITE (R587): Write a BAR0 register with board authority. -/
  | regWrite (p : CmdPort) (d : Desc)
  /-- DEVICE_RESET (R538): Complete, then start a warm reset 10 µs later. -/
  | deviceReset (p : CmdPort) (d : Desc)
  /-- IDENTIFY (R538): Return GLB_ID, the firmware VERSION and NODE_ID. -/
  | identify (p : CmdPort) (d : Desc)
  /-- PROFILE_SWITCH_TIME (R532): Fabric time reaches a pending switch's T, applying it in IDLE or entering SWAP in RUN. -/
  | profileSwitchTime
  /-- STOP_BATH_DRAIN_DONE (R200): Every thread is idle and the Dealer's lists are empty. -/
  | stopBathDrainDone
  /-- SWAP_FIXER_EMPTY (R90): The Fixer holds no entry, and the staged state is loaded. -/
  | swapFixerEmpty
  /-- SWAP_COMPLETE (R532): The staged state is loaded, SWAP is left for RUN and held frames are parsed. -/
  | swapComplete
  /-- CSH_START_TIME (R552): The CSH_ARM start time is reached and recording starts. -/
  | cshStartTime
  /-- CSH_STOP_TIME (R552): The CSH_STOP time is reached and recording stops or enters POST. -/
  | cshStopTime
  /-- CSH_RECORD_WRITE (R551): An offered record is written in SEQ order within RATE_CAP, or dropped with a later GAP. -/
  | cshRecordWrite (stall : Bool)
  /-- MCTP_CONTROL (R540): An MCTP control message on I3C0 is answered. -/
  | mctpControl (msg : List Byte)
  /-- PLDM_MESSAGE (R540): A PLDM type 0, 2 or 5 message on I3C0 is served. -/
  | pldmMessage (msg : List Byte)
  /-- PLDM_UPDATE (R543): A PLDM type 5 update writes a firmware slot or profile after verification. -/
  | pldmUpdate (component : BitVec 16) (data : List Byte) (verified : Bool)
  /-- VENDOR_COMMAND (R541): A vendor-defined COMMAND message is executed with board authority and answered. -/
  | vendorCommand (msg : List Byte)
  /-- SENSOR_UPDATE (R542): Every 1 ms, the PLDM numeric sensors are updated. -/
  | sensorUpdate (amps watts : BitVec 16)
  /-- HBM_REQUEST (R502): A request reaches a controller on its port and is queued, or answered poisoned when frozen. -/
  | hbmRequest (c : Fin 4) (port : Fin 8) (req : BitVec 12) (op : BitVec 2) (addr : BitVec 38) (len : BitVec 7) (data : List Byte)
  /-- HBM_COMMAND_ISSUE (R504): A pseudo-channel command slot issues the first eligible candidate. -/
  | hbmCommandIssue (c : Fin 4) (pc : Fin 32)
  /-- HBM_TRUMP (R503): A request's age reaches AGE_LIMIT and it takes urgency 4. -/
  | hbmTrump (c : Fin 4) (k : BitVec 11)
  /-- HBM_READ_RETURN (R508): Read data returns from the stack, is corrected if needed, and is delivered. -/
  | hbmReadReturn (c : Fin 4) (k : BitVec 11) (ecc : Ecc) (onDie : Bool)
  /-- HBM_FREEZE (R511): A cause of R510 freezes a controller, poisons its reads, discards its writes and latches its state. -/
  | hbmFreeze (c : Fin 4) (causes : BitVec 8) (addr : BitVec 38) (port : BitVec 3) (req : BitVec 12) (syndrome : Word) (burst : List Byte) (severity : Byte)
  /-- NEGATIVE_COMPLETE (R515): A frozen controller's Negative is complete and NEG_VALID is set. -/
  | negativeComplete (c : Fin 4)
  /-- HBM_REFRESH (R501): A per-bank refresh falls due and is issued or postponed. -/
  | hbmRefresh (c : Fin 4) (pc : Fin 32)
  /-- HBM_TEMP_READ (R501): Every 1 ms, a controller reads its stack temperature and applies TEMP_HIGH. -/
  | hbmTempRead (c : Fin 4) (t : Byte)
  /-- HBM_DRIFT_CHECK (R500): Every 1 ms, the strobe oscillators run on each pseudo-channel and drift is corrected. -/
  | hbmDriftCheck (c : Fin 4)
  /-- HBM_SCRUB (R509): The patrol scrub reads the next burst through port 6. -/
  | hbmScrub (c : Fin 4) (ecc : Ecc)
  /-- POWER_ON (R559): The rails come up with PORESET_N held low; once VDD_IO is valid the device asserts FAULT_N, holds the ring in Pass and, after a loss of VDD_IO, writes COLD_PIN into RESET_CAUSE. -/
  | powerOn
  /-- BOOT_HEADER_READ (R436): The boot ROM finishes reading the boot header from flash, fixes the PCIe port modes, lets the LTSSMs leave Detect and starts HBM training. -/
  | bootHeaderRead
  /-- TRANSIT_TRAILER (R408): The last block and trailer of a ring frame that is forwarding or waiting in transit arrive; the PCRC is checked, the frame is forwarded as good, stomped with CRC or LENGTH, or forwarded with STOMP_SEEN, the output frame ends and the input pool's credits are freed. -/
  | transitTrailer (p : Fin 4) (data : List Byte)
  /-- EVENT_RING_SIGNAL (R546): The 1 µs hold-off of a PF event ring expires, and its vector is signalled for records copied since the last signal. -/
  | eventRingSignal (pf : Fin 4)
  /-- PCIE_CONFIG_WRITE (R443): A host configuration write, such as AtomicOp Requester Enable in Device Control 2 or VF Enable, changes FN_STATUS.ATOMIC and thus the polling method, or enables or resets VFs. -/
  | pcieConfigWrite (fn : Fin 1028) (cfg : ConfigWrite)
  /-- MSIX_TABLE_WRITE (R464): A host write to a vector's mask in the MSI-X table of BAR2 or VF BAR0 masks the vector, or unmasks it and sends any message that is pending. -/
  | msixTableWrite (fn : Fin 1028) (v : BitVec 11) (masked : Bool)
  deriving DecidableEq, Repr

end Sys2Proof
end

