-- ==== Sys2Proof/Decode.lean ====
section
/-! DEFINITION. The words of the table: no row of this block's table gives bits, so no word spells a command. -/

namespace Sys2Proof

/-- The command that a word of the table spells: none, for every word. -/
def decodeTableWord (_nbits _w : Nat) : Option Instr := none

end Sys2Proof
end

