-- ==== Sys2Proof/Machine/SMap.lean ====
section
/-! DEFINITION. Reading and writing sparse data by key (`SMap`): the one place where the canonical form is decided. -/

namespace Sys2Proof.Machine

/-- The value held at key `k`; `d` is what an unlisted key reads as. -/
def sget {α : Type} (d : α) : SMap α → Nat → α
  | [], _ => d
  | (k', v) :: m, k => if k' = k then v else sget d m k

/-- Store `v` at key `k`, keeping the keys rising and listing no entry equal to `d`. -/
def sput {α : Type} [DecidableEq α] (d : α) : SMap α → Nat → α → SMap α
  | [], k, v => if v = d then [] else [(k, v)]
  | (k', v') :: m, k, v =>
    if k < k' then (if v = d then (k', v') :: m else (k, v) :: (k', v') :: m)
    else if k = k' then (if v = d then m else (k, v) :: m)
    else (k', v') :: sput d m k v

/-- Apply `f` to the value at key `k`. -/
def smod {α : Type} [DecidableEq α] (d : α) (m : SMap α) (k : Nat) (f : α → α) : SMap α :=
  sput d m k (f (sget d m k))

/-- The entry listed at key `k`, if any. -/
def sfind {α : Type} : SMap α → Nat → Option α
  | [], _ => none
  | (k', v) :: m, k => if k' = k then some v else sfind m k

/-- List `v` at key `k`, whatever `v` is. -/
def sins {α : Type} : SMap α → Nat → α → SMap α
  | [], k, v => [(k, v)]
  | (k', v') :: m, k, v =>
    if k < k' then (k, v) :: (k', v') :: m
    else if k = k' then (k, v) :: m
    else (k', v') :: sins m k v

/-- Take the entry at key `k` out. -/
def sdel {α : Type} : SMap α → Nat → SMap α
  | [], _ => []
  | (k', v') :: m, k => if k = k' then m else (k', v') :: sdel m k

/-- Every listed key is above `b`, and keys rise. -/
def srising {α : Type} : Nat → SMap α → Bool
  | _, [] => true
  | b, (k, _) :: m => b < k && srising k m

/-- The keys rise strictly. -/
def sorted {α : Type} : SMap α → Bool
  | [] => true
  | (k, _) :: m => srising k m

/-- The canonical form: keys rise strictly and no entry equals `d`. -/
def swf {α : Type} [DecidableEq α] (d : α) (m : SMap α) : Bool :=
  sorted m && m.all (fun e => decide (e.2 ≠ d))

/-! Lists used as queues. -/

/-- Replace the element at position `i`; positions past the end change nothing. -/
def lset {α : Type} : List α → Nat → α → List α
  | [], _, _ => []
  | _ :: xs, 0, v => v :: xs
  | x :: xs, i + 1, v => x :: lset xs i v

/-- Apply `f` at position `i`. -/
def lmod {α : Type} : List α → Nat → (α → α) → List α
  | [], _, _ => []
  | x :: xs, 0, f => f x :: xs
  | x :: xs, i + 1, f => x :: lmod xs i f

/-- Position of the first element that satisfies `p`. -/
def lpos {α : Type} (p : α → Bool) : List α → Option Nat
  | [] => none
  | x :: xs => if p x then some 0 else (lpos p xs).map (· + 1)

/-- Delete the element at position `i`. -/
def ldrop {α : Type} : List α → Nat → List α
  | [], _ => []
  | _ :: xs, 0 => xs
  | x :: xs, i + 1 => x :: ldrop xs i

end Sys2Proof.Machine
end

