-- ==== Sys2Proof/Config.lean ====
section
/-! DEFINITION. What a part fixes (its ordering variant) and the free values: constants without a body, so that no proof
can rest on a value the manual does not give. -/

namespace Sys2Proof

/-- The ordering variants of R1. -/
inductive Variant where
  | fa | fe | fx | fh
  deriving DecidableEq, Repr

/-- R1, R2: the ring ports are present. -/
def Variant.hasRing : Variant → Bool
  | .fe => false
  | _ => true

/-- R1: the AES-GCM functions are present in every core. -/
def Variant.hasAes : Variant → Bool
  | .fx => false
  | _ => true

/-- R1: the SHA-256 functions are present in every core. -/
def Variant.hasSha : Variant → Bool
  | .fx => false
  | _ => true

/-- R1, R3: HBM stacks present, one bit each. -/
def Variant.hbmStacks : Variant → BitVec 4
  | .fh => 0x3
  | _ => 0xF

/-- R3: stack `k` is present. -/
def Variant.hasStack (v : Variant) (k : Nat) : Bool :=
  v.hbmStacks.toNat.testBit k

/-- A free value: the n-th number that the manual leaves open.  No body: nothing constrains it. -/
opaque Config.free : Nat → Nat

/-- GLB_SERIAL, fused at manufacture (R596). -/
opaque Config.serial : BitVec 64

/-- The ROM words of the Loupe control store, whose contents the manual does not publish (R113, R129). -/
opaque Config.loupeRomWord : Nat → BitVec 128

/-- The ROM jump tables 0–3 of the Loupe (R111, R129), not published. -/
opaque Config.loupeRomTable : Nat → Nat → BitVec 16

/-- Clocks that a part of the Loupe ROM's program takes; the words are not published (R113, R116). -/
opaque Config.loupeRomClocks : Nat → Nat

/-- The command code of an HBM command in the Negative's history; the manual gives none (R515). -/
opaque Config.hbmCommandCode : Nat → BitVec 3

/-- Strobe and equaliser settings of a pseudo-channel in the Negative; the manual gives no values (R515). -/
opaque Config.hbmSettings : Nat → BitVec 448

end Sys2Proof
end

