-- ==== Sys2Proof/Machine/State.lean ====
section
/-! DEFINITION. The state of the AL1640 as plain data: everything the manual gives the device, grouped by the unit that owns it,
with the queue of commands that wait; the reasons a command can stop; and the state after reset. -/

namespace Sys2Proof.Machine

/-! ### Global registers (R585–R600) -/

/-- The GLB block's own state. -/
structure Glb where
  /-- GLB_ERR: 0 UNMAPPED, 1 BAD_ENCODING, 2 BAD_ACCESS, 3 OVERFLOW (R596). -/
  err : BitVec 4
  errAddr : Word
  errAcc : Word
  /-- Pending low parts by 2^26 × path + offset (R594). -/
  pend : SMap Word
  /-- Latched upper parts by 2^26 × path + offset (R595). -/
  latch : SMap Word
  deriving DecidableEq, Repr

def Glb.reset : Glb := { err := 0, errAddr := 0, errAcc := 0, pend := [], latch := [] }
/-! ### Timebase (R53–R69) -/

/-- R63: the synchronisation states, in the order of their codes. -/
inductive SyncState where
  | unsync | acquire | locked | holdover | master | free
  deriving DecidableEq, Repr

/-- R68: TIM_STATUS.SYNC codes. -/
def SyncState.code : SyncState → Nat
  | .unsync => 0 | .acquire => 1 | .locked => 2 | .holdover => 3 | .master => 4 | .free => 5

/-- What a SYNC_A word says (R394). -/
structure Announce where
  prio : Nat
  node : Nat
  masterPrio : Nat
  master : Nat
  hops : Nat
  gen : Nat
  /-- The sender's TIM_STATUS.SYNC. -/
  sync : Nat
  deriving DecidableEq, Repr

/-- The time-sync exchange of one ring port (R60, R394). -/
structure SyncPort where
  /-- SEQ of the next SYNC_T, and the departure of the last one. -/
  txSeq : BitVec 8
  sentAt : Option Time
  /-- SEQ and arrival of the last SYNC_T received. -/
  rx : Option (BitVec 8 × Time)
  /-- The measured offset, neighbour minus this node, and link delay, in 1/16 FTU, corrected by TIM_ASYM. -/
  offset : Option Int
  delay : Int
  heard : Option Announce
  heardAt : Time
  /-- When SYNC_A and SYNC_TAI were last sent. -/
  lastA : Option Time
  lastTai : Option Time
  deriving DecidableEq, Repr

def SyncPort.reset : SyncPort :=
  { txSeq := 0, sentAt := none, rx := none, offset := none, delay := 0, heard := none, heardAt := 0, lastA := none,
    lastTai := none }

structure Tim where
  /-- The counter: FTU with a 32-bit fraction (R53). -/
  count : BitVec 96
  /-- The sub-step of the REFCLK156 cycle that the time bus shows, 0–7 (R53). -/
  sub : BitVec 3
  /-- TIM_INCR in 32.32 format, the increment in force (R53). -/
  incr : BitVec 64
  /-- The last value issued at each timestamp point (R56). -/
  points : SMap Time
  st : SyncState
  /-- The port of the parent (R60). -/
  parent : Option Nat
  /-- In ACQUIRE, the counter has not yet been stepped to the parent's time. -/
  stepDue : Bool
  /-- The tuple of the master followed, or last followed. -/
  master : Option (Nat × Nat)
  hops : Nat
  /-- Consecutive offsets within ±16 FTU in ACQUIRE. -/
  good : Nat
  /-- The last offset measured to the parent, in 1/16 FTU. -/
  offset : Option Int
  taiOffset : BitVec 96
  taiGen : BitVec 16
  ports : List SyncPort
  /-- When the current state was entered. -/
  since : Time
  /-- UNSYNC: since when neither a master nor a lower tuple has been heard. -/
  quiet : Time
  /-- LOCKED: since when the own tuple has been lower than the master's. -/
  lower : Option Time
  /-- The last sync word from the parent. -/
  parentAt : Time
  /-- HOLDOVER was entered from MASTER. -/
  fromMaster : Bool
  /-- The next whole TAI second that PPS_OUT has not signalled, and the rise of the last pulse. -/
  ppsNext : Nat
  ppsRise : Option Time
  deriving DecidableEq, Repr

def Tim.reset : Tim :=
  { count := 0, sub := 0, incr := 0x6666666666, points := [], st := .unsync, parent := none, stepDue := false, master := none,
    hops := 0, good := 0, offset := none, taiOffset := 0, taiGen := 0, ports := List.replicate 4 SyncPort.reset, since := 0,
    quiet := 0, lower := none, parentAt := 0, fromMaster := false, ppsNext := 0, ppsRise := none }



/-! ### Threads, cores and clusters (R204–R302) -/

/-- R251: the states of a thread. -/
inductive ThreadState where
  | idle | run | wait | halt
  deriving DecidableEq, Repr

/-- R251: the STATE code that THR_Tt and the snapshot report. -/
def ThreadState.code : ThreadState → Nat
  | .idle => 0 | .run => 1 | .wait => 2 | .halt => 3

/-- What an allocation load asks for (R330, R333). -/
inductive AllocReq where
  | size (bytes : Nat)
  | pool (p : Nat)
  deriving DecidableEq, Repr

/-- A base-register update that takes effect when the access completes (R229). -/
structure BaseUpdate where
  ab : BitVec 3
  value : Addr
  deriving DecidableEq, Repr

/-- R252: the wait a thread is in, with the operands its completion needs. -/
inductive Wait where
  | none
  | join (rd : BitVec 4)
  | endjoin
  | waitt (rd : BitVec 4)
  | waite (rd : BitVec 4) (mask : BitVec 16)
  | claim (ch : Nat) (word : Nat) (data : Word)
  | send (rd : BitVec 4) (ch : Nat)
  | recv (rd : BitVec 4) (ch : Nat) (dest : Addr)
  | lock (rd : BitVec 4) (lock : Nat)
  | sem (rd : BitVec 4) (sem : Nat)
  | trays (rd : BitVec 4) (req : AllocReq) (offset : Nat) (upd : Option BaseUpdate)
  | submit (rd : BitVec 4) (item : List Word)
  | pktout (rd : BitVec 4) (record : List Byte) (ots : Time)
  deriving DecidableEq, Repr

/-- The access sizes of R229. -/
inductive AccessSize where
  | byte | half | word | eight
  deriving DecidableEq, Repr

/-- R317: the atomic operations. -/
inductive AtomicOp where
  | add | swap | cas (new : Word) | and | or
  deriving DecidableEq, Repr

/-- What a thread that issues nothing is waiting to have written (R206, R257, R303, R319). -/
inductive Outstanding where
  /-- A far load: destination register field, size, sign extension, whether the destination is an A register, the
  effective address and the base update. -/
  | load (rt : BitVec 4) (size : AccessSize) (signed : Bool) (ea : Addr) (upd : Option BaseUpdate)
  /-- An atomic operation on its way to the target memory. -/
  | atomic (rd : BitVec 4) (op : AtomicOp) (operand : Word) (ea : Addr)
  /-- A status word, or an allocation's value, on its way to D[rd]. -/
  | status (rd : BitVec 4) (value : Word) (upd : Option BaseUpdate)
  deriving DecidableEq, Repr

/-- A hardware thread (R214–R221, R251–R256). -/
structure Thread where
  state : ThreadState
  wait : Wait
  /-- D1–D15 by number; D0 is never listed (R217). -/
  d : SMap Word
  /-- A0–A7 by number (R216). -/
  a : SMap Addr
  acc0 : Acc
  acc1 : Acc
  pc : Addr
  tsr : Word
  /-- NOW_HI as latched (R221). -/
  nowHi : Word
  epcS : Addr
  ecauseS : Word
  einfoS : Addr
  vbarS : Addr
  epcM : Addr
  ecauseM : Word
  einfoM : Addr
  vbarM : Addr
  /-- The committed timer compare (R256). -/
  tcmp : Time
  /-- TCMP_LO as last written, until TCMP_HI commits (R256). -/
  tcmpLo : Option Word
  arm : Bool
  evpend : BitVec 16
  evirq : BitVec 17
  /-- WSTAT: [3:0] status, [8:4] channel, [9] VALID (R256, R272). -/
  wstat : BitVec 10
  parent : Option Nat
  children : Nat
  /-- The work item the thread was dispatched with (W0–W15), none for a forked thread. -/
  item : Option (List Word)
  /-- The 4-entry return stack, newest first (R207). -/
  retStack : List Addr
  /-- An access or a status word that has not returned yet. -/
  outstanding : Option Outstanding
  /-- The jump or branch that last changed the PC, for EINFO of FETCH_FAULT (R246). -/
  jumpFrom : Option Addr
  /-- A pending MACHINE_CHECK with its EINFO (R213, R246). -/
  irqCheck : Option Addr
  /-- A pending DEBUG with its EINFO (R279). -/
  irqDebug : Option Addr
  /-- A pending CX_LATE with its EINFO (R299). -/
  irqCxLate : Option Addr
  /-- A halt request that waits for the instruction boundary (R276). -/
  haltReq : Bool
  /-- A STEP request whose instruction has not completed (R276). -/
  stepArmed : Bool
  deriving DecidableEq, Repr

/-- R214, R251, R253: a cleared thread. -/
def Thread.cleared : Thread :=
  { state := .idle, wait := .none, d := [], a := [], acc0 := 0, acc1 := 0, pc := 0, tsr := 0, nowHi := 0,
    epcS := 0, ecauseS := 0, einfoS := 0, vbarS := 0, epcM := 0, ecauseM := 0, einfoM := 0, vbarM := 0,
    tcmp := 0, tcmpLo := none, arm := false, evpend := 0, evirq := 0, wstat := 0, parent := none, children := 0,
    item := none, retStack := [], outstanding := none, jumpFrom := none, irqCheck := none, irqDebug := none,
    irqCxLate := none, haltReq := false, stepArmed := false }

/-- R273: channel states, in the order of their codes. -/
inductive ChanState where
  | free | filling | held | full | sending | acked
  deriving DecidableEq, Repr

/-- R273: THR_CHc.STATE codes. -/
def ChanState.code : ChanState → Nat
  | .free => 0 | .filling => 1 | .held => 2 | .full => 3 | .sending => 4 | .acked => 5

/-- A message channel (R267). -/
structure Channel where
  st : ChanState
  /-- Thread ID of the owner; meaningful while the channel is not FREE. -/
  owner : Nat
  n : Nat
  /-- Words by index; an unlisted word is 0. -/
  words : SMap Word
  /-- Highest word index written plus one, 0 when none (R270). -/
  top : Nat
  /-- Waiters of each kind in the order their waits began (R267). -/
  claimers : List Nat
  receivers : List Nat
  deriving DecidableEq, Repr

/-- A FREE channel. -/
def Channel.empty : Channel :=
  { st := .free, owner := 0, n := 0, words := [], top := 0, claimers := [], receivers := [] }

/-- A core's CX_LOG entry (R301, R302). -/
structure CxLog where
  valid : Bool
  overflow : Bool
  cxf : BitVec 6
  thread : BitVec 10
  pc : BitVec 17
  time : Time
  deriving DecidableEq, Repr

/-- An empty CX_LOG entry. -/
def CxLog.empty : CxLog :=
  { valid := false, overflow := false, cxf := 0, thread := 0, pc := 0, time := 0 }

/-- A posted event on its way to its target (R263). -/
structure PostMsg where
  poster : Nat
  target : Nat
  event : Nat
  deriving DecidableEq, Repr

/-- Deadlock detector and debug unit of one cluster (R275–R286). -/
structure Cluster where
  /-- Fabric time since which the conditions of R282 have held; none while they do not. -/
  dlSince : Option Time
  dbgResult : BitVec 4
  /-- THR_DL_SNAP, 608 bytes by offset. -/
  snap : SMap Byte
  deriving DecidableEq, Repr

/-- A cluster after reset. -/
def Cluster.empty : Cluster := { dlSince := none, dbgResult := 0, snap := [] }

/-- Everything the core array holds. -/
structure Cores where
  /-- Threads by thread ID; an unlisted thread is cleared. -/
  threads : SMap Thread
  /-- Channels by 32 × cluster + number; cluster 16 is the management core's. -/
  chans : SMap Channel
  clusters : SMap Cluster
  /-- CXEN by core number 0–128; an unlisted core holds the reset value 0x003F_0000 (R296). -/
  cxen : SMap Word
  /-- CX_LOG entries by core number. -/
  cxlog : SMap CxLog
  /-- Two-bit branch counters by 1,024 × core + PC[11:2]; an unlisted counter is 0b01 (R207). -/
  bht : SMap (BitVec 2)
  /-- Events posted and not yet arrived, oldest first (R263). -/
  posts : List PostMsg
  deriving DecidableEq, Repr

/-- The core array after reset (R253, R273). -/
def Cores.reset : Cores :=
  { threads := [], chans := [], clusters := [], cxen := [], cxlog := [], bht := [], posts := [] }

/-- The addressed memories (R209).  Keys are byte offsets; unlisted bytes read 0. -/
structure Mems where
  /-- Instruction stores: 0x2_0000 × cluster + offset. -/
  istore : SMap Byte
  /-- Data scratch: 0x1_0000 × core + offset. -/
  scratch : SMap Byte
  /-- Shared SRAM: 0x20_0000 × cluster + offset. -/
  shared : SMap Byte
  /-- Management SRAM. -/
  mgmt : SMap Byte
  /-- Packet buffer SRAM. -/
  pkt : SMap Byte
  /-- HBM contents by HBM address. -/
  hbm : SMap Byte
  /-- SPI flash; unlisted bytes read 0xFF, as erased flash does. -/
  flash : SMap Byte
  /-- Host memory, as the device's DMA reads and writes it, by address. -/
  host : SMap Byte
  deriving DecidableEq, Repr

/-- Memories with nothing written. -/
def Mems.empty : Mems :=
  { istore := [], scratch := [], shared := [], mgmt := [], pkt := [], hbm := [], flash := [], host := [] }

/-! ### Lock unit (R303–R325) -/

/-- Why a wait was withdrawn before its unit has heard of it (R313, R314, R338, R339). -/
inductive Withdrawal where
  | none | timeout | deadlock | interrupt
  deriving DecidableEq, Repr

/-- A request that waits in the lock unit. -/
structure LckWaiter where
  req : Nat
  /-- Arrival at the lock unit, for its age (R308). -/
  since : Time
  trumped : Bool
  wd : Withdrawal
  deriving DecidableEq, Repr

/-- A held lock (R321); a free lock is not listed. -/
structure LockSt where
  holder : Nat
  /-- Oldest request first. -/
  waiters : List LckWaiter
  deriving DecidableEq, Repr

/-- A semaphore (R303). -/
structure SemSt where
  count : BitVec 16
  waiters : List LckWaiter
  deriving DecidableEq, Repr

/-- A semaphore with count 0 and no waiter. -/
def SemSt.empty : SemSt := { count := 0, waiters := [] }

/-- A record of a forced release (R311, R323). -/
structure FlogEntry where
  time : Time
  lock : Nat
  forcer : Nat
  holder : Nat
  deriving DecidableEq, Repr

/-- The record an unwritten ring entry reads as. -/
def FlogEntry.empty : FlogEntry := { time := 0, lock := 0, forcer := 0, holder := 0 }

structure Lck where
  locks : SMap LockSt
  sems : SMap SemSt
  /-- Unclaimed semaphore grants: requester, semaphore (R314). -/
  unclaimed : List (Nat × Nat)
  flog : SMap FlogEntry
  flogIdx : Nat
  forceResult : Nat
  /-- The INH level last signalled for each thread (R309). -/
  signalled : SMap (Option Nat)
  deriving DecidableEq, Repr

def Lck.reset : Lck :=
  { locks := [], sems := [], unclaimed := [], flog := [], flogIdx := 0, forceResult := 0, signalled := [] }

/-! ### Trays (R326–R351) -/

/-- The geometry of a pool (R326), as the profile set it at boot. -/
structure Pool where
  en : Bool
  hbm : Bool
  fit : Bool
  /-- SIZE is 64 × 2^code bytes. -/
  code : Nat
  count : Nat
  base : Nat
  deriving DecidableEq, Repr

/-- A pool before any profile has been applied. -/
def Pool.off : Pool := { en := false, hbm := false, fit := false, code := 0, count := 0, base := 0 }

/-- R346: the state of a buffer that is not FREE. -/
inductive BufSt where
  /-- A head with its named owners and the other buffers of its chain in order. -/
  | alloc (owners : List Nat) (chain : List Nat)
  | cont (head : Nat)
  | lost
  deriving DecidableEq, Repr

/-- The free buffers of a pool in the order in which they are handed out: `front`, then the indices from `fresh` up that
were never handed out, then `back` (R333). -/
structure FreeList where
  front : List Nat
  fresh : Nat
  back : List Nat
  deriving DecidableEq, Repr

def FreeList.boot : FreeList := { front := [], fresh := 0, back := [] }

/-- A blocking allocation that waits (R337, R338). -/
structure TryWaiter where
  req : Nat
  ask : AllocReq
  /-- The portal offset of the load, which an unclaimed grant answers again (R339). -/
  offset : Nat
  since : Time
  reported : Bool
  wd : Withdrawal
  deriving DecidableEq, Repr

/-- An error record of R345. -/
structure ElogEntry where
  time : Time
  handle : Nat
  req : Nat
  op : Nat
  reason : Nat
  deriving DecidableEq, Repr

def ElogEntry.empty : ElogEntry := { time := 0, handle := 0, req := 0, op := 0, reason := 0 }

structure Trays where
  pools : List Pool
  free : List FreeList
  /-- Buffers that are not FREE, by handle. -/
  bufs : SMap BufSt
  waiters : List TryWaiter
  /-- Unclaimed grants by requester: handle and portal offset (R339). -/
  unclaimed : SMap (Nat × Nat)
  elog : SMap ElogEntry
  elogIdx : Nat
  /-- The requester ID of the reclaim scan in progress (R347). -/
  reclaim : Option Nat
  reclaimResult : Nat
  deriving DecidableEq, Repr

def Trays.reset : Trays :=
  { pools := List.replicate 8 Pool.off, free := List.replicate 8 FreeList.boot, bufs := [], waiters := [],
    unclaimed := [], elog := [], elogIdx := 0, reclaim := none, reclaimResult := 0 }

/-! ### Dealer (R173–R203) -/

/-- The attachment record of a packet item (R175): key buffer, header stack, proposed outputs. -/
structure Attach where
  /-- 128 bytes by offset (R103). -/
  key : SMap Byte
  stack : List (BitVec 16)
  outs : List (BitVec 64)
  deriving DecidableEq, Repr

def Attach.empty : Attach := { key := [], stack := [], outs := [] }

/-- A work item the Dealer holds: W0–W15, the attachment of a packet kind, its entry time, whether it stays in the store of
the slow-path list (R185), and whether its lateness has been counted (R193). -/
structure DlrItem where
  w : List Word
  att : Attach
  since : Time
  slow : Bool
  late : Bool
  /-- Its place in the order in which items entered the lists (R185). -/
  seq : Nat
  deriving DecidableEq, Repr

/-- DLR_TPRIt (R197, R201). -/
structure ThreadPrio where
  busy : Bool
  base : Nat
  inh : Option Nat
  deriving DecidableEq, Repr

def ThreadPrio.none : ThreadPrio := { busy := false, base := 0, inh := .none }

structure Dlr where
  /-- Ready lists by 16 × group + priority, oldest first. -/
  ready : SMap (List DlrItem)
  /-- Trump lists by group, in enqueue order; slow-path items among them are marked. -/
  trump : SMap (List DlrItem)
  slow : List DlrItem
  /-- Delay lists by group, sorted by due time. -/
  delay : SMap (List DlrItem)
  stop : BitVec 16
  /-- Core served last, by group (R180). -/
  lastCore : SMap Nat
  /-- Group served last (R182). -/
  lastGroup : Nat
  /-- Dispatches since the last trumped one, by group (R184). -/
  share : SMap Nat
  /-- Work items sent and not yet arrived, oldest first. -/
  inbox : List DlrItem
  tpri : SMap ThreadPrio
  /-- INH signals sent by the lock unit and not yet applied: thread, level (R198). -/
  inhBox : List (Nat × Option Nat)
  /-- The place the next entry takes. -/
  nextSeq : Nat
  /-- The last tick boundary served (R192). -/
  lastTick : Time
  deriving DecidableEq, Repr

def Dlr.reset : Dlr :=
  { ready := [], trump := [], slow := [], delay := [], stop := 0, lastCore := [], lastGroup := 15, share := [],
    inbox := [], tpri := [], inhBox := [], nextSeq := 0, lastTick := 0 }

/-! ### Fixer (R70–R95) -/

/-- R89: the states of an entry that is not FREE. -/
inductive FixState where
  | inflight | ready | tomb
  deriving DecidableEq, Repr

/-- Why an entry became a tombstone while its thread still runs (R82, R83, R89). -/
inductive TombReason where
  | none | holdExpired | ttl | ecc
  deriving DecidableEq, Repr

/-- A Fixer entry (R75). -/
structure FixEntry where
  ots : Time
  /-- The ordering-domain key; meaningful once `keyed`. -/
  key : BitVec 24
  /-- The key has been delivered (R165). -/
  keyed : Bool
  node : BitVec 14
  /-- Source port at the source node (R43). -/
  sport : BitVec 5
  /-- Ingress port number at this node (R58). -/
  port : BitVec 5
  eslot : Nat
  epoch : BitVec 16
  st : FixState
  reason : TombReason
  late : Bool
  bypassed : Bool
  spill : Bool
  readyAt : Time
  handle : Word
  len : Nat
  outs : List (BitVec 64)
  klass : BitVec 3
  colour : BitVec 2
  clamped : Bool
  /-- A terminating ring frame (R83). -/
  ring : Bool
  /-- A ring frame below the last watermark received on its link (R86). -/
  viol : Bool
  /-- REASON of the DROP verdict that made the tombstone, for the Contact Sheet (R549). -/
  dropReason : Nat
  deriving DecidableEq, Repr

/-- An ordering domain that holds a table slot, or the spill domain of a profile (R74, R77, R81). -/
structure FixDomain where
  /-- Highest origin timestamp released; none before the first release. -/
  floor : Option Time
  deriving DecidableEq, Repr

/-- An epoch slot (R88, R167): FREE when neither LIVE nor PENDING. -/
structure FixSlot where
  number : BitVec 16
  live : Bool
  current : Bool
  pending : Bool
  /-- Commit time. -/
  commit : Time
  refs : Nat
  deriving DecidableEq, Repr

def FixSlot.empty : FixSlot := { number := 0, live := false, current := false, pending := false, commit := 0, refs := 0 }

/-- A thread's completion report on its way to the Fixer (R89, R260). -/
structure FixReport where
  entry : Nat
  /-- The handle with which the packet was dispatched. -/
  orig : Nat
  handle : Word
  len : Nat
  outs : List (BitVec 64)
  deriving DecidableEq, Repr

/-- A released packet on its way to the switch core (R78, R357). -/
structure Release where
  handle : Word
  len : Nat
  outs : List (BitVec 64)
  klass : BitVec 3
  colour : BitVec 2
  late : Bool
  ots : Time
  key : BitVec 24
  node : BitVec 14
  sport : BitVec 5
  port : BitVec 5
  epoch : BitVec 16
  ring : Bool
  deriving DecidableEq, Repr

structure Fix where
  entries : SMap FixEntry
  /-- Domains that hold a table slot, by key. -/
  domains : SMap FixDomain
  /-- Spill domains by domain profile: the released timestamps with their release times, newest first, for the floor of
  R77. -/
  spills : SMap (List (Time × Time))
  slots : List FixSlot
  /-- Epoch slots that still hold the extra reference of R41, with the time at which it is released. -/
  superseded : SMap Time
  reports : List FixReport
  /-- Packets whose entry became a tombstone while a thread still worked on them, by handle, with the reason (R82, R83). -/
  owed : SMap TombReason
  deriving DecidableEq, Repr

def Fix.reset : Fix :=
  { entries := [], domains := [], spills := [], slots := List.replicate 4 FixSlot.empty, superseded := [],
    reports := [], owed := [] }
/-! ### Loupe (R96–R130) -/

/-- The ROM's published program, cut where it calls a hook or hands on to a part of it (R113, R115, R116). -/
inductive RomPos where
  | eth | mpls | ipv4 | ipv6
  /-- Dispatch on an IP protocol or next header; the flag says that an IPv6 extension header went before. -/
  | proto (p : Nat) (later : Bool)
  | udp | udpPayload | tcp | icmp (v6 : Bool) | gre | esp | ah | ext (nh : Nat)
  | vxlan | geneve
  /-- After the hook calls. -/
  | afterEtype | afterProto | afterUdp | afterTcp | afterMpls | afterEsp
  | afterInner (cls : Nat)
  /-- About to write PARSED `code`: first H_FINAL is called, then the outcome is written. -/
  | beforeFinal (code : Nat)
  | writeParsed (code : Nat)
  deriving DecidableEq, Repr

/-- Where an engine is: at a control-store word, or inside the ROM's published program. -/
inductive LoupePc where
  | word (a : Nat)
  | rom (p : RomPos)
  deriving DecidableEq, Repr

/-- A parse engine with a frame (R102). -/
structure Engine where
  h : Nat
  /-- Source index (R96). -/
  src : Nat
  recirc : Bool
  pc : LoupePc
  base : Nat
  limit : Nat
  frameLen : Nat
  stack : List (BitVec 16)
  micro : List LoupePc
  /-- The key buffer: 128 bytes by offset (R103). -/
  key : SMap Byte
  clocks : Nat
  /-- {OUT, REASON} once the program has ended (R119). -/
  out : Option Nat
  deriving DecidableEq, Repr

structure Loupe where
  /-- Frames that wait, by 32 × pipeline + source, oldest first. -/
  waiting : SMap (List Nat)
  /-- Source served last, by pipeline. -/
  last : SMap Nat
  /-- The last contested clocks of each pipeline, newest first: true when recirculation was served (R97). -/
  contested : SMap (List Bool)
  /-- Busy engines of each pipeline in intake order. -/
  engines : SMap (List Engine)
  /-- Customer words by address; an unlisted word is the trap word (R114). -/
  store : SMap (BitVec 128)
  /-- Jump tables 4–15 by 256 × table + entry (R111). -/
  jump : SMap (BitVec 16)
  loaded : Bool
  csUe : Bool
  csErr : Nat
  csCe : Nat
  deriving DecidableEq, Repr

/-- R114: the trap word. -/
def trapWord : BitVec 128 := 0x001E8000

def Loupe.reset : Loupe :=
  { waiting := [], last := [], contested := [], engines := [], store := [], jump := [], loaded := false, csUe := false,
    csErr := 0, csCe := 0 }

/-! ### Classifier (R131–R172) -/

/-- A parse result (R119, R123). -/
structure ParseResult where
  h : Nat
  src : Nat
  recirc : Bool
  pipe : Nat
  /-- Outcome class (R119). -/
  cls : Nat
  key : SMap Byte
  stack : List (BitVec 16)
  base : Nat
  frameLen : Nat
  deriving DecidableEq, Repr

/-- A colour step of an action list, in entry order (R157). -/
inductive ColourOp where
  | meter (aware : Bool) (idx : Nat)
  | set (c : Nat)
  deriving DecidableEq, Repr

/-- What follows the METER operations of a list (R158). -/
inductive AfterMeters where
  /-- The packet has been dropped. -/
  | gone
  | recirc
  | item
  deriving DecidableEq, Repr

/-- Where a walk context is. -/
inductive ClsPhase where
  /-- Delivered by the Loupe, not yet accepted. -/
  | arrived
  /-- At a node of a tree, with the reads made (R145). -/
  | walk (tree : Nat) (node : Nat) (reads : Nat)
  /-- At an action list: CSTAT, RULE_ID, the DISPATCH word that applies by default. -/
  | list (line : Nat) (status : Nat) (rule : Word) (dispatch : Word)
  /-- METER operations outstanding; what follows when they are done. -/
  | meters (ops : List ColourOp) (next : AfterMeters)
  /-- The work item is ready for the Dealer. -/
  | done
  deriving DecidableEq, Repr

structure ClsCtx where
  r : ParseResult
  phase : ClsPhase
  /-- Fixer entry. -/
  entry : Nat
  slot : Nat
  clamped : Bool
  pass : Nat
  colour : Nat
  meterLen : Nat
  item : List Word
  att : Attach
  deriving DecidableEq, Repr

structure Cls where
  /-- Contexts in use by lane, in the order of acceptance. -/
  lanes : SMap (List ClsCtx)
  /-- The tree-top cache: lines 0–131,071 by byte (R148). -/
  cache : SMap Byte
  /-- Epoch descriptors of the slots: 2,048 × slot + byte (R161). -/
  descs : SMap Byte
  staged : Option (SMap Byte)
  cacheUe : Bool
  deriving DecidableEq, Repr

def Cls.reset : Cls := { lanes := [], cache := [], descs := [], staged := none, cacheUe := false }

/-! ### Packets in the packet path and the switch core (R352–R388) -/

/-- A packet in the packet path, by the handle of its head buffer, from admission to the return of its chain. -/
structure Pkt where
  /-- Source index of R96: 0–15 Ethernet, 16 and 17 host, 18–21 ring. -/
  input : Nat
  /-- Ingress priority (R352). -/
  prio : Nat
  /-- Bytes still held in ingress accounting (R353). -/
  counted : Nat
  len : Nat
  /-- Origin timestamp. -/
  ots : Time
  /-- Arrival at this node: ingress timestamp, or the arrival of a ring frame's header (R57). -/
  arrival : Time
  node : BitVec 14
  /-- Source port number at the source node (R58). -/
  sport : BitVec 5
  /-- Ingress port number at this node (R58). -/
  port : BitVec 5
  /-- A terminating ring frame. -/
  ring : Bool
  /-- It was below the last watermark received on its link (R86). -/
  viol : Bool
  /-- Key carried in the ring header (R72). -/
  key : BitVec 24
  /-- Class and colour carried in the ring header. -/
  klass : BitVec 3
  colour : BitVec 2
  /-- The transmit function and ring of a host frame. -/
  fn : Nat
  hring : Nat
  /-- Admitted and its key not yet delivered: it holds the admission floor (R78, R165). -/
  floor : Bool
  /-- Held by a Stop Bath (R533). -/
  held : Bool
  /-- It arrived with RESENT = 1 (R422). -/
  resent : Bool
  /-- The Loupe pipeline of its first pass (R96), its pass count (R169), and the slot, clamp and entry of its pin (R164, R168). -/
  pipe : Nat
  pass : Nat
  slot : Nat
  clamped : Bool
  entry : Nat
  /-- The header stack as the classifier left it (R157). -/
  stack : List (BitVec 16)
  deriving DecidableEq, Repr

/-- The record that no packet has. -/
def Pkt.none : Pkt :=
  { input := 0, prio := 0, counted := 0, len := 0, ots := 0, arrival := 0, node := 0, sport := 0, port := 0,
    ring := false, viol := false, key := 0, klass := 0, colour := 0, fn := 0, hring := 0, floor := false, held := false, resent := false, pipe := 0,
    pass := 0, slot := 0, clamped := false, entry := 0, stack := [] }

/-- A copy on a queue, in transmission or in delivery (R359). -/
structure SwtCopy where
  /-- The release it belongs to. -/
  rel : Nat
  /-- Its output (R177). -/
  out : BitVec 64
  /-- Copy length (R359). -/
  len : Nat
  /-- Enqueue time (R380). -/
  since : Time
  /-- A CE mark (R373). -/
  ce : Bool
  /-- Its buffer read failed in transmission (R512). -/
  bad : Bool
  /-- The route fixed at enqueue (R409, R410): ORDER, XDIR, YDIR. -/
  route : Bool × Bool × Bool
  /-- The queue it was put on. -/
  queue : Nat
  deriving DecidableEq, Repr

/-- A queue (R361, R369, R370, R378). -/
structure SwtQueue where
  frames : List SwtCopy
  /-- Depth in bytes. -/
  depth : Nat
  /-- AVG in 1/256 KiB. -/
  avg : Nat
  trumped : Bool
  deriving DecidableEq, Repr

def SwtQueue.empty : SwtQueue := { frames := [], depth := 0, avg := 0, trumped := false }

/-- The scheduler's own state of one node: token buckets and round-robin places (R376, R377). -/
structure SwtNode where
  /-- Tokens in 1/1024 byte, as of `since`; none before the first use, when both buckets are full. -/
  minTok : Int
  maxTok : Int
  since : Option Time
  deficit : Nat
  /-- As a parent: the child served last under each rule, and selections since the last trumped one. -/
  lastTrump : Nat
  lastMin : Nat
  lastAll : Nat
  phase : Nat
  deriving DecidableEq, Repr

def SwtNode.fresh : SwtNode :=
  { minTok := 0, maxTok := 0, since := none, deficit := 0, lastTrump := 0, lastMin := 0, lastAll := 0, phase := 0 }

/-- R381: the hold state of an Ethernet output. -/
inductive HoldState where
  | up | hold | down
  deriving DecidableEq, Repr

def HoldState.code : HoldState → Nat
  | .up => 0 | .hold => 1 | .down => 2

/-- An output: hold state, start of the hold, and the copy in transmission or delivery. -/
structure SwtOut where
  st : HoldState
  holdSince : Time
  tx : Option SwtCopy
  /-- When the frame in transmission started. -/
  start : Time
  deriving DecidableEq, Repr

/-- R381: an Ethernet output after reset is DOWN. -/
def SwtOut.reset : SwtOut := { st := .down, holdSince := 0, tx := none, start := 0 }

/-- A released packet whose copies are not all done. -/
structure RelState where
  r : Release
  /-- Outputs not yet enqueued or dropped. -/
  todo : List (BitVec 64)
  /-- Copies queued, in transmission or in delivery. -/
  live : Nat
  deriving DecidableEq, Repr

structure Swt where
  /-- Ingress occupancy in bytes by 8 × input + priority (R353). -/
  occ : SMap Nat
  /-- XOFF asserted, by 8 × input + priority (R355). -/
  xoff : SMap Bool
  /-- Releases on their way or in progress, by release number, and the next number. -/
  rels : SMap RelState
  nextRel : Nat
  queues : SMap SwtQueue
  /-- Scheduler state by 2^16 × level + index: level 0 outputs, 1 groups, 2 subgroups, 3 queues. -/
  nodes : SMap SwtNode
  outs : SMap SwtOut
  /-- Per-queue packet and byte counts of enqueues, transmissions and drops (R388), by 8 × queue + kind. -/
  qcounts : SMap Nat
  /-- The random source of R371. -/
  lfsr : BitVec 32
  deriving DecidableEq, Repr

/-- R371, R381: the switch core after reset. -/
def Swt.reset : Swt :=
  { occ := [], xoff := [], rels := [], nextRel := 0, queues := [], nodes := [], outs := [], qcounts := [],
    lfsr := 0xACE10001 }

/-! ### Ring (R388–R435) -/

/-- R430: the states of a port's link, in the order of their codes. -/
inductive LinkState where
  | down | train | hello | up | hold
  deriving DecidableEq, Repr

def LinkState.code : LinkState → Nat
  | .down => 0 | .train => 1 | .hello => 2 | .up => 3 | .hold => 4

/-- R429: the states of a bypass die, in the order of their codes. -/
inductive BypState where
  | pass | join | play | leave
  deriving DecidableEq, Repr

def BypState.code : BypState → Nat
  | .pass => 0 | .join => 1 | .play => 2 | .leave => 3

/-- A ring frame held by the node. -/
structure RFrame where
  /-- The header as it will be sent. -/
  hdr : BitVec 128
  /-- Full origin timestamp (R402). -/
  ots : Time
  /-- Input port 0–3, or 4 for a frame of this node. -/
  inp : Nat
  /-- Output port. -/
  out : Nat
  /-- Blocks of the frame, its SOF included. -/
  blocks : Nat
  /-- The pool it holds in this node's input buffer (R398). -/
  inPool : Nat
  payload : List Byte
  /-- The 8-byte trailer, once it is known. -/
  trailer : Option (List Byte)
  resent : Bool
  deriving DecidableEq, Repr

/-- What becomes of the frame that an input receives (R405). -/
inductive RxFate where
  /-- Discarded at its SOF. -/
  | discard
  /-- Terminates here. -/
  | terminate
  /-- Waits whole in the input buffer for an output. -/
  | wait
  /-- Cuts through to an output. -/
  | forward
  /-- Its output frame has already been ended with a stomped trailer. -/
  | stomped
  deriving DecidableEq, Repr

/-- The frame in progress on an input. -/
structure RxFrame where
  f : RFrame
  fate : RxFate
  /-- Below the last watermark received on the link (R86). -/
  viol : Bool
  arrival : Time
  /-- Sequence number of the SOF. -/
  seq : BitVec 16
  /-- The input stalls since this time, when it does. -/
  stall : Option Time
  deriving DecidableEq, Repr

/-- A frame in a retry buffer: the sequence number of its SOF. -/
structure RetryFrame where
  seq : BitVec 16
  f : RFrame
  deriving DecidableEq, Repr

/-- What an output is sending. -/
inductive Sending where
  /-- A frame of this node. -/
  | own
  /-- A frame that cuts through from an input. -/
  | transit (inp : Nat)
  deriving DecidableEq, Repr

/-- A HELLO as received (R394). -/
structure HelloInfo where
  node : Nat
  port : Nat
  joining : Bool
  oldValid : Bool
  oldPeer : Nat
  rxNextOld : BitVec 16
  deriving DecidableEq, Repr

structure RingPort where
  link : LinkState
  /-- The input counts toward the watermark test (R79). -/
  counted : Bool
  /-- The link has been declared DOWN while the dimension stays in Play (R413, R415). -/
  dead : Bool
  /-- When the current training or HELLO began, or the REFUSE that ended it. -/
  since : Time
  refused : Bool
  /-- The HOLD timer. -/
  hold : Option Time
  /-- Peer as HELLO gave it, and the peer of the link before. -/
  peer : Option Nat
  oldPeer : Option Nat
  hello : Option HelloInfo
  helloSent : Option Time
  /-- RESUME as received: FOR, RX_NEXT, VALID. -/
  resumed : Option (Nat × BitVec 16 × Bool)
  refSent : Nat
  refRecv : Nat
  /-- LEAVE has been received: no further SOF is sent. -/
  peerLeaves : Bool
  leaveAcked : Bool
  /-- Receive side: next sequence expected, waiting for a replay, time of the last NAK, uncorrectable codewords in a row,
  sequenced blocks since the last ACK. -/
  exp : BitVec 16
  discarding : Bool
  nakAt : Time
  uncorr : Nat
  unacked : Nat
  rx : Option RxFrame
  /-- The watermark last received (R85). -/
  wmRx : Time
  /-- Blocks freed by pool since UP (R394). -/
  freed : SMap Nat
  creditAt : Time
  /-- Terminating frames that wait for XOFF to fall (R419). -/
  heldBack : List RxFrame
  /-- RX_NEXT_OLD for the next HELLO (R397). -/
  rxNextOld : BitVec 16
  /-- Transmit side: next sequence number, retry buffer, acknowledged number, NAKs without progress. -/
  seq : BitVec 16
  retry : List RetryFrame
  acked : BitVec 16
  naks : Nat
  sending : Option Sending
  /-- The frame that SWT offers. -/
  offer : Option RFrame
  /-- Credits held by pool, and the freed counts last received. -/
  credit : SMap Nat
  seen : SMap Nat
  /-- The watermark last sent, and when an IDLE or CREDIT word last carried it. -/
  wmTx : Time
  wmAt : Time
  /-- R415: a break notice received on this port: its index, and when it last arrived. -/
  broken : Option (Nat × Time)
  deriving DecidableEq, Repr

def RingPort.reset : RingPort :=
  { link := .down, counted := false, dead := false, since := 0, refused := false, hold := none, peer := none, oldPeer := none,
    hello := none, helloSent := none, resumed := none, refSent := 0, refRecv := 0, peerLeaves := false, leaveAcked := false,
    exp := 0, discarding := false, nakAt := 0, uncorr := 0, unacked := 0, rx := none, wmRx := 0, freed := [], creditAt := 0,
    heldBack := [], rxNextOld := 0, seq := 0, retry := [], acked := 0, naks := 0, sending := none, offer := none, credit := [],
    seen := [], wmTx := 0, wmAt := 0, broken := none }

/-- The bypass die of a dimension (R423, R429). -/
structure Bypass where
  st : BypState
  /-- The die connects the ring to the device. -/
  inPlay : Bool
  /-- The position the die is moving to: true for Play. -/
  moving : Option Bool
  /-- When the splice or the leave began. -/
  since : Time
  /-- Actuations, held in the die. -/
  count : Nat
  /-- RING_WEAR has been raised. -/
  wear : Bool
  deriving DecidableEq, Repr

def Bypass.new : Bypass := { st := .pass, inPlay := false, moving := none, since := 0, count := 0, wear := false }

/-- CTRL frames to one source (R420): when the last one went, the discards since, and the one to report. -/
structure CtrlGap where
  sent : Time
  count : Nat
  report : Option (Nat × Nat × RFrame)
  deriving DecidableEq, Repr

structure Ring where
  ports : List RingPort
  dims : List Bypass
  cmdResult : Nat
  /-- Transit frames and frames of RING itself that wait for an output, in arrival order. -/
  waits : List RFrame
  /-- R417: DEST, ORDER forced, time of entry; oldest first. -/
  avoid : List (Nat × Bool × Time)
  /-- ORDER last fixed at origination, by DEST. -/
  lastOrder : SMap Bool
  gaps : SMap CtrlGap
  /-- MGMT answers on their way out: destination node and payload (R544). -/
  answers : List (Nat × List Byte)
  /-- Last SEQ and its kept answer, by fabric manager node (R544). -/
  lastAnswer : SMap (Nat × List Byte)
  deriving DecidableEq, Repr

def Ring.reset : Ring :=
  { ports := List.replicate 4 RingPort.reset, dims := List.replicate 2 Bypass.new, cmdResult := 0, waits := [], avoid := [],
    lastOrder := [], gaps := [], answers := [], lastAnswer := [] }

/-! ### Host queue engine (R436–R474) -/

/-- R442: the types of a descriptor ring. -/
inductive RingType where
  | tx | rx | cmd
  deriving DecidableEq, Repr

/-- A fetched descriptor that has not started. -/
structure HDesc where
  d : Desc
  /-- Entry index in the ring (R444). -/
  idx : Nat
  /-- Fetch timestamp (R57). -/
  stamp : Time
  solicit : Bool
  deriving DecidableEq, Repr

/-- A transmit frame: being gathered from its segments, or with its data reads issued (R451, R453). -/
structure TxFrame where
  /-- Ingress timestamp: the fetch timestamp of its SOP descriptor. -/
  ots : Time
  frameLen : Nat
  /-- Segment lengths added up. -/
  total : Nat
  segs : Nat
  bad : Bool
  cookie : Word
  idx : Nat
  solicit : Bool
  deriving DecidableEq, Repr

/-- A posted receive buffer (R454). -/
structure RxBuf where
  cookie : Word
  addr : Nat
  len : Nat
  idx : Nat
  solicit : Bool
  deriving DecidableEq, Repr

/-- A descriptor ring that is not ABSENT (R469). -/
structure HRing where
  typ : RingType
  fault : Bool
  sizeCode : Nat
  cq : Nat
  prio : Nat
  nobuf : Bool
  /-- MODE: CORE. -/
  core : Bool
  group : Nat
  dprio : Nat
  base : Nat
  gen : Nat
  /-- The HQE's consumer count, modulo 2^32 (R445). -/
  ci : Nat
  /-- The producer index last read. -/
  pi : Nat
  /-- SOLICIT of the doorbell record last read (R444). -/
  solicit : Bool
  fetched : List HDesc
  /-- The frame being gathered. -/
  frame : Option TxFrame
  /-- Frames whose data reads are issued, oldest first. -/
  reads : List TxFrame
  posted : List RxBuf
  /-- CORE items submitted and not completed, oldest first: descriptor index, COOKIE and SOLICIT. -/
  items : List (Nat × Word × Bool)
  /-- RING_DESTROY has been accepted: the port and descriptor of the command (R469). -/
  dying : Option (CmdPort × Desc)
  deriving DecidableEq, Repr

/-- A completion that waits to be written (R457): W0–W6 and W7[30:0], and whether it was solicited. -/
structure Completion where
  d : Desc
  solicit : Bool
  deriving DecidableEq, Repr

/-- A completion ring (R457–R460, R464). -/
structure Cq where
  sizeCode : Nat
  base : Nat
  vector : Nat
  irq : Bool
  modCnt : Nat
  /-- MOD_TIME in 100 ns units. -/
  modTime : Nat
  /-- Entries written. -/
  pi : Nat
  /-- CI as last read. -/
  ci : Nat
  full : Bool
  /-- Entries that wait for space or for a reread of the consumer record. -/
  waiting : List Completion
  /-- Entries written since the last signal, and the time of the first. -/
  unsignalled : Nat
  first : Time
  deriving DecidableEq, Repr

/-- What a poll of a function still waits for (R448). -/
structure Poll where
  /-- A poll is in progress. -/
  active : Bool
  /-- The level-1 line has been asked for and has not returned. -/
  line : Bool
  /-- Bitmap words swapped and not yet returned: 0–7 level 1, 8 + i level 2 word i. -/
  swaps : List Nat
  /-- Local rings whose doorbell record has been asked for. -/
  records : List Nat
  found : Bool
  deriving DecidableEq, Repr

def Poll.none : Poll := { active := false, line := false, swaps := [], records := [], found := false }

/-- A function: its page (R443), its limits (R441), its configuration space as far as the manual names it, and its MSI-X table. -/
structure HqeFn where
  ctrl : Word
  db : BitVec 64
  cqdb : BitVec 64
  sum : BitVec 64
  admin : BitVec 64
  acq : BitVec 64
  adminCfg : Word
  pasid : Word
  poll : Word
  adminFault : Bool
  flrBusy : Bool
  atomic : Bool
  active : Bool
  /-- SR-IOV VF Enable, of a PF. -/
  vfEnable : Bool
  /-- MSI-X Enable and Function Mask. -/
  msixEn : Bool
  msixMask : Bool
  /-- Vector masks: an unlisted vector is masked, as the PCIe rules leave it at reset. -/
  unmasked : SMap Bool
  pendingVec : SMap Bool
  /-- A VF's ranges (VF_CONFIG): local rings and completion rings of its PF, vectors, classifier lines. -/
  ringFirst : Nat
  ringCount : Nat
  cqFirst : Nat
  cqCount : Nat
  vectors : Nat
  lineFirst : Nat
  lineCount : Nat
  /-- Poll interval in ns, and the start of the current one (R449). -/
  interval : Nat
  lastPoll : Time
  p : Poll
  deriving DecidableEq, Repr

/-- R443: a function after reset. -/
def HqeFn.reset : HqeFn :=
  { ctrl := 0, db := 0, cqdb := 0, sum := 0, admin := 0, acq := 0, adminCfg := 0, pasid := 0, poll := 0x00640064,
    adminFault := false, flrBusy := false, atomic := false, active := false, vfEnable := false, msixEn := false,
    msixMask := false, unmasked := [], pendingVec := [], ringFirst := 0, ringCount := 0, cqFirst := 0, cqCount := 0,
    vectors := 0, lineFirst := 0, lineCount := 0, interval := 0, lastPoll := 0, p := Poll.none }

/-- A snapshot stream (R465–R468). -/
structure Stream where
  fn : Nat
  units : Nat
  slots : Nat
  /-- PERIOD in µs. -/
  period : Nat
  addr : Nat
  clsFirst : Nat
  clsCount : Nat
  qFirst : Nat
  qCount : Nat
  cq : Nat
  gen : Word
  /-- The last periodic instant served. -/
  last : Time
  requests : List Time
  /-- A snapshot taken and not yet delivered: its generation, its time and its bytes. -/
  taken : Option (Word × Time × List Byte)
  deriving DecidableEq, Repr

structure Hqe where
  /-- Port modes: true for ×8 + ×8 (R436). -/
  h0Split : Bool
  h1Split : Bool
  /-- The boot header has been read and the LTSSMs may leave Detect (R436). -/
  portsFixed : Bool
  fns : SMap HqeFn
  /-- Descriptor rings by 65,536 × function + local number. -/
  rings : SMap HRing
  /-- Completion rings by 65,536 × function + local number. -/
  cqs : SMap Cq
  streams : SMap Stream
  lastPoll : Time
  /-- The function polled last, for the round robin of R449. -/
  lastFn : Nat
  deriving DecidableEq, Repr

def Hqe.reset : Hqe :=
  { h0Split := false, h1Split := false, portsFixed := false, fns := [], rings := [], cqs := [], streams := [], lastPoll := 0, lastFn := 1027 }

/-! ### Ethernet ports (R475–R493) -/

/-- R481: the states of a port's link, in the order of their codes. -/
inductive EthState where
  | disabled | an | train | align | up
  deriving DecidableEq, Repr

def EthState.code : EthState → Nat
  | .disabled => 0 | .an => 1 | .train => 2 | .align => 3 | .up => 4

structure EthPort where
  st : EthState
  /-- When the stage was entered. -/
  since : Time
  /-- The receiver is aligned with FEC lock, since this time. -/
  aligned : Option Time
  lfault : Bool
  rfault : Bool
  /-- A fault condition of R481 holds since this time. -/
  fault : Option Time
  /-- The timestamp queue, oldest first: MDI time, domainNumber, messageType, sequenceId (R485). -/
  tsq : List (Time × Nat × Nat × Nat)
  tsqOvf : Bool
  tsqTime : Time
  /-- Ends of the pauses in force, by priority (R489). -/
  paused : SMap Time
  /-- Priorities held by this port's PFC as last sent, and those whose change is not yet sent (R488). -/
  held : BitVec 8
  pfcAt : Time
  deriving DecidableEq, Repr

def EthPort.reset : EthPort :=
  { st := .disabled, since := 0, aligned := none, lfault := false, rfault := false, fault := none, tsq := [], tsqOvf := false,
    tsqTime := 0, paused := [], held := 0, pfcAt := 0 }

structure Eth where
  /-- R475: MODE_LO and MODE_HI, as the profile set them. -/
  modeLo : BitVec 2
  modeHi : BitVec 2
  ports : SMap EthPort
  deriving DecidableEq, Repr

def Eth.reset : Eth := { modeLo := 0, modeHi := 0, ports := [] }

/-! ### HBM controllers (R494–R520) -/

/-- R518: the states of a controller, in the order of their codes. -/
inductive HbmState where
  | absent | training | active | frozen
  deriving DecidableEq, Repr

def HbmState.code : HbmState → Nat
  | .absent => 0 | .training => 1 | .active => 2 | .frozen => 3

/-- R516: the types of a request, in the order of their codes. -/
inductive HbmOp where
  | read | write | atomic | partialWrite
  deriving DecidableEq, Repr

def HbmOp.code : HbmOp → Nat
  | .read => 0 | .write => 1 | .atomic => 2 | .partialWrite => 3

/-- A request that a controller holds. -/
structure HbmEntry where
  addr : Nat
  port : Nat
  req : Nat
  op : HbmOp
  len : Nat
  data : List Byte
  arrival : Time
  /-- It has reached urgency 3, and has been trumped (R503). -/
  late : Bool
  trumped : Bool
  /-- Its command has been issued and its data has not returned. -/
  issued : Bool
  deriving DecidableEq, Repr

/-- A command as the history keeps it (R515). -/
structure HbmCommand where
  time : Time
  /-- [4:0] PC, [7:5] command, [9:8] bank group, [11:10] bank, [13:12] SID, [28:14] row, [33:29] column. -/
  word : BitVec 64
  deriving DecidableEq, Repr

/-- A pseudo-channel. -/
structure HbmPc where
  /-- Open rows by 16 × SID + 4 × bank group + bank. -/
  rows : SMap (Option Nat)
  /-- Row hits issued in a row past an older request. -/
  hits : Nat
  draining : Bool
  postponed : Nat
  deriving DecidableEq, Repr

def HbmPc.reset : HbmPc := { rows := [], hits := 0, draining := false, postponed := 0 }

structure HbmCtl where
  st : HbmState
  /-- Training has failed once (R499). -/
  failed : Bool
  cause : Nat
  causeMask : BitVec 8
  temp : Nat
  tempHigh : Bool
  repair : Nat
  trained : Bool
  ceAddr : Nat
  ceTime : Time
  /-- The second of fabric time, the corrections in it, and whether HBM_CE_RATE has been raised for it (R508). -/
  ceSecond : Nat
  ceCount : Nat
  ceRaised : Bool
  entries : List HbmEntry
  pcs : SMap HbmPc
  history : List HbmCommand
  /-- Next burst of the patrol scrub. -/
  scrub : Nat
  /-- The Negative is being written, since the detecting clock (R515). -/
  negBusy : Option Time
  negValid : Bool
  /-- Read data delivered last: the request, the data, and whether it was poisoned. -/
  answer : Option (HbmEntry × List Byte × Bool)
  deriving DecidableEq, Repr

def HbmCtl.reset : HbmCtl :=
  { st := .absent, failed := false, cause := 0, causeMask := 0, temp := 0, tempHigh := false, repair := 0, trained := false,
    ceAddr := 0, ceTime := 0, ceSecond := 0, ceCount := 0, ceRaised := false, entries := [], pcs := [], history := [], scrub := 0,
    negBusy := none, negValid := false, answer := none }

structure Hbm where
  ctls : List HbmCtl
  /-- The Negatives: 65,536 × controller + byte (R515). -/
  neg : SMap Byte
  /-- The first controller to freeze since reset (R514, R596). -/
  first : Option Nat
  deriving DecidableEq, Repr

def Hbm.reset : Hbm := { ctls := List.replicate 4 HbmCtl.reset, neg := [], first := none }


/-! ### Device state, events and the Contact Sheet (R48, R521–R558) -/

/-- R48: the operating states. -/
inductive DevState where
  | reset | boot | idle | run | swap | frozen
  deriving DecidableEq, Repr

/-- R48: the STATE value. -/
def DevState.code : DevState → Nat
  | .reset => 0 | .boot => 1 | .idle => 2 | .run => 3 | .swap => 4 | .frozen => 5

/-- An event record (R545); DATA byte 16 + i is bits 8i + 7:8i. -/
structure EventRec where
  time : Time
  seq : Word
  code : Nat
  sev : Nat
  data : BitVec 128
  deriving DecidableEq, Repr

def EventRec.empty : EventRec := { time := 0, seq := 0, code := 0, sev := 0, data := 0 }

/-- A PF event ring set by EVENT_RING_SET (R538, R546). -/
structure EventRing where
  base : Nat
  records : Nat
  irq : Bool
  vector : Nat
  /-- Records have been copied since the last signal. -/
  dirty : Bool
  /-- The vector may be signalled again from this time. -/
  holdoff : Time
  deriving DecidableEq, Repr

/-- R552: Contact Sheet states, in the order of their codes. -/
inductive CshState where
  | idle | armed | recording | post | stopped
  deriving DecidableEq, Repr

/-- R556: CSH_STATUS.STATE codes. -/
def CshState.code : CshState → Nat
  | .idle => 0 | .armed => 1 | .recording => 2 | .post => 3 | .stopped => 4

/-- A record offered to the Contact Sheet: the header fields of R550 and the body. -/
structure CshRec where
  typ : Nat
  time : Time
  ots : Time
  flags : Nat
  src : Nat
  trig : Nat
  frameLen : Nat
  key : Nat
  cls : Nat
  node : Nat
  epoch : Nat
  body : List Byte
  deriving DecidableEq, Repr

structure Csh where
  st : CshState
  /-- Region offset of the next record (R553). -/
  wrptr : Nat
  seq : Word
  /-- Records still to be written in POST. -/
  postLeft : Nat
  startT : Option Time
  stopT : Option Time
  /-- Matches seen by sampled source: 0 for ADMIT, 1 + n for trigger n. -/
  samples : SMap Nat
  /-- Records dropped since the last one written, and the time of the first drop (R549 GAP). -/
  gap : Nat
  gapTime : Time
  /-- CSH_OVERRUN has been raised in this recording (R551). -/
  overrun : Bool
  /-- Records offered and not yet written, oldest first. -/
  offers : List CshRec
  /-- The record written last has used up its share of RATE_CAP at this time (R551). -/
  rateSince : Time
  deriving DecidableEq, Repr

def Csh.reset : Csh :=
  { st := .idle, wrptr := 0, seq := 0, postLeft := 0, startT := none, stopT := none, samples := [], gap := 0,
    gapTime := 0, overrun := false, offers := [], rateSince := 0 }

/-- The event log and the rings it is copied to (R546). -/
structure EventLog where
  /-- Records by SEQ mod 4,096. -/
  log : SMap EventRec
  /-- MGT_EVSEQ: the next SEQ. -/
  next : Word
  /-- Records logged since the ring was last cleared, for the oldest SEQ held. -/
  held : Nat
  rings : SMap EventRing
  deriving DecidableEq, Repr

def EventLog.reset : EventLog := { log := [], next := 0, held := 0, rings := [] }
/-! ### Management, power, resets and inputs (R521–R543, R559–R584) -/

/-- R532: a switch accepted and not yet taken. -/
structure PendingSwitch where
  profile : BitVec 2
  time : Time
  image : List Byte
  deriving DecidableEq, Repr

/-- R532: the steps of a Stop Bath. -/
inductive SwapStep where
  /-- Steps 1–3: the drain. -/
  | drain
  /-- Step 4: threads idle, lists empty; the Fixer empties. -/
  | fixer
  /-- Step 5 done: the staged state is loaded. -/
  | loaded
  deriving DecidableEq, Repr

structure Swap where
  sw : PendingSwitch
  step : SwapStep
  killed : Nat
  deriving DecidableEq, Repr

/-- How far BOOT has come (R525). -/
structure Boot where
  headerRead : Bool
  firmware : Bool
  fallback : Bool
  deriving DecidableEq, Repr

structure Mgt where
  bootSel : BitVec 2
  /-- PIN_SEL: PROFILE_SEL as sampled at the last cold reset (R596). -/
  pinSel : BitVec 2
  /-- Switches completed, and the reason of the last refused image (R596). -/
  switches : Nat
  lastRefuse : Nat
  active : BitVec 2
  /-- A profile has been applied since reset. -/
  applied : Bool
  fwSlot : Bool
  fallbackUsed : Bool
  fwVersion : Word
  boot : Boot
  switch : Option PendingSwitch
  swap : Option Swap
  /-- ETH_PTP_NO_PORT has been raised for this application (R487). -/
  ptpNoPort : Bool
  /-- The boot profile chosen for this boot. -/
  bootProfile : BitVec 2
  /-- A warm reset starts at this time, with its cause (R598). -/
  warmAt : Option Time
  eid : Byte
  /-- PLDM numeric sensors 1–7 as last updated (R542). -/
  sensors : List Nat
  sensorAt : Time
  deriving DecidableEq, Repr

def Mgt.reset : Mgt :=
  { bootSel := 0, pinSel := 0, switches := 0, lastRefuse := 0, active := 0, applied := false, fwSlot := false, fallbackUsed := false, fwVersion := 0,
    boot := { headerRead := false, firmware := false, fallback := false }, switch := none, swap := none, ptpNoPort := false,
    bootProfile := 0, warmAt := none, eid := 0, sensors := [0, 0, 0, 0, 0, 0, 0], sensorAt := 0 }

/-- An adaptive island's level and the highest since the register was read (R563, R564). -/
structure Island where
  level : Nat
  high : Nat
  deriving DecidableEq, Repr

def Island.nominal : Island := { level := 0, high := 0 }

/-- A slow control input (R577, R578): the level at the ball and since when, the accepted level and its edge. -/
structure SlowInput where
  raw : Bool
  rawAt : Time
  level : Bool
  edge : Time
  stuck : Bool
  /-- Ignored until its inactive level is accepted. -/
  ignored : Bool
  deriving DecidableEq, Repr

def SlowInput.low : SlowInput := { raw := false, rawAt := 0, level := false, edge := 0, stuck := false, ignored := false }

structure Pwr where
  islands : SMap Island
  throttle : Bool
  timerefOk : Bool
  /-- Valid edges since this time, while TIMEREF_OK is 0. -/
  timerefSince : Time
  temp : Nat
  tempHigh : Nat
  alert : Bool
  /-- RESET_CAUSE (R572), held in the VDD_IO domain. -/
  cause : Nat
  /-- A brown-out or thermal trip holds the device in RESET. -/
  held : Bool
  /-- Reset inputs as asserted. -/
  por : Bool
  porAt : Time
  warm : Bool
  perst0 : Bool
  perst1 : Bool
  /-- A warm reset that waits for a Negative, with its cause (R630). -/
  warmWaits : Option Nat
  /-- VDD_IO is present. -/
  vddIo : Bool
  /-- Slow control inputs 0–4, then GPIO n at 5 + n. -/
  inputs : SMap SlowInput
  pend : BitVec 4
  /-- R580: consecutive rejected PPS_IN edges, and the last one. -/
  ppsRejects : Nat
  ppsLast : Time
  deriving DecidableEq, Repr

def Pwr.reset : Pwr :=
  { islands := [], throttle := false, timerefOk := false, timerefSince := 0, temp := 0, tempHigh := 0, alert := false, cause := 1,
    held := false, por := false, porAt := 0, warm := false, perst0 := true, perst1 := true, warmWaits := none, vddIo := true,
    inputs := [], pend := 0, ppsRejects := 0, ppsLast := 0 }

/-! ### What leaves the device -/

/-- One item that left the device. -/
inductive Sent where
  /-- A frame on an Ethernet port, without its FCS; `badFcs` when the FCS was inverted (R512). -/
  | eth (port : Nat) (frame : List Byte) (badFcs : Bool)
  /-- An MSI-X message of a function (R464). -/
  | msix (fn : Nat) (vector : Nat)
  /-- A fatal AER message of a physical function (R513). -/
  | aer (fn : Nat)
  /-- An MCTP message to the bus owner (R541). -/
  | mctp (body : List Byte)
  /-- A control word on a ring port (R394). -/
  | word (port : Nat) (w : BitVec 144)
  /-- A whole ring frame on a ring port: RESENT, header, payload and trailer (R400, R403). -/
  | ring (port : Nat) (resent : Bool) (hdr : BitVec 128) (payload : List Byte) (trailer : List Byte)
  /-- The blocks of the retry buffer from a sequence number, sent again (R395). -/
  | replay (port : Nat) (seq : BitVec 16)
  /-- A doorbell, descriptor or bitmap read that the HQE asks of the host (R445, R448). -/
  | hostRead (fn : Nat) (addr : Nat) (len : Nat)
  /-- A 64-bit Swap with 0 asked of the host (R448). -/
  | hostSwap (fn : Nat) (addr : Nat)
  /-- PPS_OUT rises (R67). -/
  | pps (time : Time)
  deriving DecidableEq, Repr


/-! ### The whole machine -/

/-- Why a command stops with a fault.  No rule of the manual stops the block: register errors are flags, core exceptions are
next states, a frozen controller leaves the block running. -/
inductive Fault where
  /-- Raised by nothing in this model; kept so that the type is inhabited (safe: a fault only withholds a next state). -/
  | none
  deriving DecidableEq, Repr

/-- Why a command is refused. -/
inductive Refusal where
  /-- Raised by an arm of `exec` whose command has no meaning yet (safe: no next state). -/
  | notModelled (mnemonic : String)
  deriving DecidableEq, Repr

structure State where
  /-- The ordering variant, fixed by fuses (R1). -/
  variant : Variant
  /-- The operating state (R48). -/
  dev : DevState
  /-- FAULT_N is asserted (R49). -/
  faultN : Bool
  glb : Glb
  tim : Tim
  /-- Stored RW register fields by BAR0 offset; an unlisted register holds 0. -/
  regs : SMap Word
  /-- Event counters at 64 bits by the BAR0 offset of their register (R95 and the other counter rules). -/
  counters : SMap Nat
  cores : Cores
  mems : Mems
  lck : Lck
  trays : Trays
  dlr : Dlr
  fix : Fix
  loupe : Loupe
  cls : Cls
  /-- Packets in the packet path by head handle. -/
  pkts : SMap Pkt
  swt : Swt
  ring : Ring
  eth : Eth
  hbm : Hbm
  hqe : Hqe
  events : EventLog
  csh : Csh
  mgt : Mgt
  pwr : Pwr
  /-- What has left the device, newest first: the model's own record of its outputs. -/
  sent : List Sent
  /-- The number of the next free value: the model's own field. -/
  freeCtr : Nat
  /-- Commands that wait, first in, first out. -/
  pending : List Instr
  deriving DecidableEq, Repr

/-- The machine right after a cold reset: PORESET_N has just been deasserted, both PERSTn_N are still asserted, and the device is
in BOOT (R48, R49, R570).  Every register holds the value of its table's Reset column; of the stored registers only
MGT_CTRL.BOARD_SEV is not 0 (R555).  The pins PROFILE_SEL read 0. -/
def State.reset : State :=
  { variant := .fa, dev := .boot, faultN := true, glb := Glb.reset, tim := Tim.reset, regs := [(0x1700000, 0x00020000)], counters := [],
    cores := Cores.reset, mems := Mems.empty, lck := Lck.reset, trays := Trays.reset, dlr := Dlr.reset, fix := Fix.reset,
    loupe := Loupe.reset, cls := Cls.reset, pkts := [], swt := Swt.reset, ring := Ring.reset, eth := Eth.reset, hbm := Hbm.reset,
    hqe := Hqe.reset, events := EventLog.reset, csh := Csh.reset, mgt := Mgt.reset, pwr := Pwr.reset, sent := [], freeCtr := 0,
    pending := [] }

end Sys2Proof.Machine
end

