-- ==== Sys2Proof/Machine/Ops.lean ====
section
/-! DEFINITION. The named operations over the state that every family shares: time, free values, stored register fields,
counters, the addressed memories, threads, and the event log with the Contact Sheet taps that hang on it. -/

namespace Sys2Proof.Machine

/-! ### Time and free values -/

/-- Fabric time as the time bus shows it: the integer part of the counter plus the sub-step's share of TIM_INCR (R36, R53). -/
def State.now (s : State) : Time :=
  (s.tim.count + BitVec.ofNat 96 (s.tim.sub.toNat * s.tim.incr.toNat / 8)).extractLsb' 32 64

/-- R56: a timestamp point issues strictly increasing values. -/
def State.stamp (s : State) (point : Nat) (t : Time) : Time × State :=
  let last := sget 0 s.tim.points point
  let v := if t ≤ last then last + 1 else t
  (v, { s with tim := { s.tim with points := sput 0 s.tim.points point v } })

/-- FTU in `n` nanoseconds (1 FTU is 1/16 ns, R53). -/
def nsFtu (n : Nat) : Nat := 16 * n
/-- FTU in `n` microseconds. -/
def usFtu (n : Nat) : Nat := 16000 * n

/-- The time since `t` in FTU; 0 when `t` is not yet reached. -/
def State.elapsed (s : State) (t : Time) : Nat := s.now.toNat - t.toNat

/-- A fabric time as a natural number. -/
def State.nowN (s : State) : Nat := s.now.toNat

/-- Take the next free value: a number the manual leaves open. -/
def State.takeFree (s : State) : Nat × State :=
  (Config.free s.freeCtr, { s with freeCtr := s.freeCtr + 1 })

/-! ### Bits and bytes -/

/-- Bits `hi:lo` of a word, as a number. -/
def bits (w : Word) (hi lo : Nat) : Nat := (w.toNat / 2 ^ lo) % 2 ^ (hi + 1 - lo)

/-- Bit `i` of a word. -/
def bitAt (w : Word) (i : Nat) : Bool := w.toNat.testBit i

/-- The number `v` placed at bit `lo` of a word. -/
def at' (v lo : Nat) : Word := BitVec.ofNat 32 (v * 2 ^ lo)

/-- Bits `hi:lo` set. -/
def mask (hi lo : Nat) : Word := BitVec.ofNat 32 (2 ^ (hi + 1) - 2 ^ lo)

/-- 1 for true. -/
def b2n (b : Bool) : Nat := if b then 1 else 0

/-- The low `n` bytes of a number, little-endian. -/
def leBytes : Nat → Nat → List Byte
  | 0, _ => []
  | n + 1, v => BitVec.ofNat 8 v :: leBytes n (v / 256)

/-- The number that little-endian bytes spell. -/
def leNat : List Byte → Nat
  | [] => 0
  | b :: bs => b.toNat + 256 * leNat bs

/-- The number that big-endian bytes spell (wire headers). -/
def beNat (bs : List Byte) : Nat := bs.foldl (fun a b => a * 256 + b.toNat) 0

/-- The low `n` bytes of a number, big-endian. -/
def beBytes (n v : Nat) : List Byte := (leBytes n v).reverse

/-- A two's-complement reading of the low `n` bits. -/
def signedOf (n v : Nat) : Int :=
  let m := v % 2 ^ n
  if m < 2 ^ (n - 1) then (m : Int) else (m : Int) - (2 ^ n : Nat)

/-! ### Byte memories -/

/-- `n` bytes from `a` up; an unlisted byte reads 0. -/
def readBytes (m : SMap Byte) : Nat → Nat → List Byte
  | _, 0 => []
  | a, n + 1 => sget 0 m a :: readBytes m (a + 1) n

/-- Store bytes from `a` up. -/
def writeBytes (m : SMap Byte) : Nat → List Byte → SMap Byte
  | _, [] => m
  | a, b :: bs => writeBytes (sput 0 m a b) (a + 1) bs

/-- A little-endian number of `n` bytes at `a`. -/
def readLE (m : SMap Byte) (a n : Nat) : Nat := leNat (readBytes m a n)

/-- Store the low `n` bytes of `v` at `a`. -/
def writeLE (m : SMap Byte) (a n v : Nat) : SMap Byte := writeBytes m a (leBytes n v)

def State.setMems (s : State) (m : Mems) : State := { s with mems := m }

/-! ### Stored register fields and counters -/

/-- The stored RW fields of the register at a BAR0 offset. -/
def State.reg (s : State) (off : Nat) : Word := sget 0 s.regs off

/-- Store the RW fields of a register. -/
def State.setReg (s : State) (off : Nat) (v : Word) : State := { s with regs := sput 0 s.regs off v }

/-- Field `hi:lo` of a stored register. -/
def State.fld (s : State) (off hi lo : Nat) : Nat := bits (s.reg off) hi lo

/-- Raise the counter whose register lies at `off` by `n`. -/
def State.countN (s : State) (off n : Nat) : State :=
  { s with counters := smod 0 s.counters off (· + n) }

/-- Raise the counter at `off` by one. -/
def State.count (s : State) (off : Nat) : State := s.countN off 1

/-- A counter register: 32 bits, saturating (R95). -/
def State.counter32 (s : State) (off : Nat) : Word :=
  BitVec.ofNat 32 (min (sget 0 s.counters off) 0xFFFFFFFF)

/-! ### Block bases (R585) -/

def glbBase : Nat := 0x0000000
def pwrBase : Nat := 0x0100000
def hqeBase : Nat := 0x0200000
def ethBase : Nat := 0x0400000
def ringBase : Nat := 0x0600000
def loupeBase : Nat := 0x0800000
def clsBase : Nat := 0x0A00000
def dlrBase : Nat := 0x0C00000
def fixBase : Nat := 0x0D00000
def tryBase : Nat := 0x0E00000
def swtBase : Nat := 0x0F00000
def hbmBase : Nat := 0x1000000
def lckBase : Nat := 0x1400000
def timBase : Nat := 0x1500000
def cshBase : Nat := 0x1600000
def mgtBase : Nat := 0x1700000
/-- The block of cluster `c`; 16 is the management core's (R585). -/
def thrBase (c : Nat) : Nat := if c = 16 then 0x2200000 else 0x2000000 + 0x20000 * c

/-! ### Expert sets (R19–R25) -/

/-- An expert field: the stored value while the block's EXPERT_EN is 1, else the derived value `d`. -/
def State.expert (s : State) (ctrl off hi lo d : Nat) : Nat :=
  if bitAt (s.reg ctrl) 31 then s.fld off hi lo else d

/-! ### Threads -/

/-- The cluster of a thread; 16 is the management core (R221). -/
def clusterOf (t : Nat) : Nat := t / 64

/-- The core of a thread; 128 is the management core. -/
def coreOf (t : Nat) : Nat := if t < 1024 then t / 8 else 128

/-- The index of a thread within its cluster. -/
def indexOf (t : Nat) : Nat := t % 64

/-- The thread of index `k` in cluster `c`. -/
def threadOf (c k : Nat) : Nat := 64 * c + k

def State.thread (s : State) (t : Nat) : Thread := sget Thread.cleared s.cores.threads t

def State.cluster (s : State) (c : Nat) : Cluster := sget Cluster.empty s.cores.clusters c

def State.setCluster (s : State) (c : Nat) (v : Cluster) : State :=
  { s with cores := { s.cores with clusters := sput Cluster.empty s.cores.clusters c v } }

/-- Store a thread.  A thread left in RUN or HALT ends the detector's count of its cluster (R282). -/
def State.setThread (s : State) (t : Nat) (v : Thread) : State :=
  let cl := s.cluster (clusterOf t)
  let cl' := if v.state = .run ∨ v.state = .halt then { cl with dlSince := none } else cl
  { s with cores := { s.cores with
      threads := sput Thread.cleared s.cores.threads t v
      clusters := sput Cluster.empty s.cores.clusters (clusterOf t) cl' } }

def State.modThread (s : State) (t : Nat) (f : Thread → Thread) : State := s.setThread t (f (s.thread t))

def State.chan (s : State) (c n : Nat) : Channel := sget Channel.empty s.cores.chans (32 * c + n)

def State.setChan (s : State) (c n : Nat) (v : Channel) : State :=
  { s with cores := { s.cores with chans := sput Channel.empty s.cores.chans (32 * c + n) v } }

/-- D[r]; D0 reads 0 (R217). -/
def Thread.dreg (th : Thread) (r : BitVec 4) : Word := if r = 0 then 0 else sget 0 th.d r.toNat

/-- Write D[r]; a write to D0 is discarded (R217). -/
def Thread.setD (th : Thread) (r : BitVec 4) (v : Word) : Thread :=
  if r = 0 then th else { th with d := sput 0 th.d r.toNat v }

/-- A[r]. -/
def Thread.areg (th : Thread) (r : BitVec 3) : Addr := sget 0 th.a r.toNat

/-- Write A[r]. -/
def Thread.setA (th : Thread) (r : BitVec 3) (v : Addr) : Thread := { th with a := sput 0 th.a r.toNat v }

/-- ACC0 or ACC1. -/
def Thread.acc (th : Thread) (i : BitVec 1) : Acc := if i = 0 then th.acc0 else th.acc1

def Thread.setAcc (th : Thread) (i : BitVec 1) (v : Acc) : Thread :=
  if i = 0 then { th with acc0 := v } else { th with acc1 := v }

/-- A base update (R229). -/
def Thread.update (th : Thread) : Option BaseUpdate → Thread
  | none => th
  | some u => th.setA u.ab u.value

/-- TSR.LEVEL (R220). -/
def Thread.level (th : Thread) : Nat := bits th.tsr 31 30

/-! ### Contact Sheet taps (R548–R552) -/

/-- R549: records come only in RECORDING and POST. -/
def Csh.recording (c : Csh) : Bool :=
  match c.st with
  | .recording | .post => true
  | _ => false

/-- Offer a record; it is written by a later CSH_RECORD_WRITE (R551). -/
def State.cshOffer (s : State) (r : CshRec) : State :=
  if s.csh.recording then { s with csh := { s.csh with offers := s.csh.offers ++ [r] } } else s

/-- A record with only a type, a time and a body. -/
def CshRec.plain (typ : Nat) (time : Time) (body : List Byte) : CshRec :=
  { typ := typ, time := time, ots := 0, flags := 0, src := 0, trig := 0, frameLen := 0, key := 0, cls := 0,
    node := 0, epoch := 0, body := body }

/-- The 32 bytes of an event record (R545). -/
def EventRec.bytes (e : EventRec) : List Byte :=
  leBytes 8 e.time.toNat ++ leBytes 4 e.seq.toNat ++ leBytes 2 e.code ++ leBytes 1 e.sev ++ [0] ++
    leBytes 16 e.data.toNat

/-! ### Events (R545–R547) -/

/-- R546: copy a record to one PF event ring. -/
def copyToRing (s : State) (e : EventRec) : Nat × EventRing → State
  | (pf, r) =>
    let a := r.base + 32 * (e.seq.toNat % r.records)
    { s with
      mems := { s.mems with host := writeBytes s.mems.host a e.bytes }
      events := { s.events with rings := sins s.events.rings pf { r with dirty := true } } }

/-- R541: the EVENT message that the bus owner receives: vendor-defined PCI type, Izvik's vendor ID, KIND 3, TAG 0. -/
def eventMessage (e : EventRec) : List Byte :=
  [0x7E, 0x1F, 0x9A, 0x03, 0x00] ++ leBytes 2 0 ++ e.bytes

/-- R546: log a record with the next SEQ, copy it to the event rings unless the device is in FROZEN, and send it to the bus
owner when its severity is at least MGT_CTRL.BOARD_SEV (R541). -/
def logRecord (s : State) (code sev : Nat) (data : BitVec 128) : State × EventRec :=
  let e : EventRec := { time := s.now, seq := s.events.next, code := code, sev := sev, data := data }
  let s1 := { s with events := { s.events with
      log := sput EventRec.empty s.events.log (s.events.next.toNat % 4096) e
      next := s.events.next + 1
      held := min 4096 (s.events.held + 1) } }
  let s2 := if s.dev = .frozen then s1 else s1.events.rings.foldl (fun st r => copyToRing st e r) s1
  let s3 := if s.fld mgtBase 17 16 ≤ sev then { s2 with sent := .mctp (eventMessage e) :: s2.sent } else s2
  (s3, e)

/-- R552: recording begins. -/
def State.cshStart (s : State) : State := { s with csh := { s.csh with st := .recording, overrun := false } }

/-- R552: a stop while RECORDING loads the POST counter. -/
def State.cshStop (s : State) : State :=
  let post := s.fld cshBase 15 0
  if post = 0 then { s with csh := { s.csh with st := .stopped } }
  else { s with csh := { s.csh with st := .post, postLeft := post } }

/-- The bytes of a record with `n` body bytes (R550). -/
def cshLen (n : Nat) : Nat := 48 + 16 * ((n + 15) / 16)

/-- CSH_BASE and CSH_SIZE in bytes (R556). -/
def State.cshRegion (s : State) : Nat := 2 ^ 20 * s.fld (cshBase + 8) 31 20 + 2 ^ 32 * s.fld (cshBase + 0xC) 5 0
def State.cshSize (s : State) : Nat := 2 ^ 20 * s.fld (cshBase + 0x10) 16 0

/-- How many records, PAD included, records of these lengths make from a write position on (R549). -/
def cshPlan (size : Nat) : Nat → List Nat → Nat
  | _, [] => 0
  | wr, n :: ns => if size < wr + n then 2 + cshPlan size n ns else 1 + cshPlan size ((wr + n) % size) ns

/-- The SEQ that the record offered last receives when no drop comes between (R549, R551). -/
def State.cshLastSeq (s : State) : Nat :=
  let own := s.csh.offers.map fun r => cshLen r.body.length
  let ls := if s.csh.gap ≠ 0 ∧ own ≠ [] then cshLen 16 :: own else own
  (s.csh.seq.toNat + cshPlan s.cshSize s.csh.wrptr ls + 2 ^ 32 - 1) % 2 ^ 32

/-- A trigger register of the Contact Sheet names this event code (R556). -/
def State.cshNames (s : State) (off code : Nat) : Bool :=
  bitAt (s.reg (cshBase + off)) 31 && s.fld (cshBase + off) 15 0 == code

/-- Log an event and let it act on the Contact Sheet (R549, R552).  A change of the Contact Sheet's state is an event of its
own; the fuel bounds that chain, which is at most three events long. -/
def logEventN : Nat → State → Nat → Nat → BitVec 128 → State
  | 0, s, code, sev, data => (logRecord s code sev data).1
  | n + 1, s, code, sev, data =>
    let (s1, e) := logRecord s code sev data
    let starts := s1.csh.st = .armed ∧ s1.cshNames 0x28 code
    let stops := s1.csh.st = .recording ∧ s1.cshNames 0x2C code
    let s2 := if starts then s1.cshStart else s1
    let s3 := if bitAt (s2.reg (cshBase + 0x20)) 29 then s2.cshOffer (CshRec.plain 5 e.time e.bytes) else s2
    let s4 := if stops then s3.cshStop else s3
    if starts then logEventN n s4 0x90 0 (BitVec.ofNat 128 (s4.csh.seq.toNat * 2 ^ 32))
    else if stops ∧ s4.csh.st = .stopped then logEventN n s4 0x91 0 (BitVec.ofNat 128 (s4.cshLastSeq * 2 ^ 32))
    else s4

/-- Raise a management event (R546). -/
def State.logEvent (s : State) (code sev : Nat) (data : BitVec 128) : State := logEventN 3 s code sev data

/-- DATA with number `v` at byte 16 + `i` of the record. -/
def evAt (i v : Nat) : BitVec 128 := BitVec.ofNat 128 (v * 2 ^ (8 * i))

end Sys2Proof.Machine
end

