-- ==== Sys2Proof/Machine/Exceptions.lean ====
section
/-! DEFINITION. Taking an exception and returning from one (R245–R250), and the frame that every instruction of a thread runs
in: when it issues, its checks in ID, and how its result moves the thread on (R206, R225, R247, R253, R276). -/

namespace Sys2Proof.Machine

/-! ### Exception codes (R246) -/

def codeFetchFault : Nat := 0x01
def codeIllegal : Nat := 0x02
def codePriv : Nat := 0x03
def codeCxAbsent : Nat := 0x04
def codeCxDenied : Nat := 0x05
def codeMisaligned : Nat := 0x06
def codeAccess : Nat := 0x07
def codeAbsent : Nat := 0x08
def codeLoadEcc : Nat := 0x09
def codeSyscall : Nat := 0x0A
def codeMoncall : Nat := 0x0B
def codeBreak : Nat := 0x0C
def codeMachineCheck : Nat := 0x10
def codeDebug : Nat := 0x11
def codeDouble : Nat := 0x12
def codeCxLate : Nat := 0x13
def codeThreadIrq : Nat := 0x14

/-- R246: the level an exception code is targeted at: 2 Monitor, 1 Supervisor. -/
def targetLevel (code : Nat) : Nat :=
  if code = 0x0B ∨ code = 0x10 ∨ code = 0x11 ∨ code = 0x12 then 2 else 1

/-- TSR bits (R220). -/
def tsrIe : Nat := 29
def tsrExlS : Nat := 28
def tsrExlM : Nat := 27
def tsrAv : Nat := 19
def tsrDv : Nat := 18
def tsrDc : Nat := 17
def tsrC : Nat := 16

/-- A word with bit `i` set to `b`. -/
def setBit (w : Word) (i : Nat) (b : Bool) : Word :=
  if b then w ||| BitVec.ofNat 32 (2 ^ i) else w &&& ~~~(BitVec.ofNat 32 (2 ^ i))

/-- A TSR with LEVEL `l` (R220). -/
def setLevel (w : Word) (l : Nat) : Word := (w &&& 0x3FFFFFFF) ||| at' l 30

/-- ECAUSE: previous LEVEL, previous IE and the code (R221). -/
def ecauseOf (tsr : Word) (code : Nat) : Word := (tsr &&& 0xE0000000) ||| BitVec.ofNat 32 code

/-- R246, R248: the thread after an exception is taken at level `l`: EPC, ECAUSE and EINFO of the level are written, LEVEL
becomes `l`, IE is cleared, EXL of the level is set, and execution continues at the level's vector. -/
def enterHandler (th : Thread) (l code : Nat) (epc einfo : Addr) : Thread :=
  let cause := ecauseOf th.tsr code
  let tsr := setBit (setLevel th.tsr l) tsrIe false
  if l = 2 then
    { th with epcM := epc, ecauseM := cause, einfoM := einfo, tsr := setBit tsr tsrExlM true,
              pc := th.vbarM + BitVec.ofNat 48 (0x40 * code), jumpFrom := none }
  else
    { th with epcS := epc, ecauseS := cause, einfoS := einfo, tsr := setBit tsr tsrExlS true,
              pc := th.vbarS + BitVec.ofNat 48 (0x40 * code), jumpFrom := none }

/-- R273, R277: the FILLING channels of a thread that halts become HELD, and back at its resume. -/
def holdChannels (s : State) (t : Nat) (halting : Bool) : State :=
  (List.range 32).foldl (fun st c =>
    let ch := st.chan (clusterOf t) c
    if halting ∧ ch.st = .filling ∧ ch.owner = t then st.setChan (clusterOf t) c { ch with st := .held }
    else if !halting ∧ ch.st = .held ∧ ch.owner = t then st.setChan (clusterOf t) c { ch with st := .filling }
    else st) s

/-- R250, R251: a thread stops in HALT. -/
def haltThread (s : State) (t : Nat) : State :=
  holdChannels (s.modThread t fun th => { th with state := .halt, wait := .none, haltReq := false, stepArmed := false })
    t true

/-- R250: an exception targeted at Monitor while EXL_M = 1 halts the thread and raises THREAD_DOUBLE_FAULT. -/
def doubleFault (s : State) (t code : Nat) (pc : Addr) : State :=
  (haltThread s t).logEvent 0x41 2 (evAt 0 t ||| evAt 2 code ||| evAt 4 (pc.toNat % 2 ^ 32))

/-- R245, R248, R250: take exception `code` in thread `t`. -/
def takeException (s : State) (t code : Nat) (epc einfo : Addr) : State :=
  let th := s.thread t
  let l := max (targetLevel code) th.level
  if l = 1 then
    if bitAt th.tsr tsrExlS then
      if bitAt th.tsr tsrExlM then doubleFault s t codeDouble th.pc
      else s.setThread t (enterHandler th 2 codeDouble epc (BitVec.ofNat 48 code))
    else s.setThread t (enterHandler th 1 code epc einfo)
  else if bitAt th.tsr tsrExlM then doubleFault s t code th.pc
  else s.setThread t (enterHandler th 2 code epc einfo)

/-- R248: ERET at the thread's level restores LEVEL and IE from ECAUSE of that level, clears its EXL and continues at its
EPC.  LEVEL never rises: a thread enters Monitor only through an exception (R244). -/
def returnFrom (th : Thread) : Thread :=
  let l := th.level
  let cause := if l = 1 then th.ecauseS else th.ecauseM
  let epc := if l = 1 then th.epcS else th.epcM
  let exl := if l = 1 then tsrExlS else tsrExlM
  let tsr := setBit (setLevel th.tsr (min l (bits cause 31 30))) tsrIe (bitAt cause 29)
  { th with tsr := setBit tsr exl false, pc := epc, jumpFrom := none }

/-! ### The frame of an instruction -/

/-- What an instruction's body says of the thread. -/
inductive Result where
  /-- Completed: the PC moves to the next instruction. -/
  | ok (s : State)
  /-- Completed with a jump to an address. -/
  | jump (s : State) (target : Addr)
  /-- A precise exception: the state is the one before the instruction. -/
  | raise (code : Nat) (einfo : Addr)
  /-- An exception whose EPC is the next instruction (SYSCALL, MONCALL). -/
  | call (code : Nat) (einfo : Addr)
  /-- The thread waits, or awaits a returning value, with the PC at the instruction. -/
  | stay (s : State)
  /-- The thread's work ended; nothing of its registers is touched again. -/
  | gone (s : State)

/-- The instruction store is 128 KiB at address 0 (R209). -/
def istoreSize : Nat := 0x20000

/-- R210: a PC from which no instruction can be fetched. -/
def badPc (pc : Addr) : Bool := istoreSize ≤ pc.toNat || pc.toNat % 4 != 0

/-- R206, R251, R276: the thread's next instruction may issue: it is in RUN with nothing outstanding, or a STEP has been
granted to it. -/
def Thread.issues (th : Thread) : Bool :=
  th.outstanding.isNone && (th.state == .run || (th.state == .halt && th.stepArmed))

/-- R276: after the one instruction of a STEP the thread stops again, unless it is IDLE or awaits a value. -/
def endStep (s : State) (t : Nat) : State :=
  let th := s.thread t
  if th.stepArmed ∧ th.outstanding.isNone ∧ th.state ≠ .idle then
    haltThread s t
  else s

/-- R276: a STEP that reaches a waiting instruction whose condition does not hold leaves the thread halted before it. -/
def wouldWait (s : State) (t : Nat) : State :=
  let c := clusterOf t
  (s.modThread t fun th => { th with stepArmed := false }).setCluster c { s.cluster c with dbgResult := 3 }

/-- How a body's result moves the thread on from instruction address `pc`. -/
def settle (s : State) (t : Nat) (pc : Addr) : Result → State
  | .ok s' => endStep (s'.modThread t fun th => { th with pc := pc + 4, jumpFrom := none }) t
  | .jump s' a => endStep (s'.modThread t fun th => { th with pc := a, jumpFrom := some pc }) t
  | .raise code info => endStep (takeException s t code pc info) t
  | .call code info => endStep (takeException s t code (pc + 4) info) t
  | .stay s' =>
    if (s.thread t).stepArmed ∧ (s'.thread t).state = .wait then wouldWait s t else s'
  | .gone s' => s'

/-- Issue one instruction of thread `t`: word `w`, its reserved-field check `legal`, its level check `permitted`, and its
body (R210, R225, R244, R246, R247).  A thread that cannot issue is left as it is. -/
def issue (s : State) (t : ThreadId) (w : Word) (legal permitted : Bool) (body : Thread → Result) : State :=
  let th := s.thread t
  let info := w.setWidth 48
  if th.issues then
    settle s t th.pc
      (if badPc th.pc then .raise codeFetchFault (th.jumpFrom.getD th.pc)
       else if !legal then .raise codeIllegal info
       else if !permitted then .raise codePriv info
       else body th)
  else s

/-- The instruction's value goes to registers of the thread alone. -/
def Result.regs (s : State) (t : ThreadId) (th : Thread) : Result := .ok (s.setThread t th)

/-! ### Instruction words (R223) -/

def RFields.word (op fn : Nat) (f : RFields) : Word :=
  at' op 26 ||| at' f.rd.toNat 22 ||| at' f.rs1.toNat 18 ||| at' f.rs2.toNat 14 ||| at' fn 8 ||| at' f.aux.toNat 0

def IFields.word (op : Nat) (f : IFields) : Word :=
  at' op 26 ||| at' f.rd.toNat 22 ||| at' f.rs1.toNat 18 ||| at' f.imm.toNat 0

def MFields.word (op : Nat) (f : MFields) : Word :=
  at' op 26 ||| at' f.rt.toNat 22 ||| at' f.ab.toNat 19 ||| at' f.mode.toNat 17 ||| at' f.disp.toNat 0

def BFields.word (op : Nat) (f : BFields) : Word :=
  at' op 26 ||| at' f.cond.toNat 22 ||| at' f.rs1.toNat 18 ||| at' f.rs2.toNat 14 ||| at' f.off.toNat 0

def JFields.word (f : JFields) : Word :=
  at' 0x18 26 ||| at' f.link.toNat 25 ||| at' f.la.toNat 22 ||| at' f.off.toNat 0

def JRFields.word (f : JRFields) : Word :=
  at' 0x19 26 ||| at' f.link.toNat 25 ||| at' f.la.toNat 22 ||| at' f.ab.toNat 19 ||| at' f.rsv.toNat 18 |||
    at' f.imm.toNat 0

def SFields.word (sub : Nat) (f : SFields) : Word :=
  at' 0x20 26 ||| at' f.rd.toNat 22 ||| at' f.rs1.toNat 18 ||| at' sub 12 ||| at' f.imm.toNat 0

def XFields.word (cxf : Nat) (f : XFields) : Word :=
  at' 0x23 26 ||| at' f.rd.toNat 22 ||| at' f.rs1.toNat 18 ||| at' f.rs2.toNat 14 ||| at' cxf 8 ||| at' f.cxc.toNat 0

def BFFields.word (fn : Nat) (f : BFFields) : Word :=
  at' 0x24 26 ||| at' f.rd.toNat 22 ||| at' f.rs1.toNat 18 ||| at' f.pos.toNat 13 ||| at' f.wm1.toNat 8 |||
    at' fn 6 ||| at' f.rsv.toNat 0

end Sys2Proof.Machine
end

