-- ==== Sys2Proof/Machine/Flags.lean ====
section
/-! DEFINITION. Every flag computation of TSR (R220, R227, R232, R238–R241). -/

namespace Sys2Proof.Machine

/-- TSR.C (R220). -/
def Thread.flagC (th : Thread) : Bool := bitAt th.tsr tsrC
/-- TSR.DC (R220). -/
def Thread.flagDC (th : Thread) : Bool := bitAt th.tsr tsrDc
/-- TSR.HC, nibble `i` (R220). -/
def Thread.flagHC (th : Thread) (i : Nat) : Bool := bitAt th.tsr (8 + i)

/-- R227: the carry out of nibble `i` of `a + b + c`. -/
def nibbleCarry (a b : Word) (c : Nat) (i : Nat) : Bool :=
  2 ^ (4 * (i + 1)) ≤ a.toNat % 2 ^ (4 * (i + 1)) + b.toNat % 2 ^ (4 * (i + 1)) + c

/-- HC of `a + b + c`, bit `i` for nibble `i` (R220). -/
def halfCarries (a b : Word) (c : Nat) : Nat :=
  (List.range 8).foldl (fun acc i => acc + b2n (nibbleCarry a b c i) * 2 ^ i) 0

/-- C and HC after ADD or ADDC (R227). -/
def addFlags (tsr : Word) (a b : Word) (c : Nat) : Word :=
  setBit ((tsr &&& 0xFFFF00FF) ||| at' (halfCarries a b c) 8) tsrC (2 ^ 32 ≤ a.toNat + b.toNat + c)

/-- C after SUB or SUBC: the borrow (R227). -/
def subFlags (tsr : Word) (a b : Word) (c : Nat) : Word := setBit tsr tsrC (a.toNat < b.toNat + c)

/-- AV is sticky: it is set when the exact result lies outside the signed 72-bit range (R232). -/
def accFlags (tsr : Word) (exact : Int) : Word :=
  if exact < -(2 ^ 71) ∨ 2 ^ 71 ≤ exact then setBit tsr tsrAv true else tsr

/-- R238: an invalid digit sets DV and clears DC. -/
def badDigitFlags (tsr : Word) : Word := setBit (setBit tsr tsrDv true) tsrDc false

/-- R234: the TSR bits that CLRF clears, by IMM12 bits 0 C, 1 HC, 2 DC, 3 DV, 4 AV. -/
def clearFlags (tsr : Word) (imm : BitVec 12) : Word :=
  let w : Word := imm.setWidth 32
  let t := if bitAt w 0 then setBit tsr tsrC false else tsr
  let t := if bitAt w 1 then t &&& 0xFFFF00FF else t
  let t := if bitAt w 2 then setBit t tsrDc false else t
  let t := if bitAt w 3 then setBit t tsrDv false else t
  if bitAt w 4 then setBit t tsrAv false else t

end Sys2Proof.Machine
end

