-- ==== Sys2Proof/Machine/HbmOps.lean ====
section
/-! DEFINITION. What the HBM controllers do for other units: the address map (R495, R496), and reads and writes that a frozen
controller answers with poison or discards (R512). -/

namespace Sys2Proof.Machine

/-- R496: where a byte of HBM lies. -/
structure HbmPlace where
  stack : Nat
  pc : Nat
  sid : Nat
  group : Nat
  bank : Nat
  row : Nat
  column : Nat
  byte : Nat
  deriving DecidableEq, Repr

/-- R496: the decode of an HBM address. -/
def hbmDecode (a : Nat) : HbmPlace :=
  let pair := if 0x1800000000 ≤ a then 1 else 0
  let o := a - pair * 0x1800000000
  let g2 := o / 256
  let g := g2 / 2
  let l := g / 32 * 256 + o % 256
  let q := l / 2 ^ 14
  { stack := 2 * pair + g2 % 2, pc := (g % 32) ^^^ (g / 2 ^ 15 % 32), sid := q % 3, group := l / 2 ^ 12 % 4,
    bank := l / 2 ^ 10 % 4, row := q / 3, column := l / 32 % 32, byte := l % 32 }

/-- R495: the addresses that exist. -/
def hbmSize : Nat := 0x3000000000

def State.hbmCtl (s : State) (c : Nat) : HbmCtl := s.hbm.ctls.getD c HbmCtl.reset

def State.setHbmCtl (s : State) (c : Nat) (v : HbmCtl) : State :=
  { s with hbm := { s.hbm with ctls := lset s.hbm.ctls c v } }

/-- A counter of controller `c` (R519). -/
def hbmCnt (c off : Nat) : Nat := hbmBase + 0x2000 + 0x100 * c + off

/-- The controller of an address is frozen. -/
def State.hbmFrozenAt (s : State) (a : Nat) : Bool := (s.hbmCtl (hbmDecode a).stack).st == .frozen

/-- The 64-byte lines that `n` bytes from `a` touch. -/
def hbmLines (a n : Nat) : List Nat :=
  if n = 0 then [] else (List.range ((a + n - 1) / 64 - a / 64 + 1)).map fun i => 64 * (a / 64 + i)

/-- The 32-byte bursts that `n` bytes from `a` touch. -/
def hbmBursts (a n : Nat) : List Nat :=
  if n = 0 then [] else (List.range ((a + n - 1) / 32 - a / 32 + 1)).map fun i => 32 * (a / 32 + i)

/-- Bytes of a read touch a frozen controller. -/
def State.hbmPoisoned (s : State) (a n : Nat) : Bool := (hbmLines a n).any s.hbmFrozenAt

/-- R512: a read by another unit: its bytes, or none when they are poisoned.  Bursts read and poisoned answers are counted. -/
def hbmRead (s : State) (a n : Nat) : State × Option (List Byte) :=
  let s1 := (hbmBursts a n).foldl (fun st b =>
    if st.hbmFrozenAt b then st else st.count (hbmCnt (hbmDecode b).stack 0x00)) s
  let s2 := (hbmLines a n).foldl (fun st l =>
    if st.hbmFrozenAt l then st.count (hbmCnt (hbmDecode l).stack 0x20) else st) s1
  (s2, if s.hbmPoisoned a n then none else some (readBytes s.mems.hbm a n))

/-- Write the bytes that lie in controllers that serve. -/
def hbmPut (s : State) : Nat → List Byte → SMap Byte → SMap Byte
  | _, [], m => m
  | a, b :: bs, m => hbmPut s (a + 1) bs (if s.hbmFrozenAt a then m else sput 0 m a b)

/-- R512: a write by another unit; a frozen controller discards its part. -/
def hbmWrite (s : State) (a : Nat) (bs : List Byte) : State :=
  let s1 := (hbmBursts a bs.length).foldl (fun st b =>
    if st.hbmFrozenAt b then st else st.count (hbmCnt (hbmDecode b).stack 0x04)) s
  let s2 := (hbmLines a bs.length).foldl (fun st l =>
    if st.hbmFrozenAt l then st.count (hbmCnt (hbmDecode l).stack 0x24) else st) s1
  let m := if s.hbmPoisoned a bs.length then hbmPut s a bs s2.mems.hbm else writeBytes s2.mems.hbm a bs
  s2.setMems { s2.mems with hbm := m }

end Sys2Proof.Machine
end

