-- ==== Sys2Proof/Machine/Operands.lean ====
section
/-! DEFINITION. Operand forms: register fields of each class and their reserved bits (R224, R225), immediates, the addressing
modes (R229), the CX operand shapes (R289), and the thread memory map with its checks (R209–R211). -/

namespace Sys2Proof.Machine

/-! ### Register fields (R224) -/

/-- A 4-bit field that names an A register: bit 3 is reserved. -/
def isA (r : BitVec 4) : Bool := r.toNat < 8
/-- A 4-bit field that names an accumulator: bits 3:1 are reserved. -/
def isAcc (r : BitVec 4) : Bool := r.toNat < 2
/-- The A register a 4-bit field names. -/
def aOf (r : BitVec 4) : BitVec 3 := r.setWidth 3
/-- The accumulator a 4-bit field names. -/
def accOf (r : BitVec 4) : BitVec 1 := r.setWidth 1

/-- The AUX bits a row does not use are 0 (R225). -/
def auxWithin (aux : BitVec 8) (m : Nat) : Bool := aux &&& ~~~(BitVec.ofNat 8 m) == 0

/-! ### Addressing modes (R229) -/

/-- The effective address of a format M access. -/
def effectiveAddress (th : Thread) (f : MFields) : Addr :=
  let base := th.areg f.ab
  let disp : Addr := f.disp.signExtend 48
  if f.mode = 0 ∨ f.mode = 2 then base + disp
  else if f.mode = 1 then base
  else base + ((th.dreg (f.disp.setWidth 4)).setWidth 48 <<< (f.disp.extractLsb' 4 2).toNat)

/-- The base update of a format M access, applied only when the access raises no exception. -/
def baseUpdate (th : Thread) (f : MFields) : Option BaseUpdate :=
  if f.mode = 1 then some { ab := f.ab, value := th.areg f.ab + f.disp.signExtend 48 }
  else if f.mode = 2 then some { ab := f.ab, value := effectiveAddress th f }
  else none

/-- R229: DISP[16:6] is unused in the indexed mode. -/
def modeLegal (f : MFields) : Bool := f.mode != 3 || f.disp.toNat < 64

/-- The bytes of an access (R229). -/
def AccessSize.bytes : AccessSize → Nat
  | .byte => 1 | .half => 2 | .word => 4 | .eight => 8

/-! ### The thread memory map (R209) -/

/-- A place an access may reach: the memory and the byte offset in it. -/
inductive Place where
  | istore (off : Nat)
  | scratch (off : Nat)
  | shared (off : Nat)
  | mgmt (off : Nat)
  | pkt (off : Nat)
  | window (off : Nat)
  | hbm (off : Nat)
  deriving DecidableEq, Repr

/-- R209: the region an address of a thread falls in: lowest levels for read and write (3 for none), region end, and place.
None is unmapped. -/
def region (t : Nat) (a : Nat) : Option (Nat × Nat × Nat × Place) :=
  if a < 0x20000 then some (1, 3, 0x20000, .istore (0x20000 * clusterOf t + a))
  else if 0x100000 ≤ a ∧ a < 0x110000 then some (0, 0, 0x110000, .scratch (0x10000 * coreOf t + (a - 0x100000)))
  else if 0x200000 ≤ a ∧ a < 0x400000 then some (0, 0, 0x400000, .shared (0x200000 * clusterOf t + (a - 0x200000)))
  else if 0x800000 ≤ a ∧ a < 0x900000 then
    if clusterOf t = 16 then some (1, 2, 0x900000, .mgmt (a - 0x800000)) else none
  else if 0x1000000 ≤ a ∧ a < 0x3000000 then some (1, 1, 0x3000000, .shared (a - 0x1000000))
  else if 0x10000000 ≤ a ∧ a < 0x14000000 then some (0, 0, 0x14000000, .pkt (a - 0x10000000))
  else if 0x20000000 ≤ a ∧ a < 0x24000000 then some (1, 1, 0x24000000, .window (a - 0x20000000))
  else if 0x400000000000 ≤ a ∧ a < 0x403000000000 then
    some (0, 0, 0x403000000000, .hbm (a - 0x400000000000))
  else none

/-- R3, R210: the HBM address lies in a stack that the variant does not have. -/
def absentHbm (v : Variant) (off : Nat) : Bool := !v.hasStack (off / 0xC00000000)

/-- R210, R211, R246: the checks of an access in EX1, by exception priority.  `align` asks natural alignment, `wordOnly`
says that the access is LDW or STW. -/
def checkAccess (s : State) (t : Nat) (ea : Addr) (n : Nat) (write align wordOnly : Bool) : Place ⊕ Nat :=
  let a := ea.toNat
  if align ∧ a % n ≠ 0 then .inr codeMisaligned
  else match region t a with
    | none => .inr codeAccess
    | some (rl, wl, stop, place) =>
      let window : Bool := match place with
        | .window _ => true
        | _ => false
      if window ∧ (!wordOnly ∨ a % 4 ≠ 0) then .inr codeMisaligned
      else if stop < a + n ∨ (s.thread t).level < (if write then wl else rl) then .inr codeAccess
      else match place with
        | .hbm off => if absentHbm s.variant off then .inr codeAbsent else .inl place
        | _ => .inl place

/-- R206: a load from the data scratch or the own cluster's shared SRAM is near. -/
def nearPlace (t : Nat) : Place → Bool
  | .scratch _ => true
  | .shared off => off / 0x200000 == clusterOf t
  | _ => false

/-- Read `n` bytes at a place, little-endian; the window is not a memory. -/
def readPlace (s : State) : Place → Nat → Nat
  | .istore off, n => readLE s.mems.istore off n
  | .scratch off, n => readLE s.mems.scratch off n
  | .shared off, n => readLE s.mems.shared off n
  | .mgmt off, n => readLE s.mems.mgmt off n
  | .pkt off, n => readLE s.mems.pkt off n
  | .hbm off, n => readLE s.mems.hbm off n
  | .window _, _ => 0

/-- Write the low `n` bytes of `v` at a place of a memory. -/
def writePlace (s : State) : Place → Nat → Nat → State
  | .istore _, _, _ => s
  | .scratch off, n, v => s.setMems { s.mems with scratch := writeLE s.mems.scratch off n v }
  | .shared off, n, v => s.setMems { s.mems with shared := writeLE s.mems.shared off n v }
  | .mgmt off, n, v => s.setMems { s.mems with mgmt := writeLE s.mems.mgmt off n v }
  | .pkt off, n, v => s.setMems { s.mems with pkt := writeLE s.mems.pkt off n v }
  | .hbm off, n, v => hbmWrite s off (leBytes n v)
  | .window _, _, _ => s

/-- The offset in the scratch array of an area of `n` bytes that must lie wholly in the thread's data scratch, aligned to
`al`; else the exception (R261, R271). -/
def scratchArea (t : Nat) (a : Addr) (n al : Nat) : Nat ⊕ Nat :=
  if a.toNat % al ≠ 0 then .inr codeMisaligned
  else if 0x100000 ≤ a.toNat ∧ a.toNat + n ≤ 0x110000 then .inl (0x10000 * coreOf t + (a.toNat - 0x100000))
  else .inr codeAccess

/-! ### CX operand shapes (R289) -/

/-- A pair: 2, 4, …, 14. -/
def isPair (r : BitVec 4) : Bool := r.toNat % 2 == 0 && r != 0
/-- A quad: 4, 8, 12. -/
def isQuad (r : BitVec 4) : Bool := r.toNat % 4 == 0 && r != 0

/-- D[n + k]. -/
def Thread.dAt (th : Thread) (r : BitVec 4) (k : Nat) : Word := th.dreg (r + BitVec.ofNat 4 k)

/-- A pair's 64 bits. -/
def Thread.pair (th : Thread) (r : BitVec 4) : BitVec 64 := th.dAt r 1 ++ th.dAt r 0

def Thread.setPair (th : Thread) (r : BitVec 4) (v : BitVec 64) : Thread :=
  (th.setD r (v.setWidth 32)).setD (r + 1) (v.extractLsb' 32 32)

/-- The 16 block bytes of a quad: byte 4j + i in bits 8i + 7:8i of D[n + j]. -/
def Thread.quad (th : Thread) (r : BitVec 4) : List Byte :=
  (List.range 4).flatMap fun j => leBytes 4 (th.dAt r j).toNat

/-- Write a quad from its 16 block bytes. -/
def Thread.setQuad (th : Thread) (r : BitVec 4) (bs : List Byte) : Thread :=
  (List.range 4).foldl (fun t j => t.setD (r + BitVec.ofNat 4 j) (BitVec.ofNat 32 (leNat ((bs.drop (4 * j)).take 4)))) th

end Sys2Proof.Machine
end

