-- ==== Sys2Proof/Machine/Alu.lean ====
section
/-! DEFINITION. The ALU, immediate and bit-field instructions (R227, R228, R231). -/

namespace Sys2Proof.Machine

open Host

/-! ### Values -/

/-- R227: the quotient rounded toward zero; 0xFFFF_FFFF for a divisor of 0. -/
def divS (a b : Word) : Word := if b = 0 then 0xFFFFFFFF else a.sdiv b
/-- R227: the unsigned quotient; 0xFFFF_FFFF for a divisor of 0. -/
def divU (a b : Word) : Word := if b = 0 then 0xFFFFFFFF else a / b
/-- R227: the remainder with the sign of the dividend, which it returns for a divisor of 0. -/
def remS (a b : Word) : Word := if b = 0 then a else a.srem b
/-- R227: the unsigned remainder; the dividend for a divisor of 0. -/
def remU (a b : Word) : Word := if b = 0 then a else a % b

/-- R227: the high half of the signed product. -/
def mulHigh (a b : Word) : Word := (a.signExtend 64 * b.signExtend 64).extractLsb' 32 32
/-- R227: the high half of the unsigned product. -/
def mulHighU (a b : Word) : Word := (a.setWidth 64 * b.setWidth 64).extractLsb' 32 32

/-- R227: leading zeros of the low `n` bits. -/
def leadingZeros : Nat → Word → Nat
  | 0, _ => 0
  | n + 1, w => if bitAt w n then 0 else 1 + leadingZeros n w

/-- R227: 1 bits among the low `n` bits. -/
def ones : Nat → Word → Nat
  | 0, _ => 0
  | n + 1, w => b2n (bitAt w n) + ones n w

/-- R227: the byte order reversed. -/
def byteSwap (w : Word) : Word := w.extractLsb' 0 8 ++ w.extractLsb' 8 8 ++ w.extractLsb' 16 8 ++ w.extractLsb' 24 8

/-- A shift amount: bits 4:0 (R227). -/
def shamt (w : Word) : Nat := w.toNat % 32

/-- A comparison as a register value. -/
def flagWord (b : Bool) : Word := if b then 1 else 0

/-! ### Shared forms -/

/-- An ALU row: legality, then the thread after it (R227). -/
def aluRow (fn : Nat) (legal : RFields → Bool) (g : Thread → RFields → Thread) (t : ThreadId) (f : RFields) (s : State) :
    Outcome State Fault Refusal :=
  .next (issue s t (RFields.word 0x00 fn f) (legal f) true fun th => Result.regs s t (g th f))

/-- Three D registers, AUX unused. -/
def legal3 (f : RFields) : Bool := f.aux == 0
/-- RD and RS1, RS2 and AUX unused. -/
def legal2 (f : RFields) : Bool := f.rs2 == 0 && f.aux == 0
/-- RD, RS1 and a shift amount in AUX[4:0]. -/
def legalShift (f : RFields) : Bool := f.rs2 == 0 && auxWithin f.aux 0x1F

/-- rd = g(rs1, rs2), no flags. -/
def binRow (fn : Nat) (g : Word → Word → Word) : ThreadId → RFields → State → Outcome State Fault Refusal :=
  aluRow fn legal3 fun th f => th.setD f.rd (g (th.dreg f.rs1) (th.dreg f.rs2))

/-- rd = g(rs1), no flags. -/
def unRow (fn : Nat) (g : Word → Word) : ThreadId → RFields → State → Outcome State Fault Refusal :=
  aluRow fn legal2 fun th f => th.setD f.rd (g (th.dreg f.rs1))

/-- rd = g(rs1, AUX[4:0]), no flags. -/
def shiftRow (fn : Nat) (g : Word → Nat → Word) : ThreadId → RFields → State → Outcome State Fault Refusal :=
  aluRow fn legalShift fun th f => th.setD f.rd (g (th.dreg f.rs1) (f.aux.toNat % 32))

/-- ADD and ADDC: the sum, C and HC (R227). -/
def addRow (fn : Nat) (carry : Thread → Nat) : ThreadId → RFields → State → Outcome State Fault Refusal :=
  aluRow fn legal3 fun th f =>
    let a := th.dreg f.rs1
    let b := th.dreg f.rs2
    let c := carry th
    { th.setD f.rd (a + b + BitVec.ofNat 32 c) with tsr := addFlags th.tsr a b c }

/-- SUB and SUBC: the difference and the borrow in C (R227). -/
def subRow (fn : Nat) (carry : Thread → Nat) : ThreadId → RFields → State → Outcome State Fault Refusal :=
  aluRow fn legal3 fun th f =>
    let a := th.dreg f.rs1
    let b := th.dreg f.rs2
    let c := carry th
    { th.setD f.rd (a - b - BitVec.ofNat 32 c) with tsr := subFlags th.tsr a b c }

/-! ### OP 0x00 -/

def execAdd := addRow 0x00 fun _ => 0
def execAddc := addRow 0x01 fun th => b2n th.flagC
def execSub := subRow 0x02 fun _ => 0
def execSubc := subRow 0x03 fun th => b2n th.flagC
def execAnd := binRow 0x04 fun a b => a &&& b
def execOr := binRow 0x05 fun a b => a ||| b
def execXor := binRow 0x06 fun a b => a ^^^ b
def execAndn := binRow 0x07 fun a b => a &&& ~~~b
def execSll := binRow 0x08 fun a b => a <<< shamt b
def execSrl := binRow 0x09 fun a b => a >>> shamt b
def execSra := binRow 0x0A fun a b => a.sshiftRight (shamt b)
def execRor := binRow 0x0B fun a b => a.rotateRight (shamt b)
def execSlli := shiftRow 0x0C fun a n => a <<< n
def execSrli := shiftRow 0x0D fun a n => a >>> n
def execSrai := shiftRow 0x0E fun a n => a.sshiftRight n
def execRori := shiftRow 0x0F fun a n => a.rotateRight n
def execSlt := binRow 0x10 fun a b => flagWord (a.slt b)
def execSltu := binRow 0x11 fun a b => flagWord (a.ult b)
def execMin := binRow 0x12 fun a b => if a.slt b then a else b
def execMax := binRow 0x13 fun a b => if a.slt b then b else a
def execMinu := binRow 0x14 fun a b => if a.ult b then a else b
def execMaxu := binRow 0x15 fun a b => if a.ult b then b else a
def execMul := binRow 0x16 fun a b => a * b
def execMulh := binRow 0x17 mulHigh
def execMulhu := binRow 0x18 mulHighU
def execDiv := binRow 0x19 divS
def execDivu := binRow 0x1A divU
def execRem := binRow 0x1B remS
def execRemu := binRow 0x1C remU
def execClz := unRow 0x1D fun a => BitVec.ofNat 32 (leadingZeros 32 a)
def execPopc := unRow 0x1E fun a => BitVec.ofNat 32 (ones 32 a)
def execBswap := unRow 0x1F byteSwap

/-! ### Immediates (R228) -/

/-- An immediate row: legality, then the thread after it. -/
def immRow (op : Nat) (legal : IFields → Bool) (g : Thread → IFields → Thread) (t : ThreadId) (f : IFields) (s : State) :
    Outcome State Fault Refusal :=
  .next (issue s t (IFields.word op f) (legal f) true fun th => Result.regs s t (g th f))

def execAddi := immRow 0x01 (fun _ => true) fun th f => th.setD f.rd (th.dreg f.rs1 + f.imm.signExtend 32)
def execAndi := immRow 0x02 (fun _ => true) fun th f => th.setD f.rd (th.dreg f.rs1 &&& f.imm.setWidth 32)
def execOri := immRow 0x03 (fun _ => true) fun th f => th.setD f.rd (th.dreg f.rs1 ||| f.imm.setWidth 32)
def execXori := immRow 0x04 (fun _ => true) fun th f => th.setD f.rd (th.dreg f.rs1 ^^^ f.imm.setWidth 32)
def execLi := immRow 0x05 (fun f => f.rs1 == 0) fun th f => th.setD f.rd (f.imm.signExtend 32)
def execLui := immRow 0x06 (fun f => f.rs1 == 0) fun th f => th.setD f.rd (f.imm.setWidth 32 <<< 14)
def execAaddi := immRow 0x12 (fun f => isA f.rd && isA f.rs1) fun th f =>
  th.setA (aOf f.rd) (th.areg (aOf f.rs1) + f.imm.signExtend 48)
def execAlpc := immRow 0x13 (fun f => isA f.rd && f.rs1 == 0) fun th f =>
  th.setA (aOf f.rd) (th.pc + f.imm.signExtend 48)

/-! ### Bit fields (R231) -/

/-- R231: POS + WM1 above 31 is a forbidden combination; bits 5:0 are reserved. -/
def legalField (f : BFFields) : Bool := f.rsv == 0 && f.pos.toNat + f.wm1.toNat ≤ 31

/-- The low WM1 + 1 bits set. -/
def fieldMask (f : BFFields) : Word := BitVec.ofNat 32 (2 ^ (f.wm1.toNat + 1) - 1)

/-- The field of a word, right-aligned. -/
def fieldOf (f : BFFields) (w : Word) : Word := (w >>> f.pos.toNat) &&& fieldMask f

/-- R231: the field sign-extended. -/
def fieldSigned (f : BFFields) (w : Word) : Word :=
  let v := fieldOf f w
  if bitAt v f.wm1.toNat then v ||| ~~~(fieldMask f) else v

def fieldRow (fn : Nat) (g : Thread → BFFields → Word) (t : ThreadId) (f : BFFields) (s : State) :
    Outcome State Fault Refusal :=
  .next (issue s t (BFFields.word fn f) (legalField f) true fun th => Result.regs s t (th.setD f.rd (g th f)))

def execExtu := fieldRow 0 fun th f => fieldOf f (th.dreg f.rs1)
def execExts := fieldRow 1 fun th f => fieldSigned f (th.dreg f.rs1)
def execIns := fieldRow 2 fun th f =>
  (th.dreg f.rd &&& ~~~(fieldMask f <<< f.pos.toNat)) ||| ((th.dreg f.rs1 &&& fieldMask f) <<< f.pos.toNat)

end Sys2Proof.Machine
end

