-- ==== Sys2Proof/Machine/Acc.lean ====
section
/-! DEFINITION. The accumulator, decimal and digit, and transfer instructions (R232, R233, R238–R242). -/

namespace Sys2Proof.Machine

open Host

/-! ### Shared forms -/

/-- A row of OP 0x1C, 0x1D or 0x1E. -/
def rRow (op fn : Nat) (legal : RFields → Bool) (g : Thread → RFields → Thread) (t : ThreadId) (f : RFields) (s : State) :
    Outcome State Fault Refusal :=
  .next (issue s t (RFields.word op fn f) (legal f) true fun th => Result.regs s t (g th f))

/-! ### Accumulators (R232) -/

/-- acc = the exact value narrowed to 72 bits, AV when it lies outside (R232). -/
def accTo (th : Thread) (i : BitVec 1) (exact : Int) : Thread :=
  { th.setAcc i (BitVec.ofInt 72 exact) with tsr := accFlags th.tsr exact }

/-- The signed product of two D registers. -/
def prodS (th : Thread) (f : RFields) : Int := (th.dreg f.rs1).toInt * (th.dreg f.rs2).toInt
/-- The unsigned product of two D registers. -/
def prodU (th : Thread) (f : RFields) : Int := ((th.dreg f.rs1).toNat * (th.dreg f.rs2).toNat : Nat)

/-- {rs2, rs1} as 64 bits. -/
def pairOf (th : Thread) (f : RFields) : BitVec 64 := th.dreg f.rs2 ++ th.dreg f.rs1

/-- acc is RD, RS1 and RS2 are D registers. -/
def legalAcc3 (f : RFields) : Bool := isAcc f.rd && f.aux == 0
/-- acc is RS1, RD a D register. -/
def legalAccRead (m : Nat) (f : RFields) : Bool := isAcc f.rs1 && f.rs2 == 0 && auxWithin f.aux m
/-- acc is RD, RS1 and RS2 unused. -/
def legalAccOnly (m : Nat) (f : RFields) : Bool := isAcc f.rd && f.rs1 == 0 && f.rs2 == 0 && auxWithin f.aux m

/-- R232: the accumulator shifted right and saturated to signed 32 bits. -/
def saturate32 (v : Int) : Word :=
  if v < -(2 ^ 31) then 0x80000000 else if 2 ^ 31 ≤ v then 0x7FFFFFFF else BitVec.ofInt 32 v

def execMac := rRow 0x1C 0x00 legalAcc3 fun th f => accTo th (accOf f.rd) ((th.acc (accOf f.rd)).toInt + prodS th f)
def execMacu := rRow 0x1C 0x01 legalAcc3 fun th f => accTo th (accOf f.rd) ((th.acc (accOf f.rd)).toInt + prodU th f)
def execMsu := rRow 0x1C 0x02 legalAcc3 fun th f => accTo th (accOf f.rd) ((th.acc (accOf f.rd)).toInt - prodS th f)
def execMsuu := rRow 0x1C 0x03 legalAcc3 fun th f => accTo th (accOf f.rd) ((th.acc (accOf f.rd)).toInt - prodU th f)
def execMula := rRow 0x1C 0x04 legalAcc3 fun th f => th.setAcc (accOf f.rd) (BitVec.ofInt 72 (prodS th f))
def execAclr := rRow 0x1C 0x05 (legalAccOnly 0) fun th f => th.setAcc (accOf f.rd) 0
def execMtac := rRow 0x1C 0x06 legalAcc3 fun th f => th.setAcc (accOf f.rd) ((pairOf th f).signExtend 72)
def execMtacu := rRow 0x1C 0x0C legalAcc3 fun th f => th.setAcc (accOf f.rd) ((pairOf th f).setWidth 72)
def execMfacl := rRow 0x1C 0x07 (legalAccRead 0) fun th f => th.setD f.rd ((th.acc (accOf f.rs1)).setWidth 32)
def execMfach := rRow 0x1C 0x08 (legalAccRead 0) fun th f =>
  th.setD f.rd ((th.acc (accOf f.rs1)).extractLsb' 32 32)
def execMfacg := rRow 0x1C 0x09 (legalAccRead 0) fun th f =>
  th.setD f.rd (((th.acc (accOf f.rs1)).extractLsb' 64 8).signExtend 32)
def execAsat := rRow 0x1C 0x0A (legalAccRead 0x3F) fun th f =>
  th.setD f.rd (saturate32 ((th.acc (accOf f.rs1)).sshiftRight (f.aux.toNat % 64)).toInt)
def execAshr := rRow 0x1C 0x0B (legalAccOnly 0x3F) fun th f =>
  th.setAcc (accOf f.rd) ((th.acc (accOf f.rd)).sshiftRight (f.aux.toNat % 64))

/-! ### Packed BCD (R238, R239) -/

/-- Nibble `i`. -/
def nibble (n i : Nat) : Nat := n / 16 ^ i % 16

/-- Every one of the low `n` nibbles is a digit. -/
def digitsOk : Nat → Nat → Bool
  | 0, _ => true
  | n + 1, v => v % 16 ≤ 9 && digitsOk n (v / 16)

/-- The number that `n` digits spell. -/
def bcdToNat : Nat → Nat → Nat
  | 0, _ => 0
  | n + 1, v => v % 16 + 10 * bcdToNat n (v / 16)

/-- The low `n` decimal digits of a number, packed. -/
def natToBcd : Nat → Nat → Nat
  | 0, _ => 0
  | n + 1, v => v % 10 + 16 * natToBcd n (v / 10)

/-- R239: DADD and DADDC. -/
def decAdd (th : Thread) (f : RFields) (c : Nat) : Thread :=
  let a := (th.dreg f.rs1).toNat
  let b := (th.dreg f.rs2).toNat
  if digitsOk 8 a && digitsOk 8 b then
    let v := bcdToNat 8 a + bcdToNat 8 b + c
    { th.setD f.rd (BitVec.ofNat 32 (natToBcd 8 v)) with tsr := setBit th.tsr tsrDc (10 ^ 8 ≤ v) }
  else { th.setD f.rd 0 with tsr := badDigitFlags th.tsr }

/-- R239: DSUB and DSUBC; a borrow gives the ten's complement. -/
def decSub (th : Thread) (f : RFields) (c : Nat) : Thread :=
  let a := (th.dreg f.rs1).toNat
  let b := (th.dreg f.rs2).toNat
  if digitsOk 8 a && digitsOk 8 b then
    let x := bcdToNat 8 a
    let y := bcdToNat 8 b + c
    { th.setD f.rd (BitVec.ofNat 32 (natToBcd 8 (x + 10 ^ 8 - y))) with tsr := setBit th.tsr tsrDc (x < y) }
  else { th.setD f.rd 0 with tsr := badDigitFlags th.tsr }

/-- `n` nibbles of 9 (R240). -/
def nines (n : Nat) : Nat := 9 * ((16 ^ n - 1) / 15)

/-- R240: the correction k of DAJ. -/
def dajFix (th : Thread) (v : Nat) : Nat :=
  (List.range 8).foldl (fun k i =>
    if th.flagHC i || nines (i + 1) < v % 16 ^ (i + 1) then k + 6 * 16 ^ i else k) 0

/-- R240: DAJ. -/
def decAdjust (th : Thread) (f : RFields) : Thread :=
  let v := (th.dreg f.rs1).toNat
  { th.setD f.rd (BitVec.ofNat 32 (v + dajFix th v)) with
    tsr := setBit th.tsr tsrDc (th.flagHC 7 || 0x99999999 < v) }

/-- R241: DACC adds eight digits into the sixteen of the accumulator; a carry out of digit 15 goes to the count. -/
def decAccumulate (th : Thread) (f : RFields) : Thread :=
  let i := accOf f.rd
  let acc := (th.acc i).toNat
  let digits := acc % 2 ^ 64
  let count := acc / 2 ^ 64
  let a := (th.dreg f.rs1).toNat
  if digitsOk 8 a && digitsOk 16 digits then
    let v := bcdToNat 16 digits + bcdToNat 8 a
    let carry := 10 ^ 16 ≤ v
    let count' := if carry ∧ count < 255 then count + 1 else count
    let tsr := setBit th.tsr tsrDc carry
    { th.setAcc i (BitVec.ofNat 72 (count' * 2 ^ 64 + natToBcd 16 v)) with
      tsr := if carry ∧ count = 255 then setBit tsr tsrDv true else tsr }
  else { th with tsr := badDigitFlags th.tsr }

/-- R242: a character is a digit. -/
def isDigitChar (c : Byte) : Bool := 0x30 ≤ c.toNat && c.toNat ≤ 0x39

/-- R242: the leading digits of a character list, packed with the last in the low nibble. -/
def packDigits (cs : List Byte) : Nat :=
  (cs.takeWhile isDigitChar).foldl (fun v c => v * 16 + (c.toNat - 0x30)) 0

/-- R242: bit j is 1 for each non-digit character j. -/
def nonDigitMask : List Byte → Nat
  | [] => 0
  | c :: cs => b2n (!isDigitChar c) + 2 * nonDigitMask cs

/-- R242: ASC2P. -/
def asciiToPacked (th : Thread) (f : RFields) : Thread :=
  let n := f.aux.toNat / 16
  let cs := (leBytes 4 (th.dreg f.rs1).toNat ++ leBytes 4 (th.dreg f.rs2).toNat).take n
  let l := (cs.takeWhile isDigitChar).length
  (th.setD f.rd (BitVec.ofNat 32 (packDigits cs))).setD (f.aux.setWidth 4)
    (BitVec.ofNat 32 (nonDigitMask cs + l * 2 ^ 8))

/-- R242: the count N is 1–8, RS2 is unused when N is at most 4, and the mask register differs from RD unless both are D0. -/
def legalAsc2p (f : RFields) : Bool :=
  let n := f.aux.toNat / 16
  1 ≤ n && n ≤ 8 && (4 < n || f.rs2 == 0) && (f.aux.setWidth 4 != f.rd || f.rd == 0)

/-- R239: P2BIN. -/
def packedToBin (th : Thread) (f : RFields) : Thread :=
  let a := (th.dreg f.rs1).toNat
  if digitsOk 8 a then th.setD f.rd (BitVec.ofNat 32 (bcdToNat 8 a))
  else { th.setD f.rd 0 with tsr := badDigitFlags th.tsr }

/-- R239: BIN2P. -/
def binToPacked (th : Thread) (f : RFields) : Thread :=
  let a := (th.dreg f.rs1).toNat
  { th.setD f.rd (BitVec.ofNat 32 (natToBcd 8 a)) with tsr := setBit th.tsr tsrDc (10 ^ 8 ≤ a) }

def execDadd := rRow 0x1D 0x00 legal3 fun th f => decAdd th f 0
def execDaddc := rRow 0x1D 0x01 legal3 fun th f => decAdd th f (b2n th.flagDC)
def execDsub := rRow 0x1D 0x02 legal3 fun th f => decSub th f 0
def execDsubc := rRow 0x1D 0x03 legal3 fun th f => decSub th f (b2n th.flagDC)
def execDaj := rRow 0x1D 0x04 legal2 decAdjust
def execDacc := rRow 0x1D 0x05 (fun f => isAcc f.rd && legal2 f) decAccumulate
def execAsc2p := rRow 0x1D 0x07 legalAsc2p asciiToPacked
def execP2bin := rRow 0x1D 0x08 legal2 packedToBin
def execBin2p := rRow 0x1D 0x09 legal2 binToPacked

/-! ### Transfers and address arithmetic (R233) -/

/-- R233: D[rs2] sign-extended, shifted left by AUX[1:0]. -/
def scaled (th : Thread) (f : RFields) : Addr := (th.dreg f.rs2).signExtend 48 <<< (f.aux.toNat % 4)

def execMovda := rRow 0x1E 0x00 (fun f => isA f.rd && legal2 f) fun th f =>
  th.setA (aOf f.rd) ((th.dreg f.rs1).setWidth 48)
def execMovdas := rRow 0x1E 0x01 (fun f => isA f.rd && legal2 f) fun th f =>
  th.setA (aOf f.rd) ((th.dreg f.rs1).signExtend 48)
def execMovad := rRow 0x1E 0x02 (fun f => isA f.rs1 && legal2 f) fun th f =>
  th.setD f.rd ((th.areg (aOf f.rs1)).setWidth 32)
def execMovah := rRow 0x1E 0x03 (fun f => isA f.rs1 && legal2 f) fun th f =>
  th.setD f.rd (((th.areg (aOf f.rs1)).extractLsb' 32 16).setWidth 32)
def execMovha := rRow 0x1E 0x04 (fun f => isA f.rd && legal3 f) fun th f =>
  th.setA (aOf f.rd) ((th.dreg f.rs2).setWidth 16 ++ th.dreg f.rs1)
def execAadd := rRow 0x1E 0x05 (fun f => isA f.rd && isA f.rs1 && auxWithin f.aux 3) fun th f =>
  th.setA (aOf f.rd) (th.areg (aOf f.rs1) + scaled th f)
def execAsub := rRow 0x1E 0x06 (fun f => isA f.rd && isA f.rs1 && auxWithin f.aux 3) fun th f =>
  th.setA (aOf f.rd) (th.areg (aOf f.rs1) - scaled th f)
def execAdiff := rRow 0x1E 0x07 (fun f => isA f.rs1 && isA f.rs2 && legal3 f) fun th f =>
  th.setD f.rd ((th.areg (aOf f.rs1) - th.areg (aOf f.rs2)).setWidth 32)
def execAmov := rRow 0x1E 0x08 (fun f => isA f.rd && isA f.rs1 && legal2 f) fun th f =>
  th.setA (aOf f.rd) (th.areg (aOf f.rs1))

end Sys2Proof.Machine
end

