-- ==== Sys2Proof/Machine/Branch.lean ====
section
/-! DEFINITION. Branches and jumps (R207, R230) and the system instructions (R220–R222, R234, R248, R256). -/

namespace Sys2Proof.Machine

open Host

/-! ### Prediction state (R207) -/

/-- The index of a branch's counter: 1,024 per core, by PC[11:2]. -/
def counterIndex (t : Nat) (pc : Addr) : Nat := 1024 * coreOf t + pc.toNat / 4 % 1024

/-- A two-bit counter moves one step toward the outcome and saturates.  PRESUMED: the manual gives the counters and their
reset value, not this rule (log entry 12). -/
def stepBranch (c : BitVec 2) (taken : Bool) : BitVec 2 :=
  if taken then (if c = 3 then 3 else c + 1) else (if c = 0 then 0 else c - 1)

/-- The resolved branch trains its counter; counters reset to 0b01. -/
def trainBranch (s : State) (t : Nat) (pc : Addr) (taken : Bool) : State :=
  { s with cores := { s.cores with bht := smod 1 s.cores.bht (counterIndex t pc) (stepBranch · taken) } }

/-- The 4-entry return stack takes a return address. -/
def pushReturn (th : Thread) (a : Addr) : Thread := { th with retStack := (a :: th.retStack).take 4 }

/-- R230: link: A[la] = PC + 4, pushed by J. -/
def linkTo (th : Thread) (la : BitVec 3) : Thread := th.setA la (th.pc + 4)

/-! ### Conditional branches (R230) -/

/-- R230: the conditions on D registers; none is reserved. -/
def condD (cond : BitVec 4) (a b : Word) : Option Bool :=
  match cond.toNat with
  | 0 => some (a == b)
  | 1 => some (a != b)
  | 2 => some (a.slt b)
  | 3 => some (!a.slt b)
  | 4 => some (a.ult b)
  | 5 => some (!a.ult b)
  | _ => none

/-- R230: the conditions on a TSR flag. -/
def condF (cond : BitVec 4) (tsr : Word) : Option Bool :=
  match cond.toNat with
  | 0 => some (bitAt tsr tsrC)
  | 1 => some (!bitAt tsr tsrC)
  | 2 => some (bitAt tsr tsrDc)
  | 3 => some (!bitAt tsr tsrDc)
  | 4 => some (bitAt tsr tsrDv)
  | 5 => some (!bitAt tsr tsrDv)
  | 6 => some (bitAt tsr tsrAv)
  | 7 => some (!bitAt tsr tsrAv)
  | _ => none

/-- R230: the conditions on A registers. -/
def condA (cond : BitVec 4) (a b : Addr) : Option Bool :=
  match cond.toNat with
  | 0 => some (a == b)
  | 1 => some (a != b)
  | 4 => some (a.ult b)
  | 5 => some (!a.ult b)
  | _ => none

/-- R230: the target of a conditional branch. -/
def branchTarget (pc : Addr) (f : BFields) : Addr := pc + f.off.signExtend 48 * 4

/-- A conditional branch: its legality, and its condition (none for a reserved COND). -/
def branchRow (op : Nat) (legal : BFields → Bool) (cond : Thread → BFields → Option Bool) (t : ThreadId) (f : BFields)
    (s : State) : Outcome State Fault Refusal :=
  .next (issue s t (BFields.word op f) (legal f && (cond (s.thread t) f).isSome) true fun th =>
    match cond th f with
    | some true => .jump (trainBranch s t th.pc true) (branchTarget th.pc f)
    | _ => .ok (trainBranch s t th.pc false))

def execBrc := branchRow 0x14 (fun _ => true) fun th f => condD f.cond (th.dreg f.rs1) (th.dreg f.rs2)
def execBrf := branchRow 0x15 (fun f => f.rs1 == 0 && f.rs2 == 0) fun th f => condF f.cond th.tsr
def execBra := branchRow 0x16 (fun f => isA f.rs1 && isA f.rs2) fun th f =>
  condA f.cond (th.areg (aOf f.rs1)) (th.areg (aOf f.rs2))

/-- R207, R230: J. -/
def execJ (t : ThreadId) (f : JFields) (s : State) : Outcome State Fault Refusal :=
  .next (issue s t (JFields.word f) (f.link == 1 || f.la == 0) true fun th =>
    let target := th.pc + f.off.signExtend 48 * 4
    if f.link = 1 then .jump (s.setThread t (pushReturn (linkTo th f.la) (th.pc + 4))) target else .jump s target)

/-- R207, R230: JR.  The link is written after A[ab] is read; a JR without link through A6 pops the return stack. -/
def execJr (t : ThreadId) (f : JRFields) (s : State) : Outcome State Fault Refusal :=
  .next (issue s t (JRFields.word f) (f.rsv == 0 && (f.link == 1 || f.la == 0)) true fun th =>
    let target := th.areg f.ab + f.imm.signExtend 48
    if f.link = 1 then .jump (s.setThread t (linkTo th f.la)) target
    else if f.ab = 6 then .jump (s.setThread t { th with retStack := th.retStack.drop 1 }) target
    else .jump s target)

/-! ### System registers (R221, R256) -/

/-- One system register: whether it is 48 bits wide, and its lowest levels for read and write (3: none). -/
structure SysInfo where
  wide : Bool
  rd : Nat
  wr : Nat
  deriving DecidableEq, Repr

/-- R221, R256: the assigned numbers. -/
def sysInfo (n : Nat) : Option SysInfo :=
  match n with
  | 0x000 => some ⟨false, 0, 1⟩
  | 0x001 => some ⟨false, 0, 3⟩
  | 0x002 => some ⟨false, 0, 3⟩
  | 0x003 => some ⟨false, 0, 3⟩
  | 0x004 => some ⟨false, 1, 2⟩
  | 0x008 => some ⟨false, 0, 3⟩
  | 0x009 => some ⟨false, 0, 3⟩
  | 0x00A => some ⟨false, 0, 3⟩
  | 0x00B => some ⟨false, 0, 3⟩
  | 0x010 => some ⟨true, 1, 1⟩
  | 0x011 => some ⟨false, 1, 1⟩
  | 0x012 => some ⟨true, 1, 1⟩
  | 0x013 => some ⟨true, 1, 1⟩
  | 0x020 => some ⟨true, 2, 2⟩
  | 0x021 => some ⟨false, 2, 2⟩
  | 0x022 => some ⟨true, 2, 2⟩
  | 0x023 => some ⟨true, 2, 2⟩
  | 0x040 => some ⟨false, 0, 0⟩
  | 0x041 => some ⟨false, 0, 0⟩
  | 0x042 => some ⟨false, 0, 0⟩
  | 0x043 => some ⟨false, 0, 0⟩
  | 0x044 => some ⟨false, 0, 0⟩
  | 0x045 => some ⟨false, 0, 0⟩
  | 0x046 => some ⟨false, 0, 3⟩
  | 0x047 => some ⟨false, 0, 1⟩
  | 0x048 => some ⟨false, 0, 1⟩
  | _ => none

/-- R221: TID; on the management core thread[2:0] only, and the requester ID is 1024 + thread. -/
def tidOf (t : Nat) : Word :=
  if t < 1024 then at' t 16 ||| at' t 0 else 0x80000000 ||| at' t 16 ||| at' (t % 8) 0

/-- R296, R4: the CXEN bits that exist; on the AL1640-FX groups 2 and 3 read 0. -/
def cxenMask (v : Variant) : Word := if v.hasAes then 0x003F3F3F else 0x00333333

/-- CXEN of a core (R296). -/
def State.cxen (s : State) (core : Nat) : Word := sget 0x003F0000 s.cores.cxen core &&& cxenMask s.variant

/-- R243: FEAT0–FEAT3. -/
def featWord (v : Variant) : Nat → Word
  | 0 => 0x010000F0
  | 1 => if v.hasAes then 0x000000FF else 0x000000CF
  | 2 => 0x00331000
  | _ => if v.hasStack 2 then 0x004020F2 else 0x00402032

/-- R256: FAMILY. -/
def familyWord (th : Thread) : Word :=
  (match th.parent with
   | some p => at' (p % 1024) 0 ||| at' 1 10
   | none => 0) ||| at' (th.children % 16) 11

/-- The BAR0 offset of THR_SLOTk_LO of a thread's core (R255); _HI is 4 above. -/
def slotOffset (t : Nat) : Nat := thrBase (clusterOf t) + 0x300 + 8 * (coreOf t % 8)

/-- R221, R256: the value of a 32-bit system register. -/
def sysRead (s : State) (t : Nat) (th : Thread) (n : Nat) : Word :=
  match n with
  | 0x000 => th.tsr
  | 0x001 => tidOf t
  | 0x002 => s.now.setWidth 32
  | 0x003 => th.nowHi
  | 0x004 => s.cxen (coreOf t)
  | 0x008 => featWord s.variant 0
  | 0x009 => featWord s.variant 1
  | 0x00A => featWord s.variant 2
  | 0x00B => featWord s.variant 3
  | 0x011 => th.ecauseS
  | 0x021 => th.ecauseM
  | 0x040 => th.tcmp.setWidth 32
  | 0x041 => th.tcmp.extractLsb' 32 32
  | 0x042 => at' (b2n th.arm) 0
  | 0x043 => th.evpend.setWidth 32
  | 0x044 => th.evirq.setWidth 32
  | 0x045 => th.wstat.setWidth 32
  | 0x046 => familyWord th
  | 0x047 => s.reg (slotOffset t)
  | 0x048 => s.reg (slotOffset t + 4)
  | _ => 0

/-- R221: the value of a 48-bit system register. -/
def sysReadWide (th : Thread) (n : Nat) : Addr :=
  match n with
  | 0x010 => th.epcS
  | 0x012 => th.einfoS
  | 0x013 => th.vbarS
  | 0x020 => th.epcM
  | 0x022 => th.einfoM
  | 0x023 => th.vbarM
  | _ => 0

/-- R220: the TSR bits that MTS writes at a level; EXL_M at Monitor only. -/
def tsrWritable (level : Nat) : Word := if level = 2 then 0x380FFF00 else 0x300FFF00

/-- R221, R256: a write of a 32-bit system register. -/
def sysWrite (s : State) (t : Nat) (th : Thread) (n : Nat) (v : Word) : State :=
  match n with
  | 0x000 =>
    let m := tsrWritable th.level
    s.setThread t { th with tsr := (th.tsr &&& ~~~m) ||| (v &&& m) }
  | 0x004 =>
    { s with cores := { s.cores with cxen := sput 0x003F0000 s.cores.cxen (coreOf t) (v &&& cxenMask s.variant) } }
  | 0x011 => s.setThread t { th with ecauseS := v &&& 0xE000003F }
  | 0x021 => s.setThread t { th with ecauseM := v &&& 0xE000003F }
  | 0x040 => s.setThread t { th with tcmpLo := some v }
  | 0x041 => s.setThread t { th with tcmp := v ++ th.tcmpLo.getD (th.tcmp.setWidth 32), tcmpLo := none }
  | 0x042 => s.setThread t { th with arm := bitAt v 0 }
  | 0x043 => s.setThread t { th with evpend := th.evpend &&& ~~~(v.setWidth 16) }
  | 0x044 => s.setThread t { th with evirq := v.setWidth 17 }
  | 0x045 => s.setThread t { th with wstat := th.wstat &&& 0x1FF }
  | 0x047 => s.setReg (slotOffset t) (v &&& 0xFFFFFF)
  | 0x048 => s.setReg (slotOffset t + 4) (v &&& 0xFFFFFF)
  | _ => s

/-- R221: a write of a 48-bit system register; VBAR bits 11:0 are reserved. -/
def sysWriteWide (th : Thread) (n : Nat) (v : Addr) : Thread :=
  match n with
  | 0x010 => { th with epcS := v }
  | 0x012 => { th with einfoS := v }
  | 0x013 => { th with vbarS := v &&& 0xFFFFFFFFF000 }
  | 0x020 => { th with epcM := v }
  | 0x022 => { th with einfoM := v }
  | 0x023 => { th with vbarM := v &&& 0xFFFFFFFFF000 }
  | _ => th

/-- R222: the number is assigned with the width the instruction moves. -/
def sysLegal (n : Nat) (wide : Bool) : Bool :=
  match sysInfo n with
  | some i => i.wide == wide
  | none => false

/-- R222: the level of the thread reaches the register's Read column. -/
def sysReadable (level n : Nat) : Bool :=
  match sysInfo n with
  | some i => i.rd ≤ level
  | none => false

/-- R222: the level of the thread reaches the register's Write column. -/
def sysWritable (level n : Nat) : Bool :=
  match sysInfo n with
  | some i => i.wr ≤ level
  | none => false

/-- A system instruction (R234). -/
def sysRow (sub : Nat) (legal : SFields → Bool) (permitted : Nat → SFields → Bool) (body : Thread → Result) (t : ThreadId)
    (f : SFields) (s : State) : Outcome State Fault Refusal :=
  .next (issue s t (SFields.word sub f) (legal f) (permitted (s.thread t).level f) body)

/-- R221, R234: MFS; a read of NOW_LO latches NOW_HI. -/
def execMfs (t : ThreadId) (f : SFields) (s : State) : Outcome State Fault Refusal :=
  sysRow 0x00 (fun f => f.rs1 == 0 && sysLegal f.imm.toNat false) (fun l f => sysReadable l f.imm.toNat)
    (fun th =>
      let th1 := th.setD f.rd (sysRead s t th f.imm.toNat)
      .ok (s.setThread t (if f.imm = 0x002 then { th1 with nowHi := s.now.extractLsb' 32 32 } else th1))) t f s

def execMts (t : ThreadId) (f : SFields) (s : State) : Outcome State Fault Refusal :=
  sysRow 0x01 (fun f => f.rd == 0 && sysLegal f.imm.toNat false) (fun l f => sysWritable l f.imm.toNat)
    (fun th => .ok (sysWrite s t th f.imm.toNat (th.dreg f.rs1))) t f s

def execMfsa (t : ThreadId) (f : SFields) (s : State) : Outcome State Fault Refusal :=
  sysRow 0x02 (fun f => isA f.rd && f.rs1 == 0 && sysLegal f.imm.toNat true) (fun l f => sysReadable l f.imm.toNat)
    (fun th => .ok (s.setThread t (th.setA (aOf f.rd) (sysReadWide th f.imm.toNat)))) t f s

def execMtsa (t : ThreadId) (f : SFields) (s : State) : Outcome State Fault Refusal :=
  sysRow 0x03 (fun f => f.rd == 0 && isA f.rs1 && sysLegal f.imm.toNat true) (fun l f => sysWritable l f.imm.toNat)
    (fun th => .ok (s.setThread t (sysWriteWide th f.imm.toNat (th.areg (aOf f.rs1))))) t f s

/-- RD and RS1 unused. -/
def legalImm12 (f : SFields) : Bool := f.rd == 0 && f.rs1 == 0

def execSyscall (t : ThreadId) (f : SFields) (s : State) : Outcome State Fault Refusal :=
  sysRow 0x04 legalImm12 (fun _ _ => true) (fun _ => .call codeSyscall (f.imm.setWidth 48)) t f s

def execMoncall (t : ThreadId) (f : SFields) (s : State) : Outcome State Fault Refusal :=
  sysRow 0x05 legalImm12 (fun _ _ => true) (fun _ => .call codeMoncall (f.imm.setWidth 48)) t f s

def execBreakOp (t : ThreadId) (f : SFields) (s : State) : Outcome State Fault Refusal :=
  sysRow 0x06 legalImm12 (fun _ _ => true) (fun _ => .raise codeBreak (f.imm.setWidth 48)) t f s

/-- R248: ERET, at Supervisor or above. -/
def execEret (t : ThreadId) (f : SFields) (s : State) : Outcome State Fault Refusal :=
  sysRow 0x07 (fun f => legalImm12 f && f.imm == 0) (fun l _ => 1 ≤ l) (fun th => .gone (endStep (s.setThread t (returnFrom th)) t)) t f s

/-- R212: FENCE.  Every access of a thread that is not its last has completed before the thread issues again, so the wait ends
at once. -/
def execFence (t : ThreadId) (f : SFields) (s : State) : Outcome State Fault Refusal :=
  sysRow 0x08 (fun f => legalImm12 f && f.imm != 0 && f.imm.toNat < 8) (fun _ _ => true) (fun _ => .ok s) t f s

def execClrf (t : ThreadId) (f : SFields) (s : State) : Outcome State Fault Refusal :=
  sysRow 0x09 (fun f => legalImm12 f && f.imm.toNat < 32) (fun _ _ => true)
    (fun th => .ok (s.setThread t { th with tsr := clearFlags th.tsr f.imm })) t f s

end Sys2Proof.Machine
end

