-- ==== Sys2Proof/Machine/Lck.lean ====
section
/-! DEFINITION. The lock unit (R303–R325): locks, semaphores, inheritance signals, forced release, and the atomic instructions. -/

namespace Sys2Proof.Machine

open Host

def State.setLck (s : State) (l : Lck) : State := { s with lck := l }

/-! ### Effective priority and signals (R197, R308, R309) -/

/-- R197: EP of a thread, the larger of BASE and INH; other requesters rank as EP 0 (R308). -/
def State.ep (s : State) (req : Nat) : Nat :=
  let p := sget ThreadPrio.none s.dlr.tpri req
  if req < 1032 then max p.base (p.inh.getD 0) else 0

/-- The lock that a requester waits on. -/
def State.waitedLock (s : State) (req : Nat) : Option Nat :=
  (s.lck.locks.find? fun e => e.2.waiters.any fun w => w.req == req).map (·.1)

/-- R309: the INH level of a holder: the highest EP of the waiters on its locks, 16 when one is trumped, none without waiters. -/
def State.inhLevel (s : State) (holder : Nat) : Option Nat :=
  let ws := (s.lck.locks.filter fun e => e.2.holder == holder).flatMap fun e => e.2.waiters
  ws.foldl (fun acc w => some (max (acc.getD 0) (if w.trumped then 16 else s.ep w.req))) none

/-- R309: signal the Dealer when the level of a holder has changed. -/
def signalInh (s : State) (holder : Nat) : State :=
  let v := s.inhLevel holder
  if 1032 ≤ holder ∨ sget none s.lck.signalled holder = v then s
  else
    { s with lck := { s.lck with signalled := sput none s.lck.signalled holder v }
             dlr := { s.dlr with inhBox := s.dlr.inhBox ++ [(holder, v)] } }

/-! ### Answers to threads (R303, R304) -/

/-- A status word: STATUS and the value in bits 31:16. -/
def statusWord (st v : Nat) : Word := BitVec.ofNat 32 (st + v % 65536 * 65536)

/-- The instruction's status word is on its way: the thread issues nothing until it is written (R257, R303). -/
def answer (s : State) (t : Nat) (rd : BitVec 4) (v : Word) : Result :=
  .stay (s.modThread t fun th => { th with outstanding := some (.status rd v none) })

/-- A wait of thread `t` ends with a status word. -/
def endWait (s : State) (t : Nat) (rd : BitVec 4) (v : Word) : State :=
  s.modThread t fun th =>
    { th with state := if th.state = .wait then .run else th.state, wait := .none,
              outstanding := some (.status rd v none) }

/-- The RD field of a lock-unit wait. -/
def lockWaitRd (th : Thread) : Option (BitVec 4) :=
  match th.wait with
  | .lock rd _ => some rd
  | .sem rd _ => some rd
  | _ => none

/-- End the lock-unit wait of a thread, if it is in one. -/
def endLockWait (s : State) (t : Nat) (v : Word) : State :=
  match lockWaitRd (s.thread t) with
  | some rd => endWait s t rd v
  | none => s

/-! ### Grants (R308, R310) -/

/-- A waiter ranks before another: trumped before untrumped, then by EP unless order is by age alone; at equal rank the older
stays first. -/
def rankBefore (s : State) (fifo : Bool) (a b : LckWaiter) : Bool :=
  if a.trumped != b.trumped then a.trumped
  else if a.trumped || fifo then false
  else s.ep b.req < s.ep a.req

/-- R308: the waiter to be granted, from a list with the oldest first. -/
def chooseWaiter (s : State) (fifo : Bool) : List LckWaiter → Option LckWaiter
  | [] => none
  | w :: ws =>
    match chooseWaiter s fifo ws with
    | none => some w
    | some v => some (if rankBefore s fifo v w then v else w)

def dropWaiter (req : Nat) (ws : List LckWaiter) : List LckWaiter := ws.filter fun w => w.req != req

def lckGrant : Nat := lckBase + 0x900

/-- R310, R321: a lock loses its holder: it is handed to the waiter chosen under R308 or becomes free. -/
def passLock (s : State) (n : Nat) (l : LockSt) : State :=
  match chooseWaiter s false l.waiters with
  | none => signalInh (s.setLck { s.lck with locks := sdel s.lck.locks n }) l.holder
  | some w =>
    let l' : LockSt := { holder := w.req, waiters := dropWaiter w.req l.waiters }
    let s1 := (s.setLck { s.lck with locks := sins s.lck.locks n l' }).count lckGrant
    let s2 := if w.wd = .interrupt then s1 else endLockWait s1 w.req (statusWord 0 0)
    signalInh (signalInh s2 l.holder) w.req

def State.sem (s : State) (n : Nat) : SemSt := sget SemSt.empty s.lck.sems n

def State.setSem (s : State) (n : Nat) (v : SemSt) : State :=
  s.setLck { s.lck with sems := sput SemSt.empty s.lck.sems n v }

/-- LCK_TUNE.SEM_FIFO (R324). -/
def State.semFifo (s : State) : Bool := s.expert lckBase (lckBase + 0x40) 24 24 0 == 1

/-- R308: one unit goes to the chosen waiter of a semaphore; a withdrawn one leaves an unclaimed grant (R314). -/
def grantSem (s : State) (n : Nat) (w : LckWaiter) : State :=
  let v := s.sem n
  let s1 := (s.setSem n { v with waiters := dropWaiter w.req v.waiters }).count lckGrant
  if w.wd = .interrupt then s1.setLck { s1.lck with unclaimed := s1.lck.unclaimed ++ [(w.req, n)] }
  else endLockWait s1 w.req (statusWord 0 v.count.toNat)

/-- R308, R323: waiters are granted while the count allows; the fuel is the number of waiters. -/
def grantSems : Nat → State → Nat → State
  | 0, s, _ => s
  | k + 1, s, n =>
    let v := s.sem n
    if v.count = 0 then s
    else match chooseWaiter s s.semFifo v.waiters with
      | none => s
      | some w => grantSems k (grantSem (s.setSem n { v with count := v.count - 1 }) n w) n

/-- A unit returns to a semaphore: to a waiter, or to the count (R303, R314). -/
def giveUnit (s : State) (n : Nat) : State :=
  let v := s.sem n
  match chooseWaiter s s.semFifo v.waiters with
  | some w => grantSem s n w
  | none => if v.count = 0xFFFF then s else s.setSem n { v with count := v.count + 1 }

/-- R314: the unclaimed semaphore grants of a requester return their units; `keep` names one that stays. -/
def dropSemGrants (s : State) (req : Nat) (keep : Option Nat) : State :=
  let mine := s.lck.unclaimed.filter fun g => g.1 == req && some g.2 != keep
  let rest := s.lck.unclaimed.filter fun g => !(g.1 == req && some g.2 != keep)
  mine.foldl (fun st g => giveUnit st g.2) (s.setLck { s.lck with unclaimed := rest })

/-! ### Requests (R303–R306, R315) -/

/-- What the lock unit answers: a status and its value, or that the request is to wait. -/
inductive LckAnswer where
  | done (status value : Nat)
  | waits
  deriving DecidableEq, Repr

/-- R316: follow the wait-for chain from a holder; true when it returns to the requester.  The fuel bounds the chain by the
number of locks held. -/
def closesCycle (s : State) (req : Nat) : Nat → Nat → Bool
  | 0, _ => false
  | k + 1, holder =>
    if holder = req then true
    else match s.waitedLock holder with
      | none => false
      | some l => match sfind s.lck.locks l with
        | none => false
        | some e => closesCycle s req k e.holder

/-- R303, R305, R316, R321: LOCK (`wait`) or TRYLOCK by a requester. -/
def lockRequest (s : State) (req n : Nat) (wait : Bool) : State × LckAnswer :=
  match sfind s.lck.locks n with
  | none =>
    ((s.setLck { s.lck with locks := sins s.lck.locks n { holder := req, waiters := [] } }).count lckGrant, .done 0 0)
  | some l =>
    if l.holder = req then (s, .done 0 1)
    else if !wait then (s, .done 3 0)
    else if closesCycle s req (s.lck.locks.length + 1) l.holder then (s.count (lckBase + 0x90C), .done 2 0)
    else
      let w : LckWaiter := { req := req, since := s.now, trumped := false, wd := .none }
      let s1 := (s.setLck { s.lck with locks := sins s.lck.locks n { l with waiters := l.waiters ++ [w] } }).count
        (lckBase + 0x904)
      (signalInh s1 l.holder, .waits)

/-- R303, R310: UNLOCK by a requester. -/
def unlockRequest (s : State) (req n : Nat) : State × LckAnswer :=
  match sfind s.lck.locks n with
  | none => (s.count (lckBase + 0x918), .done 4 0)
  | some l => if l.holder = req then (passLock s n l, .done 0 0) else (s.count (lckBase + 0x918), .done 4 0)

/-- R303, R314: SEMP by a requester. -/
def takeRequest (s : State) (req n : Nat) (wait : Bool) : State × LckAnswer :=
  let v := s.sem n
  if s.lck.unclaimed.contains (req, n) then
    (s.setLck { s.lck with unclaimed := s.lck.unclaimed.erase (req, n) }, .done 0 v.count.toNat)
  else if v.count ≠ 0 then
    ((s.setSem n { v with count := v.count - 1 }).count lckGrant, .done 0 (v.count - 1).toNat)
  else if !wait then (s, .done 3 0)
  else
    let w : LckWaiter := { req := req, since := s.now, trumped := false, wd := .none }
    ((s.setSem n { v with waiters := v.waiters ++ [w] }).count (lckBase + 0x904), .waits)

/-- R303: SEMV. -/
def giveRequest (s : State) (n : Nat) : State × LckAnswer :=
  let v := s.sem n
  match chooseWaiter s s.semFifo v.waiters with
  | some w => (grantSem s n w, .done 0 v.count.toNat)
  | none =>
    if v.count = 0xFFFF then (s, .done 5 0)
    else (s.setSem n { v with count := v.count + 1 }, .done 0 (v.count.toNat + 1))

/-! ### The instructions -/

/-- RD and RS1 used; `m` are the AUX bits used. -/
def legalLock (m : Nat) (f : RFields) : Bool := f.rs2 == 0 && auxWithin f.aux m

/-- A lock-unit instruction: the request's answer becomes a status word or a wait of kind LOCK. -/
def lockRow (fn m : Nat) (req : State → Nat → Thread → RFields → State × LckAnswer) (wait : Thread → RFields → Wait)
    (t : ThreadId) (f : RFields) (s : State) : Outcome State Fault Refusal :=
  .next (issue s t (RFields.word 0x22 fn f) (legalLock m f) true fun th =>
    match req s t th f with
    | (s1, .done st v) => answer s1 t f.rd (statusWord st v)
    | (s1, .waits) => .stay (s1.modThread t fun th => { th with state := .wait, wait := wait th f }))

/-- The lock an instruction names. -/
def lockOf (th : Thread) (f : RFields) : Nat := (th.dreg f.rs1).toNat % 16384
/-- The semaphore an instruction names. -/
def semOf (th : Thread) (f : RFields) : Nat := (th.dreg f.rs1).toNat % 4096

def execLock (t : ThreadId) (f : RFields) (s : State) : Outcome State Fault Refusal :=
  lockRow 0x00 0 (fun s t th f => lockRequest (dropSemGrants s t none) t (lockOf th f) true)
    (fun th f => .lock f.rd (lockOf th f)) t f s

def execTrylock (t : ThreadId) (f : RFields) (s : State) : Outcome State Fault Refusal :=
  lockRow 0x01 0 (fun s t th f => lockRequest (dropSemGrants s t none) t (lockOf th f) false) (fun _ _ => .none) t f s

def execUnlock (t : ThreadId) (f : RFields) (s : State) : Outcome State Fault Refusal :=
  lockRow 0x02 0 (fun s t th f => unlockRequest (dropSemGrants s t none) t (lockOf th f)) (fun _ _ => .none) t f s

def execSemp (t : ThreadId) (f : RFields) (s : State) : Outcome State Fault Refusal :=
  lockRow 0x03 1 (fun s t th f => takeRequest (dropSemGrants s t (some (semOf th f))) t (semOf th f) (!f.aux.getLsbD 0))
    (fun th f => .sem f.rd (semOf th f)) t f s

def execSemv (t : ThreadId) (f : RFields) (s : State) : Outcome State Fault Refusal :=
  lockRow 0x04 0 (fun s t th f => giveRequest (dropSemGrants s t none) (semOf th f)) (fun _ _ => .none) t f s

/-! ### Atomic instructions (R317–R320) -/

/-- R318: the memories an atomic may address. -/
def atomicPlace : Place → Bool
  | .shared _ | .pkt _ | .hbm _ => true
  | _ => false

/-- An atomic on its way to the target memory; its read, write and D[rd] come with its return (R319). -/
def atomicRow (fn : Nat) (legal : RFields → Bool) (op : Thread → RFields → AtomicOp) (t : ThreadId) (f : RFields)
    (s : State) : Outcome State Fault Refusal :=
  .next (issue s t (RFields.word 0x22 fn f) (isA f.rs1 && legal f) true fun th =>
    let ea := th.areg (aOf f.rs1)
    match checkAccess s t ea 4 true true true with
    | .inr code => .raise code ea
    | .inl place =>
      if atomicPlace place then
        .stay (s.modThread t fun th => { th with outstanding := some (.atomic f.rd (op th f) (th.dreg f.rs2) ea) })
      else .raise codeAccess ea)

def execAaddw := atomicRow 0x05 (fun f => f.aux == 0) fun _ _ => .add
def execAswpw := atomicRow 0x06 (fun f => f.aux == 0) fun _ _ => .swap
def execAcasw := atomicRow 0x07 (fun f => auxWithin f.aux 0xF) fun th f => .cas (th.dreg (f.aux.setWidth 4))
def execAandw := atomicRow 0x08 (fun f => f.aux == 0) fun _ _ => .and
def execAorw := atomicRow 0x09 (fun f => f.aux == 0) fun _ _ => .or

/-- R317: the word's new value. -/
def atomicValue (op : AtomicOp) (old operand : Word) : Word :=
  match op with
  | .add => old + operand
  | .swap => operand
  | .cas new => if old = operand then new else old
  | .and => old &&& operand
  | .or => old ||| operand

/-! ### Trump, withdrawal, force (R308, R311–R314) -/

/-- LCK_TUNE.TRUMP_CLK in FTU: a lock-unit clock of 1.6 GHz is 10 FTU (R324). -/
def State.lockTrumpAge (s : State) : Nat :=
  10 * s.expert lckBase (lckBase + 0x40) 19 0 (1600 * s.fld lckBase 7 0)

/-- Mark the waiter of requester `req` trumped when its age has reached the Trump age. -/
def markTrumped (s : State) (req : Nat) (ws : List LckWaiter) : List LckWaiter :=
  ws.map fun w => if w.req = req ∧ s.lockTrumpAge ≤ s.elapsed w.since then { w with trumped := true } else w

/-- R308: a waiter's age reaches TRUMP_AGE. -/
def execLockTrump (onSem : Bool) (n : BitVec 14) (req : BitVec 12) (s : State) : Outcome State Fault Refusal :=
  if onSem then
    let v := s.sem (n.toNat % 4096)
    let ws := markTrumped s req.toNat v.waiters
    .next (if ws = v.waiters then s else (s.setSem (n.toNat % 4096) { v with waiters := ws }).count (lckBase + 0x908))
  else
    match sfind s.lck.locks n.toNat with
    | none => .next s
    | some l =>
      let ws := markTrumped s req.toNat l.waiters
      .next (if ws = l.waiters then s
             else signalInh ((s.setLck { s.lck with locks := sins s.lck.locks n.toNat { l with waiters := ws } }).count
               (lckBase + 0x908)) l.holder)

/-- The request of `req` leaves every queue of the lock unit. -/
def removeRequests (s : State) (req : Nat) : State :=
  let holder := (s.waitedLock req).bind fun n => (sfind s.lck.locks n).map (·.holder)
  let s1 := s.setLck { s.lck with
    locks := s.lck.locks.map fun e => (e.1, { e.2 with waiters := dropWaiter req e.2.waiters })
    sems := (s.lck.sems.map fun e => (e.1, { e.2 with waiters := dropWaiter req e.2.waiters })).filter
      fun e => e.2 != SemSt.empty }
  match holder with
  | none => s1
  | some h => signalInh s1 h

/-- The withdrawal on its way for the request of `req`. -/
def State.lckWithdrawal (s : State) (req : Nat) : Withdrawal :=
  let ws := (s.lck.locks.flatMap fun e => e.2.waiters) ++ (s.lck.sems.flatMap fun e => e.2.waiters)
  match ws.find? fun w => w.req == req with
  | some w => w.wd
  | none => .none

/-- Note a withdrawal that crosses to the lock unit (R313, R314). -/
def sendLckWithdrawal (s : State) (req : Nat) (why : Withdrawal) : State :=
  let upd := fun (ws : List LckWaiter) => ws.map fun w => if w.req = req then { w with wd := why } else w
  s.setLck { s.lck with
    locks := s.lck.locks.map fun e => (e.1, { e.2 with waiters := upd e.2.waiters })
    sems := s.lck.sems.map fun e => (e.1, { e.2 with waiters := upd e.2.waiters }) }

/-- R313, R314: a withdrawal reaches the lock unit.  A grant made before it stands; otherwise the request leaves the queue, and
one that timed out completes with TIMEOUT. -/
def execLockWithdraw (t : ThreadId) (s : State) : Outcome State Fault Refusal :=
  match s.lckWithdrawal t with
  | .none => .next s
  | .timeout =>
    .next (((endLockWait (removeRequests s t) t (statusWord 1 0)).count (lckBase + 0x910)).count
      (thrBase (clusterOf t) + 0x300C))
  | _ => .next (removeRequests s t)

/-- The class of a lock: true for CONFIG (R306). -/
def State.configClass (s : State) (n : Nat) : Bool := bitAt (s.reg (lckBase + 0x100 + 4 * (n / 32))) (n % 32)

/-- R311: forced release by a requester; the result is also LCK_FORCE_RESULT. -/
def forceLock (s : State) (forcer n : Nat) : State × Nat :=
  match sfind s.lck.locks n with
  | none => (s.setLck { s.lck with forceResult := 1 }, 1)
  | some l =>
    if s.configClass n then (s.setLck { s.lck with forceResult := 2 }, 2)
    else
      let e : FlogEntry := { time := s.now, lock := n, forcer := forcer, holder := l.holder }
      let s1 := passLock s n l
      let s2 := s1.setLck { s1.lck with flog := sput FlogEntry.empty s1.lck.flog s1.lck.flogIdx e
                                        flogIdx := (s1.lck.flogIdx + 1) % 8, forceResult := 0 }
      ((s2.count (lckBase + 0x914)).logEvent 0x50 1 (evAt 0 n ||| evAt 2 l.holder ||| evAt 4 forcer), 0)

/-- The requester ID of a path (R440, R535): a register access of a PF acts under the ID of that PF's commands.  No register
outside its function page is reached by a VF, so its entry is never used. -/
def Path.requester : Path → Nat
  | .pf f => 1072 + 4 * f.val
  | .mc k => 1024 + k.val
  | .thread t => t.val
  | .vf v => 1073 + v.val % 3
  | .board => 1088
  | .fabric => 1089

/-- R586, R587: the path writes registers outside a function page. -/
def Path.writes : Path → Bool
  | .vf _ | .fabric => false
  | _ => true

def execLckForce (p : Path) (n : BitVec 14) (s : State) : Outcome State Fault Refusal :=
  .next (if Path.writes p then (forceLock s (Path.requester p) n.toNat).1 else s)

/-- R323: LCK_SEM_INITn sets the counts of semaphores 2n and 2n + 1 at once. -/
def semInit (s : State) (n : Nat) (value : Word) : State :=
  let s1 := s.setReg (lckBase + 0x1000 + 4 * n) value
  let put := fun (st : State) (k : Nat) (c : BitVec 16) =>
    let v := st.sem k
    grantSems v.waiters.length (st.setSem k { v with count := c }) k
  put (put s1 (2 * n) (value.setWidth 16)) (2 * n + 1) (value.extractLsb' 16 16)

def execSemInitWrite (p : Path) (n : BitVec 11) (value : Word) (s : State) : Outcome State Fault Refusal :=
  .next (if Path.writes p then semInit s n.toNat value else s)

/-- R312: a killed or reset requester keeps its locks; its waits and its unclaimed semaphore grants go, and
LOCK_HOLDER_RESET tells of the locks it holds. -/
def lckReset (s : State) (req : Nat) : State :=
  let s1 := dropSemGrants (removeRequests s req) req none
  let held := (s1.lck.locks.filter fun e => e.2.holder == req).length
  if held = 0 then s1 else s1.logEvent 0x51 1 (evAt 0 req ||| evAt 2 held)

end Sys2Proof.Machine
end

