-- ==== Sys2Proof/Machine/Channels.lean ====
section
/-! DEFINITION. Message channels (R267–R273) and what a thread wait does when it starts and ends (R252, R262, R272). -/

namespace Sys2Proof.Machine

open Host

/-! ### Waits (R252, R262) -/

/-- R262: the compare is armed and reached. -/
def Thread.compareReached (th : Thread) (now : Time) : Bool := th.arm && decide (th.tcmp ≤ now)

/-- R287: a THR counter of a thread's cluster. -/
def thrCount (s : State) (t off : Nat) : State := s.count (thrBase (clusterOf t) + off)

/-- Put a thread into a wait. -/
def startWait (s : State) (t : Nat) (w : Wait) : Result := .stay (s.modThread t fun th => { th with state := .wait, wait := w })

/-- R262: a wait whose instruction writes a status word ends at once with TIMEOUT when the compare is already reached. -/
def waitOrTimeout (s : State) (t : Nat) (rd : BitVec 4) (w : Wait) : Result :=
  if (s.thread t).compareReached s.now then answer (thrCount s t 0x300C) t rd (statusWord 1 0) else startWait s t w

/-- An instruction without a status word completes: the thread continues behind it. -/
def passBy (s : State) (t : Nat) : State :=
  s.modThread t fun th =>
    { th with state := if th.state = .wait then .run else th.state, wait := .none, pc := th.pc + 4, jumpFrom := none }

/-- R272: the failure record of a thread. -/
def failureRecord (status ch : Nat) : BitVec 10 := BitVec.ofNat 10 (512 + 16 * (ch % 32) + status)

/-- R272: the record is VALID for channel `ch`. -/
def Thread.failed (th : Thread) (ch : Nat) : Bool := th.wstat.getLsbD 9 && (th.wstat.toNat / 16) % 32 == ch

/-- The status the record holds. -/
def Thread.failStatus (th : Thread) : Nat := th.wstat.toNat % 16

/-! ### Channel steps (R268–R273) -/

/-- R273: a FREE channel is claimed: its buffer is cleared and the word written. -/
def claim (s : State) (c n owner idx : Nat) (data : Word) : State :=
  let ch := s.chan c n
  s.setChan c n { ch with st := .filling, owner := owner, n := 0, words := sput 0 [] idx data, top := idx + 1 }

/-- R267, R273: a channel becomes FREE, and its first claimer, if any, claims it. -/
def freeChan (s : State) (c n : Nat) : State :=
  let ch := s.chan c n
  match ch.claimers with
  | [] => s.setChan c n { Channel.empty with receivers := ch.receivers }
  | t :: rest =>
    let s1 := s.setChan c n { Channel.empty with receivers := ch.receivers, claimers := rest }
    match (s1.thread t).wait with
    | .claim _ idx data => passBy (claim s1 c n t idx data) t
    | _ => s1

/-- R271: the 8 words of a message; words at N and above are 0. -/
def messageWords (ch : Channel) : List Word := (List.range 8).map fun i => if i < ch.n then sget 0 ch.words i else 0

/-- R271, R273: thread `t` takes the message into its scratch.  A sender that waits in SEND completes with OK. -/
def takeMessage (s : State) (c n t : Nat) (dest : Addr) : State × Nat :=
  let ch := s.chan c n
  let off := 0x10000 * coreOf t + (dest.toNat - 0x100000)
  let bytes := (messageWords ch).flatMap fun w => leBytes 4 w.toNat
  let s1 := s.setMems { s.mems with scratch := writeBytes s.mems.scratch off bytes }
  if ch.st = .sending then
    match (s1.thread ch.owner).wait with
    | .send rd k =>
      if k = n ∧ (s1.thread ch.owner).state = .wait then
        (freeChan (endWait s1 ch.owner rd (statusWord 0 0)) c n, ch.n)
      else (s1.setChan c n { ch with st := .acked }, ch.n)
    | _ => (s1.setChan c n { ch with st := .acked }, ch.n)
  else (freeChan s1 c n, ch.n)

/-- R267, R271: a visible message goes to the first receiver, if any. -/
def serveReceiver (s : State) (c n : Nat) : State :=
  let ch := s.chan c n
  match ch.receivers with
  | [] => s
  | t :: rest =>
    match (s.thread t).wait with
    | .recv rd _ dest =>
      let (s1, k) := takeMessage (s.setChan c n { ch with receivers := rest }) c n t dest
      endWait s1 t rd (statusWord 0 k)
    | _ => s

/-- R269, R270: the first `k` words of an owned message become visible. -/
def commitMessage (s : State) (c n k : Nat) (st : ChanState) : State :=
  let ch := s.chan c n
  s.setChan c n { ch with st := st, n := k, words := ch.words.filter fun e => e.1 < k }

/-- The cluster's channel that an instruction names (R267). -/
def chanOf (th : Thread) (f : RFields) : Nat := (th.dreg f.rs1).toNat % 32

/-- An OP 0x21 instruction. -/
def workRow (fn : Nat) (legal : RFields → Bool) (body : Thread → Result) (t : ThreadId) (f : RFields) (s : State) :
    Outcome State Fault Refusal :=
  .next (issue s t (RFields.word 0x21 fn f) (legal f) true body)

/-! ### The instructions -/

/-- R268, R272: CHW. -/
def execChw (t : ThreadId) (f : RFields) (s : State) : Outcome State Fault Refusal :=
  workRow 0x06 (fun f => f.rd == 0 && auxWithin f.aux 7) (fun th =>
    let c := clusterOf t
    let n := chanOf th f
    let ch := s.chan c n
    let idx := f.aux.toNat
    let data := th.dreg f.rs2
    if th.failed n then .ok s
    else if ch.st = .filling ∧ ch.owner = t.val then
      .ok (s.setChan c n { ch with words := sput 0 ch.words idx data, top := max ch.top (idx + 1) })
    else if ch.st = .free then .ok (claim s c n t idx data)
    else if th.compareReached s.now then
      .ok (thrCount (s.setThread t { th with wstat := failureRecord 1 n }) t 0x300C)
    else startWait (s.setChan c n { ch with claimers := ch.claimers ++ [t.val] }) t (.claim n idx data)) t f s

/-- R272: a VALID record for the channel is the status, and is cleared. -/
def failedStatus (s : State) (t : ThreadId) (th : Thread) (rd : BitVec 4) : Result :=
  answer (s.setThread t { th with wstat := th.wstat &&& 0x1FF }) t rd (statusWord th.failStatus 0)

/-- R269: CHCOMMIT. -/
def execChcommit (t : ThreadId) (f : RFields) (s : State) : Outcome State Fault Refusal :=
  workRow 0x07 (fun f => f.rs2 == 0 && 1 ≤ f.aux.toNat && f.aux.toNat ≤ 8) (fun th =>
    let c := clusterOf t
    let n := chanOf th f
    let ch := s.chan c n
    if th.failed n then failedStatus s t th f.rd
    else if ch.st = .filling ∧ ch.owner = t.val then
      answer (serveReceiver (commitMessage s c n f.aux.toNat .full) c n) t f.rd (statusWord 0 0)
    else answer s t f.rd (statusWord 4 0)) t f s

/-- R270, R266: SEND commits what the owner has written and waits for a receiver; issued again, it waits again or finds its
message taken. -/
def execSend (t : ThreadId) (f : RFields) (s : State) : Outcome State Fault Refusal :=
  workRow 0x08 (fun f => f.rs2 == 0 && f.aux == 0) (fun th =>
    let c := clusterOf t
    let n := chanOf th f
    let ch := s.chan c n
    let wait := fun (st : State) => waitOrTimeout st t f.rd (.send f.rd n)
    if th.failed n then failedStatus s t th f.rd
    else if ch.owner = t.val ∧ ch.st = .filling then
      let s1 := serveReceiver (commitMessage s c n ch.top .sending) c n
      if (s1.chan c n).st = .acked ∧ (s1.chan c n).owner = t.val then answer (freeChan s1 c n) t f.rd (statusWord 0 0)
      else wait s1
    else if ch.owner = t.val ∧ ch.st = .sending then wait s
    else if ch.owner = t.val ∧ ch.st = .acked then answer (freeChan s c n) t f.rd (statusWord 0 0)
    else answer s t f.rd (statusWord 4 0)) t f s

/-- R271: RECV. -/
def execRecv (t : ThreadId) (f : RFields) (s : State) : Outcome State Fault Refusal :=
  workRow 0x09 (fun f => isA f.rs2 && f.aux == 0) (fun th =>
    let c := clusterOf t
    let n := chanOf th f
    let ch := s.chan c n
    let dest := th.areg (aOf f.rs2)
    match scratchArea t dest 32 4 with
    | .inr code => .raise code dest
    | .inl _ =>
      if (ch.st = .full ∨ ch.st = .sending) ∧ ch.receivers.isEmpty then
        let (s1, k) := takeMessage s c n t dest
        answer s1 t f.rd (statusWord 0 k)
      else if th.compareReached s.now then answer (thrCount s t 0x300C) t f.rd (statusWord 1 0)
      else startWait (s.setChan c n { ch with receivers := ch.receivers ++ [t.val] }) t (.recv f.rd n dest)) t f s

/-! ### Leaving a channel (R266, R273, R278) -/

/-- Take a thread out of the waiters of a channel. -/
def leaveChan (s : State) (c n t : Nat) : State :=
  let ch := s.chan c n
  s.setChan c n { ch with claimers := ch.claimers.filter (· != t), receivers := ch.receivers.filter (· != t) }

/-- R273: what the kill or reset of thread `t` does to channel `n` of its cluster. -/
def killChan (t : Nat) (s : State) (n : Nat) : State :=
  let c := clusterOf t
  let s1 := leaveChan s c n t
  let ch := s1.chan c n
  if ch.owner ≠ t ∨ ch.st = .free then s1
  else match ch.st with
    | .filling | .held => freeChan (thrCount s1 t 0x3000) c n
    | .sending => s1.setChan c n { ch with st := .full }
    | .acked => freeChan s1 c n
    | _ => s1

end Sys2Proof.Machine
end

