-- ==== Sys2Proof/Machine/HqeOps.lean ====
section
/-! DEFINITION. What the host queue engine does for other units: functions and their shares (R436, R440, R441), completion rings
(R457–R460), MSI-X (R464), and the answer to a command on whichever port it came (R457, R541, R544). -/

namespace Sys2Proof.Machine

def State.setHqe (s : State) (h : Hqe) : State := { s with hqe := h }

/-! ### Functions (R436, R438, R440, R441) -/

/-- The port of PF `p` runs as two ×8 links. -/
def State.pfSplit (s : State) (p : Nat) : Bool := if p < 2 then s.hqe.h0Split else s.hqe.h1Split

/-- PF `p` is present (R436). -/
def State.pfPresent (s : State) (p : Nat) : Bool := p == 0 || p == 2 || (p < 4 && s.pfSplit p)

/-- R438: TotalVFs. -/
def State.totalVfs (s : State) (p : Nat) : Nat := if !s.pfPresent p then 0 else if s.pfSplit p then 256 else 512

/-- The function number of VF 0 of PF `p` (R436). -/
def State.vfBase (s : State) (p : Nat) : Nat := ((List.range p).map s.totalVfs).foldl (· + ·) 4

/-- The PF of a function. -/
def State.pfOf (s : State) (fn : Nat) : Nat :=
  if fn < 4 then fn else ((List.range 4).find? fun p => decide (s.vfBase p ≤ fn) && decide (fn < s.vfBase p + s.totalVfs p)).getD 0

/-- The number of a VF within its PF. -/
def State.vfIndex (s : State) (fn : Nat) : Nat := fn - s.vfBase (s.pfOf fn)

/-- R440: the requester ID of a function's commands. -/
def State.fnRequester (s : State) (fn : Nat) : Nat :=
  if fn < 4 then 1072 + 4 * fn else 1073 + 4 * s.pfOf fn + s.vfIndex fn % 3

/-- R441: descriptor rings of a PF. -/
def State.ringShare (s : State) (p : Nat) : Nat := if !s.pfPresent p then 0 else if s.pfSplit p then 16384 else 32768
/-- R441: completion rings of a PF. -/
def State.cqShare (s : State) (p : Nat) : Nat := if !s.pfPresent p then 0 else if s.pfSplit p then 4096 else 8192
/-- The first ring of a PF's share. -/
def State.ringBaseOf (s : State) (p : Nat) : Nat := ((List.range p).map s.ringShare).foldl (· + ·) 0

def State.fn (s : State) (n : Nat) : HqeFn := sget HqeFn.reset s.hqe.fns n

def State.setFn (s : State) (n : Nat) (v : HqeFn) : State :=
  s.setHqe { s.hqe with fns := sput HqeFn.reset s.hqe.fns n v }

/-- The VFs of a PF that hold ranges, by function number. -/
def State.vfsOf (s : State) (p : Nat) : SMap HqeFn :=
  s.hqe.fns.filter fun e => 4 ≤ e.1 && s.pfOf e.1 == p

/-- A local ring number that the function may use (R441). -/
def State.ringInRange (s : State) (fn r : Nat) : Bool :=
  if fn < 4 then r < s.ringShare fn && !(s.vfsOf fn).any fun e => e.2.ringFirst ≤ r && r < e.2.ringFirst + e.2.ringCount
  else r < (s.fn fn).ringCount

/-- A local completion ring number that the function may use (R441). -/
def State.cqInRange (s : State) (fn r : Nat) : Bool :=
  if fn < 4 then r < s.cqShare fn && !(s.vfsOf fn).any fun e => e.2.cqFirst ≤ r && r < e.2.cqFirst + e.2.cqCount
  else r < (s.fn fn).cqCount

/-- Rings a function holds: FN_RINGS (R443). -/
def State.ringsHeld (s : State) (fn : Nat) : Nat :=
  if fn < 4 then s.ringShare fn - ((s.vfsOf fn).map fun e => e.2.ringCount).foldl (· + ·) 0 else (s.fn fn).ringCount

def State.cqsHeld (s : State) (fn : Nat) : Nat :=
  if fn < 4 then s.cqShare fn - ((s.vfsOf fn).map fun e => e.2.cqCount).foldl (· + ·) 0 else (s.fn fn).cqCount

/-- The key of a local ring of a function. -/
def ringKey (fn r : Nat) : Nat := 65536 * fn + r

def State.hring (s : State) (fn r : Nat) : Option HRing := sfind s.hqe.rings (ringKey fn r)

def State.setHring (s : State) (fn r : Nat) (v : HRing) : State :=
  s.setHqe { s.hqe with rings := sins s.hqe.rings (ringKey fn r) v }

def State.hcq (s : State) (fn r : Nat) : Option Cq := sfind s.hqe.cqs (ringKey fn r)

def State.setCq (s : State) (fn r : Nat) (v : Cq) : State :=
  s.setHqe { s.hqe with cqs := sins s.hqe.cqs (ringKey fn r) v }

/-- R441, R153: the function and local number of a device-wide ring number. -/
def State.ringOwner (s : State) (g : Nat) : Nat × Nat :=
  let p := ((List.range 4).find? fun p => decide (s.ringBaseOf p ≤ g) && decide (g < s.ringBaseOf p + s.ringShare p)).getD 0
  let r := g - s.ringBaseOf p
  match (s.vfsOf p).find? fun e => e.2.ringFirst ≤ r && r < e.2.ringFirst + e.2.ringCount with
  | some e => (e.1, r - e.2.ringFirst)
  | none => (p, r)

/-- Entries of a ring of SIZE_CODE `c` (R442). -/
def ringEntries (c : Nat) : Nat := 64 * 2 ^ c

/-! ### MSI-X (R464) -/

/-- Signal a vector of a function: the message leaves, or stays pending while the vector or the function is masked. -/
def signalVector (s : State) (fn v : Nat) : State :=
  let f := s.fn fn
  if !f.msixEn then s
  else if !f.msixMask && sget false f.unmasked v then { s with sent := .msix fn v :: s.sent }
  else s.setFn fn { f with pendingVec := sput false f.pendingVec v true }

/-! ### Completion rings (R457–R460) -/

/-- The bytes of a descriptor or completion entry. -/
def Desc.bytes (d : Desc) : List Byte :=
  [d.w0, d.w1, d.w2, d.w3, d.w4, d.w5, d.w6, d.w7].flatMap fun w => leBytes 4 w.toNat

/-- R458: the entry as written, with PHASE. -/
def withPhase (c : Desc) (pi size : Nat) : Desc :=
  { c with w7 := (c.w7 &&& 0x7FFFFFFF) ||| at' (b2n (pi / size % 2 == 0)) 31 }

/-- R464: after an entry, signal the vector when MOD_CNT or SOLICIT says so. -/
def signalCq (s : State) (fn q : Nat) (solicit : Bool) : State :=
  match s.hcq fn q with
  | none => s
  | some c =>
    let n := c.unsignalled + 1
    if c.irq ∧ (solicit ∨ c.modCnt ≤ n) then signalVector (s.setCq fn q { c with unsignalled := 0 }) fn c.vector
    else s.setCq fn q { c with unsignalled := n, first := if c.unsignalled = 0 then s.now else c.first }

/-- Write one entry into host memory and account for it. -/
def writeEntry (s : State) (fn q : Nat) (c : Cq) (e : Completion) : State :=
  let size := ringEntries c.sizeCode
  let bytes := Desc.bytes (withPhase e.d c.pi size)
  let s1 := s.setMems { s.mems with host := writeBytes s.mems.host (c.base + 32 * (c.pi % size)) bytes }
  signalCq (s1.setCq fn q { c with pi := (c.pi + 1) % 2 ^ 32 }) fn q e.solicit

/-- Entries of the ring that the last consumer index read leaves unconsumed. -/
def Cq.used (c : Cq) : Nat := (c.pi + 2 ^ 32 - c.ci) % 2 ^ 32

/-- R458, R460: an entry is written at once, or waits for space behind the entries before it.  In FROZEN nothing is written
(R469). -/
def postCompletion (s : State) (fn q : Nat) (e : Completion) : State :=
  match s.hcq fn q with
  | none => s
  | some c =>
    if c.waiting.isEmpty ∧ c.used < ringEntries c.sizeCode ∧ s.dev ≠ .frozen then writeEntry s fn q c e
    else s.setCq fn q { c with waiting := c.waiting ++ [e] }

/-- R457: a completion of local ring `r`. -/
def completion (kind status r : Nat) (w1 w2 w3 : Word) (time : Time) (w6 w7 : Word) : Desc :=
  { w0 := BitVec.ofNat 32 (status + kind * 256 + r * 65536), w1 := w1, w2 := w2, w3 := w3,
    w4 := time.setWidth 32, w5 := time.extractLsb' 32 32, w6 := w6, w7 := w7 }

/-! ### Answers to commands (R457, R463, R541, R544) -/

/-- What a command leaves: its status, its results, and data for the ports that attach it. -/
structure CmdResult where
  status : Nat
  r0 : Word
  r1 : Word
  r2 : Word
  data : List Byte
  deriving DecidableEq, Repr

def CmdResult.of (status : Nat) : CmdResult := { status := status, r0 := 0, r1 := 0, r2 := 0, data := [] }
def CmdResult.value (r0 : Word) : CmdResult := { status := 0, r0 := r0, r1 := 0, r2 := 0, data := [] }

/-- R461: the completion statuses by name. -/
def stOk : Nat := 0x00
def stBadOpcode : Nat := 0x01
def stBadField : Nat := 0x02
def stUnitAbsent : Nat := 0x03
def stDenied : Nat := 0x04
def stOutOfRange : Nat := 0x05
def stDmaError : Nat := 0x06
def stDropped : Nat := 0x07
def stAborted : Nat := 0x08
def stDataEcc : Nat := 0x09
def stBusy : Nat := 0x0A
def stNotHolder : Nat := 0x0B
def stBadState : Nat := 0x0C
def stBadNode : Nat := 0x0D
def stBadEpoch : Nat := 0x0E
def stLateTime : Nat := 0x0F
def stEpochBusy : Nat := 0x10
def stNotPending : Nat := 0x11
def stBadProfile : Nat := 0x12
def stNoGroup : Nat := 0x13
def stNoProgram : Nat := 0x14
def stResource : Nat := 0x15

/-- R541: a RESPONSE to the bus owner. -/
def mctpResponse (tag : Nat) (entry data : List Byte) : List Byte :=
  [0x7E, 0x1F, 0x9A, 0x02, BitVec.ofNat 8 tag] ++ leBytes 2 data.length ++ entry ++ data

/-- R544: the payload of a MGMT response. -/
def mgmtResponse (seq : Nat) (entry data : List Byte) : List Byte :=
  [0x01, 0x01] ++ leBytes 2 seq ++ leBytes 4 data.length ++ leBytes 8 0 ++ entry ++ data

/-- R29, R457: the completion of a command goes back to its port. -/
def completeCmd (s : State) (p : CmdPort) (d : Desc) (c : CmdResult) : State :=
  let entry := fun (r idx : Nat) => completion 3 c.status r d.w1 (BitVec.ofNat 32 idx) c.r0 s.now c.r1 (c.r2 &&& 0x7FFFFFFF)
  match p with
  | .ring fn r idx sol =>
    let s1 := if c.status = stDmaError then s.count (hqeBase + 0x920) else s
    match s1.hring fn r.toNat with
    | none => s1
    | some v => postCompletion s1 fn v.cq { d := entry r.toNat idx.toNat, solicit := sol }
  | .board tag =>
    { s with sent := .mctp (mctpResponse tag.toNat (Desc.bytes (withPhase (entry 0 0) 0 1)) c.data) :: s.sent }
  | .fabric node seq =>
    let bytes := mgmtResponse seq.toNat (Desc.bytes (withPhase (entry 0 0) 0 1)) c.data
    { s with ring := { s.ring with answers := s.ring.answers ++ [(node.toNat, bytes)]
                                   lastAnswer := sins s.ring.lastAnswer node.toNat (seq.toNat, bytes) } }

/-! ### Rings that go (R469) -/

/-- R469: a ring being destroyed goes once everything fetched has completed; RING_DESTROY then completes. -/
def finishDestroy (s : State) (fn r : Nat) : State :=
  match s.hring fn r with
  | some v =>
    match v.dying with
    | some (p, d) =>
      if v.fetched.isEmpty ∧ v.reads.isEmpty ∧ v.items.isEmpty then
        let s1 := completeCmd s p d (.of stOk)
        s1.setHqe { s1.hqe with rings := sdel s1.hqe.rings (ringKey fn r) }
      else s
    | none => s
  | none => s

/-- The first item of a descriptor index taken out. -/
def dropFirst (idx : Nat) : List (Nat × Word × Bool) → List (Nat × Word × Bool)
  | [] => []
  | e :: es => if e.1 = idx then es else e :: dropFirst idx es

/-- R463: the completion of a CORE item, with its results, when its ring is still there. -/
def completeItem (s : State) (fn r idx : Nat) (c : CmdResult) : State :=
  match s.hring fn r with
  | none => s
  | some v =>
    match v.items.find? fun e => e.1 == idx with
    | none => s
    | some (_, cookie, solicit) =>
      let d := completion 3 c.status r cookie (BitVec.ofNat 32 idx) c.r0 s.now c.r1 (c.r2 &&& 0x7FFFFFFF)
      finishDestroy (postCompletion (s.setHring fn r { v with items := dropFirst idx v.items }) fn v.cq
        { d := d, solicit := solicit }) fn r

end Sys2Proof.Machine
end

