-- ==== Sys2Proof/Machine/ClsFormat.lean ====
section
/-! DEFINITION. The classifier's data formats: key fields, tree nodes, action entries, template lines and epoch descriptors, with the
checks the device makes when they are written (R134, R137, R139–R144, R151–R155, R161, R162). -/

namespace Sys2Proof.Machine

/-- Bits `hi:lo` of a number. -/
def nbits (v hi lo : Nat) : Nat := v / 2 ^ lo % 2 ^ (hi + 1 - lo)

/-- Word `n` of a line or descriptor. -/
def lineWord (l : List Byte) (n : Nat) : Nat := leNat ((l.drop (4 * n)).take 4)

/-- R134: the key field of width `w` at key bit `o`. -/
def keyField (key : SMap Byte) (o w : Nat) : Nat := beNat (readBytes key 0 128) / 2 ^ (1024 - o - w) % 2 ^ w

/-! ### Nodes (R139–R144) -/

/-- A test of a RULE node (R142). -/
structure KeyTest where
  off : Nat
  width : Nat
  value : Nat
  mask : Nat
  deriving DecidableEq, Repr

/-- A tree node as the walk reads it. -/
inductive Node where
  | empty
  | cut (off w child : Nat)
  | range (off w child : Nat) (bounds : List Nat)
  | rule (tests : List KeyTest) (more : Bool) (alt next ruleId : Nat)
  | link (target : Nat)
  | reserved
  deriving DecidableEq, Repr

/-- Test `t` of a RULE node. -/
def keyTest (l : List Byte) (t : Nat) : KeyTest :=
  let a := lineWord l (4 + 3 * t)
  { off := nbits a 31 22, width := nbits a 21 17 + 1, value := lineWord l (5 + 3 * t), mask := lineWord l (6 + 3 * t) }

/-- R139–R143: the node that a line holds. -/
def nodeOf (l : List Byte) : Node :=
  let w0 := lineWord l 0
  match nbits w0 31 28 with
  | 0 => .empty
  | 1 => .cut (nbits w0 23 14) (nbits w0 27 24) (lineWord l 1)
  | 2 => .range (nbits w0 22 13) (nbits w0 27 23 + 1) (lineWord l 1)
      ((List.range (nbits w0 12 10)).map fun i => lineWord l (2 + i))
  | 3 => .rule ((List.range (nbits w0 27 25)).map (keyTest l)) (nbits w0 24 24 == 1) (lineWord l 1) (lineWord l 2) (lineWord l 3)
  | 4 => .link (lineWord l 1)
  | _ => .reserved

/-- Words `i` to `j` are 0. -/
def zeroWords (l : List Byte) (i j : Nat) : Bool := (List.range (j + 1 - i)).all fun k => lineWord l (i + k) == 0

/-- A list rises strictly. -/
def ascending : List Nat → Bool
  | a :: b :: r => decide (a < b) && ascending (b :: r)
  | _ => true

/-- R142: a test in use. -/
def KeyTest.ok (t : KeyTest) : Bool :=
  t.off + t.width ≤ 1024 && (t.value &&& t.mask) == t.value && t.mask < 2 ^ t.width

/-- R139–R144: a node line that may be written into a region of `lines` lines. -/
def nodeOk (lines : Nat) (l : List Byte) : Bool :=
  let w0 := lineWord l 0
  match nodeOf l with
  | .empty => zeroWords l 0 15
  | .cut off w child =>
    decide (1 ≤ w) && decide (w ≤ 12) && decide (off + w ≤ 1024) && nbits w0 13 0 == 0 && zeroWords l 2 15
      && decide (child + 2 ^ w ≤ lines)
  | .range off w child bounds =>
    let n := bounds.length
    decide (1 ≤ n) && decide (off + w ≤ 1024) && nbits w0 9 0 == 0 && ascending bounds
      && bounds.all (fun b => decide (b < 2 ^ w)) && zeroWords l (2 + n) 15 && decide (child + n < lines)
  | .rule tests _ alt next _ =>
    decide (tests.length ≤ 4) && nbits w0 23 0 == 0 && tests.all KeyTest.ok
      && (List.range tests.length).all (fun t => nbits (lineWord l (4 + 3 * t)) 16 0 == 0)
      && zeroWords l (4 + 3 * tests.length) 15 && (alt == 0xFFFFFFFF || decide (alt < lines)) && decide (next < lines)
  | .link target => w0 == 0x40000000 && zeroWords l 2 15 && decide (target < lines)
  | .reserved => false

/-! ### Action entries (R151–R155) -/

/-- An action (R152). -/
inductive Act where
  | nop
  | setField (h off bytes : Nat) (csum : Bool) (value : Nat)
  | decTtl (h : Nat)
  | pushHdr (h off line : Nat)
  | popHdr (h n : Nat)
  | setClass (c : Nat) (setc : Bool) (colour : Nat)
  | meter (aware : Bool) (idx : Nat)
  | count (idx : Nat)
  | forward (dtype dest : Nat)
  | mirror (dtype dest trunc : Nat)
  | capture (trig : Nat)
  | slowPath (reason : Nat)
  | recirc
  | setDomain (key : Nat)
  | dispatch (group prio program : Nat)
  | drop (reason : Nat)
  | setMeta (word value : Nat)
  deriving DecidableEq, Repr

/-- R151: the 64-bit entries of a line. -/
def lineEntries (l : List Byte) : List Nat := (List.range 8).map fun i => leNat ((l.drop (8 * i)).take 8)

/-- R152: LAST. -/
def isLast (e : Nat) : Bool := e.testBit 57

/-- R152: the operand bits that each OP names. -/
def actMask (op : Nat) : Nat :=
  let m := fun (hi lo : Nat) => 2 ^ (hi + 1) - 2 ^ lo
  match op with
  | 0x01 => m 56 41 + m 31 0
  | 0x02 => m 56 53
  | 0x03 => m 56 44 + m 31 0
  | 0x04 => m 56 49
  | 0x05 => m 56 51
  | 0x06 => m 56 56 + m 19 0
  | 0x07 => m 23 0
  | 0x08 => m 56 54 + m 47 32
  | 0x09 => m 56 54 + m 47 32 + m 13 0
  | 0x0A | 0x0B | 0x0F => m 7 0
  | 0x0D => m 23 0
  | 0x0E => m 56 49 + m 39 32
  | 0x10 => m 33 0
  | _ => 0

/-- R153: the bits of DEST that a DTYPE names; none for a reserved DTYPE. -/
def destOk (dtype dest : Nat) : Bool :=
  match dtype with
  | 0 => dest < 16
  | 1 => dest < 2 ^ 14
  | 2 => dest < 2 ^ 16
  | 3 => dest < 2 ^ 15
  | _ => false

/-- R152, R153: the action of an entry; none for a reserved OP or a reserved operand. -/
def actOf (e : Nat) : Option Act :=
  let op := nbits e 63 58
  let h := nbits e 56 53
  let some' := fun (ok : Bool) (a : Act) => if ok && (nbits e 56 0 &&& actMask op) == nbits e 56 0 then some a else none
  match op with
  | 0x00 => some' true .nop
  | 0x01 =>
    let n := 2 ^ nbits e 43 42
    some' (decide (h < 12) && decide (n < 8) && decide (nbits e 31 0 < 2 ^ (8 * n)))
      (.setField h (nbits e 52 44) n (nbits e 41 41 == 1) (nbits e 31 0))
  | 0x02 => some' (h < 12) (.decTtl h)
  | 0x03 => some' (h < 12) (.pushHdr h (nbits e 52 44) (nbits e 31 0))
  | 0x04 => some' (decide (h < 12) && decide (1 ≤ nbits e 52 49) && decide (nbits e 52 49 ≤ 12)) (.popHdr h (nbits e 52 49))
  | 0x05 => some' (nbits e 52 51 != 3) (.setClass (nbits e 56 54) (nbits e 53 53 == 1) (nbits e 52 51))
  | 0x06 => some' true (.meter (nbits e 56 56 == 1) (nbits e 19 0))
  | 0x07 => some' true (.count (nbits e 23 0))
  | 0x08 => some' (destOk (nbits e 56 54) (nbits e 47 32)) (.forward (nbits e 56 54) (nbits e 47 32))
  | 0x09 =>
    let t := nbits e 13 0
    some' (destOk (nbits e 56 54) (nbits e 47 32) && (t == 0 || decide (64 ≤ t))) (.mirror (nbits e 56 54) (nbits e 47 32) t)
  | 0x0A => some' true (.capture (nbits e 7 0))
  | 0x0B => some' true (.slowPath (nbits e 7 0))
  | 0x0C => some' true .recirc
  | 0x0D => some' true (.setDomain (nbits e 23 0))
  | 0x0E => some' true (.dispatch (nbits e 56 53) (nbits e 52 49) (nbits e 39 32))
  | 0x0F => some' true (.drop (nbits e 7 0))
  | 0x10 => some' true (.setMeta (nbits e 33 32) (nbits e 31 0))
  | _ => none

/-- R155: the status of one entry when its line is written: 0, BAD_NODE, or UNIT_ABSENT for DTYPE RING on the AL1640-FE. -/
def entryStatus (ring : Bool) (lines e : Nat) : Nat :=
  match actOf e with
  | none => stBadNode
  | some (.pushHdr _ _ line) => if line < lines then stOk else stBadNode
  | some (.forward 1 _) | some (.mirror 1 _ _) => if ring then stOk else stUnitAbsent
  | some _ => stOk

/-- R151, R155: the status of an action line's entries: checked up to LAST, 0 after it. -/
def entriesStatus (ring : Bool) (lines : Nat) : List Nat → Nat
  | [] => stOk
  | e :: es =>
    let st := entryStatus ring lines e
    if st ≠ stOk then st
    else if isLast e then (if es.all (· == 0) then stOk else stBadNode)
    else entriesStatus ring lines es

def actionLineStatus (ring : Bool) (lines : Nat) (l : List Byte) : Nat := entriesStatus ring lines (lineEntries l)

/-! ### Template lines (R154) -/

def tmplLen (l : List Byte) : Nat := (l.getD 56 0).toNat
def tmplType (l : List Byte) : Nat := (l.getD 57 0).toNat
/-- FIX0 and FIX1. -/
def tmplFix (l : List Byte) (i : Nat) : Nat := leNat ((l.drop (58 + 2 * i)).take 2)

/-- R154: a fixup whose header lies within the bytes inserted. -/
def fixOk (l : List Byte) (f : Nat) : Bool :=
  let start := nbits f 5 0
  let ihl := (l.getD start 0).toNat % 16
  nbits f 13 6 == 0 &&
    (match nbits f 15 14 with
     | 0 => f == 0
     | 1 => decide (start + 20 ≤ tmplLen l) && (decide (ihl ≤ 5) || decide (start + 4 * ihl ≤ tmplLen l))
     | 2 => start + 40 ≤ tmplLen l
     | _ => start + 8 ≤ tmplLen l)

/-- R118, R154: a template line. -/
def templateOk (l : List Byte) : Bool :=
  let t := tmplType l
  decide (1 ≤ tmplLen l) && decide (tmplLen l ≤ 56) && (decide (t ≤ 20) || (decide (32 ≤ t) && decide (t ≤ 63)))
    && fixOk l (tmplFix l 0) && fixOk l (tmplFix l 1) && leNat ((l.drop 62).take 2) == 0

/-! ### Epoch descriptors (R136, R137, R161) -/

/-- R137: a class map entry of class `c`. -/
def mapEntryOk (lines c e : Nat) : Bool :=
  let target := nbits e 29 0
  if c < 16 then e == 0
  else match nbits e 31 30 with
    | 0 => target == 0
    | 1 => target < 16
    | 2 => target < lines
    | _ => false

/-- R161: a DISPATCH word. -/
def dispatchOk (w : Nat) : Bool := nbits w 23 8 == 0

/-- R161, R162: a descriptor, but for its epoch number. -/
def descOk (lines : Nat) (d : List Byte) : Bool :=
  d.length == 2048 && leNat ((d.drop 2).take 2) == 0 && dispatchOk (lineWord d 1) && zeroWords d 2 15
    && (List.range 16).all (fun t =>
      let root := lineWord d (16 + 4 * t)
      let miss := lineWord d (17 + 4 * t)
      decide (root < lines) && (miss == 0xFFFFFFFF || decide (miss < lines)) && dispatchOk (lineWord d (18 + 4 * t))
        && lineWord d (19 + 4 * t) == 0)
    && (List.range 4).all (fun m => (List.range 64).all fun c => mapEntryOk lines c (lineWord d (80 + 64 * m + c)))
    && zeroWords d 336 511

/-- R136: the class map that serves a source. -/
def mapOf (src : Nat) : Nat := if src < 16 then 0 else if src < 18 then 1 else if src < 22 then 2 else 3

end Sys2Proof.Machine
end

