-- ==== Sys2Proof/Machine/Crc.lean ====
section
/-! DEFINITION. Cyclic redundancy checks (R135, R291, R401, R403). -/

namespace Sys2Proof.Machine

/-- One bit of a reflected CRC of `n` bits with reflected polynomial `poly`. -/
def crcBit {n : Nat} (poly crc : BitVec n) : BitVec n := if crc.getLsbD 0 then (crc >>> 1) ^^^ poly else crc >>> 1

/-- Eight bits. -/
def crcByte {n : Nat} (poly crc : BitVec n) (b : Byte) : BitVec n :=
  let b8 := fun (x : BitVec n) => crcBit poly x
  b8 (b8 (b8 (b8 (b8 (b8 (b8 (b8 (crc ^^^ b.setWidth n))))))))

/-- R135, R291: 0x1EDC_6F41 reflected. -/
def polyCrc32c : Word := 0x82F63B78
/-- R291: 0x42F0_E1EB_A9EA_3693 reflected. -/
def polyCrc64 : BitVec 64 := 0xC96C5795D7870F42

/-- R291: the CRC32C register after some bytes. -/
def crc32c (crc : Word) (bs : List Byte) : Word := bs.foldl (crcByte polyCrc32c) crc

def crc64 (crc : BitVec 64) (bs : List Byte) : BitVec 64 := bs.foldl (crcByte polyCrc64) crc

/-- R135, R403: CRC32C of some bytes: initial value and final XOR all ones. -/
def crc32cOf (bs : List Byte) : Word := crc32c 0xFFFFFFFF bs ^^^ 0xFFFFFFFF

/-- R401: one byte of the ring header check: polynomial 0x1021, not reflected. -/
def hcrcByte (crc : BitVec 16) (b : Byte) : BitVec 16 :=
  let bit := fun (x : BitVec 16) => if x.getLsbD 15 then (x <<< 1) ^^^ 0x1021 else x <<< 1
  bit (bit (bit (bit (bit (bit (bit (bit (crc ^^^ (b.setWidth 16 <<< 8)))))))))

/-- R401: HCRC of header bytes 0–13 in wire order. -/
def hcrcOf (bs : List Byte) : BitVec 16 := bs.foldl hcrcByte 0xFFFF

end Sys2Proof.Machine
end

