-- ==== Sys2Proof/Machine/Trays.lean ====
section
/-! DEFINITION. Trays, the buffer pool manager (R326–R351): allocation, ownership, chains, waits, rejections. -/

namespace Sys2Proof.Machine

def State.setTrays (s : State) (t : Trays) : State := { s with trays := t }

/-- Pool `p` (R326). -/
def State.pool (s : State) (p : Nat) : Pool := s.trays.pools.getD p Pool.off

def State.freeList (s : State) (p : Nat) : FreeList := s.trays.free.getD p FreeList.boot

def State.setFreeList (s : State) (p : Nat) (f : FreeList) : State :=
  s.setTrays { s.trays with free := lset s.trays.free p f }

/-- SIZE in bytes (R349). -/
def Pool.size (p : Pool) : Nat := 64 * 2 ^ p.code

/-- R328: the handle of buffer `i` of pool `p`. -/
def handleOf (p i : Nat) : Nat := p * 2 ^ 29 + i

def poolOf (h : Nat) : Nat := h / 2 ^ 29
def indexIn (h : Nat) : Nat := h % 2 ^ 29

/-- R344: no buffer has this handle. -/
def State.badHandle (s : State) (h : Nat) : Bool :=
  let p := s.pool (poolOf h)
  !p.en || p.count ≤ indexIn h || 0xFFFFFFF0 ≤ h || sfind s.trays.bufs h == some .lost

/-- R328: the offset of byte `i` of a buffer in its memory. -/
def State.bufOffset (s : State) (h i : Nat) : Nat :=
  let p := s.pool (poolOf h)
  p.base + indexIn h * p.size + i

/-- Read `n` bytes of a buffer from byte `i`. -/
def State.bufRead (s : State) (h i n : Nat) : List Byte :=
  if (s.pool (poolOf h)).hbm then readBytes s.mems.hbm (s.bufOffset h i) n
  else readBytes s.mems.pkt (s.bufOffset h i) n

/-- Write bytes of a buffer from byte `i`. -/
def State.bufWrite (s : State) (h i : Nat) (bs : List Byte) : State :=
  if (s.pool (poolOf h)).hbm then hbmWrite s (s.bufOffset h i) bs
  else s.setMems { s.mems with pkt := writeBytes s.mems.pkt (s.bufOffset h i) bs }

/-- R334: the quota group of a requester ID. -/
def quotaGroup (r : Nat) : Nat :=
  if r < 1024 then r / 64
  else if r < 1032 then 16
  else if r < 1040 then 17
  else if r < 1048 then 18
  else if r < 1056 then 19
  else if r < 1064 then 20
  else if r < 1072 then 21
  else 22

/-- R334: TRY_USEg_p, buffers of pool `p` with at least one name from group `g`. -/
def State.usage (s : State) (g p : Nat) : Nat :=
  (s.trays.bufs.filter fun e => poolOf e.1 == p &&
    (match e.2 with
     | .alloc owners _ => owners.any (fun r => quotaGroup r == g)
     | _ => false)).length

/-- R334: the quota of group `g` in pool `p` leaves room. -/
def State.quotaRoom (s : State) (g p : Nat) : Bool :=
  let q := s.fld (tryBase + 0x1000 + 0x20 * g + 4 * p) 28 0
  (s.pool p).count ≤ q || s.usage g p < q

/-- Buffers of pool `p` that are LOST and were never handed out. -/
def State.lostFresh (s : State) (p : Nat) : Nat :=
  (s.trays.bufs.filter fun e => poolOf e.1 == p && (s.freeList p).fresh ≤ indexIn e.1 && e.2 == .lost).length

/-- TRY_POOLp_FREE: free buffers (R349). -/
def State.freeCount (s : State) (p : Nat) : Nat :=
  let f := s.freeList p
  if (s.pool p).en then f.front.length + f.back.length + ((s.pool p).count - f.fresh - s.lostFresh p) else 0

/-- R335: the reserve of pool `p`, which only group 19 may use. -/
def State.aboveReserve (s : State) (g p n : Nat) : Bool :=
  if g = 19 then 0 < n else s.fld (tryBase + 0x184 + 8 * p) 28 0 < n

/-- R333: the order of candidates: by SIZE, then SRAM before HBM. -/
def candidateBefore (a b : Nat × Pool) : Bool :=
  a.2.size < b.2.size || (a.2.size == b.2.size && !a.2.hbm && b.2.hbm)

/-- Insert in candidate order, after equals. -/
def insertCandidate (x : Nat × Pool) : List (Nat × Pool) → List (Nat × Pool)
  | [] => [x]
  | y :: ys => if candidateBefore x y then x :: y :: ys else y :: insertCandidate x ys

/-- R333: the candidate pools of a request, in order. -/
def State.candidates (s : State) : AllocReq → List Nat
  | .pool p => if (s.pool p).en then [p] else []
  | .size n =>
    let all := (List.range 8).map fun p => (p, s.pool p)
    ((all.filter fun e => e.2.en && e.2.fit && n ≤ e.2.size).foldl (fun l e => insertCandidate e l) []).map (·.1)

/-- The next index from `i` up whose buffer is not LOST; `fuel` bounds the LOST buffers passed over. -/
def State.nextFresh (s : State) (p : Nat) : Nat → Nat → Nat
  | 0, i => i
  | n + 1, i => if sfind s.trays.bufs (handleOf p i) = some .lost then s.nextFresh p n (i + 1) else i

/-- R333: take the first free buffer of pool `p` off its list. -/
def State.takeBuffer (s : State) (p : Nat) : Option (Nat × State) :=
  let f := s.freeList p
  match f.front with
  | i :: r => some (handleOf p i, s.setFreeList p { f with front := r })
  | [] =>
    let i := s.nextFresh p s.trays.bufs.length f.fresh
    if i < (s.pool p).count then some (handleOf p i, s.setFreeList p { f with fresh := i + 1 })
    else match f.back with
      | j :: r => some (handleOf p j, s.setFreeList p { f with back := r })
      | [] => none

/-- Record a buffer as held. -/
def State.setBuf (s : State) (h : Nat) (b : BufSt) : State :=
  s.setTrays { s.trays with bufs := sins s.trays.bufs h b }

/-- Allocate a buffer of pool `p` with requester `r` as its only name (R332, R346). -/
def State.allocFrom (s : State) (p r : Nat) : Option (Nat × State) :=
  match s.takeBuffer p with
  | none => none
  | some (h, s') => some (h, (s'.setBuf h (.alloc [r] [])).count (tryBase + 0x900))

/-- R333–R335: the first candidate that can serve the requester. -/
def State.firstFit (s : State) (r : Nat) : List Nat → Option Nat
  | [] => none
  | p :: ps =>
    let g := quotaGroup r
    if s.aboveReserve g p (s.freeCount p) && s.quotaRoom g p then some p else s.firstFit r ps

/-- The answer to an allocation load: a value at once, or a wait. -/
inductive AllocAnswer where
  | value (w : Word)
  | wait
  deriving DecidableEq, Repr

/-- R337: a waiter receives a buffer.  Its load returns the handle; a request withdrawn by an interrupt or halt leaves an
unclaimed grant (R338, R339). -/
def grantBuffer (s : State) (w : TryWaiter) (h : Nat) : State :=
  let s1 := (s.setBuf h (.alloc [w.req] [])).count (tryBase + 0x900)
  let s2 := s1.setTrays { s1.trays with waiters := s1.trays.waiters.filter (fun x => x.req != w.req) }
  if w.wd = .interrupt then
    s2.setTrays { s2.trays with unclaimed := sins s2.trays.unclaimed w.req (h, w.offset) }
  else
    s2.modThread w.req fun th =>
      match th.wait with
      | .trays rd _ _ upd =>
        { th with state := if th.state = .wait then .run else th.state, wait := .none,
                  outstanding := some (.status rd (BitVec.ofNat 32 h) upd) }
      | _ => th

/-- R337: the oldest waiter that a freed buffer of pool `p` may serve; `n` is the free count with the buffer in it. -/
def State.waiterFor (s : State) (p n : Nat) : List TryWaiter → Option TryWaiter
  | [] => none
  | w :: ws =>
    let g := quotaGroup w.req
    if (s.candidates w.ask).contains p && s.aboveReserve g p n && s.quotaRoom g p then some w else s.waiterFor p n ws

/-- R337, R346: one buffer comes back: to the oldest eligible waiter, else to the pool's free list (R333). -/
def returnBuffer (s : State) (h : Nat) : State :=
  let p := poolOf h
  let s1 := (s.setTrays { s.trays with bufs := sdel s.trays.bufs h }).count (tryBase + 0x904)
  match s1.waiterFor p (s1.freeCount p + 1) s1.trays.waiters with
  | some w => grantBuffer s1 w h
  | none =>
    let f := s1.freeList p
    if bitAt (BitVec.ofNat 32 (s1.expert tryBase (tryBase + 0x40) 24 24 0)) 0 then
      s1.setFreeList p { f with front := indexIn h :: f.front }
    else s1.setFreeList p { f with back := f.back ++ [indexIn h] }

/-- R340, R346: a head returns with every buffer of its chain that is still in service. -/
def returnChain (s : State) (h : Nat) (chain : List Nat) : State :=
  (h :: chain).foldl (fun st b => if sfind st.trays.bufs b = some .lost then st else returnBuffer st b) s

/-- R339: any other portal access of a requester first returns its unclaimed buffer, with no error record. -/
def dropUnclaimed (s : State) (r : Nat) : State :=
  match sfind s.trays.unclaimed r with
  | none => s
  | some (h, _) => returnBuffer (s.setTrays { s.trays with unclaimed := sdel s.trays.unclaimed r }) h

/-- R330–R337: an allocation load of requester `r`. -/
def allocLoad (s : State) (r : Nat) (ask : AllocReq) (blocking : Bool) (offset : Nat) : State × AllocAnswer :=
  match sfind s.trays.unclaimed r with
  | some (h, o) =>
    if o = offset then
      (s.setTrays { s.trays with unclaimed := sdel s.trays.unclaimed r }, .value (BitVec.ofNat 32 h))
    else allocFresh (dropUnclaimed s r)
  | none => allocFresh s
where
  /-- The request itself, no unclaimed grant standing. -/
  allocFresh (s : State) : State × AllocAnswer :=
    if s.dev = .frozen then (s, .value 0xFFFFFFFA)
    else
      let cs := s.candidates ask
      if cs.isEmpty then (s, .value 0xFFFFFFFD)
      else match (s.firstFit r cs).bind (fun p => s.allocFrom p r) with
        | some (h, s') => (s', .value (BitVec.ofNat 32 h))
        | none =>
          if blocking then
            ((s.setTrays { s.trays with waiters := s.trays.waiters ++
                [{ req := r, ask := ask, offset := offset, since := s.now, reported := false, wd := .none }] }).count
              (tryBase + 0x908), .wait)
          else if cs.any (fun p => s.aboveReserve (quotaGroup r) p (s.freeCount p)) then (s, .value 0xFFFFFFFE)
          else (s, .value 0xFFFFFFFF)

/-- R345: the operations an error record names. -/
inductive TryOp where
  | free | give | share | endItem | pktout
  deriving DecidableEq, Repr

def TryOp.code : TryOp → Nat
  | .free => 0 | .give => 1 | .share => 2 | .endItem => 3 | .pktout => 4

/-- R344, R345: a rejected request leaves a record, a count and an event. -/
def rejectTry (s : State) (op : TryOp) (r h reason : Nat) : State :=
  let info := r * 2 ^ 16 + op.code * 2 ^ 8 + reason
  let e : ElogEntry := { time := s.now, handle := h, req := r, op := op.code, reason := reason }
  let s1 := s.setTrays { s.trays with elog := sput ElogEntry.empty s.trays.elog s.trays.elogIdx e,
                                      elogIdx := (s.trays.elogIdx + 1) % 16 }
  (s1.count (tryBase + 0x940 + 4 * reason)).logEvent 0x58 1 (evAt 0 h ||| evAt 4 info)

/-- The first occurrence of a name taken out (R340). -/
def eraseName (r : Nat) : List Nat → List Nat
  | [] => []
  | x :: xs => if x = r then xs else x :: eraseName r xs

/-- The first occurrence of a name replaced (R341). -/
def replaceName (r r' : Nat) : List Nat → List Nat
  | [] => []
  | x :: xs => if x = r then r' :: xs else x :: replaceName r r' xs

/-- R344: why a request by `r` on handle `h` is rejected, if it is: the first reason in the manual's order. -/
def tryReason (s : State) (op : TryOp) (r h target : Nat) : Option Nat :=
  if s.badHandle h then some 4
  else match sfind s.trays.bufs h with
    | some (.cont _) => some 3
    | some .lost => some 4
    | none => some 1
    | some (.alloc owners _) =>
      if !owners.contains r then some (if op = .endItem ∨ op = .pktout then 7 else 2)
      else if op ≠ .free ∧ 1090 ≤ target then some 6
      else if op = .share ∧ 4 ≤ owners.length then some 5
      else none

/-- R340–R344: FREE, GIVE, SHARE or a device transfer by requester `r`; the flag says whether it was applied. -/
def tryApply (s : State) (op : TryOp) (r h target : Nat) : State × Bool :=
  match tryReason s op r h target with
  | some why => (rejectTry s op r h why, false)
  | none =>
    match sfind s.trays.bufs h with
    | some (.alloc owners chain) =>
      match op with
      | .free =>
        let left := eraseName r owners
        if left.isEmpty then (returnChain s h chain, true) else (s.setBuf h (.alloc left chain), true)
      | .share => (s.setBuf h (.alloc (owners ++ [target]) chain), true)
      | .give | .endItem | .pktout => (s.setBuf h (.alloc (replaceName r target owners) chain), true)
    | _ => (s, false)

/-- The name under which the packet path holds buffers (R342). -/
def pathName : Nat := 1048

/-- The buffers of a packet: its head and the rest of its chain. -/
def State.chainOf (s : State) (h : Nat) : List Nat :=
  match sfind s.trays.bufs h with
  | some (.alloc _ chain) => h :: chain
  | _ => []

/-- R329: the link word of a buffer. -/
def State.linkWord (s : State) (h : Nat) : Nat := leNat (s.bufRead h ((s.pool (poolOf h)).size - 8) 8)

/-- R329: DATA of a buffer. -/
def State.dataLen (s : State) (h : Nat) : Nat := s.linkWord h / 2 ^ 32 % 2 ^ 14

/-- The bytes of a packet of length `len`: along the chain by DATA, or the single unchained buffer (R329). -/
def State.packetBytes (s : State) (h len : Nat) : List Byte :=
  match s.chainOf h with
  | [] => []
  | [b] => s.bufRead b 0 len
  | bs => (bs.flatMap fun b => s.bufRead b 0 (s.dataLen b)).take len

/-- R329: how many data bytes each buffer of a chain receives. -/
def splitFrame (headRoom rest : Nat) : Nat → List Byte → List (List Byte)
  | 0, bs => [bs]
  | n + 1, bs =>
    if bs.length ≤ headRoom then [bs]
    else bs.take headRoom :: splitFrame rest rest n (bs.drop headRoom)

/-- Allocate `n` buffers of pool `p` for admission (R336); none when the pool runs out. -/
def admitBuffers (p : Nat) : Nat → State → Option (List Nat × State)
  | 0, s => some ([], s)
  | n + 1, s =>
    match s.takeBuffer p with
    | none => none
    | some (h, s1) =>
      match admitBuffers p n (s1.count (tryBase + 0x900)) with
      | none => none
      | some (hs, s2) => some (h :: hs, s2)

/-- Write the parts of a frame into its buffers with their link words (R329). -/
def writeParts : List Nat → List (List Byte) → State → State
  | h :: hs, b :: bs, s =>
    let next := match hs with
      | [] => 0xFFFFFFFF
      | h' :: _ => h'
    let s1 := s.bufWrite h 0 b
    let s2 := s1.bufWrite h ((s1.pool (poolOf h)).size - 8) (leBytes 8 (next + b.length * 2 ^ 32))
    writeParts hs bs s2
  | _, _, s => s

/-- R329, R336: store a frame in a chain of pool `p` in the name 1048.  The handle, or none with the refusal counted. -/
def admitFrame (s : State) (p : Nat) (frame : List Byte) : State × Option Nat :=
  let size := (s.pool p).size
  let parts := splitFrame (size - 456) (size - 8) frame.length frame
  match (if (s.pool p).en then admitBuffers p parts.length s else none) with
  | some (h :: hs, s1) =>
    let s2 := s1.setTrays { s1.trays with
      bufs := hs.foldl (fun m x => sins m x (.cont h)) (sins s1.trays.bufs h (.alloc [pathName] hs)) }
    (writeParts (h :: hs) parts s2, some h)
  | _ => (s.count (tryBase + 0x910), none)

/-- R338: the value with which a withdrawn wait ends. -/
def withdrawnValue : Withdrawal → Word
  | .deadlock => 0xFFFFFFFB
  | _ => 0xFFFFFFFC

/-- End the allocation wait of a thread with a value (R338, R348). -/
def endTrayWait (s : State) (t : Nat) (v : Word) : State :=
  let s1 := s.setTrays { s.trays with waiters := s.trays.waiters.filter (fun x => x.req != t) }
  s1.modThread t fun th =>
    match th.wait with
    | .trays rd _ _ upd =>
      { th with state := if th.state = .wait then .run else th.state, wait := .none,
                outstanding := some (.status rd v upd) }
    | _ => th

/-- R348: on entry to FROZEN every waiting allocation ends with FROZEN. -/
def traysFreeze (s : State) : State :=
  (s.trays.waiters.filter (fun w => w.wd != .interrupt)).foldl (fun st w => endTrayWait st w.req 0xFFFFFFFA)
    (s.setTrays { s.trays with waiters := s.trays.waiters.filter (fun w => w.wd != .interrupt) })

/-- R339, R278: a kill or reset takes the thread's request out and returns its unclaimed grant. -/
def traysKill (s : State) (t : Nat) : State :=
  dropUnclaimed (s.setTrays { s.trays with waiters := s.trays.waiters.filter (fun x => x.req != t) }) t

/-- R347: remove every name of `r` from one buffer; the count is of buffers returned. -/
def reclaimBuffer (r : Nat) (a : State × Nat) (e : Nat × BufSt) : State × Nat :=
  match e.2 with
  | .alloc owners chain =>
    if owners.contains r then
      let left := owners.filter (· != r)
      if left.isEmpty then (returnChain a.1 e.1 chain, a.2 + 1 + chain.length)
      else (a.1.setBuf e.1 (.alloc left chain), a.2)
    else a
  | _ => a

end Sys2Proof.Machine
end

