-- ==== Sys2Proof/Machine/Ingress.lean ====
section
/-! DEFINITION. Ingress accounting and admission (R352–R355), and the packet records that the packet path keeps by head
handle. -/

namespace Sys2Proof.Machine

/-! ### Packet records -/

def State.pkt (s : State) (h : Nat) : Pkt := sget Pkt.none s.pkts h

def State.setPkt (s : State) (h : Nat) (p : Pkt) : State := { s with pkts := sput Pkt.none s.pkts h p }

/-- A buffer that is no longer allocated has no packet record. -/
def forgetPacket (s : State) (h : Nat) : State :=
  match sfind s.trays.bufs h with
  | some (.alloc _ _) => s
  | _ => { s with pkts := sdel s.pkts h }

/-- R342: the packet path frees its name on a packet. -/
def freePacket (s : State) (h : Nat) : State := forgetPacket (tryApply s .free pathName h 0).1 h

/-! ### Occupancy (R353, R355) -/

def State.swtSet (s : State) (w : Swt) : State := { s with swt := w }

/-- The threshold registers of input `i`, priority `k`: XON and XOFF (R385). -/
def thOff (i k : Nat) : Nat := swtBase + 0x1000 + 0x40 * i + 8 * k
/-- PFC_EN and LIMIT. -/
def limOff (i k : Nat) : Nat := swtBase + 0x1004 + 0x40 * i + 8 * k

def State.occ (s : State) (i k : Nat) : Nat := sget 0 s.swt.occ (8 * i + k)

def State.xoff (s : State) (i k : Nat) : Bool := sget false s.swt.xoff (8 * i + k)

/-- R353: the count rises; R355: reaching XOFF asserts it, except in FROZEN (R383). -/
def occAdd (s : State) (i k n : Nat) : State :=
  let v := s.occ i k + n
  let s1 := s.swtSet { s.swt with occ := sput 0 s.swt.occ (8 * i + k) v }
  let th := s.reg (thOff i k)
  if th ≠ 0 ∧ bits th 15 0 * 1024 ≤ v ∧ !s.xoff i k ∧ s.dev ≠ .frozen then
    (s1.swtSet { s1.swt with xoff := sput false s1.swt.xoff (8 * i + k) true }).count (swtBase + 0xC14)
  else s1

/-- R353: the count falls; R355: falling below XON releases XOFF. -/
def occSub (s : State) (i k n : Nat) : State :=
  let v := s.occ i k - n
  let s1 := s.swtSet { s.swt with occ := sput 0 s.swt.occ (8 * i + k) v }
  if v < 1024 * s.fld (thOff i k) 31 16 then s1.swtSet { s1.swt with xoff := sput false s1.swt.xoff (8 * i + k) false }
  else s1

/-- R353: the packet leaves ingress accounting. -/
def leaveIngress (s : State) (h : Nat) : State :=
  let p := s.pkt h
  if p.counted = 0 then s else occSub (s.setPkt h { p with counted := 0 }) p.input p.prio p.counted

/-- R382: a drop by the switch core. -/
def swtDrop (s : State) (reason : Nat) : State := s.count (swtBase + 0xC40 + 4 * reason)

/-! ### Admission (R329, R336, R354) -/

/-- Buffers that a frame needs in pool `p`. -/
def State.partsOf (s : State) (p : Nat) (frame : List Byte) : Nat :=
  let size := (s.pool p).size
  (splitFrame (size - 456) (size - 8) frame.length frame).length

/-- How many buffers may be taken, one after another, while the count is below LIMIT when each is taken (R354). -/
def State.limitRoom (s : State) (i k size : Nat) : Nat :=
  let limit := 1024 * s.fld (limOff i k) 15 0
  if s.occ i k < limit then (limit - s.occ i k + size - 1) / size else 0

/-- R354: an ingress count at LIMIT stops the frame before a missing buffer would. -/
def State.overLimit (s : State) (p : Pkt) (pool : Nat) (frame : List Byte) : Bool :=
  let need := s.partsOf pool frame
  let room := s.limitRoom p.input p.prio (s.pool pool).size
  let free := s.freeCount pool
  decide (room < need) && (decide (room ≤ free) || !(s.pool pool).en) && ((s.pool pool).en || room == 0)

/-- R353, R354: admit a frame of input `p.input` and priority `p.prio` into pool `pool`.  The handle, or none when the frame was
dropped with ING_LIMIT or ADMIT. -/
def admitPacket (s : State) (p : Pkt) (pool : Nat) (frame : List Byte) : State × Option Nat :=
  let size := (s.pool pool).size
  let need := s.partsOf pool frame
  let room := s.limitRoom p.input p.prio size
  let free := s.freeCount pool
  if s.overLimit p pool frame then
    (swtDrop (occSub (occAdd s p.input p.prio (room * size)) p.input p.prio (room * size)) 2, none)
  else
    match admitFrame s pool frame with
    | (s1, none) =>
      let n := if (s.pool pool).en then free * size else 0
      (swtDrop (occSub (occAdd s1 p.input p.prio n) p.input p.prio n) 1, none)
    | (s1, some h) =>
      let s2 := s1.setPkt h { p with counted := need * size, len := frame.length, floor := true }
      (occAdd s2 p.input p.prio (need * size), some h)

/-- The oldest time of a list, if any. -/
def oldest : List Time → Option Time
  | [] => none
  | t :: ts => match oldest ts with
    | none => some t
    | some u => some (if t < u then t else u)

/-- Origin timestamps of the packets that threads wait to register (R78, R261). -/
def State.pktoutTimes (s : State) : List Time :=
  s.cores.threads.filterMap fun e => match e.2.wait with
    | .pktout _ _ ots => if e.2.state = .wait then some ots else none
    | _ => none

/-- R78: the admission floor: the oldest timestamp of any frame admitted, or submitted by a thread, and not yet registered.
Frames held by a Stop Bath are not counted. -/
def State.admissionFloor (s : State) : Option Time :=
  oldest ((s.pkts.filterMap fun e => if e.2.floor && !e.2.held then some e.2.ots else none) ++ s.pktoutTimes)

end Sys2Proof.Machine
end

