-- ==== Sys2Proof/Machine/Fix.lean ====
section
/-! DEFINITION. The Fixer (R70–R95): registration, lateness and spilling, release, hold limits, tombstones, epoch references,
and the commands that move its entries. -/

namespace Sys2Proof.Machine

open Host

def State.setFix (s : State) (f : Fix) : State := { s with fix := f }

/-! ### Configuration -/

/-- A domain profile's MODE (R73). -/
inductive DomainMode where
  | strict | bounded | unordered
  deriving DecidableEq, Repr

/-- R92: DPROF of a key. -/
def dprofOf (key : BitVec 24) : Nat := key.toNat / 2 ^ 20

def State.modeOf (s : State) (key : BitVec 24) : DomainMode :=
  match s.fld (fixBase + 8 + 4 * dprofOf key) 1 0 with
  | 0 => .strict
  | 1 => .bounded
  | _ => .unordered

/-- R73: SCOPE = FABRIC. -/
def State.fabricScope (s : State) (key : BitVec 24) : Bool := bitAt (s.reg (fixBase + 8 + 4 * dprofOf key)) 2

/-- R92: SETTLE in FTU (0.5 µs units). -/
def State.settle (s : State) : Nat := 8000 * s.fld (fixBase + 4) 15 0
/-- R92: TTL in FTU (0.5 µs units). -/
def State.ttl (s : State) : Nat := 8000 * s.fld (fixBase + 4) 31 16
/-- R92: HOLD_LIMIT in FTU. -/
def State.holdLimit (s : State) : Nat := usFtu (s.fld fixBase 15 0)

/-! ### Entries (R74–R77) -/

/-- R74: 131,072 entries. -/
def fixEntries : Nat := 131072
/-- R74: 65,536 domains. -/
def fixDomains : Nat := 65536

/-- R76: no entry is free. -/
def State.fixFull (s : State) : Bool := fixEntries ≤ s.fix.entries.length

/-- The lowest key from `n` up that a sorted list does not hold. -/
def lowestFree {α : Type} (n : Nat) : SMap α → Nat
  | [] => n
  | (k, _) :: m => if k = n then lowestFree (n + 1) m else n

def State.fixEntry (s : State) (e : Nat) : Option FixEntry := sfind s.fix.entries e

def State.setEntry (s : State) (e : Nat) (v : FixEntry) : State :=
  s.setFix { s.fix with entries := sins s.fix.entries e v }

/-- R43: the order of a domain. -/
def FixEntry.before (a b : FixEntry) : Bool :=
  a.ots < b.ots || (a.ots == b.ots && (a.node.toNat < b.node.toNat ||
    (a.node == b.node && a.sport.toNat < b.sport.toNat)))

/-- R74, R77: two keyed entries are of one domain: the same key in the table, or the same profile's spill domain. -/
def FixEntry.sameDomain (a b : FixEntry) : Bool :=
  a.keyed && b.keyed && a.spill == b.spill &&
    (if a.spill then dprofOf a.key == dprofOf b.key else a.key == b.key)

/-- The entries ahead of `e` in its domain. -/
def State.ahead (s : State) (e : Nat) (v : FixEntry) : SMap FixEntry :=
  s.fix.entries.filter fun x => x.1 != e && x.2.sameDomain v && x.2.before v

/-! ### Epoch slots (R41, R88, R167) -/

def State.slot (s : State) (k : Nat) : FixSlot := s.fix.slots.getD k FixSlot.empty

def State.setSlot (s : State) (k : Nat) (v : FixSlot) : State :=
  s.setFix { s.fix with slots := lset s.fix.slots k v }

/-- R547: DATA of an epoch event. -/
def epochData (v : FixSlot) (k : Nat) : BitVec 128 :=
  evAt 0 v.number.toNat ||| evAt 2 k ||| evAt 8 v.commit.toNat

/-- R88, R167: a LIVE slot that is not CURRENT and has no reference clears and raises EPOCH_RETIRED. -/
def retireSlot (s : State) (k : Nat) : State :=
  let v := s.slot k
  if v.live ∧ !v.current ∧ v.refs = 0 then (s.setSlot k FixSlot.empty).logEvent 0x31 0 (epochData v k) else s

/-- R41: a reference is taken. -/
def takeRef (s : State) (k : Nat) : State := s.setSlot k { s.slot k with refs := (s.slot k).refs + 1 }

/-- R41: a reference is returned. -/
def returnRef (s : State) (k : Nat) : State :=
  retireSlot (s.setSlot k { s.slot k with refs := (s.slot k).refs - 1 }) k

/-- R41, R167: slot `k` becomes LIVE and CURRENT; the previous CURRENT slot takes its superseded reference until the
successor's commit time plus TTL. -/
def makeCurrent (s : State) (k : Nat) : State :=
  let v := s.slot k
  let due : Time := v.commit + BitVec.ofNat 64 s.ttl
  let s1 := (List.range 4).foldl (fun st j =>
    let w := st.slot j
    if j ≠ k ∧ w.live ∧ w.current then
      let st1 := st.setSlot j { w with current := false, refs := w.refs + 1 }
      st1.setFix { st1.fix with superseded := sins st1.fix.superseded j due }
    else st) s
  (s1.setSlot k { v with live := true, current := true, pending := false }).logEvent 0x30 0 (epochData v k)

/-- The slot that is CURRENT. -/
def State.currentSlot (s : State) : Option Nat := (List.range 4).find? fun k => (s.slot k).live && (s.slot k).current

/-! ### Tombstones and freeing (R82–R84, R89) -/

/-- The tap of R549: a release or a tombstone of a domain profile set in CSH_TAPCFG. -/
def cshRelease (s : State) (v : FixEntry) (tomb late : Bool) : State :=
  if bitAt (s.reg (cshBase + 0x20)) 31 && v.keyed && bitAt (s.reg (cshBase + 0x24)) (dprofOf v.key) then
    s.cshOffer { typ := 3, time := s.now, ots := v.ots,
                 flags := 2 * b2n late + 4 * b2n tomb + 8 * b2n v.clamped, src := v.port.toNat,
                 trig := if tomb then v.dropReason else 0, frameLen := v.len, key := v.key.toNat,
                 cls := v.klass.toNat + 8 * v.colour.toNat, node := v.node.toNat, epoch := v.epoch.toNat, body := [] }
  else s

/-- R89: tombstones with every earlier entry of their domain resolved free their slots; one whose domain is not known yet waits for its
key. -/
def sweepTombs (s : State) : State :=
  s.setFix { s.fix with entries := s.fix.entries.filter fun x =>
    x.2.st != .tomb || !x.2.keyed || (s.ahead x.1 x.2).any fun y => y.2.st != .tomb }

/-- R74: a domain with no live entry gives up its slot: at once in LOCAL scope, and in FABRIC scope once fabric time exceeds its
last released origin timestamp plus TTL. -/
def domainIdle (s : State) (key : Nat) (d : FixDomain) : Bool :=
  !(s.fix.entries.any fun x => x.2.keyed && !x.2.spill && x.2.key.toNat == key) &&
    (match d.floor with
     | none => true
     | some t => !s.fabricScope (BitVec.ofNat 24 key) || t.toNat + s.ttl < s.nowN)

/-- Domains of LOCAL scope are given up with their last entry. -/
def sweepDomains (s : State) : State :=
  s.setFix { s.fix with domains := s.fix.domains.filter fun x =>
    !(domainIdle s x.1 x.2 && (!s.fabricScope (BitVec.ofNat 24 x.1) || x.2.floor.isNone)) }

/-- The slots that resolved entries and idle domains free. -/
def fixSweep (s : State) : State := sweepDomains (sweepTombs s)

/-- R84: entry `e` becomes a tombstone: its epoch reference returns at once, and the packet leaves ingress accounting. -/
def tombstone (s : State) (e : Nat) (why : TombReason) (dropReason : Nat) : State :=
  match s.fixEntry e with
  | none => s
  | some v =>
    if v.st = .tomb then s
    else
      let v' := { v with st := .tomb, reason := why, dropReason := dropReason }
      let s1 := (s.setEntry e v').count (fixBase + 0x100)
      fixSweep (cshRelease (returnRef (leaveIngress s1 v.handle.toNat) v.eslot) v' true v.late)

/-- A packet that a thread or the classification still works on is dropped: its buffers return, and its entry, when the
Fixer has not given it up already, becomes a tombstone (R82–R84). -/
def resolveDropped (s : State) (e h : Nat) (dropReason : Nat) : State :=
  match sfind s.fix.owed h with
  | some why =>
    let s1 := s.setFix { s.fix with owed := sdel s.fix.owed h }
    if why = .holdExpired then s1.count (fixBase + 0x110) else s1
  | none => tombstone s e .none dropReason

/-- R82, R83: the Fixer gives up an INFLIGHT entry whose packet a thread still works on. -/
def giveUp (s : State) (e : Nat) (v : FixEntry) (why : TombReason) : State :=
  let s1 := tombstone s e why 0
  s1.setFix { s1.fix with owed := sins s1.fix.owed v.handle.toNat why }

/-! ### Registration (R74, R77, R81, R89, R164, R165) -/

/-- R165: the pin reserves an entry and takes the packet's epoch reference.  The entry number, or none while FULL. -/
def reserveEntry (s : State) (h : Nat) (p : Pkt) (slot : Nat) (clamped : Bool) : Option (Nat × State) :=
  if s.fixFull then none
  else
    let e := lowestFree 0 s.fix.entries
    let v : FixEntry :=
      { ots := p.ots, key := 0, keyed := false, node := p.node, sport := p.sport, port := p.port, eslot := slot,
        epoch := (s.slot slot).number, st := .inflight, reason := .none, late := false, bypassed := false, spill := false,
        readyAt := 0, handle := BitVec.ofNat 32 h, len := p.len, outs := [], klass := 0, colour := 0, clamped := clamped,
        ring := p.ring, viol := p.viol, dropReason := 0 }
    some (e, takeRef (s.setEntry e v) slot)

/-- The highest of a list of times. -/
def newest : List Time → Option Time
  | [] => none
  | t :: ts => match newest ts with
    | none => some t
    | some u => some (if u < t then t else u)

/-- R77: the highest origin timestamp released from a profile's spill domain within the last TTL. -/
def State.spillFloor (s : State) (prof : Nat) : Option Time :=
  newest (((sget [] s.fix.spills prof).filter fun x => s.nowN ≤ x.2.toNat + s.ttl).map (·.1))

/-- R77: the profile's spill domain holds an entry. -/
def State.spilling (s : State) (prof : Nat) : Bool :=
  s.fix.entries.any fun x => x.2.keyed && x.2.spill && dprofOf x.2.key == prof

/-- R77: find or make the table slot of a key; true when the packet goes to the spill domain. -/
def placeKey (s : State) (key : BitVec 24) : State × Bool :=
  match sfind s.fix.domains key.toNat with
  | some _ => (s, false)
  | none =>
    if s.spilling (dprofOf key) || fixDomains ≤ s.fix.domains.length then (s.count (fixBase + 0x11C), true)
    else
      (s.setFix { s.fix with domains := sins s.fix.domains key.toNat { floor := s.spillFloor (dprofOf key) } }, false)

/-- R81: the release floor that a packet of this key meets. -/
def State.floorOf (s : State) (key : BitVec 24) (spill : Bool) : Option Time :=
  if spill then newest ((sget [] s.fix.spills (dprofOf key)).map (·.1))
  else (sfind s.fix.domains key.toNat).bind (·.floor)

/-- R81, R86: the packet is late. -/
def lateAt (floor : Option Time) (v : FixEntry) : Bool :=
  v.viol || (match floor with
    | none => false
    | some f => v.ots < f)

/-- R77, R81, R165: the key of an entry is delivered with the packet's class and colour; the packet no longer holds the
admission floor.  False: the packet was late in STRICT mode and has been discarded with its entry. -/
def deliverKey (s : State) (e : Nat) (key : BitVec 24) (klass : BitVec 3) (colour : BitVec 2) : State × Bool :=
  match s.fixEntry e with
  | none => (s, true)
  | some v =>
    let h := v.handle.toNat
    let s0 := s.setPkt h { s.pkt h with floor := false }
    if v.keyed then (s0, true)
    else if v.st = .tomb then
      (fixSweep (s0.setEntry e { v with key := key, keyed := true, klass := klass, colour := colour }), true)
    else
      let (s1, spill) := placeKey s0 key
      let mode := s1.modeOf key
      let late := mode != .unordered && lateAt (s1.floorOf key spill) v
      let v' := { v with key := key, keyed := true, klass := klass, colour := colour, spill := spill, late := late }
      if late ∧ mode = .strict then
        let s2 := (s1.setFix { s1.fix with entries := sdel s1.fix.entries e }).count (fixBase + 0x104)
        (fixSweep (freePacket (leaveIngress (returnRef s2 v.eslot) h) h), false)
      else (s1.setEntry e v', true)

/-! ### Release (R78–R81) -/

/-- R79: the watermarks of the counted ring inputs. -/
def State.countedMarks (s : State) : List Time :=
  s.ring.ports.filterMap fun p => if p.counted then some p.wmRx else none

/-- R78, condition 1: every earlier entry of the domain is released or tombstoned; a bypassed entry holds nothing back
(DEDUCED from R82). -/
def orderHolds (s : State) (e : Nat) (v : FixEntry) : Bool :=
  (s.ahead e v).all fun x => x.2.st == .tomb || x.2.bypassed

/-- R78, condition 2. -/
def floorHolds (s : State) (v : FixEntry) : Bool :=
  match s.admissionFloor with
  | none => true
  | some f => v.ots < f

/-- R78, condition 3, by watermark. -/
def marksHold (s : State) (v : FixEntry) : Bool := s.countedMarks.all fun m => v.ots < m

/-- R78, condition 3, by SETTLE. -/
def settleHolds (s : State) (v : FixEntry) : Bool := v.ots.toNat + s.settle < s.nowN

/-- The entry is released at completion whatever its order (R78). -/
def outOfOrder (s : State) (v : FixEntry) : Bool :=
  s.modeOf v.key == .unordered || (s.modeOf v.key == .bounded && (v.bypassed || v.late))

/-- R78: a READY entry may be released. -/
def releasable (s : State) (e : Nat) (v : FixEntry) : Bool :=
  v.st == .ready && (outOfOrder s v ||
    (orderHolds s e v && floorHolds s v && (!s.fabricScope v.key || marksHold s v || settleHolds s v)))

/-- R81: the release floor after a release. -/
def raiseFloor (s : State) (v : FixEntry) : State :=
  if v.spill then
    let old := (sget [] s.fix.spills (dprofOf v.key)).filter fun x => s.nowN ≤ x.2.toNat + s.ttl
    s.setFix { s.fix with spills := sput [] s.fix.spills (dprofOf v.key) ((v.ots, s.now) :: old) }
  else
    match sfind s.fix.domains v.key.toNat with
    | none => s
    | some d =>
      let f := match d.floor with
        | none => v.ots
        | some t => if t < v.ots then v.ots else t
      s.setFix { s.fix with domains := sins s.fix.domains v.key.toNat { floor := some f } }

/-- R78, R80, R81, R357: the entry's outputs go to the switch core together; its reference and its slot return. -/
def releaseEntry (s : State) (e : Nat) (v : FixEntry) : State :=
  let late := v.late || v.bypassed
  let r : Release :=
    { handle := v.handle, len := v.len, outs := v.outs, klass := v.klass, colour := v.colour, late := late, ots := v.ots,
      key := v.key, node := v.node, sport := v.sport, port := v.port, epoch := v.epoch, ring := v.ring }
  let s1 := s.setFix { s.fix with entries := sdel s.fix.entries e }
  let s2 := s1.swtSet { s1.swt with rels := sins s1.swt.rels s1.swt.nextRel { r := r, todo := v.outs, live := 0 },
                                    nextRel := s1.swt.nextRel + 1 }
  let s3 := if v.late then s2.count (fixBase + 0x108) else s2
  let bySettle := !outOfOrder s v && s.fabricScope v.key && !marksHold s v
  let s4 := if bySettle then s3.count (fixBase + 0x114) else s3
  fixSweep (cshRelease (returnRef (leaveIngress (raiseFloor s4 v) v.handle.toNat) v.eslot) v false late)

/-! ### Thread-created packets (R74, R261) -/

/-- R261: a thread's packet is registered as READY with its one output, in the CURRENT epoch.  A late packet of a STRICT domain
is discarded (R81).  The packet path already holds the buffer. -/
def registerCreated (s : State) (h len : Nat) (ots : Time) (key : BitVec 24) (klass : BitVec 3) (colour : BitVec 2)
    (node : BitVec 14) (out : BitVec 64) : State :=
  let slot := s.currentSlot.getD 0
  let p : Pkt := { Pkt.none with len := len, ots := ots, node := node, sport := 18, port := 18 }
  match reserveEntry s h p slot false with
  | none => s
  | some (e, s1) =>
    let pk := s1.pkt h
    let (s2, alive) := deliverKey s1 e key klass colour
    let s3 := s2.setPkt h { s2.pkt h with floor := pk.floor }
    if alive then
      match s3.fixEntry e with
      | none => s3
      | some v => s3.setEntry e { v with st := .ready, readyAt := s.now, outs := [out] }
    else forgetPacket s2 h

/-! ### The commands -/

/-- The packet record follows a packet whose thread gave it another buffer. -/
def movePacket (s : State) (old new : Nat) : State :=
  if old = new then s
  else (s.setPkt new (s.pkt old)).setPkt old { s.pkt old with counted := 0, floor := false }

/-- R89: a completion report reaches the Fixer: an INFLIGHT entry becomes READY with its outputs; for an entry given up before, the
packet's buffers are freed (R82, R83). -/
def execFixCompletion (s : State) : Outcome State Fault Refusal :=
  match s.fix.reports with
  | [] => .next s
  | r :: rest =>
    let s1 := s.setFix { s.fix with reports := rest }
    let h := r.handle.toNat
    match sfind s1.fix.owed r.orig with
    | some _ => .next (freePacket (resolveDropped s1 r.entry r.orig 0) h)
    | none =>
      match s1.fixEntry r.entry with
      | some v =>
        if v.st = .inflight then
          .next ((movePacket s1 r.orig h).setEntry r.entry
            { v with st := .ready, readyAt := s1.now, handle := r.handle, len := r.len, outs := r.outs })
        else .next s1
      | none => .next s1

/-- R78, R89: release; in FROZEN releases stop. -/
def execFixRelease (e : BitVec 17) (s : State) : Outcome State Fault Refusal :=
  match s.fixEntry e.toNat with
  | some v => .next (if s.dev ≠ .frozen ∧ releasable s e.toNat v then releaseEntry s e.toNat v else s)
  | none => .next s

/-- R38, R78: fabric time has passed an entry's origin timestamp plus SETTLE: condition 3 holds by SETTLE. -/
def execFixSettleExpire (e : BitVec 17) (s : State) : Outcome State Fault Refusal :=
  match s.fixEntry e.toNat with
  | some v =>
    .next (if s.dev ≠ .frozen ∧ s.fabricScope v.key ∧ settleHolds s v ∧ releasable s e.toNat v then releaseEntry s e.toNat v
           else s)
  | none => .next s

/-- R82: what the hold limit does to one entry ahead of the READY entry. -/
def holdAct (s : State) (x : Nat × FixEntry) : State :=
  match s.fixEntry x.1 with
  | none => s
  | some v =>
    if v.st ≠ .inflight ∨ v.bypassed then s
    else if s.modeOf v.key = .strict then giveUp (s.count (fixBase + 0x10C)) x.1 v .holdExpired
    else (s.setEntry x.1 { v with bypassed := true }).count (fixBase + 0x10C)

/-- R82: a READY entry's hold time reaches HOLD_LIMIT. -/
def execFixHoldExpire (e : BitVec 17) (s : State) : Outcome State Fault Refusal :=
  match s.fixEntry e.toNat with
  | some v =>
    if s.dev ≠ .frozen ∧ v.st = .ready ∧ s.modeOf v.key ≠ .unordered ∧ s.holdLimit ≤ s.elapsed v.readyAt then
      .next ((s.ahead e.toNat v).foldl holdAct s)
    else .next s
  | none => .next s

/-- R83: a terminating ring frame's origin timestamp plus TTL lies before fabric time. -/
def execFixTtlExpire (e : BitVec 17) (s : State) : Outcome State Fault Refusal :=
  match s.fixEntry e.toNat with
  | some v =>
    let h := v.handle.toNat
    if s.dev = .frozen ∨ !v.ring ∨ v.st = .tomb ∨ s.nowN ≤ v.ots.toNat + s.ttl then .next s
    else
      let s1 := s.count (fixBase + 0x118)
      if v.st = .ready then
        let s2 := s1.setFix { s1.fix with entries := sdel s1.fix.entries e.toNat }
        .next (fixSweep (freePacket (leaveIngress (returnRef s2 v.eslot) h) h))
      else .next (giveUp s1 e.toNat v .ttl)
  | none => .next s

/-- R74: a FABRIC domain's slot is given up. -/
def execFixDomainExpire (key : BitVec 24) (s : State) : Outcome State Fault Refusal :=
  match sfind s.fix.domains key.toNat with
  | some d =>
    .next (if domainIdle s key.toNat d then s.setFix { s.fix with domains := sdel s.fix.domains key.toNat } else s)
  | none => .next s

/-- R89: an uncorrectable error in an entry. -/
def execFixEcc (e : BitVec 17) (s : State) : Outcome State Fault Refusal :=
  match s.fixEntry e.toNat with
  | some v =>
    if v.st = .tomb then .next s
    else
      let s1 := if v.st = .ready then freePacket (tombstone s e.toNat .ecc 0) v.handle.toNat else giveUp s e.toNat v .ecc
      .next (s1.logEvent 0x33 2 (evAt 0 e.toNat))
  | none => .next s

/-- R41: fabric time reaches the successor's commit time plus TTL: the superseded reference of a slot returns. -/
def execEpochSupersededRelease (k : BitVec 2) (s : State) : Outcome State Fault Refusal :=
  match sfind s.fix.superseded k.toNat with
  | some due =>
    if due ≤ s.now then
      .next (returnRef (s.setFix { s.fix with superseded := sdel s.fix.superseded k.toNat }) k.toNat)
    else .next s
  | none => .next s

end Sys2Proof.Machine
end

