-- ==== Sys2Proof/Machine/Dlr.lean ====
section
/-! DEFINITION. The Dealer (R173–R203): lists, back-pressure, diversions, dispatch, delay lists, submissions and inheritance. -/

namespace Sys2Proof.Machine

open Host

def State.setDlr (s : State) (d : Dlr) : State := { s with dlr := d }

/-! ### Groups, threads and programs (R178–R181) -/

/-- R178: core `c` is in group `g`. -/
def State.inGroup (s : State) (g c : Nat) : Bool := bitAt (s.reg (dlrBase + 0x100 + 0x10 * g + 4 * (c / 32))) (c % 32)

/-- R178: the group has no core. -/
def State.emptyGroup (s : State) (g : Nat) : Bool :=
  (List.range 4).all fun k => s.reg (dlrBase + 0x100 + 0x10 * g + 4 * k) == 0

/-- R179: thread `t` of core `c` is a dispatch thread. -/
def State.dispatchThread (s : State) (c t : Nat) : Bool := bitAt (s.reg (dlrBase + 0x200 + 4 * (c / 4))) (8 * (c % 4) + t)

/-- DLR_PROGp (R181). -/
def State.program (s : State) (p : Nat) : Word := s.reg (dlrBase + 0x400 + 4 * p)

def State.validProgram (s : State) (p : Nat) : Bool := bitAt (s.program p) 31

/-- R180: the lowest-numbered idle dispatch thread of core `c`, as a thread ID. -/
def State.idleThread (s : State) (c : Nat) : Option Nat :=
  ((List.range 8).find? fun t => s.dispatchThread c t && (s.thread (8 * c + t)).state == .idle).map (8 * c + ·)

/-- R180: the next core of the group after the one served last that has an idle dispatch thread. -/
def State.chooseThread (s : State) (g : Nat) : Option Nat :=
  let last := sget 127 s.dlr.lastCore g
  (List.range 128).findSome? fun i =>
    let c := (last + 1 + i) % 128
    if s.inGroup g c then s.idleThread c else none

/-! ### Work items (R173, R174) -/

def wordOf (w : List Word) (i : Nat) : Word := w.getD i 0

def DlrItem.kind (x : DlrItem) : Nat := bits (wordOf x.w 0) 3 0
def DlrItem.group (x : DlrItem) : Nat := bits (wordOf x.w 0) 7 4
def DlrItem.prio (x : DlrItem) : Nat := bits (wordOf x.w 0) 11 8
def DlrItem.prog (x : DlrItem) : Nat := bits (wordOf x.w 0) 19 12
def DlrItem.handle (x : DlrItem) : Nat := (wordOf x.w 1).toNat
def DlrItem.entry (x : DlrItem) : Nat := bits (wordOf x.w 7) 16 0
/-- Due time (R173). -/
def DlrItem.due (x : DlrItem) : Nat := (wordOf x.w 8).toNat + 2 ^ 32 * (wordOf x.w 9).toNat

/-- Replace bits of a word: clear `m`, set `v`. -/
def putBits (w m v : Word) : Word := (w &&& ~~~m) ||| (v &&& m)

def DlrItem.setW (x : DlrItem) (i : Nat) (m v : Word) : DlrItem := { x with w := lset x.w i (putBits (wordOf x.w i) m v) }

/-- A packet kind (R174). -/
def DlrItem.isPacket (x : DlrItem) : Bool := x.kind < 2

/-! ### Lists and occupancy (R183, R194) -/

def State.readyList (s : State) (g p : Nat) : List DlrItem := sget [] s.dlr.ready (16 * g + p)
def State.trumpList (s : State) (g : Nat) : List DlrItem := sget [] s.dlr.trump g
def State.delayList (s : State) (g : Nat) : List DlrItem := sget [] s.dlr.delay g

def State.setReady (s : State) (g p : Nat) (l : List DlrItem) : State :=
  s.setDlr { s.dlr with ready := sput [] s.dlr.ready (16 * g + p) l }
def State.setTrump (s : State) (g : Nat) (l : List DlrItem) : State :=
  s.setDlr { s.dlr with trump := sput [] s.dlr.trump g l }
def State.setDelay (s : State) (g : Nat) (l : List DlrItem) : State :=
  s.setDlr { s.dlr with delay := sput [] s.dlr.delay g l }

/-- Items on the ready lists of a group. -/
def State.readyCount (s : State) (g : Nat) : Nat := ((List.range 16).map fun p => (s.readyList g p).length).foldl (· + ·) 0

/-- R194: occupancy; a slow-path item on the Trump list does not count. -/
def State.occupancy (s : State) (g : Nat) : Nat := s.readyCount g + ((s.trumpList g).filter fun x => !x.slow).length

/-- R183: entries of the shared store in use. -/
def State.storeUsed (s : State) : Nat := ((List.range 16).map s.occupancy).foldl (· + ·) 0

/-- R191: delay entries in use. -/
def State.delayUsed (s : State) : Nat := ((List.range 16).map fun g => (s.delayList g).length).foldl (· + ·) 0

/-- R185, R188: entries of the slow-path list in use, with those that have joined a Trump list. -/
def State.slowUsed (s : State) : Nat :=
  s.dlr.slow.length + ((List.range 16).map fun g => ((s.trumpList g).filter (·.slow)).length).foldl (· + ·) 0

def State.storeFull (s : State) : Bool := 32768 ≤ s.storeUsed
def State.delayFull (s : State) : Bool := 8192 ≤ s.delayUsed
def State.slowFull (s : State) : Bool := s.fld (dlrBase + 8) 12 0 ≤ s.slowUsed

/-! ### Back-pressure (R187, R194, R202) -/

def State.quota (s : State) (g : Nat) : Nat := s.fld (dlrBase + 0x300 + 4 * g) 15 0
def State.highMark (s : State) (g : Nat) : Nat :=
  s.expert dlrBase (dlrBase + 0x340 + 8 * g) 15 0 (s.quota g - s.quota g / 8)
def State.lowMark (s : State) (g : Nat) : Nat := s.expert dlrBase (dlrBase + 0x340 + 8 * g) 31 16 (s.quota g / 2)
def State.dlrTrumpShare (s : State) (g : Nat) : Nat := s.expert dlrBase (dlrBase + 0x344 + 8 * g) 3 0 2

def State.stopped (s : State) (g : Nat) : Bool := s.dlr.stop.getLsbD g

/-- The STOP bits set or cleared for one group. -/
def stopWith (v : BitVec 16) (g : Nat) (b : Bool) : BitVec 16 :=
  if b then v ||| BitVec.ofNat 16 (2 ^ g) else v &&& ~~~(BitVec.ofNat 16 (2 ^ g))

/-- R194: an entry into group `g` brings it to STOP at HIGH; a full store brings every group there. -/
def stopAfterEntry (s : State) (g : Nat) : State :=
  if s.storeFull then s.setDlr { s.dlr with stop := 0xFFFF }
  else if 1 ≤ s.occupancy g ∧ s.highMark g ≤ s.occupancy g then s.setDlr { s.dlr with stop := stopWith s.dlr.stop g true }
  else s

/-- R194: groups below LOW, and groups that hold no item, return to FLOW unless the store is full or the device is in FROZEN. -/
def stopAfterExit (s : State) : State :=
  if s.storeFull ∨ s.dev = .frozen then s
  else s.setDlr { s.dlr with stop := (List.range 16).foldl (fun v g =>
    if s.occupancy g < s.lowMark g ∨ s.occupancy g = 0 then stopWith v g false else v) s.dlr.stop }

/-- R194: a profile recomputes HIGH and LOW and sets STOP anew. -/
def stopRecompute (s : State) : State :=
  s.setDlr { s.dlr with stop := (List.range 16).foldl (fun v g =>
    stopWith v g (s.storeFull || (1 ≤ s.occupancy g && s.highMark g ≤ s.occupancy g))) 0 }

/-- R194: FROZEN asserts STOP. -/
def dlrFreeze (s : State) : State := s.setDlr { s.dlr with stop := 0xFFFF }

/-- R183, R199: an item enters the ready list of its GROUP and PRIO. -/
def enterReady (s : State) (x : DlrItem) : State :=
  let y := { x with since := s.now, seq := s.dlr.nextSeq }
  let s1 := s.setDlr { s.dlr with nextSeq := s.dlr.nextSeq + 1 }
  stopAfterEntry (s1.setReady x.group x.prio (s1.readyList x.group x.prio ++ [y])) x.group

/-! ### Drops and the slow path (R188–R190) -/

/-- R190: a packet the Dealer drops leaves a tombstone, and its buffers return. -/
def dropItem (s : State) (x : DlrItem) : State := freePacket (resolveDropped s x.entry x.handle 0) x.handle

/-- R190: DLR_SLOW names an empty group or an invalid program. -/
def State.slowInvalid (s : State) : Bool :=
  s.emptyGroup (s.fld (dlrBase + 8) 31 28) || !s.validProgram (s.fld (dlrBase + 8) 23 16)

/-- R188, R190: a packet enters the slow-path list, or is dropped. -/
def enterSlow (s : State) (x : DlrItem) : State :=
  if s.slowInvalid then dropItem (s.count (dlrBase + 0x918)) x
  else if s.slowFull then dropItem (s.count (dlrBase + 0x910)) x
  else
    let v := s.reg (dlrBase + 8)
    let w0 : Word := 1 ||| at' (bits v 31 28) 4 ||| at' (bits v 27 24) 8 ||| at' (bits v 23 16) 12
    let y := { x.setW 0 0xFFFFF w0 with since := s.now, slow := true, seq := s.dlr.nextSeq }
    (s.setDlr { s.dlr with slow := s.dlr.slow ++ [y], nextSeq := s.dlr.nextSeq + 1 }).count (dlrBase + 0x90C)

/-- R183, R188, R189: an item from the classifier reaches the Dealer. -/
def acceptItem (s : State) (x : DlrItem) : State :=
  if x.slow then enterSlow s x
  else if s.emptyGroup x.group then enterSlow ((s.count (dlrBase + 0x914))) (x.setW 6 0xF00000 0x200000)
  else if !s.validProgram x.prog then enterSlow (s.count (dlrBase + 0x914)) (x.setW 6 0xF00000 0x100000)
  else enterReady s x

/-- DLR_ITEM_ARRIVE. -/
def execDlrItemArrive (s : State) : Outcome State Fault Refusal :=
  match s.dlr.inbox with
  | [] => .next s
  | x :: rest => .next (acceptItem (s.setDlr { s.dlr with inbox := rest }) x)

/-! ### Thread priorities (R197) -/

def State.tpri (s : State) (t : Nat) : ThreadPrio := sget ThreadPrio.none s.dlr.tpri t

def State.setTpri (s : State) (t : Nat) (v : ThreadPrio) : State :=
  s.setDlr { s.dlr with tpri := sput ThreadPrio.none s.dlr.tpri t v }

/-- R197: a thread that ends its work item loses BASE and INH. -/
def clearTpri (s : State) (t : Nat) : State := s.setTpri t ThreadPrio.none

/-- R198: an INH signal is applied, and the change of EP goes back to the lock unit. -/
def execDlrInhSignal (s : State) : Outcome State Fault Refusal :=
  match s.dlr.inhBox with
  | [] => .next s
  | (t, v) :: rest =>
    let s1 := (s.setDlr { s.dlr with inhBox := rest }).count (dlrBase + 0x920)
    let s2 := s1.setTpri t { s1.tpri t with inh := v }
    .next (match (s2.waitedLock t).bind fun n => sfind s2.lck.locks n with
      | none => s2
      | some l => signalInh s2 l.holder)

/-! ### Dispatch (R176, R180, R182, R184, R214) -/

/-- R176: the 320 bytes of the dispatch area. -/
def dispatchArea (x : DlrItem) : List Byte :=
  let item := x.w.flatMap fun w => leBytes 4 w.toNat
  if x.isPacket then
    item ++ readBytes x.att.key 0 128
      ++ ((List.range 12).flatMap fun i => leBytes 2 (x.att.stack.getD i 0).toNat)
      ++ leBytes 8 0
      ++ ((List.range 6).flatMap fun i => leBytes 8 (x.att.outs.getD i 0).toNat)
      ++ leBytes 48 0
  else item ++ leBytes 256 0

/-- The dispatch area of a thread in the scratch array (R176, R214). -/
def dispatchOff (t : Nat) : Nat := 0x10000 * coreOf t + 0xF000 + 0x140 * (t % 8)

/-- R214: the thread as it starts on a work item. -/
def startState (s : State) (t : Nat) (x : DlrItem) : Thread :=
  let p := s.program x.prog
  { (((((Thread.cleared.setA 1 (BitVec.ofNat 48 (0x10F000 + 0x140 * (t % 8)))).setA 7
        (BitVec.ofNat 48 (0x108000 + 0x1000 * (t % 8)))).setD 1 (wordOf x.w 0)).setD 2 (wordOf x.w 1))) with
    state := .run, pc := BitVec.ofNat 48 (bits p 16 0), tsr := at' (bits p 30 30) 30 ||| at' 1 tsrIe, item := some x.w }

/-- R176, R197, R214, R342: hand item `x` to idle thread `t`. -/
def dispatchTo (s : State) (t : Nat) (x : DlrItem) : State :=
  let s1 := if x.isPacket then (tryApply s .give pathName x.handle t).1 else s
  let s2 := s1.setMems { s1.mems with scratch := writeBytes s1.mems.scratch (dispatchOff t) (dispatchArea x) }
  let s3 := s2.setThread t (startState s2 t x)
  (s3.setTpri t { s3.tpri t with busy := true, base := x.prio }).count (dlrBase + 0x900)

/-- Where the next item of a group comes from (R184). -/
inductive ListChoice where
  | trump
  | ready (p : Nat)
  | slow
  deriving DecidableEq, Repr

/-- The highest priority below `n` with a ready item. -/
def State.topReady (s : State) (g : Nat) : Nat → Option Nat
  | 0 => none
  | n + 1 => if (s.readyList g n).isEmpty then s.topReady g n else some n

/-- R184: rules 2 and 3. -/
def State.untrumped (s : State) (g : Nat) : Option ListChoice :=
  let slow := s.fld (dlrBase + 8) 31 28 == g && !s.dlr.slow.isEmpty
  match s.topReady g 16 with
  | none => if slow then some .slow else none
  | some p => if slow && p < s.fld (dlrBase + 8) 27 24 then some .slow else some (.ready p)

/-- R184: the list a dispatch of group `g` serves. -/
def State.chooseList (s : State) (g : Nat) : Option ListChoice :=
  if (s.trumpList g).isEmpty then s.untrumped g
  else match s.untrumped g with
    | none => some .trump
    | some c => if s.dlrTrumpShare g ≤ sget 0 s.dlr.share g + 1 then some .trump else some c

/-- R182: the next group, round robin after the one served last, that has an item and an idle dispatch thread. -/
def State.chooseGroup (s : State) : Option Nat :=
  ((List.range 16).map fun i => (s.dlr.lastGroup + 1 + i) % 16).find? fun g =>
    (s.chooseList g).isSome && (s.chooseThread g).isSome

/-- Take the first item of the chosen list. -/
def takeItem (s : State) (g : Nat) : ListChoice → Option (DlrItem × State)
  | .trump => match s.trumpList g with
    | [] => none
    | x :: r => some (x, (s.setTrump g r).setDlr { (s.setTrump g r).dlr with share := sput 0 s.dlr.share g 0 })
  | .ready p => match s.readyList g p with
    | [] => none
    | x :: r => some (x, (s.setReady g p r).setDlr { (s.setReady g p r).dlr with
        share := sput 0 s.dlr.share g (sget 0 s.dlr.share g + 1) })
  | .slow => match s.dlr.slow with
    | [] => none
    | x :: r => some (x, s.setDlr { s.dlr with slow := r, share := sput 0 s.dlr.share g (sget 0 s.dlr.share g + 1) })

/-- R182, R184, R190: one dispatch.  In FROZEN there is none (R194). -/
def execDlrDispatch (s : State) : Outcome State Fault Refusal :=
  if s.dev = .frozen then .next s
  else match s.chooseGroup with
    | none => .next s
    | some g =>
      match s.chooseList g, s.chooseThread g with
      | some c, some t =>
        match takeItem s g c with
        | none => .next s
        | some (x, s1) =>
          if x.slow ∧ s1.slowInvalid then .next (stopAfterExit (dropItem (s1.count (dlrBase + 0x918)) x))
          else
            let s2 := s1.setDlr { s1.dlr with lastGroup := g, lastCore := sput 127 s1.dlr.lastCore g (coreOf t) }
            .next (stopAfterExit (dispatchTo s2 t x))
      | _, _ => .next s

/-! ### Trump (R185) -/

/-- Insert in enqueue order. -/
def insertSeq (x : DlrItem) : List DlrItem → List DlrItem
  | [] => [x]
  | y :: ys => if x.seq < y.seq then x :: y :: ys else y :: insertSeq x ys

/-- The item of a list that entered first. -/
def firstIn : List DlrItem → Option DlrItem
  | [] => none
  | x :: xs => match firstIn xs with
    | none => some x
    | some y => some (if y.seq < x.seq then y else x)

/-- R185: the oldest item of group `g` whose wait has reached TRUMP_AGE moves to the Trump list. -/
def execDlrTrump (g : Fin 16) (s : State) : Outcome State Fault Refusal :=
  let age := usFtu (s.fld (dlrBase + 0x300 + 4 * g.val) 23 16)
  let slow := if s.fld (dlrBase + 8) 31 28 = g.val then s.dlr.slow else []
  let all := ((List.range 16).flatMap fun p => s.readyList g.val p) ++ slow
  match firstIn (all.filter fun x => age ≤ s.elapsed x.since) with
  | none => .next s
  | some x =>
    let keep := fun (l : List DlrItem) => l.filter fun y => y.seq != x.seq
    let s1 := s.setDlr { s.dlr with slow := keep s.dlr.slow }
    let s2 := if x.slow then s1 else s1.setReady g.val x.prio (keep (s1.readyList g.val x.prio))
    let y := x.setW 0 0x40000000 0x40000000
    .next ((s2.setTrump g.val (insertSeq y (s2.trumpList g.val))).count (dlrBase + 0x904))

/-! ### Delay lists and the tick (R191–R193, R200) -/

/-- R191: the tick in FTU. -/
def State.tickFtu (s : State) : Nat := 256 * s.fld dlrBase 9 0

/-- The first tick boundary at or after a time. -/
def State.boundaryFrom (s : State) (t : Nat) : Nat := (t + s.tickFtu - 1) / s.tickFtu * s.tickFtu

/-- R191: insert by due time, after equals. -/
def insertDue (x : DlrItem) : List DlrItem → List DlrItem
  | [] => [x]
  | y :: ys => if x.due < y.due then x :: y :: ys else y :: insertDue x ys

/-- R463: a HOST item's function, ring and descriptor index, from ARG0 and ARG1. -/
def completeHost (s : State) (w : List Word) (c : CmdResult) : State :=
  completeItem s (bits (wordOf w 11) 26 16) (bits (wordOf w 10) 15 0) (bits (wordOf w 11) 15 0) c

/-- R192, R199, R200: the release of one due entry. -/
def releaseDue (s : State) (x : DlrItem) : State :=
  if s.emptyGroup x.group ∨ !s.validProgram x.prog then
    let s1 := s.count (dlrBase + 0x918)
    if x.kind = 3 then completeHost s1 x.w (.of (if s.emptyGroup x.group then stNoGroup else stNoProgram)) else s1
  else enterReady s (if x.kind = 4 then x.setW 0 0xF 2 else x)

/-- R192, R193: the due entries of one group, in sorted order, while the group is in FLOW; those that stay are counted late. -/
def releaseGroup (g : Nat) : List DlrItem → State → State
  | [], s => s
  | x :: xs, s =>
    if s.stopped g ∨ s.dev = .swap then
      releaseGroup g xs (if x.late then s.setDelay g (s.delayList g ++ [x])
        else (s.setDelay g (s.delayList g ++ [{ x with late := true }])).count (dlrBase + 0x91C))
    else releaseGroup g xs (releaseDue s x)

/-- R192: a tick boundary is reached. -/
def execDlrTick (s : State) : Outcome State Fault Refusal :=
  let b := if s.tickFtu = 0 then 0 else s.nowN / s.tickFtu * s.tickFtu
  if s.dev = .frozen ∨ b ≤ s.dlr.lastTick.toNat then .next s
  else
    let s1 := s.setDlr { s.dlr with lastTick := BitVec.ofNat 64 b }
    .next ((List.range 16).foldl (fun st g =>
      let due := (st.delayList g).filter fun x => x.due ≤ b
      let rest := (st.delayList g).filter fun x => !(x.due ≤ b)
      let st1 := releaseGroup g due (st.setDelay g [])
      st1.setDelay g (st1.delayList g ++ rest)) s1)

/-! ### Submissions (R186, R187, R191) -/

/-- R173, R186: bits that are 0 in a submission. -/
def reservedBits (w : List Word) : Bool :=
  wordOf w 0 &&& 0xBFF00000 != 0 || wordOf w 2 != 0 || wordOf w 3 != 0 || wordOf w 6 != 0 || wordOf w 7 != 0

/-- R191: the item is bound for a delay list: its due time lies later than the next tick boundary. -/
def State.delayed (s : State) (w : List Word) : Bool :=
  let due := (wordOf w 8).toNat + 2 ^ 32 * (wordOf w 9).toNat
  (s.nowN / s.tickFtu + 1) * s.tickFtu < due

/-- R186, R187: the room a submission needs exists. -/
def State.submitRoom (s : State) (w : List Word) (host : Bool) : Bool :=
  let g := bits (wordOf w 0) 7 4
  if s.delayed w then !s.delayFull
  else !s.storeFull && (if host then !s.stopped g else s.occupancy g < s.quota g)

/-- R186: the status of a submission, before room is considered. -/
def State.submitStatus (s : State) (w : List Word) (host : Bool) : Nat :=
  let due := (wordOf w 8).toNat + 2 ^ 32 * (wordOf w 9).toNat
  if s.dev = .frozen then 6
  else if bits (wordOf w 0) 3 0 ≠ (if host then 3 else 4) ∨ reservedBits w then 4
  else if s.emptyGroup (bits (wordOf w 0) 7 4) then 2
  else if !s.validProgram (bits (wordOf w 0) 19 12) then 3
  else if s.nowN + 2 ^ 36 < due then 5
  else 0

/-- R186, R191: an accepted item goes to its delay list or its ready list, with TRUMPED clear. -/
def enterSubmission (s : State) (w : List Word) : State :=
  let x : DlrItem := { w := w, att := Attach.empty, since := s.now, slow := false, late := false, seq := 0 }
  let y := x.setW 0 0x40000000 0
  if s.delayed w then s.setDelay y.group (insertDue y (s.delayList y.group)) else enterReady s y

/-- R173: a THREAD item carries its submission timestamp. -/
def stampItem (s : State) (w : List Word) : List Word :=
  lset (lset w 4 (s.now.setWidth 32)) 5 (s.now.extractLsb' 32 32)

/-- R203: a submission completed with a status other than OK. -/
def countRefused (s : State) : State := s.count (dlrBase + 0x924)

end Sys2Proof.Machine
end

