-- ==== Sys2Proof/Machine/EthOps.lean ====
section
/-! DEFINITION. The grouping of Ethernet lanes into ports (R475). -/

namespace Sys2Proof.Machine

/-- R475: the mode code of the half that lane `p` lies in, from a pair of modes. -/
def laneMode (lo hi : BitVec 2) (p : Nat) : Nat := if p < 8 then lo.toNat else hi.toNat

/-- R475: lane `p` is the first lane of a port under a pair of modes. -/
def firstLane (lo hi : BitVec 2) (p : Nat) : Bool := p < 16 && p % (8 / 2 ^ laneMode lo hi p) == 0

/-- Lane `p` is the first lane of an active port. -/
def State.portActive (s : State) (p : Nat) : Bool := firstLane s.eth.modeLo s.eth.modeHi p

def State.ethPort (s : State) (p : Nat) : EthPort := sget EthPort.reset s.eth.ports p

def State.setEthPort (s : State) (p : Nat) (v : EthPort) : State :=
  { s with eth := { s.eth with ports := sput EthPort.reset s.eth.ports p v } }

/-- R487: on a master whose time source is PTP, the named port must be able to give it; otherwise the event is raised once for each
profile application. -/
def ptpCheck (s : State) : State :=
  let p := s.fld timBase 7 4
  if s.tim.st = .master ∧ s.fld timBase 3 2 = 2 ∧ !s.mgt.ptpNoPort
      ∧ !(s.portActive p && bitAt (s.reg (ethBase + 0x110 + 0x40 * p)) 31) then
    { s with mgt := { s.mgt with ptpNoPort := true } }.logEvent 0x11 1 (evAt 0 p)
  else s

/-- NODE_ID of this node (R432). -/
def State.ownNode (s : State) : Nat := s.fld (ringBase + 4) 13 0

end Sys2Proof.Machine
end

