-- ==== Sys2Proof/Machine/Loupe.lean ====
section
/-! DEFINITION. The Loupe header parser (R96–R130): intake, the microword engine, the ROM's published program, delivery. -/

namespace Sys2Proof.Machine

open Host

def State.setLoupe (s : State) (l : Loupe) : State := { s with loupe := l }

/-! ### Sources (R96) -/

/-- R96: the pipeline of a source; recirculation keeps the pipeline of the previous pass. -/
def pipeOf (src previous : Nat) : Nat :=
  if src < 8 then 0 else if src < 16 then 1
  else if src = 16 then 0 else if src = 17 then 1
  else if src < 20 then 0 else if src < 22 then 1 else previous

/-- The tap of R549 for frames that pass R27. -/
def cshAdmit (s : State) (h : Nat) : State :=
  let p := s.pkt h
  let tap := s.reg (cshBase + 0x20)
  if !(s.csh.recording && p.input < 22 && bitAt tap p.input) then s
  else
    let n := sget 0 s.csh.samples 0
    let s1 := { s with csh := { s.csh with samples := sput 0 s.csh.samples 0 (n + 1) } }
    if n % 2 ^ s.fld (cshBase + 0x24) 23 20 ≠ 0 then s1.count (cshBase + 0x908)
    else
      let snap := s.fld (cshBase + 0x24) 31 24
      let want := if snap = 255 then p.len else min p.len (64 * snap)
      s1.cshOffer { typ := 1, time := p.arrival, ots := p.ots, flags := b2n (want < p.len), src := p.input, trig := 0,
                    frameLen := p.len, key := 0, cls := 0, node := p.node.toNat, epoch := 0, body := s.packetBytes h want }

/-- Put a frame at the end of its source's line. -/
def enterLoupe (s : State) (h src pipe : Nat) : State :=
  let k := 32 * pipe + src
  s.setLoupe { s.loupe with waiting := smod [] s.loupe.waiting k (· ++ [h]) }

/-- R27, R97: an admitted frame goes on to the Loupe. -/
def offerLoupe (s : State) (h : Nat) : State :=
  let p := s.pkt h
  let pipe := pipeOf p.input 0
  enterLoupe (cshAdmit (s.setPkt h { p with pipe := pipe }) h) h p.input pipe

/-! ### Engines (R102–R104, R108) -/

/-- Outcome class {OUT, REASON} of MALFORMED reason `r` (R119). -/
def malformed (r : Nat) : Nat := 0x30 + r
def depthExceeded : Nat := malformed 0
def lengthConflict : Nat := malformed 1
def truncated : Nat := malformed 2
def stepLimitHit : Nat := malformed 0xC
def microFault : Nat := malformed 0xD
def slowClass (c : Nat) : Nat := 0x20 + c

/-- The program ends. -/
def Engine.finish (e : Engine) (c : Nat) : Engine := { e with out := some c }

/-- Go on unless the program has ended. -/
def Engine.andThen (e : Engine) (f : Engine → Engine) : Engine := if e.out.isSome then e else f e

/-- End the program with class `c` when `b` holds. -/
def Engine.failIf (e : Engine) (b : Bool) (c : Nat) : Engine := e.andThen fun e => if b then e.finish c else e

/-- R108 step 2: a field of `n` bytes at `off` from BASE is read. -/
def Engine.reads (e : Engine) (off n : Nat) : Engine :=
  (e.failIf (512 < e.base + off + n) depthExceeded).failIf (e.frameLen < e.base + off + n) truncated

/-- R104, R108 step 3: push a header. -/
def Engine.push (e : Engine) (typ : Nat) : Engine :=
  (e.failIf (12 ≤ e.stack.length || 511 < e.base) depthExceeded).andThen fun e =>
    { e with stack := e.stack ++ [BitVec.ofNat 16 (typ * 1024 + e.base)] }

/-- Byte `off` from BASE of the parse window. -/
def Engine.byte (e : Engine) (win : List Byte) (off : Nat) : Nat := (win.getD (e.base + off) 0).toNat

/-- `n` bytes at `off` from BASE, big-endian. -/
def Engine.field (e : Engine) (win : List Byte) (off n : Nat) : Nat := beNat ((win.drop (e.base + off)).take n)

/-- R103: write a field of `n` bytes with value `v` to slot `d`. -/
def Engine.put (e : Engine) (d n v : Nat) : Engine :=
  e.andThen fun e =>
    if n = 1 then { e with key := sput 0 (sput 0 e.key (2 * d) 0) (2 * d + 1) (BitVec.ofNat 8 v) }
    else { e with key := writeBytes e.key (2 * d) (beBytes n v) }

/-- R103: extract `n` bytes at `off` to slot `d`. -/
def Engine.extract (e : Engine) (win : List Byte) (off n d : Nat) : Engine := e.put d n (e.field win off n)

/-- A key slot. -/
def Engine.slot (e : Engine) (k : Nat) : Nat := (sget 0 e.key (2 * k)).toNat * 256 + (sget 0 e.key (2 * k + 1)).toNat

/-- R108 step 7: advance BASE in CONST or FIELD mode. -/
def Engine.advance (e : Engine) (n : Nat) (field : Bool) : Engine :=
  (e.failIf (e.limit < e.base + n) (if field then lengthConflict else truncated)).andThen fun e => { e with base := e.base + n }

/-- R110: lower LIMIT to a declared end. -/
def Engine.setLimit (e : Engine) (n : Nat) : Engine :=
  (e.failIf (e.limit < n) lengthConflict).andThen fun e => { e with limit := n }

/-- R109: call with a return place. -/
def Engine.call (e : Engine) (ret target : LoupePc) : Engine :=
  (e.failIf (4 ≤ e.micro.length) microFault).andThen fun e => { e with micro := ret :: e.micro, pc := target }

/-- R109: return. -/
def Engine.ret (e : Engine) : Engine :=
  match e.micro with
  | [] => e.finish microFault
  | p :: rest => { e with micro := rest, pc := p }

def Engine.goto (e : Engine) (p : RomPos) : Engine := e.andThen fun e => { e with pc := .rom p }

/-- R113: the ROM calls hook `n` and resumes at `p`. -/
def Engine.hook (e : Engine) (n : Nat) (p : RomPos) : Engine :=
  e.andThen fun e => e.call (.rom p) (.word (0x400 + 8 * n))

/-- R115: the most recently pushed IPV4 or IPV6 entry is IPV6. -/
def Engine.isV6 (e : Engine) : Bool :=
  match (e.stack.reverse.map fun x => x.toNat / 1024).find? fun t => t == 6 || t == 7 with
  | some t => t == 7
  | none => false

/-! ### The ROM (R113–R118) -/

/-- The number of a ROM part, the argument of its free clock count. -/
def RomPos.number : RomPos → Nat
  | .eth => 0 | .mpls => 1 | .ipv4 => 2 | .ipv6 => 3 | .proto _ _ => 4 | .udp => 5 | .udpPayload => 6 | .tcp => 7
  | .icmp _ => 8 | .gre => 9 | .esp => 10 | .ah => 11 | .ext _ => 12 | .vxlan => 13 | .geneve => 14
  | .afterEtype => 15 | .afterProto => 16 | .afterUdp => 17 | .afterTcp => 18 | .afterMpls => 19 | .afterEsp => 20
  | .afterInner _ => 21 | .beforeFinal _ => 22 | .writeParsed _ => 23

/-- R116: the EtherType after the tags, with BASE at it. -/
def romEtherType (win : List Byte) (e : Engine) : Engine :=
  (e.reads 0 2).andThen fun e =>
    let t := e.field win 0 2
    let e := e.put 12 2 t
    if t = 0x88CC ∨ t = 0x8809 ∨ t = 0x88F7 then e.finish (slowClass 6)
    else if t ≤ 0x05DC then (e.failIf (e.limit < e.base + 2 + t) lengthConflict).hook 4 .afterEtype
    else if t = 0x0806 then ((e.advance 2 false).push 5).andThen fun e => e.finish (slowClass 7)
    else if t = 0x8847 ∨ t = 0x8848 then (e.advance 2 false).goto .mpls
    else if t = 0x0800 then (e.advance 2 false).goto .ipv4
    else if t = 0x86DD then (e.advance 2 false).goto .ipv6
    else e.hook 4 .afterEtype

/-- R116: VLAN tags, at most two; `n` tags seen, `c` when one was a C-tag. -/
def romTags (win : List Byte) : Nat → Nat → Bool → Engine → Engine
  | 0, _, _, e => e.finish (malformed 6)
  | fuel + 1, n, c, e =>
    (e.reads 0 2).andThen fun e =>
      let t := e.field win 0 2
      if t = 0x88A8 ∨ t = 0x8100 then
        if n = 2 ∨ (t = 0x88A8 ∧ c) then e.finish (malformed 6)
        else
          (((e.reads 0 4).push (if t = 0x88A8 then 2 else 3)).andThen fun e =>
            (e.extract win 2 2 (10 + n)).advance 4 false).andThen fun e => romTags win fuel (n + 1) (c || t == 0x8100) e
      else romEtherType win e

/-- R116: Ethernet. -/
def romEth (win : List Byte) (e : Engine) : Engine :=
  ((e.reads 0 14).push 1).andThen fun e =>
    let e := (e.extract win 0 6 4).extract win 6 6 7
    let dst := e.field win 0 6
    ((e.failIf (e.byte win 6 % 2 == 1) (malformed 4)).failIf (dst / 16 == 0x0180C200000) (slowClass 6)).andThen fun e =>
      (e.advance 12 false).andThen (romTags win 3 0 false)

/-- R116: bytes of the label stack up to the bottom of stack within 8 labels. -/
def romLabels (win : List Byte) : Nat → Engine → Engine
  | 0, e => e.finish (malformed 9)
  | n + 1, e =>
    (e.reads 0 4).andThen fun e =>
      let bos := e.byte win 2 % 2 == 1
      (e.advance 4 false).andThen fun e => if bos then e else romLabels win n e

/-- R116: MPLS. -/
def romMpls (win : List Byte) (e : Engine) : Engine :=
  ((e.push 4).reads 0 4).andThen fun e =>
    (romLabels win 8 (e.extract win 0 4 13)).andThen fun e =>
      (e.reads 0 1).andThen fun e =>
        let nib := e.byte win 0 / 16
        if nib = 4 then e.goto .ipv4 else if nib = 6 then e.goto .ipv6 else e.hook 9 .afterMpls

/-- R116: IPv4. -/
def romIpv4 (win : List Byte) (ttl1 : Bool) (e : Engine) : Engine :=
  ((e.reads 0 20).push 6).andThen fun e =>
    let e := ((e.put 15 2 (e.byte win 1 * 256 + e.byte win 9)).extract win 12 4 16).extract win 16 4 24
    let ihl := e.byte win 0 % 16
    let ttl := e.byte win 8
    let src := e.field win 12 4
    let e := ((e.failIf (e.byte win 0 / 16 != 4) (malformed 3)).failIf (ihl < 5) lengthConflict)
    let e := (e.andThen fun e => e.setLimit (e.base + e.field win 2 2)).failIf (ttl == 0) (malformed 5)
    let e := (e.failIf (src / 2 ^ 28 == 14 || src == 0xFFFFFFFF) (malformed 4)).failIf (ttl1 && ttl == 1) (slowClass 4)
    let e := (e.failIf (e.field win 6 2 % 0x4000 != 0) (slowClass 0)).failIf (5 < ihl) (slowClass 1)
    e.andThen fun e =>
      let p := e.byte win 9
      (e.advance (4 * ihl) true).goto (.proto p false)

/-- R116: IPv6. -/
def romIpv6 (win : List Byte) (ttl1 : Bool) (e : Engine) : Engine :=
  ((e.reads 0 40).push 7).andThen fun e =>
    let e := e.put 15 2 (e.field win 0 2 / 16 % 256 * 256 + e.byte win 6)
    let e := ((e.extract win 8 16 16).extract win 24 16 24).put 32 4 (e.field win 0 4 % 2 ^ 20)
    let hop := e.byte win 7
    let e := (e.failIf (e.byte win 0 / 16 != 6) (malformed 3)).andThen fun e => e.setLimit (e.base + 40 + e.field win 4 2)
    let e := (e.failIf (hop == 0) (malformed 5)).failIf (e.byte win 8 == 0xFF) (malformed 4)
    (e.failIf (ttl1 && hop == 1) (slowClass 4)).andThen fun e =>
      let p := e.byte win 6
      (e.advance 40 false).goto (.proto p false)

/-- R118: the header type of an IPv6 extension. -/
def extType (p : Nat) : Nat := if p = 0 then 8 else if p = 43 then 9 else if p = 44 then 10 else if p = 60 then 11 else 20

/-- R116: an IPv6 extension header `p`; `later` when another went before it. -/
def romExt (win : List Byte) (p : Nat) (later : Bool) (e : Engine) : Engine :=
  ((e.failIf (p == 0 && later) (malformed 7)).reads 0 8).andThen fun e =>
    let e := (e.push (extType p)).failIf (p == 0) (slowClass 2)
    let e := (e.failIf (p == 43 && e.byte win 3 != 0) (slowClass 3)).failIf (p == 44) (slowClass 0)
    e.andThen fun e =>
      let next := e.byte win 0
      let n := e.byte win 1
      let e := e.put 15 2 (e.slot 15 / 256 * 256 + next)
      (e.advance (if p = 51 then (n + 2) * 4 else (n + 1) * 8) true).goto (.proto next true)

/-- R116: dispatch on the protocol. -/
def romProto (win : List Byte) (p : Nat) (later : Bool) (e : Engine) : Engine :=
  let v6 := e.isV6
  if v6 ∧ (p = 0 ∨ p = 43 ∨ p = 44 ∨ p = 60 ∨ p = 51) then romExt win p later e
  else if p = 6 then e.goto .tcp
  else if p = 17 then e.goto .udp
  else if p = 47 then e.goto .gre
  else if p = 50 then e.goto .esp
  else if p = (if v6 then 58 else 1) then e.goto (.icmp v6)
  else e.hook 5 .afterProto

/-- R116: ICMP and ICMPv6. -/
def romIcmp (win : List Byte) (v6 : Bool) (e : Engine) : Engine :=
  ((e.reads 0 8).push (if v6 then 13 else 12)).andThen fun e =>
    let t := e.byte win 0
    let e := e.extract win 0 2 36
    let err := if v6 then 1 ≤ t && t ≤ 4 else t == 3 || t == 11 || t == 12
    let e := (e.failIf err (slowClass 8)).failIf (v6 && 133 ≤ t && t ≤ 137) (slowClass 6)
    (e.advance 8 false).goto (.beforeFinal (if v6 then 2 else 1))

/-- R116: TCP. -/
def romTcp (win : List Byte) (e : Engine) : Engine :=
  ((e.reads 0 20).push 14).andThen fun e =>
    let fl := e.byte win 13
    let off := e.byte win 12 / 16
    let e := ((e.extract win 0 2 34).extract win 2 2 35).put 36 1 fl
    let bad := off < 5 || (fl.testBit 1 && (fl.testBit 0 || fl.testBit 2))
    ((e.failIf bad (malformed 0xB)).advance (4 * off) true).hook 7 .afterTcp

/-- R116: UDP. -/
def romUdp (win : List Byte) (e : Engine) : Engine :=
  ((e.reads 0 8).push 15).andThen fun e =>
    let e := (e.extract win 0 2 34).extract win 2 2 35
    let port := e.field win 2 2
    let e := e.failIf (e.field win 4 2 != e.limit - e.base) lengthConflict
    if port = 4789 ∨ port = 6081 ∨ port = 4500 then (e.advance 8 false).goto .udpPayload else e.hook 6 .afterUdp

/-- PARSED code of the UDP classes (R115, R120). -/
def udpCode (e : Engine) : Nat := if e.isV6 then 6 else 4

/-- R115, R116: after a UDP header that is pushed and checked. -/
def romUdpPayload (win : List Byte) (e : Engine) : Engine :=
  let port := e.slot 35
  if port = 4789 then e.goto .vxlan
  else if port = 6081 then e.goto .geneve
  else if port = 4500 then
    let e := if e.limit - e.base = 1 then (e.reads 0 1).andThen fun e => e.failIf (e.byte win 0 == 0xFF) (slowClass 9) else e
    (e.reads 0 4).andThen fun e => if e.field win 0 4 = 0 then e.goto (.beforeFinal (udpCode e)) else e.goto .esp
  else e.goto (.beforeFinal (udpCode e))

/-- R116: VXLAN. -/
def romVxlan (win : List Byte) (e : Engine) : Engine :=
  ((e.reads 0 8).push 16).andThen fun e =>
    (((e.extract win 4 4 37).failIf (!(e.byte win 0).testBit 3) (malformed 8)).advance 8 false).hook 8 (.afterInner 7)

/-- R116: GENEVE. -/
def romGeneve (win : List Byte) (e : Engine) : Engine :=
  ((e.reads 0 8).push 17).andThen fun e =>
    let n := e.byte win 0 % 64
    let e := (e.extract win 4 4 37).extract win 2 2 39
    let e := (e.failIf (e.byte win 0 / 64 != 0) (malformed 8)).failIf ((e.byte win 1).testBit 6) (slowClass 5)
    (e.advance (8 + 4 * n) true).hook 8 (.afterInner 8)

/-- R116: GRE. -/
def romGre (win : List Byte) (e : Engine) : Engine :=
  ((e.reads 0 4).push 18).andThen fun e =>
    let f := e.byte win 0
    let c := b2n (f.testBit 7)
    let k := b2n (f.testBit 5)
    let q := b2n (f.testBit 4)
    let e := (e.extract win 2 2 39).failIf (e.byte win 1 % 8 != 0) (malformed 8)
    let e := if k = 1 then (e.reads (4 + 4 * c) 4).andThen fun e => e.extract win (4 + 4 * c) 4 37 else e
    (e.advance (4 + 4 * (c + k + q)) true).hook 8 (.afterInner 9)

/-- R116: ESP. -/
def romEsp (win : List Byte) (e : Engine) : Engine :=
  ((e.reads 0 8).push 19).andThen fun e =>
    (((e.extract win 0 4 37).failIf (e.field win 0 4 == 0) (malformed 0xA)).advance 8 false).hook 10 .afterEsp

/-- One part of the ROM's program. -/
def romStep (win : List Byte) (ttl1 : Bool) (e : Engine) : RomPos → Engine
  | .eth => romEth win e
  | .mpls => romMpls win e
  | .ipv4 => romIpv4 win ttl1 e
  | .ipv6 => romIpv6 win ttl1 e
  | .proto p later => romProto win p later e
  | .udp => romUdp win e
  | .udpPayload => romUdpPayload win e
  | .tcp => romTcp win e
  | .icmp v6 => romIcmp win v6 e
  | .gre => romGre win e
  | .esp => romEsp win e
  | .ah => romExt win 51 true e
  | .ext nh => romExt win nh true e
  | .vxlan => romVxlan win e
  | .geneve => romGeneve win e
  | .afterEtype => e.goto (.beforeFinal 0)
  | .afterProto => e.goto (.beforeFinal (if e.isV6 then 2 else 1))
  | .afterUdp => (e.advance 8 false).goto (.beforeFinal (udpCode e))
  | .afterTcp => e.goto (.beforeFinal (if e.isV6 then 5 else 3))
  | .afterMpls => e.goto (.beforeFinal 0xA)
  | .afterEsp => e.goto (.beforeFinal 0xB)
  | .afterInner c => e.goto (.beforeFinal c)
  | .beforeFinal c => e.hook 11 (.writeParsed c)
  | .writeParsed c => e.finish (0x10 + c)

/-- R115: the published entry points. -/
def romEntry (a : Nat) : Option RomPos :=
  if a = 0x000 then some .eth else if a = 0x060 then some .mpls else if a = 0x0A0 then some .ipv4
  else if a = 0x100 then some .ipv6 else if a = 0x1A0 then some .udpPayload else if a = 0x1C0 then some .tcp else none

/-! ### Microwords (R105–R111) -/

/-- Bits `hi:lo` of a microword. -/
def microField (w : BitVec 128) (hi lo : Nat) : Nat := (w.toNat / 2 ^ lo) % 2 ^ (hi + 1 - lo)

/-- R106: bytes of an extract width code. -/
def extractBytes (c : Nat) : Nat := [0, 1, 2, 4, 6, 8, 16, 0].getD c 0

/-- R105: OFF, bytes and DST of extract unit `k`. -/
def extractUnit (w : BitVec 128) (k : Nat) : Nat × Nat × Nat :=
  let b := 125 - 18 * k
  (microField w b (b - 8), extractBytes (microField w (b - 9) (b - 11)), microField w (b - 12) (b - 17))

/-- R106: the comparison of CMP_OP. -/
def microCompare (op l c : Nat) : Bool :=
  if op = 0 then l == c else if op = 1 then l != c else if op = 2 then l < c else if op = 3 then c ≤ l
  else if op = 4 then l &&& c != 0 else if op = 5 then l &&& c == 0 else if op = 6 then c < l else l ≤ c

/-- R108 step 2: every field of the word is read. -/
def microReads (w : BitVec 128) (e : Engine) : Engine :=
  let unit := fun (e : Engine) k => let u := extractUnit w k; if u.2.1 = 0 then e else e.andThen fun e => e.reads u.1 u.2.1
  let cw := microField w 62 61
  (unit (unit (unit e 0) 1) 2).andThen fun e => if cw = 0 then e else e.reads (microField w 71 63) (if cw = 1 then 1 else 2)

/-- R108 step 4: the extracts, from the BASE of the start of the word. -/
def microExtracts (w : BitVec 128) (win : List Byte) (e : Engine) : Engine :=
  let unit := fun (e : Engine) k => let u := extractUnit w k; if u.2.1 = 0 then e else e.extract win u.1 u.2.1 u.2.2
  unit (unit (unit e 0) 1) 2

/-- R106, R108 step 5: operand L and the compare result. -/
def microOperand (w : BitVec 128) (win : List Byte) (e : Engine) : Nat × Bool :=
  let cw := microField w 62 61
  if cw = 0 then (0, false)
  else
    let f := e.field win (microField w 71 63) (if cw = 1 then 1 else 2)
    let sel := microField w 60 59
    let l := if sel = 0 then f else if sel = 1 then f % 16 else if sel = 2 then f / 16 % 16 else f % 64
    let imm := microField w 55 40
    (l, microCompare (microField w 58 56) l (if cw = 3 then e.slot (imm % 64) else imm))

/-- R110: the length check with operand `l` and advance amount `a`. -/
def microLcheck (w : BitVec 128) (l a : Nat) (e : Engine) : Engine :=
  let c := microField w 23 21
  if c = 1 then e.setLimit (e.base + l)
  else if c = 2 then e.setLimit (e.base + a + l)
  else if c = 3 then e.failIf (l != e.limit - e.base) lengthConflict
  else if c = 4 then e.failIf (e.limit - e.base < l) lengthConflict
  else e

/-- R109: the next address of the word at `pc`. -/
def microNext (s : State) (w : BitVec 128) (pc l : Nat) (c : Bool) (e : Engine) : Engine :=
  let tgt := microField w 11 0
  let op := microField w 14 12
  let next := e.failIf (pc == 0xFFF) microFault
  let fall := next.andThen fun e => { e with pc := .word (pc + 1) }
  if op = 1 then { e with pc := .word tgt }
  else if op = 2 then (if c then { e with pc := .word tgt } else fall)
  else if op = 3 then (if c then fall else { e with pc := .word tgt })
  else if op = 4 then
    let j := sget 0 s.loupe.jump (256 * (tgt % 16) + l % 256)
    (e.failIf (!j.getLsbD 15) microFault).andThen fun e => { e with pc := .word (j.toNat % 4096) }
  else if op = 5 then next.andThen fun e => e.call (.word (pc + 1)) (.word tgt)
  else if op = 6 then e.ret
  else if op = 7 then (if c then e.ret else fall)
  else fall

/-- R108: steps 2–9 of the microword `w` at address `pc`. -/
def microStep (s : State) (w : BitVec 128) (win : List Byte) (pc : Nat) (e : Engine) : Engine :=
  let typ := microField w 29 24
  let e1 := (microReads w e).andThen fun e => if typ = 0 then e else e.push typ
  e1.andThen fun e =>
    let e2 := microExtracts w win e
    let (l, c) := microOperand w win e2
    let mode := microField w 39 38
    let amount := if mode = 1 then microField w 35 30
      else if mode = 2 then l * 2 ^ microField w 37 36 + microField w 35 30 else 0
    ((microLcheck w l amount e2).advance amount (mode == 2)).andThen fun e =>
      let o := microField w 20 19
      if o ≠ 0 then e.finish (16 * o + microField w 18 15) else microNext s w pc l c e

/-- LOUPE_CTRL.STEP_LIMIT (R129). -/
def State.stepLimit (s : State) : Nat := s.fld loupeBase 15 8

/-- R108 step 10: the clock count. -/
def Engine.spend (e : Engine) (n limit : Nat) : Engine :=
  e.andThen fun e =>
    let e := { e with clocks := e.clocks + n }
    e.failIf (limit < e.clocks) stepLimitHit

/-- R103: slots 2 and 3 at the end of the program. -/
def Engine.close (e : Engine) : Engine :=
  let base := if 1023 < e.base then 0x3FF else e.base
  { e with key := writeBytes e.key 4 (beBytes 2 (e.stack.length * 4096 + base) ++ beBytes 2 e.limit) }

/-- R124: the counter of an outcome class of a source. -/
def outcomeCounter (src c : Nat) : Nat :=
  loupeBase + (if c < 0x20 then 0x32000 else if c < 0x30 then 0x31000 else 0x30000) + 0x40 * src + 4 * (c % 16)

def State.engines (s : State) (pipe : Nat) : List Engine := sget [] s.loupe.engines pipe

def State.setEngines (s : State) (pipe : Nat) (l : List Engine) : State :=
  s.setLoupe { s.loupe with engines := sput [] s.loupe.engines pipe l }

/-- R127: the control store's check code on a fetch of address `a`. -/
def storeEcc (s : State) (a : Nat) (ecc : Ecc) : State :=
  match ecc with
  | .good => s
  | .corrected => s.setLoupe { s.loupe with csCe := s.loupe.csCe + 1 }
  | .uncorrectable =>
    if s.loupe.csUe then s
    else (s.setLoupe { s.loupe with csUe := true, csErr := a }).logEvent 0x20 2 (evAt 0 a)

/-- R108: an engine executes one word, or one part of the ROM's program. -/
def execLoupeWord (pipe : Fin 2) (k : Fin 32) (ecc : Ecc) (s : State) : Outcome State Fault Refusal :=
  match (s.engines pipe)[k.val]? with
  | none => .next s
  | some e =>
    if e.out.isSome then .next s
    else
      let win := s.packetBytes e.h (min e.frameLen 512)
      let rom := fun (p : RomPos) =>
        (romStep win (bitAt (s.reg loupeBase) 16) e p).spend (Config.loupeRomClocks p.number) s.stepLimit
      let (s1, e1) := match e.pc with
        | .rom p => (s, rom p)
        | .word a =>
          if a < 0x400 then (s, match romEntry a with
            | some p => rom p
            | none => e.finish microFault)
          else
            let w := sget trapWord s.loupe.store a
            let s1 := storeEcc s a ecc
            if ecc = Ecc.uncorrectable then (s1, e.finish microFault)
            else (s1, (microStep s1 w win a e).spend (microField w 127 126 + 1) s.stepLimit)
      let e2 := if e1.out.isSome then e1.close else e1
      let s2 := s1.setEngines pipe (lset (s1.engines pipe) k.val e2)
      .next (match e2.out with
        | some c => s2.count (outcomeCounter e2.src c)
        | none => s2)

/-! ### Intake and delivery (R97–R99, R126, R128) -/

/-- R132: a lane has a free context. -/
def State.clsAccepts (s : State) (lane : Nat) : Bool :=
  (sget [] s.cls.lanes lane).length < s.expert clsBase (clsBase + 0x60) 27 16 2048

/-- R126, R533: the frame at the head of a source's line may be taken in. -/
def State.frameReady (s : State) (pipe src : Nat) : Option Nat :=
  match sget [] s.loupe.waiting (32 * pipe + src) with
  | h :: _ => if (s.pkt h).held then none else some h
  | [] => none

/-- R97: the sources with a frame waiting, in round-robin order after the one served last. -/
def State.sourceOrder (s : State) (pipe : Nat) : List Nat :=
  let last := sget 22 s.loupe.last pipe
  ((List.range 23).map fun i => (last + 1 + i) % 23).filter fun k => (s.frameReady pipe k).isSome

/-- R102: an engine at the start of a pass. -/
def startEngine (s : State) (h src : Nat) : Engine :=
  let p := s.pkt h
  let hook := if src < 16 then 0x400 else if src < 18 then 0x408 else if src < 22 then 0x410 else 0x418
  let slot0 := p.input * 2048 + b2n (src == 22) * 1024
  { h := h, src := src, recirc := src == 22, pc := .word hook, base := 0, limit := p.len, frameLen := p.len, stack := [],
    micro := [], key := writeBytes [] 0 (beBytes 2 (if src = 22 then 22 * 2048 + 1024 else slot0) ++ beBytes 2 p.len),
    clocks := 0, out := none }

/-- R97: a pipeline takes in one frame. -/
def execLoupeIntake (pipe : Fin 2) (s : State) : Outcome State Fault Refusal :=
  let engines := s.expert loupeBase (loupeBase + 4) 13 8 32
  if s.dev = .frozen ∨ engines ≤ (s.engines pipe).length ∨ !s.clsAccepts pipe then .next s
  else
    let order := s.sourceOrder pipe
    let contested := order.contains 22 && order.any (· != 22)
    let past := sget [] s.loupe.contested pipe
    let spent := s.expert loupeBase (loupeBase + 4) 3 0 4 ≤ ((past.take 7).filter id).length
    let pick := if contested && spent then order.filter (· != 22) else order
    match pick with
    | [] => .next s
    | src :: _ =>
      match s.frameReady pipe src with
      | none => .next s
      | some h =>
        let e := startEngine s h src
        let past' := if contested then ((src == 22) :: past).take 7 else past
        let s1 := s.setLoupe { s.loupe with
          waiting := smod [] s.loupe.waiting (32 * pipe.val + src) (·.drop 1)
          last := sput 22 s.loupe.last pipe src
          contested := sput [] s.loupe.contested pipe past' }
        .next (s1.setEngines pipe (s1.engines pipe ++ [e]))

/-- R98, R132: the result of the first frame taken in goes to the classifier. -/
def execLoupeDeliver (pipe : Fin 2) (s : State) : Outcome State Fault Refusal :=
  match s.engines pipe with
  | [] => .next s
  | e :: rest =>
    match e.out with
    | none => .next s
    | some c =>
      if s.dev = .frozen ∨ !s.clsAccepts pipe then .next s
      else
        let r : ParseResult :=
          { h := e.h, src := e.src, recirc := e.recirc, pipe := pipe, cls := c, key := e.key, stack := e.stack, base := e.base,
            frameLen := e.frameLen }
        let ctx : ClsCtx :=
          { r := r, phase := .arrived, entry := 0, slot := 0, clamped := false, pass := 0, colour := 0, meterLen := 0, item := [],
            att := Attach.empty }
        let s1 := s.setEngines pipe rest
        .next { s1 with cls := { s1.cls with lanes := smod [] s1.cls.lanes pipe.val (· ++ [ctx]) } }

end Sys2Proof.Machine
end

