-- ==== Sys2Proof/Machine/Cls.lean ====
section
/-! DEFINITION. The classifier (R131–R172): the epoch pin, the walk, action lists, meters, delivery to the Dealer. -/

namespace Sys2Proof.Machine

open Host

def State.setCls (s : State) (c : Cls) : State := { s with cls := c }

/-! ### Contexts (R131, R132) -/

def State.lane (s : State) (n : Nat) : List ClsCtx := sget [] s.cls.lanes n

def State.setLane (s : State) (n : Nat) (l : List ClsCtx) : State :=
  s.setCls { s.cls with lanes := sput [] s.cls.lanes n l }

def State.setCtx (s : State) (n k : Nat) (c : ClsCtx) : State := s.setLane n (lset (s.lane n) k c)

/-- The context is freed. -/
def State.dropCtx (s : State) (n k : Nat) : State := s.setLane n (ldrop (s.lane n) k)

/-! ### The node region (R147, R148, R150) -/

/-- The HBM address of the node region. -/
def State.clsRegion (s : State) : Nat := 65536 * s.fld (clsBase + 8) 31 16 + 2 ^ 32 * s.fld (clsBase + 0xC) 5 0

/-- The number of lines in the node region. -/
def State.clsLines (s : State) : Nat := 16384 * s.fld (clsBase + 0x10) 16 0

/-- R148: the lines that the tree-top cache holds. -/
def cacheLines : Nat := 131072

/-- The bytes of a line; none when HBM answers with poison (R512). -/
def State.clsLine (s : State) (l : Nat) : Option (List Byte) :=
  if l < cacheLines then some (readBytes s.cls.cache (64 * l) 64) else (hbmRead s (s.clsRegion + 64 * l) 64).2

/-- A line read from HBM is counted (R172). -/
def countLine (s : State) (l : Nat) : State :=
  if l < cacheLines then s else (hbmRead s (s.clsRegion + 64 * l) 64).1.count (clsBase + 0x12C)

/-- R150: an uncorrectable error in the cache: the line is reloaded from HBM. -/
def reloadLine (s : State) (l : Nat) : State × Option (List Byte) :=
  let (s1, r) := hbmRead s (s.clsRegion + 64 * l) 64
  let s2 := (s1.count (clsBase + 0x12C)).count (clsBase + 0x134)
  let s3 := s2.setCls { s2.cls with cacheUe := true }
  match r with
  | none => (s3, none)
  | some bs => (s3.setCls { s3.cls with cache := writeBytes s3.cls.cache (64 * l) bs }, some bs)

/-- R148, R150: one line read with the state of the cache's check code. -/
def readLine (s : State) (l : Nat) (ecc : Ecc) : State × Option (List Byte) :=
  if l < cacheLines ∧ ecc = Ecc.uncorrectable then reloadLine s l
  else if l < cacheLines ∧ ecc = Ecc.corrected then (s.count (clsBase + 0x130), s.clsLine l)
  else (countLine s l, s.clsLine l)

/-- R148, R162: one line written: the cache and HBM together. -/
def writeClsLine (s : State) (l : Nat) (bs : List Byte) : State :=
  let s1 := hbmWrite s (s.clsRegion + 64 * l) bs
  if l < cacheLines then s1.setCls { s1.cls with cache := writeBytes s1.cls.cache (64 * l) bs } else s1

/-! ### The flow hash (R71, R135) -/

/-- An endpoint: address and port compare as one big-endian number. -/
def hashPair (a b : List Byte × List Byte) : (List Byte × List Byte) × (List Byte × List Byte) :=
  if beNat (b.1 ++ b.2) < beNat (a.1 ++ a.2) then (b, a) else (a, b)

/-- R135: the 38-byte tuple. -/
def flowTuple (key : SMap Byte) : List Byte :=
  let at_ := fun (slot n : Nat) => readBytes key (2 * slot) n
  let ip := (at_ 16 32).any (· != 0)
  let ends := if ip then hashPair (at_ 16 16, at_ 34 2) (at_ 24 16, at_ 35 2)
    else hashPair (at_ 4 6 ++ leBytes 10 0, [0, 0]) (at_ 7 6 ++ leBytes 10 0, [0, 0])
  ends.1.1 ++ ends.2.1 ++ [if ip then sget 0 key 31 else 0] ++ [0] ++ ends.1.2 ++ ends.2.2

/-- R71: the default key: DPROF 0, FLOW from the flow hash. -/
def defaultKey (key : SMap Byte) : BitVec 24 := ((crc32cOf (flowTuple key)).setWidth 20).setWidth 24

/-! ### Epoch slots (R164, R166, R167) -/

/-- The PENDING slots with commit time at or before `t`, in commit-time order. -/
def insertByCommit (s : State) (k : Nat) : List Nat → List Nat
  | [] => [k]
  | j :: js => if (s.slot k).commit < (s.slot j).commit then k :: j :: js else j :: insertByCommit s k js

def State.pendingUpTo (s : State) (t : Time) : List Nat :=
  ((List.range 4).filter fun k => (s.slot k).pending && (s.slot k).commit ≤ t).foldr (insertByCommit s) []

/-- R164, R167: a PENDING slot becomes LIVE and CURRENT, after every PENDING slot with an earlier commit time. -/
def activateSlot (s : State) (k : Nat) : State :=
  if (s.slot k).pending then (s.pendingUpTo (s.slot k).commit).foldl makeCurrent s else s

/-- R167: fabric time reaches a PENDING slot's commit time. -/
def execEpochCommitTime (k : BitVec 2) (s : State) : Outcome State Fault Refusal :=
  if s.dev ≠ .frozen ∧ (s.slot k.toNat).pending ∧ (s.slot k.toNat).commit ≤ s.now then .next (activateSlot s k.toNat)
  else .next s

/-- The slots in use. -/
def State.usedSlots (s : State) : List Nat := (List.range 4).filter fun k => (s.slot k).live || (s.slot k).pending

/-- The slot of a list with the highest commit time. -/
def latestSlot (s : State) : List Nat → Option Nat
  | [] => none
  | k :: ks => match latestSlot s ks with
    | none => some k
    | some j => some (if (s.slot j).commit < (s.slot k).commit then k else j)

/-- The slot of a list with the lowest commit time. -/
def earliestSlot (s : State) : List Nat → Option Nat
  | [] => none
  | k :: ks => match earliestSlot s ks with
    | none => some k
    | some j => some (if (s.slot k).commit < (s.slot j).commit then k else j)

/-- R164: the slot that governs timestamp `t`, and whether the pin is clamped. -/
def State.chooseSlot (s : State) (t : Time) : Nat × Bool :=
  match latestSlot s (s.usedSlots.filter fun k => (s.slot k).commit ≤ t) with
  | some k => (k, false)
  | none => ((earliestSlot s (s.usedSlots.filter fun k => (s.slot k).live)).getD 0, true)

/-! ### Results (R158, R159, R173–R175) -/

/-- R159: the classification statuses. -/
def csHit : Nat := 0
def csMiss : Nat := 1
def csList : Nat := 2
def csDefault : Nat := 3
def csActionFault : Nat := 4
def csTreeFault : Nat := 5
def csTtlExpired : Nat := 6
def csPassLimit : Nat := 7

/-- What a list proposes, or nothing. -/
structure Proposal where
  dispatch : Word
  klass : Nat
  colour : Nat
  sreason : Nat
  outs : List (BitVec 64)
  meta4 : List Word
  deriving DecidableEq, Repr

def Proposal.none : Proposal := { dispatch := 0, klass := 0, colour := 0, sreason := 0, outs := [], meta4 := [0, 0, 0, 0] }

/-- R173: the work item of a context. -/
def workItem (s : State) (c : ClsCtx) (slow : Bool) (status : Nat) (rule : Word) (p : Proposal) : List Word :=
  let pk := s.pkt c.r.h
  let key := match s.fixEntry c.entry with
    | some v => v.key.toNat
    | none => 0
  [ at' (b2n slow) 0 ||| at' (bits p.dispatch 31 28) 4 ||| at' (bits p.dispatch 27 24) 8 ||| at' (bits p.dispatch 7 0) 12
      ||| at' p.klass 20 ||| at' p.colour 23 ||| at' status 25 ||| at' (b2n c.clamped) 29,
    BitVec.ofNat 32 c.r.h,
    at' (pk.len % 2 ^ 14) 0 ||| at' pk.port.toNat 14 ||| at' c.pass 19 ||| at' pk.stack.length 23,
    at' key 0 ||| at' p.sreason 24,
    pk.ots.setWidth 32, pk.ots.extractLsb' 32 32,
    at' (s.slot c.slot).number.toNat 0 ||| at' c.slot 16 ||| at' p.outs.length 24,
    at' c.entry 0 ||| at' 1 31,
    if status = csHit then rule else 0,
    pk.node.setWidth 32, 0, 0 ] ++ p.meta4

/-- The context's item is ready for the Dealer. -/
def finishItem (s : State) (n k : Nat) (c : ClsCtx) (slow : Bool) (status : Nat) (rule : Word) (p : Proposal) : State :=
  s.setCtx n k { c with
    phase := .done
    item := workItem s c slow status rule p
    att := { key := c.r.key, stack := (s.pkt c.r.h).stack, outs := p.outs } }

/-- R136: the tree that a context walks, by its class map entry. -/
def State.mapEntry (s : State) (c : ClsCtx) : Nat :=
  readLE s.cls.descs (2048 * c.slot + 320 + 256 * mapOf c.r.src + 4 * c.r.cls) 4

/-- Word `i` of tree `t` in the pinned descriptor (R161). -/
def State.treeWord (s : State) (slot t i : Nat) : Nat := readLE s.cls.descs (2048 * slot + 64 + 16 * t + 4 * i) 4

/-- R172: a result is counted by its status and, for HIT and MISS, by its tree. -/
def countResult (s : State) (c : ClsCtx) (status : Nat) : State :=
  let s1 := s.count (clsBase + 0x100 + 4 * status)
  let t := nbits (s.mapEntry c) 3 0
  if status = csHit then s1.count (clsBase + 0x200 + 8 * t)
  else if status = csMiss then s1.count (clsBase + 0x204 + 8 * t) else s1

/-- R157: the class and colour of the packet become those the list gave. -/
def setEntryClass (s : State) (e klass colour : Nat) : State :=
  match s.fixEntry e with
  | some v => s.setEntry e { v with klass := BitVec.ofNat 3 klass, colour := BitVec.ofNat 2 colour }
  | none => s

/-- R72, R165, R168: the key that the classifier delivers: SET_DOMAIN's, the one carried in the ring header, or the default. -/
def keyFor (s : State) (c : ClsCtx) (domain : Option Nat) : BitVec 24 :=
  let p := s.pkt c.r.h
  if p.ring then p.key
  else match domain with
    | some k => BitVec.ofNat 24 k
    | none => defaultKey c.r.key

/-- R165: deliver the key and the class of a first pass, or the class of a later one.  False: the packet was discarded late. -/
def deliverResult (s : State) (c : ClsCtx) (domain : Option Nat) (klass colour : Nat) : State × Bool :=
  let r := deliverKey s c.entry (keyFor s c domain) (BitVec.ofNat 3 klass) (BitVec.ofNat 2 colour)
  if r.2 then (setEntryClass r.1 c.entry klass colour, true) else r

/-- R145, R156, R188: a walk or a list ends for the slow-path list, with no effect of a list. -/
def endSlow (s : State) (n k : Nat) (c : ClsCtx) (status : Nat) : State :=
  let s1 := countResult s c status
  match deliverResult s1 c none 0 0 with
  | (s2, true) => finishItem s2 n k c true status 0 Proposal.none
  | (s2, false) => s2.dropCtx n k

/-- R84, R138, R158: the packet is dropped: its entry becomes a tombstone and its buffers return. -/
def dropClassified (s : State) (c : ClsCtx) (reason : Nat) : State :=
  freePacket (resolveDropped s c.entry c.r.h reason) c.r.h

/-! ### Acceptance (R123, R136–R138, R164, R165, R168, R169) -/

/-- The class map entry of a pinned context is read and the walk starts. -/
def startWalk (s : State) (n k : Nat) (c : ClsCtx) : State :=
  let e := s.mapEntry c
  let target := nbits e 29 0
  match nbits e 31 30 with
  | 1 => s.setCtx n k { c with phase := .walk (target % 16) (s.treeWord c.slot (target % 16) 0) 0 }
  | 2 => s.setCtx n k { c with phase := .list target csList 0 (BitVec.ofNat 32 (readLE s.cls.descs (2048 * c.slot + 4) 4)) }
  | _ =>
    if c.r.cls < 0x30 then endSlow s n k c csDefault
    else
      let s1 := (countResult s c csDefault).count (clsBase + 0x128)
      match deliverResult s1 c none 0 0 with
      | (s2, true) => (dropClassified s2 c 0).dropCtx n k
      | (s2, false) => s2.dropCtx n k

/-- R164, R165: the pin of a first pass. -/
def pinFirst (s : State) (n k : Nat) (c : ClsCtx) : State :=
  let p := s.pkt c.r.h
  let (slot, clamped) := s.chooseSlot p.ots
  let s1 := activateSlot s slot
  let s2 := if clamped then s1.count (clsBase + 0x120) else s1
  match reserveEntry s2 c.r.h p slot clamped with
  | none => s
  | some (e, s3) =>
    let s4 := s3.setPkt c.r.h { s3.pkt c.r.h with slot := slot, clamped := clamped, entry := e, pass := 0, stack := c.r.stack }
    startWalk s4 n k { c with entry := e, slot := slot, clamped := clamped, pass := 0, meterLen := c.r.frameLen }

/-- R168, R169: a recirculated pass keeps its slot and entry and counts its passes. -/
def pinAgain (s : State) (n k : Nat) (c : ClsCtx) : State :=
  let p := s.pkt c.r.h
  let s1 := s.setPkt c.r.h { p with pass := p.pass + 1, stack := c.r.stack }
  let c1 := { c with entry := p.entry, slot := p.slot, clamped := p.clamped, pass := p.pass + 1, meterLen := c.r.frameLen }
  if s.fld clsBase 3 0 < p.pass + 1 then endSlow s1 n k c1 csPassLimit else startWalk s1 n k c1

/-- The oldest context of a lane that has not been accepted. -/
def State.arrivedAt (s : State) (n : Nat) : Option Nat :=
  lpos (fun c => decide (c.phase = .arrived)) (s.lane n)

/-- CLS_RESULT_ACCEPT.  In FROZEN no pin takes effect (R167); while the Fixer is FULL no walk starts (R165). -/
def execClsResultAccept (lane : Fin 2) (s : State) : Outcome State Fault Refusal :=
  match s.arrivedAt lane with
  | none => .next s
  | some k =>
    match (s.lane lane)[k]? with
    | none => .next s
    | some c =>
      if s.dev = .frozen then .next s
      else if c.r.recirc then .next (pinAgain s lane k c)
      else if s.fixFull then .next s
      else .next (pinFirst s lane k c)

/-! ### The walk (R145) -/

/-- What one node says. -/
inductive WalkStep where
  | go (node : Nat)
  | hit (list ruleId : Nat)
  | miss
  | fault
  deriving DecidableEq, Repr

/-- R142: a test passes. -/
def KeyTest.passes (key : SMap Byte) (t : KeyTest) : Bool := (keyField key t.off t.width &&& t.mask) == t.value

/-- R145: one node. -/
def walkNode (key : SMap Byte) : Node → WalkStep
  | .empty => .miss
  | .link t => .go t
  | .cut off w child => .go (child + keyField key off w)
  | .range off w child bounds => .go (child + (bounds.filter fun b => decide (b ≤ keyField key off w)).length)
  | .rule tests more alt next ruleId =>
    if tests.all (KeyTest.passes key) then (if more then .go next else .hit next ruleId)
    else if alt = 0xFFFFFFFF then .miss else .go alt
  | .reserved => .fault

/-- CLS_WALK.WALK_LIMIT (R171). -/
def State.walkLimit (s : State) : Nat := s.expert clsBase (clsBase + 0x60) 5 0 32

/-- R145: the walk goes on, or ends. -/
def walkResult (s : State) (n k : Nat) (c : ClsCtx) (tree reads : Nat) : WalkStep → State
  | .go node =>
    if s.walkLimit ≤ reads then endSlow s n k c csTreeFault
    else s.setCtx n k { c with phase := .walk tree node reads }
  | .hit list rule =>
    s.setCtx n k { c with phase := .list list csHit (BitVec.ofNat 32 rule) (BitVec.ofNat 32 (s.treeWord c.slot tree 2)) }
  | .miss =>
    let m := s.treeWord c.slot tree 1
    if m = 0xFFFFFFFF then endSlow s n k c csMiss
    else s.setCtx n k { c with phase := .list m csMiss 0 (BitVec.ofNat 32 (s.treeWord c.slot tree 2)) }
  | .fault => endSlow s n k c csTreeFault

/-- CLS_LINE_RETURN. -/
def execClsLineReturn (lane : Fin 2) (k : BitVec 11) (ecc : Ecc) (s : State) : Outcome State Fault Refusal :=
  match (s.lane lane)[k.toNat]? with
  | some c =>
    match c.phase with
    | .walk tree node reads =>
      let (s1, l) := readLine s node ecc
      .next (walkResult s1 lane k.toNat c tree (reads + 1) (match l with
        | none => .fault
        | some bs => walkNode c.r.key (nodeOf bs)))
    | _ => .next s
  | none => .next s

/-! ### Edits (R156, R157) -/

/-- The working copy of a frame: its bytes, its header stack as type and offset, its final BASE. -/
structure Edited where
  bytes : List Byte
  stack : List (Nat × Nat)
  base : Nat
  deriving DecidableEq, Repr

/-- How an entry's evaluation ends. -/
inductive EditEnd where
  | ok (e : Edited)
  | fault
  | ttl
  deriving DecidableEq, Repr

/-- Byte `i` of the frame. -/
def Edited.byte (e : Edited) (i : Nat) : Nat := (e.bytes.getD i 0).toNat

/-- R156: bytes `a` to `a + n − 1` may be edited. -/
def Edited.inHead (e : Edited) (a n : Nat) : Bool := a + n ≤ 512 && a + n ≤ e.bytes.length

/-- Bytes written in place. -/
def putBytes (l : List Byte) (a : Nat) (bs : List Byte) : List Byte := l.take a ++ bs ++ l.drop (a + bs.length)

def Edited.put (e : Edited) (a : Nat) (bs : List Byte) : Edited := { e with bytes := putBytes e.bytes a bs }

/-- A 16-bit word in wire order. -/
def Edited.half (e : Edited) (a : Nat) : Nat := 256 * e.byte a + e.byte (a + 1)

/-- A ones' complement sum of 16 bits. -/
def onesFold (v : Nat) : Nat :=
  let a := v % 65536 + v / 65536
  a % 65536 + a / 65536

/-- RFC 1624: the checksum after word `m` becomes `m'`. -/
def csumUpdate (hc m m' : Nat) : Nat := 65535 - onesFold ((65535 - hc) + (65535 - m) + m')

/-- R157: the incremental update of the IPv4 checksum at header `h` for the header words that changed from `old`. -/
def csumFix (old e : Edited) (h : Nat) : Edited :=
  let words := 2 * (e.byte h % 16)
  let c := (List.range words).foldl (fun hc i =>
    if i = 5 then hc else csumUpdateIf hc (old.half (h + 2 * i)) (e.half (h + 2 * i))) (e.half (h + 10))
  e.put (h + 10) (beBytes 2 c)
where
  /-- Only a word that changed. -/
  csumUpdateIf (hc m m' : Nat) : Nat := if m = m' then hc else csumUpdate hc m m'

/-- The IPv4 header checksum over the `n` bytes at `h`, with its own field taken as 0. -/
def csumFull (e : Edited) (h n : Nat) : Nat :=
  65535 - onesFold (((List.range (n / 2)).map fun i => if i = 5 then 0 else e.half (h + 2 * i)).foldl (· + ·) 0)

/-- R118: the header types that the edits name. -/
def htIpv4 : Nat := 6
def htIpv6 : Nat := 7

/-- SET_FIELD. -/
def editSet (e : Edited) (h off n : Nat) (csum : Bool) (value : Nat) : EditEnd :=
  match e.stack[h]? with
  | none => .fault
  | some (t, o) =>
    let a := o + off
    if !e.inHead a n || (csum && (t != htIpv4 || !e.inHead (o + 10) 2)) then .fault
    else
      let e1 := e.put a (beBytes n value)
      .ok (if csum then csumFix e e1 o else e1)

/-- DEC_TTL. -/
def editTtl (e : Edited) (h : Nat) : EditEnd :=
  match e.stack[h]? with
  | none => .fault
  | some (t, o) =>
    if t ≠ htIpv4 ∧ t ≠ htIpv6 then .fault
    else
      let a := if t = htIpv4 then o + 8 else o + 7
      if !e.inHead a 1 || (t == htIpv4 && !e.inHead (o + 10) 2) then .fault
      else if e.byte a ≤ 1 then .ttl
      else
        let e1 := e.put a [BitVec.ofNat 8 (e.byte a - 1)]
        .ok (if t = htIpv4 then csumFix e e1 o else e1)

/-- R154: one fixup of a header pushed at `ins`. -/
def pushFix (ins f : Nat) : EditEnd → EditEnd
  | .ok e =>
    let h := ins + nbits f 5 0
    let len := e.bytes.length - h
    match nbits f 15 14 with
    | 0 => .ok e
    | 1 =>
      let n := 4 * max 5 (e.byte h % 16)
      if !e.inHead (h + 2) 2 || !e.inHead (h + 10) 2 then .fault
      else
        let e1 := e.put (h + 2) (beBytes 2 len)
        .ok (e1.put (h + 10) (beBytes 2 (csumFull e1 h n)))
    | 2 => if e.inHead (h + 4) 2 then .ok (e.put (h + 4) (beBytes 2 (len - 40))) else .fault
    | _ => if e.inHead (h + 4) 2 then .ok (e.put (h + 4) (beBytes 2 len)) else .fault
  | x => x

/-- PUSH_HDR with the template line as read. -/
def editPush (e : Edited) (h off : Nat) (tmpl : Option (List Byte)) : EditEnd :=
  match e.stack[h]?, tmpl with
  | some (_, o), some t =>
    let ins := o + off
    let n := tmplLen t
    if 512 ≤ ins ∨ e.bytes.length < ins ∨ !templateOk t ∨ (tmplType t ≠ 0 ∧ 12 ≤ e.stack.length) then .fault
    else
      let later := (e.stack.drop (h + 1)).map fun x => (x.1, x.2 + n)
      let e1 : Edited :=
        { bytes := e.bytes.take ins ++ t.take n ++ e.bytes.drop ins
          stack := e.stack.take (h + 1) ++ (if tmplType t = 0 then later else (tmplType t, ins) :: later)
          base := if ins ≤ e.base then e.base + n else e.base }
      pushFix ins (tmplFix t 1) (pushFix ins (tmplFix t 0) (.ok e1))
  | _, _ => .fault

/-- POP_HDR. -/
def editPop (e : Edited) (h n : Nat) : EditEnd :=
  match e.stack[h]? with
  | none => .fault
  | some (_, o) =>
    if e.stack.length < h + n then .fault
    else
      let stop := match e.stack[h + n]? with
        | some (_, p) => p
        | none => e.base
      let rm := stop - o
      if 0 < rm ∧ !e.inHead o rm then .fault
      else .ok
        { bytes := e.bytes.take o ++ e.bytes.drop (o + rm)
          stack := e.stack.take h ++ (e.stack.drop (h + n)).map (fun x => (x.1, x.2 - rm))
          base := if stop ≤ e.base then e.base - rm else e.base }

/-! ### Evaluation (R151, R156) -/

/-- R151: the entries up to the first LAST; none when there is none. -/
def takeEntries : List Nat → Option (List Nat)
  | [] => none
  | e :: es => if isLast e then some [e] else (takeEntries es).map (e :: ·)

/-- R151: the entries of the list at line `l`, of one line or two; none when no LAST appears or a line is poisoned. -/
def State.listEntries (s : State) (l : Nat) : Option (List Nat) :=
  match s.clsLine l with
  | none => none
  | some a =>
    match takeEntries (lineEntries a) with
    | some es => some es
    | none => match s.clsLine (l + 1) with
      | none => none
      | some b => takeEntries (lineEntries a ++ lineEntries b)

/-- The lines that a list reads: its own and its templates. -/
def State.linesOf (s : State) (l : Nat) : List Nat :=
  let own := match s.clsLine l with
    | none => [l]
    | some a => if (takeEntries (lineEntries a)).isSome then [l] else [l, l + 1]
  let tmpl := ((s.listEntries l).getD []).filterMap fun e => match actOf e with
    | some (.pushHdr _ _ t) => some t
    | _ => none
  own ++ tmpl

def Act.isEdit : Act → Bool
  | .setField .. | .decTtl .. | .pushHdr .. | .popHdr .. => true
  | _ => false
def Act.isForward : Act → Bool
  | .forward .. => true
  | _ => false
def Act.isMirror : Act → Bool
  | .mirror .. => true
  | _ => false
def Act.isMeter : Act → Bool
  | .meter .. => true
  | _ => false
def Act.isCount : Act → Bool
  | .count .. => true
  | _ => false
def Act.isCapture : Act → Bool
  | .capture .. => true
  | _ => false

/-- R156: the limits on a list. -/
def withinLimits (as : List Act) : Bool :=
  let n := fun (p : Act → Bool) => (as.filter p).length
  decide (n Act.isEdit ≤ 8) && decide (n Act.isForward ≤ 4) && decide (n Act.isMirror ≤ 2) && decide (n Act.isMeter ≤ 2)
    && decide (n Act.isCount ≤ 4) && decide (n Act.isCapture ≤ 2)

/-- R156: a destination that may be proposed. -/
def State.destPossible (s : State) (dtype dest : Nat) : Bool :=
  match dtype with
  | 0 => s.portActive dest
  | 1 => dest != s.ownNode
  | 2 =>
    let (fn, r) := s.ringOwner dest
    match s.hring fn r with
    | some v => v.typ == .rx
    | none => false
  | _ => true

/-- SWT_METER_COUNT and CLS_CTR_COUNT. -/
def State.meterCount (s : State) : Nat := s.fld (swtBase + 0x14) 20 0
def State.counterCount (s : State) : Nat := s.fld (clsBase + 0x1C) 24 0

/-- R156: one action on the working copy. -/
def evalAct (s : State) (e : Edited) : Act → EditEnd
  | .setField h off n csum v => editSet e h off n csum v
  | .decTtl h => editTtl e h
  | .pushHdr h off l => editPush e h off (s.clsLine l)
  | .popHdr h n => editPop e h n
  | .forward t d | .mirror t d _ => if s.destPossible t d then .ok e else .fault
  | .meter _ i => if i < s.meterCount then .ok e else .fault
  | .count i => if i < s.counterCount then .ok e else .fault
  | _ => .ok e

/-- The actions in entry order; the first end stands. -/
def evalActs (s : State) : List Act → Edited → EditEnd
  | [], e => if e.bytes.length < 14 ∨ 16383 < e.bytes.length then .fault else .ok e
  | a :: as, e => match evalAct s e a with
    | .ok e1 => evalActs s as e1
    | x => x

/-- The actions of the entries; none when one is reserved. -/
def actsOf : List Nat → Option (List Act)
  | [] => some []
  | e :: es => match actOf e, actsOf es with
    | some a, some as => some (a :: as)
    | _, _ => none

/-- R156: the whole list. -/
def evalList (s : State) (l : Nat) (e : Edited) : List Act × EditEnd :=
  match (s.listEntries l).bind actsOf with
  | none => ([], .fault)
  | some as => if withinLimits as then (as, evalActs s as e) else ([], .fault)

/-! ### Application (R157, R158) -/

/-- The working copy at the start of a list. -/
def startEdit (s : State) (c : ClsCtx) : Edited :=
  { bytes := s.packetBytes c.r.h c.r.frameLen, base := c.r.base,
    stack := c.r.stack.map fun x => (x.toNat / 1024, x.toNat % 1024) }

/-- R160: add to a counter of the COUNT action. -/
def bumpCounter (s : State) (i len : Nat) : State :=
  let a := 65536 * s.fld (clsBase + 0x14) 31 16 + 2 ^ 32 * s.fld (clsBase + 0x18) 5 0 + 16 * i
  match hbmRead s a 16 with
  | (s1, none) => hbmWrite s1 a (leBytes 16 0)
  | (s1, some bs) => hbmWrite s1 a (leBytes 8 (leNat (bs.take 8) + 1) ++ leBytes 8 (leNat (bs.drop 8) + len))

/-- R549, R552: a CAPTURE action. -/
def captureAct (s : State) (c : ClsCtx) (bytes : List Byte) (key : BitVec 24) (klass colour n : Nat) : State :=
  let off := cshBase + 0x100 + 4 * n
  if !bitAt (s.reg off) 31 then s.count (cshBase + 0x90C)
  else
    let act := s.fld off 30 29
    let starts := act = 1 ∧ s.csh.st = .armed
    let s1 := if starts then s.cshStart else s
    let i := sget 0 s1.csh.samples (1 + n)
    let s2 := if s1.csh.recording then { s1 with csh := { s1.csh with samples := sput 0 s1.csh.samples (1 + n) (i + 1) } } else s1
    let p := s.pkt c.r.h
    let snap := s.fld off 7 0
    let want := if snap = 255 then bytes.length else min bytes.length (64 * snap)
    let rec_ : CshRec :=
      { typ := 2, time := s.now, ots := p.ots, flags := b2n (want < bytes.length) + 8 * b2n c.clamped, src := c.r.src, trig := n,
        frameLen := bytes.length, key := key.toNat, cls := klass + 8 * colour, node := p.node.toNat,
        epoch := (s.slot c.slot).number.toNat, body := bytes.take want }
    let s3 := if !s2.csh.recording then s2
      else if starts ∨ i % 2 ^ s.fld off 23 20 = 0 then s2.cshOffer rec_ else s2.count (cshBase + 0x908)
    if starts then s3.logEvent 0x90 0 (evAt 4 s3.csh.seq.toNat)
    else if act = 2 ∧ s3.csh.st = .recording then
      let s4 := s3.cshStop
      if s4.csh.st = .stopped then s4.logEvent 0x91 0 (evAt 4 s4.cshLastSeq) else s4
    else s3

/-- What a list leaves, found from its actions. -/
structure ListSummary where
  drop : Option Nat
  slow : Option Nat
  recirc : Bool
  domain : Option Nat
  prop : Proposal
  deriving DecidableEq, Repr

/-- R157, R158: one action's part of the summary. -/
def sumAct (x : ListSummary) : Act → ListSummary
  | .drop r => { x with drop := some (x.drop.getD r) }
  | .slowPath r => { x with slow := some (x.slow.getD r) }
  | .recirc => { x with recirc := true }
  | .setDomain k => { x with domain := some k }
  | .dispatch g p q =>
    { x with prop := { x.prop with dispatch := at' g 28 ||| at' p 24 ||| at' q 0 } }
  | .setClass c setc colour =>
    { x with prop := { x.prop with klass := c, colour := if setc then colour else x.prop.colour } }
  | .forward t d => { x with prop := { x.prop with outs := x.prop.outs ++ [BitVec.ofNat 64 (d + t * 2 ^ 16)] } }
  | .mirror t d tr =>
    { x with prop := { x.prop with outs := x.prop.outs ++ [BitVec.ofNat 64 (d + t * 2 ^ 16 + 2 ^ 19 + tr * 2 ^ 20)] } }
  | .setMeta w v => { x with prop := { x.prop with meta4 := lset x.prop.meta4 w (BitVec.ofNat 32 v) } }
  | _ => x

def summarise (dispatch : Word) (as : List Act) : ListSummary :=
  as.foldl sumAct { drop := none, slow := none, recirc := false, domain := none, prop := { Proposal.none with dispatch := dispatch } }

/-- R157: the colour steps of a list, from its first METER on; the steps before it act at once. -/
def colourOps : List Act → List ColourOp
  | [] => []
  | .meter aware i :: as => .meter aware i :: colourOps as
  | .setClass _ true c :: as => .set c :: colourOps as
  | _ :: as => colourOps as

/-- Apply the steps before the next METER. -/
def runSets : List ColourOp → Nat → List ColourOp × Nat
  | .set c :: r, _ => runSets r c
  | l, c => (l, c)

/-- R157: COUNT and CAPTURE, in entry order, with the frame as edited so far. -/
def applyEffects (s : State) (c : ClsCtx) (x : ListSummary) (key : BitVec 24) (edited : Bool) : List Act → Edited → State → State
  | [], _, st => st
  | a :: as, e, st =>
    let e1 := if edited then (match evalAct s e a with
      | .ok e1 => e1
      | _ => e) else e
    let st1 := match a with
      | .count i => bumpCounter st i c.r.frameLen
      | .capture n => captureAct st c e.bytes key x.prop.klass x.prop.colour n
      | _ => st
    applyEffects s c x key edited as e1 st1

/-- R157, R329: the edits change the packet in its head buffer. -/
def storeEdit (s : State) (h : Nat) (old : Nat) (e : Edited) : State :=
  let size := (s.pool (poolOf h)).size
  let link := s.linkWord h
  let data := link / 2 ^ 32 % 2 ^ 14
  let data' := data + e.bytes.length - old
  let s1 := s.bufWrite h 0 (e.bytes.take data')
  let s2 := s1.bufWrite h (size - 8) (leBytes 8 (link % 2 ^ 32 + data' % 2 ^ 14 * 2 ^ 32))
  let p := s2.pkt h
  s2.setPkt h { p with len := e.bytes.length, stack := e.stack.map fun x => BitVec.ofNat 16 (x.1 * 1024 + x.2) }

/-- R158: what a list whose actions are applied leads to. -/
def ListSummary.after (x : ListSummary) : AfterMeters := if x.recirc ∧ x.slow.isNone then .recirc else .item

/-- The colour of a context is known: its packet is gone, re-enters the Loupe, or goes to the Dealer. -/
def finishMeters (s : State) (n k : Nat) (c : ClsCtx) (colour : Nat) : AfterMeters → State
  | .gone => s.dropCtx n k
  | .recirc =>
    let s1 := match s.fixEntry c.entry with
      | some v => s.setEntry c.entry { v with colour := BitVec.ofNat 2 colour }
      | none => s
    (enterLoupe s1 c.r.h 22 (s1.pkt c.r.h).pipe).dropCtx n k
  | .item =>
    let s1 := match s.fixEntry c.entry with
      | some v => s.setEntry c.entry { v with colour := BitVec.ofNat 2 colour }
      | none => s
    s1.setCtx n k { c with phase := .done, item := lset c.item 0 (putBits (wordOf c.item 0) (mask 24 23) (at' colour 23)) }

/-- R157: the colour steps go on to the next METER, or are done. -/
def nextMeter (s : State) (n k : Nat) (c : ClsCtx) (ops : List ColourOp) (colour : Nat) (a : AfterMeters) : State :=
  match runSets ops colour with
  | ([], col) => finishMeters s n k c col a
  | (ops', col) => s.setCtx n k { c with phase := .meters ops' a, colour := col }

/-- The end of an evaluation: the item is built, then the colour steps run. -/
def endList (s : State) (n k : Nat) (c : ClsCtx) (status : Nat) (rule : Word) (x : ListSummary) (as : List Act)
    (a : AfterMeters) : State :=
  let s1 := if a = .item then finishItem s n k c x.slow.isSome status rule { x.prop with sreason := x.slow.getD 0 } else s
  nextMeter s1 n k (((s1.lane n)[k]?).getD c) (colourOps as) 0 a

/-- CLS_ACTION_EVAL. -/
def execClsActionEval (lane : Fin 2) (k : BitVec 11) (s : State) : Outcome State Fault Refusal :=
  match (s.lane lane)[k.toNat]? with
  | some c =>
    match c.phase with
    | .list line status rule dispatch =>
      let e0 := startEdit s c
      let s0 := (s.linesOf line).foldl countLine s
      match evalList s line e0 with
      | (_, .fault) => .next (endSlow s0 lane k.toNat c csActionFault)
      | (_, .ttl) => .next (endSlow s0 lane k.toNat c csTtlExpired)
      | (as, .ok e) =>
        let x := summarise dispatch as
        let edited := x.drop.isNone
        let key := match s.fixEntry c.entry with
          | some v => if v.keyed then v.key else keyFor s c x.domain
          | none => keyFor s c x.domain
        let s1 := applyEffects s c x key edited as e0 (countResult s0 c status)
        let s2 := if edited ∧ as.any Act.isEdit then storeEdit s1 c.r.h c.r.frameLen e else s1
        match deliverResult s2 c x.domain x.prop.klass (runSets (colourOps as) 0).2 with
        | (s3, false) => .next (endList s3 lane k.toNat c status rule x as .gone)
        | (s3, true) =>
          match x.drop with
          | some r => .next (endList (dropClassified (s3.count (clsBase + 0x124)) c r) lane k.toNat c status rule x as .gone)
          | none => .next (endList s3 lane k.toNat c status rule x as x.after)
    | _ => .next s
  | none => .next s

/-! ### Meters (R363–R366) -/

/-- A meter entry (R363). -/
structure Meter where
  en : Bool
  /-- MODE: trTCM. -/
  two : Bool
  adj : Int
  cir : Nat
  pir : Nat
  cbs : Nat
  ebs : Nat
  tc : Nat
  te : Nat
  last : Nat
  deriving DecidableEq, Repr

def meterOf (l : List Byte) : Meter :=
  let w0 := lineWord l 0
  { en := w0.testBit 31, two := w0.testBit 30, adj := signedOf 8 (nbits w0 15 8), cir := lineWord l 1, pir := lineWord l 2,
    cbs := lineWord l 3, ebs := lineWord l 4, tc := lineWord l 5, te := lineWord l 6, last := leNat ((l.drop 28).take 8) }

/-- The HBM address of meter entry `i`. -/
def State.meterAddr (s : State) (i : Nat) : Nat :=
  65536 * s.fld (swtBase + 0xC) 31 16 + 2 ^ 32 * s.fld (swtBase + 0x10) 5 0 + 64 * i

/-- R365: tokens, in 1/256 byte, that a rate in kb/s gives in a time. -/
def meterTokens (rate dt : Nat) : Nat := rate * dt / 500000

/-- R365: the buckets at time `now`: the srTCM's excess bucket takes what the committed one cannot hold (RFC 2697), the trTCM's
fill each at its own rate (RFC 2698). -/
def fillMeter (m : Meter) (now : Nat) : Meter :=
  let dt := now - m.last
  let add := meterTokens m.cir dt
  if m.two then
    { m with tc := min (256 * m.cbs) (m.tc + add), te := min (256 * m.ebs) (m.te + meterTokens m.pir dt), last := max m.last now }
  else
    let tc := min (256 * m.cbs) (m.tc + add)
    { m with tc := tc, te := min (256 * m.ebs) (m.te + (m.tc + add - tc)), last := max m.last now }

/-- R365: colour a packet of `b` 1/256 bytes whose input colour is `c` (0 when colour-blind). -/
def colourMeter (m : Meter) (b c : Nat) : Meter × Nat :=
  if m.two then
    if c = 2 ∨ m.te < b then (m, 2)
    else if c = 1 ∨ m.tc < b then ({ m with te := m.te - b }, 1)
    else ({ m with te := m.te - b, tc := m.tc - b }, 0)
  else if c = 0 ∧ b ≤ m.tc then ({ m with tc := m.tc - b }, 0)
  else if c < 2 ∧ b ≤ m.te then ({ m with te := m.te - b }, 1)
  else (m, 2)

/-- Bytes 20–35 of an entry: its tokens and LAST. -/
def Meter.tail (m : Meter) : List Byte := leBytes 4 m.tc ++ leBytes 4 m.te ++ leBytes 8 m.last

/-- R365: one meter operation: the colour it gives. -/
def runMeter (s : State) (i : Nat) (aware : Bool) (colour len : Nat) : State × Nat :=
  let a := s.meterAddr i
  match hbmRead s a 64 with
  | (s1, none) =>
    let (v, s2) := s1.takeFree
    (hbmWrite s2 a (leBytes 64 0), v % 3)
  | (s1, some l) =>
    let m := meterOf l
    if !m.en then (s1, if aware then colour else 0)
    else
      let b := 256 * ((len : Int) + m.adj).toNat
      let (m1, c) := colourMeter (fillMeter m s.nowN) b (if aware then colour else 0)
      (hbmWrite s1 (a + 20) m1.tail, c)

/-- METER_OP. -/
def execMeterOp (lane : Fin 2) (k : BitVec 11) (s : State) : Outcome State Fault Refusal :=
  match (s.lane lane)[k.toNat]? with
  | some c =>
    match c.phase with
    | .meters (.meter aware i :: rest) a =>
      let (s1, colour) := runMeter s i aware c.colour c.meterLen
      .next (nextMeter s1 lane k.toNat c rest colour a)
    | _ => .next s
  | none => .next s

/-! ### Delivery (R132, R195) -/

/-- CLS_DELIVER: an item for the slow-path list goes at once, any other once its group is not in STOP. -/
def execClsDeliver (lane : Fin 2) (k : BitVec 11) (s : State) : Outcome State Fault Refusal :=
  match (s.lane lane)[k.toNat]? with
  | some c =>
    let slow := bits (wordOf c.item 0) 3 0 = 1
    if c.phase ≠ .done ∨ (¬slow ∧ s.stopped (bits (wordOf c.item 0) 7 4)) then .next s
    else
      let x : DlrItem := { w := c.item, att := c.att, since := s.now, slow := slow, late := false, seq := 0 }
      .next ((s.setDlr { s.dlr with inbox := s.dlr.inbox ++ [x] }).dropCtx lane k.toNat)
  | none => .next s

end Sys2Proof.Machine
end

