-- ==== Sys2Proof/Machine/Thread.lean ====
section
/-! DEFINITION. Hardware threads (R251–R266): FORK, JOIN, END, events, the timer compare, submissions, PKTOUT, kill, the interrupts
and the deadlock detector (R282–R284). -/

namespace Sys2Proof.Machine

open Host

/-! ### Children and the end of work (R259, R260, R301) -/

/-- R259: the children of a thread become orphans. -/
def orphanChildren (s : State) (t : Nat) : State :=
  (s.cores.threads.filter fun e => e.2.parent == some t).foldl
    (fun st e => st.modThread e.1 fun th => { th with parent := none }) s

/-- The CX_LOG entry of a core (R302). -/
def State.cxLog (s : State) (core : Nat) : CxLog := sget CxLog.empty s.cores.cxlog core

/-- CX_LOGk_INFO (R302). -/
def CxLog.info (e : CxLog) : Word :=
  at' (b2n e.overflow) 17 ||| at' (b2n e.valid) 16 ||| at' e.cxf.toNat 10 ||| at' e.thread.toNat 0

/-- R301: a pending CX_LATE is cleared with a count and an event. -/
def loseCxLate (s : State) (t : Nat) : State :=
  match (s.thread t).irqCxLate with
  | none => s
  | some _ =>
    let e := s.cxLog (coreOf t)
    let s1 := s.modThread t fun th => { th with irqCxLate := none }
    (s1.count (thrBase (clusterOf t) + 0x4108)).logEvent 0x43 2
      (evAt 0 (CxLog.info e).toNat ||| evAt 4 e.pc.toNat ||| evAt 8 e.time.toNat)

/-- R153, R177: an output that a packet may carry. -/
def validOutput (o : BitVec 64) : Bool :=
  let dest := o.toNat % 2 ^ 16
  let dtype := o.toNat / 2 ^ 16 % 8
  let mirror := o.getLsbD 19
  o.toNat < 2 ^ 34 && (mirror || o.toNat / 2 ^ 20 % 2 ^ 14 == 0) &&
    (match dtype with
     | 0 => dest < 16
     | 1 => dest < 2 ^ 14
     | 2 => true
     | 3 => dest < 2 ^ 15
     | _ => false)

/-- R260: a packet dropped at its thread's end: the thread frees HANDLE, and the entry leaves a tombstone. -/
def dropAtEnd (s : State) (t entry orig h : Nat) : State :=
  resolveDropped (forgetPacket (tryApply s .free t h 0).1 h) entry orig 0

/-- R260, R342, R344: the end of a PACKET or SLOW item, from the dispatch area. -/
def endPacket (s : State) (t : Nat) (w : List Word) : State :=
  let off := dispatchOff t
  let h := readLE s.mems.scratch (off + 4) 4
  let len := readLE s.mems.scratch (off + 8) 4 % 2 ^ 14
  let nout := readLE s.mems.scratch (off + 24) 4 / 2 ^ 24 % 8
  let outs := (List.range nout).map fun i => BitVec.ofNat 64 (readLE s.mems.scratch (off + 224 + 8 * i) 8)
  let entry := bits (wordOf w 7) 16 0
  let orig := (wordOf w 1).toNat
  if nout = 0 then dropAtEnd s t entry orig h
  else if 6 < nout ∨ !outs.all validOutput then dropAtEnd (thrCount s t 0x301C) t entry orig h
  else
    match tryApply s .endItem t h pathName with
    | (s1, false) => resolveDropped s1 entry orig 0
    | (s1, true) =>
      s1.setFix { s1.fix with reports := s1.fix.reports ++
        [{ entry := entry, orig := orig, handle := BitVec.ofNat 32 h, len := len, outs := outs }] }

/-- R463: the results of a HOST item, from the dispatch area. -/
def endHost (s : State) (t : Nat) (w : List Word) : State :=
  let word := fun (i : Nat) => BitVec.ofNat 32 (readLE s.mems.scratch (dispatchOff t + 4 * i) 4)
  completeHost s w { status := bits (word 15) 7 0, r0 := word 12, r1 := word 13, r2 := word 14, data := [] }

/-- R260: the work item of a thread completes. -/
def endItem (s : State) (t : Nat) : State :=
  match (s.thread t).item with
  | none => s
  | some w =>
    match bits (wordOf w 0) 3 0 with
    | 0 => endPacket s t w
    | 1 => endPacket s t w
    | 3 => endHost s t w
    | _ => s

/-- R197, R251: the thread holds no work any more. -/
def becomeIdle (s : State) (t : Nat) : State :=
  clearTpri (s.modThread t fun th =>
    { th with state := .idle, wait := .none, parent := none, children := 0, item := none, outstanding := none,
              irqCheck := none, irqDebug := none, irqCxLate := none, haltReq := false, stepArmed := false }) t

/-- R259, R260: thread `t` ends, and its parent's count falls; a parent in ENDJOIN may end with it.  FORK keeps a family within one
core, so the fuel of eight threads suffices. -/
def endThread : Nat → State → Nat → State
  | 0, s, _ => s
  | n + 1, s, t =>
    let parent := (s.thread t).parent
    let s1 := becomeIdle (orphanChildren (endItem (loseCxLate s t) t) t) t
    match parent with
    | none => s1
    | some p =>
      let s2 := s1.modThread p fun th => { th with children := th.children - 1 }
      if (s2.thread p).children = 0 ∧ (s2.thread p).state = .wait then
        match (s2.thread p).wait with
        | .join rd => endWait s2 p rd (statusWord 0 0)
        | .endjoin => endThread n s2 p
        | _ => s2
      else s2

/-- R259, R260, R283: the END of a thread completes. -/
def completeEnd (s : State) (t : Nat) : State := endThread 9 s t

/-! ### FORK, JOIN, END, YIELD (R258–R260) -/

/-- Fields all unused. -/
def legalNone (f : RFields) : Bool := f.rd == 0 && f.rs1 == 0 && f.rs2 == 0 && f.aux == 0
/-- RD only. -/
def legalRd (f : RFields) : Bool := f.rs1 == 0 && f.rs2 == 0 && f.aux == 0

/-- R258: the lowest-numbered idle pool thread of the issuing core. -/
def State.poolThread (s : State) (t : Nat) : Option Nat :=
  ((List.range 8).map (8 * (t / 8) + ·)).find? fun k =>
    (s.thread k).state == .idle && (1024 ≤ t || !s.dispatchThread (coreOf t) (k % 8))

/-- R258: the start state of a child. -/
def childState (parent : Nat) (th : Thread) (f : RFields) (k : Nat) : Thread :=
  { (((((Thread.cleared.setA 1 (th.areg 1)).setA 7 (BitVec.ofNat 48 (0x108000 + 0x1000 * (k % 8)))).setD 1
      (th.dreg f.rs2)).setD 2 (th.dreg (f.rs2 + 1)))) with
    state := .run, pc := th.areg (aOf f.rs1), tsr := setLevel (at' 1 tsrIe) th.level, parent := some parent }

def execFork (t : ThreadId) (f : RFields) (s : State) : Outcome State Fault Refusal :=
  workRow 0x00 (fun f => isA f.rs1 && f.rs2 != 15 && f.aux == 0) (fun th =>
    match s.poolThread t with
    | none => answer (thrCount s t 0x3010) t f.rd (statusWord 3 0)
    | some k =>
      let s1 := s.setThread k (childState t th f k)
      answer (s1.modThread t fun x => { x with children := x.children + 1 }) t f.rd (statusWord 0 (k % 1024))) t f s

def execJoin (t : ThreadId) (f : RFields) (s : State) : Outcome State Fault Refusal :=
  workRow 0x01 legalRd (fun th =>
    if th.children = 0 then answer s t f.rd (statusWord 0 0) else waitOrTimeout s t f.rd (.join f.rd)) t f s

/-- R260, R262: END with live children waits in ENDJOIN; an ENDJOIN that the compare ends completes its END. -/
def execEndOp (t : ThreadId) (f : RFields) (s : State) : Outcome State Fault Refusal :=
  workRow 0x02 legalNone (fun th =>
    if th.children = 0 then .gone (completeEnd s t)
    else if th.compareReached s.now then .gone (completeEnd (thrCount s t 0x300C) t)
    else startWait s t .endjoin) t f s

/-- R254: YIELD gives up the issue slot; the order of issue is the order of the commands. -/
def execYield (t : ThreadId) (f : RFields) (s : State) : Outcome State Fault Refusal :=
  workRow 0x0A legalNone (fun _ => .ok s) t f s

/-! ### Timer and events (R262–R265) -/

def execWaitt (t : ThreadId) (f : RFields) (s : State) : Outcome State Fault Refusal :=
  workRow 0x03 legalRd (fun th =>
    if !th.arm then answer s t f.rd (statusWord 6 0)
    else if th.compareReached s.now then answer s t f.rd (statusWord 0 0)
    else startWait s t (.waitt f.rd)) t f s

/-- R264: the pending events of a mask are consumed. -/
def consumeEvents (s : State) (t : Nat) (m : BitVec 16) : State :=
  s.modThread t fun th => { th with evpend := th.evpend &&& ~~~m }

def execWaite (t : ThreadId) (f : RFields) (s : State) : Outcome State Fault Refusal :=
  workRow 0x04 (fun f => f.rs2 == 0 && f.aux == 0) (fun th =>
    let m : BitVec 16 := (th.dreg f.rs1).setWidth 16
    let hit := th.evpend &&& m
    if m = 0 ∨ hit ≠ 0 then answer (consumeEvents s t m) t f.rd (statusWord 0 hit.toNat)
    else waitOrTimeout s t f.rd (.waite f.rd m)) t f s

/-- R263: POST is posted; the event acts when it arrives. -/
def execPost (t : ThreadId) (f : RFields) (s : State) : Outcome State Fault Refusal :=
  workRow 0x05 (fun f => f.rd == 0 && f.rs2 == 0 && auxWithin f.aux 0xF) (fun th =>
    .ok { s with cores := { s.cores with posts := s.cores.posts ++
      [{ poster := t, target := (th.dreg f.rs1).toNat % 4096, event := f.aux.toNat }] } }) t f s

/-- R263: whom an event accepts. -/
def posterAccepted (poster target event : Nat) : Bool :=
  if event < 8 then clusterOf poster == clusterOf target else if event < 12 then true else 1024 ≤ poster

/-- R263, R264: a posted event reaches its target. -/
def execPostArrive (s : State) : Outcome State Fault Refusal :=
  match s.cores.posts with
  | [] => .next s
  | p :: rest =>
    let s1 := { s with cores := { s.cores with posts := rest } }
    if 1031 < p.target then .next (thrCount s1 p.poster 0x3014)
    else if !posterAccepted p.poster p.target p.event ∨ (s1.thread p.target).state = .idle then
      .next (thrCount s1 p.target 0x3014)
    else
      let s2 := s1.modThread p.target fun th => { th with evpend := th.evpend ||| BitVec.ofNat 16 (2 ^ p.event) }
      let th := s2.thread p.target
      match th.wait with
      | .waite rd m =>
        if th.state = .wait ∧ th.evpend &&& m ≠ 0 then
          .next (endWait (consumeEvents s2 p.target m) p.target rd (statusWord 0 (th.evpend &&& m).toNat))
        else .next s2
      | _ => .next s2

/-! ### Submissions and created packets (R186, R261) -/

/-- The words of a work item in the scratch. -/
def itemWords (s : State) (off : Nat) : List Word :=
  (List.range 16).map fun i => BitVec.ofNat 32 (readLE s.mems.scratch (off + 4 * i) 4)

def execSubmit (t : ThreadId) (f : RFields) (s : State) : Outcome State Fault Refusal :=
  workRow 0x0B (fun f => isA f.rs1 && f.rs2 == 0 && auxWithin f.aux 1) (fun th =>
    let a := th.areg (aOf f.rs1)
    match scratchArea t a 64 4 with
    | .inr code => .raise code a
    | .inl off =>
      let w := stampItem s (itemWords s off)
      let st := s.submitStatus w false
      if st ≠ 0 then answer (countRefused s) t f.rd (BitVec.ofNat 32 st)
      else if s.submitRoom w false then answer (enterSubmission s w) t f.rd 0
      else if f.aux = 0 then answer (countRefused s) t f.rd 1
      else waitOrTimeout s t f.rd (.submit f.rd w)) t f s

/-- R186: a waiting submission enqueues once its room exists; in FROZEN it completes with HALTED. -/
def execSubmitResume (t : ThreadId) (s : State) : Outcome State Fault Refusal :=
  let th := s.thread t
  match th.wait with
  | .submit rd w =>
    if th.state ≠ .wait then .next s
    else if s.dev = .frozen then .next (endWait (countRefused s) t rd 6)
    else if s.submitRoom w false then .next (endWait (enterSubmission s w) t rd 0)
    else .next s
  | _ => .next s

/-- The timestamp point of packets that threads create (R56, R57). -/
def pointThread : Nat := 32
/-- The timestamp point of descriptor fetches. -/
def pointFetch : Nat := 33

/-- This node's ID (RING_ID). -/
def State.nodeId (s : State) : BitVec 14 := (s.reg (ringBase + 4)).setWidth 14

/-- R261: the record breaks no rule of its table. -/
def goodRecord (s : State) (r : List Byte) : Bool :=
  let h := leNat (r.take 4)
  let len := leNat ((r.drop 4).take 2)
  let b6 := leNat ((r.drop 6).take 1)
  let out := BitVec.ofNat 64 (leNat ((r.drop 16).take 8))
  14 ≤ len && len ≤ 16383 && b6 < 32 && b6 / 8 != 3 && leNat ((r.drop 7).take 1) == 0
    && leNat ((r.drop 11).take 5) == 0 && leNat ((r.drop 24).take 8) == 0 && validOutput out && !out.getLsbD 19
    && (1 < (s.chainOf h).length || len ≤ (s.pool (poolOf h)).size)

/-- R261, R342: register the packet of a record: the packet path takes the buffer, and the entry is READY with its output. -/
def sendRecord (s : State) (t : Nat) (r : List Byte) (ots : Time) : State × Nat :=
  let h := leNat (r.take 4)
  match tryApply s .pktout t h pathName with
  | (s1, false) => (s1, 7)
  | (s1, true) =>
    (registerCreated s1 h (leNat ((r.drop 4).take 2)) ots (BitVec.ofNat 24 (leNat ((r.drop 8).take 3)))
      (BitVec.ofNat 3 (leNat ((r.drop 6).take 1) % 8)) (BitVec.ofNat 2 (leNat ((r.drop 6).take 1) / 8)) s.nodeId
      (BitVec.ofNat 64 (leNat ((r.drop 16).take 8))), 0)

def execPktout (t : ThreadId) (f : RFields) (s : State) : Outcome State Fault Refusal :=
  workRow 0x0C (fun f => isA f.rs1 && f.rs2 == 0 && f.aux == 0) (fun th =>
    let a := th.areg (aOf f.rs1)
    match scratchArea t a 32 8 with
    | .inr code => .raise code a
    | .inl off =>
      let r := readBytes s.mems.scratch off 32
      if !goodRecord s r then answer s t f.rd (statusWord 7 0)
      else if s.dev = .frozen then answer s t f.rd (statusWord 8 0)
      else
        let (ots, s1) := s.stamp pointThread s.now
        if s.fixFull then waitOrTimeout s1 t f.rd (.pktout f.rd r ots)
        else
          let (s2, st) := sendRecord s1 t r ots
          answer s2 t f.rd (statusWord st 0)) t f s

/-- R76, R261: a waiting PKTOUT registers once a Fixer entry is free; in FROZEN it returns FROZEN. -/
def execPktoutResume (t : ThreadId) (s : State) : Outcome State Fault Refusal :=
  let th := s.thread t
  match th.wait with
  | .pktout rd r ots =>
    if th.state ≠ .wait then .next s
    else if s.dev = .frozen then .next (endWait s t rd (statusWord 8 0))
    else if s.fixFull then .next s
    else
      let (s1, st) := sendRecord (s.modThread t fun x => { x with wait := .none }) t r ots
      .next (endWait s1 t rd (statusWord st 0))
  | _ => .next s

/-! ### Waits that end early (R262, R266, R272, R283) -/

/-- Mark the Trays request of a thread withdrawn (R338). -/
def sendTrayWithdrawal (s : State) (t : Nat) (why : Withdrawal) : State :=
  s.setTrays { s.trays with waiters := s.trays.waiters.map fun w => if w.req = t then { w with wd := why } else w }

/-- R266: a wait is withdrawn; the thread stands before its instruction again. -/
def withdrawWait (s : State) (t : Nat) : State :=
  let th := s.thread t
  if th.state ≠ .wait then s
  else
    let s1 := match th.wait with
      | .claim n _ _ => leaveChan s (clusterOf t) n t
      | .recv _ n _ => leaveChan s (clusterOf t) n t
      | .lock _ _ => sendLckWithdrawal s t .interrupt
      | .sem _ _ => sendLckWithdrawal s t .interrupt
      | .trays _ _ _ _ => sendTrayWithdrawal s t .interrupt
      | _ => s
    s1.modThread t fun x => { x with state := .run, wait := .none }

/-- A wait of thread `t` ends with a status of R257: by the compare (1) or by the deadlock detector (2). -/
def endEarly (s : State) (t status : Nat) : State :=
  let th := s.thread t
  match th.wait with
  | .none => s
  | .join rd => endWait s t rd (statusWord status 0)
  | .endjoin => completeEnd s t
  | .waitt rd => endWait s t rd (statusWord 0 0)
  | .waite rd _ => endWait s t rd (statusWord status 0)
  | .claim n _ _ =>
    passBy ((leaveChan s (clusterOf t) n t).modThread t fun x => { x with wstat := failureRecord status n }) t
  | .send rd _ => endWait s t rd (statusWord status 0)
  | .recv rd n _ => endWait (leaveChan s (clusterOf t) n t) t rd (statusWord status 0)
  | .lock _ _ => sendLckWithdrawal s t (if status = 1 then .timeout else .deadlock)
  | .sem _ _ => sendLckWithdrawal s t (if status = 1 then .timeout else .deadlock)
  | .trays _ _ _ _ => sendTrayWithdrawal s t (if status = 1 then .timeout else .deadlock)
  | .submit rd _ => endWait s t rd (BitVec.ofNat 32 status)
  | .pktout rd _ _ => endWait s t rd (statusWord status 0)

/-- The wait's end is counted by THR_CNT_TIMEOUT at once (R287): not WAITT, which completes, nor a wait whose end crosses to its unit. -/
def Wait.timesOut : Wait → Bool
  | .none | .waitt _ | .lock _ _ | .sem _ _ | .trays _ _ _ _ => false
  | _ => true

/-- R262: fabric time reaches the compare of a waiting thread. -/
def execTimerCompareReached (t : ThreadId) (s : State) : Outcome State Fault Refusal :=
  let th := s.thread t
  if th.state = .wait ∧ th.compareReached s.now then
    .next (endEarly (if th.wait.timesOut then thrCount s t 0x300C else s) t 1)
  else .next s

/-! ### The deadlock detector (R252, R282–R284) -/

/-- Threads of a cluster block (R251, R285). -/
def clusterThreads (c : Nat) : List Nat := if c = 16 then (List.range 8).map (1024 + ·) else (List.range 64).map (64 * c + ·)

/-- R252: the thread is in a closed wait. -/
def State.closedWait (s : State) (t : Nat) : Bool :=
  let th := s.thread t
  th.state == .wait && !th.arm &&
    (match th.wait with
     | .join _ | .endjoin | .claim _ _ _ | .send _ _ | .recv _ _ _ => true
     | .waite _ m => m.toNat < 256
     | .trays _ _ _ _ => s.trays.waiters.any fun w => w.req == t && w.reported
     | _ => false)

/-- R282: the conditions under which the detector counts. -/
def State.dlHolds (s : State) (c : Nat) : Bool :=
  let ts := clusterThreads c
  bitAt (s.reg (thrBase c)) 0 && ts.all (fun t => (s.thread t).state != .halt)
    && ts.any (fun t => (s.thread t).state != .idle)
    && ts.all (fun t => (s.thread t).state == .idle || s.closedWait t)

/-- DL_CYCLES (R286). -/
def State.dlCycles (s : State) (c : Nat) : Nat := s.expert (thrBase c) (thrBase c + 0x40) 15 0 4096

/-- The detector's count: cluster cycles at 2.2 GHz, 11/80 of a cycle for each FTU. -/
def State.dlCount (s : State) (c : Nat) : Nat :=
  match (s.cluster c).dlSince with
  | none => 0
  | some t => if s.dlHolds c then s.elapsed t * 11 / 80 else 0

/-- R252: the WAIT code. -/
def Wait.code : Wait → Nat
  | .none => 0 | .join _ => 1 | .endjoin => 2 | .waitt _ => 3 | .waite _ _ => 4 | .claim _ _ _ => 5 | .send _ _ => 6
  | .recv _ _ _ => 7 | .lock _ _ => 8 | .sem _ _ => 8 | .trays _ _ _ _ => 9 | .submit _ _ => 10 | .pktout _ _ _ => 11

/-- The channel of a wait in CLAIM, SEND or RECV, else 0. -/
def Wait.channel : Wait → Nat
  | .claim n _ _ => n
  | .send _ n => n
  | .recv _ n _ => n
  | _ => 0

/-- The mask of a WAITE. -/
def Wait.mask : Wait → Nat
  | .waite _ m => m.toNat
  | _ => 0

/-- R284: the 64 bits of a thread. -/
def snapThread (th : Thread) : Nat :=
  let w := if th.state = .wait then th.wait else .none
  th.state.code + 16 * w.code + 2 ^ 8 * w.channel + 2 ^ 16 * w.mask + 2 ^ 32 * (th.pc.toNat % 2 ^ 17)
    + 2 ^ 49 * (th.children % 16) + 2 ^ 53 * b2n th.arm

/-- R284: the 16 bits of a channel. -/
def snapChan (ch : Channel) : Nat := ch.st.code + 8 * (ch.owner % 64) + 2 ^ 9 * ch.n

/-- R284: the snapshot of a cluster. -/
def snapshot (s : State) (c victim : Nat) : List Byte :=
  leBytes 8 s.nowN ++ leBytes 1 c ++ leBytes 1 (indexOf victim) ++ leBytes 2 (s.dlCycles c) ++ leBytes 20 0
    ++ ((List.range 32).flatMap fun n => leBytes 2 (snapChan (s.chan c n)))
    ++ ((List.range 64).flatMap fun k => if c = 16 ∧ 8 ≤ k then leBytes 8 0 else leBytes 8 (snapThread (s.thread (threadOf c k))))

/-- R283: the count reaches DL_CYCLES: a snapshot is taken, and the lowest-indexed closed wait ends with DEADLOCK. -/
def execClusterDeadlock (c : Fin 17) (s : State) : Outcome State Fault Refusal :=
  match (clusterThreads c.val).find? s.closedWait with
  | none => .next s
  | some v =>
    if s.dlHolds c.val ∧ s.dlCycles c.val ≤ s.dlCount c.val then
      let cl := s.cluster c.val
      let s1 := (s.setCluster c.val { cl with snap := writeBytes [] 0 (snapshot s c.val v), dlSince := some s.now }).count
        (thrBase c.val + 0x3008)
      .next ((endEarly s1 v 2).logEvent 0x40 1 (evAt 0 c.val ||| evAt 1 (indexOf v)))
    else .next s

/-! ### Interrupts (R213, R247, R265, R266) -/

/-- R265: the thread's interrupt line. -/
def Thread.irqLine (th : Thread) (now : Time) : Bool :=
  th.evpend &&& th.evirq.setWidth 16 != 0 || (th.evirq.getLsbD 16 && th.compareReached now)

/-- R247: the interrupt that would be taken, with its EINFO. -/
def Thread.interrupt (th : Thread) (now : Time) : Option (Nat × Addr) :=
  let open' := bitAt th.tsr tsrIe && !bitAt th.tsr tsrExlS
  match th.irqCheck, th.irqDebug with
  | some a, _ => some (codeMachineCheck, a)
  | none, some a => some (codeDebug, a)
  | none, none =>
    if !open' then none
    else match th.irqCxLate with
      | some a => some (codeCxLate, a)
      | none => if th.irqLine now then some (codeThreadIrq, 0) else none

/-- The interrupt is pending no more; the line stays as its causes are. -/
def Thread.takeIrq (th : Thread) (code : Nat) : Thread :=
  if code = codeMachineCheck then { th with irqCheck := none }
  else if code = codeDebug then { th with irqDebug := none }
  else if code = codeCxLate then { th with irqCxLate := none }
  else th

/-- R247, R249, R266: a thread in RUN or in a wait takes its interrupt of highest priority; a wait is withdrawn. -/
def execInterruptTake (t : ThreadId) (s : State) : Outcome State Fault Refusal :=
  let th := s.thread t
  if (th.state = .run ∨ th.state = .wait) ∧ th.outstanding.isNone then
    match th.interrupt s.now with
    | none => .next s
    | some (code, info) =>
      let s1 := (withdrawWait s t).modThread t fun x => x.takeIrq code
      .next (takeException s1 t code (s1.thread t).pc info)
  else .next s

/-- R213: a posted store failed in its target; the interrupt becomes pending unless an earlier one still is. -/
def execMachineCheck (t : ThreadId) (target : Addr) (s : State) : Outcome State Fault Refusal :=
  if (s.thread t).state = .idle then .next s
  else .next (s.modThread t fun th => { th with irqCheck := some (th.irqCheck.getD target) })

/-! ### Kill and thread reset (R278) -/

/-- R278: end a thread. -/
def killThread (s : State) (t : Nat) : State :=
  let th := s.thread t
  if th.state = .idle then s
  else
    let s1 := (List.range 32).foldl (killChan t) s
    let s2 := loseCxLate (traysKill (lckReset s1 t) t) t
    let s3 := match th.item with
      | none => s2
      | some w =>
        let h := (wordOf w 1).toNat
        match bits (wordOf w 0) 3 0 with
        | 0 => dropAtEnd s2 t (bits (wordOf w 7) 16 0) h h
        | 1 => dropAtEnd s2 t (bits (wordOf w 7) 16 0) h h
        | 3 => completeHost s2 w (.of stAborted)
        | _ => s2
    let s4 := s3.modThread t fun x => { x with item := none }
    thrCount (completeEnd s4 t) t 0x3018

end Sys2Proof.Machine
end

