-- ==== Sys2Proof/Machine/Debug.lean ====
section
/-! DEFINITION. The debug unit of a cluster (R275–R281, R285). -/

namespace Sys2Proof.Machine

open Host

/-! ### Requests (R275, R276) -/

/-- THR_DBG_CTRL.MODE (R275). -/
def State.dbgMode (s : State) (c : Nat) : Nat := s.fld (thrBase c + 0x400) 1 0

def setDbgResult (s : State) (c : Nat) (r : BitVec 4) : State := s.setCluster c { s.cluster c with dbgResult := r }

/-- R276: the previous request is in progress: a halt that waits for its boundary, or a STEP whose instruction has not completed. -/
def State.dbgBusy (s : State) (c : Nat) : Bool :=
  (clusterThreads c).any fun t => (s.thread t).haltReq || (s.thread t).stepArmed

/-- R276: a request's precondition. -/
def dbgAllowed (s : State) (op c : Nat) (t : Nat) (ch : Nat) : Bool :=
  let st := (s.thread t).state
  match op with
  | 1 => st != .idle
  | 2 => st == .halt
  | 3 => st == .halt
  | 4 => st != .idle
  | 5 => st == .run || st == .wait
  | _ => (s.chan c ch).st == .filling || (s.chan c ch).st == .held

/-- R266, R276, R277: halt a thread at its next instruction boundary. -/
def haltRequest (s : State) (t : Nat) : State :=
  let th := s.thread t
  if th.state = .halt then s
  else if th.outstanding.isSome then s.modThread t fun x => { x with haltReq := true }
  else haltThread (withdrawWait s t) t

/-- R277: the thread continues at the halt PC. -/
def resumeThread (s : State) (t : Nat) : State :=
  holdChannels (s.modThread t fun x => { x with state := .run }) t false

/-- R273: CHABORT discards a partial message. -/
def abortChan (s : State) (c n : Nat) : State :=
  let ch := s.chan c n
  let s1 := s.modThread ch.owner fun x => { x with wstat := failureRecord 5 n }
  freeChan (s1.count (thrBase c + 0x3004)) c n

/-- R276: carry a request out. -/
def dbgAct (s : State) (op c t ch : Nat) : State :=
  match op with
  | 1 => haltRequest s t
  | 2 => resumeThread s t
  | 3 => s.modThread t fun x => { x with stepArmed := true }
  | 4 => killThread s t
  | 5 => s.modThread t fun x => { x with irqDebug := some (x.irqDebug.getD 1) }
  | _ => abortChan s c ch

/-- R276: one request, with its outcome in THR_DBG_RESULT. -/
def dbgRequest (s : State) (c op k ch : Nat) : State :=
  let t := threadOf c k
  if s.dbgMode c ≠ 2 then setDbgResult s c 1
  else if s.dbgBusy c then setDbgResult s c 4
  else if !dbgAllowed s op c t ch then setDbgResult s c 2
  else dbgAct (setDbgResult s c 0) op c t ch

def execHalt (c : Fin 17) (k : Fin 64) (s : State) : Outcome State Fault Refusal := .next (dbgRequest s c 1 k 0)
def execResume (c : Fin 17) (k : Fin 64) (s : State) : Outcome State Fault Refusal := .next (dbgRequest s c 2 k 0)
def execStep (c : Fin 17) (k : Fin 64) (s : State) : Outcome State Fault Refusal := .next (dbgRequest s c 3 k 0)
def execKill (c : Fin 17) (k : Fin 64) (s : State) : Outcome State Fault Refusal := .next (dbgRequest s c 4 k 0)
def execTrap (c : Fin 17) (k : Fin 64) (s : State) : Outcome State Fault Refusal := .next (dbgRequest s c 5 k 0)
def execChabort (c : Fin 17) (ch : Fin 32) (s : State) : Outcome State Fault Refusal := .next (dbgRequest s c 6 0 ch)

/-! ### The register window (R285) -/

/-- A part of a 32-bit slice of a wider register. -/
def slice32 (v lo : Nat) : Word := BitVec.ofNat 32 (v / 2 ^ lo)

/-- R285: the window's word at offset `o` of the selected thread. -/
def windowWord (th : Thread) (o : Nat) : Word :=
  if o < 0x40 then th.dreg (BitVec.ofNat 4 (o / 4))
  else if o < 0x80 then slice32 (th.areg (BitVec.ofNat 3 ((o - 0x40) / 8))).toNat (if o % 8 = 0 then 0 else 32)
  else if o < 0x8C then slice32 th.acc0.toNat (8 * (o - 0x80))
  else if o < 0x98 then slice32 th.acc1.toNat (8 * (o - 0x8C))
  else match o with
    | 0x98 => th.pc.setWidth 32
    | 0x9C => th.tsr
    | 0xA0 => th.evpend.setWidth 32
    | 0xA4 => th.tcmp.setWidth 32
    | 0xA8 => th.tcmp.extractLsb' 32 32
    | 0xAC => at' (b2n th.arm) 0
    | 0xB0 => th.wstat.setWidth 32
    | _ => 0

/-- Replace bits `lo + 31 : lo` of a value of `n` bits. -/
def putSlice (v lo : Nat) (w : Word) : Nat := v - v / 2 ^ lo % 2 ^ 32 * 2 ^ lo + w.toNat * 2 ^ lo

/-- R285: write one word of the selected thread; D0 stays 0 and reserved bits stay 0. -/
def windowPut (th : Thread) (o : Nat) (w : Word) : Thread :=
  if o < 0x40 then th.setD (BitVec.ofNat 4 (o / 4)) w
  else if o < 0x80 then
    let a := BitVec.ofNat 3 ((o - 0x40) / 8)
    th.setA a (BitVec.ofNat 48 (putSlice (th.areg a).toNat (if o % 8 = 0 then 0 else 32) w))
  else if o < 0x8C then { th with acc0 := BitVec.ofNat 72 (putSlice th.acc0.toNat (8 * (o - 0x80)) w) }
  else if o < 0x98 then { th with acc1 := BitVec.ofNat 72 (putSlice th.acc1.toNat (8 * (o - 0x8C)) w) }
  else match o with
    | 0x98 => { th with pc := w.setWidth 48, jumpFrom := none }
    | 0x9C => { th with tsr := w &&& 0xF80FFF00 }
    | 0xA0 => { th with evpend := w.setWidth 16 }
    | 0xA4 => { th with tcmp := th.tcmp.extractLsb' 32 32 ++ w }
    | 0xA8 => { th with tcmp := w ++ th.tcmp.setWidth 32 }
    | 0xAC => { th with arm := bitAt w 0 }
    | 0xB0 => { th with wstat := w.setWidth 10 }
    | _ => th

/-- The thread that the window shows. -/
def State.windowThread (s : State) (c : Nat) : Nat := threadOf c (s.fld (thrBase c + 0x40C) 5 0)

/-- R275, R285: a read of the window: 0 in OFF. -/
def windowRead (s : State) (c o : Nat) : Word :=
  if s.dbgMode c = 0 then 0 else windowWord (s.thread (s.windowThread c)) o

/-- R275, R285: a write of the window acts only in FULL mode on a halted thread. -/
def windowWrite (s : State) (c o : Nat) (w : Word) : State :=
  let t := s.windowThread c
  if s.dbgMode c ≠ 2 then setDbgResult s c 1
  else if (s.thread t).state ≠ .halt then setDbgResult s c 2
  else s.modThread t fun th => windowPut th o w

def execDbgWinWrite (c : Fin 17) (offset : BitVec 8) (value : Word) (s : State) : Outcome State Fault Refusal :=
  if offset.toNat % 4 = 0 ∧ offset.toNat < 0xB4 then .next (windowWrite s c offset.toNat value) else .next s

/-! ### Breakpoints (R279, R280) -/

/-- R280, R549: a debug record for the Contact Sheet; one that it does not accept is dropped and counted. -/
def traceRecord (s : State) (t : Nat) : State :=
  let th := s.thread t
  if s.csh.recording ∧ bitAt (s.reg (cshBase + 0x20)) 30 then
    s.cshOffer { CshRec.plain 4 s.now
      (leBytes 4 t ++ leBytes 4 (th.pc.toNat % 2 ^ 17) ++ leBytes 4 (th.dreg 1).toNat ++ leBytes 4 (th.dreg 2).toNat) with
      src := clusterOf t }
  else thrCount s t 0x3020

/-- R279: the breakpoint is enabled, matches the thread and holds its PC. -/
def State.bpMatches (s : State) (t n : Nat) : Bool :=
  let v := s.reg (thrBase (clusterOf t) + 0x410 + 4 * n)
  bitAt v 31 && (bitAt v 28 || bits v 27 22 == indexOf t) && (s.thread t).pc.toNat == bits v 16 0

/-- R275, R279: an instruction at a breakpoint's PC is about to issue. -/
def execBreakpointHit (t : ThreadId) (bp : Fin 4) (s : State) : Outcome State Fault Refusal :=
  let c := clusterOf t
  let action := s.fld (thrBase c + 0x410 + 4 * bp.val) 30 29
  if !(s.thread t).issues ∨ !s.bpMatches t bp.val ∨ s.dbgMode c = 0 then .next s
  else if s.dbgMode c = 1 ∨ action = 2 then .next (traceRecord s t)
  else if action = 0 then .next (haltThread s t)
  else .next (endStep (takeException s t codeDebug (s.thread t).pc (BitVec.ofNat 48 (2 + 4 * bp.val))) t)

/-! ### The drain limit (R281) -/

/-- R281: the threads that a Stop Bath waits for. -/
def State.busyThreads (s : State) : List Nat :=
  (s.cores.threads.filter fun e => e.1 < 1024 && e.2.state != .idle).map (·.1)

/-- R281: end every thread that the drain limit finds working, with an event for each. -/
def killForSwap (s : State) : State :=
  s.busyThreads.foldl (fun st t => (killThread st t).logEvent 0x42 1 (evAt 0 t)) s

end Sys2Proof.Machine
end

