-- ==== Sys2Proof/Machine/RingOps.lean ====
section
/-! DEFINITION. The ring's formats and routing, as other units need them (R389–R418): headers, directions, outputs, reversal, and
CTRL reports. -/

namespace Sys2Proof.Machine

def State.setRing (s : State) (r : Ring) : State := { s with ring := r }

/-! ### Ports and dimensions (R389, R432) -/

def State.rport (s : State) (p : Nat) : RingPort := s.ring.ports.getD p RingPort.reset

def State.setRport (s : State) (p : Nat) (v : RingPort) : State := s.setRing { s.ring with ports := lset s.ring.ports p v }

/-- The bypass die of a dimension. -/
def State.die (s : State) (d : Nat) : Bypass := s.ring.dims.getD d Bypass.new

def State.setDie (s : State) (d : Nat) (v : Bypass) : State := s.setRing { s.ring with dims := lset s.ring.dims d v }

/-- R389: the dimension of a port: 0 X, 1 Y. -/
def dimOf (p : Nat) : Nat := p / 2
/-- The other port of a port's dimension. -/
def otherPort (p : Nat) : Nat := 2 * (p / 2) + (1 - p % 2)

/-- XSIZE and YSIZE. -/
def State.dimSize (s : State) (d : Nat) : Nat := if d = 0 then s.fld (ringBase + 8) 7 0 else s.fld (ringBase + 8) 15 8

/-- The index of a node ID in a dimension. -/
def indexOfNode (n d : Nat) : Nat := if d = 0 then n % 128 else n / 128 % 128

/-- This node's index. -/
def State.ownIndex (s : State) (d : Nat) : Nat := indexOfNode s.ownNode d

/-- `b − a` in a ring of `size` nodes. -/
def ringDist (size a b : Nat) : Nat := if size = 0 then 0 else (b + size - a % size) % size

/-- RING_CTRL.MTU. -/
def State.ringMtu (s : State) : Nat := s.fld ringBase 13 0

/-- The counter at `off` of port `p` (R435). -/
def ringCnt (p off : Nat) : Nat := ringBase + 0x800 + 0x80 * p + off

/-! ### Headers (R400–R402) -/

/-- R400: the fields of a ring header. -/
structure RHdr where
  dest : Nat
  src : Nat
  ts : Nat
  key : Nat
  cls : Nat
  sport : Nat
  hops : Nat
  order : Bool
  xdir : Bool
  ydir : Bool
  vc : Bool
  rev : Bool
  kind : Nat
  deriving DecidableEq, Repr

/-- R400: the fields of header bits, HCRC and the reserved bit left out. -/
def RHdr.of (h : BitVec 128) : RHdr :=
  let f := fun (hi lo : Nat) => h.toNat / 2 ^ lo % 2 ^ (hi + 1 - lo)
  { dest := f 127 114, src := f 113 100, ts := f 99 64, key := f 63 40, cls := f 39 37, sport := f 36 32, hops := f 31 24,
    order := h.getLsbD 23, xdir := h.getLsbD 22, ydir := h.getLsbD 21, vc := h.getLsbD 20, rev := h.getLsbD 19, kind := f 18 17 }

/-- Header bytes in wire order. -/
def headerBytes (h : BitVec 128) : List Byte := beBytes 16 h.toNat

/-- R401: HCRC as the first 14 bytes give it. -/
def headerCrc (h : BitVec 128) : BitVec 16 := hcrcOf ((headerBytes h).take 14)

/-- R400, R401: the header bits of the fields. -/
def RHdr.bits (r : RHdr) : BitVec 128 :=
  let v := r.dest * 2 ^ 114 + r.src * 2 ^ 100 + r.ts * 2 ^ 64 + r.key * 2 ^ 40 + r.cls * 2 ^ 37 + r.sport * 2 ^ 32
    + r.hops * 2 ^ 24 + b2n r.order * 2 ^ 23 + b2n r.xdir * 2 ^ 22 + b2n r.ydir * 2 ^ 21 + b2n r.vc * 2 ^ 20
    + b2n r.rev * 2 ^ 19 + r.kind * 2 ^ 17
  let h := BitVec.ofNat 128 v
  h ||| (headerCrc h).setWidth 128

/-- R398: the pool of a frame at the receiver. -/
def RHdr.pool (r : RHdr) : Nat := 16 * b2n r.order + 8 * b2n r.vc + r.cls

/-- The pool of a frame by its header as sent. -/
def RFrame.pool (f : RFrame) : Nat := (RHdr.of f.hdr).pool

/-- R402: the full origin timestamp. -/
def fullOrigin (ts : Nat) (now : Time) : Time :=
  let d := ts + 2 ^ 36 - now.toNat % 2 ^ 36
  let d := d % 2 ^ 36
  if d < 2 ^ 35 then now + BitVec.ofNat 64 d else now + BitVec.ofNat 64 d - BitVec.ofNat 64 (2 ^ 36)

/-- R400: the blocks of a frame with an `n`-byte payload, its SOF included. -/
def frameBlocks (n : Nat) : Nat := 1 + (n + 8 + 17) / 18

/-- R403: a good trailer. -/
def goodTrailer (payload : List Byte) : List Byte := beBytes 4 (crc32cOf payload).toNat ++ leBytes 4 0

/-- R403, R404: a stomped trailer made by this node. -/
def State.stompTrailer (s : State) (payload : List Byte) (code : Nat) : List Byte :=
  beBytes 4 (~~~crc32cOf payload).toNat ++ [BitVec.ofNat 8 code] ++ beBytes 2 s.ownNode ++ [0]

/-! ### The broken ring and skipped nodes (R415, R417) -/

/-- R415: the index at which a ring is marked broken. -/
def State.brokenAt (s : State) (d : Nat) : Option Nat :=
  match (s.rport (2 * d)).broken, (s.rport (2 * d + 1)).broken with
  | some (a, _), _ => some a
  | none, some (a, _) => some a
  | none, none => none

/-- R417: the index distance from a port's peer to this node, in the direction of travel. -/
def State.peerDist (s : State) (p : Nat) : Nat :=
  match (s.rport p).peer with
  | none => 1
  | some q =>
    let size := s.dimSize (dimOf p)
    let d := if p % 2 = 0 then ringDist size (indexOfNode q (dimOf p)) (s.ownIndex (dimOf p))
      else ringDist size (s.ownIndex (dimOf p)) (indexOfNode q (dimOf p))
    if d = 0 then size else d

/-- R417: PASSED: the nodes strictly between. -/
def State.passed (s : State) (p : Nat) : Nat := s.peerDist p - 1

/-- R417: index `t` lies among the nodes that a port's link skips. -/
def State.skips (s : State) (p t : Nat) : Bool :=
  match (s.rport p).peer with
  | none => false
  | some q =>
    let size := s.dimSize (dimOf p)
    let d := if p % 2 = 0 then ringDist size (indexOfNode q (dimOf p)) t else ringDist size t (indexOfNode q (dimOf p))
    decide (0 < d) && decide (d < s.peerDist p)

/-! ### Routing (R409–R411) -/

/-- R409: whether a frame to `dest` travels in a dimension, and its direction bit. -/
def State.direction (s : State) (d dest : Nat) : Option Bool :=
  let size := s.dimSize d
  let own := s.ownIndex d
  let dist := ringDist size own (indexOfNode dest d)
  if dist = 0 then none
  else
    let minus := decide (size < 2 * dist)
    let crosses := match s.brokenAt d with
      | none => false
      | some a => if minus then decide (ringDist size (a + 1) own < size - dist) else decide (ringDist size own a < dist)
    some (minus != crosses)

/-- The port of a dimension in a direction: the direction bit 0 is plus. -/
def portOf (d : Nat) (minus : Bool) : Nat := if minus then 2 * d else 2 * d + 1

/-- Credits held at a port for a pool (R399). -/
def State.creditsAt (s : State) (p k : Nat) : Nat := sget 0 (s.rport p).credit k

/-- R410: ORDER at origination. -/
def State.orderFor (s : State) (dest cls : Nat) (xdir ydir : Option Bool) : Bool :=
  match s.ring.avoid.reverse.find? fun e => e.1 == dest with
  | some e => e.2.1
  | none =>
    match xdir, ydir with
    | some _, none => false
    | none, some _ => true
    | some x, some y =>
      match s.fld ringBase 15 14 with
      | 1 => false
      | 2 => true
      | _ => s.creditsAt (portOf 0 x) cls < s.creditsAt (portOf 1 y) (16 + cls)
    | none, none => false

/-- R409, R410: the route fixed at origination: ORDER, XDIR, YDIR. -/
def State.routeFor (s : State) (dest cls : Nat) : Bool × Bool × Bool :=
  let x := s.direction 0 dest
  let y := s.direction 1 dest
  (s.orderFor dest cls x y, x.getD false, y.getD false)

/-- R411: the link from a port crosses its ring's dateline. -/
def State.wraps (s : State) (p : Nat) : Bool :=
  let own := s.ownIndex (dimOf p)
  if p % 2 = 1 then decide (s.dimSize (dimOf p) ≤ own + s.peerDist p) else decide (own < s.peerDist p)

/-- R411: the output port of a frame from input `inp` (4 for this node), and its header as it leaves. -/
def State.nextHop (s : State) (h : RHdr) (inp : Nat) : Nat × RHdr :=
  let moves := fun (d : Nat) => indexOfNode h.dest d != s.ownIndex d
  let d := if h.order then (if moves 1 then 1 else 0) else (if moves 0 then 0 else 1)
  let p := portOf d (if d = 0 then h.xdir else h.ydir)
  let vc := if h.rev then true
    else if s.wraps p && (s.brokenAt d).isNone then true
    else if inp < 4 && dimOf inp == d then h.vc else false
  (p, { h with vc := vc, hops := if inp < 4 then (h.hops + 1) % 256 else 0 })

/-! ### Outputs that are down (R412, R414, R416) -/

/-- R430: the link is declared DOWN; a port that trains again after HOLD still waits on its HOLD timer. -/
def State.portDown (s : State) (p : Nat) : Bool :=
  match (s.rport p).link with
  | .up | .hold => false
  | .down => true
  | .train | .hello => (s.rport p).hold.isNone

/-- R414: a frame turned round in the dimension of its output. -/
def reverseFrame (f : RFrame) : RFrame :=
  let h := RHdr.of f.hdr
  let h1 := if dimOf f.out = 0 then { h with xdir := !h.xdir } else { h with ydir := !h.ydir }
  { f with hdr := { h1 with rev := true, vc := true }.bits, out := otherPort f.out }

/-- The port on which an event of a frame counts: its input, or its output when this node made it. -/
def RFrame.countPort (f : RFrame) : Nat := if f.inp < 4 then f.inp else f.out

/-- R399: the buffer space of a frame that leaves is freed. -/
def freeBlocks (s : State) (inp pool n : Nat) : State :=
  if inp < 4 then s.setRport inp { s.rport inp with freed := smod 0 (s.rport inp).freed pool (· + n) } else s

/-! ### CTRL frames (R420) -/

/-- The payload of a CTRL frame. -/
def State.ctrlPayload (s : State) (code reason count : Nat) (h : RHdr) (ots : Time) : List Byte :=
  [BitVec.ofNat 8 code, BitVec.ofNat 8 reason] ++ beBytes 2 s.ownNode ++ beBytes 2 h.dest ++ beBytes 2 (min count 0xFFFF)
    ++ beBytes 8 ots.toNat ++ beBytes 3 h.key ++ [BitVec.ofNat 8 h.cls] ++ leBytes 12 0

/-- RING_TUNE.CTRL_GAP in FTU (R434). -/
def State.ctrlGap (s : State) : Nat := usFtu (10 * s.expert ringBase (ringBase + 0x30) 7 0 10)

/-- R417, R420: what a CTRL payload does at the source it is for. -/
def hearCtrl (s : State) (p : Nat) (data : List Byte) : State :=
  let code := (data.getD 0 0).toNat
  let reason := (data.getD 1 0).toNat
  let dest := beNat ((data.drop 4).take 2)
  let ev : BitVec 128 := BitVec.ofNat 128 (leNat (data.take 16))
  if code = 1 ∧ reason = 0 then s.logEvent 0x68 1 ev
  else if code = 2 ∧ 1 ≤ reason ∧ reason ≤ 4 then
    let s1 := if reason ≠ 2 then s
      else
        let other := !sget false s.ring.lastOrder dest
        let old := if 64 ≤ s.ring.avoid.length then s.ring.avoid.drop 1 else s.ring.avoid
        s.setRing { s.ring with avoid := old ++ [(dest, other, s.now)] }
    s1.logEvent 0x69 1 ev
  else s.count (ringCnt p 0x4C)

/-- A frame of RING itself takes its place among those that wait for an output; one with no way out is lost. -/
def queueOwn (s : State) (dest kind : Nat) (payload : List Byte) : State :=
  let (order, xdir, ydir) := s.routeFor dest 7
  let h : RHdr :=
    { dest := dest, src := s.ownNode, ts := s.nowN % 2 ^ 36, key := 0, cls := 7, sport := 18, hops := 0, order := order,
      xdir := xdir, ydir := ydir, vc := false, rev := false, kind := kind }
  let (p, h1) := s.nextHop h 4
  let f : RFrame :=
    { hdr := h1.bits, ots := s.now, inp := 4, out := p, blocks := frameBlocks payload.length, inPool := 0, payload := payload,
      trailer := some (goodTrailer payload), resent := false }
  let s1 := s.setRing { s.ring with lastOrder := sput false s.ring.lastOrder dest order }
  if !s.portDown p then s1.setRing { s1.ring with waits := s1.ring.waits ++ [f] }
  else if !s.portDown (otherPort p) then
    (s1.setRing { s1.ring with waits := s1.ring.waits ++ [reverseFrame f] }).count (ringCnt p 0x40)
  else s1.count (ringCnt p 0x28)

/-- R420: a discard is reported to the source of the frame, at most once in each CTRL_GAP. -/
def reportDiscard (s : State) (p : Nat) (h : RHdr) (ots : Time) (code reason : Nat) : State :=
  if h.kind = 2 then s
  else
    let g := sfind s.ring.gaps h.src
    let free := match g with
      | none => true
      | some g => decide (g.sent.toNat + s.ctrlGap ≤ s.nowN)
    let n := (match g with
      | none => 0
      | some g => g.count) + 1
    let data := s.ctrlPayload code reason n h ots
    if free then
      let s1 := s.setRing { s.ring with gaps := sins s.ring.gaps h.src { sent := s.now, count := 0, report := none } }
      if h.src = s.ownNode then hearCtrl s1 p data else queueOwn s1 h.src 2 data
    else
      match g with
      | none => s
      | some g =>
        let f : RFrame :=
          { hdr := h.bits, ots := ots, inp := p, out := p, blocks := 0, inPool := 0, payload := [], trailer := none, resent := false }
        s.setRing { s.ring with gaps := sins s.ring.gaps h.src { g with count := n, report := some (code, reason, f) } }

/-- R405, R416: a frame is discarded as unreachable. -/
def unreachable (s : State) (f : RFrame) (reason : Nat) : State :=
  let p := f.countPort
  reportDiscard ((freeBlocks s f.inp f.inPool f.blocks).count (ringCnt p 0x28)) p (RHdr.of f.hdr) f.ots 2 reason

/-- R412, R414, R416: where a frame goes whose output has been chosen: it stays there, is reversed, or has no way out. -/
def settleOut (s : State) (f : RFrame) : Option (RFrame × Bool) :=
  if !s.portDown f.out then some (f, false)
  else if (RHdr.of f.hdr).rev ∨ s.portDown (otherPort f.out) then none
  else some (reverseFrame f, true)

end Sys2Proof.Machine
end

