-- ==== Sys2Proof/Machine/SwtOps.lean ====
section
/-! DEFINITION. The switch core's queues (R358–R361, R367–R373, R381–R384): the choice of a queue, the checks of an enqueue, random
early drop, drops and flushes, port hold, and the return of chains. -/

namespace Sys2Proof.Machine

/-! ### Configuration (R385, R386) -/

/-- The levels below an output: groups, subgroups, queues. -/
inductive SwtLevel where
  | group | sub | queue
  deriving DecidableEq, Repr

/-- The offset of word `w` of a node. -/
def nodeOff (l : SwtLevel) (n w : Nat) : Nat :=
  swtBase + (match l with
    | .group => 0x4000
    | .sub => 0x20000
    | .queue => 0x80000) + 0x10 * n + 4 * w

def State.nodeWord (s : State) (l : SwtLevel) (n w : Nat) : Word := s.reg (nodeOff l n w)

/-- PARENT. -/
def State.nodeParent (s : State) (l : SwtLevel) (n : Nat) : Nat := bits (s.nodeWord l n 0) 14 0

/-- EN. -/
def State.nodeEn (s : State) (l : SwtLevel) (n : Nat) : Bool := bitAt (s.nodeWord l n 0) 31

/-- The subgroup and the group above a queue, and its root output (R374). -/
def State.pathOf (s : State) (q : Nat) : Nat × Nat × Nat :=
  let sub := s.nodeParent .queue q % 8192
  let grp := s.nodeParent .sub sub % 1024
  (grp, sub, s.nodeParent .group grp)

def State.rootOf (s : State) (q : Nat) : Nat := (s.pathOf q).2.2

/-- R374: an output that is active. -/
def State.outActive (s : State) (o : Nat) : Bool :=
  if o < 16 then s.portActive o else if o < 18 then true else decide (o < 22) && s.variant.hasRing

/-- SWT_OUTo_CFG. -/
def State.outMtu (s : State) (o : Nat) : Nat := s.fld (swtBase + 0x100 + 8 * o) 13 0
def State.outQbase (s : State) (o : Nat) : Nat := s.fld (swtBase + 0x100 + 8 * o) 30 16

def State.swtOut (s : State) (o : Nat) : SwtOut := sget SwtOut.reset s.swt.outs o

def State.setSwtOut (s : State) (o : Nat) (v : SwtOut) : State :=
  s.swtSet { s.swt with outs := sput SwtOut.reset s.swt.outs o v }

def State.squeue (s : State) (q : Nat) : SwtQueue := sget SwtQueue.empty s.swt.queues q

def State.setSqueue (s : State) (q : Nat) (v : SwtQueue) : State :=
  s.swtSet { s.swt with queues := sput SwtQueue.empty s.swt.queues q v }

/-- R388: a queue's snapshot counts: 0 enqueued, 2 sent, 4 dropped, each followed by its bytes. -/
def countQueue (s : State) (q kind len : Nat) : State :=
  let c := smod 0 (smod 0 s.swt.qcounts (8 * q + kind) (· + 1)) (8 * q + kind + 1) (· + len)
  s.swtSet { s.swt with qcounts := c }

/-! ### Releases and their chains (R342, R359) -/

/-- R177: the fields of an output. -/
def outDest (o : BitVec 64) : Nat := o.toNat % 2 ^ 16
def outDtype (o : BitVec 64) : Nat := o.toNat / 2 ^ 16 % 8
def outTrunc (o : BitVec 64) : Nat := if o.getLsbD 19 then o.toNat / 2 ^ 20 % 2 ^ 14 else 0

/-- R359: the length of a copy. -/
def copyLen (o : BitVec 64) (len : Nat) : Nat := if outTrunc o = 0 then len else min (outTrunc o) len

/-- R342, R359: the chain returns when the last copy is done. -/
def endRelease (s : State) (n : Nat) : State :=
  match sfind s.swt.rels n with
  | some x =>
    if x.todo.isEmpty ∧ x.live = 0 then
      freePacket (s.swtSet { s.swt with rels := sdel s.swt.rels n }) x.r.handle.toNat
    else s
  | none => s

/-- A copy has been sent, delivered or dropped. -/
def copyDone (s : State) (n : Nat) : State :=
  match sfind s.swt.rels n with
  | some x => endRelease (s.swtSet { s.swt with rels := sins s.swt.rels n { x with live := x.live - 1 } }) n
  | none => s

/-- R382: a copy on a queue, or off its head, is dropped. -/
def dropCopy (s : State) (c : SwtCopy) (reason : Nat) : State :=
  copyDone (countQueue (swtDrop s reason) c.queue 4 c.len) c.rel

/-- R378: the age in FTU at which a head frame trumps its queue. -/
def State.trumpAge (s : State) : Nat := usFtu (10 * s.fld swtBase 7 0)

/-- R378: the first of these frames has reached TRUMP_AGE. -/
def State.headAged (s : State) : List SwtCopy → Bool
  | [] => false
  | c :: _ => decide (s.trumpAge ≤ s.elapsed c.since)

/-- Take the head of a queue off (R369); the queue stays trumped while the next head has reached TRUMP_AGE too (R378). -/
def popQueue (s : State) (q : Nat) : State :=
  let v := s.squeue q
  match v.frames with
  | [] => s
  | c :: r => s.setSqueue q { v with frames := r, depth := v.depth - c.len, trumped := v.trumped && s.headAged r }

/-- R378: queues that are no longer eligible are no longer trumped. -/
def untrump (s : State) (f : Nat → Bool) : State :=
  s.swt.queues.foldl (fun st e => if e.2.trumped && f e.1 then st.setSqueue e.1 { st.squeue e.1 with trumped := false } else st) s

/-- R375, R381, R384: every frame of a queue is dropped. -/
def flushQueue (s : State) (q reason : Nat) : State :=
  let v := s.squeue q
  v.frames.foldl (fun st c => dropCopy st c reason) (s.setSqueue q { v with frames := [], depth := 0, trumped := false })

/-- The queues that are not empty and whose root is output `o`. -/
def State.busyQueues (s : State) (o : Nat) : List Nat :=
  s.swt.queues.filterMap fun e => if !e.2.frames.isEmpty && s.rootOf e.1 == o then some e.1 else none

/-- R381: all the port's queues are flushed. -/
def flushOutput (s : State) (o reason : Nat) : State := (s.busyQueues o).foldl (fun st q => flushQueue st q reason) s

/-! ### FROZEN (R383) -/

/-- The buffers of a packet lie, in part, in a frozen stack. -/
def State.packetFrozen (s : State) (h : Nat) : Bool :=
  (s.chainOf h).any fun b => (s.pool (poolOf b)).hbm && s.hbmPoisoned (s.bufOffset b 0) (s.pool (poolOf b)).size

/-- R383: a copy that goes no further in FROZEN. -/
def State.frozenCopy (s : State) (c : SwtCopy) : Bool :=
  s.dev == .frozen && (outDtype c.out == 2 || (match sfind s.swt.rels c.rel with
    | some x => s.packetFrozen x.r.handle.toNat
    | none => false))

/-- R383: such copies are dropped as they reach the head of a queue. -/
def trimHead (s : State) (q : Nat) : State := go (s.squeue q).frames.length s
where
  /-- At most as many as the queue holds. -/
  go : Nat → State → State
    | 0, s => s
    | n + 1, s =>
      match (s.squeue q).frames with
      | [] => s
      | c :: _ => if s.frozenCopy c then go n (dropCopy (popQueue s q) c 0xB) else s

/-- R383: the device enters FROZEN: every XOFF is released, and host copies are dropped. -/
def swtFreeze (s : State) : State :=
  let s1 := s.swtSet { s.swt with xoff := [] }
  let s2 := s1.swt.outs.foldl (fun st o =>
    match (st.swtOut o.1).tx with
    | some c => if outDtype c.out = 2 then dropCopy (st.setSwtOut o.1 { st.swtOut o.1 with tx := none }) c 0xB else st
    | none => st) s1
  (s2.swt.queues.map (·.1)).foldl trimHead s2

/-! ### Random early drop (R367–R373) -/

/-- The drop profile of a queue. -/
def State.redOff (s : State) (q : Nat) : Nat := swtBase + 0x400 + 0x20 * bits (s.nodeWord .queue q 3) 29 24

/-- R370: AVG in 1/256 KiB before and after an attempt at depth `depth` bytes. -/
def avgAfter (avg depth wq : Nat) : Nat :=
  let q := depth / 4
  let a := if depth = 0 then 0 else avg
  ((a : Int) + ((q : Int) - (a : Int)).fdiv (2 ^ wq : Nat)).toNat

/-- R371: the next value of the random source. -/
def lfsrStep (v : BitVec 32) : BitVec 32 :=
  let b := v.getLsbD 31 ^^ v.getLsbD 21 ^^ v.getLsbD 1 ^^ v.getLsbD 0
  (v <<< 1) ||| BitVec.ofNat 32 (b2n b)

/-- R371: the drop decision for colour `c` at average `a` KiB. -/
def redDrop (s : State) (off a c : Nat) : State × Bool :=
  let w := s.reg (off + 4 + 8 * c)
  let lo := bits w 19 0
  let hi := s.fld (off + 8 + 8 * c) 19 0
  if a < lo then (s, false)
  else if hi ≤ a then (s, true)
  else
    let p := bits w 27 20 * (a - lo) / (hi - lo)
    let v := lfsrStep s.swt.lfsr
    (s.swtSet { s.swt with lfsr := v }, decide (v.toNat % 256 < p))

/-- The first IPv4 or IPv6 entry of a header stack: its type and offset. -/
def ipEntry : List (BitVec 16) → Option (Nat × Nat)
  | [] => none
  | e :: es =>
    let t := e.toNat / 1024
    if t = htIpv4 ∨ t = htIpv6 then some (t, e.toNat % 1024) else ipEntry es

/-- R373: the copy's header shows ECN 0b01 or 0b10. -/
def State.ecnCapable (s : State) (h len : Nat) : Bool :=
  match ipEntry (s.pkt h).stack with
  | none => false
  | some (t, o) =>
    let b := ((s.packetBytes h len).getD (o + 1) 0).toNat
    let ecn := if t = htIpv4 then b % 4 else b / 16 % 4
    ecn == 1 || ecn == 2

/-- R373: a frame with ECN 0b11 written. -/
def markCe (stack : List (BitVec 16)) (bs : List Byte) : List Byte :=
  match ipEntry stack with
  | none => bs
  | some (t, o) =>
    let b := (bs.getD (o + 1) 0).toNat
    let e : Edited := { bytes := bs, stack := [], base := 0 }
    if bs.length ≤ o + 1 then bs
    else if t = htIpv4 then (csumFix e (e.put (o + 1) [BitVec.ofNat 8 (b / 4 * 4 + 3)]) o).bytes.take bs.length
    else (e.put (o + 1) [BitVec.ofNat 8 (b / 64 * 64 + 48 + b % 16)]).bytes

/-- The bytes of a copy as they are sent. -/
def State.copyBytes (s : State) (c : SwtCopy) : List Byte :=
  match sfind s.swt.rels c.rel with
  | none => []
  | some x =>
    let h := x.r.handle.toNat
    let bs := s.packetBytes h x.r.len
    (if c.ce then markCe (s.pkt h).stack bs else bs).take c.len

/-! ### Enqueue (R358–R360) -/

/-- R358: the queue of an output, the output whose state and MTU it meets, and the ring route it takes. -/
def State.queueFor (s : State) (o : BitVec 64) (klass : Nat) : Option (Nat × Nat × (Bool × Bool × Bool)) :=
  let none3 := (false, false, false)
  match outDtype o with
  | 0 => some (s.outQbase (outDest o) + klass, outDest o, none3)
  | 1 =>
    let route := s.routeFor (outDest o) klass
    let h : RHdr :=
      { dest := outDest o, src := 0, ts := 0, key := 0, cls := klass, sport := 0, hops := 0, order := route.1,
        xdir := route.2.1, ydir := route.2.2, vc := false, rev := false, kind := 0 }
    let p := (s.nextHop h 4).1
    some (s.outQbase (18 + p) + klass, 18 + p, route)
  | 2 =>
    let w := s.reg (swtBase + 0x40000 + 4 * (outDest o / 2))
    let e := if outDest o % 2 = 0 then bits w 15 0 else bits w 31 16
    if e < 32768 then none else some (e % 32768, s.rootOf (e % 32768), none3)
  | _ => some (outDest o % 32768, s.rootOf (outDest o % 32768), none3)

/-- R360: a copy that has no queue, or fails its check, is dropped before it is queued. -/
def refuseCopy (s : State) (q : Option Nat) (len reason : Nat) : State :=
  match q with
  | none => swtDrop s reason
  | some q => countQueue (swtDrop s reason) q 4 len

/-- R360: one copy of release `n`. -/
def enqueueCopy (s : State) (n : Nat) (x : RelState) (o : BitVec 64) : State :=
  let len := copyLen o x.r.len
  match s.queueFor o x.r.klass.toNat with
  | none => refuseCopy s none len 3
  | some (q, out, route) =>
    if !s.outActive out ∨ !s.nodeEn .queue q then refuseCopy s (some q) len 3
    else if s.outMtu out < len then refuseCopy s (some q) len 9
    else
      let v := s.squeue q
      let off := s.redOff q
      let ctl := s.reg off
      let avg := avgAfter v.avg v.depth (bits ctl 27 24)
      let s1 := s.setSqueue q { v with avg := avg }
      if out < 16 ∧ (s1.swtOut out).st = .down then refuseCopy s1 (some q) len 7
      else if bits ctl 19 0 * 1024 < v.depth + len then refuseCopy s1 (some q) len 5
      else
        let (s2, drop) := redDrop s1 off (avg / 256) x.r.colour.toNat
        let ce := drop && bitAt ctl 30 && s2.ecnCapable x.r.handle.toNat x.r.len
        if drop && !ce then refuseCopy s2 (some q) len 4
        else
          let c : SwtCopy :=
            { rel := n, out := o, len := len, since := s.now, ce := ce, bad := false, route := route, queue := q }
          let v2 := s2.squeue q
          let s3 := s2.setSqueue q { v2 with frames := v2.frames ++ [c], depth := v2.depth + len }
          let s4 := match sfind s3.swt.rels n with
            | some y => s3.swtSet { s3.swt with rels := sins s3.swt.rels n { y with live := y.live + 1 } }
            | none => s3
          let s5 := countQueue (s4.count (swtBase + 0xC00)) q 0 len
          trimHead (if ce then s5.count (swtBase + 0xC0C) else s5) q

/-! ### Port hold (R381, R384) -/

/-- The frame in transmission is lost. -/
def loseTx (s : State) (o : Nat) : State :=
  match (s.swtOut o).tx with
  | some c => dropCopy (s.setSwtOut o { s.swtOut o with tx := none }) c 7
  | none => s

/-- R381: the output's queues are flushed and it is DOWN. -/
def swtGoDown (s : State) (o : Nat) : State :=
  (flushOutput (s.setSwtOut o { s.swtOut o with st := .down }) o 7)

/-- R381, R384: link down is reported, with HOLD as configured or as 0. -/
def swtLinkDown (s : State) (o : Nat) (atOnce : Bool) : State :=
  if (s.swtOut o).st ≠ .up then (if atOnce ∧ (s.swtOut o).st = .hold then swtGoDown s o else s)
  else
    let s1 := loseTx s o
    if atOnce ∨ s.fld (swtBase + 0x104 + 8 * o) 9 0 = 0 then swtGoDown s1 o
    else untrump (s1.setSwtOut o { s1.swtOut o with st := .hold, holdSince := s.now }) fun q => s1.rootOf q == o

/-- R381: link up is reported. -/
def swtLinkUp (s : State) (o : Nat) : State := s.setSwtOut o { s.swtOut o with st := .up }

end Sys2Proof.Machine
end

