-- ==== Sys2Proof/Machine/Tim.lean ====
section
/-! DEFINITION. The timebase (R53–R69): the time-sync exchange, the master election and the state table of R63, TAI and PPS_OUT. -/

namespace Sys2Proof.Machine

open Host

def State.setTim (s : State) (t : Tim) : State := { s with tim := t }

/-- TIM_CTRL.ROLE: 0 FOLLOW, 1 ELECT, 2 FREE (R68). -/
def State.role (s : State) : Nat := s.fld timBase 1 0

/-- This node's candidate tuple (R59): MASTER_PRIO and NODE_ID. -/
def State.ownTuple (s : State) : Nat × Nat := (s.fld timBase 15 8, s.fld (ringBase + 4) 13 0)

/-- R59: the order of tuples, priority first. -/
def tupleBelow (a b : Nat × Nat) : Bool := a.1 < b.1 || (a.1 == b.1 && a.2 < b.2)

/-- R59: this node may become master: ROLE ELECT and a priority below 255. -/
def State.mayLead (s : State) : Bool := s.role == 1 && s.ownTuple.1 < 255

/-- R64: a follower. -/
def State.follower (s : State) : Bool :=
  match s.tim.st with
  | .acquire | .locked | .holdover => true
  | _ => false

/-- R62: packet admission is open. -/
def State.gateOpen (s : State) : Bool :=
  !(s.role < 2 && (s.tim.st == .unsync || s.tim.st == .acquire))

/-- R61, R68: IN_SPEC. -/
def State.inSpec (s : State) : Bool :=
  s.tim.st == .master || (match s.tim.offset with
    | some o => s.follower && -256 ≤ o && o ≤ 256
    | none => false)

/-! ### Rates (R54, R60, R69) -/

/-- The nominal TIM_INCR (R53). -/
def nominalIncr : Nat := 0x6666666666

/-- The slew limit in ppm (R54, R69). -/
def State.slewMax (s : State) : Nat := s.expert timBase (timBase + 0x40) 31 16 200

/-- R60, R65: the servo sets a new rate.  The manual gives its gains and its limit and no control law, so the increment is a free
value within the limit. -/
def slewRate (s : State) : State :=
  let (v, s1) := s.takeFree
  let lim := nominalIncr * s.slewMax / 1000000
  s1.setTim { s1.tim with incr := BitVec.ofNat 64 (nominalIncr - lim + v % (2 * lim + 1)) }

/-! ### TAI (R64, R66, R67) -/

/-- FTU in a second. -/
def ftuPerSecond : Nat := 16000000000

/-- TAI time of a fabric time, in FTU (R64). -/
def State.taiOf (s : State) (t : Nat) : Nat := (t + s.tim.taiOffset.toNat) % 2 ^ 96

/-- PPS_OUT next signals the whole second that follows. -/
def armPps (s : State) : State := s.setTim { s.tim with ppsNext := s.taiOf s.nowN / ftuPerSecond + 1 }

/-- R66: TAI_OFFSET changes and its generation rises. -/
def setTai (s : State) (v : BitVec 96) : State :=
  armPps (s.setTim { s.tim with taiOffset := v, taiGen := s.tim.taiGen + 1 })

/-- R67: PPS_OUT may be raised. -/
def State.ppsEnabled (s : State) : Bool :=
  bitAt (s.reg timBase) 16 && !(s.tim.st == .unsync || s.tim.st == .acquire)

/-- R67, R68: the level of PPS_OUT. -/
def State.ppsOut (s : State) : Bool :=
  match s.tim.ppsRise with
  | some t => s.ppsEnabled && s.elapsed t < usFtu (s.fld (timBase + 0x30) 15 0)
  | none => false

/-- R67: fabric time + TAI_OFFSET crosses a whole second. -/
def execPpsOutEdge (s : State) : Outcome State Fault Refusal :=
  let sec := s.taiOf s.nowN / ftuPerSecond
  if s.ppsEnabled ∧ s.tim.ppsNext ≤ sec then
    let e : Time := BitVec.ofNat 64 (sec * ftuPerSecond) - s.tim.taiOffset.setWidth 64
    .next { s with tim := { s.tim with ppsNext := sec + 1, ppsRise := some e }, sent := .pps e :: s.sent }
  else .next s

/-! ### The state table (R63) -/

/-- Enter a synchronisation state. -/
def enterSync (s : State) (st : SyncState) : State := armPps (s.setTim { s.tim with st := st, since := s.now })

/-- LOCKED: note since when the own tuple has been the lower one (R63). -/
def noteLower (s : State) : State :=
  let below := s.tim.st == .locked && s.mayLead && (match s.tim.master with
    | some m => tupleBelow s.ownTuple m
    | none => false)
  s.setTim { s.tim with lower := if below then (s.tim.lower.orElse fun _ => some s.now) else none }

/-- This node leads (R63). -/
def becomeMaster (s : State) : State :=
  let s1 := enterSync s .master
  ptpCheck (noteLower (s1.setTim { s1.tim with parent := none, hops := 0, master := some s1.ownTuple, offset := none }))

def State.syncPort (s : State) (p : Nat) : SyncPort := s.tim.ports.getD p SyncPort.reset

def setSyncPort (s : State) (p : Nat) (v : SyncPort) : State := s.setTim { s.tim with ports := lset s.tim.ports p v }

/-- R63: the announcement names a master: its sender follows one or is one (DEDUCED from its SYNC field). -/
def Announce.names (a : Announce) : Bool := 1 ≤ a.sync && a.sync ≤ 4

def Announce.tuple (a : Announce) : Nat × Nat := (a.masterPrio, a.master)

/-- The announcement of port `p`, when it is at most 10 µs old and names master `m`. -/
def State.reports (s : State) (m : Nat × Nat) (p : Nat) : Option Announce :=
  match (s.syncPort p).heard with
  | some a => if a.names && a.tuple == m && s.elapsed (s.syncPort p).heardAt ≤ usFtu 10 then some a else none
  | none => none

/-- R60: the parent for master `m`: fewest hops, then port order. -/
def State.bestParent (s : State) (m : Nat × Nat) : Option (Nat × Nat) :=
  (List.range 4).foldl (fun best p =>
    match s.reports m p with
    | none => best
    | some a => match best with
      | none => some (p, a.hops)
      | some b => if a.hops < b.2 then some (p, a.hops) else best) none

/-- R60, R63: follow master `m` in state `st` through the best parent. -/
def followMaster (s : State) (m : Nat × Nat) (st : SyncState) : State :=
  match s.bestParent m with
  | none => s
  | some (p, h) =>
    let s1 := if s.tim.st = st then s else enterSync s st
    noteLower (s1.setTim { s1.tim with
      master := some m, hops := h + 1, fromMaster := false,
      parentAt := if s1.tim.parent = some p ∧ s.tim.st = st then s1.tim.parentAt else s1.now
      parent := some p, offset := (s1.syncPort p).offset })

/-- R54, R63: in ACQUIRE the counter steps by an offset in 1/16 FTU.  The exchanges in progress on the other ports begin again. -/
def stepCounter (s : State) (o : Int) : State :=
  let count := BitVec.ofInt 96 ((s.tim.count.toNat : Int) + o * 2 ^ 28)
  let clear := fun (x : SyncPort) => { x with sentAt := none, rx := none, offset := none }
  let s1 := s.setTim { s.tim with count := count, ports := s.tim.ports.map clear, stepDue := false, good := 0 }
  armPps (s1.setTim { s1.tim with since := s1.now, parentAt := s1.now })

/-- R63: a sync word naming a master reaches a node in UNSYNC. -/
def acquire (s : State) (p : Nat) (m : Nat × Nat) : State :=
  let s1 := followMaster s m .acquire
  let s2 := s1.setTim { s1.tim with good := 0, stepDue := true }
  match (s.syncPort p).offset with
  | some o => stepCounter s2 o
  | none => s2

/-- R63, R547: TIME_CONFLICT with the master heard and the difference in FTU. -/
def timeConflict (s : State) (node : Nat) (o : Int) : State :=
  (s.count (timBase + 0x34)).logEvent 0x10 1 (evAt 0 node ||| evAt 8 (BitVec.ofInt 64 (o.fdiv 16)).toNat)

/-- 1 µs in 1/16 FTU. -/
def withinMicro (o : Int) : Bool := -256000 ≤ o && o ≤ 256000

/-- R63: an announcement of master `m` reaches a node in LOCKED, HOLDOVER or MASTER on port `p`. -/
def hearMaster (s : State) (p : Nat) (m : Nat × Nat) : State :=
  if m.2 = s.ownTuple.2 then s
  else
    let o := (s.syncPort p).offset
    let cur := if s.tim.st = .master then s.ownTuple else s.tim.master.getD (256, 0)
    match o with
    | some d =>
      if !withinMicro d then timeConflict s m.2 d
      else if tupleBelow m cur ∨ (s.tim.st = .holdover ∧ s.tim.fromMaster) ∨ (s.tim.st ≠ .master ∧ m = cur) then
        followMaster s m .locked
      else s
    | none => if s.tim.st ≠ .master ∧ m = cur then followMaster s m .locked else s

/-- The byte `i` of a control word's bytes 1–17. -/
def wordByte (w : BitVec 136) (i : Nat) : Nat := (w.toNat / 2 ^ (8 * (17 - i))) % 256

/-- Bytes `i` to `i + n - 1` of a control word, most significant first (R394). -/
def wordBytes (w : BitVec 136) (i n : Nat) : Nat := (w.toNat / 2 ^ (8 * (18 - i - n))) % 2 ^ (8 * n)

/-- R394: a SYNC_A word. -/
def parseSyncA (w : BitVec 136) : Announce :=
  { prio := wordByte w 1, node := wordBytes w 2 2 % 2 ^ 14, masterPrio := wordByte w 4, master := wordBytes w 5 2 % 2 ^ 14,
    hops := wordByte w 7, gen := wordBytes w 10 2, sync := wordByte w 12 }

/-- R63: what a SYNC_A word does to the timebase. -/
def hearSyncA (s : State) (p : Nat) (w : BitVec 136) : State :=
  let a := parseSyncA w
  if s.tim.st = .free then s
  else
    let s1 := setSyncPort s p { s.syncPort p with heard := some a, heardAt := s.now }
    let s2 := if s1.tim.parent = some p then s1.setTim { s1.tim with parentAt := s1.now } else s1
    match s2.tim.st with
    | .unsync =>
      if a.names then acquire s2 p a.tuple
      else if tupleBelow (a.prio, a.node) s2.ownTuple then s2.setTim { s2.tim with quiet := s2.now } else s2
    | .acquire => if a.names ∧ s2.tim.master = some a.tuple then followMaster s2 a.tuple .acquire else s2
    | _ => noteLower (if a.names then hearMaster s2 p a.tuple else s2)

/-! ### The exchange (R60, R394) -/

/-- The timestamp point of SYNC words received on port `p`, and of words sent (R57). -/
def pointSyncRx (p : Nat) : Nat := 34 + p
def pointSyncTx (p : Nat) : Nat := 38 + p

/-- TIM_ASYM of a port in 1/16 FTU (R68). -/
def State.asym (s : State) (p : Nat) : Int := signedOf 16 (s.fld (timBase + 0x20 + 4 * p) 15 0)

/-- R60: the offset and delay that a SYNC_T completes, in 1/16 FTU: `t1` and `t4` from the word, `t2` the arrival of the word whose
departure `t1` is, `t3` this node's last departure. -/
def exchange (t1 t2 t3 t4 : Nat) : Int × Int :=
  let a : Int := (t1 : Int) - t2
  let b : Int := (t4 : Int) - t3
  (8 * (a + b), 8 * (b - a))

/-- R60–R63: a SYNC_T word gives delay and offset, and steers a follower. -/
def hearSyncT (s : State) (p : Nat) (w : BitVec 136) : State :=
  if s.tim.st = .free then s
  else
    let (at_, s1) := s.stamp (pointSyncRx p) s.now
    let x := s1.syncPort p
    let seq := BitVec.ofNat 8 (wordByte w 1)
    let t1 := wordBytes w 2 8
    let t4 := wordBytes w 10 8
    let s2 := setSyncPort s1 p { x with rx := some (seq, at_) }
    let s3 := if s2.tim.parent = some p then s2.setTim { s2.tim with parentAt := s2.now } else s2
    match x.rx, x.sentAt with
    | some (seq', t2), some t3 =>
      if seq ≠ seq' + 1 then s3
      else
        let (o, d) := exchange t1 t2.toNat t3.toNat t4
        let o := o + s3.asym p
        let s4 := setSyncPort s3 p { s3.syncPort p with offset := some o, delay := d }
        if s4.tim.parent ≠ some p then s4
        else
          let near := -256 ≤ o && o ≤ 256
          match s4.tim.st with
          | .acquire =>
            if s4.tim.stepDue then stepCounter s4 o
            else slewRate (s4.setTim { s4.tim with offset := some o, good := if near then s4.tim.good + 1 else 0 })
          | .locked => slewRate (s4.setTim { s4.tim with offset := some o })
          | _ => s4.setTim { s4.tim with offset := some o }
    | _, _ => s3

/-- R64: a follower copies TAI_OFFSET and TIM_TAI_GEN from its parent's SYNC_TAI. -/
def hearSyncTai (s : State) (p : Nat) (w : BitVec 136) : State :=
  if s.tim.parent = some p ∧ (s.tim.st = .acquire ∨ s.tim.st = .locked) then
    armPps (s.setTim { s.tim with taiGen := BitVec.ofNat 16 (wordBytes w 1 2), taiOffset := BitVec.ofNat 96 (wordBytes w 3 12) })
  else s

/-! ### Timers of R63 -/

/-- R63: the 16th consecutive offset within ±16 FTU. -/
def execAcquireLock (s : State) : Outcome State Fault Refusal :=
  .next (if s.tim.st = .acquire ∧ 16 ≤ s.tim.good then noteLower (enterSync s .locked) else s)

/-- R63: no sync word from the parent for 10 µs in ACQUIRE. -/
def execAcquireTimeout (s : State) : Outcome State Fault Refusal :=
  .next (if s.tim.st = .acquire ∧ usFtu 10 ≤ s.elapsed s.tim.parentAt then
      let s1 := enterSync s .unsync
      s1.setTim { s1.tim with parent := none, stepDue := false, good := 0, quiet := s1.now, offset := none }
    else s)

/-- R63: an ELECT node in UNSYNC that heard nothing lower for 1 ms leads. -/
def execElectTimeout (s : State) : Outcome State Fault Refusal :=
  .next (if s.tim.st = .unsync ∧ s.mayLead ∧ usFtu 1000 ≤ s.elapsed s.tim.quiet then becomeMaster s else s)

/-- R63: the parent is lost: another neighbour that reports the same master becomes the parent, or after 10 µs HOLDOVER. -/
def execParentLossTimeout (s : State) : Outcome State Fault Refusal :=
  if s.tim.st = .locked ∧ usFtu 10 ≤ s.elapsed s.tim.parentAt then
    let s1 := s.count (timBase + 0x36)
    match s1.tim.master.bind s1.bestParent with
    | some _ => .next (followMaster s1 (s1.tim.master.getD (0, 0)) .locked)
    | none =>
      let s2 := enterSync s1 .holdover
      .next (noteLower (s2.setTim { s2.tim with parent := none, fromMaster := false }))
  else .next s

/-- R63: a LOCKED node whose tuple has been the lower one for 1 ms leads. -/
def execMasterTakeover (s : State) : Outcome State Fault Refusal :=
  match s.tim.lower with
  | some t => .next (if s.tim.st = .locked ∧ s.mayLead ∧ usFtu 1000 ≤ s.elapsed t then becomeMaster s else s)
  | none => .next s

/-- The tuples heard since HOLDOVER began are all above this node's. -/
def State.lowestHeard (s : State) : Bool :=
  (List.range 4).all fun p => match (s.syncPort p).heard with
    | some a => (s.syncPort p).heardAt < s.tim.since || tupleBelow s.ownTuple (a.prio, a.node)
    | none => true

/-- R63: 1 ms in HOLDOVER. -/
def execHoldoverTimeout (s : State) : Outcome State Fault Refusal :=
  .next (if s.tim.st = .holdover ∧ s.mayLead ∧ s.lowestHeard ∧ usFtu 1000 ≤ s.elapsed s.tim.since then becomeMaster s else s)

/-- R63: ROLE has been written. -/
def roleChanged (s : State) (old : Nat) : State :=
  let s1 := noteLower (armPps s)
  if s1.tim.st = .master ∧ s1.role = 0 then
    let s2 := enterSync s1 .holdover
    s2.setTim { s2.tim with fromMaster := true }
  else if s1.tim.st = .master ∧ s1.role = 2 then enterSync s1 .free
  else if s1.tim.st = .unsync ∧ old ≠ s1.role then s1.setTim { s1.tim with quiet := s1.now }
  else s1

/-- R63: a profile has been applied. -/
def timProfile (s : State) (old : Nat) : State :=
  if s.tim.st = .unsync ∧ s.role = 2 then enterSync s .free
  else
    let s1 := roleChanged s old
    if s1.tim.st = .unsync then s1.setTim { s1.tim with quiet := s1.now } else s1

end Sys2Proof.Machine
end

