-- ==== Sys2Proof/Machine/Eth.lean ====
section
/-! DEFINITION. The Ethernet ports (R475–R493): link bring-up, receive and transmit, PTP timestamps, PFC. -/

namespace Sys2Proof.Machine

open Host

/-- The offset of a port's register (R491) and of its counter (R493). -/
def ethReg (p off : Nat) : Nat := ethBase + 0x100 + 0x40 * p + off
def ethCnt (p off : Nat) : Nat := ethBase + 0x800 + 0x80 * p + off

/-! ### ETH_Pp_CFG (R480, R490, R491) -/

def State.ethEn (s : State) (p : Nat) : Bool := bitAt (s.reg (ethReg p 0)) 31
def State.ethMedia (s : State) (p : Nat) : Nat := s.fld (ethReg p 0) 30 29
def State.ethAn (s : State) (p : Nat) : Bool := bitAt (s.reg (ethReg p 0)) 28
def State.ethLoop (s : State) (p : Nat) : Nat := s.fld (ethReg p 0) 27 26
def State.ethMaxFrame (s : State) (p : Nat) : Nat := s.fld (ethReg p 0) 13 0

/-- Lanes of the port at lane `p` (R475). -/
def State.ethLanes (s : State) (p : Nat) : Nat := 8 / 2 ^ laneMode s.eth.modeLo s.eth.modeHi p

/-- R484: TX_LAT and RX_LAT in FTU. -/
def State.ethLat (s : State) (p : Nat) : Nat × Nat :=
  match laneMode s.eth.modeLo s.eth.modeHi p with
  | 0 => (592, 1288)
  | 1 => (616, 1344)
  | 2 => (640, 1408)
  | _ => (680, 1536)

/-- ETH_TUNE (R492): DOWN_DEB and UP_DEB in µs, TRAIN_LIMIT in µs. -/
def State.downDeb (s : State) : Nat := s.expert ethBase (ethBase + 0x40) 31 24 10
def State.upDeb (s : State) : Nat := 10 * s.expert ethBase (ethBase + 0x40) 23 16 10
def State.trainLimit (s : State) : Nat := 100000 * s.expert ethBase (ethBase + 0x40) 15 8 30

/-- R479, R482, R490: the MAC can send frames. -/
def State.macReady (s : State) (p : Nat) : Bool :=
  let v := s.ethPort p
  s.portActive p && (if s.ethLoop p = 1 then s.ethEn p else v.st == .up && v.aligned.isSome && !v.rfault)

/-! ### The link (R480, R481) -/

/-- R480: the first stage. -/
def State.firstStage (s : State) (p : Nat) : EthState :=
  if s.ethMedia p = 2 then .align else if s.ethAn p then .an else .train

/-- Enter a stage. -/
def ethEnter (s : State) (p : Nat) (st : EthState) : State := s.setEthPort p { s.ethPort p with st := st, since := s.now, fault := none }

/-- R481: an enabled port of the active mode leaves DISABLED in RUN and SWAP; a MAC loopback reports its link UP (R490). -/
def ethStart (s : State) (p : Nat) : State :=
  if (s.ethPort p).st = .disabled ∧ s.ethEn p ∧ s.portActive p ∧ (s.dev = .run ∨ s.dev = .swap) then
    let s1 := ethEnter s p (s.firstStage p)
    if s1.ethLoop p = 1 then swtLinkUp s1 p else s1
  else s

/-- R481: the port is disabled; SWT hears link down when the link was up for it. -/
def ethStop (s : State) (p : Nat) (atOnce : Bool) : State := swtLinkDown (ethEnter s p .disabled) p atOnce

/-- R481: a write has changed ETH_Pp_CFG from `old`. -/
def ethCfgChanged (s : State) (p : Nat) (old : Word) : State :=
  let loop := s.ethLoop p != bits old 27 26
  let off := bitAt old 31 && !s.ethEn p
  ethStart (if loop || off then ethStop s p false else s) p

/-- Every port that can starts (R481): the device has entered RUN, or the mode has changed. -/
def ethStartAll (s : State) : State := (List.range 16).foldl ethStart s

/-- R481: auto-negotiation has finished. -/
def execAutoNegotiation (p : Fin 16) (able : Bool) (s : State) : Outcome State Fault Refusal :=
  .next (if (s.ethPort p).st ≠ .an then s
    else if able then ethEnter s p .train
    else (ethEnter s p .an).logEvent 0x72 1 (evAt 0 p))

/-- R481: every lane has trained. -/
def execTrainDone (p : Fin 16) (s : State) : Outcome State Fault Refusal :=
  .next (if (s.ethPort p).st = .train then ethEnter s p .align else s)

/-- R481: TRAIN_LIMIT elapses. -/
def execTrainLimitExpire (p : Fin 16) (s : State) : Outcome State Fault Refusal :=
  .next (if (s.ethPort p).st = .train ∧ usFtu s.trainLimit ≤ s.elapsed (s.ethPort p).since then
      (ethEnter s p (s.firstStage p)).logEvent 0x73 1 (evAt 0 p)
    else s)

/-- The later of two times. -/
def laterOf (a b : Time) : Time := if a < b then b else a

/-- R481: alignment and FEC lock held for UP_DEB; a FAR loopback keeps the link down for SWT (R490). -/
def execUpDebExpire (p : Fin 16) (s : State) : Outcome State Fault Refusal :=
  let v := s.ethPort p
  match v.aligned with
  | none => .next s
  | some t =>
    .next (if v.st = .align ∧ usFtu s.upDeb ≤ s.elapsed (laterOf t v.since) then
        let s1 := ethEnter s p .up
        let s2 := s1.setEthPort p { s1.ethPort p with fault := if v.lfault || v.rfault then some s.now else none }
        (if s.ethLoop p = 3 then s2 else swtLinkUp s2 p).logEvent 0x70 0 (evAt 0 p)
      else s)

/-- R481, R482: the receiver's condition changes. -/
def execEthLinkFault (p : Fin 16) (aligned local_ remote : Bool) (s : State) : Outcome State Fault Refusal :=
  let v := s.ethPort p
  if !s.portActive p then .next s
  else
    let bad := !aligned || local_ || remote
    .next (s.setEthPort p { v with
      aligned := if aligned then (v.aligned.orElse fun _ => some s.now) else none
      lfault := local_, rfault := remote
      fault := if v.st = .up ∧ bad then (v.fault.orElse fun _ => some s.now) else none })

/-- R481: a fault held for DOWN_DEB takes the port down; a MAC loopback stays UP for SWT (R490). -/
def execDownDebExpire (p : Fin 16) (s : State) : Outcome State Fault Refusal :=
  let v := s.ethPort p
  match v.fault with
  | none => .next s
  | some t =>
    .next (if v.st = .up ∧ usFtu s.downDeb ≤ s.elapsed t then
        let s1 := (ethEnter s p (s.firstStage p)).count (ethCnt p 0x3C)
        (if s.ethLoop p = 1 then s1 else swtLinkDown s1 p false).logEvent 0x71 1 (evAt 0 p)
      else s)

/-! ### PTP messages (R483) -/

/-- A PTP message in a frame: offset of its header, that of the IPv4 UDP checksum, and whether it rides on IPv6. -/
structure PtpAt where
  off : Nat
  csum : Option Nat
  v6 : Bool
  deriving DecidableEq, Repr

/-- Two bytes of a frame, big-endian. -/
def be16 (f : List Byte) (i : Nat) : Nat := (f.getD i 0).toNat * 256 + (f.getD (i + 1) 0).toNat

/-- The offset of the EtherType after at most `n` VLAN tags. -/
def skipTags (f : List Byte) : Nat → Nat → Nat
  | 0, o => o
  | n + 1, o => if be16 f o = 0x8100 ∨ be16 f o = 0x88A8 then skipTags f n (o + 4) else o

/-- R483: where a frame carries a PTP message. -/
def ptpPlace (f : List Byte) (l2 udp : Bool) : Option PtpAt :=
  let o := skipTags f 2 12
  let ip := o + 2
  if be16 f o = 0x88F7 then (if l2 then some { off := ip, csum := none, v6 := false } else none)
  else if !udp then none
  else if be16 f o = 0x0800 ∧ f.getD ip 0 = 0x45 ∧ f.getD (ip + 9) 0 = 17 ∧ be16 f (ip + 22) = 319 then
    some { off := ip + 28, csum := some (ip + 26), v6 := false }
  else if be16 f o = 0x86DD ∧ (f.getD ip 0).toNat / 16 = 6 ∧ f.getD (ip + 6) 0 = 17 ∧ be16 f (ip + 42) = 319 then
    some { off := ip + 48, csum := none, v6 := true }
  else none

/-- R483: the PTP event message that port `p` recognises in a frame. -/
def State.ptpEvent (s : State) (p : Nat) (f : List Byte) : Option PtpAt :=
  let c := s.reg (ethReg p 0x10)
  if !bitAt c 31 then none
  else match ptpPlace f (bitAt c 28) (bitAt c 29) with
    | none => none
    | some a =>
      if (f.getD (a.off + 1) 0).toNat % 16 = 2 ∧ (f.getD a.off 0).toNat % 16 ≤ 3 ∧ a.off + 34 ≤ f.length then some a else none

/-- Bytes put into a frame at an offset. -/
def overlay (f : List Byte) (i : Nat) (bs : List Byte) : List Byte :=
  (f.take i ++ bs ++ f.drop (i + bs.length)).take f.length

/-- R486: a one-step Sync with its departure time. -/
def State.oneStep (s : State) (a : PtpAt) (mdi : Time) (f : List Byte) : List Byte :=
  let tai := s.taiOf mdi.toNat
  let corr := beNat ((f.drop (a.off + 8)).take 8) + tai % 16 * 4096
  let f1 := overlay f (a.off + 34) (beBytes 6 (tai / ftuPerSecond) ++ beBytes 4 (tai % ftuPerSecond / 16))
  let f2 := overlay f1 (a.off + 8) (beBytes 8 corr)
  match a.csum with
  | some c => overlay f2 c [0, 0]
  | none => f2

/-- R485: an entry of the timestamp queue. -/
def recordTsq (s : State) (p : Nat) (a : PtpAt) (mdi : Time) (f : List Byte) : State :=
  let v := s.ethPort p
  if 64 ≤ v.tsq.length then (s.setEthPort p { v with tsqOvf := true }).count (ethCnt p 0x40)
  else
    let e := (mdi, (f.getD (a.off + 4) 0).toNat, (f.getD a.off 0).toNat % 16, be16 f (a.off + 30))
    s.setEthPort p { v with tsq := v.tsq ++ [e] }

/-- R484: the transmit MDI time of a frame that started at `start`. -/
def State.txMdi (s : State) (p : Nat) (start : Time) : Time :=
  start + BitVec.ofNat 64 (s.ethLat p).1 + BitVec.ofInt 64 (signedOf 8 (s.fld (ethReg p 0x10) 15 8))

/-- R483–R486: what the transmit MAC does about PTP: the frame as it goes out. -/
def ptpTransmit (s : State) (p : Nat) (start : Time) (f : List Byte) : State × List Byte :=
  match s.ptpEvent p f with
  | none => (s, f)
  | some a =>
    let (t, s1) := s.stamp (16 + p) start
    let mdi := s1.txMdi p t
    let sync := (f.getD a.off 0).toNat % 16 == 0 && bitAt (s1.reg (ethReg p 0x10)) 30
    if sync && !a.v6 then (s1, s1.oneStep a mdi f)
    else
      let s2 := recordTsq s1 p a mdi f
      (if sync then s2.count (ethCnt p 0x44) else s2, f)

/-- The record that a read of ETH_Pp_TSQ_INFO returns (R485). -/
def tsqWord (e : Time × Nat × Nat × Nat) : Word := at' 1 31 ||| at' (e.2.1 % 256) 20 ||| at' (e.2.2.1 % 16) 16 ||| at' (e.2.2.2 % 65536) 0

/-- R485: a read of ETH_Pp_TSQ_INFO. -/
def readTsq (s : State) (p : Nat) : State × Word :=
  let v := s.ethPort p
  match v.tsq with
  | [] => (s, 0)
  | e :: r => (s.setEthPort p { v with tsq := r, tsqTime := e.1 }, tsqWord e)

/-! ### PFC (R488, R489) -/

/-- R488: `n` quanta of a port in FTU. -/
def State.quantaFtu (s : State) (p n : Nat) : Nat := n * 8192 / (100 * s.ethLanes p)

/-- R489: priority `k` is paused by the peer. -/
def State.pausedBy (s : State) (p k : Nat) : Bool := s.now < sget 0 (s.ethPort p).paused k

/-- R379: a queue is paused by its port's peer. -/
def State.queuePaused (s : State) (q : Nat) : Bool :=
  let w := s.nodeWord .queue q 3
  let o := s.rootOf q
  bitAt w 19 && o < 16 && s.pausedBy o (bits w 18 16)

/-- R489: a received PFC frame. -/
def applyPfc (s : State) (p : Nat) (f : List Byte) : State :=
  let en := (f.getD 17 0).toNat
  let rx := s.fld (ethReg p 8) 7 0
  let s1 := (List.range 8).foldl (fun st k =>
    if en.testBit k && rx.testBit k then
      let q := be16 f (18 + 2 * k)
      let v := st.ethPort p
      let till := if q = 0 then 0 else st.now + BitVec.ofNat 64 (nsFtu 60 + st.quantaFtu p q)
      st.setEthPort p { v with paused := sput 0 v.paused k till }
    else st) s
  untrump s1 s1.queuePaused

/-- R355, R488: the priorities that SWT holds on a port. -/
def State.wantHeld (s : State) (p : Nat) : BitVec 8 :=
  BitVec.ofNat 8 (((List.range 8).filter fun k => s.xoff p k && bitAt (s.reg (limOff p k)) 31).foldl (fun a k => a + 2 ^ k) 0)

/-- R488: a PFC frame for the priorities of `which`; its source address, which the manual does not give, is a free value. -/
def sendPfc (s : State) (p : Nat) (which hold : BitVec 8) : State :=
  let (v, s1) := s.takeFree
  let q := s1.fld (ethReg p 8) 31 16
  let quanta := (List.range 8).flatMap fun k => beBytes 2 (if which.getLsbD k && hold.getLsbD k then q else 0)
  let f : List Byte := [0x01, 0x80, 0xC2, 0x00, 0x00, 0x01] ++ beBytes 6 v ++ [0x88, 0x08, 0x01, 0x01] ++
    beBytes 2 which.toNat ++ quanta ++ List.replicate 26 0
  let s2 := s1.setEthPort p { s1.ethPort p with held := hold, pfcAt := s1.now }
  let s3 := s2.count (ethCnt p 0x30)
  { s3 with sent := .eth p f false :: s3.sent }

/-- R488: after an XOFF or XON change, once no frame is in transmission. -/
def execPfcSend (p : Fin 16) (s : State) : Outcome State Fault Refusal :=
  let want := s.wantHeld p
  let which := want ^^^ (s.ethPort p).held
  .next (if s.macReady p ∧ (s.swtOut p).tx.isNone ∧ which ≠ 0 then sendPfc s p which want else s)

/-- R488: half of the XOFF_QUANTA time since the last frame. -/
def execPfcRefresh (p : Fin 16) (s : State) : Outcome State Fault Refusal :=
  let v := s.ethPort p
  let due := 2 * s.elapsed v.pfcAt ≥ s.quantaFtu p (s.fld (ethReg p 8) 31 16)
  .next (if s.macReady p ∧ (s.swtOut p).tx.isNone ∧ v.held ≠ 0 ∧ due then sendPfc s p v.held v.held else s)

/-- R489: a received pause time runs out. -/
def execPfcPauseExpire (p : Fin 16) (k : Fin 8) (s : State) : Outcome State Fault Refusal :=
  let v := s.ethPort p
  .next (if s.pausedBy p k then s else s.setEthPort p { v with paused := sput 0 v.paused k 0 })

/-! ### Receive (R57, R62, R65, R352, R478) -/

/-- R65: a Sync on the slave port steers the master; the residual, which the manual's slave does not fix, is a free value. -/
def ptpSync (s : State) : State :=
  let (v, s1) := (slewRate s).takeFree
  setTai s1 (s1.tim.taiOffset + BitVec.ofNat 96 v)

/-- R65: port `p` is the slave port and the frame is a Sync. -/
def State.slaveSync (s : State) (p : Nat) (f : List Byte) : Bool :=
  s.tim.st == .master && s.fld timBase 3 2 == 2 && s.fld timBase 7 4 == p &&
    (match s.ptpEvent p f with
     | some a => (f.getD a.off 0).toNat % 16 == 0
     | none => false)

/-- R352: the ingress priority of an Ethernet frame. -/
def State.ethPrio (s : State) (p : Nat) (f : List Byte) : Nat :=
  let c := s.reg (swtBase + 0x200 + 4 * p)
  let tagged := be16 f 12 == 0x8100 || be16 f 12 == 0x88A8
  if bitAt c 4 && tagged then (f.getD 14 0).toNat / 32 else bits c 2 0

/-- R533: a frame whose origin timestamp is T or later is held by the Stop Bath. -/
def State.heldFrom (s : State) (ots : Time) : Bool :=
  match s.mgt.swap with
  | some w => w.sw.time ≤ ots
  | none => false

/-- The pool that a kind of input uses (R349): TRY_ADMIT field at bit `lo`. -/
def State.admitPool (s : State) (lo : Nat) : Nat := s.fld (tryBase + 8) (lo + 2) lo

/-- R478: the counter of the first check that fails. -/
def State.ethReject (s : State) (p : Nat) (f : List Byte) (good : Bool) : Option Nat :=
  if s.dev = .frozen then some 0x08
  else if !s.gateOpen then some 0x0C
  else if !good then some 0x10
  else if f.length < 60 then some 0x14
  else if s.ethMaxFrame p < f.length then some 0x18
  else none

/-- R478: a frame that passed the checks goes to packet buffer SRAM and on to the Loupe. -/
def ethAdmit (s : State) (p : Nat) (f : List Byte) : State :=
  let (ts, s1) := s.stamp p s.now
  let s2 := if s1.slaveSync p f then ptpSync s1 else s1
  let k : Pkt := { Pkt.none with
    input := p, prio := s2.ethPrio p f, ots := ts, arrival := ts, node := BitVec.ofNat 14 s2.ownNode,
    sport := BitVec.ofNat 5 p, port := BitVec.ofNat 5 p, held := s2.heldFrom ts }
  match admitPacket s2 k (s2.admitPool 0) f with
  | (s3, some h) => offerLoupe s3 h
  | (s3, none) => s3

/-- R478, R489: the receive MAC after a frame's last byte. -/
def ethReceive (s : State) (p : Nat) (f : List Byte) (good : Bool) : State :=
  let s1 := (s.count (ethCnt p 0)).countN (ethCnt p 4) f.length
  match s1.ethReject p f (good && (s1.ethPort p).fault.isNone) with
  | some off => s1.count (ethCnt p off)
  | none =>
    if be16 f 12 ≠ 0x8808 then ethAdmit s1 p f
    else if be16 f 14 = 0x0101 then applyPfc (s1.count (ethCnt p 0x1C)) p f
    else s1.count (ethCnt p 0x20)

/-- R481, R490: the port hears its lanes; a near-end loop does not. -/
def State.hearsWire (s : State) (p : Nat) : Bool :=
  s.portActive p && (s.ethPort p).st == .up && (s.ethLoop p == 0 || s.ethLoop p == 3)

/-- R478: a frame from the wire; a FAR loopback also sends it back (R490). -/
def execEthRxFrame (p : Fin 16) (f : List Byte) (good : Bool) (s : State) : Outcome State Fault Refusal :=
  if !s.hearsWire p then .next s
  else
    let s1 := ethReceive s p f good
    .next (if s.ethLoop p = 3 then { s1 with sent := .eth p f (!good) :: s1.sent } else s1)

/-- R489: a PFC frame from the wire. -/
def execPfcRx (p : Fin 16) (f : List Byte) (s : State) : Outcome State Fault Refusal :=
  .next (if s.hearsWire p ∧ be16 f 12 = 0x8808 ∧ be16 f 14 = 0x0101 then ethReceive s p f true else s)

/-! ### Transmit (R479, R490, R512) -/

/-- R479: a frame that SWT sent leaves the MAC; its FCS is inverted when its buffer read failed.  A near-end loop turns it back. -/
def ethTransmit (s : State) (p : Nat) (start : Time) (f : List Byte) (bad : Bool) : State :=
  let padded := f ++ List.replicate (60 - f.length) 0
  let (s1, out) := ptpTransmit s p start padded
  let s2 := (s1.count (ethCnt p 0x24)).countN (ethCnt p 0x28) out.length
  let s3 := if bad then s2.count (ethCnt p 0x2C) else s2
  if s.ethLoop p = 1 ∨ s.ethLoop p = 2 then ethReceive s3 p out (!bad)
  else { s3 with sent := .eth p out bad :: s3.sent }

end Sys2Proof.Machine
end

