-- ==== Sys2Proof/Machine/Swt.lean ====
section
/-! DEFINITION. The traffic manager (R357–R384): enqueue, the four-level scheduler, dequeue, the end of transmission, Trump, hold. -/

namespace Sys2Proof.Machine

open Host

/-! ### Enqueue (R359, R360) -/

/-- The oldest release with copies left, and its number. -/
def State.oldestRelease (s : State) : Option (Nat × RelState) := s.swt.rels.find? fun e => !e.2.todo.isEmpty

/-- R359: up to four copies of the oldest release are checked and enqueued. -/
def execSwtEnqueue (s : State) : Outcome State Fault Refusal :=
  match s.oldestRelease with
  | none => .next s
  | some (n, x) =>
    let s1 := s.swtSet { s.swt with rels := sins s.swt.rels n { x with todo := x.todo.drop 4 } }
    .next (endRelease ((x.todo.take 4).foldl (fun st o => enqueueCopy st n x o) s1) n)

/-! ### Eligibility and rates (R376–R379) -/

/-- R376: a queue's output can be scheduled: an Ethernet output is in UP; ring and host outputs have no hold. -/
def State.outUp (s : State) (o : Nat) : Bool := s.outActive o && (16 ≤ o || (s.swtOut o).st == .up)

/-- R455: what the HQE does with a HOST copy at the head of its queue: the first row that applies. -/
inductive HostAct where
  | notActive | tooBig | noBuffer | wait
  /-- The copy fills so many posted buffers. -/
  | write (buffers : Nat)
  deriving DecidableEq, Repr

/-- The buffers that `n` bytes fill in turn; none when those posted do not suffice. -/
def buffersFor : Nat → List RxBuf → Option Nat
  | _, [] => none
  | n, b :: bs => if n ≤ b.len then some 1 else (buffersFor (n - b.len) bs).map (· + 1)

/-- R460: the ring is full by the last consumer index read. -/
def Cq.noRoom (c : Cq) : Bool := c.full || !c.waiting.isEmpty || decide (ringEntries c.sizeCode ≤ c.used)

/-- R455. -/
def State.hostAct (s : State) (c : SwtCopy) : HostAct :=
  let at_ := s.ringOwner (outDest c.out)
  match s.hring at_.1 at_.2 with
  | none => .notActive
  | some v =>
    if v.typ ≠ .rx ∨ v.fault ∨ v.dying.isSome ∨ (s.fn at_.1).flrBusy then .notActive
    else match buffersFor c.len v.posted with
      | none => if 8 ≤ v.posted.length then .tooBig else if v.nobuf then .noBuffer else .wait
      | some n =>
        if 8 < n then .tooBig
        else match s.hcq at_.1 v.cq with
          | none => .notActive
          | some q => if q.noRoom then .wait else .write n

/-- R455: the queue is paused while its head waits for buffers or for room in the completion ring. -/
def State.hostPaused (s : State) (q : Nat) : Bool :=
  match (s.squeue q).frames with
  | [] => false
  | c :: _ => outDtype c.out == 2 && s.hostAct c == .wait

/-- R376: an eligible queue. -/
def State.eligible (s : State) (q : Nat) : Bool :=
  !(s.squeue q).frames.isEmpty && s.nodeEn .queue q && !s.queuePaused q && !s.hostPaused q && s.outUp (s.rootOf q)

/-- R378: a queue is trumped. -/
def State.trumpedQueue (s : State) (q : Nat) : Bool := (s.squeue q).trumped && s.eligible q

/-- The place of a node in the scheduler's own state. -/
def levelKey : SwtLevel → Nat
  | .group => 1
  | .sub => 2
  | .queue => 3

def nodeKey (l : SwtLevel) (n : Nat) : Nat := 2 ^ 16 * levelKey l + n

def State.snode (s : State) (k : Nat) : SwtNode := sget SwtNode.fresh s.swt.nodes k

def State.setSnode (s : State) (k : Nat) (v : SwtNode) : State :=
  s.swtSet { s.swt with nodes := sput SwtNode.fresh s.swt.nodes k v }

/-- R377: tokens added by rate `r` (10 Mb/s) in `dt` FTU, in 1/1024 byte. -/
def tokensFor (r dt : Nat) : Int := (r * dt * 2 / 25 : Nat)

/-- R377: a node with its buckets brought up to now. -/
def State.withTokens (s : State) (l : SwtLevel) (n : Nat) : SwtNode :=
  let v := s.snode (nodeKey l n)
  let depth : Int := (bits (s.nodeWord l n 2) 31 24 * 2 ^ 20 : Nat)
  match v.since with
  | none => { v with minTok := depth, maxTok := depth, since := some s.now }
  | some t =>
    let dt := s.elapsed t
    { v with
      minTok := min depth (v.minTok + tokensFor (bits (s.nodeWord l n 1) 16 0) dt)
      maxTok := min depth (v.maxTok + tokensFor (bits (s.nodeWord l n 2) 16 0) dt)
      since := some s.now }

/-- R376, R377: a node at its MAX rate is no candidate. -/
def State.atMax (s : State) (l : SwtLevel) (n : Nat) : Bool :=
  bits (s.nodeWord l n 2) 16 0 != 0 && decide ((s.withTokens l n).maxTok ≤ 0)

/-- R376, R377: a node below its MIN rate. -/
def State.belowMin (s : State) (l : SwtLevel) (n : Nat) : Bool :=
  bits (s.nodeWord l n 1) 16 0 != 0 && decide (0 < (s.withTokens l n).minTok)

/-! ### Selection (R376) -/

/-- What a selection at and below a node reaches: the queue, the length of its head, whether a trumped queue lies below, the
scheduler state it leaves and the nodes whose deficit the frame is charged to. -/
structure SwtPick where
  queue : Nat
  len : Nat
  trumped : Bool
  nodes : List (Nat × SwtNode)
  charged : List Nat
  deriving DecidableEq, Repr

/-- A child of the node at which a selection is made. -/
structure SwtCand where
  id : Nat
  prio : Nat
  weight : Nat
  low : Bool
  deficit : Nat
  pick : SwtPick
  deriving DecidableEq, Repr

/-- Round robin: the first candidate after `last`, else the first. -/
def afterLast (last : Nat) (cs : List SwtCand) : Option SwtCand :=
  match cs.find? fun c => last < c.id with
  | some c => some c
  | none => cs.head?

/-- The candidates of the highest PRIO. -/
def topPrio (cs : List SwtCand) : List SwtCand :=
  let m := cs.foldl (fun a c => max a c.prio) 0
  cs.filter fun c => c.prio == m

/-- Deficit round robin: each visit adds a quantum; the first candidate whose deficit covers its head is served. -/
def drrLoop (unit : Nat) : Nat → List SwtCand → Option (SwtCand × List SwtCand)
  | 0, _ => none
  | _ + 1, [] => none
  | n + 1, c :: cs =>
    let c' := { c with deficit := c.deficit + c.weight * unit }
    if c.pick.len ≤ c'.deficit then some (c', c' :: cs) else drrLoop unit n (cs ++ [c'])

/-- R376, rule 3: the child served last goes on while its deficit lasts. -/
def drr (unit last : Nat) (cs : List SwtCand) : Option (SwtCand × List SwtCand) :=
  let turn := (cs.filter fun c => last ≤ c.id) ++ (cs.filter fun c => c.id < last)
  match turn with
  | [] => none
  | c :: r =>
    if c.id = last then
      (if c.pick.len ≤ c.deficit then some (c, [c]) else drrLoop unit (300 * turn.length) (r ++ [c]))
    else drrLoop unit (300 * turn.length) turn

/-- SWT_TUNE (R387). -/
def State.trumpShare (s : State) : Nat := s.expert swtBase (swtBase + 0x40) 3 0 2
def State.quantumUnit (s : State) : Nat := 2 ^ s.expert swtBase (swtBase + 0x40) 11 8 8

/-- R376: one selection at the node with key `parent` among its children of level `l`. -/
def State.select (s : State) (parent : Nat) (l : SwtLevel) (cs : List SwtCand) : Option SwtPick :=
  let v := s.snode parent
  let any := cs.any fun c => c.pick.trumped
  let untrumped := cs.any fun c => !c.pick.trumped
  let took := fun (c : SwtCand) (v : SwtNode) =>
    some { c.pick with trumped := any, nodes := c.pick.nodes ++ [(parent, v)] }
  if any ∧ (!untrumped ∨ s.trumpShare ≤ v.phase + 1) then
    (afterLast v.lastTrump (cs.filter fun c => c.pick.trumped)).bind fun c => took c { v with lastTrump := c.id, phase := 0 }
  else
    let v1 := { v with phase := if any then v.phase + 1 else v.phase }
    match afterLast v.lastMin (topPrio (cs.filter fun c => c.low)) with
    | some c => took c { v1 with lastMin := c.id }
    | none =>
      (drr s.quantumUnit v.lastAll (topPrio cs)).map fun r =>
        let deficits := r.2.map fun c => (nodeKey l c.id, { s.snode (nodeKey l c.id) with deficit := c.deficit })
        { r.1.pick with
          trumped := any
          nodes := deficits ++ r.1.pick.nodes ++ [(parent, { v1 with lastAll := r.1.id })]
          charged := nodeKey l r.1.id :: r.1.pick.charged }

/-- A child as a candidate, unless it is at its MAX rate. -/
def State.candOf (s : State) (l : SwtLevel) (n : Nat) (p : SwtPick) : Option SwtCand :=
  if s.atMax l n then none
  else
    let w := s.nodeWord l n 0
    some { id := n, prio := bits w 30 28, weight := bits w 27 20, low := s.belowMin l n,
           deficit := (s.snode (nodeKey l n)).deficit, pick := p }

/-- Numbers rising, each once. -/
def dedupSorted (l : List Nat) : List Nat := (l.foldl (fun m n => sins m n ()) ([] : SMap Unit)).map (·.1)

/-- The selection within a subgroup, among eligible queues. -/
def State.pickInSub (s : State) (qs : List Nat) (sub : Nat) : Option SwtPick :=
  s.select (nodeKey .sub sub) .queue ((qs.filter fun q => (s.pathOf q).2.1 == sub).filterMap fun q =>
    let v := s.squeue q
    match v.frames with
    | [] => none
    | c :: _ => s.candOf .queue q { queue := q, len := c.len, trumped := v.trumped, nodes := [], charged := [] })

/-- The selection within a group. -/
def State.pickInGroup (s : State) (qs : List Nat) (g : Nat) : Option SwtPick :=
  let subs := dedupSorted ((qs.filter fun q => (s.pathOf q).1 == g).map fun q => (s.pathOf q).2.1)
  s.select (nodeKey .group g) .sub (subs.filterMap fun x => (s.pickInSub qs x).bind fun p => s.candOf .sub x p)

/-- R376: the selection of an output, from the root down. -/
def State.pickQueue (s : State) (o : Nat) : Option SwtPick :=
  let qs := (s.busyQueues o).filter s.eligible
  s.select o .group ((dedupSorted (qs.map fun q => (s.pathOf q).1)).filterMap fun g =>
    (s.pickInGroup qs g).bind fun p => s.candOf .group g p)

/-- R377: a frame of `len` bytes passes through a node. -/
def chargeNode (len : Nat) (s : State) (l : SwtLevel) (n : Nat) : State :=
  let v := s.withTokens l n
  s.setSnode (nodeKey l n) { v with minTok := v.minTok - (len * 1024 : Nat), maxTok := v.maxTok - (len * 1024 : Nat) }

/-- A node without a waiting frame below it keeps no deficit. -/
def clearDeficit (s : State) (l : SwtLevel) (n : Nat) (idle : Bool) : State :=
  if idle then s.setSnode (nodeKey l n) { s.snode (nodeKey l n) with deficit := 0 } else s

/-- The frame of a selection is charged to its queue, subgroup and group. -/
def chargePath (s : State) (p : SwtPick) (len : Nat) : State :=
  let (g, sub, o) := s.pathOf p.queue
  let s1 := p.charged.foldl (fun st k => st.setSnode k { st.snode k with deficit := (st.snode k).deficit - len }) s
  let s2 := chargeNode len (chargeNode len (chargeNode len s1 .queue p.queue) .sub sub) .group g
  let left := s2.busyQueues o
  let s3 := clearDeficit s2 .queue p.queue (!left.contains p.queue)
  let s4 := clearDeficit s3 .sub sub (!left.any fun q => (s3.pathOf q).2.1 == sub)
  clearDeficit s4 .group g (!left.any fun q => (s4.pathOf q).1 == g)

/-! ### Dequeue (R376, R380, R383) -/

/-- R380: the head of a queue is too old. -/
def State.tooOld (s : State) (q : Nat) (c : SwtCopy) : Bool :=
  let a := bits (s.nodeWord .queue q 3) 15 0
  a != 0 && decide (usFtu (10 * a) < s.elapsed c.since)

/-- R380: heads that are too old are dropped; at most as many as the queue holds. -/
def dropAged (s : State) (q : Nat) : State := go (s.squeue q).frames.length s
where
  /-- The frames still to be looked at. -/
  go : Nat → State → State
    | 0, s => s
    | n + 1, s =>
      match (s.squeue q).frames with
      | [] => s
      | c :: _ => if s.tooOld q c then go n (trimHead (dropCopy (popQueue s q) c 6) q) else s

/-- Select until a frame is found that is not too old. -/
def takeNext (o : Nat) : Nat → State → State × Option SwtCopy
  | 0, s => (s, none)
  | n + 1, s =>
    match s.pickQueue o with
    | none => (s, none)
    | some p =>
      let s1 := dropAged (p.nodes.foldl (fun st e => st.setSnode e.1 e.2) s) p.queue
      match (s1.squeue p.queue).frames with
      | [] => takeNext o n s1
      | c :: _ => (chargePath (trimHead (popQueue s1 p.queue) p.queue) p c.len, some c)

/-- A copy has been sent or delivered (R359, R388). -/
def finishCopy (s : State) (o : Nat) (c : SwtCopy) : State :=
  copyDone (countQueue ((s.setSwtOut o { s.swtOut o with tx := none }).count (swtBase + 0xC04)) c.queue 2 c.len) c.rel

/-- R418: the ring frame of a copy. -/
def State.ringFrameOf (s : State) (c : SwtCopy) (p : Nat) (r : Release) : RFrame :=
  let h : RHdr :=
    { dest := outDest c.out % 2 ^ 14, src := r.node.toNat, ts := r.ots.toNat % 2 ^ 36, key := r.key.toNat, cls := r.klass.toNat,
      sport := r.sport.toNat, hops := 0, order := c.route.1, xdir := c.route.2.1, ydir := c.route.2.2, vc := false, rev := false,
      kind := 0 }
  let payload := s.copyBytes c
  { hdr := (s.nextHop h 4).2.bits, ots := r.ots, inp := 4, out := p, blocks := frameBlocks payload.length, inPool := 0,
    payload := payload, trailer := none, resent := false }

/-- R418: a copy is handed to RING; with the link DOWN, RING turns it round or discards it (R413, R416). -/
def offerRing (s : State) (o : Nat) (c : SwtCopy) (r : Release) : State :=
  let p := o - 18
  let f := s.ringFrameOf c p r
  let s1 := (s.setRing { s.ring with lastOrder := sput false s.ring.lastOrder (outDest c.out % 2 ^ 14) c.route.1 }).count (ringCnt p 0x08)
  match settleOut s1 f with
  | some (f, false) => (s1.setRport p { s1.rport p with offer := some f }).setSwtOut o { s1.swtOut o with tx := some c, start := s1.now }
  | some (g, true) =>
    let g := { g with trailer := some (if c.bad then s1.stompTrailer g.payload 6 else goodTrailer g.payload) }
    finishCopy ((s1.setRing { s1.ring with waits := s1.ring.waits ++ [g] }).count (ringCnt p 0x40)) o c
  | none => copyDone (unreachable s1 f 3) c.rel

/-- R376: the output can start a frame. -/
def State.canStart (s : State) (o : Nat) : Bool :=
  (s.swtOut o).tx.isNone && s.outUp o && (16 ≤ o || s.macReady o)

/-- R376, R380: an output that can start a frame selects one. -/
def execSwtDequeue (o : Fin 22) (s : State) : Outcome State Fault Refusal :=
  if !s.canStart o then .next s
  else
    match takeNext o (s.busyQueues o).length s with
    | (s1, none) => .next s1
    | (s1, some c) =>
      match sfind s1.swt.rels c.rel with
      | some x =>
        .next (if 18 ≤ o.val ∧ outDtype c.out ≠ 2 then offerRing s1 o c x.r
          else s1.setSwtOut o { s1.swtOut o with tx := some c, start := s1.now })
      | none => .next s1

/-! ### The end of a transmission (R359, R512) -/

/-- The output frame of port `p` is complete: its trailer is known, and the output is free (R403, R406). -/
def endSending (s : State) (p : Nat) (payload trailer : List Byte) : State :=
  let v := s.rport p
  match v.retry.getLast? with
  | none => s.setRport p { v with sending := none }
  | some e =>
    let f := { e.f with payload := payload, trailer := some trailer }
    let s1 := s.setRport p { v with sending := none, retry := v.retry.dropLast ++ [{ e with f := f }] }
    if v.link = .up then { s1 with sent := .ring p f.resent f.hdr payload trailer :: s1.sent } else s1

/-- R359: the frame of an Ethernet or ring output has left. -/
def execSwtTxDone (o : Fin 22) (s : State) : Outcome State Fault Refusal :=
  let v := s.swtOut o
  match v.tx with
  | none => .next s
  | some c =>
    if outDtype c.out = 2 then .next s
    else if o.val < 16 then
      let f := s.copyBytes c
      .next (ethTransmit (finishCopy s o c) o v.start f c.bad)
    else if 18 ≤ o.val ∧ (s.rport (o - 18)).sending = some .own then
      let f := s.copyBytes c
      .next (finishCopy (endSending s (o - 18) f (if c.bad then s.stompTrailer f 6 else goodTrailer f)) o c)
    else .next s

/-- R512: a buffer read of the frame in transmission fails. -/
def execSwtTxEcc (o : Fin 22) (s : State) : Outcome State Fault Refusal :=
  match (s.swtOut o).tx with
  | some c =>
    .next (if c.bad then s
      else (s.setSwtOut o { s.swtOut o with tx := some { c with bad := true } }).count (swtBase + 0xC10))
  | none => .next s

/-! ### Trump and hold (R378, R381) -/

/-- R378: the head frame of an eligible queue reaches TRUMP_AGE. -/
def execSwtQueueTrump (q : BitVec 15) (s : State) : Outcome State Fault Refusal :=
  let v := s.squeue q.toNat
  .next (if s.eligible q.toNat ∧ !v.trumped ∧ s.headAged v.frames then
      (s.setSqueue q.toNat { v with trumped := true }).count (swtBase + 0xC08)
    else s)

/-- R381: the hold timer reaches HOLD. -/
def execSwtHoldExpire (o : Fin 16) (s : State) : Outcome State Fault Refusal :=
  let v := s.swtOut o
  .next (if v.st = .hold ∧ usFtu (100 * s.fld (swtBase + 0x104 + 8 * o) 9 0) ≤ s.elapsed v.holdSince then swtGoDown s o else s)

end Sys2Proof.Machine
end

