-- ==== Sys2Proof/Machine/Hqe.lean ====
section
/-! DEFINITION. The host queue engine's data path (R443–R460, R464, R469, R470): polls, doorbells, descriptor fetches, transmit and
receive, completion rings, MSI-X, the admin pair, function-level reset. -/

namespace Sys2Proof.Machine

open Host

/-! ### Functions that answer (R436, R469, R571) -/

/-- R436: the function exists: its PF is present, and a VF's PF has VF Enable set. -/
def State.fnExists (s : State) (fn : Nat) : Bool :=
  if fn < 4 then s.pfPresent fn
  else (List.range 4).any fun p => decide (s.vfBase p ≤ fn) && decide (fn < s.vfBase p + s.totalVfs p) && (s.fn p).vfEnable

/-- The port of a function is in reset. -/
def State.portReset (s : State) (fn : Nat) : Bool := if s.pfOf fn < 2 then s.pwr.perst0 else s.pwr.perst1

def State.fnUp (s : State) (fn : Nat) : Bool :=
  s.hqe.portsFixed && s.dev != .reset && s.fnExists fn && !s.portReset fn

/-- R51, R469: the HQE reads and writes for the function: it does so in no FROZEN device. -/
def State.hqeRuns (s : State) (fn : Nat) : Bool := s.fnUp fn && s.dev != .frozen && (s.fn fn).active

/-- A ring in ACTIVE that is not being destroyed. -/
def State.activeRing (s : State) (fn r : Nat) : Option HRing :=
  match s.hring fn r with
  | some v => if v.fault || v.dying.isSome then none else some v
  | none => none

/-! ### FN_POLL, HQE_TUNE (R443, R473) -/

def State.pollMin (s : State) (fn : Nat) : Nat := bits (s.fn fn).poll 15 0
def State.pollMax (s : State) (fn : Nat) : Nat := 1000 * bits (s.fn fn).poll 31 16
def State.pollGap (s : State) : Nat := s.expert hqeBase (hqeBase + 0x40) 31 24 8
def State.fetchMax (s : State) : Nat := s.expert hqeBase (hqeBase + 0x40) 5 0 32

/-! ### Reads asked of the host -/

/-- A read of the host asked by a function. -/
def askRead (s : State) (fn a n : Nat) : State := { s with sent := .hostRead fn a n :: s.sent }

def askSwap (s : State) (fn a : Nat) : State := { s with sent := .hostSwap fn a :: s.sent }

/-- R444: the doorbell record of a local ring. -/
def State.doorbellAt (s : State) (fn r : Nat) : Nat := (s.fn fn).db.toNat + 8 * r

/-! ### Polls (R448, R449) -/

/-- R448: the function is polled through its bitmap. -/
def HqeFn.bitmap (f : HqeFn) : Bool := bitAt f.ctrl 1 && f.atomic

/-- The ACTIVE descriptor rings of a function, by local number. -/
def State.activeRings (s : State) (fn : Nat) : List Nat :=
  s.hqe.rings.filterMap fun e =>
    if e.1 / 65536 == fn && !e.2.fault && e.2.dying.isNone then some (e.1 % 65536) else none

/-- R449: a poll whose last answer has come ends, and sets the interval to the next. -/
def endPoll (s : State) (fn : Nat) : State :=
  let f := s.fn fn
  if f.p.active ∧ !f.p.line ∧ f.p.swaps.isEmpty ∧ f.p.records.isEmpty then
    let next := if f.p.found then s.pollMin fn else min (2 * f.interval) (s.pollMax fn)
    s.setFn fn { f with p := Poll.none, interval := next }
  else s

def State.setPoll (s : State) (fn : Nat) (p : Poll) : State := s.setFn fn { s.fn fn with p := p }

/-- R449: the function's poll is due. -/
def State.pollDue (s : State) (fn : Nat) : Bool :=
  let f := s.fn fn
  s.hqeRuns fn && !f.p.active && decide (nsFtu f.interval ≤ s.elapsed f.lastPoll)

/-- R449: no function due is nearer in the round robin after the one polled last. -/
def State.pollTurn (s : State) (fn : Nat) : Bool :=
  let rank := fun (n : Nat) => (n + 1028 - (s.hqe.lastFn + 1)) % 1028
  s.hqe.fns.all fun e => !s.pollDue e.1 || rank fn ≤ rank e.1

/-- The 64-byte lines of doorbell records that hold these rings. -/
def recordLines (rs : List Nat) : List Nat := dedupSorted (rs.map (· / 8))

/-- R448, R449: a poll starts. -/
def execHqePoll (fn : Fin 1028) (s : State) : Outcome State Fault Refusal :=
  if !s.pollDue fn ∨ s.elapsed s.hqe.lastPoll < nsFtu s.pollGap ∨ !s.pollTurn fn then .next s
  else
    let f := s.fn fn
    let s1 := (s.setHqe { s.hqe with lastPoll := s.now, lastFn := fn }).count (hqeBase + 0x900)
    if f.bitmap then
      .next (askRead (s1.setFn fn { f with lastPoll := s.now, p := { Poll.none with active := true, line := true } }) fn
        f.sum.toNat 64)
    else
      let rs := s.activeRings fn
      let s2 := s1.setFn fn { f with lastPoll := s.now, p := { Poll.none with active := true, records := rs } }
      .next (endPoll ((recordLines rs).foldl (fun st l => askRead st fn (f.db.toNat + 64 * l) 64) s2) fn)

/-- The address of a bitmap word: 0–7 level 1, 8 + i word i of level 2 (R446). -/
def State.bitmapAt (s : State) (fn slot : Nat) : Nat :=
  (s.fn fn).sum.toNat + (if slot < 8 then 8 * slot else 64 + 8 * (slot - 8))

/-- The set bits of a 64-bit word. -/
def setBits (w : BitVec 64) : List Nat := (List.range 64).filter fun i => w.getLsbD i

/-- R448: nonzero words of the level-1 line are swapped. -/
def execSummaryReadDone (fn : Fin 1028) (line : BitVec 512) (s : State) : Outcome State Fault Refusal :=
  let p := (s.fn fn).p
  if !s.hqeRuns fn ∨ !p.line then .next s
  else
    let ws := (List.range 8).filter fun i => line.extractLsb' (64 * i) 64 != 0
    let s1 := s.setPoll fn { p with line := false, swaps := p.swaps ++ ws }
    .next (endPoll (ws.foldl (fun st i => askSwap st fn (st.bitmapAt fn i)) s1) fn)

/-- R448: a level-2 bit of a ring that is not ACTIVE is counted; the record of any other is read. -/
def bitmapRing (fn : Nat) (s : State) (r : Nat) : State :=
  match s.activeRing fn r with
  | none => s.count (hqeBase + 0x910)
  | some _ =>
    let p := (s.fn fn).p
    askRead (s.setPoll fn { p with records := p.records ++ [r] }) fn (s.doorbellAt fn r) 8

/-- R448: a Swap returns the old value of its word. -/
def execAtomicSwapDone (fn : Fin 1028) (slot : BitVec 11) (old : BitVec 64) (s : State) : Outcome State Fault Refusal :=
  let p := (s.fn fn).p
  if !s.hqeRuns fn ∨ !p.swaps.contains slot.toNat then .next s
  else
    let s1 := s.setPoll fn { p with swaps := p.swaps.erase slot.toNat }
    if slot.toNat < 8 then
      let ws := (setBits old).flatMap fun b => [8 + 2 * (64 * slot.toNat + b), 9 + 2 * (64 * slot.toNat + b)]
      let p1 := (s1.fn fn).p
      let s2 := s1.setPoll fn { p1 with swaps := p1.swaps ++ ws }
      .next (endPoll (ws.foldl (fun st w => askSwap st fn (st.bitmapAt fn w)) s2) fn)
    else .next (endPoll (((setBits old).map (64 * (slot.toNat - 8) + ·)).foldl (bitmapRing fn) s1) fn)

/-! ### Doorbells (R445) -/

/-- A word that the manual leaves open, of the bits in `m`. -/
def freeWord (s : State) (m : Word) : Word × State :=
  let (n, s1) := s.takeFree
  (BitVec.ofNat 32 n &&& m, s1)

def RingType.kind : RingType → Nat
  | .tx => 1 | .rx => 2 | .cmd => 3

/-- R457: a completion of a descriptor that reports no packet.  The fields that would describe one are free for an RX ring. -/
def failDescriptor (s : State) (fn r : Nat) (v : HRing) (status idx : Nat) (cookie w6 : Word) (solicit : Bool) : State :=
  if v.typ = .rx then
    let (a, s1) := freeWord s 0x7FF00000
    let (b, s2) := freeWord s1 0x3FFF
    let (c, s3) := freeWord s2 0xFFFFFFFF
    let (e, s4) := freeWord s3 0xFFFFFF
    postCompletion s4 fn v.cq { d := completion 2 status r cookie (a ||| BitVec.ofNat 32 (idx % 65536)) b s.now c e, solicit := solicit }
  else
    postCompletion s fn v.cq
      { d := completion v.typ.kind status r cookie (BitVec.ofNat 32 (idx % 65536)) 0 s.now (if v.typ = .tx then w6 else 0) 0,
        solicit := solicit }

/-- R445, R469: the ring enters FAULT with one BAD_FIELD completion.  No descriptor stands behind it, so its COOKIE and
timestamp are free. -/
def faultRing (s : State) (fn r : Nat) (v : HRing) : State :=
  let (a, s1) := freeWord s 0xFFFFFFFF
  let (b, s2) := freeWord s1 0xFFFFFFFF
  failDescriptor (s2.setHring fn r { v with fault := true }) fn r v stBadField v.ci a b false

/-- R445: what the HQE makes of a doorbell record. -/
def hearDoorbell (s : State) (fn r : Nat) (record : BitVec 64) : State :=
  match s.hring fn r with
  | none => s.count (hqeBase + 0x908)
  | some v =>
    if record.toNat / 2 ^ 32 % 65536 ≠ v.gen then s.count (hqeBase + 0x908)
    else if record.toNat / 2 ^ 49 ≠ 0 then s.count (hqeBase + 0x90C)
    else if v.fault ∨ v.dying.isSome then s.count (hqeBase + 0x908)
    else
      let pi := record.toNat % 2 ^ 32
      if ringEntries v.sizeCode < (pi + 2 ^ 32 - v.ci) % 2 ^ 32 then faultRing s fn r v
      else
        let p := (s.fn fn).p
        (s.setHring fn r { v with pi := pi, solicit := record.getLsbD 48 }).setPoll fn
          { p with found := p.found || pi != v.pi }

/-- R445, R448: a doorbell record returns. -/
def execDoorbellRead (fn : Fin 1028) (r : BitVec 16) (record : BitVec 64) (s : State) : Outcome State Fault Refusal :=
  let p := (s.fn fn).p
  if !s.hqeRuns fn ∨ !p.records.contains r.toNat then .next s
  else .next (endPoll (hearDoorbell (s.setPoll fn { p with records := p.records.erase r.toNat }) fn r.toNat record) fn)

/-! ### Descriptor fetches (R450, R452, R460) -/

/-- The switch input and source index of a function's port (R437). -/
def State.hostInput (s : State) (fn : Nat) : Nat := 16 + s.pfOf fn / 2

/-- R452, R460: the HQE may fetch from the ring. -/
def State.mayFetch (s : State) (fn : Nat) (v : HRing) : Bool :=
  let full := match s.hcq fn v.cq with
    | some q => q.full
    | none => false
  match v.typ with
  | .rx => true
  | .cmd => !full
  | .tx => !full && s.gateOpen && !s.xoff (s.hostInput fn) v.prio

/-- R57, R450: descriptors arrive and are stamped, each with its entry index. -/
def takeDescriptors (v : HRing) (s : State) : List Desc → State × HRing
  | [] => (s, v)
  | d :: ds =>
    let (t, s1) := s.stamp 33 s.now
    takeDescriptors { v with ci := (v.ci + 1) % 2 ^ 32,
                             fetched := v.fetched ++ [{ d := d, idx := v.ci % ringEntries v.sizeCode, stamp := t, solicit := v.solicit }] }
      s1 ds

/-- R450: a batch of up to FETCH_MAX descriptors, never beyond PI. -/
def execDescriptorFetch (fn : Fin 1028) (r : BitVec 16) (ds : List Desc) (s : State) : Outcome State Fault Refusal :=
  match s.activeRing fn r.toNat with
  | none => .next s
  | some v =>
    if !s.hqeRuns fn ∨ !s.mayFetch fn v ∨ ds.isEmpty ∨ s.fetchMax < ds.length ∨ (v.pi + 2 ^ 32 - v.ci) % 2 ^ 32 < ds.length then .next s
    else
      let s1 := askRead s fn (v.base + 32 * (v.ci % ringEntries v.sizeCode)) (32 * ds.length)
      let (s2, v2) := takeDescriptors v s1 ds
      .next ((s2.setHring fn r.toNat v2).countN (hqeBase + 0x904) ds.length)

/-! ### Transmit (R451–R453) -/

/-- R451: a TX_SEG whose fields break no rule of its table. -/
def segOk (d : Desc) : Bool :=
  let sop := bitAt d.w0 8
  let flen := bits d.w4 13 0
  bits d.w0 15 10 == 0 && bits d.w0 31 30 == 0 && decide (1 ≤ bits d.w0 29 16) && bits d.w4 31 14 == 0
    && d.w5 == 0 && d.w6 == 0 && d.w7 == 0 && (if sop then decide (14 ≤ flen) else flen == 0)

/-- R451: the frame after one more segment; a frame begins with SOP, and no later segment carries it. -/
def addSegment (h : HDesc) : Option TxFrame → TxFrame
  | none =>
    { ots := h.stamp, frameLen := bits h.d.w4 13 0, total := bits h.d.w0 29 16, segs := 1, bad := !segOk h.d || !bitAt h.d.w0 8,
      cookie := h.d.w1, idx := h.idx, solicit := h.solicit }
  | some f =>
    { f with total := f.total + bits h.d.w0 29 16, segs := f.segs + 1, bad := f.bad || !segOk h.d || bitAt h.d.w0 8,
             cookie := h.d.w1, idx := h.idx, solicit := h.solicit }

def TxFrame.malformed (f : TxFrame) : Bool := f.bad || decide (16 < f.segs) || f.total != f.frameLen

/-- R453, R469: a transmit completion, while the ring is still there and ACTIVE. -/
def completeTx (s : State) (fn r : Nat) (f : TxFrame) (status reason : Nat) : State :=
  match s.hring fn r with
  | none => s
  | some v =>
    if v.fault then s
    else
      let s1 := if status = stDmaError then s.count (hqeBase + 0x920) else s
      postCompletion s1 fn v.cq
        { d := completion 1 status r f.cookie (BitVec.ofNat 32 (f.idx + reason * 65536)) 0 s.now (f.ots.setWidth 32) 0, solicit := f.solicit }

/-- R445, R469: a ring in FAULT fetches nothing more, but what it has fetched is worked off. -/
def execTxSeg (fn : Fin 1028) (r : BitVec 16) (s : State) : Outcome State Fault Refusal :=
  match s.hring fn r.toNat with
  | none => .next s
  | some v =>
    match v.fetched with
    | [] => .next s
    | h :: rest =>
      if !s.hqeRuns fn ∨ v.typ ≠ .tx then .next s
      else if bits h.d.w0 7 0 ≠ 0x01 then
        .next (finishDestroy (failDescriptor (s.setHring fn r.toNat { v with fetched := rest }) fn r.toNat v stBadOpcode h.idx h.d.w1
          (h.stamp.setWidth 32) h.solicit) fn r.toNat)
      else
        let f := addSegment h v.frame
        let s1 := if f.bad then s else askRead s fn (h.d.w2.toNat + 2 ^ 32 * h.d.w3.toNat) (bits h.d.w0 29 16)
        if !bitAt h.d.w0 9 then .next (s1.setHring fn r.toNat { v with fetched := rest, frame := some f })
        else if f.malformed then
          .next (finishDestroy (completeTx (s1.setHring fn r.toNat { v with fetched := rest, frame := none }) fn r.toNat f stBadField 0)
            fn r.toNat)
        else .next (s1.setHring fn r.toNat { v with fetched := rest, frame := none, reads := v.reads ++ [f] })

/-- R352, R451–R453: the whole frame is here: it asks for admission and goes to the Loupe. -/
def hostAdmit (s : State) (fn r : Nat) (v : HRing) (f : TxFrame) (data : List Byte) : State :=
  let inp := s.hostInput fn
  let k : Pkt := { Pkt.none with
    input := inp, prio := v.prio, ots := f.ots, arrival := f.ots, node := BitVec.ofNat 14 s.ownNode, sport := BitVec.ofNat 5 inp,
    port := BitVec.ofNat 5 inp, fn := fn, hring := r, held := s.heldFrom s.now }
  let reason := if s.overLimit k (s.admitPool 4) data then 2 else 1
  match admitPacket s k (s.admitPool 4) data with
  | (s1, some h) => completeTx (offerLoupe s1 h) fn r f stOk 0
  | (s1, none) => completeTx s1 fn r f stDropped reason

/-- R453: the last data read of the oldest frame has returned, or failed. -/
def execTxDataReadDone (fn : Fin 1028) (r : BitVec 16) (data : List Byte) (ok : Bool) (s : State) : Outcome State Fault Refusal :=
  match s.hring fn r.toNat with
  | none => .next s
  | some v =>
    match v.reads with
    | [] => .next s
    | f :: rest =>
      let s1 := s.setHring fn r.toNat { v with reads := rest }
      if !s.hqeRuns fn ∨ (ok ∧ data.length ≠ f.frameLen) then .next s
      else if !ok then .next (finishDestroy (completeTx s1 fn r.toNat f stDmaError 0) fn r.toNat)
      else .next (finishDestroy (hostAdmit s1 fn r.toNat v f data) fn r.toNat)

/-! ### Receive (R454, R455) -/

/-- R454: the fields of an RX_BUF. -/
def rxBufOk (d : Desc) : Bool :=
  let n := d.w4.toNat
  bits d.w0 31 8 == 0 && decide (64 ≤ n) && decide (n ≤ 16384) && d.w5 == 0 && d.w6 == 0 && d.w7 == 0

/-- R454: one buffer is posted. -/
def execRxBuf (fn : Fin 1028) (r : BitVec 16) (s : State) : Outcome State Fault Refusal :=
  match s.hring fn r.toNat with
  | none => .next s
  | some v =>
    match v.fetched with
    | [] => .next s
    | h :: rest =>
      if !s.hqeRuns fn ∨ v.typ ≠ .rx then .next s
      else
        let fails := fun (st : Nat) =>
          finishDestroy (failDescriptor (s.setHring fn r.toNat { v with fetched := rest }) fn r.toNat v st h.idx h.d.w1 0 h.solicit) fn r.toNat
        if bits h.d.w0 7 0 ≠ 0x10 then .next (fails stBadOpcode)
        else if !rxBufOk h.d then .next (fails stBadField)
        else
          let b : RxBuf := { cookie := h.d.w1, addr := h.d.w2.toNat + 2 ^ 32 * h.d.w3.toNat, len := h.d.w4.toNat, idx := h.idx,
                             solicit := h.solicit }
          .next (finishDestroy (s.setHring fn r.toNat { v with fetched := rest, posted := v.posted ++ [b] }) fn r.toNat)

/-- R455: the data fills each buffer in turn. -/
def fillBuffers (m : SMap Byte) : List RxBuf → List Byte → SMap Byte
  | [], _ => m
  | b :: bs, data => fillBuffers (writeBytes m b.addr (data.take b.len)) bs (data.drop b.len)

/-- R457: the completion of a delivered copy. -/
def rxCompletion (s : State) (r n : Nat) (b : RxBuf) (x : Release) (status len : Nat) : Desc :=
  completion 2 status r b.cookie
    (at' b.idx 0 ||| at' n 16 ||| at' x.klass.toNat 20 ||| at' x.colour.toNat 23 ||| at' (b2n x.late) 25 ||| at' x.port.toNat 26)
    (at' len 0) s.now (x.ots.setWidth 32) (at' x.key.toNat 0)

/-- R455, R460: a HOST copy is written, with its completion after it. -/
def writeCopy (s : State) (o : Nat) (c : SwtCopy) (n : Nat) : State :=
  let (fn, r) := s.ringOwner (outDest c.out)
  match s.hring fn r, sfind s.swt.rels c.rel with
  | some v, some x =>
    match v.posted with
    | [] => s
    | b :: _ =>
      let data := s.copyBytes c
      let used := v.posted.take n
      let s1 := s.setMems { s.mems with host := fillBuffers s.mems.host used data }
      let s2 := s1.setHring fn r { v with posted := v.posted.drop n }
      let d := rxCompletion s r n b x.r (if c.bad then stDataEcc else stOk) data.length
      finishCopy (postCompletion s2 fn v.cq { d := d, solicit := used.any (·.solicit) }) o c
  | _, _ => s

/-- R455: the copy goes back to the head of its queue, which is paused. -/
def requeueCopy (s : State) (o : Nat) (c : SwtCopy) : State :=
  let q := s.squeue c.queue
  (s.setSqueue c.queue { q with frames := c :: q.frames, depth := q.depth + c.len }).setSwtOut o { s.swtOut o with tx := none }

/-- R382, R455: the HQE refuses the copy. -/
def refuseHost (s : State) (o : Nat) (c : SwtCopy) : State := dropCopy (s.setSwtOut o { s.swtOut o with tx := none }) c 0xA

/-- R455: the HOST copy that output `o` has handed over. -/
def execRxDeliver (o : Fin 22) (s : State) : Outcome State Fault Refusal :=
  match (s.swtOut o).tx with
  | none => .next s
  | some c =>
    if outDtype c.out ≠ 2 then .next s
    else match s.hostAct c with
      | .notActive => .next (refuseHost s o c)
      | .tooBig => .next (refuseHost (s.count (hqeBase + 0x91C)) o c)
      | .noBuffer => .next (refuseHost (s.count (hqeBase + 0x918)) o c)
      | .wait => .next (requeueCopy s o c)
      | .write n => .next (writeCopy s o c n)

/-! ### Completion rings (R460, R464) -/

/-- R458, R460: waiting entries are written while there is room; the fuel is their number. -/
def drainWaiting (fn q : Nat) : Nat → State → State
  | 0, s => s
  | n + 1, s =>
    match s.hcq fn q with
    | none => s
    | some c =>
      match c.waiting with
      | [] => s
      | e :: rest =>
        if c.used < ringEntries c.sizeCode then drainWaiting fn q n (writeEntry s fn q { c with waiting := rest } e) else s

/-- R460: the consumer record has been read again. -/
def execCqRecheck (fn : Fin 1028) (q : BitVec 16) (ci : Word) (s : State) : Outcome State Fault Refusal :=
  match s.hcq fn q.toNat with
  | none => .next s
  | some c =>
    if !s.hqeRuns fn ∨ !c.noRoom then .next s
    else
      let s1 := drainWaiting fn q.toNat c.waiting.length (s.setCq fn q.toNat { c with ci := ci.toNat })
      match s1.hcq fn q.toNat with
      | none => .next s1
      | some c1 =>
        let full := !c1.waiting.isEmpty || decide (ringEntries c1.sizeCode ≤ c1.used)
        let s2 := s1.setCq fn q.toNat { c1 with full := full }
        .next (if full && !c.full then s2.count (hqeBase + 0x914) else s2)

/-- R464: MOD_TIME has elapsed since the first entry not yet signalled. -/
def execModTimeExpire (fn : Fin 1028) (q : BitVec 16) (s : State) : Outcome State Fault Refusal :=
  match s.hcq fn q.toNat with
  | none => .next s
  | some c =>
    .next (if s.hqeRuns fn ∧ c.irq ∧ c.modTime ≠ 0 ∧ c.unsignalled ≠ 0 ∧ nsFtu (100 * c.modTime) ≤ s.elapsed c.first then
        signalVector (s.setCq fn q.toNat { c with unsignalled := 0 }) fn c.vector
      else s)

/-- R546: the hold-off of a PF event ring is over, and records wait to be signalled. -/
def execEventRingSignal (pf : Fin 4) (s : State) : Outcome State Fault Refusal :=
  match sfind s.events.rings pf with
  | none => .next s
  | some r =>
    .next (if r.irq ∧ r.dirty ∧ r.holdoff ≤ s.now ∧ s.dev ≠ .frozen then
        signalVector { s with events := { s.events with
          rings := sins s.events.rings pf { r with dirty := false, holdoff := s.now + BitVec.ofNat 64 (usFtu 1) } } } pf r.vector
      else s)

/-! ### MSI-X and configuration space (R438, R464, R470) -/

/-- R464: a function becomes `f`: its pending messages of vectors no longer masked leave. -/
def sendPending (s : State) (fn : Nat) (f : HqeFn) : State :=
  if !f.msixEn ∨ f.msixMask then s.setFn fn f
  else
    let due := f.pendingVec.filter fun e => sget false f.unmasked e.1
    due.foldl (fun st e => { st with sent := .msix fn e.1 :: st.sent })
      (s.setFn fn { f with pendingVec := f.pendingVec.filter fun e => !sget false f.unmasked e.1 })

/-- R464: a host write to the mask of a vector. -/
def execMsixTableWrite (fn : Fin 1028) (v : BitVec 11) (masked : Bool) (s : State) : Outcome State Fault Refusal :=
  if !s.fnUp fn ∨ (4 ≤ fn.val ∧ 64 ≤ v.toNat) then .next s
  else
    let f := s.fn fn
    .next (sendPending s fn { f with unmasked := sput false f.unmasked v.toNat (!masked) })

/-! ### The admin pair, FLR (R443, R469, R470) -/

/-- R469: every ring and completion ring of the function goes, and what was fetched with it. -/
def dropRings (s : State) (fn : Nat) : State :=
  let s1 := s.setHqe { s.hqe with rings := s.hqe.rings.filter fun e => e.1 / 65536 != fn
                                  cqs := s.hqe.cqs.filter fun e => e.1 / 65536 != fn }
  s1.setFn fn { s1.fn fn with active := false, p := Poll.none }

/-- R442: a descriptor ring as it is created. -/
def HRing.new (typ : RingType) (sizeCode cq base gen : Nat) : HRing :=
  { typ := typ, fault := false, sizeCode := sizeCode, cq := cq, prio := 0, nobuf := false, core := false, group := 0, dprio := 0,
    base := base, gen := gen, ci := 0, pi := 0, solicit := false, fetched := [], frame := none, reads := [], posted := [],
    items := [], dying := none }

def Cq.new (sizeCode base vector : Nat) (irq : Bool) (modCnt modTime : Nat) : Cq :=
  { sizeCode := sizeCode, base := base, vector := vector, irq := irq, modCnt := modCnt, modTime := modTime, pi := 0, ci := 0,
    full := false, waiting := [], unsignalled := 0, first := 0 }

/-- R443: EN 0 → 1 of the function `f` creates the admin pair, unless the function holds no rings.  The manual gives the admin completion ring no
MOD_CNT and no MOD_TIME: both are free. -/
def enableFn (s : State) (fn : Nat) (f : HqeFn) : State :=
  if s.ringsHeld fn = 0 ∨ s.cqsHeld fn = 0 then s.setFn fn { f with adminFault := true }
  else
    let (a, s1) := s.takeFree
    let (b, s2) := s1.takeFree
    let q := Cq.new (bits f.adminCfg 7 4) f.acq.toNat (bits f.adminCfg 18 8) (bitAt f.adminCfg 19) (1 + a % 255) (b % 4096)
    let r := HRing.new .cmd (bits f.adminCfg 3 0) 0 f.admin.toNat 0
    ((s2.setFn fn { f with ctrl := f.ctrl ||| 1, active := true, adminFault := false, interval := bits f.poll 15 0,
                           lastPoll := s.now, p := Poll.none }).setCq fn 0 q).setHring fn 0 r

/-- R443, R469: EN 1 → 0. -/
def disableFn (s : State) (fn : Nat) : State :=
  let s1 := dropRings s fn
  s1.setFn fn { s1.fn fn with ctrl := (s1.fn fn).ctrl &&& ~~~1 }

/-- R443: a write of FN_CTRL: SUM_EN may change while EN stays 0 or changes with it. -/
def writeFnCtrl (s : State) (fn : Nat) (value : Word) : State :=
  let f := s.fn fn
  let g := { f with ctrl := (value &&& 2) ||| (f.ctrl &&& 1) }
  if bitAt value 0 && !bitAt f.ctrl 0 then enableFn s fn g
  else if !bitAt value 0 && bitAt f.ctrl 0 then disableFn (s.setFn fn g) fn
  else s.setFn fn g

/-- R470: one function is reset.  Ranges set by its PF, and event rings set by command, survive. -/
def resetFn (s : State) (fn : Nat) : State :=
  let s1 := dropRings s fn
  let s2 := s1.setHqe { s1.hqe with streams := s1.hqe.streams.filter fun e => e.2.fn != fn }
  let f := s2.fn fn
  s2.setFn fn { HqeFn.reset with ringFirst := f.ringFirst, ringCount := f.ringCount, cqFirst := f.cqFirst, cqCount := f.cqCount,
                                 vectors := f.vectors, lineFirst := f.lineFirst, lineCount := f.lineCount }

/-- The VFs of a PF that any state is kept of. -/
def State.vfNumbers (s : State) (pf : Nat) : List Nat :=
  dedupSorted ((s.hqe.fns.map (fun (e : Nat × HqeFn) => e.1) ++ s.hqe.rings.map (fun (e : Nat × HRing) => e.1 / 65536)).filter fun n => decide (4 ≤ n) && s.pfOf n == pf)

/-- R470: an FLR; that of a PF clears VF Enable, which resets its VFs. -/
def flrFn (s : State) (fn : Nat) : State :=
  if fn < 4 then resetFn ((s.vfNumbers fn).foldl resetFn s) fn else resetFn s fn

def execFlr (fn : Fin 1028) (s : State) : Outcome State Fault Refusal := .next (if s.fnUp fn then flrFn s fn else s)

/-- R49, R469: PERSTn_N resets a port's functions, with the ranges of their VFs and their event rings. -/
def resetPort (s : State) (h : Nat) : State :=
  [2 * h, 2 * h + 1].foldl (fun (st : State) (pf : Nat) =>
    let s1 := flrFn st pf
    let s2 := s1.setHqe { s1.hqe with fns := s1.hqe.fns.filter fun (e : Nat × HqeFn) => s1.pfOf e.1 != pf }
    { s2 with events := { s2.events with rings := sdel s2.events.rings pf } }) s

/-- R438, R443, R464: a host write to configuration space. -/
def execPcieConfigWrite (fn : Fin 1028) (cfg : ConfigWrite) (s : State) : Outcome State Fault Refusal :=
  if !s.fnUp fn then .next s
  else
    let f := s.fn fn
    match cfg with
    | .atomicEnable on => .next (s.setFn fn { f with atomic := on })
    | .vfEnable on =>
      if 4 ≤ fn.val then .next s
      else if on then .next (s.setFn fn { f with vfEnable := true })
      else .next ((s.vfNumbers fn).foldl resetFn (s.setFn fn { f with vfEnable := false }))
    | .msix enable mask => .next (sendPending s fn { f with msixEn := enable, msixMask := mask })

end Sys2Proof.Machine
end

