-- ==== Sys2Proof/Machine/Hbm.lean ====
section
/-! DEFINITION. The HBM controllers (R494–R520): requests, the choice of a command, corrections, refresh, scrub, freezing, and the
Negative. -/

namespace Sys2Proof.Machine

open Host

/-! ### Requests and entries (R502, R505) -/

def HbmOp.of (op : BitVec 2) : HbmOp :=
  if op = 0 then .read else if op = 1 then .write else if op = 2 then .atomic else .partialWrite

/-- A request that data answers. -/
def HbmOp.reads : HbmOp → Bool
  | .read | .atomic => true
  | _ => false

def HbmEntry.reads (e : HbmEntry) : Bool := e.op.reads

/-- R505: the controller can take the request. -/
def HbmCtl.room (v : HbmCtl) (port : Nat) (reads : Bool) : Bool :=
  let same := (v.entries.filter fun e => e.reads == reads).length
  decide (same < (if reads then 1024 else 512)) && decide ((v.entries.filter fun e => e.port == port).length < 256)

/-- A read of a frozen controller is answered with poison; a write is discarded (R512). -/
def refuseEntry (s : State) (c : Nat) (e : HbmEntry) : State :=
  if e.reads then
    (s.setHbmCtl c { s.hbmCtl c with answer := some (e, [], true) }).count (hbmCnt c 0x20)
  else s.count (hbmCnt c 0x24)

/-- R502, R505, R512: a request reaches a controller: at most one 64-byte line, on a port that carries requests. -/
def execHbmRequest (c : Fin 4) (port : Fin 8) (req : BitVec 12) (op : BitVec 2) (addr : BitVec 38) (len : BitVec 7)
    (data : List Byte) (s : State) : Outcome State Fault Refusal :=
  let v := s.hbmCtl c
  let a := addr.toNat
  let n := len.toNat
  let o := HbmOp.of op
  let e : HbmEntry := { addr := a, port := port, req := req.toNat, op := o, len := n, data := data, arrival := s.now,
                        late := false, trumped := false, issued := false }
  let legal := decide (a < hbmSize) && (hbmDecode a).stack == c.val && port.val != 7 && decide (1 ≤ n) && decide (a % 64 + n ≤ 64)
    && (o == .read || data.length == n)
  .next (if !legal then s
    else match v.st with
      | .frozen => refuseEntry s c e
      | .active => if v.room port o.reads then s.setHbmCtl c { v with entries := v.entries ++ [e] } else s
      | _ => s)

/-! ### Urgency (R503, R504) -/

/-- R502: LATENCY, THROUGHPUT or BACKGROUND. -/
def hbmLatency (port : Nat) : Bool := port < 4
def hbmBackground (port : Nat) : Bool := 6 ≤ port

/-- TARGET of a port in FTU. -/
def State.hbmTarget (s : State) (port : Nat) : Nat := nsFtu (s.fld (hbmBase + 0x100 + 4 * port) 15 0)

def State.urg1 (s : State) : Nat := s.expert hbmBase (hbmBase + 0x40) 31 28 8
def State.urg2 (s : State) : Nat := s.expert hbmBase (hbmBase + 0x40) 27 24 12
def State.rowHitMax (s : State) : Nat := s.expert hbmBase (hbmBase + 0x40) 23 16 16
def State.wqHigh (s : State) : Nat := 8 * s.expert hbmBase (hbmBase + 0x40) 15 8 48
def State.wqLow (s : State) : Nat := 8 * s.expert hbmBase (hbmBase + 0x40) 7 0 16

/-- R503: the urgency of a request; none for BACKGROUND below Trump. -/
def State.urgency (s : State) (e : HbmEntry) : Option Nat :=
  let age := s.elapsed e.arrival
  let t := s.hbmTarget e.port
  if usFtu (s.fld hbmBase 23 16) ≤ age then some 4
  else if hbmBackground e.port then none
  else if hbmLatency e.port then
    if t ≤ age then some 3
    else if t * s.urg2 ≤ 16 * age then some 2
    else if t * s.urg1 ≤ 16 * age then some 1
    else some 0
  else if t ≤ age then some 1 else some 0

/-- R504: arrival + TARGET. -/
def State.deadline (s : State) (e : HbmEntry) : Nat := e.arrival.toNat + s.hbmTarget e.port

/-- R503: a LATENCY request that has reached urgency 3 is counted once. -/
def noteLate (s : State) (c k : Nat) : State :=
  let v := s.hbmCtl c
  match v.entries[k]? with
  | some e =>
    if hbmLatency e.port && !e.late && decide (s.hbmTarget e.port ≤ s.elapsed e.arrival) then
      (s.setHbmCtl c { v with entries := lset v.entries k { e with late := true } }).count (hbmCnt c 0x10)
    else s
  | none => s

/-- R503: a request's age reaches AGE_LIMIT. -/
def execHbmTrump (c : Fin 4) (k : BitVec 11) (s : State) : Outcome State Fault Refusal :=
  let s1 := noteLate s c k.toNat
  let v := s1.hbmCtl c
  match v.entries[k.toNat]? with
  | some e =>
    .next (if v.st = .active ∧ !e.trumped ∧ usFtu (s.fld hbmBase 23 16) ≤ s.elapsed e.arrival then
        (s1.setHbmCtl c { v with entries := lset v.entries k.toNat { e with trumped := true } }).count (hbmCnt c 0x14)
      else s1)
  | none => .next s

/-! ### Issue (R498, R504, R505) -/

def HbmCtl.pc (v : HbmCtl) (n : Nat) : HbmPc := sget HbmPc.reset v.pcs n

def HbmCtl.setPc (v : HbmCtl) (n : Nat) (p : HbmPc) : HbmCtl := { v with pcs := sput HbmPc.reset v.pcs n p }

/-- The key of a bank within its pseudo-channel. -/
def HbmPlace.bankKey (p : HbmPlace) : Nat := 16 * p.sid + 4 * p.group + p.bank

/-- Two requests touch a burst in common. -/
def HbmEntry.overlaps (a b : HbmEntry) : Bool :=
  decide (a.addr / 32 ≤ (b.addr + b.len - 1) / 32) && decide (b.addr / 32 ≤ (a.addr + a.len - 1) / 32)

/-- The requests of a pseudo-channel that wait, with their positions. -/
def HbmCtl.waitingOn (v : HbmCtl) (pc : Nat) : List (Nat × HbmEntry) :=
  ((List.range v.entries.length).zip v.entries).filter fun e => !e.2.issued && (hbmDecode e.2.addr).pc == pc

/-- R498: no earlier request to the same burst stands before it. -/
def HbmCtl.inOrder (v : HbmCtl) (k : Nat) (e : HbmEntry) : Bool :=
  (v.entries.take k).all fun x => x.issued || !x.overlaps e

/-- R505: the pseudo-channel drains writes from now on. -/
def State.drains (s : State) (was : Bool) (ws : List (Nat × HbmEntry)) : Bool :=
  let urgent := ws.any fun e => decide (2 ≤ (s.urgency e.2).getD 0)
  if was then s.wqLow < ws.length || urgent else s.wqHigh ≤ ws.length || urgent

/-- The entry with the least key, the earlier of equals. -/
def leastBy (f : HbmEntry → Nat) : List (Nat × HbmEntry) → Option (Nat × HbmEntry)
  | [] => none
  | e :: es =>
    match leastBy f es with
    | none => some e
    | some x => some (if f x.2 < f e.2 then x else e)

/-- The first of two choices that is there. -/
def firstOf {α : Type} (a b : Option α) : Option α := if a.isSome then a else b

/-- A row of the bank is open and is the request's. -/
def HbmCtl.hits (v : HbmCtl) (e : HbmEntry) : Bool :=
  let p := hbmDecode e.addr
  sget none (v.pc p.pc).rows p.bankKey == some p.row

/-- R504: candidates 2 to 6 among the requests that may issue; `all` are those that wait. -/
def State.hbmChoose (s : State) (v : HbmCtl) (pc : Nat) (es : List (Nat × HbmEntry)) : Option (Nat × HbmEntry) :=
  let at_ := fun (u : Nat) => es.filter fun e => s.urgency e.2 == some u
  let low := es.filter fun e => s.urgency e.2 == some 0 || s.urgency e.2 == some 1
  let hit := if (v.pc pc).hits < s.rowHitMax then leastBy (fun e => e.arrival.toNat) (low.filter fun e => v.hits e.2) else none
  let back := es.filter fun e => s.urgency e.2 == none
  let foreground := (v.waitingOn pc).any fun e => s.urgency e.2 != none
  firstOf (leastBy (fun e => e.arrival.toNat) (at_ 4)) (firstOf (leastBy s.deadline (at_ 3)) (firstOf (leastBy s.deadline (at_ 2))
    (firstOf hit (firstOf (leastBy s.deadline (at_ 1)) (firstOf (leastBy s.deadline (at_ 0))
      (if foreground then none else leastBy (fun e => e.arrival.toNat) back))))))

/-- R515: a command of the history; the manual gives no codes. -/
def hbmCommand (s : State) (kind a : Nat) : HbmCommand :=
  let p := hbmDecode a
  { time := s.now,
    word := BitVec.ofNat 64 (p.pc + (Config.hbmCommandCode kind).toNat * 2 ^ 5 + p.group * 2 ^ 8 + p.bank * 2 ^ 10 + p.sid * 2 ^ 12
      + p.row * 2 ^ 14 + p.column * 2 ^ 29) }

/-- The last 64 commands. -/
def HbmCtl.record (v : HbmCtl) (cs : List HbmCommand) : HbmCtl :=
  let l := v.history ++ cs
  { v with history := l.drop (l.length - 64) }

/-- The commands that serve a request: an activate on a row miss, then one for each burst. -/
def commandsFor (s : State) (v : HbmCtl) (e : HbmEntry) : List HbmCommand :=
  (if v.hits e then [] else [hbmCommand s 0 e.addr]) ++ (hbmBursts e.addr e.len).map fun b => hbmCommand s (if e.reads then 1 else 2) b

/-- A request is issued: a read latches its data, a write is carried out. -/
def issueEntry (s : State) (c pc k : Nat) (e : HbmEntry) : State :=
  let v := s.hbmCtl c
  let p := hbmDecode e.addr
  let older := (v.waitingOn pc).any fun x => x.1 < k
  let q := v.pc pc
  let q1 := { q with rows := sput none q.rows p.bankKey (some p.row), hits := if v.hits e && older then q.hits + 1 else 0 }
  let v1 := (v.record (commandsFor s v e)).setPc pc q1
  let bursts := (hbmBursts e.addr e.len).length
  let old := readBytes s.mems.hbm e.addr e.len
  let store := fun (st : State) => st.setMems { st.mems with hbm := writeBytes st.mems.hbm e.addr e.data }
  if e.reads then
    let s1 := (s.setHbmCtl c { v1 with entries := lset v1.entries k { e with issued := true, data := old } }).countN (hbmCnt c 0x00) bursts
    if e.op = .atomic then (store s1).countN (hbmCnt c 0x04) bursts else s1
  else
    let s1 := (store (s.setHbmCtl c { v1 with entries := ldrop v1.entries k })).countN (hbmCnt c 0x04) bursts
    if e.op = .partialWrite then s1.countN (hbmCnt c 0x00) bursts else s1

/-- R504, R505: a command slot of a pseudo-channel. -/
def execHbmCommandIssue (c : Fin 4) (pc : Fin 32) (s : State) : Outcome State Fault Refusal :=
  let v := s.hbmCtl c
  if v.st ≠ .active then .next s
  else
    let ws := (v.waitingOn pc).filter fun e => !e.2.reads
    let drain := s.drains (v.pc pc).draining ws
    let v1 := v.setPc pc { v.pc pc with draining := drain }
    let s1 := s.setHbmCtl c v1
    let es := (v1.waitingOn pc).filter fun e => (e.2.reads != drain) && v1.inOrder e.1 e.2
    match s1.hbmChoose v1 pc es with
    | some (k, e) => .next (issueEntry (noteLate s1 c k) c pc k e)
    | none =>
      let p := v1.pc pc
      .next (if p.postponed = 0 then s1
        else s1.setHbmCtl c ((v1.setPc pc { p with postponed := p.postponed - 1 }).record [hbmCommand s 3 0]))

/-! ### Refresh, temperature, drift (R500, R501) -/

/-- R511: the controller still issues refreshes and reads its temperature. -/
def HbmCtl.tends (v : HbmCtl) : Bool := v.st == .active || (v.st == .frozen && v.cause < 5)

/-- R501: a refresh falls due: it is postponed behind urgent requests, four times at most. -/
def execHbmRefresh (c : Fin 4) (pc : Fin 32) (s : State) : Outcome State Fault Refusal :=
  let v := s.hbmCtl c
  if v.st ≠ .active then .next s
  else
    let p := v.pc pc
    let urgent := (v.waitingOn pc).any fun e => decide (2 ≤ (s.urgency e.2).getD 0)
    .next (if urgent ∧ p.postponed < 4 then
        (s.setHbmCtl c (v.setPc pc { p with postponed := p.postponed + 1 })).count (hbmCnt c 0x18)
      else s.setHbmCtl c (v.record [hbmCommand s 3 0]))

/-- R501: the stack's temperature is read. -/
def execHbmTempRead (c : Fin 4) (t : Byte) (s : State) : Outcome State Fault Refusal :=
  let v := s.hbmCtl c
  if !v.tends then .next s
  else
    let high := if 95 ≤ t.toNat then true else if t.toNat < 90 then false else v.tempHigh
    let s1 := s.setHbmCtl c { v with temp := t.toNat, tempHigh := high }
    .next (if high && !v.tempHigh then s1.logEvent 0x81 1 (evAt 0 c ||| evAt 1 t.toNat) else s1)

/-- R500: strobe drift is corrected: nothing that software sees. -/
def execHbmDriftCheck (_c : Fin 4) (s : State) : Outcome State Fault Refusal := .next s

/-! ### Corrections (R508) -/

/-- R508: one correction of a burst, by the controller or on the die. -/
def correct (s : State) (c a : Nat) (onDie : Bool) : State :=
  let v := s.hbmCtl c
  let second := s.nowN / ftuPerSecond
  let fresh := v.ceSecond ≠ second
  let n := if fresh then 1 else v.ceCount + 1
  let thresh := s.fld (hbmBase + 8) 15 0
  let raise := thresh ≠ 0 ∧ thresh < n ∧ (fresh ∨ !v.ceRaised)
  let v1 := { v with ceAddr := a, ceTime := s.now, ceSecond := second, ceCount := n,
                     ceRaised := (!fresh && v.ceRaised) || decide raise }
  let s1 := (s.setHbmCtl c v1).count (hbmCnt c (if onDie then 0x0C else 0x08))
  let queued := v.entries.any fun e => !e.reads && !e.issued && decide (e.addr / 32 ≤ a / 32) && decide (a / 32 ≤ (e.addr + e.len - 1) / 32)
  let s2 := if onDie ∨ queued then s1 else s1.count (hbmCnt c 0x04)
  if raise then s2.logEvent 0x82 1 (evAt 0 c ||| evAt 4 n) else s2

/-! ### The Negative (R515, R516) -/

/-- R516: a queue entry. -/
def entryBytes (s : State) (e : HbmEntry) : List Byte :=
  leBytes 8 (e.addr + e.port * 2 ^ 38 + e.req * 2 ^ 41 + e.op.code * 2 ^ 53 + (e.len - 1) * 2 ^ 55 + (s.urgency e).getD 0 * 2 ^ 61)
    ++ leBytes 8 e.arrival.toNat

/-- R515: one pseudo-channel. -/
def pcBytes (n : Nat) (p : HbmPc) : List Byte :=
  let opened := (p.rows.filter fun e => e.2.isSome).foldl (fun acc e => acc + 2 ^ e.1) 0
  leBytes 8 (opened + p.postponed * 2 ^ 48) ++ leBytes 56 (Config.hbmSettings n).toNat

/-- What a cause comes with. -/
structure HbmFailure where
  causes : BitVec 8
  addr : Nat
  port : Nat
  req : Nat
  syndrome : Word
  burst : List Byte
  severity : Byte
  deriving DecidableEq, Repr

/-- R510, R514: the lowest cause of a mask. -/
def lowestCause (m : BitVec 8) : Nat := (((List.range 8).find? fun i => m.getLsbD i).map (· + 1)).getD 0

/-- R515: the decoded address word. -/
def decodedWord (a : Nat) : Nat :=
  let p := hbmDecode a
  p.pc + p.sid * 2 ^ 5 + p.group * 2 ^ 7 + p.bank * 2 ^ 9 + p.row * 2 ^ 11 + p.column * 2 ^ 26

/-- R519: the counters of a controller in register order. -/
def hbmCounterOffs : List Nat := [0x00, 0x04, 0x08, 0x0C, 0x10, 0x14, 0x18, 0x1C, 0x20, 0x24, 0x28]

/-- Byte strings placed at their offsets. -/
def putAll (m : SMap Byte) (base : Nat) (l : List (Nat × List Byte)) : SMap Byte :=
  l.foldl (fun m e => writeBytes m (base + e.1) e.2) m

/-- R515: the image of controller `c` as latched at the freeze; the time of its completion comes with that. -/
def negativeOf (s : State) (c : Nat) (x : HbmFailure) (m : SMap Byte) : SMap Byte :=
  let v := s.hbmCtl c
  let base := 65536 * c
  let rs := v.entries.filter (·.reads)
  let ws := v.entries.filter fun e => !e.reads
  let m1 := putAll m base
    [(0x00, [1, 0, BitVec.ofNat 8 c, BitVec.ofNat 8 (lowestCause x.causes)] ++ leBytes 2 x.causes.toNat ++ [BitVec.ofNat 8 s.dev.code]),
     (0x08, leBytes 8 s.nowN), (0x10, leBytes 8 x.addr),
     (0x18, leBytes 4 (decodedWord x.addr)), (0x1C, leBytes 4 (x.port + x.req * 16)), (0x20, leBytes 4 x.syndrome.toNat),
     (0x24, [BitVec.ofNat 8 v.temp, BitVec.ofNat 8 v.repair]), (0x26, leBytes 2 v.entries.length),
     (0x100, (x.burst ++ leBytes 36 0).take 36), (0x124, [x.severity])]
  let m2 := putAll m1 (base + 0x400) (((List.range 64).zip v.history).map fun e =>
    (16 * e.1, leBytes 8 e.2.time.toNat ++ leBytes 8 e.2.word.toNat))
  let m3 := putAll m2 (base + 0x800) ((List.range 32).map fun n => (64 * n, pcBytes n (v.pc n)))
  let m4 := putAll m3 (base + 0x1000) (((List.range 1024).zip rs).map fun e => (16 * e.1, entryBytes s e.2))
  let m5 := putAll m4 (base + 0x5000) (((List.range 512).zip ws).map fun e => (16 * e.1, entryBytes s e.2))
  let m6 := putAll m5 (base + 0x7000) (((List.range 512).zip ws).map fun e => (64 * e.1, e.2.data))
  putAll m6 (base + 0xF000) (((List.range 11).zip hbmCounterOffs).map fun e => (8 * e.1, leBytes 8 (sget 0 s.counters (hbmCnt c e.2))))

/-- The Negative of controller `c` is gone (R517). -/
def eraseNegative (s : State) (c : Nat) : State :=
  let s1 := { s with hbm := { s.hbm with neg := s.hbm.neg.filter fun e => e.1 / 65536 != c } }
  s1.setHbmCtl c { s1.hbmCtl c with negValid := false }

/-! ### Freezing (R511–R514) -/

/-- R513: the device enters FROZEN for the freeze of controller `c`. -/
def freezeDevice (s : State) (c : Nat) : State :=
  let s1 := { s with
    dev := .frozen
    hbm := { s.hbm with first := some c }
    mgt := { s.mgt with switch := none, swap := none } }
  let s2 := swtFreeze (dlrFreeze (traysFreeze s1))
  let s3 := { s2 with faultN := true }
  [0, 1, 2, 3].foldl (fun (st : State) (f : Nat) =>
    if st.fnUp f then
      let st1 := signalVector st f 0
      { st1 with sent := .aer f :: st1.sent }
    else st) s3

/-- R511, R514, R517: controller `c` freezes. -/
def freezeCtl (s : State) (c : Nat) (x : HbmFailure) : State :=
  let v := s.hbmCtl c
  let cause := lowestCause x.causes
  let s1 := if v.negValid then s.count (hbmCnt c 0x28)
    else { s with hbm := { s.hbm with neg := negativeOf s c x (s.hbm.neg.filter fun e => e.1 / 65536 != c) } }
  let v1 := { v with st := .frozen, cause := cause, causeMask := x.causes, entries := [],
                     negBusy := if v.negValid then none else some s.now }
  let s2 := v.entries.foldl (fun st e => refuseEntry st c e) (s1.setHbmCtl c v1)
  let s3 := if s2.dev = .frozen then s2 else freezeDevice s2 c
  s3.logEvent 0x80 3 (evAt 0 c ||| evAt 1 cause)

/-- R510, R511, R514: a cause arises in a controller that serves; training fails only in training. -/
def execHbmFreeze (c : Fin 4) (causes : BitVec 8) (addr : BitVec 38) (port : BitVec 3) (req : BitVec 12) (syndrome : Word)
    (burst : List Byte) (severity : Byte) (s : State) : Outcome State Fault Refusal :=
  let v := s.hbmCtl c
  .next (if v.st = .active ∧ causes &&& 0xBF ≠ 0 ∧ s.dev ≠ .reset then
      freezeCtl s c { causes := causes &&& 0xBF, addr := addr.toNat, port := port.toNat, req := req.toNat, syndrome := syndrome,
                      burst := burst, severity := severity }
    else s)

/-- A failure whose syndrome and burst the command does not carry: they are free. -/
def openFailure (s : State) (cause addr port req : Nat) : State × HbmFailure :=
  let (a, s1) := s.takeFree
  let (b, s2) := s1.takeFree
  let (d, s3) := s2.takeFree
  (s3, { causes := BitVec.ofNat 8 (2 ^ (cause - 1)), addr := addr, port := port, req := req, syndrome := BitVec.ofNat 32 a,
         burst := leBytes 36 b, severity := BitVec.ofNat 8 d })

/-- R508, R510: the data of an issued read returns. -/
def execHbmReadReturn (c : Fin 4) (k : BitVec 11) (ecc : Ecc) (onDie : Bool) (s : State) : Outcome State Fault Refusal :=
  let v := s.hbmCtl c
  match v.entries[k.toNat]? with
  | none => .next s
  | some e =>
    if v.st ≠ .active ∨ !e.issued then .next s
    else if ecc = .uncorrectable then
      let (s1, x) := openFailure s 1 e.addr e.port e.req
      .next (freezeCtl s1 c x)
    else
      let s0 := noteLate s c k.toNat
      let v0 := s0.hbmCtl c
      let s1 := s0.setHbmCtl c { v0 with entries := ldrop v0.entries k.toNat, answer := some (e, e.data, false) }
      let s2 := if ecc = .corrected then correct s1 c e.addr false else s1
      .next (if onDie then correct s2 c e.addr true else s2)

/-- R499: training ends: memory is zero, or the controller tries once more, or it freezes. -/
def execHbmTrainDone (c : Fin 4) (ok : Bool) (repair : Byte) (s : State) : Outcome State Fault Refusal :=
  let v := s.hbmCtl c
  if v.st ≠ .training then .next s
  else if ok then
    let s1 := s.setMems { s.mems with hbm := s.mems.hbm.filter fun e => (hbmDecode e.1).stack != c.val }
    .next (s1.setHbmCtl c { v with st := .active, trained := true, repair := repair.toNat })
  else if !v.failed then .next (s.setHbmCtl c { v with failed := true })
  else
    let (r, s1) := s.takeFree
    let (s2, x) := openFailure s1 7 0 (r % 8) (r / 8 % 4096)
    .next (freezeCtl s2 c x)

/-! ### Scrub (R509) -/

/-- The address of burst `k` of a stack, in ascending address order. -/
def scrubAddr (c k : Nat) : Nat := (c / 2) * 0x1800000000 + (k / 8 * 2 + c % 2) * 256 + k % 8 * 32

/-- Bursts of a stack. -/
def stackBursts : Nat := 0x60000000

/-- R509: the patrol scrub reads the next burst. -/
def execHbmScrub (c : Fin 4) (ecc : Ecc) (s : State) : Outcome State Fault Refusal :=
  let v := s.hbmCtl c
  if v.st ≠ .active ∨ !bitAt (s.reg hbmBase) 7 then .next s
  else
    let a := scrubAddr c v.scrub
    let s1 := (s.setHbmCtl c { v with scrub := (v.scrub + 1) % stackBursts }).count (hbmCnt c 0x00)
    match ecc with
    | .good => .next s1
    | .corrected => .next (correct s1 c a false)
    | .uncorrectable =>
      let (r, s2) := s1.takeFree
      let (s3, x) := openFailure s2 3 a 6 (r % 4096)
      .next (freezeCtl s3 c x)

end Sys2Proof.Machine
end

