-- ==== Sys2Proof/Machine/RingTransit.lean ====
section
/-! DEFINITION. Ring frames (R405–R422): arrival, transit by cut-through or through the input buffer, termination, output
selection, and the watermark of R85. -/

namespace Sys2Proof.Machine

open Host

/-! ### The output side (R395, R396, R399, R406) -/

/-- Blocks in a retry buffer (R396). -/
def RingPort.retryBlocks (v : RingPort) : Nat := v.retry.foldl (fun a e => a + e.f.blocks) 0

/-- R396, R399, R406, R428: a port can start frame `f` at once. -/
def State.canSend (s : State) (p : Nat) (f : RFrame) : Bool :=
  let v := s.rport p
  v.link == .up && v.sending.isNone && !v.peerLeaves && v.retryBlocks < 1024 && f.blocks ≤ s.creditsAt p f.pool

/-- R399: the credits of a frame are consumed at once; its blocks take their sequence numbers and enter the retry buffer. -/
def startFrame (s : State) (p : Nat) (f : RFrame) (how : Option Sending) : State :=
  let v := s.rport p
  s.setRport p { v with
    credit := smod 0 v.credit f.pool (· - f.blocks)
    retry := v.retry ++ [{ seq := v.seq, f := f }]
    seq := v.seq + BitVec.ofNat 16 f.blocks
    sending := how }

/-- A whole frame that waited is sent. -/
def sendStored (s : State) (p : Nat) (f : RFrame) : State :=
  let s1 := startFrame s p f none
  let s2 := { s1 with sent := .ring p f.resent f.hdr f.payload (f.trailer.getD []) :: s1.sent }
  if f.inp < 4 then freeBlocks (s2.count (ringCnt f.inp 0x04)) f.inp f.inPool f.blocks
  else if (RHdr.of f.hdr).kind ≠ 0 ∧ !f.resent then s2.count (ringCnt p 0x08)
  else s2

/-! ### The input side -/

/-- R395: a good word ends a run of uncorrectable codewords. -/
def heardGood (s : State) (p : Nat) : State := s.setRport p { s.rport p with uncorr := 0 }

/-- The port receives sequenced blocks. -/
def State.receives (s : State) (p : Nat) : Bool := (s.rport p).link == .up && !(s.rport p).discarding

/-- R395: the frame in progress has been received whole. -/
def finishRx (s : State) (p : Nat) (x : RxFrame) : State :=
  let v := s.rport p
  s.setRport p { v with rx := none, exp := x.seq + BitVec.ofNat 16 x.f.blocks, unacked := v.unacked + (x.f.blocks - 1) }

/-- A stomp made here in the middle of a frame.  How much had been sent is not known to the commands: the bytes sent and their PCRC
are free values. -/
def stompOutput (s : State) (p : Nat) (x : RxFrame) (code : Nat) : State :=
  let out := x.f.out
  let v := s.rport out
  match v.retry.getLast? with
  | none => s
  | some e =>
    let (crc, s1) := s.takeFree
    let (n, s2) := s1.takeFree
    let blocks := 2 + n % (x.f.blocks - 1)
    let trailer := beBytes 4 crc ++ [BitVec.ofNat 8 code] ++ beBytes 2 s.ownNode ++ [0]
    let s3 := s2.setRport out { v with
      retry := v.retry.dropLast ++ [{ e with f := { e.f with blocks := blocks } }]
      seq := e.seq + BitVec.ofNat 16 blocks }
    (endSending s3 out [] trailer).count (ringCnt p 0x2C)

/-- R404, R408, R419: the frame in progress of an input ends before its END: by a forbidden word, or with its link. -/
def abortRx (s : State) (p : Nat) (code : Nat) : State :=
  match (s.rport p).rx with
  | none => s
  | some x =>
    let s1 := s.setRport p { s.rport p with rx := none }
    match x.fate with
    | .forward => freeBlocks (stompOutput s1 p x code) p x.f.inPool x.f.blocks
    | .wait =>
      if code = 2 then freeBlocks s1 p x.f.inPool x.f.blocks
      else
        let (crc, s2) := s1.takeFree
        let f := { x.f with payload := [], trailer := some (beBytes 4 crc ++ [BitVec.ofNat 8 code] ++ beBytes 2 s.ownNode ++ [0]) }
        (s2.setRing { s2.ring with waits := s2.ring.waits ++ [f] }).count (ringCnt p 0x2C)
    | .terminate =>
      let s2 := freeBlocks s1 p x.f.inPool x.f.blocks
      if code = 2 then s2 else s2.count (ringCnt p 0x34)
    | .stomped => freeBlocks s1 p x.f.inPool x.f.blocks
    | .discard => s1

/-- R395, R404: a word that may not stand inside a frame ends the frame in progress with LENGTH; how many of its blocks came is not
known to the commands, so the next sequence number is free among those it can be. -/
def breakFrame (s : State) (p : Nat) : State :=
  match (s.rport p).rx with
  | none => s
  | some x =>
    let (n, s1) := (abortRx s p 4).takeFree
    s1.setRport p { s1.rport p with exp := x.seq + BitVec.ofNat 16 (1 + n % x.f.blocks) }

/-! ### SOF (R405) -/

/-- R400: the destination lies in the topology. -/
def State.inTopology (s : State) (dest : Nat) : Bool :=
  indexOfNode dest 0 < s.dimSize 0 && indexOfNode dest 1 < s.dimSize 1

/-- A frame discarded at its SOF: its blocks pass and its space is free. -/
def discardAtSof (s : State) (p : Nat) (x : RxFrame) : State := finishRx (freeBlocks s p x.f.inPool x.f.blocks) p x

/-- R406: a frame with an output cuts through, or waits whole in its input buffer. -/
def routeFrame (s : State) (p : Nat) (x : RxFrame) : State :=
  match settleOut s x.f with
  | none => finishRx (unreachable s x.f 3) p x
  | some (f, rev) =>
    let s1 := if rev then s.count (ringCnt p 0x40) else s
    if s1.canSend f.out f then
      let s2 := (startFrame s1 f.out f (some (.transit p))).count (ringCnt p 0x04)
      s2.setRport p { s2.rport p with rx := some { x with f := f, fate := .forward } }
    else s1.setRport p { s1.rport p with rx := some { x with f := f, fate := .wait } }

/-- R405: the checks in order. -/
def sofChecks (s : State) (p : Nat) (x : RxFrame) (hdr : BitVec 128) : State :=
  let h := RHdr.of hdr
  let d := dimOf p
  if headerCrc hdr ≠ hdr.extractLsb' 0 16 then (discardAtSof s p x).count (ringCnt p 0x1C)
  else
    let s1 := if x.viol then s.count (fixBase + 0x120) else s
    if h.kind = 3 ∨ hdr.getLsbD 16 ∨ !s1.inTopology h.dest then finishRx (unreachable s1 x.f 4) p x
    else if x.f.ots.toNat + s1.ttl < s1.nowN then (discardAtSof s1 p x).count (ringCnt p 0x20)
    else if h.dest = s1.ownNode then s1.setRport p { s1.rport p with rx := some { x with fate := .terminate } }
    else if h.hops = 255 then (discardAtSof s1 p x).count (ringCnt p 0x24)
    else if s1.skips p (indexOfNode h.dest d) then
      finishRx (unreachable s1 x.f (if indexOfNode h.dest (1 - d) = s1.ownIndex (1 - d) then 1 else 2)) p x
    else
      let (out, h1) := s1.nextHop h p
      routeFrame s1 p { x with f := { x.f with hdr := h1.bits, out := out } }

/-- R405: a SOF arrives with the number of blocks of its frame, itself included. -/
def execSof (p : Fin 4) (flags : Byte) (hdr : BitVec 128) (blocks : BitVec 16) (s : State) : Outcome State Fault Refusal :=
  if !s.receives p then .next s
  else
    let s1 := breakFrame (heardGood s p) p
    let v := s1.rport p
    let h := RHdr.of hdr
    let ots := fullOrigin h.ts s.now
    let f : RFrame :=
      { hdr := hdr, ots := ots, inp := p, out := p, blocks := blocks.toNat, inPool := h.pool, payload := [], trailer := none,
        resent := flags.getLsbD 0 }
    let x : RxFrame := { f := f, fate := .discard, viol := decide (ots < v.wmRx), arrival := s.now, seq := v.exp, stall := none }
    .next (sofChecks (s1.setRport p { v with exp := v.exp + 1, unacked := v.unacked + 1 }) p x hdr)

/-! ### Trailers (R403, R404, R408) -/

/-- A whole frame's bytes: payload and 8-byte trailer. -/
def splitTrailer (data : List Byte) : List Byte × List Byte := (data.take (data.length - 8), data.drop (data.length - 8))

/-- R403: what a trailer says of its payload: good, stomped elsewhere, or wrong. -/
inductive TrailerKind where
  | good | stomped | wrong | long
  deriving DecidableEq, Repr

def State.judge (s : State) (data : List Byte) : TrailerKind :=
  let (payload, t) := splitTrailer data
  let crc := crc32cOf payload
  let pcrc := BitVec.ofNat 32 (beNat (t.take 4))
  if s.ringMtu + 8 < data.length then .long
  else if pcrc = ~~~crc ∨ t.getD 4 0 ≠ 0 then .stomped
  else if pcrc = crc then .good
  else .wrong

/-- R403, R408: the payload and the trailer with which a frame leaves, and whether it was stomped here or before. -/
def State.onward (s : State) (data : List Byte) : List Byte × List Byte × TrailerKind :=
  let (payload, t) := splitTrailer data
  match s.judge data with
  | .good => (payload, t, .good)
  | .stomped => (payload, t, .stomped)
  | .wrong => (payload, s.stompTrailer payload 3, .wrong)
  | .long => (payload.take s.ringMtu, s.stompTrailer (payload.take s.ringMtu) 4, .long)

/-- R408: a stomp is counted where it is made or seen. -/
def countStomp (s : State) (p : Nat) : TrailerKind → State
  | .good => s
  | .stomped => s.count (ringCnt p 0x30)
  | .wrong | .long => s.count (ringCnt p 0x2C)

/-- R408: the end of a frame that forwards, or waits, arrives. -/
def execTransitTrailer (p : Fin 4) (data : List Byte) (s : State) : Outcome State Fault Refusal :=
  match (s.rport p).rx with
  | none => .next s
  | some x =>
    if !s.receives p then .next s
    else
      let s0 := heardGood s p
      let (payload, t, kind) := s0.onward data
      match x.fate with
      | .forward =>
        .next (finishRx (countStomp (endSending (freeBlocks s0 p x.f.inPool x.f.blocks) x.f.out payload t) p kind) p x)
      | .wait =>
        let s1 := s0.setRing { s0.ring with waits := s0.ring.waits ++ [{ x.f with payload := payload, trailer := some t }] }
        .next (finishRx (countStomp s1 p kind) p x)
      | .stomped => .next (finishRx (freeBlocks s0 p x.f.inPool x.f.blocks) p x)
      | .discard => .next (finishRx s0 p x)
      | .terminate => .next s

/-- R408: the input of a frame that cuts through has stalled for longer than UNDERRUN. -/
def execRingUnderrun (p : Fin 4) (s : State) : Outcome State Fault Refusal :=
  match (s.rport p).rx with
  | none => .next s
  | some x =>
    let limit := nsFtu (8 * s.expert ringBase (ringBase + 0x30) 31 24 64)
    if x.fate = .forward ∧ limit < s.elapsed (x.stall.getD x.arrival) then
      let s1 := stompOutput s p x 1
      .next (s1.setRport p { s1.rport p with rx := some { x with fate := .stomped } })
    else .next s

/-! ### Termination (R419–R422) -/

/-- R422: the release floor of a key's domain. -/
def State.domainFloor (s : State) (key : BitVec 24) : Option Time :=
  if (sfind s.fix.domains key.toNat).isSome then s.floorOf key false
  else if s.spilling (dprofOf key) then s.floorOf key true
  else none

/-- R422: a resent frame below its domain's floor. -/
def State.isDuplicate (s : State) (x : RxFrame) : Bool :=
  x.f.resent && (match s.domainFloor (BitVec.ofNat 24 (RHdr.of x.f.hdr).key) with
    | some t => decide (x.f.ots < t)
    | none => false)

/-- R419: a good DATA frame is admitted and goes to the Loupe. -/
def admitRing (s : State) (p : Nat) (x : RxFrame) : State :=
  let h := RHdr.of x.f.hdr
  let k : Pkt := { Pkt.none with
    input := 18 + p, prio := h.cls, ots := x.f.ots, arrival := x.arrival, node := BitVec.ofNat 14 h.src,
    sport := BitVec.ofNat 5 h.sport, port := BitVec.ofNat 5 h.sport, ring := true, viol := x.viol, key := BitVec.ofNat 24 h.key,
    klass := BitVec.ofNat 3 h.cls, held := s.heldFrom s.now, resent := x.f.resent }
  match admitPacket (freeBlocks s p x.f.inPool x.f.blocks) k (s.admitPool 8) x.f.payload with
  | (s1, some m) => offerLoupe (s1.count (ringCnt p 0x00)) m
  | (s1, none) => s1

/-- R419, R422: a whole DATA frame with a good trailer. -/
def terminateData (s : State) (p : Nat) (x : RxFrame) : State :=
  let h := RHdr.of x.f.hdr
  let freed := freeBlocks s p x.f.inPool x.f.blocks
  if !s.gateOpen then freed.count (ringCnt p 0x3C)
  else if s.dev = .frozen then reportDiscard (freed.count (ringCnt p 0x38)) p h x.f.ots 1 0
  else if s.isDuplicate x then freed.count (ringCnt p 0x44)
  else if s.xoff (18 + p) h.cls then s.setRport p { s.rport p with heldBack := (s.rport p).heldBack ++ [x] }
  else admitRing s p x

/-- A terminating frame of one KIND has arrived whole: the frame with its payload, unless it was stomped. -/
def takeWhole (s : State) (p kind : Nat) (data : List Byte) : State × Option RxFrame :=
  match (s.rport p).rx with
  | none => (s, none)
  | some x =>
    if !s.receives p ∨ x.fate ≠ .terminate ∨ (RHdr.of x.f.hdr).kind ≠ kind then (s, none)
    else
      let s1 := finishRx (heardGood s p) p x
      match s.judge data with
      | .good => (s1, some { x with f := { x.f with payload := (splitTrailer data).1 } })
      | _ => ((freeBlocks s1 p x.f.inPool x.f.blocks).count (ringCnt p 0x34), none)

/-- R419: the oldest frame held back whose class is no longer held by XOFF. -/
def State.releasedBack (s : State) (p : Nat) : Option Nat :=
  lpos (fun x => !s.xoff (18 + p) (RHdr.of x.f.hdr).cls) (s.rport p).heldBack

/-- R419: a terminating DATA frame arrives whole, or one that XOFF held back is tried again. -/
def execRingTerminate (p : Fin 4) (arrives : Option (List Byte)) (s : State) : Outcome State Fault Refusal :=
  match arrives with
  | some data =>
    match takeWhole s p 0 data with
    | (s1, some x) => .next (terminateData s1 p x)
    | (s1, none) => .next s1
  | none =>
    let v := s.rport p
    match (s.releasedBack p).bind fun i => (v.heldBack[i]?).map fun x => (i, x) with
    | some (i, x) => .next (terminateData (s.setRport p { v with heldBack := ldrop v.heldBack i }) p x)
    | none => .next s

/-- R417, R420: a CTRL frame for this node. -/
def execCtrlFrame (p : Fin 4) (data : List Byte) (s : State) : Outcome State Fault Refusal :=
  match takeWhole s p 2 data with
  | (s1, some x) => .next (hearCtrl (freeBlocks s1 p x.f.inPool x.f.blocks) p x.f.payload)
  | (s1, none) => .next s1

/-! ### Output selection (R406) -/

/-- R405, R406: a waiting transit frame is beyond TTL. -/
def State.pastTtl (s : State) (f : RFrame) : Bool := f.inp < 4 && f.ots.toNat + s.ttl < s.nowN

/-- R406: frame `a` goes before frame `b`, which stands later in arrival order. -/
def goesBefore (a b : RFrame) : Bool :=
  let ca := (RHdr.of a.hdr).cls
  let cb := (RHdr.of b.hdr).cls
  if ca ≠ cb then cb < ca else if a.ots ≠ b.ots then a.ots < b.ots else a.inp ≤ b.inp

/-- The place of the frame that goes first among those an output can start. -/
def State.firstWaiting (s : State) (p : Nat) : Option (Nat × RFrame) :=
  (s.ring.waits.zipIdx.filter fun e => e.1.out == p && s.canSend p e.1).foldl (fun best e =>
    match best with
    | none => some (e.2, e.1)
    | some b => if goesBefore b.2 e.1 then some b else some (e.2, e.1)) none

/-- R405: a waiting frame is discarded by TTL. -/
def dropTtl (s : State) (f : RFrame) : State := (freeBlocks s f.inp f.inPool f.blocks).count (ringCnt f.inp 0x20)

/-- Select until a frame is found that TTL lets go. -/
def selectFrame (p : Nat) : Nat → State → State
  | 0, s => s
  | n + 1, s =>
    let offer := ((s.rport p).offer).bind fun f => if s.canSend p f then some f else none
    let first := s.firstWaiting p
    let swtFirst := match offer, first with
      | some f, some w => !goesBefore w.2 { f with inp := 5 }
      | some _, none => true
      | none, _ => false
    match offer, first with
    | some f, none => startFrame (s.setRport p { s.rport p with offer := none }) p f (some .own)
    | some f, some (i, w) =>
      if swtFirst then startFrame (s.setRport p { s.rport p with offer := none }) p f (some .own)
      else
        let s1 := s.setRing { s.ring with waits := ldrop s.ring.waits i }
        if s.pastTtl w then selectFrame p n (dropTtl s1 w) else sendStored s1 p w
    | none, some (i, w) =>
      let s1 := s.setRing { s.ring with waits := ldrop s.ring.waits i }
      if s.pastTtl w then selectFrame p n (dropTtl s1 w) else sendStored s1 p w
    | none, none => s

/-- R544: answers of the command executor set out as MGMT frames. -/
def flushAnswers (s : State) : State :=
  s.ring.answers.foldl (fun st a => queueOwn st a.1 1 a.2) (s.setRing { s.ring with answers := [] })

/-- R406: an idle output selects and starts a frame. -/
def execRingOutputSelect (p : Fin 4) (s : State) : Outcome State Fault Refusal :=
  let s1 := flushAnswers s
  .next (selectFrame p (s1.ring.waits.length + 1) s1)

/-- R406: waiting transit frames are rechecked against TTL. -/
def execTransitTtlRecheck (s : State) : Outcome State Fault Refusal :=
  let (late, keep) := s.ring.waits.partition s.pastTtl
  .next (late.foldl dropTtl (s.setRing { s.ring with waits := keep }))

/-- R420: CTRL_GAP has passed for a source: the discards counted since are reported. -/
def execCtrlGapExpire (src : BitVec 14) (s : State) : Outcome State Fault Refusal :=
  match sfind s.ring.gaps src.toNat with
  | none => .next s
  | some g =>
    if s.nowN < g.sent.toNat + s.ctrlGap then .next s
    else
      match g.report with
      | none => .next (s.setRing { s.ring with gaps := sdel s.ring.gaps src.toNat })
      | some (code, reason, f) =>
        let data := s.ctrlPayload code reason g.count (RHdr.of f.hdr) f.ots
        let s1 := s.setRing { s.ring with gaps := sins s.ring.gaps src.toNat { sent := s.now, count := 0, report := none } }
        .next (if src.toNat = s.ownNode then hearCtrl s1 f.inp data else queueOwn s1 src.toNat 2 data)

/-! ### Watermarks (R85) -/

/-- R85: the origin timestamps of the frames held for any ring output. -/
def State.ringHeld (s : State) : List Time :=
  let copyOts := fun (c : SwtCopy) => (sfind s.swt.rels c.rel).map fun x => x.r.ots
  (s.ring.waits.map (·.ots)) ++
    (s.ring.ports.flatMap fun v => v.retry.map (·.f.ots) ++ (v.offer.toList.map (·.ots)) ++
      (v.rx.toList.filterMap fun x => if x.fate = .forward ∨ x.fate = .wait then some x.f.ots else none)) ++
    (s.swt.rels.filterMap fun e => if e.2.todo.any (fun o => outDtype o == 1) then some e.2.r.ots else none) ++
    (s.swt.queues.flatMap fun e => if 18 ≤ s.rootOf e.1 then e.2.frames.filterMap copyOts else [])

/-- R85: the oldest unreleased entry of FABRIC scope. -/
def State.fabricOldest (s : State) : Option Time :=
  oldest (s.fix.entries.filterMap fun e =>
    if e.2.keyed && e.2.st != .tomb && s.fabricScope e.2.key then some e.2.ots else none)

/-- R85, R86: the watermark that a port sends next. -/
def State.nextMark (s : State) (p : Nat) : Time :=
  let margin := s.expert fixBase (fixBase + 0x80) 7 0 64
  let base : Time := BitVec.ofNat 64 (s.nowN - margin)
  let m := match oldest (s.ringHeld ++ s.countedMarks ++ s.fabricOldest.toList) with
    | some t => if t < base then t else base
    | none => base
  laterOf m (s.rport p).wmTx

end Sys2Proof.Machine
end

