-- ==== Sys2Proof/Machine/RingLink.lean ====
section
/-! DEFINITION. Ring links and bypass dies (R391–R399, R413–R417, R423–R430): control words, retry, credits, link states, splicing,
and the sync words on the links (R60, R394). -/

namespace Sys2Proof.Machine

open Host

/-! ### Control words (R394) -/

/-- A control word: CTYPE and the bytes that follow it. -/
def ctlWord (ctype : Nat) (bs : List Byte) : BitVec 144 :=
  BitVec.ofNat 144 (beNat ((BitVec.ofNat 8 ctype :: bs ++ List.replicate 17 0).take 18))

def sendWord (s : State) (p : Nat) (w : BitVec 144) : State := { s with sent := .word p w :: s.sent }

/-- Blocks-received bookkeeping ends with every word that carries ACK or a watermark (R85, R395). -/
def sendIdle (s : State) (p : Nat) : State :=
  let m := s.nextMark p
  let v := s.rport p
  let s1 := s.setRport p { v with wmTx := m, wmAt := s.now, unacked := 0 }
  sendWord s1 p (ctlWord 0x01 (beBytes 8 m.toNat ++ beBytes 2 v.exp.toNat))

/-- R395: a NAK with EXP. -/
def sendNak (s : State) (p : Nat) : State :=
  let v := s.rport p
  (sendWord (s.setRport p { v with nakAt := s.now }) p (ctlWord 0x03 (beBytes 2 v.exp.toNat))).count (ringCnt p 0x14)

/-- R399: a CREDIT word for three pools. -/
def creditWord (s : State) (p : Nat) (m : Time) (ks : List Nat) : BitVec 144 :=
  ctlWord 0x02 (beBytes 8 m.toNat ++ ks.flatMap fun k => beBytes 3 (k * 2 ^ 19 + sget 0 (s.rport p).freed k % 2 ^ 19))

/-- R399: every pool's freed count is reported. -/
def sendCredits (s : State) (p : Nat) : State :=
  let m := s.nextMark p
  let s1 := s.setRport p { s.rport p with wmTx := m, wmAt := s.now, creditAt := s.now }
  (List.range 11).foldl (fun st i => sendWord st p (creditWord s p m [3 * i, 3 * i + 1, min 31 (3 * i + 2)])) s1

/-- R85: no word has carried the watermark for PERIOD. -/
def execWmIdleSend (p : Fin 4) (s : State) : Outcome State Fault Refusal :=
  let v := s.rport p
  let period := nsFtu (4 * s.expert fixBase (fixBase + 0x80) 15 8 25)
  .next (if v.link = .up ∧ period ≤ s.elapsed v.wmAt then sendIdle s p else s)

/-- R395: ACK_INT sequenced blocks have been received since the last ACK. -/
def execAckSend (p : Fin 4) (s : State) : Outcome State Fault Refusal :=
  let v := s.rport p
  .next (if v.link = .up ∧ s.expert ringBase (ringBase + 0x30) 23 16 64 ≤ v.unacked then sendIdle s p else s)

/-- R399: 4 µs since the last report. -/
def execCreditReport (p : Fin 4) (s : State) : Outcome State Fault Refusal :=
  let v := s.rport p
  .next (if v.link = .up ∧ usFtu 4 ≤ s.elapsed v.creditAt then sendCredits s p else s)

/-- R395: 1 µs since the last NAK, and no replay. -/
def execNakRepeat (p : Fin 4) (s : State) : Outcome State Fault Refusal :=
  let v := s.rport p
  .next (if v.link = .up ∧ v.discarding ∧ usFtu 1 ≤ s.elapsed v.nakAt then sendNak s p else s)

/-! ### Link states: HOLD, DOWN, rerouting (R413–R416, R430) -/

/-- DATA of a link event: port and peer. -/
def State.linkData (s : State) (p : Nat) : BitVec 128 := evAt 0 p ||| evAt 2 ((s.rport p).peer.getD 0)

/-- R430: an UP link enters HOLD.  RX_NEXT_OLD of the next HELLO is fixed here (R397). -/
def enterHold (s : State) (p : Nat) : State :=
  let v := s.rport p
  if v.link ≠ .up then s
  else
    let next := match v.rx with
      | some x => x.seq
      | none => v.exp
    let s1 := (abortRx s p 2).setRport p { (abortRx s p 2).rport p with
      link := .hold, hold := some s.now, rxNextOld := next, discarding := false, oldPeer := v.peer, hello := none,
      helloSent := none, resumed := none }
    (s1.logEvent 0x61 1 (s.linkData p)).count (ringCnt p 0x58)

/-- A pool number that stands for space which no credit of the present link covers. -/
def noPool : Nat := 32

/-- R413, R414, R416: a whole frame that needs a dead output goes the other way, or is discarded. -/
def rerouteFrame (s : State) (f : RFrame) : State :=
  match settleOut s f with
  | some (g, true) => (s.setRing { s.ring with waits := s.ring.waits ++ [g] }).count (ringCnt f.countPort 0x40)
  | some (g, false) => s.setRing { s.ring with waits := s.ring.waits ++ [g] }
  | none => unreachable s f 3

/-- A frame that is still arriving and cut through to a dead output waits whole for another. -/
def rerouteArriving (s : State) (i : Nat) : State :=
  match (s.rport i).rx with
  | none => s
  | some x =>
    match settleOut s x.f with
    | some (g, _) => (s.setRport i { s.rport i with rx := some { x with f := { g with resent := true }, fate := .wait } }).count (ringCnt i 0x40)
    | none =>
      (reportDiscard (s.count (ringCnt i 0x28)) i (RHdr.of x.f.hdr) x.f.ots 2 3).setRport i
        { s.rport i with rx := some { x with fate := .stomped } }

/-- The frame of SWT that a dead output holds goes the other way, and SWT's copy is done (R413). -/
def rerouteOwn (s : State) (p : Nat) (f : RFrame) : State :=
  match (s.swtOut (18 + p)).tx with
  | none => s
  | some c =>
    let t := if c.bad then s.stompTrailer f.payload 6 else goodTrailer f.payload
    finishCopy (rerouteFrame s { f with trailer := some t }) (18 + p) c

/-- R413: every frame that needs port `p` is rerouted: its retry buffer with RESENT = 1, the frame it was sending, waiting
frames, and SWT's offer. -/
def rerouteAll (s : State) (p : Nat) : State :=
  let v := s.rport p
  let (mine, others) := s.ring.waits.partition fun f => f.out == p
  let whole := v.retry.filter fun e => e.f.trailer.isSome
  let part := v.retry.find? fun e => e.f.trailer.isNone
  let s1 := (s.setRing { s.ring with waits := others }).setRport p { v with retry := [], sending := none, offer := none }
  let s2 := whole.foldl (fun st e => rerouteFrame st { e.f with resent := true, inPool := noPool }) s1
  let s3 := match v.sending, part with
    | some .own, some e => rerouteOwn s2 p { e.f with resent := true }
    | some (.transit i), _ => rerouteArriving s2 i
    | _, _ => s2
  let s4 := mine.foldl rerouteFrame s3
  match v.offer with
  | some f => rerouteOwn s4 p f
  | none => s4

/-- R413, R430: a link is declared DOWN. -/
def declareDown (s : State) (p : Nat) : State :=
  let v := s.rport p
  let s1 := s.setRport p { v with link := .down, hold := none, counted := false, dead := true }
  rerouteAll (s1.logEvent 0x62 2 (s.linkData p)) p

/-- R430: the HOLD timer expires. -/
def execLinkHoldExpire (p : Fin 4) (s : State) : Outcome State Fault Refusal :=
  match (s.rport p).hold with
  | some t => .next (if usFtu (10 * s.fld (ringBase + 0xC) 31 16) ≤ s.elapsed t then declareDown s p else s)
  | none => .next s

/-- R430: loss of lock. -/
def execLinkLockLoss (p : Fin 4) (s : State) : Outcome State Fault Refusal := .next (enterHold s p)

/-! ### Bypass dies (R423–R429) -/

/-- R429: the ports of a dimension that enters PASS: DOWN, and what needs them is rerouted or discarded. -/
def portToPass (s : State) (p : Nat) : State :=
  let s1 := abortRx s p 2
  let v := s1.rport p
  s1.setRport p { v with
    link := .down, counted := false, dead := false, refused := false, hold := none, hello := none, helloSent := none,
    resumed := none, peerLeaves := false, leaveAcked := false, discarding := false, broken := none, oldPeer := none, peer := none }

/-- R429: the die is released: PASS. -/
def releaseDie (s : State) (d : Nat) : State :=
  let v := s.die d
  let s1 := s.setDie d { v with st := .pass, moving := if v.inPlay || v.moving == some true then some false else none }
  rerouteAll (rerouteAll (portToPass (portToPass s1 (2 * d)) (2 * d + 1)) (2 * d)) (2 * d + 1)

/-- R427: a splice fails with a reason. -/
def spliceFails (s : State) (d reason : Nat) : State :=
  let s1 := ((releaseDie s d).count (ringCnt (2 * d) 0x54)).count (ringCnt (2 * d + 1) 0x54)
  s1.logEvent 0x64 1 (evAt 0 d ||| evAt 1 reason)

/-- R425: what a splice requires. -/
def State.maySplice (s : State) (d : Nat) : Bool := s.dev == .run && 2 ≤ s.dimSize d && s.variant.hasRing

/-- R425, R429, R433: SPLICE: the result is 0 ACCEPTED, 1 BAD_STATE or 2 BUSY. -/
def splice (s : State) (d : Nat) : State × Nat :=
  let v := s.die d
  match v.st with
  | .join | .leave => (s, 2)
  | .play => (s, 1)
  | .pass => if s.maySplice d then (s.setDie d { v with st := .join, moving := some true, since := s.now }, 0) else (s, 1)

/-- R425: at entry to RUN with AUTO_SPLICE. -/
def autoSplice (s : State) : State :=
  if bitAt (s.reg ringBase) 17 then (splice (splice s 0).1 1).1 else s

/-- R428: a LEAVE word on a port. -/
def sendLeave (s : State) (p : Nat) : State :=
  let v := s.rport p
  if v.link = .up then sendWord (s.setRport p { v with leaveAcked := false }) p (ctlWord 0x23 (beBytes 2 s.ownNode)) else s

/-- R428, R433: LEAVE. -/
def leaveRing (s : State) (d : Nat) : State × Nat :=
  let v := s.die d
  match v.st with
  | .join | .leave => (s, 2)
  | .pass => (s, 1)
  | .play => (sendLeave (sendLeave (s.setDie d { v with st := .leave, since := s.now }) (2 * d)) (2 * d + 1), 0)

/-- R428, R429: the die of a dimension in PLAY or LEAVE is released. -/
def passEvent (s : State) (d : Nat) : State := (releaseDie s d).logEvent 0x66 0 (evAt 0 d)

/-- R429, R433: PASS. -/
def passRing (s : State) (d : Nat) : State × Nat :=
  match (s.die d).st with
  | .join => (releaseDie s d, 0)
  | .play => (passEvent s d, 0)
  | .pass | .leave => (s, 1)

/-- R433: an operation of RING_CMD and its result. -/
def ringCommand (s : State) (op : Nat) : State × Nat :=
  match op with
  | 1 => splice s 0
  | 2 => splice s 1
  | 3 => leaveRing s 0
  | 4 => leaveRing s 1
  | 5 => passRing s 0
  | _ => passRing s 1

/-- R423: the die has moved. -/
def execBypassActuated (dim : Fin 2) (s : State) : Outcome State Fault Refusal :=
  let v := s.die dim
  match v.moving with
  | none => .next s
  | some play =>
    let n := v.count + 1
    let worn := 95000000 ≤ n ∧ !v.wear
    let s1 := s.setDie dim { v with inPlay := play, moving := none, count := n, wear := v.wear || decide (95000000 ≤ n) }
    .next (if worn then s1.logEvent 0x67 1 (evAt 0 dim) else s1)

/-- SPLICE_LIMIT in FTU. -/
def State.spliceLimit (s : State) : Nat := usFtu (10 * s.fld (ringBase + 0xC) 15 8)

/-- R427, R428: SPLICE_LIMIT expires; the reason reported, which no REFUSE gave, is a free value. -/
def execSpliceTimeout (dim : Fin 2) (s : State) : Outcome State Fault Refusal :=
  let v := s.die dim
  if s.elapsed v.since < s.spliceLimit then .next s
  else
    match v.st with
    | .join =>
      let (n, s1) := s.takeFree
      .next (spliceFails s1 dim (n % 256))
    | .leave => .next (passEvent s dim)
    | .pass | .play => .next s

/-- R428: the port has nothing left to send, and its neighbour has answered. -/
def State.drained (s : State) (p : Nat) : Bool :=
  let v := s.rport p
  v.retry.isEmpty && v.rx.isNone && v.offer.isNone && !(s.ring.waits.any fun f => f.out == p) && (v.link != .up || v.leaveAcked)

/-- R428: the leaving node has drained. -/
def execLeaveDrainDone (dim : Fin 2) (s : State) : Outcome State Fault Refusal :=
  .next (if (s.die dim).st = .leave ∧ s.drained (2 * dim) ∧ s.drained (2 * dim + 1) then passEvent s dim else s)

/-! ### Training and HELLO (R425, R426, R430) -/

/-- R430: a signal is present and the die connects the port. -/
def State.mayTrain (s : State) (p : Nat) : Bool :=
  let d := s.die (dimOf p)
  d.inPlay && (d.st == .join || d.st == .play) && (s.rport p).link == .down

def execLinkSignalDetect (p : Fin 4) (s : State) : Outcome State Fault Refusal :=
  let v := s.rport p
  .next (if s.mayTrain p ∧ !v.refused then s.setRport p { v with link := .train, since := s.now } else s)

/-- R430: block lock on all lanes: HELLO follows TRAIN, and HOLD. -/
def execTrainLock (p : Fin 4) (s : State) : Outcome State Fault Refusal :=
  let v := s.rport p
  .next (if v.link = .train ∨ v.link = .hold then
      s.setRport p { v with link := .hello, since := s.now, hello := none, helloSent := none, resumed := none }
    else s)

/-- R430: no lock for 100 µs. -/
def execTrainTimeout (p : Fin 4) (s : State) : Outcome State Fault Refusal :=
  let v := s.rport p
  .next (if v.link = .train ∧ usFtu 100 ≤ s.elapsed v.since then s.setRport p { v with since := s.now } else s)

/-- R430: 1 ms after a REFUSE. -/
def execRefuseRetry (p : Fin 4) (s : State) : Outcome State Fault Refusal :=
  let v := s.rport p
  .next (if v.refused ∧ usFtu 1000 ≤ s.elapsed v.since then
      let v1 := { v with refused := false, since := s.now }
      s.setRport p (if s.mayTrain p then { v1 with link := .train } else v1)
    else s)

/-- R430: REFUSE, sent or received, ends HELLO; in JOIN the splice fails (R427). -/
def refusedLink (s : State) (p reason : Nat) (sentIt : Bool) : State :=
  let v := s.rport p
  let s1 := s.setRport p { v with
    link := .down, refused := true, since := s.now, hello := none, helloSent := none, resumed := none
    refSent := if sentIt then reason else v.refSent
    refRecv := if sentIt then v.refRecv else reason }
  let s2 := (s1.count (ringCnt p 0x50)).logEvent 0x63 1 (evAt 0 p ||| evAt 1 reason ||| evAt 2 (b2n sentIt))
  if (s2.die (dimOf p)).st = .join then spliceFails s2 (dimOf p) reason else s2

/-- SYSTEM_ID. -/
def State.systemId (s : State) : Nat := s.fld (ringBase + 4) 31 16

/-- R394: a HELLO's fields. -/
def parseHello (w : BitVec 136) : HelloInfo :=
  let flags := wordByte w 8
  { node := wordBytes w 3 2, port := wordByte w 5, joining := flags.testBit 0, oldValid := flags.testBit 1,
    oldPeer := wordBytes w 9 2, rxNextOld := BitVec.ofNat 16 (wordBytes w 11 2) }

/-- R426: the first check that a HELLO fails. -/
def State.helloReason (s : State) (p : Nat) (w : BitVec 136) : Option Nat :=
  let h := parseHello w
  let d := dimOf p
  let size := s.dimSize d
  let i := indexOfNode h.node d
  let dist := if p % 2 = 0 then ringDist size i (s.ownIndex d) else ringDist size (s.ownIndex d) i
  let st := (s.die d).st
  if wordBytes w 1 2 ≠ s.systemId then some 1
  else if wordByte w 6 ≠ s.dimSize 0 ∨ wordByte w 7 ≠ s.dimSize 1 then some 2
  else if h.port ≠ otherPort p then some 3
  else if h.node = s.ownNode then some 4
  else if 2 ^ 14 ≤ h.node ∨ size ≤ i ∨ indexOfNode h.node (1 - d) ≠ s.ownIndex (1 - d) then some 5
  else if 3 < dist then some 6
  else if st ≠ .join ∧ st ≠ .play then some 7
  else none

/-- HELLOs have gone both ways on a port and passed. -/
def State.greeted (s : State) (p : Nat) : Bool :=
  let v := s.rport p
  v.link == .hello && v.hello.isSome && v.helloSent.isSome

/-- R397: the frames of the retry buffer from a number on. -/
def fromSeq (n : BitVec 16) (l : List RetryFrame) : List RetryFrame :=
  l.filter fun e => n == e.seq || 32768 ≤ (n - e.seq).toNat

/-- R397: what a port sends to its new peer. -/
def RingPort.resume (v : RingPort) (own : Nat) (h : HelloInfo) : List RetryFrame :=
  if h.oldValid ∧ h.oldPeer = own then fromSeq h.rxNextOld v.retry
  else
    match h.joining, v.resumed with
    | true, some (for_, n, true) =>
      if v.oldPeer = some for_ then fromSeq n v.retry else v.retry.map fun e => { e with f := { e.f with resent := true } }
    | _, _ => v.retry.map fun e => { e with f := { e.f with resent := true } }

/-- R397: sequence numbers start again at 0. -/
def renumber : BitVec 16 → List RetryFrame → List RetryFrame
  | _, [] => []
  | n, e :: r => { e with seq := n } :: renumber (n + BitVec.ofNat 16 e.f.blocks) r

/-- R399: full credit for a peer whose pools have the sizes of this node's opposite port. -/
def State.fullCredit (s : State) (p : Nat) : SMap Nat :=
  (List.range 32).foldl (fun m k => sput 0 m k (s.fld (ringBase + 0x100 + 0x80 * otherPort p + 4 * k) 15 0)) []

/-- Frames already held for an input occupy space that the new link's credits do not cover. -/
def uncover (p : Nat) (f : RFrame) : RFrame := if f.inp = p then { f with inPool := noPool } else f

/-- R397, R399, R430: the link comes UP. -/
def goUp (s : State) (p : Nat) (h : HelloInfo) : State :=
  let v := s.rport p
  let retry := renumber 0 (v.resume s.ownNode h)
  let credit := retry.foldl (fun m e => smod 0 m e.f.pool (· - e.f.blocks)) (s.fullCredit p)
  let v1 : RingPort := { v with
    link := .up, counted := true, dead := false, hold := none, refused := false, peer := some h.node, hello := none,
    helloSent := none, resumed := none, peerLeaves := false, leaveAcked := false, exp := 0, discarding := false, uncorr := 0,
    unacked := 0, rx := none, freed := [], creditAt := s.now, heldBack := v.heldBack.map fun x => { x with f := uncover p x.f }
    retry := retry, seq := retry.foldl (fun n e => n + BitVec.ofNat 16 e.f.blocks) 0, acked := 0, naks := 0, credit := credit,
    seen := [] }
  let s1 := (s.setRing { s.ring with waits := s.ring.waits.map (uncover p) }).setRport p v1
  let s2 := retry.foldl (fun st e =>
    match e.f.trailer with
    | some t => { st with sent := .ring p e.f.resent e.f.hdr e.f.payload t :: st.sent }
    | none => st) s1
  let s3 := if retry.isEmpty then s2 else s2.count (ringCnt p 0x18)
  s3.logEvent 0x60 0 (s3.linkData p)

/-- R425: a RESUME to the neighbour on port `p`: where the other neighbour's receiver stood. -/
def sendResume (s : State) (p : Nat) : State :=
  match (s.rport p).hello, (s.rport (otherPort p)).hello with
  | some me, some other =>
    let valid := other.oldValid && other.oldPeer == me.node
    sendWord s p (ctlWord 0x21 (beBytes 2 other.node ++ beBytes 2 other.rxNextOld.toNat ++ [BitVec.ofNat 8 (b2n valid)]))
  | _, _ => s

/-- R430: a greeted port comes UP; a peer that is joining must have sent RESUME. -/
def tryPort (s : State) (p : Nat) : State :=
  match (s.rport p).hello with
  | some h => if s.greeted p ∧ (!h.joining ∨ (s.rport p).resumed.isSome) then goUp s p h else s
  | none => s

/-- R425, R429: both links of a dimension in JOIN are UP. -/
def tryPlay (s : State) (d : Nat) : State :=
  if (s.die d).st = .join ∧ (s.rport (2 * d)).link = .up ∧ (s.rport (2 * d + 1)).link = .up then
    (s.setDie d { s.die d with st := .play }).logEvent 0x65 0 (evAt 0 d)
  else s

/-- Each port of a dimension in JOIN is greeted, or already UP. -/
def State.bothGreeted (s : State) (d : Nat) : Bool :=
  [2 * d, 2 * d + 1].all fun p => s.greeted p || (s.rport p).link == .up

/-- R425, R430: what follows when a HELLO or RESUME has come or gone; `before` says whether both ports of the dimension were greeted
already. -/
def settleLinks (s : State) (p : Nat) (before : Bool) : State :=
  let d := dimOf p
  if (s.die d).st = .join then
    if !s.bothGreeted d then s
    else
      let s1 := if before then s else sendResume (sendResume s (2 * d)) (2 * d + 1)
      tryPlay (tryPort (tryPort s1 (2 * d)) (2 * d + 1)) d
  else tryPort s p

/-- R425, R430: a port in HELLO sends HELLO, until it has received one. -/
def execHelloSend (p : Fin 4) (s : State) : Outcome State Fault Refusal :=
  let v := s.rport p
  let due := match v.helloSent with
    | none => true
    | some t => v.hello.isNone && decide (usFtu 1 ≤ s.elapsed t)
  if v.link ≠ .hello ∨ !due then .next s
  else
    let joining := (s.die (dimOf p)).st == .join
    let flags := b2n joining + 2 * b2n v.oldPeer.isSome
    let w := ctlWord 0x20 (beBytes 2 s.systemId ++ beBytes 2 s.ownNode ++ [BitVec.ofNat 8 p.val, BitVec.ofNat 8 (s.dimSize 0),
      BitVec.ofNat 8 (s.dimSize 1), BitVec.ofNat 8 flags] ++ beBytes 2 (v.oldPeer.getD 0) ++ beBytes 2 v.rxNextOld.toNat)
    let before := s.bothGreeted (dimOf p)
    .next (settleLinks (sendWord (s.setRport p { v with helloSent := some s.now }) p w) p before)

/-- R404: a HELLO, RESUME, REFUSE or LEAVE word stands inside a frame of an UP link. -/
def heardLink (s : State) (p : Nat) : State := if s.receives p then breakFrame (heardGood s p) p else s

/-- R426: a HELLO is accepted, or answered with REFUSE. -/
def execHello (p : Fin 4) (w : BitVec 136) (s : State) : Outcome State Fault Refusal :=
  let s0 := heardLink s p
  let v := s0.rport p
  if v.link ≠ .hello then .next s0
  else
    match s0.helloReason p w with
    | some r => .next (refusedLink (sendWord s0 p (ctlWord 0x22 [BitVec.ofNat 8 r])) p r true)
    | none =>
      let before := s0.bothGreeted (dimOf p)
      .next (settleLinks (s0.setRport p { v with hello := some (parseHello w) }) p before)

/-- R397, R430: a RESUME from a joining neighbour. -/
def execRingResume (p : Fin 4) (w : BitVec 136) (s : State) : Outcome State Fault Refusal :=
  let s0 := heardLink s p
  let v := s0.rport p
  if v.link ≠ .hello then .next s0
  else
    let r := (wordBytes w 1 2 % 2 ^ 14, BitVec.ofNat 16 (wordBytes w 3 2), (wordByte w 5).testBit 0)
    let before := s0.bothGreeted (dimOf p)
    .next (settleLinks (s0.setRport p { v with resumed := some r }) p before)

/-- R426, R427, R430: a REFUSE; a reserved reason counts as NOT_READY. -/
def execRefuse (p : Fin 4) (w : BitVec 136) (s : State) : Outcome State Fault Refusal :=
  let s0 := heardLink s p
  let r := wordByte w 1
  .next (if (s0.rport p).link = .hello then refusedLink s0 p (if 8 ≤ r then 7 else r) false else s0)

/-- R428: the neighbour leaves: LEAVE_ACK, and no further SOF. -/
def execLeave (p : Fin 4) (_w : BitVec 136) (s : State) : Outcome State Fault Refusal :=
  let s0 := heardLink s p
  let v := s0.rport p
  .next (if v.link = .up then sendWord (s0.setRport p { v with peerLeaves := true }) p (ctlWord 0x24 (beBytes 2 s.ownNode)) else s0)

/-- R428: the neighbour has heard LEAVE. -/
def execLeaveAck (p : Fin 4) (_w : BitVec 136) (s : State) : Outcome State Fault Refusal :=
  let v := s.rport p
  .next (if v.link = .up ∧ (s.die (dimOf p)).st = .leave then heardGood (s.setRport p { v with leaveAcked := true }) p else s)

/-! ### Words on an UP link (R394–R399) -/

/-- R395, R396: the peer's next sequence expected: frames acknowledged whole leave the retry buffer. -/
def dropAcked (n : BitVec 16) : List RetryFrame → List RetryFrame
  | [] => []
  | e :: r =>
    let d := (n - e.seq).toNat
    if e.f.trailer.isSome ∧ e.f.blocks ≤ d ∧ d ≤ 32768 then dropAcked n r else e :: r

/-- The acknowledged number advances, within what has been sent. -/
def takeAck (v : RingPort) (n : BitVec 16) : RingPort :=
  if n = v.acked ∨ (v.seq - v.acked).toNat < (n - v.acked).toNat then v
  else { v with acked := n, naks := 0, retry := dropAcked n v.retry }

/-- An UP link hears a word. -/
def onUp (s : State) (p : Nat) (f : State → State) : State := if (s.rport p).link = .up then f (heardGood s p) else s

/-- R394: an IDLE word. -/
def execIdle (p : Fin 4) (w : BitVec 136) (s : State) : Outcome State Fault Refusal :=
  .next (onUp s p fun s =>
    s.setRport p { takeAck (s.rport p) (BitVec.ofNat 16 (wordBytes w 9 2)) with wmRx := BitVec.ofNat 64 (wordBytes w 1 8) })

/-- R399: one entry of a CREDIT word. -/
def takeCredit (v : RingPort) (e : Nat) : RingPort :=
  let k := e / 2 ^ 19 % 32
  let n := e % 2 ^ 19
  let more := (n + 2 ^ 19 - sget 0 v.seen k) % 2 ^ 19
  { v with credit := smod 0 v.credit k (· + more), seen := sput 0 v.seen k n }

/-- R394, R399: a CREDIT word. -/
def execCredit (p : Fin 4) (w : BitVec 136) (s : State) : Outcome State Fault Refusal :=
  .next (onUp s p fun s =>
    let v := { s.rport p with wmRx := BitVec.ofNat 64 (wordBytes w 1 8) }
    s.setRport p ([9, 12, 15].foldl (fun v i => takeCredit v (wordBytes w i 3)) v))

/-- R395, R396: a NAK: REPLAY and the blocks from EXP, or HOLD. -/
def execNak (p : Fin 4) (w : BitVec 136) (s : State) : Outcome State Fault Refusal :=
  .next (onUp s p fun s =>
    let v := s.rport p
    let s1 := s.setRport p { v with naks := v.naks + 1 }
    if s.expert ringBase (ringBase + 0x30) 15 8 8 ≤ v.naks + 1 then enterHold s1 p
    else
      let e := BitVec.ofNat 16 (wordBytes w 1 2)
      let s2 := (sendWord s1 p (ctlWord 0x04 (beBytes 2 e.toNat))).count (ringCnt p 0x18)
      { s2 with sent := .replay p e :: s2.sent })

/-- R395: a REPLAY with EXP ends discarding. -/
def execReplay (p : Fin 4) (w : BitVec 136) (s : State) : Outcome State Fault Refusal :=
  .next (onUp s p fun s =>
    let v := s.rport p
    if v.discarding ∧ BitVec.ofNat 16 (wordBytes w 1 2) = v.exp then
      s.setRport p { v with discarding := false, rx := v.rx.map fun x => { x with stall := none } }
    else s)

/-- R394: a reserved control word. -/
def reservedType (c : Nat) : Bool :=
  !([0x01, 0x02, 0x03, 0x04, 0x08, 0x09, 0x0A, 0x10, 0x20, 0x21, 0x22, 0x23, 0x24].contains c)

def execBadControlWord (p : Fin 4) (w : BitVec 144) (s : State) : Outcome State Fault Refusal :=
  .next (onUp s p fun s => if reservedType (w.toNat / 2 ^ 136) then s.count (ringCnt p 0x4C) else s)

/-! ### Codewords (R391–R393, R395) -/

/-- R391: multiplication by α in GF(2⁵), x⁵ + x² + 1. -/
def mulAlpha (v : BitVec 5) : BitVec 5 := if v.getLsbD 4 then (v <<< 1) ^^^ 0b00101 else v <<< 1

/-- `v` times α to the `n`. -/
def timesAlpha : Nat → BitVec 5 → BitVec 5
  | 0, v => v
  | n + 1, v => timesAlpha n (mulAlpha v)

/-- Symbol `i` of a codeword. -/
def symbolAt (c : BitVec 160) (i : Nat) : BitVec 5 := c.extractLsb' (155 - 5 * i) 5

/-- R392: the syndromes. -/
def syndromes (c : BitVec 160) : BitVec 5 × BitVec 5 :=
  (List.range 30).foldl (fun a i => (a.1 ^^^ symbolAt c i, a.2 ^^^ timesAlpha (i + 1) (symbolAt c i))) (symbolAt c 30, symbolAt c 31)

/-- R392: the data bits of a codeword, and whether a symbol was corrected; none when it is uncorrectable. -/
def decodeWord (c : BitVec 160) : Option (BitVec 150 × Bool) :=
  let data := c.extractLsb' 10 150
  let (s0, s1) := syndromes c
  if s0 = 0 ∨ s1 = 0 then some (data, false)
  else
    match (List.range 30).find? fun j => timesAlpha (j + 1) s0 == s1 with
    | some j => some (data ^^^ (s0.setWidth 150 <<< (145 - 5 * j)), true)
    | none => none

/-- R393: a block that may not be used. -/
def badBlock (d : BitVec 150) : Bool :=
  let e := d.toNat / 2 ^ 144 % 32
  if d.getLsbD 149 then e != 0 else 18 < e

/-- R395: an uncorrectable codeword: the block and those after it are discarded until the replay, and NAK goes at once.  Where in a
frame the error struck is not known to the commands, so EXP is free among the numbers it can be. -/
def lostBlock (s : State) (p : Nat) : State :=
  let v := s.rport p
  let s1 := s.setRport p { v with uncorr := v.uncorr + 1 }
  if 16 ≤ v.uncorr + 1 then enterHold s1 p
  else if v.discarding then s1
  else
    match v.rx with
    | none => sendNak (s1.setRport p { s1.rport p with discarding := true }) p
    | some x =>
      let (n, s2) := s1.takeFree
      sendNak (s2.setRport p { s2.rport p with
        discarding := true, exp := x.seq + BitVec.ofNat 16 (1 + n % (x.f.blocks - 1)), rx := some { x with stall := some s.now } }) p

/-- R392, R393, R395: a codeword with errors. -/
def execFecUncorrectable (p : Fin 4) (c : BitVec 160) (s : State) : Outcome State Fault Refusal :=
  .next (if (s.rport p).link ≠ .up then s
    else
      match decodeWord c with
      | none => lostBlock (s.count (ringCnt p 0x10)) p
      | some (d, fixed) =>
        let s1 := if fixed then s.count (ringCnt p 0x0C) else s
        if badBlock d then lostBlock (s1.count (ringCnt p 0x10)) p else heardGood s1 p)

/-! ### Breaks and the avoid table (R415, R417) -/

/-- R415: no break notice for 10 µs. -/
def execBreakClear (p : Fin 4) (s : State) : Outcome State Fault Refusal :=
  let v := s.rport p
  match v.broken with
  | some (_, t) => .next (if usFtu 10 ≤ s.elapsed t then s.setRport p { v with broken := none } else s)
  | none => .next s

/-- R417: an entry of the avoid table expires after 10 ms. -/
def execAvoidExpire (s : State) : Outcome State Fault Refusal :=
  .next (s.setRing { s.ring with avoid := s.ring.avoid.filter fun e => s.elapsed e.2.2 < usFtu 10000 })

/-! ### Sync words (R60, R394, R415) -/

/-- R394: a SYNC_T word. -/
def execSyncT (p : Fin 4) (w : BitVec 136) (s : State) : Outcome State Fault Refusal := .next (onUp s p fun s => hearSyncT s p w)

/-- R394, R415: a SYNC_A word, with its break notice. -/
def execSyncA (p : Fin 4) (w : BitVec 136) (s : State) : Outcome State Fault Refusal :=
  .next (onUp s p fun s =>
    let n := wordByte w 13
    let s1 := if n.testBit 7 then s.setRport p { s.rport p with broken := some (n % 128, s.now) } else s
    hearSyncA s1 p w)

def execSyncTai (p : Fin 4) (w : BitVec 136) (s : State) : Outcome State Fault Refusal := .next (onUp s p fun s => hearSyncTai s p w)

/-- An interval has passed since a word was last sent. -/
def State.intervalOver (s : State) (us : Nat) : Option Time → Bool
  | none => true
  | some t => decide (usFtu us ≤ s.elapsed t)

/-- R60: SYNC_T goes out. -/
def execSyncTSend (p : Fin 4) (s : State) : Outcome State Fault Refusal :=
  let x := s.syncPort p
  if (s.rport p).link ≠ .up ∨ !s.intervalOver 1 x.sentAt then .next s
  else
    let (t, s1) := s.stamp (pointSyncTx p) s.now
    let rx := match x.rx with
      | some (_, a) => a
      | none => 0
    let w := ctlWord 0x08 (BitVec.ofNat 8 x.txSeq.toNat :: beBytes 8 (x.sentAt.getD 0).toNat ++ beBytes 8 rx.toNat)
    .next (sendWord (setSyncPort s1 p { s1.syncPort p with txSeq := x.txSeq + 1, sentAt := some t }) p w)

/-- R415: the break notice that a port sends: of the dead link on the other port, or the notice received there. -/
def State.breakNotice (s : State) (p : Nat) : Nat :=
  let q := otherPort p
  let size := s.dimSize (dimOf p)
  let own := s.ownIndex (dimOf p)
  if (s.rport q).dead then 128 + (if q % 2 = 1 then own else (own + size - 1) % size) % 128
  else
    match (s.rport q).broken with
    | some (a, _) => 128 + a % 128
    | none => 0

/-- R394: SYNC_A goes out. -/
def execSyncASend (p : Fin 4) (s : State) : Outcome State Fault Refusal :=
  let x := s.syncPort p
  if (s.rport p).link ≠ .up ∨ !s.intervalOver 1 x.lastA then .next s
  else
    let m := if s.tim.st = .master then s.ownTuple else s.tim.master.getD (0, 0)
    let w := ctlWord 0x09 ([BitVec.ofNat 8 s.ownTuple.1] ++ beBytes 2 s.ownNode ++ [BitVec.ofNat 8 m.1] ++ beBytes 2 m.2 ++
      [BitVec.ofNat 8 s.tim.hops] ++ beBytes 2 s.systemId ++ beBytes 2 s.tim.taiGen.toNat ++
      [BitVec.ofNat 8 s.tim.st.code, BitVec.ofNat 8 (s.breakNotice p)])
    .next (sendWord (setSyncPort s p { x with lastA := some s.now }) p w)

/-- R394: SYNC_TAI goes out. -/
def execSyncTaiSend (p : Fin 4) (s : State) : Outcome State Fault Refusal :=
  let x := s.syncPort p
  if (s.rport p).link ≠ .up ∨ !s.intervalOver 10 x.lastTai then .next s
  else
    let w := ctlWord 0x0A (beBytes 2 s.tim.taiGen.toNat ++ beBytes 12 s.tim.taiOffset.toNat)
    .next (sendWord (setSyncPort s p { x with lastTai := some s.now }) p w)

end Sys2Proof.Machine
end

