-- ==== Sys2Proof/Machine/Pwr.lean ====
section
/-! DEFINITION. Power, resets, start-up to running firmware, die temperature, droop, and the slow control inputs (R49, R436,
R521–R525, R559–R584, R598, R630). -/

namespace Sys2Proof.Machine

open Host

def State.setPwr (s : State) (p : Pwr) : State := { s with pwr := p }

def State.setMgt (s : State) (m : Mgt) : State := { s with mgt := m }

/-! ### Resets (R49, R569–R572, R630) -/

/-- R423, R570: the dies spring back to Pass and keep their actuation counts. -/
def springDies (s : State) : List Bypass :=
  s.ring.dims.map fun v => { Bypass.new with inPlay := v.inPlay, moving := if v.inPlay then some false else none, count := v.count, wear := v.wear }

/-- R577: after a reset every input has to be accepted anew from the level at its ball. -/
def resetInputs (m : SMap SlowInput) : SMap SlowInput :=
  m.filterMap fun e => if e.2.raw then some (e.1, { SlowInput.low with raw := true }) else none

/-- R570: what every device reset leaves: all units as at reset, but for the flash, the host, the HBM cells, the dies and the
VDD_IO domain. -/
def clearDevice (s : State) : State :=
  { State.reset with
    variant := s.variant
    dev := .reset
    mems := { Mems.empty with hbm := s.mems.hbm, flash := s.mems.flash, host := s.mems.host }
    ring := { Ring.reset with dims := springDies s }
    hbm := Hbm.reset
    pwr := { Pwr.reset with cause := s.pwr.cause, held := s.pwr.held, por := s.pwr.por, warm := s.pwr.warm, perst0 := s.pwr.perst0,
                            perst1 := s.pwr.perst1, vddIo := s.pwr.vddIo, inputs := resetInputs s.pwr.inputs }
    mgt := { Mgt.reset with bootSel := s.mgt.bootSel, pinSel := s.mgt.pinSel }
    sent := s.sent
    freeCtr := s.freeCtr
    pending := s.pending }

/-- R570, R572: a cold reset, with its cause. -/
def coldReset (s : State) (cause : Nat) : State :=
  let s1 := clearDevice s
  s1.setPwr { s1.pwr with cause := cause }

/-- R570, R572: a warm reset keeps the Negatives and the event log. -/
def warmReset (s : State) (cause : Nat) : State :=
  let s1 := clearDevice s
  let ctls := s.hbm.ctls.map fun v => { HbmCtl.reset with negValid := v.negValid }
  { s1 with
    hbm := { Hbm.reset with ctls := ctls, neg := s.hbm.neg }
    events := { EventLog.reset with log := s.events.log, next := s.events.next, held := s.events.held }
    pwr := { s1.pwr with cause := cause } }

/-- R49, R54: the reset ends and BOOT begins, with fabric time at 0. -/
def enterBoot (s : State) : State :=
  { s with dev := .boot, faultN := true, tim := { s.tim with count := 0, sub := 0, points := [] },
           mgt := { s.mgt with bootProfile := s.mgt.bootSel } }

/-- R630: a Negative is being written. -/
def State.negBusy (s : State) : Bool := s.hbm.ctls.any fun v => v.negBusy.isSome

/-- R49, R630: a warm reset takes effect now, or once the Negatives are complete. -/
def startWarm (s : State) (cause : Nat) : State :=
  if s.negBusy then s.setPwr { s.pwr with warmWaits := some cause } else warmReset s cause

/-- R49, R571: the reset ends once no reset input is asserted and no hold stands. -/
def leaveReset (s : State) : State :=
  if s.dev = .reset ∧ !s.pwr.por ∧ !s.pwr.warm ∧ !s.pwr.held ∧ s.pwr.vddIo then enterBoot s else s

/-- R49, R572: PORESET_N is asserted; one that ends a hold leaves the cause in place. -/
def execPoresetNAssert (s : State) : Outcome State Fault Refusal :=
  let s1 := coldReset s (if s.pwr.held then s.pwr.cause else 1)
  .next (if s.pwr.vddIo then { s1 with pwr := { s1.pwr with por := true, porAt := s1.now } } else s)

/-- R49, R561, R574: PORESET_N is deasserted: PROFILE_SEL is sampled.  A hold ends only after 100 µs of assertion. -/
def execPoresetNDeassert (sel : BitVec 2) (s : State) : Outcome State Fault Refusal :=
  if !s.pwr.por then .next s
  else
    let p := { s.pwr with por := false }
    if s.pwr.held ∧ s.elapsed s.pwr.porAt < usFtu 100 then .next (s.setPwr p)
    else
      let s1 := s.setPwr { p with held := false }
      .next (leaveReset (s1.setMgt { s1.mgt with bootSel := sel, pinSel := sel }))

/-- R49, R571: WARMRST_N is asserted; during a cold reset it adds nothing. -/
def execWarmrstNAssert (s : State) : Outcome State Fault Refusal :=
  let s1 := s.setPwr { s.pwr with warm := true }
  .next (if s.dev = .reset then s1 else startWarm s1 2)

def execWarmrstNDeassert (s : State) : Outcome State Fault Refusal :=
  .next (leaveReset (s.setPwr { s.pwr with warm := false }))

/-- R598: 10 µs after DEVICE_RESET or GLB_RESET.  The pulse of 1 µs is over with this command. -/
def execWarmResetStart (s : State) : Outcome State Fault Refusal :=
  match s.mgt.warmAt with
  | none => .next s
  | some t =>
    .next (if t ≤ s.now ∧ s.dev ≠ .reset then leaveReset (startWarm (s.setMgt { s.mgt with warmAt := none }) 3) else s)

/-- R515, R630: the Negative of a frozen controller is complete; a warm reset that waited for it takes effect. -/
def execNegativeComplete (c : Fin 4) (s : State) : Outcome State Fault Refusal :=
  let v := s.hbmCtl c
  match v.negBusy with
  | none => .next s
  | some _ =>
    let s1 := { s with hbm := { s.hbm with neg := writeBytes s.hbm.neg (65536 * c + 0x28) (leBytes 8 s.nowN) } }
    let s2 := s1.setHbmCtl c { v with negBusy := none, negValid := true }
    .next (match s.pwr.warmWaits with
      | none => s2
      | some cause => if s2.negBusy then s2 else leaveReset (warmReset s2 cause))

/-- R49, R570: PERSTn_N is asserted. -/
def execPerstNAssert (h : Fin 2) (s : State) : Outcome State Fault Refusal :=
  let s1 := resetPort s h
  .next (s1.setPwr (if h.val = 0 then { s1.pwr with perst0 := true } else { s1.pwr with perst1 := true }))

def execPerstNDeassert (h : Fin 2) (s : State) : Outcome State Fault Refusal :=
  .next (s.setPwr (if h.val = 0 then { s.pwr with perst0 := false } else { s.pwr with perst1 := false }))

/-- R569: only the TAP, which holds no state of this model. -/
def execJtagTrst (s : State) : Outcome State Fault Refusal := .next s

/-- R49, R572, R575: power is lost, VDD_IO with it when `vddIo` says so; FAULT_N is then released. -/
def execPowerLoss (vddIo : Bool) (s : State) : Outcome State Fault Refusal :=
  let s1 := coldReset s (if vddIo then 0 else 1)
  .next { s1 with faultN := !vddIo, pwr := { s1.pwr with por := true, porAt := s1.now, held := false, vddIo := s.pwr.vddIo && !vddIo } }

/-- R559, R572, R573: the rails come up with PORESET_N low. -/
def execPowerOn (s : State) : Outcome State Fault Refusal :=
  let s1 := coldReset s (if s.pwr.vddIo then s.pwr.cause else 1)
  .next { s1 with faultN := true, pwr := { s1.pwr with por := true, porAt := s1.now, vddIo := true } }

/-- R561: a brown-out holds the device in RESET. -/
def execBrownout (s : State) : Outcome State Fault Refusal :=
  let s1 := coldReset s 4
  .next (if s.pwr.vddIo then { s1 with pwr := { s1.pwr with held := true } } else s)

/-! ### Boot (R522–R525) -/

/-- Bytes of the flash; an erased byte reads 0xFF (R521). -/
def State.flashBytes (s : State) (a n : Nat) : List Byte := (List.range n).map fun i => sget 0xFF s.mems.flash (a + i)

def State.flashLE (s : State) (a n : Nat) : Nat := leNat (s.flashBytes a n)

/-- What a valid boot header says (R522). -/
structure BootHeader where
  h0 : Bool
  h1 : Bool
  slot : Bool
  fallback : Bool
  seq : Nat
  deriving DecidableEq, Repr

/-- R523: header copy `i`, when it is valid. -/
def State.headerCopy (s : State) (i : Nat) : Option BootHeader :=
  let a := 4096 * i
  let b := fun (k : Nat) => s.flashLE (a + k) 1
  if s.flashLE a 4 = 0x48444C41 ∧ s.flashLE (a + 4) 2 = 1 ∧ b 6 < 2 ∧ b 7 < 2 ∧ b 8 < 2 ∧ b 9 < 2 ∧ s.flashLE (a + 10) 2 = 0
      ∧ (s.flashBytes (a + 16) 4076).all (· == 0) ∧ s.flashLE (a + 4092) 4 = (crc32cOf (s.flashBytes a 4092)).toNat then
    some { h0 := b 6 == 1, h1 := b 7 == 1, slot := b 8 == 1, fallback := b 9 == 1, seq := s.flashLE (a + 12) 4 }
  else none

/-- R523: the copy in force. -/
def State.bootHeader (s : State) : BootHeader :=
  match s.headerCopy 0, s.headerCopy 1 with
  | some x, some y => if x.seq < y.seq then y else x
  | some x, none => x
  | none, some y => y
  | none, none => { h0 := false, h1 := false, slot := false, fallback := true, seq := 0 }

/-- R436, R499, R525: the boot header has been read: port modes are fixed and training starts. -/
def execBootHeaderRead (s : State) : Outcome State Fault Refusal :=
  if s.dev ≠ .boot ∨ s.mgt.boot.headerRead then .next s
  else
    let h := s.bootHeader
    let s1 := s.setHqe { s.hqe with h0Split := h.h0, h1Split := h.h1, portsFixed := true }
    let s2 := s1.setMgt { s1.mgt with fwSlot := h.slot, boot := { s1.mgt.boot with headerRead := true, fallback := h.fallback } }
    .next ([0, 1, 2, 3].foldl (fun (st : State) (c : Nat) =>
      if st.variant.hasStack c then st.setHbmCtl c { st.hbmCtl c with st := .training } else st) s2)

/-- The flash offset of a firmware slot (R521). -/
def slotBase (b : Bool) : Nat := if b then 0x2000000 else 0x1000000

/-- R524: firmware of a slot runs. -/
def runFirmware (s : State) (slot fell : Bool) : State :=
  s.setMgt { s.mgt with fwSlot := slot, fallbackUsed := fell, fwVersion := BitVec.ofNat 32 (s.flashLE (slotBase slot + 4) 4),
                        boot := { s.mgt.boot with firmware := true } }

/-- R49, R524: slots A and B verify or not: the ACTIVE slot runs, else the other when FALLBACK allows it, else the device stays in
BOOT. -/
def execFirmwareVerified (a b : Bool) (s : State) : Outcome State Fault Refusal :=
  if s.dev ≠ .boot ∨ !s.mgt.boot.headerRead ∨ s.mgt.boot.firmware then .next s
  else
    let good := fun (slot : Bool) => if slot then b else a
    let act := s.mgt.fwSlot
    .next (if good act then runFirmware s act false
      else if s.mgt.boot.fallback && good (!act) then runFirmware s (!act) true
      else s)

/-! ### Droop (R563–R565) -/

/-- THRESH in mV. -/
def State.thresh (s : State) : Nat :=
  600 + 5 * s.expert pwrBase (pwrBase + 0x40) 7 0 (if bitAt (s.reg pwrBase) 24 then 23 else 21)
def State.hyst (s : State) : Nat := s.expert pwrBase (pwrBase + 0x40) 15 8 10
def State.holdCycles (s : State) : Nat := s.expert pwrBase (pwrBase + 0x40) 23 16 32

/-- R33, R565: the island is adaptive and present. -/
def State.adaptive (s : State) (n : Nat) : Bool :=
  n != 30 && (s.variant.hasRing || n != 29) && (n < 31 || 34 < n || s.variant.hasStack (n - 31))

def State.island (s : State) (n : Nat) : Island := sget Island.nominal s.pwr.islands n

/-- R563: the level whose threshold the supply is below. -/
def State.levelAt (s : State) (mv : Nat) : Nat :=
  if mv + 40 < s.thresh then 3 else if mv + 20 < s.thresh then 2 else if mv < s.thresh then 1 else 0

/-- An island moves to a level after `cycles` cycles at its present one (R564). -/
def setLevel' (s : State) (n level cycles : Nat) : State :=
  let v := s.island n
  let s1 := if v.level = 0 then s else s.countN (pwrBase + 0x804 + 8 * n) cycles
  let s2 := if v.level = 0 ∧ level ≠ 0 then s1.count (pwrBase + 0x800 + 8 * n) else s1
  s2.setPwr { s2.pwr with islands := sput Island.nominal s2.pwr.islands n { level := level, high := max v.high level } }

/-- R563: the supply falls below the threshold of a higher level. -/
def execStretchLevelUp (n : Fin 38) (mv : BitVec 10) (cycles : Word) (s : State) : Outcome State Fault Refusal :=
  let l := s.levelAt mv.toNat
  .next (if s.dev ≠ .reset ∧ s.adaptive n ∧ (s.island n).level < l then setLevel' s n l cycles.toNat else s)

/-- R563, R567: after HOLD cycles at least HYST above the threshold of its level, an island falls one level; THROTTLE holds
islands 0–16 at level 1. -/
def execStretchLevelDown (n : Fin 38) (mv : BitVec 10) (cycles : Word) (s : State) : Outcome State Fault Refusal :=
  let v := s.island n
  let floor := if s.pwr.throttle ∧ n.val ≤ 16 then 1 else 0
  .next (if floor < v.level ∧ s.holdCycles ≤ cycles.toNat ∧ s.thresh + s.hyst ≤ mv.toNat + 20 * (v.level - 1) then
      setLevel' s n (v.level - 1) cycles.toNat
    else s)

/-! ### Temperature (R567, R568) -/

/-- R547, R567: THERMAL. -/
def thermalEvent (s : State) (source t : Nat) : State := s.logEvent 0xB2 2 (evAt 0 source ||| evAt 1 t)

/-- R568: a thermal trip holds the device in RESET with THERM_ALERT_N asserted. -/
def thermalTrip (s : State) : State :=
  let s1 := coldReset s 5
  { s1 with faultN := true, pwr := { s1.pwr with held := true, alert := true } }

/-- R567: the device enters or leaves THROTTLE. -/
def setThrottle (s : State) (t : Nat) : State :=
  if 105 ≤ t ∧ !s.pwr.throttle then
    (List.range 17).foldl (fun (st : State) (n : Nat) => if (st.island n).level = 0 then setLevel' st n 1 0 else st)
      (s.setPwr { s.pwr with throttle := true })
  else if t ≤ 102 ∧ s.pwr.throttle then s.setPwr { s.pwr with throttle := false }
  else s

/-- An HBM stack at its trip temperature. -/
def State.hotStack (s : State) : Option Nat := (List.range 4).find? fun c => 105 ≤ (s.hbmCtl c).temp

/-- R567: the die sensors are read.  Before a profile sets THERM_WARN it gives no threshold. -/
def execDieTempSample (t : Byte) (s : State) : Outcome State Fault Refusal :=
  if s.dev = .reset then .next s
  else
    let n := t.toNat
    let old := s.pwr.temp
    let warn := s.fld pwrBase 15 8
    let alert := if warn = 0 then false else if warn ≤ n then true else if n + 3 ≤ warn then false else s.pwr.alert
    let s1 := s.setPwr { s.pwr with temp := n, tempHigh := max s.pwr.tempHigh n, alert := alert }
    let s2 := if warn ≠ 0 ∧ warn ≤ n ∧ old < warn then thermalEvent s1 0 n else s1
    let s3 := if 105 ≤ n ∧ old < 105 then thermalEvent s2 0 n else s2
    let s4 := setThrottle s3 n
    .next (if 115 ≤ n then thermalTrip (thermalEvent s4 0 n)
      else match s4.hotStack with
        | some c => thermalTrip (thermalEvent s4 (1 + c) (s4.hbmCtl c).temp)
        | none => s4)

/-! ### Slow control inputs (R576–R581) -/

def State.input (s : State) (i : Nat) : SlowInput := sget SlowInput.low s.pwr.inputs i

def State.setInput (s : State) (i : Nat) (v : SlowInput) : State :=
  s.setPwr { s.pwr with inputs := sput SlowInput.low s.pwr.inputs i v }

/-- R575, R576: the pin is an input: a GPIO may be an output. -/
def State.isInput (s : State) (i : Nat) : Bool := s.dev != .reset && (i < 5 || !bitAt (s.reg (pwrBase + 0x20)) (i - 5))

/-- R576: the active level of an edge input. -/
def State.activeLevel (s : State) (i : Nat) : Bool := i == 4 || !bitAt (s.reg pwrBase) (4 + i)

/-- R577: a level that reverts before 2 µs is a glitch. -/
def execInputChange (i : Fin 21) (level : Bool) (s : State) : Outcome State Fault Refusal :=
  let v := s.input i
  if !s.isInput i ∨ v.raw = level then .next s
  else
    let glitch := level == v.level && decide (s.elapsed v.rawAt < usFtu 2)
    let s1 := s.setInput i { v with raw := level, rawAt := s.now }
    .next (if glitch ∧ i.val < 5 then s1.count (pwrBase + 0xA00 + 4 * i) else s1)

/-- R580: the signed distance of a fabric time from the nearest whole TAI second. -/
def State.ppsError (s : State) (t : Time) : Int :=
  let f := s.taiOf t.toNat % ftuPerSecond
  if 2 * f ≤ ftuPerSecond then (f : Int) else (f : Int) - (ftuPerSecond : Nat)

/-- R65, R580: on a master with SRC = PPS the residual goes to TAI_OFFSET. -/
def ppsAccept (s : State) (t : Time) : State :=
  let s1 := (s.setPwr { s.pwr with ppsRejects := 0, ppsLast := t }).count (pwrBase + 0xA20)
  if s1.tim.st = .master ∧ s1.fld timBase 3 2 = 1 then setTai s1 (s1.tim.taiOffset - BitVec.ofInt 96 (s1.ppsError t)) else s1

/-- R580: an accepted level's rising edge on PPS_IN. -/
def ppsEdge (s : State) (t : Time) : State :=
  let e := s.ppsError t
  let gap : Int := (t.toNat : Int) - s.pwr.ppsLast.toNat - (ftuPerSecond : Nat)
  let follows := s.pwr.ppsRejects ≠ 0 ∧ -160000 ≤ gap ∧ gap ≤ 160000
  let n := if follows then s.pwr.ppsRejects + 1 else 1
  if (-160000 ≤ e ∧ e ≤ 160000) ∨ n = 4 then ppsAccept s t
  else ((s.setPwr { s.pwr with ppsRejects := n, ppsLast := t }).count (pwrBase + 0xA24)).logEvent 0xB1 1 (evAt 8 t.toNat)

/-- R579, R580: an accepted edge to the active level. -/
def activeEdge (s : State) (i : Nat) (t : Time) : State :=
  if i = 4 then ppsEdge s t
  else if i < 4 ∧ bitAt (s.reg pwrBase) i then
    (s.setPwr { s.pwr with pend := s.pwr.pend ||| BitVec.ofNat 4 (2 ^ i) }).count (pwrBase + 0xA30 + 4 * i)
  else s

/-- R577–R579: a level that has held for 2 µs is accepted; an input that was stuck is heard again once it is inactive. -/
def execInputLevelAccept (i : Fin 21) (s : State) : Outcome State Fault Refusal :=
  let v := s.input i
  if !s.isInput i ∨ v.raw = v.level ∨ s.elapsed v.rawAt < usFtu 2 then .next s
  else
    let active := decide (i.val < 5) && v.raw == s.activeLevel i
    let s1 := s.setInput i { v with level := v.raw, edge := v.rawAt, ignored := v.ignored && active }
    .next (if active ∧ !v.ignored then activeEdge s1 i v.rawAt else s1)

/-- R578: an edge input has held its active level for more than 10 ms. -/
def execInputStuck (i : Fin 5) (s : State) : Outcome State Fault Refusal :=
  let v := s.input i
  .next (if s.isInput i ∧ v.level = s.activeLevel i ∧ v.raw = v.level ∧ v.edge ≠ 0 ∧ !v.ignored ∧ usFtu 10000 < s.elapsed v.edge then
      (s.setInput i { v with stuck := true, ignored := true }).logEvent 0xB0 1 (evAt 0 i)
    else s)

/-- R581: TIMEREF_10M fails; the servo's rate stays. -/
def execTimerefLoss (s : State) : Outcome State Fault Refusal :=
  .next (if s.pwr.timerefOk then
      (s.setPwr { s.pwr with timerefOk := false, timerefSince := s.now }).count (pwrBase + 0xA28)
    else s)

/-- R65, R581: after 1 ms of valid edges the reference is used again. -/
def execTimerefRestore (s : State) : Outcome State Fault Refusal :=
  if s.dev = .reset ∨ s.pwr.timerefOk ∨ s.elapsed s.pwr.timerefSince < usFtu 1000 then .next s
  else
    let s1 := s.setPwr { s.pwr with timerefOk := true }
    .next (if s1.tim.st = .master ∧ s1.fld timBase 3 2 = 1 then slewRate s1 else s1)

end Sys2Proof.Machine
end

