-- ==== Sys2Proof/Machine/Portal.lean ====
section
/-! DEFINITION. The Trays portal and the commands of Trays (R330–R347). -/

namespace Sys2Proof.Machine

open Host

/-- The portal's offset in the register space and its thread address (R330). -/
def portalBase : Nat := tryBase + 0x10000
def portalAddr (off : Nat) : Addr := BitVec.ofNat 48 (0x20000000 + tryBase + off)

/-- R330: the offset of an allocation load. -/
def askOffset (ask : AllocReq) (blocking : Bool) : Nat :=
  match ask with
  | .size n => (if blocking then 0x10000 else 0x11000) + 4 * (n / 64 - 1)
  | .pool p => (if blocking then 0x12000 else 0x12020) + 4 * p

/-- R330–R337: an allocation load: the value returns as a load's data does, or the thread waits in kind TRAYS. -/
def portalAlloc (s : State) (t : ThreadId) (ask : AllocReq) (blocking : Bool) (rt : BitVec 4) (upd : Option BaseUpdate) : Result :=
  let off := askOffset ask blocking
  match allocLoad s t ask blocking off with
  | (s1, .value w) => .stay (s1.modThread t fun th => { th with outstanding := some (.status rt w upd) })
  | (s1, .wait) => .stay (s1.modThread t fun th => { th with state := .wait, wait := .trays rt ask off upd })

/-- R331, R339–R341: a portal store. -/
def portalStore (s : State) (t : Nat) (op : TryOp) (h target : Nat) : State :=
  forgetPacket (tryApply (dropUnclaimed s t) op t h target).1 h

/-- R330: what an offset in the portal asks for when loaded, and whether it blocks. -/
def portalAsk (off : Nat) : Option (AllocReq × Bool) :=
  if off < 0x10000 then none
  else if off < 0x11000 then some (.size ((off - 0x10000) / 4 * 64 + 64), true)
  else if off < 0x12000 then some (.size ((off - 0x11000) / 4 * 64 + 64), false)
  else if off < 0x12020 then some (.pool ((off - 0x12000) / 4), true)
  else if off < 0x12040 then some (.pool ((off - 0x12020) / 4), false)
  else none

/-- R330: what an offset in the portal does when stored to: the operation and its target. -/
def portalOp (off : Nat) : Option (TryOp × Nat) :=
  if off = 0x13000 then some (.free, 0)
  else if 0x14000 ≤ off ∧ off < 0x18000 then some (.give, (off - 0x14000) / 4)
  else if 0x18000 ≤ off ∧ off < 0x1C000 then some (.share, (off - 0x18000) / 4)
  else none

/-- R331: a portal access of a thread; below Supervisor it raises ACCESS (R209, R210). -/
def portalRow (t : ThreadId) (off : Nat) (body : Result) (s : State) : Outcome State Fault Refusal :=
  .next (issue s t 0 true true fun th => if th.level = 0 then .raise codeAccess (portalAddr off) else body)

/-- R333: an allocation load by size: u + 1 units of 64 bytes. -/
def execTraysAllocSize (t : ThreadId) (u : BitVec 10) (blocking : Bool) (rt : BitVec 4) (s : State) : Outcome State Fault Refusal :=
  let ask := AllocReq.size (64 * (u.toNat + 1))
  portalRow t (askOffset ask blocking) (portalAlloc s t ask blocking rt none) s

/-- R333: an allocation load from a named pool. -/
def execTraysAllocPool (t : ThreadId) (p : BitVec 3) (blocking : Bool) (rt : BitVec 4) (s : State) : Outcome State Fault Refusal :=
  let ask := AllocReq.pool p.toNat
  portalRow t (askOffset ask blocking) (portalAlloc s t ask blocking rt none) s

/-- R340: FREE. -/
def execFree (t : ThreadId) (h : Word) (s : State) : Outcome State Fault Refusal :=
  portalRow t 0x13000 (.ok (portalStore s t .free h.toNat 0)) s

/-- R341: GIVE. -/
def execGive (t : ThreadId) (whom : BitVec 12) (h : Word) (s : State) : Outcome State Fault Refusal :=
  portalRow t (0x14000 + 4 * whom.toNat) (.ok (portalStore s t .give h.toNat whom.toNat)) s

/-- R341: SHARE. -/
def execShare (t : ThreadId) (whom : BitVec 12) (h : Word) (s : State) : Outcome State Fault Refusal :=
  portalRow t (0x18000 + 4 * whom.toNat) (.ok (portalStore s t .share h.toNat whom.toNat)) s

/-! ### Waits (R338, R339) -/

/-- R338, R350: the age at which a wait is reported, in FTU; a Trays clock is 10 FTU. -/
def State.waitReport (s : State) : Nat := 10 * s.expert tryBase (tryBase + 0x40) 19 0 (1600 * s.fld tryBase 7 0)

/-- R338: a wait reaches WAIT_REPORT. -/
def execTraysWaitReport (t : ThreadId) (s : State) : Outcome State Fault Refusal :=
  match s.trays.waiters.find? fun w => w.req == t.val with
  | none => .next s
  | some w =>
    if w.reported ∨ s.elapsed w.since < s.waitReport then .next s
    else
      let ws := s.trays.waiters.map fun x => if x.req = t.val then { x with reported := true } else x
      .next ((s.setTrays { s.trays with waiters := ws }).count (tryBase + 0x90C))

/-- R338, R339: a withdrawal reaches Trays.  A grant made before it stands; otherwise the request leaves the queue. -/
def execTraysWithdraw (t : ThreadId) (s : State) : Outcome State Fault Refusal :=
  match s.trays.waiters.find? fun w => w.req == t.val with
  | none => .next s
  | some w =>
    match w.wd with
    | .none => .next s
    | .timeout => .next ((endTrayWait s t 0xFFFFFFFC).count (thrBase (clusterOf t) + 0x300C))
    | .deadlock => .next (endTrayWait s t 0xFFFFFFFB)
    | .interrupt => .next (s.setTrays { s.trays with waiters := s.trays.waiters.filter fun x => x.req != t.val })

/-! ### Reclaim and ECC (R346, R347) -/

/-- R347: a scan starts, unless one runs. -/
def startReclaim (s : State) (r : Nat) : State :=
  if s.trays.reclaim.isSome then s else s.setTrays { s.trays with reclaim := some r }

/-- R347: the scan ends: every name of the requester is gone from the pools that are enabled. -/
def execTraysReclaimed (s : State) : Outcome State Fault Refusal :=
  match s.trays.reclaim with
  | none => .next s
  | some r =>
    let (s1, n) := (s.trays.bufs.filter fun e => (s.pool (poolOf e.1)).en).foldl (reclaimBuffer r) (s, 0)
    let s2 := s1.setTrays { s1.trays with reclaim := none, reclaimResult := n }
    let s3 := (s2.pkts.map (·.1)).foldl forgetPacket s2
    .next (s3.logEvent 0x5A 0 (evAt 0 r ||| evAt 4 n))

/-- A free list without one index. -/
def FreeList.without (f : FreeList) (i : Nat) : FreeList :=
  { f with front := f.front.filter (· != i), back := f.back.filter (· != i) }

/-- R346: an uncorrectable error in an ownership entry: the buffer is withdrawn from service. -/
def execTraysEcc (h : Word) (s : State) : Outcome State Fault Refusal :=
  if s.badHandle h.toNat then .next s
  else
    let p := poolOf h.toNat
    let s1 := (s.setFreeList p ((s.freeList p).without (indexIn h.toNat))).setBuf h.toNat .lost
    .next ((s1.count (tryBase + 0x914)).logEvent 0x59 2 (evAt 0 h.toNat))

end Sys2Proof.Machine
end

