-- ==== Sys2Proof/Machine/RegMap.lean ====
section
/-! DEFINITION. The register map (R585): one row for each register or array of registers that a register table assigns, with the
bits that store what is written (RW), the bits whose reset is "profile" (R8), and the ranges outside which a field's value is a
reserved encoding (R11). -/

namespace Sys2Proof.Machine

/-- What a row is beside its stored bits. -/
inductive RegKind where
  | plain
  /-- An event counter: 32 bits, read-only, saturating. -/
  | counter
  /-- A register of the block's expert set (R20–R25). -/
  | expert
  /-- Part `k` of an RW value of `n` registers (R594). -/
  | part (k n : Nat)
  /-- The lowest part of an RO value of `n` registers, whose read latches the others (R595). -/
  | roLow (n : Nat)
  /-- Another part of an RO multi-register value. -/
  | roHigh
  /-- A read clears fields of the register (RC). -/
  | clears
  deriving DecidableEq, Repr

/-- A row of the map: `n1` × `n2` registers from `base`, `s1` and `s2` bytes apart. -/
structure RegRow where
  base : Nat
  n1 : Nat := 1
  s1 : Nat := 4
  n2 : Nat := 1
  s2 : Nat := 4
  kind : RegKind := .plain
  /-- RW bits. -/
  rw : Nat := 0
  /-- RW bits whose reset is "profile". -/
  prof : Nat := 0
  /-- Fields with reserved encodings: high bit, low bit, least and greatest value allowed. -/
  chk : List (Nat × Nat × Nat × Nat) := []
  deriving DecidableEq, Repr

/-- A read-only row. -/
def ro (base : Nat) (n1 : Nat := 1) (s1 : Nat := 4) (n2 : Nat := 1) (s2 : Nat := 4) : RegRow :=
  { base := base, n1 := n1, s1 := s1, n2 := n2, s2 := s2 }

/-- Counters. -/
def cnt (base : Nat) (n1 : Nat := 1) (s1 : Nat := 4) (n2 : Nat := 1) : RegRow :=
  { base := base, n1 := n1, s1 := s1, n2 := n2, s2 := 4, kind := .counter }

/-- A row all of whose RW bits have reset "profile". -/
def pf (base rw : Nat) (chk : List (Nat × Nat × Nat × Nat)) (n1 : Nat := 1) (s1 : Nat := 4) (n2 : Nat := 1) (s2 : Nat := 4) : RegRow :=
  { base := base, n1 := n1, s1 := s1, n2 := n2, s2 := s2, rw := rw, prof := rw, chk := chk }

/-- A row none of whose RW bits has reset "profile". -/
def nv (base rw : Nat) (chk : List (Nat × Nat × Nat × Nat)) (n1 : Nat := 1) (s1 : Nat := 4) : RegRow :=
  { base := base, n1 := n1, s1 := s1, rw := rw, chk := chk }

/-- An expert register. -/
def ex (base rw : Nat) (chk : List (Nat × Nat × Nat × Nat)) (n1 : Nat := 1) (s1 : Nat := 4) : RegRow :=
  { base := base, n1 := n1, s1 := s1, kind := .expert, rw := rw, prof := rw, chk := chk }

/-- A part of an RW multi-register value. -/
def part (base k n rw prof : Nat) : RegRow := { base := base, kind := .part k n, rw := rw, prof := prof }

/-- The parts of an RO 64-bit value. -/
def lo (base : Nat) (n1 : Nat := 1) (s1 : Nat := 4) : RegRow := { base := base, n1 := n1, s1 := s1, kind := .roLow 2 }
def hi (base : Nat) (n1 : Nat := 1) (s1 : Nat := 4) : RegRow := { base := base, n1 := n1, s1 := s1, kind := .roHigh }

/-- Registers with RC fields. -/
def rc (base : Nat) (n1 : Nat := 1) (s1 : Nat := 4) : RegRow := { base := base, n1 := n1, s1 := s1, kind := .clears }

/-- R596. -/
def glbRows : List RegRow :=
  [ro 0x00, ro 0x04, ro 0x08, ro 0x0C, ro 0x10, ro 0x14, lo 0x18, hi 0x1C, ro 0x20, ro 0x24, ro 0x28, ro 0x2C, ro 0x30, ro 0x34,
   nv 0x40 0xFFFFFFFF []]

/-- R582–R584. -/
def pwrRows : List RegRow :=
  [pf 0x00 0x8100FFFF [(15, 8, 85, 105)], ro 0x04, ro 0x08, ro 0x0C, rc 0x10, pf 0x20 0xFFFF [], pf 0x24 0xFFFF [], ro 0x28,
   ex 0x40 0x00FFFFFF [(23, 16, 8, 255), (15, 8, 5, 50), (7, 0, 16, 28)], rc 0x100 38, cnt 0x800 76, cnt 0xA00 5, cnt 0xA20 3,
   cnt 0xA30 4]

/-- R472–R474; the function pages have rows of their own. -/
def hqeRows : List RegRow :=
  [pf 0x00 0x80000000 [], ro 0x04, ro 0x08, ro 0x0C, ro 0x10, ro 0x14, ex 0x40 0xFF00003F [(31, 24, 1, 255), (5, 0, 1, 32)],
   cnt 0x900 10]

/-- R443: a function page. -/
def fnRows : List RegRow :=
  [nv 0x00 0x3 [], ro 0x04, part 0x08 0 2 0xFFFFFFC0 0, part 0x0C 1 2 0xFFFFFFFF 0, part 0x10 0 2 0xFFFFFFC0 0,
   part 0x14 1 2 0xFFFFFFFF 0, part 0x18 0 2 0xFFFFFFC0 0, part 0x1C 1 2 0xFFFFFFFF 0, part 0x20 0 2 0xFFFFF000 0,
   part 0x24 1 2 0xFFFFFFFF 0, part 0x28 0 2 0xFFFFF000 0, part 0x2C 1 2 0xFFFFFFFF 0,
   nv 0x30 0x000FFFFF [(7, 4, 0, 10), (3, 0, 0, 10)], nv 0x34 0x001FFFFF [],
   nv 0x38 0xFFFFFFFF [(31, 16, 1, 100), (15, 0, 100, 10000)], ro 0x3C, ro 0x40]

/-- R491–R493. -/
def ethRows : List RegRow :=
  [pf 0x00 0x80000000 [], ro 0x04, ex 0x40 0xFFFFFF00 [(31, 24, 1, 255), (23, 16, 1, 255), (15, 8, 1, 255)],
   { base := 0x100, n1 := 16, s1 := 0x40, rw := 0xFC003FFF, prof := 0xF0003FFF, chk := [(30, 29, 0, 2), (13, 0, 64, 16383)] },
   ro 0x104 16 0x40, pf 0x108 0xFFFF00FF [(31, 16, 1, 65535)] 16 0x40, ro 0x10C 16 0x40, pf 0x110 0xF000FFFF [] 16 0x40,
   ro 0x114 16 0x40, lo 0x118 16 0x40, hi 0x11C 16 0x40, rc 0x120 16 0x40, cnt 0x800 16 0x80 18]

/-- R432–R435. -/
def ringRows : List RegRow :=
  [pf 0x00 0x8002FFFF [(15, 14, 0, 2), (13, 0, 64, 16383)], pf 0x04 0xFFFF3FFF [], pf 0x08 0xFFFF [(15, 8, 1, 128), (7, 0, 1, 128)],
   pf 0x0C 0xFFFFFF00 [(31, 16, 5, 1000), (15, 8, 10, 250)], pf 0x10 0x80003FFF [] 4, ro 0x20, ro 0x24, ro 0x28, ro 0x2C,
   ex 0x30 0xFFFFFFFF [(31, 24, 1, 255), (23, 16, 8, 255), (15, 8, 1, 255), (7, 0, 1, 255)], ro 0x40 4 0x10, lo 0x44 4 0x10,
   hi 0x48 4 0x10, ro 0x4C 4 0x10, pf 0x100 0xFFFF [] 128, ro 0x300 128, ro 0x500 64, cnt 0x800 4 0x80 23]

/-- R129, R130. -/
def loupeRows : List RegRow :=
  [pf 0x00 0x8001FF00 [(15, 8, 16, 255)], ex 0x04 0x3F0F [(13, 8, 1, 32), (3, 0, 1, 8)], ro 0x08, ro 0x0C, rc 0x10, ro 0x14,
   ro 0x10000 0x4000, ro 0x20000 0x1000, cnt 0x30000 384, cnt 0x31000 384, cnt 0x32000 384]

/-- R170–R172. -/
def clsRows : List RegRow :=
  [pf 0x00 0x8000FF0F [(15, 8, 1, 255), (3, 0, 1, 8)], ro 0x04, part 0x08 0 2 0xFFFF0000 0xFFFF0000, part 0x0C 1 2 0x3F 0x3F,
   pf 0x10 0x1FFFF [(16, 0, 8, 65536)], part 0x14 0 2 0xFFFF0000 0xFFFF0000, part 0x18 1 2 0x3F 0x3F,
   pf 0x1C 0x1FFFFFF [(24, 0, 0, 16777216)], ro 0x20 4 0x10, ro 0x24 4 0x10, lo 0x28 4 0x10, hi 0x2C 4 0x10,
   ex 0x60 0x0FFF003F [(27, 16, 64, 2048), (5, 0, 8, 63)], cnt 0x100 14, cnt 0x200 32]

/-- R201–R203. -/
def dlrRows : List RegRow :=
  [pf 0x00 0x800003FF [(9, 0, 2, 512)], ro 0x04, pf 0x08 0xFFFF1FFF [(12, 0, 64, 4096)], ro 0x0C, pf 0x100 0xFFFFFFFF [] 64,
   pf 0x200 0xFFFFFFFF [] 32, pf 0x300 0x00FFFFFF [(23, 16, 1, 255), (15, 0, 64, 32768)] 16, ex 0x340 0xFFFFFFFF [] 16 8,
   ex 0x344 0xF [(3, 0, 1, 15)] 16 8, ro 0x3C0 16, pf 0x400 0xC001FFFF [(1, 0, 0, 0)] 256, cnt 0x900 10, ro 0x1000 1032]

/-- R92–R95. -/
def fixRows : List RegRow :=
  [pf 0x00 0x8000FFFF [(15, 0, 1, 1000)], pf 0x04 0xFFFFFFFF [(31, 16, 2, 500), (15, 0, 1, 128)], pf 0x08 0x7 [(1, 0, 0, 2)] 16,
   ro 0x48, ro 0x4C 4, ro 0x5C 4, ex 0x80 0xFFFF [(15, 8, 1, 255)], cnt 0x100 10]

/-- R349–R351, R330. -/
def tryRows : List RegRow :=
  [pf 0x00 0x800000FF [(7, 0, 1, 255)], ro 0x04, pf 0x08 0x777 [], ro 0x0C, ro 0x10, ro 0x14,
   ex 0x40 0x010FFFFF [(19, 0, 1600, 1048575)], ro 0x100 8 0x10, ro 0x104 8 0x10, lo 0x108 8 0x10, hi 0x10C 8 0x10, ro 0x180 8 8,
   pf 0x184 0x1FFFFFFF [] 8 8, lo 0x400 16 0x10, hi 0x404 16 0x10, ro 0x408 16 0x10, ro 0x40C 16 0x10, cnt 0x900 6, cnt 0x944 7,
   pf 0x1000 0x1FFFFFFF [] 184, ro 0x1400 184, ro 0x10000 0x3000]

/-- R385–R388. -/
def swtRows : List RegRow :=
  [pf 0x00 0x800000FF [(7, 0, 1, 255)], ro 0x04, ro 0x08, part 0x0C 0 2 0xFFFF0000 0xFFFF0000, part 0x10 1 2 0x3F 0x3F,
   pf 0x14 0x1FFFFF [(20, 0, 0, 1048576)], ex 0x40 0xF0F [(11, 8, 6, 12), (3, 0, 1, 15)],
   pf 0x100 0x7FFF3FFF [(18, 16, 0, 0), (13, 0, 64, 16383)] 22 8, pf 0x104 0x3FF [(9, 0, 0, 1000)] 22 8, pf 0x200 0x17 [] 22,
   pf 0x400 0x4F0FFFFF [] 64 0x20, pf 0x404 0x0FFFFFFF [] 64 0x20 3 8, pf 0x408 0xFFFFF [] 64 0x20 3 8, ro 0x41C 64 0x20,
   cnt 0xC00 6, cnt 0xC44 12, pf 0x1000 0xFFFFFFFF [] 176 8, pf 0x1004 0x8000FFFF [] 176 8, ro 0x1800 176,
   pf 0x4000 0xFFF07FFF [] 1024 0x10, pf 0x4004 0x1FFFF [(16, 0, 0, 80000)] 1024 0x10,
   pf 0x4008 0xFF01FFFF [(16, 0, 0, 80000)] 1024 0x10, ro 0x400C 1024 0x10,
   pf 0x20000 0xFFF07FFF [] 8192 0x10, pf 0x20004 0x1FFFF [(16, 0, 0, 80000)] 8192 0x10,
   pf 0x20008 0xFF01FFFF [(16, 0, 0, 80000)] 8192 0x10, ro 0x2000C 8192 0x10, pf 0x40000 0xFFFFFFFF [] 32768, ro 0x60000 32768,
   pf 0x80000 0xFFF07FFF [] 32768 0x10, pf 0x80004 0x1FFFF [(16, 0, 0, 80000)] 32768 0x10,
   pf 0x80008 0xFF01FFFF [(16, 0, 0, 80000)] 32768 0x10, pf 0x8000C 0x3F0FFFFF [] 32768 0x10]

/-- R519, R520. -/
def hbmRows : List RegRow :=
  [pf 0x00 0x80FFFF80 [(23, 16, 1, 255), (15, 8, 1, 168)], ro 0x04, pf 0x08 0xFFFF [],
   ex 0x40 0xFFFFFFFF [(31, 28, 1, 15), (27, 24, 1, 15), (23, 16, 1, 255), (15, 8, 2, 64), (7, 0, 1, 63)],
   pf 0x100 0xFFFF [(15, 0, 20, 65535)] 6, ro 0x118 2, ro 0x1000 4 0x100, ro 0x1004 4 0x100, ro 0x1008 4 0x100, lo 0x100C 4 0x100,
   hi 0x1010 4 0x100, lo 0x1014 4 0x100, hi 0x1018 4 0x100, cnt 0x2000 4 0x100 11, ro 0x100000 0x10000]

/-- R323–R325. -/
def lckRows : List RegRow :=
  [pf 0x00 0x800000FF [(7, 0, 1, 255)], ro 0x04, ro 0x08, ro 0x0C, ro 0x10, ex 0x40 0x010FFFFF [(19, 0, 64, 1048575)],
   pf 0x100 0xFFFFFFFF [] 512, cnt 0x900 8, lo 0xA00 8 0x10, hi 0xA04 8 0x10, ro 0xA08 8 0x10, ro 0xA0C 8 0x10,
   pf 0x1000 0xFFFFFFFF [] 2048, ro 0x10000 16384, ro 0x20000 4096]

/-- R68, R69. -/
def timRows : List RegRow :=
  [pf 0x00 0x8001FFFF [(3, 2, 0, 2), (1, 0, 0, 2)], ro 0x04, lo 0x08, hi 0x0C, part 0x10 0 3 0xFFFFFFFF 0, part 0x14 1 3 0xFFFFFFFF 0,
   part 0x18 2 3 0xFFFFFFFF 0, ro 0x1C, pf 0x20 0xFFFF [] 4, pf 0x30 0xFFFF [(15, 0, 1, 65535)], rc 0x34,
   ex 0x40 0xFFFFFFFF [(31, 16, 1, 200)]]

/-- R556–R558; no field is profile state (R548). -/
def cshRows : List RegRow :=
  [nv 0x00 0x8001FFFF [], ro 0x04, part 0x08 0 2 0xFFF00000 0, part 0x0C 1 2 0x3F 0, nv 0x10 0x1FFFF [(16, 0, 1, 65536)], lo 0x14,
   hi 0x18, ro 0x1C, nv 0x20 0xE03FFFFF [], nv 0x24 0xFFF0FFFF [], nv 0x28 0x8000FFFF [], nv 0x2C 0x8000FFFF [],
   { base := 0x40, kind := .expert, rw := 0xFF, chk := [(7, 0, 8, 255)] }, nv 0x100 0xE0F000FF [(30, 29, 0, 2)] 256, cnt 0x900 4]

/-- R555. -/
def mgtRows : List RegRow :=
  [{ base := 0x00, rw := 0x3FFFF, prof := 0xFFFF, chk := [(15, 0, 10, 1000)] }, ro 0x04, ro 0x08, lo 0x0C, hi 0x10, ro 0x14,
   ro 0x20000 0x8000]

/-- R285–R287, R302. -/
def thrRows : List RegRow :=
  [pf 0x00 0x80000001 [], ro 0x04, ro 0x08, ex 0x40 0xFFFF [(15, 0, 256, 65535)], ro 0x100 32, ro 0x200 64, pf 0x300 0xFFFFFF [] 16,
   nv 0x400 0x3 [(1, 0, 0, 2)], ro 0x404, ro 0x408, nv 0x40C 0x3F [], nv 0x410 0xFFC1FFFF [(30, 29, 0, 2), (1, 0, 0, 0)] 4,
   ro 0x800 45, ro 0x1000 256, ro 0x2000 152, cnt 0x3000 9]
def cxRows (cores : Nat) : List RegRow :=
  [ro 0x4000 cores 0x10, ro 0x4004 cores 0x10, lo 0x4008 cores 0x10, hi 0x400C cores 0x10, cnt 0x4100 3]

/-- The place of a register in a row, if the row holds it: outer and inner index. -/
def RegRow.place (r : RegRow) (o : Nat) : Option (Nat × Nat) :=
  if o < r.base then none
  else
    let d := o - r.base
    let i := if r.n1 = 1 then 0 else d / r.s1
    let d' := d - i * r.s1
    let j := if r.n2 = 1 then 0 else d' / r.s2
    if i < r.n1 ∧ j < r.n2 ∧ d' = j * r.s2 then some (i, j) else none

/-- The offsets of a row's registers from the base of its block, ascending in the outer index. -/
def RegRow.offsets (r : RegRow) : List Nat :=
  (List.range r.n1).flatMap fun i => (List.range r.n2).map fun j => r.base + i * r.s1 + j * r.s2

/-- The key of a function page: it lies outside the register space, since a page has different offsets on different paths (R586). -/
def pageBase (fn : Nat) : Nat := 0x3000000 + 0x100 * fn

/-- R585: the base of the block that holds an offset, with the block's rows; function pages by their keys. -/
def blockOf (o : Nat) : Nat × List RegRow :=
  if o < 0x100000 then (glbBase, glbRows)
  else if o < 0x200000 then (pwrBase, pwrRows)
  else if o < 0x400000 then (hqeBase, hqeRows)
  else if o < 0x600000 then (ethBase, ethRows)
  else if o < 0x800000 then (ringBase, ringRows)
  else if o < 0xA00000 then (loupeBase, loupeRows)
  else if o < 0xC00000 then (clsBase, clsRows)
  else if o < 0xD00000 then (dlrBase, dlrRows)
  else if o < 0xE00000 then (fixBase, fixRows)
  else if o < 0xF00000 then (tryBase, tryRows)
  else if o < 0x1000000 then (swtBase, swtRows)
  else if o < 0x1400000 then (hbmBase, hbmRows)
  else if o < 0x1500000 then (lckBase, lckRows)
  else if o < 0x1600000 then (timBase, timRows)
  else if o < 0x1700000 then (cshBase, cshRows)
  else if o < 0x1800000 then (mgtBase, mgtRows)
  else if o < 0x2000000 then (o, [])
  else if o < 0x2200000 then (o - o % 0x20000, thrRows ++ cxRows 8)
  else if o < 0x2220000 then (0x2200000, thrRows ++ cxRows 1)
  else if o < 0x3000000 then (o, [])
  else (o - o % 0x100, fnRows)

/-- The row of the register at an offset, and the block's base. -/
def regRow (o : Nat) : Option (Nat × RegRow) :=
  let (b, rows) := blockOf o
  (rows.find? fun r => (r.place (o - b)).isSome).map fun r => (b, r)

/-- R597: the blocks with an expert set, in the order of their GLB_EXPERT bits. -/
def expertBlocks : List (Nat × List RegRow) :=
  [(pwrBase, pwrRows), (hqeBase, hqeRows), (ethBase, ethRows), (ringBase, ringRows), (loupeBase, loupeRows), (clsBase, clsRows),
   (dlrBase, dlrRows), (fixBase, fixRows), (tryBase, tryRows), (swtBase, swtRows), (hbmBase, hbmRows), (lckBase, lckRows),
   (timBase, timRows), (cshBase, cshRows)]

/-- The expert registers of a block by offset. -/
def expertOffsets (b : Nat) (rows : List RegRow) : List Nat :=
  (rows.filter fun r => r.kind == .expert).flatMap fun r => r.offsets.map (b + ·)

end Sys2Proof.Machine
end

