-- ==== Sys2Proof/Machine/RegView.lean ====
section
/-! DEFINITION. What the read-only bits of each register show (R7): one function for each block. -/

namespace Sys2Proof.Machine

/-! ### Helpers -/

/-- A 64-bit value's word `k`. -/
def word64 (v : BitVec 64) (k : Nat) : Word := v.extractLsb' (32 * k) 32

/-- Word `k` of a value. -/
def wordAt (v k : Nat) : Word := slice32 v (32 * k)

/-- Bits gathered from a predicate. -/
def flagBits (n : Nat) (f : Nat → Bool) : Nat := ((List.range n).filter f).foldl (fun a i => a + 2 ^ i) 0

/-- The word of a byte memory at an offset. -/
def memWord (m : SMap Byte) (a : Nat) : Word := BitVec.ofNat 32 (readLE m a 4)

/-- Depth in KiB, rounded up (R385). -/
def kib (n : Nat) : Nat := (n + 1023) / 1024

/-! ### GLB (R596, R597) -/

/-- R4, R596: GLB_FEAT0 of each variant. -/
def feat0 : Variant → Word
  | .fa => 0x000F7FFF
  | .fe => 0x000F7FFD
  | .fx => 0x000F1FFF
  | .fh => 0x00037FFF

/-- The switch that is pending or runs (R532, R600). -/
def State.switchShown (s : State) : Option PendingSwitch :=
  match s.mgt.switch with
  | some x => some x
  | none => s.mgt.swap.map (·.sw)

/-- EXPERT_EN of a block. -/
def State.expertOn (s : State) (b : Nat) : Bool := bitAt (s.reg b) 31

/-- R597: GLB_EXPERT; a fused-off block reads 0. -/
def State.expertSummary (s : State) : Nat :=
  flagBits 14 fun i =>
    let b := (expertBlocks.getD i (0, [])).1
    s.expertOn b && (b != ringBase || s.variant.hasRing)

def State.glbView (s : State) (o : Nat) : Word :=
  match o with
  | 0x00 => 0x16401F9A
  | 0x04 => 0x00000100
  | 0x08 =>
    at' s.dev.code 0 ||| at' (b2n (s.hbm.ctls.any (·.negValid))) 8 ||| at' (b2n s.faultN) 9
      ||| at' (s.hbm.first.getD 0) 16 ||| at' (b2n s.hbm.first.isSome) 19
  | 0x0C =>
    at' s.mgt.bootSel.toNat 0 ||| at' s.mgt.active.toNat 2 ||| at' (b2n s.mgt.applied) 4
      ||| at' (b2n s.switchShown.isSome) 5 ||| at' ((s.switchShown.map fun x => x.profile.toNat).getD 0) 6
      ||| at' s.mgt.pinSel.toNat 8 ||| at' (s.mgt.lastRefuse % 16) 16 ||| at' (min s.mgt.switches 255) 24
  | 0x10 => feat0 s.variant
  | 0x14 => 0x01303310
  | 0x18 => word64 Config.serial 0
  | 0x1C => word64 Config.serial 1
  | 0x20 => s.glb.err.setWidth 32
  | 0x24 => s.glb.errAddr
  | 0x28 => s.glb.errAcc
  | 0x30 => BitVec.ofNat 32 s.expertSummary
  | 0x34 => BitVec.ofNat 32 (flagBits 17 fun c => s.expertOn (thrBase c))
  | _ => 0

/-! ### CLK/PWR (R582) -/

def State.pwrView (s : State) (o : Nat) : Word :=
  match o with
  | 0x04 => at' (s.pwr.cause % 8) 28 ||| at' (b2n s.pwr.throttle) 27 ||| at' (b2n s.pwr.timerefOk) 26
  | 0x08 => BitVec.ofNat 32 (flagBits 5 (fun i => (s.input i).level) + 2 ^ 16 * flagBits 5 fun i => (s.input i).stuck)
  | 0x0C => s.pwr.pend.setWidth 32
  | 0x10 => at' (s.pwr.temp % 256) 0 ||| at' (s.pwr.tempHigh % 256) 8
  | 0x28 => BitVec.ofNat 32 (flagBits 16 fun i => (s.input (5 + i)).level)
  | _ =>
    if 0x100 ≤ o ∧ o < 0x198 then
      let v := s.island ((o - 0x100) / 4)
      at' (v.level % 4) 0 ||| at' (v.high % 4) 2
    else 0

/-! ### HQE (R443, R472) -/

def State.hqeView (s : State) (o : Nat) : Word :=
  match o with
  | 0x04 => BitVec.ofNat 32 s.hqe.rings.length
  | 0x08 => BitVec.ofNat 32 s.hqe.cqs.length
  | 0x0C => at' (b2n s.hqe.h0Split) 0 ||| at' (b2n s.hqe.h1Split) 2
  | 0x10 => BitVec.ofNat 32 (flagBits 32 fun k => (sfind s.hqe.streams k).isSome)
  | 0x14 => BitVec.ofNat 32 (flagBits 32 fun k => (sfind s.hqe.streams (32 + k)).isSome)
  | _ => 0

def State.fnView (s : State) (fn o : Nat) : Word :=
  let f := s.fn fn
  match o with
  | 0x04 => at' (b2n f.active) 0 ||| at' (b2n f.atomic) 1 ||| at' (b2n f.flrBusy) 2 ||| at' (b2n f.adminFault) 3
  | 0x3C => if s.hqe.portsFixed then BitVec.ofNat 32 (s.ringsHeld fn) else 0
  | 0x40 => if s.hqe.portsFixed then BitVec.ofNat 32 (s.cqsHeld fn) else 0
  | _ => 0

/-! ### ETH (R491) -/

def State.ethPortView (s : State) (p o : Nat) : Word :=
  let v := s.ethPort p
  match o with
  | 0x04 => at' v.st.code 0 ||| at' (b2n v.lfault) 3 ||| at' (b2n v.rfault) 4 ||| at' (b2n v.tsqOvf) 7
  | 0x0C => BitVec.ofNat 32 (flagBits 8 (s.pausedBy p) + 256 * v.held.toNat)
  | 0x14 => at' ((s.ethLat p).1 % 65536) 16 ||| at' ((s.ethLat p).2 % 65536) 0
  | 0x18 => word64 v.tsqTime 0
  | 0x1C => word64 v.tsqTime 1
  | 0x20 => (readTsq s p).2
  | _ => 0

def State.ethView (s : State) (o : Nat) : Word :=
  if o = 0 then at' s.eth.modeLo.toNat 0 ||| at' s.eth.modeHi.toNat 2
  else if o = 4 then BitVec.ofNat 32 (flagBits 16 fun p => (s.ethPort p).st == .up)
  else if 0x100 ≤ o ∧ o < 0x500 then s.ethPortView ((o - 0x100) / 0x40) ((o - 0x100) % 0x40)
  else 0

/-! ### RING (R432) -/

def State.ringPortView (s : State) (p o : Nat) : Word :=
  let v := s.rport p
  let b := s.brokenAt (dimOf p)
  match o with
  | 0x0 =>
    at' v.link.code 24 ||| at' (b2n b.isSome) 23 ||| at' (b.getD 0 % 128) 16 ||| at' (s.passed p % 4) 14
      ||| at' (v.peer.getD 0 % 16384) 0
  | 0x4 => word64 v.wmRx 0
  | 0x8 => word64 v.wmRx 1
  | _ => at' (v.refSent % 256) 8 ||| at' (v.refRecv % 256) 0

def State.ringView (s : State) (o : Nat) : Word :=
  if o = 0x24 then
    at' (s.die 0).st.code 0 ||| at' (s.die 1).st.code 2 ||| at' (s.ring.cmdResult % 16) 4 ||| at' (b2n (s.die 0).wear) 8
      ||| at' (b2n (s.die 1).wear) 9
  else if o = 0x28 ∨ o = 0x2C then BitVec.ofNat 32 (min (s.die ((o - 0x28) / 4)).count 0xFFFFFFFF)
  else if 0x40 ≤ o ∧ o < 0x80 then s.ringPortView ((o - 0x40) / 0x10) (o % 0x10)
  else if 0x300 ≤ o ∧ o < 0x500 then BitVec.ofNat 32 (s.creditsAt ((o - 0x300) / 0x80) ((o - 0x300) % 0x80 / 4))
  else if 0x500 ≤ o ∧ o < 0x600 then
    match s.ring.avoid[(o - 0x500) / 4]? with
    | some (d, ord, _) => at' 1 31 ||| at' (b2n ord) 30 ||| at' (d % 16384) 0
    | none => 0
  else 0

/-! ### LOUPE (R129) -/

/-- R111, R114: a control-store word and a jump-table entry as held. -/
def State.microword (s : State) (n : Nat) : BitVec 128 := if n < 0x400 then Config.loupeRomWord n else sget trapWord s.loupe.store n
def State.jumpEntry (s : State) (t e : Nat) : BitVec 16 := if t < 4 then Config.loupeRomTable t e else sget 0 s.loupe.jump (256 * t + e)

def State.loupeView (s : State) (o : Nat) : Word :=
  match o with
  | 0x08 =>
    at' (b2n s.loupe.csUe) 31 ||| at' (b2n s.loupe.loaded) 30 ||| at' ((s.engines 1).length % 64) 16
      ||| at' ((s.engines 0).length % 64) 8
  | 0x0C => at' (s.loupe.csErr % 4096) 0
  | 0x10 => BitVec.ofNat 32 (min s.loupe.csCe 0xFFFFFFFF)
  | 0x14 => 0x00010000
  | _ =>
    if 0x10000 ≤ o ∧ o < 0x20000 then (s.microword ((o - 0x10000) / 16)).extractLsb' (8 * (o % 16)) 32
    else if 0x20000 ≤ o ∧ o < 0x24000 then (s.jumpEntry ((o - 0x20000) / 0x400) ((o - 0x20000) % 0x400 / 4)).setWidth 32
    else 0

/-! ### CLS (R170) -/

/-- R170: STATE of an epoch slot. -/
def FixSlot.code (v : FixSlot) : Nat := if v.live then 2 else if v.pending then 1 else 0

def State.clsView (s : State) (o : Nat) : Word :=
  if o = 4 then
    at' (b2n s.cls.cacheUe) 31 ||| at' ((s.lane 1).length % 4096) 16 ||| at' ((s.fix.slots.filter (·.pending)).length % 8) 12
      ||| at' ((s.lane 0).length % 4096) 0
  else if 0x20 ≤ o ∧ o < 0x60 then
    let v := s.slot ((o - 0x20) / 0x10)
    match o % 0x10 with
    | 0x0 => at' v.code 16 ||| v.number.setWidth 32
    | 0x8 => word64 v.commit 0
    | 0xC => word64 v.commit 1
    | _ => 0
  else 0

/-! ### DLR (R201) -/

def State.dlrView (s : State) (o : Nat) : Word :=
  if o = 0x04 then
    at' (b2n (s.dev == .swap)) 19 ||| at' (b2n s.storeFull) 18 ||| at' (b2n s.delayFull) 17 ||| at' (b2n s.slowFull) 16
      ||| s.dlr.stop.setWidth 32
  else if o = 0x0C then at' (s.delayUsed % 16384) 16 ||| at' (s.storeUsed % 65536) 0
  else if 0x3C0 ≤ o ∧ o < 0x400 then
    let g := (o - 0x3C0) / 4
    at' (b2n (s.stopped g)) 16 ||| at' (s.occupancy g % 65536) 0
  else if 0x1000 ≤ o then
    let t := (o - 0x1000) / 4
    let v := s.tpri t
    at' (b2n v.busy) 14 ||| at' (v.base % 16) 10 ||| at' (v.inh.getD 31 % 32) 5 ||| at' (s.ep t % 32) 0
  else 0

/-! ### FIX (R92) -/

def State.fixView (s : State) (o : Nat) : Word :=
  if o = 0x48 then at' (b2n s.fixFull) 31 ||| at' (s.fix.entries.length % 2 ^ 18) 0
  else if 0x4C ≤ o ∧ o < 0x5C then
    let v := s.slot ((o - 0x4C) / 4)
    at' (b2n v.current) 17 ||| at' (b2n v.live) 16 ||| v.number.setWidth 32
  else if 0x5C ≤ o ∧ o < 0x6C then at' ((s.slot ((o - 0x5C) / 4)).refs % 2 ^ 18) 0
  else 0

/-! ### TRY (R349) -/

def State.poolView (s : State) (p o : Nat) : Word :=
  let v := s.pool p
  match o with
  | 0x0 => at' (b2n v.en) 31 ||| at' (b2n v.hbm) 30 ||| at' (b2n v.fit) 29 ||| at' (v.code % 16) 0
  | 0x4 => at' (v.count % 2 ^ 29) 0
  | 0x8 => wordAt v.base 0
  | _ => wordAt (v.base % 2 ^ 38) 1

def State.elogView (s : State) (e o : Nat) : Word :=
  let v := sget ElogEntry.empty s.trays.elog e
  match o with
  | 0x0 => word64 v.time 0
  | 0x4 => word64 v.time 1
  | 0x8 => BitVec.ofNat 32 v.handle
  | _ => at' (v.req % 4096) 16 ||| at' (v.op % 16) 8 ||| at' (v.reason % 16) 0

def State.tryView (s : State) (o : Nat) : Word :=
  if o = 0x04 then
    at' (b2n s.trays.reclaim.isSome) 31 ||| at' ((s.trays.waiters.filter (·.reported)).length % 2048) 16
      ||| at' (s.trays.waiters.length % 2048) 0
  else if o = 0x10 then BitVec.ofNat 32 s.trays.reclaimResult
  else if o = 0x14 then at' (s.trays.elogIdx % 16) 0
  else if 0x100 ≤ o ∧ o < 0x180 then s.poolView ((o - 0x100) / 0x10) (o % 0x10)
  else if 0x180 ≤ o ∧ o < 0x1C0 then (if o % 8 = 0 then at' (s.freeCount ((o - 0x180) / 8) % 2 ^ 29) 0 else 0)
  else if 0x400 ≤ o ∧ o < 0x500 then s.elogView ((o - 0x400) / 0x10) (o % 0x10)
  else if 0x1400 ≤ o ∧ o < 0x16E0 then at' (s.usage ((o - 0x1400) / 0x20) ((o - 0x1400) % 0x20 / 4) % 2 ^ 29) 0
  else 0

/-! ### SWT (R385) -/

def State.swtView (s : State) (o : Nat) : Word :=
  if o = 0x04 then at' ((s.swt.queues.filter (·.2.trumped)).length % 65536) 0
  else if 0x100 ≤ o ∧ o < 0x1B0 then
    let k := (o - 0x100) / 8
    if o % 8 = 4 ∧ k < 16 then at' (s.swtOut k).st.code 16 else 0
  else if 0x1800 ≤ o ∧ o < 0x1AC0 then
    let i := (o - 0x1800) / 0x20
    let k := (o - 0x1800) % 0x20 / 4
    at' (b2n (s.xoff i k)) 16 ||| at' (kib (s.occ i k) % 65536) 0
  else if 0x60000 ≤ o ∧ o < 0x80000 then
    let q := (o - 0x60000) / 4
    at' (b2n (s.squeue q).trumped) 31 ||| at' (b2n (s.queuePaused q || s.hostPaused q)) 30 ||| at' (kib (s.squeue q).depth % 2 ^ 20) 0
  else 0

/-! ### HBM (R519) -/

def State.hbmCtlView (s : State) (c o : Nat) : Word :=
  let v := s.hbmCtl c
  match o with
  | 0x00 => at' v.st.code 0 ||| at' (v.cause % 16) 8 ||| at' v.causeMask.toNat 16
  | 0x04 => at' (v.temp % 256) 0
  | 0x08 => at' (v.repair % 256) 0
  | 0x0C => wordAt v.ceAddr 0
  | 0x10 => wordAt (v.ceAddr % 2 ^ 38) 1
  | 0x14 => word64 v.ceTime 0
  | 0x18 => word64 v.ceTime 1
  | _ => 0

/-- R502: the class code of a port. -/
def portClass (p : Nat) : Nat := if p < 4 then 0 else if p < 6 then 1 else if p = 6 then 2 else 3

def State.hbmView (s : State) (o : Nat) : Word :=
  if o = 4 then
    at' (flagBits 4 fun c => (s.hbmCtl c).tempHigh) 16 ||| at' (flagBits 4 fun c => (s.hbmCtl c).negValid) 12
      ||| at' (flagBits 4 fun c => (s.hbmCtl c).st == .frozen) 8 ||| at' (flagBits 4 fun c => (s.hbmCtl c).trained) 4
      ||| s.variant.hbmStacks.setWidth 32
  else if 0x100 ≤ o ∧ o < 0x120 then at' (portClass ((o - 0x100) / 4)) 30
  else if 0x1000 ≤ o ∧ o < 0x1400 then s.hbmCtlView ((o - 0x1000) / 0x100) (o % 0x100)
  else if 0x100000 ≤ o then
    let c := (o - 0x100000) / 0x10000
    if (s.hbmCtl c).negValid then memWord s.hbm.neg (o - 0x100000) else 0
  else 0

/-! ### LCK (R323) -/

/-- Requests that wait in the lock unit. -/
def State.lckWaiting (s : State) : Nat :=
  (s.lck.locks.map fun e => e.2.waiters.length).foldl (· + ·) 0 + (s.lck.sems.map fun e => e.2.waiters.length).foldl (· + ·) 0

def State.flogView (s : State) (e o : Nat) : Word :=
  let v := sget FlogEntry.empty s.lck.flog e
  match o with
  | 0x0 => word64 v.time 0
  | 0x4 => word64 v.time 1
  | 0x8 => at' (v.lock % 16384) 0
  | _ => at' (v.forcer % 4096) 16 ||| at' (v.holder % 4096) 0

def State.lckView (s : State) (o : Nat) : Word :=
  if o = 0x04 then at' (s.lckWaiting % 4096) 15 ||| at' (s.lck.locks.length % 2 ^ 15) 0
  else if o = 0x0C then at' (s.lck.forceResult % 16) 0
  else if o = 0x10 then at' (s.lck.flogIdx % 8) 0
  else if 0xA00 ≤ o ∧ o < 0xA80 then s.flogView ((o - 0xA00) / 0x10) (o % 0x10)
  else if 0x10000 ≤ o ∧ o < 0x20000 then
    let n := (o - 0x10000) / 4
    at' (b2n (s.configClass n)) 30 |||
      (match sfind s.lck.locks n with
       | some l => at' 1 31 ||| at' (l.holder % 4096) 18 ||| at' (l.waiters.length % 2048) 7
       | none => 0)
  else if 0x20000 ≤ o then
    let v := s.sem ((o - 0x20000) / 4)
    at' v.count.toNat 16 ||| at' (v.waiters.length % 2048) 5
  else 0

/-! ### TIM (R68) -/

def State.timView (s : State) (o : Nat) : Word :=
  match o with
  | 0x04 =>
    at' s.tim.st.code 0 ||| at' (b2n s.gateOpen) 3 ||| at' ((s.tim.master.map (·.2)).getD 0 % 16384) 4 ||| at' (s.tim.hops % 256) 18
      ||| at' (b2n s.inSpec) 26
  | 0x08 => word64 s.now 0
  | 0x0C => word64 s.now 1
  | 0x1C => s.tim.taiGen.setWidth 32
  | 0x34 => at' (min (sget 0 s.counters (timBase + 0x36)) 65535) 16 ||| at' (min (sget 0 s.counters (timBase + 0x34)) 65535) 0
  | _ => 0

/-! ### CSH and MGT (R555, R556) -/

def State.cshView (s : State) (o : Nat) : Word :=
  match o with
  | 0x04 => at' s.csh.st.code 0
  | 0x14 => wordAt s.csh.wrptr 0
  | 0x18 => wordAt s.csh.wrptr 1
  | 0x1C => s.csh.seq
  | _ => 0

def State.mgtView (s : State) (o : Nat) : Word :=
  match o with
  | 0x04 =>
    at' (b2n s.mgt.fwSlot) 5 ||| at' (b2n s.mgt.fallbackUsed) 4 ||| at' (b2n s.switchShown.isSome) 3
      ||| at' ((s.switchShown.map fun x => x.profile.toNat).getD 0) 0
  | 0x08 => s.mgt.fwVersion
  | 0x0C => word64 ((s.switchShown.map (·.time)).getD 0) 0
  | 0x10 => word64 ((s.switchShown.map (·.time)).getD 0) 1
  | 0x14 => s.events.next
  | _ =>
    if 0x20000 ≤ o then
      let e := sget EventRec.empty s.events.log ((o - 0x20000) / 32)
      BitVec.ofNat 32 (leNat ((e.bytes.drop (o % 32)).take 4))
    else 0

/-! ### Cluster blocks (R285, R302) -/

/-- R285: THR_Tt. -/
def threadView (th : Thread) : Word :=
  let w := if th.state = .wait then th.wait else .none
  at' th.state.code 0 ||| at' w.code 4 ||| at' (w.channel % 32) 8 ||| at' (b2n th.arm) 16 ||| at' (th.children % 16) 17

/-- R285: THR_CHc. -/
def chanView (c : Channel) : Word :=
  at' c.st.code 0 ||| at' (if c.st = .free then 0 else c.owner % 64) 3 ||| at' (c.n % 16) 9 ||| at' (c.receivers.length % 64) 13
    ||| at' (c.claimers.length % 64) 19

/-- R302: a CX_LOG entry. -/
def cxLogView (v : CxLog) (o : Nat) : Word :=
  match o with
  | 0x0 => at' (b2n v.overflow) 17 ||| at' (b2n v.valid) 16 ||| at' v.cxf.toNat 10 ||| at' v.thread.toNat 0
  | 0x4 => v.pc.setWidth 32
  | 0x8 => word64 v.time 0
  | _ => word64 v.time 1

/-- A cluster's threads in HALT. -/
def State.halted (s : State) (c : Nat) : Nat := ((clusterThreads c).filter fun t => (s.thread t).state == .halt).length

def State.thrView (s : State) (c o : Nat) : Word :=
  if o = 0x04 then at' (b2n (s.halted c != 0)) 23 ||| at' (s.halted c % 128) 16 ||| at' (s.dlCount c % 65536) 0
  else if o = 0x08 then BitVec.ofNat 32 (flagBits 32 fun n => (s.chan c n).st == .held)
  else if 0x100 ≤ o ∧ o < 0x180 then chanView (s.chan c ((o - 0x100) / 4))
  else if 0x200 ≤ o ∧ o < 0x300 then
    let k := (o - 0x200) / 4
    if c = 16 ∧ 8 ≤ k then 0 else threadView (s.thread (threadOf c k))
  else if o = 0x408 then (s.cluster c).dbgResult.setWidth 32
  else if 0x800 ≤ o ∧ o < 0x8B4 then windowRead s c (o - 0x800)
  else if 0x1000 ≤ o ∧ o < 0x1400 then
    (if s.dbgMode c = 2 then sget 0 (s.chan c ((o - 0x1000) / 0x20)).words ((o - 0x1000) % 0x20 / 4) else 0)
  else if 0x2000 ≤ o ∧ o < 0x2260 then memWord (s.cluster c).snap (o - 0x2000)
  else if 0x4000 ≤ o ∧ o < 0x4080 then cxLogView (s.cxLog (8 * c + (o - 0x4000) / 0x10)) (o % 0x10)
  else 0

/-! ### The whole map -/

/-- The RO bits of the register at a mapped offset or key, counters apart. -/
def State.view (s : State) (off : Nat) : Word :=
  let b := (blockOf off).1
  let o := off - b
  if 0x3000000 ≤ off then s.fnView ((off - 0x3000000) / 0x100) o
  else if 0x2000000 ≤ off then s.thrView (if b = 0x2200000 then 16 else (b - 0x2000000) / 0x20000) o
  else if b = glbBase then s.glbView o
  else if b = pwrBase then s.pwrView o
  else if b = hqeBase then s.hqeView o
  else if b = ethBase then s.ethView o
  else if b = ringBase then s.ringView o
  else if b = loupeBase then s.loupeView o
  else if b = clsBase then s.clsView o
  else if b = dlrBase then s.dlrView o
  else if b = fixBase then s.fixView o
  else if b = tryBase then s.tryView o
  else if b = swtBase then s.swtView o
  else if b = hbmBase then s.hbmView o
  else if b = lckBase then s.lckView o
  else if b = timBase then s.timView o
  else if b = cshBase then s.cshView o
  else s.mgtView o

end Sys2Proof.Machine
end

