-- ==== Sys2Proof/Machine/Regs.lean ====
section
/-! DEFINITION. Register accesses (R7–R14, R19–R25, R585–R599): the paths, the error flags, the test of reserved encodings, the expert
sets, multi-register values, and what each write or read does. -/

namespace Sys2Proof.Machine

open Host

/-! ### Paths and error capture (R13, R587, R599) -/

/-- R587: the PATH code of an access.  A VF has none of its own; its accesses carry its PF's. -/
def pathCode (s : State) : Path → Nat
  | .pf f => f.val
  | .vf v => s.pfOf (4 + v.val)
  | .mc _ => 4
  | .thread _ => 5
  | .board => 6
  | .fabric => 7

/-- A number for each path, under which pending and latched parts are kept (R594, R595). -/
def pathKey : Path → Nat
  | .pf f => f.val
  | .mc _ => 4
  | .thread _ => 5
  | .board => 6
  | .fabric => 7
  | .vf v => 16 + v.val

/-- The capture of an access: WRITE, PATH and OFFSET (R596). -/
def captureWord (s : State) (p : Path) (off : Nat) (write : Bool) : Word :=
  at' (b2n write) 31 ||| at' (pathCode s p % 16) 27 ||| at' (off % 2 ^ 26) 0

/-- The bits of GLB_ERR. -/
def errUnmapped : BitVec 4 := 1
def errEncoding : BitVec 4 := 2
def errAccess : BitVec 4 := 4
def errOverflow : BitVec 4 := 8

def State.setGlb (s : State) (g : Glb) : State := { s with glb := g }

/-- R13: set UNMAPPED or BAD_ENCODING, with capture of the first access after both were clear. -/
def flagError (s : State) (flag : BitVec 4) (p : Path) (off : Nat) (write : Bool) : State :=
  if s.glb.err &&& (errUnmapped ||| errEncoding) = 0 then
    s.setGlb { s.glb with err := s.glb.err ||| flag, errAddr := captureWord s p off write }
  else s.setGlb { s.glb with err := s.glb.err ||| flag ||| errOverflow }

/-- R599: set BAD_ACCESS, with capture in GLB_ERR_ACC. -/
def flagAccess (s : State) (p : Path) (off : Nat) (write : Bool) : State :=
  if s.glb.err &&& errAccess = 0 then
    s.setGlb { s.glb with err := s.glb.err ||| errAccess, errAcc := captureWord s p (off / 4 * 4) write }
  else s.setGlb { s.glb with err := s.glb.err ||| errAccess ||| errOverflow }

/-! ### What an offset names on a path (R4, R12, R476, R586) -/

/-- What an access reaches. -/
inductive Target where
  /-- A register: its key, the base of its block, its row. -/
  | reg (key base : Nat) (row : RegRow)
  /-- Reads 0 and ignores writes, with no flag. -/
  | dead
  | unmapped
  deriving DecidableEq, Repr

/-- R4, R330, R476: a mapped register that reads 0 and ignores writes: a fused-off unit's, one of a lane that is no port's first, or
the Trays portal, which serves threads only. -/
def State.deadReg (s : State) (b o : Nat) : Bool :=
  (b == ringBase && !s.variant.hasRing)
    || (b == hbmBase && (List.range 4).any fun c => !s.variant.hasStack c &&
        (o / 0x100 == 0x10 + c || o / 0x100 == 0x20 + c || o / 0x10000 == 0x10 + c))
    || (b == ethBase && ((decide (0x100 ≤ o) && decide (o < 0x500) && !s.portActive ((o - 0x100) / 0x40))
        || (decide (0x800 ≤ o) && decide (o < 0x1000) && !s.portActive ((o - 0x800) / 0x80))))
    || (b == tryBase && decide (0x10000 ≤ o))

/-- The register of a function page. -/
def pageTarget (fn o : Nat) : Target :=
  match regRow (pageBase fn + o) with
  | some (b, r) => .reg (pageBase fn + o) b r
  | none => .unmapped

/-- R585, R586: what the offset names on a path. -/
def State.target (s : State) (p : Path) (offset : Nat) : Target :=
  let off := offset / 4 * 4
  match p with
  | .vf v => match (if off < 0x100 then pageTarget (4 + v.val) off else .dead) with
    | .unmapped => .dead
    | t => t
  | _ =>
    let own := match p with
      | .pf f => some f.val
      | _ => none
    if hqeBase + 0x1000 ≤ off ∧ off < hqeBase + 0x1100 then
      match own with
      | some f => pageTarget f (off % 0x100)
      | none => .unmapped
    else if hqeBase + 0x2000 ≤ off ∧ off < hqeBase + 0x2400 then
      let f := (off - (hqeBase + 0x2000)) / 0x100
      if own.isNone && s.pfPresent f then pageTarget f (off % 0x100) else .unmapped
    else match (if off < 0x3000000 then regRow off else none) with
      | none => .unmapped
      | some (b, r) => if s.deadReg b (off - b) then .dead else .reg off b r

/-- R591: the register space answers: the device is out of RESET and the path's function exists. -/
def State.answers (s : State) (p : Path) : Bool :=
  s.dev != .reset &&
    (match p with
     | .pf f => s.pfPresent f.val
     | .vf v => s.fnExists (4 + v.val)
     | _ => true)

/-! ### Stored values -/

/-- Part `k` of the multi-register value at an offset of a function page, and a page with that part replaced. -/
def put64 (v : BitVec 64) (k : Nat) (w : Word) : BitVec 64 := if k = 0 then v.extractLsb' 32 32 ++ w else w ++ v.setWidth 32

/-- The RW bits that a register holds. -/
def State.stored (s : State) (key : Nat) : Word :=
  if 0x3000000 ≤ key then
    let f := s.fn ((key - 0x3000000) / 0x100)
    match key % 0x100 with
    | 0x00 => f.ctrl
    | 0x08 => word64 f.db 0
    | 0x0C => word64 f.db 1
    | 0x10 => word64 f.cqdb 0
    | 0x14 => word64 f.cqdb 1
    | 0x18 => word64 f.sum 0
    | 0x1C => word64 f.sum 1
    | 0x20 => word64 f.admin 0
    | 0x24 => word64 f.admin 1
    | 0x28 => word64 f.acq 0
    | 0x2C => word64 f.acq 1
    | 0x30 => f.adminCfg
    | 0x34 => f.pasid
    | 0x38 => f.poll
    | _ => 0
  else if key = timBase + 0x10 then s.tim.taiOffset.setWidth 32
  else if key = timBase + 0x14 then s.tim.taiOffset.extractLsb' 32 32
  else if key = timBase + 0x18 then s.tim.taiOffset.extractLsb' 64 32
  else s.reg key

/-- Store the RW bits of a register other than FN_CTRL and TAI_OFFSET. -/
def State.putStored (s : State) (key : Nat) (w : Word) : State :=
  if 0x3000000 ≤ key then
    let fn := (key - 0x3000000) / 0x100
    let f := s.fn fn
    s.setFn fn (match key % 0x100 with
      | 0x08 => { f with db := put64 f.db 0 w }
      | 0x0C => { f with db := put64 f.db 1 w }
      | 0x10 => { f with cqdb := put64 f.cqdb 0 w }
      | 0x14 => { f with cqdb := put64 f.cqdb 1 w }
      | 0x18 => { f with sum := put64 f.sum 0 w }
      | 0x1C => { f with sum := put64 f.sum 1 w }
      | 0x20 => { f with admin := put64 f.admin 0 w }
      | 0x24 => { f with admin := put64 f.admin 1 w }
      | 0x28 => { f with acq := put64 f.acq 0 w }
      | 0x2C => { f with acq := put64 f.acq 1 w }
      | 0x30 => { f with adminCfg := w }
      | 0x34 => { f with pasid := w }
      | 0x38 => { f with poll := w }
      | _ => f)
  else s.setReg key w

/-- The RW mask of a register: QBASE is absent from outputs 16 and 17, HOLD from outputs from 16 on (R385). -/
def rwMask (b o : Nat) (r : RegRow) : Word :=
  if b = swtBase ∧ 0x100 ≤ o ∧ o < 0x1B0 then
    let k := (o - 0x100) / 8
    if o % 8 = 0 then (if k = 16 ∨ k = 17 then 0x3FFF else 0x7FFF3FFF) else if k < 16 then 0x3FF else 0
  else BitVec.ofNat 32 r.rw

/-! ### Expert sets (R19–R25, R69, R94, …) -/

/-- The value that an expert register derives from the basic settings. -/
def State.derived (s : State) (key : Nat) : Word :=
  let b := (blockOf key).1
  if 0x2000000 ≤ key then 4096
  else if b = pwrBase then at' 32 16 ||| at' 10 8 ||| at' (if bitAt (s.reg pwrBase) 24 then 23 else 21) 0
  else if b = hqeBase then at' 8 24 ||| at' 32 0
  else if b = ethBase then at' 10 24 ||| at' 10 16 ||| at' 30 8
  else if b = ringBase then at' 64 24 ||| at' 64 16 ||| at' 8 8 ||| at' 10 0
  else if b = loupeBase then at' 32 8 ||| at' 4 0
  else if b = clsBase then at' 2048 16 ||| at' 32 0
  else if b = dlrBase then
    let g := (key - (dlrBase + 0x340)) / 8
    if key % 8 = 0 then at' (s.quota g / 2) 16 ||| at' (s.quota g - s.quota g / 8) 0 else 2
  else if b = fixBase then at' 25 8 ||| at' 64 0
  else if b = tryBase then at' (1600 * s.fld tryBase 7 0) 0
  else if b = swtBase then at' 8 8 ||| at' 2 0
  else if b = hbmBase then at' 8 28 ||| at' 12 24 ||| at' 16 16 ||| at' 48 8 ||| at' 16 0
  else if b = lckBase then at' (1600 * s.fld lckBase 7 0) 0
  else if b = timBase then
    if s.follower ∨ s.fld timBase 3 2 = 0 then at' 200 16 ||| at' 12 8 ||| at' 4 0 else at' 200 16 ||| at' 16 8 ||| at' 8 0
  else at' 200 0

/-- R22, R23: EXPERT_EN of the block at `b` has changed: its expert registers take the derived values, or lose the written ones. -/
def expertChanged (s : State) (b : Nat) (on : Bool) : State :=
  (expertOffsets b (blockOf b).2).foldl (fun st k => st.setReg k (if on then s.derived k else 0)) s

/-- R23, R597: withdraw the expert values of a block. -/
def withdrawExpert (s : State) (b : Nat) : State :=
  if s.expertOn b then expertChanged (s.setReg b (s.reg b &&& 0x7FFFFFFF)) b false else s

/-! ### Reserved encodings (R11, R629) -/

/-- The write changes the field. -/
def changed (old new : Word) (hi lo : Nat) : Bool := bits old hi lo != bits new hi lo

/-- A changed field whose new value is out of its range. -/
def fieldBad (old new : Word) : Nat × Nat × Nat × Nat → Bool
  | (hi, lo, least, most) => changed old new hi lo && (decide (bits new hi lo < least) || decide (most < bits new hi lo))

/-- R178: the write places a core in a second group. -/
def coresBad (s : State) (o : Nat) (old new : Word) : Bool :=
  let g := (o - 0x100) / 0x10
  (List.range 16).any fun g' => g' != g && (new &&& ~~~old &&& s.reg (dlrBase + 0x100 + 0x10 * g' + o % 0x10)) != 0

/-- R202: LOW < HIGH ≤ QUOTA of a group, in a state that holds the written value. -/
def marksBad (s : State) (g : Nat) : Bool := decide (s.highMark g ≤ s.lowMark g) || decide (s.quota g < s.highMark g)

def dlrBad (s s' : State) (o : Nat) (old new : Word) : Bool :=
  if 0x100 ≤ o ∧ o < 0x200 then coresBad s o old new
  else if 0x300 ≤ o ∧ o < 0x340 then s.expertOn dlrBase && changed old new 15 0 && marksBad s' ((o - 0x300) / 4)
  else if 0x340 ≤ o ∧ o < 0x3C0 ∧ o % 8 = 0 then old != new && marksBad s' ((o - 0x340) / 8)
  else false

/-- R307: the write changes the class of a held lock. -/
def classBad (s : State) (o : Nat) (old new : Word) : Bool :=
  decide (0x100 ≤ o) && decide (o < 0x900) &&
    s.lck.locks.any fun e => e.1 / 32 == (o - 0x100) / 4 && bitAt (old ^^^ new) (e.1 % 32)

/-- R356: the thresholds of an input and priority. -/
def thresholdsBad (s' : State) (i k : Nat) (th limit : Bool) : Bool :=
  let xon := s'.fld (thOff i k) 31 16
  let xoff := s'.fld (thOff i k) 15 0
  ((th || limit) && decide (s'.fld (limOff i k) 15 0 < xoff)) || (th && decide (xoff ≤ xon) && !(xon == 0 && xoff == 0))

/-- R368: the drop profile `p` after a write at offset `d` of it. -/
def redBad (s' : State) (p d : Nat) (old new : Word) : Bool :=
  let base := swtBase + 0x400 + 0x20 * p
  let limit := s'.fld base 19 0
  let mn := fun c => s'.fld (base + 4 + 8 * c) 19 0
  let mx := fun c => s'.fld (base + 8 + 8 * c) 19 0
  if d = 0 then changed old new 19 0 && (List.range 3).any fun c => decide (limit < mx c)
  else
    let c := (d - 4) / 8
    changed old new 19 0 && (decide (mx c ≤ mn c) || (d % 8 == 0 && decide (limit < mx c)))

/-- Nodes of a level below which a node may stand, and the level above. -/
def childLevel : SwtLevel → Option SwtLevel
  | .group => some .sub
  | .sub => some .queue
  | .queue => none

/-- A node has an enabled child. -/
def State.enabledChild (s : State) (l : SwtLevel) (n : Nat) : Bool :=
  match childLevel l with
  | none => false
  | some c =>
    let base := nodeOff c 0 0
    let count := match c with
      | .group => 1024
      | .sub => 8192
      | .queue => 32768
    s.regs.any fun e => decide (base ≤ e.1) && decide (e.1 < base + 0x10 * count) && e.1 % 0x10 == base % 0x10 && bitAt e.2 31 &&
      bits e.2 14 0 == n

/-- R375: a node after a write of its word `w`. -/
def nodeBad (s s' : State) (l : SwtLevel) (n w : Nat) (old new : Word) : Bool :=
  let full := l == .queue && !(s.squeue n).frames.isEmpty
  if w = 0 then
    let en := bitAt new 31
    let parent := bits new 14 0
    let moved := changed old new 31 31 || changed old new 14 0
    let parentBad := match l with
      | .group => decide (22 ≤ parent)
      | .sub => decide (1024 ≤ parent) || !s.nodeEn .group parent
      | .queue => decide (8192 ≤ parent) || !s.nodeEn .sub parent
    (en && (changed old new 31 31 || changed old new 27 20) && bits new 27 20 == 0)
      || (en && moved && parentBad)
      || (bitAt old 31 && !en && (full || s.enabledChild l n))
      || (changed old new 14 0 && (full || s.enabledChild l n))
  else
    let mn := s'.fld (nodeOff l n 1) 16 0
    let mx := s'.fld (nodeOff l n 2) 16 0
    let rates := (w == 1 || w == 2) && changed old new 16 0
    (rates && mx != 0 && decide (mx < mn))
      || ((rates || (w == 2 && changed old new 31 24)) && s'.fld (nodeOff l n 2) 31 24 == 0 && (mn != 0 || mx != 0))

def swtBad (s s' : State) (o : Nat) (old new : Word) : Bool :=
  if 0x1000 ≤ o ∧ o < 0x1580 then
    let i := (o - 0x1000) / 0x40
    let k := (o - 0x1000) % 0x40 / 8
    if o % 8 = 0 then thresholdsBad s' i k (old != new) (changed old new 15 0)
    else thresholdsBad s' i k false (changed old new 15 0)
  else if 0x400 ≤ o ∧ o < 0xC00 then redBad s' ((o - 0x400) / 0x20) (o % 0x20) old new
  else if 0x4000 ≤ o ∧ o < 0x8000 then nodeBad s s' .group ((o - 0x4000) / 0x10) (o % 0x10 / 4) old new
  else if 0x20000 ≤ o ∧ o < 0x40000 then nodeBad s s' .sub ((o - 0x20000) / 0x10) (o % 0x10 / 4) old new
  else if 0x80000 ≤ o then nodeBad s s' .queue ((o - 0x80000) / 0x10) (o % 0x10 / 4) old new
  else false

/-- R349: an admission pool that is disabled or below 1 KiB. -/
def admitBad (s : State) (old new : Word) : Bool :=
  [(2, 0), (6, 4), (10, 8)].any fun f =>
    let p := s.pool (bits new f.1 f.2)
    changed old new f.1 f.2 && (!p.en || decide (p.size < 1024))

/-- R427, R432: HOLD above SPLICE_LIMIT; the indices of NODE_ID below the sizes. -/
def ringBad (s' : State) (o : Nat) (old new : Word) : Bool :=
  let node := s'.ownNode
  let xBad := decide (s'.dimSize 0 ≤ indexOfNode node 0)
  let yBad := decide (s'.dimSize 1 ≤ indexOfNode node 1)
  match o with
  | 0x04 => changed old new 13 0 && (xBad || yBad)
  | 0x08 => (changed old new 7 0 && xBad) || (changed old new 15 8 && yBad)
  | 0x0C => old != new && decide (bits new 31 16 ≤ bits new 15 8)
  | _ => false

/-- R443: a write to a function page while EN = 1; the vectors of the admin completion ring. -/
def pageBad (s : State) (fn o : Nat) (old new : Word) : Bool :=
  let locked := bitAt (s.fn fn).ctrl 0
  match o with
  | 0x00 => locked && changed old new 1 1
  | 0x38 => false
  | 0x30 =>
    (locked && old != new)
      || (if fn < 4 then (changed old new 19 19 || changed old new 18 8) && bitAt new 19 && bits new 18 8 == 0
          else changed old new 18 8 && decide (64 ≤ bits new 18 8))
  | _ => locked && old != new

/-- R554: the Contact Sheet is recording. -/
def cshBad (s : State) (o : Nat) (old new : Word) : Bool :=
  s.csh.recording && (match o with
    | 0x00 => changed old new 16 16
    | 0x08 | 0x0C | 0x10 => old != new
    | _ => false)

/-- R629: a relation that the write of `new` over `old` breaks; `s'` holds the new value. -/
def relationBad (s s' : State) (b o : Nat) (old new : Word) : Bool :=
  if 0x3000000 ≤ b then pageBad s ((b - 0x3000000) / 0x100) o old new
  else if b = fixBase then o == 4 && old != new && decide (bits new 31 16 ≤ bits new 15 0)
  else if b = dlrBase then dlrBad s s' o old new
  else if b = lckBase then classBad s o old new
  else if b = swtBase then swtBad s s' o old new
  else if b = tryBase then o == 8 && admitBad s old new
  else if b = ringBase then ringBad s' o old new
  else if b = ethBase then
    decide (0x100 ≤ o) && decide (o < 0x500) && o % 0x40 == 0 && (changed old new 28 28 || changed old new 30 29) && bitAt new 28 &&
      bits new 30 29 == 2
  else if b = hbmBase then
    o == 0x40 && (((changed old new 31 28 || changed old new 27 24) && decide (bits new 27 24 ≤ bits new 31 28))
      || (changed old new 15 0 && decide (bits new 15 8 ≤ bits new 7 0)))
  else if b = cshBase then cshBad s o old new
  else false

/-! ### Writes -/

/-- R355: XOFF of an input and priority follows thresholds that have changed. -/
def xoffRefresh (s : State) (i k : Nat) : State :=
  if s.reg (thOff i k) = 0 then s.swtSet { s.swt with xoff := sput false s.swt.xoff (8 * i + k) false }
  else occSub (occAdd s i k 0) i k 0

/-- What else a stored register's change sets off: `s` holds the new value. -/
def afterWrite (s : State) (b o : Nat) (old new : Word) : State :=
  if b = timBase ∧ o = 0 then ptpCheck (roleChanged s (bits old 1 0))
  else if b = ethBase ∧ 0x100 ≤ o ∧ o < 0x500 then
    if o % 0x40 = 0 then ethCfgChanged s ((o - 0x100) / 0x40) old
    else if o % 0x40 = 0x10 then ptpCheck s
    else s
  else if b = swtBase ∧ 0x1000 ≤ o ∧ o < 0x1580 ∧ o % 8 = 0 then xoffRefresh s ((o - 0x1000) / 0x40) ((o - 0x1000) % 0x40 / 8)
  else if b = lckBase ∧ 0x1000 ≤ o ∧ o < 0x3000 then semInit s ((o - 0x1000) / 4) new
  else if o = 0 ∧ b < 0x3000000 ∧ changed old new 31 31 ∧ b ≠ glbBase ∧ b ≠ mgtBase then expertChanged s b (bitAt new 31)
  else s

/-- A write of a register that stores what is written: tested, stored, acted upon; false when R11 rejects it. -/
def writeStored (s : State) (p : Path) (off key b : Nat) (r : RegRow) (v : Word) : State × Bool :=
  let m := rwMask b (key - b) r
  let old := s.stored key
  let new := putBits old m v
  let s' := s.putStored key new
  if r.chk.any (fieldBad (old &&& m) (new &&& m)) || relationBad s s' b (key - b) old new then (flagError s errEncoding p off true, false)
  else if 0x3000000 ≤ b ∧ key - b = 0 then (writeFnCtrl s ((b - 0x3000000) / 0x100) new, true)
  else
    let s1 := afterWrite s' b (key - b) old new
    -- EXPERT_EN of TIM changes beside ROLE (R22, R63)
    (if b = timBase ∧ key = b ∧ changed old new 31 31 then expertChanged s1 b (bitAt new 31) else s1, true)

/-- The key under which a pending or latched part is kept. -/
def partKey (p : Path) (key : Nat) : Nat := 2 ^ 26 * pathKey p + key

/-- R594: part `k` of the value, as a commit by this path takes it. -/
def State.partFor (s : State) (p : Path) (key : Nat) : Word := (sfind s.glb.pend (partKey p key)).getD (s.stored key)

/-- R594: a write of part `k` of an RW value of `n` registers. -/
def writePart (s : State) (p : Path) (off key b k n : Nat) (r : RegRow) (v : Word) : State × Bool :=
  let w := v &&& BitVec.ofNat 32 r.rw
  if b = timBase ∧ s.follower then (s, true)
  else if k + 1 < n then (s.setGlb { s.glb with pend := sins s.glb.pend (partKey p key) w }, true)
  else
    let first := key - 4 * k
    let keys := (List.range k).map fun i => first + 4 * i
    let own := { s.glb with pend := s.glb.pend.filter fun e => !keys.any fun x => partKey p x == e.1 }
    let all := { s.glb with pend := s.glb.pend.filter fun e => !keys.contains (e.1 % 2 ^ 26) }
    let olds := (keys ++ [key]).map s.stored
    let news := keys.map (s.partFor p) ++ [w]
    let bad := ((keys ++ [key]).zip (olds.zip news)).any fun e => relationBad s s b (e.1 - b) e.2.1 e.2.2
    if bad then (flagError (s.setGlb own) errEncoding p off true, false)
    else
      let s1 := s.setGlb all
      if b = timBase then (setTai s1 (w ++ (news.getD 1 0) ++ (news.getD 0 0)), true)
      else (((keys ++ [key]).zip news).foldl (fun st e => st.putStored e.1 e.2) s1, true)

/-- R597: GLB_EXPERT and GLB_EXPERT_THR: withdraw the expert values of each block whose bit is written with 1. -/
def writeExpert (s : State) (v : Word) : State :=
  (List.range 14).foldl (fun st i =>
    let b := (expertBlocks.getD i (0, [])).1
    if bitAt v i && (b != ringBase || s.variant.hasRing) then withdrawExpert st b else st) s
def writeExpertThr (s : State) (v : Word) : State :=
  (List.range 17).foldl (fun st c => if bitAt v c then withdrawExpert st (thrBase c) else st) s

/-- R598: GLB_RESET. -/
def writeReset (s : State) (p : Path) (off : Nat) (v : Word) : State × Bool :=
  match p with
  | .thread _ => (flagAccess s p off true, true)
  | _ =>
    if bits v 31 16 = 0xA5C3 ∧ bitAt v 0 then
      (if s.mgt.warmAt.isSome then s else s.setMgt { s.mgt with warmAt := some (s.now + BitVec.ofNat 64 (usFtu 10)) }, true)
    else (flagError s errEncoding p off true, false)

/-- R433: RING_CMD. -/
def writeRingCmd (s : State) (p : Path) (off : Nat) (v : Word) : State × Bool :=
  let op := bits v 3 0
  if op = 0 ∨ 7 ≤ op then (flagError s errEncoding p off true, false)
  else
    let (s1, r) := ringCommand s op
    (s1.setRing { s1.ring with cmdResult := r }, true)

/-- R276: THR_DBG_REQ. -/
def writeDbgReq (s : State) (p : Path) (off c : Nat) (v : Word) : State × Bool :=
  let op := bits v 3 0
  if op = 0 ∨ 7 ≤ op then (flagError s errEncoding p off true, false) else (dbgRequest s c op (bits v 9 4) (bits v 14 10), true)

/-- R347: TRY_RECLAIM. -/
def writeReclaim (s : State) (p : Path) (off : Nat) (v : Word) : State × Bool :=
  if 1090 ≤ bits v 11 0 then (flagError s errEncoding p off true, false) else (startReclaim s (bits v 11 0), true)

/-- R302: clearing VALID of a CX_LOG entry clears OVERFLOW. -/
def clearCxLog (s : State) (core : Nat) : State :=
  let v := { s.cxLog core with valid := false, overflow := false }
  { s with cores := { s.cores with cxlog := sput CxLog.empty s.cores.cxlog core v } }

/-- A write to a register with W1C or WO fields; none when the register has none. -/
def writeSpecial (s : State) (p : Path) (off b o : Nat) (v : Word) : Option (State × Bool) :=
  if b = glbBase then
    match o with
    | 0x20 => some (s.setGlb { s.glb with err := s.glb.err &&& ~~~(v.setWidth 4) }, true)
    | 0x2C => some (writeReset s p off v)
    | 0x30 => some (writeExpert s v, true)
    | 0x34 => some (writeExpertThr s v, true)
    | _ => none
  else if b = pwrBase then
    match o with
    | 0x08 => some ((List.range 5).foldl (fun st i =>
        if bitAt v (16 + i) then st.setInput i { st.input i with stuck := false } else st) s, true)
    | 0x0C => some (s.setPwr { s.pwr with pend := s.pwr.pend &&& ~~~(v.setWidth 4) }, true)
    | _ => none
  else if b = ethBase ∧ 0x100 ≤ o ∧ o < 0x500 ∧ o % 0x40 = 4 then
    let q := (o - 0x100) / 0x40
    some (if bitAt v 7 then s.setEthPort q { s.ethPort q with tsqOvf := false } else s, true)
  else if b = ringBase ∧ o = 0x20 then some (writeRingCmd s p off v)
  else if b = loupeBase ∧ o = 0x08 then some (if bitAt v 31 then s.setLoupe { s.loupe with csUe := false } else s, true)
  else if b = clsBase ∧ o = 0x04 then some (if bitAt v 31 then s.setCls { s.cls with cacheUe := false } else s, true)
  else if b = tryBase ∧ o = 0x0C then some (writeReclaim s p off v)
  else if b = swtBase ∧ o = 0x08 then some (flushQueue s (bits v 14 0) 8, true)
  else if b = lckBase ∧ o = 0x08 then some ((forceLock s (Path.requester p) (bits v 13 0)).1, true)
  else if 0x2000000 ≤ b ∧ b < 0x3000000 then
    let c := if b = 0x2200000 then 16 else (b - 0x2000000) / 0x20000
    if o = 0x404 then some (writeDbgReq s p off c v)
    else if 0x800 ≤ o ∧ o < 0x8B4 then some (windowWrite s c (o - 0x800) v, true)
    else if 0x4000 ≤ o ∧ o < 0x4080 ∧ o % 0x10 = 0 then some (if bitAt v 16 then clearCxLog s (8 * c + (o - 0x4000) / 0x10) else s, true)
    else none
  else none

/-- A 32-bit write of a path; false when R11 or R12 rejects it. -/
def regWrite (s : State) (p : Path) (off : Nat) (v : Word) : State × Bool :=
  if !s.answers p ∨ p = .fabric then (s, true)
  else match s.target p off with
    | .unmapped => (flagError s errUnmapped p off true, false)
    | .dead => (s, true)
    | .reg key b r =>
      match r.kind with
      | .counter => (s, true)
      | .expert =>
        if s.expertOn b ∧ s.dev ≠ .swap then writeStored s p off key b r v else (s, true)
      | .part k n => writePart s p off key b k n r v
      | _ =>
        match writeSpecial s p off b (key - b) v with
        | some x => x
        | none => if r.rw = 0 then (s, true) else writeStored s p off key b r v

/-! ### Reads -/

/-- The value that a register presents. -/
def State.regValue (s : State) (key b : Nat) (r : RegRow) : Word :=
  match r.kind with
  | .counter => s.counter32 key
  | .expert => if s.expertOn b then s.reg key else s.derived key
  | _ => (s.stored key &&& rwMask b (key - b) r) ||| s.view key

/-- R7: what reading an RC field clears. -/
def clearRead (s : State) (b o : Nat) : State :=
  if b = pwrBase then
    if o = 0x10 then s.setPwr { s.pwr with tempHigh := 0 }
    else
      let n := (o - 0x100) / 4
      s.setPwr { s.pwr with islands := sput Island.nominal s.pwr.islands n { s.island n with high := 0 } }
  else if b = loupeBase then s.setLoupe { s.loupe with csCe := 0 }
  else if b = timBase then { s with counters := sput 0 (sput 0 s.counters (timBase + 0x34) 0) (timBase + 0x36) 0 }
  else if b = ethBase then (readTsq s ((o - 0x100) / 0x40)).1
  else s

/-- The value of the register at a key, with its row found again. -/
def State.valueAt (s : State) (key : Nat) : Word :=
  match regRow key with
  | some (b, r) => s.regValue key b r
  | none => 0

/-- A 32-bit read of a path. -/
def regRead (s : State) (p : Path) (off : Nat) : State × Word :=
  if !s.answers p then (s, 0)
  else match s.target p off with
    | .unmapped => (flagError s errUnmapped p off false, 0)
    | .dead => (s, 0)
    | .reg key b r =>
      let v := s.regValue key b r
      match r.kind with
      | .clears => (clearRead s b (key - b), v)
      | .roLow n =>
        let keep := fun (m : SMap Word) (i : Nat) => sins m (partKey p (key + 4 + 4 * i)) (s.valueAt (key + 4 + 4 * i))
        (s.setGlb { s.glb with latch := (List.range (n - 1)).foldl keep s.glb.latch }, v)
      | .roHigh => (s, (sfind s.glb.latch (partKey p key)).getD v)
      | _ => (s, v)

/-! ### The rows -/

/-- R7: a write of a register that has no row of its own. -/
def execRegisterWrite (p : Path) (off : BitVec 26) (v : Word) (s : State) : Outcome State Fault Refusal :=
  .next (regWrite s p off.toNat v).1

/-- R12: an access to an unmapped offset. -/
def execUnmappedAccess (p : Path) (off : BitVec 26) (write : Bool) (s : State) : Outcome State Fault Refusal :=
  if s.target p off.toNat = .unmapped then
    .next (if write then (regWrite s p off.toNat 0).1 else (regRead s p off.toNat).1)
  else .next s

/-- The register that an access reaches is of this kind. -/
def State.reachesKind (s : State) (p : Path) (off : Nat) (f : RegKind → Bool) : Bool :=
  match s.target p off with
  | .reg _ _ r => f r.kind
  | _ => false

/-- R7, R593: a read of a register with RC fields. -/
def execRcRead (p : Path) (off : BitVec 26) (s : State) : Outcome State Fault Refusal :=
  .next (if s.reachesKind p off.toNat fun k => k == .clears then (regRead s p off.toNat).1 else s)

/-- R595: a read of the lowest part of an RO multi-register value. -/
def execLatchingRead (p : Path) (off : BitVec 26) (s : State) : Outcome State Fault Refusal :=
  .next (if s.reachesKind p off.toNat fun k => k == .roLow 2 then (regRead s p off.toNat).1 else s)

/-- R589, R590: the path makes partial or oversize accesses: only a PCIe request can. -/
def overPcie : Path → Bool
  | .pf _ | .vf _ => true
  | _ => false

/-- R590: an access whose byte enables are not all set. -/
def execPartialAccess (p : Path) (off : BitVec 26) (write : Bool) (s : State) : Outcome State Fault Refusal :=
  .next (if overPcie p && s.answers p then flagAccess s p off.toNat write else s)

/-- R589: a request longer than 64 bytes. -/
def execOversizeRequest (p : Path) (off : BitVec 26) (write : Bool) (s : State) : Outcome State Fault Refusal :=
  .next (if overPcie p && s.answers p then flagAccess s p off.toNat write else s)

def execGlbReset (p : Path) (v : Word) (s : State) : Outcome State Fault Refusal := .next (regWrite s p 0x2C v).1
def execGlbExpert (p : Path) (v : Word) (s : State) : Outcome State Fault Refusal := .next (regWrite s p 0x30 v).1
def execGlbExpertThr (p : Path) (v : Word) (s : State) : Outcome State Fault Refusal := .next (regWrite s p 0x34 v).1
/-- R63: a write of TIM_CTRL, which holds ROLE. -/
def execRoleWrite (p : Path) (v : Word) (s : State) : Outcome State Fault Refusal := .next (regWrite s p timBase v).1
/-- R66: the write of TIM_TAI_OFFSET_HI. -/
def execTaiOffsetWrite (p : Path) (v : Word) (s : State) : Outcome State Fault Refusal := .next (regWrite s p (timBase + 0x18) v).1
/-- R481: a write of ETH_Pp_CFG. -/
def execEthPortCfgWrite (p : Path) (q : Fin 16) (v : Word) (s : State) : Outcome State Fault Refusal := .next (regWrite s p (ethReg q 0) v).1
/-- R485: a read of ETH_Pp_TSQ_INFO. -/
def execTsqRead (p : Path) (q : Fin 16) (s : State) : Outcome State Fault Refusal := .next (regRead s p (ethReg q 0x20)).1
/-- R375: a write of SWT_QFLUSH. -/
def execSwtQflush (p : Path) (q : BitVec 15) (s : State) : Outcome State Fault Refusal :=
  .next (regWrite s p (swtBase + 8) (q.setWidth 32)).1
/-- R347: a write of TRY_RECLAIM. -/
def execTryReclaim (p : Path) (r : BitVec 12) (s : State) : Outcome State Fault Refusal := .next (regWrite s p (tryBase + 0xC) (r.setWidth 32)).1

/-- R433: the operations of RING_CMD. -/
def execSpliceX (p : Path) (s : State) : Outcome State Fault Refusal := .next (regWrite s p (ringBase + 0x20) 1).1
def execSpliceY (p : Path) (s : State) : Outcome State Fault Refusal := .next (regWrite s p (ringBase + 0x20) 2).1
def execLeaveX (p : Path) (s : State) : Outcome State Fault Refusal := .next (regWrite s p (ringBase + 0x20) 3).1
def execLeaveY (p : Path) (s : State) : Outcome State Fault Refusal := .next (regWrite s p (ringBase + 0x20) 4).1
def execPassX (p : Path) (s : State) : Outcome State Fault Refusal := .next (regWrite s p (ringBase + 0x20) 5).1
def execPassY (p : Path) (s : State) : Outcome State Fault Refusal := .next (regWrite s p (ringBase + 0x20) 6).1

/-- R443: a write of FN_CTRL through a path that reaches the function's page: the function's own BAR0, or for a PF's page the view of
another path (R586). -/
def execFnCtrlWrite (p : Path) (fn : Fin 1028) (v : Word) (s : State) : Outcome State Fault Refusal :=
  match p with
  | .vf n => .next (if 4 + n.val = fn.val then (regWrite s p 0 v).1 else s)
  | .pf f => .next (if f.val = fn.val then (regWrite s p (hqeBase + 0x1000) v).1 else s)
  | _ => .next (if fn.val < 4 then (regWrite s p (hqeBase + 0x2000 + 0x100 * fn.val) v).1 else s)

end Sys2Proof.Machine
end

