-- ==== Sys2Proof/Machine/Image.lean ====
section
/-! DEFINITION. Profile images (R526–R529): their header and sections, what each section holds, and the checks of acceptance with the
reason that refuses an image (R528). -/

namespace Sys2Proof.Machine

/-! ### The image (R526, R527) -/

/-- `n` bytes of an image at an offset. -/
def imgBytes (img : List Byte) (a n : Nat) : List Byte := (img.drop a).take n

/-- A little-endian number of an image. -/
def imgLE (img : List Byte) (a n : Nat) : Nat := leNat (imgBytes img a n)

/-- A section as the header gives it, with the offset of its header entry. -/
structure Section where
  typ : Nat
  off : Nat
  len : Nat
  dest : Nat
  entry : Nat
  deriving DecidableEq, Repr

def tyRegset : Nat := 1
def tyLoupeCs : Nat := 2
def tyLoupeJt : Nat := 3
def tyLines : Nat := 4
def tyEpoch : Nat := 5
def tyIstore : Nat := 6
def tyMeters : Nat := 7
def tyPools : Nat := 8
def tyHbmInit : Nat := 10

/-- Section `i` (R526). -/
def sectionOf (img : List Byte) (i : Nat) : Section :=
  let e := 64 + 16 * i
  { typ := imgLE img e 2, off := imgLE img (e + 4) 4, len := imgLE img (e + 8) 4, dest := imgLE img (e + 12) 4, entry := e }

def sectionsOf (img : List Byte) : List Section := (List.range (imgLE img 12 2)).map (sectionOf img)

/-- The sections of one type, in the order of the header. -/
def sectionsOfType (img : List Byte) (t : Nat) : List Section := (sectionsOf img).filter fun x => x.typ == t

/-- The bytes of a section. -/
def Section.bytes (x : Section) (img : List Byte) : List Byte := imgBytes img x.off x.len

/-- Items of `k` bytes in a section: the number of each with its image offset. -/
def Section.items (x : Section) (k : Nat) : List (Nat × Nat) := (List.range (x.len / k)).map fun i => (i, x.off + k * i)

/-! ### What the sections say -/

/-- R326, R349, R527: pool `p` of a POOLS section: 16 bytes laid out as TRY_POOLp_CFG, _COUNT, _BASE_LO and _BASE_HI. -/
def poolAt (img : List Byte) (a : Nat) : Pool :=
  let w := BitVec.ofNat 32 (imgLE img a 4)
  { en := bitAt w 31, hbm := bitAt w 30, fit := bitAt w 29, code := bits w 3 0, count := imgLE img (a + 4) 4 % 2 ^ 29,
    base := imgLE img (a + 8) 8 % 2 ^ 38 }

/-- The reserved bits of a pool's 16 bytes are 0. -/
def poolReserved (img : List Byte) (a : Nat) : Bool :=
  let w := BitVec.ofNat 32 (imgLE img a 4)
  bits w 28 4 == 0 && decide (imgLE img (a + 4) 4 < 2 ^ 29) && decide (imgLE img (a + 8) 8 < 2 ^ 38)

/-- The image offset of the POOLS section in force. -/
def poolsOffset (img : List Byte) : Option Nat := ((sectionsOfType img tyPools).getLast?).map (·.off)

/-- The geometry of the image; an image without a POOLS section disables every pool. -/
def imagePools (img : List Byte) : List Pool :=
  match poolsOffset img with
  | some a => (List.range 8).map fun p => poolAt img (a + 16 * p)
  | none => List.replicate 8 Pool.off

/-- The REGSET writes in order: image offset, register offset, value. -/
def regWrites (img : List Byte) : List (Nat × Nat × Word) :=
  (sectionsOfType img tyRegset).flatMap fun x => (x.items 8).map fun e =>
    (e.2, imgLE img e.2 4, BitVec.ofNat 32 (imgLE img (e.2 + 4) 4))

/-- The control-store words by address, with their image offsets (R105: bits 127:96 first). -/
def loupeWords (img : List Byte) : List (Nat × Nat) :=
  (sectionsOfType img tyLoupeCs).flatMap fun x => (x.items 16).map fun e => (x.dest + e.1, e.2)

/-- A microword: four little-endian words, bits 127:96 first (R105). -/
def wordAtOffset (img : List Byte) (a : Nat) : BitVec 128 :=
  BitVec.ofNat 128 (imgLE img a 4 * 2 ^ 96 + imgLE img (a + 4) 4 * 2 ^ 64 + imgLE img (a + 8) 4 * 2 ^ 32 + imgLE img (a + 12) 4)

/-- The jump-table entries by 256 × table + entry, with their image offsets. -/
def jumpEntries (img : List Byte) : List (Nat × Nat) :=
  (sectionsOfType img tyLoupeJt).flatMap fun x => (x.items 2).map fun e => (256 * x.dest + e.1, e.2)

def jumpAtOffset (img : List Byte) (a : Nat) : BitVec 16 := BitVec.ofNat 16 (imgLE img a 2)

/-- The classifier lines by index, with their image offsets. -/
def imageLines (img : List Byte) : List (Nat × Nat) :=
  (sectionsOfType img tyLines).flatMap fun x => (x.items 64).map fun e => (x.dest + e.1, e.2)

/-- The meter entries by index. -/
def imageMeters (img : List Byte) : List (Nat × List Byte) :=
  (sectionsOfType img tyMeters).flatMap fun x => (x.items 64).map fun e => (x.dest + e.1, imgBytes img e.2 64)

/-- The epoch descriptor. -/
def imageEpoch (img : List Byte) : List Byte :=
  match sectionsOfType img tyEpoch with
  | x :: _ => x.bytes img
  | [] => []

/-! ### The REGSET on trial (R527, R629) -/

/-- The values a "profile" field takes when no write of the image reaches its register: the default that the field's row states. -/
def profileDefaults : List (Nat × Nat) :=
  [(fixBase, 50), (fixBase + 4, 40 * 65536 + 8), (loupeBase, 96 * 256), (clsBase, 2 * 256 + 4), (dlrBase, 8), (dlrBase + 8, 1024),
   (lckBase, 20), (tryBase, 10), (swtBase, 50), (ringBase, 9216), (ringBase + 0xC, 50 * 65536 + 30 * 256),
   (hbmBase, 4 * 65536 + 24 * 256 + 128), (hbmBase + 8, 1000), (mgtBase, 150), (pwrBase, 100 * 256)]
  ++ (List.range 16).map (fun n => (dlrBase + 0x300 + 4 * n, 20 * 65536))
  ++ (List.range 17).map (fun c => (thrBase c, 1))
  ++ (List.range 16).map (fun o => (swtBase + 0x104 + 8 * o, 10))
  ++ (List.range 16).map (fun p => (ethBase + 0x100 + 0x40 * p, 9216))
  ++ (List.range 16).map (fun p => (ethBase + 0x108 + 0x40 * p, 0xFFFF * 65536))

/-- R475, R491: MODE_LO and MODE_HI, which only an image's write of ETH_CTRL sets. -/
def imageModes (ws : List (Nat × Nat × Word)) : BitVec 2 × BitVec 2 :=
  match (ws.filter fun w => w.2.1 / 4 * 4 == ethBase).getLast? with
  | some w => (w.2.2.setWidth 2, w.2.2.extractLsb' 2 2)
  | none => (0, 0)

/-- The machine on which an image's writes are tried: every field at its reset value, under the image's pools and modes. -/
def trialState (s : State) (img : List Byte) : State :=
  let modes := imageModes (regWrites img)
  { State.reset with
    variant := s.variant
    dev := .run
    trays := { Trays.reset with pools := imagePools img }
    eth := { Eth.reset with modeLo := modes.1, modeHi := modes.2 }
    hqe := { Hqe.reset with h0Split := s.hqe.h0Split, h1Split := s.hqe.h1Split, portsFixed := s.hqe.portsFixed } }

/-- The writes in order, as the management core makes them; the image offset of the first that R11 or R12 rejects. -/
def tryWrites : State → List (Nat × Nat × Word) → State × Option Nat
  | s, [] => (s, none)
  | s, (at_, off, v) :: ws =>
    let (s1, ok) := regWrite s (.mc 0) off v
    let (s2, bad) := tryWrites s1 ws
    (s2, if ok then bad else some at_)

/-- The keys that the image writes. -/
def writtenKeys (ws : List (Nat × Nat × Word)) : List Nat := ws.map fun w => w.2.1 / 4 * 4

/-- Defaults for the registers that no write reaches. -/
def fillDefaults (ws : List (Nat × Nat × Word)) (s : State) : State :=
  (profileDefaults.filter fun d => !(writtenKeys ws).contains d.1).foldl (fun st d => st.setReg d.1 (st.reg d.1 ||| BitVec.ofNat 32 d.2)) s

/-- What the image's registers come to, and the first write refused. -/
def trial (s : State) (img : List Byte) : State × Option Nat :=
  let (s1, bad) := tryWrites (trialState s img) (regWrites img)
  (fillDefaults (regWrites img) s1, bad)

/-! ### Regions of HBM (R327, R528, R529) -/

/-- The management reserve (R529). -/
def reserveLow : Nat := 0x17F8000000
def reserveHigh : Nat := 0x1800000000

def rangesMeet (a b : Nat × Nat) : Bool := decide (a.1 < b.2) && decide (b.1 < a.2) && decide (a.1 < a.2) && decide (b.1 < b.2)

/-- The node region in force in a state (R147). -/
def State.clsRange (s : State) : Nat × Nat := (s.clsRegion, s.clsRegion + 64 * s.clsLines)

/-- The counter region (R170) and the meter table (R363) of a state. -/
def State.ctrRange (s : State) : Nat × Nat :=
  let a := 65536 * s.fld (clsBase + 0x14) 31 16 + 2 ^ 32 * s.fld (clsBase + 0x18) 5 0
  (a, a + 16 * s.counterCount)
def State.meterRange (s : State) : Nat × Nat := (s.meterAddr 0, s.meterAddr s.meterCount)

/-- The bytes that a pool covers. -/
def Pool.range (p : Pool) : Nat × Nat := (p.base, p.base + p.count * p.size)

/-- The HBM_INIT targets of an image. -/
def initRanges (img : List Byte) : List (Nat × Nat) := (sectionsOfType img tyHbmInit).map fun x => (256 * x.dest, 256 * x.dest + x.len)

/-- The HBM regions that an image assigns, but for its pools; `t` is its trial. -/
def regionsOf (t : State) (img : List Byte) : List (Nat × Nat) := [t.clsRange, t.ctrRange, t.meterRange] ++ initRanges img

/-! ### The checks (R528) -/

/-- A refusal: its reason and the image offset of the failure, when the failure has a place in the image. -/
structure Refused where
  reason : Nat
  place : Option Nat
  deriving DecidableEq, Repr

def refuse (bad : Bool) (reason place : Nat) : Option Refused := if bad then some { reason := reason, place := some place } else none
def refuseAll (bad : Bool) (reason : Nat) : Option Refused := if bad then some { reason := reason, place := none } else none

/-- The first refusal of a list of checks. -/
def firstRefusal : List (Option Refused) → Option Refused
  | [] => none
  | some r :: _ => some r
  | none :: rs => firstRefusal rs

/-- R526: the header; R4: the units it requires; the body CRC. -/
def headerChecks (v : Variant) (img : List Byte) : List (Option Refused) :=
  let req := imgLE img 6 2
  let absent := (req.testBit 0 && !v.hasRing) || (req.testBit 1 && !(v.hasAes && v.hasSha)) || (req.testBit 2 && !v.hasStack 2)
  [refuse (imgLE img 0 4 != 0x46504C41) 1 0, refuse (imgLE img 4 2 != 1) 1 4, refuse (8 ≤ req) 1 6,
   refuse (imgLE img 8 4 != img.length) 1 8, refuse (imgLE img 12 2 == 0 || 251 < imgLE img 12 2) 1 12,
   refuse (imgLE img 14 2 != 0) 1 14, refuse (imgLE img 20 44 != 0) 1 20]
  ++ (sectionsOf img).map (fun x => refuse (imgLE img (x.entry + 2) 2 != 0) 1 (x.entry + 2))
  ++ [refuse (imgLE img 4092 4 != (crc32cOf (imgBytes img 0 4092)).toNat) 1 4092, refuse absent 0xB 6,
      refuse (imgLE img 16 4 != (crc32cOf (img.drop 4096)).toNat) 2 16]

/-- R527: a section of a known type whose length and DEST are of that type. -/
def Section.shape (x : Section) : Bool :=
  if x.typ = tyPools then x.dest == 0 && x.len == 128
  else if x.typ = tyRegset then x.dest == 0 && x.len % 8 == 0
  else if x.typ = tyLoupeCs then x.len % 16 == 0 && decide (0x400 ≤ x.dest) && decide (x.dest + x.len / 16 ≤ 0x1000)
  else if x.typ = tyLoupeJt then x.len % 512 == 0 && decide (4 ≤ x.dest) && decide (x.dest + x.len / 512 ≤ 16)
  else if x.typ = tyIstore then decide (x.dest < 2 ^ 17) && decide (x.len ≤ istoreSize)
  else if x.typ = tyHbmInit then decide (256 * x.dest + x.len ≤ hbmSize)
  else if x.typ = tyLines ∨ x.typ = tyMeters then x.len % 64 == 0
  else if x.typ = tyEpoch then x.dest == 0 && x.len == 2048
  else false

/-- R528: BAD_SECTION. -/
def sectionChecks (img : List Byte) : List (Option Refused) :=
  let xs := sectionsOf img
  let meets := fun (x y : Section) => y.entry < x.entry && rangesMeet (x.off, x.off + x.len) (y.off, y.off + y.len)
  let again := fun (x : Section) => x.typ == tyEpoch && xs.any fun y => y.typ == tyEpoch && y.entry < x.entry
  xs.map (fun x => refuse (!x.shape || x.off < 4096 || img.length < x.off + x.len || xs.any (meets x) || again x) 3 x.entry)
  ++ [refuseAll ((sectionsOfType img tyEpoch).isEmpty) 3]

/-- R327: pool `p` of an image on its own and against the pools before it and the regions of the image. -/
def poolBad (img : List Byte) (regions : List (Nat × Nat)) (a p : Nat) : Bool :=
  let q := poolAt img (a + 16 * p)
  let clash := (List.range p).any fun k =>
    let r := poolAt img (a + 16 * k)
    r.en && r.hbm == q.hbm && rangesMeet r.range q.range
  !poolReserved img (a + 16 * p)
    || (q.en && (decide (10 < q.code) || q.count == 0 || decide (0x1FFFFFF0 < q.count) || q.base % q.size != 0
      || decide ((if q.hbm then hbmSize else 0x4000000) < q.range.2) || clash || (q.hbm && regions.any (rangesMeet q.range))))

/-- R326, R327: the pools; on the AL1640-FH a pool in HBM2 or HBM3 needs an absent unit (R4). -/
def poolChecks (s t : State) (img : List Byte) : List (Option Refused) :=
  let ps := imagePools img
  let each := match poolsOffset img with
    | none => []
    | some a => (List.range 8).flatMap fun p =>
      let q := poolAt img (a + 16 * p)
      [refuse (q.en && q.hbm && !s.variant.hasStack 2 && decide (reserveHigh < q.range.2)) 0xB (a + 16 * p),
       refuse (poolBad img (regionsOf t img) a p || (s.mgt.applied && q != s.pool p)) 8 (a + 16 * p)]
  let admission := [0, 4, 8].any fun lo =>
    let q := ps.getD (t.admitPool lo) Pool.off
    !q.en || decide (q.size < 1024)
  each ++ [refuseAll ((s.mgt.applied && ps != s.trays.pools) || admission) 8]

/-- The stored size of ring pool `k` of port `p`. -/
def State.ringPool (s : State) (p k : Nat) : Nat := s.fld (ringBase + 0x100 + 0x80 * p + 4 * k) 15 0

/-- R398, R431: the ring's pools, and settings that may not change while a dimension is out of PASS. -/
def ringChecks (s t : State) : List (Option Refused) :=
  let sizes := fun (p : Nat) => (List.range 32).map (t.ringPool p)
  let small := (List.range 4).any fun p =>
    decide (32768 < (sizes p).foldl (· + ·) 0) || (sizes p).any fun n => decide (n < 1 + (t.ringMtu + 8 + 17) / 18)
  let same := [(0x00, 13, 0), (0x04, 31, 16), (0x04, 13, 0), (0x08, 7, 0), (0x08, 15, 8)].all fun f =>
    s.fld (ringBase + f.1) f.2.1 f.2.2 == t.fld (ringBase + f.1) f.2.1 f.2.2
  let pools := (List.range 4).all fun p => (List.range 32).all fun k => s.ringPool p k == t.ringPool p k
  if s.variant.hasRing then [refuseAll (small || (!(s.ring.dims.all fun d => d.st == .pass) && !(same && pools))) 9] else []

/-- R106: an extract unit's fields. -/
def extractOk (w : BitVec 128) (k : Nat) : Bool :=
  let b := 125 - 18 * k
  let c := microField w (b - 9) (b - 11)
  let (off, n, dst) := extractUnit w k
  if c = 0 then off == 0 && dst == 0 else c != 7 && decide (4 ≤ dst) && decide (dst + (n + 1) / 2 ≤ 64)

/-- R112: a branch target is a customer word or a published entry point. -/
def targetOk (a : Nat) : Bool := decide (0x400 ≤ a) || (romEntry a).isSome

/-- R106, R107, R112, R118: a customer word. -/
def microOk (w : BitVec 128) : Bool :=
  let cw := microField w 62 61
  let imm := microField w 55 40
  let mode := microField w 39 38
  let lchk := microField w 23 21
  let out := microField w 20 19
  let op := microField w 14 12
  let tgt := microField w 11 0
  let typ := microField w 29 24
  let total := (extractUnit w 0).2.1 + (extractUnit w 1).2.1 + (extractUnit w 2).2.1 + (if cw = 0 then 0 else if cw = 1 then 1 else 2)
  let least := if op = 4 ∨ (mode = 2 ∧ lchk ≠ 0) then 2 else 1
  (List.range 3).all (extractOk w)
    && (if cw = 0 then microField w 71 63 == 0 && microField w 60 56 == 0 && imm == 0 && !([2, 3, 4, 7].contains op) && mode != 2 && lchk == 0
        else cw != 3 || decide (imm < 64))
    && (if mode = 0 then microField w 37 30 == 0 else if mode = 1 then microField w 37 36 == 0 else mode == 2)
    && decide (lchk ≤ 4)
    && (if out = 0 then microField w 18 15 == 0 else op == 0 && tgt == 0)
    && (if op = 4 then decide (4 ≤ tgt) && decide (tgt < 16) else if op = 1 ∨ op = 2 ∨ op = 3 ∨ op = 5 then targetOk tgt else tgt == 0)
    && !(decide (21 ≤ typ) && decide (typ ≤ 31))
    && decide (max least ((total + 15) / 16) ≤ microField w 127 126 + 1)

/-- R111, R112: a jump-table entry of the profile. -/
def jumpOk (e : BitVec 16) : Bool :=
  e.toNat / 4096 % 8 == 0 && (!e.getLsbD 15 || targetOk (e.toNat % 4096))

/-- Items by ascending key, then by place in the image (R125). -/
def ascendingItems (l : List (Nat × Nat)) : List (Nat × Nat) :=
  (l.foldl (fun (m : SMap Unit) e => sins m (e.1 * 2 ^ 27 + e.2) ()) []).map fun e => (e.1 / 2 ^ 27, e.1 % 2 ^ 27)

/-- R125: the microcode. -/
def microChecks (img : List Byte) : List (Option Refused) :=
  (ascendingItems (loupeWords img)).map (fun e => refuse (!microOk (wordAtOffset img e.2)) 5 e.2)
  ++ (ascendingItems (jumpEntries img)).map (fun e => refuse (!jumpOk (jumpAtOffset img e.2)) 5 e.2)

/-- R528: HBM_INIT targets, then every other region of the image. -/
def regionChecks (s t : State) (img : List Byte) : List (Option Refused) :=
  let active := if s.mgt.applied then [s.clsRange] else []
  let bad := fun (r : Nat × Nat) => ((reserveLow, reserveHigh) :: active).any (rangesMeet r)
  let pools := ((imagePools img).filter fun q => q.en && q.hbm).map Pool.range
  (sectionsOfType img tyHbmInit).map (fun x => refuse (bad (256 * x.dest, 256 * x.dest + x.len)) 0xA x.off)
  ++ [refuseAll ((regionsOf t img ++ pools).any bad) 0xA]

/-- R144, R155: a line of a CLS_LINES section, which says nothing of its kind: it must pass as a node, a template line or an action
line. -/
def lineStatus (ring : Bool) (lines : Nat) (l : List Byte) : Nat :=
  if nodeOk lines l || templateOk l then stOk else actionLineStatus ring lines l

/-- R528: the lines. -/
def lineChecks (s t : State) (img : List Byte) : List (Option Refused) :=
  (imageLines img).flatMap fun e =>
    let st := lineStatus s.variant.hasRing t.clsLines (imgBytes img e.2 64)
    [refuse (st == stUnitAbsent) 0xB e.2, refuse (st != stOk || decide (t.clsLines ≤ e.1)) 6 e.2]

/-- The checks in the order of R527 and R528. -/
def imageChecks (s : State) (img : List Byte) : List (Option Refused) :=
  let (t, bad) := trial s img
  headerChecks s.variant img ++ sectionChecks img ++ poolChecks s t img
  ++ [match bad with
      | some a => some { reason := 4, place := some a }
      | none => none]
  ++ ringChecks s t ++ microChecks img ++ regionChecks s t img ++ lineChecks s t img
  ++ (sectionsOfType img tyEpoch).map fun x => refuse (!descOk t.clsLines (x.bytes img)) 7 x.off

/-- R528: the refusal of an image, if any. -/
def imageRefusal (s : State) (img : List Byte) : Option Refused := firstRefusal (imageChecks s img)

/-! ### Acceptance (R50, R528, R529) -/

/-- The image of profile `n` as the flash holds it; one whose LENGTH is out of range is read as its header alone. -/
def State.flashImage (s : State) (n : Nat) : List Byte :=
  let a := 0x10000000 + 0x4000000 * n
  let len := s.flashLE (a + 8) 4
  s.flashBytes a (if 4096 ≤ len ∧ len ≤ 67108864 then len else 4096)

/-- The status of a refusal (R528). -/
def Refused.status (r : Refused) : Nat := if r.reason = 0xB then stUnitAbsent else stBadProfile

/-- R528, R547, R596: PROFILE_REFUSED; the offset is free where the failure has no place in the image. -/
def refuseImage (s : State) (n : Nat) (r : Refused) : State :=
  let (off, s1) := match r.place with
    | some a => (a, s)
    | none => let (v, s') := s.takeFree; (v % 2 ^ 32, s')
  (s1.setMgt { s1.mgt with lastRefuse := r.reason }).logEvent 2 2 (evAt 0 n ||| evAt 1 r.status ||| evAt 2 r.reason ||| evAt 4 off)

/-- R529: the sections written at acceptance. -/
def writeAccepted (s : State) (img : List Byte) : State :=
  let t := (trial s img).1
  let s1 := (sectionsOfType img tyHbmInit).foldl (fun st x => hbmWrite st (256 * x.dest) (x.bytes img)) s
  (imageLines img).foldl (fun st e => hbmWrite st (t.clsRegion + 64 * e.1) (imgBytes img e.2 64)) s1

/-- R50, R528, R529: profile `n` is copied, checked and staged: the state, and the image or the refusal's status. -/
def acceptImage (s : State) (n : Nat) (flashOk : Bool) : State × Except Nat (List Byte) :=
  let img := s.flashImage n
  match (if flashOk then imageRefusal s img else some { reason := 0xC, place := none }) with
  | some r => (refuseImage s n r, .error r.status)
  | none => (writeAccepted s img, .ok img)

end Sys2Proof.Machine
end

