-- ==== Sys2Proof/Machine/Profile.lean ====
section
/-! DEFINITION. Applying a profile (R166, R273, R307, R321, R384, R527) at boot, in IDLE and in a Stop Bath (R49, R525, R532). -/

namespace Sys2Proof.Machine

open Host

/-! ### Registers (R25, R527) -/

/-- The bits of a register that an application sets: all RW bits of one that the image writes, else those whose reset is "profile".
No profile loads the Contact Sheet's registers (R548). -/
def profileMask (ws : List Nat) (key : Nat) : Word :=
  match regRow key with
  | some (b, r) => if b = cshBase then 0 else if ws.contains key then rwMask b (key - b) r else BitVec.ofNat 32 r.prof
  | none => 0

/-- R527: the stored registers of a state under the trial `t` of an image that writes the keys `ws`. -/
def mergeRegs (s t : State) (ws : List Nat) : SMap Word :=
  ((s.regs ++ t.regs).map (·.1)).foldl (fun m k => sput 0 m k (putBits (s.reg k) (profileMask ws k) (t.reg k))) s.regs

/-- R527: a write whose effect is not a stored register (TAI_OFFSET, a PF's page, W1C and WO fields) takes effect on the device itself. -/
def effectWrite (s : State) (w : Nat × Nat × Word) : State :=
  match regRow (w.2.1 / 4 * 4) with
  | some (b, r) => if r.rw = 0 ∨ b = timBase ∧ r.kind ≠ .plain ∧ r.kind ≠ .expert then (regWrite s (.mc 0) w.2.1 w.2.2).1 else s
  | none => (regWrite s (.mc 0) w.2.1 w.2.2).1

/-! ### Microcode and instruction stores (R114, R125, R221) -/

/-- R113, R114: the word of address `a` in a profile that supplies none. -/
def defaultWord (a : Nat) : BitVec 128 :=
  let n := (a - 0x400) / 8
  if a % 8 ≠ 0 ∨ 12 ≤ n then trapWord else if n < 4 then 0x1000 else 0x6000

/-- The hooks' default words. -/
def hookDefaults : SMap (BitVec 128) := ((List.range 12).map fun n => 0x400 + 8 * n).foldl (fun m a => sput trapWord m a (defaultWord a)) []

/-- R125, R126: the customer microcode of the image. -/
def loadMicrocode (s : State) (img : List Byte) : State :=
  let words := (loupeWords img).foldl (fun m e => sput trapWord m e.1 (wordAtOffset img e.2)) hookDefaults
  let tables := (jumpEntries img).foldl (fun m e => sput 0 m e.1 (jumpAtOffset img e.2)) []
  s.setLoupe { s.loupe with store := words, jump := tables, loaded := true }

/-- One instruction-store image in the clusters of its mask. -/
def loadIstore (img : List Byte) (s : State) (x : Section) : State :=
  (List.range 17).foldl (fun st c =>
    if x.dest.testBit c then st.setMems { st.mems with istore := writeBytes st.mems.istore (istoreSize * c) (x.bytes img) } else st) s

/-! ### Meters (R363, R364) -/

/-- R364: a meter line that may be written. -/
def meterOk (l : List Byte) : Bool :=
  let m := meterOf l
  l.length == 64 && nbits (lineWord l 0) 29 16 == 0 && nbits (lineWord l 0) 7 0 == 0 && (l.drop 36).all (· == 0)
    && decide (m.cbs ≤ 16777215) && decide (m.ebs ≤ 16777215)
    && (if m.two then m.cbs != 0 && m.ebs != 0 && decide (m.cir ≤ m.pir) else m.pir == 0 && (m.cbs != 0 || m.ebs != 0))

/-- R364: a meter entry is written with full buckets and LAST. -/
def writeMeter (s : State) (i : Nat) (l : List Byte) (last : Nat) : State :=
  let m := meterOf l
  hbmWrite s (s.meterAddr i) (l.take 20 ++ Meter.tail { m with tc := 256 * m.cbs, te := 256 * m.ebs, last := last } ++ leBytes 28 0)

/-- The METERS sections: an entry that R364 refuses, or beyond SWT_METER_COUNT, is not written. -/
def loadMeters (s : State) (img : List Byte) (t : Time) : State :=
  (imageMeters img).foldl (fun st e => if e.1 < st.meterCount ∧ meterOk e.2 then writeMeter st e.1 e.2 t.toNat else st) s

/-! ### Classifier and epoch slots (R148, R166) -/

/-- R148: the tree-top cache is filled from the node region. -/
def fillCache (s : State) : State :=
  let a := s.clsRegion
  let n := 64 * min cacheLines s.clsLines
  s.setCls { s.cls with cache := (s.mems.hbm.filter fun e => a ≤ e.1 && e.1 < a + n).map fun e => (e.1 - a, e.2) }

/-- R166, R167: the image's epoch becomes LIVE and CURRENT in slot 0, every other slot FREE. -/
def swapEpochs (s : State) (img : List Byte) (t : Time) : State :=
  let s1 := (List.range 4).foldl (fun st k => if (st.slot k).pending then st.logEvent 0x32 0 (epochData (st.slot k) k) else st) s
  let d := imageEpoch img
  let first := { FixSlot.empty with number := BitVec.ofNat 16 (leNat (d.take 2)), commit := t }
  let s2 := s1.setFix { s1.fix with slots := [first, FixSlot.empty, FixSlot.empty, FixSlot.empty], superseded := [] }
  makeCurrent (s2.setCls { s2.cls with descs := writeBytes [] 0 d, staged := none }) 0

/-! ### Locks (R307, R321) -/

/-- R307, R321: DATA locks are freed; CONFIG locks that are held keep holder and class; semaphores take their new counts.  `old` is the
state before the new registers. -/
def swapLocks (old s : State) : State :=
  let keep := s.lck.locks.filter fun e => old.configClass e.1
  let gone := (s.lck.locks.filter fun e => !old.configClass e.1).map fun e => e.2.holder
  let s1 := gone.foldl signalInh (s.setLck { s.lck with locks := keep })
  let s2 := keep.foldl (fun st e =>
    let a := lckBase + 0x100 + 4 * (e.1 / 32)
    st.setReg a (setBit (st.reg a) (e.1 % 32) true)) s1
  let pairs := dedupSorted ((s2.lck.sems.map fun e => e.1 / 2) ++
    (s2.regs.filterMap fun e => if lckBase + 0x1000 ≤ e.1 && e.1 < lckBase + 0x3000 then some ((e.1 - (lckBase + 0x1000)) / 4) else none))
  pairs.foldl (fun st n => semInit st n (st.reg (lckBase + 0x1000 + 4 * n))) s2

/-! ### Ethernet and the switch core (R384, R475, R481) -/

/-- R384, R481: the new modes; each port of a half whose mode changes goes down with HOLD = 0. -/
def swapModes (s : State) (img : List Byte) : State :=
  let m := imageModes (regWrites img)
  let ports := (List.range 16).filter fun p => laneMode m.1 m.2 p != laneMode s.eth.modeLo s.eth.modeHi p
  let s1 := ports.foldl (fun st p => ethStop st p true) s
  { s1 with eth := { s1.eth with modeLo := m.1, modeHi := m.2 } }

/-- R481: the ports whose ETH_Pp_CFG has changed. -/
def swapPorts (old s : State) : State :=
  (List.range 16).foldl (fun st p =>
    let a := ethBase + 0x100 + 0x40 * p
    if old.reg a = s.reg a then st else ethCfgChanged st p (old.reg a)) s

/-- R355: XOFF follows the new thresholds. -/
def swapXoff (s : State) : State :=
  (List.range 22).foldl (fun st i => (List.range 8).foldl (fun st' k => xoffRefresh st' i k) st) s

/-- R384: a queue with frames that the new profile disables is flushed with reason PROFILE. -/
def swapQueues (s : State) : State :=
  s.swt.queues.foldl (fun st e => if !e.2.frames.isEmpty && !st.nodeEn .queue e.1 then flushQueue st e.1 0xC else st) s

/-! ### Application (R527) -/

/-- R8, R296: EN_S and EN_U of every core; no section of an image gives them, so they are free. -/
def freeCxen (s : State) : State :=
  (List.range 129).foldl (fun st c =>
    let (v, st1) := st.takeFree
    let w := putBits (st1.cxen c) 0x00003F3F (BitVec.ofNat 32 v) &&& cxenMask st1.variant
    { st1 with cores := { st1.cores with cxen := sput 0x003F0000 st1.cores.cxen c w } }) s

/-- R527: what the order of the sections gives, for an image that was accepted, with `t` the switch time or the time of a boot's
application.  The pools keep the geometry of the first profile since reset (R326). -/
def applyImage (s : State) (img : List Byte) (t : Time) : State :=
  let ws := regWrites img
  let s1 := if s.mgt.applied then s else s.setTrays { s.trays with pools := imagePools img }
  let s2 := swapModes { s1 with regs := mergeRegs s1 (trial s img).1 (writtenKeys ws) } img
  let s3 := ws.foldl effectWrite s2
  let s4 := (sectionsOfType img tyIstore).foldl (loadIstore img) (loadMicrocode s3 img)
  let s5 := swapEpochs (loadMeters (fillCache s4) img t) img t
  let s6 := swapLocks s s5
  let s7 := freeCxen { s6 with cores := { s6.cores with chans := [] } }
  let s8 := swapQueues (swapXoff (swapPorts s s7))
  let s9 := stopRecompute s8
  ptpCheck (timProfile (s9.setMgt { s9.mgt with ptpNoPort := false }) (s.fld timBase 1 0))

/-- R49, R481, R429: RUN is entered: ports start, rings splice where AUTO_SPLICE asks. -/
def enterRun (s : State) : State := autoSplice (ethStartAll { s with dev := .run })

/-! ### Boot (R49, R525) -/

/-- No stack present is still to be trained (R499, R525). -/
def State.hbmTrained (s : State) : Bool := (List.range 4).all fun c => !s.variant.hasStack c || (s.hbmCtl c).st == .active

/-- R49, R525: the boot profile is applied and the device enters RUN, or it is refused and the device enters IDLE. -/
def execBootProfileApplied (flashOk : Bool) (s : State) : Outcome State Fault Refusal :=
  if s.dev ≠ .boot ∨ !s.mgt.boot.firmware ∨ !s.hbmTrained then .next s
  else
    let n := s.mgt.bootProfile
    match acceptImage s n.toNat flashOk with
    | (s1, .error _) => .next { s1 with dev := .idle, faultN := false }
    | (s1, .ok img) =>
      let s2 := applyImage s1 img s1.now
      .next (enterRun { s2.setMgt { s2.mgt with applied := true, active := n } with faultN := false })

/-! ### Switching (R532, R533, R600) -/

/-- R532, R600: a switch completes. -/
def completeSwitch (s : State) (x : PendingSwitch) (killed : Nat) : State :=
  let s1 := s.setMgt { s.mgt with switch := none, swap := none, active := x.profile, applied := true, bootSel := x.profile,
                                  switches := min 255 (s.mgt.switches + 1) }
  (enterRun s1).logEvent 1 0 (evAt 0 x.profile.toNat ||| evAt 1 (min 255 killed) ||| evAt 8 x.time.toNat)

/-- R532: a frame that waits for its first pass and was admitted at T or later is held. -/
def holdFrames (s : State) (t : Time) : State :=
  let waiting := (s.loupe.waiting.filter fun e => e.1 % 32 < 22).flatMap (·.2)
  waiting.foldl (fun st h => if t ≤ (st.pkt h).arrival then st.setPkt h { st.pkt h with held := true } else st) s

/-- R533: the held frames go on to the Loupe. -/
def releaseHeld (s : State) : State :=
  s.pkts.foldl (fun st e => if e.2.held then st.setPkt e.1 { st.pkt e.1 with held := false } else st) s

/-- R49, R532: fabric time reaches T. -/
def execProfileSwitchTime (s : State) : Outcome State Fault Refusal :=
  match s.mgt.switch with
  | none => .next s
  | some x =>
    if s.now < x.time then .next s
    else if s.dev = .idle then .next (completeSwitch (applyImage s x.image x.time) x 0)
    else if s.dev = .run then
      let s1 := s.setMgt { s.mgt with switch := none, swap := some { sw := x, step := .drain, killed := 0 } }
      .next (holdFrames { s1 with dev := .swap } x.time)
    else .next s

/-- R200, R281, R532: the drain has ended: frames admitted before T are past the classifier, the Dealer's lists are empty, and every packet
and pool thread is IDLE. -/
def State.drainDone (s : State) : Bool :=
  s.loupe.waiting.all (fun e => e.2.all fun h => (s.pkt h).held)
    && s.loupe.engines.all (·.2.isEmpty) && s.cls.lanes.all (·.2.isEmpty) && s.dlr.inbox.isEmpty
    && s.dlr.ready.all (·.2.isEmpty) && s.dlr.trump.all (·.2.isEmpty) && s.dlr.slow.isEmpty && s.busyThreads.isEmpty

/-- R281, R532: DRAIN_LIMIT has passed since T. -/
def execDrainLimitExpire (s : State) : Outcome State Fault Refusal :=
  match s.dev, s.mgt.swap with
  | .swap, some w =>
    if w.step = .drain ∧ w.sw.time.toNat + usFtu (s.fld mgtBase 15 0) ≤ s.nowN then
      let s1 := s.setMgt { s.mgt with swap := some { w with killed := w.killed + s.busyThreads.length } }
      .next (killForSwap s1)
    else .next s
  | _, _ => .next s

/-- R532: the drain of step 3 ends; the Fixer empties. -/
def execStopBathDrainDone (s : State) : Outcome State Fault Refusal :=
  match s.dev, s.mgt.swap with
  | .swap, some w =>
    if w.step = .drain ∧ s.drainDone then .next (s.setMgt { s.mgt with swap := some { w with step := .fixer } }) else .next s
  | _, _ => .next s

/-- R90, R532: the Fixer holds no entry: the staged state is loaded. -/
def execSwapFixerEmpty (s : State) : Outcome State Fault Refusal :=
  match s.dev, s.mgt.swap with
  | .swap, some w =>
    if w.step = .fixer ∧ s.fix.entries.isEmpty ∧ s.fix.reports.isEmpty then
      let s1 := applyImage s w.sw.image w.sw.time
      .next (s1.setMgt { s1.mgt with swap := some { w with step := .loaded } })
    else .next s
  | _, _ => .next s

/-- R532 step 6: SWAP is left for RUN. -/
def execSwapComplete (s : State) : Outcome State Fault Refusal :=
  match s.dev, s.mgt.swap with
  | .swap, some w => if w.step = .loaded then .next (completeSwitch (releaseHeld s) w.sw w.killed) else .next s
  | _, _ => .next s

end Sys2Proof.Machine
end

