-- ==== Sys2Proof/Machine/Snapshot.lean ====
section
/-! DEFINITION. Snapshots (R44, R45, R465–R468): what a stream's snapshot holds, when it is taken, and its delivery. -/

namespace Sys2Proof.Machine

open Host

/-! ### The sections (R466, R468) -/

/-- The counters of a block, in ascending register offset, instance by instance. -/
def counterOffsets (b : Nat) (rows : List RegRow) : List Nat :=
  (rows.filter fun r => r.kind == .counter).flatMap fun r => r.offsets.map (b + ·)

/-- R466, R468: the counters of the unit of a UNITS bit, 0–13. -/
def unitCounters : Nat → List Nat
  | 0 => counterOffsets ethBase ethRows
  | 1 => counterOffsets ringBase ringRows
  | 2 => counterOffsets loupeBase loupeRows
  | 3 => counterOffsets clsBase clsRows
  | 4 => counterOffsets dlrBase dlrRows
  | 5 => counterOffsets fixBase fixRows
  | 6 => counterOffsets tryBase tryRows
  | 7 => counterOffsets swtBase swtRows
  | 8 => counterOffsets lckBase lckRows
  | 9 => (List.range 17).flatMap fun c => counterOffsets (thrBase c) (thrRows ++ cxRows (if c = 16 then 1 else 8))
  | 10 => counterOffsets hqeBase hqeRows
  | 11 => counterOffsets hbmBase hbmRows
  | 12 => counterOffsets cshBase cshRows
  | 13 => [timBase + 0x34, timBase + 0x36]
  | _ => []

/-- Bytes of one 64-bit counter. -/
def State.counterBytes (s : State) (off : Nat) : List Byte := leBytes 8 (sget 0 s.counters off)

/-- R160: the HBM address of COUNT pair `i`. -/
def State.pairAddr (s : State) (i : Nat) : Nat :=
  65536 * s.fld (clsBase + 0x14) 31 16 + 2 ^ 32 * s.fld (clsBase + 0x18) 5 0 + 16 * i

/-- R160: COUNT pair `i`; one that does not exist or cannot be read is free. -/
def pairBytes (i : Nat) (a : State × List Byte) : State × List Byte :=
  let (s, bs) := a
  match (if i < s.counterCount then hbmRead s (s.pairAddr i) 16 else (s, none)) with
  | (s1, some l) => (s1, bs ++ l)
  | (s1, none) =>
    let (v, s2) := s1.takeFree
    (s2, bs ++ leBytes 16 v)

/-- The length of a section's body. -/
def Stream.bodyLen (x : Stream) (bit : Nat) : Nat :=
  if bit = 14 then 16 * x.clsCount else if bit = 15 then 48 * x.qCount else 8 * (unitCounters bit).length

/-- The UNITS bits of a stream, ascending. -/
def Stream.sections (x : Stream) : List Nat := (List.range 16).filter fun b => x.units.testBit b

/-- R462, R468: the length of a snapshot: header, sections and trailer. -/
def Stream.length (x : Stream) : Nat := 72 + (x.sections.map fun b => 8 + x.bodyLen b).foldl (· + ·) 0

/-- R388, R468: six values of each queue. -/
def State.queueBytes (s : State) (q : Nat) : List Byte :=
  (List.range 6).flatMap fun k => leBytes 8 (sget 0 s.swt.qcounts (8 * q + k))

/-- A section, behind those before it. -/
def sectionBytes (x : Stream) (a : State × List Byte) (bit : Nat) : State × List Byte :=
  let (s, bs) := a
  let head := bs ++ leBytes 2 bit ++ [0, 0] ++ leBytes 4 (x.bodyLen bit)
  if bit = 14 then ((List.range x.clsCount).map (x.clsFirst + ·)).foldl (fun a' i => pairBytes i a') (s, head)
  else if bit = 15 then (s, head ++ ((List.range x.qCount).map (x.qFirst + ·)).flatMap s.queueBytes)
  else (s, head ++ (unitCounters bit).flatMap s.counterBytes)

/-- R468: snapshot `gen` of stream `k` as of `t`. -/
def snapshotBytes (s : State) (k : Nat) (x : Stream) (gen : Word) (t : Time) : State × List Byte :=
  let head := leBytes 4 gen.toNat ++ leBytes 2 k ++ leBytes 2 x.units ++ leBytes 8 t.toNat ++ leBytes 2 s.ownNode
    ++ leBytes 2 (s.fld (ringBase + 4) 31 16) ++ leBytes 4 x.length ++ leBytes 40 0
  let (s1, bs) := x.sections.foldl (sectionBytes x) (s, head)
  (s1, bs ++ leBytes 4 gen.toNat ++ leBytes 4 0)

/-! ### Taking (R467) -/

def State.setStream (s : State) (k : Nat) (x : Stream) : State := s.setHqe { s.hqe with streams := sins s.hqe.streams k x }

/-- The last periodic instant up to now. -/
def State.lastInstant (s : State) (x : Stream) : Nat := if x.period = 0 then 0 else s.nowN / (16000 * x.period) * (16000 * x.period)

/-- R467: the snapshot that is due: its time, and the stream with the instant or the request taken off. -/
def State.snapshotDue (s : State) (x : Stream) : Option (Time × Stream) :=
  match x.requests.find? fun t => t ≤ s.now with
  | some t => some (t, { x with requests := x.requests.erase t })
  | none =>
    let i := s.lastInstant x
    if x.period ≠ 0 ∧ x.last.toNat < i then some (BitVec.ofNat 64 i, { x with last := BitVec.ofNat 64 i }) else none

/-- R467: a snapshot that is not delivered leaves its number unused. -/
def snapshotMiss (s : State) : State := s.count (hqeBase + 0x924)

/-- R44, R467: a snapshot is taken with the stream's next generation number, unless the one before is still being written. -/
def execSnapshotTake (k : BitVec 8) (s : State) : Outcome State Fault Refusal :=
  match sfind s.hqe.streams k.toNat with
  | none => .next s
  | some x =>
    match s.snapshotDue x with
    | none => .next s
    | some (t, y) =>
      let z := { y with gen := y.gen + 1 }
      if x.taken.isSome then .next (snapshotMiss (s.setStream k.toNat z))
      else
        let (s1, bs) := snapshotBytes s k.toNat x x.gen t
        .next (s1.setStream k.toNat { z with taken := some (x.gen, t, bs) })

/-! ### Delivery (R467, R468) -/

/-- R467: the completion ring takes no entry. -/
def State.snapshotBlocked (s : State) (x : Stream) : Bool :=
  !s.hqeRuns x.fn || (match s.hcq x.fn x.cq with
    | none => true
    | some c => c.full)

/-- R468: the slot is written and the SNAPSHOT completion follows. -/
def execSnapshotDeliver (k : BitVec 8) (s : State) : Outcome State Fault Refusal :=
  match sfind s.hqe.streams k.toNat with
  | none => .next s
  | some x =>
    match x.taken with
    | none => .next s
    | some (gen, t, bs) =>
      let s1 := s.setStream k.toNat { x with taken := none }
      if s.snapshotBlocked x then .next (snapshotMiss s1)
      else
        let slot := gen.toNat % x.slots
        let s2 := s1.setMems { s1.mems with host := writeBytes s1.mems.host (x.addr + slot * bs.length) bs }
        .next (postCompletion s2 x.fn x.cq
          { d := completion 4 stOk k.toNat gen (BitVec.ofNat 32 slot) (BitVec.ofNat 32 bs.length) s2.now (t.setWidth 32) 0, solicit := false })

end Sys2Proof.Machine
end

