-- ==== Sys2Proof/Machine/Commands.lean ====
section
/-! DEFINITION. The command executor (R28, R29, R535–R539): authority, the order of the checks, and what each command does
(R162, R163, R315, R364, R462, R466, R469, R471, R517, R531, R538, R546, R552). -/

namespace Sys2Proof.Machine

open Host

/-! ### Descriptors and ports (R456, R535) -/

def opcodeOf (d : Desc) : Nat := bits d.w0 31 16
/-- W4–W5 as an address or a time. -/
def wideOf (d : Desc) : Nat := d.w4.toNat + 2 ^ 32 * d.w5.toNat
def timeOf (d : Desc) : Time := d.w5 ++ d.w4
/-- The operand words W2–W7. -/
def operandsOf (d : Desc) : List Word := [d.w2, d.w3, d.w4, d.w5, d.w6, d.w7]

/-- R535: the authorities. -/
inductive Authority where
  | board | host | tenant | fabric
  deriving DecidableEq, Repr

/-- R28, R535: the authority of a port. -/
def authorityOf : CmdPort → Authority
  | .ring fn _ _ _ => if fn < 4 then .host else .tenant
  | .board _ => .board
  | .fabric _ _ => .fabric

/-- The function of a command ring. -/
def fnOf : CmdPort → Nat
  | .ring fn _ _ _ => fn
  | _ => 0

/-- R535: the requester ID of a port. -/
def State.portRequester (s : State) : CmdPort → Nat
  | .ring fn _ _ _ => s.fnRequester fn
  | .board _ => 1088
  | .fabric _ _ => 1089

/-! ### The permission tables (R537, R538) -/

/-- Who may issue a command, and the bits of W2–W7 that it names. -/
structure CmdRule where
  board : Bool
  host : Bool
  tenant : Bool
  fabric : Bool
  used : List Nat
  deriving DecidableEq, Repr

/-- A whole word. -/
def allBits : Nat := 0xFFFFFFFF

/-- R462, R537, R538: the rule of an opcode; none for a reserved one. -/
def cmdRule (op : Nat) : Option CmdRule :=
  let rule := fun (b h t f : Bool) (used : List Nat) => some { board := b, host := h, tenant := t, fabric := f, used := used }
  match op with
  | 0x0001 => rule false true true false [0x3FFFFF, 0x7FFFFFF, allBits, allBits, 0xFFFF, 0]
  | 0x0002 => rule false true true false [0x3FFFF, allBits, allBits, allBits, 0, 0]
  | 0x0003 => rule false true true false [0x1FFFF, 0, 0, 0, 0, 0]
  | 0x0004 => rule false true false false [0x3FF, allBits, 0x3FFF3FFF, 0x7F, allBits, allBits]
  | 0x0005 => rule false true false false [0x3F, 0, allBits, allBits, 0, 0]
  | 0x0006 => rule false true false true [0x3F, 0, allBits, allBits, 0, 0]
  | 0x0007 => rule false true false false [0x3F, 0, 0, 0, 0, 0]
  | 0x0100 => rule false true true true [0x1FF0003, allBits, allBits, allBits, 0, 0]
  | 0x0101 => rule false true false true [0xFFFF, 0, allBits, allBits, 0, 0]
  | 0x0102 => rule false true false true [0xFFFF, 0, allBits, allBits, 0, 0]
  | 0x0103 => rule false true false true [0xFFFF, 0, 0, 0, 0, 0]
  | 0x0200 => rule false true false true [0xFFFFF, 0, allBits, allBits, 0, 0]
  | 0x0300 => rule false true true false [0x3FFF, 0, 0, 0, 0, 0]
  | 0x0301 => rule false true true false [0x3FFF, 0, 0, 0, 0, 0]
  | 0x0302 => rule false true true false [0xFFF, 0, 0, 0, 0, 0]
  | 0x0303 => rule true true false false [0x3FFF, 0, 0, 0, 0, 0]
  | 0x0400 => rule true true false true [0xF, 0, 0, 0, 0, 0]
  | 0x0500 => rule true true false false [0x3, 0, allBits, allBits, 0, 0]
  | 0x0501 => rule true true false false [0, 0, 0, 0, 0, 0]
  | 0x0502 => rule true true false true [0, 0, 0, 0, 0, 0]
  | 0x0510 => rule true true false false [0x3, allBits, allBits, allBits, allBits, 0]
  | 0x0511 => rule true true false false [0x3, 0, 0, 0, 0, 0]
  | 0x0520 => rule false true false false [0x7FFF, 0, allBits, allBits, 0, 0]
  | 0x0521 => rule true true false false [0, allBits, allBits, allBits, allBits, 0]
  | 0x0530 => rule true true false true [0, 0, allBits, allBits, 0, 0]
  | 0x0531 => rule true true false true [0, 0, allBits, allBits, 0, 0]
  | 0x0532 => rule true true false true [allBits, 0, 0, 0, 0, 0]
  | 0x0533 => rule true true false false [allBits, allBits, allBits, allBits, allBits, 0]
  | 0x0540 => rule true true false false [0x1F, 0x3, 0, 0, 0, 0]
  | 0x0541 => rule true true false false [0x7FF, 0, 0, 0, 0, 0]
  | 0x0550 => rule true true false false [0xFFF, 0, 0, 0, 0, 0]
  | 0x0560 => rule true true false true [allBits, allBits, allBits, 0, 0, 0]
  | 0x0570 => rule true false false true [allBits, 0, 0, 0, 0, 0]
  | 0x0571 => rule true false false false [allBits, allBits, 0, 0, 0, 0]
  | 0x0580 => rule true true false false [0x1, 0, 0, 0, 0, 0]
  | 0x0581 => rule true true true true [0, 0, 0, 0, 0, 0]
  | _ => none

def CmdRule.permits (r : CmdRule) : Authority → Bool
  | .board => r.board
  | .host => r.host
  | .tenant => r.tenant
  | .fabric => r.fabric

/-- R16: a reserved field of the descriptor is not 0: W0[15:9], or an operand bit that the command does not name. -/
def CmdRule.reserved (r : CmdRule) (d : Desc) : Bool :=
  bits d.w0 15 9 != 0 || ((operandsOf d).zip r.used).any fun e => e.1 &&& ~~~(BitVec.ofNat 32 e.2) != 0

/-- R539: what the executor runs in FROZEN. -/
def runsFrozen (op : Nat) : Bool := [0x0502, 0x0510, 0x0511, 0x0521, 0x0533, 0x0570, 0x0580, 0x0581].contains op

/-- R537, R539: the first common check that a command fails. -/
def commandRefusal (s : State) (p : CmdPort) (d : Desc) : Option Nat :=
  match cmdRule (opcodeOf d) with
  | none => some stBadOpcode
  | some r =>
    if s.dev = .frozen ∧ !runsFrozen (opcodeOf d) then some stBadState
    else if !r.permits (authorityOf p) then some stDenied
    else if r.reserved d then some stBadField
    else none

/-- R51, R419, R539, R540: the executor serves the port: firmware runs, and in FROZEN only the board is heard. -/
def State.serves (s : State) (p : CmdPort) : Bool :=
  s.dev != .reset && s.mgt.boot.firmware && (s.dev != .frozen || (match p with
    | .board _ => true
    | _ => false))

/-! ### Data that commands read and return (R536, R538) -/

/-- R536, R461: the `n` bytes that a command reads: from the host, or out of the data attached to it. -/
def readOperand (p : CmdPort) (d : Desc) (n : Nat) (data : List Byte) (ok : Bool) : Except Nat (List Byte) :=
  match p with
  | .ring _ _ _ _ => if ok ∧ n ≤ data.length then .ok (data.take n) else .error stDmaError
  | _ => if (wideOf d) + n ≤ data.length then .ok ((data.drop (wideOf d)).take n) else .error stBadField

/-- R536: the most that a command may return on its port. -/
def returnLimit : CmdPort → Option Nat
  | .ring _ _ _ _ => none
  | .board _ => some 1024
  | .fabric _ _ => some 8192

def overLimit (p : CmdPort) (n : Nat) : Bool :=
  match returnLimit p with
  | some m => decide (m < n)
  | none => false

/-- R536: returned data goes to host memory at W4–W5, or behind the completion. -/
def returnData (s : State) (p : CmdPort) (d : Desc) (bs : List Byte) (r : CmdResult) : State × CmdResult :=
  match p with
  | .ring _ _ _ _ => (s.setMems { s.mems with host := writeBytes s.mems.host (wideOf d) bs }, r)
  | _ => (s, { r with data := bs })

/-- What a command comes to: the state, and its result unless it completes later. -/
abbrev CmdOutcome := State × Option CmdResult

def fails (s : State) (status : Nat) : CmdOutcome := (s, some (.of status))
def succeeds (s : State) (r0 : Nat) : CmdOutcome := (s, some (.value (BitVec.ofNat 32 r0)))

/-! ### Rings and functions (R441, R442, R462, R469, R471) -/

def aligned4K (a : Nat) : Bool := a % 4096 == 0

/-- R462: the type of RTYPE. -/
def ringTypeOf : Nat → Option RingType
  | 0 => some .tx
  | 1 => some .rx
  | 2 => some .cmd
  | _ => none

/-- R462: the fields of W3 that belong to other types are 0. -/
def otherTypeFields (t : RingType) (w : Word) : Bool :=
  match t with
  | .tx => bits w 26 17 == 0
  | .rx => bits w 16 14 == 0 && bits w 26 18 == 0
  | .cmd => bits w 17 14 == 0 && (bitAt w 18 || bits w 26 19 == 0)

/-- RING_CREATE (R442, R462, R469). -/
def ringCreate (s : State) (fn : Nat) (d : Desc) : CmdOutcome :=
  let r := bits d.w2 15 0
  let q := bits d.w3 13 0
  match ringTypeOf (bits d.w2 17 16) with
  | none => fails s stBadField
  | some t =>
    if !otherTypeFields t d.w3 then fails s stBadField
    else if !s.ringInRange fn r ∨ !s.cqInRange fn q then fails s stOutOfRange
    else if 10 < bits d.w2 21 18 ∨ !aligned4K (wideOf d) then fails s stBadField
    else if (s.hring fn r).isSome ∨ (s.hcq fn q).isNone then fails s stBadState
    else
      let v := { HRing.new t (bits d.w2 21 18) q (wideOf d) (bits d.w6 15 0) with
        prio := bits d.w3 16 14, nobuf := bitAt d.w3 17, core := bitAt d.w3 18, group := bits d.w3 22 19, dprio := bits d.w3 26 23 }
      succeeds (s.setHring fn r v) 0

/-- CQ_CREATE (R442, R462, R464). -/
def cqCreate (s : State) (fn : Nat) (d : Desc) : CmdOutcome :=
  let q := bits d.w2 13 0
  let vec := bits d.w3 10 0
  let irq := bitAt d.w3 11
  if !s.cqInRange fn q ∨ (4 ≤ fn ∧ irq ∧ (s.fn fn).vectors ≤ vec) then fails s stOutOfRange
  else if 10 < bits d.w2 17 14 ∨ bits d.w3 19 12 = 0 ∨ !aligned4K (wideOf d) ∨ (fn < 4 ∧ irq ∧ vec = 0) then fails s stBadField
  else if (s.hcq fn q).isSome then fails s stBadState
  else succeeds (s.setCq fn q (Cq.new (bits d.w2 17 14) (wideOf d) vec irq (bits d.w3 19 12) (bits d.w3 31 20))) 0

/-- A completion ring is named by an ACTIVE descriptor ring of its function. -/
def State.cqNamed (s : State) (fn q : Nat) : Bool :=
  s.hqe.rings.any fun e => e.1 / 65536 == fn && e.2.cq == q && !e.2.fault && e.2.dying.isNone

/-- RING_DESTROY (R469): a descriptor ring goes once everything fetched has completed. -/
def ringDestroy (s : State) (p : CmdPort) (fn : Nat) (d : Desc) : CmdOutcome :=
  let r := bits d.w2 15 0
  if bitAt d.w2 16 then
    if !s.cqInRange fn r then fails s stOutOfRange
    else if (s.hcq fn r).isNone ∨ s.cqNamed fn r then fails s stBadState
    else succeeds (s.setHqe { s.hqe with cqs := sdel s.hqe.cqs (ringKey fn r) }) 0
  else if !s.ringInRange fn r then fails s stOutOfRange
  else match s.hring fn r with
    | none => fails s stBadState
    | some v =>
      if r = 0 ∨ v.dying.isSome then fails s stBadState
      else (finishDestroy (s.setHring fn r { v with dying := some (p, d), frame := none }) fn r, none)

def spansMeet (a n b m : Nat) : Bool := decide (a < b + m) && decide (b < a + n) && decide (0 < n) && decide (0 < m)

/-- VF_CONFIG (R441, R462, R471). -/
def vfConfig (s : State) (pf : Nat) (d : Desc) : CmdOutcome :=
  let vf := bits d.w2 9 0
  let fn := s.vfBase pf + vf
  let rf := bits d.w3 15 0
  let rn := bits d.w3 31 16
  let qf := bits d.w4 13 0
  let qn := bits d.w4 29 16
  let lf := d.w6.toNat
  let ln := d.w7.toNat
  let others := s.hqe.fns.filter fun e => 4 ≤ e.1 && e.1 != fn
  let clash := others.any fun e =>
    (s.pfOf e.1 == pf && (spansMeet rf rn e.2.ringFirst e.2.ringCount || spansMeet qf qn e.2.cqFirst e.2.cqCount))
      || spansMeet lf ln e.2.lineFirst e.2.lineCount
  if s.totalVfs pf ≤ vf ∨ s.ringShare pf < rf + rn ∨ s.cqShare pf < qf + qn then fails s stOutOfRange
  else if 64 < bits d.w5 6 0 ∨ clash then fails s stBadField
  else if bitAt (s.fn fn).ctrl 0 then fails s stBadState
  else succeeds (s.setFn fn { s.fn fn with ringFirst := rf, ringCount := rn, cqFirst := qf, cqCount := qn, vectors := bits d.w5 6 0,
                                           lineFirst := lf, lineCount := ln }) 0

/-! ### Snapshot streams (R465–R467) -/

/-- R466: the stream that a descriptor asks for. -/
def streamOf (s : State) (fn : Nat) (b : List Byte) : Stream :=
  let at_ := fun (i n : Nat) => leNat ((b.drop i).take n)
  { fn := fn, units := at_ 0 2, slots := at_ 2 1, period := at_ 4 4, addr := at_ 8 8, clsFirst := at_ 16 4, clsCount := at_ 20 4,
    qFirst := at_ 24 2, qCount := at_ 26 2, cq := at_ 28 2, gen := 0, last := s.now, requests := [], taken := none }

/-- R16, R466: the reserved bytes and the ranges of a stream descriptor. -/
def streamOk (b : List Byte) (x : Stream) : Bool :=
  b.getD 3 0 == 0 && leNat (b.drop 30) == 0 && decide (2 ≤ x.slots) && decide (x.slots ≤ 64) && decide (x.period ≤ 1000000)
    && aligned4K x.addr && decide (x.clsCount ≤ 1048576) && decide (x.qCount ≤ 32768)

/-- SNAP_CREATE (R466). -/
def snapCreate (s : State) (p : CmdPort) (fn : Nat) (d : Desc) (data : List Byte) (ok : Bool) : CmdOutcome :=
  let k := bits d.w2 5 0
  if 64 ≤ s.hqe.streams.length then fails s stResource
  else if (sfind s.hqe.streams k).isSome then fails s stBadState
  else match readOperand p d 32 data ok with
    | .error st => fails s st
    | .ok b =>
      let x := streamOf s fn b
      if !streamOk b x then fails s stBadField
      else if x.units.testBit 1 ∧ !s.variant.hasRing then fails s stUnitAbsent
      else if !s.cqInRange fn x.cq then fails s stOutOfRange
      else if (s.hcq fn x.cq).isNone then fails s stBadState
      else succeeds (s.setStream k x) x.length

/-- SNAP_REQUEST (R467). -/
def snapRequest (s : State) (d : Desc) : CmdOutcome :=
  let k := bits d.w2 5 0
  match sfind s.hqe.streams k with
  | none => fails s stBadState
  | some x =>
    if (wideOf d) < s.nowN + usFtu 2 then fails s stLateTime
    else succeeds (s.setStream k { x with requests := x.requests ++ [(timeOf d)] }) 0

/-- SNAP_DESTROY (R462). -/
def snapDestroy (s : State) (d : Desc) : CmdOutcome :=
  let k := bits d.w2 5 0
  if (sfind s.hqe.streams k).isNone then fails s stBadState
  else succeeds (s.setHqe { s.hqe with streams := sdel s.hqe.streams k }) 0

/-! ### Classifier (R144, R155, R162, R163, R471) -/

/-- R471: an action line holds a FORWARD or MIRROR to a host ring that is not the function's. -/
def State.foreignRing (s : State) (fn : Nat) (l : List Byte) : Bool :=
  (lineEntries l).any fun e => match actOf e with
    | some (.forward 2 dest) | some (.mirror 2 dest _) => (s.ringOwner dest).1 != fn
    | _ => false

/-- R144, R155: the status of a line of KIND `kind`. -/
def lineCheck (s : State) (p : CmdPort) (kind : Nat) (l : List Byte) : Nat :=
  if kind = 0 then (if nodeOk s.clsLines l then stOk else stBadNode)
  else if kind = 2 then (if templateOk l then stOk else stBadNode)
  else
    let st := actionLineStatus s.variant.hasRing s.clsLines l
    if st ≠ stOk then st
    else if (authorityOf p) = .tenant ∧ s.foreignRing (fnOf p) l then stOutOfRange
    else stOk

/-- The lines of 64 bytes in a block of data. -/
def linesIn : Nat → List Byte → List (List Byte)
  | 0, _ => []
  | n + 1, b => b.take 64 :: linesIn n (b.drop 64)

/-- CLS_NODE_WRITE (R162, R471). -/
def clsNodeWrite (s : State) (p : CmdPort) (d : Desc) (data : List Byte) (ok : Bool) : CmdOutcome :=
  let kind := bits d.w2 1 0
  let n := bits d.w2 24 16
  let first := d.w3.toNat
  let f := s.fn (fnOf p)
  let outside := fun (lo hi : Nat) => if first < lo then first else max first hi
  if (authorityOf p) = .tenant ∧ (first < f.lineFirst ∨ f.lineFirst + f.lineCount < first + n) then
    (s, some { CmdResult.of stOutOfRange with r0 := BitVec.ofNat 32 (outside f.lineFirst (f.lineFirst + f.lineCount)) })
  else if n = 0 ∨ 256 < n ∨ kind = 3 then fails s stBadField
  else if s.clsLines < first + n then (s, some { CmdResult.of stOutOfRange with r0 := BitVec.ofNat 32 (outside 0 s.clsLines) })
  else match readOperand p d (64 * n) data ok with
    | .error st => fails s st
    | .ok b =>
      let ls := linesIn n b
      match lpos (fun l => lineCheck s p kind l != stOk) ls with
      | some i => (s, some { CmdResult.of (lineCheck s p kind (ls.getD i [])) with r0 := BitVec.ofNat 32 (first + i) })
      | none => succeeds (ls.zipIdx.foldl (fun st e => writeClsLine st (first + e.2) e.1) s) 0

/-- CLS_EPOCH_STAGE (R162). -/
def clsEpochStage (s : State) (p : CmdPort) (d : Desc) (data : List Byte) (ok : Bool) : CmdOutcome :=
  match readOperand p d 2048 data ok with
  | .error st => fails s st
  | .ok b =>
    if leNat (b.take 2) ≠ bits d.w2 15 0 ∨ !descOk s.clsLines b then fails s stBadField
    else succeeds (s.setCls { s.cls with staged := some (writeBytes [] 0 b) }) 0

/-- CLS_CTRL.MIN_LEAD in FTU. -/
def State.minLead (s : State) : Nat := usFtu (s.fld clsBase 15 8)

/-- CLS_EPOCH_COMMIT (R163). -/
def clsEpochCommit (s : State) (d : Desc) : CmdOutcome :=
  let e := bits d.w2 15 0
  match s.cls.staged with
  | none => fails s (if s.dev = .swap then stEpochBusy else stBadEpoch)
  | some b =>
    let behind := s.usedSlots.any fun k =>
      let n := (e + 65536 - (s.slot k).number.toNat) % 65536
      n == 0 || decide (32768 ≤ n)
    if s.dev = .swap then fails s stEpochBusy
    else if readLE b 0 2 ≠ e ∨ behind then fails s stBadEpoch
    else if (wideOf d) < s.nowN + s.minLead ∨ s.usedSlots.any (fun k => (timeOf d) ≤ (s.slot k).commit) then fails s stLateTime
    else match (List.range 4).find? fun k => !(s.slot k).live && !(s.slot k).pending with
      | none => fails s stEpochBusy
      | some k =>
        let s1 := s.setSlot k { FixSlot.empty with number := BitVec.ofNat 16 e, pending := true, commit := (timeOf d) }
        let old := s1.cls.descs.filter fun x => x.1 / 2048 != k
        succeeds (s1.setCls { s1.cls with staged := none, descs := b.foldl (fun m x => sput 0 m (2048 * k + x.1) x.2) old }) k

/-- CLS_EPOCH_ABORT (R162, R167). -/
def clsEpochAbort (s : State) (d : Desc) : CmdOutcome :=
  match (List.range 4).find? fun k => (s.slot k).pending && (s.slot k).number.toNat == bits d.w2 15 0 with
  | none => fails s stNotPending
  | some k => succeeds ((s.setSlot k FixSlot.empty).logEvent 0x32 0 (epochData (s.slot k) k)) 0

/-- METER_WRITE (R364). -/
def meterWrite (s : State) (p : CmdPort) (d : Desc) (data : List Byte) (ok : Bool) : CmdOutcome :=
  let i := bits d.w2 19 0
  if s.meterCount ≤ i then fails s stOutOfRange
  else match readOperand p d 64 data ok with
    | .error st => fails s st
    | .ok l => if meterOk l then succeeds (writeMeter s i l s.nowN) 0 else fails s stBadField

/-! ### Locks, ring operations (R311, R315, R433) -/

/-- R304, R315: the completion status of a lock-unit status. -/
def lockStatus : Nat → Nat
  | 0 => stOk
  | 3 => stBusy
  | 4 => stNotHolder
  | _ => stBadState

/-- R315: the answer of the lock unit; RESULT0 is the value when `value` asks for it. -/
def lockOutcome (value : Bool) : State × LckAnswer → CmdOutcome
  | (s, .done 0 v) => succeeds s (if value then v else 0)
  | (s, .done st _) => fails s (lockStatus st)
  | (s, .waits) => (s, none)

/-- LOCK_ACQUIRE acts as TRYLOCK, LOCK_RELEASE as UNLOCK, SEM_TAKE as a non-blocking SEMP (R315). -/
def lockAcquire (s : State) (p : CmdPort) (d : Desc) : CmdOutcome :=
  lockOutcome false (lockRequest s (s.portRequester p) (bits d.w2 13 0) false)
def lockRelease (s : State) (p : CmdPort) (d : Desc) : CmdOutcome :=
  lockOutcome false (unlockRequest s (s.portRequester p) (bits d.w2 13 0))
def semTake (s : State) (p : CmdPort) (d : Desc) : CmdOutcome :=
  lockOutcome true (takeRequest s (s.portRequester p) (bits d.w2 11 0) false)

/-- LOCK_FORCE (R311). -/
def lockForce (s : State) (p : CmdPort) (d : Desc) : CmdOutcome :=
  let (s1, r) := forceLock s (s.portRequester p) (bits d.w2 13 0)
  succeeds s1 r

/-- RING_OP (R433). -/
def ringOp (s : State) (d : Desc) : CmdOutcome :=
  let op := bits d.w2 3 0
  if !s.variant.hasRing then fails s stUnitAbsent
  else if op = 0 ∨ 7 ≤ op then fails s stBadField
  else
    let (s1, r) := ringCommand s op
    let s2 := s1.setRing { s1.ring with cmdResult := r }
    if r = 0 then succeeds s2 0 else fails s2 (if r = 1 then stBadState else stBusy)

/-! ### Profiles (R530–R532, R538) -/

/-- PROFILE_SWITCH (R531): T is compared at the end of the check. -/
def profileSwitch (s : State) (d : Desc) (flashOk : Bool) : CmdOutcome :=
  if s.dev ≠ .idle ∧ s.dev ≠ .run then fails s stBadState
  else if s.mgt.switch.isSome then fails s stBusy
  else match acceptImage s (bits d.w2 1 0) flashOk with
    | (s1, .error st) => fails s1 st
    | (s1, .ok img) =>
      if (wideOf d) ≤ s1.nowN + usFtu 100 then fails s1 stLateTime
      else succeeds (s1.setMgt { s1.mgt with switch := some { profile := d.w2.setWidth 2, time := (timeOf d), image := img } }) 0

/-- PROFILE_CANCEL (R532). -/
def profileCancel (s : State) : CmdOutcome :=
  match s.mgt.switch with
  | none => fails s stNotPending
  | some x => succeeds ((s.setMgt { s.mgt with switch := none }).logEvent 3 0 (evAt 0 x.profile.toNat ||| evAt 8 x.time.toNat)) 0

/-- PROFILE_STATUS (R538). -/
def profileStatus (s : State) : CmdOutcome :=
  let t := (s.switchShown.map (·.time)).getD 0
  let w := at' s.mgt.active.toNat 0 ||| at' ((s.switchShown.map fun x => x.profile.toNat).getD 0) 2 ||| at' (b2n s.switchShown.isSome) 4
    ||| at' s.dev.code 5
  (s, some { status := stOk, r0 := w, r1 := t.setWidth 32, r2 := t.extractLsb' 32 32 &&& 0x7FFFFFFF, data := [] })

/-! ### Negatives (R517, R538) -/

/-- NEGATIVE_READ. -/
def negativeRead (s : State) (p : CmdPort) (d : Desc) : CmdOutcome :=
  let c := bits d.w2 1 0
  let off := d.w3.toNat
  let n := d.w6.toNat
  if !s.variant.hasStack c then fails s stUnitAbsent
  else if off % 64 ≠ 0 ∨ n % 64 ≠ 0 ∨ 65536 < off + n ∨ overLimit p n then fails s stBadField
  else
    let (s1, r) := returnData s p d (readBytes s.hbm.neg (65536 * c + off) n) (.value d.w6)
    (s1, some r)

/-- NEGATIVE_CLEAR. -/
def negativeClear (s : State) (d : Desc) : CmdOutcome :=
  let c := bits d.w2 1 0
  if !s.variant.hasStack c then fails s stUnitAbsent
  else if (s.hbmCtl c).negBusy.isSome then fails s stBadState
  else succeeds (eraseNegative s c) 0

/-! ### Events (R538, R546) -/

/-- EVENT_RING_SET. -/
def eventRingSet (s : State) (pf : Nat) (d : Desc) : CmdOutcome :=
  let set := fun (m : SMap EventRing) => succeeds { s with events := { s.events with rings := m } } 0
  if !aligned4K (wideOf d) then fails s stBadField
  else if (wideOf d) = 0 then set (sdel s.events.rings pf)
  else set (sins s.events.rings pf { base := (wideOf d), records := ringEntries (bits d.w2 14 12), irq := bitAt d.w2 11,
                                     vector := bits d.w2 10 0, dirty := false, holdoff := 0 })

/-- The oldest SEQ that the log holds. -/
def State.oldestEvent (s : State) : Nat := (s.events.next.toNat + 2 ^ 32 - s.events.held) % 2 ^ 32

/-- The records held from SEQ `first` on, up to `n` of them. -/
def State.eventsFrom (s : State) (first n : Nat) : List EventRec :=
  (List.range n).filterMap fun i =>
    let seq := (first + i) % 2 ^ 32
    if (seq + 2 ^ 32 - s.oldestEvent) % 2 ^ 32 < s.events.held then some (sget EventRec.empty s.events.log (seq % 4096)) else none

/-- EVENT_READ. -/
def eventRead (s : State) (p : CmdPort) (d : Desc) : CmdOutcome :=
  let n := d.w6.toNat
  if n = 0 ∨ 256 < n ∨ overLimit p (32 * n) then fails s stBadField
  else
    let rs := s.eventsFrom d.w3.toNat n
    let (s1, r) := returnData s p d (rs.flatMap EventRec.bytes)
      { CmdResult.value (BitVec.ofNat 32 rs.length) with r1 := BitVec.ofNat 32 s.oldestEvent }
    (s1, some r)

/-! ### Contact Sheet (R549, R552, R553) -/

/-- CSH_ARM. -/
def cshArm (s : State) (d : Desc) : CmdOutcome :=
  if s.csh.st = .idle ∨ s.csh.st = .stopped then
    succeeds { s with csh := { s.csh with st := .armed, wrptr := 0, startT := if (wideOf d) = 0 then none else some (timeOf d), stopT := none,
                                          gap := 0, samples := [], offers := [] } } 0
  else fails s stBadState

/-- CSH_STOPPED with the SEQ of the last record. -/
def cshStopped (s : State) : State := s.logEvent 0x91 0 (evAt 4 s.cshLastSeq)

/-- R552: the stop time is reached. -/
def cshStopNow (s : State) : State :=
  let s1 := { s with csh := { s.csh with stopT := none } }
  match s.csh.st with
  | .armed => cshStopped { s1 with csh := { s1.csh with st := .stopped, startT := none } }
  | .recording =>
    let s2 := s1.cshStop
    if s2.csh.st = .stopped then cshStopped s2 else s2
  | _ => s1

/-- CSH_STOP. -/
def cshStopAt (s : State) (d : Desc) : CmdOutcome :=
  if (wideOf d) = 0 then succeeds (cshStopNow s) 0
  else if s.csh.st = .armed ∨ s.csh.st = .recording then succeeds { s with csh := { s.csh with stopT := some (timeOf d) } } 0
  else succeeds s 0

/-- R549: the authority byte of a MARK record. -/
def markByte : Authority → Byte
  | .board => 0
  | .fabric => 3
  | _ => 1

/-- CSH_MARK: outside RECORDING and POST there is no record, and the SEQ returned is free. -/
def cshMark (s : State) (p : CmdPort) (d : Desc) : CmdOutcome :=
  if s.csh.recording then
    let s1 := s.cshOffer (CshRec.plain 6 s.now (leBytes 4 d.w2.toNat ++ [markByte (authorityOf p)]))
    succeeds s1 s1.cshLastSeq
  else
    let (v, s1) := s.takeFree
    succeeds s1 v

/-- CSH_READ. -/
def cshRead (s : State) (p : CmdPort) (d : Desc) : CmdOutcome :=
  let off := d.w2.toNat + 2 ^ 32 * d.w3.toNat
  let n := d.w6.toNat
  if off % 16 ≠ 0 ∨ n % 16 ≠ 0 ∨ 2 ^ 24 < n ∨ s.cshSize < off + n ∨ overLimit p n then fails s stBadField
  else match hbmRead s (s.cshRegion + off) n with
    | (s1, none) => fails s1 stDmaError
    | (s1, some bs) =>
      let (s2, r) := returnData s1 p d bs (.value d.w6)
      (s2, some r)

/-! ### Debug, Trays, time, registers, the device (R275, R278, R347, R538) -/

/-- DEBUG_MODE. -/
def debugMode (s : State) (d : Desc) : CmdOutcome :=
  let c := bits d.w2 4 0
  let put := fun (st : State) (k : Nat) => st.setReg (thrBase k + 0x400) (putBits (st.reg (thrBase k + 0x400)) 3 d.w3)
  if bits d.w3 1 0 = 3 ∨ (16 < c ∧ c ≠ 31) then fails s stBadField
  else succeeds (if c = 31 then (List.range 17).foldl put s else put s c) 0

/-- THREAD_RESET. -/
def threadReset (s : State) (d : Desc) : CmdOutcome :=
  let t := bits d.w2 9 0
  if bitAt d.w2 10 then (if t < 8 then succeeds (killThread s (1024 + t)) 0 else fails s stBadField)
  else succeeds (killThread s t) 0

/-- TRAYS_RECLAIM. -/
def traysReclaim (s : State) (d : Desc) : CmdOutcome :=
  let r := bits d.w2 11 0
  if 1090 ≤ r then fails s stBadField
  else if s.trays.reclaim.isSome then fails s stBusy
  else succeeds (startReclaim s r) 0

/-- TAI_SET. -/
def taiSet (s : State) (d : Desc) : CmdOutcome :=
  if s.follower then fails s stBadState else succeeds (setTai s (d.w4 ++ d.w3 ++ d.w2)) 0

/-- The path of a register access by command (R587). -/
def pathOfPort : CmdPort → Path
  | .fabric _ _ => .fabric
  | _ => .board

/-- REG_READ. -/
def regReadCmd (s : State) (p : CmdPort) (d : Desc) : CmdOutcome :=
  let (s1, v) := regRead s (pathOfPort p) d.w2.toNat
  (s1, some (.value v))

/-- REG_WRITE: BAD_FIELD when R11 or R12 applies. -/
def regWriteCmd (s : State) (d : Desc) : CmdOutcome :=
  let (s1, ok) := regWrite s .board d.w2.toNat d.w3
  if ok then succeeds s1 0 else fails s1 stBadField

/-- DEVICE_RESET: the warm reset follows 10 µs after the completion. -/
def deviceReset (s : State) (d : Desc) : CmdOutcome :=
  if !bitAt d.w2 0 then fails s stBadField
  else succeeds (if s.mgt.warmAt.isSome then s else s.setMgt { s.mgt with warmAt := some (s.now + BitVec.ofNat 64 (usFtu 10)) }) 0

/-- IDENTIFY. -/
def identify (s : State) : CmdOutcome :=
  (s, some { status := stOk, r0 := 0x16401F9A, r1 := s.mgt.fwVersion, r2 := BitVec.ofNat 32 s.ownNode, data := [] })

/-! ### The executor (R29, R537) -/

/-- What the command of an opcode does once the common checks have passed. -/
def commandBody (s : State) (p : CmdPort) (d : Desc) (data : List Byte) (ok : Bool) : CmdOutcome :=
  match (opcodeOf d) with
  | 0x0001 => ringCreate s (fnOf p) d
  | 0x0002 => cqCreate s (fnOf p) d
  | 0x0003 => ringDestroy s p (fnOf p) d
  | 0x0004 => vfConfig s (fnOf p) d
  | 0x0005 => snapCreate s p (fnOf p) d data ok
  | 0x0006 => snapRequest s d
  | 0x0007 => snapDestroy s d
  | 0x0100 => clsNodeWrite s p d data ok
  | 0x0101 => clsEpochStage s p d data ok
  | 0x0102 => clsEpochCommit s d
  | 0x0103 => clsEpochAbort s d
  | 0x0200 => meterWrite s p d data ok
  | 0x0300 => lockAcquire s p d
  | 0x0301 => lockRelease s p d
  | 0x0302 => semTake s p d
  | 0x0303 => lockForce s p d
  | 0x0400 => ringOp s d
  | 0x0500 => profileSwitch s d ok
  | 0x0501 => profileCancel s
  | 0x0502 => profileStatus s
  | 0x0510 => negativeRead s p d
  | 0x0511 => negativeClear s d
  | 0x0520 => eventRingSet s (fnOf p) d
  | 0x0521 => eventRead s p d
  | 0x0530 => cshArm s d
  | 0x0531 => cshStopAt s d
  | 0x0532 => cshMark s p d
  | 0x0533 => cshRead s p d
  | 0x0540 => debugMode s d
  | 0x0541 => threadReset s d
  | 0x0550 => traysReclaim s d
  | 0x0560 => taiSet s d
  | 0x0570 => regReadCmd s p d
  | 0x0571 => regWriteCmd s d
  | 0x0580 => deviceReset s d
  | 0x0581 => identify s
  | _ => fails s stBadOpcode

/-- R29: the completion of a command that has come to its end. -/
def answerCommand (p : CmdPort) (d : Desc) : CmdOutcome → State
  | (s, some r) => completeCmd s p d r
  | (s, none) => s

/-- R537: the executor on one command. -/
def runCommand (s : State) (p : CmdPort) (d : Desc) (data : List Byte) (ok : Bool) : State :=
  match commandRefusal s p d with
  | some st => completeCmd s p d (.of st)
  | none => answerCommand p d (commandBody s p d data ok)

/-- A row of the table: the command named by its opcode, on a port that the executor serves. -/
def commandRow (op : Nat) (p : CmdPort) (d : Desc) (data : List Byte) (ok : Bool) (s : State) : Outcome State Fault Refusal :=
  .next (if (opcodeOf d) = op ∧ s.serves p then runCommand s p d data ok else s)

/-! ### The rows (R462, R538) -/

def execRingCreate (p : CmdPort) (d : Desc) (s : State) : Outcome State Fault Refusal := commandRow 0x0001 p d [] true s
def execCqCreate (p : CmdPort) (d : Desc) (s : State) : Outcome State Fault Refusal := commandRow 0x0002 p d [] true s
def execRingDestroy (p : CmdPort) (d : Desc) (s : State) : Outcome State Fault Refusal := commandRow 0x0003 p d [] true s
def execVfConfig (p : CmdPort) (d : Desc) (s : State) : Outcome State Fault Refusal := commandRow 0x0004 p d [] true s
def execSnapCreate (p : CmdPort) (d : Desc) (data : List Byte) (ok : Bool) (s : State) : Outcome State Fault Refusal :=
  commandRow 0x0005 p d data ok s
def execSnapRequest (p : CmdPort) (d : Desc) (s : State) : Outcome State Fault Refusal := commandRow 0x0006 p d [] true s
def execSnapDestroy (p : CmdPort) (d : Desc) (s : State) : Outcome State Fault Refusal := commandRow 0x0007 p d [] true s
def execClsNodeWrite (p : CmdPort) (d : Desc) (data : List Byte) (ok : Bool) (s : State) : Outcome State Fault Refusal :=
  commandRow 0x0100 p d data ok s
def execClsEpochStage (p : CmdPort) (d : Desc) (data : List Byte) (ok : Bool) (s : State) : Outcome State Fault Refusal :=
  commandRow 0x0101 p d data ok s
def execClsEpochCommit (p : CmdPort) (d : Desc) (s : State) : Outcome State Fault Refusal := commandRow 0x0102 p d [] true s
def execClsEpochAbort (p : CmdPort) (d : Desc) (s : State) : Outcome State Fault Refusal := commandRow 0x0103 p d [] true s
def execMeterWrite (p : CmdPort) (d : Desc) (data : List Byte) (ok : Bool) (s : State) : Outcome State Fault Refusal :=
  commandRow 0x0200 p d data ok s
def execLockAcquire (p : CmdPort) (d : Desc) (s : State) : Outcome State Fault Refusal := commandRow 0x0300 p d [] true s
def execLockRelease (p : CmdPort) (d : Desc) (s : State) : Outcome State Fault Refusal := commandRow 0x0301 p d [] true s
def execSemTake (p : CmdPort) (d : Desc) (s : State) : Outcome State Fault Refusal := commandRow 0x0302 p d [] true s
def execLockForce (p : CmdPort) (d : Desc) (s : State) : Outcome State Fault Refusal := commandRow 0x0303 p d [] true s
def execRingOp (p : CmdPort) (d : Desc) (s : State) : Outcome State Fault Refusal := commandRow 0x0400 p d [] true s
def execProfileSwitch (p : CmdPort) (d : Desc) (flashOk : Bool) (s : State) : Outcome State Fault Refusal :=
  commandRow 0x0500 p d [] flashOk s
def execProfileCancel (p : CmdPort) (d : Desc) (s : State) : Outcome State Fault Refusal := commandRow 0x0501 p d [] true s
def execProfileStatus (p : CmdPort) (d : Desc) (s : State) : Outcome State Fault Refusal := commandRow 0x0502 p d [] true s
def execNegativeRead (p : CmdPort) (d : Desc) (s : State) : Outcome State Fault Refusal := commandRow 0x0510 p d [] true s
def execNegativeClear (p : CmdPort) (d : Desc) (s : State) : Outcome State Fault Refusal := commandRow 0x0511 p d [] true s
def execEventRingSet (p : CmdPort) (d : Desc) (s : State) : Outcome State Fault Refusal := commandRow 0x0520 p d [] true s
def execEventRead (p : CmdPort) (d : Desc) (s : State) : Outcome State Fault Refusal := commandRow 0x0521 p d [] true s
def execCshArm (p : CmdPort) (d : Desc) (s : State) : Outcome State Fault Refusal := commandRow 0x0530 p d [] true s
def execCshStop (p : CmdPort) (d : Desc) (s : State) : Outcome State Fault Refusal := commandRow 0x0531 p d [] true s
def execCshMark (p : CmdPort) (d : Desc) (s : State) : Outcome State Fault Refusal := commandRow 0x0532 p d [] true s
def execCshRead (p : CmdPort) (d : Desc) (s : State) : Outcome State Fault Refusal := commandRow 0x0533 p d [] true s
def execDebugMode (p : CmdPort) (d : Desc) (s : State) : Outcome State Fault Refusal := commandRow 0x0540 p d [] true s
def execThreadReset (p : CmdPort) (d : Desc) (s : State) : Outcome State Fault Refusal := commandRow 0x0541 p d [] true s
def execTraysReclaim (p : CmdPort) (d : Desc) (s : State) : Outcome State Fault Refusal := commandRow 0x0550 p d [] true s
def execTaiSet (p : CmdPort) (d : Desc) (s : State) : Outcome State Fault Refusal := commandRow 0x0560 p d [] true s
def execRegRead (p : CmdPort) (d : Desc) (s : State) : Outcome State Fault Refusal := commandRow 0x0570 p d [] true s
def execRegWrite (p : CmdPort) (d : Desc) (s : State) : Outcome State Fault Refusal := commandRow 0x0571 p d [] true s
def execDeviceReset (p : CmdPort) (d : Desc) (s : State) : Outcome State Fault Refusal := commandRow 0x0580 p d [] true s
def execIdentify (p : CmdPort) (d : Desc) (s : State) : Outcome State Fault Refusal := commandRow 0x0581 p d [] true s

end Sys2Proof.Machine
end

