-- ==== Sys2Proof/Machine/Contact.lean ====
section
/-! DEFINITION. The Contact Sheet: start and stop times, and the records written into its region (R548–R553, R557). -/

namespace Sys2Proof.Machine

open Host

/-! ### Start and stop times (R552) -/

/-- R552: T of CSH_ARM is reached. -/
def execCshStartTime (s : State) : Outcome State Fault Refusal :=
  match s.csh.startT with
  | none => .next s
  | some t =>
    if s.csh.st ≠ .armed ∨ s.now < t then .next s
    else
      let s1 := { s with csh := { s.csh with startT := none } }
      .next (s1.cshStart.logEvent 0x90 0 (evAt 4 s.csh.seq.toNat))

/-- R552: the time of CSH_STOP is reached. -/
def execCshStopTime (s : State) : Outcome State Fault Refusal :=
  match s.csh.stopT with
  | none => .next s
  | some t => if s.now < t then .next s else .next (cshStopNow s)

/-! ### Records (R549–R551) -/

/-- R550: the bytes of a record with a SEQ. -/
def CshRec.bytes (r : CshRec) (seq : Word) : List Byte :=
  leBytes 8 r.time.toNat ++ leBytes 8 r.ots.toNat ++ leBytes 4 seq.toNat
    ++ [BitVec.ofNat 8 r.typ, BitVec.ofNat 8 r.flags, BitVec.ofNat 8 r.src, BitVec.ofNat 8 r.trig]
    ++ leBytes 2 r.body.length ++ leBytes 2 r.frameLen ++ leBytes 3 r.key ++ [BitVec.ofNat 8 r.cls]
    ++ leBytes 2 r.node ++ leBytes 2 r.epoch ++ leBytes 12 0
    ++ r.body ++ List.replicate (cshLen r.body.length - 48 - r.body.length) 0

/-- R552: recording ends with the record written last; what was offered after it is not written. -/
def cshEnd (s : State) : State :=
  let s1 := { s with csh := { s.csh with st := .stopped, offers := [] } }
  if s.csh.recording then s1.logEvent 0x91 0 (evAt 4 ((s.csh.seq - 1).toNat)) else s1

/-- CSH_CTRL.MODE is ONESHOT. -/
def State.cshOneshot (s : State) : Bool := bitAt (s.reg cshBase) 16

/-- CSH_TUNE.RATE_CAP in bytes per nanosecond (R557). -/
def State.cshCap (s : State) : Nat := s.expert cshBase (cshBase + 0x40) 7 0 200

/-- R551, R553: write the bytes of one record at the write position and move it behind them. -/
def cshStore (s : State) (bs : List Byte) : State :=
  let wr := s.csh.wrptr + bs.length
  let s1 := (hbmWrite s (s.cshRegion + s.csh.wrptr) bs).count (cshBase + 0x900)
  let paid := BitVec.ofNat 64 (s.nowN + (16 * bs.length + s.cshCap - 1) / s.cshCap)
  let left := if s.csh.st = .post then s.csh.postLeft - 1 else s.csh.postLeft
  let full := wr = s.cshSize
  let s2 := { s1 with csh := { s1.csh with wrptr := if full ∧ !s.cshOneshot then 0 else wr, seq := s1.csh.seq + 1, postLeft := left,
                                           rateSince := paid } }
  if (full ∧ s.cshOneshot) ∨ (s.csh.st = .post ∧ left = 0) then cshEnd s2 else s2

/-- The recording has ended between two states. -/
def cshEnded (a b : State) : Bool := a.csh.recording && !b.csh.recording

/-- R549: PAD fills the end of the region; the record's time is free, and of a header longer than the room the first bytes are
written. -/
def cshPad (s : State) : State :=
  let room := s.cshSize - s.csh.wrptr
  let (t, s1) := s.takeFree
  cshStore s1 (((CshRec.plain 8 (BitVec.ofNat 64 t) (List.replicate (room - 48) 0)).bytes s.csh.seq).take room)

/-- R548, R549: write a record, behind a PAD where it would cross the end of the region. -/
def cshAppend (s : State) (r : CshRec) : State :=
  if s.cshSize < s.csh.wrptr + cshLen r.body.length then
    let s1 := cshPad s
    if cshEnded s s1 ∨ s.cshOneshot then s1 else cshStore s1 (r.bytes s1.csh.seq)
  else cshStore s (r.bytes s.csh.seq)

/-- R549: the GAP record that precedes the next record after drops; its time is free. -/
def cshGap (s : State) : State :=
  if s.csh.gap = 0 then s
  else
    let (t, s1) := s.takeFree
    let body := leBytes 4 s.csh.gap ++ leBytes 4 0 ++ leBytes 8 s.csh.gapTime.toNat
    cshAppend { s1 with csh := { s1.csh with gap := 0 } } (CshRec.plain 7 (BitVec.ofNat 64 t) body)

/-- R551: a record is dropped whole; CSH_OVERRUN once per recording. -/
def cshDrop (s : State) : State :=
  let s1 := { s with csh := { s.csh with gap := s.csh.gap + 1, gapTime := if s.csh.gap = 0 then s.now else s.csh.gapTime, overrun := true } }
  let s2 := s1.count (cshBase + 0x904)
  if s.csh.overrun then s2 else s2.logEvent 0x92 1 (evAt 4 s1.csh.gap)

/-- R551: the record offered first is written, or dropped when the last one has not yet used up its share of RATE_CAP, port 4
stalls, or there is no region. -/
def execCshRecordWrite (stall : Bool) (s : State) : Outcome State Fault Refusal :=
  match s.csh.offers with
  | [] => .next s
  | r :: rest =>
    let s1 := { s with csh := { s.csh with offers := rest } }
    if s.dev = .reset then .next s
    else if stall ∨ s.cshSize = 0 ∨ s.now < s.csh.rateSince then .next (cshDrop s1)
    else
      let s2 := cshGap s1
      .next (if cshEnded s1 s2 then s2 else cshAppend s2 r)

end Sys2Proof.Machine
end

