-- ==== Sys2Proof/Machine/Cx.lean ====
section
/-! DEFINITION. The fused coprocessor (R288–R302): its functions, its checks, and late errors. -/

namespace Sys2Proof.Machine

open Host

/-! ### Hashes (R292) -/

/-- R292: bit `i` of the key window: bit 0 is bit 31 of the first word. -/
def keySlice (key : BitVec 64) (i : Nat) : Word :=
  let w : BitVec 64 := key.setWidth 32 ++ key.extractLsb' 32 32
  (w <<< i).extractLsb' 32 32

/-- R292: the Toeplitz step. -/
def toeplitz (w : Word) (key : BitVec 64) : Word :=
  (List.range 32).foldl (fun acc i => if bitAt w (31 - i) then acc ^^^ keySlice key i else acc) 0

/-! ### AES (R293, FIPS 197) -/

/-- Multiplication by x in GF(2^8). -/
def xtime (b : Byte) : Byte := if b.getLsbD 7 then (b <<< 1) ^^^ 0x1B else b <<< 1

/-- The product in GF(2^8), `n` bits of the second factor. -/
def gmulN : Nat → Byte → Byte → Byte
  | 0, _, _ => 0
  | n + 1, a, b => (if b.getLsbD 0 then a else 0) ^^^ gmulN n (xtime a) (b >>> 1)

def gmul (a b : Byte) : Byte := gmulN 8 a b

/-- The inverse in GF(2^8), a to the 254th; 0 for 0. -/
def ginv (a : Byte) : Byte :=
  let a2 := gmul a a
  let a3 := gmul a2 a
  let a6 := gmul a3 a3
  let a12 := gmul a6 a6
  let a15 := gmul a12 a3
  let a30 := gmul a15 a15
  let a60 := gmul a30 a30
  let a120 := gmul a60 a60
  let a126 := gmul a120 a6
  let a127 := gmul a126 a
  gmul a127 a127

/-- The S-box: the inverse, then the affine map. -/
def sbox (a : Byte) : Byte :=
  let b := ginv a
  b ^^^ b.rotateLeft 1 ^^^ b.rotateLeft 2 ^^^ b.rotateLeft 3 ^^^ b.rotateLeft 4 ^^^ 0x63

/-- The inverse S-box. -/
def invSbox (a : Byte) : Byte :=
  ginv (a.rotateLeft 1 ^^^ a.rotateLeft 3 ^^^ a.rotateLeft 6 ^^^ 0x05)

/-- R293: state byte 4c + r at row r, column c. -/
def byteAt (st : List Byte) (r c : Nat) : Byte := st.getD (4 * c + r) 0

/-- Build a state from its bytes by row and column. -/
def ofRc (f : Nat → Nat → Byte) : List Byte := (List.range 16).map fun i => f (i % 4) (i / 4)

def shiftRows (st : List Byte) : List Byte := ofRc fun r c => byteAt st r ((c + r) % 4)
def invShiftRows (st : List Byte) : List Byte := ofRc fun r c => byteAt st r ((c + 4 - r) % 4)

/-- A column mixed with the given coefficients, rotated by row. -/
def mixWith (k0 k1 k2 k3 : Byte) (st : List Byte) : List Byte :=
  ofRc fun r c => gmul k0 (byteAt st r c) ^^^ gmul k1 (byteAt st ((r + 1) % 4) c) ^^^ gmul k2 (byteAt st ((r + 2) % 4) c) ^^^
    gmul k3 (byteAt st ((r + 3) % 4) c)

def mixColumns : List Byte → List Byte := mixWith 2 3 1 1
def invMixColumns : List Byte → List Byte := mixWith 0x0E 0x0B 0x0D 0x09

def xorBytes (a b : List Byte) : List Byte := List.zipWith (· ^^^ ·) a b

/-- R293: AESE. -/
def aesEncryptRound (st key : List Byte) (last : Bool) : List Byte :=
  let x := shiftRows (st.map sbox)
  xorBytes (if last then x else mixColumns x) key

/-- R293: AESD. -/
def aesDecryptRound (st key : List Byte) (last : Bool) : List Byte :=
  let x := xorBytes ((invShiftRows st).map invSbox) key
  if last then x else invMixColumns x

/-! ### GHASH (R293, SP 800-38D) -/

/-- A block as a polynomial: coefficient x^i in bit 127 − i. -/
def aesBlock (bs : List Byte) : BitVec 128 := BitVec.ofNat 128 (beNat bs)

/-- The product of SP 800-38D: `n` coefficients of the first factor. -/
def ghashMul : Nat → BitVec 128 → BitVec 128 → BitVec 128 → BitVec 128
  | 0, _, _, z => z
  | n + 1, x, v, z =>
    let z' := if x.getLsbD 127 then z ^^^ v else z
    let v' := if v.getLsbD 0 then (v >>> 1) ^^^ (0xE1 <<< 120) else v >>> 1
    ghashMul n (x <<< 1) v' z'

/-- R290: (state XOR block) • key. -/
def ghash (st h blk : List Byte) : List Byte :=
  beBytes 16 (ghashMul 128 (aesBlock (xorBytes st blk)) (aesBlock h) 0).toNat

/-! ### SHA-256 (R293, FIPS 180-4) -/

/-- The eight working variables. -/
structure Sha where
  a : Word
  b : Word
  c : Word
  d : Word
  e : Word
  f : Word
  g : Word
  h : Word
  deriving DecidableEq, Repr

/-- One round with W_t + K_t. -/
def shaRound (s : Sha) (wk : Word) : Sha :=
  let s1 := s.e.rotateRight 6 ^^^ s.e.rotateRight 11 ^^^ s.e.rotateRight 25
  let ch := (s.e &&& s.f) ^^^ (~~~s.e &&& s.g)
  let t1 := s.h + s1 + ch + wk
  let s0 := s.a.rotateRight 2 ^^^ s.a.rotateRight 13 ^^^ s.a.rotateRight 22
  let maj := (s.a &&& s.b) ^^^ (s.a &&& s.c) ^^^ (s.b &&& s.c)
  { a := t1 + (s0 + maj), b := s.a, c := s.b, d := s.c, e := s.d + t1, f := s.e, g := s.f, h := s.g }

def sigma0 (w : Word) : Word := w.rotateRight 7 ^^^ w.rotateRight 18 ^^^ (w >>> 3)
def sigma1 (w : Word) : Word := w.rotateRight 17 ^^^ w.rotateRight 19 ^^^ (w >>> 10)

/-! ### Bit gather and scatter (R290) -/

/-- The bits of `v` at the 1 positions of `m` among bits `i` to 31, packed from bit `k` up. -/
def gather : Nat → Word → Word → Nat → Nat → Nat
  | 0, _, _, _, _ => 0
  | n + 1, v, m, i, k =>
    if bitAt m i then b2n (bitAt v i) * 2 ^ k + gather n v m (i + 1) (k + 1) else gather n v m (i + 1) k

/-- The low bits of `v` placed at the 1 positions of `m`. -/
def scatter : Nat → Word → Word → Nat → Nat → Nat
  | 0, _, _, _, _ => 0
  | n + 1, v, m, i, k =>
    if bitAt m i then b2n (bitAt v k) * 2 ^ i + scatter n v m (i + 1) (k + 1) else scatter n v m (i + 1) k

/-! ### Checks (R289, R296, R297) -/

/-- The group bit of a function (R296). -/
def cxGroup (cxf : Nat) : Nat :=
  if cxf < 2 then 0 else if cxf < 4 then 1 else if cxf < 0x0B then 2 else if cxf < 0x0E then 3 else if cxf = 0x10 then 4 else 5

/-- R297: the unit of the function is fused off. -/
def cxAbsent (v : Variant) (cxf : Nat) : Bool :=
  (cxGroup cxf == 2 && !v.hasAes) || (cxGroup cxf == 3 && !v.hasSha)

/-- R296, R297: CXEN enables the function at the thread's level. -/
def cxEnabled (s : State) (t : Nat) (cxf : Nat) : Bool := bitAt (s.cxen (coreOf t)) (8 * (s.thread t).level + cxGroup cxf)

/-- A CX instruction: legality, then absence, then denial, then its result (R297). -/
def cxRow (cxf : Nat) (legal : XFields → Bool) (g : Thread → XFields → Thread) (t : ThreadId) (f : XFields) (s : State) :
    Outcome State Fault Refusal :=
  let w := XFields.word cxf f
  .next (issue s t w (legal f) true fun th =>
    if cxAbsent s.variant cxf then .raise codeCxAbsent (w.setWidth 48)
    else if !cxEnabled s t cxf then .raise codeCxDenied (w.setWidth 48)
    else Result.regs s t (g th f))

/-- The number of bytes in CXC[2:0] (R291). -/
def legalCount (f : XFields) : Bool := 1 ≤ f.cxc.toNat && f.cxc.toNat ≤ 4

/-! ### The functions -/

def execCrc32c := cxRow 0x00 legalCount fun th f =>
  th.setD f.rd (crc32c (th.dreg f.rs1) (leBytes f.cxc.toNat (th.dreg f.rs2).toNat))

def execCrc64 := cxRow 0x01 (fun f => legalCount f && isPair f.rd && f.rs1 == 0) fun th f =>
  th.setPair f.rd (crc64 (th.pair f.rd) (leBytes f.cxc.toNat (th.dreg f.rs2).toNat))

def execToep := cxRow 0x02 (fun f => f.cxc == 0 && isPair f.rs1) fun th f =>
  th.setD f.rd (th.dreg f.rd ^^^ toeplitz (th.dreg f.rs2) (th.pair f.rs1))

def execSymh := cxRow 0x03 (fun f => f.cxc == 0) fun th f =>
  let a := th.dreg f.rs1
  let b := th.dreg f.rs2
  let lo := if b.ult a then b else a
  let hi := if b.ult a then a else b
  th.setD f.rd (crc32c (th.dreg f.rd) (leBytes 4 lo.toNat ++ leBytes 4 hi.toNat))

/-- RD and RS1 quads, RS2 unused, CXC[0] LAST. -/
def legalAes (f : XFields) : Bool := isQuad f.rd && isQuad f.rs1 && f.rs2 == 0 && f.cxc.toNat < 2

def execAese := cxRow 0x08 legalAes fun th f => th.setQuad f.rd (aesEncryptRound (th.quad f.rd) (th.quad f.rs1) (f.cxc == 1))

def execAesd := cxRow 0x09 legalAes fun th f => th.setQuad f.rd (aesDecryptRound (th.quad f.rd) (th.quad f.rs1) (f.cxc == 1))

def execGhash := cxRow 0x0A (fun f => isQuad f.rd && isQuad f.rs1 && isQuad f.rs2 && f.cxc == 0) fun th f =>
  th.setQuad f.rd (ghash (th.quad f.rd) (th.quad f.rs1) (th.quad f.rs2))

/-- R293: the pair lies outside a quad. -/
def pairOutside (p q : BitVec 4) : Bool := p.toNat / 4 != q.toNat / 4

def execSha256r := cxRow 0x0C
  (fun f => isQuad f.rd && isQuad f.rs1 && isPair f.rs2 && f.cxc == 0 && f.rd != f.rs1 && pairOutside f.rs2 f.rd &&
    pairOutside f.rs2 f.rs1) fun th f =>
  let s0 : Sha := { a := th.dAt f.rd 0, b := th.dAt f.rd 1, c := th.dAt f.rd 2, d := th.dAt f.rd 3,
                    e := th.dAt f.rs1 0, f := th.dAt f.rs1 1, g := th.dAt f.rs1 2, h := th.dAt f.rs1 3 }
  let s2 := shaRound (shaRound s0 (th.dAt f.rs2 0)) (th.dAt f.rs2 1)
  let put := fun (x : Thread) (r : BitVec 4) (k : Nat) (v : Word) => x.setD (r + BitVec.ofNat 4 k) v
  let x := put (put (put (put th f.rd 0 s2.a) f.rd 1 s2.b) f.rd 2 s2.c) f.rd 3 s2.d
  put (put (put (put x f.rs1 0 s2.e) f.rs1 1 s2.f) f.rs1 2 s2.g) f.rs1 3 s2.h

def execSha256m := cxRow 0x0D (fun f => f.cxc.toNat < 16) fun th f =>
  th.setD f.rd (th.dreg f.rd + sigma1 (th.dreg f.rs1) + th.dreg f.rs2 + sigma0 (th.dreg (f.cxc.setWidth 4)))

/-- R294: bit 16 + b for each mismatching byte, bit 0 when none mismatches. -/
def maskedCompare (a b m : List Byte) : Word :=
  let miss := (List.range 16).foldl (fun acc i =>
    acc + b2n (a.getD i 0 &&& m.getD i 0 != b.getD i 0 &&& m.getD i 0) * 2 ^ i) 0
  BitVec.ofNat 32 (miss * 65536 + b2n (miss == 0))

def execMcmp128 := cxRow 0x10 (fun f => isQuad f.rs1 && isQuad f.rs2 && f.cxc.toNat < 16 && isQuad (f.cxc.setWidth 4)) fun th f =>
  th.setD f.rd (maskedCompare (th.quad f.rs1) (th.quad f.rs2) (th.quad (f.cxc.setWidth 4)))

def execBgath := cxRow 0x14 (fun f => f.cxc == 0) fun th f =>
  th.setD f.rd (BitVec.ofNat 32 (gather 32 (th.dreg f.rs1) (th.dreg f.rs2) 0 0))

def execBscat := cxRow 0x15 (fun f => f.cxc == 0) fun th f =>
  th.setD f.rd (BitVec.ofNat 32 (scatter 32 (th.dreg f.rs1) (th.dreg f.rs2) 0 0))

/-! ### Late errors (R299–R301) -/

/-- R299: record a late error of a completed instruction in the core's CX_LOG entry and make CX_LATE pending. -/
def lateError (s : State) (t : Nat) (cxf : BitVec 6) (pc : BitVec 17) : State :=
  let core := coreOf t
  let e := s.cxLog core
  let e' : CxLog := if e.valid then { e with overflow := true }
    else { valid := true, overflow := false, cxf := cxf, thread := BitVec.ofNat 10 (t % 1024), pc := pc, time := s.now }
  let info := BitVec.ofNat 48 (pc.toNat + cxf.toNat * 2 ^ 17 + b2n e.valid * 2 ^ 23)
  let s1 := { s with cores := { s.cores with cxlog := sput CxLog.empty s.cores.cxlog core e' } }
  s1.modThread t fun th => { th with irqCxLate := some (th.irqCxLate.getD info) }

/-- R299, R300: a residue check fails after a result is written; an error of a squashed instruction is only counted. -/
def execCxLate (t : ThreadId) (cxf : BitVec 6) (pc : BitVec 17) (squashed : Bool) (s : State) : Outcome State Fault Refusal :=
  if squashed then .next (s.count (thrBase (clusterOf t) + 0x4104))
  else if (s.thread t).state = .idle then
    .next (loseCxLate (lateError (s.count (thrBase (clusterOf t) + 0x4100)) t cxf pc) t)
  else .next (lateError (s.count (thrBase (clusterOf t) + 0x4100)) t cxf pc)

end Sys2Proof.Machine
end

