-- ==== Sys2Proof/Machine/Mem.lean ====
section
/-! DEFINITION. Loads and stores of the cores (R206, R209–R213, R229), accesses to the register window and the Trays portal by a
thread (R330, R331, R587), and the return of what a thread waits for (R206, R319, R320). -/

namespace Sys2Proof.Machine

open Host

/-- R587: the path of a thread's register accesses. -/
def threadPath (t : ThreadId) : Path := if h : t.val < 1024 then .thread ⟨t.val, h⟩ else .mc ⟨t.val - 1024, by omega⟩

/-- R229: sign extension of a loaded value. -/
def loadValue (size : AccessSize) (signed : Bool) (v : Nat) : Word :=
  match size, signed with
  | .byte, true => (BitVec.ofNat 8 v).signExtend 32
  | .half, true => (BitVec.ofNat 16 v).signExtend 32
  | _, _ => BitVec.ofNat 32 v

/-- R229: write what a load returned, with the base update. -/
def Thread.loaded (th : Thread) (rt : BitVec 4) (size : AccessSize) (signed : Bool) (v : Nat) (upd : Option BaseUpdate) : Thread :=
  let th1 := match size with
    | .eight => th.setA (aOf rt) (BitVec.ofNat 48 v)
    | _ => th.setD rt (loadValue size signed v)
  th1.update upd

/-- R225, R229: the fields of a load or store are legal. -/
def memLegal (load eight : Bool) (f : MFields) : Bool :=
  modeLegal f && (!eight || isA f.rt) && !(load && eight && (f.mode == 1 || f.mode == 2) && aOf f.rt == f.ab)

/-- R229: the access of each size is aligned, or an LDW or STW, as R211 asks. -/
def AccessSize.isEight : AccessSize → Bool
  | .eight => true
  | _ => false
def AccessSize.isWord : AccessSize → Bool
  | .word => true
  | _ => false

/-- The offset of a place in the Trays portal. -/
def portalOffset : Place → Option Nat
  | .window off => if tryBase + 0x10000 ≤ off ∧ off < tryBase + 0x1C000 then some (off - tryBase) else none
  | _ => none

/-- R206, R229: a load: near at once, an allocation through the portal, or far. -/
def loadRow (op : Nat) (size : AccessSize) (signed : Bool) (t : ThreadId) (f : MFields) (s : State) : Outcome State Fault Refusal :=
  .next (issue s t (MFields.word op f) (memLegal true size.isEight f) true fun th =>
    let ea := effectiveAddress th f
    let upd := baseUpdate th f
    match checkAccess s t ea size.bytes false size.isEight size.isWord with
    | .inr code => .raise code ea
    | .inl place =>
      if nearPlace t place then .regs s t (th.loaded f.rt size signed (readPlace s place size.bytes) upd)
      else match (portalOffset place).bind portalAsk with
        | some (ask, blocking) => portalAlloc s t ask blocking f.rt upd
        | none => .stay (s.modThread t fun x => { x with outstanding := some (.load f.rt size signed ea upd) }))

/-- R229, R331: what a store does at its place. -/
def storeAt (s : State) (t : ThreadId) (place : Place) (n v : Nat) : State :=
  match place with
  | .window off =>
    match portalOffset place with
    | some o =>
      match portalOp o with
      | some (op, target) => portalStore s t op v target
      | none => s
    | none => (regWrite s (threadPath t) off (BitVec.ofNat 32 v)).1
  | _ => writePlace s place n v

/-- R229: a posted store. -/
def storeRow (op : Nat) (size : AccessSize) (t : ThreadId) (f : MFields) (s : State) : Outcome State Fault Refusal :=
  .next (issue s t (MFields.word op f) (memLegal false size.isEight f) true fun th =>
    let ea := effectiveAddress th f
    match checkAccess s t ea size.bytes true size.isEight size.isWord with
    | .inr code => .raise code ea
    | .inl place =>
      let v := if size.isEight then (th.areg (aOf f.rt)).toNat else (th.dreg f.rt).toNat
      .ok ((storeAt s t place size.bytes v).modThread t fun x => x.update (baseUpdate th f)))

def execLdb (t : ThreadId) (f : MFields) (s : State) : Outcome State Fault Refusal := loadRow 0x08 .byte true t f s
def execLdbu (t : ThreadId) (f : MFields) (s : State) : Outcome State Fault Refusal := loadRow 0x09 .byte false t f s
def execLdh (t : ThreadId) (f : MFields) (s : State) : Outcome State Fault Refusal := loadRow 0x0A .half true t f s
def execLdhu (t : ThreadId) (f : MFields) (s : State) : Outcome State Fault Refusal := loadRow 0x0B .half false t f s
def execLdw (t : ThreadId) (f : MFields) (s : State) : Outcome State Fault Refusal := loadRow 0x0C .word false t f s
def execLda (t : ThreadId) (f : MFields) (s : State) : Outcome State Fault Refusal := loadRow 0x0D .eight false t f s
def execStb (t : ThreadId) (f : MFields) (s : State) : Outcome State Fault Refusal := storeRow 0x0E .byte t f s
def execSth (t : ThreadId) (f : MFields) (s : State) : Outcome State Fault Refusal := storeRow 0x0F .half t f s
def execStw (t : ThreadId) (f : MFields) (s : State) : Outcome State Fault Refusal := storeRow 0x10 .word t f s
def execSta (t : ThreadId) (f : MFields) (s : State) : Outcome State Fault Refusal := storeRow 0x11 .eight t f s

/-! ### LOAD_DATA_RETURN -/

/-- The instruction that waited has completed: the thread moves to the next one, and halts there when asked to (R276). -/
def finishReturn (s : State) (t : Nat) (f : Thread → Thread) : State :=
  let s1 := s.modThread t fun th => { f { th with outstanding := none } with pc := th.pc + 4, jumpFrom := none }
  if (s1.thread t).haltReq then haltThread s1 t else endStep s1 t

/-- The waiting instruction raises LOAD_ECC (R213, R320). -/
def failReturn (s : State) (t : Nat) (ea : Addr) : State :=
  let s1 := s.modThread t fun th => { th with outstanding := none }
  let s2 := takeException s1 t codeLoadEcc (s1.thread t).pc ea
  if (s2.thread t).haltReq then haltThread s2 t else endStep s2 t

/-- R213, R512: the data of a read of a place, or none when HBM answers it poisoned; a window offset is a register. -/
def fetchPlace (s : State) (t : ThreadId) (place : Place) (n : Nat) : State × Option Nat :=
  match place with
  | .window off =>
    match portalOffset place with
    | some _ => (s, some 0)
    | none =>
      let (s1, v) := regRead s (threadPath t) off
      (s1, some v.toNat)
  | .hbm off =>
    let (s1, v) := hbmRead s off n
    (s1, v.map leNat)
  | _ => (s, some (readPlace s place n))

/-- The place of an address that has passed its checks. -/
def placeAt (t : Nat) (ea : Addr) : Option Place := (region t ea.toNat).map fun r => r.2.2.2

/-- R206, R317, R319, R320: what thread `t` waits for returns. -/
def returnTo (s : State) (t : ThreadId) (ecc : Bool) : Outstanding → State
  | .status rd v upd => finishReturn s t fun th => (th.setD rd v).update upd
  | .load rt size signed ea upd =>
    match placeAt t ea with
    | none => failReturn s t ea
    | some place =>
      match fetchPlace s t place size.bytes with
      | (s1, some v) => if ecc then failReturn s1 t ea else finishReturn s1 t fun th => th.loaded rt size signed v upd
      | (s1, none) => failReturn s1 t ea
  | .atomic rd op operand ea =>
    match placeAt t ea with
    | none => failReturn s t ea
    | some place =>
      match fetchPlace s t place 4 with
      | (s1, some v) =>
        if ecc then failReturn s1 t ea
        else
          let old := BitVec.ofNat 32 v
          let s2 := (writePlace s1 place 4 (atomicValue op old operand).toNat).count (lckBase + 0x91C)
          finishReturn s2 t fun th => th.setD rd old
      | (s1, none) => failReturn s1 t ea

/-- R206: the data of a load or atomic, or a status word, returns. -/
def execLoadDataReturn (t : ThreadId) (ecc : Bool) (s : State) : Outcome State Fault Refusal :=
  match (s.thread t).outstanding with
  | none => .next s
  | some o => .next (returnTo s t ecc o)

end Sys2Proof.Machine
end

