-- ==== Sys2Proof/Machine/Mgmt.lean ====
section
/-! DEFINITION. The ports through which commands arrive: CMD descriptors in EXEC and CORE mode, MGMT frames, vendor-defined MCTP
messages; the MCTP and PLDM services of I3C0 (R421, R456, R463, R540–R544). -/

namespace Sys2Proof.Machine

open Host

/-! ### CMD descriptors (R456, R463) -/

/-- R463: the work item of a CORE descriptor. -/
def hostItem (fn r : Nat) (v : HRing) (h : HDesc) : List Word :=
  let op := opcodeOf h.d
  [BitVec.ofNat 32 (3 + 16 * v.group + 256 * v.dprio + 4096 * (op % 256)), 0, 0, 0, h.stamp.setWidth 32, h.stamp.extractLsb' 32 32, 0, 0,
   h.d.w6, h.d.w7, BitVec.ofNat 32 (op * 65536 + r), BitVec.ofNat 32 (fn * 65536 + h.idx), h.d.w2, h.d.w3, h.d.w4, h.d.w5]

/-- R461, R463: the completion status of a refused submission. -/
def submitFailure : Nat → Nat
  | 2 => stNoGroup
  | 3 => stNoProgram
  | _ => stBadField

/-- R456: a FENCE descriptor waits until every earlier one of its ring has completed. -/
def fenceHolds (s : State) (fn r : Nat) (v : HRing) (h : HDesc) : Bool :=
  bitAt h.d.w0 8 && (!v.items.isEmpty || s.hqe.rings.any fun e => match e.2.dying with
    | some (.ring f q _ _, _) => f.val == fn && q.toNat == r
    | _ => false)

/-- R463: a CORE descriptor is submitted to the Dealer, or completes at once.  A submission that finds no room waits. -/
def submitHost (s s1 : State) (fn r : Nat) (v : HRing) (h : HDesc) (fails : State → Nat → State) : State :=
  let w := hostItem fn r v h
  let st := s.submitStatus w true
  if bits h.d.w0 15 9 ≠ 0 then fails s1 stBadField
  else if 256 ≤ opcodeOf h.d then fails s1 stBadOpcode
  else if st ≠ 0 then fails (countRefused s1) (submitFailure st)
  else if !s.submitRoom w true then s
  else
    let s2 := match s1.hring fn r with
      | some v1 => s1.setHring fn r { v1 with items := v1.items ++ [(h.idx, h.d.w1, h.solicit)] }
      | none => s1
    enterSubmission s2 w

/-- R456, R463: the oldest fetched descriptor of a command ring. -/
def execCmd (fn : Fin 1028) (r : BitVec 16) (data : List Byte) (ok : Bool) (s : State) : Outcome State Fault Refusal :=
  match s.hring fn r.toNat with
  | none => .next s
  | some v =>
    match v.fetched with
    | [] => .next s
    | h :: rest =>
      if !s.hqeRuns fn ∨ v.typ ≠ .cmd ∨ fenceHolds s fn r.toNat v h then .next s
      else
        let s1 := s.setHring fn r.toNat { v with fetched := rest }
        let fails := fun (st : State) (status : Nat) => failDescriptor st fn r.toNat v status h.idx h.d.w1 0 h.solicit
        if bits h.d.w0 7 0 ≠ 0x20 then .next (finishDestroy (fails s1 stBadOpcode) fn r.toNat)
        else if v.core then .next (finishDestroy (submitHost s s1 fn r.toNat v h fails) fn r.toNat)
        else
          let p := CmdPort.ring fn r (BitVec.ofNat 16 h.idx) h.solicit
          .next (finishDestroy (if s.serves p then runCommand s1 p h.d data ok else s) fn r.toNat)

/-! ### Descriptors in bytes -/

/-- A descriptor from its 32 bytes. -/
def descOf (b : List Byte) : Desc :=
  let w := fun (i : Nat) => BitVec.ofNat 32 (leNat ((b.drop (4 * i)).take 4))
  { w0 := w 0, w1 := w 1, w2 := w 2, w3 := w 3, w4 := w 4, w5 := w 5, w6 := w 6, w7 := w 7 }

/-! ### MGMT frames (R421, R544) -/

/-- R421: a node listed with VALID = 1 in RING_FMGR0–3. -/
def State.isManager (s : State) (node : Nat) : Bool :=
  [0, 1, 2, 3].any fun n => bitAt (s.reg (ringBase + 0x10 + 4 * n)) 31 && s.fld (ringBase + 0x10 + 4 * n) 13 0 == node

/-- R544: the payload of a command frame. -/
def mgmtOk (b : List Byte) : Bool :=
  b.getD 0 0 == 1 && b.getD 1 0 == 0 && leNat ((b.drop 8).take 8) == 0 && decide (48 ≤ b.length)
    && decide (leNat ((b.drop 4).take 4) ≤ b.length - 48)

/-- R544: a payload from a listed manager: executed, or answered with the kept response when it repeats the last SEQ. -/
def hearManager (s : State) (src : Nat) (b : List Byte) : State :=
  let seq := leNat ((b.drop 2).take 2)
  let kept := (sfind s.ring.lastAnswer src).bind fun e => if e.1 = seq then some e.2 else none
  let p := CmdPort.fabric (BitVec.ofNat 14 src) (BitVec.ofNat 16 seq)
  if !mgmtOk b ∨ !s.serves p then s
  else match kept with
    | some a => s.setRing { s.ring with answers := s.ring.answers ++ [(src, a)] }
    | none => runCommand s p (descOf (b.drop 16)) ((b.drop 48).take (leNat ((b.drop 4).take 4))) true

/-- R419, R421, R539: a terminating MGMT frame. -/
def execMgmtFrame (p : Fin 4) (data : List Byte) (s : State) : Outcome State Fault Refusal :=
  match takeWhole s p 1 data with
  | (s1, none) => .next s1
  | (s1, some x) =>
    let h := RHdr.of x.f.hdr
    let freed := freeBlocks s1 p x.f.inPool x.f.blocks
    if s1.dev = .frozen then .next (reportDiscard (freed.count (ringCnt p 0x38)) p h x.f.ots 1 0)
    else if !s1.isManager h.src then .next (freed.count (ringCnt p 0x48))
    else .next (hearManager freed h.src x.f.payload)

/-! ### I3C0 (R540–R543) -/

/-- R541: a vendor-defined COMMAND message; the device discards the other KINDs and what is not whole. -/
def execVendorCommand (msg : List Byte) (s : State) : Outcome State Fault Refusal :=
  let b := msg.drop 3
  let n := leNat ((b.drop 2).take 2)
  let p := CmdPort.board (b.getD 1 0)
  if msg.take 3 ≠ [0x7E, 0x1F, 0x9A] ∨ b.getD 0 0 ≠ 1 ∨ b.length ≠ 36 + n ∨ !s.serves p then .next s
  else .next (runCommand s p (descOf (b.drop 4)) (b.drop 36) true)

/-- A message that goes to the bus owner. -/
def sendMctp (s : State) (b : List Byte) : State := { s with sent := .mctp b :: s.sent }

/-- Free bytes of an answer whose content the specification leaves to the protocol. -/
def freeBytes : Nat → State → List Byte × State
  | 0, s => ([], s)
  | n + 1, s =>
    let (v, s1) := s.takeFree
    let (bs, s2) := freeBytes n s1
    (BitVec.ofNat 8 v :: bs, s2)

/-- R540: what the endpoint answers to an MCTP control command: completion code and data.  The command and completion codes are
those of the MCTP base protocol. -/
def controlAnswer (s : State) (cmd : Nat) (data : List Byte) : List Byte × State :=
  let eid := data.getD 1 0
  match cmd with
  | 1 =>
    if data.length ≠ 2 then ([0x03], s)
    else if 2 ≤ (data.getD 0 0).toNat % 4 ∨ eid = 0 ∨ eid = 0xFF then ([0x02], s)
    else ([0x00, 0x00, eid, 0x00], s.setMgt { s.mgt with eid := eid })
  | 2 => ([0x00, s.mgt.eid, 0x00, 0x00], s)
  | 4 =>
    let (v, s1) := freeBytes 4 s
    ([0x00, 0x01] ++ v, s1)
  | 5 => ([0x00, 0x02, 0x01, 0x7E], s)
  | 6 =>
    let (v, s1) := freeBytes 2 s
    ([0x00, 0xFF, 0x00, 0x1F, 0x9A] ++ v, s1)
  | _ => ([0x05], s)

/-- R540: an MCTP control request on I3C0 is answered, in BOOT too. -/
def execMctpControl (msg : List Byte) (s : State) : Outcome State Fault Refusal :=
  let inst := msg.getD 1 0
  if s.dev = .reset ∨ msg.length < 3 ∨ msg.getD 0 0 ≠ 0 ∨ !inst.getLsbD 7 then .next s
  else
    let (a, s1) := controlAnswer s (msg.getD 2 0).toNat (msg.drop 3)
    .next (sendMctp s1 ([0x00, inst &&& 0x1F, msg.getD 2 0] ++ a))

/-- R542: the reading of a numeric sensor. -/
def State.sensor (s : State) (id : Nat) : Option Nat := if id = 0 then none else s.mgt.sensors[id - 1]?

/-- R540, R542: the completion code and data of a PLDM request.  The commands with a stated content are GetPLDMTypes and the two
sensor readings; of the others the content is the protocol's, and the completion code is free. -/
def pldmAnswer (s : State) (typ cmd : Nat) (data : List Byte) : List Byte × State :=
  let id := leNat (data.take 2)
  if typ = 0 ∧ cmd = 4 then ([0x00, 0x25, 0, 0, 0, 0, 0, 0, 0], s)
  else if typ = 2 ∧ cmd = 0x11 then
    match s.sensor id with
    | none => ([0x80], s)
    | some v =>
      let (x, s1) := freeBytes 3 s
      ([0x00, 0x03, 0x00, 0x00] ++ x ++ leBytes 2 v, s1)
  else if typ = 2 ∧ cmd = 0x21 then
    if id ≠ 8 then ([0x80], s)
    else
      let (x, s1) := freeBytes 2 s
      ([0x00, 0x01, 0x00, BitVec.ofNat 8 s.dev.code] ++ x, s1)
  else freeBytes 1 s

/-- R540: a PLDM request of type 0, 2 or 5; in BOOT without firmware, of type 5 only. -/
def execPldmMessage (msg : List Byte) (s : State) : Outcome State Fault Refusal :=
  let inst := msg.getD 1 0
  let typ := (msg.getD 2 0).toNat % 64
  let served := if s.mgt.boot.firmware then typ = 0 ∨ typ = 2 ∨ typ = 5 else typ = 5
  if s.dev = .reset ∨ msg.length < 4 ∨ msg.getD 0 0 ≠ 1 ∨ !inst.getLsbD 7 ∨ !served then .next s
  else
    let (a, s1) := pldmAnswer s typ (msg.getD 3 0).toNat (msg.drop 4)
    .next (sendMctp s1 ([0x01, inst &&& 0x1F, msg.getD 2 0, msg.getD 3 0] ++ a))

/-! ### Updates (R522–R524, R543) -/

/-- Bytes written to the flash; an erased byte reads 0xFF. -/
def writeFlash (s : State) (a : Nat) (bs : List Byte) : State :=
  { s with mems := { s.mems with flash := bs.zipIdx.foldl (fun m e => sput 0xFF m (a + e.2) e.1) s.mems.flash } }

/-- R522: the bytes of a boot header. -/
def headerImage (h : BootHeader) : List Byte :=
  let b := leBytes 4 0x48444C41 ++ leBytes 2 1 ++ [BitVec.ofNat 8 (b2n h.h0), BitVec.ofNat 8 (b2n h.h1), BitVec.ofNat 8 (b2n h.slot),
    BitVec.ofNat 8 (b2n h.fallback)] ++ leBytes 2 0 ++ leBytes 4 h.seq ++ List.replicate 4076 0
  b ++ leBytes 4 (crc32cOf b).toNat

/-- R523: the place of the copy in force: copy 1 when only it is valid or its SEQ is the higher. -/
def State.headerInForce (s : State) : Option Nat :=
  match s.headerCopy 0, s.headerCopy 1 with
  | some x, some y => some (if x.seq < y.seq then 1 else 0)
  | some _, none => some 0
  | none, some _ => some 1
  | none, none => none

/-- R523: the copy not used is written with SEQ + 1 and ACTIVE naming a slot; with neither valid, copy 0. -/
def rewriteHeader (s : State) (slot : Bool) : State :=
  let h := s.bootHeader
  writeFlash s (if s.headerInForce = some 0 then 4096 else 0) (headerImage { h with slot := slot, seq := (h.seq + 1) % 2 ^ 32 })

/-- R524: the format of a firmware slot. -/
def firmwareOk (b : List Byte) : Bool :=
  let len := leNat ((b.drop 8).take 4)
  leNat (b.take 4) == 0x57464C41 && decide (1 ≤ len) && decide (len ≤ 16776960) && leNat ((b.drop 12).take 4) == 0
    && ((b.drop 160).take 96).all (· == 0) && decide (b.length = 256 + len)

/-- FW_UPDATED (R547). -/
def fwUpdated (s : State) (component version : Nat) : State := s.logEvent 4 0 (evAt 0 component ||| evAt 4 version)

/-- R543: the firmware of the slot that is not in use. -/
def updateFirmware (s : State) (data : List Byte) (verified : Bool) : State :=
  let slot := !(if s.mgt.boot.firmware then s.mgt.fwSlot else s.bootHeader.slot)
  if !firmwareOk data ∨ !verified then s
  else fwUpdated (rewriteHeader (writeFlash s (slotBase slot) data) slot) 1 (leNat ((data.drop 4).take 4))

/-- R528, R543: the image of profile `n`.  An image has no VERSION, so the event's is free. -/
def updateProfile (s : State) (n : Nat) (data : List Byte) : State :=
  match imageRefusal s data with
  | some r => refuseImage s n r
  | none =>
    let (v, s1) := (writeFlash s (0x10000000 + 0x4000000 * n) data).takeFree
    fwUpdated s1 (0x10 + n) (v % 2 ^ 32)

/-- R543: a PLDM type 5 update of one component, transferred whole; `verified` says that the signature of firmware verifies. -/
def execPldmUpdate (component : BitVec 16) (data : List Byte) (verified : Bool) (s : State) : Outcome State Fault Refusal :=
  let c := component.toNat
  .next (if s.dev = .reset then s
    else if c = 1 then updateFirmware s data verified
    else if 0x10 ≤ c ∧ c < 0x14 then updateProfile s (c - 0x10) data
    else s)

/-- R542: the numeric sensors, every 1 ms; current and power come from outside. -/
def execSensorUpdate (amps watts : BitVec 16) (s : State) : Outcome State Fault Refusal :=
  let temps := [0, 1, 2, 3].map fun c => (s.hbmCtl c).temp
  .next (if s.dev = .reset ∨ s.nowN < s.mgt.sensorAt.toNat + usFtu 1000 then s
    else s.setMgt { s.mgt with sensors := s.pwr.temp :: temps ++ [amps.toNat, watts.toNat], sensorAt := s.now })

end Sys2Proof.Machine
end

