-- ==== Sys2Proof/Machine/Dispatch.lean ====
section
/-! DEFINITION. One arm for each command: a direct call of its meaning. -/

namespace Sys2Proof.Machine

open Host

/-- The effect of a command on everything but the queue. -/
def exec (i : Instr) (s : State) : Host.Outcome State Fault Refusal :=
  match i with
  | .registerWrite x1 x2 x3 => Sys2Proof.Machine.execRegisterWrite x1 x2 x3 s
  | .unmappedAccess x1 x2 x3 => Sys2Proof.Machine.execUnmappedAccess x1 x2 x3 s
  | .rcRead x1 x2 => Sys2Proof.Machine.execRcRead x1 x2 s
  | .latchingRead x1 x2 => Sys2Proof.Machine.execLatchingRead x1 x2 s
  | .partialAccess x1 x2 x3 => Sys2Proof.Machine.execPartialAccess x1 x2 x3 s
  | .oversizeRequest x1 x2 x3 => Sys2Proof.Machine.execOversizeRequest x1 x2 x3 s
  | .glbReset x1 x2 => Sys2Proof.Machine.execGlbReset x1 x2 s
  | .glbExpert x1 x2 => Sys2Proof.Machine.execGlbExpert x1 x2 s
  | .glbExpertThr x1 x2 => Sys2Proof.Machine.execGlbExpertThr x1 x2 s
  | .warmResetStart => Sys2Proof.Machine.execWarmResetStart s
  | .poresetNAssert => Sys2Proof.Machine.execPoresetNAssert s
  | .poresetNDeassert x1 => Sys2Proof.Machine.execPoresetNDeassert x1 s
  | .warmrstNAssert => Sys2Proof.Machine.execWarmrstNAssert s
  | .warmrstNDeassert => Sys2Proof.Machine.execWarmrstNDeassert s
  | .perstNAssert x1 => Sys2Proof.Machine.execPerstNAssert x1 s
  | .perstNDeassert x1 => Sys2Proof.Machine.execPerstNDeassert x1 s
  | .jtagTrst => Sys2Proof.Machine.execJtagTrst s
  | .powerLoss x1 => Sys2Proof.Machine.execPowerLoss x1 s
  | .brownout => Sys2Proof.Machine.execBrownout s
  | .firmwareVerified x1 x2 => Sys2Proof.Machine.execFirmwareVerified x1 x2 s
  | .bootProfileApplied x1 => Sys2Proof.Machine.execBootProfileApplied x1 s
  | .hbmTrainDone x1 x2 x3 => Sys2Proof.Machine.execHbmTrainDone x1 x2 x3 s
  | .stretchLevelUp x1 x2 x3 => Sys2Proof.Machine.execStretchLevelUp x1 x2 x3 s
  | .stretchLevelDown x1 x2 x3 => Sys2Proof.Machine.execStretchLevelDown x1 x2 x3 s
  | .dieTempSample x1 => Sys2Proof.Machine.execDieTempSample x1 s
  | .inputChange x1 x2 => Sys2Proof.Machine.execInputChange x1 x2 s
  | .inputLevelAccept x1 => Sys2Proof.Machine.execInputLevelAccept x1 s
  | .inputStuck x1 => Sys2Proof.Machine.execInputStuck x1 s
  | .timerefLoss => Sys2Proof.Machine.execTimerefLoss s
  | .timerefRestore => Sys2Proof.Machine.execTimerefRestore s
  | .syncT x1 x2 => Sys2Proof.Machine.execSyncT x1 x2 s
  | .syncA x1 x2 => Sys2Proof.Machine.execSyncA x1 x2 s
  | .syncTai x1 x2 => Sys2Proof.Machine.execSyncTai x1 x2 s
  | .syncTSend x1 => Sys2Proof.Machine.execSyncTSend x1 s
  | .syncASend x1 => Sys2Proof.Machine.execSyncASend x1 s
  | .syncTaiSend x1 => Sys2Proof.Machine.execSyncTaiSend x1 s
  | .acquireLock => Sys2Proof.Machine.execAcquireLock s
  | .acquireTimeout => Sys2Proof.Machine.execAcquireTimeout s
  | .electTimeout => Sys2Proof.Machine.execElectTimeout s
  | .parentLossTimeout => Sys2Proof.Machine.execParentLossTimeout s
  | .masterTakeover => Sys2Proof.Machine.execMasterTakeover s
  | .holdoverTimeout => Sys2Proof.Machine.execHoldoverTimeout s
  | .roleWrite x1 x2 => Sys2Proof.Machine.execRoleWrite x1 x2 s
  | .taiOffsetWrite x1 x2 => Sys2Proof.Machine.execTaiOffsetWrite x1 x2 s
  | .ppsOutEdge => Sys2Proof.Machine.execPpsOutEdge s
  | .ethRxFrame x1 x2 x3 => Sys2Proof.Machine.execEthRxFrame x1 x2 x3 s
  | .loupeIntake x1 => Sys2Proof.Machine.execLoupeIntake x1 s
  | .loupeWord x1 x2 x3 => Sys2Proof.Machine.execLoupeWord x1 x2 x3 s
  | .loupeDeliver x1 => Sys2Proof.Machine.execLoupeDeliver x1 s
  | .clsResultAccept x1 => Sys2Proof.Machine.execClsResultAccept x1 s
  | .clsLineReturn x1 x2 x3 => Sys2Proof.Machine.execClsLineReturn x1 x2 x3 s
  | .clsActionEval x1 x2 => Sys2Proof.Machine.execClsActionEval x1 x2 s
  | .meterOp x1 x2 => Sys2Proof.Machine.execMeterOp x1 x2 s
  | .clsDeliver x1 x2 => Sys2Proof.Machine.execClsDeliver x1 x2 s
  | .epochCommitTime x1 => Sys2Proof.Machine.execEpochCommitTime x1 s
  | .epochSupersededRelease x1 => Sys2Proof.Machine.execEpochSupersededRelease x1 s
  | .dlrItemArrive => Sys2Proof.Machine.execDlrItemArrive s
  | .dlrDispatch => Sys2Proof.Machine.execDlrDispatch s
  | .dlrTrump x1 => Sys2Proof.Machine.execDlrTrump x1 s
  | .dlrTick => Sys2Proof.Machine.execDlrTick s
  | .dlrInhSignal => Sys2Proof.Machine.execDlrInhSignal s
  | .fixCompletion => Sys2Proof.Machine.execFixCompletion s
  | .fixRelease x1 => Sys2Proof.Machine.execFixRelease x1 s
  | .fixSettleExpire x1 => Sys2Proof.Machine.execFixSettleExpire x1 s
  | .fixHoldExpire x1 => Sys2Proof.Machine.execFixHoldExpire x1 s
  | .fixTtlExpire x1 => Sys2Proof.Machine.execFixTtlExpire x1 s
  | .fixDomainExpire x1 => Sys2Proof.Machine.execFixDomainExpire x1 s
  | .fixEcc x1 => Sys2Proof.Machine.execFixEcc x1 s
  | .loadDataReturn x1 x2 => Sys2Proof.Machine.execLoadDataReturn x1 x2 s
  | .machineCheck x1 x2 => Sys2Proof.Machine.execMachineCheck x1 x2 s
  | .interruptTake x1 => Sys2Proof.Machine.execInterruptTake x1 s
  | .add x1 x2 => Sys2Proof.Machine.execAdd x1 x2 s
  | .addc x1 x2 => Sys2Proof.Machine.execAddc x1 x2 s
  | .sub x1 x2 => Sys2Proof.Machine.execSub x1 x2 s
  | .subc x1 x2 => Sys2Proof.Machine.execSubc x1 x2 s
  | .and x1 x2 => Sys2Proof.Machine.execAnd x1 x2 s
  | .or x1 x2 => Sys2Proof.Machine.execOr x1 x2 s
  | .xor x1 x2 => Sys2Proof.Machine.execXor x1 x2 s
  | .andn x1 x2 => Sys2Proof.Machine.execAndn x1 x2 s
  | .sll x1 x2 => Sys2Proof.Machine.execSll x1 x2 s
  | .srl x1 x2 => Sys2Proof.Machine.execSrl x1 x2 s
  | .sra x1 x2 => Sys2Proof.Machine.execSra x1 x2 s
  | .ror x1 x2 => Sys2Proof.Machine.execRor x1 x2 s
  | .slli x1 x2 => Sys2Proof.Machine.execSlli x1 x2 s
  | .srli x1 x2 => Sys2Proof.Machine.execSrli x1 x2 s
  | .srai x1 x2 => Sys2Proof.Machine.execSrai x1 x2 s
  | .rori x1 x2 => Sys2Proof.Machine.execRori x1 x2 s
  | .slt x1 x2 => Sys2Proof.Machine.execSlt x1 x2 s
  | .sltu x1 x2 => Sys2Proof.Machine.execSltu x1 x2 s
  | .min x1 x2 => Sys2Proof.Machine.execMin x1 x2 s
  | .max x1 x2 => Sys2Proof.Machine.execMax x1 x2 s
  | .minu x1 x2 => Sys2Proof.Machine.execMinu x1 x2 s
  | .maxu x1 x2 => Sys2Proof.Machine.execMaxu x1 x2 s
  | .mul x1 x2 => Sys2Proof.Machine.execMul x1 x2 s
  | .mulh x1 x2 => Sys2Proof.Machine.execMulh x1 x2 s
  | .mulhu x1 x2 => Sys2Proof.Machine.execMulhu x1 x2 s
  | .div x1 x2 => Sys2Proof.Machine.execDiv x1 x2 s
  | .divu x1 x2 => Sys2Proof.Machine.execDivu x1 x2 s
  | .rem x1 x2 => Sys2Proof.Machine.execRem x1 x2 s
  | .remu x1 x2 => Sys2Proof.Machine.execRemu x1 x2 s
  | .clz x1 x2 => Sys2Proof.Machine.execClz x1 x2 s
  | .popc x1 x2 => Sys2Proof.Machine.execPopc x1 x2 s
  | .bswap x1 x2 => Sys2Proof.Machine.execBswap x1 x2 s
  | .addi x1 x2 => Sys2Proof.Machine.execAddi x1 x2 s
  | .andi x1 x2 => Sys2Proof.Machine.execAndi x1 x2 s
  | .ori x1 x2 => Sys2Proof.Machine.execOri x1 x2 s
  | .xori x1 x2 => Sys2Proof.Machine.execXori x1 x2 s
  | .li x1 x2 => Sys2Proof.Machine.execLi x1 x2 s
  | .lui x1 x2 => Sys2Proof.Machine.execLui x1 x2 s
  | .aaddi x1 x2 => Sys2Proof.Machine.execAaddi x1 x2 s
  | .alpc x1 x2 => Sys2Proof.Machine.execAlpc x1 x2 s
  | .ldb x1 x2 => Sys2Proof.Machine.execLdb x1 x2 s
  | .ldbu x1 x2 => Sys2Proof.Machine.execLdbu x1 x2 s
  | .ldh x1 x2 => Sys2Proof.Machine.execLdh x1 x2 s
  | .ldhu x1 x2 => Sys2Proof.Machine.execLdhu x1 x2 s
  | .ldw x1 x2 => Sys2Proof.Machine.execLdw x1 x2 s
  | .lda x1 x2 => Sys2Proof.Machine.execLda x1 x2 s
  | .stb x1 x2 => Sys2Proof.Machine.execStb x1 x2 s
  | .sth x1 x2 => Sys2Proof.Machine.execSth x1 x2 s
  | .stw x1 x2 => Sys2Proof.Machine.execStw x1 x2 s
  | .sta x1 x2 => Sys2Proof.Machine.execSta x1 x2 s
  | .brc x1 x2 => Sys2Proof.Machine.execBrc x1 x2 s
  | .brf x1 x2 => Sys2Proof.Machine.execBrf x1 x2 s
  | .bra x1 x2 => Sys2Proof.Machine.execBra x1 x2 s
  | .j x1 x2 => Sys2Proof.Machine.execJ x1 x2 s
  | .jr x1 x2 => Sys2Proof.Machine.execJr x1 x2 s
  | .extu x1 x2 => Sys2Proof.Machine.execExtu x1 x2 s
  | .exts x1 x2 => Sys2Proof.Machine.execExts x1 x2 s
  | .ins x1 x2 => Sys2Proof.Machine.execIns x1 x2 s
  | .mac x1 x2 => Sys2Proof.Machine.execMac x1 x2 s
  | .macu x1 x2 => Sys2Proof.Machine.execMacu x1 x2 s
  | .msu x1 x2 => Sys2Proof.Machine.execMsu x1 x2 s
  | .msuu x1 x2 => Sys2Proof.Machine.execMsuu x1 x2 s
  | .mula x1 x2 => Sys2Proof.Machine.execMula x1 x2 s
  | .aclr x1 x2 => Sys2Proof.Machine.execAclr x1 x2 s
  | .mtac x1 x2 => Sys2Proof.Machine.execMtac x1 x2 s
  | .mtacu x1 x2 => Sys2Proof.Machine.execMtacu x1 x2 s
  | .mfacl x1 x2 => Sys2Proof.Machine.execMfacl x1 x2 s
  | .mfach x1 x2 => Sys2Proof.Machine.execMfach x1 x2 s
  | .mfacg x1 x2 => Sys2Proof.Machine.execMfacg x1 x2 s
  | .asat x1 x2 => Sys2Proof.Machine.execAsat x1 x2 s
  | .ashr x1 x2 => Sys2Proof.Machine.execAshr x1 x2 s
  | .dadd x1 x2 => Sys2Proof.Machine.execDadd x1 x2 s
  | .daddc x1 x2 => Sys2Proof.Machine.execDaddc x1 x2 s
  | .dsub x1 x2 => Sys2Proof.Machine.execDsub x1 x2 s
  | .dsubc x1 x2 => Sys2Proof.Machine.execDsubc x1 x2 s
  | .daj x1 x2 => Sys2Proof.Machine.execDaj x1 x2 s
  | .dacc x1 x2 => Sys2Proof.Machine.execDacc x1 x2 s
  | .asc2p x1 x2 => Sys2Proof.Machine.execAsc2p x1 x2 s
  | .p2bin x1 x2 => Sys2Proof.Machine.execP2bin x1 x2 s
  | .bin2p x1 x2 => Sys2Proof.Machine.execBin2p x1 x2 s
  | .movda x1 x2 => Sys2Proof.Machine.execMovda x1 x2 s
  | .movdas x1 x2 => Sys2Proof.Machine.execMovdas x1 x2 s
  | .movad x1 x2 => Sys2Proof.Machine.execMovad x1 x2 s
  | .movah x1 x2 => Sys2Proof.Machine.execMovah x1 x2 s
  | .movha x1 x2 => Sys2Proof.Machine.execMovha x1 x2 s
  | .aadd x1 x2 => Sys2Proof.Machine.execAadd x1 x2 s
  | .asub x1 x2 => Sys2Proof.Machine.execAsub x1 x2 s
  | .adiff x1 x2 => Sys2Proof.Machine.execAdiff x1 x2 s
  | .amov x1 x2 => Sys2Proof.Machine.execAmov x1 x2 s
  | .mfs x1 x2 => Sys2Proof.Machine.execMfs x1 x2 s
  | .mts x1 x2 => Sys2Proof.Machine.execMts x1 x2 s
  | .mfsa x1 x2 => Sys2Proof.Machine.execMfsa x1 x2 s
  | .mtsa x1 x2 => Sys2Proof.Machine.execMtsa x1 x2 s
  | .syscall x1 x2 => Sys2Proof.Machine.execSyscall x1 x2 s
  | .moncall x1 x2 => Sys2Proof.Machine.execMoncall x1 x2 s
  | .breakOp x1 x2 => Sys2Proof.Machine.execBreakOp x1 x2 s
  | .eret x1 x2 => Sys2Proof.Machine.execEret x1 x2 s
  | .fence x1 x2 => Sys2Proof.Machine.execFence x1 x2 s
  | .clrf x1 x2 => Sys2Proof.Machine.execClrf x1 x2 s
  | .fork x1 x2 => Sys2Proof.Machine.execFork x1 x2 s
  | .join x1 x2 => Sys2Proof.Machine.execJoin x1 x2 s
  | .endOp x1 x2 => Sys2Proof.Machine.execEndOp x1 x2 s
  | .waitt x1 x2 => Sys2Proof.Machine.execWaitt x1 x2 s
  | .waite x1 x2 => Sys2Proof.Machine.execWaite x1 x2 s
  | .post x1 x2 => Sys2Proof.Machine.execPost x1 x2 s
  | .postArrive => Sys2Proof.Machine.execPostArrive s
  | .chw x1 x2 => Sys2Proof.Machine.execChw x1 x2 s
  | .chcommit x1 x2 => Sys2Proof.Machine.execChcommit x1 x2 s
  | .send x1 x2 => Sys2Proof.Machine.execSend x1 x2 s
  | .recv x1 x2 => Sys2Proof.Machine.execRecv x1 x2 s
  | .yield x1 x2 => Sys2Proof.Machine.execYield x1 x2 s
  | .submit x1 x2 => Sys2Proof.Machine.execSubmit x1 x2 s
  | .submitResume x1 => Sys2Proof.Machine.execSubmitResume x1 s
  | .pktout x1 x2 => Sys2Proof.Machine.execPktout x1 x2 s
  | .pktoutResume x1 => Sys2Proof.Machine.execPktoutResume x1 s
  | .timerCompareReached x1 => Sys2Proof.Machine.execTimerCompareReached x1 s
  | .clusterDeadlock x1 => Sys2Proof.Machine.execClusterDeadlock x1 s
  | .halt x1 x2 => Sys2Proof.Machine.execHalt x1 x2 s
  | .resume x1 x2 => Sys2Proof.Machine.execResume x1 x2 s
  | .step x1 x2 => Sys2Proof.Machine.execStep x1 x2 s
  | .kill x1 x2 => Sys2Proof.Machine.execKill x1 x2 s
  | .trap x1 x2 => Sys2Proof.Machine.execTrap x1 x2 s
  | .chabort x1 x2 => Sys2Proof.Machine.execChabort x1 x2 s
  | .dbgWinWrite x1 x2 x3 => Sys2Proof.Machine.execDbgWinWrite x1 x2 x3 s
  | .breakpointHit x1 x2 => Sys2Proof.Machine.execBreakpointHit x1 x2 s
  | .drainLimitExpire => Sys2Proof.Machine.execDrainLimitExpire s
  | .crc32c x1 x2 => Sys2Proof.Machine.execCrc32c x1 x2 s
  | .crc64 x1 x2 => Sys2Proof.Machine.execCrc64 x1 x2 s
  | .toep x1 x2 => Sys2Proof.Machine.execToep x1 x2 s
  | .symh x1 x2 => Sys2Proof.Machine.execSymh x1 x2 s
  | .aese x1 x2 => Sys2Proof.Machine.execAese x1 x2 s
  | .aesd x1 x2 => Sys2Proof.Machine.execAesd x1 x2 s
  | .ghash x1 x2 => Sys2Proof.Machine.execGhash x1 x2 s
  | .sha256r x1 x2 => Sys2Proof.Machine.execSha256r x1 x2 s
  | .sha256m x1 x2 => Sys2Proof.Machine.execSha256m x1 x2 s
  | .mcmp128 x1 x2 => Sys2Proof.Machine.execMcmp128 x1 x2 s
  | .bgath x1 x2 => Sys2Proof.Machine.execBgath x1 x2 s
  | .bscat x1 x2 => Sys2Proof.Machine.execBscat x1 x2 s
  | .cxLate x1 x2 x3 x4 => Sys2Proof.Machine.execCxLate x1 x2 x3 x4 s
  | .lock x1 x2 => Sys2Proof.Machine.execLock x1 x2 s
  | .trylock x1 x2 => Sys2Proof.Machine.execTrylock x1 x2 s
  | .unlock x1 x2 => Sys2Proof.Machine.execUnlock x1 x2 s
  | .semp x1 x2 => Sys2Proof.Machine.execSemp x1 x2 s
  | .semv x1 x2 => Sys2Proof.Machine.execSemv x1 x2 s
  | .aaddw x1 x2 => Sys2Proof.Machine.execAaddw x1 x2 s
  | .aswpw x1 x2 => Sys2Proof.Machine.execAswpw x1 x2 s
  | .acasw x1 x2 => Sys2Proof.Machine.execAcasw x1 x2 s
  | .aandw x1 x2 => Sys2Proof.Machine.execAandw x1 x2 s
  | .aorw x1 x2 => Sys2Proof.Machine.execAorw x1 x2 s
  | .lockTrump x1 x2 x3 => Sys2Proof.Machine.execLockTrump x1 x2 x3 s
  | .lockWithdraw x1 => Sys2Proof.Machine.execLockWithdraw x1 s
  | .lckForce x1 x2 => Sys2Proof.Machine.execLckForce x1 x2 s
  | .semInitWrite x1 x2 x3 => Sys2Proof.Machine.execSemInitWrite x1 x2 x3 s
  | .traysAllocSize x1 x2 x3 x4 => Sys2Proof.Machine.execTraysAllocSize x1 x2 x3 x4 s
  | .traysAllocPool x1 x2 x3 x4 => Sys2Proof.Machine.execTraysAllocPool x1 x2 x3 x4 s
  | .free x1 x2 => Sys2Proof.Machine.execFree x1 x2 s
  | .give x1 x2 x3 => Sys2Proof.Machine.execGive x1 x2 x3 s
  | .share x1 x2 x3 => Sys2Proof.Machine.execShare x1 x2 x3 s
  | .traysWaitReport x1 => Sys2Proof.Machine.execTraysWaitReport x1 s
  | .traysWithdraw x1 => Sys2Proof.Machine.execTraysWithdraw x1 s
  | .tryReclaim x1 x2 => Sys2Proof.Machine.execTryReclaim x1 x2 s
  | .traysReclaimed => Sys2Proof.Machine.execTraysReclaimed s
  | .traysEcc x1 => Sys2Proof.Machine.execTraysEcc x1 s
  | .swtEnqueue => Sys2Proof.Machine.execSwtEnqueue s
  | .swtDequeue x1 => Sys2Proof.Machine.execSwtDequeue x1 s
  | .swtTxDone x1 => Sys2Proof.Machine.execSwtTxDone x1 s
  | .swtTxEcc x1 => Sys2Proof.Machine.execSwtTxEcc x1 s
  | .swtQueueTrump x1 => Sys2Proof.Machine.execSwtQueueTrump x1 s
  | .swtQflush x1 x2 => Sys2Proof.Machine.execSwtQflush x1 x2 s
  | .swtHoldExpire x1 => Sys2Proof.Machine.execSwtHoldExpire x1 s
  | .ethPortCfgWrite x1 x2 x3 => Sys2Proof.Machine.execEthPortCfgWrite x1 x2 x3 s
  | .autoNegotiation x1 x2 => Sys2Proof.Machine.execAutoNegotiation x1 x2 s
  | .trainDone x1 => Sys2Proof.Machine.execTrainDone x1 s
  | .trainLimitExpire x1 => Sys2Proof.Machine.execTrainLimitExpire x1 s
  | .upDebExpire x1 => Sys2Proof.Machine.execUpDebExpire x1 s
  | .ethLinkFault x1 x2 x3 x4 => Sys2Proof.Machine.execEthLinkFault x1 x2 x3 x4 s
  | .downDebExpire x1 => Sys2Proof.Machine.execDownDebExpire x1 s
  | .pfcSend x1 => Sys2Proof.Machine.execPfcSend x1 s
  | .pfcRefresh x1 => Sys2Proof.Machine.execPfcRefresh x1 s
  | .pfcRx x1 x2 => Sys2Proof.Machine.execPfcRx x1 x2 s
  | .pfcPauseExpire x1 x2 => Sys2Proof.Machine.execPfcPauseExpire x1 x2 s
  | .tsqRead x1 x2 => Sys2Proof.Machine.execTsqRead x1 x2 s
  | .sof x1 x2 x3 x4 => Sys2Proof.Machine.execSof x1 x2 x3 x4 s
  | .ringTerminate x1 x2 => Sys2Proof.Machine.execRingTerminate x1 x2 s
  | .ctrlFrame x1 x2 => Sys2Proof.Machine.execCtrlFrame x1 x2 s
  | .mgmtFrame x1 x2 => Sys2Proof.Machine.execMgmtFrame x1 x2 s
  | .ringOutputSelect x1 => Sys2Proof.Machine.execRingOutputSelect x1 s
  | .transitTtlRecheck => Sys2Proof.Machine.execTransitTtlRecheck s
  | .ringUnderrun x1 => Sys2Proof.Machine.execRingUnderrun x1 s
  | .fecUncorrectable x1 x2 => Sys2Proof.Machine.execFecUncorrectable x1 x2 s
  | .idle x1 x2 => Sys2Proof.Machine.execIdle x1 x2 s
  | .credit x1 x2 => Sys2Proof.Machine.execCredit x1 x2 s
  | .nak x1 x2 => Sys2Proof.Machine.execNak x1 x2 s
  | .replay x1 x2 => Sys2Proof.Machine.execReplay x1 x2 s
  | .hello x1 x2 => Sys2Proof.Machine.execHello x1 x2 s
  | .ringResume x1 x2 => Sys2Proof.Machine.execRingResume x1 x2 s
  | .refuse x1 x2 => Sys2Proof.Machine.execRefuse x1 x2 s
  | .leave x1 x2 => Sys2Proof.Machine.execLeave x1 x2 s
  | .leaveAck x1 x2 => Sys2Proof.Machine.execLeaveAck x1 x2 s
  | .badControlWord x1 x2 => Sys2Proof.Machine.execBadControlWord x1 x2 s
  | .nakRepeat x1 => Sys2Proof.Machine.execNakRepeat x1 s
  | .ackSend x1 => Sys2Proof.Machine.execAckSend x1 s
  | .creditReport x1 => Sys2Proof.Machine.execCreditReport x1 s
  | .wmIdleSend x1 => Sys2Proof.Machine.execWmIdleSend x1 s
  | .ctrlGapExpire x1 => Sys2Proof.Machine.execCtrlGapExpire x1 s
  | .spliceX x1 => Sys2Proof.Machine.execSpliceX x1 s
  | .spliceY x1 => Sys2Proof.Machine.execSpliceY x1 s
  | .leaveX x1 => Sys2Proof.Machine.execLeaveX x1 s
  | .leaveY x1 => Sys2Proof.Machine.execLeaveY x1 s
  | .passX x1 => Sys2Proof.Machine.execPassX x1 s
  | .passY x1 => Sys2Proof.Machine.execPassY x1 s
  | .bypassActuated x1 => Sys2Proof.Machine.execBypassActuated x1 s
  | .spliceTimeout x1 => Sys2Proof.Machine.execSpliceTimeout x1 s
  | .leaveDrainDone x1 => Sys2Proof.Machine.execLeaveDrainDone x1 s
  | .linkSignalDetect x1 => Sys2Proof.Machine.execLinkSignalDetect x1 s
  | .trainLock x1 => Sys2Proof.Machine.execTrainLock x1 s
  | .trainTimeout x1 => Sys2Proof.Machine.execTrainTimeout x1 s
  | .helloSend x1 => Sys2Proof.Machine.execHelloSend x1 s
  | .refuseRetry x1 => Sys2Proof.Machine.execRefuseRetry x1 s
  | .linkLockLoss x1 => Sys2Proof.Machine.execLinkLockLoss x1 s
  | .linkHoldExpire x1 => Sys2Proof.Machine.execLinkHoldExpire x1 s
  | .breakClear x1 => Sys2Proof.Machine.execBreakClear x1 s
  | .avoidExpire => Sys2Proof.Machine.execAvoidExpire s
  | .hqePoll x1 => Sys2Proof.Machine.execHqePoll x1 s
  | .summaryReadDone x1 x2 => Sys2Proof.Machine.execSummaryReadDone x1 x2 s
  | .atomicSwapDone x1 x2 x3 => Sys2Proof.Machine.execAtomicSwapDone x1 x2 x3 s
  | .doorbellRead x1 x2 x3 => Sys2Proof.Machine.execDoorbellRead x1 x2 x3 s
  | .descriptorFetch x1 x2 x3 => Sys2Proof.Machine.execDescriptorFetch x1 x2 x3 s
  | .txSeg x1 x2 => Sys2Proof.Machine.execTxSeg x1 x2 s
  | .txDataReadDone x1 x2 x3 x4 => Sys2Proof.Machine.execTxDataReadDone x1 x2 x3 x4 s
  | .modTimeExpire x1 x2 => Sys2Proof.Machine.execModTimeExpire x1 x2 s
  | .rxBuf x1 x2 => Sys2Proof.Machine.execRxBuf x1 x2 s
  | .rxDeliver x1 => Sys2Proof.Machine.execRxDeliver x1 s
  | .cqRecheck x1 x2 x3 => Sys2Proof.Machine.execCqRecheck x1 x2 x3 s
  | .cmd x1 x2 x3 x4 => Sys2Proof.Machine.execCmd x1 x2 x3 x4 s
  | .fnCtrlWrite x1 x2 x3 => Sys2Proof.Machine.execFnCtrlWrite x1 x2 x3 s
  | .flr x1 => Sys2Proof.Machine.execFlr x1 s
  | .snapshotTake x1 => Sys2Proof.Machine.execSnapshotTake x1 s
  | .snapshotDeliver x1 => Sys2Proof.Machine.execSnapshotDeliver x1 s
  | .ringCreate x1 x2 => Sys2Proof.Machine.execRingCreate x1 x2 s
  | .cqCreate x1 x2 => Sys2Proof.Machine.execCqCreate x1 x2 s
  | .ringDestroy x1 x2 => Sys2Proof.Machine.execRingDestroy x1 x2 s
  | .vfConfig x1 x2 => Sys2Proof.Machine.execVfConfig x1 x2 s
  | .snapCreate x1 x2 x3 x4 => Sys2Proof.Machine.execSnapCreate x1 x2 x3 x4 s
  | .snapRequest x1 x2 => Sys2Proof.Machine.execSnapRequest x1 x2 s
  | .snapDestroy x1 x2 => Sys2Proof.Machine.execSnapDestroy x1 x2 s
  | .clsNodeWrite x1 x2 x3 x4 => Sys2Proof.Machine.execClsNodeWrite x1 x2 x3 x4 s
  | .clsEpochStage x1 x2 x3 x4 => Sys2Proof.Machine.execClsEpochStage x1 x2 x3 x4 s
  | .clsEpochCommit x1 x2 => Sys2Proof.Machine.execClsEpochCommit x1 x2 s
  | .clsEpochAbort x1 x2 => Sys2Proof.Machine.execClsEpochAbort x1 x2 s
  | .meterWrite x1 x2 x3 x4 => Sys2Proof.Machine.execMeterWrite x1 x2 x3 x4 s
  | .lockAcquire x1 x2 => Sys2Proof.Machine.execLockAcquire x1 x2 s
  | .lockRelease x1 x2 => Sys2Proof.Machine.execLockRelease x1 x2 s
  | .semTake x1 x2 => Sys2Proof.Machine.execSemTake x1 x2 s
  | .lockForce x1 x2 => Sys2Proof.Machine.execLockForce x1 x2 s
  | .ringOp x1 x2 => Sys2Proof.Machine.execRingOp x1 x2 s
  | .profileSwitch x1 x2 x3 => Sys2Proof.Machine.execProfileSwitch x1 x2 x3 s
  | .profileCancel x1 x2 => Sys2Proof.Machine.execProfileCancel x1 x2 s
  | .profileStatus x1 x2 => Sys2Proof.Machine.execProfileStatus x1 x2 s
  | .negativeRead x1 x2 => Sys2Proof.Machine.execNegativeRead x1 x2 s
  | .negativeClear x1 x2 => Sys2Proof.Machine.execNegativeClear x1 x2 s
  | .eventRingSet x1 x2 => Sys2Proof.Machine.execEventRingSet x1 x2 s
  | .eventRead x1 x2 => Sys2Proof.Machine.execEventRead x1 x2 s
  | .cshArm x1 x2 => Sys2Proof.Machine.execCshArm x1 x2 s
  | .cshStop x1 x2 => Sys2Proof.Machine.execCshStop x1 x2 s
  | .cshMark x1 x2 => Sys2Proof.Machine.execCshMark x1 x2 s
  | .cshRead x1 x2 => Sys2Proof.Machine.execCshRead x1 x2 s
  | .debugMode x1 x2 => Sys2Proof.Machine.execDebugMode x1 x2 s
  | .threadReset x1 x2 => Sys2Proof.Machine.execThreadReset x1 x2 s
  | .traysReclaim x1 x2 => Sys2Proof.Machine.execTraysReclaim x1 x2 s
  | .taiSet x1 x2 => Sys2Proof.Machine.execTaiSet x1 x2 s
  | .regRead x1 x2 => Sys2Proof.Machine.execRegRead x1 x2 s
  | .regWrite x1 x2 => Sys2Proof.Machine.execRegWrite x1 x2 s
  | .deviceReset x1 x2 => Sys2Proof.Machine.execDeviceReset x1 x2 s
  | .identify x1 x2 => Sys2Proof.Machine.execIdentify x1 x2 s
  | .profileSwitchTime => Sys2Proof.Machine.execProfileSwitchTime s
  | .stopBathDrainDone => Sys2Proof.Machine.execStopBathDrainDone s
  | .swapFixerEmpty => Sys2Proof.Machine.execSwapFixerEmpty s
  | .swapComplete => Sys2Proof.Machine.execSwapComplete s
  | .cshStartTime => Sys2Proof.Machine.execCshStartTime s
  | .cshStopTime => Sys2Proof.Machine.execCshStopTime s
  | .cshRecordWrite x1 => Sys2Proof.Machine.execCshRecordWrite x1 s
  | .mctpControl x1 => Sys2Proof.Machine.execMctpControl x1 s
  | .pldmMessage x1 => Sys2Proof.Machine.execPldmMessage x1 s
  | .pldmUpdate x1 x2 x3 => Sys2Proof.Machine.execPldmUpdate x1 x2 x3 s
  | .vendorCommand x1 => Sys2Proof.Machine.execVendorCommand x1 s
  | .sensorUpdate x1 x2 => Sys2Proof.Machine.execSensorUpdate x1 x2 s
  | .hbmRequest x1 x2 x3 x4 x5 x6 x7 => Sys2Proof.Machine.execHbmRequest x1 x2 x3 x4 x5 x6 x7 s
  | .hbmCommandIssue x1 x2 => Sys2Proof.Machine.execHbmCommandIssue x1 x2 s
  | .hbmTrump x1 x2 => Sys2Proof.Machine.execHbmTrump x1 x2 s
  | .hbmReadReturn x1 x2 x3 x4 => Sys2Proof.Machine.execHbmReadReturn x1 x2 x3 x4 s
  | .hbmFreeze x1 x2 x3 x4 x5 x6 x7 x8 => Sys2Proof.Machine.execHbmFreeze x1 x2 x3 x4 x5 x6 x7 x8 s
  | .negativeComplete x1 => Sys2Proof.Machine.execNegativeComplete x1 s
  | .hbmRefresh x1 x2 => Sys2Proof.Machine.execHbmRefresh x1 x2 s
  | .hbmTempRead x1 x2 => Sys2Proof.Machine.execHbmTempRead x1 x2 s
  | .hbmDriftCheck x1 => Sys2Proof.Machine.execHbmDriftCheck x1 s
  | .hbmScrub x1 x2 => Sys2Proof.Machine.execHbmScrub x1 x2 s
  | .powerOn => Sys2Proof.Machine.execPowerOn s
  | .bootHeaderRead => Sys2Proof.Machine.execBootHeaderRead s
  | .transitTrailer x1 x2 => Sys2Proof.Machine.execTransitTrailer x1 x2 s
  | .eventRingSignal x1 => Sys2Proof.Machine.execEventRingSignal x1 s
  | .pcieConfigWrite x1 x2 => Sys2Proof.Machine.execPcieConfigWrite x1 x2 s
  | .msixTableWrite x1 x2 x3 => Sys2Proof.Machine.execMsixTableWrite x1 x2 x3 s

end Sys2Proof.Machine
end

