-- ==== Sys2Proof/Machine/Tick.lean ====
section
/-! DEFINITION. What one sub-step of the time bus does when no command waits (R53): fabric time advances, counters of clocks
count, and the deadlock detectors see whether their conditions hold (R282). -/

namespace Sys2Proof.Machine

open Host

/-- R53: the next sub-step; after the eighth the counter advances by TIM_INCR. -/
def advanceTime (v : Tim) : Tim :=
  if v.sub = 7 then { v with count := v.count + v.incr.setWidth 96, sub := 0 } else { v with sub := v.sub + 1 }

/-- R33, R203: clocks of a 1.6 GHz island up to a fabric time. -/
def clocksTo (t : Nat) : Nat := t / 10

/-- R282: the detector of a cluster: since when its conditions hold. -/
def watchCluster (s : State) (c : Nat) : State :=
  let cl := s.cluster c
  if s.dlHolds c then (if cl.dlSince.isSome then s else s.setCluster c { cl with dlSince := some s.now })
  else if cl.dlSince.isSome then s.setCluster c { cl with dlSince := none }
  else s

/-- One sub-step of the time bus.  In RESET only the counter moves, by which the least duration of a PORESET_N is told (R561); it
starts again at 0 when the reset ends (R54). -/
def tick (s : State) : State :=
  if s.dev = .reset then { s with tim := advanceTime s.tim }
  else
    let s1 := { s with tim := advanceTime s.tim }
    let n := clocksTo s1.nowN - clocksTo s.nowN
    let s2 := if s.dlr.stop = 0 then s1 else s1.countN (dlrBase + 0x908) n
    let s3 := if s.fixFull then s2.countN (fixBase + 0x124) n else s2
    (List.range 17).foldl watchCluster s3

end Sys2Proof.Machine
end

