-- ==== Sys2Proof/Safety.lean ====
section
/-! DEFINITION. What counts as a safe run: the canonical form of the stores, what no command may touch, and the invariant that
every step keeps. -/

namespace Sys2Proof.Machine

open Host

/-- The canonical form of every memory: addresses rise strictly, and no byte is listed that equals what an unlisted address reads
as. -/
def Memory.wf (m : Mems) : Bool :=
  swf 0 m.istore && swf 0 m.scratch && swf 0 m.shared && swf 0 m.mgmt && swf 0 m.pkt && swf 0 m.hbm && swf 0xFF m.flash
    && swf 0 m.host

/-- The canonical form of the core array's tables. -/
def Cores.wf (c : Cores) : Bool :=
  swf Thread.cleared c.threads && swf Channel.empty c.chans && swf Cluster.empty c.clusters && swf 0x003F0000 c.cxen
    && swf CxLog.empty c.cxlog && swf 1 c.bht

/-- The memories, the stored register fields, the event counters and the core array are in canonical form. -/
def State.wf (s : State) : Prop :=
  Memory.wf s.mems = true ∧ swf 0 s.regs = true ∧ swf 0 s.counters = true ∧ Cores.wf s.cores = true

/-- What no command may do: change the fuses of the part (R1), touch the queue, or spoil the canonical form of a store. -/
structure Keeps (s t : State) : Prop where
  variant : t.variant = s.variant
  pending : t.pending = s.pending
  wf : s.wf → t.wf

/-- The invariant of the block: its ordering variant is the one its fuses say (R1), and its stores are in canonical form. -/
structure State.Inv (v : Variant) (s : State) : Prop where
  variant : s.variant = v
  wf : s.wf

end Sys2Proof.Machine
end

