-- ==== Sys2Proof/Safety/Claims.lean ====
section
/-! DEFINITION. The terms in which the statements are made. -/

namespace Sys2Proof.Machine

open Host


/-- R206, R210: the next instruction of the thread issues and can be fetched.  The thread is in RUN, awaits nothing, its PC is
good, and no STEP is granted to it. -/
structure State.ready (s : State) (t : ThreadId) : Prop where
  run : (s.thread t).state = .run
  free : (s.thread t).outstanding = none
  fetch : badPc (s.thread t).pc = false
  noStep : (s.thread t).stepArmed = false
  form : Cores.wf s.cores = true

/-- Everything but thread `t` is as before: every other thread, every memory, every register and unit.  A thread in RUN also
ends the deadlock detector's count of its cluster (R282). -/
structure OnlyThread (s u : State) (t : ThreadId) : Prop where
  others : ∀ k, k ≠ t.val → u.thread k = s.thread k
  clusters : ∀ c, u.cluster c = if c = clusterOf t then { s.cluster c with dlSince := none } else s.cluster c
  rest : u = { s with cores := { s.cores with threads := u.cores.threads, clusters := u.cores.clusters } }

/-- The command runs, leaves thread `t` as `th`, and touches nothing else. -/
def Leaves (i : Instr) (s : State) (t : ThreadId) (th : Thread) : Prop :=
  ∃ u, exec i s = .next u ∧ u.thread t = th ∧ OnlyThread s u t

/-- The instruction completes: the thread is `th` but for its PC, which moves to the next instruction. -/
def Retires (i : Instr) (s : State) (t : ThreadId) (th : Thread) : Prop :=
  Leaves i s t { th with pc := (s.thread t).pc + 4, jumpFrom := none }

/-- The instruction completes and execution goes on at `target`. -/
def Jumps (i : Instr) (s : State) (t : ThreadId) (th : Thread) (target : Addr) : Prop :=
  Leaves i s t { th with pc := target, jumpFrom := some (s.thread t).pc }

/-- The instruction raises a precise exception and has no other effect (R247). -/
def Raises (i : Instr) (s : State) (t : ThreadId) (code : Nat) (einfo : Addr) : Prop :=
  exec i s = .next (takeException s t code (s.thread t).pc einfo)

/-- R238: each of the low `n` nibbles of a number is a decimal digit. -/
def ValidDigits (n w : Nat) : Prop := ∀ i, i < n → w / 16 ^ i % 16 ≤ 9

/-- The number that the low `n` nibbles spell in decimal, the least significant digit in the low nibble (R238). -/
def decimalValue (n w : Nat) : Nat := ((List.range n).map fun i => w / 16 ^ i % 16 * 10 ^ i).sum

/-- A TSR in which bit `i` is `b` and every other bit is as in `old`. -/
def OnlyBit (old new : Word) (i : Nat) (b : Bool) : Prop := ∀ k, k < 32 → bitAt new k = if k = i then b else bitAt old k

/-- The position in the `n` bytes at place `p` of the byte at place `q`; none where `q` lies outside them. -/
def Place.within (p : Place) (n : Nat) (q : Place) : Option Nat :=
  let pos := fun a b : Nat => if a ≤ b ∧ b < a + n then some (b - a) else none
  match p, q with
  | .istore a, .istore b => pos a b
  | .scratch a, .scratch b => pos a b
  | .shared a, .shared b => pos a b
  | .mgmt a, .mgmt b => pos a b
  | .pkt a, .pkt b => pos a b
  | .hbm a, .hbm b => pos a b
  | _, _ => none

/-- The `n` bytes at place `p` are those of the number `v`, and every other byte of every memory is as before. -/
def Stores (s u : State) (p : Place) (n v : Nat) : Prop :=
  u.mems.flash = s.mems.flash ∧ u.mems.host = s.mems.host ∧ ∀ q, readPlace u q 1 =
    match p.within n q with
    | some j => v / 256 ^ j % 256
    | none => readPlace s q 1

/-- R229: the number of bytes, the sign extension and the width of a load, by its instruction. -/
structure LoadRow where
  instr : ThreadId → MFields → Instr
  op : Nat
  size : AccessSize
  signed : Bool

/-- R226, R229: the loads. -/
def loadRows : List LoadRow :=
  [⟨.ldb, 0x08, .byte, true⟩, ⟨.ldbu, 0x09, .byte, false⟩, ⟨.ldh, 0x0A, .half, true⟩, ⟨.ldhu, 0x0B, .half, false⟩,
   ⟨.ldw, 0x0C, .word, false⟩, ⟨.lda, 0x0D, .eight, false⟩]

/-- R226, R229: the stores. -/
def storeRows : List LoadRow :=
  [⟨.stb, 0x0E, .byte, false⟩, ⟨.sth, 0x0F, .half, false⟩, ⟨.stw, 0x10, .word, false⟩, ⟨.sta, 0x11, .eight, false⟩]

/-- R225, R229: the fields of a load (`load`) or store are none that R229 reserves or forbids. -/
def LegalMem (load : Bool) (size : AccessSize) (f : MFields) : Prop :=
  (f.mode = 3 → f.disp.toNat < 64) ∧
    (size = .eight → f.rt.toNat < 8 ∧ (load = true → f.mode = 1 ∨ f.mode = 2 → f.rt.setWidth 3 ≠ f.ab))

/-- R229: a thread after the data `v` of a load, an unsigned number of the access's size, has come. -/
def Thread.takes (th : Thread) (r : LoadRow) (f : MFields) (v : Nat) : Thread :=
  match r.size with
  | .eight => th.setA (f.rt.setWidth 3) (BitVec.ofNat 48 v)
  | _ => th.setD f.rt (if r.signed then BitVec.ofInt 32 (signedOf (8 * r.size.bytes) v) else BitVec.ofNat 32 v)

/-- R229: the base update of an access whose effective address is `ea`. -/
def Thread.based (th : Thread) (f : MFields) (old : Thread) (ea : Addr) : Thread :=
  if f.mode = 1 then th.setA f.ab (old.areg f.ab + BitVec.ofInt 48 f.disp.toInt)
  else if f.mode = 2 then th.setA f.ab ea
  else th

/-- R257: the state in which the status word `w` is on its way to D[rd] of thread `t`. -/
def State.awaiting (v : State) (t : Nat) (rd : BitVec 4) (w : Word) : State :=
  v.setThread t { v.thread t with outstanding := some (.status rd w none) }

/-- R253: the state in which thread `t` waits. -/
def State.waiting (v : State) (t : Nat) (w : Wait) : State := v.setThread t { v.thread t with state := .wait, wait := w }

/-- R257: the state in which a wait of thread `t` has ended with the status word `w`, which is on its way to D[rd]. -/
def State.resumed (v : State) (t : Nat) (rd : BitVec 4) (w : Word) : State :=
  v.setThread t { v.thread t with state := .run, wait := .none, outstanding := some (.status rd w none) }

/-- R262: the compare of a thread is armed, and fabric time has reached it. -/
def State.compared (s : State) (t : Nat) : Prop := (s.thread t).arm = true ∧ (s.thread t).tcmp.toNat ≤ s.now.toNat

/-- R296, R297: the function `cxf` is present, and CXEN enables its group (bit `group`) at the thread's level. -/
def State.cxReady (s : State) (t : ThreadId) (cxf group : Nat) : Prop :=
  cxAbsent s.variant cxf = false ∧ bitAt (s.cxen (coreOf t)) (8 * (s.thread t).level + group) = true

/-- The command runs and leaves a state of which `P` holds. -/
def Does (i : Instr) (s : State) (P : State → Prop) : Prop := ∃ u, exec i s = .next u ∧ P u

/-- R546: what logging events may change beside the units a statement names: the log, the event rings in host memory, the Contact
Sheet and the messages sent, all as in `u`. -/
def State.logged (s u : State) : State :=
  { s with events := u.events, mems := { s.mems with host := u.mems.host }, csh := u.csh, sent := u.sent }

/-- R587: the paths that reach every block's registers: a function of PCIe, the management core and the board bus. -/
def Path.manages : Path → Prop
  | .pf _ | .mc _ | .board => True
  | _ => False

/-- R63: this node leads, with its own tuple as the master's and its counter going on. -/
def Leads (i : Instr) (s : State) : Prop :=
  Does i s fun u => u.tim.st = .master ∧ u.tim.master = some s.ownTuple ∧ u.tim.parent = none ∧ u.tim.hops = 0 ∧
    u.tim.since = s.now ∧ u.tim.count = s.tim.count ∧ u.tim.incr = s.tim.incr ∧ u.tim.taiOffset = s.tim.taiOffset ∧
    u = { s.logged u with tim := u.tim, mgt := { s.mgt with ptpNoPort := u.mgt.ptpNoPort } }

/-- R570: what every device reset does, beside the causes, logs and Negatives that the kinds of reset treat differently: the units are
as at reset, the flash, the host's memory and the fuses are as before, and the dies are in PASS with their counts kept. -/
structure Cleared (s u : State) : Prop where
  mems : u.mems = { Mems.empty with hbm := s.mems.hbm, flash := s.mems.flash, host := s.mems.host }
  registers : u.regs = State.reset.regs ∧ u.counters = [] ∧ u.glb = Glb.reset
  threads : u.cores = Cores.reset ∧ u.lck = Lck.reset ∧ u.trays = Trays.reset
  packets : u.dlr = Dlr.reset ∧ u.fix = Fix.reset ∧ u.loupe = Loupe.reset ∧ u.cls = Cls.reset ∧ u.pkts = [] ∧ u.swt = Swt.reset
  links : u.eth = Eth.reset ∧ u.hqe = Hqe.reset ∧ u.csh = Csh.reset
  ring : u.ring = { Ring.reset with dims := u.ring.dims } ∧
    u.ring.dims.map (fun v => (v.st, v.count)) = s.ring.dims.map fun v => (BypState.pass, v.count)
  tim : u.tim = Tim.reset
  outside : u.variant = s.variant ∧ u.sent = s.sent ∧ u.pending = s.pending

/-- R537, R539: a command of opcode `op` on a port that is served passes the common checks. -/
structure State.accepts (s : State) (p : CmdPort) (d : Desc) (op : Nat) : Prop where
  opcode : opcodeOf d = op
  served : s.serves p = true
  checks : commandRefusal s p d = none

/-- R29: the command leaves the state `t`, and completes with the result `r` on its port. -/
def Answers (i : Instr) (s : State) (p : CmdPort) (d : Desc) (t : State) (r : CmdResult) : Prop :=
  exec i s = .next (completeCmd t p d r)

/-- The command completes with a status that is not OK, and has no other effect. -/
def Fails (i : Instr) (s : State) (p : CmdPort) (d : Desc) (status : Nat) : Prop := Answers i s p d s (.of status)

/-- The command completes with OK and RESULT0. -/
def Succeeds (i : Instr) (s : State) (p : CmdPort) (d : Desc) (t : State) (r0 : Nat) : Prop :=
  Answers i s p d t (.value (BitVec.ofNat 32 r0))

/-- R462, R537, R538: the rows of the command tables: opcode, command, and who may issue it. -/
def CommandRow (p : CmdPort) (d : Desc) (data : List Byte) (ok : Bool) (op : Nat) (i : Instr) (who : List Authority) : Prop :=
  let h := Authority.host
  let b := Authority.board
  let t := Authority.tenant
  let f := Authority.fabric
  (op, i, who) ∈ ([(0x0001, Instr.ringCreate p d, [h, t]), (0x0002, Instr.cqCreate p d, [h, t]), (0x0003, Instr.ringDestroy p d, [h, t]),
     (0x0004, Instr.vfConfig p d, [h]), (0x0005, Instr.snapCreate p d data ok, [h]), (0x0006, Instr.snapRequest p d, [h, f]),
     (0x0007, Instr.snapDestroy p d, [h]), (0x0100, Instr.clsNodeWrite p d data ok, [h, t, f]),
     (0x0101, Instr.clsEpochStage p d data ok, [h, f]), (0x0102, Instr.clsEpochCommit p d, [h, f]),
     (0x0103, Instr.clsEpochAbort p d, [h, f]), (0x0200, Instr.meterWrite p d data ok, [h, f]),
     (0x0300, Instr.lockAcquire p d, [h, t]), (0x0301, Instr.lockRelease p d, [h, t]), (0x0302, Instr.semTake p d, [h, t]),
     (0x0303, Instr.lockForce p d, [b, h]), (0x0400, Instr.ringOp p d, [b, h, f])] ++
    [(0x0500, Instr.profileSwitch p d ok, [b, h]), (0x0501, Instr.profileCancel p d, [b, h]),
     (0x0502, Instr.profileStatus p d, [b, h, f]), (0x0510, Instr.negativeRead p d, [b, h]),
     (0x0511, Instr.negativeClear p d, [b, h]), (0x0520, Instr.eventRingSet p d, [h]), (0x0521, Instr.eventRead p d, [b, h]),
     (0x0530, Instr.cshArm p d, [b, h, f]), (0x0531, Instr.cshStop p d, [b, h, f]), (0x0532, Instr.cshMark p d, [b, h, f]),
     (0x0533, Instr.cshRead p d, [b, h]), (0x0540, Instr.debugMode p d, [b, h]), (0x0541, Instr.threadReset p d, [b, h]),
     (0x0550, Instr.traysReclaim p d, [b, h]), (0x0560, Instr.taiSet p d, [b, h, f]), (0x0570, Instr.regRead p d, [b, f]),
     (0x0571, Instr.regWrite p d, [b]), (0x0580, Instr.deviceReset p d, [b, h]), (0x0581, Instr.identify p d, [b, h, t, f])])

/-- R289: the values of a register field that names a pair. -/
def Pairs (n : Nat) : Prop := n ∈ [2, 4, 6, 8, 10, 12, 14]

/-- R289: the values of a register field that names a quad. -/
def Quads (n : Nat) : Prop := n ∈ [4, 8, 12]

/-- An instruction as a core decodes it: its thread, its 32 bits, and that no field of it is reserved, unused and nonzero, or forbidden
(R225). -/
structure CoreForm where
  thread : ThreadId
  word : Word
  legal : Prop

/-- R223–R233, R238–R242, R253–R291, R315–R320: the forms of the core instructions. -/
def coreForm : Instr → Option CoreForm
  | .add t f => some ⟨t, RFields.word 0x00 0x00 f, f.aux = 0⟩
  | .addc t f => some ⟨t, RFields.word 0x00 0x01 f, f.aux = 0⟩
  | .sub t f => some ⟨t, RFields.word 0x00 0x02 f, f.aux = 0⟩
  | .subc t f => some ⟨t, RFields.word 0x00 0x03 f, f.aux = 0⟩
  | .and t f => some ⟨t, RFields.word 0x00 0x04 f, f.aux = 0⟩
  | .or t f => some ⟨t, RFields.word 0x00 0x05 f, f.aux = 0⟩
  | .xor t f => some ⟨t, RFields.word 0x00 0x06 f, f.aux = 0⟩
  | .andn t f => some ⟨t, RFields.word 0x00 0x07 f, f.aux = 0⟩
  | .sll t f => some ⟨t, RFields.word 0x00 0x08 f, f.aux = 0⟩
  | .srl t f => some ⟨t, RFields.word 0x00 0x09 f, f.aux = 0⟩
  | .sra t f => some ⟨t, RFields.word 0x00 0x0A f, f.aux = 0⟩
  | .ror t f => some ⟨t, RFields.word 0x00 0x0B f, f.aux = 0⟩
  | .slli t f => some ⟨t, RFields.word 0x00 0x0C f, f.rs2 = 0 ∧ f.aux.toNat < 32⟩
  | .srli t f => some ⟨t, RFields.word 0x00 0x0D f, f.rs2 = 0 ∧ f.aux.toNat < 32⟩
  | .srai t f => some ⟨t, RFields.word 0x00 0x0E f, f.rs2 = 0 ∧ f.aux.toNat < 32⟩
  | .rori t f => some ⟨t, RFields.word 0x00 0x0F f, f.rs2 = 0 ∧ f.aux.toNat < 32⟩
  | .slt t f => some ⟨t, RFields.word 0x00 0x10 f, f.aux = 0⟩
  | .sltu t f => some ⟨t, RFields.word 0x00 0x11 f, f.aux = 0⟩
  | .min t f => some ⟨t, RFields.word 0x00 0x12 f, f.aux = 0⟩
  | .max t f => some ⟨t, RFields.word 0x00 0x13 f, f.aux = 0⟩
  | .minu t f => some ⟨t, RFields.word 0x00 0x14 f, f.aux = 0⟩
  | .maxu t f => some ⟨t, RFields.word 0x00 0x15 f, f.aux = 0⟩
  | .mul t f => some ⟨t, RFields.word 0x00 0x16 f, f.aux = 0⟩
  | .mulh t f => some ⟨t, RFields.word 0x00 0x17 f, f.aux = 0⟩
  | .mulhu t f => some ⟨t, RFields.word 0x00 0x18 f, f.aux = 0⟩
  | .div t f => some ⟨t, RFields.word 0x00 0x19 f, f.aux = 0⟩
  | .divu t f => some ⟨t, RFields.word 0x00 0x1A f, f.aux = 0⟩
  | .rem t f => some ⟨t, RFields.word 0x00 0x1B f, f.aux = 0⟩
  | .remu t f => some ⟨t, RFields.word 0x00 0x1C f, f.aux = 0⟩
  | .clz t f => some ⟨t, RFields.word 0x00 0x1D f, f.rs2 = 0 ∧ f.aux = 0⟩
  | .popc t f => some ⟨t, RFields.word 0x00 0x1E f, f.rs2 = 0 ∧ f.aux = 0⟩
  | .bswap t f => some ⟨t, RFields.word 0x00 0x1F f, f.rs2 = 0 ∧ f.aux = 0⟩
  | .addi t f => some ⟨t, IFields.word 0x01 f, True⟩
  | .andi t f => some ⟨t, IFields.word 0x02 f, True⟩
  | .ori t f => some ⟨t, IFields.word 0x03 f, True⟩
  | .xori t f => some ⟨t, IFields.word 0x04 f, True⟩
  | .li t f => some ⟨t, IFields.word 0x05 f, f.rs1 = 0⟩
  | .lui t f => some ⟨t, IFields.word 0x06 f, f.rs1 = 0⟩
  | .aaddi t f => some ⟨t, IFields.word 0x12 f, f.rd.toNat < 8 ∧ f.rs1.toNat < 8⟩
  | .alpc t f => some ⟨t, IFields.word 0x13 f, f.rd.toNat < 8 ∧ f.rs1 = 0⟩
  | .ldb t f => some ⟨t, MFields.word 0x08 f, LegalMem true .byte f⟩
  | .ldbu t f => some ⟨t, MFields.word 0x09 f, LegalMem true .byte f⟩
  | .ldh t f => some ⟨t, MFields.word 0x0A f, LegalMem true .half f⟩
  | .ldhu t f => some ⟨t, MFields.word 0x0B f, LegalMem true .half f⟩
  | .ldw t f => some ⟨t, MFields.word 0x0C f, LegalMem true .word f⟩
  | .lda t f => some ⟨t, MFields.word 0x0D f, LegalMem true .eight f⟩
  | .stb t f => some ⟨t, MFields.word 0x0E f, LegalMem false .byte f⟩
  | .sth t f => some ⟨t, MFields.word 0x0F f, LegalMem false .half f⟩
  | .stw t f => some ⟨t, MFields.word 0x10 f, LegalMem false .word f⟩
  | .sta t f => some ⟨t, MFields.word 0x11 f, LegalMem false .eight f⟩
  | .brc t f => some ⟨t, BFields.word 0x14 f, f.cond.toNat < 6⟩
  | .brf t f => some ⟨t, BFields.word 0x15 f, f.cond.toNat < 8 ∧ f.rs1 = 0 ∧ f.rs2 = 0⟩
  | .bra t f => some ⟨t, BFields.word 0x16 f, f.cond.toNat ∈ [0, 1, 4, 5] ∧ f.rs1.toNat < 8 ∧ f.rs2.toNat < 8⟩
  | .j t f => some ⟨t, JFields.word f, f.link = 1 ∨ f.la = 0⟩
  | .jr t f => some ⟨t, JRFields.word f, f.rsv = 0 ∧ (f.link = 1 ∨ f.la = 0)⟩
  | .extu t f => some ⟨t, BFFields.word 0 f, f.rsv = 0 ∧ f.pos.toNat + f.wm1.toNat ≤ 31⟩
  | .exts t f => some ⟨t, BFFields.word 1 f, f.rsv = 0 ∧ f.pos.toNat + f.wm1.toNat ≤ 31⟩
  | .ins t f => some ⟨t, BFFields.word 2 f, f.rsv = 0 ∧ f.pos.toNat + f.wm1.toNat ≤ 31⟩
  | .mac t f => some ⟨t, RFields.word 0x1C 0x00 f, f.rd.toNat < 2 ∧ f.aux = 0⟩
  | .macu t f => some ⟨t, RFields.word 0x1C 0x01 f, f.rd.toNat < 2 ∧ f.aux = 0⟩
  | .msu t f => some ⟨t, RFields.word 0x1C 0x02 f, f.rd.toNat < 2 ∧ f.aux = 0⟩
  | .msuu t f => some ⟨t, RFields.word 0x1C 0x03 f, f.rd.toNat < 2 ∧ f.aux = 0⟩
  | .mula t f => some ⟨t, RFields.word 0x1C 0x04 f, f.rd.toNat < 2 ∧ f.aux = 0⟩
  | .aclr t f => some ⟨t, RFields.word 0x1C 0x05 f, f.rd.toNat < 2 ∧ f.rs1 = 0 ∧ f.rs2 = 0 ∧ f.aux = 0⟩
  | .mtac t f => some ⟨t, RFields.word 0x1C 0x06 f, f.rd.toNat < 2 ∧ f.aux = 0⟩
  | .mtacu t f => some ⟨t, RFields.word 0x1C 0x0C f, f.rd.toNat < 2 ∧ f.aux = 0⟩
  | .mfacl t f => some ⟨t, RFields.word 0x1C 0x07 f, f.rs1.toNat < 2 ∧ f.rs2 = 0 ∧ f.aux = 0⟩
  | .mfach t f => some ⟨t, RFields.word 0x1C 0x08 f, f.rs1.toNat < 2 ∧ f.rs2 = 0 ∧ f.aux = 0⟩
  | .mfacg t f => some ⟨t, RFields.word 0x1C 0x09 f, f.rs1.toNat < 2 ∧ f.rs2 = 0 ∧ f.aux = 0⟩
  | .asat t f => some ⟨t, RFields.word 0x1C 0x0A f, f.rs1.toNat < 2 ∧ f.rs2 = 0 ∧ f.aux.toNat < 64⟩
  | .ashr t f => some ⟨t, RFields.word 0x1C 0x0B f, f.rd.toNat < 2 ∧ f.rs1 = 0 ∧ f.rs2 = 0 ∧ f.aux.toNat < 64⟩
  | .dadd t f => some ⟨t, RFields.word 0x1D 0x00 f, f.aux = 0⟩
  | .daddc t f => some ⟨t, RFields.word 0x1D 0x01 f, f.aux = 0⟩
  | .dsub t f => some ⟨t, RFields.word 0x1D 0x02 f, f.aux = 0⟩
  | .dsubc t f => some ⟨t, RFields.word 0x1D 0x03 f, f.aux = 0⟩
  | .daj t f => some ⟨t, RFields.word 0x1D 0x04 f, f.rs2 = 0 ∧ f.aux = 0⟩
  | .dacc t f => some ⟨t, RFields.word 0x1D 0x05 f, f.rd.toNat < 2 ∧ f.rs2 = 0 ∧ f.aux = 0⟩
  | .asc2p t f => some ⟨t, RFields.word 0x1D 0x07 f,
      1 ≤ f.aux.toNat / 16 ∧ f.aux.toNat / 16 ≤ 8 ∧ (f.aux.toNat / 16 ≤ 4 → f.rs2 = 0) ∧ (f.rd ≠ 0 → f.aux.toNat % 16 ≠ f.rd.toNat)⟩
  | .p2bin t f => some ⟨t, RFields.word 0x1D 0x08 f, f.rs2 = 0 ∧ f.aux = 0⟩
  | .bin2p t f => some ⟨t, RFields.word 0x1D 0x09 f, f.rs2 = 0 ∧ f.aux = 0⟩
  | .movda t f => some ⟨t, RFields.word 0x1E 0x00 f, f.rd.toNat < 8 ∧ f.rs2 = 0 ∧ f.aux = 0⟩
  | .movdas t f => some ⟨t, RFields.word 0x1E 0x01 f, f.rd.toNat < 8 ∧ f.rs2 = 0 ∧ f.aux = 0⟩
  | .movad t f => some ⟨t, RFields.word 0x1E 0x02 f, f.rs1.toNat < 8 ∧ f.rs2 = 0 ∧ f.aux = 0⟩
  | .movah t f => some ⟨t, RFields.word 0x1E 0x03 f, f.rs1.toNat < 8 ∧ f.rs2 = 0 ∧ f.aux = 0⟩
  | .movha t f => some ⟨t, RFields.word 0x1E 0x04 f, f.rd.toNat < 8 ∧ f.aux = 0⟩
  | .aadd t f => some ⟨t, RFields.word 0x1E 0x05 f, f.rd.toNat < 8 ∧ f.rs1.toNat < 8 ∧ f.aux.toNat < 4⟩
  | .asub t f => some ⟨t, RFields.word 0x1E 0x06 f, f.rd.toNat < 8 ∧ f.rs1.toNat < 8 ∧ f.aux.toNat < 4⟩
  | .adiff t f => some ⟨t, RFields.word 0x1E 0x07 f, f.rs1.toNat < 8 ∧ f.rs2.toNat < 8 ∧ f.aux = 0⟩
  | .amov t f => some ⟨t, RFields.word 0x1E 0x08 f, f.rd.toNat < 8 ∧ f.rs1.toNat < 8 ∧ f.rs2 = 0 ∧ f.aux = 0⟩
  | .mfs t f => some ⟨t, SFields.word 0x00 f, f.rs1 = 0 ∧ ∃ x, sysInfo f.imm.toNat = some x ∧ x.wide = false⟩
  | .mts t f => some ⟨t, SFields.word 0x01 f, f.rd = 0 ∧ ∃ x, sysInfo f.imm.toNat = some x ∧ x.wide = false⟩
  | .mfsa t f => some ⟨t, SFields.word 0x02 f, f.rd.toNat < 8 ∧ f.rs1 = 0 ∧ ∃ x, sysInfo f.imm.toNat = some x ∧ x.wide = true⟩
  | .mtsa t f => some ⟨t, SFields.word 0x03 f, f.rd = 0 ∧ f.rs1.toNat < 8 ∧ ∃ x, sysInfo f.imm.toNat = some x ∧ x.wide = true⟩
  | .syscall t f => some ⟨t, SFields.word 0x04 f, f.rd = 0 ∧ f.rs1 = 0⟩
  | .moncall t f => some ⟨t, SFields.word 0x05 f, f.rd = 0 ∧ f.rs1 = 0⟩
  | .breakOp t f => some ⟨t, SFields.word 0x06 f, f.rd = 0 ∧ f.rs1 = 0⟩
  | .eret t f => some ⟨t, SFields.word 0x07 f, f.rd = 0 ∧ f.rs1 = 0 ∧ f.imm = 0⟩
  | .fence t f => some ⟨t, SFields.word 0x08 f, f.rd = 0 ∧ f.rs1 = 0 ∧ 1 ≤ f.imm.toNat ∧ f.imm.toNat < 8⟩
  | .clrf t f => some ⟨t, SFields.word 0x09 f, f.rd = 0 ∧ f.rs1 = 0 ∧ f.imm.toNat < 32⟩
  | .fork t f => some ⟨t, RFields.word 0x21 0x00 f, f.rs1.toNat < 8 ∧ f.rs2 ≠ 15 ∧ f.aux = 0⟩
  | .join t f => some ⟨t, RFields.word 0x21 0x01 f, f.rs1 = 0 ∧ f.rs2 = 0 ∧ f.aux = 0⟩
  | .endOp t f => some ⟨t, RFields.word 0x21 0x02 f, f.rd = 0 ∧ f.rs1 = 0 ∧ f.rs2 = 0 ∧ f.aux = 0⟩
  | .waitt t f => some ⟨t, RFields.word 0x21 0x03 f, f.rs1 = 0 ∧ f.rs2 = 0 ∧ f.aux = 0⟩
  | .waite t f => some ⟨t, RFields.word 0x21 0x04 f, f.rs2 = 0 ∧ f.aux = 0⟩
  | .post t f => some ⟨t, RFields.word 0x21 0x05 f, f.rd = 0 ∧ f.rs2 = 0 ∧ f.aux.toNat < 16⟩
  | .chw t f => some ⟨t, RFields.word 0x21 0x06 f, f.rd = 0 ∧ f.aux.toNat < 8⟩
  | .chcommit t f => some ⟨t, RFields.word 0x21 0x07 f, f.rs2 = 0 ∧ 1 ≤ f.aux.toNat ∧ f.aux.toNat ≤ 8⟩
  | .send t f => some ⟨t, RFields.word 0x21 0x08 f, f.rs2 = 0 ∧ f.aux = 0⟩
  | .recv t f => some ⟨t, RFields.word 0x21 0x09 f, f.rs2.toNat < 8 ∧ f.aux = 0⟩
  | .yield t f => some ⟨t, RFields.word 0x21 0x0A f, f.rd = 0 ∧ f.rs1 = 0 ∧ f.rs2 = 0 ∧ f.aux = 0⟩
  | .submit t f => some ⟨t, RFields.word 0x21 0x0B f, f.rs1.toNat < 8 ∧ f.rs2 = 0 ∧ f.aux.toNat < 2⟩
  | .pktout t f => some ⟨t, RFields.word 0x21 0x0C f, f.rs1.toNat < 8 ∧ f.rs2 = 0 ∧ f.aux = 0⟩
  | .lock t f => some ⟨t, RFields.word 0x22 0x00 f, f.rs2 = 0 ∧ f.aux = 0⟩
  | .trylock t f => some ⟨t, RFields.word 0x22 0x01 f, f.rs2 = 0 ∧ f.aux = 0⟩
  | .unlock t f => some ⟨t, RFields.word 0x22 0x02 f, f.rs2 = 0 ∧ f.aux = 0⟩
  | .semp t f => some ⟨t, RFields.word 0x22 0x03 f, f.rs2 = 0 ∧ f.aux.toNat < 2⟩
  | .semv t f => some ⟨t, RFields.word 0x22 0x04 f, f.rs2 = 0 ∧ f.aux = 0⟩
  | .aaddw t f => some ⟨t, RFields.word 0x22 0x05 f, f.rs1.toNat < 8 ∧ f.aux = 0⟩
  | .aswpw t f => some ⟨t, RFields.word 0x22 0x06 f, f.rs1.toNat < 8 ∧ f.aux = 0⟩
  | .acasw t f => some ⟨t, RFields.word 0x22 0x07 f, f.rs1.toNat < 8 ∧ f.aux.toNat < 16⟩
  | .aandw t f => some ⟨t, RFields.word 0x22 0x08 f, f.rs1.toNat < 8 ∧ f.aux = 0⟩
  | .aorw t f => some ⟨t, RFields.word 0x22 0x09 f, f.rs1.toNat < 8 ∧ f.aux = 0⟩
  | .crc32c t f => some ⟨t, XFields.word 0x00 f, 1 ≤ f.cxc.toNat ∧ f.cxc.toNat ≤ 4⟩
  | .crc64 t f => some ⟨t, XFields.word 0x01 f, 1 ≤ f.cxc.toNat ∧ f.cxc.toNat ≤ 4 ∧ Pairs f.rd.toNat ∧ f.rs1 = 0⟩
  | .toep t f => some ⟨t, XFields.word 0x02 f, f.cxc = 0 ∧ Pairs f.rs1.toNat⟩
  | .symh t f => some ⟨t, XFields.word 0x03 f, f.cxc = 0⟩
  | .aese t f => some ⟨t, XFields.word 0x08 f, Quads f.rd.toNat ∧ Quads f.rs1.toNat ∧ f.rs2 = 0 ∧ f.cxc.toNat < 2⟩
  | .aesd t f => some ⟨t, XFields.word 0x09 f, Quads f.rd.toNat ∧ Quads f.rs1.toNat ∧ f.rs2 = 0 ∧ f.cxc.toNat < 2⟩
  | .ghash t f => some ⟨t, XFields.word 0x0A f, Quads f.rd.toNat ∧ Quads f.rs1.toNat ∧ Quads f.rs2.toNat ∧ f.cxc = 0⟩
  | .sha256r t f => some ⟨t, XFields.word 0x0C f,
      Quads f.rd.toNat ∧ Quads f.rs1.toNat ∧ Pairs f.rs2.toNat ∧ f.cxc = 0 ∧ f.rd ≠ f.rs1 ∧ f.rs2.toNat / 4 ≠ f.rd.toNat / 4 ∧ f.rs2.toNat / 4 ≠ f.rs1.toNat / 4⟩
  | .sha256m t f => some ⟨t, XFields.word 0x0D f, f.cxc.toNat < 16⟩
  | .mcmp128 t f => some ⟨t, XFields.word 0x10 f, Quads f.rs1.toNat ∧ Quads f.rs2.toNat ∧ Quads f.cxc.toNat⟩
  | .bgath t f => some ⟨t, XFields.word 0x14 f, f.cxc = 0⟩
  | .bscat t f => some ⟨t, XFields.word 0x15 f, f.cxc = 0⟩
  | _ => none

end Sys2Proof.Machine
end

