-- ==== Sys2Proof/Certificates/Slice0/Obligations.lean ====
section
/-! DEFINITION. The statements for the provers.  Each obligation is a claim, or several claims about one family of commands together. -/

open Sys2Proof Sys2Proof.Machine Host

/-- R17, R225: an instruction of the major opcode `op` with a reserved, unused and nonzero, or forbidden field raises ILLEGAL. -/
def Claim.IllegalIn (op : Nat) : Prop :=
  ∀ (i : Instr) (s : State) (c : CoreForm), coreForm i = some c → c.word.toNat / 2 ^ 26 = op → s.ready c.thread → ¬c.legal →
    Raises i s c.thread 0x02 (c.word.setWidth 48)

/-- The block takes the command at the front of its queue and runs it on the queue's rest (the model's choice: log entry 2). -/
def Obligations.StepRunsFront : Prop :=
  ∀ (s : State) (c : Instr) (rest : List Instr), step { s with pending := c :: rest } = exec c { s with pending := rest }

/-- R53, R282: when no command waits, one sub-step of the time bus passes: eight of them advance fabric time by TIM_INCR, and the deadlock
detectors see whether their conditions hold (the model's choice: log entry 1). -/
def Obligations.EmptyQueuePassesTime : Prop :=
  ∀ s : State, s.pending = [] → Cores.wf s.cores = true →
    ∃ u, step s = .next u ∧
      u.tim = (if s.tim.sub = 7 then { s.tim with count := s.tim.count + s.tim.incr.setWidth 96, sub := 0 }
               else { s.tim with sub := s.tim.sub + 1 }) ∧
      u = { s with tim := u.tim, counters := u.counters, cores := { s.cores with clusters := u.cores.clusters } } ∧
      (s.dev = .reset → u.counters = s.counters ∧ u.cores = s.cores) ∧
      (s.dlr.stop = 0 → s.fixFull = false → u.counters = s.counters) ∧
      (s.dev ≠ .reset → ∀ c, c < 17 →
        let since := if s.dlHolds c = false then none else if (s.cluster c).dlSince = none then some u.now else (s.cluster c).dlSince
        u.cluster c = { s.cluster c with dlSince := since })

/-- R1, R12: every command answers a next state, whatever the state, and none touches the part's fuses or the commands that wait. Where the
manual leaves a point open this follows the model's choices: log entry 11. -/
def Obligations.EveryCommandAnswers : Prop :=
  ∀ (i : Instr) (s : State), ∃ u, exec i s = .next u ∧ u.variant = s.variant ∧ u.pending = s.pending

/-- The canonical form of every memory, register store and core table, and the part's fuses, hold after every step. -/
def Obligations.EveryStepKeepsTheInvariant : Prop :=
  ∀ (v : Variant) (s u : State), s.Inv v → step s = .next u → u.Inv v

/-- The invariant holds right after reset. -/
def Obligations.ResetMeetsTheInvariant : Prop := State.reset.Inv .fa

/-- R48, R49, R54, R216, R221, R345, R555, R570: what a cold reset leaves: BOOT with FAULT_N asserted, fabric time 0 at the nominal
increment, no command waiting, no thread running, every counter 0, and the registers at the values of their tables. Where the manual
leaves a point open this follows the model's choices: log entries 4, 10. -/
def Obligations.ResetValues : Prop :=
  let s := State.reset
  s.dev = .boot ∧ s.faultN = true ∧ s.tim.count = 0 ∧ s.tim.incr = 0x6666666666 ∧ s.tim.st = .unsync ∧ s.pending = [] ∧ s.counters = [] ∧
    s.events.next = 0 ∧ s.csh.st = .idle ∧ (∀ t, (s.thread t).state = .idle ∧ (s.thread t).pc = 0) ∧
    (∀ r ∈ [((0x0 : Nat), (0x16401F9A : Word)), (0x40, 0), (0x1700000, 0x00020000)], (regRead s .board r.1).2 = r.2)

/-- R206, R210, R225: a thread that is not in RUN or that awaits a value issues nothing; a PC outside the instruction store, or not aligned,
raises FETCH_FAULT. Where the manual leaves a point open this follows the model's choices: log entries 3, 7. -/
def Obligations.InstructionsAreFetched : Prop :=
  ∀ (i : Instr) (s : State) (c : CoreForm), coreForm i = some c →
    let th := s.thread c.thread
    (th.outstanding ≠ none → exec i s = .next s) ∧
    (th.state = .idle ∨ th.state = .wait → exec i s = .next s) ∧
    (th.state = .halt → th.stepArmed = false → exec i s = .next s) ∧
    (th.state = .run → th.outstanding = none → th.stepArmed = false → 0x20000 ≤ th.pc.toNat ∨ th.pc.toNat % 4 ≠ 0 →
      Raises i s c.thread 0x01 (th.jumpFrom.getD th.pc))

/-- R17, R225, R244, R247: an instruction with a reserved, unused and nonzero, or forbidden field raises ILLEGAL, and nothing of it takes
effect. Where the manual leaves a point open this follows the model's choices: log entry 7. -/
def Obligations.ReservedFieldsRaiseIllegal : Prop :=
  ∀ (i : Instr) (s : State) (c : CoreForm), coreForm i = some c → s.ready c.thread → ¬c.legal →
    Raises i s c.thread 0x02 (c.word.setWidth 48)

/-- R545, R546: an event of code, severity and data takes the next SEQ and its place in the log; it is sent to the bus owner when its
severity is at least BOARD_SEV, and in FROZEN no event ring is written. -/
def Obligations.EventsAreLogged : Prop :=
  ∀ (s : State) (code sev : Nat) (data : BitVec 128), s.csh.st = .idle → swf EventRec.empty s.events.log = true →
    let e : EventRec := { time := s.now, seq := s.events.next, code := code, sev := sev, data := data }
    let u := s.logEvent code sev data
    u.events.next = s.events.next + 1 ∧ u.events.held = min 4096 (s.events.held + 1) ∧
      (∀ k, sget EventRec.empty u.events.log k = if k = s.events.next.toNat % 4096 then e else sget EventRec.empty s.events.log k) ∧
      (s.dev = .frozen → u.mems = s.mems ∧ u.events.rings = s.events.rings) ∧
      (s.events.rings = [] → u.mems = s.mems) ∧
      (s.fld mgtBase 17 16 ≤ sev → u.sent = .mctp (eventMessage e) :: s.sent) ∧
      (sev < s.fld mgtBase 17 16 → u.sent = s.sent) ∧
      u = { s with events := u.events, mems := { s.mems with host := u.mems.host }, sent := u.sent }

/-- R217, R227: the logic rows write RD and no flag. -/
def Claim.LogicRowsWriteRd : Prop :=
  ∀ (s : State) (t : ThreadId) (f : RFields), s.ready t → f.aux = 0 →
    let th := s.thread t
    let a := th.dreg f.rs1
    let b := th.dreg f.rs2
    Retires (.and t f) s t (th.setD f.rd (a &&& b)) ∧ Retires (.or t f) s t (th.setD f.rd (a ||| b)) ∧
    Retires (.xor t f) s t (th.setD f.rd (a ^^^ b)) ∧ Retires (.andn t f) s t (th.setD f.rd (a &&& ~~~b))

/-- R227, R220: ADD, ADDC, SUB and SUBC write RD, C and, for the sums, the eight nibble carries HC. -/
def Claim.SumsAndDifferencesSetFlags : Prop :=
  ∀ (s : State) (t : ThreadId) (f : RFields), s.ready t → f.aux = 0 →
    let th := s.thread t
    let a := th.dreg f.rs1
    let b := th.dreg f.rs2
    let sum := fun (i : Instr) (c : Nat) => ∃ tsr : Word,
      Retires i s t { th.setD f.rd (a + b + BitVec.ofNat 32 c) with tsr := tsr } ∧
      ∀ k, k < 32 → bitAt tsr k =
        if k = 16 then decide (2 ^ 32 ≤ a.toNat + b.toNat + c)
        else if 8 ≤ k ∧ k < 16 then
          decide (16 ^ (k - 7) ≤ a.toNat % 16 ^ (k - 7) + b.toNat % 16 ^ (k - 7) + c)
        else bitAt th.tsr k
    let difference := fun (i : Instr) (c : Nat) => ∃ tsr : Word,
      Retires i s t { th.setD f.rd (a - b - BitVec.ofNat 32 c) with tsr := tsr } ∧
      OnlyBit th.tsr tsr 16 (decide (a.toNat < b.toNat + c))
    sum (.add t f) 0 ∧ sum (.addc t f) (if bitAt th.tsr 16 then 1 else 0) ∧
    difference (.sub t f) 0 ∧ difference (.subc t f) (if bitAt th.tsr 16 then 1 else 0)

/-- R227: shifts and rotates by RS2[4:0], or by AUX[4:0]. -/
def Claim.ShiftsTakeFiveBits : Prop :=
  ∀ (s : State) (t : ThreadId) (f : RFields), s.ready t →
    let th := s.thread t
    let a := th.dreg f.rs1
    let n := (th.dreg f.rs2).toNat % 32
    (f.aux = 0 →
      Retires (.sll t f) s t (th.setD f.rd (a <<< n)) ∧ Retires (.srl t f) s t (th.setD f.rd (a >>> n)) ∧
      Retires (.sra t f) s t (th.setD f.rd (BitVec.ofInt 32 (a.toInt / 2 ^ n))) ∧
      Retires (.ror t f) s t (th.setD f.rd (a >>> n ||| a <<< (32 - n)))) ∧
    (f.rs2 = 0 → f.aux.toNat < 32 →
      Retires (.slli t f) s t (th.setD f.rd (a <<< f.aux.toNat)) ∧
      Retires (.srli t f) s t (th.setD f.rd (a >>> f.aux.toNat)) ∧
      Retires (.srai t f) s t (th.setD f.rd (BitVec.ofInt 32 (a.toInt / 2 ^ f.aux.toNat))) ∧
      Retires (.rori t f) s t (th.setD f.rd (a >>> f.aux.toNat ||| a <<< (32 - f.aux.toNat))))

/-- R227: comparisons, minima and maxima. -/
def Claim.ComparesOrderSignedAndUnsigned : Prop :=
  ∀ (s : State) (t : ThreadId) (f : RFields), s.ready t → f.aux = 0 →
    let th := s.thread t
    let a := th.dreg f.rs1
    let b := th.dreg f.rs2
    Retires (.slt t f) s t (th.setD f.rd (if a.toInt < b.toInt then 1 else 0)) ∧
    Retires (.sltu t f) s t (th.setD f.rd (if a.toNat < b.toNat then 1 else 0)) ∧
    Retires (.min t f) s t (th.setD f.rd (BitVec.ofInt 32 (min a.toInt b.toInt))) ∧
    Retires (.max t f) s t (th.setD f.rd (BitVec.ofInt 32 (max a.toInt b.toInt))) ∧
    Retires (.minu t f) s t (th.setD f.rd (BitVec.ofNat 32 (min a.toNat b.toNat))) ∧
    Retires (.maxu t f) s t (th.setD f.rd (BitVec.ofNat 32 (max a.toNat b.toNat)))

/-- R227: products, quotients and remainders, division by zero included. -/
def Claim.ProductsAndQuotients : Prop :=
  ∀ (s : State) (t : ThreadId) (f : RFields), s.ready t → f.aux = 0 →
    let th := s.thread t
    let a := th.dreg f.rs1
    let b := th.dreg f.rs2
    Retires (.mul t f) s t (th.setD f.rd (BitVec.ofInt 32 (a.toInt * b.toInt))) ∧
    Retires (.mulh t f) s t (th.setD f.rd (BitVec.ofInt 32 (a.toInt * b.toInt / 2 ^ 32))) ∧
    Retires (.mulhu t f) s t (th.setD f.rd (BitVec.ofNat 32 (a.toNat * b.toNat / 2 ^ 32))) ∧
    Retires (.div t f) s t (th.setD f.rd (if b = 0 then 0xFFFFFFFF else BitVec.ofInt 32 (a.toInt.tdiv b.toInt))) ∧
    Retires (.divu t f) s t (th.setD f.rd (if b = 0 then 0xFFFFFFFF else BitVec.ofNat 32 (a.toNat / b.toNat))) ∧
    Retires (.rem t f) s t (th.setD f.rd (if b = 0 then a else BitVec.ofInt 32 (a.toInt.tmod b.toInt))) ∧
    Retires (.remu t f) s t (th.setD f.rd (if b = 0 then a else BitVec.ofNat 32 (a.toNat % b.toNat)))

/-- R227: leading zeros, 1 bits, and the byte order reversed. -/
def Claim.CountsAndByteOrder : Prop :=
  ∀ (s : State) (t : ThreadId) (f : RFields), s.ready t → f.aux = 0 → f.rs2 = 0 →
    let th := s.thread t
    let a := th.dreg f.rs1
    (∃ n, n ≤ 32 ∧ a.toNat < 2 ^ (32 - n) ∧ (n < 32 → 2 ^ (31 - n) ≤ a.toNat) ∧
      Retires (.clz t f) s t (th.setD f.rd (BitVec.ofNat 32 n))) ∧
    Retires (.popc t f) s t (th.setD f.rd (BitVec.ofNat 32 ((List.range 32).countP fun i => bitAt a i))) ∧
    (∃ v : Word, (∀ i, i < 4 → v.extractLsb' (8 * i) 8 = a.extractLsb' (8 * (3 - i)) 8) ∧
      Retires (.bswap t f) s t (th.setD f.rd v))

/-- The ALU rows write RD and the flags of their row. -/
def Obligations.AluTable : Prop :=
  Claim.LogicRowsWriteRd ∧ Claim.SumsAndDifferencesSetFlags ∧ Claim.ShiftsTakeFiveBits ∧
    Claim.ComparesOrderSignedAndUnsigned ∧ Claim.ProductsAndQuotients ∧ Claim.CountsAndByteOrder ∧ Claim.IllegalIn 0x00

/-- R228: the immediate rows, IMM sign-extended for the sums and LI, zero-extended for the logic. -/
def Claim.ImmediateRows : Prop :=
  ∀ (s : State) (t : ThreadId) (f : IFields), s.ready t →
    let th := s.thread t
    let a := th.dreg f.rs1
    (Retires (.addi t f) s t (th.setD f.rd (a + BitVec.ofInt 32 f.imm.toInt)) ∧
     Retires (.andi t f) s t (th.setD f.rd (a &&& BitVec.ofNat 32 f.imm.toNat)) ∧
     Retires (.ori t f) s t (th.setD f.rd (a ||| BitVec.ofNat 32 f.imm.toNat)) ∧
     Retires (.xori t f) s t (th.setD f.rd (a ^^^ BitVec.ofNat 32 f.imm.toNat))) ∧
    (f.rs1 = 0 → Retires (.li t f) s t (th.setD f.rd (BitVec.ofInt 32 f.imm.toInt)) ∧
      Retires (.lui t f) s t (th.setD f.rd (BitVec.ofNat 32 (f.imm.toNat * 2 ^ 14)))) ∧
    (f.rd.toNat < 8 → f.rs1.toNat < 8 →
      Retires (.aaddi t f) s t (th.setA (f.rd.setWidth 3) (th.areg (f.rs1.setWidth 3) + BitVec.ofInt 48 f.imm.toInt))) ∧
    (f.rd.toNat < 8 → f.rs1 = 0 →
      Retires (.alpc t f) s t (th.setA (f.rd.setWidth 3) (th.pc + BitVec.ofInt 48 f.imm.toInt)))

/-- The immediate rows. -/
def Obligations.ImmediateTable : Prop :=
  Claim.ImmediateRows ∧ Claim.IllegalIn 0x01 ∧ Claim.IllegalIn 0x02 ∧ Claim.IllegalIn 0x03 ∧ Claim.IllegalIn 0x04 ∧
    Claim.IllegalIn 0x05 ∧ Claim.IllegalIn 0x06 ∧ Claim.IllegalIn 0x12 ∧ Claim.IllegalIn 0x13

/-- R231: the field of width WM1 + 1 at bit POS is taken or replaced, bit by bit. -/
def Claim.BitFieldsMoveTheirBits : Prop :=
  ∀ (s : State) (t : ThreadId) (f : BFFields), s.ready t → f.rsv = 0 → f.pos.toNat + f.wm1.toNat ≤ 31 →
    let th := s.thread t
    let a := th.dreg f.rs1
    let p := f.pos.toNat
    let w := f.wm1.toNat
    (∃ v : Word, Retires (.extu t f) s t (th.setD f.rd v) ∧ ∀ i, i < 32 → v.getLsbD i = (decide (i ≤ w) && a.getLsbD (p + i))) ∧
    (∃ v : Word, Retires (.exts t f) s t (th.setD f.rd v) ∧ ∀ i, i < 32 → v.getLsbD i = a.getLsbD (p + min i w)) ∧
    (∃ v : Word, Retires (.ins t f) s t (th.setD f.rd v) ∧ ∀ i, i < 32 →
      v.getLsbD i = if p ≤ i ∧ i ≤ p + w then a.getLsbD (i - p) else (th.dreg f.rd).getLsbD i)

/-- EXTU, EXTS and INS act on the field of width WM1 + 1 at POS. -/
def Obligations.BitFieldTable : Prop :=
  Claim.BitFieldsMoveTheirBits ∧ Claim.IllegalIn 0x24

/-- R232, R218: multiply-accumulate over 72 bits; AV is set when the exact result lies outside the signed range. -/
def Claim.AccumulatorProducts : Prop :=
  ∀ (s : State) (t : ThreadId) (f : RFields), s.ready t → f.rd.toNat < 2 → f.aux = 0 →
    let th := s.thread t
    let i : BitVec 1 := f.rd.setWidth 1
    let signed := (th.dreg f.rs1).toInt * (th.dreg f.rs2).toInt
    let unsigned : Int := ((th.dreg f.rs1).toNat * (th.dreg f.rs2).toNat : Nat)
    let takes := fun (c : Instr) (x : Int) => ∃ tsr : Word,
      Retires c s t { th.setAcc i (BitVec.ofInt 72 x) with tsr := tsr } ∧
      OnlyBit th.tsr tsr 19 (bitAt th.tsr 19 || decide (x < -2 ^ 71 ∨ 2 ^ 71 ≤ x))
    takes (.mac t f) ((th.acc i).toInt + signed) ∧ takes (.macu t f) ((th.acc i).toInt + unsigned) ∧
    takes (.msu t f) ((th.acc i).toInt - signed) ∧ takes (.msuu t f) ((th.acc i).toInt - unsigned) ∧
    Retires (.mula t f) s t (th.setAcc i (BitVec.ofInt 72 signed))

/-- R232: clearing, loading, reading, saturating and shifting an accumulator. -/
def Claim.AccumulatorMoves : Prop :=
  ∀ (s : State) (t : ThreadId) (f : RFields), s.ready t →
    let th := s.thread t
    let i : BitVec 1 := f.rd.setWidth 1
    let j : BitVec 1 := f.rs1.setWidth 1
    let pair : BitVec 64 := th.dreg f.rs2 ++ th.dreg f.rs1
    let n := f.aux.toNat
    (f.rd.toNat < 2 → f.aux = 0 →
      Retires (.mtac t f) s t (th.setAcc i (BitVec.ofInt 72 pair.toInt)) ∧
      Retires (.mtacu t f) s t (th.setAcc i (BitVec.ofNat 72 pair.toNat)) ∧
      (f.rs1 = 0 → f.rs2 = 0 → Retires (.aclr t f) s t (th.setAcc i 0))) ∧
    (f.rs1.toNat < 2 → f.rs2 = 0 → f.aux = 0 →
      Retires (.mfacl t f) s t (th.setD f.rd (BitVec.ofNat 32 (th.acc j).toNat)) ∧
      Retires (.mfach t f) s t (th.setD f.rd (BitVec.ofNat 32 ((th.acc j).toNat / 2 ^ 32))) ∧
      Retires (.mfacg t f) s t (th.setD f.rd (BitVec.ofInt 32 ((th.acc j).toInt / 2 ^ 64)))) ∧
    (n < 64 → f.rs2 = 0 →
      (f.rs1.toNat < 2 → Retires (.asat t f) s t
        (th.setD f.rd (BitVec.ofInt 32 (max (-2 ^ 31) (min (2 ^ 31 - 1) ((th.acc j).toInt / 2 ^ n)))))) ∧
      (f.rd.toNat < 2 → f.rs1 = 0 → Retires (.ashr t f) s t (th.setAcc i (BitVec.ofInt 72 ((th.acc i).toInt / 2 ^ n)))))

/-- The accumulator rows over 72 bits, and AV. -/
def Obligations.AccumulatorTable : Prop :=
  Claim.AccumulatorProducts ∧ Claim.AccumulatorMoves ∧ Claim.IllegalIn 0x1C

/-- R238, R239: decimal sums and differences of valid digits, and their carry or borrow; an invalid digit writes 0, clears DC
and sets DV. -/
def Claim.DecimalArithmetic : Prop :=
  ∀ (s : State) (t : ThreadId) (f : RFields), s.ready t → f.aux = 0 →
    let th := s.thread t
    let a := (th.dreg f.rs1).toNat
    let b := (th.dreg f.rs2).toNat
    let dc := if bitAt th.tsr 17 then 1 else 0
    let works := fun (i : Instr) (value : Nat) (carry : Bool) => ∃ (v tsr : Word),
      Retires i s t { th.setD f.rd v with tsr := tsr } ∧ ValidDigits 8 v.toNat ∧ decimalValue 8 v.toNat = value % 10 ^ 8 ∧
      OnlyBit th.tsr tsr 17 carry
    let fails := fun (i : Instr) => ∃ tsr : Word, Retires i s t { th.setD f.rd 0 with tsr := tsr } ∧
      ∀ k, k < 32 → bitAt tsr k = if k = 17 then false else if k = 18 then true else bitAt th.tsr k
    (ValidDigits 8 a → ValidDigits 8 b →
      let x := decimalValue 8 a
      let y := decimalValue 8 b
      works (.dadd t f) (x + y) (decide (10 ^ 8 ≤ x + y)) ∧
      works (.daddc t f) (x + y + dc) (decide (10 ^ 8 ≤ x + y + dc)) ∧
      works (.dsub t f) (x + 10 ^ 8 - y) (decide (x < y)) ∧
      works (.dsubc t f) (x + 10 ^ 8 - (y + dc)) (decide (x < y + dc))) ∧
    (¬(ValidDigits 8 a ∧ ValidDigits 8 b) → ∀ i ∈ [Instr.dadd t f, .daddc t f, .dsub t f, .dsubc t f], fails i)

/-- R240, R241: DAJ corrects a binary sum by six in each nibble that overflowed; DACC adds eight digits into the sixteen of an
accumulator and counts the carries out of digit 15. -/
def Claim.DecimalAdjustAndAccumulate : Prop :=
  ∀ (s : State) (t : ThreadId) (f : RFields), s.ready t → f.rs2 = 0 → f.aux = 0 →
    let th := s.thread t
    let a := (th.dreg f.rs1).toNat
    let i : BitVec 1 := f.rd.setWidth 1
    let digits := (th.acc i).toNat % 2 ^ 64
    let count := (th.acc i).toNat / 2 ^ 64
    let k := ((List.range 8).map fun n =>
      if bitAt th.tsr (8 + n) ∨ 9 * ((16 ^ (n + 1) - 1) / 15) < a % 16 ^ (n + 1) then 6 * 16 ^ n else 0).sum
    (∃ tsr : Word, Retires (.daj t f) s t { th.setD f.rd (BitVec.ofNat 32 (a + k)) with tsr := tsr } ∧
      OnlyBit th.tsr tsr 17 (bitAt th.tsr 15 || decide (0x99999999 < a))) ∧
    (f.rd.toNat < 2 → ValidDigits 8 a → ValidDigits 16 digits →
      let sum := decimalValue 16 digits + decimalValue 8 a
      let carry := decide (10 ^ 16 ≤ sum)
      ∃ (d : Nat) (tsr : Word), d < 2 ^ 64 ∧ ValidDigits 16 d ∧ decimalValue 16 d = sum % 10 ^ 16 ∧
        Retires (.dacc t f) s t
          { th.setAcc i (BitVec.ofNat 72 ((if carry then min 255 (count + 1) else count) * 2 ^ 64 + d)) with tsr := tsr } ∧
        ∀ j, j < 32 → bitAt tsr j =
          if j = 17 then carry else if j = 18 then bitAt th.tsr 18 || (carry && count == 255) else bitAt th.tsr j) ∧
    (f.rd.toNat < 2 → ¬(ValidDigits 8 a ∧ ValidDigits 16 digits) → ∃ tsr : Word, Retires (.dacc t f) s t { th with tsr := tsr } ∧
      ∀ j, j < 32 → bitAt tsr j = if j = 17 then false else if j = 18 then true else bitAt th.tsr j)

/-- R239, R242: conversions between ASCII digits, packed BCD and binary. -/
def Claim.DigitConversions : Prop :=
  ∀ (s : State) (t : ThreadId) (f : RFields), s.ready t →
    let th := s.thread t
    let a := (th.dreg f.rs1).toNat
    let n := f.aux.toNat / 16
    let chars := (leBytes 4 a ++ leBytes 4 (th.dreg f.rs2).toNat).take n
    let lead := chars.takeWhile fun c => decide (0x30 ≤ c.toNat ∧ c.toNat ≤ 0x39)
    (1 ≤ n → n ≤ 8 → (4 < n ∨ f.rs2 = 0) → (f.aux.setWidth 4 ≠ f.rd ∨ f.rd = 0) →
      ∃ v m : Word, Retires (.asc2p t f) s t ((th.setD f.rd v).setD (f.aux.setWidth 4) m) ∧
        v.toNat = lead.foldl (fun x c => 16 * x + (c.toNat - 0x30)) 0 ∧
        ∀ j, j < 32 → bitAt m j =
          if j < 8 then (match chars[j]? with | some c => !decide (0x30 ≤ c.toNat ∧ c.toNat ≤ 0x39) | none => false)
          else if j < 12 then bitAt (BitVec.ofNat 32 lead.length) (j - 8) else false) ∧
    (f.rs2 = 0 → f.aux = 0 →
      (ValidDigits 8 a → Retires (.p2bin t f) s t (th.setD f.rd (BitVec.ofNat 32 (decimalValue 8 a)))) ∧
      (¬ValidDigits 8 a → ∃ tsr : Word, Retires (.p2bin t f) s t { th.setD f.rd 0 with tsr := tsr } ∧
        ∀ j, j < 32 → bitAt tsr j = if j = 17 then false else if j = 18 then true else bitAt th.tsr j) ∧
      (∃ v tsr : Word, Retires (.bin2p t f) s t { th.setD f.rd v with tsr := tsr } ∧ ValidDigits 8 v.toNat ∧
        decimalValue 8 v.toNat = a % 10 ^ 8 ∧ OnlyBit th.tsr tsr 17 (decide (10 ^ 8 ≤ a))))

/-- Decimal and digit instructions. -/
def Obligations.DecimalTable : Prop :=
  Claim.DecimalArithmetic ∧ Claim.DecimalAdjustAndAccumulate ∧ Claim.DigitConversions

/-- R233: transfers between the register classes, and address arithmetic modulo 2^48. -/
def Claim.TransfersAndAddressArithmetic : Prop :=
  ∀ (s : State) (t : ThreadId) (f : RFields), s.ready t →
    let th := s.thread t
    let ad : BitVec 3 := f.rd.setWidth 3
    let a1 := th.areg (f.rs1.setWidth 3)
    let a2 := th.areg (f.rs2.setWidth 3)
    let d1 := th.dreg f.rs1
    let d2 := th.dreg f.rs2
    (f.aux = 0 →
      (f.rs2 = 0 → f.rd.toNat < 8 → Retires (.movda t f) s t (th.setA ad (BitVec.ofNat 48 d1.toNat)) ∧
        Retires (.movdas t f) s t (th.setA ad (BitVec.ofInt 48 d1.toInt))) ∧
      (f.rs2 = 0 → f.rs1.toNat < 8 → Retires (.movad t f) s t (th.setD f.rd (BitVec.ofNat 32 a1.toNat)) ∧
        Retires (.movah t f) s t (th.setD f.rd (BitVec.ofNat 32 (a1.toNat / 2 ^ 32)))) ∧
      (f.rd.toNat < 8 →
        Retires (.movha t f) s t (th.setA ad (BitVec.ofNat 48 (d2.toNat % 2 ^ 16 * 2 ^ 32 + d1.toNat)))) ∧
      (f.rs1.toNat < 8 → f.rs2.toNat < 8 → Retires (.adiff t f) s t (th.setD f.rd (BitVec.ofNat 32 (a1 - a2).toNat))) ∧
      (f.rs2 = 0 → f.rd.toNat < 8 → f.rs1.toNat < 8 → Retires (.amov t f) s t (th.setA ad a1))) ∧
    (f.aux.toNat < 4 → f.rd.toNat < 8 → f.rs1.toNat < 8 →
      Retires (.aadd t f) s t (th.setA ad (BitVec.ofInt 48 (a1.toNat + d2.toInt * 2 ^ f.aux.toNat))) ∧
      Retires (.asub t f) s t (th.setA ad (BitVec.ofInt 48 (a1.toNat - d2.toInt * 2 ^ f.aux.toNat))))

/-- Transfers between register classes and address arithmetic. -/
def Obligations.TransferTable : Prop :=
  Claim.TransfersAndAddressArithmetic ∧ Claim.IllegalIn 0x1E

/-- R230, R207: a conditional branch goes to the branch's address plus four times OFF where its condition holds, else to the next
instruction; only the branch's own two-bit counter changes beside the thread. -/
def Claim.ConditionalBranches : Prop :=
  ∀ (s : State) (t : ThreadId) (f : BFields), s.ready t →
    let th := s.thread t
    let a := th.dreg f.rs1
    let b := th.dreg f.rs2
    let p := th.areg (f.rs1.setWidth 3)
    let q := th.areg (f.rs2.setWidth 3)
    let goes := fun (i : Instr) (taken : Bool) => ∃ u, exec i s = .next u ∧
      u.thread t = (if taken then { th with pc := th.pc + BitVec.ofInt 48 (4 * f.off.toInt), jumpFrom := some th.pc }
        else { th with pc := th.pc + 4, jumpFrom := none }) ∧
      OnlyThread { s with cores := { s.cores with bht := u.cores.bht } } u t ∧
      ∀ k, k ≠ counterIndex t th.pc → sget 1 u.cores.bht k = sget 1 s.cores.bht k
    (∀ x ∈ [(0, decide (a = b)), (1, decide (a ≠ b)), (2, decide (a.toInt < b.toInt)), (3, decide (b.toInt ≤ a.toInt)),
        (4, decide (a.toNat < b.toNat)), (5, decide (b.toNat ≤ a.toNat))], f.cond.toNat = x.1 → goes (.brc t f) x.2) ∧
    (f.rs1 = 0 → f.rs2 = 0 → ∀ x ∈ [(0, 16), (2, 17), (4, 18), (6, 19)],
      (f.cond.toNat = x.1 → goes (.brf t f) (bitAt th.tsr x.2)) ∧
      (f.cond.toNat = x.1 + 1 → goes (.brf t f) (!bitAt th.tsr x.2))) ∧
    (f.rs1.toNat < 8 → f.rs2.toNat < 8 → ∀ x ∈ [(0, decide (p = q)), (1, decide (p ≠ q)), (4, decide (p.toNat < q.toNat)),
        (5, decide (q.toNat ≤ p.toNat))], f.cond.toNat = x.1 → goes (.bra t f) x.2)

/-- R230, R207: J and JR, with and without link; the link is written after the base is read, J pushes the return stack and a JR
without link through A6 pops it. -/
def Claim.JumpsAndLinks : Prop :=
  ∀ (s : State) (t : ThreadId), s.ready t →
    let th := s.thread t
    (∀ f : JFields, let a := th.pc + BitVec.ofInt 48 (4 * f.off.toInt)
      (f.link = 1 → Jumps (.j t f) s t { th.setA f.la (th.pc + 4) with retStack := ((th.pc + 4) :: th.retStack).take 4 } a) ∧
      (f.link = 0 → f.la = 0 → Jumps (.j t f) s t th a)) ∧
    (∀ f : JRFields, let a := th.areg f.ab + BitVec.ofInt 48 f.imm.toInt
      f.rsv = 0 →
      (f.link = 1 → Jumps (.jr t f) s t (th.setA f.la (th.pc + 4)) a) ∧
      (f.link = 0 → f.la = 0 →
        Jumps (.jr t f) s t (if f.ab = 6 then { th with retStack := th.retStack.tail } else th) a))

/-- Conditional branches, J and JR. -/
def Obligations.BranchesAndJumps : Prop :=
  Claim.ConditionalBranches ∧ Claim.JumpsAndLinks

/-- R206, R229: a load from the own scratch or the own cluster's shared SRAM writes its register and its base in one step and
changes nothing else; its address is the one `effectiveAddress` gives, its checks those of `checkAccess`. -/
def Claim.NearLoadsComplete : Prop :=
  ∀ r ∈ loadRows, ∀ (s : State) (t : ThreadId) (f : MFields) (place : Place), s.ready t → LegalMem true r.size f →
    let th := s.thread t
    let ea := effectiveAddress th f
    checkAccess s t ea r.size.bytes false (r.size == .eight) (r.size == .word) = .inl place → nearPlace t place = true →
    Retires (r.instr t f) s t ((th.takes r f (readPlace s place r.size.bytes)).based f th ea)

/-- R206: any other load leaves its core; the thread issues nothing until the data returns.  The effective address is
computed as R229 says. -/
def Claim.FarLoadsLeaveTheCore : Prop :=
  ∀ r ∈ loadRows, ∀ (s : State) (t : ThreadId) (f : MFields) (place : Place), s.ready t → LegalMem true r.size f →
    let th := s.thread t
    let base := th.areg f.ab
    let ea := if f.mode = 1 then base
      else if f.mode = 3 then base + BitVec.ofNat 48 ((th.dreg (f.disp.setWidth 4)).toNat * 2 ^ (f.disp.toNat / 16 % 4))
      else base + BitVec.ofInt 48 f.disp.toInt
    effectiveAddress th f = ea ∧
    (checkAccess s t ea r.size.bytes false (r.size == .eight) (r.size == .word) = .inl place → nearPlace t place = false →
      (∀ off, place = .window off → off < tryBase + 0x10000 ∨ tryBase + 0x1C000 ≤ off) →
      ∃ upd, th.update upd = th.based f th ea ∧
        Leaves (r.instr t f) s t { th with outstanding := some (.load f.rt r.size r.signed ea upd) })

/-- R206, R213: the data of a load from an SRAM returns and the thread moves on; an uncorrectable error raises LOAD_ECC with the
effective address. -/
def Claim.LoadDataReturns : Prop :=
  ∀ r ∈ loadRows, ∀ (s : State) (t : ThreadId) (f : MFields) (ea : Addr) (upd : Option BaseUpdate) (place : Place),
    let th := s.thread t
    Cores.wf s.cores = true → th.state = .run → th.stepArmed = false → th.haltReq = false →
    th.outstanding = some (.load f.rt r.size r.signed ea upd) →
    (region t ea.toNat).map (fun x => x.2.2.2) = some place → (∀ off, place ≠ .window off) → (∀ off, place ≠ .hbm off) →
    Leaves (.loadDataReturn t false) s t
      { ((th.takes r f (readPlace s place r.size.bytes)).update upd) with
          outstanding := none, pc := th.pc + 4, jumpFrom := none } ∧
    exec (.loadDataReturn t true) s =
      .next (takeException (s.setThread t { th with outstanding := none }) t 0x09 th.pc ea)

/-- Loads: near, far, and the return of their data. Where the manual leaves a point open this follows the model's choices: log entries 7,
31. -/
def Obligations.LoadsOfEverySize : Prop :=
  Claim.NearLoadsComplete ∧ Claim.FarLoadsLeaveTheCore ∧ Claim.LoadDataReturns

/-- R229: a store to an SRAM writes its bytes, little-endian, at the place of its effective address, and its base, and nothing
else. -/
def Claim.StoresWriteTheirBytes : Prop :=
  ∀ r ∈ storeRows, ∀ (s : State) (t : ThreadId) (f : MFields) (place : Place), s.ready t → s.wf → LegalMem false r.size f →
    let th := s.thread t
    let ea := effectiveAddress th f
    let v := if r.size = .eight then (th.areg (f.rt.setWidth 3)).toNat else (th.dreg f.rt).toNat
    checkAccess s t ea r.size.bytes true (r.size == .eight) (r.size == .word) = .inl place →
    (∀ off, place ≠ .window off) → (∀ off, place ≠ .hbm off) →
    ∃ u, exec (r.instr t f) s = .next u ∧ u.thread t = { th.based f th ea with pc := th.pc + 4, jumpFrom := none } ∧
      Stores s u place r.size.bytes v ∧ OnlyThread { s with mems := u.mems } u t

/-- R512: a store to HBM whose lines no frozen controller serves writes its bytes there, and no other byte of any memory. -/
def Claim.StoresToHbmWriteTheirBytes : Prop :=
  ∀ r ∈ storeRows, ∀ (s : State) (t : ThreadId) (f : MFields) (off : Nat), s.ready t → s.wf → LegalMem false r.size f →
    let th := s.thread t
    let ea := effectiveAddress th f
    let v := if r.size = .eight then (th.areg (f.rt.setWidth 3)).toNat else (th.dreg f.rt).toNat
    checkAccess s t ea r.size.bytes true (r.size == .eight) (r.size == .word) = .inl (.hbm off) →
    s.hbmPoisoned off r.size.bytes = false →
    ∃ u, exec (r.instr t f) s = .next u ∧ u.thread t = { th.based f th ea with pc := th.pc + 4, jumpFrom := none } ∧
      Stores s u (.hbm off) r.size.bytes v ∧ OnlyThread { s with mems := u.mems, counters := u.counters } u t

/-- Stores write their bytes at the computed address and nothing else. Where the manual leaves a point open this follows the model's
choices: log entries 7, 31. -/
def Obligations.StoresOfEverySize : Prop :=
  Claim.StoresWriteTheirBytes ∧ Claim.StoresToHbmWriteTheirBytes

/-- R209, R210, R211: an access that fails its check raises MISALIGNED, ACCESS or ABSENT with the effective address, and has no
other effect. -/
def Claim.BadAccessesRaise : Prop :=
  ∀ (s : State) (t : ThreadId) (f : MFields) (code : Nat), s.ready t →
    let ea := effectiveAddress (s.thread t) f
    (∀ r ∈ loadRows, LegalMem true r.size f →
      checkAccess s t ea r.size.bytes false (r.size == .eight) (r.size == .word) = .inr code → Raises (r.instr t f) s t code ea) ∧
    (∀ r ∈ storeRows, LegalMem false r.size f →
      checkAccess s t ea r.size.bytes true (r.size == .eight) (r.size == .word) = .inr code → Raises (r.instr t f) s t code ea)

/-- R209, R210, R211: what the checks of an access find: alignment first where it is asked, then the region, its level and its
end; the window takes aligned words only; absent HBM raises ABSENT. -/
def Claim.AccessChecks : Prop :=
  ∀ (s : State) (t : ThreadId) (ea : Addr) (n : Nat) (write align word : Bool),
    let a := ea.toNat
    let level := (s.thread t).level
    let check := checkAccess s t ea n write align word
    (align = true → a % n ≠ 0 → check = .inr 0x06) ∧
    (¬(align = true ∧ a % n ≠ 0) →
      (region t a = none → check = .inr 0x07) ∧
      (0x100000 ≤ a → a + n ≤ 0x110000 → 1 ≤ n → check = .inl (.scratch (0x10000 * coreOf t + (a - 0x100000)))) ∧
      (∀ p, region t a = some p → p.2.2.1 < a + n → (∀ off, p.2.2.2 ≠ .window off) → check = .inr 0x07) ∧
      (0x200000 ≤ a → a + n ≤ 0x400000 → 1 ≤ n → check = .inl (.shared (0x200000 * clusterOf t + (a - 0x200000)))) ∧
      (0x10000000 ≤ a → a + n ≤ 0x14000000 → 1 ≤ n → check = .inl (.pkt (a - 0x10000000))) ∧
      (0x1000000 ≤ a → a + n ≤ 0x3000000 → 1 ≤ n →
        check = if level = 0 then .inr 0x07 else .inl (.shared (a - 0x1000000))) ∧
      (0x20000000 ≤ a → a + n ≤ 0x24000000 → 1 ≤ n →
        check = if word = false ∨ a % 4 ≠ 0 then .inr 0x06 else if level = 0 then .inr 0x07 else .inl (.window (a - 0x20000000))) ∧
      (a < 0x20000 → write = true → 1 ≤ n → check = .inr 0x07) ∧
      (0x400000000000 ≤ a → a + n ≤ 0x403000000000 → 1 ≤ n →
        check = if s.variant = .fh ∧ 0x401800000000 ≤ a then .inr 0x08 else .inl (.hbm (a - 0x400000000000))))

/-- Alignment, region, level and presence of an access. -/
def Obligations.AccessesAreChecked : Prop :=
  Claim.BadAccessesRaise ∧ Claim.AccessChecks

/-- R220, R221, R222, R234: MFS and MFSA read, and MTS and MTSA write, the register that IMM12 names, at the levels R221 gives;
a number that is not assigned, or has the other width, raises ILLEGAL, and one above the level raises PRIV. -/
def Claim.SystemRegisterMoves : Prop :=
  ∀ (s : State) (t : ThreadId) (f : SFields), s.ready t →
    let th := s.thread t
    let n := f.imm.toNat
    let info := sysInfo n
    let word := fun sub => (SFields.word sub f).setWidth 48
    (f.rs1 = 0 →
      (∀ x, info = some x → x.wide = false → x.rd ≤ th.level →
        Retires (.mfs t f) s t (if n = 2 then { th.setD f.rd (sysRead s t th n) with nowHi := s.now.extractLsb' 32 32 }
          else th.setD f.rd (sysRead s t th n))) ∧
      (∀ x, info = some x → x.wide = true → x.rd ≤ th.level → f.rd.toNat < 8 →
        Retires (.mfsa t f) s t (th.setA (f.rd.setWidth 3) (sysReadWide th n))) ∧
      (∀ x, info = some x → x.wide = false → th.level < x.rd → Raises (.mfs t f) s t 0x03 (word 0)) ∧
      (∀ x, info = some x → x.wide = true → th.level < x.rd → f.rd.toNat < 8 → Raises (.mfsa t f) s t 0x03 (word 2))) ∧
    (f.rd = 0 →
      (∀ x, info = some x → x.wide = false → x.wr ≤ th.level →
        ∃ u, exec (.mts t f) s = .next u ∧
          let v := sysWrite s t th n (th.dreg f.rs1)
          u.thread t = { v.thread t with pc := th.pc + 4, jumpFrom := none } ∧ OnlyThread v u t) ∧
      (∀ x, info = some x → x.wide = true → x.wr ≤ th.level → f.rs1.toNat < 8 →
        Retires (.mtsa t f) s t (sysWriteWide th n (th.areg (f.rs1.setWidth 3)))) ∧
      (∀ x, info = some x → x.wide = false → th.level < x.wr → Raises (.mts t f) s t 0x03 (word 1)) ∧
      (∀ x, info = some x → x.wide = true → th.level < x.wr → f.rs1.toNat < 8 → Raises (.mtsa t f) s t 0x03 (word 3))) ∧
    ((∀ x, info = some x → x.wide = true) → Raises (.mfs t f) s t 0x02 (word 0) ∧ Raises (.mts t f) s t 0x02 (word 1)) ∧
    ((∀ x, info = some x → x.wide = false) → Raises (.mfsa t f) s t 0x02 (word 2) ∧ Raises (.mtsa t f) s t 0x02 (word 3))

/-- R220, R221, R256: what a write of TSR, of a Supervisor or Monitor exception register, of the timer compare, of EVPEND and of
WSTAT leaves in the register, reserved and read-only bits as they were. -/
def Claim.SystemRegisterWrites : Prop :=
  ∀ (s : State) (t : ThreadId) (th : Thread) (v : Word) (a : Addr), Cores.wf s.cores = true →
    let after := fun n => (sysWrite s t th n v).thread t
    let mask : Word := if th.level = 2 then 0x380FFF00 else 0x300FFF00
    (after 0x000).tsr = (th.tsr &&& ~~~mask ||| v &&& mask) ∧
    (after 0x011).ecauseS = v &&& 0xE000003F ∧ (after 0x021).ecauseM = v &&& 0xE000003F ∧
    (after 0x040).tcmp = th.tcmp ∧
    (∀ s', s' = sysWrite s t th 0x040 v → ∀ w, ((sysWrite s' t (s'.thread t) 0x041 w).thread t).tcmp = w ++ v) ∧
    (∀ k, k < 16 → (after 0x043).evpend.getLsbD k = (th.evpend.getLsbD k && !v.getLsbD k)) ∧
    (after 0x044).evirq = v.setWidth 17 ∧
    (after 0x045).wstat = th.wstat &&& 0x1FF ∧
    sysWriteWide th 0x010 a = { th with epcS := a } ∧ sysWriteWide th 0x012 a = { th with einfoS := a } ∧
    sysWriteWide th 0x013 a = { th with vbarS := a &&& 0xFFFFFFFFF000 } ∧
    sysWriteWide th 0x020 a = { th with epcM := a } ∧ sysWriteWide th 0x022 a = { th with einfoM := a } ∧
    sysWriteWide th 0x023 a = { th with vbarM := a &&& 0xFFFFFFFFF000 }

/-- MFS, MFSA, MTS and MTSA. Where the manual leaves a point open this follows the model's choices: log entry 35. -/
def Obligations.SystemRegisters : Prop :=
  Claim.SystemRegisterMoves ∧ Claim.SystemRegisterWrites

/-- R245, R246, R248, R250: taking an exception saves the address, the detail, the level and IE of the level it is taken at, enters
that level with IE clear and EXL set, and goes on at VBAR + 0x40 × code; a Supervisor exception inside a Supervisor handler is
taken as DOUBLE at Monitor, and keeps EPC_S and EINFO_S. -/
def Claim.ExceptionEntry : Prop :=
  ∀ (s : State) (t : ThreadId) (code : Nat) (epc einfo : Addr), Cores.wf s.cores = true → (s.thread t).state = .run →
    0 < code → code < 0x20 →
    let th := s.thread t
    let u := takeException s t code epc einfo
    let now := u.thread t
    let monitor := code = 0x0B ∨ code = 0x10 ∨ code = 0x11 ∨ code = 0x12 ∨ th.level = 2
    let saved := fun (c : Nat) (w : Word) => bits w 31 30 = th.level ∧ bitAt w 29 = bitAt th.tsr 29 ∧ bits w 5 0 = c
    (¬monitor → bitAt th.tsr 28 = false → th.level < 2 →
      now.epcS = epc ∧ now.einfoS = einfo ∧ saved code now.ecauseS ∧ now.level = 1 ∧
      bitAt now.tsr 29 = false ∧ bitAt now.tsr 28 = true ∧ now.pc = th.vbarS + BitVec.ofNat 48 (0x40 * code) ∧
      now.epcM = th.epcM ∧ now.d = th.d ∧ now.a = th.a ∧ OnlyThread s u t) ∧
    (¬monitor → bitAt th.tsr 28 = true → bitAt th.tsr 27 = false → th.level < 2 →
      now.epcM = epc ∧ now.einfoM = BitVec.ofNat 48 code ∧ saved 0x12 now.ecauseM ∧ now.level = 2 ∧
      bitAt now.tsr 29 = false ∧ bitAt now.tsr 27 = true ∧ now.pc = th.vbarM + BitVec.ofNat 48 (0x40 * 0x12) ∧
      now.epcS = th.epcS ∧ now.einfoS = th.einfoS ∧ OnlyThread s u t) ∧
    (monitor → bitAt th.tsr 27 = false → th.level < 3 →
      now.epcM = epc ∧ now.einfoM = einfo ∧ saved code now.ecauseM ∧ now.level = 2 ∧
      bitAt now.tsr 29 = false ∧ bitAt now.tsr 27 = true ∧ now.pc = th.vbarM + BitVec.ofNat 48 (0x40 * code) ∧
      now.epcS = th.epcS ∧ now.d = th.d ∧ now.a = th.a ∧ OnlyThread s u t)

/-- R246, R248, R250: SYSCALL, MONCALL and BREAK take their exception with IMM12 in EINFO; the first two return to the next
instruction. -/
def Claim.CallsTakeTheirException : Prop :=
  ∀ (s : State) (t : ThreadId) (f : SFields), s.ready t → f.rd = 0 → f.rs1 = 0 →
    let pc := (s.thread t).pc
    let imm := BitVec.ofNat 48 f.imm.toNat
    exec (.syscall t f) s = .next (takeException s t 0x0A (pc + 4) imm) ∧
    exec (.moncall t f) s = .next (takeException s t 0x0B (pc + 4) imm) ∧
    exec (.breakOp t f) s = .next (takeException s t 0x0C pc imm)

/-- Exception entry, SYSCALL, MONCALL and BREAK. Where the manual leaves a point open this follows the model's choices: log entries 33, 34. -/
def Obligations.ExceptionsAreTaken : Prop :=
  Claim.ExceptionEntry ∧ Claim.CallsTakeTheirException

/-- R248, R234: ERET at Supervisor or Monitor restores LEVEL and IE, clears EXL and continues at EPC of the level; FENCE completes with no
effect on registers or memory; CLRF clears the flags that IMM12 names. Where the manual leaves a point open this follows the model's
choices: log entries 34, 36. -/
def Obligations.ReturnsFencesAndFlags : Prop :=
  ∀ (s : State) (t : ThreadId) (f : SFields), s.ready t → f.rd = 0 → f.rs1 = 0 →
    let th := s.thread t
    (f.imm = 0 → th.level = 0 → Raises (.eret t f) s t 0x03 ((SFields.word 7 f).setWidth 48)) ∧
    (f.imm = 0 → th.level = 1 ∨ th.level = 2 → ∃ now, Leaves (.eret t f) s t now ∧
      let cause := if th.level = 1 then th.ecauseS else th.ecauseM
      now.pc = (if th.level = 1 then th.epcS else th.epcM) ∧ now.level = min th.level (bits cause 31 30) ∧
      bitAt now.tsr 29 = bitAt cause 29 ∧ bitAt now.tsr (if th.level = 1 then 28 else 27) = false ∧
      (∀ k, k < 27 → bitAt now.tsr k = bitAt th.tsr k) ∧
      now = { th with tsr := now.tsr, pc := now.pc, jumpFrom := none }) ∧
    (0 < f.imm.toNat → f.imm.toNat < 8 →
      ∃ u, exec (.fence t f) s = .next u ∧ u.thread t = { th with pc := th.pc + 4, jumpFrom := none } ∧ OnlyThread s u t) ∧
    (f.imm.toNat < 32 → ∃ tsr : Word, Retires (.clrf t f) s t { th with tsr := tsr } ∧ ∀ k, k < 32 → bitAt tsr k =
      (bitAt th.tsr k && !((k == 16 && f.imm.getLsbD 0) || (decide (8 ≤ k ∧ k < 16) && f.imm.getLsbD 1) ||
        (k == 17 && f.imm.getLsbD 2) || (k == 18 && f.imm.getLsbD 3) || (k == 19 && f.imm.getLsbD 4))))

/-- R206, R257: the status word of an instruction reaches D[rd], and the thread moves on. -/
def Claim.StatusWordsArrive : Prop :=
  ∀ (s : State) (t : ThreadId) (rd : BitVec 4) (w : Word) (upd : Option BaseUpdate) (ecc : Bool),
    let th := s.thread t
    Cores.wf s.cores = true → th.state = .run → th.stepArmed = false → th.haltReq = false →
    th.outstanding = some (.status rd w upd) →
    Leaves (.loadDataReturn t ecc) s t
      { ((th.setD rd w).update upd) with outstanding := none, pc := th.pc + 4, jumpFrom := none }

/-- R258: FORK starts the lowest-numbered idle thread of the issuing core's pool in the start state of a child, or returns NO_THREAD
and counts it. -/
def Claim.ForkStartsAChild : Prop :=
  ∀ (s : State) (t : ThreadId) (f : RFields), s.ready t → f.rs1.toNat < 8 → f.rs2 ≠ 15 → f.aux = 0 →
    let th := s.thread t
    let idle := fun k => (s.thread k).state = .idle ∧ (1024 ≤ t.val ∨ s.dispatchThread (coreOf t) (k % 8) = false)
    let inCore := fun k => k / 8 = t.val / 8
    ((∀ k, inCore k → ¬idle k) → exec (.fork t f) s = .next ((s.count (thrBase (clusterOf t) + 0x3010)).awaiting t f.rd 3)) ∧
    (∀ k, inCore k → idle k → (∀ j, inCore j → j < k → ¬idle j) → ∃ u, exec (.fork t f) s = .next u ∧
      (let c := u.thread k
       c.state = .run ∧ c.pc = th.areg (f.rs1.setWidth 3) ∧ c.level = th.level ∧ bitAt c.tsr 29 = true ∧
       c.dreg 1 = th.dreg f.rs2 ∧ c.dreg 2 = th.dreg (f.rs2 + 1) ∧ c.areg 1 = th.areg 1 ∧
       c.areg 7 = BitVec.ofNat 48 (0x108000 + 0x1000 * (k % 8)) ∧ c.parent = some t.val ∧ c.children = 0 ∧
       (∀ r, 3 ≤ r.toNat → c.dreg r = 0) ∧ c.acc0 = 0 ∧ c.acc1 = 0 ∧ c.arm = false ∧ c.evpend = 0) ∧
      u.thread t = { th with children := th.children + 1, outstanding := some (.status f.rd (BitVec.ofNat 32 (k % 1024 * 65536)) none) } ∧
      (∀ j, j ≠ k → j ≠ t.val → u.thread j = s.thread j) ∧
      u = { s with cores := { s.cores with threads := u.cores.threads, clusters := u.cores.clusters } })

/-- R254, R259, R260: JOIN and END with and without live children, and YIELD. -/
def Claim.JoinEndYield : Prop :=
  ∀ (s : State) (t : ThreadId) (f : RFields), s.ready t → f.rs1 = 0 → f.rs2 = 0 → f.aux = 0 →
    let th := s.thread t
    (th.children = 0 → exec (.join t f) s = .next (s.awaiting t f.rd 0)) ∧
    (th.children ≠ 0 → s.compared t →
      exec (.join t f) s = .next ((s.count (thrBase (clusterOf t) + 0x300C)).awaiting t f.rd 1)) ∧
    (th.children ≠ 0 → ¬s.compared t → exec (.join t f) s = .next (s.waiting t (.join f.rd))) ∧
    (f.rd = 0 →
      Retires (.yield t f) s t th ∧
      (th.children ≠ 0 → ¬s.compared t → exec (.endOp t f) s = .next (s.waiting t .endjoin)) ∧
      (th.children ≠ 0 → s.compared t →
        exec (.endOp t f) s = .next (completeEnd (s.count (thrBase (clusterOf t) + 0x300C)) t)) ∧
      (th.children = 0 → exec (.endOp t f) s = .next (completeEnd s t)) ∧
      (th.children = 0 → th.item = none → th.irqCxLate = none → th.parent = none → ∃ u, exec (.endOp t f) s = .next u ∧
        (u.thread t).state = .idle ∧ (u.thread t).wait = .none ∧ (u.thread t).irqCheck = none ∧
        ∀ k, k ≠ t.val → u.thread k =
          if (s.thread k).parent = some t.val then { s.thread k with parent := none } else s.thread k) ∧
      (∀ p, th.children = 0 → th.item = none → th.irqCxLate = none → th.parent = some p → p ≠ t.val →
        (s.thread p).state = .run → (s.thread p).parent ≠ some t.val → ∃ u, exec (.endOp t f) s = .next u ∧
          (u.thread t).state = .idle ∧ (u.thread t).parent = none ∧
          u.thread p = { s.thread p with children := (s.thread p).children - 1 }))

/-- FORK, JOIN, END, YIELD and the arrival of status words. -/
def Obligations.ThreadsForkJoinAndEnd : Prop :=
  Claim.StatusWordsArrive ∧ Claim.ForkStartsAChild ∧ Claim.JoinEndYield

/-- R256, R262, R264, R265: WAITT and WAITE complete at once where their condition holds, and wait where it does not. -/
def Claim.TimerAndEventWaits : Prop :=
  ∀ (s : State) (t : ThreadId) (f : RFields), s.ready t → f.rs2 = 0 → f.aux = 0 →
    let th := s.thread t
    let m : BitVec 16 := (th.dreg f.rs1).setWidth 16
    let hit := th.evpend &&& m
    (f.rs1 = 0 →
      (th.arm = false → exec (.waitt t f) s = .next (s.awaiting t f.rd 6)) ∧
      (s.compared t → exec (.waitt t f) s = .next (s.awaiting t f.rd 0)) ∧
      (th.arm = true → ¬s.compared t → exec (.waitt t f) s = .next (s.waiting t (.waitt f.rd)))) ∧
    (m = 0 ∨ hit ≠ 0 → Leaves (.waite t f) s t
      { th with evpend := th.evpend &&& ~~~m, outstanding := some (.status f.rd (BitVec.ofNat 32 (hit.toNat * 65536)) none) }) ∧
    (m ≠ 0 → hit = 0 → s.compared t →
      exec (.waite t f) s = .next ((s.count (thrBase (clusterOf t) + 0x300C)).awaiting t f.rd 1)) ∧
    (m ≠ 0 → hit = 0 → ¬s.compared t → exec (.waite t f) s = .next (s.waiting t (.waite f.rd m)))

/-- R263, R264: POST is posted and completes; the event that arrives is set in EVPEND of a target that accepts it and is not IDLE,
else it is lost and counted. -/
def Claim.PostedEvents : Prop :=
  ∀ (s : State) (t : ThreadId) (f : RFields), Cores.wf s.cores = true →
    (s.ready t → f.rd = 0 → f.rs2 = 0 → f.aux.toNat < 16 →
      ∃ u, exec (.post t f) s = .next u ∧ u.thread t = { s.thread t with pc := (s.thread t).pc + 4, jumpFrom := none } ∧
        u.cores.posts = s.cores.posts ++
          [{ poster := t, target := ((s.thread t).dreg f.rs1).toNat % 4096, event := f.aux.toNat }] ∧
        OnlyThread { s with cores := { s.cores with posts := u.cores.posts } } u t) ∧
    (∀ (p : PostMsg) (rest : List PostMsg), s.cores.posts = p :: rest →
      let taken := { s with cores := { s.cores with posts := rest } }
      let th := s.thread p.target
      let accepted := if p.event < 8 then clusterOf p.poster = clusterOf p.target else p.event < 12 ∨ 1024 ≤ p.poster
      (1031 < p.target → exec .postArrive s = .next (taken.count (thrBase (clusterOf p.poster) + 0x3014))) ∧
      (p.target ≤ 1031 → ¬accepted ∨ th.state = .idle →
        exec .postArrive s = .next (taken.count (thrBase (clusterOf p.target) + 0x3014))) ∧
      (p.target ≤ 1031 → accepted → th.state = .run → th.wait = .none →
        exec .postArrive s = .next (taken.setThread p.target { th with evpend := th.evpend ||| BitVec.ofNat 16 (2 ^ p.event) })) ∧
      (∀ rd m, p.target ≤ 1031 → accepted → th.state = .wait → th.wait = .waite rd m → p.event < 16 → m.getLsbD p.event = true →
        ∃ u, exec .postArrive s = .next u ∧ (u.thread p.target).state = .run ∧
          ((u.thread p.target).evpend &&& m) = 0 ∧
          (u.thread p.target).outstanding = some (.status rd
            (BitVec.ofNat 32 ((((th.evpend ||| BitVec.ofNat 16 (2 ^ p.event)) &&& m)).toNat * 65536)) none)))

/-- R262, R287: the timer compare ends a wait of a thread with TIMEOUT, WAITT with OK, and nothing else. -/
def Claim.TimerCompareEndsWaits : Prop :=
  ∀ (s : State) (t : ThreadId), Cores.wf s.cores = true →
    let th := s.thread t
    let counted := s.count (thrBase (clusterOf t) + 0x300C)
    (¬(th.state = .wait ∧ s.compared t) → exec (.timerCompareReached t) s = .next s) ∧
    (th.state = .wait → s.compared t →
      (∀ rd, th.wait = .waitt rd → exec (.timerCompareReached t) s = .next (s.resumed t rd 0)) ∧
      (∀ rd, th.wait = .join rd → exec (.timerCompareReached t) s = .next (counted.resumed t rd 1)) ∧
      (∀ rd m, th.wait = .waite rd m → exec (.timerCompareReached t) s = .next (counted.resumed t rd 1)) ∧
      (∀ rd n, th.wait = .send rd n → exec (.timerCompareReached t) s = .next (counted.resumed t rd 1)) ∧
      (∀ rd w, th.wait = .submit rd w → exec (.timerCompareReached t) s = .next (counted.resumed t rd 1)) ∧
      (∀ rd r o, th.wait = .pktout rd r o → exec (.timerCompareReached t) s = .next (counted.resumed t rd 1)) ∧
      (∀ rd n d, th.wait = .recv rd n d → ∃ u, exec (.timerCompareReached t) s = .next u ∧
        ¬t.val ∈ (u.chan (clusterOf t) n).receivers ∧
        u.thread t = { th with state := .run, wait := .none, outstanding := some (.status rd 1 none) }) ∧
      (th.wait = .endjoin → exec (.timerCompareReached t) s = .next (completeEnd counted t)))

/-- WAITT, WAITE, POST, arriving events and the timer compare. Where the manual leaves a point open this follows the model's choices: log
entry 39. -/
def Obligations.WaitsAndEvents : Prop :=
  Claim.TimerAndEventWaits ∧ Claim.PostedEvents ∧ Claim.TimerCompareEndsWaits

/-- R186, R235: SUBMIT reads its item from the own scratch, returns the status that refuses it, enters it where there is room, and
else returns FULL or waits; a waiting submission enters once its room exists, and in FROZEN ends with HALTED. -/
def Claim.SubmitEntersItsItem : Prop :=
  ∀ (s : State) (t : ThreadId) (f : RFields), s.ready t → f.rs1.toNat < 8 → f.rs2 = 0 → f.aux.toNat < 2 →
    let th := s.thread t
    let a := th.areg (f.rs1.setWidth 3)
    let off := 0x10000 * coreOf t + (a.toNat - 0x100000)
    let w := stampItem s ((List.range 16).map fun i => BitVec.ofNat 32 (readLE s.mems.scratch (off + 4 * i) 4))
    (a.toNat % 4 ≠ 0 → Raises (.submit t f) s t 0x06 a) ∧
    (a.toNat % 4 = 0 → ¬(0x100000 ≤ a.toNat ∧ a.toNat + 64 ≤ 0x110000) → Raises (.submit t f) s t 0x07 a) ∧
    (a.toNat % 4 = 0 → 0x100000 ≤ a.toNat → a.toNat + 64 ≤ 0x110000 →
      (s.submitStatus w false ≠ 0 →
        exec (.submit t f) s = .next ((countRefused s).awaiting t f.rd (BitVec.ofNat 32 (s.submitStatus w false)))) ∧
      (s.submitStatus w false = 0 → s.submitRoom w false = true →
        exec (.submit t f) s = .next ((enterSubmission s w).awaiting t f.rd 0)) ∧
      (s.submitStatus w false = 0 → s.submitRoom w false = false →
        (f.aux = 0 → exec (.submit t f) s = .next ((countRefused s).awaiting t f.rd 1)) ∧
        (f.aux = 1 → ¬s.compared t → exec (.submit t f) s = .next (s.waiting t (.submit f.rd w)))))

/-- R186, R76, R261: a waiting SUBMIT or PKTOUT is resumed when its room exists, and in FROZEN ends. -/
def Claim.WaitingSubmissionsResume : Prop :=
  ∀ (s : State) (t : ThreadId) (rd : BitVec 4), Cores.wf s.cores = true → (s.thread t).state = .wait →
    (∀ w, (s.thread t).wait = .submit rd w →
      (s.dev = .frozen → exec (.submitResume t) s = .next ((countRefused s).resumed t rd 6)) ∧
      (s.dev ≠ .frozen → s.submitRoom w false = true →
        exec (.submitResume t) s = .next ((enterSubmission s w).resumed t rd 0)) ∧
      (s.dev ≠ .frozen → s.submitRoom w false = false → exec (.submitResume t) s = .next s)) ∧
    (∀ r ots, (s.thread t).wait = .pktout rd r ots →
      (s.dev = .frozen → exec (.pktoutResume t) s = .next (s.resumed t rd 8)) ∧
      (s.dev ≠ .frozen → s.fixFull = true → exec (.pktoutResume t) s = .next s) ∧
      (s.dev ≠ .frozen → s.fixFull = false → ∃ u, exec (.pktoutResume t) s = .next u ∧ (u.thread t).wait = .none ∧
        (u.thread t).outstanding = some (.status rd
          (BitVec.ofNat 32 (sendRecord (s.modThread t fun x => { x with wait := .none }) t r ots).2) none)))

/-- R261: PKTOUT checks its record, then the state, then sends the packet or waits for an entry of the Fixer. -/
def Claim.PktoutSendsItsRecord : Prop :=
  ∀ (s : State) (t : ThreadId) (f : RFields), s.ready t → f.rs1.toNat < 8 → f.rs2 = 0 → f.aux = 0 →
    let th := s.thread t
    let a := th.areg (f.rs1.setWidth 3)
    let r := readBytes s.mems.scratch (0x10000 * coreOf t + (a.toNat - 0x100000)) 32
    (a.toNat % 8 ≠ 0 → Raises (.pktout t f) s t 0x06 a) ∧
    (a.toNat % 8 = 0 → ¬(0x100000 ≤ a.toNat ∧ a.toNat + 32 ≤ 0x110000) → Raises (.pktout t f) s t 0x07 a) ∧
    (a.toNat % 8 = 0 → 0x100000 ≤ a.toNat → a.toNat + 32 ≤ 0x110000 →
      (goodRecord s r = false → exec (.pktout t f) s = .next (s.awaiting t f.rd 7)) ∧
      (goodRecord s r = true → s.dev = .frozen → exec (.pktout t f) s = .next (s.awaiting t f.rd 8)) ∧
      (goodRecord s r = true → s.dev ≠ .frozen →
        let p := s.stamp pointThread s.now
        (s.fixFull = false →
          exec (.pktout t f) s = .next
            ((sendRecord p.2 t r p.1).1.awaiting t f.rd (BitVec.ofNat 32 (sendRecord p.2 t r p.1).2))) ∧
        (s.fixFull = true → th.arm = false → exec (.pktout t f) s = .next (p.2.waiting t (.pktout f.rd r p.1)))))

/-- SUBMIT and PKTOUT, waiting and resumed. Where the manual leaves a point open this follows the model's choices: log entry 37. -/
def Obligations.SubmissionAndOutput : Prop :=
  Claim.SubmitEntersItsItem ∧ Claim.WaitingSubmissionsResume ∧ Claim.PktoutSendsItsRecord

/-- R267, R268, R273: CHW writes a word of a channel the thread fills, claims a free one, or waits for it; after a failure record
for the channel it does nothing. -/
def Claim.ChannelWritesClaimAndFill : Prop :=
  ∀ (s : State) (t : ThreadId) (f : RFields), s.ready t → f.rd = 0 → f.aux.toNat < 8 →
    let th := s.thread t
    let c := clusterOf t
    let n := (th.dreg f.rs1).toNat % 32
    let ch := s.chan c n
    let data := th.dreg f.rs2
    let idx := f.aux.toNat
    let goesOn := fun (v : Channel) => ∃ u, exec (.chw t f) s = .next u ∧ u.chan c n = v ∧
      u.thread t = { th with pc := th.pc + 4, jumpFrom := none } ∧
      (∀ k, k ≠ 32 * c + n → sget Channel.empty u.cores.chans k = sget Channel.empty s.cores.chans k) ∧
      OnlyThread { s with cores := { s.cores with chans := u.cores.chans } } u t
    (th.failed n = true → Retires (.chw t f) s t th) ∧
    (th.failed n = false →
      (ch.st = .filling → ch.owner = t.val →
        goesOn { ch with words := sput 0 ch.words idx data, top := max ch.top (idx + 1) }) ∧
      (ch.st = .free → goesOn { ch with st := .filling, owner := t, n := 0, words := sput 0 [] idx data, top := idx + 1 }) ∧
      (¬(ch.st = .filling ∧ ch.owner = t.val) → ch.st ≠ .free → ¬s.compared t →
        exec (.chw t f) s = .next ((s.setChan c n { ch with claimers := ch.claimers ++ [t.val] }).waiting t (.claim n idx data))) ∧
      (¬(ch.st = .filling ∧ ch.owner = t.val) → ch.st ≠ .free → s.compared t → ∃ u, exec (.chw t f) s = .next u ∧
        u.thread t = { th with wstat := BitVec.ofNat 10 (512 + 16 * n + 1), pc := th.pc + 4, jumpFrom := none }))

/-- R269, R270, R272: CHCOMMIT and SEND return a failure record's status once, NOT_OWNER to a thread that does not own the channel,
and otherwise make the first words of the message visible; SEND waits for its receiver. -/
def Claim.CommitAndSend : Prop :=
  ∀ (s : State) (t : ThreadId) (f : RFields), s.ready t → f.rs2 = 0 →
    let th := s.thread t
    let c := clusterOf t
    let n := (th.dreg f.rs1).toNat % 32
    let ch := s.chan c n
    let message := fun (k : Nat) (st : ChanState) =>
      s.setChan c n { ch with st := st, n := k, words := ch.words.filter fun e => e.1 < k }
    (1 ≤ f.aux.toNat → f.aux.toNat ≤ 8 →
      (th.failed n = true → Leaves (.chcommit t f) s t
        { th with wstat := th.wstat &&& 0x1FF, outstanding := some (.status f.rd (BitVec.ofNat 32 (th.wstat.toNat % 16)) none) }) ∧
      (th.failed n = false → ¬(ch.st = .filling ∧ ch.owner = t.val) → exec (.chcommit t f) s = .next (s.awaiting t f.rd 4)) ∧
      (th.failed n = false → ch.st = .filling → ch.owner = t.val → ch.receivers = [] →
        exec (.chcommit t f) s = .next ((message f.aux.toNat .full).awaiting t f.rd 0)) ∧
      (th.failed n = false → ch.st = .filling → ch.owner = t.val →
        exec (.chcommit t f) s = .next ((serveReceiver (message f.aux.toNat .full) c n).awaiting t f.rd 0))) ∧
    (f.aux = 0 →
      (th.failed n = true → Leaves (.send t f) s t
        { th with wstat := th.wstat &&& 0x1FF, outstanding := some (.status f.rd (BitVec.ofNat 32 (th.wstat.toNat % 16)) none) }) ∧
      (th.failed n = false → ch.owner ≠ t.val ∨ ch.st = .free ∨ ch.st = .held ∨ ch.st = .full → exec (.send t f) s = .next (s.awaiting t f.rd 4)) ∧
      (th.failed n = false → ch.owner = t.val → ch.st = .filling → ch.receivers = [] → ¬s.compared t →
        exec (.send t f) s = .next ((message ch.top .sending).waiting t (.send f.rd n))) ∧
      (th.failed n = false → ch.owner = t.val → ch.st = .acked →
        exec (.send t f) s = .next ((freeChan s c n).awaiting t f.rd 0)))

/-- R271: RECV takes a visible message into the thread's scratch, its words above N as 0, frees the channel and returns N; without
one it waits.  Its destination must lie in the own scratch, word-aligned. -/
def Claim.ReceiveTakesTheMessage : Prop :=
  ∀ (s : State) (t : ThreadId) (f : RFields), s.ready t → s.wf → f.rs2.toNat < 8 → f.aux = 0 →
    let th := s.thread t
    let c := clusterOf t
    let n := (th.dreg f.rs1).toNat % 32
    let ch := s.chan c n
    let dest := th.areg (f.rs2.setWidth 3)
    let off := 0x10000 * coreOf t + (dest.toNat - 0x100000)
    (dest.toNat % 4 ≠ 0 → Raises (.recv t f) s t 0x06 dest) ∧
    (dest.toNat % 4 = 0 → ¬(0x100000 ≤ dest.toNat ∧ dest.toNat + 32 ≤ 0x110000) → Raises (.recv t f) s t 0x07 dest) ∧
    (dest.toNat % 4 = 0 → 0x100000 ≤ dest.toNat → dest.toNat + 32 ≤ 0x110000 →
      (ch.st = .full → ch.receivers = [] → ch.claimers = [] → ∃ u, exec (.recv t f) s = .next u ∧
        (u.chan c n).st = .free ∧
        u.thread t = { th with outstanding := some (.status f.rd (BitVec.ofNat 32 (ch.n % 65536 * 65536)) none) } ∧
        (∀ i, i < 8 → readLE u.mems.scratch (off + 4 * i) 4 = if i < ch.n then (sget 0 ch.words i).toNat else 0) ∧
        (∀ a, a < off ∨ off + 32 ≤ a → sget 0 u.mems.scratch a = sget 0 s.mems.scratch a) ∧
        u.mems = { s.mems with scratch := u.mems.scratch } ∧
        OnlyThread { s with mems := u.mems, cores := { s.cores with chans := u.cores.chans } } u t) ∧
      (ch.st ≠ .full → ch.st ≠ .sending → ¬s.compared t → exec (.recv t f) s =
        .next ((s.setChan c n { ch with receivers := ch.receivers ++ [t.val] }).waiting t (.recv f.rd n dest))) ∧
      (ch.st ≠ .full → ch.st ≠ .sending → s.compared t → exec (.recv t f) s =
        .next ((s.count (thrBase (clusterOf t) + 0x300C)).awaiting t f.rd 1)))

/-- CHW, CHCOMMIT, SEND and RECV. Where the manual leaves a point open this follows the model's choices: log entry 39. -/
def Obligations.ChannelMessages : Prop :=
  Claim.ChannelWritesClaimAndFill ∧ Claim.CommitAndSend ∧ Claim.ReceiveTakesTheMessage

/-- R282, R283, R284: the detector ends the closed wait of the lowest-indexed thread with DEADLOCK, counts it and takes a snapshot of
the cluster. -/
def Claim.DeadlockEndsOneWait : Prop :=
  ∀ (s : State) (c : Fin 17) (v : Nat), Cores.wf s.cores = true →
    (clusterThreads c.val).find? s.closedWait = some v → s.dlHolds c.val = true → s.dlCycles c.val ≤ s.dlCount c.val →
    let cl := s.cluster c.val
    let marked := (s.setCluster c.val
      { cl with snap := writeBytes [] 0 (snapshot s c.val v), dlSince := some s.now }).count (thrBase c.val + 0x3008)
    exec (.clusterDeadlock c) s =
      .next ((endEarly marked v 2).logEvent 0x40 1 (BitVec.ofNat 128 (c.val) ||| BitVec.ofNat 128 (v % 64 * 2 ^ 8))) ∧
    (∀ rd, (s.thread v).wait = .join rd → endEarly marked v 2 = marked.resumed v rd 2) ∧
    (∀ rd m, (s.thread v).wait = .waite rd m → endEarly marked v 2 = marked.resumed v rd 2) ∧
    (∀ rd n, (s.thread v).wait = .send rd n → endEarly marked v 2 = marked.resumed v rd 2)

/-- R213, R246, R247, R249, R265, R266: a pending interrupt is taken between instructions, the highest first; MACHINE_CHECK and DEBUG
are not masked, CX_LATE and THREAD_IRQ need IE set and EXL_S clear; a machine check becomes pending for a thread that works. -/
def Claim.InterruptsByPriority : Prop :=
  ∀ (s : State) (t : ThreadId) (target : Addr), Cores.wf s.cores = true →
    let th := s.thread t
    let open' := bitAt th.tsr 29 = true ∧ bitAt th.tsr 28 = false
    let take := fun (code : Nat) (clear : Thread → Thread) (info : Addr) =>
      exec (.interruptTake t) s = .next (takeException (s.setThread t (clear th)) t code th.pc info)
    (th.state = .idle → exec (.machineCheck t target) s = .next s) ∧
    (th.state ≠ .idle → exec (.machineCheck t target) s = .next (s.setThread t { th with irqCheck := some (th.irqCheck.getD target) })) ∧
    (th.state = .run → th.outstanding = none →
      (∀ a, th.irqCheck = some a → take 0x10 (fun x => { x with irqCheck := none }) a) ∧
      (∀ a, th.irqCheck = none → th.irqDebug = some a → take 0x11 (fun x => { x with irqDebug := none }) a) ∧
      (∀ a, th.irqCheck = none → th.irqDebug = none → open' → th.irqCxLate = some a →
        take 0x13 (fun x => { x with irqCxLate := none }) a) ∧
      (th.irqCheck = none → th.irqDebug = none → th.irqCxLate = none → open' →
        th.evpend &&& th.evirq.setWidth 16 ≠ 0 → take 0x14 id 0) ∧
      (th.irqCheck = none → th.irqDebug = none → ¬open' → exec (.interruptTake t) s = .next s)) ∧
    (∀ rd a, th.state = .wait → th.outstanding = none → th.wait = .join rd → th.irqCheck = some a →
      exec (.interruptTake t) s = .next (takeException ((s.setThread t { th with state := .run, wait := .none }).setThread t
        { th with state := .run, wait := .none, irqCheck := none }) t 0x10 th.pc a)) ∧
    (th.state = .halt ∨ th.state = .idle → exec (.interruptTake t) s = .next s)

/-- The deadlock detector, and interrupts of a thread by priority. Where the manual leaves a point open this follows the model's choices:
log entries 1, 33. -/
def Obligations.DeadlockAndInterrupts : Prop :=
  Claim.DeadlockEndsOneWait ∧ Claim.InterruptsByPriority

/-- R275, R276: a request of the debug unit is refused outside FULL mode (1), while the one before is in progress (4), and where its
precondition does not hold (2); a refused one changes only the result. -/
def Claim.DebugRequestsAreChecked : Prop :=
  ∀ (s : State) (c : Fin 17) (k : Fin 64) (ch : Fin 32),
    let t := threadOf c.val k.val
    let st := (s.thread t).state
    let cs := (s.chan c.val ch.val).st
    let busy := (clusterThreads c.val).any fun x => (s.thread x).haltReq || (s.thread x).stepArmed
    let refused := fun (i : Instr) (r : BitVec 4) => exec i s = .next (s.setCluster c.val { s.cluster c.val with dbgResult := r })
    let requests := [Instr.halt c k, .resume c k, .step c k, .kill c k, .trap c k, .chabort c ch]
    (s.dbgMode c.val ≠ 2 → ∀ i ∈ requests, refused i 1) ∧
    (s.dbgMode c.val = 2 → busy = true → ∀ i ∈ requests, refused i 4) ∧
    (s.dbgMode c.val = 2 → busy = false →
      (st = .idle → refused (.halt c k) 2 ∧ refused (.kill c k) 2) ∧
      (st ≠ .halt → refused (.resume c k) 2 ∧ refused (.step c k) 2) ∧
      (st = .idle ∨ st = .halt → refused (.trap c k) 2) ∧
      (cs ≠ .filling → cs ≠ .held → refused (.chabort c ch) 2))

/-- R266, R273, R276, R277, R278: what an accepted request does. -/
def Claim.DebugRequestsAct : Prop :=
  ∀ (s : State) (c : Fin 17) (k : Fin 64) (ch : Fin 32), Cores.wf s.cores = true →
    c.val < 16 ∨ k.val < 8 → s.dbgMode c.val = 2 →
    (clusterThreads c.val).any (fun x => (s.thread x).haltReq || (s.thread x).stepArmed) = false →
    let t := threadOf c.val k.val
    let th := s.thread t
    let ok := s.setCluster c.val { s.cluster c.val with dbgResult := 0 }
    (th.state = .run → th.outstanding = none → ∃ u, exec (.halt c k) s = .next u ∧
      u.thread t = { th with state := .halt, wait := .none } ∧ (∀ x, x ≠ t → u.thread x = s.thread x) ∧
      (∀ n, n < 32 → (s.chan c.val n).st = .filling → (s.chan c.val n).owner = t → (u.chan c.val n).st = .held)) ∧
    (th.state = .run → th.outstanding ≠ none → exec (.halt c k) s = .next (ok.setThread t { th with haltReq := true })) ∧
    (th.state = .halt → ∃ u, exec (.resume c k) s = .next u ∧
      u.thread t = { th with state := .run } ∧ (∀ x, x ≠ t → u.thread x = s.thread x) ∧
      (∀ n, n < 32 → (s.chan c.val n).st = .held → (s.chan c.val n).owner = t → (u.chan c.val n).st = .filling)) ∧
    (th.state = .halt → exec (.step c k) s = .next (ok.setThread t { th with stepArmed := true })) ∧
    (th.state ≠ .idle → exec (.kill c k) s = .next (killThread ok t)) ∧
    (th.state = .run ∨ th.state = .wait → ∃ a, th.irqDebug.getD 1 = a ∧
      exec (.trap c k) s = .next (ok.setThread t { th with irqDebug := some a })) ∧
    (let channel := s.chan c.val ch.val
     channel.st = .filling ∨ channel.st = .held → channel.claimers = [] → ∃ u, exec (.chabort c ch) s = .next u ∧
      (u.chan c.val ch.val).st = .free ∧
      (u.thread channel.owner).wstat = BitVec.ofNat 10 (512 + 16 * ch.val + 5) ∧
      u.counters = (s.count (thrBase c.val + 0x3004)).counters)

/-- R278, R259, R260: a killed thread that waits for nothing, holds no lock, no buffer and no channel ends as if by END, without the
effects of its item, and is counted. -/
def Claim.KillEndsAThread : Prop :=
  ∀ (s : State) (t : Nat), s.wf →
    ((s.thread t).state = .idle → killThread s t = s) ∧
    (t < 1032 → (s.thread t).state ≠ .idle → (s.thread t).item = none → (s.thread t).irqCxLate = none →
      (s.thread t).parent = none → s.lck.locks = [] → s.lck.sems = [] → s.lck.unclaimed = [] → s.trays.waiters = [] →
      s.trays.unclaimed = [] → s.cores.chans = [] → (killThread s t).thread t = { s.thread t with
        state := .idle, wait := .none, children := 0, outstanding := none, irqCheck := none, irqDebug := none,
        haltReq := false, stepArmed := false } ∧
      sget 0 (killThread s t).counters (thrBase (clusterOf t) + 0x3018) = sget 0 s.counters (thrBase (clusterOf t) + 0x3018) + 1)

/-- R275, R285: a write of the register window reaches a halted thread in FULL mode only, and reads show what was written. -/
def Claim.DebugWindowWrites : Prop :=
  ∀ (s : State) (c : Fin 17) (o : BitVec 8) (w : Word), Cores.wf s.cores = true →
    let t := threadOf c.val (s.fld (thrBase c.val + 0x40C) 5 0)
    let th := s.thread t
    let write := exec (.dbgWinWrite c o w) s
    let part := fun (x : Acc) (j : Nat) =>
      BitVec.ofNat 72 (x.toNat - x.toNat / 2 ^ (32 * j) % 2 ^ 32 * 2 ^ (32 * j) + w.toNat * 2 ^ (32 * j))
    o.toNat % 4 = 0 → o.toNat < 0xB4 →
    (s.dbgMode c.val ≠ 2 → write = .next (s.setCluster c.val { s.cluster c.val with dbgResult := 1 })) ∧
    (s.dbgMode c.val = 2 → th.state ≠ .halt → write = .next (s.setCluster c.val { s.cluster c.val with dbgResult := 2 })) ∧
    (s.dbgMode c.val = 2 → th.state = .halt → ∃ v, write = .next (s.setThread t v) ∧
      (∀ r : BitVec 4, o.toNat = 4 * r.toNat → v = th.setD r w) ∧
      (∀ r : BitVec 3, o.toNat = 0x40 + 8 * r.toNat →
        v = th.setA r (BitVec.ofNat 48 ((th.areg r).toNat / 2 ^ 32 * 2 ^ 32 + w.toNat))) ∧
      (∀ r : BitVec 3, o.toNat = 0x44 + 8 * r.toNat →
        v = th.setA r (BitVec.ofNat 48 ((th.areg r).toNat % 2 ^ 32 + w.toNat * 2 ^ 32))) ∧
      (∀ j, j < 3 → o.toNat = 0x80 + 4 * j → v = { th with acc0 := part th.acc0 j }) ∧
      (∀ j, j < 3 → o.toNat = 0x8C + 4 * j → v = { th with acc1 := part th.acc1 j }) ∧
      (o = 0x98 → v = { th with pc := BitVec.ofNat 48 w.toNat, jumpFrom := none }) ∧
      (o = 0x9C → v = { th with tsr := w &&& 0xF80FFF00 }) ∧
      (o = 0xA0 → v = { th with evpend := BitVec.ofNat 16 w.toNat }) ∧
      (o = 0xA4 → v = { th with tcmp := BitVec.ofNat 64 (th.tcmp.toNat / 2 ^ 32 * 2 ^ 32 + w.toNat) }) ∧
      (o = 0xA8 → v = { th with tcmp := BitVec.ofNat 64 (th.tcmp.toNat % 2 ^ 32 + w.toNat * 2 ^ 32) }) ∧
      (o = 0xAC → v = { th with arm := bitAt w 0 }) ∧
      (o = 0xB0 → v = { th with wstat := BitVec.ofNat 10 w.toNat }))

/-- R275, R279, R280: a breakpoint that is enabled and holds the PC of a thread about to issue halts it, raises DEBUG with the number
of the breakpoint, or only traces, by the mode and its ACTION; one that does not match does nothing. -/
def Claim.BreakpointsHaltTrapOrTrace : Prop :=
  ∀ (s : State) (t : ThreadId) (n : Fin 4),
    let v := s.reg (thrBase (clusterOf t) + 0x410 + 4 * n.val)
    let th := s.thread t
    let hits := bitAt v 31 = true ∧ (bitAt v 28 = true ∨ bits v 27 22 = t.val % 64) ∧ th.pc.toNat = bits v 16 0
    let mode := s.dbgMode (clusterOf t)
    (¬hits ∨ mode = 0 ∨ th.issues = false → exec (.breakpointHit t n) s = .next s) ∧
    (hits → th.issues = true →
      (mode = 1 ∨ mode ≠ 0 ∧ bits v 30 29 = 2 → exec (.breakpointHit t n) s = .next (traceRecord s t)) ∧
      (mode = 2 → bits v 30 29 = 0 → exec (.breakpointHit t n) s = .next (haltThread s t)) ∧
      (mode = 2 → bits v 30 29 = 1 → th.stepArmed = false →
        exec (.breakpointHit t n) s = .next (takeException s t 0x11 th.pc (BitVec.ofNat 48 (2 + 4 * n.val)))))

/-- Debug requests, kill, the register window and breakpoints. -/
def Obligations.DebugUnit : Prop :=
  Claim.DebugRequestsAreChecked ∧ Claim.DebugRequestsAct ∧ Claim.KillEndsAThread ∧ Claim.DebugWindowWrites ∧
    Claim.BreakpointsHaltTrapOrTrace

/-- R290, R291, R292: the CRC and hash functions update their running words from the operand bytes, byte 0 first. -/
def Claim.CxChecksAndHashes : Prop :=
  ∀ (s : State) (t : ThreadId) (f : XFields), s.ready t →
    let th := s.thread t
    let n := f.cxc.toNat
    let a := th.dreg f.rs1
    let b := th.dreg f.rs2
    let pair := fun r : BitVec 4 => r.toNat % 2 = 0 ∧ r ≠ 0
    (s.cxReady t 0x00 0 → 1 ≤ n → n ≤ 4 →
      Retires (.crc32c t f) s t (th.setD f.rd ((leBytes n b.toNat).foldl (crcByte 0x82F63B78) a))) ∧
    (s.cxReady t 0x01 0 → 1 ≤ n → n ≤ 4 → pair f.rd → f.rs1 = 0 →
      let v : BitVec 64 := (leBytes n b.toNat).foldl (crcByte 0xC96C5795D7870F42) (th.dreg (f.rd + 1) ++ th.dreg f.rd)
      Retires (.crc64 t f) s t ((th.setD f.rd (v.setWidth 32)).setD (f.rd + 1) (v.extractLsb' 32 32))) ∧
    (s.cxReady t 0x02 1 → f.cxc = 0 → pair f.rs1 → ∃ v : Word, Retires (.toep t f) s t (th.setD f.rd v) ∧
      let key : BitVec 64 := th.dreg f.rs1 ++ th.dreg (f.rs1 + 1)
      ∀ j, j < 32 → v.getLsbD j = ((th.dreg f.rd).getLsbD j ^^
        ((List.range 32).foldl (fun x i => x ^^ (b.getLsbD (31 - i) && key.getLsbD (32 - i + j))) false))) ∧
    (s.cxReady t 0x03 1 → f.cxc = 0 → Retires (.symh t f) s t (th.setD f.rd
      ((leBytes 4 (min a.toNat b.toNat) ++ leBytes 4 (max a.toNat b.toNat)).foldl (crcByte 0x82F63B78) (th.dreg f.rd))))

/-- R289, R290, R293: the AES rounds, GHASH and the SHA-256 rounds and schedule write their quads and words. -/
def Claim.CxCiphersAndDigests : Prop :=
  ∀ (s : State) (t : ThreadId) (f : XFields), s.ready t →
    let th := s.thread t
    let quad := fun r : BitVec 4 => r = 4 ∨ r = 8 ∨ r = 12
    let last := f.cxc == 1
    (quad f.rd → quad f.rs1 → f.rs2 = 0 → f.cxc.toNat < 2 →
      (s.cxReady t 0x08 2 → Retires (.aese t f) s t (th.setQuad f.rd
        (let x := shiftRows ((th.quad f.rd).map sbox)
         xorBytes (if last then x else mixColumns x) (th.quad f.rs1)))) ∧
      (s.cxReady t 0x09 2 → Retires (.aesd t f) s t (th.setQuad f.rd
        (let x := xorBytes ((invShiftRows (th.quad f.rd)).map invSbox) (th.quad f.rs1)
         if last then x else invMixColumns x)))) ∧
    (s.cxReady t 0x0A 2 → quad f.rd → quad f.rs1 → quad f.rs2 → f.cxc = 0 →
      Retires (.ghash t f) s t (th.setQuad f.rd (ghash (th.quad f.rd) (th.quad f.rs1) (th.quad f.rs2)))) ∧
    (s.cxReady t 0x0D 3 → f.cxc.toNat < 16 → Retires (.sha256m t f) s t (th.setD f.rd (th.dreg f.rd +
      (let x := th.dreg f.rs1
       x.rotateRight 17 ^^^ x.rotateRight 19 ^^^ x >>> 10) + th.dreg f.rs2 +
      (let x := th.dreg (BitVec.ofNat 4 f.cxc.toNat)
       x.rotateRight 7 ^^^ x.rotateRight 18 ^^^ x >>> 3)))) ∧
    (s.cxReady t 0x0C 3 → quad f.rd → quad f.rs1 → f.rd ≠ f.rs1 → f.rs2.toNat % 2 = 0 → f.rs2 ≠ 0 → f.cxc = 0 →
      f.rs2.toNat / 4 ≠ f.rd.toNat / 4 → f.rs2.toNat / 4 ≠ f.rs1.toNat / 4 → ∃ now, Retires (.sha256r t f) s t now ∧
        let d := fun (x : Thread) (r : BitVec 4) (k : Nat) => x.dreg (r + BitVec.ofNat 4 k)
        let v := shaRound (shaRound ⟨d th f.rd 0, d th f.rd 1, d th f.rd 2, d th f.rd 3, d th f.rs1 0, d th f.rs1 1,
          d th f.rs1 2, d th f.rs1 3⟩ (d th f.rs2 0)) (d th f.rs2 1)
        now = { th with d := now.d } ∧
        (swf 0 th.d = true → [d now f.rd 0, d now f.rd 1, d now f.rd 2, d now f.rd 3, d now f.rs1 0, d now f.rs1 1, d now f.rs1 2,
          d now f.rs1 3] = [v.a, v.b, v.c, v.d, v.e, v.f, v.g, v.h] ∧
          ∀ r : BitVec 4, r.toNat / 4 ≠ f.rd.toNat / 4 → r.toNat / 4 ≠ f.rs1.toNat / 4 → now.dreg r = th.dreg r))

/-- R290, R294: the masked compare reports each mismatching byte; gather and scatter move the bits at the 1 positions of a mask. -/
def Claim.CxCompareGatherScatter : Prop :=
  ∀ (s : State) (t : ThreadId) (f : XFields), s.ready t →
    let th := s.thread t
    let quad := fun r : BitVec 4 => r = 4 ∨ r = 8 ∨ r = 12
    let a := th.dreg f.rs1
    let m := th.dreg f.rs2
    let below := fun i => (List.range i).countP fun k => bitAt m k
    (s.cxReady t 0x10 4 → quad f.rs1 → quad f.rs2 → f.cxc = 4 ∨ f.cxc = 8 ∨ f.cxc = 12 →
      ∃ v : Word, Retires (.mcmp128 t f) s t (th.setD f.rd v) ∧
        let byte := fun (r : BitVec 4) (b : Nat) => (th.dreg (r + BitVec.ofNat 4 (b / 4))).extractLsb' (8 * (b % 4)) 8
        let miss := fun b => byte f.rs1 b &&& byte (f.cxc.setWidth 4) b ≠ byte f.rs2 b &&& byte (f.cxc.setWidth 4) b
        (∀ b, b < 16 → (bitAt v (16 + b) = true ↔ miss b)) ∧ (bitAt v 0 = true ↔ ∀ b, b < 16 → ¬miss b) ∧
        ∀ i, 1 ≤ i → i < 16 → bitAt v i = false) ∧
    (s.cxReady t 0x14 5 → f.cxc = 0 → ∃ v : Word, Retires (.bgath t f) s t (th.setD f.rd v) ∧
      (∀ i, i < 32 → bitAt m i = true → bitAt v (below i) = bitAt a i) ∧ ∀ i, below 32 ≤ i → i < 32 → bitAt v i = false) ∧
    (s.cxReady t 0x15 5 → f.cxc = 0 → ∃ v : Word, Retires (.bscat t f) s t (th.setD f.rd v) ∧
      ∀ i, i < 32 → bitAt v i = (bitAt m i && bitAt a (below i)))

/-- What each CX function computes. -/
def Obligations.CxFunctions : Prop :=
  Claim.CxChecksAndHashes ∧ Claim.CxCiphersAndDigests ∧ Claim.CxCompareGatherScatter

/-- R297, R246: a CX function whose unit is fused off raises CX_ABSENT, and one that CXEN does not enable at the thread's level raises
CX_DENIED, with the instruction word and no other effect. -/
def Claim.CxAbsentAndDenied : Prop :=
  ∀ (s : State) (t : ThreadId) (f : XFields) (code : Nat), s.ready t →
    ∀ x ∈ [(Instr.crc32c t f, 0x00, 0, legalCount f), (.symh t f, 0x03, 1, f.cxc == 0), (.aese t f, 0x08, 2, legalAes f),
        (.aesd t f, 0x09, 2, legalAes f), (.bgath t f, 0x14, 5, f.cxc == 0), (.bscat t f, 0x15, 5, f.cxc == 0)], x.2.2.2 = true →
      let absent := s.variant = .fx ∧ x.2.2.1 = 2
      let enabled := bitAt (s.cxen (coreOf t)) (8 * (s.thread t).level + x.2.2.1)
      (code = if absent then 0x04 else 0x05) → absent ∨ enabled = false →
        Raises x.1 s t code ((XFields.word x.2.1 f).setWidth 48)

/-- R299, R300, R301: a late error of a completed instruction fills the core's log entry, or sets OVERFLOW in a valid one, makes CX_LATE
pending with its detail, and is counted; one of a squashed instruction is only counted. -/
def Claim.CxLateErrors : Prop :=
  ∀ (s : State) (t : ThreadId) (cxf : BitVec 6) (pc : BitVec 17), s.wf →
    let core := coreOf t
    let log := sget CxLog.empty s.cores.cxlog core
    exec (.cxLate t cxf pc true) s = .next (s.count (thrBase (clusterOf t) + 0x4104)) ∧
    ((s.thread t).state ≠ .idle → ∃ u, exec (.cxLate t cxf pc false) s = .next u ∧
      u.counters = (s.count (thrBase (clusterOf t) + 0x4100)).counters ∧
      sget CxLog.empty u.cores.cxlog core = (if log.valid then { log with overflow := true }
        else { valid := true, overflow := false, cxf := cxf, thread := BitVec.ofNat 10 (t.val % 1024), pc := pc, time := s.now }) ∧
      u.thread t = { s.thread t with irqCxLate := some ((s.thread t).irqCxLate.getD
        (BitVec.ofNat 48 (pc.toNat + cxf.toNat * 2 ^ 17 + (if log.valid then 2 ^ 23 else 0)))) } ∧
      (∀ k, k ≠ t.val → u.thread k = s.thread k) ∧ u.mems = s.mems ∧ u.regs = s.regs)

/-- CX functions that are absent or not enabled, and late errors. Where the manual leaves a point open this follows the model's choices: log
entries 16, 38. -/
def Obligations.CxAbsenceDenialAndLateErrors : Prop :=
  Claim.CxAbsentAndDenied ∧ Claim.CxLateErrors

/-- R303, R304, R305, R316, R321: LOCK and TRYLOCK take a free lock, find their own, return BUSY or refuse a cycle, or queue the
request and wait. -/
def Claim.LocksAreTakenOrWaitedFor : Prop :=
  ∀ (s : State) (t : ThreadId) (f : RFields), s.ready t → f.rs2 = 0 → f.aux = 0 → (∀ g ∈ s.lck.unclaimed, g.1 ≠ t.val) →
    let n := ((s.thread t).dreg f.rs1).toNat % 16384
    (sfind s.lck.locks n = none → ∀ i ∈ [Instr.lock t f, .trylock t f], exec i s =
      .next (((s.setLck { s.lck with locks := sins s.lck.locks n { holder := t, waiters := [] } }).count (lckBase + 0x900)).awaiting
        t f.rd 0)) ∧
    (∀ l, sfind s.lck.locks n = some l → l.holder = t.val → ∀ i ∈ [Instr.lock t f, .trylock t f],
      exec i s = .next (s.awaiting t f.rd 0x10000)) ∧
    (∀ l, sfind s.lck.locks n = some l → l.holder ≠ t.val →
      exec (.trylock t f) s = .next (s.awaiting t f.rd 3) ∧
      (closesCycle s t (s.lck.locks.length + 1) l.holder = true →
        exec (.lock t f) s = .next ((s.count (lckBase + 0x90C)).awaiting t f.rd 2)) ∧
      (closesCycle s t (s.lck.locks.length + 1) l.holder = false →
        let w : LckWaiter := { req := t, since := s.now, trumped := false, wd := .none }
        exec (.lock t f) s = .next ((signalInh ((s.setLck { s.lck with
          locks := sins s.lck.locks n { l with waiters := l.waiters ++ [w] } }).count (lckBase + 0x904)) l.holder).waiting
            t (.lock f.rd n))))

/-- R303, R304, R308, R309, R310: UNLOCK by the holder frees the lock or hands it to the chosen waiter, whose LOCK completes with OK; by
any other requester it returns NOT_HOLDER and changes nothing else. -/
def Claim.UnlockHandsOver : Prop :=
  ∀ (s : State) (t : ThreadId) (f : RFields), s.ready t → f.rs2 = 0 → f.aux = 0 → (∀ g ∈ s.lck.unclaimed, g.1 ≠ t.val) →
    let n := ((s.thread t).dreg f.rs1).toNat % 16384
    ((∀ l, sfind s.lck.locks n = some l → l.holder ≠ t.val) →
      exec (.unlock t f) s = .next ((s.count (lckBase + 0x918)).awaiting t f.rd 4)) ∧
    (∀ l, sfind s.lck.locks n = some l → l.holder = t.val →
      (l.waiters = [] → exec (.unlock t f) s =
        .next ((signalInh (s.setLck { s.lck with locks := sdel s.lck.locks n }) t).awaiting t f.rd 0)) ∧
      (∀ w : LckWaiter, chooseWaiter s false l.waiters = some w → w.req ≠ t.val → w.wd ≠ .interrupt →
        (s.thread w.req).state = .wait → ∀ rd, (s.thread w.req).wait = .lock rd n → ∃ u, exec (.unlock t f) s = .next u ∧
          u.thread w.req = { s.thread w.req with state := .run, wait := .none, outstanding := some (.status rd 0 none) } ∧
          u.thread t = { s.thread t with outstanding := some (.status f.rd 0 none) } ∧
          u.lck.locks = sins s.lck.locks n { holder := w.req, waiters := l.waiters.filter fun x => x.req != w.req }))

/-- R308: the waiter chosen is trumped if any is, and otherwise has the highest effective priority; among equals it is the oldest. -/
def Claim.GrantOrder : Prop :=
  ∀ (s : State) (ws : List LckWaiter) (w : LckWaiter), chooseWaiter s false ws = some w → w ∈ ws ∧
    ((∃ x ∈ ws, x.trumped = true) → w.trumped = true ∧ ∀ a b, ws = a ++ w :: b → w ∉ a → ∀ x ∈ a, x.trumped = false) ∧
    ((∀ x ∈ ws, x.trumped = false) → (∀ x ∈ ws, s.ep x.req ≤ s.ep w.req) ∧
      ∀ a b, ws = a ++ w :: b → w ∉ a → ∀ x ∈ a, s.ep x.req < s.ep w.req)

/-- R314: a SEMP that finds an unclaimed grant of its own returns OK and takes no further unit. -/
def Claim.UnclaimedGrantIsTaken : Prop :=
  ∀ (s : State) (t : ThreadId) (f : RFields), s.ready t → f.rs2 = 0 → f.aux.toNat < 2 →
    let n := ((s.thread t).dreg f.rs1).toNat % 4096
    s.lck.unclaimed = [(t.val, n)] → exec (.semp t f) s = .next ((s.setLck { s.lck with unclaimed := [] }).awaiting t f.rd
      (BitVec.ofNat 32 ((s.sem n).count.toNat * 65536)))

/-- LOCK, TRYLOCK and UNLOCK, the order of grants. -/
def Obligations.LocksAreHeldAndHandedOver : Prop :=
  Claim.LocksAreTakenOrWaitedFor ∧ Claim.UnlockHandsOver ∧ Claim.GrantOrder ∧ Claim.UnclaimedGrantIsTaken

/-- R303, R304, R308: SEMP takes a unit, returns BUSY or waits; SEMV gives one to a waiter or to the count, up to 65,535. -/
def Claim.SemaphoresTakeAndGive : Prop :=
  ∀ (s : State) (t : ThreadId) (f : RFields), s.ready t → f.rs2 = 0 → (∀ g ∈ s.lck.unclaimed, g.1 ≠ t.val) →
    let n := ((s.thread t).dreg f.rs1).toNat % 4096
    let v := sget SemSt.empty s.lck.sems n
    let put := fun x => s.setLck { s.lck with sems := sput SemSt.empty s.lck.sems n x }
    (f.aux.toNat < 2 → v.count ≠ 0 → exec (.semp t f) s = .next (((put { v with count := v.count - 1 }).count
      (lckBase + 0x900)).awaiting t f.rd (BitVec.ofNat 32 ((v.count.toNat - 1) * 65536)))) ∧
    (f.aux = 1 → v.count = 0 → exec (.semp t f) s = .next (s.awaiting t f.rd 3)) ∧
    (f.aux = 0 → v.count = 0 →
      let w : LckWaiter := { req := t, since := s.now, trumped := false, wd := .none }
      exec (.semp t f) s = .next (((put { v with waiters := v.waiters ++ [w] }).count (lckBase + 0x904)).waiting t (.sem f.rd n))) ∧
    (f.aux = 0 → v.waiters = [] →
      (v.count = 0xFFFF → exec (.semv t f) s = .next (s.awaiting t f.rd 5)) ∧
      (v.count ≠ 0xFFFF → exec (.semv t f) s =
        .next ((put { v with count := v.count + 1 }).awaiting t f.rd (BitVec.ofNat 32 ((v.count.toNat + 1) * 65536))))) ∧
    (f.aux = 0 → ∀ w, chooseWaiter s s.semFifo v.waiters = some w → exec (.semv t f) s =
      .next ((grantSem s n w).awaiting t f.rd (BitVec.ofNat 32 (v.count.toNat * 65536))))

/-- R308, R309: a waiter whose age reaches TRUMP_AGE is trumped and counted, and a lock's holder is signalled. -/
def Claim.AgedWaitersAreTrumped : Prop :=
  ∀ (s : State) (n : BitVec 14) (req : BitVec 12),
    let aged := fun ws : List LckWaiter => ws.map fun w =>
      if w.req = req.toNat ∧ s.lockTrumpAge ≤ s.elapsed w.since then { w with trumped := true } else w
    (∀ l, sfind s.lck.locks n.toNat = some l → aged l.waiters ≠ l.waiters → exec (.lockTrump false n req) s =
      .next (signalInh ((s.setLck { s.lck with locks := sins s.lck.locks n.toNat { l with waiters := aged l.waiters } }).count
        (lckBase + 0x908)) l.holder)) ∧
    (∀ l, sfind s.lck.locks n.toNat = some l → aged l.waiters = l.waiters → exec (.lockTrump false n req) s = .next s) ∧
    (sfind s.lck.locks n.toNat = none → exec (.lockTrump false n req) s = .next s) ∧
    (let v := s.sem (n.toNat % 4096)
     aged v.waiters ≠ v.waiters → exec (.lockTrump true n req) s =
      .next ((s.setSem (n.toNat % 4096) { v with waiters := aged v.waiters }).count (lckBase + 0x908))) ∧
    (bitAt (s.reg lckBase) 31 = false → s.lockTrumpAge = 10 * (1600 * s.fld lckBase 7 0))

/-- R311, R306: a forced release of a held DATA lock passes it on, logs it, counts it and raises LOCK_FORCED; of a free or a CONFIG lock it
changes only the result.  R313, R314: a withdrawal takes the request out of its queue, with TIMEOUT where the compare ended it. -/
def Claim.ForcedReleaseAndWithdrawal : Prop :=
  ∀ (s : State) (p : Path) (n : BitVec 14) (t : ThreadId),
    let cls := bitAt (s.reg (lckBase + 0x100 + 4 * (n.toNat / 32))) (n.toNat % 32)
    (Path.writes p = true →
      (sfind s.lck.locks n.toNat = none → exec (.lckForce p n) s = .next (s.setLck { s.lck with forceResult := 1 })) ∧
      (∀ l, sfind s.lck.locks n.toNat = some l → cls = true →
        exec (.lckForce p n) s = .next (s.setLck { s.lck with forceResult := 2 })) ∧
      (∀ l, sfind s.lck.locks n.toNat = some l → cls = false →
        let e : FlogEntry := { time := s.now, lock := n.toNat, forcer := Path.requester p, holder := l.holder }
        let passed := passLock s n.toNat l
        exec (.lckForce p n) s = .next ((((passed.setLck { passed.lck with
          flog := sput FlogEntry.empty passed.lck.flog passed.lck.flogIdx e, flogIdx := (passed.lck.flogIdx + 1) % 8,
          forceResult := 0 }).count (lckBase + 0x914)).logEvent 0x50 1
            (evAt 0 n.toNat ||| evAt 2 l.holder ||| evAt 4 (Path.requester p)))))) ∧
    (Path.writes p = false → exec (.lckForce p n) s = .next s) ∧
    (s.lckWithdrawal t = .none → exec (.lockWithdraw t) s = .next s) ∧
    (s.lckWithdrawal t = .interrupt ∨ s.lckWithdrawal t = .deadlock →
      exec (.lockWithdraw t) s = .next (removeRequests s t)) ∧
    (s.lckWithdrawal t = .timeout → exec (.lockWithdraw t) s =
      .next (((endLockWait (removeRequests s t) t 1).count (lckBase + 0x910)).count (thrBase (clusterOf t) + 0x300C))) ∧
    (∀ l, (n.toNat, l) ∈ (removeRequests s t).lck.locks → ∀ w ∈ l.waiters, w.req ≠ t.val)

/-- R323: a write of LCK_SEM_INITn stores it and sets the counts of its two semaphores at once. -/
def Claim.SemaphoreInitSetsCounts : Prop :=
  ∀ (s : State) (p : Path) (n : BitVec 11) (value : Word), s.wf → swf SemSt.empty s.lck.sems = true → Path.writes p = true →
    (s.sem (2 * n.toNat)).waiters = [] → (s.sem (2 * n.toNat + 1)).waiters = [] →
    ∃ u, exec (.semInitWrite p n value) s = .next u ∧ u.reg (lckBase + 0x1000 + 4 * n.toNat) = value ∧
      u.sem (2 * n.toNat) = { s.sem (2 * n.toNat) with count := BitVec.ofNat 16 value.toNat } ∧
      u.sem (2 * n.toNat + 1) = { s.sem (2 * n.toNat + 1) with count := BitVec.ofNat 16 (value.toNat / 2 ^ 16) } ∧
      (∀ k, k ≠ 2 * n.toNat → k ≠ 2 * n.toNat + 1 → u.sem k = s.sem k) ∧
      u = { s with regs := u.regs, lck := { s.lck with sems := u.lck.sems } }

/-- SEMP, SEMV, SEM_INIT, trumped waiters, forced release and withdrawal. -/
def Obligations.SemaphoresAndWithdrawal : Prop :=
  Claim.SemaphoresTakeAndGive ∧ Claim.AgedWaitersAreTrumped ∧ Claim.ForcedReleaseAndWithdrawal ∧
    Claim.SemaphoreInitSetsCounts

/-- R317, R318, R319: an atomic leaves its core for a word of shared SRAM, packet SRAM or HBM; on any other place it raises ACCESS, and
misaligned it raises MISALIGNED. -/
def Claim.AtomicsLeaveTheCore : Prop :=
  ∀ (s : State) (t : ThreadId) (f : RFields), s.ready t → f.rs1.toNat < 8 →
    let th := s.thread t
    let ea := th.areg (f.rs1.setWidth 3)
    let check := checkAccess s t ea 4 true true true
    ∀ x ∈ [(Instr.aaddw t f, AtomicOp.add, decide (f.aux = 0)), (.aswpw t f, .swap, decide (f.aux = 0)),
        (.acasw t f, .cas (th.dreg (f.aux.setWidth 4)), decide (f.aux.toNat < 16)), (.aandw t f, .and, decide (f.aux = 0)),
        (.aorw t f, .or, decide (f.aux = 0))], x.2.2 = true →
      (∀ code, check = .inr code → Raises x.1 s t code ea) ∧
      (∀ off, check = .inl (.scratch off) ∨ check = .inl (.mgmt off) ∨ check = .inl (.window off) → Raises x.1 s t 0x07 ea) ∧
      (∀ off, check = .inl (.shared off) ∨ check = .inl (.pkt off) ∨ check = .inl (.hbm off) →
        Leaves x.1 s t { th with outstanding := some (.atomic f.rd x.2.1 (th.dreg f.rs2) ea) })

/-- R317, R319, R320: an atomic on an SRAM word writes the new value and returns the old one in one step, and is counted; an uncorrectable
error writes nothing and raises LOAD_ECC. -/
def Claim.AtomicsReturnTheOldValue : Prop :=
  ∀ (s : State) (t : ThreadId) (rd : BitVec 4) (op : AtomicOp) (operand : Word) (ea : Addr) (off : Nat) (place : Place),
    let th := s.thread t
    s.wf → th.state = .run → th.stepArmed = false → th.haltReq = false → th.outstanding = some (.atomic rd op operand ea) →
    (region t ea.toNat).map (fun x => x.2.2.2) = some place → place = .shared off ∨ place = .pkt off →
    let old := BitVec.ofNat 32 (readPlace s place 4)
    let new : Word := match op with
      | .add => old + operand
      | .swap => operand
      | .cas w => if old = operand then w else old
      | .and => old &&& operand
      | .or => old ||| operand
    (∃ u, exec (.loadDataReturn t false) s = .next u ∧
      u.thread t = { th.setD rd old with outstanding := none, pc := th.pc + 4, jumpFrom := none } ∧
      Stores s u place 4 new.toNat ∧ u.counters = (s.count (lckBase + 0x91C)).counters ∧
      OnlyThread { s with mems := u.mems, counters := u.counters } u t) ∧
    exec (.loadDataReturn t true) s = .next (takeException (s.setThread t { th with outstanding := none }) t 0x09 th.pc ea)

/-- Atomic instructions leave the core and return the old value. -/
def Obligations.AtomicOperations : Prop :=
  Claim.AtomicsLeaveTheCore ∧ Claim.AtomicsReturnTheOldValue

/-- R330, R332, R333, R338: an allocation load returns FROZEN, NO_FIT, the handle of a buffer of the first candidate that fits, QUOTA or
EMPTY, or waits; the requester is the buffer's only name. -/
def Claim.AllocationLoads : Prop :=
  ∀ (s : State) (t : ThreadId) (u : BitVec 10) (p : BitVec 3) (blocking : Bool) (rt : BitVec 4), s.ready t →
    1 ≤ (s.thread t).level → sfind s.trays.unclaimed t.val = none →
    ∀ x ∈ [(Instr.traysAllocSize t u blocking rt, AllocReq.size (64 * (u.toNat + 1)),
          (if blocking then 0x10000 else 0x11000) + 4 * u.toNat),
        (.traysAllocPool t p blocking rt, .pool p.toNat, (if blocking then 0x12000 else 0x12020) + 4 * p.toNat)],
      let cs := s.candidates x.2.1
      let fit := s.firstFit t cs
      let arrives := fun (v : State) (w : Word) => exec x.1 s = .next (v.awaiting t rt w)
      (s.dev = .frozen → arrives s 0xFFFFFFFA) ∧
      (s.dev ≠ .frozen → cs = [] → arrives s 0xFFFFFFFD) ∧
      (∀ q h v, s.dev ≠ .frozen → fit = some q → s.takeBuffer q = some (h, v) →
        arrives ((v.setTrays { v.trays with bufs := sins v.trays.bufs h (.alloc [t.val] []) }).count (tryBase + 0x900))
          (BitVec.ofNat 32 h)) ∧
      (s.dev ≠ .frozen → cs ≠ [] → fit = none → blocking = false →
        (cs.any (fun q => s.aboveReserve (quotaGroup t) q (s.freeCount q)) = true → arrives s 0xFFFFFFFE) ∧
        (cs.any (fun q => s.aboveReserve (quotaGroup t) q (s.freeCount q)) = false → arrives s 0xFFFFFFFF)) ∧
      (s.dev ≠ .frozen → cs ≠ [] → fit = none → blocking = true →
        exec x.1 s = .next (((s.setTrays { s.trays with waiters := s.trays.waiters ++
          [{ req := t, ask := x.2.1, offset := x.2.2, since := s.now, reported := false, wd := .none }] }).count
            (tryBase + 0x908)).waiting t (.trays rt x.2.1 x.2.2 none)))

/-- R331, R209: every access to the portal by a thread below Supervisor raises ACCESS with its address. -/
def Claim.PortalNeedsSupervisor : Prop :=
  ∀ (s : State) (t : ThreadId) (u : BitVec 10) (p : BitVec 3) (rt : BitVec 4) (whom : BitVec 12) (h : Word), s.ready t →
    (s.thread t).level = 0 →
    ∀ x ∈ [(Instr.traysAllocSize t u true rt, 0x10000 + 4 * u.toNat), (.traysAllocSize t u false rt, 0x11000 + 4 * u.toNat),
        (.traysAllocPool t p true rt, 0x12000 + 4 * p.toNat), (.traysAllocPool t p false rt, 0x12020 + 4 * p.toNat),
        (.free t h, 0x13000), (.give t whom h, 0x14000 + 4 * whom.toNat), (.share t whom h, 0x18000 + 4 * whom.toNat)],
      Raises x.1 s t 0x07 (BitVec.ofNat 48 (0x20000000 + tryBase + x.2))

/-- R338, R339: a long wait is reported once; a withdrawal ends the wait with TIMEOUT or DEADLOCK, or, after an interrupt, leaves the
queue. -/
def Claim.AllocationWaitsEnd : Prop :=
  ∀ (s : State) (t : ThreadId) (w : TryWaiter), (s.trays.waiters.find? fun x => x.req == t.val) = some w →
    let gone := s.setTrays { s.trays with waiters := s.trays.waiters.filter fun x => x.req != t.val }
    (w.reported = true ∨ s.elapsed w.since < s.waitReport → exec (.traysWaitReport t) s = .next s) ∧
    (w.reported = false → s.waitReport ≤ s.elapsed w.since → exec (.traysWaitReport t) s =
      .next ((s.setTrays { s.trays with waiters := s.trays.waiters.map fun x =>
        if x.req = t.val then { x with reported := true } else x }).count (tryBase + 0x90C))) ∧
    (w.wd = .none → exec (.traysWithdraw t) s = .next s) ∧
    (w.wd = .interrupt → exec (.traysWithdraw t) s = .next gone) ∧
    (∀ rd ask off upd, (s.thread t).wait = .trays rd ask off upd → (s.thread t).state = .wait →
      let ended := fun v : Word => gone.setThread t { s.thread t with
        state := .run, wait := .none, outstanding := some (.status rd v upd) }
      (w.wd = .timeout → exec (.traysWithdraw t) s =
        .next ((ended 0xFFFFFFFC).count (thrBase (clusterOf t) + 0x300C))) ∧
      (w.wd = .deadlock → exec (.traysWithdraw t) s = .next (ended 0xFFFFFFFB)))

/-- Allocation loads of Trays, their waits, and the level they need. Where the manual leaves a point open this follows the model's choices:
log entry 32. -/
def Obligations.BuffersAreAllocated : Prop :=
  Claim.AllocationLoads ∧ Claim.PortalNeedsSupervisor ∧ Claim.AllocationWaitsEnd

/-- R340, R341: FREE takes one of the requester's names away, GIVE replaces one, and SHARE adds one; the thread moves on and nothing else
changes. -/
def Claim.OwnersAreNamed : Prop :=
  ∀ (s : State) (t : ThreadId) (h : Word) (whom : BitVec 12) (owners chain : List Nat), s.ready t → 1 ≤ (s.thread t).level →
    sfind s.trays.unclaimed t.val = none → s.badHandle h.toNat = false →
    sfind s.trays.bufs h.toNat = some (.alloc owners chain) → sorted s.trays.bufs = true → t.val ∈ owners →
    let leaves := fun (i : Instr) (now : List Nat) => ∃ u, exec i s = .next u ∧
      u.thread t = { s.thread t with pc := (s.thread t).pc + 4, jumpFrom := none } ∧
      OnlyThread { s with trays := { s.trays with bufs := sins s.trays.bufs h.toNat (.alloc now chain) } } u t
    (owners.erase t.val ≠ [] → leaves (.free t h) (owners.erase t.val)) ∧
    (whom.toNat < 1090 → ∀ a b, owners = a ++ t.val :: b → t.val ∉ a → leaves (.give t whom h) (a ++ whom.toNat :: b)) ∧
    (whom.toNat < 1090 → owners.length < 4 → leaves (.share t whom h) (owners ++ [whom.toNat]))

/-- R340, R333, R337: the FREE that removes the last name returns the buffer, which joins the tail of its pool's free list when no wait can
take it. -/
def Claim.LastFreeReturnsTheBuffer : Prop :=
  ∀ (s : State) (t : ThreadId) (h : Word), s.ready t → 1 ≤ (s.thread t).level → sfind s.trays.unclaimed t.val = none →
    s.badHandle h.toNat = false → sfind s.trays.bufs h.toNat = some (.alloc [t.val] []) → s.trays.waiters = [] →
    bitAt (s.reg tryBase) 31 = false → ∃ u, exec (.free t h) s = .next u ∧
      (let pool := h.toNat / 2 ^ 29
       let f := s.freeList pool
       let f' := { f with back := f.back ++ [h.toNat % 2 ^ 29] }
       u.trays = { s.trays with bufs := sdel s.trays.bufs h.toNat, free := lset s.trays.free pool f' }) ∧
      u.counters = (s.count (tryBase + 0x904)).counters ∧
      u.thread t = { s.thread t with pc := (s.thread t).pc + 4, jumpFrom := none }

/-- R344, R345: a rejected transfer changes no name; it writes its record with the first reason that applies, counts it and raises
TRAYS_REJECT. -/
def Claim.RejectedTransfers : Prop :=
  ∀ (s : State) (op : TryOp) (r h target why : Nat),
    let owners := match sfind s.trays.bufs h with | some (.alloc o _) => o | _ => []
    let reason := if s.badHandle h = true then 4
      else match sfind s.trays.bufs h with
        | some (.cont _) => 3
        | some .lost => 4
        | none => 1
        | some (.alloc _ _) =>
          if r ∉ owners then (if op = .endItem ∨ op = .pktout then 7 else 2)
          else if op ≠ .free ∧ 1090 ≤ target then 6
          else if op = .share ∧ 4 ≤ owners.length then 5 else 0
    reason = why → 0 < why → ∃ u, tryApply s op r h target = (u, false) ∧ u.trays.bufs = s.trays.bufs ∧
      u.trays.elog = sput ElogEntry.empty s.trays.elog s.trays.elogIdx
        { time := s.now, handle := h, req := r, op := op.code, reason := why } ∧
      u.trays.elogIdx = (s.trays.elogIdx + 1) % 16 ∧
      u.counters = (s.count (tryBase + 0x940 + 4 * why)).counters

/-- R346, R347: a reclaim takes every name of a requester away and reports how many buffers it returned; an uncorrectable error in an
ownership entry withdraws the buffer from service, counts it and raises its event. -/
def Claim.ReclaimAndLostBuffers : Prop :=
  ∀ (s : State) (p : Path) (r : BitVec 12) (h : Word),
    (s.answers p = true → Path.writes p = true → r.toNat < 1090 →
      (s.trays.reclaim = none → exec (.tryReclaim p r) s = .next (s.setTrays { s.trays with reclaim := some r.toNat })) ∧
      (s.trays.reclaim ≠ none → exec (.tryReclaim p r) s = .next s)) ∧
    (s.answers p = true → Path.writes p = true → 1090 ≤ r.toNat →
      exec (.tryReclaim p r) s = .next (flagError s errEncoding p (tryBase + 0xC) true)) ∧
    (Path.writes p = false → exec (.tryReclaim p r) s = .next s) ∧
    (s.trays.reclaim = none → exec .traysReclaimed s = .next s) ∧
    (s.trays.reclaim = some r.toNat → ∃ u, exec .traysReclaimed s = .next u ∧ u.trays.reclaim = none ∧
      u.trays.reclaimResult = (((s.trays.bufs.filter fun e => (s.pool (poolOf e.1)).en).foldl (reclaimBuffer r.toNat) (s, 0)).2)) ∧
    (s.badHandle h.toNat = true → exec (.traysEcc h) s = .next s) ∧
    (s.badHandle h.toNat = false → ∃ u, exec (.traysEcc h) s = .next u ∧
      u.trays.bufs = sins s.trays.bufs h.toNat .lost ∧ u.counters = (s.count (tryBase + 0x914)).counters ∧
      ∀ i ∈ (u.freeList (poolOf h.toNat)).front ++ (u.freeList (poolOf h.toNat)).back, poolOf h.toNat < s.trays.free.length →
        i ≠ indexIn h.toNat)

/-- FREE, GIVE, SHARE, rejected transfers, reclaim and lost buffers. -/
def Obligations.BuffersAreOwned : Prop :=
  Claim.OwnersAreNamed ∧ Claim.LastFreeReturnsTheBuffer ∧ Claim.RejectedTransfers ∧ Claim.ReclaimAndLostBuffers

/-- R12, R13, R596: an access to an unmapped offset sets UNMAPPED with its capture, or OVERFLOW beside an earlier flag, and nothing else;
a rejected access of the wrong width or length sets BAD_ACCESS in the same way; only a PCIe request can be one (R589, R590, R599). -/
def Claim.RegisterAccessErrors : Prop :=
  ∀ (s : State) (p : Path) (off : BitVec 26) (write : Bool), s.answers p = true → p ≠ .fabric →
    let capture := fun (o : Nat) => at' (b2n write) 31 ||| at' (pathCode s p % 16) 27 ||| at' o 0
    (s.target p off.toNat = .unmapped →
      exec (.unmappedAccess p off write) s = .next { s with glb :=
        if s.glb.err &&& 3 = 0 then { s.glb with err := s.glb.err ||| 1, errAddr := capture off.toNat }
        else { s.glb with err := s.glb.err ||| 1 ||| 8 } }) ∧
    (s.target p off.toNat ≠ .unmapped → exec (.unmappedAccess p off write) s = .next s) ∧
    (∀ i ∈ [Instr.partialAccess p off write, .oversizeRequest p off write],
      (overPcie p = true → exec i s = .next { s with glb :=
        if s.glb.err &&& 4 = 0 then { s.glb with err := s.glb.err ||| 4, errAcc := capture (off.toNat / 4 * 4) }
        else { s.glb with err := s.glb.err ||| 4 ||| 8 } }) ∧
      (overPcie p = false → exec i s = .next s))

/-- R7, R11, R20, R629: a register write stores the RW bits and acts on the change; a reserved encoding or a broken relation rejects the
whole write and sets BAD_ENCODING; counters, and the expert set while EXPERT_EN is 0 or in SWAP, ignore writes. -/
def Claim.RegisterWritesStoreRwBits : Prop :=
  ∀ (s : State) (p : Path) (off : BitVec 26) (v : Word) (key b : Nat) (r : RegRow), s.answers p = true → p ≠ .fabric →
    s.target p off.toNat = .reg key b r →
    let write := exec (.registerWrite p off v) s
    let m := rwMask b (key - b) r
    let old := s.stored key
    let new := old &&& ~~~m ||| v &&& m
    let bad := r.chk.any (fieldBad (old &&& m) (new &&& m)) || relationBad s (s.putStored key new) b (key - b) old new
    (r.kind = .counter → write = .next s) ∧
    (r.kind = .expert → s.expertOn b = false ∨ s.dev = .swap → write = .next s) ∧
    (r.kind = .plain → writeSpecial s p off.toNat b (key - b) v = none →
      (r.rw = 0 → write = .next s) ∧
      (r.rw ≠ 0 → bad = true → write = .next (flagError s 2 p off.toNat true)) ∧
      (r.rw ≠ 0 → bad = false → b < 0x3000000 → b ≠ timBase →
        write = .next (afterWrite (s.putStored key new) b (key - b) old new)))

/-- Register writes, reserved encodings and access errors. Where the manual leaves a point open this follows the model's choices: log
entries 13, 14, 18, 19, 29. -/
def Obligations.RegisterAccess : Prop :=
  Claim.RegisterAccessErrors ∧ Claim.RegisterWritesStoreRwBits

/-- R596: GLB_SCRATCH holds what any path writes, and nothing else changes. -/
def Claim.ScratchHoldsWhatIsWritten : Prop :=
  ∀ (s : State) (p : Path) (v : Word), s.wf → s.answers p = true → p = .board ∨ (∃ f, p = .pf f) ∨ (∃ k, p = .mc k) →
    ∃ u, exec (.registerWrite p 0x40 v) s = .next u ∧ u.reg 0x40 = v ∧ (regRead u p 0x40).2 = v ∧
      (∀ k, k ≠ 0x40 → u.reg k = s.reg k) ∧ u = { s with regs := u.regs }

/-- R7, R593, R595: a read of a register with RC fields clears them; a read of the lowest part of a value latches the other part for its
path. -/
def Claim.ReadsThatClearOrLatch : Prop :=
  ∀ (s : State) (p : Path) (off : BitVec 26) (key b : Nat) (r : RegRow), s.answers p = true →
    s.target p off.toNat = .reg key b r →
    (r.kind = .clears →
      exec (.rcRead p off) s = .next (clearRead s b (key - b)) ∧
      (b = pwrBase → key = pwrBase + 0x10 → exec (.rcRead p off) s = .next (s.setPwr { s.pwr with tempHigh := 0 })) ∧
      (b = loupeBase → exec (.rcRead p off) s = .next (s.setLoupe { s.loupe with csCe := 0 }))) ∧
    (r.kind ≠ .clears → exec (.rcRead p off) s = .next s) ∧
    (r.kind = .roLow 2 → exec (.latchingRead p off) s = .next (s.setGlb { s.glb with
      latch := sins s.glb.latch (partKey p (key + 4)) (s.valueAt (key + 4)) })) ∧
    (r.kind ≠ .roLow 2 → exec (.latchingRead p off) s = .next s)

/-- R598, R599: GLB_RESET with its key starts a warm reset 10 µs later; any other value is a reserved encoding, and a thread may not write
it at all. -/
def Claim.ResetRegisterNeedsItsKey : Prop :=
  ∀ (s : State) (p : Path) (v : Word), s.answers p = true → p = .board ∨ (∃ f, p = .pf f) ∨ (∃ k, p = .mc k) →
    (v.toNat / 2 ^ 16 = 0xA5C3 → bitAt v 0 = true → s.mgt.warmAt = none →
      exec (.glbReset p v) s = .next (s.setMgt { s.mgt with warmAt := some (s.now + 160000) })) ∧
    (v.toNat / 2 ^ 16 = 0xA5C3 → bitAt v 0 = true → s.mgt.warmAt ≠ none → exec (.glbReset p v) s = .next s) ∧
    (¬(v.toNat / 2 ^ 16 = 0xA5C3 ∧ bitAt v 0 = true) →
      exec (.glbReset p v) s = .next (flagError s 2 p 0x2C true)) ∧
    (∀ t, s.dev ≠ .reset → exec (.glbReset (.thread t) v) s = .next (flagAccess s (.thread t) 0x2C true))

/-- R22, R23, R597: a 1 written to a block's bit of GLB_EXPERT or GLB_EXPERT_THR clears the block's EXPERT_EN and takes its expert values
back; the other blocks keep theirs. -/
def Claim.ExpertValuesAreWithdrawn : Prop :=
  ∀ (s : State) (p : Path) (v : Word), s.wf → s.answers p = true → p = .board ∨ (∃ f, p = .pf f) ∨ (∃ k, p = .mc k) →
    ∃ u w, exec (.glbExpert p v) s = .next u ∧ exec (.glbExpertThr p v) s = .next w ∧
      (bitAt v 11 = true → u.expertOn lckBase = false ∧ (s.expertOn lckBase = true → u.reg (lckBase + 0x40) = 0)) ∧
      (∀ c, c < 17 → bitAt v c = true → w.expertOn (thrBase c) = false ∧
        (s.expertOn (thrBase c) = true → w.reg (thrBase c + 0x40) = 0)) ∧
      (v = 0 → u = s ∧ w = s) ∧ u = { s with regs := u.regs } ∧ w = { s with regs := w.regs }

/-- GLB_SCRATCH, reads that clear or latch, GLB_RESET and expert values. Where the manual leaves a point open this follows the model's
choices: log entries 13, 25, 26, 30. -/
def Obligations.RegisterSideEffects : Prop :=
  Claim.ScratchHoldsWhatIsWritten ∧ Claim.ReadsThatClearOrLatch ∧ Claim.ResetRegisterNeedsItsKey ∧
    Claim.ExpertValuesAreWithdrawn

/-- R63: the timers of the synchronisation states, and what each does; nothing but the timebase changes, beside the count of lost
parents and the event of R487. -/
def Claim.SynchronisationTimers : Prop :=
  ∀ s : State,
    (s.tim.st = .unsync → s.mayLead = true → usFtu 1000 ≤ s.elapsed s.tim.quiet → Leads .electTimeout s) ∧
    (∀ t, s.tim.st = .locked → s.mayLead = true → s.tim.lower = some t → usFtu 1000 ≤ s.elapsed t → Leads .masterTakeover s) ∧
    (s.tim.st = .holdover → s.mayLead = true → s.lowestHeard = true → usFtu 1000 ≤ s.elapsed s.tim.since →
      Leads .holdoverTimeout s) ∧
    (s.tim.st = .acquire → 16 ≤ s.tim.good → Does .acquireLock s fun u => u.tim.st = .locked ∧ u.tim.parent = s.tim.parent ∧
      u.tim.master = s.tim.master ∧ u.tim.count = s.tim.count ∧ u.gateOpen = true ∧ u = { s with tim := u.tim }) ∧
    (s.tim.st = .acquire → usFtu 10 ≤ s.elapsed s.tim.parentAt → Does .acquireTimeout s fun u => u.tim.st = .unsync ∧
      u.tim.parent = none ∧ u.tim.count = s.tim.count ∧ u = { s with tim := u.tim }) ∧
    (s.tim.st = .locked → usFtu 10 ≤ s.elapsed s.tim.parentAt →
      (∀ m q h, s.tim.master = some m → s.bestParent m = some (q, h) → Does .parentLossTimeout s fun u =>
        u.tim.st = .locked ∧ u.tim.parent = some q ∧ u.tim.hops = h + 1 ∧ u.tim.count = s.tim.count ∧
        u = { s.count (timBase + 0x36) with tim := u.tim }) ∧
      (s.tim.master.bind s.bestParent = none → Does .parentLossTimeout s fun u => u.tim.st = .holdover ∧ u.tim.parent = none ∧
        u.tim.incr = s.tim.incr ∧ u.tim.count = s.tim.count ∧ u = { s.count (timBase + 0x36) with tim := u.tim }))

/-- R63, R66: a write of TIM_CTRL changes ROLE, by which a master gives its role up; the three writes of TIM_TAI_OFFSET set the offset
as one value and raise its generation, but not on a follower. -/
def Claim.RoleAndTaiWrites : Prop :=
  ∀ (s : State) (p : Path) (v : Word), s.wf → s.answers p = true → Path.manages p →
    (bits v 1 0 < 3 → bits v 3 2 < 3 → Does (.roleWrite p v) s fun u =>
      u.role = bits v 1 0 ∧ u.tim.count = s.tim.count ∧
      u.tim.st = (if s.tim.st = .master ∧ bits v 1 0 = 0 then .holdover else if s.tim.st = .master ∧ bits v 1 0 = 2 then .free
        else s.tim.st)) ∧
    (s.role < 3 → s.fld timBase 3 2 < 3 → bits v 1 0 = 3 ∨ bits v 3 2 = 3 → exec (.roleWrite p v) s = .next (flagError s 2 p timBase true)) ∧
    (s.follower = true → exec (.taiOffsetWrite p v) s = .next s) ∧
    (s.follower = false → Does (.taiOffsetWrite p v) s fun u =>
      u.tim.taiOffset = v ++ s.partFor p (timBase + 0x14) ++ s.partFor p (timBase + 0x10) ∧
      u.tim.taiGen = s.tim.taiGen + 1 ∧ u.tim.count = s.tim.count ∧ u.tim.st = s.tim.st ∧
      u = { s with tim := u.tim, glb := { s.glb with pend := u.glb.pend } })

/-- R67, R65, R581: PPS_OUT rises at each whole TAI second while it is enabled, and at no other time; the loss of TIMEREF_10M is
counted, and the reference is used again after 1 ms of valid edges. -/
def Claim.SecondsAndReference : Prop :=
  ∀ s : State,
    let sec := s.taiOf s.nowN / 16000000000
    (s.ppsEnabled = true → s.tim.ppsNext ≤ sec → Does .ppsOutEdge s fun u =>
      u.tim = { s.tim with ppsNext := sec + 1, ppsRise := u.tim.ppsRise } ∧
      (∃ e : Time, u.tim.ppsRise = some e ∧ u.sent = .pps e :: s.sent ∧
        (e.toNat + s.tim.taiOffset.toNat) % 2 ^ 64 = sec * 16000000000 % 2 ^ 64) ∧
      u = { s with tim := u.tim, sent := u.sent }) ∧
    (¬(s.ppsEnabled = true ∧ s.tim.ppsNext ≤ sec) → exec .ppsOutEdge s = .next s) ∧
    (s.pwr.timerefOk = true → exec .timerefLoss s =
      .next (({ s with pwr := { s.pwr with timerefOk := false, timerefSince := s.now } } : State).count (pwrBase + 0xA28))) ∧
    (s.dev ≠ .reset → s.pwr.timerefOk = false → usFtu 1000 ≤ s.elapsed s.pwr.timerefSince →
      Does .timerefRestore s fun u => u.pwr = { s.pwr with timerefOk := true } ∧ u.tim.count = s.tim.count ∧
        (s.tim.st ≠ .master ∨ s.fld timBase 3 2 ≠ 1 → u = { s with pwr := u.pwr }) ∧
        (u.tim.incr = s.tim.incr ∨ (nominalIncr ≤ u.tim.incr.toNat + nominalIncr * s.slewMax / 1000000 ∧
          u.tim.incr.toNat ≤ nominalIncr + nominalIncr * s.slewMax / 1000000)))

/-- R60, R64, R394: the sync words that a port in UP sends, no closer than their intervals: SYNC_T with its sequence number and two
timestamps, SYNC_A with the candidate tuple and the master's, SYNC_TAI with the generation and the offset. -/
def Claim.SyncWordsSent : Prop :=
  ∀ (s : State) (p : Fin 4), (s.rport p).link = .up →
    let x := s.syncPort p
    let m := if s.tim.st = .master then s.ownTuple else s.tim.master.getD (0, 0)
    let rx : Time := match x.rx with | some r => r.2 | none => 0
    (s.intervalOver 1 x.sentAt = true → Does (.syncTSend p) s fun u =>
      u.sent = .word p (ctlWord 0x08 ([BitVec.ofNat 8 x.txSeq.toNat] ++ beBytes 8 (x.sentAt.getD 0).toNat ++
        beBytes 8 rx.toNat)) :: s.sent ∧
      u.tim.ports = lset s.tim.ports p { x with txSeq := x.txSeq + 1, sentAt := some (s.stamp (38 + p) s.now).1 } ∧
      u.tim.points = sput 0 s.tim.points (38 + p) (s.stamp (38 + p) s.now).1 ∧
      u = { s with tim := { s.tim with ports := u.tim.ports, points := u.tim.points }, sent := u.sent }) ∧
    (s.intervalOver 1 x.lastA = true → exec (.syncASend p) s =
      .next { s with
        tim := { s.tim with ports := lset s.tim.ports p { x with lastA := some s.now } }
        sent := .word p (ctlWord 0x09 ([BitVec.ofNat 8 s.ownTuple.1] ++ beBytes 2 s.ownNode ++ [BitVec.ofNat 8 m.1] ++
          beBytes 2 m.2 ++ [BitVec.ofNat 8 s.tim.hops] ++ beBytes 2 s.systemId ++ beBytes 2 s.tim.taiGen.toNat ++
          [BitVec.ofNat 8 s.tim.st.code, BitVec.ofNat 8 (s.breakNotice p)])) :: s.sent }) ∧
    (s.intervalOver 10 x.lastTai = true → exec (.syncTaiSend p) s =
      .next { s with
        tim := { s.tim with ports := lset s.tim.ports p { x with lastTai := some s.now } }
        sent := .word p (ctlWord 0x0A (beBytes 2 s.tim.taiGen.toNat ++ beBytes 12 s.tim.taiOffset.toNat)) :: s.sent })

/-- R54, R60, R63, R64: a port in UP hears sync words.  FREE ignores them; a node in UNSYNC follows the master that a SYNC_A names; a
follower copies TAI from its parent; the pair of SYNC_T words gives delay and offset by the four timestamps. -/
def Claim.SyncWordsHeard : Prop :=
  ∀ (s : State) (p : Fin 4) (w : BitVec 136),
    let s0 := s.setRport p { s.rport p with uncorr := 0 }
    let x := s0.syncPort p
    let a := parseSyncA w
    let heard := setSyncPort s0 p { x with heard := some a, heardAt := s0.now }
    let t1 := wordBytes w 2 8
    let t4 := wordBytes w 10 8
    ((s.rport p).link ≠ .up → ∀ i ∈ [Instr.syncT p w, .syncA p w, .syncTai p w], exec i s = .next s) ∧
    ((s.rport p).link = .up → s.tim.st = .free → wordByte w 13 < 128 →
      ∀ i ∈ [Instr.syncT p w, .syncA p w, .syncTai p w], exec i s = .next s0) ∧
    ((s.rport p).link = .up → wordByte w 13 < 128 → s.tim.st = .unsync → 1 ≤ a.sync → a.sync ≤ 4 → s.tim.parent = none →
      ∀ q h, heard.bestParent (a.masterPrio, a.master) = some (q, h) → Does (.syncA p w) s fun u =>
        u.tim.st = .acquire ∧ u.tim.master = some (a.masterPrio, a.master) ∧ u.tim.parent = some q ∧ u.tim.hops = h + 1 ∧
        u.ring = s0.ring ∧ u = { s0 with tim := u.tim }) ∧
    ((s.rport p).link = .up → s.tim.parent = some p.val → s.tim.st = .acquire ∨ s.tim.st = .locked →
      Does (.syncTai p w) s fun u => u.tim.taiGen = BitVec.ofNat 16 (wordBytes w 1 2) ∧
        u.tim.taiOffset = BitVec.ofNat 96 (wordBytes w 3 12) ∧ u.tim.count = s.tim.count ∧ u = { s0 with tim := u.tim }) ∧
    ((s.rport p).link = .up → s.tim.st ≠ .free → s.tim.parent ≠ some p.val → ∀ seq t2 t3, x.rx = some (seq, t2) →
      x.sentAt = some t3 → BitVec.ofNat 8 (wordByte w 1) = seq + 1 → Does (.syncT p w) s fun u =>
        let b1 : Int := (t1 : Int) - t2.toNat
        let b2 : Int := (t4 : Int) - t3.toNat
        let arrived := setSyncPort s0 p { x with rx := some (BitVec.ofNat 8 (wordByte w 1), (s.stamp (34 + p) s.now).1) }
        u.tim.ports = lset arrived.tim.ports p
          { arrived.syncPort p with offset := some (8 * (b1 + b2) + s.asym p), delay := 8 * (b2 - b1) } ∧
        u.tim.count = s.tim.count ∧ u = { s0 with tim := { s.tim with ports := u.tim.ports, points := u.tim.points } })

/-- Synchronisation states, TAI, PPS and the sync words. Where the manual leaves a point open this follows the model's choices: log entries
40, 41, 42, 43. -/
def Obligations.TimebaseAndSynchronisation : Prop :=
  Claim.SynchronisationTimers ∧ Claim.RoleAndTaiWrites ∧ Claim.SecondsAndReference ∧ Claim.SyncWordsSent ∧
    Claim.SyncWordsHeard

/-- R480, R481, R482, R490: a link goes through its stages: a write of ETH_Pp_CFG starts or stops it, auto-negotiation, training and
alignment move it on with their events, and faults debounced by DOWN_DEB take it down. -/
def Claim.LinksComeUpInStages : Prop :=
  ∀ (s : State) (p : Fin 16),
    let v := s.ethPort p
    let enter := fun (st : EthState) => s.setEthPort p { v with st := st, since := s.now, fault := none }
    let first := if s.ethMedia p = 2 then EthState.align else if s.ethAn p = true then .an else .train
    (v.st = .an → exec (.autoNegotiation p true) s = .next (enter .train) ∧
      exec (.autoNegotiation p false) s = .next ((enter .an).logEvent 0x72 1 (evAt 0 p))) ∧
    (v.st = .train → exec (.trainDone p) s = .next (enter .align)) ∧
    (v.st = .train → usFtu s.trainLimit ≤ s.elapsed v.since →
      exec (.trainLimitExpire p) s = .next ((enter first).logEvent 0x73 1 (evAt 0 p))) ∧
    (∀ t, v.st = .align → v.aligned = some t → usFtu s.upDeb ≤ s.elapsed (laterOf t v.since) → s.ethLoop p ≠ 3 →
      exec (.upDebExpire p) s = .next ((swtLinkUp (s.setEthPort p { v with
        st := .up, since := s.now, fault := if v.lfault = true ∨ v.rfault = true then some s.now else none }) p).logEvent 0x70 0 (evAt 0 p))) ∧
    (∀ aligned loc rem : Bool, s.portActive p = true → exec (.ethLinkFault p aligned loc rem) s =
      .next (s.setEthPort p { v with
        aligned := if aligned = true then some (v.aligned.getD s.now) else none
        lfault := loc
        rfault := rem
        fault := if v.st = .up ∧ (aligned = false ∨ loc = true ∨ rem = true) then some (v.fault.getD s.now) else none })) ∧
    (∀ t, v.st = .up → v.fault = some t → usFtu s.downDeb ≤ s.elapsed t → s.ethLoop p ≠ 1 →
      exec (.downDebExpire p) s =
        .next ((swtLinkDown ((enter first).count (ethCnt p 0x3C)) p false).logEvent 0x71 1 (evAt 0 p)))

/-- R481: a write of ETH_Pp_CFG that sets EN starts the link of a disabled port in RUN and SWAP; one that clears EN disables it; and
DISABLED with MEDIA 2 and AN set is refused (R480, R11). -/
def Claim.PortConfigurationWrites : Prop :=
  ∀ (s : State) (p : Path) (q : Fin 16) (v : Word), s.wf → s.answers p = true → Path.manages p → s.portActive q = true →
    let key := ethBase + 0x100 + 0x40 * q
    let old := s.reg key
    let m : Word := 0xFC003FFF
    let w := s.setReg key (old &&& ~~~m ||| v &&& m)
    let stage := fun (st : EthState) => w.setEthPort q { s.ethPort q with st := st, since := s.now, fault := none }
    let first := if bits v 30 29 = 2 then EthState.align else if bitAt v 28 = true then .an else .train
    (bits v 30 29 < 3 → 64 ≤ bits v 13 0 → ¬(bits v 30 29 = 2 ∧ bitAt v 28 = true) →
      (bitAt v 31 = true → bits v 27 26 = bits old 27 26 → bits v 27 26 ≠ 1 → (s.ethPort q).st = .disabled →
        s.dev = .run ∨ s.dev = .swap → exec (.ethPortCfgWrite p q v) s = .next (stage first)) ∧
      (bitAt v 31 = false → bitAt old 31 = true → (s.swtOut q).st = .down →
        exec (.ethPortCfgWrite p q v) s = .next (stage .disabled)) ∧
      (bitAt v 31 = false → bitAt old 31 = false → bits v 27 26 = bits old 27 26 →
        exec (.ethPortCfgWrite p q v) s = .next w)) ∧
    (bits old 30 29 < 3 → bits v 30 29 = 3 → exec (.ethPortCfgWrite p q v) s = .next (flagError s 2 p key true))

/-- R485, R488, R489: PFC frames go out for the priorities whose XOFF has changed, and again while any is held; a received one pauses a
priority for its quanta; a read of the timestamp queue takes its first entry. -/
def Claim.FlowControlAndTimestampQueue : Prop :=
  ∀ (s : State) (p : Fin 16),
    let v := s.ethPort p
    let want := s.wantHeld p
    let q := s.fld (ethBase + 0x100 + 0x40 * p + 8) 31 16
    let sends := fun (i : Instr) (which hold : BitVec 8) => Does i s fun u => ∃ src : List Byte, src.length = 6 ∧
      u.sent = .eth p ([0x01, 0x80, 0xC2, 0x00, 0x00, 0x01] ++ src ++ [0x88, 0x08, 0x01, 0x01] ++ beBytes 2 which.toNat ++
        ((List.range 8).flatMap fun k => beBytes 2 (if which.getLsbD k = true ∧ hold.getLsbD k = true then q else 0)) ++
        List.replicate 26 0) false :: s.sent ∧
      u.eth = (s.setEthPort p { v with held := hold, pfcAt := s.now }).eth ∧
      u = { s.count (ethCnt p 0x30) with eth := u.eth, sent := u.sent, freeCtr := s.freeCtr + 1 }
    (s.macReady p = true → (s.swtOut p).tx = none →
      (want ≠ v.held → sends (.pfcSend p) (want ^^^ v.held) want) ∧
      (v.held ≠ 0 → s.quantaFtu p q ≤ 2 * s.elapsed v.pfcAt → sends (.pfcRefresh p) v.held v.held)) ∧
    (∀ (f : List Byte) (k : Fin 8), s.hearsWire p = true → s.ethLoop p = 0 → be16 f 12 = 0x8808 → be16 f 14 = 0x0101 →
      s.ethReject p f v.fault.isNone = none → (f.getD 17 0).toNat = 2 ^ k.val →
      (s.fld (ethBase + 0x100 + 0x40 * p + 8) 7 0).testBit k = true → Does (.pfcRx p f) s fun u =>
        let n := be16 f (18 + 2 * k)
        let till := if n = 0 then 0 else s.now + BitVec.ofNat 64 (nsFtu 60 + s.quantaFtu p n)
        u.eth = (s.setEthPort p { v with paused := sput 0 v.paused k till }).eth ∧
        u.counters = (((s.count (ethCnt p 0)).countN (ethCnt p 4) f.length).count (ethCnt p 0x1C)).counters ∧
        u = { s with eth := u.eth, counters := u.counters, swt := { s.swt with queues := u.swt.queues } }) ∧
    (∀ k : Fin 8, s.pausedBy p k = false →
      exec (.pfcPauseExpire p k) s = .next (s.setEthPort p { v with paused := sput 0 v.paused k 0 })) ∧
    (∀ m : Path, s.answers m = true → Path.manages m → s.portActive p = true →
      (v.tsq = [] → exec (.tsqRead m p) s = .next s) ∧
      (∀ e r, v.tsq = e :: r → exec (.tsqRead m p) s = .next (s.setEthPort p { v with tsq := r, tsqTime := e.1 })))

/-- R62, R478: a frame from the wire is counted; the first check that fails drops it with its own count; a good one is admitted to packet
buffer SRAM with its timestamp and goes on to the Loupe. -/
def Claim.ReceivedFramesAreChecked : Prop :=
  ∀ (s : State) (p : Fin 16) (f : List Byte) (good : Bool), s.hearsWire p = true → s.ethLoop p = 0 →
    let s1 := (s.count (ethCnt p 0)).countN (ethCnt p 4) f.length
    let drops := fun (off : Nat) => exec (.ethRxFrame p f good) s = .next (s1.count (ethCnt p off))
    let sound := good = true ∧ (s.ethPort p).fault = none
    (s.dev = .frozen → drops 0x08) ∧
    (s.dev ≠ .frozen → s.gateOpen = false → drops 0x0C) ∧
    (s.dev ≠ .frozen → s.gateOpen = true → ¬sound → drops 0x10) ∧
    (s.dev ≠ .frozen → s.gateOpen = true → sound → f.length < 60 → drops 0x14) ∧
    (s.dev ≠ .frozen → s.gateOpen = true → sound → 60 ≤ f.length → s.ethMaxFrame p < f.length → drops 0x18) ∧
    (s.dev ≠ .frozen → s.gateOpen = true → sound → 60 ≤ f.length → f.length ≤ s.ethMaxFrame p →
      (be16 f 12 = 0x8808 → be16 f 14 ≠ 0x0101 → drops 0x20) ∧
      (be16 f 12 ≠ 0x8808 → s.slaveSync p f = false →
        let t := (s.stamp p s.now).1
        let s2 := (s1.stamp p s.now).2
        let k : Pkt := { Pkt.none with
          input := p, prio := s.ethPrio p f, ots := t, arrival := t, node := BitVec.ofNat 14 s.ownNode,
          sport := BitVec.ofNat 5 p, port := BitVec.ofNat 5 p, held := s.heldFrom t }
        (∀ s3 h, admitPacket s2 k (s.admitPool 0) f = (s3, some h) → exec (.ethRxFrame p f good) s = .next (offerLoupe s3 h)) ∧
        (∀ s3, admitPacket s2 k (s.admitPool 0) f = (s3, none) → exec (.ethRxFrame p f good) s = .next s3)))

/-- Ethernet links, configuration, flow control and received frames. Where the manual leaves a point open this follows the model's choices:
log entries 45, 63, 64, 65, 66. -/
def Obligations.EthernetPorts : Prop :=
  Claim.LinksComeUpInStages ∧ Claim.PortConfigurationWrites ∧ Claim.FlowControlAndTimestampQueue ∧
    Claim.ReceivedFramesAreChecked

/-- R358, R359, R360, R367: a copy that passes its checks goes to the tail of its queue and is counted; a refused one is dropped with the
reason of the first check that fails. -/
def Claim.CopiesAreEnqueued : Prop :=
  ∀ (s : State) (n : Nat) (x : RelState) (o : BitVec 64), s.oldestRelease = some (n, x) → x.todo = [o] → 0 < x.live →
    let len := copyLen o x.r.len
    let s0 := s.swtSet { s.swt with rels := sins s.swt.rels n { x with todo := [] } }
    (s.queueFor o x.r.klass.toNat = none → exec .swtEnqueue s = .next (s0.count (swtBase + 0xC4C))) ∧
    (∀ q out route, s.queueFor o x.r.klass.toNat = some (q, out, route) →
      let dropped := fun (r : Nat) => exec .swtEnqueue s = .next (countQueue (s0.count (swtBase + 0xC40 + 4 * r)) q 4 len)
      let v := s.squeue q
      let ctl := s.reg (s.redOff q)
      let avg := avgAfter v.avg v.depth (bits ctl 27 24)
      let s1 := s0.setSqueue q { v with avg := avg }
      (s.outActive out = false ∨ s.nodeEn .queue q = false → dropped 3) ∧
      (s.outActive out = true → s.nodeEn .queue q = true → s.outMtu out < len → dropped 9) ∧
      (s.outActive out = true → s.nodeEn .queue q = true → len ≤ s.outMtu out →
        (out < 16 → (s.swtOut out).st = .down →
          exec .swtEnqueue s = .next (countQueue (s1.count (swtBase + 0xC5C)) q 4 len)) ∧
        (¬(out < 16 ∧ (s.swtOut out).st = .down) → bits ctl 19 0 * 1024 < v.depth + len →
          exec .swtEnqueue s = .next (countQueue (s1.count (swtBase + 0xC54)) q 4 len)) ∧
        (¬(out < 16 ∧ (s.swtOut out).st = .down) → v.depth + len ≤ bits ctl 19 0 * 1024 → s.dev ≠ .frozen →
          avg / 256 < bits (s.reg (s.redOff q + 4 + 8 * x.r.colour.toNat)) 19 0 →
          Does .swtEnqueue s fun u =>
            let c : SwtCopy :=
              { rel := n, out := o, len := len, since := s.now, ce := false, bad := false, route := route, queue := q }
            let w := s1.squeue q
            u.swt.queues = sput SwtQueue.empty s1.swt.queues q { w with frames := w.frames ++ [c], depth := w.depth + len } ∧
            sfind u.swt.rels n = some { x with todo := [], live := x.live + 1 } ∧
            u.swt.outs = s.swt.outs ∧ u.swt.lfsr = s.swt.lfsr ∧ u.swt.occ = s.swt.occ ∧
            u = { s.count (swtBase + 0xC00) with swt := u.swt })))

/-- R359, R369, R376, R380, R512: an output that can start a frame takes the head of the queue that the scheduler selects; when the
frame has left an Ethernet port, the port is free and the release has one copy less; a failed buffer read marks the frame. -/
def Claim.OutputsSendTheSelectedCopy : Prop :=
  ∀ (s : State) (o : Fin 22),
    (∀ p c r x, s.canStart o = true → s.busyQueues o ≠ [] → s.pickQueue o = some p → (s.squeue p.queue).frames = c :: r →
      s.tooOld p.queue c = false → s.dev ≠ .frozen → sfind s.swt.rels c.rel = some x → o.val < 18 → Does (.swtDequeue o) s fun u =>
        let v := s.squeue p.queue
        u.swt.queues = sput SwtQueue.empty s.swt.queues p.queue
          { v with frames := r, depth := v.depth - c.len, trumped := v.trumped && s.headAged r } ∧
        u.swt.outs = sput SwtOut.reset s.swt.outs o { s.swtOut o with tx := some c, start := s.now } ∧
        u = { s with swt := { s.swt with queues := u.swt.queues, outs := u.swt.outs, nodes := u.swt.nodes } }) ∧
    (∀ c x, (s.swtOut o).tx = some c → outDtype c.out ≠ 2 → o.val < 16 → sfind s.swt.rels c.rel = some x →
      2 ≤ x.live ∨ x.todo ≠ [] → s.ethLoop o = 0 ∨ s.ethLoop o = 3 → s.ptpEvent o (s.copyBytes c ++ List.replicate (60 - (s.copyBytes c).length) 0) = none →
      Does (.swtTxDone o) s fun u =>
        let f := s.copyBytes c ++ List.replicate (60 - (s.copyBytes c).length) 0
        let counted := ((s.count (swtBase + 0xC04)).count (ethCnt o 0x24)).countN (ethCnt o 0x28) f.length
        u.sent = .eth o f c.bad :: s.sent ∧
        u.swt.outs = sput SwtOut.reset s.swt.outs o { s.swtOut o with tx := none } ∧
        sfind u.swt.rels c.rel = some { x with live := x.live - 1 } ∧ u.swt.queues = s.swt.queues ∧
        u.counters = (if c.bad = true then counted.count (ethCnt o 0x2C) else counted).counters ∧
        u = { s with swt := u.swt, counters := u.counters, sent := u.sent }) ∧
    (∀ c, (s.swtOut o).tx = some c → c.bad = false → exec (.swtTxEcc o) s =
      .next ((s.setSwtOut o { s.swtOut o with tx := some { c with bad := true } }).count (swtBase + 0xC10))) ∧
    (∀ c, (s.swtOut o).tx = some c → c.bad = true → exec (.swtTxEcc o) s = .next s) ∧
    ((s.swtOut o).tx = none → exec (.swtTxEcc o) s = .next s ∧ exec (.swtTxDone o) s = .next s)

/-- R375, R378, R381: a head that has waited for TRUMP_AGE trumps its eligible queue; a flush drops every frame of a queue with reason
FLUSH; a hold that expires leaves the output DOWN and flushes its queues. -/
def Claim.QueuesTrumpFlushAndGoDown : Prop :=
  ∀ (s : State) (q : BitVec 15) (p : Path) (o : Fin 16),
    let v := s.squeue q.toNat
    (s.eligible q.toNat = true → v.trumped = false → s.headAged v.frames = true → exec (.swtQueueTrump q) s =
      .next ((s.setSqueue q.toNat { v with trumped := true }).count (swtBase + 0xC08))) ∧
    (s.answers p = true → Path.manages p →
      (v.frames = [] → exec (.swtQflush p q) s = .next (s.setSqueue q.toNat { v with frames := [], depth := 0, trumped := false })) ∧
      (∀ c x, v.frames = [c] → sfind s.swt.rels c.rel = some x → 2 ≤ x.live ∨ x.todo ≠ [] → Does (.swtQflush p q) s fun u =>
        u.swt.queues = sput SwtQueue.empty s.swt.queues q.toNat { v with frames := [], depth := 0, trumped := false } ∧
        sfind u.swt.rels c.rel = some { x with live := x.live - 1 } ∧
        u = { s.count (swtBase + 0xC60) with swt := { s.swt with
          queues := u.swt.queues, rels := u.swt.rels, qcounts := u.swt.qcounts } })) ∧
    ((s.swtOut o).st = .hold → usFtu (100 * s.fld (swtBase + 0x104 + 8 * o) 9 0) ≤ s.elapsed (s.swtOut o).holdSince →
      exec (.swtHoldExpire o) s = .next (flushOutput (s.setSwtOut o { s.swtOut o with st := .down }) o 7) ∧
      (s.busyQueues o = [] → exec (.swtHoldExpire o) s = .next (s.setSwtOut o { s.swtOut o with st := .down }))) ∧
    ((s.swtOut o).st ≠ .hold → exec (.swtHoldExpire o) s = .next s)

/-- Switch copies, selected outputs, trumped and flushed queues. Where the manual leaves a point open this follows the model's choices: log
entries 50, 51, 52, 53, 54. -/
def Obligations.SwitchQueues : Prop :=
  Claim.CopiesAreEnqueued ∧ Claim.OutputsSendTheSelectedCopy ∧ Claim.QueuesTrumpFlushAndGoDown

/-- R173, R183, R188, R189, R194, R199: an item from the classifier joins the ready list of its GROUP and PRIO; a bad group or program
sends it to the slow-path list instead; a group whose occupancy reaches HIGH stops. -/
def Claim.ItemsJoinTheirLists : Prop :=
  ∀ (s : State) (x : DlrItem) (rest : List DlrItem), s.dlr.inbox = x :: rest →
    (x.slow = false → s.emptyGroup x.group = false → s.validProgram x.prog = true → Does .dlrItemArrive s fun u =>
      let y := { x with since := s.now, seq := s.dlr.nextSeq }
      let k := 16 * x.group + x.prio
      u.dlr = { s.dlr with inbox := rest, nextSeq := s.dlr.nextSeq + 1, ready := sput [] s.dlr.ready k (sget [] s.dlr.ready k ++ [y]), stop := u.dlr.stop } ∧
      (32768 ≤ u.storeUsed → u.dlr.stop = 0xFFFF) ∧
      (u.storeUsed < 32768 → 1 ≤ u.occupancy x.group → u.highMark x.group ≤ u.occupancy x.group →
        u.dlr.stop = s.dlr.stop ||| BitVec.ofNat 16 (2 ^ x.group)) ∧
      (u.storeUsed < 32768 → u.occupancy x.group < u.highMark x.group → u.dlr.stop = s.dlr.stop) ∧
      u = { s with dlr := u.dlr }) ∧
    (x.slow = false → s.emptyGroup x.group = true ∨ s.validProgram x.prog = false → s.slowInvalid = false → s.slowFull = false →
      Does .dlrItemArrive s fun u => ∃ y : DlrItem, u.dlr =
          { s.dlr with inbox := rest, nextSeq := s.dlr.nextSeq + 1, slow := s.dlr.slow ++ [y] } ∧
        y.slow = true ∧ y.since = s.now ∧ y.att = x.att ∧
        (16 ≤ x.w.length → y.group = s.fld (dlrBase + 8) 31 28 ∧ y.prio = s.fld (dlrBase + 8) 27 24 ∧
          y.prog = s.fld (dlrBase + 8) 23 16 ∧ y.kind = 1 ∧
          bits (wordOf y.w 6) 23 20 = if s.emptyGroup x.group = true then 2 else 1) ∧
        u = { (s.count (dlrBase + 0x914)).count (dlrBase + 0x90C) with dlr := u.dlr })

/-- R176, R180, R182, R184, R214: a dispatch hands the first item of the chosen list to the chosen thread, which starts at its program's
entry with the item in its dispatch area; a TRUMP_AGE reached moves an item to the Trump list; INH signals set a thread's priority. -/
def Claim.ItemsAreDispatchedAndTrumped : Prop :=
  ∀ s : State,
    (s.dev = .frozen → exec .dlrDispatch s = .next s) ∧
    (∀ g p x r t, s.dev ≠ .frozen → s.wf → s.chooseGroup = some g → s.chooseList g = some (.ready p) → s.chooseThread g = some t →
      s.readyList g p = x :: r → x.slow = false → x.isPacket = false → t < 1024 → Does .dlrDispatch s fun u =>
        let th := u.thread t
        th.state = .run ∧ th.pc = BitVec.ofNat 48 (bits (s.program x.prog) 16 0) ∧
        th.level = bits (s.program x.prog) 30 30 ∧ bitAt th.tsr 29 = true ∧ bitAt th.tsr 28 = false ∧
        th.dreg 1 = wordOf x.w 0 ∧ th.dreg 2 = wordOf x.w 1 ∧ (∀ k : BitVec 4, k ≠ 1 → k ≠ 2 → th.dreg k = 0) ∧
        th.areg 1 = BitVec.ofNat 48 (0x10F000 + 0x140 * (t % 8)) ∧ th.areg 7 = BitVec.ofNat 48 (0x108000 + 0x1000 * (t % 8)) ∧
        (∀ k : BitVec 3, k ≠ 1 → k ≠ 7 → th.areg k = 0) ∧ th.item = some x.w ∧
        readBytes u.mems.scratch (0x10000 * coreOf t + 0xF000 + 0x140 * (t % 8)) (4 * x.w.length) =
          (x.w.flatMap fun w => leBytes 4 w.toNat) ∧
        u.dlr.ready = sput [] s.dlr.ready (16 * g + p) r ∧ u.dlr.lastGroup = g ∧
        u.dlr.tpri = sput ThreadPrio.none s.dlr.tpri t { s.tpri t with busy := true, base := x.prio } ∧
        (∀ k, k ≠ t → u.thread k = s.thread k) ∧ u.counters = (s.count (dlrBase + 0x900)).counters ∧ u.regs = s.regs) ∧
    (∀ (g : Fin 16) x, firstIn ((((List.range 16).flatMap fun p => s.readyList g p) ++
        (if s.fld (dlrBase + 8) 31 28 = g.val then s.dlr.slow else [])).filter fun x =>
          usFtu (s.fld (dlrBase + 0x300 + 4 * g) 23 16) ≤ s.elapsed x.since) = some x → x.slow = false → Does (.dlrTrump g) s fun u =>
      let others := fun (l : List DlrItem) => l.filter fun y => y.seq != x.seq
      u.dlr = { s.dlr with
        slow := others s.dlr.slow
        ready := sput [] s.dlr.ready (16 * g + x.prio) (others (s.readyList g x.prio))
        trump := sput [] s.dlr.trump g (insertSeq (x.setW 0 0x40000000 0x40000000) (s.trumpList g)) } ∧
      u = { s.count (dlrBase + 0x904) with dlr := u.dlr }) ∧
    (s.dlr.inhBox = [] → exec .dlrInhSignal s = .next s) ∧
    (∀ t v rest, s.dlr.inhBox = (t, v) :: rest → s.waitedLock t = none → Does .dlrInhSignal s fun u =>
      u.dlr = { s.dlr with inhBox := rest, tpri := sput ThreadPrio.none s.dlr.tpri t { s.tpri t with inh := v } } ∧
      u = { s.count (dlrBase + 0x920) with dlr := u.dlr })

/-- R191, R192, R193: at a tick boundary a due entry of a group in FLOW joins its ready list, one of a stopped group stays and is counted
late once, and one that is not due stays. -/
def Claim.TicksReleaseDueEntries : Prop :=
  ∀ (s : State) (g : Fin 16) (x : DlrItem), s.dlr.delay = [(g.val, [x])] → x.group = g.val → 0 < s.tickFtu → s.dev = .run →
    let b := s.nowN / s.tickFtu * s.tickFtu
    (b ≤ s.dlr.lastTick.toNat → exec .dlrTick s = .next s) ∧
    (s.dlr.lastTick.toNat < b → b < 2 ^ 64 →
      (b < x.due → exec .dlrTick s = .next (s.setDlr { s.dlr with lastTick := BitVec.ofNat 64 b })) ∧
      (x.due ≤ b → s.stopped g = true → x.late = false → Does .dlrTick s fun u =>
        u.dlr = { s.dlr with lastTick := BitVec.ofNat 64 b, delay := [(g.val, [{ x with late := true }])] } ∧
        u = { s.count (dlrBase + 0x91C) with dlr := u.dlr }) ∧
      (x.due ≤ b → s.stopped g = false → s.emptyGroup g = false → s.validProgram x.prog = true → x.kind ≠ 4 →
        Does .dlrTick s fun u =>
          let k := 16 * g.val + x.prio
          u.dlr = { s.dlr with
            lastTick := BitVec.ofNat 64 b, delay := [], nextSeq := s.dlr.nextSeq + 1, stop := u.dlr.stop
            ready := sput [] s.dlr.ready k (sget [] s.dlr.ready k ++ [{ x with since := s.now, seq := s.dlr.nextSeq }]) } ∧
          u = { s with dlr := u.dlr }))

/-- The Dealer: ready lists, dispatch, trump and delayed entries. Where the manual leaves a point open this follows the model's choices: log
entries 3, 22. -/
def Obligations.DealerDispatch : Prop :=
  Claim.ItemsJoinTheirLists ∧ Claim.ItemsAreDispatchedAndTrumped ∧ Claim.TicksReleaseDueEntries

/-- R78, R80, R81, R89: a completion report makes an INFLIGHT entry READY with its outputs; a READY entry is released when nothing of
its domain is ahead, the admission floor lies above it and, in FABRIC scope, the watermarks or SETTLE allow it, or at once when its
profile is UNORDERED; its outputs go to the switch core together. -/
def Claim.EntriesCompleteAndAreReleased : Prop :=
  ∀ (s : State) (e : BitVec 17) (v : FixEntry), s.fixEntry e.toNat = some v →
    let released := fun (i : Instr) => Does i s fun u =>
      let r : Release :=
        { handle := v.handle, len := v.len, outs := v.outs, klass := v.klass, colour := v.colour, late := v.late || v.bypassed,
          ots := v.ots, key := v.key, node := v.node, sport := v.sport, port := v.port, epoch := v.epoch, ring := v.ring }
      u.swt.rels = sins s.swt.rels s.swt.nextRel { r := r, todo := v.outs, live := 0 } ∧ u.swt.nextRel = s.swt.nextRel + 1 ∧
      (∀ x ∈ u.fix.entries, x ∈ sdel s.fix.entries e.toNat) ∧ u.cores = s.cores ∧ u.regs = s.regs
    let order := (∀ x ∈ s.ahead e.toNat v, x.2.st = .tomb ∨ x.2.bypassed = true) ∧ (∀ f, s.admissionFloor = some f → v.ots < f)
    let marks := ∀ m ∈ s.countedMarks, v.ots < m
    let settled := v.ots.toNat + s.settle < s.nowN
    (s.dev = .frozen ∨ v.st ≠ .ready → exec (.fixRelease e) s = .next s ∧ exec (.fixSettleExpire e) s = .next s) ∧
    (s.dev ≠ .frozen → v.st = .ready → s.modeOf v.key = .unordered → released (.fixRelease e)) ∧
    (s.dev ≠ .frozen → v.st = .ready → s.fabricScope v.key = false → order → released (.fixRelease e)) ∧
    (s.dev ≠ .frozen → v.st = .ready → s.fabricScope v.key = true → order → marks → released (.fixRelease e)) ∧
    (s.dev ≠ .frozen → v.st = .ready → s.fabricScope v.key = true → order → settled → released (.fixSettleExpire e)) ∧
    (s.modeOf v.key = .strict → ¬order → exec (.fixRelease e) s = .next s) ∧
    (∀ r rest, s.fix.reports = r :: rest → r.entry = e.toNat → sfind s.fix.owed r.orig = none →
      let s1 := s.setFix { s.fix with reports := rest }
      (v.st = .inflight → r.orig = r.handle.toNat → exec .fixCompletion s = .next (s1.setEntry e.toNat
        { v with st := .ready, readyAt := s.now, handle := r.handle, len := r.len, outs := r.outs })) ∧
      (v.st ≠ .inflight → exec .fixCompletion s = .next s1))

/-- R74, R82, R83, R89: HOLD_LIMIT bypasses or gives up the INFLIGHT entry ahead of a READY one; TTL discards a ring frame's entry; an
uncorrectable error does with its event; an idle FABRIC domain gives up its slot. -/
def Claim.LimitsEndEntries : Prop :=
  ∀ (s : State) (e : BitVec 17) (v : FixEntry), s.fixEntry e.toNat = some v → s.dev ≠ .frozen →
    let gone := fun (u : State) (why : TombReason) => sfind u.fix.owed v.handle.toNat = some why
    (∀ k w, v.st = .ready → s.modeOf v.key ≠ .unordered → s.holdLimit ≤ s.elapsed v.readyAt → s.ahead e.toNat v = [(k, w)] →
      s.fixEntry k = some w → w.st = .inflight → w.bypassed = false →
      (s.modeOf w.key = .bounded → exec (.fixHoldExpire e) s =
        .next ((s.setEntry k { w with bypassed := true }).count (fixBase + 0x10C))) ∧
      (s.modeOf w.key = .strict → exec (.fixHoldExpire e) s = .next (giveUp (s.count (fixBase + 0x10C)) k w .holdExpired))) ∧
    (v.st = .ready → s.holdLimit ≤ s.elapsed v.readyAt → s.ahead e.toNat v = [] → exec (.fixHoldExpire e) s = .next s) ∧
    (s.elapsed v.readyAt < s.holdLimit → exec (.fixHoldExpire e) s = .next s) ∧
    (v.ring = true → s.ttl + v.ots.toNat < s.nowN →
      (v.st = .inflight → Does (.fixTtlExpire e) s fun u => gone u .ttl ∧
        u.counters = ((s.count (fixBase + 0x118)).count (fixBase + 0x100)).counters) ∧
      (v.st = .ready → Does (.fixTtlExpire e) s fun u => ∀ x ∈ u.fix.entries, x ∈ sdel s.fix.entries e.toNat)) ∧
    (v.ring = false ∨ s.nowN ≤ v.ots.toNat + s.ttl → exec (.fixTtlExpire e) s = .next s) ∧
    (v.st = .inflight → exec (.fixEcc e) s = .next ((giveUp s e.toNat v .ecc).logEvent 0x33 2 (evAt 0 e.toNat)) ∧
      gone (giveUp s e.toNat v .ecc) .ecc) ∧
    (v.st = .ready → exec (.fixEcc e) s =
      .next ((freePacket (tombstone s e.toNat .ecc 0) v.handle.toNat).logEvent 0x33 2 (evAt 0 e.toNat))) ∧
    (v.st = .tomb → exec (.fixEcc e) s = .next s)

/-- R41, R74, R167: a superseded epoch slot gives its reference back at its time; a domain without entries gives up its slot, in FABRIC
scope once fabric time has passed its floor plus TTL. -/
def Claim.SlotsAndDomainsAreGivenUp : Prop :=
  ∀ (s : State) (k : BitVec 2) (key : BitVec 24) (d : FixDomain),
    (∀ due, sfind s.fix.superseded k.toNat = some due →
      let v := s.slot k.toNat
      let s1 := (s.setFix { s.fix with superseded := sdel s.fix.superseded k.toNat }).setSlot k.toNat { v with refs := v.refs - 1 }
      let w := s1.slot k.toNat
      (s.now < due → exec (.epochSupersededRelease k) s = .next s) ∧
      (due ≤ s.now → w.refs ≠ 0 ∨ w.live = false ∨ w.current = true → exec (.epochSupersededRelease k) s = .next s1) ∧
      (due ≤ s.now → w.refs = 0 → w.live = true → w.current = false →
        exec (.epochSupersededRelease k) s = .next ((s1.setSlot k.toNat FixSlot.empty).logEvent 0x31 0
          (evAt 0 w.number.toNat ||| evAt 2 k.toNat ||| evAt 8 w.commit.toNat)))) ∧
    (sfind s.fix.superseded k.toNat = none → exec (.epochSupersededRelease k) s = .next s) ∧
    (sfind s.fix.domains key.toNat = some d →
      let idle := ∀ x ∈ s.fix.entries, ¬(x.2.keyed = true ∧ x.2.spill = false ∧ x.2.key = key)
      let past := ∀ t, d.floor = some t → s.fabricScope key = true → t.toNat + s.ttl < s.nowN
      (idle → past → exec (.fixDomainExpire key) s =
        .next (s.setFix { s.fix with domains := sdel s.fix.domains key.toNat })) ∧
      (¬(idle ∧ past) → exec (.fixDomainExpire key) s = .next s))

/-- The Fixer: completion, release in order, limits and slots. Where the manual leaves a point open this follows the model's choices: log
entries 46, 49. -/
def Obligations.FixerOrder : Prop :=
  Claim.EntriesCompleteAndAreReleased ∧ Claim.LimitsEndEntries ∧ Claim.SlotsAndDomainsAreGivenUp

/-- R96, R97, R98, R102, R132: a pipeline takes the frame at the head of the next source's line into a fresh engine at the source's
hook, and delivers its first engine's result to the classifier when it has ended. -/
def Claim.FramesEnterAndLeaveTheLoupe : Prop :=
  ∀ (s : State) (pipe : Fin 2),
    (∀ src rest h, s.dev ≠ .frozen → (s.engines pipe).length < s.expert loupeBase (loupeBase + 4) 13 8 32 →
      s.clsAccepts pipe = true → s.sourceOrder pipe = src :: rest → 22 ∉ src :: rest ∨ rest = [] → s.frameReady pipe src = some h →
      Does (.loupeIntake pipe) s fun u => ∃ e : Engine,
        u.loupe = { s.loupe with
          waiting := smod [] s.loupe.waiting (32 * pipe + src) (·.drop 1)
          last := sput 22 s.loupe.last pipe src
          contested := u.loupe.contested
          engines := sput [] s.loupe.engines pipe (s.engines pipe ++ [e]) } ∧
        e.h = h ∧ e.src = src ∧ e.base = 0 ∧ e.limit = (s.pkt h).len ∧ e.frameLen = (s.pkt h).len ∧ e.stack = [] ∧
        e.clocks = 0 ∧ e.out = none ∧
        e.pc = .word (if src < 16 then 0x400 else if src < 18 then 0x408 else if src < 22 then 0x410 else 0x418) ∧
        u = { s with loupe := u.loupe }) ∧
    (∀ e rest c, s.engines pipe = e :: rest → e.out = some c → s.dev ≠ .frozen → s.clsAccepts pipe = true →
      Does (.loupeDeliver pipe) s fun u => ∃ ctx : ClsCtx,
        let r : ParseResult :=
          { h := e.h, src := e.src, recirc := e.recirc, pipe := pipe, cls := c, key := e.key, stack := e.stack, base := e.base,
            frameLen := e.frameLen }
        ctx.phase = .arrived ∧ ctx.r = r ∧
        u.cls.lanes = smod [] s.cls.lanes pipe (· ++ [ctx]) ∧ u.loupe.engines = sput [] s.loupe.engines pipe rest ∧
        u = { s with loupe := { s.loupe with engines := u.loupe.engines }, cls := { s.cls with lanes := u.cls.lanes } }) ∧
    (∀ e rest, s.engines pipe = e :: rest → e.out = none → exec (.loupeDeliver pipe) s = .next s)

/-- R103, R105, R108, R109, R119, R127: a microword that reads nothing advances BASE and then ends the program with its class, jumps, or
goes on; too many clocks, a BASE beyond LIMIT and a failed control store end it. -/
def Claim.MicrowordsRun : Prop :=
  ∀ (s : State) (pipe : Fin 2) (k : Fin 32) (e : Engine) (a : Nat), (s.engines pipe)[k.val]? = some e → e.out = none →
    e.pc = .word a → 0x400 ≤ a →
    let w := sget trapWord s.loupe.store a
    let f := fun hi lo : Nat => w.toNat / 2 ^ lo % 2 ^ (hi + 1 - lo)
    let plain := f 116 114 = 0 ∧ f 98 96 = 0 ∧ f 80 78 = 0 ∧ f 62 61 = 0 ∧ f 29 24 = 0 ∧ f 23 21 = 0 ∧ f 39 38 < 2
    let base := e.base + (if f 39 38 = 1 then f 35 30 else 0)
    let clocks := e.clocks + f 127 126 + 1
    let becomes := fun (v : Engine) => exec (.loupeWord pipe k .good) s = .next (s.setEngines pipe (lset (s.engines pipe) k v))
    let ends := fun (c : Nat) => Does (.loupeWord pipe k .good) s fun u => ∃ v : Engine, v.out = some c ∧ v.h = e.h ∧
      v.stack = e.stack ∧ v.limit = e.limit ∧
      v.key = writeBytes e.key 4 (beBytes 2 (v.stack.length * 4096 + min v.base 1023) ++ beBytes 2 v.limit) ∧
      u = (s.setEngines pipe (lset (s.engines pipe) k v)).count (outcomeCounter e.src c)
    (plain → e.limit < base → ends 0x32) ∧
    (plain → base ≤ e.limit → f 20 19 ≠ 0 → clocks ≤ s.stepLimit → ends (16 * f 20 19 + f 18 15)) ∧
    (plain → base ≤ e.limit → f 20 19 = 0 → clocks ≤ s.stepLimit →
      (f 14 12 = 1 → becomes { e with base := base, pc := .word (f 11 0), clocks := clocks }) ∧
      (f 14 12 = 0 → a ≠ 0xFFF → becomes { e with base := base, pc := .word (a + 1), clocks := clocks }) ∧
      (f 14 12 = 0 → a = 0xFFF → ends 0x3D) ∧
      (f 14 12 = 6 → e.micro = [] → ends 0x3D)) ∧
    (plain → base ≤ e.limit → f 20 19 = 0 → f 14 12 = 1 → s.stepLimit < clocks → ends 0x3C) ∧
    (Does (.loupeWord pipe k .uncorrectable) s fun u => ∃ v : Engine, v.out = some 0x3D ∧
      u.loupe.engines = sput [] s.loupe.engines pipe (lset (s.engines pipe) k v) ∧ u.loupe.csUe = true ∧
      (s.loupe.csUe = false → u.loupe.csErr = a) ∧ u.counters = (s.count (outcomeCounter e.src 0x3D)).counters)

/-- R136, R145, R148, R164, R165, R195: a result is pinned to the slot of its timestamp with a new entry and starts its walk; a node
read from the tree-top cache moves the walk on, ends it with its list, or faults; a finished item goes to the Dealer unless its group is
in STOP. -/
def Claim.PacketsArePinnedAndWalk : Prop :=
  ∀ (s : State) (lane : Fin 2) (k : BitVec 11) (c : ClsCtx), (s.lane lane)[k.toNat]? = some c →
    let p := s.pkt c.r.h
    let moves := fun (i : Instr) (ph : ClsPhase) => exec i s = .next (s.setCtx lane k.toNat { c with phase := ph })
    (∀ slot, s.arrivedAt lane = some k.toNat → s.dev ≠ .frozen → c.r.recirc = false → s.fixFull = false →
      s.chooseSlot p.ots = (slot, false) → (s.slot slot).pending = false →
      let m := s.mapEntry { c with slot := slot }
      m / 2 ^ 30 % 4 = 1 → Does (.clsResultAccept lane) s fun u => ∃ v c', u.fix.entries = sins s.fix.entries (lowestFree 0 s.fix.entries) v ∧
        v.ots = p.ots ∧ v.st = .inflight ∧ v.keyed = false ∧ v.handle = BitVec.ofNat 32 c.r.h ∧ v.eslot = slot ∧ v.clamped = false ∧
        u.fix.slots = lset s.fix.slots slot { s.slot slot with refs := (s.slot slot).refs + 1 } ∧
        u.cls = (s.setCtx lane k.toNat c').cls ∧ c'.r = c.r ∧ c'.entry = lowestFree 0 s.fix.entries ∧ c'.slot = slot ∧ c'.pass = 0 ∧
        c'.phase = .walk (m % 2 ^ 30 % 16) (s.treeWord slot (m % 2 ^ 30 % 16) 0) 0 ∧
        u = { s with cls := u.cls, fix := { s.fix with entries := u.fix.entries, slots := u.fix.slots }, pkts := u.pkts }) ∧
    (∀ t n reads, c.phase = .walk t n reads → n < 131072 →
      let node := nodeOf (readBytes s.cls.cache (64 * n) 64)
      let goes := fun m => if s.walkLimit ≤ reads + 1 then
        exec (.clsLineReturn lane k .good) s = .next (endSlow s lane k.toNat c 5)
        else moves (.clsLineReturn lane k .good) (.walk t m (reads + 1))
      (∀ m, node = .link m → goes m) ∧
      (∀ off w child, node = .cut off w child → goes (child + keyField c.r.key off w)) ∧
      (∀ off w child bounds, node = .range off w child bounds →
        goes (child + (bounds.filter fun b => decide (b ≤ keyField c.r.key off w)).length)) ∧
      (∀ tests more alt next rule, node = .rule tests more alt next rule →
        let pass := ∀ x ∈ tests, keyField c.r.key x.off x.width &&& x.mask = x.value
        (pass → more = true → goes next) ∧
        (pass → more = false → moves (.clsLineReturn lane k .good)
          (.list next 0 (BitVec.ofNat 32 rule) (BitVec.ofNat 32 (s.treeWord c.slot t 2)))) ∧
        (¬pass → alt ≠ 0xFFFFFFFF → goes alt)) ∧
      (node = .empty → s.treeWord c.slot t 1 ≠ 0xFFFFFFFF → moves (.clsLineReturn lane k .good)
        (.list (s.treeWord c.slot t 1) 1 0 (BitVec.ofNat 32 (s.treeWord c.slot t 2)))) ∧
      (node = .empty → s.treeWord c.slot t 1 = 0xFFFFFFFF →
        exec (.clsLineReturn lane k .good) s = .next (endSlow s lane k.toNat c 1)) ∧
      (node = .reserved → exec (.clsLineReturn lane k .good) s = .next (endSlow s lane k.toNat c 5))) ∧
    (c.phase = .done →
      let w := wordOf c.item 0
      let slow := decide (bits w 3 0 = 1)
      (slow = true ∨ s.stopped (bits w 7 4) = false → exec (.clsDeliver lane k) s = .next ((s.setDlr { s.dlr with inbox := s.dlr.inbox ++
        [{ w := c.item, att := c.att, since := s.now, slow := slow, late := false, seq := 0 }] }).dropCtx lane k.toNat)) ∧
      (slow = false → s.stopped (bits w 7 4) = true → exec (.clsDeliver lane k) s = .next s))

/-- R151, R157, R158, R159: a list whose actions are a DISPATCH and nothing else counts its status, gives the work item the list's group,
priority and program, and finishes the context; a list that cannot be evaluated ends in the slow-path list with ACTION_FAULT. -/
def Claim.ActionListsDispatch : Prop :=
  ∀ (s : State) (lane : Fin 2) (k : BitVec 11) (c : ClsCtx) (line status : Nat) (rule dispatch : Word),
    (s.lane lane)[k.toNat]? = some c → c.phase = .list line status rule dispatch → line < 131072 →
    let acts := ((s.listEntries line).bind actsOf)
    let one := (takeEntries (lineEntries (readBytes s.cls.cache (64 * line) 64))).isSome = true
    (acts = none → exec (.clsActionEval lane k) s = .next (endSlow ((s.linesOf line).foldl countLine s) lane k.toNat c 4)) ∧
    (∀ g q prog v, one → acts = some [.dispatch g q prog] → g < 16 → q < 16 → prog < 256 → s.fixEntry c.entry = some v → v.keyed = true →
      14 ≤ (s.packetBytes c.r.h c.r.frameLen).length → (s.packetBytes c.r.h c.r.frameLen).length ≤ 16383 →
      Does (.clsActionEval lane k) s fun u => ∃ c' : ClsCtx, u.cls.lanes = sput [] s.cls.lanes lane (lset (s.lane lane) k.toNat c') ∧
        c'.phase = .done ∧ c'.r = c.r ∧ c'.entry = c.entry ∧
        bits (wordOf c'.item 0) 3 0 = 0 ∧ bits (wordOf c'.item 0) 7 4 = g ∧ bits (wordOf c'.item 0) 11 8 = q ∧
        bits (wordOf c'.item 0) 19 12 = prog ∧ wordOf c'.item 1 = BitVec.ofNat 32 c.r.h ∧ c'.att.key = c.r.key ∧ c'.att.outs = [] ∧
        u.counters = (countResult s c status).counters ∧ u.mems = s.mems ∧ u.cores = s.cores ∧ u.dlr = s.dlr)

/-- R363, R365: a METER operation fills the buckets, colours the packet as RFC 2697 or RFC 2698 say, takes the tokens and stores them. -/
def Claim.MetersColourPackets : Prop :=
  ∀ (s : State) (lane : Fin 2) (k : BitVec 11) (c : ClsCtx) (aware : Bool) (i : Nat) (rest : List ColourOp) (next : AfterMeters)
    (l : List Byte), (s.lane lane)[k.toNat]? = some c → c.phase = .meters (.meter aware i :: rest) next →
    let a := s.meterAddr i
    ∀ s1, hbmRead s a 64 = (s1, some l) →
    let m := meterOf l
    let c0 := if aware = true then c.colour else 0
    let b := 256 * ((c.meterLen : Int) + m.adj).toNat
    let dt := s.nowN - m.last
    let add := m.cir * dt / 500000
    let tc := min (256 * m.cbs) (m.tc + add)
    let te := min (256 * m.ebs) (if m.two = true then m.te + m.pir * dt / 500000 else m.te + (m.tc + add - tc))
    let gives := fun (tc te colour : Nat) => exec (.meterOp lane k) s = .next (nextMeter
      (hbmWrite s1 (a + 20) (leBytes 4 tc ++ leBytes 4 te ++ leBytes 8 (max m.last s.nowN))) lane k.toNat c rest colour next)
    (m.en = false → exec (.meterOp lane k) s = .next (nextMeter s1 lane k.toNat c rest c0 next)) ∧
    (m.en = true → m.two = false →
      (c0 = 0 → b ≤ tc → gives (tc - b) te 0) ∧ (c0 < 2 → ¬(c0 = 0 ∧ b ≤ tc) → b ≤ te → gives tc (te - b) 1) ∧
      (¬(c0 = 0 ∧ b ≤ tc) → ¬(c0 < 2 ∧ b ≤ te) → gives tc te 2)) ∧
    (m.en = true → m.two = true →
      (c0 = 2 ∨ te < b → gives tc te 2) ∧ (c0 ≠ 2 → b ≤ te → c0 = 1 ∨ tc < b → gives tc (te - b) 1) ∧
      (c0 ≠ 2 → c0 ≠ 1 → b ≤ te → b ≤ tc → gives (tc - b) (te - b) 0))

/-- R41, R167: a PENDING slot becomes LIVE and CURRENT at its commit time with EPOCH_CURRENT, and the slot that was CURRENT keeps a
reference until the commit time plus TTL. -/
def Claim.EpochsBecomeCurrent : Prop :=
  ∀ (s : State) (k : BitVec 2), s.dev ≠ .frozen → (s.slot k.toNat).pending = true →
    let v := s.slot k.toNat
    let current := fun (st : State) => (st.setSlot k.toNat { v with live := true, current := true, pending := false }).logEvent 0x30 0
      (evAt 0 v.number.toNat ||| evAt 2 k.toNat ||| evAt 8 v.commit.toNat)
    (s.now < v.commit → exec (.epochCommitTime k) s = .next s) ∧
    (v.commit ≤ s.now → s.pendingUpTo v.commit = [k.toNat] →
      ((∀ j, j < 4 → j ≠ k.toNat → ¬((s.slot j).live = true ∧ (s.slot j).current = true)) →
        exec (.epochCommitTime k) s = .next (current s)) ∧
      (∀ j, j < 4 → j ≠ k.toNat → (s.slot j).live = true → (s.slot j).current = true →
        (∀ i, i < 4 → i ≠ k.toNat → i ≠ j → ¬((s.slot i).live = true ∧ (s.slot i).current = true)) →
        let s1 := s.setSlot j { s.slot j with current := false, refs := (s.slot j).refs + 1 }
        exec (.epochCommitTime k) s = .next (current (s1.setFix { s1.fix with
          superseded := sins s.fix.superseded j (v.commit + BitVec.ofNat 64 s.ttl) }))))

/-- The Loupe's parse and microwords; the classifier's walk, actions, meters and epochs. Where the manual leaves a point open this follows
the model's choices: log entries 8, 47, 48. -/
def Obligations.LoupeAndClassifier : Prop :=
  Claim.FramesEnterAndLeaveTheLoupe ∧ Claim.MicrowordsRun ∧ Claim.PacketsArePinnedAndWalk ∧ Claim.ActionListsDispatch ∧
    Claim.MetersColourPackets ∧ Claim.EpochsBecomeCurrent

/-- R49, R54, R561, R569, R570, R571, R572, R598, R630: the reset inputs, a brown-out, the loss and the return of power, and the delayed
warm reset: what each clears and keeps, the cause it leaves, and the deassertion that begins BOOT. -/
def Claim.ResetsClearTheDevice : Prop :=
  ∀ (s : State) (sel : BitVec 2) (v : Bool),
    let boots := fun (u : State) => u.dev = .boot ∧ u.faultN = true ∧ u.tim.count = 0
    let logKept := fun (u : State) => u.events.log = s.events.log ∧ u.events.next = s.events.next ∧ u.hbm.neg = s.hbm.neg
    (s.pwr.vddIo = true → Does .poresetNAssert s fun u => Cleared s u ∧ u.dev = .reset ∧ u.faultN = true ∧ u.pwr.por = true ∧
      u.events = EventLog.reset ∧ u.hbm = Hbm.reset ∧ u.pwr.cause = if s.pwr.held = true then s.pwr.cause else 1) ∧
    (s.pwr.vddIo = true → Does .brownout s fun u => Cleared s u ∧ u.dev = .reset ∧ u.faultN = true ∧ u.pwr.held = true ∧
      u.events = EventLog.reset ∧ u.hbm = Hbm.reset ∧ u.pwr.cause = 4) ∧
    (Does (.powerLoss v) s fun u => Cleared s u ∧ u.dev = .reset ∧ u.faultN = !v ∧ u.pwr.por = true ∧ u.pwr.held = false ∧
      u.events = EventLog.reset ∧ u.hbm = Hbm.reset ∧ u.pwr.vddIo = (s.pwr.vddIo && !v)) ∧
    (Does .powerOn s fun u => Cleared s u ∧ u.dev = .reset ∧ u.faultN = true ∧ u.pwr.por = true ∧ u.pwr.vddIo = true ∧
      (s.pwr.vddIo = false → u.pwr.cause = 1)) ∧
    (s.dev ≠ .reset → s.negBusy = false → Does .warmrstNAssert s fun u => Cleared s u ∧ u.dev = .reset ∧ u.faultN = true ∧
      u.pwr.warm = true ∧ logKept u ∧ u.pwr.cause = 2) ∧
    (s.dev ≠ .reset → s.negBusy = true → exec .warmrstNAssert s =
      .next { s with pwr := { s.pwr with warm := true, warmWaits := some 2 } }) ∧
    (s.dev = .reset → exec .warmrstNAssert s = .next { s with pwr := { s.pwr with warm := true } }) ∧
    (∀ t, s.mgt.warmAt = some t → t ≤ s.now → s.dev ≠ .reset → s.negBusy = false → s.pwr.por = false → s.pwr.warm = false →
      s.pwr.held = false → s.pwr.vddIo = true → Does .warmResetStart s fun u => Cleared s { u with tim := Tim.reset } ∧ boots u ∧
        logKept u ∧ u.pwr.cause = 3) ∧
    (∀ t, s.mgt.warmAt = some t → s.now < t → exec .warmResetStart s = .next s) ∧
    (s.mgt.warmAt = none → exec .warmResetStart s = .next s) ∧
    (s.pwr.por = true → s.dev = .reset → s.pwr.warm = false → s.pwr.vddIo = true →
      (s.pwr.held = false ∨ usFtu 100 ≤ s.elapsed s.pwr.porAt → Does (.poresetNDeassert sel) s fun u => boots u ∧
        u.mgt.bootSel = sel ∧ u.mgt.pinSel = sel ∧ u.mgt.bootProfile = sel ∧ u.pwr.held = false ∧ u.pwr.cause = s.pwr.cause) ∧
      (s.pwr.held = true → s.elapsed s.pwr.porAt < usFtu 100 →
        exec (.poresetNDeassert sel) s = .next { s with pwr := { s.pwr with por := false } })) ∧
    (s.dev = .reset → s.pwr.por = false → s.pwr.held = false → s.pwr.vddIo = true → Does .warmrstNDeassert s fun u => boots u ∧
      u.mgt.bootSel = s.mgt.bootSel ∧ u.pwr.warm = false) ∧
    exec .jtagTrst s = .next s

/-- R49, R469, R570: a PCIe port's reset leaves the device state as it is and records its pin; its functions' pages go with it. -/
def Claim.PortResetsLeaveTheDeviceState : Prop :=
  ∀ (s : State) (h : Fin 2),
    (Does (.perstNAssert h) s fun u => u.dev = s.dev ∧ u.tim.count = s.tim.count ∧
      u.pwr = (if h.val = 0 then { s.pwr with perst0 := true } else { s.pwr with perst1 := true }) ∧
      (∀ e ∈ u.hqe.fns, s.pfOf e.1 / 2 ≠ h.val) ∧ u.variant = s.variant) ∧
    exec (.perstNDeassert h) s =
      .next { s with pwr := if h.val = 0 then { s.pwr with perst0 := false } else { s.pwr with perst1 := false } }

/-- The resets, what each clears and keeps. Where the manual leaves a point open this follows the model's choices: log entries 89, 90, 91,
95. -/
def Obligations.ResetsOfTheDevice : Prop :=
  Claim.ResetsClearTheDevice ∧ Claim.PortResetsLeaveTheDeviceState

/-- R49, R499, R521, R523, R524, R525: the boot header's copy in force fixes the port modes and the slot, and training starts; the active
slot's firmware runs when it verifies, else the other when FALLBACK allows it; training zeroes a stack's memory. -/
def Claim.BootGoesByStages : Prop :=
  ∀ (s : State) (a b : Bool) (c : Fin 4) (repair : Byte),
    let act := s.mgt.fwSlot
    let ran := fun (slot fell : Bool) => exec (.firmwareVerified a b) s = .next { s with mgt := { s.mgt with
      fwSlot := slot, fallbackUsed := fell, fwVersion := BitVec.ofNat 32 (s.flashLE ((if slot = true then 0x2000000 else 0x1000000) + 4) 4)
      boot := { s.mgt.boot with firmware := true } } }
    (s.dev = .boot → s.mgt.boot.headerRead = false → Does .bootHeaderRead s fun u =>
      let h := s.bootHeader
      (∀ x, s.headerCopy 0 = some x → s.headerCopy 1 = none → h = x) ∧
      (∀ x y, s.headerCopy 0 = some x → s.headerCopy 1 = some y → x.seq < y.seq → h = y) ∧
      u.hqe = { s.hqe with h0Split := h.h0, h1Split := h.h1, portsFixed := true } ∧
      u.mgt = { s.mgt with fwSlot := h.slot, boot := { s.mgt.boot with headerRead := true, fallback := h.fallback } } ∧
      u = { s with hqe := u.hqe, mgt := u.mgt, hbm := { s.hbm with ctls := u.hbm.ctls } }) ∧
    (s.dev = .boot → s.mgt.boot.headerRead = true → s.mgt.boot.firmware = false →
      ((if act = true then b else a) = true → ran act false) ∧
      ((if act = true then b else a) = false → s.mgt.boot.fallback = true → (if act = true then a else b) = true → ran (!act) true) ∧
      ((if act = true then b else a) = false → s.mgt.boot.fallback = false ∨ (if act = true then a else b) = false →
        exec (.firmwareVerified a b) s = .next s)) ∧
    ((s.hbmCtl c).st = .training →
      (Does (.hbmTrainDone c true repair) s fun u =>
        u.hbm = (s.setHbmCtl c { s.hbmCtl c with st := .active, trained := true, repair := repair.toNat }).hbm ∧
        (∀ e ∈ u.mems.hbm, (hbmDecode e.1).stack ≠ c.val) ∧ u = { s with hbm := u.hbm, mems := { s.mems with hbm := u.mems.hbm } }) ∧
      ((s.hbmCtl c).failed = false → exec (.hbmTrainDone c false repair) s =
        .next (s.setHbmCtl c { s.hbmCtl c with failed := true })))

/-- R49, R524, R525, R528: with firmware running and the stacks trained the boot profile is applied and the device enters RUN with
FAULT_N released, or it is refused with its event and the device enters IDLE. -/
def Claim.BootProfileEndsBoot : Prop :=
  ∀ (s : State) (flashOk : Bool), s.dev = .boot → s.mgt.boot.firmware = true → s.hbmTrained = true →
    let img := s.flashImage s.mgt.bootProfile.toNat
    (flashOk = false → Does (.bootProfileApplied flashOk) s fun u => u.dev = .idle ∧ u.faultN = false ∧ u.mgt.lastRefuse = 0xC ∧
      u.regs = s.regs ∧ u.cores = s.cores) ∧
    (∀ r, flashOk = true → imageRefusal s img = some r → Does (.bootProfileApplied flashOk) s fun u => u.dev = .idle ∧
      u.faultN = false ∧ u.mgt.lastRefuse = r.reason ∧ u.regs = s.regs ∧ u.cores = s.cores) ∧
    (flashOk = true → imageRefusal s img = none → Does (.bootProfileApplied flashOk) s fun u => u.dev = .run ∧ u.faultN = false ∧
      u.mgt.applied = true ∧ u.mgt.active = s.mgt.bootProfile)

/-- Boot: header, firmware, training, boot profile. Where the manual leaves a point open this follows the model's choices: log entries 108,
113. -/
def Obligations.BootStages : Prop :=
  Claim.BootGoesByStages ∧ Claim.BootProfileEndsBoot

/-- R563, R564, R565: an adaptive island goes up to the level of its local supply and falls one level after HOLD cycles; each entry from
level 0 and each cycle at a higher level is counted, and the highest level is recorded. -/
def Claim.IslandsStretch : Prop :=
  ∀ (s : State) (n : Fin 38) (mv : BitVec 10) (cycles : Word),
    let v := s.island n
    let at_ := fun (l : Nat) => { s.pwr with islands := sput Island.nominal s.pwr.islands n { level := l, high := max v.high l } }
    let up := fun (l : Nat) => exec (.stretchLevelUp n mv cycles) s =
      .next { (if v.level = 0 then s.count (pwrBase + 0x800 + 8 * n) else s.countN (pwrBase + 0x804 + 8 * n) cycles.toNat) with
        pwr := at_ l }
    (s.dev ≠ .reset → s.adaptive n = true →
      (mv.toNat < s.thresh → s.thresh ≤ mv.toNat + 20 → v.level = 0 → up 1) ∧
      (mv.toNat + 20 < s.thresh → s.thresh ≤ mv.toNat + 40 → v.level < 2 → up 2) ∧
      (mv.toNat + 40 < s.thresh → v.level < 3 → up 3) ∧
      (s.thresh ≤ mv.toNat → exec (.stretchLevelUp n mv cycles) s = .next s)) ∧
    (s.adaptive n = false → exec (.stretchLevelUp n mv cycles) s = .next s) ∧
    (∀ l, v.level = l + 1 → s.pwr.throttle = false ∨ 16 < n.val ∨ l ≠ 0 → s.holdCycles ≤ cycles.toNat →
      s.thresh + s.hyst ≤ mv.toNat + 20 * l →
      exec (.stretchLevelDown n mv cycles) s = .next { s.countN (pwrBase + 0x804 + 8 * n) cycles.toNat with pwr := at_ l }) ∧
    (cycles.toNat < s.holdCycles → exec (.stretchLevelDown n mv cycles) s = .next s)

/-- R567, R568: the hottest die sensor is reported; each threshold that it crosses on its way up raises THERMAL; from 105 °C to 102 °C
islands 0–16 are throttled; at 115 °C, or with a stack at 105 °C, the device trips into RESET. -/
def Claim.TemperatureActs : Prop :=
  ∀ (s : State) (t : Byte), s.dev ≠ .reset →
    let n := t.toNat
    let warn := s.fld pwrBase 15 8
    let alert := if warn = 0 then false else if warn ≤ n then true else if n + 3 ≤ warn then false else s.pwr.alert
    let read := { s with pwr := { s.pwr with temp := n, tempHigh := max s.pwr.tempHigh n, alert := alert } }
    let event := fun (v : State) (source temp : Nat) => v.logEvent 0xB2 2 (evAt 0 source ||| evAt 1 temp)
    let crossed := if warn ≠ 0 ∧ warn ≤ n ∧ s.pwr.temp < warn then event read 0 n else read
    let trips := Does (.dieTempSample t) s fun u => Cleared (s.logged u) u ∧ u.dev = .reset ∧
      u.faultN = true ∧ u.pwr.held = true ∧ u.pwr.alert = true ∧ u.pwr.cause = 5
    (n < 105 → (∀ c : Fin 4, (s.hbmCtl c).temp < 105) → 102 < n ∨ s.pwr.throttle = false →
      exec (.dieTempSample t) s = .next crossed) ∧
    (n ≤ 102 → (∀ c : Fin 4, (s.hbmCtl c).temp < 105) → s.pwr.throttle = true →
      exec (.dieTempSample t) s = .next { crossed with pwr := { crossed.pwr with throttle := false } }) ∧
    (105 ≤ n → n < 115 → (∀ c : Fin 4, (s.hbmCtl c).temp < 105) → s.pwr.throttle = false → Does (.dieTempSample t) s fun u =>
      u.pwr.throttle = true ∧ u.pwr.temp = n ∧ u.dev = s.dev ∧
      u = { s.logged u with pwr := u.pwr, counters := u.counters }) ∧
    (105 ≤ n → n < 115 → (∀ c : Fin 4, (s.hbmCtl c).temp < 105) → s.pwr.throttle = true → s.pwr.temp < 105 →
      exec (.dieTempSample t) s = .next (event crossed 0 n)) ∧
    (115 ≤ n → trips) ∧ ((∃ c : Fin 4, 105 ≤ (s.hbmCtl c).temp) → trips)

/-- R577, R578, R579, R580: a level is accepted once it has held for 2 µs and a shorter change is a glitch; an active edge on an enabled
BOARD_EVT sets its PEND bit; an input held active for 10 ms is STUCK; a PPS edge within 10 µs of a whole TAI second is accepted. -/
def Claim.SlowInputsAreDeglitched : Prop :=
  ∀ (s : State) (i : Fin 21) (level : Bool), s.isInput i = true →
    let v := s.input i
    let put := fun (x : SlowInput) => { s with pwr := { s.pwr with inputs := sput SlowInput.low s.pwr.inputs i x } }
    let taken := put { v with level := v.raw, edge := v.rawAt, ignored := false }
    (v.raw ≠ level →
      (level = v.level → s.elapsed v.rawAt < usFtu 2 → i.val < 5 → exec (.inputChange i level) s =
        .next ((put { v with raw := level, rawAt := s.now }).count (pwrBase + 0xA00 + 4 * i))) ∧
      (level ≠ v.level ∨ usFtu 2 ≤ s.elapsed v.rawAt ∨ 5 ≤ i.val → exec (.inputChange i level) s =
        .next (put { v with raw := level, rawAt := s.now }))) ∧
    (v.raw ≠ v.level → s.elapsed v.rawAt < usFtu 2 → exec (.inputLevelAccept i) s = .next s) ∧
    (v.raw ≠ v.level → usFtu 2 ≤ s.elapsed v.rawAt →
      (5 ≤ i.val ∨ v.raw ≠ s.activeLevel i → exec (.inputLevelAccept i) s = .next taken) ∧
      (i.val < 4 → v.raw = s.activeLevel i → v.ignored = false → bitAt (s.reg pwrBase) i = true →
        exec (.inputLevelAccept i) s = .next
          { taken.count (pwrBase + 0xA30 + 4 * i) with
            pwr := { taken.pwr with pend := s.pwr.pend ||| BitVec.ofNat 4 (2 ^ i.val) } }) ∧
      (i.val < 4 → v.raw = s.activeLevel i → v.ignored = false → bitAt (s.reg pwrBase) i = false →
        exec (.inputLevelAccept i) s = .next taken) ∧
      (i.val = 4 → v.raw = true → v.ignored = false → s.tim.st ≠ .master →
        let phase := (v.rawAt.toNat + s.tim.taiOffset.toNat) % 2 ^ 96 % 16000000000
        let seen := fun (k : Nat) => { taken.pwr with ppsRejects := k, ppsLast := v.rawAt }
        (phase ≤ 160000 ∨ 16000000000 - 160000 ≤ phase → exec (.inputLevelAccept i) s =
          .next { taken.count (pwrBase + 0xA20) with pwr := seen 0 }) ∧
        (160000 < phase → phase < 16000000000 - 160000 → s.pwr.ppsRejects = 0 → exec (.inputLevelAccept i) s =
          .next (({ taken.count (pwrBase + 0xA24) with pwr := seen 1 } : State).logEvent 0xB1 1 (evAt 8 v.rawAt.toNat))))) ∧
    (∀ k : Fin 5, k.val = i.val → v.level = s.activeLevel i → v.raw = v.level → v.edge ≠ 0 → v.ignored = false →
      usFtu 10000 < s.elapsed v.edge → exec (.inputStuck k) s =
        .next ((put { v with stuck := true, ignored := true }).logEvent 0xB0 1 (evAt 0 k)))

/-- R542: the sensor numbers that the management controller reports are read anew every 1 ms. -/
def Claim.SensorsAreRead : Prop :=
  ∀ (s : State) (amps watts : BitVec 16),
    (s.dev ≠ .reset → s.mgt.sensorAt.toNat + usFtu 1000 ≤ s.nowN → exec (.sensorUpdate amps watts) s =
      .next { s with mgt := { s.mgt with
        sensors := [s.pwr.temp, (s.hbmCtl 0).temp, (s.hbmCtl 1).temp, (s.hbmCtl 2).temp, (s.hbmCtl 3).temp, amps.toNat, watts.toNat]
        sensorAt := s.now } }) ∧
    (s.nowN < s.mgt.sensorAt.toNat + usFtu 1000 → exec (.sensorUpdate amps watts) s = .next s)

/-- Adaptive islands, temperature, slow inputs, sensors. Where the manual leaves a point open this follows the model's choices: log entries
44, 88, 92, 93, 94. -/
def Obligations.PowerAndSensors : Prop :=
  Claim.IslandsStretch ∧ Claim.TemperatureActs ∧ Claim.SlowInputsAreDeglitched ∧ Claim.SensorsAreRead

/-- R394, R395, R396, R399: what an UP port hears: IDLE brings the watermark and acknowledges frames, CREDIT adds what its three entries
have freed, NAK has the blocks from EXP sent again, a REPLAY from EXP ends the discarding, a reserved word is counted. -/
def Claim.WordsHeardOnALink : Prop :=
  ∀ (s : State) (p : Fin 4) (w : BitVec 136) (c : BitVec 144), (s.rport p).link = .up →
    let s0 := s.setRport p { s.rport p with uncorr := 0 }
    let v := s0.rport p
    let wm : Time := BitVec.ofNat 64 (wordBytes w 1 8)
    let ack := BitVec.ofNat 16 (wordBytes w 9 2)
    let exp : BitVec 16 := BitVec.ofNat 16 (wordBytes w 1 2)
    let entry := fun (x : RingPort) (i : Nat) =>
      let pool := wordBytes w i 3 / 2 ^ 19 % 32
      let n := wordBytes w i 3 % 2 ^ 19
      { x with
        credit := smod 0 x.credit pool (· + (n + 2 ^ 19 - sget 0 x.seen pool) % 2 ^ 19)
        seen := sput 0 x.seen pool n }
    let whole := fun (e : RetryFrame) => e.f.trailer.isSome ∧ e.f.blocks ≤ (ack - e.seq).toNat ∧ (ack - e.seq).toNat ≤ 32768
    (ack ≠ v.acked → (ack - v.acked).toNat ≤ (v.seq - v.acked).toNat → ∃ k,
      (∀ e ∈ v.retry.take k, whole e) ∧ (∀ e, v.retry[k]? = some e → ¬whole e) ∧
      exec (.idle p w) s = .next (s0.setRport p { v with acked := ack, naks := 0, retry := v.retry.drop k, wmRx := wm })) ∧
    (ack = v.acked ∨ (v.seq - v.acked).toNat < (ack - v.acked).toNat →
      exec (.idle p w) s = .next (s0.setRport p { v with wmRx := wm })) ∧
    exec (.credit p w) s = .next (s0.setRport p (entry (entry (entry { v with wmRx := wm } 9) 12) 15)) ∧
    (v.naks + 1 < s.expert ringBase (ringBase + 0x30) 15 8 8 → exec (.nak p w) s = .next
      { (s0.setRport p { v with naks := v.naks + 1 }).count (ringCnt p 0x18) with
        sent := .replay p exp :: .word p (ctlWord 0x04 (beBytes 2 exp.toNat)) :: s.sent }) ∧
    (v.discarding = true → exp = v.exp → exec (.replay p w) s = .next (s0.setRport p
      { v with discarding := false, rx := v.rx.map fun x => { x with stall := none } })) ∧
    (v.discarding = false ∨ exp ≠ v.exp → exec (.replay p w) s = .next s0) ∧
    (c.toNat / 2 ^ 136 ∉ [0x01, 0x02, 0x03, 0x04, 0x08, 0x09, 0x0A, 0x10, 0x20, 0x21, 0x22, 0x23, 0x24] →
      exec (.badControlWord p c) s = .next (s0.count (ringCnt p 0x4C)))

/-- R394, R395, R399, R430: a port that is not UP hears and sends none of these words. -/
def Claim.LinksThatAreNotUpStaySilent : Prop :=
  ∀ (s : State) (p : Fin 4) (w : BitVec 136) (c : BitVec 144) (b : BitVec 160), (s.rport p).link ≠ .up →
    ∀ i ∈ [Instr.idle p w, .credit p w, .nak p w, .replay p w, .badControlWord p c, .fecUncorrectable p b, .nakRepeat p, .ackSend p,
      .creditReport p, .wmIdleSend p, .syncTSend p, .syncASend p, .syncTaiSend p, .linkLockLoss p], exec i s = .next s

/-- R391, R392, R393, R395: a codeword with one wrong data symbol is corrected; an uncorrectable one between frames is NAKed, sixteen in a
row put the link in HOLD. -/
def Claim.CodewordsAreCorrectedOrReplayed : Prop :=
  (∀ (c : BitVec 160) (j : Fin 30) (e : BitVec 5), syndromes c = (0, 0) → e ≠ 0 →
    decodeWord (c ^^^ (e.setWidth 160 <<< (155 - 5 * j.val))) = some (c.extractLsb' 10 150, true)) ∧
  (∀ c : BitVec 160, syndromes c = (0, 0) → decodeWord c = some (c.extractLsb' 10 150, false)) ∧
  ∀ (s : State) (p : Fin 4) (c : BitVec 160), (s.rport p).link = .up →
    let v := s.rport p
    let good := fun (t : State) => exec (.fecUncorrectable p c) s = .next (t.setRport p { v with uncorr := 0 })
    let usable := fun (d : BitVec 150) => if d.getLsbD 149 = true then d.toNat / 2 ^ 144 % 32 = 0 else d.toNat / 2 ^ 144 % 32 ≤ 18
    let lost := decodeWord c = none ∨ ∃ d, decodeWord c = some (d, false) ∧ ¬usable d
    (∀ d, decodeWord c = some (d, true) → usable d → good (s.count (ringCnt p 0x0C))) ∧
    (∀ d, decodeWord c = some (d, false) → usable d → good s) ∧
    (lost → v.uncorr + 1 < 16 → v.discarding = true → exec (.fecUncorrectable p c) s =
      .next ((s.count (ringCnt p 0x10)).setRport p { v with uncorr := v.uncorr + 1 })) ∧
    (lost → v.uncorr + 1 < 16 → v.discarding = false → v.rx = none → exec (.fecUncorrectable p c) s =
      .next (({ s with sent := .word p (ctlWord 0x03 (beBytes 2 v.exp.toNat)) :: s.sent } : State).setRport p
        { v with uncorr := v.uncorr + 1, discarding := true, nakAt := s.now } |>.count (ringCnt p 0x10) |>.count (ringCnt p 0x14))) ∧
    (lost → 16 ≤ v.uncorr + 1 → v.rx = none → exec (.fecUncorrectable p c) s = .next
      ((((s.count (ringCnt p 0x10)).setRport p { v with
        uncorr := v.uncorr + 1, link := .hold, hold := some s.now, rxNextOld := v.exp, discarding := false, oldPeer := v.peer,
        hello := none, helloSent := none, resumed := none }).logEvent 0x61 1 (evAt 0 p ||| evAt 2 (v.peer.getD 0))).count
          (ringCnt p 0x58)))

/-- R85, R395, R399: the words that an UP port sends by itself: IDLE with the watermark and ACK after ACK_INT blocks and after PERIOD, the
NAK again after 1 µs, and every pool's freed count within 4 µs. -/
def Claim.WordsSentOnALink : Prop :=
  ∀ (s : State) (p : Fin 4), (s.rport p).link = .up →
    let v := s.rport p
    let m := s.nextMark p
    let idle := { s.setRport p { v with wmTx := m, wmAt := s.now, unacked := 0 } with
      sent := .word p (ctlWord 0x01 (beBytes 8 m.toNat ++ beBytes 2 v.exp.toNat)) :: s.sent }
    let freed := fun (k : Nat) => beBytes 3 (k * 2 ^ 19 + sget 0 v.freed k % 2 ^ 19)
    let word := fun (i : Nat) =>
      Sent.word p (ctlWord 0x02 (beBytes 8 m.toNat ++ freed (3 * i) ++ freed (3 * i + 1) ++ freed (min 31 (3 * i + 2))))
    v.wmTx ≤ m ∧
    (s.expert ringBase (ringBase + 0x30) 23 16 64 ≤ v.unacked → exec (.ackSend p) s = .next idle) ∧
    (nsFtu (4 * s.expert fixBase (fixBase + 0x80) 15 8 25) ≤ s.elapsed v.wmAt → exec (.wmIdleSend p) s = .next idle) ∧
    (v.discarding = true → usFtu 1 ≤ s.elapsed v.nakAt → exec (.nakRepeat p) s = .next
      (({ s with sent := .word p (ctlWord 0x03 (beBytes 2 v.exp.toNat)) :: s.sent } : State).setRport p { v with nakAt := s.now }
        |>.count (ringCnt p 0x14))) ∧
    (usFtu 4 ≤ s.elapsed v.creditAt → exec (.creditReport p) s = .next
      { s.setRport p { v with wmTx := m, wmAt := s.now, creditAt := s.now } with
        sent := ((List.range 11).map word).reverse ++ s.sent })

/-- R415, R417: a break notice that has not come for 10 µs is forgotten, and so are avoid entries 10 ms old. -/
def Claim.BreaksAndAvoidEntriesExpire : Prop :=
  ∀ (s : State) (p : Fin 4),
    (∀ a t, (s.rport p).broken = some (a, t) → usFtu 10 ≤ s.elapsed t →
      exec (.breakClear p) s = .next (s.setRport p { s.rport p with broken := none })) ∧
    (∀ a t, (s.rport p).broken = some (a, t) → s.elapsed t < usFtu 10 → exec (.breakClear p) s = .next s) ∧
    Does .avoidExpire s fun u => (∀ e, e ∈ u.ring.avoid ↔ e ∈ s.ring.avoid ∧ s.elapsed e.2.2 < usFtu 10000) ∧
      u.ring.avoid.Sublist s.ring.avoid ∧ u = { s with ring := { s.ring with avoid := u.ring.avoid } }

/-- Control words, codewords and replay on a ring link. Where the manual leaves a point open this follows the model's choices: log entries
41, 57, 61. -/
def Obligations.RingWords : Prop :=
  Claim.WordsHeardOnALink ∧ Claim.LinksThatAreNotUpStaySilent ∧ Claim.CodewordsAreCorrectedOrReplayed ∧
    Claim.WordsSentOnALink ∧ Claim.BreaksAndAvoidEntriesExpire

/-- R405, R406, R411, R412, R416: the checks of a SOF in their order, and the way of a frame that passes them: it cuts through an output
that can start it, waits for one that cannot, or turns round; a frame discarded frees its space and its blocks are passed over. -/
def Claim.FramesAreCheckedAtTheirSof : Prop :=
  ∀ (s : State) (p : Fin 4) (flags : Byte) (hdr : BitVec 128) (blocks : BitVec 16), s.receives p = true →
    let s0 := s.setRport p { s.rport p with uncorr := 0 }
    let v := s0.rport p
    let h := RHdr.of hdr
    let f : RFrame :=
      { hdr := hdr, ots := fullOrigin h.ts s.now, inp := p, out := p, blocks := blocks.toNat, inPool := h.pool, payload := [],
        trailer := none, resent := flags.getLsbD 0 }
    let x : RxFrame := { f := f, fate := .discard, viol := false, arrival := s.now, seq := v.exp, stall := none }
    let s1 := s0.setRport p { v with exp := v.exp + 1, unacked := v.unacked + 1 }
    let freed := s1.setRport p { s1.rport p with freed := smod 0 (s1.rport p).freed h.pool (· + blocks.toNat) }
    let passed := fun (t : State) => t.setRport p { t.rport p with
      rx := none, exp := v.exp + blocks, unacked := (t.rport p).unacked + (blocks.toNat - 1) }
    let ends := fun (off : Nat) => exec (.sof p flags hdr blocks) s = .next ((passed freed).count (ringCnt p off))
    let unreachable := fun (k reason : Nat) => exec (.sof p flags hdr blocks) s = .next (passed
      (reportDiscard (freed.count (ringCnt p 0x28)) p (RHdr.of (if k = 0 then hdr else (s1.nextHop h p).2.bits)) f.ots 2 reason))
    let holds := fun (t : State) (y : RxFrame) => exec (.sof p flags hdr blocks) s = .next (t.setRport p { t.rport p with rx := some y })
    let bad := h.kind = 3 ∨ hdr.getLsbD 16 = true ∨ s.dimSize 0 ≤ indexOfNode h.dest 0 ∨ s.dimSize 1 ≤ indexOfNode h.dest 1
    let late := f.ots.toNat + s.ttl < s.nowN
    let d := dimOf p
    let skipped := s1.skips p (indexOfNode h.dest d) = true
    let out := (s1.nextHop h p).1
    let g : RFrame := { f with hdr := (s1.nextHop h p).2.bits, out := out }
    let back : RFrame := reverseFrame g
    let through := fun (t : State) (y : RFrame) =>
      let t1 := (startFrame t y.out y (some (.transit p))).count (ringCnt p 0x04)
      holds t1 { x with f := y, fate := .forward }
    v.rx = none → v.wmRx ≤ f.ots →
      (headerCrc hdr ≠ hdr.extractLsb' 0 16 → ends 0x1C) ∧
      (headerCrc hdr = hdr.extractLsb' 0 16 →
        (bad → unreachable 0 4) ∧
        (¬bad → late → ends 0x20) ∧
        (¬bad → ¬late → h.dest = s.ownNode → holds s1 { x with fate := .terminate }) ∧
        (¬bad → ¬late → h.dest ≠ s.ownNode → h.hops = 255 → ends 0x24) ∧
        (¬bad → ¬late → h.dest ≠ s.ownNode → h.hops ≠ 255 →
          (skipped → unreachable 0 (if indexOfNode h.dest (1 - d) = s1.ownIndex (1 - d) then 1 else 2)) ∧
          (¬skipped → s1.portDown out = false → s1.canSend out g = true → through s1 g) ∧
          (¬skipped → s1.portDown out = false → s1.canSend out g = false → holds s1 { x with f := g, fate := .wait }) ∧
          (¬skipped → s1.portDown out = true → (RHdr.of g.hdr).rev = false → s1.portDown (otherPort out) = false →
            (s1.canSend back.out back = true → through (s1.count (ringCnt p 0x40)) back) ∧
            (s1.canSend back.out back = false → holds (s1.count (ringCnt p 0x40)) { x with f := back, fate := .wait })) ∧
          (¬skipped → s1.portDown out = true → (RHdr.of g.hdr).rev = true ∨ s1.portDown (otherPort out) = true → unreachable 1 3)))

/-- R403, R404, R406, R408: the end of a transit frame: a good trailer goes on as it is, a stomped one too, a wrong PCRC is stomped here;
the space is freed as the frame leaves.  An input that stalls for longer than UNDERRUN ends the frame's output with a stomp. -/
def Claim.TransitFramesEnd : Prop :=
  ∀ (s : State) (p : Fin 4) (payload trailer : List Byte) (x : RxFrame), (s.rport p).rx = some x → trailer.length = 8 →
    let s0 := s.setRport p { s.rport p with uncorr := 0 }
    let crc := crc32cOf payload
    let pcrc := BitVec.ofNat 32 (beNat (trailer.take 4))
    let passed := fun (t : State) => t.setRport p { t.rport p with
      rx := none, exp := x.seq + BitVec.ofNat 16 x.f.blocks, unacked := (t.rport p).unacked + (x.f.blocks - 1) }
    let freed := s0.setRport p { s0.rport p with freed := smod 0 (s0.rport p).freed x.f.inPool (· + x.f.blocks) }
    let stomped := pcrc = ~~~crc ∨ trailer.getD 4 0 ≠ 0
    let stomp := beBytes 4 (~~~crc).toNat ++ [3] ++ beBytes 2 s.ownNode ++ [0]
    let leaves := fun (t : State) => exec (.transitTrailer p (payload ++ trailer)) s = .next (passed t)
    let wait := fun (tr : List Byte) =>
      s0.setRing { s0.ring with waits := s0.ring.waits ++ [{ x.f with payload := payload, trailer := some tr }] }
    let limit := nsFtu (8 * s.expert ringBase (ringBase + 0x30) 31 24 64)
    (s.receives p = true → payload.length ≤ s.ringMtu →
      (x.fate = .forward →
        (pcrc = crc → ¬stomped → leaves (endSending freed x.f.out payload trailer)) ∧
        (stomped → leaves ((endSending freed x.f.out payload trailer).count (ringCnt p 0x30))) ∧
        (pcrc ≠ crc → ¬stomped → leaves ((endSending freed x.f.out payload stomp).count (ringCnt p 0x2C)))) ∧
      (x.fate = .wait →
        (pcrc = crc → ¬stomped → leaves (wait trailer)) ∧
        (stomped → leaves ((wait trailer).count (ringCnt p 0x30))) ∧
        (pcrc ≠ crc → ¬stomped → leaves ((wait stomp).count (ringCnt p 0x2C))))) ∧
    (x.fate = .forward → limit < s.elapsed (x.stall.getD x.arrival) → (s.rport x.f.out).retry ≠ [] → (s.rport x.f.out).link = .up →
      Does (.ringUnderrun p) s fun u => (∃ re hdr crc, crc.length = 4 ∧
        u.sent = .ring x.f.out re hdr [] (crc ++ [1] ++ beBytes 2 s.ownNode ++ [0]) :: s.sent) ∧
        u.counters = (s.count (ringCnt p 0x2C)).counters ∧
        u = { s with ring := u.ring, counters := u.counters, sent := u.sent, freeCtr := u.freeCtr }) ∧
    (x.fate ≠ .forward ∨ s.elapsed (x.stall.getD x.arrival) ≤ limit → exec (.ringUnderrun p) s = .next s)

/-- R401, R417, R419, R420, R422: a frame that terminates here has arrived whole.  A DATA frame is dropped when stomped, before
synchronisation, in FROZEN and as a duplicate, is held back by XOFF, or enters the Loupe; a CTRL frame is an event; a MGMT frame is heard
only from a listed manager. -/
def Claim.FramesTerminate : Prop :=
  ∀ (s : State) (p : Fin 4) (payload trailer : List Byte) (x : RxFrame), (s.rport p).rx = some x → trailer.length = 8 →
    s.receives p = true → x.fate = .terminate →
    let s0 := s.setRport p { s.rport p with uncorr := 0 }
    let whole := s0.setRport p { s0.rport p with
      rx := none, exp := x.seq + BitVec.ofNat 16 x.f.blocks, unacked := (s0.rport p).unacked + (x.f.blocks - 1) }
    let freed := whole.setRport p { whole.rport p with freed := smod 0 (whole.rport p).freed x.f.inPool (· + x.f.blocks) }
    let h := RHdr.of x.f.hdr
    let good := BitVec.ofNat 32 (beNat (trailer.take 4)) = crc32cOf payload ∧
      BitVec.ofNat 32 (beNat (trailer.take 4)) ≠ ~~~crc32cOf payload ∧ trailer.getD 4 0 = 0 ∧ payload.length ≤ s.ringMtu
    let data := payload ++ trailer
    let y : RxFrame := { x with f := { x.f with payload := payload } }
    let k : Pkt := { Pkt.none with
      input := 18 + p, prio := h.cls, ots := x.f.ots, arrival := x.arrival, node := BitVec.ofNat 14 h.src,
      sport := BitVec.ofNat 5 h.sport, port := BitVec.ofNat 5 h.sport, ring := true, viol := x.viol, key := BitVec.ofNat 24 h.key,
      klass := BitVec.ofNat 3 h.cls, held := whole.heldFrom s.now, resent := x.f.resent }
    let open_ := whole.gateOpen = true ∧ s.dev ≠ .frozen ∧ whole.isDuplicate y = false
    let event := BitVec.ofNat 128 (leNat (payload.take 16))
    (¬good → ∀ i ∈ [(0, Instr.ringTerminate p (some data)), (1, .mgmtFrame p data), (2, .ctrlFrame p data)], h.kind = i.1 →
      exec i.2 s = .next (freed.count (ringCnt p 0x34))) ∧
    (good → h.kind = 0 →
      (whole.gateOpen = false → exec (.ringTerminate p (some data)) s = .next (freed.count (ringCnt p 0x3C))) ∧
      (whole.gateOpen = true → s.dev = .frozen → exec (.ringTerminate p (some data)) s =
        .next (reportDiscard (freed.count (ringCnt p 0x38)) p h x.f.ots 1 0)) ∧
      (whole.gateOpen = true → s.dev ≠ .frozen → whole.isDuplicate y = true →
        exec (.ringTerminate p (some data)) s = .next (freed.count (ringCnt p 0x44))) ∧
      (open_ → whole.xoff (18 + p) h.cls = true → exec (.ringTerminate p (some data)) s =
        .next (whole.setRport p { whole.rport p with heldBack := (whole.rport p).heldBack ++ [y] })) ∧
      (open_ → whole.xoff (18 + p) h.cls = false →
        (∀ t m, admitPacket freed k (whole.admitPool 8) payload = (t, some m) →
          exec (.ringTerminate p (some data)) s = .next (offerLoupe (t.count (ringCnt p 0x00)) m)) ∧
        (∀ t, admitPacket freed k (whole.admitPool 8) payload = (t, none) → exec (.ringTerminate p (some data)) s = .next t))) ∧
    (good → h.kind = 2 →
      (payload.getD 0 0 = 1 → payload.getD 1 0 = 0 → exec (.ctrlFrame p data) s = .next (freed.logEvent 0x68 1 event)) ∧
      (payload.getD 0 0 = 2 → payload.getD 1 0 ∈ ([1, 3, 4] : List Byte) →
        exec (.ctrlFrame p data) s = .next (freed.logEvent 0x69 1 event)) ∧
      (payload.getD 0 0 = 2 → payload.getD 1 0 = 2 → freed.ring.avoid.length < 64 →
        let dest := beNat ((payload.drop 4).take 2)
        exec (.ctrlFrame p data) s = .next ((freed.setRing { freed.ring with
          avoid := freed.ring.avoid ++ [(dest, !sget false freed.ring.lastOrder dest, s.now)] }).logEvent 0x69 1 event)) ∧
      (payload.getD 0 0 ∉ ([1, 2] : List Byte) → exec (.ctrlFrame p data) s = .next (freed.count (ringCnt p 0x4C)))) ∧
    (good → h.kind = 1 →
      (s.dev = .frozen → exec (.mgmtFrame p data) s = .next (reportDiscard (freed.count (ringCnt p 0x38)) p h x.f.ots 1 0)) ∧
      (s.dev ≠ .frozen → whole.isManager h.src = false → exec (.mgmtFrame p data) s = .next (freed.count (ringCnt p 0x48))) ∧
      (s.dev ≠ .frozen → whole.isManager h.src = true → exec (.mgmtFrame p data) s = .next (hearManager freed h.src payload)))

/-- R399, R406, R412: an idle output takes, of the frames that it can start, the one of the highest class, then the oldest, then the one
of the first input, with SWT's frame last; a frame beyond TTL is dropped as it is selected and in the recheck. -/
def Claim.OutputsSelectByClassAndAge : Prop :=
  ∀ (s : State) (p : Fin 4), s.ring.answers = [] →
    let ready := fun (f : RFrame) => f.out = p.val ∧ s.canSend p f = true
    let rank := fun (f : RFrame) => (RHdr.of f.hdr).cls
    let ahead := fun (a b : RFrame) => rank b < rank a ∨ (rank a = rank b ∧ a.ots < b.ots) ∨
      (rank a = rank b ∧ a.ots = b.ots ∧ a.inp < b.inp)
    let first := fun (i : Nat) (f : RFrame) => s.ring.waits[i]? = some f ∧ ready f ∧ ∀ (j : Nat) (g : RFrame),
      s.ring.waits[j]? = some g → ready g → j ≠ i → ahead f g ∨ (¬ahead g f ∧ i < j)
    let starts := fun (t : State) (f : RFrame) (how : Option Sending) => t.setRport p { t.rport p with
      credit := smod 0 (t.rport p).credit f.pool (· - f.blocks)
      retry := (t.rport p).retry ++ [{ seq := (t.rport p).seq, f := f }]
      seq := (t.rport p).seq + BitVec.ofNat 16 f.blocks
      sending := how }
    let unoffered := s.setRport p { s.rport p with offer := none }
    let transits := fun (i : Nat) (f : RFrame) =>
      let t := starts { s with ring := { s.ring with waits := ldrop s.ring.waits i } } f none
      let t1 := { t with sent := .ring p f.resent f.hdr f.payload (f.trailer.getD []) :: s.sent }.count (ringCnt f.inp 0x04)
      exec (.ringOutputSelect p) s = .next (t1.setRport f.inp { t1.rport f.inp with
        freed := smod 0 (t1.rport f.inp).freed f.inPool (· + f.blocks) })
    (∀ f, (s.rport p).offer = some f → s.canSend p f = true → (∀ g ∈ s.ring.waits, ready g → rank g < rank f ∨ (rank g = rank f ∧ f.ots < g.ots)) →
      exec (.ringOutputSelect p) s = .next (starts unoffered f (some .own))) ∧
    (∀ i f, first i f → f.inp < 4 → s.nowN ≤ f.ots.toNat + s.ttl →
      (∀ g, (s.rport p).offer = some g → s.canSend p g = true → ¬(rank f < rank g ∨ (rank f = rank g ∧ g.ots < f.ots))) →
      transits i f) ∧
    ((∀ g ∈ s.ring.waits, ¬ready g) → (∀ g, (s.rport p).offer = some g → s.canSend p g = false) →
      exec (.ringOutputSelect p) s = .next s) ∧
    Does .transitTtlRecheck s fun u => u.ring.waits = (s.ring.waits.filter fun f => !(f.inp < 4 && f.ots.toNat + s.ttl < s.nowN)) ∧
      u.ring.dims = s.ring.dims ∧ u = { s with ring := u.ring, counters := u.counters }

/-- R420: once CTRL_GAP has passed since the last report to a source, the discards counted since are reported to it in one CTRL frame;
without any, nothing is kept for it. -/
def Claim.DiscardsAreReportedOncePerGap : Prop :=
  ∀ (s : State) (src : BitVec 14) (g : CtrlGap), sfind s.ring.gaps src.toNat = some g →
    let kept := s.setRing { s.ring with gaps := sins s.ring.gaps src.toNat { sent := s.now, count := 0, report := none } }
    (s.nowN < g.sent.toNat + s.ctrlGap → exec (.ctrlGapExpire src) s = .next s) ∧
    (g.sent.toNat + s.ctrlGap ≤ s.nowN →
      (g.report = none → exec (.ctrlGapExpire src) s = .next (s.setRing { s.ring with gaps := sdel s.ring.gaps src.toNat })) ∧
      (∀ code reason f, g.report = some (code, reason, f) → src.toNat ≠ s.ownNode →
        let h := RHdr.of f.hdr
        exec (.ctrlGapExpire src) s = .next (queueOwn kept src.toNat 2
          ([BitVec.ofNat 8 code, BitVec.ofNat 8 reason] ++ beBytes 2 s.ownNode ++ beBytes 2 h.dest ++ beBytes 2 (min g.count 0xFFFF) ++
            beBytes 8 f.ots.toNat ++ beBytes 3 h.key ++ [BitVec.ofNat 8 h.cls] ++ leBytes 12 0))))

/-- Frames on the ring: checks, transit, termination, output choice. Where the manual leaves a point open this follows the model's choices:
log entries 55, 56, 58, 62. -/
def Obligations.RingFrames : Prop :=
  Claim.FramesAreCheckedAtTheirSof ∧ Claim.TransitFramesEnd ∧ Claim.FramesTerminate ∧ Claim.OutputsSelectByClassAndAge ∧
    Claim.DiscardsAreReportedOncePerGap

/-- R425, R430: a port trains where its die connects it; lock brings HELLO; training starts again after 100 µs, and 1 ms after a
REFUSE; loss of lock brings HOLD, and when HOLD ends the link is declared DOWN. -/
def Claim.LinksTrainAndHold : Prop :=
  ∀ (s : State) (p : Fin 4),
    let v := s.rport p
    let die := s.die (dimOf p)
    let may := die.inPlay = true ∧ (die.st = .join ∨ die.st = .play) ∧ v.link = .down
    let data := evAt 0 p ||| evAt 2 (v.peer.getD 0)
    (may → v.refused = false →
      exec (.linkSignalDetect p) s = .next (s.setRport p { v with link := .train, since := s.now })) ∧
    (¬may ∨ v.refused = true → exec (.linkSignalDetect p) s = .next s) ∧
    (v.link = .train ∨ v.link = .hold → exec (.trainLock p) s = .next (s.setRport p
      { v with link := .hello, since := s.now, hello := none, helloSent := none, resumed := none })) ∧
    (v.link = .train → usFtu 100 ≤ s.elapsed v.since →
      exec (.trainTimeout p) s = .next (s.setRport p { v with since := s.now })) ∧
    (v.refused = true → usFtu 1000 ≤ s.elapsed v.since → may →
      exec (.refuseRetry p) s = .next (s.setRport p { v with refused := false, since := s.now, link := .train })) ∧
    (v.link = .up → v.rx = none → exec (.linkLockLoss p) s = .next
      (((s.setRport p { v with
        link := .hold, hold := some s.now, rxNextOld := v.exp, discarding := false, oldPeer := v.peer, hello := none,
        helloSent := none, resumed := none }).logEvent 0x61 1 data).count (ringCnt p 0x58))) ∧
    (∀ t, v.hold = some t → s.elapsed t < usFtu (10 * s.fld (ringBase + 0xC) 31 16) → exec (.linkHoldExpire p) s = .next s) ∧
    (∀ t, v.hold = some t → usFtu (10 * s.fld (ringBase + 0xC) 31 16) ≤ s.elapsed t → v.retry = [] → v.sending = none →
      v.offer = none → (∀ f ∈ s.ring.waits, f.out ≠ p.val) → exec (.linkHoldExpire p) s =
        .next ((s.setRport p { v with link := .down, hold := none, counted := false, dead := true }).logEvent 0x62 2 data))

/-- R413, R414, R416: when a link is declared DOWN, a frame that waits for it goes the other way round, or is discarded when it has been
turned round already or both ways are dead. -/
def Claim.FramesLeaveADeadLink : Prop :=
  ∀ (s : State) (p : Fin 4) (f : RFrame),
    let h := RHdr.of f.hdr
    f.out = p.val → s.portDown p = true →
      (h.rev = false → s.portDown (otherPort p) = false → rerouteFrame s f =
        (s.setRing { s.ring with waits := s.ring.waits ++ [reverseFrame f] }).count (ringCnt f.countPort 0x40)) ∧
      (h.rev = true ∨ s.portDown (otherPort p) = true → rerouteFrame s f =
        reportDiscard ((freeBlocks s f.inp f.inPool f.blocks).count (ringCnt f.countPort 0x28)) f.countPort h f.ots 2 3) ∧
      RHdr.of (reverseFrame f).hdr = { h with rev := true, vc := true, xdir := h.xdir != (dimOf p == 0), ydir := h.ydir != (dimOf p != 0) } ∧
      headerCrc (reverseFrame f).hdr = (reverseFrame f).hdr.extractLsb' 0 16

/-- R394, R397, R399, R426, R430: HELLO goes out with this node's identity; one that fails a check is answered with REFUSE and its reason;
one that passes brings the link UP with sequence numbers from 0 and full credit. -/
def Claim.HellosBringLinksUp : Prop :=
  ∀ (s : State) (p : Fin 4) (w : BitVec 136),
    let v := s.rport p
    let d := dimOf p
    let size := s.dimSize d
    let h := parseHello w
    let i := indexOfNode h.node d
    let dist := if p.val % 2 = 0 then ringDist size i (s.ownIndex d) else ringDist size (s.ownIndex d) i
    let refuses := fun (r : Nat) => exec (.hello p w) s = .next
      (((({ s with sent := .word p (ctlWord 0x22 [BitVec.ofNat 8 r]) :: s.sent } : State).setRport p { v with
        link := .down, refused := true, since := s.now, hello := none, helloSent := none, resumed := none, refSent := r }).count
          (ringCnt p 0x50)).logEvent 0x63 1 (evAt 0 p ||| evAt 1 r ||| evAt 2 1))
    let c1 := wordBytes w 1 2 = s.systemId
    let c2 := wordByte w 6 = s.dimSize 0 ∧ wordByte w 7 = s.dimSize 1
    let c3 := h.port = otherPort p
    let c4 := h.node ≠ s.ownNode
    let c5 := h.node < 2 ^ 14 ∧ i < size ∧ indexOfNode h.node (1 - d) = s.ownIndex (1 - d)
    (v.link = .hello → (s.die d).st = .play →
      (¬c1 → refuses 1) ∧ (c1 → ¬c2 → refuses 2) ∧ (c1 → c2 → ¬c3 → refuses 3) ∧ (c1 → c2 → c3 → ¬c4 → refuses 4) ∧
      (c1 → c2 → c3 → c4 → ¬c5 → refuses 5) ∧ (c1 → c2 → c3 → c4 → c5 → 3 < dist → refuses 6) ∧
      (c1 → c2 → c3 → c4 → c5 → dist ≤ 3 → v.helloSent.isSome = true → h.joining = false → v.retry = [] → s.ring.waits = [] →
        v.heldBack = [] → Does (.hello p w) s fun u =>
          let up : RingPort := { v with
            link := .up, counted := true, dead := false, hold := none, refused := false, peer := some h.node, hello := none,
            helloSent := none, resumed := none, peerLeaves := false, leaveAcked := false, exp := 0, discarding := false, uncorr := 0,
            unacked := 0, rx := none, freed := [], creditAt := s.now, seq := 0, acked := 0, naks := 0, seen := []
            credit := (List.range 32).foldl (fun m k => sput 0 m k (s.fld (ringBase + 0x100 + 0x80 * otherPort p + 4 * k) 15 0)) [] }
          u = (s.setRport p up).logEvent 0x60 0 (evAt 0 p ||| evAt 2 (((s.setRport p up).rport p).peer.getD 0)))) ∧
    (v.link = .hello → (s.die d).st = .play → v.hello = none → v.helloSent = none → exec (.helloSend p) s =
      .next { s.setRport p { v with helloSent := some s.now } with
        sent := .word p (ctlWord 0x20 (beBytes 2 s.systemId ++ beBytes 2 s.ownNode ++ [BitVec.ofNat 8 p.val,
          BitVec.ofNat 8 (s.dimSize 0), BitVec.ofNat 8 (s.dimSize 1), BitVec.ofNat 8 (2 * b2n v.oldPeer.isSome)] ++
          beBytes 2 (v.oldPeer.getD 0) ++ beBytes 2 v.rxNextOld.toNat)) :: s.sent }) ∧
    (v.link ≠ .hello → exec (.helloSend p) s = .next s) ∧
    (v.link ≠ .hello → v.link ≠ .up → ∀ x ∈ [Instr.hello p w, .ringResume p w, .refuse p w, .leave p w, .leaveAck p w],
      exec x s = .next s) ∧
    (v.link = .hello → (s.die d).st = .play → v.hello = none → exec (.ringResume p w) s = .next (s.setRport p { v with
      resumed := some (wordBytes w 1 2 % 2 ^ 14, BitVec.ofNat 16 (wordBytes w 3 2), (wordByte w 5).testBit 0) })) ∧
    (v.link = .hello → (s.die d).st ≠ .join → wordByte w 1 < 8 → exec (.refuse p w) s = .next
      (((s.setRport p { v with
        link := .down, refused := true, since := s.now, hello := none, helloSent := none, resumed := none
        refRecv := wordByte w 1 }).count (ringCnt p 0x50)).logEvent 0x63 1 (evAt 0 p ||| evAt 1 (wordByte w 1)))) ∧
    (v.link = .up → v.rx = none → v.discarding = false → let s0 := s.setRport p { v with uncorr := 0 }
      exec (.leave p w) s = .next { s0.setRport p { s0.rport p with peerLeaves := true } with
        sent := .word p (ctlWord 0x24 (beBytes 2 s.ownNode)) :: s.sent }) ∧
    (v.link = .up → (s.die d).st = .leave → let s0 := s.setRport p { v with leaveAcked := true }
      exec (.leaveAck p w) s = .next (s0.setRport p { s0.rport p with uncorr := 0 }))

/-- R423, R425, R427, R428, R429, R433: the bypass dies: an operation of RING_CMD, its result, and what ends JOIN and LEAVE; a die that
moves counts an actuation and reports its wear once. -/
def Claim.BypassDiesSpliceAndPass : Prop :=
  ∀ (s : State) (d : Fin 2),
    let v := s.die d
    let put := fun (t : State) (x : Bypass) => { t with ring := { t.ring with dims := lset t.ring.dims d x } }
    let passes := fun (i : Instr) => Does i s fun u =>
      u.ring.dims = lset s.ring.dims d { v with
        st := .pass, moving := if v.inPlay = true ∨ v.moving = some true then some false else none } ∧
      (u.rport (2 * d)).link = .down ∧ (u.rport (2 * d + 1)).link = .down
    (∀ play, v.moving = some play → v.count + 1 < 95000000 ∨ v.wear = true → exec (.bypassActuated d) s =
      .next (put s { v with inPlay := play, moving := none, count := v.count + 1 })) ∧
    (∀ play, v.moving = some play → 95000000 ≤ v.count + 1 → v.wear = false → exec (.bypassActuated d) s =
      .next ((put s { v with inPlay := play, moving := none, count := v.count + 1, wear := true }).logEvent 0x67 1 (evAt 0 d))) ∧
    (v.moving = none → exec (.bypassActuated d) s = .next s) ∧
    (s.spliceLimit ≤ s.elapsed v.since → v.st = .join ∨ v.st = .leave → passes (.spliceTimeout d)) ∧
    (s.elapsed v.since < s.spliceLimit ∨ v.st = .play ∨ v.st = .pass → exec (.spliceTimeout d) s = .next s) ∧
    (v.st = .leave → s.drained (2 * d) = true → s.drained (2 * d + 1) = true → passes (.leaveDrainDone d)) ∧
    (s.drained (2 * d) = false ∨ s.drained (2 * d + 1) = false → exec (.leaveDrainDone d) s = .next s)

/-- R425, R428, R429, R433, R587: the six operations of RING_CMD, through a path that manages: SPLICE from PASS in RUN, LEAVE from PLAY with
a LEAVE word to each neighbour, PASS from PLAY and JOIN; what may not be done leaves its result and nothing else. -/
def Claim.RingCommandsActOnTheDies : Prop :=
  ∀ (s : State) (d : Fin 2) (p : Path), s.answers p = true → Path.manages p → s.variant.hasRing = true →
    let v := s.die d
    let op := fun (x y : Instr) => if d.val = 0 then x else y
    let doSplice := op (.spliceX p) (.spliceY p)
    let doLeave := op (.leaveX p) (.leaveY p)
    let doPass := op (.passX p) (.passY p)
    let result := fun (t : State) (r : Nat) => { t with ring := { t.ring with cmdResult := r } }
    let put := fun (t : State) (x : Bypass) => { t with ring := { t.ring with dims := lset t.ring.dims d x } }
    (v.st = .pass → s.dev = .run → 2 ≤ s.dimSize d →
      exec doSplice s = .next (result (put s { v with st := .join, moving := some true, since := s.now }) 0)) ∧
    (v.st = .pass → s.dev ≠ .run ∨ s.dimSize d < 2 → exec doSplice s = .next (result s 1)) ∧
    (v.st = .play → exec doSplice s = .next (result s 1)) ∧
    (v.st = .join ∨ v.st = .leave → exec doSplice s = .next (result s 2) ∧ exec doLeave s = .next (result s 2)) ∧
    (v.st = .pass → exec doLeave s = .next (result s 1)) ∧
    (v.st = .play → (s.rport (2 * d)).link ≠ .up → (s.rport (2 * d + 1)).link ≠ .up →
      exec doLeave s = .next (result (put s { v with st := .leave, since := s.now }) 0)) ∧
    (v.st = .play → (s.rport (2 * d)).link = .up → (s.rport (2 * d + 1)).link = .up → Does doLeave s fun u =>
      u.ring.cmdResult = 0 ∧ u.ring.dims = lset s.ring.dims d { v with st := .leave, since := s.now } ∧
      u.sent = .word (2 * d + 1) (ctlWord 0x23 (beBytes 2 s.ownNode)) :: .word (2 * d) (ctlWord 0x23 (beBytes 2 s.ownNode)) :: s.sent) ∧
    (v.st = .pass ∨ v.st = .leave → exec doPass s = .next (result s 1)) ∧
    (v.st = .play ∨ v.st = .join → Does doPass s fun u => u.ring.cmdResult = 0 ∧
      u.ring.dims = lset s.ring.dims d { v with
        st := .pass, moving := if v.inPlay = true ∨ v.moving = some true then some false else none } ∧
      (u.rport (2 * d)).link = .down ∧ (u.rport (2 * d + 1)).link = .down)

/-- Ring links, HELLO, bypass dies and RING_CMD. Where the manual leaves a point open this follows the model's choices: log entries 58, 59,
60. -/
def Obligations.RingLinksAndBypass : Prop :=
  Claim.LinksTrainAndHold ∧ Claim.FramesLeaveADeadLink ∧ Claim.HellosBringLinksUp ∧ Claim.BypassDiesSpliceAndPass ∧
    Claim.RingCommandsActOnTheDies

/-- R446, R448, R449: a poll that is due reads the level-1 line of the bitmap, or without it the doorbell records of every ACTIVE ring;
nonzero words are swapped, and the rings of set level-2 bits have their records read; a poll that finds nothing doubles the interval. -/
def Claim.PollsFindDoorbells : Prop :=
  ∀ (s : State) (fn : Fin 1028),
    let f := s.fn fn
    let p := f.p
    let counted := { s.count (hqeBase + 0x900) with hqe := { s.hqe with lastPoll := s.now, lastFn := fn } }
    let rs := s.activeRings fn
    (s.pollDue fn = true → nsFtu s.pollGap ≤ s.elapsed s.hqe.lastPoll → s.pollTurn fn = true →
      (f.bitmap = true → exec (.hqePoll fn) s = .next
        { counted.setFn fn { f with lastPoll := s.now, p := { Poll.none with active := true, line := true } } with
          sent := .hostRead fn f.sum.toNat 64 :: s.sent }) ∧
      (f.bitmap = false → rs ≠ [] → exec (.hqePoll fn) s = .next
        { counted.setFn fn { f with lastPoll := s.now, p := { Poll.none with active := true, records := rs } } with
          sent := ((recordLines rs).map fun l => Sent.hostRead fn (f.db.toNat + 64 * l) 64).reverse ++ s.sent })) ∧
    (s.pollDue fn = false ∨ s.elapsed s.hqe.lastPoll < nsFtu s.pollGap → exec (.hqePoll fn) s = .next s) ∧
    (∀ line : BitVec 512, s.hqeRuns fn = true → p.line = true →
      let ws := (List.range 8).filter fun i => line.extractLsb' (64 * i) 64 != 0
      (ws ≠ [] → exec (.summaryReadDone fn line) s = .next
        { s.setFn fn { f with p := { p with line := false, swaps := p.swaps ++ ws } } with
          sent := (ws.map fun i => Sent.hostSwap fn (f.sum.toNat + 8 * i)).reverse ++ s.sent }) ∧
      (ws = [] → p.active = true → p.swaps = [] → p.records = [] → p.found = false → exec (.summaryReadDone fn line) s =
        .next (s.setFn fn { f with p := Poll.none, interval := min (2 * f.interval) (s.pollMax fn) }))) ∧
    (∀ (slot : BitVec 11) (old : BitVec 64), s.hqeRuns fn = true → slot.toNat ∈ p.swaps →
      let bits := (List.range 64).filter fun i => old.getLsbD i
      (slot.toNat < 8 → bits ≠ [] → Does (.atomicSwapDone fn slot old) s fun u =>
        let ws := bits.flatMap fun b => [2 * (64 * slot.toNat + b), 2 * (64 * slot.toNat + b) + 1]
        (u.fn fn).p.swaps = p.swaps.erase slot.toNat ++ ws.map (8 + ·) ∧
        u.sent = (ws.map fun w => Sent.hostSwap fn (f.sum.toNat + 64 + 8 * w)).reverse ++ s.sent ∧
        u = { s with hqe := u.hqe, sent := u.sent }) ∧
      (8 ≤ slot.toNat → Does (.atomicSwapDone fn slot old) s fun u =>
        let rings := bits.map (64 * (slot.toNat - 8) + ·)
        let live := rings.filter fun r => (s.activeRing fn r).isSome
        u.sent = (live.map fun r => Sent.hostRead fn (f.db.toNat + 8 * r) 8).reverse ++ s.sent ∧
        sget 0 u.counters (hqeBase + 0x910) = sget 0 s.counters (hqeBase + 0x910) + (rings.length - live.length) ∧
        u = { s with hqe := u.hqe, sent := u.sent, counters := u.counters })) ∧
    (s.hqeRuns fn = false → exec (.hqePoll fn) s = .next s ∧ (∀ line, exec (.summaryReadDone fn line) s = .next s) ∧
      ∀ slot old, exec (.atomicSwapDone fn slot old) s = .next s)

/-- R444, R445, R449: a doorbell record with another generation, a reserved flag, or for a ring that is not ACTIVE is ignored and counted;
a producer index beyond the ring is a FAULT with one completion; any other is taken. -/
def Claim.DoorbellsAreChecked : Prop :=
  ∀ (s : State) (fn : Fin 1028) (r : BitVec 16) (record : BitVec 64), s.hqeRuns fn = true →
    let f := s.fn fn
    let p := f.p
    let heard := s.setFn fn { f with p := { p with records := p.records.erase r.toNat } }
    let counts := fun (off : Nat) => exec (.doorbellRead fn r record) s = .next (heard.count (hqeBase + off))
    let gen := record.toNat / 2 ^ 32 % 65536
    let flags := record.toNat / 2 ^ 49
    let pi := record.toNat % 2 ^ 32
    (r.toNat ∉ p.records → exec (.doorbellRead fn r record) s = .next s) ∧
    (r.toNat ∈ p.records → p.records.erase r.toNat ≠ [] →
      (s.hring fn r.toNat = none → counts 0x908) ∧
      ∀ v, s.hring fn r.toNat = some v →
        (gen ≠ v.gen → counts 0x908) ∧ (gen = v.gen → flags ≠ 0 → counts 0x90C) ∧
        (gen = v.gen → flags = 0 → v.fault = true ∨ v.dying.isSome = true → counts 0x908) ∧
        (gen = v.gen → flags = 0 → v.fault = false → v.dying = none →
          let ahead := (pi + 2 ^ 32 - v.ci) % 2 ^ 32
          (ahead ≤ 64 * 2 ^ v.sizeCode → exec (.doorbellRead fn r record) s = .next
            ((s.setHring fn r.toNat { v with pi := pi, solicit := record.getLsbD 48 }).setFn fn
              { f with p := { p with records := p.records.erase r.toNat, found := p.found || pi != v.pi } })) ∧
          (64 * 2 ^ v.sizeCode < ahead → v.typ ≠ .rx → ∃ (cookie w6 : Word) (c : Nat), exec (.doorbellRead fn r record) s = .next
            (postCompletion ({ heard with freeCtr := c }.setHring fn r.toNat { v with fault := true }) fn v.cq
              { d := completion v.typ.kind 2 r.toNat cookie (BitVec.ofNat 32 (v.ci % 65536)) 0 s.now (if v.typ = .tx then w6 else 0) 0
                solicit := false })))) ∧
    (p = { Poll.none with active := true, records := [r.toNat] } → s.hring fn r.toNat = none →
      exec (.doorbellRead fn r record) s = .next ((s.setFn fn { f with p := Poll.none, interval := min (2 * f.interval) (s.pollMax fn) }).count
        (hqeBase + 0x908)))

/-- R57, R450, R452, R460: descriptors are fetched in ring order, up to FETCH_MAX and never beyond PI, each with its entry index and its
fetch timestamp; none is fetched where the ring's completion ring is full or its port may not transmit. -/
def Claim.DescriptorsAreFetchedInOrder : Prop :=
  ∀ (s : State) (fn : Fin 1028) (r : BitVec 16) (ds : List Desc) (v : HRing), s.hring fn r.toNat = some v → v.fault = false → v.dying = none →
    let left := (v.pi + 2 ^ 32 - v.ci) % 2 ^ 32
    let size := 64 * 2 ^ v.sizeCode
    let full := ∃ q, s.hcq fn v.cq = some q ∧ q.full = true
    let may := v.typ = .rx ∨ (¬full ∧ (v.typ = .cmd ∨ (s.gateOpen = true ∧ s.xoff (s.hostInput fn) v.prio = false)))
    (s.hqeRuns fn = true → may → ds ≠ [] → ds.length ≤ s.fetchMax → ds.length ≤ left → v.ci < 2 ^ 32 →
      Does (.descriptorFetch fn r ds) s fun u => ∃ l : List HDesc,
        l.map (·.d) = ds ∧ (∀ i x, l[i]? = some x → x.idx = (v.ci + i) % 2 ^ 32 % size ∧ x.solicit = v.solicit) ∧ (∀ x, l[0]? = some x → x.stamp = (s.stamp 33 s.now).1) ∧
        u.hring fn r.toNat = some { v with ci := (v.ci + ds.length) % 2 ^ 32, fetched := v.fetched ++ l } ∧
        u.sent = .hostRead fn (v.base + 32 * (v.ci % size)) (32 * ds.length) :: s.sent ∧
        u.counters = (s.countN (hqeBase + 0x904) ds.length).counters ∧
        u = { s with hqe := u.hqe, tim := u.tim, sent := u.sent, counters := u.counters }) ∧
    (s.hqeRuns fn = false ∨ ¬may ∨ ds = [] ∨ s.fetchMax < ds.length ∨ left < ds.length →
      exec (.descriptorFetch fn r ds) s = .next s)

/-- R450, R451, R453, R461: the segments of a frame are gathered and their data read; a malformed frame completes once with BAD_FIELD; when
the last read has returned the frame is admitted and goes to the Loupe, and one completion says OK, DROPPED or DMA_ERROR. -/
def Claim.FramesAreTransmitted : Prop :=
  ∀ (s : State) (fn : Fin 1028) (r : BitVec 16) (v : HRing), s.hring fn r.toNat = some v → v.typ = .tx → v.fault = false →
    v.dying = none → s.hqeRuns fn = true →
    let tx := fun (f : TxFrame) (status reason : Nat) (t : State) => postCompletion t fn v.cq
      { d := completion 1 status r.toNat f.cookie (BitVec.ofNat 32 (f.idx + reason * 65536)) 0 t.now (f.ots.setWidth 32) 0
        solicit := f.solicit }
    (∀ (h : HDesc) (rest : List HDesc), v.fetched = h :: rest →
      let f := addSegment h v.frame
      let asks := if f.bad = true then s.sent
        else .hostRead fn (h.d.w2.toNat + 2 ^ 32 * h.d.w3.toNat) (bits h.d.w0 29 16) :: s.sent
      let goes := fun (x : HRing) => exec (.txSeg fn r) s = .next ({ s with sent := asks }.setHring fn r.toNat { x with fetched := rest })
      (bits h.d.w0 7 0 ≠ 0x01 → exec (.txSeg fn r) s = .next
        (postCompletion (s.setHring fn r.toNat { v with fetched := rest }) fn v.cq
          { d := completion 1 1 r.toNat h.d.w1 (BitVec.ofNat 32 (h.idx % 65536)) 0 s.now (h.stamp.setWidth 32) 0
            solicit := h.solicit })) ∧
      (bits h.d.w0 7 0 = 0x01 →
        (bitAt h.d.w0 9 = false → goes { v with frame := some f }) ∧
        (bitAt h.d.w0 9 = true → f.bad = false → f.segs ≤ 16 → f.total = f.frameLen → goes { v with frame := none, reads := v.reads ++ [f] }) ∧
        (bitAt h.d.w0 9 = true → f.bad = true ∨ 16 < f.segs ∨ f.total ≠ f.frameLen → exec (.txSeg fn r) s = .next
          (tx f 2 0 ({ s with sent := asks }.setHring fn r.toNat { v with fetched := rest, frame := none }))))) ∧
    (∀ (f : TxFrame) (rest : List TxFrame) (data : List Byte), v.reads = f :: rest →
      let taken := s.setHring fn r.toNat { v with reads := rest }
      let inp := s.hostInput fn
      let k : Pkt := { Pkt.none with
        input := inp, prio := v.prio, ots := f.ots, arrival := f.ots, node := BitVec.ofNat 14 s.ownNode
        sport := BitVec.ofNat 5 inp, port := BitVec.ofNat 5 inp, fn := fn, hring := r.toNat, held := taken.heldFrom s.now }
      exec (.txDataReadDone fn r data false) s = .next (tx f 6 0 (taken.count (hqeBase + 0x920))) ∧
      (data.length = f.frameLen →
        (∀ t, admitPacket taken k (taken.admitPool 4) data = (t, none) →
          exec (.txDataReadDone fn r data true) s =
            .next (tx f 7 (if taken.overLimit k (taken.admitPool 4) data = true then 2 else 1) t)) ∧
        (∀ t m, admitPacket taken k (taken.admitPool 4) data = (t, some m) →
          exec (.txDataReadDone fn r data true) s = .next (tx f 0 0 (offerLoupe t m)))) ∧
      (data.length ≠ f.frameLen → exec (.txDataReadDone fn r data true) s = .next s))

/-- R450, R454, R455, R457: a good RX_BUF is posted; a HOST copy at the head of its queue fills the next posted buffers in turn and its
completion follows, or it is dropped, or its queue waits. -/
def Claim.CopiesAreDelivered : Prop :=
  ∀ (s : State) (fn : Fin 1028) (r : BitVec 16) (v : HRing) (h : HDesc) (rest : List HDesc), s.hring fn r.toNat = some v →
    v.typ = .rx → v.dying = none → v.fetched = h :: rest → s.hqeRuns fn = true →
    let sound := bits h.d.w0 31 8 = 0 ∧ 64 ≤ h.d.w4.toNat ∧ h.d.w4.toNat ≤ 16384 ∧ h.d.w5 = 0 ∧ h.d.w6 = 0 ∧ h.d.w7 = 0
    let b : RxBuf :=
      { cookie := h.d.w1, addr := h.d.w2.toNat + 2 ^ 32 * h.d.w3.toNat, len := h.d.w4.toNat, idx := h.idx, solicit := h.solicit }
    let fails := fun (status : Nat) => ∃ (w2 w3 w6 w7 : Word) (c : Nat), bits w2 15 0 = h.idx % 65536 ∧ exec (.rxBuf fn r) s = .next
      (postCompletion ({ s with freeCtr := c }.setHring fn r.toNat { v with fetched := rest }) fn v.cq
        { d := completion 2 status r.toNat h.d.w1 w2 w3 s.now w6 w7, solicit := h.solicit })
    (bits h.d.w0 7 0 = 0x10 → sound →
      exec (.rxBuf fn r) s = .next (s.setHring fn r.toNat { v with fetched := rest, posted := v.posted ++ [b] })) ∧
    (bits h.d.w0 7 0 ≠ 0x10 → fails 1) ∧ (bits h.d.w0 7 0 = 0x10 → ¬sound → fails 2)

/-- R382, R455: a HOST copy goes as its ring and its completion ring allow. -/
def Claim.HostCopiesWaitOrGo : Prop :=
  ∀ (s : State) (o : Fin 22) (c : SwtCopy), (s.swtOut o).tx = some c → outDtype c.out = 2 →
    let fn := (s.ringOwner (outDest c.out)).1
    let r := (s.ringOwner (outDest c.out)).2
    let refuses := fun (t : State) => exec (.rxDeliver o) s = .next (dropCopy (t.setSwtOut o { t.swtOut o with tx := none }) c 0xA)
    let q := s.squeue c.queue
    let waits := exec (.rxDeliver o) s = .next
      ((s.setSqueue c.queue { q with frames := c :: q.frames, depth := q.depth + c.len }).setSwtOut o { s.swtOut o with tx := none })
    (s.hring fn r = none → refuses s) ∧
    ∀ v, s.hring fn r = some v → v.typ = .rx →
      (v.fault = true ∨ v.dying.isSome = true ∨ (s.fn fn).flrBusy = true → refuses s) ∧
      (v.fault = false → v.dying = none → (s.fn fn).flrBusy = false →
        (buffersFor c.len v.posted = none → 8 ≤ v.posted.length → refuses (s.count (hqeBase + 0x91C))) ∧
        (buffersFor c.len v.posted = none → v.posted.length < 8 → v.nobuf = true → refuses (s.count (hqeBase + 0x918))) ∧
        (buffersFor c.len v.posted = none → v.posted.length < 8 → v.nobuf = false → waits) ∧
        ∀ n, buffersFor c.len v.posted = some n →
          (8 < n → refuses (s.count (hqeBase + 0x91C))) ∧
          ∀ cq, n ≤ 8 → s.hcq fn v.cq = some cq →
            (cq.noRoom = true → waits) ∧
            (∀ (x : RelState) (b : RxBuf) (bs : List RxBuf), cq.noRoom = false → sfind s.swt.rels c.rel = some x → v.posted = b :: bs →
              let data := s.copyBytes c
              let used := v.posted.take n
              let filled := { s with mems := { s.mems with host := fillBuffers s.mems.host used data } }
              let done := postCompletion (filled.setHring fn r { v with posted := v.posted.drop n }) fn v.cq
                { d := completion 2 (if c.bad = true then 9 else 0) r b.cookie
                    (at' b.idx 0 ||| at' n 16 ||| at' x.r.klass.toNat 20 ||| at' x.r.colour.toNat 23 ||| at' (b2n x.r.late) 25 |||
                      at' x.r.port.toNat 26) (at' data.length 0) s.now (x.r.ots.setWidth 32) (at' x.r.key.toNat 0)
                  solicit := used.any (·.solicit) }
              exec (.rxDeliver o) s = .next (finishCopy done o c)))

/-- R458, R460, R464: a completion entry carries PHASE and goes to its place in host memory, and the vector is signalled by MOD_CNT,
SOLICIT or MOD_TIME; with the ring full the entry waits until the consumer record shows room. -/
def Claim.CompletionRingsFillAndSignal : Prop :=
  ∀ (s : State) (fn : Fin 1028) (q : BitVec 16) (c : Cq) (e : Completion), s.hcq fn q.toNat = some c →
    let size := 64 * 2 ^ c.sizeCode
    let f := s.fn fn
    let entry := { e.d with w7 := (e.d.w7 &&& 0x7FFFFFFF) ||| at' (if c.pi / size % 2 = 0 then 1 else 0) 31 }
    let written := { s with mems := { s.mems with host := writeBytes s.mems.host (c.base + 32 * (c.pi % size)) (Desc.bytes entry) } }
    let pi := (c.pi + 1) % 2 ^ 32
    let signalled := fun (t : State) => if f.msixEn = false then t
      else if f.msixMask = false ∧ sget false f.unmasked c.vector = true then { t with sent := .msix fn c.vector :: s.sent }
      else t.setFn fn { f with pendingVec := sput false f.pendingVec c.vector true }
    (c.waiting = [] → c.used < size → s.dev ≠ .frozen →
      (c.irq = true → e.solicit = true ∨ c.modCnt ≤ c.unsignalled + 1 → postCompletion s fn q.toNat e =
        signalled (written.setCq fn q.toNat { c with pi := pi, unsignalled := 0 })) ∧
      (c.irq = false ∨ (e.solicit = false ∧ c.unsignalled + 1 < c.modCnt) → postCompletion s fn q.toNat e =
        written.setCq fn q.toNat { c with
          pi := pi, unsignalled := c.unsignalled + 1, first := if c.unsignalled = 0 then s.now else c.first })) ∧
    (c.waiting ≠ [] ∨ size ≤ c.used ∨ s.dev = .frozen →
      postCompletion s fn q.toNat e = s.setCq fn q.toNat { c with waiting := c.waiting ++ [e] }) ∧
    (∀ ci : Word, s.hqeRuns fn = true → c.noRoom = true →
      let used := (c.pi + 2 ^ 32 - ci.toNat) % 2 ^ 32
      (c.waiting = [] → exec (.cqRecheck fn q ci) s = .next
        (let t := s.setCq fn q.toNat { c with ci := ci.toNat, full := decide (size ≤ used) }
         if size ≤ used ∧ c.full = false then t.count (hqeBase + 0x914) else t)) ∧
      (c.waiting ≠ [] → size ≤ used → exec (.cqRecheck fn q ci) s = .next
        (let t := s.setCq fn q.toNat { c with ci := ci.toNat, full := true }
         if c.full = false then t.count (hqeBase + 0x914) else t))) ∧
    (s.hqeRuns fn = false ∨ c.noRoom = false → ∀ ci, exec (.cqRecheck fn q ci) s = .next s) ∧
    (s.hqeRuns fn = true → c.irq = true → c.modTime ≠ 0 → c.unsignalled ≠ 0 → nsFtu (100 * c.modTime) ≤ s.elapsed c.first →
      exec (.modTimeExpire fn q) s = .next (signalled (s.setCq fn q.toNat { c with unsignalled := 0 }))) ∧
    (s.hqeRuns fn = false ∨ c.irq = false ∨ c.modTime = 0 ∨ c.unsignalled = 0 → exec (.modTimeExpire fn q) s = .next s)

/-- Host rings: polling, fetch, transmit, receive and completion. Where the manual leaves a point open this follows the model's choices: log
entries 53, 67, 68, 69, 71, 72. -/
def Obligations.HostQueueEngine : Prop :=
  Claim.PollsFindDoorbells ∧ Claim.DoorbellsAreChecked ∧ Claim.DescriptorsAreFetchedInOrder ∧ Claim.FramesAreTransmitted ∧
    Claim.CopiesAreDelivered ∧ Claim.HostCopiesWaitOrGo ∧ Claim.CompletionRingsFillAndSignal

/-- R441, R443, R469, R586: a write of FN_CTRL: EN 0 → 1 creates the admin pair from the page's registers, or sets ADMIN_FAULT where the
function holds no rings; EN 1 → 0 destroys the function's rings; SUM_EN cannot change while EN is 1. -/
def Claim.FunctionsAreEnabledAndDisabled : Prop :=
  ∀ (s : State) (p : Path) (fn : Fin 1028) (v : Word) (off : Nat), s.answers p = true →
    ((∃ k, p = .vf k ∧ fn.val = 4 + k.val ∧ off = 0) ∨ (∃ k, p = .pf k ∧ fn.val = k.val ∧ off = hqeBase + 0x1000) ∨
      ((p = .board ∨ ∃ k, p = .mc k) ∧ fn.val < 4 ∧ s.pfPresent fn = true ∧ off = hqeBase + 0x2000 + 0x100 * fn.val)) →
    let f := s.fn fn
    (bitAt f.ctrl 0 = false → bitAt v 0 = true →
      (s.ringsHeld fn = 0 ∨ s.cqsHeld fn = 0 → exec (.fnCtrlWrite p fn v) s =
        .next (s.setFn fn { f with ctrl := v &&& 2, adminFault := true })) ∧
      (s.ringsHeld fn ≠ 0 → s.cqsHeld fn ≠ 0 → Does (.fnCtrlWrite p fn v) s fun u =>
        u.fn fn = { f with
          ctrl := v &&& 3, active := true, adminFault := false, interval := bits f.poll 15 0, lastPoll := s.now, p := Poll.none } ∧
        u.hring fn 0 = some (HRing.new .cmd (bits f.adminCfg 3 0) 0 f.admin.toNat 0) ∧
        (∃ n t, 1 ≤ n ∧ n ≤ 255 ∧ u.hcq fn 0 =
          some (Cq.new (bits f.adminCfg 7 4) f.acq.toNat (bits f.adminCfg 18 8) (bitAt f.adminCfg 19) n t)) ∧
        u = { s with hqe := u.hqe, freeCtr := u.freeCtr })) ∧
    (bitAt f.ctrl 0 = true → bitAt v 0 = false → bitAt v 1 = bitAt f.ctrl 1 → exec (.fnCtrlWrite p fn v) s =
      .next { s with hqe := { s.hqe with
        rings := s.hqe.rings.filter fun e => e.1 / 65536 != fn.val
        cqs := s.hqe.cqs.filter fun e => e.1 / 65536 != fn.val
        fns := sput HqeFn.reset s.hqe.fns fn { f with ctrl := v &&& 2, active := false, p := Poll.none } } }) ∧
    (bitAt f.ctrl 0 = true → bitAt v 1 ≠ bitAt f.ctrl 1 → exec (.fnCtrlWrite p fn v) s = .next (flagError s 2 p off true)) ∧
    (bitAt f.ctrl 0 = false → bitAt v 0 = false →
      exec (.fnCtrlWrite p fn v) s = .next (s.setFn fn { f with ctrl := v &&& 2 }))

/-- R438, R464, R470: configuration space: AtomicOp Requester Enable, VF Enable and MSI-X; masked messages stay pending until their mask
goes; clearing VF Enable, and an FLR, leave no ring of the functions they reset, and an FLR keeps the limits that a PF has set. -/
def Claim.ConfigurationSpaceAndReset : Prop :=
  ∀ (s : State) (fn : Fin 1028), s.fnUp fn = true →
    let f := s.fn fn
    let sends := fun (g : HqeFn) => if g.msixEn = true ∧ g.msixMask = false
      then { s.setFn fn { g with pendingVec := g.pendingVec.filter fun e => !sget false g.unmasked e.1 } with
        sent := ((g.pendingVec.filter fun e => sget false g.unmasked e.1).map fun e => Sent.msix fn e.1).reverse ++ s.sent }
      else s.setFn fn g
    (∀ on, exec (.pcieConfigWrite fn (.atomicEnable on)) s = .next (s.setFn fn { f with atomic := on })) ∧
    (fn.val < 4 → exec (.pcieConfigWrite fn (.vfEnable true)) s = .next (s.setFn fn { f with vfEnable := true })) ∧
    (fn.val < 4 → Does (.pcieConfigWrite fn (.vfEnable false)) s fun u =>
      ∀ e ∈ u.hqe.rings, e ∈ s.hqe.rings ∧ ¬(4 ≤ e.1 / 65536 ∧ s.pfOf (e.1 / 65536) = fn.val)) ∧
    (4 ≤ fn.val → ∀ on, exec (.pcieConfigWrite fn (.vfEnable on)) s = .next s) ∧
    (∀ on mask, exec (.pcieConfigWrite fn (.msix on mask)) s = .next (sends { f with msixEn := on, msixMask := mask })) ∧
    (∀ (v : BitVec 11) (masked : Bool), fn.val < 4 ∨ v.toNat < 64 → exec (.msixTableWrite fn v masked) s =
      .next (sends { f with unmasked := sput false f.unmasked v.toNat (!masked) })) ∧
    (Does (.flr fn) s fun u => (∀ e ∈ u.hqe.rings, e ∈ s.hqe.rings ∧ e.1 / 65536 ≠ fn.val) ∧
      (∀ e ∈ u.hqe.cqs, e ∈ s.hqe.cqs ∧ e.1 / 65536 ≠ fn.val) ∧ (∀ e ∈ u.hqe.streams, e ∈ s.hqe.streams ∧ e.2.fn ≠ fn.val) ∧
      (4 ≤ fn.val → f.ringCount ≠ 0 → u.fn fn = { HqeFn.reset with
        ringFirst := f.ringFirst, ringCount := f.ringCount, cqFirst := f.cqFirst, cqCount := f.cqCount, vectors := f.vectors
        lineFirst := f.lineFirst, lineCount := f.lineCount }) ∧
      u = { s with hqe := u.hqe })

/-- R546: a PF's event ring signals its vector, and not again for 1 µs. -/
def Claim.EventRingsSignal : Prop :=
  ∀ (s : State) (pf : Fin 4) (r : EventRing), sfind s.events.rings pf = some r →
    let f := s.fn pf
    let quiet := { s with events := { s.events with
      rings := sins s.events.rings pf { r with dirty := false, holdoff := s.now + 16000 } } }
    (r.irq = true → r.dirty = true → r.holdoff ≤ s.now → s.dev ≠ .frozen → exec (.eventRingSignal pf) s = .next
      (if f.msixEn = false then quiet
       else if f.msixMask = false ∧ sget false f.unmasked r.vector = true then { quiet with sent := .msix pf r.vector :: s.sent }
       else quiet.setFn pf { f with pendingVec := sput false f.pendingVec r.vector true })) ∧
    (r.irq = false ∨ r.dirty = false ∨ s.now < r.holdoff ∨ s.dev = .frozen → exec (.eventRingSignal pf) s = .next s)

/-- R44, R467, R468: a snapshot is taken at each instant of its stream's period and at each requested time, with the next generation
number; one that finds the one before still undelivered, or its completion ring full, is missed; otherwise its slot is written
and its completion follows. -/
def Claim.SnapshotsAreTakenAndDelivered : Prop :=
  ∀ (s : State) (k : BitVec 8) (x : Stream), sfind s.hqe.streams k.toNat = some x →
    let put := fun (t : State) (y : Stream) => { t with hqe := { t.hqe with streams := sins t.hqe.streams k.toNat y } }
    let due := fun (t : Time) (y : Stream) =>
      (x.taken = none → Does (.snapshotTake k) s fun u => ∃ body : List Byte,
        let head := leBytes 4 x.gen.toNat ++ leBytes 2 k.toNat ++ leBytes 2 x.units ++ leBytes 8 t.toNat ++ leBytes 2 s.ownNode ++
          leBytes 2 s.systemId ++ leBytes 4 x.length ++ List.replicate 40 0
        sfind u.hqe.streams k.toNat = some { y with
          gen := x.gen + 1, taken := some (x.gen, t, head ++ body ++ leBytes 4 x.gen.toNat ++ [0, 0, 0, 0]) } ∧
        (x.units = 0 → body = []) ∧ (x.units.testBit 14 = false → u = { s with hqe := u.hqe })) ∧
      (x.taken.isSome = true → exec (.snapshotTake k) s = .next ((put s { y with gen := x.gen + 1 }).count (hqeBase + 0x924)))
    let instant := s.nowN / (16000 * x.period) * (16000 * x.period)
    (∀ t rest, x.requests = t :: rest → t ≤ s.now → due t { x with requests := rest }) ∧
    (x.requests = [] → x.period ≠ 0 → x.last.toNat < instant → due (BitVec.ofNat 64 instant) { x with last := BitVec.ofNat 64 instant }) ∧
    (x.requests = [] → x.period = 0 ∨ instant ≤ x.last.toNat → exec (.snapshotTake k) s = .next s) ∧
    (x.taken = none → exec (.snapshotDeliver k) s = .next s) ∧
    (∀ gen t bs, x.taken = some (gen, t, bs) →
      (s.hqeRuns x.fn = false ∨ (∀ c, s.hcq x.fn x.cq = some c → c.full = true) → exec (.snapshotDeliver k) s =
        .next ((put s { x with taken := none }).count (hqeBase + 0x924))) ∧
      (∀ c, s.hqeRuns x.fn = true → s.hcq x.fn x.cq = some c → c.full = false →
        let slot := gen.toNat % x.slots
        let filled := { s with mems := { s.mems with host := writeBytes s.mems.host (x.addr + slot * bs.length) bs } }
        exec (.snapshotDeliver k) s = .next (postCompletion (put filled { x with taken := none }) x.fn x.cq
          { d := completion 4 0 k.toNat gen (BitVec.ofNat 32 slot) (BitVec.ofNat 32 bs.length) s.now (t.setWidth 32) 0
            solicit := false })))

/-- Functions, their resets, event rings and snapshots. Where the manual leaves a point open this follows the model's choices: log entries
74, 75, 76, 77, 78, 79, 80. -/
def Obligations.HostFunctions : Prop :=
  Claim.FunctionsAreEnabledAndDisabled ∧ Claim.ConfigurationSpaceAndReset ∧ Claim.EventRingsSignal ∧
    Claim.SnapshotsAreTakenAndDelivered

/-- R16, R28, R537, R538, R539: the common checks: FROZEN, then the authority of the port, then the reserved fields; a command that fails one
completes with its status and has no other effect; on a port that is not served nothing happens. -/
def Claim.CommandsAreCheckedInOrder : Prop :=
  ∀ (s : State) (p : CmdPort) (d : Desc) (data : List Byte) (ok : Bool) (op : Nat) (i : Instr) (who : List Authority),
    CommandRow p d data ok op i who → opcodeOf d = op →
    let frozen := s.dev = .frozen ∧ op ∉ [0x0502, 0x0510, 0x0511, 0x0521, 0x0533, 0x0570, 0x0580, 0x0581]
    let may := authorityOf p ∈ who
    (s.serves p = false → exec i s = .next s) ∧
    (s.serves p = true →
      (frozen → Fails i s p d 0x0C) ∧
      (¬frozen → ¬may → Fails i s p d 0x04) ∧
      (¬frozen → may → bits d.w0 15 9 ≠ 0 → Fails i s p d 0x02))

/-- R29, R457, R458, R541, R544: the completion of a command: an entry on the ring's completion ring, a RESPONSE message to the bus owner,
or a MGMT answer to the node that sent the command, which is kept with its SEQ. -/
def Claim.CompletionsGoToTheirPorts : Prop :=
  ∀ (s : State) (d : Desc) (c : CmdResult),
    let entry := fun (ring idx : Nat) => completion 3 c.status ring d.w1 (BitVec.ofNat 32 idx) c.r0 s.now c.r1 (c.r2 &&& 0x7FFFFFFF)
    let alone := Desc.bytes { entry 0 0 with w7 := (entry 0 0).w7 &&& 0x7FFFFFFF ||| 0x80000000 }
    (∀ fn r idx sol v, c.status ≠ 6 → s.hring fn.val r.toNat = some v → completeCmd s (.ring fn r idx sol) d c =
      postCompletion s fn v.cq { d := entry r.toNat idx.toNat, solicit := sol }) ∧
    (∀ fn r idx sol, c.status ≠ 6 → s.hring fn.val r.toNat = none → completeCmd s (.ring fn r idx sol) d c = s) ∧
    (∀ tag, completeCmd s (.board tag) d c =
      { s with sent := .mctp ([0x7E, 0x1F, 0x9A, 0x02, tag] ++ leBytes 2 c.data.length ++ alone ++ c.data) :: s.sent }) ∧
    (∀ (node : BitVec 14) (seq : BitVec 16), completeCmd s (.fabric node seq) d c =
      let bytes := [0x01, 0x01] ++ leBytes 2 seq.toNat ++ leBytes 4 c.data.length ++ leBytes 8 0 ++ alone ++ c.data
      { s with ring := { s.ring with
        answers := s.ring.answers ++ [(node.toNat, bytes)]
        lastAnswer := sins s.ring.lastAnswer node.toNat (seq.toNat, bytes) } })

/-- R450, R456, R463, R186: the oldest fetched descriptor of a command ring: one of EXEC mode is run as the command of its opcode; one of
CORE mode becomes a work item of the Dealer, waits for room, or is refused; FENCE waits for the descriptors before it. -/
def Claim.CommandDescriptorsAreRun : Prop :=
  ∀ (s : State) (fn : Fin 1028) (r : BitVec 16) (data : List Byte) (ok : Bool) (v : HRing) (h : HDesc) (rest : List HDesc),
    s.hring fn r.toNat = some v → v.typ = .cmd → v.dying = none → v.fetched = h :: rest → s.hqeRuns fn = true →
    let s1 := s.setHring fn r.toNat { v with fetched := rest }
    let p := CmdPort.ring fn r (BitVec.ofNat 16 h.idx) h.solicit
    let op := opcodeOf h.d
    let item := [BitVec.ofNat 32 (3 + 16 * v.group + 256 * v.dprio + 4096 * (op % 256)), 0, 0, 0, h.stamp.setWidth 32,
      h.stamp.extractLsb' 32 32, 0, 0, h.d.w6, h.d.w7, BitVec.ofNat 32 (op * 65536 + r.toNat), BitVec.ofNat 32 (fn.val * 65536 + h.idx),
      h.d.w2, h.d.w3, h.d.w4, h.d.w5]
    let fails := fun (t : State) (status : Nat) => exec (.cmd fn r data ok) s = .next (postCompletion t fn v.cq
      { d := completion 3 status r.toNat h.d.w1 (BitVec.ofNat 32 (h.idx % 65536)) 0 s.now 0 0, solicit := h.solicit })
    let fence := bitAt h.d.w0 8 = true ∧ (v.items ≠ [] ∨ fenceHolds s fn r.toNat v h = true)
    (fence → exec (.cmd fn r data ok) s = .next s) ∧
    (bitAt h.d.w0 8 = false →
      (bits h.d.w0 7 0 ≠ 0x20 → fails s1 1) ∧
      (bits h.d.w0 7 0 = 0x20 → v.core = false → s.serves p = false → exec (.cmd fn r data ok) s = .next s) ∧
      (bits h.d.w0 7 0 = 0x20 → v.core = false → s.serves p = true →
        (∀ status, commandRefusal s1 p h.d = some status → exec (.cmd fn r data ok) s = .next (completeCmd s1 p h.d (.of status))) ∧
        (op = 0x0581 → bits h.d.w0 15 9 = 0 → operandsOf h.d = [0, 0, 0, 0, 0, 0] → exec (.cmd fn r data ok) s =
          .next (completeCmd s1 p h.d { status := 0, r0 := 0x16401F9A, r1 := s.mgt.fwVersion, r2 := BitVec.ofNat 32 s.ownNode, data := [] }))) ∧
      (bits h.d.w0 7 0 = 0x20 → v.core = true →
        (bits h.d.w0 15 9 ≠ 0 → fails s1 2) ∧ (bits h.d.w0 15 9 = 0 → 256 ≤ op → fails s1 1) ∧
        (bits h.d.w0 15 9 = 0 → op < 256 →
          (s.submitStatus item true = 2 → fails (countRefused s1) 0x13) ∧
          (s.submitStatus item true = 3 → fails (countRefused s1) 0x14) ∧
          (s.submitStatus item true = 0 → s.submitRoom item true = false → exec (.cmd fn r data ok) s = .next s) ∧
          (s.submitStatus item true = 0 → s.submitRoom item true = true → exec (.cmd fn r data ok) s = .next (enterSubmission
            (s.setHring fn r.toNat { v with fetched := rest, items := v.items ++ [(h.idx, h.d.w1, h.solicit)] }) item)))))

/-- The common checks of a command, its completion, and CMD descriptors. Where the manual leaves a point open this follows the model's
choices: log entries 96, 97, 99, 103, 104, 105. -/
def Obligations.CommandsAndCompletions : Prop :=
  Claim.CommandsAreCheckedInOrder ∧ Claim.CompletionsGoToTheirPorts ∧ Claim.CommandDescriptorsAreRun

/-- R441, R442, R457, R462, R464, R469: RING_CREATE and CQ_CREATE make a ring of the function with the fields of their operands, in range and
where none is; RING_DESTROY ends a completion ring that no ring names, and a descriptor ring once what it has fetched is complete. -/
def Claim.RingsAreCreatedAndDestroyed : Prop :=
  ∀ (s : State) (p : CmdPort) (d : Desc),
    let fn := fnOf p
    let r := bits d.w2 15 0
    let q := bits d.w3 13 0
    let create := Instr.ringCreate p d
    let typ := bits d.w2 17 16
    let others := if typ = 0 then bits d.w3 26 17 = 0 else if typ = 1 then bits d.w3 16 14 = 0 ∧ bits d.w3 26 18 = 0
      else bits d.w3 17 14 = 0 ∧ (bitAt d.w3 18 = true ∨ bits d.w3 26 19 = 0)
    let sound := bits d.w2 21 18 ≤ 10 ∧ wideOf d % 4096 = 0
    (s.accepts p d 0x0001 →
      (typ = 3 ∨ ¬others → Fails create s p d 0x02) ∧
      (typ ≠ 3 → others → s.ringInRange fn r = false ∨ s.cqInRange fn q = false → Fails create s p d 0x05) ∧
      (typ ≠ 3 → others → s.ringInRange fn r = true → s.cqInRange fn q = true →
        (¬sound → Fails create s p d 0x02) ∧
        (sound → s.hring fn r ≠ none ∨ s.hcq fn q = none → Fails create s p d 0x0C) ∧
        (sound → s.hring fn r = none → s.hcq fn q ≠ none → Succeeds create s p d (s.setHring fn r
          { HRing.new (if typ = 0 then .tx else if typ = 1 then .rx else .cmd) (bits d.w2 21 18) q (wideOf d) (bits d.w6 15 0) with
            prio := bits d.w3 16 14, nobuf := bitAt d.w3 17, core := bitAt d.w3 18, group := bits d.w3 22 19, dprio := bits d.w3 26 23 }) 0))) ∧
    (s.accepts p d 0x0002 →
      let c := bits d.w2 13 0
      let vec := bits d.w3 10 0
      let irq := bitAt d.w3 11
      let outside := s.cqInRange fn c = false ∨ (4 ≤ fn ∧ irq = true ∧ (s.fn fn).vectors ≤ vec)
      let bad := 10 < bits d.w2 17 14 ∨ bits d.w3 19 12 = 0 ∨ wideOf d % 4096 ≠ 0 ∨ (fn < 4 ∧ irq = true ∧ vec = 0)
      (outside → Fails (.cqCreate p d) s p d 0x05) ∧ (¬outside → bad → Fails (.cqCreate p d) s p d 0x02) ∧
      (¬outside → ¬bad → s.hcq fn c ≠ none → Fails (.cqCreate p d) s p d 0x0C) ∧
      (¬outside → ¬bad → s.hcq fn c = none → Succeeds (.cqCreate p d) s p d
        (s.setCq fn c (Cq.new (bits d.w2 17 14) (wideOf d) vec irq (bits d.w3 19 12) (bits d.w3 31 20))) 0)) ∧
    (s.accepts p d 0x0003 →
      (bitAt d.w2 16 = true → s.cqInRange fn r = true → s.hcq fn r ≠ none →
        (s.cqNamed fn r = true → Fails (.ringDestroy p d) s p d 0x0C) ∧
        (s.cqNamed fn r = false → Succeeds (.ringDestroy p d) s p d
          { s with hqe := { s.hqe with cqs := sdel s.hqe.cqs (65536 * fn + r) } } 0)) ∧
      (bitAt d.w2 16 = false → s.ringInRange fn r = true →
        (s.hring fn r = none ∨ r = 0 → Fails (.ringDestroy p d) s p d 0x0C) ∧
        ∀ v, s.hring fn r = some v → r ≠ 0 → v.dying = none →
          let dying := { v with dying := some (p, d), frame := none }
          (v.fetched ≠ [] ∨ v.reads ≠ [] ∨ v.items ≠ [] → exec (.ringDestroy p d) s = .next (s.setHring fn r dying)) ∧
          (v.fetched = [] → v.reads = [] → v.items = [] → exec (.ringDestroy p d) s = .next
            (let t := completeCmd (s.setHring fn r dying) p d (.of 0)
             { t with hqe := { t.hqe with rings := sdel t.hqe.rings (65536 * fn + r) } }))))

/-- R441, R462, R471: VF_CONFIG sets a VF's ranges and limits, inside its PF's share, apart from those of other VFs, and while its EN is 0. -/
def Claim.TenantsGetRanges : Prop :=
  ∀ (s : State) (p : CmdPort) (d : Desc), s.accepts p d 0x0004 →
    let pf := fnOf p
    let fn := s.vfBase pf + bits d.w2 9 0
    let meets := fun (a n b m : Nat) => a < b + m ∧ b < a + n ∧ 0 < n ∧ 0 < m
    let outside := s.totalVfs pf ≤ bits d.w2 9 0 ∨ s.ringShare pf < bits d.w3 15 0 + bits d.w3 31 16 ∨
      s.cqShare pf < bits d.w4 13 0 + bits d.w4 29 16
    let clash := ∃ e ∈ s.hqe.fns, 4 ≤ e.1 ∧ e.1 ≠ fn ∧
      ((s.pfOf e.1 = pf ∧ (meets (bits d.w3 15 0) (bits d.w3 31 16) e.2.ringFirst e.2.ringCount ∨
        meets (bits d.w4 13 0) (bits d.w4 29 16) e.2.cqFirst e.2.cqCount)) ∨ meets d.w6.toNat d.w7.toNat e.2.lineFirst e.2.lineCount)
    (outside → Fails (.vfConfig p d) s p d 0x05) ∧
    (¬outside → 64 < bits d.w5 6 0 ∨ clash → Fails (.vfConfig p d) s p d 0x02) ∧
    (¬outside → bits d.w5 6 0 ≤ 64 → ¬clash → bitAt (s.fn fn).ctrl 0 = true → Fails (.vfConfig p d) s p d 0x0C) ∧
    (¬outside → bits d.w5 6 0 ≤ 64 → ¬clash → bitAt (s.fn fn).ctrl 0 = false → Succeeds (.vfConfig p d) s p d (s.setFn fn
      { s.fn fn with
        ringFirst := bits d.w3 15 0, ringCount := bits d.w3 31 16, cqFirst := bits d.w4 13 0, cqCount := bits d.w4 29 16
        vectors := bits d.w5 6 0, lineFirst := d.w6.toNat, lineCount := d.w7.toNat }) 0)

/-- R465, R466, R467, R536: SNAP_CREATE reads and checks a stream's descriptor; SNAP_REQUEST asks for a snapshot at a time at least 2 µs
ahead; SNAP_DESTROY ends the stream. -/
def Claim.StreamsAreCreatedAndDestroyed : Prop :=
  ∀ (s : State) (p : CmdPort) (d : Desc) (data : List Byte) (ok : Bool),
    let k := bits d.w2 5 0
    let create := Instr.snapCreate p d data ok
    let x := streamOf s (fnOf p) (data.take 32)
    (s.accepts p d 0x0005 → s.hqe.streams.length < 64 → sfind s.hqe.streams k = none →
      (ok = false ∨ data.length < 32 → Fails create s p d 0x06) ∧
      (ok = true → 32 ≤ data.length →
        (streamOk (data.take 32) x = false → Fails create s p d 0x02) ∧
        (streamOk (data.take 32) x = true → x.units.testBit 1 = false ∨ s.variant.hasRing = true →
          (s.cqInRange (fnOf p) x.cq = false → Fails create s p d 0x05) ∧
          (s.cqInRange (fnOf p) x.cq = true → s.hcq (fnOf p) x.cq ≠ none → Succeeds create s p d
            { s with hqe := { s.hqe with streams := sins s.hqe.streams k x } } x.length)))) ∧
    (s.accepts p d 0x0005 → 64 ≤ s.hqe.streams.length → Fails create s p d 0x15) ∧
    (s.accepts p d 0x0005 → s.hqe.streams.length < 64 → sfind s.hqe.streams k ≠ none → Fails create s p d 0x0C) ∧
    (s.accepts p d 0x0006 → (sfind s.hqe.streams k = none → Fails (.snapRequest p d) s p d 0x0C) ∧
      ∀ y, sfind s.hqe.streams k = some y →
        (wideOf d < s.nowN + usFtu 2 → Fails (.snapRequest p d) s p d 0x0F) ∧
        (s.nowN + usFtu 2 ≤ wideOf d → Succeeds (.snapRequest p d) s p d
          { s with hqe := { s.hqe with streams := sins s.hqe.streams k { y with requests := y.requests ++ [d.w5 ++ d.w4] } } } 0)) ∧
    (s.accepts p d 0x0007 → (sfind s.hqe.streams k = none → Fails (.snapDestroy p d) s p d 0x0C) ∧
      (sfind s.hqe.streams k ≠ none → Succeeds (.snapDestroy p d) s p d
        { s with hqe := { s.hqe with streams := sdel s.hqe.streams k } } 0))

/-- R144, R155, R162, R163, R364, R471, R536: CLS_NODE_WRITE writes whole checked lines or none; an epoch is staged, committed to a free slot
for a time with the lead of MIN_LEAD, or aborted while pending; METER_WRITE writes a checked entry. -/
def Claim.ClassifierCommands : Prop :=
  ∀ (s : State) (p : CmdPort) (d : Desc) (data : List Byte),
    let write := Instr.clsNodeWrite p d data true
    let n := bits d.w2 24 16
    let first := d.w3.toNat
    let kind := bits d.w2 1 0
    let line := fun (i : Nat) => (data.drop (64 * i)).take 64
    let e := bits d.w2 15 0
    (s.accepts p d 0x0100 → authorityOf p = .host → 1 ≤ n → n ≤ 256 → kind ≠ 3 → first + n ≤ s.clsLines →
      (data.length < 64 * n → Fails write s p d 0x06) ∧
      (64 * n ≤ data.length →
        ((∀ i, i < n → lineCheck s p kind (line i) = 0) → Succeeds write s p d
          ((List.range n).foldl (fun t i => writeClsLine t (first + i) (line i)) s) 0) ∧
        (∀ i, i < n → (∀ j, j < i → lineCheck s p kind (line j) = 0) → lineCheck s p kind (line i) ≠ 0 → Answers write s p d s
          { CmdResult.of (lineCheck s p kind (line i)) with r0 := BitVec.ofNat 32 (first + i) }))) ∧
    (s.accepts p d 0x0100 → authorityOf p = .tenant → (let f := s.fn (fnOf p)
      first < f.lineFirst ∨ f.lineFirst + f.lineCount < first + n → ∃ r0, Answers write s p d s { CmdResult.of 0x05 with r0 := r0 })) ∧
    (s.accepts p d 0x0101 → authorityOf p = .host → 2048 ≤ data.length →
      (leNat (data.take 2) = e → descOk s.clsLines (data.take 2048) = true → Succeeds (.clsEpochStage p d data true) s p d
        { s with cls := { s.cls with staged := some (writeBytes [] 0 (data.take 2048)) } } 0) ∧
      (leNat (data.take 2) ≠ e ∨ descOk s.clsLines (data.take 2048) = false → Fails (.clsEpochStage p d data true) s p d 0x02)) ∧
    (s.accepts p d 0x0102 →
      (s.cls.staged = none → s.dev ≠ .swap → Fails (.clsEpochCommit p d) s p d 0x0E) ∧
      (s.dev = .swap → Fails (.clsEpochCommit p d) s p d 0x10) ∧
      ∀ b, s.cls.staged = some b → s.dev ≠ .swap →
        let used := fun (k : Nat) => k < 4 ∧ ((s.slot k).live = true ∨ (s.slot k).pending = true)
        let behind := ∃ k, used k ∧ (e = (s.slot k).number.toNat ∨ 32768 ≤ (e + 65536 - (s.slot k).number.toNat) % 65536)
        let late := wideOf d < s.nowN + s.minLead ∨ ∃ k, used k ∧ (d.w5 ++ d.w4 : Time) ≤ (s.slot k).commit
        (readLE b 0 2 ≠ e ∨ behind → Fails (.clsEpochCommit p d) s p d 0x0E) ∧
        (readLE b 0 2 = e → ¬behind → late → Fails (.clsEpochCommit p d) s p d 0x0F) ∧
        (readLE b 0 2 = e → ¬behind → ¬late →
          ((∀ k, k < 4 → used k) → Fails (.clsEpochCommit p d) s p d 0x10) ∧
          (∀ k, k < 4 → ¬used k → (∀ j, j < k → used j) → Succeeds (.clsEpochCommit p d) s p d
            (let t := s.setSlot k { FixSlot.empty with number := BitVec.ofNat 16 e, pending := true, commit := d.w5 ++ d.w4 }
             let kept := s.cls.descs.filter fun x => x.1 / 2048 != k
             { t with cls := { s.cls with staged := none, descs := b.foldl (fun m x => sput 0 m (2048 * k + x.1) x.2) kept } }) k))) ∧
    (s.accepts p d 0x0103 →
      ((∀ k, k < 4 → (s.slot k).pending = false ∨ (s.slot k).number.toNat ≠ e) → Fails (.clsEpochAbort p d) s p d 0x11) ∧
      (∀ k, k < 4 → (s.slot k).pending = true → (s.slot k).number.toNat = e →
        (∀ j, j < k → (s.slot j).pending = false ∨ (s.slot j).number.toNat ≠ e) →
        Succeeds (.clsEpochAbort p d) s p d ((s.setSlot k FixSlot.empty).logEvent 0x32 0 (epochData (s.slot k) k)) 0)) ∧
    (s.accepts p d 0x0200 → authorityOf p = .host →
      (s.meterCount ≤ bits d.w2 19 0 → Fails (.meterWrite p d data true) s p d 0x05) ∧
      (bits d.w2 19 0 < s.meterCount → data.length < 64 → Fails (.meterWrite p d data true) s p d 0x06) ∧
      (bits d.w2 19 0 < s.meterCount → 64 ≤ data.length →
        (meterOk (data.take 64) = true →
          Succeeds (.meterWrite p d data true) s p d (writeMeter s (bits d.w2 19 0) (data.take 64) s.nowN) 0) ∧
        (meterOk (data.take 64) = false → Fails (.meterWrite p d data true) s p d 0x02)))

/-- Commands for rings, tenants, streams and the classifier. Where the manual leaves a point open this follows the model's choices: log
entries 73, 81, 96, 98, 99, 100. -/
def Obligations.RingTenantStreamAndClassifierCommands : Prop :=
  Claim.RingsAreCreatedAndDestroyed ∧ Claim.TenantsGetRanges ∧ Claim.StreamsAreCreatedAndDestroyed ∧
    Claim.ClassifierCommands

/-- R303, R311, R315, R433, R462: the lock commands: LOCK_ACQUIRE takes a free lock as TRYLOCK does, LOCK_RELEASE frees the requester's,
SEM_TAKE takes a unit, each under the requester ID of its port; LOCK_FORCE frees a DATA lock and records it. -/
def Claim.LockCommands : Prop :=
  ∀ (s : State) (p : CmdPort) (d : Desc),
    let q := s.portRequester p
    let n := bits d.w2 13 0
    let m := bits d.w2 11 0
    let x := sget SemSt.empty s.lck.sems m
    (s.accepts p d 0x0300 →
      (sfind s.lck.locks n = none → Succeeds (.lockAcquire p d) s p d
        ((s.setLck { s.lck with locks := sins s.lck.locks n { holder := q, waiters := [] } }).count (lckBase + 0x900)) 0) ∧
      (∀ l, sfind s.lck.locks n = some l → l.holder = q → Succeeds (.lockAcquire p d) s p d s 0) ∧
      (∀ l, sfind s.lck.locks n = some l → l.holder ≠ q → Fails (.lockAcquire p d) s p d 0x0A)) ∧
    (s.accepts p d 0x0301 →
      ((∀ l, sfind s.lck.locks n = some l → l.holder ≠ q) →
        Answers (.lockRelease p d) s p d (s.count (lckBase + 0x918)) (.of 0x0B)) ∧
      (∀ l, sfind s.lck.locks n = some l → l.holder = q → l.waiters = [] → Succeeds (.lockRelease p d) s p d
        (signalInh (s.setLck { s.lck with locks := sdel s.lck.locks n }) q) 0)) ∧
    (s.accepts p d 0x0302 → (q, m) ∉ s.lck.unclaimed →
      (x.count ≠ 0 → Succeeds (.semTake p d) s p d ((s.setLck { s.lck with
        sems := sput SemSt.empty s.lck.sems m { x with count := x.count - 1 } }).count (lckBase + 0x900)) (x.count.toNat - 1)) ∧
      (x.count = 0 → Fails (.semTake p d) s p d 0x0A)) ∧
    (s.accepts p d 0x0303 →
      (sfind s.lck.locks n = none → Succeeds (.lockForce p d) s p d (s.setLck { s.lck with forceResult := 1 }) 1) ∧
      (∀ l, sfind s.lck.locks n = some l → s.configClass n = true →
        Succeeds (.lockForce p d) s p d (s.setLck { s.lck with forceResult := 2 }) 2) ∧
      (∀ l, sfind s.lck.locks n = some l → s.configClass n = false → l.waiters = [] → Succeeds (.lockForce p d) s p d
        (let t := signalInh (s.setLck { s.lck with locks := sdel s.lck.locks n }) l.holder
         ((t.setLck { t.lck with
           flog := sput FlogEntry.empty t.lck.flog t.lck.flogIdx { time := s.now, lock := n, forcer := q, holder := l.holder }
           flogIdx := (t.lck.flogIdx + 1) % 8
           forceResult := 0 }).count (lckBase + 0x914)).logEvent 0x50 1 (evAt 0 n ||| evAt 2 l.holder ||| evAt 4 q)) 0))

/-- R425, R433, R462: RING_OP does an operation of R433 and answers with its result; a part without a ring has none. -/
def Claim.RingOpCommand : Prop :=
  ∀ (s : State) (p : CmdPort) (d : Desc), s.accepts p d 0x0400 →
    let op := bits d.w2 3 0
    let t := (ringCommand s op).1
    let r := (ringCommand s op).2
    let done := { t with ring := { t.ring with cmdResult := r } }
    (s.variant.hasRing = false → Fails (.ringOp p d) s p d 0x03) ∧
    (s.variant.hasRing = true → op = 0 ∨ 7 ≤ op → Fails (.ringOp p d) s p d 0x02) ∧
    (s.variant.hasRing = true → 1 ≤ op → op ≤ 6 → r < 3 ∧
      Answers (.ringOp p d) s p d done (if r = 0 then .value 0 else .of (if r = 1 then 0x0C else 0x0A)))

/-- R531, R532, R538: PROFILE_SWITCH makes its checks in order and leaves the switch pending; PROFILE_CANCEL ends it with its event;
PROFILE_STATUS tells the active and the pending profile and the device state. -/
def Claim.ProfileCommands : Prop :=
  ∀ (s : State) (p : CmdPort) (d : Desc) (flashOk : Bool),
    let switch := Instr.profileSwitch p d flashOk
    let n := bits d.w2 1 0
    let img := s.flashImage n
    (s.accepts p d 0x0500 →
      (s.dev ≠ .idle → s.dev ≠ .run → Fails switch s p d 0x0C) ∧
      (s.dev = .idle ∨ s.dev = .run →
        (s.mgt.switch ≠ none → Fails switch s p d 0x0A) ∧
        (s.mgt.switch = none →
          (∀ r, flashOk = true → imageRefusal s img = some r → Answers switch s p d (refuseImage s n r) (.of r.status)) ∧
          (flashOk = true → imageRefusal s img = none →
            let t := writeAccepted s img
            (wideOf d ≤ t.nowN + usFtu 100 → Answers switch s p d t (.of 0x0F)) ∧
            (t.nowN + usFtu 100 < wideOf d → Succeeds switch s p d { t with mgt := { t.mgt with
              switch := some { profile := BitVec.ofNat 2 n, time := d.w5 ++ d.w4, image := img } } } 0))))) ∧
    (s.accepts p d 0x0501 →
      (s.mgt.switch = none → Fails (.profileCancel p d) s p d 0x11) ∧
      (∀ x, s.mgt.switch = some x → Succeeds (.profileCancel p d) s p d
        (({ s with mgt := { s.mgt with switch := none } } : State).logEvent 3 0 (evAt 0 x.profile.toNat ||| evAt 8 x.time.toNat)) 0)) ∧
    (s.accepts p d 0x0502 → ∃ r0, exec (.profileStatus p d) s = .next (completeCmd s p d
        { status := 0, r0 := r0, r1 := ((s.switchShown.map fun (x : PendingSwitch) => x.time).getD 0).setWidth 32,
          r2 := ((s.switchShown.map fun (x : PendingSwitch) => x.time).getD 0).extractLsb' 32 32 &&& 0x7FFFFFFF, data := [] }) ∧
      bits r0 1 0 = s.mgt.active.toNat ∧ (∀ x, s.switchShown = some x → bits r0 3 2 = x.profile.toNat) ∧
      bitAt r0 4 = s.switchShown.isSome ∧ bits r0 8 5 = s.dev.code)

/-- R515, R517, R536, R538: NEGATIVE_READ returns bytes of a Negative, to host memory or behind the completion; NEGATIVE_CLEAR erases it, but
not while it is being written. -/
def Claim.NegativeCommands : Prop :=
  ∀ (s : State) (p : CmdPort) (d : Desc),
    let c := bits d.w2 1 0
    let off := d.w3.toNat
    let n := d.w6.toNat
    let bs := readBytes s.hbm.neg (65536 * c + off) n
    let onRing := authorityOf p = .host
    let bad := off % 64 ≠ 0 ∨ n % 64 ≠ 0 ∨ 65536 < off + n ∨ (¬onRing ∧ 1024 < n)
    (s.accepts p d 0x0510 →
      (s.variant.hasStack c = false → Fails (.negativeRead p d) s p d 0x03) ∧
      (s.variant.hasStack c = true → bad → Fails (.negativeRead p d) s p d 0x02) ∧
      (s.variant.hasStack c = true → ¬bad → onRing → Answers (.negativeRead p d) s p d
        { s with mems := { s.mems with host := writeBytes s.mems.host (wideOf d) bs } } (.value d.w6)) ∧
      (s.variant.hasStack c = true → ¬bad → ¬onRing → Answers (.negativeRead p d) s p d s { CmdResult.value d.w6 with data := bs })) ∧
    (s.accepts p d 0x0511 →
      (s.variant.hasStack c = false → Fails (.negativeClear p d) s p d 0x03) ∧
      (s.variant.hasStack c = true → (s.hbmCtl c).negBusy.isSome = true → Fails (.negativeClear p d) s p d 0x0C) ∧
      (s.variant.hasStack c = true → (s.hbmCtl c).negBusy = none → Succeeds (.negativeClear p d) s p d
        (let t := { s with hbm := { s.hbm with neg := s.hbm.neg.filter fun e => e.1 / 65536 != c } }
         t.setHbmCtl c { t.hbmCtl c with negValid := false }) 0))

/-- R536, R538, R546: EVENT_RING_SET sets or disables a PF's event ring; EVENT_READ returns the records held from a SEQ on. -/
def Claim.EventCommands : Prop :=
  ∀ (s : State) (p : CmdPort) (d : Desc),
    let n := d.w6.toNat
    let rs := s.eventsFrom d.w3.toNat n
    let bs := rs.flatMap EventRec.bytes
    let result := { CmdResult.value (BitVec.ofNat 32 rs.length) with r1 := BitVec.ofNat 32 s.oldestEvent }
    let rings := fun (m : SMap EventRing) => { s with events := { s.events with rings := m } }
    (s.accepts p d 0x0520 →
      (wideOf d % 4096 ≠ 0 → Fails (.eventRingSet p d) s p d 0x02) ∧
      (wideOf d = 0 → Succeeds (.eventRingSet p d) s p d (rings (sdel s.events.rings (fnOf p))) 0) ∧
      (wideOf d % 4096 = 0 → wideOf d ≠ 0 → Succeeds (.eventRingSet p d) s p d (rings (sins s.events.rings (fnOf p)
        { base := wideOf d, records := 64 * 2 ^ bits d.w2 14 12, irq := bitAt d.w2 11, vector := bits d.w2 10 0, dirty := false
          holdoff := 0 })) 0)) ∧
    (s.accepts p d 0x0521 →
      (n = 0 ∨ 256 < n ∨ (authorityOf p = .board ∧ 1024 < 32 * n) → Fails (.eventRead p d) s p d 0x02) ∧
      (1 ≤ n → n ≤ 256 → authorityOf p = .host → Answers (.eventRead p d) s p d
        { s with mems := { s.mems with host := writeBytes s.mems.host (wideOf d) bs } } result) ∧
      (1 ≤ n → n ≤ 32 → authorityOf p = .board → Answers (.eventRead p d) s p d s { result with data := bs }))

/-- R64, R66, R275, R278, R347, R538, R587, R598: DEBUG_MODE, THREAD_RESET, TRAYS_RECLAIM, TAI_SET, REG_READ, REG_WRITE, DEVICE_RESET and
IDENTIFY. -/
def Claim.DeviceCommands : Prop :=
  ∀ (s : State) (p : CmdPort) (d : Desc),
    let c := bits d.w2 4 0
    let t := bits d.w2 9 0
    let r := bits d.w2 11 0
    (s.accepts p d 0x0540 →
      (bits d.w3 1 0 = 3 ∨ (16 < c ∧ c ≠ 31) → Fails (.debugMode p d) s p d 0x02) ∧
      (bits d.w3 1 0 ≠ 3 → c ≤ 16 → Succeeds (.debugMode p d) s p d
        (s.setReg (thrBase c + 0x400) (s.reg (thrBase c + 0x400) &&& ~~~3 ||| d.w3 &&& 3)) 0)) ∧
    (s.accepts p d 0x0541 →
      (bitAt d.w2 10 = false → Succeeds (.threadReset p d) s p d (killThread s t) 0) ∧
      (bitAt d.w2 10 = true → t < 8 → Succeeds (.threadReset p d) s p d (killThread s (1024 + t)) 0) ∧
      (bitAt d.w2 10 = true → 8 ≤ t → Fails (.threadReset p d) s p d 0x02)) ∧
    (s.accepts p d 0x0550 →
      (1090 ≤ r → Fails (.traysReclaim p d) s p d 0x02) ∧
      (r < 1090 → s.trays.reclaim ≠ none → Fails (.traysReclaim p d) s p d 0x0A) ∧
      (r < 1090 → s.trays.reclaim = none → Succeeds (.traysReclaim p d) s p d
        { s with trays := { s.trays with reclaim := some r } } 0)) ∧
    (s.accepts p d 0x0560 →
      (s.follower = true → Fails (.taiSet p d) s p d 0x0C) ∧
      (s.follower = false → ∃ next, Succeeds (.taiSet p d) s p d
        { s with tim := { s.tim with taiOffset := d.w4 ++ d.w3 ++ d.w2, taiGen := s.tim.taiGen + 1, ppsNext := next } } 0)) ∧
    (s.accepts p d 0x0570 → let path := if authorityOf p = .fabric then Path.fabric else .board
      Answers (.regRead p d) s p d (Sys2Proof.Machine.regRead s path d.w2.toNat).1
        (.value (Sys2Proof.Machine.regRead s path d.w2.toNat).2)) ∧
    (s.accepts p d 0x0571 → Answers (.regWrite p d) s p d (Sys2Proof.Machine.regWrite s .board d.w2.toNat d.w3).1
      (if (Sys2Proof.Machine.regWrite s .board d.w2.toNat d.w3).2 = true then .value 0 else .of 0x02)) ∧
    (s.accepts p d 0x0580 →
      (bitAt d.w2 0 = false → Fails (.deviceReset p d) s p d 0x02) ∧
      (bitAt d.w2 0 = true → s.mgt.warmAt = none → Succeeds (.deviceReset p d) s p d
        { s with mgt := { s.mgt with warmAt := some (s.now + 160000) } } 0) ∧
      (bitAt d.w2 0 = true → s.mgt.warmAt ≠ none → Succeeds (.deviceReset p d) s p d s 0)) ∧
    (s.accepts p d 0x0581 → Answers (.identify p d) s p d s
      { status := 0, r0 := 0x16401F9A, r1 := s.mgt.fwVersion, r2 := BitVec.ofNat 32 s.ownNode, data := [] })

/-- Commands for locks, the ring, profiles, Negatives, events and the device. Where the manual leaves a point open this follows the model's
choices: log entries 96, 98, 99, 102, 112. -/
def Obligations.LockProfileEventAndDeviceCommands : Prop :=
  Claim.LockCommands ∧ Claim.RingOpCommand ∧ Claim.ProfileCommands ∧ Claim.NegativeCommands ∧ Claim.EventCommands ∧
    Claim.DeviceCommands

/-- R548, R552: the Contact Sheet: CSH_ARM from IDLE or STOPPED, with a start time or none; the start time; CSH_STOP now or at a time; the
stop of a recording loads POST. -/
def Claim.CaptureStartsAndStops : Prop :=
  ∀ (s : State) (p : CmdPort) (d : Desc),
    let put := fun (c : Csh) => { s with csh := c }
    let post := s.fld cshBase 15 0
    let stopped := fun (c : Csh) => (put { c with stopT := none, st := .stopped }).logEvent 0x91 0 (evAt 4 s.cshLastSeq)
    let ends := fun (r : State → Prop) =>
      (s.csh.st = .armed → r (stopped { s.csh with startT := none })) ∧
      (s.csh.st = .recording → post = 0 → r (stopped s.csh)) ∧
      (s.csh.st = .recording → post ≠ 0 → r (put { s.csh with stopT := none, st := .post, postLeft := post })) ∧
      (s.csh.st = .idle ∨ s.csh.st = .stopped ∨ s.csh.st = .post → r (put { s.csh with stopT := none }))
    (s.accepts p d 0x0530 →
      (s.csh.st = .idle ∨ s.csh.st = .stopped → Succeeds (.cshArm p d) s p d (put { s.csh with
        st := .armed, wrptr := 0, startT := if wideOf d = 0 then none else some (d.w5 ++ d.w4), stopT := none, gap := 0
        samples := [], offers := [] }) 0) ∧
      (s.csh.st = .armed ∨ s.csh.st = .recording ∨ s.csh.st = .post → Fails (.cshArm p d) s p d 0x0C)) ∧
    (∀ t, s.csh.startT = some t → s.csh.st = .armed → t ≤ s.now → exec .cshStartTime s =
      .next ((put { s.csh with startT := none, st := .recording, overrun := false }).logEvent 0x90 0 (evAt 4 s.csh.seq.toNat))) ∧
    (∀ t, s.csh.startT = some t → s.now < t → exec .cshStartTime s = .next s) ∧
    (s.csh.startT = none → exec .cshStartTime s = .next s) ∧
    (∀ t, s.csh.stopT = some t → t ≤ s.now → ends fun u => exec .cshStopTime s = .next u) ∧
    (∀ t, s.csh.stopT = some t → s.now < t → exec .cshStopTime s = .next s) ∧
    (s.csh.stopT = none → exec .cshStopTime s = .next s) ∧
    (s.accepts p d 0x0531 →
      (wideOf d = 0 → ends fun u => Succeeds (.cshStop p d) s p d u 0) ∧
      (wideOf d ≠ 0 → s.csh.st = .armed ∨ s.csh.st = .recording →
        Succeeds (.cshStop p d) s p d (put { s.csh with stopT := some (d.w5 ++ d.w4) }) 0) ∧
      (wideOf d ≠ 0 → s.csh.st ≠ .armed → s.csh.st ≠ .recording → Succeeds (.cshStop p d) s p d s 0))

/-- R549, R550, R551, R553, R557: the record offered first is written behind the others in the region, at up to RATE_CAP, and the write
position moves past it; while port 4 stalls, or the last record has not used up its time, the record is dropped and counted, with
CSH_OVERRUN once. -/
def Claim.RecordsAreWrittenInOrder : Prop :=
  ∀ (s : State) (r : CshRec) (rest : List CshRec), s.csh.offers = r :: rest → s.dev ≠ .reset →
    let n := 48 + 16 * ((r.body.length + 15) / 16)
    let bytes := leBytes 8 r.time.toNat ++ leBytes 8 r.ots.toNat ++ leBytes 4 s.csh.seq.toNat ++
      [BitVec.ofNat 8 r.typ, BitVec.ofNat 8 r.flags, BitVec.ofNat 8 r.src, BitVec.ofNat 8 r.trig] ++ leBytes 2 r.body.length ++
      leBytes 2 r.frameLen ++ leBytes 3 r.key ++ [BitVec.ofNat 8 r.cls] ++ leBytes 2 r.node ++ leBytes 2 r.epoch ++
      List.replicate 12 0 ++ r.body ++ List.replicate (n - 48 - r.body.length) 0
    let cap := s.expert cshBase (cshBase + 0x40) 7 0 200
    let wr := s.csh.wrptr + n
    let size := s.cshSize
    (s.csh.gap = 0 → s.csh.rateSince ≤ s.now → wr ≤ size → wr < size ∨ bitAt (s.reg cshBase) 16 = false → s.csh.st = .recording →
      exec (.cshRecordWrite false) s = .next
        (let t := (hbmWrite { s with csh := { s.csh with offers := rest } } (s.cshRegion + s.csh.wrptr) bytes).count (cshBase + 0x900)
         { t with csh := { t.csh with
           wrptr := if wr = size then 0 else wr
           seq := t.csh.seq + 1
           rateSince := BitVec.ofNat 64 (s.nowN + (16 * n + cap - 1) / cap) } })) ∧
    (∀ stall : Bool, stall = true ∨ s.now < s.csh.rateSince ∨ size = 0 →
      let gap := if s.csh.gap = 0 then s.now else s.csh.gapTime
      let t := { s with csh := { s.csh with offers := rest, gap := s.csh.gap + 1, gapTime := gap, overrun := true } }
      exec (.cshRecordWrite stall) s = .next (if s.csh.overrun = true then t.count (cshBase + 0x904)
        else (t.count (cshBase + 0x904)).logEvent 0x92 1 (evAt 4 (s.csh.gap + 1))))

/-- R538, R549, R553: CSH_MARK offers a MARK record with the marker and the authority; CSH_READ returns bytes of the region. -/
def Claim.CaptureCommands : Prop :=
  ∀ (s : State) (p : CmdPort) (d : Desc),
    let off := d.w2.toNat + 2 ^ 32 * d.w3.toNat
    let n := d.w6.toNat
    let by_ := match authorityOf p with | .board => 0 | .fabric => 3 | _ => 1
    (s.accepts p d 0x0532 →
      (s.csh.st = .recording ∨ s.csh.st = .post →
        let t := { s with csh := { s.csh with offers := s.csh.offers ++
          [CshRec.plain 6 s.now (leBytes 4 d.w2.toNat ++ [BitVec.ofNat 8 by_])] } }
        Succeeds (.cshMark p d) s p d t t.cshLastSeq) ∧
      (s.csh.st ≠ .recording → s.csh.st ≠ .post → ∃ seq, Succeeds (.cshMark p d) s p d { s with freeCtr := s.freeCtr + 1 } seq)) ∧
    (s.accepts p d 0x0533 →
      (off % 16 ≠ 0 ∨ n % 16 ≠ 0 ∨ 2 ^ 24 < n ∨ s.cshSize < off + n ∨ (authorityOf p = .board ∧ 1024 < n) →
        Fails (.cshRead p d) s p d 0x02) ∧
      (off % 16 = 0 → n % 16 = 0 → n ≤ 2 ^ 24 → off + n ≤ s.cshSize →
        ∀ t bs, hbmRead s (s.cshRegion + off) n = (t, some bs) →
          (authorityOf p = .host → Answers (.cshRead p d) s p d
            { t with mems := { t.mems with host := writeBytes t.mems.host (wideOf d) bs } } (.value d.w6)) ∧
          (authorityOf p = .board → n ≤ 1024 → Answers (.cshRead p d) s p d t { CmdResult.value d.w6 with data := bs })) ∧
      (off % 16 = 0 → n % 16 = 0 → n ≤ 2 ^ 24 → off + n ≤ s.cshSize → authorityOf p = .host →
        ∀ t, hbmRead s (s.cshRegion + off) n = (t, none) → Answers (.cshRead p d) s p d t (.of 0x06)))

/-- The Contact Sheet: start, stop, records, MARK and READ. Where the manual leaves a point open this follows the model's choices: log
entries 96, 115, 116, 117, 118, 119, 120. -/
def Obligations.ContactSheet : Prop :=
  Claim.CaptureStartsAndStops ∧ Claim.RecordsAreWrittenInOrder ∧ Claim.CaptureCommands

/-- R49, R281, R532, R533, R600: a pending switch takes effect at T: at once in IDLE, by the steps of the Stop Bath in RUN: the drain, with
threads ended at DRAIN_LIMIT, the Fixer empty, the staged state loaded, and SWAP left for RUN with PROFILE_APPLIED. Where the manual
leaves a point open this follows the model's choices: log entries 20, 110. -/
def Obligations.ProfileSwitch : Prop :=
  ∀ s : State,
    let step := fun (x : SwapStep) (w : Swap) => { s with mgt := { s.mgt with swap := some { w with step := x } } }
    let applied := fun (u : State) (profile : BitVec 2) => u.dev = .run ∧ u.mgt.switch = none ∧ u.mgt.swap = none ∧
      u.mgt.active = profile ∧ u.mgt.bootSel = profile ∧ u.mgt.applied = true
    (∀ x, s.mgt.switch = some x →
      (s.now < x.time → exec .profileSwitchTime s = .next s) ∧
      (x.time ≤ s.now → s.dev = .idle → Does .profileSwitchTime s fun u => applied u x.profile) ∧
      (x.time ≤ s.now → s.dev = .run → Does .profileSwitchTime s fun u => u.dev = .swap ∧
        u.mgt = { s.mgt with switch := none, swap := some { sw := x, step := .drain, killed := 0 } } ∧ u.regs = s.regs ∧
        u = { s with dev := .swap, mgt := u.mgt, pkts := u.pkts })) ∧
    (s.mgt.switch = none → exec .profileSwitchTime s = .next s) ∧
    (∀ w, s.dev = .swap → s.mgt.swap = some w →
      (w.step = .drain → w.sw.time.toNat + usFtu (s.fld mgtBase 15 0) ≤ s.nowN → exec .drainLimitExpire s =
        .next (killForSwap { s with mgt := { s.mgt with swap := some { w with killed := w.killed + s.busyThreads.length } } })) ∧
      (s.nowN < w.sw.time.toNat + usFtu (s.fld mgtBase 15 0) ∨ w.step ≠ .drain → exec .drainLimitExpire s = .next s) ∧
      (w.step = .drain → s.drainDone = true → exec .stopBathDrainDone s = .next (step .fixer w)) ∧
      (w.step ≠ .drain ∨ s.drainDone = false → exec .stopBathDrainDone s = .next s) ∧
      (w.step = .fixer → s.fix.entries = [] → s.fix.reports = [] → exec .swapFixerEmpty s =
        .next (let t := applyImage s w.sw.image w.sw.time
               { t with mgt := { t.mgt with swap := some { w with step := .loaded } } })) ∧
      (w.step ≠ .fixer ∨ s.fix.entries ≠ [] → exec .swapFixerEmpty s = .next s) ∧
      (w.step = .loaded → Does .swapComplete s fun u => applied u w.sw.profile ∧
        u.mgt.switches = min 255 (s.mgt.switches + 1) ∧ u.regs = s.regs) ∧
      (w.step ≠ .loaded → exec .swapComplete s = .next s)) ∧
    (s.dev ≠ .swap → ∀ i ∈ [Instr.drainLimitExpire, .stopBathDrainDone, .swapFixerEmpty, .swapComplete], exec i s = .next s)

/-- R29, R541: a whole COMMAND message of vendor 0x1F9A runs the command that it carries, with board authority and its TAG; another
KIND, another length or another vendor is discarded. -/
def Claim.BoardCommandsAreRun : Prop :=
  (∀ (s : State) (tag : Byte) (desc data : List Byte),
    let msg := fun (kind : Byte) (n : Nat) => [0x7E, 0x1F, 0x9A] ++ [kind, tag] ++ leBytes 2 n ++ desc ++ data
    desc.length = 32 → data.length < 65536 →
    (s.serves (.board tag) = true → exec (.vendorCommand (msg 1 data.length)) s =
      .next (runCommand s (.board tag) (descOf desc) data true)) ∧
    (s.serves (.board tag) = false → exec (.vendorCommand (msg 1 data.length)) s = .next s) ∧
    (∀ kind n, n < 65536 → kind ≠ 1 ∨ n ≠ data.length → exec (.vendorCommand (msg kind n)) s = .next s)) ∧
  (∀ (s : State) (msg : List Byte), msg.take 3 ≠ [0x7E, 0x1F, 0x9A] → exec (.vendorCommand msg) s = .next s) ∧
  (∀ (w : Fin 8 → Word) (d : Desc), d = { w0 := w 0, w1 := w 1, w2 := w 2, w3 := w 3, w4 := w 4, w5 := w 5, w6 := w 6, w7 := w 7 } →
    descOf ((List.finRange 8).flatMap fun i => leBytes 4 (w i).toNat) = d)

/-- R540: the endpoint answers MCTP control requests: Set and Get Endpoint ID, version, message types and vendor, and refuses the
others.  The codes are those of the MCTP base protocol (the model's choice: log entry 70). -/
def Claim.ControlRequestsAreAnswered : Prop :=
  ∀ (s : State) (inst : Byte), s.dev ≠ .reset → inst.getLsbD 7 = true →
    let ask := fun (cmd : Byte) (data : List Byte) => Instr.mctpControl ([0x00, inst, cmd] ++ data)
    let answer := fun (t : State) (cmd : Byte) (b : List Byte) => { t with sent := .mctp ([0x00, inst &&& 0x1F, cmd] ++ b) :: t.sent }
    (∀ (op eid : Byte), op.toNat % 4 < 2 → eid ≠ 0 → eid ≠ 0xFF →
      exec (ask 1 [op, eid]) s = .next (answer { s with mgt := { s.mgt with eid := eid } } 1 [0x00, 0x00, eid, 0x00])) ∧
    (∀ (op eid : Byte), 2 ≤ op.toNat % 4 ∨ eid = 0 ∨ eid = 0xFF → exec (ask 1 [op, eid]) s = .next (answer s 1 [0x02])) ∧
    (∀ data, exec (ask 2 data) s = .next (answer s 2 [0x00, s.mgt.eid, 0x00, 0x00])) ∧
    (∀ data, ∃ v n, v.length = 4 ∧ exec (ask 4 data) s = .next (answer { s with freeCtr := n } 4 ([0x00, 0x01] ++ v))) ∧
    (∀ data, exec (ask 5 data) s = .next (answer s 5 [0x00, 0x02, 0x01, 0x7E])) ∧
    (∀ data, ∃ v n, v.length = 2 ∧ exec (ask 6 data) s =
      .next (answer { s with freeCtr := n } 6 ([0x00, 0xFF, 0x00, 0x1F, 0x9A] ++ v))) ∧
    (∀ (cmd : Byte) data, cmd.toNat = 0 ∨ cmd.toNat = 3 ∨ 7 ≤ cmd.toNat → exec (ask cmd data) s = .next (answer s cmd [0x05]))

/-- R540, R542: the device reads its sensors to PLDM: numeric sensors 1 to 7 and the state sensor 8; a type that R540 does not list
is not served, and in BOOT without firmware only type 5 is.  The codes are those of PLDM (the model's choice: log entry 70). -/
def Claim.SensorsAreReadOverPldm : Prop :=
  ∀ (s : State) (inst : Byte), s.dev ≠ .reset → inst.getLsbD 7 = true →
    let ask := fun (typ cmd : Byte) (data : List Byte) => Instr.pldmMessage ([0x01, inst, typ, cmd] ++ data)
    let answer := fun (t : State) (typ cmd : Byte) (b : List Byte) =>
      { t with sent := .mctp ([0x01, inst &&& 0x1F, typ, cmd] ++ b) :: t.sent }
    (s.mgt.boot.firmware = true → ∀ id, id < 65536 →
      (∀ v, 1 ≤ id → s.mgt.sensors[id - 1]? = some v → ∃ x n, x.length = 3 ∧ exec (ask 2 0x11 (leBytes 2 id ++ [0])) s =
        .next (answer { s with freeCtr := n } 2 0x11 ([0x00, 0x03, 0x00, 0x00] ++ x ++ leBytes 2 v))) ∧
      (id = 0 ∨ s.mgt.sensors.length < id → exec (ask 2 0x11 (leBytes 2 id ++ [0])) s = .next (answer s 2 0x11 [0x80])) ∧
      (id = 8 → ∃ x n, x.length = 2 ∧ exec (ask 2 0x21 (leBytes 2 id ++ [0, 0])) s =
        .next (answer { s with freeCtr := n } 2 0x21 ([0x00, 0x01, 0x00, BitVec.ofNat 8 s.dev.code] ++ x))) ∧
      (id ≠ 8 → exec (ask 2 0x21 (leBytes 2 id ++ [0, 0])) s = .next (answer s 2 0x21 [0x80]))) ∧
    (∀ typ cmd data, typ.toNat % 64 ≠ 0 → typ.toNat % 64 ≠ 2 → typ.toNat % 64 ≠ 5 → exec (ask typ cmd data) s = .next s) ∧
    (s.mgt.boot.firmware = false → ∀ typ cmd data, typ.toNat % 64 ≠ 5 → exec (ask typ cmd data) s = .next s)

/-- R522–R524, R528, R543: an update of firmware fills the slot that is not in use and rewrites the header copy not used, with SEQ + 1
and ACTIVE naming that slot; an update of a profile fills its place.  Each raises FW_UPDATED; what does not pass its check
leaves the flash as it was. -/
def Claim.UpdatesFillTheFlash : Prop :=
  ∀ (s : State) (data : List Byte) (verified : Bool), s.dev ≠ .reset → swf 0xFF s.mems.flash = true →
    let byte := fun (u : State) (a : Nat) => sget 0xFF u.mems.flash a
    let frame := fun (u : State) => u = { s.logged u with mems := { s.mems with flash := u.mems.flash, host := u.mems.host }
                                                          freeCtr := u.freeCtr }
    let slot := if s.mgt.boot.firmware then !s.mgt.fwSlot else !s.bootHeader.slot
    let start := if slot then 0x2000000 else 0x1000000
    let copy := if s.headerInForce = some 0 then 4096 else 0
    let h := s.bootHeader
    let body := [0x41, 0x4C, 0x44, 0x48, 0x01, 0x00, BitVec.ofNat 8 h.h0.toNat, BitVec.ofNat 8 h.h1.toNat, BitVec.ofNat 8 slot.toNat,
      BitVec.ofNat 8 h.fallback.toNat, 0x00, 0x00] ++ leBytes 4 ((h.seq + 1) % 2 ^ 32) ++ List.replicate 4076 0
    let image := body ++ leBytes 4 (crc32cOf body).toNat
    let updated := fun (t : State) (component version : Nat) => t.logEvent 4 0 (evAt 0 component ||| evAt 4 version)
    (firmwareOk data = true → verified = true → Does (.pldmUpdate 1 data verified) s fun u => frame u ∧
      (∀ a, byte u a = if copy ≤ a ∧ a < copy + 4096 then image.getD (a - copy) 0
        else if start ≤ a ∧ a < start + data.length then data.getD (a - start) 0 else byte s a) ∧
      u.events = (updated { s with mems := u.mems } 1 (leNat ((data.drop 4).take 4))).events) ∧
    (firmwareOk data = false ∨ verified = false → exec (.pldmUpdate 1 data verified) s = .next s) ∧
    (∀ c : BitVec 16, 0x10 ≤ c.toNat → c.toNat ≤ 0x13 →
      (∀ r, imageRefusal s data = some r → exec (.pldmUpdate c data verified) s = .next (refuseImage s (c.toNat - 0x10) r)) ∧
      (imageRefusal s data = none → Does (.pldmUpdate c data verified) s fun u => frame u ∧
        ∀ a, byte u a = if 0x10000000 + 0x4000000 * (c.toNat - 0x10) ≤ a ∧ a < 0x10000000 + 0x4000000 * (c.toNat - 0x10) + data.length
          then data.getD (a - (0x10000000 + 0x4000000 * (c.toNat - 0x10))) 0 else byte s a)) ∧
    (∀ c : BitVec 16, c.toNat ≠ 1 → c.toNat < 0x10 ∨ 0x13 < c.toNat → exec (.pldmUpdate c data verified) s = .next s)

/-- I3C0: board commands, MCTP control, sensors and updates (codes: log entry 70). Where the manual leaves a point open this follows the
model's choices: log entries 70, 106, 107, 108, 109. -/
def Obligations.BoardServices : Prop :=
  Claim.BoardCommandsAreRun ∧ Claim.ControlRequestsAreAnswered ∧ Claim.SensorsAreReadOverPldm ∧ Claim.UpdatesFillTheFlash

/-- R502, R503, R505, R512: a request of at most one line reaches its controller: an ACTIVE one that has room takes it, a frozen one answers a
read with poison and discards a write; a request at AGE_LIMIT is trumped and counted once. -/
def Claim.RequestsReachTheirController : Prop :=
  ∀ (s : State) (c : Fin 4) (port : Fin 8) (req : BitVec 12) (op : BitVec 2) (addr : BitVec 38) (len : BitVec 7) (data : List Byte),
    let v := s.hbmCtl c
    let a := addr.toNat
    let n := len.toNat
    let o := HbmOp.of op
    let e : HbmEntry := { addr := a, port := port, req := req.toNat, op := o, len := n, data := data, arrival := s.now, late := false,
                          trumped := false, issued := false }
    let legal := a < 0x3000000000 ∧ (hbmDecode a).stack = c.val ∧ port.val ≠ 7 ∧ 1 ≤ n ∧ a % 64 + n ≤ 64 ∧ (op ≠ 0 → data.length = n)
    let reads := op = 0 ∨ op = 2
    let room := (v.entries.filter fun x => x.reads == e.reads).length < (if reads then 1024 else 512) ∧
      (v.entries.filter fun x => x.port == port.val).length < 256
    let run := exec (.hbmRequest c port req op addr len data) s
    (legal → v.st = .active → room → run = .next (s.setHbmCtl c { v with entries := v.entries ++ [e] })) ∧
    (legal → v.st = .active → ¬room → run = .next s) ∧
    (legal → v.st = .frozen → reads →
      run = .next ((s.setHbmCtl c { v with answer := some (e, [], true) }).count (hbmCnt c 0x20))) ∧
    (legal → v.st = .frozen → ¬reads → run = .next (s.count (hbmCnt c 0x24))) ∧
    (¬legal → run = .next s) ∧
    (∀ (k : BitVec 11) (x : HbmEntry), v.entries[k.toNat]? = some x → v.st = .active → x.late = true →
      (x.trumped = false → usFtu (s.fld hbmBase 23 16) ≤ s.elapsed x.arrival → exec (.hbmTrump c k) s =
        .next ((s.setHbmCtl c { v with entries := lset v.entries k.toNat { x with trumped := true } }).count (hbmCnt c 0x14))) ∧
      (x.trumped = true ∨ s.elapsed x.arrival < usFtu (s.fld hbmBase 23 16) → exec (.hbmTrump c k) s = .next s))

/-- R498, R503, R504, R505: a pseudo-channel's slot goes to the trumped requests, oldest first, then by urgency and deadline, then to row
hits, then the rest, of the side, reads or writes, that it serves; a read latches the data and a write is carried out. -/
def Claim.SlotsGoByUrgency : Prop :=
  ∀ (s : State) (c : Fin 4) (pc : Fin 32), (s.hbmCtl c).st = .active →
    let v := s.hbmCtl c
    let ws := (v.waitingOn pc).filter fun e => !e.2.reads
    let urgent := ∃ e ∈ ws, s.urgency e.2 = some 2 ∨ s.urgency e.2 = some 3 ∨ s.urgency e.2 = some 4
    let drain := s.drains (v.pc pc).draining ws
    let v1 := v.setPc pc { v.pc pc with draining := drain }
    let s1 := s.setHbmCtl c v1
    let es := (v1.waitingOn pc).filter fun e => (e.2.reads != drain) && v1.inOrder e.1 e.2
    let issues := fun (k : Nat) (e : HbmEntry) => exec (.hbmCommandIssue c pc) s = .next (issueEntry (noteLate s1 c k) c pc k e)
    let first := fun (f : HbmEntry → Nat) (q : HbmEntry → Prop) (k : Nat) (e : HbmEntry) => (k, e) ∈ es ∧ q e ∧
      ∀ x ∈ es, q x.2 → f e < f x.2 ∨ (f e = f x.2 ∧ k ≤ x.1)
    let age := fun (e : HbmEntry) => e.arrival.toNat
    let at_ := fun (u : Nat) (e : HbmEntry) => s.urgency e = some u
    let no := fun (u : Nat) => ∀ x ∈ es, ¬at_ u x.2
    let hit := fun (e : HbmEntry) => (at_ 0 e ∨ at_ 1 e) ∧ v1.hits e = true
    let hits := (v1.pc pc).hits < s.rowHitMax ∧ ∃ x ∈ es, hit x.2
    (drain = true ↔ urgent ∨ (if (v.pc pc).draining = true then s.wqLow < ws.length else s.wqHigh ≤ ws.length)) ∧
    (∀ k e, first age (at_ 4) k e → issues k e) ∧
    (∀ k e, no 4 → first s.deadline (at_ 3) k e → issues k e) ∧
    (∀ k e, no 4 → no 3 → first s.deadline (at_ 2) k e → issues k e) ∧
    (∀ k e, no 4 → no 3 → no 2 → hits → first age hit k e → issues k e) ∧
    (∀ k e, no 4 → no 3 → no 2 → ¬hits → first s.deadline (at_ 1) k e → issues k e) ∧
    (∀ k e, no 4 → no 3 → no 2 → ¬hits → no 1 → first s.deadline (at_ 0) k e → issues k e) ∧
    (es = [] → (v1.pc pc).postponed = 0 → exec (.hbmCommandIssue c pc) s = .next s1) ∧
    (∀ k e, v.entries[k]? = some e →
      let bursts := (hbmBursts e.addr e.len).length
      (e.op = .read → ∃ w, w.entries = lset v.entries k { e with issued := true, data := readBytes s.mems.hbm e.addr e.len } ∧ w.st = v.st ∧
        issueEntry s c pc k e = (s.setHbmCtl c w).countN (hbmCnt c 0x00) bursts) ∧
      (e.op = .write → ∃ w, w.entries = ldrop v.entries k ∧ w.st = v.st ∧ issueEntry s c pc k e =
        ({ s.setHbmCtl c w with mems := { s.mems with hbm := writeBytes s.mems.hbm e.addr e.data } } : State).countN (hbmCnt c 0x04) bursts))

/-- R500, R501, R508, R509: refreshes are issued or postponed behind urgent requests, four times at most; the temperature is read, and the
device notes 95 °C once; a returned read answers its requester, with a correction recorded and written back; the scrub goes on burst by
burst. -/
def Claim.StacksAreTended : Prop :=
  ∀ (s : State) (c : Fin 4) (pc : Fin 32) (t : Byte),
    let v := s.hbmCtl c
    let p := v.pc pc
    let urgent := ∃ e ∈ v.waitingOn pc, s.urgency e.2 = some 2 ∨ s.urgency e.2 = some 3 ∨ s.urgency e.2 = some 4
    let refresh := { v with history := (v.history ++ [hbmCommand s 3 0]).drop (v.history.length + 1 - 64) }
    let corrects := fun (i : Instr) (w : HbmCtl) (a : Nat) (counted : State → State) => s.fld (hbmBase + 8) 15 0 = 0 →
      (∀ e ∈ w.entries, e.reads = true ∨ e.issued = true) →
      let t := s.setHbmCtl c w
      let fresh := (t.hbmCtl c).ceSecond ≠ s.nowN / 16000000000
      exec i s = .next (counted ((t.setHbmCtl c { t.hbmCtl c with
        ceAddr := a, ceTime := s.now, ceSecond := s.nowN / 16000000000, ceCount := if fresh then 1 else (t.hbmCtl c).ceCount + 1
        ceRaised := if fresh then false else (t.hbmCtl c).ceRaised })))
    (v.st = .active → urgent → p.postponed < 4 → exec (.hbmRefresh c pc) s =
      .next ((s.setHbmCtl c (v.setPc pc { p with postponed := p.postponed + 1 })).count (hbmCnt c 0x18))) ∧
    (v.st = .active → ¬urgent ∨ 4 ≤ p.postponed → exec (.hbmRefresh c pc) s = .next (s.setHbmCtl c refresh)) ∧
    (v.st ≠ .active → exec (.hbmRefresh c pc) s = .next s ∧ ∀ e, exec (.hbmScrub c e) s = .next s) ∧
    (v.st = .active ∨ (v.st = .frozen ∧ v.cause < 5) →
      (95 ≤ t.toNat → v.tempHigh = false → exec (.hbmTempRead c t) s =
        .next ((s.setHbmCtl c { v with temp := t.toNat, tempHigh := true }).logEvent 0x81 1 (evAt 0 c ||| evAt 1 t.toNat))) ∧
      (t.toNat < 90 → exec (.hbmTempRead c t) s = .next (s.setHbmCtl c { v with temp := t.toNat, tempHigh := false })) ∧
      (90 ≤ t.toNat → t.toNat < 95 ∨ v.tempHigh = true → exec (.hbmTempRead c t) s = .next (s.setHbmCtl c { v with temp := t.toNat }))) ∧
    exec (.hbmDriftCheck c) s = .next s ∧
    (∀ (k : BitVec 11) (e : HbmEntry), v.entries[k.toNat]? = some e → v.st = .active → e.issued = true → e.late = true →
      let w := { v with entries := ldrop v.entries k.toNat, answer := some (e, e.data, false) }
      exec (.hbmReadReturn c k .good false) s = .next (s.setHbmCtl c w) ∧
      corrects (.hbmReadReturn c k .corrected false) w e.addr (fun u => (u.count (hbmCnt c 0x08)).count (hbmCnt c 0x04)) ∧
      corrects (.hbmReadReturn c k .good true) w e.addr (fun u => u.count (hbmCnt c 0x0C))) ∧
    (v.st = .active → bitAt (s.reg hbmBase) 7 = true →
      let w := { v with scrub := (v.scrub + 1) % 0x60000000 }
      exec (.hbmScrub c .good) s = .next ((s.setHbmCtl c w).count (hbmCnt c 0x00)) ∧
      corrects (.hbmScrub c .corrected) w (scrubAddr c v.scrub)
        (fun u => ((u.count (hbmCnt c 0x00)).count (hbmCnt c 0x08)).count (hbmCnt c 0x04))) ∧
    (bitAt (s.reg hbmBase) 7 = false → ∀ e, exec (.hbmScrub c e) s = .next s)

/-- HBM requests, the choice of a command, refresh, correction and scrub. Where the manual leaves a point open this follows the model's
choices: log entries 82, 83, 86, 87. -/
def Obligations.HbmRequestsAndStacks : Prop :=
  Claim.RequestsReachTheirController ∧ Claim.SlotsGoByUrgency ∧ Claim.StacksAreTended

/-- R49, R510, R511, R513, R514, R515, R517: an uncorrectable error freezes its controller with the lowest cause, and the first one the
device: FROZEN, FAULT_N, the Dealer stopped, no switch pending. A Negative that is held stays; another is written, and is valid once
complete. Where the manual leaves a point open this follows the model's choices: log entries 84, 85. -/
def Obligations.HbmFreeze : Prop :=
  ∀ (s : State) (c : Fin 4) (causes : BitVec 8) (addr : BitVec 38) (port : BitVec 3) (req : BitVec 12) (syndrome : Word) (burst : List Byte)
    (severity : Byte),
    let v := s.hbmCtl c
    let frozen := fun (cause : Nat) (u : State) => (u.hbmCtl c).st = .frozen ∧ (u.hbmCtl c).cause = cause ∧ (u.hbmCtl c).entries = [] ∧
      u.dev = .frozen ∧
      (s.dev ≠ .frozen → u.faultN = true ∧ u.hbm.first = some c.val ∧ u.mgt.switch = none ∧ u.mgt.swap = none ∧ u.dlr.stop = 0xFFFF) ∧
      (s.dev = .frozen → u.hbm.first = s.hbm.first ∧ u.mgt = s.mgt) ∧
      (v.negValid = true → u.hbm.neg = s.hbm.neg ∧ (u.hbmCtl c).negValid = true ∧
        sget 0 u.counters (hbmCnt c 0x28) = sget 0 s.counters (hbmCnt c 0x28) + 1) ∧
      (v.negValid = false → (u.hbmCtl c).negBusy = some s.now ∧ (u.hbmCtl c).negValid = false ∧
        sget 0 u.hbm.neg (65536 * c + 3) = BitVec.ofNat 8 cause) ∧
      u.mems.hbm = s.mems.hbm ∧ u.regs = s.regs
    let freeze := Instr.hbmFreeze c causes addr port req syndrome burst severity
    (v.st = .active → s.dev ≠ .reset → ∀ n, n < 8 → n ≠ 6 → causes.getLsbD n = true →
      (∀ m, m < n → m ≠ 6 → causes.getLsbD m = false) → Does freeze s (frozen (n + 1))) ∧
    (v.st ≠ .active ∨ causes = 0 ∨ s.dev = .reset → exec freeze s = .next s) ∧
    (∀ (k : BitVec 11) (e : HbmEntry), v.entries[k.toNat]? = some e → v.st = .active → e.issued = true → ∀ d,
      Does (.hbmReadReturn c k .uncorrectable d) s (frozen 1)) ∧
    (v.st = .active → bitAt (s.reg hbmBase) 7 = true → Does (.hbmScrub c .uncorrectable) s (frozen 3)) ∧
    (∀ t, v.negBusy = some t → s.pwr.warmWaits = none → exec (.negativeComplete c) s = .next
      (let u := { s with hbm := { s.hbm with neg := writeBytes s.hbm.neg (65536 * c + 0x28) (leBytes 8 s.nowN) } }
       u.setHbmCtl c { v with negBusy := none, negValid := true })) ∧
    (v.negBusy = none → exec (.negativeComplete c) s = .next s) ∧
    (∀ t cause, v.negBusy = some t → s.pwr.warmWaits = some cause → (∀ d : Fin 4, d ≠ c → (s.hbmCtl d).negBusy = none) →
      s.hbm.ctls.length = 4 → s.pwr.warm = true → Does (.negativeComplete c) s fun u => Cleared s u ∧ u.dev = .reset ∧
        u.pwr.cause = cause ∧ u.events.log = s.events.log)
end

