-- ==== Sys2Proof/Laws/Store.lean ====
section
/-! SUPPORT. Sparse stores: reading after writing, and that every write keeps the canonical form. -/

namespace Sys2Proof.Machine

variable {α : Type}

@[simp] theorem sget_nil (d : α) (k : Nat) : sget d [] k = d := rfl

theorem srising_mono {b c : Nat} (h : c ≤ b) : ∀ {m : SMap α}, srising b m = true → srising c m = true
  | [], _ => rfl
  | (k, v) :: m, hm => by
    simp only [srising, Bool.and_eq_true, decide_eq_true_eq] at hm ⊢
    exact ⟨by omega, hm.2⟩

/-- A key not above the bound of a rising list is unlisted. -/
theorem sget_rising (d : α) {b k : Nat} (h : k ≤ b) : ∀ {m : SMap α}, srising b m = true → sget d m k = d
  | [], _ => rfl
  | (k', v) :: m, hm => by
    simp only [srising, Bool.and_eq_true, decide_eq_true_eq] at hm
    have : k' ≠ k := by omega
    simp only [sget, this, if_false]
    exact sget_rising d (by omega) hm.2

theorem sorted_rising : ∀ {m : SMap α}, sorted m = true ↔ m = [] ∨ ∃ k v r, m = (k, v) :: r ∧ srising k r = true
  | [] => by simp [sorted]
  | (k, v) :: r => by simp [sorted]

section put
variable [DecidableEq α]

theorem srising_sput (d : α) {b k : Nat} (v : α) (h : b < k) :
    ∀ {m : SMap α}, srising b m = true → srising b (sput d m k v) = true
  | [], _ => by
    unfold sput; split
    · rfl
    · simp [srising, h]
  | (k', v') :: m, hm => by
    have hm' := hm
    simp only [srising, Bool.and_eq_true, decide_eq_true_eq] at hm'
    unfold sput
    split
    · split
      · exact hm
      · simp only [srising, Bool.and_eq_true, decide_eq_true_eq]; exact ⟨h, by omega, hm'.2⟩
    · split
      · split
        · exact srising_mono (by omega) hm'.2
        · next hk _ => subst hk; simp only [srising, Bool.and_eq_true, decide_eq_true_eq]; exact hm'
      · simp only [srising, Bool.and_eq_true, decide_eq_true_eq]
        exact ⟨hm'.1, srising_sput d v (by omega) hm'.2⟩

theorem sorted_sput (d : α) (k : Nat) (v : α) : ∀ {m : SMap α}, sorted m = true → sorted (sput d m k v) = true
  | [], _ => by unfold sput; split <;> rfl
  | (k', v') :: m, hm => by
    simp only [sorted] at hm
    unfold sput
    split
    · split
      · exact hm
      · simp only [sorted, srising, Bool.and_eq_true, decide_eq_true_eq]; exact ⟨by omega, hm⟩
    · split
      · split
        · rcases m with _ | ⟨⟨k2, v2⟩, r⟩
          · rfl
          · simp only [srising, Bool.and_eq_true, decide_eq_true_eq] at hm; exact hm.2
        · next hk _ => subst hk; exact hm
      · simp only [sorted]; exact srising_sput d v (by omega) hm

theorem all_sput (d : α) (k : Nat) (v : α) :
    ∀ {m : SMap α}, m.all (fun e => decide (e.2 ≠ d)) = true → (sput d m k v).all (fun e => decide (e.2 ≠ d)) = true
  | [], _ => by
    unfold sput; split
    · rfl
    · next h => simpa using h
  | (k', v') :: m, hm => by
    have hm' := hm
    simp only [List.all_cons, Bool.and_eq_true, decide_eq_true_eq] at hm'
    unfold sput
    split
    · split
      · exact hm
      · next h => simp only [List.all_cons, Bool.and_eq_true, decide_eq_true_eq]; exact ⟨h, hm'⟩
    · split
      · split
        · exact hm'.2
        · next h => simp only [List.all_cons, Bool.and_eq_true, decide_eq_true_eq]; exact ⟨h, hm'.2⟩
      · simp only [List.all_cons, Bool.and_eq_true, decide_eq_true_eq]; exact ⟨hm'.1, all_sput d k v hm'.2⟩

/-- Writing one key keeps the canonical form. -/
theorem sput_wf {d : α} {m : SMap α} (h : swf d m = true) (k : Nat) (v : α) : swf d (sput d m k v) = true := by
  simp only [swf, Bool.and_eq_true] at h ⊢
  exact ⟨sorted_sput d k v h.1, all_sput d k v h.2⟩

theorem smod_wf {d : α} {m : SMap α} (h : swf d m = true) (k : Nat) (f : α → α) : swf d (smod d m k f) = true := sput_wf h k _

@[simp] theorem swf_nil (d : α) : swf d [] = true := rfl

/-- Reading after writing, over lists whose keys rise above a bound. -/
theorem sget_sput_rising (d : α) (k j : Nat) (v : α) :
    ∀ {m : SMap α} {b : Nat}, srising b m = true → sget d (sput d m k v) j = if j = k then v else sget d m j
  | [], _, _ => by
    unfold sput
    by_cases hj : j = k
    · subst hj; by_cases hv : v = d <;> simp [sget, hv]
    · have hk : ¬ k = j := fun e => hj e.symm
      by_cases hv : v = d <;> simp [sget, hv, hj, hk]
  | (k', v') :: m, b, hm => by
    simp only [srising, Bool.and_eq_true, decide_eq_true_eq] at hm
    have ih := @sget_sput_rising d k j v m k' hm.2
    unfold sput
    split
    · next hlt =>
      split
      · next hv =>
        by_cases hj : j = k
        · subst hj
          have : k' ≠ j := by omega
          simp only [sget, this, if_false, if_true, hv]
          exact sget_rising d (by omega) hm.2
        · simp [hj]
      · by_cases hj : j = k
        · simp [sget, hj]
        · have : k ≠ j := fun e => hj e.symm
          simp [sget, hj, this]
    · split
      · next hk =>
        subst hk
        split
        · next hv =>
          by_cases hj : j = k
          · subst hj; simp only [if_true, hv]; exact sget_rising d (Nat.le_refl _) hm.2
          · have : k ≠ j := fun e => hj e.symm
            simp [sget, hj, this]
        · by_cases hj : j = k
          · simp [sget, hj]
          · have : k ≠ j := fun e => hj e.symm
            simp [sget, hj, this]
      · simp only [sget, ih]
        by_cases hj : j = k
        · subst hj; by_cases hk' : k' = j
          · omega
          · simp [hk']
        · simp [hj]

/-- Reading after writing: the value written at its key, and what was there at every other key. -/
theorem sget_sput {d : α} {m : SMap α} (h : swf d m = true) (k j : Nat) (v : α) :
    sget d (sput d m k v) j = if j = k then v else sget d m j := by
  simp only [swf, Bool.and_eq_true] at h
  rcases m with _ | ⟨⟨k', v'⟩, r⟩
  · exact sget_sput_rising d k j v (m := []) (b := 0) rfl
  · cases k' with
    | succ n => exact sget_sput_rising d k j v (b := n) (by simpa [srising, sorted] using h.1)
    | zero =>
      have hr : srising 0 r = true := by simpa [sorted] using h.1
      unfold sput
      by_cases hk : k = 0
      · subst hk
        by_cases hj : j = 0
        · subst hj; by_cases hv : v = d <;> simp [sget, hv, sget_rising d (Nat.le_refl 0) hr]
        · have hk : ¬ 0 = j := fun e => hj e.symm
          by_cases hv : v = d <;> simp [sget, hv, hj, hk]
      · simp only [Nat.not_lt_zero, if_false, hk, sget]
        by_cases hj : j = 0
        · subst hj; simp [Ne.symm hk]
        · simp [Ne.symm hj, sget_sput_rising d k j v hr]

end put

/-! ### Bytes -/

theorem writeBytes_wf : ∀ (bs : List Byte) {m : SMap Byte} (a : Nat), swf 0 m = true → swf 0 (writeBytes m a bs) = true
  | [], _, _, h => h
  | b :: bs, _, a, h => writeBytes_wf bs (a + 1) (sput_wf h a b)

theorem writeLE_wf {m : SMap Byte} (h : swf 0 m = true) (a n v : Nat) : swf 0 (writeLE m a n v) = true := writeBytes_wf _ a h

/-- A byte outside the bytes written reads as before; inside, it reads the byte written. -/
theorem sget_writeBytes : ∀ (bs : List Byte) {m : SMap Byte} (a j : Nat), swf 0 m = true →
    sget 0 (writeBytes m a bs) j = if a ≤ j ∧ j < a + bs.length then bs.getD (j - a) 0 else sget 0 m j
  | [], m, a, j, _ => by
    have : ¬(a ≤ j ∧ j < a + ([] : List Byte).length) := by simp
    rw [if_neg this]; rfl
  | b :: bs, m, a, j, h => by
    have ih := @sget_writeBytes bs (sput 0 m a b) (a + 1) j (sput_wf h a b)
    unfold writeBytes
    rw [ih, sget_sput h]
    simp only [List.length_cons]
    by_cases h1 : j = a
    · subst h1
      have : ¬(j + 1 ≤ j ∧ j < j + 1 + bs.length) := by omega
      rw [if_neg this]; simp
    · by_cases h2 : a ≤ j ∧ j < a + (bs.length + 1)
      · have h3 : a + 1 ≤ j ∧ j < a + 1 + bs.length := by omega
        rw [if_pos h2, if_pos h3]
        have : j - a = (j - (a + 1)) + 1 := by omega
        rw [this]; simp
      · have h3 : ¬(a + 1 ≤ j ∧ j < a + 1 + bs.length) := by omega
        rw [if_neg h2, if_neg h3, if_neg h1]

end Sys2Proof.Machine
end

