-- ==== Sys2Proof/Laws/Keeps.lean ====
section
/-! SUPPORT. The relation `Keeps` and its steps: one lemma per way in which a state is changed. -/

namespace Sys2Proof.Machine

open Host

theorem Keeps.refl (s : State) : Keeps s s := ⟨rfl, rfl, id⟩

theorem Keeps.trans {a b c : State} (h : Keeps a b) (k : Keeps b c) : Keeps a c :=
  ⟨k.variant.trans h.variant, k.pending.trans h.pending, fun w => k.wf (h.wf w)⟩

/-- An update of other fields. -/
theorem Keeps.upd {a s t : State} (h : Keeps a s) (hv : t.variant = s.variant) (hp : t.pending = s.pending)
    (hm : t.mems = s.mems) (hr : t.regs = s.regs) (hc : t.counters = s.counters) (hk : t.cores = s.cores) : Keeps a t :=
  ⟨hv.trans h.variant, hp.trans h.pending, fun w => by
    have := h.wf w
    simp only [State.wf, hm, hr, hc, hk] at this ⊢; exact this⟩

/-- An update of the memories. -/
theorem Keeps.mem {a s t : State} (h : Keeps a s) (hm : Memory.wf s.mems = true → Memory.wf t.mems = true)
    (hv : t.variant = s.variant) (hp : t.pending = s.pending) (hr : t.regs = s.regs) (hc : t.counters = s.counters)
    (hk : t.cores = s.cores) : Keeps a t :=
  ⟨hv.trans h.variant, hp.trans h.pending, fun w => by
    have := h.wf w
    simp only [State.wf, hr, hc, hk] at this ⊢; exact ⟨hm this.1, this.2⟩⟩

/-- An update of the register fields. -/
theorem Keeps.reg {a s t : State} (h : Keeps a s) (hr : swf 0 s.regs = true → swf 0 t.regs = true)
    (hv : t.variant = s.variant) (hp : t.pending = s.pending) (hm : t.mems = s.mems) (hc : t.counters = s.counters)
    (hk : t.cores = s.cores) : Keeps a t :=
  ⟨hv.trans h.variant, hp.trans h.pending, fun w => by
    have := h.wf w
    simp only [State.wf, hm, hc, hk] at this ⊢; exact ⟨this.1, hr this.2.1, this.2.2⟩⟩

/-- An update of the counters. -/
theorem Keeps.cnt {a s t : State} (h : Keeps a s) (hc : swf 0 s.counters = true → swf 0 t.counters = true)
    (hv : t.variant = s.variant) (hp : t.pending = s.pending) (hm : t.mems = s.mems) (hr : t.regs = s.regs)
    (hk : t.cores = s.cores) : Keeps a t :=
  ⟨hv.trans h.variant, hp.trans h.pending, fun w => by
    have := h.wf w
    simp only [State.wf, hm, hr, hk] at this ⊢; exact ⟨this.1, this.2.1, hc this.2.2.1, this.2.2.2⟩⟩

/-- An update of the core array. -/
theorem Keeps.core {a s t : State} (h : Keeps a s) (hk : Cores.wf s.cores = true → Cores.wf t.cores = true)
    (hv : t.variant = s.variant) (hp : t.pending = s.pending) (hm : t.mems = s.mems) (hr : t.regs = s.regs)
    (hc : t.counters = s.counters) : Keeps a t :=
  ⟨hv.trans h.variant, hp.trans h.pending, fun w => by
    have := h.wf w
    simp only [State.wf, hm, hr, hc] at this ⊢; exact ⟨this.1, this.2.1, this.2.2.1, hk this.2.2.2⟩⟩

theorem Keeps.fst {α : Type} {a t : State} {x : α} {p : State × α} (e : p = (t, x)) (h : Keeps a p.1) : Keeps a t := by
  subst e; exact h

theorem Keeps.snd {α : Type} {a t : State} {x : α} {p : α × State} (e : p = (x, t)) (h : Keeps a p.2) : Keeps a t := by
  subst e; exact h

/-- A fold of steps that keep. -/
theorem Keeps.fold {α : Type} {a : State} {f : State → α → State} (hf : ∀ st x, Keeps a st → Keeps a (f st x)) :
    ∀ (l : List α) {s : State}, Keeps a s → Keeps a (l.foldl f s)
  | [], _, h => h
  | x :: l, _, h => Keeps.fold hf l (hf _ x h)

/-- A fold that carries a value beside the state. -/
theorem Keeps.foldFst {α β : Type} {a : State} {f : State × β → α → State × β}
    (hf : ∀ p x, Keeps a p.1 → Keeps a (f p x).1) : ∀ (l : List α) {p : State × β}, Keeps a p.1 → Keeps a (l.foldl f p).1
  | [], _, h => h
  | x :: l, _, h => Keeps.foldFst hf l (hf _ x h)

/-- What a step answers keeps. -/
def OKeeps (a : State) : Outcome State Fault Refusal → Prop
  | .next t => Keeps a t
  | _ => True

theorem OKeeps.next {a t : State} (h : Keeps a t) : OKeeps a (.next t) := h
theorem OKeeps.of {a t : State} {o : Outcome State Fault Refusal} (h : OKeeps a o) (e : o = .next t) : Keeps a t := by
  subst e; exact h

/-- What an operation that may fail answers keeps. -/
def PKeeps {α : Type} (a : State) (pr : α → State) (o : Option α) : Prop := ∀ x, o = some x → Keeps a (pr x)

theorem PKeeps.some {α : Type} {a : State} {pr : α → State} {x : α} (h : Keeps a (pr x)) : PKeeps a pr (some x) :=
  fun _ e => by cases e; exact h
theorem PKeeps.none {α : Type} {a : State} {pr : α → State} : PKeeps a pr .none := fun _ e => by cases e

/-! ### Record updates -/

theorem Keeps.put {a s : State} {y_dev : DevState} {y_faultN : Bool} {y_glb : Glb} {y_tim : Tim} {y_lck : Lck} {y_trays : Trays} {y_dlr : Dlr} {y_fix : Fix} {y_loupe : Loupe} {y_cls : Cls} {y_pkts : SMap Pkt} {y_swt : Swt} {y_ring : Ring} {y_eth : Eth} {y_hbm : Hbm} {y_hqe : Hqe} {y_events : EventLog} {y_csh : Csh} {y_mgt : Mgt} {y_pwr : Pwr} {y_sent : List Sent} {y_freeCtr : Nat} (h : Keeps a s) :
    Keeps a (State.mk s.variant y_dev y_faultN y_glb y_tim s.regs s.counters s.cores s.mems y_lck y_trays y_dlr y_fix y_loupe y_cls y_pkts y_swt y_ring y_eth y_hbm y_hqe y_events y_csh y_mgt y_pwr y_sent y_freeCtr s.pending) :=
  h.upd rfl rfl rfl rfl rfl rfl

theorem Keeps.putMems {a s : State} {m : Mems} {y_dev : DevState} {y_faultN : Bool} {y_glb : Glb} {y_tim : Tim} {y_lck : Lck} {y_trays : Trays} {y_dlr : Dlr} {y_fix : Fix} {y_loupe : Loupe} {y_cls : Cls} {y_pkts : SMap Pkt} {y_swt : Swt} {y_ring : Ring} {y_eth : Eth} {y_hbm : Hbm} {y_hqe : Hqe} {y_events : EventLog} {y_csh : Csh} {y_mgt : Mgt} {y_pwr : Pwr} {y_sent : List Sent} {y_freeCtr : Nat} (hm : Memory.wf s.mems = true → Memory.wf m = true) (h : Keeps a s) :
    Keeps a (State.mk s.variant y_dev y_faultN y_glb y_tim s.regs s.counters s.cores m y_lck y_trays y_dlr y_fix y_loupe y_cls y_pkts y_swt y_ring y_eth y_hbm y_hqe y_events y_csh y_mgt y_pwr y_sent y_freeCtr s.pending) :=
  h.mem hm rfl rfl rfl rfl rfl

theorem Keeps.putCores {a s : State} {m : Cores} {y_dev : DevState} {y_faultN : Bool} {y_glb : Glb} {y_tim : Tim} {y_lck : Lck} {y_trays : Trays} {y_dlr : Dlr} {y_fix : Fix} {y_loupe : Loupe} {y_cls : Cls} {y_pkts : SMap Pkt} {y_swt : Swt} {y_ring : Ring} {y_eth : Eth} {y_hbm : Hbm} {y_hqe : Hqe} {y_events : EventLog} {y_csh : Csh} {y_mgt : Mgt} {y_pwr : Pwr} {y_sent : List Sent} {y_freeCtr : Nat} (hk : Cores.wf s.cores = true → Cores.wf m = true) (h : Keeps a s) :
    Keeps a (State.mk s.variant y_dev y_faultN y_glb y_tim s.regs s.counters m s.mems y_lck y_trays y_dlr y_fix y_loupe y_cls y_pkts y_swt y_ring y_eth y_hbm y_hqe y_events y_csh y_mgt y_pwr y_sent y_freeCtr s.pending) :=
  h.core hk rfl rfl rfl rfl rfl

theorem PKeeps.ofSnd {α : Type} {a t : State} {x : α} {o : Option (α × State)} (e : o = Option.some (x, t))
    (h : PKeeps a Prod.snd o) : Keeps a t := h _ e
theorem PKeeps.ofFst {α : Type} {a t : State} {x : α} {o : Option (State × α)} (e : o = Option.some (t, x))
    (h : PKeeps a Prod.fst o) : Keeps a t := h _ e

theorem Keeps.ite {c : Prop} [Decidable c] {a x y : State} (h : Keeps a x) (k : Keeps a y) : Keeps a (if c then x else y) := by
  split
  · exact h
  · exact k
theorem PKeeps.ite {α : Type} {c : Prop} [Decidable c] {a : State} {pr : α → State} {x y : Option α} (h : PKeeps a pr x)
    (k : PKeeps a pr y) : PKeeps a pr (if c then x else y) := by
  split
  · exact h
  · exact k

theorem PKeeps.bind {α β : Type} {a : State} {pr : β → State} {o : Option α} {f : α → Option β} (h : ∀ x, PKeeps a pr (f x)) :
    PKeeps a pr (o.bind f) := by
  cases o with
  | none => exact PKeeps.none
  | some x => exact h x

theorem Memory.wf_iff (m : Mems) : Memory.wf m = true ↔ swf 0 m.istore = true ∧ swf 0 m.scratch = true ∧ swf 0 m.shared = true ∧
    swf 0 m.mgmt = true ∧ swf 0 m.pkt = true ∧ swf 0 m.hbm = true ∧ swf 0xFF m.flash = true ∧ swf 0 m.host = true := by
  simp only [Memory.wf, Bool.and_eq_true, and_assoc]

theorem Memory.wf_empty : Memory.wf Mems.empty = true := rfl

/-! ### The core array -/

theorem Cores.wf_iff (m : Cores) : Cores.wf m = true ↔ swf Thread.cleared m.threads = true ∧ swf Channel.empty m.chans = true ∧ swf Cluster.empty m.clusters = true ∧ swf 0x003F0000 m.cxen = true ∧ swf CxLog.empty m.cxlog = true ∧ swf 1 m.bht = true := by
  simp only [Cores.wf, Bool.and_eq_true, and_assoc]

theorem Cores.threads_wf {m : Cores} {b : SMap Thread} (hb : swf Thread.cleared m.threads = true → swf Thread.cleared b = true) (w : Cores.wf m = true) :
    Cores.wf { m with threads := b } = true := by
  rw [Cores.wf_iff] at w ⊢; exact ⟨hb w.1, w.2.1, w.2.2.1, w.2.2.2.1, w.2.2.2.2.1, w.2.2.2.2.2⟩

theorem Cores.chans_wf {m : Cores} {b : SMap Channel} (hb : swf Channel.empty m.chans = true → swf Channel.empty b = true) (w : Cores.wf m = true) :
    Cores.wf { m with chans := b } = true := by
  rw [Cores.wf_iff] at w ⊢; exact ⟨w.1, hb w.2.1, w.2.2.1, w.2.2.2.1, w.2.2.2.2.1, w.2.2.2.2.2⟩

theorem Cores.clusters_wf {m : Cores} {b : SMap Cluster} (hb : swf Cluster.empty m.clusters = true → swf Cluster.empty b = true) (w : Cores.wf m = true) :
    Cores.wf { m with clusters := b } = true := by
  rw [Cores.wf_iff] at w ⊢; exact ⟨w.1, w.2.1, hb w.2.2.1, w.2.2.2.1, w.2.2.2.2.1, w.2.2.2.2.2⟩

theorem Cores.cxen_wf {m : Cores} {b : SMap Word} (hb : swf 0x003F0000 m.cxen = true → swf 0x003F0000 b = true) (w : Cores.wf m = true) :
    Cores.wf { m with cxen := b } = true := by
  rw [Cores.wf_iff] at w ⊢; exact ⟨w.1, w.2.1, w.2.2.1, hb w.2.2.2.1, w.2.2.2.2.1, w.2.2.2.2.2⟩

theorem Cores.cxlog_wf {m : Cores} {b : SMap CxLog} (hb : swf CxLog.empty m.cxlog = true → swf CxLog.empty b = true) (w : Cores.wf m = true) :
    Cores.wf { m with cxlog := b } = true := by
  rw [Cores.wf_iff] at w ⊢; exact ⟨w.1, w.2.1, w.2.2.1, w.2.2.2.1, hb w.2.2.2.2.1, w.2.2.2.2.2⟩

theorem Cores.bht_wf {m : Cores} {b : SMap (BitVec 2)} (hb : swf 1 m.bht = true → swf 1 b = true) (w : Cores.wf m = true) :
    Cores.wf { m with bht := b } = true := by
  rw [Cores.wf_iff] at w ⊢; exact ⟨w.1, w.2.1, w.2.2.1, w.2.2.2.1, w.2.2.2.2.1, hb w.2.2.2.2.2⟩

theorem Cores.posts_wf {m : Cores} {b : List PostMsg} (w : Cores.wf m = true) : Cores.wf { m with posts := b } = true := w

/-! ### One memory at a time -/

theorem Memory.istore_wf {m : Mems} {b : SMap Byte} (hb : swf 0 m.istore = true → swf 0 b = true) (w : Memory.wf m = true) :
    Memory.wf { m with istore := b } = true := by
  rw [Memory.wf_iff] at w ⊢; exact ⟨hb w.1, w.2.1, w.2.2.1, w.2.2.2.1, w.2.2.2.2.1, w.2.2.2.2.2.1, w.2.2.2.2.2.2.1, w.2.2.2.2.2.2.2⟩

theorem Memory.scratch_wf {m : Mems} {b : SMap Byte} (hb : swf 0 m.scratch = true → swf 0 b = true) (w : Memory.wf m = true) :
    Memory.wf { m with scratch := b } = true := by
  rw [Memory.wf_iff] at w ⊢; exact ⟨w.1, hb w.2.1, w.2.2.1, w.2.2.2.1, w.2.2.2.2.1, w.2.2.2.2.2.1, w.2.2.2.2.2.2.1, w.2.2.2.2.2.2.2⟩

theorem Memory.shared_wf {m : Mems} {b : SMap Byte} (hb : swf 0 m.shared = true → swf 0 b = true) (w : Memory.wf m = true) :
    Memory.wf { m with shared := b } = true := by
  rw [Memory.wf_iff] at w ⊢; exact ⟨w.1, w.2.1, hb w.2.2.1, w.2.2.2.1, w.2.2.2.2.1, w.2.2.2.2.2.1, w.2.2.2.2.2.2.1, w.2.2.2.2.2.2.2⟩

theorem Memory.mgmt_wf {m : Mems} {b : SMap Byte} (hb : swf 0 m.mgmt = true → swf 0 b = true) (w : Memory.wf m = true) :
    Memory.wf { m with mgmt := b } = true := by
  rw [Memory.wf_iff] at w ⊢; exact ⟨w.1, w.2.1, w.2.2.1, hb w.2.2.2.1, w.2.2.2.2.1, w.2.2.2.2.2.1, w.2.2.2.2.2.2.1, w.2.2.2.2.2.2.2⟩

theorem Memory.pkt_wf {m : Mems} {b : SMap Byte} (hb : swf 0 m.pkt = true → swf 0 b = true) (w : Memory.wf m = true) :
    Memory.wf { m with pkt := b } = true := by
  rw [Memory.wf_iff] at w ⊢; exact ⟨w.1, w.2.1, w.2.2.1, w.2.2.2.1, hb w.2.2.2.2.1, w.2.2.2.2.2.1, w.2.2.2.2.2.2.1, w.2.2.2.2.2.2.2⟩

theorem Memory.hbm_wf {m : Mems} {b : SMap Byte} (hb : swf 0 m.hbm = true → swf 0 b = true) (w : Memory.wf m = true) :
    Memory.wf { m with hbm := b } = true := by
  rw [Memory.wf_iff] at w ⊢; exact ⟨w.1, w.2.1, w.2.2.1, w.2.2.2.1, w.2.2.2.2.1, hb w.2.2.2.2.2.1, w.2.2.2.2.2.2.1, w.2.2.2.2.2.2.2⟩

theorem Memory.flash_wf {m : Mems} {b : SMap Byte} (hb : swf 0xFF m.flash = true → swf 0xFF b = true) (w : Memory.wf m = true) :
    Memory.wf { m with flash := b } = true := by
  rw [Memory.wf_iff] at w ⊢; exact ⟨w.1, w.2.1, w.2.2.1, w.2.2.2.1, w.2.2.2.2.1, w.2.2.2.2.2.1, hb w.2.2.2.2.2.2.1, w.2.2.2.2.2.2.2⟩

theorem Memory.host_wf {m : Mems} {b : SMap Byte} (hb : swf 0 m.host = true → swf 0 b = true) (w : Memory.wf m = true) :
    Memory.wf { m with host := b } = true := by
  rw [Memory.wf_iff] at w ⊢; exact ⟨w.1, w.2.1, w.2.2.1, w.2.2.2.1, w.2.2.2.2.1, w.2.2.2.2.2.1, w.2.2.2.2.2.2.1, hb w.2.2.2.2.2.2.2⟩

end Sys2Proof.Machine
end

