-- ==== Sys2Proof/Laws/Ops.lean ====
section
/-! SUPPORT. What the operations of Ops keep: the fuses, the queue and the canonical form of the stores. -/

namespace Sys2Proof.Machine

open Host

theorem State.stamp_keeps {a : State} {x0 : State} {x1 : Nat} {x2 : Time} (h0 : Keeps a x0) : Keeps a (State.stamp x0 x1 x2).2 := by
  unfold State.stamp
  try dsimp only
  repeat' first
    | with_reducible assumption
    | (with_reducible refine Keeps.fst (by with_reducible assumption) ?_)
    | (with_reducible refine Keeps.snd (by with_reducible assumption) ?_)
    | (with_reducible refine Keeps.fold ?_ _ ?_)
    | (with_reducible refine Keeps.foldFst ?_ _ ?_)
    | split
    | (with_reducible intro _)
    | fail_if_no_progress (with_reducible apply Keeps.put)

theorem State.takeFree_keeps {a : State} {x0 : State} (h0 : Keeps a x0) : Keeps a (State.takeFree x0).2 := by
  unfold State.takeFree
  try dsimp only
  repeat' first
    | with_reducible assumption
    | (with_reducible refine Keeps.fst (by with_reducible assumption) ?_)
    | (with_reducible refine Keeps.snd (by with_reducible assumption) ?_)
    | (with_reducible refine Keeps.fold ?_ _ ?_)
    | (with_reducible refine Keeps.foldFst ?_ _ ?_)
    | split
    | (with_reducible intro _)
    | fail_if_no_progress (with_reducible apply Keeps.put)

theorem State.setMems_keeps {a s : State} {m : Mems} (hm : Memory.wf s.mems = true → Memory.wf m = true) (h : Keeps a s) :
    Keeps a (s.setMems m) := h.mem hm rfl rfl rfl rfl rfl

theorem State.setReg_keeps {a s : State} {off : Nat} {v : Word} (h : Keeps a s) : Keeps a (s.setReg off v) :=
  h.reg (fun w => sput_wf w _ _) rfl rfl rfl rfl rfl

theorem State.countN_keeps {a s : State} {off n : Nat} (h : Keeps a s) : Keeps a (s.countN off n) :=
  h.cnt (fun w => by unfold State.countN; dsimp only; exact smod_wf w _ _) rfl rfl rfl rfl rfl

theorem State.count_keeps {a : State} {x0 : State} {x1 : Nat} (h0 : Keeps a x0) : Keeps a (State.count x0 x1) := by
  unfold State.count
  try dsimp only
  repeat' first
    | with_reducible assumption
    | with_reducible apply State.countN_keeps

theorem State.setCluster_keeps {a : State} {x0 : State} {x1 : Nat} {x2 : Cluster} (h0 : Keeps a x0) : Keeps a (State.setCluster x0 x1 x2) := by
  unfold State.setCluster
  try dsimp only
  repeat' first
    | with_reducible assumption
    | (with_reducible refine Keeps.fst (by with_reducible assumption) ?_)
    | (with_reducible refine Keeps.snd (by with_reducible assumption) ?_)
    | (with_reducible refine Keeps.fold ?_ _ ?_)
    | (with_reducible refine Keeps.foldFst ?_ _ ?_)
    | split
    | fail_if_no_progress (with_reducible apply Keeps.putCores)
    | with_reducible exact Cores.posts_wf
    | with_reducible exact Cores.chans_wf (fun w => sput_wf w _ _)
    | with_reducible exact Cores.chans_wf (fun w => smod_wf w _ _)
    | with_reducible exact Cores.clusters_wf (fun w => sput_wf w _ _)

theorem State.setThread_keeps {a : State} {x0 : State} {x1 : Nat} {x2 : Thread} (h0 : Keeps a x0) : Keeps a (State.setThread x0 x1 x2) := by
  unfold State.setThread
  exact h0.core (fun w => Cores.clusters_wf (m := { x0.cores with threads := _ }) (fun k => sput_wf k _ _)
    (Cores.threads_wf (fun k => sput_wf k _ _) w)) rfl rfl rfl rfl rfl

theorem State.modThread_keeps {a : State} {x0 : State} {x1 : Nat} {x2 : Thread → Thread} (h0 : Keeps a x0) : Keeps a (State.modThread x0 x1 x2) := by
  unfold State.modThread
  try dsimp only
  repeat' first
    | with_reducible assumption
    | with_reducible apply State.setThread_keeps

theorem State.setChan_keeps {a : State} {x0 : State} {x1 : Nat} {x2 : Nat} {x3 : Channel} (h0 : Keeps a x0) : Keeps a (State.setChan x0 x1 x2 x3) := by
  unfold State.setChan
  try dsimp only
  repeat' first
    | with_reducible assumption
    | (with_reducible refine Keeps.fst (by with_reducible assumption) ?_)
    | (with_reducible refine Keeps.snd (by with_reducible assumption) ?_)
    | (with_reducible refine Keeps.fold ?_ _ ?_)
    | (with_reducible refine Keeps.foldFst ?_ _ ?_)
    | split
    | fail_if_no_progress (with_reducible apply Keeps.putCores)
    | with_reducible exact Cores.posts_wf
    | with_reducible exact Cores.chans_wf (fun w => sput_wf w _ _)

theorem State.cshOffer_keeps {a : State} {x0 : State} {x1 : CshRec} (h0 : Keeps a x0) : Keeps a (State.cshOffer x0 x1) := by
  unfold State.cshOffer
  try dsimp only
  repeat' first
    | with_reducible assumption
    | (with_reducible refine Keeps.fst (by with_reducible assumption) ?_)
    | (with_reducible refine Keeps.snd (by with_reducible assumption) ?_)
    | (with_reducible refine Keeps.fold ?_ _ ?_)
    | (with_reducible refine Keeps.foldFst ?_ _ ?_)
    | split
    | (with_reducible intro _)
    | fail_if_no_progress (with_reducible apply Keeps.put)

theorem copyToRing_keeps {a : State} {x0 : State} {x1 : EventRec} {x2 : Nat × EventRing} (h0 : Keeps a x0) : Keeps a (copyToRing x0 x1 x2) := by
  unfold copyToRing
  exact h0.mem (Memory.host_wf fun w => writeBytes_wf _ _ w) rfl rfl rfl rfl rfl

theorem logRecord_keeps {a : State} {x0 : State} {x1 : Nat} {x2 : Nat} {x3 : BitVec 128} (h0 : Keeps a x0) : Keeps a (logRecord x0 x1 x2 x3).1 := by
  unfold logRecord
  try dsimp only
  repeat' first
    | with_reducible assumption
    | with_reducible apply copyToRing_keeps
    | (with_reducible refine Keeps.fst (by with_reducible assumption) ?_)
    | (with_reducible refine Keeps.snd (by with_reducible assumption) ?_)
    | (with_reducible refine Keeps.fold ?_ _ ?_)
    | (with_reducible refine Keeps.foldFst ?_ _ ?_)
    | split
    | (with_reducible intro _)
    | fail_if_no_progress (with_reducible apply Keeps.put)

theorem State.cshStart_keeps {a : State} {x0 : State} (h0 : Keeps a x0) : Keeps a (State.cshStart x0) := by
  unfold State.cshStart
  try dsimp only
  repeat' first
    | with_reducible assumption
    | (with_reducible refine Keeps.fst (by with_reducible assumption) ?_)
    | (with_reducible refine Keeps.snd (by with_reducible assumption) ?_)
    | (with_reducible refine Keeps.fold ?_ _ ?_)
    | (with_reducible refine Keeps.foldFst ?_ _ ?_)
    | split
    | (with_reducible intro _)
    | fail_if_no_progress (with_reducible apply Keeps.put)

theorem State.cshStop_keeps {a : State} {x0 : State} (h0 : Keeps a x0) : Keeps a (State.cshStop x0) := by
  unfold State.cshStop
  try dsimp only
  repeat' first
    | with_reducible assumption
    | (with_reducible refine Keeps.fst (by with_reducible assumption) ?_)
    | (with_reducible refine Keeps.snd (by with_reducible assumption) ?_)
    | (with_reducible refine Keeps.fold ?_ _ ?_)
    | (with_reducible refine Keeps.foldFst ?_ _ ?_)
    | split
    | (with_reducible intro _)
    | fail_if_no_progress (with_reducible apply Keeps.put)

theorem logEventN_keeps {a : State} {x0 : Nat} {x1 : State} {x2 : Nat} {x3 : Nat} {x4 : BitVec 128} (h1 : Keeps a x1) : Keeps a (logEventN x0 x1 x2 x3 x4) := by
  induction x0 generalizing x1 x2 x3 x4 with
  | zero => exact logRecord_keeps h1
  | succ n ih =>
    unfold logEventN
    dsimp only
    repeat' first
      | assumption
      | with_reducible apply ih
      | with_reducible apply State.cshStop_keeps
      | with_reducible apply State.cshOffer_keeps
      | with_reducible apply State.cshStart_keeps
      | with_reducible apply logRecord_keeps
      | split

theorem State.logEvent_keeps {a : State} {x0 : State} {x1 : Nat} {x2 : Nat} {x3 : BitVec 128} (h0 : Keeps a x0) : Keeps a (State.logEvent x0 x1 x2 x3) := by
  unfold State.logEvent
  try dsimp only
  repeat' first
    | with_reducible assumption
    | with_reducible apply logEventN_keeps

end Sys2Proof.Machine
end

