-- ==== Sys2Proof/Laws/Exceptions.lean ====
section
/-! SUPPORT. What the operations of Exceptions keep: the fuses, the queue and the canonical form of the stores. -/

namespace Sys2Proof.Machine

open Host

/-- What the body of an instruction answers keeps. -/
def RKeeps (a : State) : Result → Prop
  | .ok s | .jump s _ | .stay s | .gone s => Keeps a s
  | .raise _ _ | .call _ _ => True

theorem RKeeps.ok {a s : State} (h : Keeps a s) : RKeeps a (.ok s) := h
theorem RKeeps.jump {a s : State} {p : Addr} (h : Keeps a s) : RKeeps a (.jump s p) := h
theorem RKeeps.stay {a s : State} (h : Keeps a s) : RKeeps a (.stay s) := h
theorem RKeeps.gone {a s : State} (h : Keeps a s) : RKeeps a (.gone s) := h
theorem RKeeps.raise {a : State} {c : Nat} {i : Addr} : RKeeps a (.raise c i) := trivial
theorem RKeeps.call {a : State} {c : Nat} {i : Addr} : RKeeps a (.call c i) := trivial

theorem holdChannels_keeps {a : State} {x0 : State} {x1 : Nat} {x2 : Bool} (h0 : Keeps a x0) : Keeps a (holdChannels x0 x1 x2) := by
  unfold holdChannels
  try dsimp only
  repeat' first
    | with_reducible assumption
    | with_reducible apply State.setChan_keeps
    | (with_reducible refine Keeps.fst (by with_reducible assumption) ?_)
    | (with_reducible refine Keeps.snd (by with_reducible assumption) ?_)
    | (with_reducible refine Keeps.fold ?_ _ ?_)
    | (with_reducible refine Keeps.foldFst ?_ _ ?_)
    | split
    | (with_reducible intro _)

theorem haltThread_keeps {a : State} {x0 : State} {x1 : Nat} (h0 : Keeps a x0) : Keeps a (haltThread x0 x1) := by
  unfold haltThread
  try dsimp only
  repeat' first
    | with_reducible assumption
    | with_reducible apply State.modThread_keeps
    | with_reducible apply holdChannels_keeps

theorem doubleFault_keeps {a : State} {x0 : State} {x1 : Nat} {x2 : Nat} {x3 : Addr} (h0 : Keeps a x0) : Keeps a (doubleFault x0 x1 x2 x3) := by
  unfold doubleFault
  try dsimp only
  repeat' first
    | with_reducible assumption
    | with_reducible apply haltThread_keeps
    | with_reducible apply State.logEvent_keeps

theorem takeException_keeps {a : State} {x0 : State} {x1 : Nat} {x2 : Nat} {x3 : Addr} {x4 : Addr} (h0 : Keeps a x0) : Keeps a (takeException x0 x1 x2 x3 x4) := by
  unfold takeException
  try dsimp only
  repeat' first
    | with_reducible assumption
    | with_reducible apply State.setThread_keeps
    | with_reducible apply doubleFault_keeps
    | (with_reducible refine Keeps.fst (by with_reducible assumption) ?_)
    | (with_reducible refine Keeps.snd (by with_reducible assumption) ?_)
    | (with_reducible refine Keeps.fold ?_ _ ?_)
    | (with_reducible refine Keeps.foldFst ?_ _ ?_)
    | split

theorem endStep_keeps {a : State} {x0 : State} {x1 : Nat} (h0 : Keeps a x0) : Keeps a (endStep x0 x1) := by
  unfold endStep
  try dsimp only
  repeat' first
    | with_reducible assumption
    | with_reducible apply haltThread_keeps
    | (with_reducible refine Keeps.fst (by with_reducible assumption) ?_)
    | (with_reducible refine Keeps.snd (by with_reducible assumption) ?_)
    | (with_reducible refine Keeps.fold ?_ _ ?_)
    | (with_reducible refine Keeps.foldFst ?_ _ ?_)
    | split

theorem wouldWait_keeps {a : State} {x0 : State} {x1 : Nat} (h0 : Keeps a x0) : Keeps a (wouldWait x0 x1) := by
  unfold wouldWait
  try dsimp only
  repeat' first
    | with_reducible assumption
    | with_reducible apply State.modThread_keeps
    | with_reducible apply State.setCluster_keeps

theorem settle_keeps {a : State} {x0 : State} {x1 : Nat} {x2 : Addr} {x3 : Result} (h0 : Keeps a x0) (h3 : RKeeps a x3) : Keeps a (settle x0 x1 x2 x3) := by
  unfold settle
  cases x3 with
  | ok s => exact endStep_keeps (State.modThread_keeps h3)
  | jump s p => exact endStep_keeps (State.modThread_keeps h3)
  | raise c i => exact endStep_keeps (takeException_keeps h0)
  | call c i => exact endStep_keeps (takeException_keeps h0)
  | stay s =>
    dsimp only
    split
    · exact wouldWait_keeps h0
    · exact h3
  | gone s => exact h3

theorem issue_keeps {a : State} {x0 : State} {x1 : ThreadId} {x2 : Word} {x3 : Bool} {x4 : Bool} {x5 : Thread → Result} (h0 : Keeps a x0) (h5 : ∀ th, RKeeps a (x5 th)) : Keeps a (issue x0 x1 x2 x3 x4 x5) := by
  unfold issue
  dsimp only
  split
  · refine settle_keeps h0 ?_
    repeat' first
      | exact RKeeps.raise
      | exact h5 _
      | split
  · exact h0

theorem Result.regs_keeps {a : State} {x0 : State} {x1 : ThreadId} {x2 : Thread} (h0 : Keeps a x0) : RKeeps a (Result.regs x0 x1 x2) := by
  exact State.setThread_keeps h0

end Sys2Proof.Machine
end

