-- ==== Sys2Proof/Laws/HbmOps.lean ====
section
/-! SUPPORT. What the operations of HbmOps keep: the fuses, the queue and the canonical form of the stores. -/

namespace Sys2Proof.Machine

open Host

theorem hbmPut_wf (s : State) : ∀ (bs : List Byte) (a : Nat) {m : SMap Byte}, swf 0 m = true → swf 0 (hbmPut s a bs m) = true
  | [], _, _, h => h
  | b :: bs, a, m, h => by
    unfold hbmPut
    refine hbmPut_wf s bs (a + 1) ?_
    split
    · exact h
    · exact sput_wf h _ _

theorem State.setHbmCtl_keeps {a : State} {x0 : State} {x1 : Nat} {x2 : HbmCtl} (h0 : Keeps a x0) : Keeps a (State.setHbmCtl x0 x1 x2) := by
  unfold State.setHbmCtl
  try dsimp only
  repeat' first
    | with_reducible assumption
    | (with_reducible refine Keeps.fst (by with_reducible assumption) ?_)
    | (with_reducible refine Keeps.snd (by with_reducible assumption) ?_)
    | (with_reducible refine Keeps.fold ?_ _ ?_)
    | (with_reducible refine Keeps.foldFst ?_ _ ?_)
    | split
    | (with_reducible intro _)
    | fail_if_no_progress (with_reducible apply Keeps.put)

theorem hbmRead_keeps {a : State} {x0 : State} {x1 : Nat} {x2 : Nat} (h0 : Keeps a x0) : Keeps a (hbmRead x0 x1 x2).1 := by
  unfold hbmRead
  try dsimp only
  repeat' first
    | with_reducible assumption
    | with_reducible apply State.count_keeps
    | (with_reducible refine Keeps.fst (by with_reducible assumption) ?_)
    | (with_reducible refine Keeps.snd (by with_reducible assumption) ?_)
    | (with_reducible refine Keeps.fold ?_ _ ?_)
    | (with_reducible refine Keeps.foldFst ?_ _ ?_)
    | split
    | (with_reducible intro _)

theorem hbmWrite_keeps {a : State} {x0 : State} {x1 : Nat} {x2 : List Byte} (h0 : Keeps a x0) : Keeps a (hbmWrite x0 x1 x2) := by
  unfold hbmWrite
  dsimp only
  refine State.setMems_keeps (Memory.hbm_wf fun w => ?_) ?_
  · split
    · exact hbmPut_wf _ _ _ w
    · exact writeBytes_wf _ _ w
  · repeat' first
      | with_reducible assumption
      | with_reducible apply State.count_keeps
      | (with_reducible refine Keeps.fold ?_ _ ?_)
      | split
      | (intro _)

end Sys2Proof.Machine
end

