-- ==== Sys2Proof/Laws/Operands.lean ====
section
/-! SUPPORT. What the operations of Operands keep: the fuses, the queue and the canonical form of the stores. -/

namespace Sys2Proof.Machine

open Host

theorem writePlace_keeps {a : State} {x0 : State} {x1 : Place} {x2 : Nat} {x3 : Nat} (h0 : Keeps a x0) : Keeps a (writePlace x0 x1 x2 x3) := by
  unfold writePlace
  try dsimp only
  repeat' first
    | with_reducible assumption
    | with_reducible apply hbmWrite_keeps
    | with_reducible apply State.setMems_keeps
    | (with_reducible refine Keeps.fst (by with_reducible assumption) ?_)
    | (with_reducible refine Keeps.snd (by with_reducible assumption) ?_)
    | (with_reducible refine Keeps.fold ?_ _ ?_)
    | (with_reducible refine Keeps.foldFst ?_ _ ?_)
    | split
    | fail_if_no_progress (with_reducible apply Keeps.putMems)
    | with_reducible exact Memory.istore_wf (fun w => writeBytes_wf _ _ w)
    | with_reducible exact Memory.scratch_wf (fun w => writeBytes_wf _ _ w)
    | with_reducible exact Memory.shared_wf (fun w => writeBytes_wf _ _ w)
    | with_reducible exact Memory.mgmt_wf (fun w => writeBytes_wf _ _ w)
    | with_reducible exact Memory.pkt_wf (fun w => writeBytes_wf _ _ w)
    | with_reducible exact Memory.hbm_wf (fun w => writeBytes_wf _ _ w)
    | with_reducible exact Memory.host_wf (fun w => writeBytes_wf _ _ w)
    | with_reducible exact Memory.istore_wf (fun w => writeLE_wf w _ _ _)
    | with_reducible exact Memory.scratch_wf (fun w => writeLE_wf w _ _ _)
    | with_reducible exact Memory.shared_wf (fun w => writeLE_wf w _ _ _)
    | with_reducible exact Memory.mgmt_wf (fun w => writeLE_wf w _ _ _)
    | with_reducible exact Memory.pkt_wf (fun w => writeLE_wf w _ _ _)

end Sys2Proof.Machine
end

