-- ==== Sys2Proof/Laws/Alu.lean ====
section
/-! SUPPORT. What the operations of Alu keep: the fuses, the queue and the canonical form of the stores. -/

namespace Sys2Proof.Machine

open Host

theorem aluRow_keeps {a : State} {x0 : Nat} {x1 : RFields → Bool} {x2 : Thread → RFields → Thread} {x3 : ThreadId} {x4 : RFields} {x5 : State} (h5 : Keeps a x5) : OKeeps a (aluRow x0 x1 x2 x3 x4 x5) := by
  unfold aluRow
  try dsimp only
  repeat' first
    | with_reducible assumption
    | with_reducible apply OKeeps.next
    | exact trivial
    | with_reducible apply RKeeps.ok
    | with_reducible apply RKeeps.jump
    | with_reducible apply RKeeps.stay
    | with_reducible apply RKeeps.gone
    | exact RKeeps.raise
    | exact RKeeps.call
    | with_reducible apply Result.regs_keeps
    | with_reducible apply issue_keeps
    | (with_reducible refine Keeps.fst (by with_reducible assumption) ?_)
    | (with_reducible refine Keeps.snd (by with_reducible assumption) ?_)
    | split
    | (with_reducible intro _)

theorem binRow_keeps {a : State} {x0 : Nat} {x1 : Word → Word → Word} {x2 : ThreadId} {x3 : RFields} {x4 : State} (h4 : Keeps a x4) : OKeeps a (binRow x0 x1 x2 x3 x4) := by
  unfold binRow
  try dsimp only
  repeat' first
    | with_reducible assumption
    | with_reducible apply OKeeps.next
    | exact trivial
    | with_reducible apply aluRow_keeps

theorem unRow_keeps {a : State} {x0 : Nat} {x1 : Word → Word} {x2 : ThreadId} {x3 : RFields} {x4 : State} (h4 : Keeps a x4) : OKeeps a (unRow x0 x1 x2 x3 x4) := by
  unfold unRow
  try dsimp only
  repeat' first
    | with_reducible assumption
    | with_reducible apply OKeeps.next
    | exact trivial
    | with_reducible apply aluRow_keeps

theorem shiftRow_keeps {a : State} {x0 : Nat} {x1 : Word → Nat → Word} {x2 : ThreadId} {x3 : RFields} {x4 : State} (h4 : Keeps a x4) : OKeeps a (shiftRow x0 x1 x2 x3 x4) := by
  unfold shiftRow
  try dsimp only
  repeat' first
    | with_reducible assumption
    | with_reducible apply OKeeps.next
    | exact trivial
    | with_reducible apply aluRow_keeps

theorem addRow_keeps {a : State} {x0 : Nat} {x1 : Thread → Nat} {x2 : ThreadId} {x3 : RFields} {x4 : State} (h4 : Keeps a x4) : OKeeps a (addRow x0 x1 x2 x3 x4) := by
  unfold addRow
  try dsimp only
  repeat' first
    | with_reducible assumption
    | with_reducible apply OKeeps.next
    | exact trivial
    | with_reducible apply aluRow_keeps

theorem subRow_keeps {a : State} {x0 : Nat} {x1 : Thread → Nat} {x2 : ThreadId} {x3 : RFields} {x4 : State} (h4 : Keeps a x4) : OKeeps a (subRow x0 x1 x2 x3 x4) := by
  unfold subRow
  try dsimp only
  repeat' first
    | with_reducible assumption
    | with_reducible apply OKeeps.next
    | exact trivial
    | with_reducible apply aluRow_keeps

theorem execAdd_keeps {a : State} {x0 : ThreadId} {x1 : RFields} {x2 : State} (h2 : Keeps a x2) : OKeeps a (execAdd x0 x1 x2) := by
  unfold execAdd
  try dsimp only
  repeat' first
    | with_reducible assumption
    | with_reducible apply OKeeps.next
    | exact trivial
    | with_reducible apply addRow_keeps

theorem execAddc_keeps {a : State} {x0 : ThreadId} {x1 : RFields} {x2 : State} (h2 : Keeps a x2) : OKeeps a (execAddc x0 x1 x2) := by
  unfold execAddc
  try dsimp only
  repeat' first
    | with_reducible assumption
    | with_reducible apply OKeeps.next
    | exact trivial
    | with_reducible apply addRow_keeps

theorem execSub_keeps {a : State} {x0 : ThreadId} {x1 : RFields} {x2 : State} (h2 : Keeps a x2) : OKeeps a (execSub x0 x1 x2) := by
  unfold execSub
  try dsimp only
  repeat' first
    | with_reducible assumption
    | with_reducible apply OKeeps.next
    | exact trivial
    | with_reducible apply subRow_keeps

theorem execSubc_keeps {a : State} {x0 : ThreadId} {x1 : RFields} {x2 : State} (h2 : Keeps a x2) : OKeeps a (execSubc x0 x1 x2) := by
  unfold execSubc
  try dsimp only
  repeat' first
    | with_reducible assumption
    | with_reducible apply OKeeps.next
    | exact trivial
    | with_reducible apply subRow_keeps

theorem execAnd_keeps {a : State} {x0 : ThreadId} {x1 : RFields} {x2 : State} (h2 : Keeps a x2) : OKeeps a (execAnd x0 x1 x2) := by
  unfold execAnd
  try dsimp only
  repeat' first
    | with_reducible assumption
    | with_reducible apply OKeeps.next
    | exact trivial
    | with_reducible apply binRow_keeps

theorem execOr_keeps {a : State} {x0 : ThreadId} {x1 : RFields} {x2 : State} (h2 : Keeps a x2) : OKeeps a (execOr x0 x1 x2) := by
  unfold execOr
  try dsimp only
  repeat' first
    | with_reducible assumption
    | with_reducible apply OKeeps.next
    | exact trivial
    | with_reducible apply binRow_keeps

theorem execXor_keeps {a : State} {x0 : ThreadId} {x1 : RFields} {x2 : State} (h2 : Keeps a x2) : OKeeps a (execXor x0 x1 x2) := by
  unfold execXor
  try dsimp only
  repeat' first
    | with_reducible assumption
    | with_reducible apply OKeeps.next
    | exact trivial
    | with_reducible apply binRow_keeps

theorem execAndn_keeps {a : State} {x0 : ThreadId} {x1 : RFields} {x2 : State} (h2 : Keeps a x2) : OKeeps a (execAndn x0 x1 x2) := by
  unfold execAndn
  try dsimp only
  repeat' first
    | with_reducible assumption
    | with_reducible apply OKeeps.next
    | exact trivial
    | with_reducible apply binRow_keeps

theorem execSll_keeps {a : State} {x0 : ThreadId} {x1 : RFields} {x2 : State} (h2 : Keeps a x2) : OKeeps a (execSll x0 x1 x2) := by
  unfold execSll
  try dsimp only
  repeat' first
    | with_reducible assumption
    | with_reducible apply OKeeps.next
    | exact trivial
    | with_reducible apply binRow_keeps

theorem execSrl_keeps {a : State} {x0 : ThreadId} {x1 : RFields} {x2 : State} (h2 : Keeps a x2) : OKeeps a (execSrl x0 x1 x2) := by
  unfold execSrl
  try dsimp only
  repeat' first
    | with_reducible assumption
    | with_reducible apply OKeeps.next
    | exact trivial
    | with_reducible apply binRow_keeps

theorem execSra_keeps {a : State} {x0 : ThreadId} {x1 : RFields} {x2 : State} (h2 : Keeps a x2) : OKeeps a (execSra x0 x1 x2) := by
  unfold execSra
  try dsimp only
  repeat' first
    | with_reducible assumption
    | with_reducible apply OKeeps.next
    | exact trivial
    | with_reducible apply binRow_keeps

theorem execRor_keeps {a : State} {x0 : ThreadId} {x1 : RFields} {x2 : State} (h2 : Keeps a x2) : OKeeps a (execRor x0 x1 x2) := by
  unfold execRor
  try dsimp only
  repeat' first
    | with_reducible assumption
    | with_reducible apply OKeeps.next
    | exact trivial
    | with_reducible apply binRow_keeps

theorem execSlli_keeps {a : State} {x0 : ThreadId} {x1 : RFields} {x2 : State} (h2 : Keeps a x2) : OKeeps a (execSlli x0 x1 x2) := by
  unfold execSlli
  try dsimp only
  repeat' first
    | with_reducible assumption
    | with_reducible apply OKeeps.next
    | exact trivial
    | with_reducible apply shiftRow_keeps

theorem execSrli_keeps {a : State} {x0 : ThreadId} {x1 : RFields} {x2 : State} (h2 : Keeps a x2) : OKeeps a (execSrli x0 x1 x2) := by
  unfold execSrli
  try dsimp only
  repeat' first
    | with_reducible assumption
    | with_reducible apply OKeeps.next
    | exact trivial
    | with_reducible apply shiftRow_keeps

theorem execSrai_keeps {a : State} {x0 : ThreadId} {x1 : RFields} {x2 : State} (h2 : Keeps a x2) : OKeeps a (execSrai x0 x1 x2) := by
  unfold execSrai
  try dsimp only
  repeat' first
    | with_reducible assumption
    | with_reducible apply OKeeps.next
    | exact trivial
    | with_reducible apply shiftRow_keeps

theorem execRori_keeps {a : State} {x0 : ThreadId} {x1 : RFields} {x2 : State} (h2 : Keeps a x2) : OKeeps a (execRori x0 x1 x2) := by
  unfold execRori
  try dsimp only
  repeat' first
    | with_reducible assumption
    | with_reducible apply OKeeps.next
    | exact trivial
    | with_reducible apply shiftRow_keeps

theorem execSlt_keeps {a : State} {x0 : ThreadId} {x1 : RFields} {x2 : State} (h2 : Keeps a x2) : OKeeps a (execSlt x0 x1 x2) := by
  unfold execSlt
  try dsimp only
  repeat' first
    | with_reducible assumption
    | with_reducible apply OKeeps.next
    | exact trivial
    | with_reducible apply binRow_keeps

theorem execSltu_keeps {a : State} {x0 : ThreadId} {x1 : RFields} {x2 : State} (h2 : Keeps a x2) : OKeeps a (execSltu x0 x1 x2) := by
  unfold execSltu
  try dsimp only
  repeat' first
    | with_reducible assumption
    | with_reducible apply OKeeps.next
    | exact trivial
    | with_reducible apply binRow_keeps

theorem execMin_keeps {a : State} {x0 : ThreadId} {x1 : RFields} {x2 : State} (h2 : Keeps a x2) : OKeeps a (execMin x0 x1 x2) := by
  unfold execMin
  try dsimp only
  repeat' first
    | with_reducible assumption
    | with_reducible apply OKeeps.next
    | exact trivial
    | with_reducible apply binRow_keeps

theorem execMax_keeps {a : State} {x0 : ThreadId} {x1 : RFields} {x2 : State} (h2 : Keeps a x2) : OKeeps a (execMax x0 x1 x2) := by
  unfold execMax
  try dsimp only
  repeat' first
    | with_reducible assumption
    | with_reducible apply OKeeps.next
    | exact trivial
    | with_reducible apply binRow_keeps

theorem execMinu_keeps {a : State} {x0 : ThreadId} {x1 : RFields} {x2 : State} (h2 : Keeps a x2) : OKeeps a (execMinu x0 x1 x2) := by
  unfold execMinu
  try dsimp only
  repeat' first
    | with_reducible assumption
    | with_reducible apply OKeeps.next
    | exact trivial
    | with_reducible apply binRow_keeps

theorem execMaxu_keeps {a : State} {x0 : ThreadId} {x1 : RFields} {x2 : State} (h2 : Keeps a x2) : OKeeps a (execMaxu x0 x1 x2) := by
  unfold execMaxu
  try dsimp only
  repeat' first
    | with_reducible assumption
    | with_reducible apply OKeeps.next
    | exact trivial
    | with_reducible apply binRow_keeps

theorem execMul_keeps {a : State} {x0 : ThreadId} {x1 : RFields} {x2 : State} (h2 : Keeps a x2) : OKeeps a (execMul x0 x1 x2) := by
  unfold execMul
  try dsimp only
  repeat' first
    | with_reducible assumption
    | with_reducible apply OKeeps.next
    | exact trivial
    | with_reducible apply binRow_keeps

theorem execMulh_keeps {a : State} {x0 : ThreadId} {x1 : RFields} {x2 : State} (h2 : Keeps a x2) : OKeeps a (execMulh x0 x1 x2) := by
  unfold execMulh
  try dsimp only
  repeat' first
    | with_reducible assumption
    | with_reducible apply OKeeps.next
    | exact trivial
    | with_reducible apply binRow_keeps

theorem execMulhu_keeps {a : State} {x0 : ThreadId} {x1 : RFields} {x2 : State} (h2 : Keeps a x2) : OKeeps a (execMulhu x0 x1 x2) := by
  unfold execMulhu
  try dsimp only
  repeat' first
    | with_reducible assumption
    | with_reducible apply OKeeps.next
    | exact trivial
    | with_reducible apply binRow_keeps

theorem execDiv_keeps {a : State} {x0 : ThreadId} {x1 : RFields} {x2 : State} (h2 : Keeps a x2) : OKeeps a (execDiv x0 x1 x2) := by
  unfold execDiv
  try dsimp only
  repeat' first
    | with_reducible assumption
    | with_reducible apply OKeeps.next
    | exact trivial
    | with_reducible apply binRow_keeps

theorem execDivu_keeps {a : State} {x0 : ThreadId} {x1 : RFields} {x2 : State} (h2 : Keeps a x2) : OKeeps a (execDivu x0 x1 x2) := by
  unfold execDivu
  try dsimp only
  repeat' first
    | with_reducible assumption
    | with_reducible apply OKeeps.next
    | exact trivial
    | with_reducible apply binRow_keeps

theorem execRem_keeps {a : State} {x0 : ThreadId} {x1 : RFields} {x2 : State} (h2 : Keeps a x2) : OKeeps a (execRem x0 x1 x2) := by
  unfold execRem
  try dsimp only
  repeat' first
    | with_reducible assumption
    | with_reducible apply OKeeps.next
    | exact trivial
    | with_reducible apply binRow_keeps

theorem execRemu_keeps {a : State} {x0 : ThreadId} {x1 : RFields} {x2 : State} (h2 : Keeps a x2) : OKeeps a (execRemu x0 x1 x2) := by
  unfold execRemu
  try dsimp only
  repeat' first
    | with_reducible assumption
    | with_reducible apply OKeeps.next
    | exact trivial
    | with_reducible apply binRow_keeps

theorem execClz_keeps {a : State} {x0 : ThreadId} {x1 : RFields} {x2 : State} (h2 : Keeps a x2) : OKeeps a (execClz x0 x1 x2) := by
  unfold execClz
  try dsimp only
  repeat' first
    | with_reducible assumption
    | with_reducible apply OKeeps.next
    | exact trivial
    | with_reducible apply unRow_keeps

theorem execPopc_keeps {a : State} {x0 : ThreadId} {x1 : RFields} {x2 : State} (h2 : Keeps a x2) : OKeeps a (execPopc x0 x1 x2) := by
  unfold execPopc
  try dsimp only
  repeat' first
    | with_reducible assumption
    | with_reducible apply OKeeps.next
    | exact trivial
    | with_reducible apply unRow_keeps

theorem execBswap_keeps {a : State} {x0 : ThreadId} {x1 : RFields} {x2 : State} (h2 : Keeps a x2) : OKeeps a (execBswap x0 x1 x2) := by
  unfold execBswap
  try dsimp only
  repeat' first
    | with_reducible assumption
    | with_reducible apply OKeeps.next
    | exact trivial
    | with_reducible apply unRow_keeps

theorem immRow_keeps {a : State} {x0 : Nat} {x1 : IFields → Bool} {x2 : Thread → IFields → Thread} {x3 : ThreadId} {x4 : IFields} {x5 : State} (h5 : Keeps a x5) : OKeeps a (immRow x0 x1 x2 x3 x4 x5) := by
  unfold immRow
  try dsimp only
  repeat' first
    | with_reducible assumption
    | with_reducible apply OKeeps.next
    | exact trivial
    | with_reducible apply RKeeps.ok
    | with_reducible apply RKeeps.jump
    | with_reducible apply RKeeps.stay
    | with_reducible apply RKeeps.gone
    | exact RKeeps.raise
    | exact RKeeps.call
    | with_reducible apply Result.regs_keeps
    | with_reducible apply issue_keeps
    | (with_reducible refine Keeps.fst (by with_reducible assumption) ?_)
    | (with_reducible refine Keeps.snd (by with_reducible assumption) ?_)
    | split
    | (with_reducible intro _)

theorem execAddi_keeps {a : State} {x0 : ThreadId} {x1 : IFields} {x2 : State} (h2 : Keeps a x2) : OKeeps a (execAddi x0 x1 x2) := by
  unfold execAddi
  try dsimp only
  repeat' first
    | with_reducible assumption
    | with_reducible apply OKeeps.next
    | exact trivial
    | with_reducible apply immRow_keeps

theorem execAndi_keeps {a : State} {x0 : ThreadId} {x1 : IFields} {x2 : State} (h2 : Keeps a x2) : OKeeps a (execAndi x0 x1 x2) := by
  unfold execAndi
  try dsimp only
  repeat' first
    | with_reducible assumption
    | with_reducible apply OKeeps.next
    | exact trivial
    | with_reducible apply immRow_keeps

theorem execOri_keeps {a : State} {x0 : ThreadId} {x1 : IFields} {x2 : State} (h2 : Keeps a x2) : OKeeps a (execOri x0 x1 x2) := by
  unfold execOri
  try dsimp only
  repeat' first
    | with_reducible assumption
    | with_reducible apply OKeeps.next
    | exact trivial
    | with_reducible apply immRow_keeps

theorem execXori_keeps {a : State} {x0 : ThreadId} {x1 : IFields} {x2 : State} (h2 : Keeps a x2) : OKeeps a (execXori x0 x1 x2) := by
  unfold execXori
  try dsimp only
  repeat' first
    | with_reducible assumption
    | with_reducible apply OKeeps.next
    | exact trivial
    | with_reducible apply immRow_keeps

theorem execLi_keeps {a : State} {x0 : ThreadId} {x1 : IFields} {x2 : State} (h2 : Keeps a x2) : OKeeps a (execLi x0 x1 x2) := by
  unfold execLi
  try dsimp only
  repeat' first
    | with_reducible assumption
    | with_reducible apply OKeeps.next
    | exact trivial
    | with_reducible apply immRow_keeps

theorem execLui_keeps {a : State} {x0 : ThreadId} {x1 : IFields} {x2 : State} (h2 : Keeps a x2) : OKeeps a (execLui x0 x1 x2) := by
  unfold execLui
  try dsimp only
  repeat' first
    | with_reducible assumption
    | with_reducible apply OKeeps.next
    | exact trivial
    | with_reducible apply immRow_keeps

theorem execAaddi_keeps {a : State} {x0 : ThreadId} {x1 : IFields} {x2 : State} (h2 : Keeps a x2) : OKeeps a (execAaddi x0 x1 x2) := by
  unfold execAaddi
  try dsimp only
  repeat' first
    | with_reducible assumption
    | with_reducible apply OKeeps.next
    | exact trivial
    | with_reducible apply immRow_keeps

theorem execAlpc_keeps {a : State} {x0 : ThreadId} {x1 : IFields} {x2 : State} (h2 : Keeps a x2) : OKeeps a (execAlpc x0 x1 x2) := by
  unfold execAlpc
  try dsimp only
  repeat' first
    | with_reducible assumption
    | with_reducible apply OKeeps.next
    | exact trivial
    | with_reducible apply immRow_keeps

theorem fieldRow_keeps {a : State} {x0 : Nat} {x1 : Thread → BFFields → Word} {x2 : ThreadId} {x3 : BFFields} {x4 : State} (h4 : Keeps a x4) : OKeeps a (fieldRow x0 x1 x2 x3 x4) := by
  unfold fieldRow
  try dsimp only
  repeat' first
    | with_reducible assumption
    | with_reducible apply OKeeps.next
    | exact trivial
    | with_reducible apply RKeeps.ok
    | with_reducible apply RKeeps.jump
    | with_reducible apply RKeeps.stay
    | with_reducible apply RKeeps.gone
    | exact RKeeps.raise
    | exact RKeeps.call
    | with_reducible apply Result.regs_keeps
    | with_reducible apply issue_keeps
    | (with_reducible refine Keeps.fst (by with_reducible assumption) ?_)
    | (with_reducible refine Keeps.snd (by with_reducible assumption) ?_)
    | split
    | (with_reducible intro _)

theorem execExtu_keeps {a : State} {x0 : ThreadId} {x1 : BFFields} {x2 : State} (h2 : Keeps a x2) : OKeeps a (execExtu x0 x1 x2) := by
  unfold execExtu
  try dsimp only
  repeat' first
    | with_reducible assumption
    | with_reducible apply OKeeps.next
    | exact trivial
    | with_reducible apply fieldRow_keeps

theorem execExts_keeps {a : State} {x0 : ThreadId} {x1 : BFFields} {x2 : State} (h2 : Keeps a x2) : OKeeps a (execExts x0 x1 x2) := by
  unfold execExts
  try dsimp only
  repeat' first
    | with_reducible assumption
    | with_reducible apply OKeeps.next
    | exact trivial
    | with_reducible apply fieldRow_keeps

theorem execIns_keeps {a : State} {x0 : ThreadId} {x1 : BFFields} {x2 : State} (h2 : Keeps a x2) : OKeeps a (execIns x0 x1 x2) := by
  unfold execIns
  try dsimp only
  repeat' first
    | with_reducible assumption
    | with_reducible apply OKeeps.next
    | exact trivial
    | with_reducible apply fieldRow_keeps

end Sys2Proof.Machine
end

