-- ==== Sys2Proof/Laws/Acc.lean ====
section
/-! SUPPORT. What the operations of Acc keep: the fuses, the queue and the canonical form of the stores. -/

namespace Sys2Proof.Machine

open Host

theorem rRow_keeps {a : State} {x0 : Nat} {x1 : Nat} {x2 : RFields → Bool} {x3 : Thread → RFields → Thread} {x4 : ThreadId} {x5 : RFields} {x6 : State} (h6 : Keeps a x6) : OKeeps a (rRow x0 x1 x2 x3 x4 x5 x6) := by
  unfold rRow
  try dsimp only
  repeat' first
    | with_reducible assumption
    | with_reducible apply OKeeps.next
    | exact trivial
    | with_reducible apply RKeeps.ok
    | with_reducible apply RKeeps.jump
    | with_reducible apply RKeeps.stay
    | with_reducible apply RKeeps.gone
    | exact RKeeps.raise
    | exact RKeeps.call
    | with_reducible apply Result.regs_keeps
    | with_reducible apply issue_keeps
    | (with_reducible refine Keeps.fst (by with_reducible assumption) ?_)
    | (with_reducible refine Keeps.snd (by with_reducible assumption) ?_)
    | (with_reducible refine Keeps.fold ?_ _ ?_)
    | (with_reducible refine Keeps.foldFst ?_ _ ?_)
    | split
    | (with_reducible intro _)

theorem execMac_keeps {a : State} {x0 : ThreadId} {x1 : RFields} {x2 : State} (h2 : Keeps a x2) : OKeeps a (execMac x0 x1 x2) := by
  unfold execMac
  try dsimp only
  repeat' first
    | with_reducible assumption
    | with_reducible apply OKeeps.next
    | exact trivial
    | with_reducible apply rRow_keeps

theorem execMacu_keeps {a : State} {x0 : ThreadId} {x1 : RFields} {x2 : State} (h2 : Keeps a x2) : OKeeps a (execMacu x0 x1 x2) := by
  unfold execMacu
  try dsimp only
  repeat' first
    | with_reducible assumption
    | with_reducible apply OKeeps.next
    | exact trivial
    | with_reducible apply rRow_keeps

theorem execMsu_keeps {a : State} {x0 : ThreadId} {x1 : RFields} {x2 : State} (h2 : Keeps a x2) : OKeeps a (execMsu x0 x1 x2) := by
  unfold execMsu
  try dsimp only
  repeat' first
    | with_reducible assumption
    | with_reducible apply OKeeps.next
    | exact trivial
    | with_reducible apply rRow_keeps

theorem execMsuu_keeps {a : State} {x0 : ThreadId} {x1 : RFields} {x2 : State} (h2 : Keeps a x2) : OKeeps a (execMsuu x0 x1 x2) := by
  unfold execMsuu
  try dsimp only
  repeat' first
    | with_reducible assumption
    | with_reducible apply OKeeps.next
    | exact trivial
    | with_reducible apply rRow_keeps

theorem execMula_keeps {a : State} {x0 : ThreadId} {x1 : RFields} {x2 : State} (h2 : Keeps a x2) : OKeeps a (execMula x0 x1 x2) := by
  unfold execMula
  try dsimp only
  repeat' first
    | with_reducible assumption
    | with_reducible apply OKeeps.next
    | exact trivial
    | with_reducible apply rRow_keeps

theorem execAclr_keeps {a : State} {x0 : ThreadId} {x1 : RFields} {x2 : State} (h2 : Keeps a x2) : OKeeps a (execAclr x0 x1 x2) := by
  unfold execAclr
  try dsimp only
  repeat' first
    | with_reducible assumption
    | with_reducible apply OKeeps.next
    | exact trivial
    | with_reducible apply rRow_keeps

theorem execMtac_keeps {a : State} {x0 : ThreadId} {x1 : RFields} {x2 : State} (h2 : Keeps a x2) : OKeeps a (execMtac x0 x1 x2) := by
  unfold execMtac
  try dsimp only
  repeat' first
    | with_reducible assumption
    | with_reducible apply OKeeps.next
    | exact trivial
    | with_reducible apply rRow_keeps

theorem execMtacu_keeps {a : State} {x0 : ThreadId} {x1 : RFields} {x2 : State} (h2 : Keeps a x2) : OKeeps a (execMtacu x0 x1 x2) := by
  unfold execMtacu
  try dsimp only
  repeat' first
    | with_reducible assumption
    | with_reducible apply OKeeps.next
    | exact trivial
    | with_reducible apply rRow_keeps

theorem execMfacl_keeps {a : State} {x0 : ThreadId} {x1 : RFields} {x2 : State} (h2 : Keeps a x2) : OKeeps a (execMfacl x0 x1 x2) := by
  unfold execMfacl
  try dsimp only
  repeat' first
    | with_reducible assumption
    | with_reducible apply OKeeps.next
    | exact trivial
    | with_reducible apply rRow_keeps

theorem execMfach_keeps {a : State} {x0 : ThreadId} {x1 : RFields} {x2 : State} (h2 : Keeps a x2) : OKeeps a (execMfach x0 x1 x2) := by
  unfold execMfach
  try dsimp only
  repeat' first
    | with_reducible assumption
    | with_reducible apply OKeeps.next
    | exact trivial
    | with_reducible apply rRow_keeps

theorem execMfacg_keeps {a : State} {x0 : ThreadId} {x1 : RFields} {x2 : State} (h2 : Keeps a x2) : OKeeps a (execMfacg x0 x1 x2) := by
  unfold execMfacg
  try dsimp only
  repeat' first
    | with_reducible assumption
    | with_reducible apply OKeeps.next
    | exact trivial
    | with_reducible apply rRow_keeps

theorem execAsat_keeps {a : State} {x0 : ThreadId} {x1 : RFields} {x2 : State} (h2 : Keeps a x2) : OKeeps a (execAsat x0 x1 x2) := by
  unfold execAsat
  try dsimp only
  repeat' first
    | with_reducible assumption
    | with_reducible apply OKeeps.next
    | exact trivial
    | with_reducible apply rRow_keeps

theorem execAshr_keeps {a : State} {x0 : ThreadId} {x1 : RFields} {x2 : State} (h2 : Keeps a x2) : OKeeps a (execAshr x0 x1 x2) := by
  unfold execAshr
  try dsimp only
  repeat' first
    | with_reducible assumption
    | with_reducible apply OKeeps.next
    | exact trivial
    | with_reducible apply rRow_keeps

theorem execDadd_keeps {a : State} {x0 : ThreadId} {x1 : RFields} {x2 : State} (h2 : Keeps a x2) : OKeeps a (execDadd x0 x1 x2) := by
  unfold execDadd
  try dsimp only
  repeat' first
    | with_reducible assumption
    | with_reducible apply OKeeps.next
    | exact trivial
    | with_reducible apply rRow_keeps

theorem execDaddc_keeps {a : State} {x0 : ThreadId} {x1 : RFields} {x2 : State} (h2 : Keeps a x2) : OKeeps a (execDaddc x0 x1 x2) := by
  unfold execDaddc
  try dsimp only
  repeat' first
    | with_reducible assumption
    | with_reducible apply OKeeps.next
    | exact trivial
    | with_reducible apply rRow_keeps

theorem execDsub_keeps {a : State} {x0 : ThreadId} {x1 : RFields} {x2 : State} (h2 : Keeps a x2) : OKeeps a (execDsub x0 x1 x2) := by
  unfold execDsub
  try dsimp only
  repeat' first
    | with_reducible assumption
    | with_reducible apply OKeeps.next
    | exact trivial
    | with_reducible apply rRow_keeps

theorem execDsubc_keeps {a : State} {x0 : ThreadId} {x1 : RFields} {x2 : State} (h2 : Keeps a x2) : OKeeps a (execDsubc x0 x1 x2) := by
  unfold execDsubc
  try dsimp only
  repeat' first
    | with_reducible assumption
    | with_reducible apply OKeeps.next
    | exact trivial
    | with_reducible apply rRow_keeps

theorem execDaj_keeps {a : State} {x0 : ThreadId} {x1 : RFields} {x2 : State} (h2 : Keeps a x2) : OKeeps a (execDaj x0 x1 x2) := by
  unfold execDaj
  try dsimp only
  repeat' first
    | with_reducible assumption
    | with_reducible apply OKeeps.next
    | exact trivial
    | with_reducible apply rRow_keeps

theorem execDacc_keeps {a : State} {x0 : ThreadId} {x1 : RFields} {x2 : State} (h2 : Keeps a x2) : OKeeps a (execDacc x0 x1 x2) := by
  unfold execDacc
  try dsimp only
  repeat' first
    | with_reducible assumption
    | with_reducible apply OKeeps.next
    | exact trivial
    | with_reducible apply rRow_keeps

theorem execAsc2p_keeps {a : State} {x0 : ThreadId} {x1 : RFields} {x2 : State} (h2 : Keeps a x2) : OKeeps a (execAsc2p x0 x1 x2) := by
  unfold execAsc2p
  try dsimp only
  repeat' first
    | with_reducible assumption
    | with_reducible apply OKeeps.next
    | exact trivial
    | with_reducible apply rRow_keeps

theorem execP2bin_keeps {a : State} {x0 : ThreadId} {x1 : RFields} {x2 : State} (h2 : Keeps a x2) : OKeeps a (execP2bin x0 x1 x2) := by
  unfold execP2bin
  try dsimp only
  repeat' first
    | with_reducible assumption
    | with_reducible apply OKeeps.next
    | exact trivial
    | with_reducible apply rRow_keeps

theorem execBin2p_keeps {a : State} {x0 : ThreadId} {x1 : RFields} {x2 : State} (h2 : Keeps a x2) : OKeeps a (execBin2p x0 x1 x2) := by
  unfold execBin2p
  try dsimp only
  repeat' first
    | with_reducible assumption
    | with_reducible apply OKeeps.next
    | exact trivial
    | with_reducible apply rRow_keeps

theorem execMovda_keeps {a : State} {x0 : ThreadId} {x1 : RFields} {x2 : State} (h2 : Keeps a x2) : OKeeps a (execMovda x0 x1 x2) := by
  unfold execMovda
  try dsimp only
  repeat' first
    | with_reducible assumption
    | with_reducible apply OKeeps.next
    | exact trivial
    | with_reducible apply rRow_keeps

theorem execMovdas_keeps {a : State} {x0 : ThreadId} {x1 : RFields} {x2 : State} (h2 : Keeps a x2) : OKeeps a (execMovdas x0 x1 x2) := by
  unfold execMovdas
  try dsimp only
  repeat' first
    | with_reducible assumption
    | with_reducible apply OKeeps.next
    | exact trivial
    | with_reducible apply rRow_keeps

theorem execMovad_keeps {a : State} {x0 : ThreadId} {x1 : RFields} {x2 : State} (h2 : Keeps a x2) : OKeeps a (execMovad x0 x1 x2) := by
  unfold execMovad
  try dsimp only
  repeat' first
    | with_reducible assumption
    | with_reducible apply OKeeps.next
    | exact trivial
    | with_reducible apply rRow_keeps

theorem execMovah_keeps {a : State} {x0 : ThreadId} {x1 : RFields} {x2 : State} (h2 : Keeps a x2) : OKeeps a (execMovah x0 x1 x2) := by
  unfold execMovah
  try dsimp only
  repeat' first
    | with_reducible assumption
    | with_reducible apply OKeeps.next
    | exact trivial
    | with_reducible apply rRow_keeps

theorem execMovha_keeps {a : State} {x0 : ThreadId} {x1 : RFields} {x2 : State} (h2 : Keeps a x2) : OKeeps a (execMovha x0 x1 x2) := by
  unfold execMovha
  try dsimp only
  repeat' first
    | with_reducible assumption
    | with_reducible apply OKeeps.next
    | exact trivial
    | with_reducible apply rRow_keeps

theorem execAadd_keeps {a : State} {x0 : ThreadId} {x1 : RFields} {x2 : State} (h2 : Keeps a x2) : OKeeps a (execAadd x0 x1 x2) := by
  unfold execAadd
  try dsimp only
  repeat' first
    | with_reducible assumption
    | with_reducible apply OKeeps.next
    | exact trivial
    | with_reducible apply rRow_keeps

theorem execAsub_keeps {a : State} {x0 : ThreadId} {x1 : RFields} {x2 : State} (h2 : Keeps a x2) : OKeeps a (execAsub x0 x1 x2) := by
  unfold execAsub
  try dsimp only
  repeat' first
    | with_reducible assumption
    | with_reducible apply OKeeps.next
    | exact trivial
    | with_reducible apply rRow_keeps

theorem execAdiff_keeps {a : State} {x0 : ThreadId} {x1 : RFields} {x2 : State} (h2 : Keeps a x2) : OKeeps a (execAdiff x0 x1 x2) := by
  unfold execAdiff
  try dsimp only
  repeat' first
    | with_reducible assumption
    | with_reducible apply OKeeps.next
    | exact trivial
    | with_reducible apply rRow_keeps

theorem execAmov_keeps {a : State} {x0 : ThreadId} {x1 : RFields} {x2 : State} (h2 : Keeps a x2) : OKeeps a (execAmov x0 x1 x2) := by
  unfold execAmov
  try dsimp only
  repeat' first
    | with_reducible assumption
    | with_reducible apply OKeeps.next
    | exact trivial
    | with_reducible apply rRow_keeps

end Sys2Proof.Machine
end

