-- ==== Sys2Proof/Laws/Branch.lean ====
section
/-! SUPPORT. What the operations of Branch keep: the fuses, the queue and the canonical form of the stores. -/

namespace Sys2Proof.Machine

open Host

theorem trainBranch_keeps {a : State} {x0 : State} {x1 : Nat} {x2 : Addr} {x3 : Bool} (h0 : Keeps a x0) : Keeps a (trainBranch x0 x1 x2 x3) := by
  unfold trainBranch
  try dsimp only
  repeat' first
    | with_reducible assumption
    | (with_reducible refine Keeps.fst (by with_reducible assumption) ?_)
    | (with_reducible refine Keeps.snd (by with_reducible assumption) ?_)
    | split
    | fail_if_no_progress (with_reducible apply Keeps.putCores)
    | with_reducible exact Cores.posts_wf
    | with_reducible exact Cores.chans_wf (fun w => sput_wf w _ _)
    | with_reducible exact Cores.chans_wf (fun w => smod_wf w _ _)
    | with_reducible exact Cores.clusters_wf (fun w => sput_wf w _ _)
    | with_reducible exact Cores.clusters_wf (fun w => smod_wf w _ _)
    | with_reducible exact Cores.cxen_wf (fun w => sput_wf w _ _)
    | with_reducible exact Cores.cxen_wf (fun w => smod_wf w _ _)
    | with_reducible exact Cores.cxlog_wf (fun w => sput_wf w _ _)
    | with_reducible exact Cores.cxlog_wf (fun w => smod_wf w _ _)
    | with_reducible exact Cores.bht_wf (fun w => sput_wf w _ _)
    | with_reducible exact Cores.bht_wf (fun w => smod_wf w _ _)

theorem branchRow_keeps {a : State} {x0 : Nat} {x1 : BFields → Bool} {x2 : Thread → BFields → Option Bool} {x3 : ThreadId} {x4 : BFields} {x5 : State} (h5 : Keeps a x5) : OKeeps a (branchRow x0 x1 x2 x3 x4 x5) := by
  unfold branchRow
  try dsimp only
  repeat' first
    | with_reducible assumption
    | with_reducible apply OKeeps.next
    | exact trivial
    | with_reducible apply RKeeps.ok
    | with_reducible apply RKeeps.jump
    | with_reducible apply RKeeps.stay
    | with_reducible apply RKeeps.gone
    | exact RKeeps.raise
    | exact RKeeps.call
    | with_reducible apply trainBranch_keeps
    | with_reducible apply issue_keeps
    | (with_reducible refine Keeps.fst (by with_reducible assumption) ?_)
    | (with_reducible refine Keeps.snd (by with_reducible assumption) ?_)
    | split
    | (with_reducible intro _)

theorem execBrc_keeps {a : State} {x0 : ThreadId} {x1 : BFields} {x2 : State} (h2 : Keeps a x2) : OKeeps a (execBrc x0 x1 x2) := by
  unfold execBrc
  try dsimp only
  repeat' first
    | with_reducible assumption
    | with_reducible apply OKeeps.next
    | exact trivial
    | with_reducible apply branchRow_keeps

theorem execBrf_keeps {a : State} {x0 : ThreadId} {x1 : BFields} {x2 : State} (h2 : Keeps a x2) : OKeeps a (execBrf x0 x1 x2) := by
  unfold execBrf
  try dsimp only
  repeat' first
    | with_reducible assumption
    | with_reducible apply OKeeps.next
    | exact trivial
    | with_reducible apply branchRow_keeps

theorem execBra_keeps {a : State} {x0 : ThreadId} {x1 : BFields} {x2 : State} (h2 : Keeps a x2) : OKeeps a (execBra x0 x1 x2) := by
  unfold execBra
  try dsimp only
  repeat' first
    | with_reducible assumption
    | with_reducible apply OKeeps.next
    | exact trivial
    | with_reducible apply branchRow_keeps

theorem execJ_keeps {a : State} {x0 : ThreadId} {x1 : JFields} {x2 : State} (h2 : Keeps a x2) : OKeeps a (execJ x0 x1 x2) := by
  unfold execJ
  try dsimp only
  repeat' first
    | with_reducible assumption
    | with_reducible apply OKeeps.next
    | exact trivial
    | with_reducible apply RKeeps.ok
    | with_reducible apply RKeeps.jump
    | with_reducible apply RKeeps.stay
    | with_reducible apply RKeeps.gone
    | exact RKeeps.raise
    | exact RKeeps.call
    | with_reducible apply State.setThread_keeps
    | with_reducible apply issue_keeps
    | (with_reducible refine Keeps.fst (by with_reducible assumption) ?_)
    | (with_reducible refine Keeps.snd (by with_reducible assumption) ?_)
    | split
    | (with_reducible intro _)

theorem execJr_keeps {a : State} {x0 : ThreadId} {x1 : JRFields} {x2 : State} (h2 : Keeps a x2) : OKeeps a (execJr x0 x1 x2) := by
  unfold execJr
  try dsimp only
  repeat' first
    | with_reducible assumption
    | with_reducible apply OKeeps.next
    | exact trivial
    | with_reducible apply RKeeps.ok
    | with_reducible apply RKeeps.jump
    | with_reducible apply RKeeps.stay
    | with_reducible apply RKeeps.gone
    | exact RKeeps.raise
    | exact RKeeps.call
    | with_reducible apply State.setThread_keeps
    | with_reducible apply issue_keeps
    | (with_reducible refine Keeps.fst (by with_reducible assumption) ?_)
    | (with_reducible refine Keeps.snd (by with_reducible assumption) ?_)
    | split
    | (with_reducible intro _)

theorem sysWrite_keeps {a : State} {x0 : State} {x1 : Nat} {x2 : Thread} {x3 : Nat} {x4 : Word} (h0 : Keeps a x0) : Keeps a (sysWrite x0 x1 x2 x3 x4) := by
  unfold sysWrite
  try dsimp only
  repeat' first
    | with_reducible assumption
    | with_reducible apply State.setReg_keeps
    | with_reducible apply State.setThread_keeps
    | (with_reducible refine Keeps.fst (by with_reducible assumption) ?_)
    | (with_reducible refine Keeps.snd (by with_reducible assumption) ?_)
    | split
    | fail_if_no_progress (with_reducible apply Keeps.putCores)
    | with_reducible exact Cores.posts_wf
    | with_reducible exact Cores.chans_wf (fun w => sput_wf w _ _)
    | with_reducible exact Cores.chans_wf (fun w => smod_wf w _ _)
    | with_reducible exact Cores.clusters_wf (fun w => sput_wf w _ _)
    | with_reducible exact Cores.clusters_wf (fun w => smod_wf w _ _)
    | with_reducible exact Cores.cxen_wf (fun w => sput_wf w _ _)

theorem sysRow_keeps {a : State} {x0 : Nat} {x1 : SFields → Bool} {x2 : Nat → SFields → Bool} {x3 : Thread → Result} {x4 : ThreadId} {x5 : SFields} {x6 : State} (h3 : ∀ th, RKeeps a (x3 th)) (h6 : Keeps a x6) : OKeeps a (sysRow x0 x1 x2 x3 x4 x5 x6) := by
  unfold sysRow
  try dsimp only
  repeat' first
    | with_reducible assumption
    | with_reducible apply h3
    | with_reducible apply OKeeps.next
    | exact trivial
    | with_reducible apply RKeeps.ok
    | with_reducible apply RKeeps.jump
    | with_reducible apply RKeeps.stay
    | with_reducible apply RKeeps.gone
    | exact RKeeps.raise
    | exact RKeeps.call
    | with_reducible apply issue_keeps

theorem execMfs_keeps {a : State} {x0 : ThreadId} {x1 : SFields} {x2 : State} (h2 : Keeps a x2) : OKeeps a (execMfs x0 x1 x2) := by
  unfold execMfs
  try dsimp only
  repeat' first
    | with_reducible assumption
    | with_reducible apply OKeeps.next
    | exact trivial
    | with_reducible apply RKeeps.ok
    | with_reducible apply RKeeps.jump
    | with_reducible apply RKeeps.stay
    | with_reducible apply RKeeps.gone
    | exact RKeeps.raise
    | exact RKeeps.call
    | with_reducible apply State.setThread_keeps
    | with_reducible apply sysRow_keeps
    | (with_reducible refine Keeps.fst (by with_reducible assumption) ?_)
    | (with_reducible refine Keeps.snd (by with_reducible assumption) ?_)
    | split
    | (with_reducible intro _)

theorem execMts_keeps {a : State} {x0 : ThreadId} {x1 : SFields} {x2 : State} (h2 : Keeps a x2) : OKeeps a (execMts x0 x1 x2) := by
  unfold execMts
  try dsimp only
  repeat' first
    | with_reducible assumption
    | with_reducible apply OKeeps.next
    | exact trivial
    | with_reducible apply RKeeps.ok
    | with_reducible apply RKeeps.jump
    | with_reducible apply RKeeps.stay
    | with_reducible apply RKeeps.gone
    | exact RKeeps.raise
    | exact RKeeps.call
    | with_reducible apply sysWrite_keeps
    | with_reducible apply sysRow_keeps
    | (with_reducible refine Keeps.fst (by with_reducible assumption) ?_)
    | (with_reducible refine Keeps.snd (by with_reducible assumption) ?_)
    | split
    | (with_reducible intro _)

theorem execMfsa_keeps {a : State} {x0 : ThreadId} {x1 : SFields} {x2 : State} (h2 : Keeps a x2) : OKeeps a (execMfsa x0 x1 x2) := by
  unfold execMfsa
  try dsimp only
  repeat' first
    | with_reducible assumption
    | with_reducible apply OKeeps.next
    | exact trivial
    | with_reducible apply RKeeps.ok
    | with_reducible apply RKeeps.jump
    | with_reducible apply RKeeps.stay
    | with_reducible apply RKeeps.gone
    | exact RKeeps.raise
    | exact RKeeps.call
    | with_reducible apply State.setThread_keeps
    | with_reducible apply sysRow_keeps
    | (with_reducible refine Keeps.fst (by with_reducible assumption) ?_)
    | (with_reducible refine Keeps.snd (by with_reducible assumption) ?_)
    | split
    | (with_reducible intro _)

theorem execMtsa_keeps {a : State} {x0 : ThreadId} {x1 : SFields} {x2 : State} (h2 : Keeps a x2) : OKeeps a (execMtsa x0 x1 x2) := by
  unfold execMtsa
  try dsimp only
  repeat' first
    | with_reducible assumption
    | with_reducible apply OKeeps.next
    | exact trivial
    | with_reducible apply RKeeps.ok
    | with_reducible apply RKeeps.jump
    | with_reducible apply RKeeps.stay
    | with_reducible apply RKeeps.gone
    | exact RKeeps.raise
    | exact RKeeps.call
    | with_reducible apply State.setThread_keeps
    | with_reducible apply sysRow_keeps
    | (with_reducible refine Keeps.fst (by with_reducible assumption) ?_)
    | (with_reducible refine Keeps.snd (by with_reducible assumption) ?_)
    | split
    | (with_reducible intro _)

theorem execSyscall_keeps {a : State} {x0 : ThreadId} {x1 : SFields} {x2 : State} (h2 : Keeps a x2) : OKeeps a (execSyscall x0 x1 x2) := by
  unfold execSyscall
  try dsimp only
  repeat' first
    | with_reducible assumption
    | with_reducible apply OKeeps.next
    | exact trivial
    | with_reducible apply RKeeps.ok
    | with_reducible apply RKeeps.jump
    | with_reducible apply RKeeps.stay
    | with_reducible apply RKeeps.gone
    | exact RKeeps.raise
    | exact RKeeps.call
    | with_reducible apply sysRow_keeps
    | (with_reducible refine Keeps.fst (by with_reducible assumption) ?_)
    | (with_reducible refine Keeps.snd (by with_reducible assumption) ?_)
    | split
    | (with_reducible intro _)

theorem execMoncall_keeps {a : State} {x0 : ThreadId} {x1 : SFields} {x2 : State} (h2 : Keeps a x2) : OKeeps a (execMoncall x0 x1 x2) := by
  unfold execMoncall
  try dsimp only
  repeat' first
    | with_reducible assumption
    | with_reducible apply OKeeps.next
    | exact trivial
    | with_reducible apply RKeeps.ok
    | with_reducible apply RKeeps.jump
    | with_reducible apply RKeeps.stay
    | with_reducible apply RKeeps.gone
    | exact RKeeps.raise
    | exact RKeeps.call
    | with_reducible apply sysRow_keeps
    | (with_reducible refine Keeps.fst (by with_reducible assumption) ?_)
    | (with_reducible refine Keeps.snd (by with_reducible assumption) ?_)
    | split
    | (with_reducible intro _)

theorem execBreakOp_keeps {a : State} {x0 : ThreadId} {x1 : SFields} {x2 : State} (h2 : Keeps a x2) : OKeeps a (execBreakOp x0 x1 x2) := by
  unfold execBreakOp
  try dsimp only
  repeat' first
    | with_reducible assumption
    | with_reducible apply OKeeps.next
    | exact trivial
    | with_reducible apply RKeeps.ok
    | with_reducible apply RKeeps.jump
    | with_reducible apply RKeeps.stay
    | with_reducible apply RKeeps.gone
    | exact RKeeps.raise
    | exact RKeeps.call
    | with_reducible apply sysRow_keeps
    | (with_reducible refine Keeps.fst (by with_reducible assumption) ?_)
    | (with_reducible refine Keeps.snd (by with_reducible assumption) ?_)
    | split
    | (with_reducible intro _)

theorem execEret_keeps {a : State} {x0 : ThreadId} {x1 : SFields} {x2 : State} (h2 : Keeps a x2) : OKeeps a (execEret x0 x1 x2) := by
  unfold execEret
  try dsimp only
  repeat' first
    | with_reducible assumption
    | with_reducible apply OKeeps.next
    | exact trivial
    | with_reducible apply RKeeps.ok
    | with_reducible apply RKeeps.jump
    | with_reducible apply RKeeps.stay
    | with_reducible apply RKeeps.gone
    | exact RKeeps.raise
    | exact RKeeps.call
    | with_reducible apply State.setThread_keeps
    | with_reducible apply endStep_keeps
    | with_reducible apply sysRow_keeps
    | (with_reducible refine Keeps.fst (by with_reducible assumption) ?_)
    | (with_reducible refine Keeps.snd (by with_reducible assumption) ?_)
    | split
    | (with_reducible intro _)

theorem execFence_keeps {a : State} {x0 : ThreadId} {x1 : SFields} {x2 : State} (h2 : Keeps a x2) : OKeeps a (execFence x0 x1 x2) := by
  unfold execFence
  try dsimp only
  repeat' first
    | with_reducible assumption
    | with_reducible apply OKeeps.next
    | exact trivial
    | with_reducible apply RKeeps.ok
    | with_reducible apply RKeeps.jump
    | with_reducible apply RKeeps.stay
    | with_reducible apply RKeeps.gone
    | exact RKeeps.raise
    | exact RKeeps.call
    | with_reducible apply sysRow_keeps
    | (with_reducible refine Keeps.fst (by with_reducible assumption) ?_)
    | (with_reducible refine Keeps.snd (by with_reducible assumption) ?_)
    | split
    | (with_reducible intro _)

theorem execClrf_keeps {a : State} {x0 : ThreadId} {x1 : SFields} {x2 : State} (h2 : Keeps a x2) : OKeeps a (execClrf x0 x1 x2) := by
  unfold execClrf
  try dsimp only
  repeat' first
    | with_reducible assumption
    | with_reducible apply OKeeps.next
    | exact trivial
    | with_reducible apply RKeeps.ok
    | with_reducible apply RKeeps.jump
    | with_reducible apply RKeeps.stay
    | with_reducible apply RKeeps.gone
    | exact RKeeps.raise
    | exact RKeeps.call
    | with_reducible apply State.setThread_keeps
    | with_reducible apply sysRow_keeps
    | (with_reducible refine Keeps.fst (by with_reducible assumption) ?_)
    | (with_reducible refine Keeps.snd (by with_reducible assumption) ?_)
    | split
    | (with_reducible intro _)

end Sys2Proof.Machine
end

