-- ==== Sys2Proof/Laws/Lck.lean ====
section
/-! SUPPORT. What the operations of Lck keep: the fuses, the queue and the canonical form of the stores. -/

namespace Sys2Proof.Machine

open Host

theorem State.setLck_keeps {a : State} {x0 : State} {x1 : Lck} (h0 : Keeps a x0) : Keeps a (State.setLck x0 x1) := by
  unfold State.setLck
  try dsimp only
  repeat' first
    | with_reducible assumption
    | (with_reducible refine Keeps.fst (by with_reducible assumption) ?_)
    | (with_reducible refine Keeps.snd (by with_reducible assumption) ?_)
    | (with_reducible refine Keeps.fold ?_ _ ?_)
    | (with_reducible refine Keeps.foldFst ?_ _ ?_)
    | split
    | (with_reducible intro _)
    | fail_if_no_progress (with_reducible apply Keeps.put)

theorem signalInh_keeps {a : State} {x0 : State} {x1 : Nat} (h0 : Keeps a x0) : Keeps a (signalInh x0 x1) := by
  unfold signalInh
  try dsimp only
  repeat' first
    | with_reducible assumption
    | (with_reducible refine Keeps.fst (by with_reducible assumption) ?_)
    | (with_reducible refine Keeps.snd (by with_reducible assumption) ?_)
    | (with_reducible refine Keeps.fold ?_ _ ?_)
    | (with_reducible refine Keeps.foldFst ?_ _ ?_)
    | split
    | (with_reducible intro _)
    | fail_if_no_progress (with_reducible apply Keeps.put)

theorem answer_keeps {a : State} {x0 : State} {x1 : Nat} {x2 : BitVec 4} {x3 : Word} (h0 : Keeps a x0) : RKeeps a (answer x0 x1 x2 x3) := by
  unfold answer
  try dsimp only
  repeat' first
    | with_reducible assumption
    | with_reducible apply RKeeps.ok
    | with_reducible apply RKeeps.jump
    | with_reducible apply RKeeps.stay
    | with_reducible apply RKeeps.gone
    | exact RKeeps.raise
    | exact RKeeps.call
    | with_reducible apply State.modThread_keeps

theorem endWait_keeps {a : State} {x0 : State} {x1 : Nat} {x2 : BitVec 4} {x3 : Word} (h0 : Keeps a x0) : Keeps a (endWait x0 x1 x2 x3) := by
  unfold endWait
  try dsimp only
  repeat' first
    | with_reducible assumption
    | with_reducible apply State.modThread_keeps

theorem endLockWait_keeps {a : State} {x0 : State} {x1 : Nat} {x2 : Word} (h0 : Keeps a x0) : Keeps a (endLockWait x0 x1 x2) := by
  unfold endLockWait
  try dsimp only
  repeat' first
    | with_reducible assumption
    | with_reducible apply endWait_keeps
    | (with_reducible refine Keeps.fst (by with_reducible assumption) ?_)
    | (with_reducible refine Keeps.snd (by with_reducible assumption) ?_)
    | (with_reducible refine Keeps.fold ?_ _ ?_)
    | (with_reducible refine Keeps.foldFst ?_ _ ?_)
    | split

theorem passLock_keeps {a : State} {x0 : State} {x1 : Nat} {x2 : LockSt} (h0 : Keeps a x0) : Keeps a (passLock x0 x1 x2) := by
  unfold passLock
  try dsimp only
  repeat' first
    | with_reducible assumption
    | with_reducible apply endLockWait_keeps
    | with_reducible apply State.count_keeps
    | with_reducible apply State.setLck_keeps
    | with_reducible apply signalInh_keeps
    | (with_reducible refine Keeps.fst (by with_reducible assumption) ?_)
    | (with_reducible refine Keeps.snd (by with_reducible assumption) ?_)
    | (with_reducible refine Keeps.fold ?_ _ ?_)
    | (with_reducible refine Keeps.foldFst ?_ _ ?_)
    | split

theorem State.setSem_keeps {a : State} {x0 : State} {x1 : Nat} {x2 : SemSt} (h0 : Keeps a x0) : Keeps a (State.setSem x0 x1 x2) := by
  unfold State.setSem
  try dsimp only
  repeat' first
    | with_reducible assumption
    | with_reducible apply State.setLck_keeps

theorem grantSem_keeps {a : State} {x0 : State} {x1 : Nat} {x2 : LckWaiter} (h0 : Keeps a x0) : Keeps a (grantSem x0 x1 x2) := by
  unfold grantSem
  try dsimp only
  repeat' first
    | with_reducible assumption
    | with_reducible apply endLockWait_keeps
    | with_reducible apply State.setLck_keeps
    | with_reducible apply State.setSem_keeps
    | with_reducible apply State.count_keeps
    | (with_reducible refine Keeps.fst (by with_reducible assumption) ?_)
    | (with_reducible refine Keeps.snd (by with_reducible assumption) ?_)
    | (with_reducible refine Keeps.fold ?_ _ ?_)
    | (with_reducible refine Keeps.foldFst ?_ _ ?_)
    | split

theorem grantSems_keeps {a : State} {x0 : Nat} {x1 : State} {x2 : Nat} (h1 : Keeps a x1) : Keeps a (grantSems x0 x1 x2) := by
  induction x0 generalizing x1 with
  | zero => exact h1
  | succ k ih =>
    unfold grantSems
    dsimp only
    split
    · exact h1
    · split
      · exact h1
      · exact ih (grantSem_keeps (State.setSem_keeps h1))

theorem giveUnit_keeps {a : State} {x0 : State} {x1 : Nat} (h0 : Keeps a x0) : Keeps a (giveUnit x0 x1) := by
  unfold giveUnit
  try dsimp only
  repeat' first
    | with_reducible assumption
    | with_reducible apply State.setSem_keeps
    | with_reducible apply grantSem_keeps
    | (with_reducible refine Keeps.fst (by with_reducible assumption) ?_)
    | (with_reducible refine Keeps.snd (by with_reducible assumption) ?_)
    | (with_reducible refine Keeps.fold ?_ _ ?_)
    | (with_reducible refine Keeps.foldFst ?_ _ ?_)
    | split

theorem dropSemGrants_keeps {a : State} {x0 : State} {x1 : Nat} {x2 : Option Nat} (h0 : Keeps a x0) : Keeps a (dropSemGrants x0 x1 x2) := by
  unfold dropSemGrants
  try dsimp only
  repeat' first
    | with_reducible assumption
    | with_reducible apply State.setLck_keeps
    | with_reducible apply giveUnit_keeps
    | (with_reducible refine Keeps.fst (by with_reducible assumption) ?_)
    | (with_reducible refine Keeps.snd (by with_reducible assumption) ?_)
    | (with_reducible refine Keeps.fold ?_ _ ?_)
    | (with_reducible refine Keeps.foldFst ?_ _ ?_)
    | split
    | (with_reducible intro _)

theorem lockRequest_keeps {a : State} {x0 : State} {x1 : Nat} {x2 : Nat} {x3 : Bool} (h0 : Keeps a x0) : Keeps a (lockRequest x0 x1 x2 x3).1 := by
  unfold lockRequest
  try dsimp only
  repeat' first
    | with_reducible assumption
    | with_reducible apply signalInh_keeps
    | with_reducible apply State.setLck_keeps
    | with_reducible apply State.count_keeps
    | (with_reducible refine Keeps.fst (by with_reducible assumption) ?_)
    | (with_reducible refine Keeps.snd (by with_reducible assumption) ?_)
    | (with_reducible refine Keeps.fold ?_ _ ?_)
    | (with_reducible refine Keeps.foldFst ?_ _ ?_)
    | split

theorem unlockRequest_keeps {a : State} {x0 : State} {x1 : Nat} {x2 : Nat} (h0 : Keeps a x0) : Keeps a (unlockRequest x0 x1 x2).1 := by
  unfold unlockRequest
  try dsimp only
  repeat' first
    | with_reducible assumption
    | with_reducible apply passLock_keeps
    | with_reducible apply State.count_keeps
    | (with_reducible refine Keeps.fst (by with_reducible assumption) ?_)
    | (with_reducible refine Keeps.snd (by with_reducible assumption) ?_)
    | (with_reducible refine Keeps.fold ?_ _ ?_)
    | (with_reducible refine Keeps.foldFst ?_ _ ?_)
    | split

theorem takeRequest_keeps {a : State} {x0 : State} {x1 : Nat} {x2 : Nat} {x3 : Bool} (h0 : Keeps a x0) : Keeps a (takeRequest x0 x1 x2 x3).1 := by
  unfold takeRequest
  try dsimp only
  repeat' first
    | with_reducible assumption
    | with_reducible apply State.setSem_keeps
    | with_reducible apply State.count_keeps
    | with_reducible apply State.setLck_keeps
    | (with_reducible refine Keeps.fst (by with_reducible assumption) ?_)
    | (with_reducible refine Keeps.snd (by with_reducible assumption) ?_)
    | (with_reducible refine Keeps.fold ?_ _ ?_)
    | (with_reducible refine Keeps.foldFst ?_ _ ?_)
    | split

theorem giveRequest_keeps {a : State} {x0 : State} {x1 : Nat} (h0 : Keeps a x0) : Keeps a (giveRequest x0 x1).1 := by
  unfold giveRequest
  try dsimp only
  repeat' first
    | with_reducible assumption
    | with_reducible apply State.setSem_keeps
    | with_reducible apply grantSem_keeps
    | (with_reducible refine Keeps.fst (by with_reducible assumption) ?_)
    | (with_reducible refine Keeps.snd (by with_reducible assumption) ?_)
    | (with_reducible refine Keeps.fold ?_ _ ?_)
    | (with_reducible refine Keeps.foldFst ?_ _ ?_)
    | split

theorem lockRow_keeps {a : State} {x0 : Nat} {x1 : Nat} {x2 : State →   Nat → Thread → RFields → State × LckAnswer} {x3 : Thread → RFields → Wait} {x4 : ThreadId} {x5 : RFields} {x6 : State} (h2 : ∀ st n th f, Keeps a st → Keeps a (x2 st n th f).1) (h6 : Keeps a x6) : OKeeps a (lockRow x0 x1 x2 x3 x4 x5 x6) := by
  unfold lockRow
  try dsimp only
  repeat' first
    | with_reducible assumption
    | with_reducible apply h2
    | with_reducible apply OKeeps.next
    | exact trivial
    | with_reducible apply RKeeps.ok
    | with_reducible apply RKeeps.jump
    | with_reducible apply RKeeps.stay
    | with_reducible apply RKeeps.gone
    | exact RKeeps.raise
    | exact RKeeps.call
    | with_reducible apply State.modThread_keeps
    | with_reducible apply answer_keeps
    | with_reducible apply issue_keeps
    | (with_reducible refine Keeps.fst (by with_reducible assumption) ?_)
    | (with_reducible refine Keeps.snd (by with_reducible assumption) ?_)
    | (with_reducible refine Keeps.fold ?_ _ ?_)
    | (with_reducible refine Keeps.foldFst ?_ _ ?_)
    | split
    | (with_reducible intro _)

theorem execLock_keeps {a : State} {x0 : ThreadId} {x1 : RFields} {x2 : State} (h2 : Keeps a x2) : OKeeps a (execLock x0 x1 x2) := by
  unfold execLock
  try dsimp only
  repeat' first
    | with_reducible assumption
    | with_reducible apply OKeeps.next
    | exact trivial
    | with_reducible apply dropSemGrants_keeps
    | with_reducible apply lockRequest_keeps
    | with_reducible apply lockRow_keeps
    | (with_reducible refine Keeps.fst (by with_reducible assumption) ?_)
    | (with_reducible refine Keeps.snd (by with_reducible assumption) ?_)
    | (with_reducible refine Keeps.fold ?_ _ ?_)
    | (with_reducible refine Keeps.foldFst ?_ _ ?_)
    | split
    | (with_reducible intro _)

theorem execTrylock_keeps {a : State} {x0 : ThreadId} {x1 : RFields} {x2 : State} (h2 : Keeps a x2) : OKeeps a (execTrylock x0 x1 x2) := by
  unfold execTrylock
  try dsimp only
  repeat' first
    | with_reducible assumption
    | with_reducible apply OKeeps.next
    | exact trivial
    | with_reducible apply dropSemGrants_keeps
    | with_reducible apply lockRequest_keeps
    | with_reducible apply lockRow_keeps
    | (with_reducible refine Keeps.fst (by with_reducible assumption) ?_)
    | (with_reducible refine Keeps.snd (by with_reducible assumption) ?_)
    | (with_reducible refine Keeps.fold ?_ _ ?_)
    | (with_reducible refine Keeps.foldFst ?_ _ ?_)
    | split
    | (with_reducible intro _)

theorem execUnlock_keeps {a : State} {x0 : ThreadId} {x1 : RFields} {x2 : State} (h2 : Keeps a x2) : OKeeps a (execUnlock x0 x1 x2) := by
  unfold execUnlock
  try dsimp only
  repeat' first
    | with_reducible assumption
    | with_reducible apply OKeeps.next
    | exact trivial
    | with_reducible apply dropSemGrants_keeps
    | with_reducible apply unlockRequest_keeps
    | with_reducible apply lockRow_keeps
    | (with_reducible refine Keeps.fst (by with_reducible assumption) ?_)
    | (with_reducible refine Keeps.snd (by with_reducible assumption) ?_)
    | (with_reducible refine Keeps.fold ?_ _ ?_)
    | (with_reducible refine Keeps.foldFst ?_ _ ?_)
    | split
    | (with_reducible intro _)

theorem execSemp_keeps {a : State} {x0 : ThreadId} {x1 : RFields} {x2 : State} (h2 : Keeps a x2) : OKeeps a (execSemp x0 x1 x2) := by
  unfold execSemp
  try dsimp only
  repeat' first
    | with_reducible assumption
    | with_reducible apply OKeeps.next
    | exact trivial
    | with_reducible apply dropSemGrants_keeps
    | with_reducible apply takeRequest_keeps
    | with_reducible apply lockRow_keeps
    | (with_reducible refine Keeps.fst (by with_reducible assumption) ?_)
    | (with_reducible refine Keeps.snd (by with_reducible assumption) ?_)
    | (with_reducible refine Keeps.fold ?_ _ ?_)
    | (with_reducible refine Keeps.foldFst ?_ _ ?_)
    | split
    | (with_reducible intro _)

theorem execSemv_keeps {a : State} {x0 : ThreadId} {x1 : RFields} {x2 : State} (h2 : Keeps a x2) : OKeeps a (execSemv x0 x1 x2) := by
  unfold execSemv
  try dsimp only
  repeat' first
    | with_reducible assumption
    | with_reducible apply OKeeps.next
    | exact trivial
    | with_reducible apply dropSemGrants_keeps
    | with_reducible apply giveRequest_keeps
    | with_reducible apply lockRow_keeps
    | (with_reducible refine Keeps.fst (by with_reducible assumption) ?_)
    | (with_reducible refine Keeps.snd (by with_reducible assumption) ?_)
    | (with_reducible refine Keeps.fold ?_ _ ?_)
    | (with_reducible refine Keeps.foldFst ?_ _ ?_)
    | split
    | (with_reducible intro _)

theorem atomicRow_keeps {a : State} {x0 : Nat} {x1 : RFields → Bool} {x2 : Thread → RFields → AtomicOp} {x3 : ThreadId} {x4 : RFields} {x5 : State} (h5 : Keeps a x5) : OKeeps a (atomicRow x0 x1 x2 x3 x4 x5) := by
  unfold atomicRow
  try dsimp only
  repeat' first
    | with_reducible assumption
    | with_reducible apply OKeeps.next
    | exact trivial
    | with_reducible apply RKeeps.ok
    | with_reducible apply RKeeps.jump
    | with_reducible apply RKeeps.stay
    | with_reducible apply RKeeps.gone
    | exact RKeeps.raise
    | exact RKeeps.call
    | with_reducible apply State.modThread_keeps
    | with_reducible apply issue_keeps
    | (with_reducible refine Keeps.fst (by with_reducible assumption) ?_)
    | (with_reducible refine Keeps.snd (by with_reducible assumption) ?_)
    | (with_reducible refine Keeps.fold ?_ _ ?_)
    | (with_reducible refine Keeps.foldFst ?_ _ ?_)
    | split
    | (with_reducible intro _)

theorem execAaddw_keeps {a : State} {x0 : ThreadId} {x1 : RFields} {x2 : State} (h2 : Keeps a x2) : OKeeps a (execAaddw x0 x1 x2) := by
  unfold execAaddw
  try dsimp only
  repeat' first
    | with_reducible assumption
    | with_reducible apply OKeeps.next
    | exact trivial
    | with_reducible apply atomicRow_keeps

theorem execAswpw_keeps {a : State} {x0 : ThreadId} {x1 : RFields} {x2 : State} (h2 : Keeps a x2) : OKeeps a (execAswpw x0 x1 x2) := by
  unfold execAswpw
  try dsimp only
  repeat' first
    | with_reducible assumption
    | with_reducible apply OKeeps.next
    | exact trivial
    | with_reducible apply atomicRow_keeps

theorem execAcasw_keeps {a : State} {x0 : ThreadId} {x1 : RFields} {x2 : State} (h2 : Keeps a x2) : OKeeps a (execAcasw x0 x1 x2) := by
  unfold execAcasw
  try dsimp only
  repeat' first
    | with_reducible assumption
    | with_reducible apply OKeeps.next
    | exact trivial
    | with_reducible apply atomicRow_keeps

theorem execAandw_keeps {a : State} {x0 : ThreadId} {x1 : RFields} {x2 : State} (h2 : Keeps a x2) : OKeeps a (execAandw x0 x1 x2) := by
  unfold execAandw
  try dsimp only
  repeat' first
    | with_reducible assumption
    | with_reducible apply OKeeps.next
    | exact trivial
    | with_reducible apply atomicRow_keeps

theorem execAorw_keeps {a : State} {x0 : ThreadId} {x1 : RFields} {x2 : State} (h2 : Keeps a x2) : OKeeps a (execAorw x0 x1 x2) := by
  unfold execAorw
  try dsimp only
  repeat' first
    | with_reducible assumption
    | with_reducible apply OKeeps.next
    | exact trivial
    | with_reducible apply atomicRow_keeps

theorem execLockTrump_keeps {a : State} {x0 : Bool} {x1 : BitVec 14} {x2 : BitVec 12} {x3 : State} (h3 : Keeps a x3) : OKeeps a (execLockTrump x0 x1 x2 x3) := by
  unfold execLockTrump
  try dsimp only
  repeat' first
    | with_reducible assumption
    | with_reducible apply OKeeps.next
    | exact trivial
    | with_reducible apply State.setLck_keeps
    | with_reducible apply signalInh_keeps
    | with_reducible apply State.setSem_keeps
    | with_reducible apply State.count_keeps
    | (with_reducible refine Keeps.fst (by with_reducible assumption) ?_)
    | (with_reducible refine Keeps.snd (by with_reducible assumption) ?_)
    | (with_reducible refine Keeps.fold ?_ _ ?_)
    | (with_reducible refine Keeps.foldFst ?_ _ ?_)
    | split

theorem removeRequests_keeps {a : State} {x0 : State} {x1 : Nat} (h0 : Keeps a x0) : Keeps a (removeRequests x0 x1) := by
  unfold removeRequests
  try dsimp only
  repeat' first
    | with_reducible assumption
    | with_reducible apply signalInh_keeps
    | with_reducible apply State.setLck_keeps
    | (with_reducible refine Keeps.fst (by with_reducible assumption) ?_)
    | (with_reducible refine Keeps.snd (by with_reducible assumption) ?_)
    | (with_reducible refine Keeps.fold ?_ _ ?_)
    | (with_reducible refine Keeps.foldFst ?_ _ ?_)
    | split

theorem sendLckWithdrawal_keeps {a : State} {x0 : State} {x1 : Nat} {x2 : Withdrawal} (h0 : Keeps a x0) : Keeps a (sendLckWithdrawal x0 x1 x2) := by
  unfold sendLckWithdrawal
  try dsimp only
  repeat' first
    | with_reducible assumption
    | with_reducible apply State.setLck_keeps

theorem execLockWithdraw_keeps {a : State} {x0 : ThreadId} {x1 : State} (h1 : Keeps a x1) : OKeeps a (execLockWithdraw x0 x1) := by
  unfold execLockWithdraw
  try dsimp only
  repeat' first
    | with_reducible assumption
    | with_reducible apply OKeeps.next
    | exact trivial
    | with_reducible apply removeRequests_keeps
    | with_reducible apply endLockWait_keeps
    | with_reducible apply State.count_keeps
    | (with_reducible refine Keeps.fst (by with_reducible assumption) ?_)
    | (with_reducible refine Keeps.snd (by with_reducible assumption) ?_)
    | (with_reducible refine Keeps.fold ?_ _ ?_)
    | (with_reducible refine Keeps.foldFst ?_ _ ?_)
    | split

theorem forceLock_keeps {a : State} {x0 : State} {x1 : Nat} {x2 : Nat} (h0 : Keeps a x0) : Keeps a (forceLock x0 x1 x2).1 := by
  unfold forceLock
  try dsimp only
  repeat' first
    | with_reducible assumption
    | with_reducible apply State.count_keeps
    | with_reducible apply State.logEvent_keeps
    | with_reducible apply passLock_keeps
    | with_reducible apply State.setLck_keeps
    | (with_reducible refine Keeps.fst (by with_reducible assumption) ?_)
    | (with_reducible refine Keeps.snd (by with_reducible assumption) ?_)
    | (with_reducible refine Keeps.fold ?_ _ ?_)
    | (with_reducible refine Keeps.foldFst ?_ _ ?_)
    | split

theorem execLckForce_keeps {a : State} {x0 : Path} {x1 : BitVec 14} {x2 : State} (h2 : Keeps a x2) : OKeeps a (execLckForce x0 x1 x2) := by
  unfold execLckForce
  try dsimp only
  repeat' first
    | with_reducible assumption
    | with_reducible apply OKeeps.next
    | exact trivial
    | with_reducible apply forceLock_keeps
    | (with_reducible refine Keeps.fst (by with_reducible assumption) ?_)
    | (with_reducible refine Keeps.snd (by with_reducible assumption) ?_)
    | (with_reducible refine Keeps.fold ?_ _ ?_)
    | (with_reducible refine Keeps.foldFst ?_ _ ?_)
    | split

theorem semInit_keeps {a : State} {x0 : State} {x1 : Nat} {x2 : Word} (h0 : Keeps a x0) : Keeps a (semInit x0 x1 x2) := by
  unfold semInit
  try dsimp only
  repeat' first
    | with_reducible assumption
    | with_reducible apply State.setSem_keeps
    | with_reducible apply grantSems_keeps
    | with_reducible apply State.setReg_keeps

theorem execSemInitWrite_keeps {a : State} {x0 : Path} {x1 : BitVec 11} {x2 : Word} {x3 : State} (h3 : Keeps a x3) : OKeeps a (execSemInitWrite x0 x1 x2 x3) := by
  unfold execSemInitWrite
  try dsimp only
  repeat' first
    | with_reducible assumption
    | with_reducible apply OKeeps.next
    | exact trivial
    | with_reducible apply semInit_keeps
    | (with_reducible refine Keeps.fst (by with_reducible assumption) ?_)
    | (with_reducible refine Keeps.snd (by with_reducible assumption) ?_)
    | (with_reducible refine Keeps.fold ?_ _ ?_)
    | (with_reducible refine Keeps.foldFst ?_ _ ?_)
    | split

theorem lckReset_keeps {a : State} {x0 : State} {x1 : Nat} (h0 : Keeps a x0) : Keeps a (lckReset x0 x1) := by
  unfold lckReset
  try dsimp only
  repeat' first
    | with_reducible assumption
    | with_reducible apply State.logEvent_keeps
    | with_reducible apply removeRequests_keeps
    | with_reducible apply dropSemGrants_keeps
    | (with_reducible refine Keeps.fst (by with_reducible assumption) ?_)
    | (with_reducible refine Keeps.snd (by with_reducible assumption) ?_)
    | (with_reducible refine Keeps.fold ?_ _ ?_)
    | (with_reducible refine Keeps.foldFst ?_ _ ?_)
    | split

end Sys2Proof.Machine
end

