-- ==== Sys2Proof/Laws/Channels.lean ====
section
/-! SUPPORT. What the operations of Channels keep: the fuses, the queue and the canonical form of the stores. -/

namespace Sys2Proof.Machine

open Host

theorem thrCount_keeps {a : State} {x0 : State} {x1 : Nat} {x2 : Nat} (h0 : Keeps a x0) : Keeps a (thrCount x0 x1 x2) := by
  unfold thrCount
  try dsimp only
  repeat' first
    | with_reducible assumption
    | with_reducible apply State.count_keeps

theorem startWait_keeps {a : State} {x0 : State} {x1 : Nat} {x2 : Wait} (h0 : Keeps a x0) : RKeeps a (startWait x0 x1 x2) := by
  unfold startWait
  try dsimp only
  repeat' first
    | with_reducible assumption
    | with_reducible apply RKeeps.ok
    | with_reducible apply RKeeps.jump
    | with_reducible apply RKeeps.stay
    | with_reducible apply RKeeps.gone
    | exact RKeeps.raise
    | exact RKeeps.call
    | with_reducible apply State.modThread_keeps

theorem waitOrTimeout_keeps {a : State} {x0 : State} {x1 : Nat} {x2 : BitVec 4} {x3 : Wait} (h0 : Keeps a x0) : RKeeps a (waitOrTimeout x0 x1 x2 x3) := by
  unfold waitOrTimeout
  try dsimp only
  repeat' first
    | with_reducible assumption
    | with_reducible apply RKeeps.ok
    | with_reducible apply RKeeps.jump
    | with_reducible apply RKeeps.stay
    | with_reducible apply RKeeps.gone
    | exact RKeeps.raise
    | exact RKeeps.call
    | with_reducible apply startWait_keeps
    | with_reducible apply thrCount_keeps
    | with_reducible apply answer_keeps
    | (with_reducible refine Keeps.fst (by with_reducible assumption) ?_)
    | (with_reducible refine Keeps.snd (by with_reducible assumption) ?_)
    | split

theorem passBy_keeps {a : State} {x0 : State} {x1 : Nat} (h0 : Keeps a x0) : Keeps a (passBy x0 x1) := by
  unfold passBy
  try dsimp only
  repeat' first
    | with_reducible assumption
    | with_reducible apply State.modThread_keeps

theorem claim_keeps {a : State} {x0 : State} {x1 : Nat} {x2 : Nat} {x3 : Nat} {x4 : Nat} {x5 : Word} (h0 : Keeps a x0) : Keeps a (claim x0 x1 x2 x3 x4 x5) := by
  unfold claim
  try dsimp only
  repeat' first
    | with_reducible assumption
    | with_reducible apply State.setChan_keeps

theorem freeChan_keeps {a : State} {x0 : State} {x1 : Nat} {x2 : Nat} (h0 : Keeps a x0) : Keeps a (freeChan x0 x1 x2) := by
  unfold freeChan
  try dsimp only
  repeat' first
    | with_reducible assumption
    | with_reducible apply claim_keeps
    | with_reducible apply passBy_keeps
    | with_reducible apply State.setChan_keeps
    | (with_reducible refine Keeps.fst (by with_reducible assumption) ?_)
    | (with_reducible refine Keeps.snd (by with_reducible assumption) ?_)
    | split

theorem takeMessage_keeps {a : State} {x0 : State} {x1 : Nat} {x2 : Nat} {x3 : Nat} {x4 : Addr} (h0 : Keeps a x0) : Keeps a (takeMessage x0 x1 x2 x3 x4).1 := by
  unfold takeMessage
  try dsimp only
  repeat' first
    | with_reducible assumption
    | with_reducible apply State.setChan_keeps
    | with_reducible apply endWait_keeps
    | with_reducible apply freeChan_keeps
    | with_reducible apply State.setMems_keeps
    | (with_reducible refine Keeps.fst (by with_reducible assumption) ?_)
    | (with_reducible refine Keeps.snd (by with_reducible assumption) ?_)
    | split
    | fail_if_no_progress (with_reducible apply Keeps.putMems)
    | with_reducible exact Memory.istore_wf (fun w => writeBytes_wf _ _ w)
    | with_reducible exact Memory.scratch_wf (fun w => writeBytes_wf _ _ w)

theorem serveReceiver_keeps {a : State} {x0 : State} {x1 : Nat} {x2 : Nat} (h0 : Keeps a x0) : Keeps a (serveReceiver x0 x1 x2) := by
  unfold serveReceiver
  try dsimp only
  repeat' first
    | with_reducible assumption
    | with_reducible apply endWait_keeps
    | with_reducible apply State.setChan_keeps
    | with_reducible apply takeMessage_keeps
    | (with_reducible refine Keeps.fst (by with_reducible assumption) ?_)
    | (with_reducible refine Keeps.snd (by with_reducible assumption) ?_)
    | split

theorem commitMessage_keeps {a : State} {x0 : State} {x1 : Nat} {x2 : Nat} {x3 : Nat} {x4 : ChanState} (h0 : Keeps a x0) : Keeps a (commitMessage x0 x1 x2 x3 x4) := by
  unfold commitMessage
  try dsimp only
  repeat' first
    | with_reducible assumption
    | with_reducible apply State.setChan_keeps

theorem workRow_keeps {a : State} {x0 : Nat} {x1 : RFields → Bool} {x2 : Thread → Result} {x3 : ThreadId} {x4 : RFields} {x5 : State} (h2 : ∀ th, RKeeps a (x2 th)) (h5 : Keeps a x5) : OKeeps a (workRow x0 x1 x2 x3 x4 x5) := by
  unfold workRow
  try dsimp only
  repeat' first
    | with_reducible assumption
    | with_reducible apply h2
    | with_reducible apply OKeeps.next
    | exact trivial
    | with_reducible apply RKeeps.ok
    | with_reducible apply RKeeps.jump
    | with_reducible apply RKeeps.stay
    | with_reducible apply RKeeps.gone
    | exact RKeeps.raise
    | exact RKeeps.call
    | with_reducible apply issue_keeps

theorem execChw_keeps {a : State} {x0 : ThreadId} {x1 : RFields} {x2 : State} (h2 : Keeps a x2) : OKeeps a (execChw x0 x1 x2) := by
  unfold execChw
  try dsimp only
  repeat' first
    | with_reducible assumption
    | with_reducible apply OKeeps.next
    | exact trivial
    | with_reducible apply RKeeps.ok
    | with_reducible apply RKeeps.jump
    | with_reducible apply RKeeps.stay
    | with_reducible apply RKeeps.gone
    | exact RKeeps.raise
    | exact RKeeps.call
    | with_reducible apply startWait_keeps
    | with_reducible apply State.setThread_keeps
    | with_reducible apply thrCount_keeps
    | with_reducible apply claim_keeps
    | with_reducible apply State.setChan_keeps
    | with_reducible apply workRow_keeps
    | (with_reducible refine Keeps.fst (by with_reducible assumption) ?_)
    | (with_reducible refine Keeps.snd (by with_reducible assumption) ?_)
    | split
    | (with_reducible intro _)

theorem failedStatus_keeps {a : State} {x0 : State} {x1 : ThreadId} {x2 : Thread} {x3 : BitVec 4} (h0 : Keeps a x0) : RKeeps a (failedStatus x0 x1 x2 x3) := by
  unfold failedStatus
  try dsimp only
  repeat' first
    | with_reducible assumption
    | with_reducible apply RKeeps.ok
    | with_reducible apply RKeeps.jump
    | with_reducible apply RKeeps.stay
    | with_reducible apply RKeeps.gone
    | exact RKeeps.raise
    | exact RKeeps.call
    | with_reducible apply State.setThread_keeps
    | with_reducible apply answer_keeps

theorem execChcommit_keeps {a : State} {x0 : ThreadId} {x1 : RFields} {x2 : State} (h2 : Keeps a x2) : OKeeps a (execChcommit x0 x1 x2) := by
  unfold execChcommit
  try dsimp only
  repeat' first
    | with_reducible assumption
    | with_reducible apply OKeeps.next
    | exact trivial
    | with_reducible apply RKeeps.ok
    | with_reducible apply RKeeps.jump
    | with_reducible apply RKeeps.stay
    | with_reducible apply RKeeps.gone
    | exact RKeeps.raise
    | exact RKeeps.call
    | with_reducible apply commitMessage_keeps
    | with_reducible apply serveReceiver_keeps
    | with_reducible apply answer_keeps
    | with_reducible apply failedStatus_keeps
    | with_reducible apply workRow_keeps
    | (with_reducible refine Keeps.fst (by with_reducible assumption) ?_)
    | (with_reducible refine Keeps.snd (by with_reducible assumption) ?_)
    | split
    | (with_reducible intro _)

theorem execSend_keeps {a : State} {x0 : ThreadId} {x1 : RFields} {x2 : State} (h2 : Keeps a x2) : OKeeps a (execSend x0 x1 x2) := by
  unfold execSend
  try dsimp only
  repeat' first
    | with_reducible assumption
    | with_reducible apply OKeeps.next
    | exact trivial
    | with_reducible apply RKeeps.ok
    | with_reducible apply RKeeps.jump
    | with_reducible apply RKeeps.stay
    | with_reducible apply RKeeps.gone
    | exact RKeeps.raise
    | exact RKeeps.call
    | with_reducible apply freeChan_keeps
    | with_reducible apply answer_keeps
    | with_reducible apply commitMessage_keeps
    | with_reducible apply serveReceiver_keeps
    | with_reducible apply failedStatus_keeps
    | with_reducible apply waitOrTimeout_keeps
    | with_reducible apply workRow_keeps
    | (with_reducible refine Keeps.fst (by with_reducible assumption) ?_)
    | (with_reducible refine Keeps.snd (by with_reducible assumption) ?_)
    | split
    | (with_reducible intro _)

theorem execRecv_keeps {a : State} {x0 : ThreadId} {x1 : RFields} {x2 : State} (h2 : Keeps a x2) : OKeeps a (execRecv x0 x1 x2) := by
  unfold execRecv
  try dsimp only
  repeat' first
    | with_reducible assumption
    | with_reducible apply OKeeps.next
    | exact trivial
    | with_reducible apply RKeeps.ok
    | with_reducible apply RKeeps.jump
    | with_reducible apply RKeeps.stay
    | with_reducible apply RKeeps.gone
    | exact RKeeps.raise
    | exact RKeeps.call
    | with_reducible apply State.setChan_keeps
    | with_reducible apply startWait_keeps
    | with_reducible apply thrCount_keeps
    | with_reducible apply answer_keeps
    | with_reducible apply takeMessage_keeps
    | with_reducible apply workRow_keeps
    | (with_reducible refine Keeps.fst (by with_reducible assumption) ?_)
    | (with_reducible refine Keeps.snd (by with_reducible assumption) ?_)
    | split
    | (with_reducible intro _)

theorem leaveChan_keeps {a : State} {x0 : State} {x1 : Nat} {x2 : Nat} {x3 : Nat} (h0 : Keeps a x0) : Keeps a (leaveChan x0 x1 x2 x3) := by
  unfold leaveChan
  try dsimp only
  repeat' first
    | with_reducible assumption
    | with_reducible apply State.setChan_keeps

theorem killChan_keeps {a : State} {x0 : Nat} {x1 : State} {x2 : Nat} (h1 : Keeps a x1) : Keeps a (killChan x0 x1 x2) := by
  unfold killChan
  try dsimp only
  repeat' first
    | with_reducible assumption
    | with_reducible apply State.setChan_keeps
    | with_reducible apply thrCount_keeps
    | with_reducible apply freeChan_keeps
    | with_reducible apply leaveChan_keeps
    | (with_reducible refine Keeps.fst (by with_reducible assumption) ?_)
    | (with_reducible refine Keeps.snd (by with_reducible assumption) ?_)
    | split

end Sys2Proof.Machine
end

