-- ==== Sys2Proof/Laws/Trays.lean ====
section
/-! SUPPORT. What the operations of Trays keep: the fuses, the queue and the canonical form of the stores. -/

namespace Sys2Proof.Machine

open Host

theorem State.setTrays_keeps {a : State} {x0 : State} {x1 : Trays} (h0 : Keeps a x0) : Keeps a (State.setTrays x0 x1) := by
  unfold State.setTrays
  try dsimp only
  repeat' first
    | with_reducible assumption
    | (with_reducible refine Keeps.fst (by with_reducible assumption) ?_)
    | (with_reducible refine Keeps.snd (by with_reducible assumption) ?_)
    | (with_reducible refine Keeps.fold ?_ _ ?_)
    | (with_reducible refine Keeps.foldFst ?_ _ ?_)
    | split
    | (with_reducible intro _)
    | fail_if_no_progress (with_reducible apply Keeps.put)

theorem State.setFreeList_keeps {a : State} {x0 : State} {x1 : Nat} {x2 : FreeList} (h0 : Keeps a x0) : Keeps a (State.setFreeList x0 x1 x2) := by
  unfold State.setFreeList
  try dsimp only
  repeat' first
    | with_reducible assumption
    | with_reducible apply State.setTrays_keeps

theorem State.bufWrite_keeps {a : State} {x0 : State} {x1 : Nat} {x2 : Nat} {x3 : List Byte} (h0 : Keeps a x0) : Keeps a (State.bufWrite x0 x1 x2 x3) := by
  unfold State.bufWrite
  try dsimp only
  repeat' first
    | with_reducible assumption
    | with_reducible apply State.setMems_keeps
    | with_reducible apply hbmWrite_keeps
    | (with_reducible refine Keeps.fst (by with_reducible assumption) ?_)
    | (with_reducible refine Keeps.snd (by with_reducible assumption) ?_)
    | (with_reducible refine Keeps.fold ?_ _ ?_)
    | (with_reducible refine Keeps.foldFst ?_ _ ?_)
    | split
    | fail_if_no_progress (with_reducible apply Keeps.putMems)
    | with_reducible exact Memory.istore_wf (fun w => writeBytes_wf _ _ w)
    | with_reducible exact Memory.scratch_wf (fun w => writeBytes_wf _ _ w)
    | with_reducible exact Memory.shared_wf (fun w => writeBytes_wf _ _ w)
    | with_reducible exact Memory.mgmt_wf (fun w => writeBytes_wf _ _ w)
    | with_reducible exact Memory.pkt_wf (fun w => writeBytes_wf _ _ w)

theorem State.takeBuffer_keeps {a : State} {x0 : State} {x1 : Nat} (h0 : Keeps a x0) : PKeeps a Prod.snd (State.takeBuffer x0 x1) := by
  unfold State.takeBuffer
  try dsimp only
  repeat' first
    | with_reducible assumption
    | with_reducible apply PKeeps.some
    | exact PKeeps.none
    | with_reducible apply State.setFreeList_keeps
    | (with_reducible refine Keeps.fst (by with_reducible assumption) ?_)
    | (with_reducible refine Keeps.snd (by with_reducible assumption) ?_)
    | (with_reducible refine Keeps.fold ?_ _ ?_)
    | (with_reducible refine Keeps.foldFst ?_ _ ?_)
    | split

theorem State.setBuf_keeps {a : State} {x0 : State} {x1 : Nat} {x2 : BufSt} (h0 : Keeps a x0) : Keeps a (State.setBuf x0 x1 x2) := by
  unfold State.setBuf
  try dsimp only
  repeat' first
    | with_reducible assumption
    | with_reducible apply State.setTrays_keeps

theorem State.allocFrom_keeps {a : State} {x0 : State} {x1 : Nat} {x2 : Nat} (h0 : Keeps a x0) : PKeeps a Prod.snd (State.allocFrom x0 x1 x2) := by
  unfold State.allocFrom
  try dsimp only
  repeat' first
    | with_reducible assumption
    | with_reducible apply PKeeps.some
    | exact PKeeps.none
    | with_reducible apply State.setBuf_keeps
    | with_reducible apply State.count_keeps
    | with_reducible apply State.takeBuffer_keeps
    | (with_reducible refine Keeps.fst (by with_reducible assumption) ?_)
    | (with_reducible refine Keeps.snd (by with_reducible assumption) ?_)
    | (with_reducible refine PKeeps.ofSnd (by with_reducible assumption) ?_)
    | with_reducible apply PKeeps.bind
    | (with_reducible refine PKeeps.ofFst (by with_reducible assumption) ?_)
    | (with_reducible refine Keeps.fold ?_ _ ?_)
    | (with_reducible refine Keeps.foldFst ?_ _ ?_)
    | split

theorem grantBuffer_keeps {a : State} {x0 : State} {x1 : TryWaiter} {x2 : Nat} (h0 : Keeps a x0) : Keeps a (grantBuffer x0 x1 x2) := by
  unfold grantBuffer
  try dsimp only
  repeat' first
    | with_reducible assumption
    | with_reducible apply State.modThread_keeps
    | with_reducible apply State.setTrays_keeps
    | with_reducible apply State.setBuf_keeps
    | with_reducible apply State.count_keeps
    | (with_reducible refine Keeps.fst (by with_reducible assumption) ?_)
    | (with_reducible refine Keeps.snd (by with_reducible assumption) ?_)
    | (with_reducible refine Keeps.fold ?_ _ ?_)
    | (with_reducible refine Keeps.foldFst ?_ _ ?_)
    | split

theorem returnBuffer_keeps {a : State} {x0 : State} {x1 : Nat} (h0 : Keeps a x0) : Keeps a (returnBuffer x0 x1) := by
  unfold returnBuffer
  try dsimp only
  repeat' first
    | with_reducible assumption
    | with_reducible apply State.setFreeList_keeps
    | with_reducible apply grantBuffer_keeps
    | with_reducible apply State.setTrays_keeps
    | with_reducible apply State.count_keeps
    | (with_reducible refine Keeps.fst (by with_reducible assumption) ?_)
    | (with_reducible refine Keeps.snd (by with_reducible assumption) ?_)
    | (with_reducible refine Keeps.fold ?_ _ ?_)
    | (with_reducible refine Keeps.foldFst ?_ _ ?_)
    | split

theorem returnChain_keeps {a : State} {x0 : State} {x1 : Nat} {x2 : List Nat} (h0 : Keeps a x0) : Keeps a (returnChain x0 x1 x2) := by
  unfold returnChain
  try dsimp only
  repeat' first
    | with_reducible assumption
    | with_reducible apply returnBuffer_keeps
    | (with_reducible refine Keeps.fst (by with_reducible assumption) ?_)
    | (with_reducible refine Keeps.snd (by with_reducible assumption) ?_)
    | (with_reducible refine Keeps.fold ?_ _ ?_)
    | (with_reducible refine Keeps.foldFst ?_ _ ?_)
    | split
    | (with_reducible intro _)

theorem dropUnclaimed_keeps {a : State} {x0 : State} {x1 : Nat} (h0 : Keeps a x0) : Keeps a (dropUnclaimed x0 x1) := by
  unfold dropUnclaimed
  try dsimp only
  repeat' first
    | with_reducible assumption
    | with_reducible apply State.setTrays_keeps
    | with_reducible apply returnBuffer_keeps
    | (with_reducible refine Keeps.fst (by with_reducible assumption) ?_)
    | (with_reducible refine Keeps.snd (by with_reducible assumption) ?_)
    | (with_reducible refine Keeps.fold ?_ _ ?_)
    | (with_reducible refine Keeps.foldFst ?_ _ ?_)
    | split

theorem allocLoad.allocFresh_keeps {a : State} {x0 : Nat} {x1 : AllocReq} {x2 : Bool} {x3 : Nat} {x4 : State} (h4 : Keeps a x4) : Keeps a (allocLoad.allocFresh x0 x1 x2 x3 x4).1 := by
  unfold allocLoad.allocFresh
  try dsimp only
  repeat' first
    | with_reducible assumption
    | with_reducible apply State.setTrays_keeps
    | with_reducible apply State.count_keeps
    | with_reducible apply State.allocFrom_keeps
    | (with_reducible refine Keeps.fst (by with_reducible assumption) ?_)
    | (with_reducible refine Keeps.snd (by with_reducible assumption) ?_)
    | (with_reducible refine PKeeps.ofSnd (by with_reducible assumption) ?_)
    | with_reducible apply PKeeps.bind
    | (with_reducible refine PKeeps.ofFst (by with_reducible assumption) ?_)
    | (with_reducible refine Keeps.fold ?_ _ ?_)
    | (with_reducible refine Keeps.foldFst ?_ _ ?_)
    | split
    | (with_reducible intro _)

theorem allocLoad_keeps {a : State} {x0 : State} {x1 : Nat} {x2 : AllocReq} {x3 : Bool} {x4 : Nat} (h0 : Keeps a x0) : Keeps a (allocLoad x0 x1 x2 x3 x4).1 := by
  unfold allocLoad
  try dsimp only
  repeat' first
    | with_reducible assumption
    | with_reducible apply dropUnclaimed_keeps
    | with_reducible apply allocLoad.allocFresh_keeps
    | with_reducible apply State.setTrays_keeps
    | (with_reducible refine Keeps.fst (by with_reducible assumption) ?_)
    | (with_reducible refine Keeps.snd (by with_reducible assumption) ?_)
    | (with_reducible refine Keeps.fold ?_ _ ?_)
    | (with_reducible refine Keeps.foldFst ?_ _ ?_)
    | split

theorem rejectTry_keeps {a : State} {x0 : State} {x1 : TryOp} {x2 : Nat} {x3 : Nat} {x4 : Nat} (h0 : Keeps a x0) : Keeps a (rejectTry x0 x1 x2 x3 x4) := by
  unfold rejectTry
  try dsimp only
  repeat' first
    | with_reducible assumption
    | with_reducible apply State.count_keeps
    | with_reducible apply State.logEvent_keeps
    | with_reducible apply State.setTrays_keeps

theorem tryApply_keeps {a : State} {x0 : State} {x1 : TryOp} {x2 : Nat} {x3 : Nat} {x4 : Nat} (h0 : Keeps a x0) : Keeps a (tryApply x0 x1 x2 x3 x4).1 := by
  unfold tryApply
  try dsimp only
  repeat' first
    | with_reducible assumption
    | with_reducible apply State.setBuf_keeps
    | with_reducible apply returnChain_keeps
    | with_reducible apply rejectTry_keeps
    | (with_reducible refine Keeps.fst (by with_reducible assumption) ?_)
    | (with_reducible refine Keeps.snd (by with_reducible assumption) ?_)
    | (with_reducible refine Keeps.fold ?_ _ ?_)
    | (with_reducible refine Keeps.foldFst ?_ _ ?_)
    | split

theorem admitBuffers_keeps {a : State} {x0 : Nat} {x1 : Nat} {x2 : State} (h2 : Keeps a x2) : PKeeps a Prod.snd (admitBuffers x0 x1 x2) := by
  induction x1 generalizing x2 with
  | zero => exact PKeeps.some h2
  | succ n ih =>
    unfold admitBuffers
    split
    · exact PKeeps.none
    · next e =>
      split
      · exact PKeeps.none
      · next e2 => exact PKeeps.some (PKeeps.ofSnd e2 (ih (State.count_keeps (PKeeps.ofSnd e (State.takeBuffer_keeps h2)))))

theorem writeParts_keeps {a : State} {x0 : List Nat} {x1 : List (List Byte)} {x2 : State} (h2 : Keeps a x2) : Keeps a (writeParts x0 x1 x2) := by
  induction x0 generalizing x1 x2 with
  | nil => unfold writeParts; exact h2
  | cons y ys ih =>
    cases x1 with
    | nil => unfold writeParts; exact h2
    | cons p ps => unfold writeParts; dsimp only; exact ih (State.bufWrite_keeps (State.bufWrite_keeps h2))

theorem admitFrame_keeps {a : State} {x0 : State} {x1 : Nat} {x2 : List Byte} (h0 : Keeps a x0) : Keeps a (admitFrame x0 x1 x2).1 := by
  unfold admitFrame
  dsimp only
  split
  · next e =>
    refine writeParts_keeps (State.setTrays_keeps ?_)
    split at e
    · exact PKeeps.ofSnd e (admitBuffers_keeps h0)
    · cases e
  · exact State.count_keeps h0

theorem endTrayWait_keeps {a : State} {x0 : State} {x1 : Nat} {x2 : Word} (h0 : Keeps a x0) : Keeps a (endTrayWait x0 x1 x2) := by
  unfold endTrayWait
  try dsimp only
  repeat' first
    | with_reducible assumption
    | with_reducible apply State.modThread_keeps
    | with_reducible apply State.setTrays_keeps

theorem traysFreeze_keeps {a : State} {x0 : State} (h0 : Keeps a x0) : Keeps a (traysFreeze x0) := by
  unfold traysFreeze
  try dsimp only
  repeat' first
    | with_reducible assumption
    | with_reducible apply State.setTrays_keeps
    | with_reducible apply endTrayWait_keeps
    | (with_reducible refine Keeps.fst (by with_reducible assumption) ?_)
    | (with_reducible refine Keeps.snd (by with_reducible assumption) ?_)
    | (with_reducible refine Keeps.fold ?_ _ ?_)
    | (with_reducible refine Keeps.foldFst ?_ _ ?_)
    | split
    | (with_reducible intro _)

theorem traysKill_keeps {a : State} {x0 : State} {x1 : Nat} (h0 : Keeps a x0) : Keeps a (traysKill x0 x1) := by
  unfold traysKill
  try dsimp only
  repeat' first
    | with_reducible assumption
    | with_reducible apply State.setTrays_keeps
    | with_reducible apply dropUnclaimed_keeps

theorem reclaimBuffer_keeps {a : State} {x0 : Nat} {x1 : State × Nat} {x2 : Nat × BufSt} (h1 : Keeps a x1.1) : Keeps a (reclaimBuffer x0 x1 x2).1 := by
  unfold reclaimBuffer
  try dsimp only
  repeat' first
    | with_reducible assumption
    | with_reducible apply State.setBuf_keeps
    | with_reducible apply returnChain_keeps
    | (with_reducible refine Keeps.fst (by with_reducible assumption) ?_)
    | (with_reducible refine Keeps.snd (by with_reducible assumption) ?_)
    | (with_reducible refine Keeps.fold ?_ _ ?_)
    | (with_reducible refine Keeps.foldFst ?_ _ ?_)
    | split

end Sys2Proof.Machine
end

