-- ==== Sys2Proof/Laws/Ingress.lean ====
section
/-! SUPPORT. What the operations of Ingress keep: the fuses, the queue and the canonical form of the stores. -/

namespace Sys2Proof.Machine

open Host

theorem State.setPkt_keeps {a : State} {x0 : State} {x1 : Nat} {x2 : Pkt} (h0 : Keeps a x0) : Keeps a (State.setPkt x0 x1 x2) := by
  unfold State.setPkt
  try dsimp only
  repeat' first
    | with_reducible assumption
    | (with_reducible refine Keeps.fst (by with_reducible assumption) ?_)
    | (with_reducible refine Keeps.snd (by with_reducible assumption) ?_)
    | split
    | (with_reducible intro _)
    | fail_if_no_progress (with_reducible apply Keeps.put)

theorem forgetPacket_keeps {a : State} {x0 : State} {x1 : Nat} (h0 : Keeps a x0) : Keeps a (forgetPacket x0 x1) := by
  unfold forgetPacket
  try dsimp only
  repeat' first
    | with_reducible assumption
    | (with_reducible refine Keeps.fst (by with_reducible assumption) ?_)
    | (with_reducible refine Keeps.snd (by with_reducible assumption) ?_)
    | split
    | (with_reducible intro _)
    | fail_if_no_progress (with_reducible apply Keeps.put)

theorem freePacket_keeps {a : State} {x0 : State} {x1 : Nat} (h0 : Keeps a x0) : Keeps a (freePacket x0 x1) := by
  unfold freePacket
  try dsimp only
  repeat' first
    | with_reducible assumption
    | with_reducible apply tryApply_keeps
    | with_reducible apply forgetPacket_keeps

theorem State.swtSet_keeps {a : State} {x0 : State} {x1 : Swt} (h0 : Keeps a x0) : Keeps a (State.swtSet x0 x1) := by
  unfold State.swtSet
  try dsimp only
  repeat' first
    | with_reducible assumption
    | (with_reducible refine Keeps.fst (by with_reducible assumption) ?_)
    | (with_reducible refine Keeps.snd (by with_reducible assumption) ?_)
    | split
    | (with_reducible intro _)
    | fail_if_no_progress (with_reducible apply Keeps.put)

theorem occAdd_keeps {a : State} {x0 : State} {x1 : Nat} {x2 : Nat} {x3 : Nat} (h0 : Keeps a x0) : Keeps a (occAdd x0 x1 x2 x3) := by
  unfold occAdd
  try dsimp only
  repeat' first
    | with_reducible assumption
    | with_reducible apply State.count_keeps
    | with_reducible apply State.swtSet_keeps
    | (with_reducible refine Keeps.fst (by with_reducible assumption) ?_)
    | (with_reducible refine Keeps.snd (by with_reducible assumption) ?_)
    | split

theorem occSub_keeps {a : State} {x0 : State} {x1 : Nat} {x2 : Nat} {x3 : Nat} (h0 : Keeps a x0) : Keeps a (occSub x0 x1 x2 x3) := by
  unfold occSub
  try dsimp only
  repeat' first
    | with_reducible assumption
    | with_reducible apply State.swtSet_keeps
    | (with_reducible refine Keeps.fst (by with_reducible assumption) ?_)
    | (with_reducible refine Keeps.snd (by with_reducible assumption) ?_)
    | split

theorem leaveIngress_keeps {a : State} {x0 : State} {x1 : Nat} (h0 : Keeps a x0) : Keeps a (leaveIngress x0 x1) := by
  unfold leaveIngress
  try dsimp only
  repeat' first
    | with_reducible assumption
    | with_reducible apply State.setPkt_keeps
    | with_reducible apply occSub_keeps
    | (with_reducible refine Keeps.fst (by with_reducible assumption) ?_)
    | (with_reducible refine Keeps.snd (by with_reducible assumption) ?_)
    | split

theorem swtDrop_keeps {a : State} {x0 : State} {x1 : Nat} (h0 : Keeps a x0) : Keeps a (swtDrop x0 x1) := by
  unfold swtDrop
  try dsimp only
  repeat' first
    | with_reducible assumption
    | with_reducible apply State.count_keeps

theorem admitPacket_keeps {a : State} {x0 : State} {x1 : Pkt} {x2 : Nat} {x3 : List Byte} (h0 : Keeps a x0) : Keeps a (admitPacket x0 x1 x2 x3).1 := by
  unfold admitPacket
  try dsimp only
  repeat' first
    | with_reducible assumption
    | with_reducible apply State.setPkt_keeps
    | with_reducible apply admitFrame_keeps
    | with_reducible apply occAdd_keeps
    | with_reducible apply occSub_keeps
    | with_reducible apply swtDrop_keeps
    | (with_reducible refine Keeps.fst (by with_reducible assumption) ?_)
    | (with_reducible refine Keeps.snd (by with_reducible assumption) ?_)
    | split

end Sys2Proof.Machine
end

