-- ==== Sys2Proof/Laws/Fix.lean ====
section
/-! SUPPORT. What the operations of Fix keep: the fuses, the queue and the canonical form of the stores. -/

namespace Sys2Proof.Machine

open Host

theorem State.setFix_keeps {a : State} {x0 : State} {x1 : Fix} (h0 : Keeps a x0) : Keeps a (State.setFix x0 x1) := by
  unfold State.setFix
  try dsimp only
  repeat' first
    | with_reducible assumption
    | (with_reducible refine Keeps.fst (by with_reducible assumption) ?_)
    | (with_reducible refine Keeps.snd (by with_reducible assumption) ?_)
    | (with_reducible refine Keeps.fold ?_ _ ?_)
    | (with_reducible refine Keeps.foldFst ?_ _ ?_)
    | split
    | (with_reducible intro _)
    | fail_if_no_progress (with_reducible apply Keeps.put)

theorem State.setEntry_keeps {a : State} {x0 : State} {x1 : Nat} {x2 : FixEntry} (h0 : Keeps a x0) : Keeps a (State.setEntry x0 x1 x2) := by
  unfold State.setEntry
  try dsimp only
  repeat' first
    | with_reducible assumption
    | with_reducible apply State.setFix_keeps

theorem State.setSlot_keeps {a : State} {x0 : State} {x1 : Nat} {x2 : FixSlot} (h0 : Keeps a x0) : Keeps a (State.setSlot x0 x1 x2) := by
  unfold State.setSlot
  try dsimp only
  repeat' first
    | with_reducible assumption
    | with_reducible apply State.setFix_keeps

theorem retireSlot_keeps {a : State} {x0 : State} {x1 : Nat} (h0 : Keeps a x0) : Keeps a (retireSlot x0 x1) := by
  unfold retireSlot
  try dsimp only
  repeat' first
    | with_reducible assumption
    | with_reducible apply State.setSlot_keeps
    | with_reducible apply State.logEvent_keeps
    | (with_reducible refine Keeps.fst (by with_reducible assumption) ?_)
    | (with_reducible refine Keeps.snd (by with_reducible assumption) ?_)
    | (with_reducible refine Keeps.fold ?_ _ ?_)
    | (with_reducible refine Keeps.foldFst ?_ _ ?_)
    | split

theorem takeRef_keeps {a : State} {x0 : State} {x1 : Nat} (h0 : Keeps a x0) : Keeps a (takeRef x0 x1) := by
  unfold takeRef
  try dsimp only
  repeat' first
    | with_reducible assumption
    | with_reducible apply State.setSlot_keeps

theorem returnRef_keeps {a : State} {x0 : State} {x1 : Nat} (h0 : Keeps a x0) : Keeps a (returnRef x0 x1) := by
  unfold returnRef
  try dsimp only
  repeat' first
    | with_reducible assumption
    | with_reducible apply State.setSlot_keeps
    | with_reducible apply retireSlot_keeps

theorem makeCurrent_keeps {a : State} {x0 : State} {x1 : Nat} (h0 : Keeps a x0) : Keeps a (makeCurrent x0 x1) := by
  unfold makeCurrent
  try dsimp only
  repeat' first
    | with_reducible assumption
    | with_reducible apply State.logEvent_keeps
    | with_reducible apply State.setFix_keeps
    | with_reducible apply State.setSlot_keeps
    | (with_reducible refine Keeps.fst (by with_reducible assumption) ?_)
    | (with_reducible refine Keeps.snd (by with_reducible assumption) ?_)
    | (with_reducible refine Keeps.fold ?_ _ ?_)
    | (with_reducible refine Keeps.foldFst ?_ _ ?_)
    | split
    | (with_reducible intro _)

theorem cshRelease_keeps {a : State} {x0 : State} {x1 : FixEntry} {x2 : Bool} {x3 : Bool} (h0 : Keeps a x0) : Keeps a (cshRelease x0 x1 x2 x3) := by
  unfold cshRelease
  try dsimp only
  repeat' first
    | with_reducible assumption
    | with_reducible apply State.cshOffer_keeps
    | (with_reducible refine Keeps.fst (by with_reducible assumption) ?_)
    | (with_reducible refine Keeps.snd (by with_reducible assumption) ?_)
    | (with_reducible refine Keeps.fold ?_ _ ?_)
    | (with_reducible refine Keeps.foldFst ?_ _ ?_)
    | split

theorem sweepTombs_keeps {a : State} {x0 : State} (h0 : Keeps a x0) : Keeps a (sweepTombs x0) := by
  unfold sweepTombs
  try dsimp only
  repeat' first
    | with_reducible assumption
    | with_reducible apply State.setFix_keeps

theorem sweepDomains_keeps {a : State} {x0 : State} (h0 : Keeps a x0) : Keeps a (sweepDomains x0) := by
  unfold sweepDomains
  try dsimp only
  repeat' first
    | with_reducible assumption
    | with_reducible apply State.setFix_keeps

theorem fixSweep_keeps {a : State} {x0 : State} (h0 : Keeps a x0) : Keeps a (fixSweep x0) := by
  unfold fixSweep
  try dsimp only
  repeat' first
    | with_reducible assumption
    | with_reducible apply sweepTombs_keeps
    | with_reducible apply sweepDomains_keeps

theorem tombstone_keeps {a : State} {x0 : State} {x1 : Nat} {x2 : TombReason} {x3 : Nat} (h0 : Keeps a x0) : Keeps a (tombstone x0 x1 x2 x3) := by
  unfold tombstone
  try dsimp only
  repeat' first
    | with_reducible assumption
    | with_reducible apply leaveIngress_keeps
    | with_reducible apply returnRef_keeps
    | with_reducible apply cshRelease_keeps
    | with_reducible apply fixSweep_keeps
    | with_reducible apply State.setEntry_keeps
    | with_reducible apply State.count_keeps
    | (with_reducible refine Keeps.fst (by with_reducible assumption) ?_)
    | (with_reducible refine Keeps.snd (by with_reducible assumption) ?_)
    | (with_reducible refine Keeps.fold ?_ _ ?_)
    | (with_reducible refine Keeps.foldFst ?_ _ ?_)
    | split

theorem resolveDropped_keeps {a : State} {x0 : State} {x1 : Nat} {x2 : Nat} {x3 : Nat} (h0 : Keeps a x0) : Keeps a (resolveDropped x0 x1 x2 x3) := by
  unfold resolveDropped
  try dsimp only
  repeat' first
    | with_reducible assumption
    | with_reducible apply tombstone_keeps
    | with_reducible apply State.count_keeps
    | with_reducible apply State.setFix_keeps
    | (with_reducible refine Keeps.fst (by with_reducible assumption) ?_)
    | (with_reducible refine Keeps.snd (by with_reducible assumption) ?_)
    | (with_reducible refine Keeps.fold ?_ _ ?_)
    | (with_reducible refine Keeps.foldFst ?_ _ ?_)
    | split

theorem giveUp_keeps {a : State} {x0 : State} {x1 : Nat} {x2 : FixEntry} {x3 : TombReason} (h0 : Keeps a x0) : Keeps a (giveUp x0 x1 x2 x3) := by
  unfold giveUp
  try dsimp only
  repeat' first
    | with_reducible assumption
    | with_reducible apply State.setFix_keeps
    | with_reducible apply tombstone_keeps

theorem reserveEntry_keeps {a : State} {x0 : State} {x1 : Nat} {x2 : Pkt} {x3 : Nat} {x4 : Bool} (h0 : Keeps a x0) : PKeeps a Prod.snd (reserveEntry x0 x1 x2 x3 x4) := by
  unfold reserveEntry
  try dsimp only
  repeat' first
    | with_reducible assumption
    | with_reducible apply PKeeps.some
    | exact PKeeps.none
    | with_reducible apply State.setEntry_keeps
    | with_reducible apply takeRef_keeps
    | (with_reducible refine Keeps.fst (by with_reducible assumption) ?_)
    | (with_reducible refine Keeps.snd (by with_reducible assumption) ?_)
    | (with_reducible refine Keeps.fold ?_ _ ?_)
    | (with_reducible refine Keeps.foldFst ?_ _ ?_)
    | split

theorem placeKey_keeps {a : State} {x0 : State} {x1 : BitVec 24} (h0 : Keeps a x0) : Keeps a (placeKey x0 x1).1 := by
  unfold placeKey
  try dsimp only
  repeat' first
    | with_reducible assumption
    | with_reducible apply State.setFix_keeps
    | with_reducible apply State.count_keeps
    | (with_reducible refine Keeps.fst (by with_reducible assumption) ?_)
    | (with_reducible refine Keeps.snd (by with_reducible assumption) ?_)
    | (with_reducible refine Keeps.fold ?_ _ ?_)
    | (with_reducible refine Keeps.foldFst ?_ _ ?_)
    | split

theorem deliverKey_keeps {a : State} {x0 : State} {x1 : Nat} {x2 : BitVec 24} {x3 : BitVec 3} {x4 : BitVec 2} (h0 : Keeps a x0) : Keeps a (deliverKey x0 x1 x2 x3 x4).1 := by
  unfold deliverKey
  try dsimp only
  repeat' first
    | with_reducible assumption
    | with_reducible apply returnRef_keeps
    | with_reducible apply leaveIngress_keeps
    | with_reducible apply freePacket_keeps
    | with_reducible apply State.setFix_keeps
    | with_reducible apply State.count_keeps
    | with_reducible apply placeKey_keeps
    | with_reducible apply State.setEntry_keeps
    | with_reducible apply fixSweep_keeps
    | with_reducible apply State.setPkt_keeps
    | (with_reducible refine Keeps.fst (by with_reducible assumption) ?_)
    | (with_reducible refine Keeps.snd (by with_reducible assumption) ?_)
    | (with_reducible refine Keeps.fold ?_ _ ?_)
    | (with_reducible refine Keeps.foldFst ?_ _ ?_)
    | split

theorem raiseFloor_keeps {a : State} {x0 : State} {x1 : FixEntry} (h0 : Keeps a x0) : Keeps a (raiseFloor x0 x1) := by
  unfold raiseFloor
  try dsimp only
  repeat' first
    | with_reducible assumption
    | with_reducible apply State.setFix_keeps
    | (with_reducible refine Keeps.fst (by with_reducible assumption) ?_)
    | (with_reducible refine Keeps.snd (by with_reducible assumption) ?_)
    | (with_reducible refine Keeps.fold ?_ _ ?_)
    | (with_reducible refine Keeps.foldFst ?_ _ ?_)
    | split

theorem releaseEntry_keeps {a : State} {x0 : State} {x1 : Nat} {x2 : FixEntry} (h0 : Keeps a x0) : Keeps a (releaseEntry x0 x1 x2) := by
  unfold releaseEntry
  try dsimp only
  repeat' first
    | with_reducible assumption
    | with_reducible apply raiseFloor_keeps
    | with_reducible apply leaveIngress_keeps
    | with_reducible apply returnRef_keeps
    | with_reducible apply cshRelease_keeps
    | with_reducible apply fixSweep_keeps
    | with_reducible apply State.count_keeps
    | with_reducible apply State.swtSet_keeps
    | with_reducible apply State.setFix_keeps
    | (with_reducible refine Keeps.fst (by with_reducible assumption) ?_)
    | (with_reducible refine Keeps.snd (by with_reducible assumption) ?_)
    | (with_reducible refine Keeps.fold ?_ _ ?_)
    | (with_reducible refine Keeps.foldFst ?_ _ ?_)
    | split

theorem registerCreated_keeps {a : State} {x0 : State} {x1 : Nat} {x2 : Nat} {x3 : Time} {x4 : BitVec 24} {x5 : BitVec 3} {x6 : BitVec 2} {x7 : BitVec 14} {x8 : BitVec 64} (h0 : Keeps a x0) : Keeps a (registerCreated x0 x1 x2 x3 x4 x5 x6 x7 x8) := by
  unfold registerCreated
  try dsimp only
  repeat' first
    | with_reducible assumption
    | with_reducible apply forgetPacket_keeps
    | with_reducible apply State.setEntry_keeps
    | with_reducible apply State.setPkt_keeps
    | with_reducible apply deliverKey_keeps
    | with_reducible apply reserveEntry_keeps
    | (with_reducible refine Keeps.fst (by with_reducible assumption) ?_)
    | (with_reducible refine Keeps.snd (by with_reducible assumption) ?_)
    | (with_reducible refine PKeeps.ofSnd (by with_reducible assumption) ?_)
    | with_reducible apply PKeeps.bind
    | (with_reducible refine PKeeps.ofFst (by with_reducible assumption) ?_)
    | (with_reducible refine Keeps.fold ?_ _ ?_)
    | (with_reducible refine Keeps.foldFst ?_ _ ?_)
    | split

theorem movePacket_keeps {a : State} {x0 : State} {x1 : Nat} {x2 : Nat} (h0 : Keeps a x0) : Keeps a (movePacket x0 x1 x2) := by
  unfold movePacket
  try dsimp only
  repeat' first
    | with_reducible assumption
    | with_reducible apply State.setPkt_keeps
    | (with_reducible refine Keeps.fst (by with_reducible assumption) ?_)
    | (with_reducible refine Keeps.snd (by with_reducible assumption) ?_)
    | (with_reducible refine Keeps.fold ?_ _ ?_)
    | (with_reducible refine Keeps.foldFst ?_ _ ?_)
    | split

theorem execFixCompletion_keeps {a : State} {x0 : State} (h0 : Keeps a x0) : OKeeps a (execFixCompletion x0) := by
  unfold execFixCompletion
  try dsimp only
  repeat' first
    | with_reducible assumption
    | with_reducible apply OKeeps.next
    | exact trivial
    | with_reducible apply movePacket_keeps
    | with_reducible apply State.setEntry_keeps
    | with_reducible apply resolveDropped_keeps
    | with_reducible apply freePacket_keeps
    | with_reducible apply State.setFix_keeps
    | (with_reducible refine Keeps.fst (by with_reducible assumption) ?_)
    | (with_reducible refine Keeps.snd (by with_reducible assumption) ?_)
    | (with_reducible refine Keeps.fold ?_ _ ?_)
    | (with_reducible refine Keeps.foldFst ?_ _ ?_)
    | split

theorem execFixRelease_keeps {a : State} {x0 : BitVec 17} {x1 : State} (h1 : Keeps a x1) : OKeeps a (execFixRelease x0 x1) := by
  unfold execFixRelease
  try dsimp only
  repeat' first
    | with_reducible assumption
    | with_reducible apply OKeeps.next
    | exact trivial
    | with_reducible apply releaseEntry_keeps
    | (with_reducible refine Keeps.fst (by with_reducible assumption) ?_)
    | (with_reducible refine Keeps.snd (by with_reducible assumption) ?_)
    | (with_reducible refine Keeps.fold ?_ _ ?_)
    | (with_reducible refine Keeps.foldFst ?_ _ ?_)
    | split

theorem execFixSettleExpire_keeps {a : State} {x0 : BitVec 17} {x1 : State} (h1 : Keeps a x1) : OKeeps a (execFixSettleExpire x0 x1) := by
  unfold execFixSettleExpire
  try dsimp only
  repeat' first
    | with_reducible assumption
    | with_reducible apply OKeeps.next
    | exact trivial
    | with_reducible apply releaseEntry_keeps
    | (with_reducible refine Keeps.fst (by with_reducible assumption) ?_)
    | (with_reducible refine Keeps.snd (by with_reducible assumption) ?_)
    | (with_reducible refine Keeps.fold ?_ _ ?_)
    | (with_reducible refine Keeps.foldFst ?_ _ ?_)
    | split

theorem holdAct_keeps {a : State} {x0 : State} {x1 : Nat × FixEntry} (h0 : Keeps a x0) : Keeps a (holdAct x0 x1) := by
  unfold holdAct
  try dsimp only
  repeat' first
    | with_reducible assumption
    | with_reducible apply State.setEntry_keeps
    | with_reducible apply State.count_keeps
    | with_reducible apply giveUp_keeps
    | (with_reducible refine Keeps.fst (by with_reducible assumption) ?_)
    | (with_reducible refine Keeps.snd (by with_reducible assumption) ?_)
    | (with_reducible refine Keeps.fold ?_ _ ?_)
    | (with_reducible refine Keeps.foldFst ?_ _ ?_)
    | split

theorem execFixHoldExpire_keeps {a : State} {x0 : BitVec 17} {x1 : State} (h1 : Keeps a x1) : OKeeps a (execFixHoldExpire x0 x1) := by
  unfold execFixHoldExpire
  try dsimp only
  repeat' first
    | with_reducible assumption
    | with_reducible apply OKeeps.next
    | exact trivial
    | with_reducible apply holdAct_keeps
    | (with_reducible refine Keeps.fst (by with_reducible assumption) ?_)
    | (with_reducible refine Keeps.snd (by with_reducible assumption) ?_)
    | (with_reducible refine Keeps.fold ?_ _ ?_)
    | (with_reducible refine Keeps.foldFst ?_ _ ?_)
    | split

theorem execFixTtlExpire_keeps {a : State} {x0 : BitVec 17} {x1 : State} (h1 : Keeps a x1) : OKeeps a (execFixTtlExpire x0 x1) := by
  unfold execFixTtlExpire
  try dsimp only
  repeat' first
    | with_reducible assumption
    | with_reducible apply OKeeps.next
    | exact trivial
    | with_reducible apply giveUp_keeps
    | with_reducible apply returnRef_keeps
    | with_reducible apply leaveIngress_keeps
    | with_reducible apply freePacket_keeps
    | with_reducible apply fixSweep_keeps
    | with_reducible apply State.setFix_keeps
    | with_reducible apply State.count_keeps
    | (with_reducible refine Keeps.fst (by with_reducible assumption) ?_)
    | (with_reducible refine Keeps.snd (by with_reducible assumption) ?_)
    | (with_reducible refine Keeps.fold ?_ _ ?_)
    | (with_reducible refine Keeps.foldFst ?_ _ ?_)
    | split

theorem execFixDomainExpire_keeps {a : State} {x0 : BitVec 24} {x1 : State} (h1 : Keeps a x1) : OKeeps a (execFixDomainExpire x0 x1) := by
  unfold execFixDomainExpire
  try dsimp only
  repeat' first
    | with_reducible assumption
    | with_reducible apply OKeeps.next
    | exact trivial
    | with_reducible apply State.setFix_keeps
    | (with_reducible refine Keeps.fst (by with_reducible assumption) ?_)
    | (with_reducible refine Keeps.snd (by with_reducible assumption) ?_)
    | (with_reducible refine Keeps.fold ?_ _ ?_)
    | (with_reducible refine Keeps.foldFst ?_ _ ?_)
    | split

theorem execFixEcc_keeps {a : State} {x0 : BitVec 17} {x1 : State} (h1 : Keeps a x1) : OKeeps a (execFixEcc x0 x1) := by
  unfold execFixEcc
  try dsimp only
  repeat' first
    | with_reducible assumption
    | with_reducible apply OKeeps.next
    | exact trivial
    | with_reducible apply State.logEvent_keeps
    | with_reducible apply giveUp_keeps
    | with_reducible apply tombstone_keeps
    | with_reducible apply freePacket_keeps
    | (with_reducible refine Keeps.fst (by with_reducible assumption) ?_)
    | (with_reducible refine Keeps.snd (by with_reducible assumption) ?_)
    | (with_reducible refine Keeps.fold ?_ _ ?_)
    | (with_reducible refine Keeps.foldFst ?_ _ ?_)
    | split

theorem execEpochSupersededRelease_keeps {a : State} {x0 : BitVec 2} {x1 : State} (h1 : Keeps a x1) : OKeeps a (execEpochSupersededRelease x0 x1) := by
  unfold execEpochSupersededRelease
  try dsimp only
  repeat' first
    | with_reducible assumption
    | with_reducible apply OKeeps.next
    | exact trivial
    | with_reducible apply State.setFix_keeps
    | with_reducible apply returnRef_keeps
    | (with_reducible refine Keeps.fst (by with_reducible assumption) ?_)
    | (with_reducible refine Keeps.snd (by with_reducible assumption) ?_)
    | (with_reducible refine Keeps.fold ?_ _ ?_)
    | (with_reducible refine Keeps.foldFst ?_ _ ?_)
    | split

end Sys2Proof.Machine
end

