-- ==== Sys2Proof/Laws/HqeOps.lean ====
section
/-! SUPPORT. What the operations of HqeOps keep: the fuses, the queue and the canonical form of the stores. -/

namespace Sys2Proof.Machine

open Host

theorem State.setHqe_keeps {a : State} {x0 : State} {x1 : Hqe} (h0 : Keeps a x0) : Keeps a (State.setHqe x0 x1) := by
  unfold State.setHqe
  try dsimp only
  repeat' first
    | with_reducible assumption
    | (with_reducible refine Keeps.fst (by with_reducible assumption) ?_)
    | (with_reducible refine Keeps.snd (by with_reducible assumption) ?_)
    | (with_reducible refine Keeps.fold ?_ _ ?_)
    | (with_reducible refine Keeps.foldFst ?_ _ ?_)
    | split
    | (with_reducible intro _)
    | fail_if_no_progress (with_reducible apply Keeps.put)

theorem State.setFn_keeps {a : State} {x0 : State} {x1 : Nat} {x2 : HqeFn} (h0 : Keeps a x0) : Keeps a (State.setFn x0 x1 x2) := by
  unfold State.setFn
  try dsimp only
  repeat' first
    | with_reducible assumption
    | with_reducible apply State.setHqe_keeps

theorem State.setHring_keeps {a : State} {x0 : State} {x1 : Nat} {x2 : Nat} {x3 : HRing} (h0 : Keeps a x0) : Keeps a (State.setHring x0 x1 x2 x3) := by
  unfold State.setHring
  try dsimp only
  repeat' first
    | with_reducible assumption
    | with_reducible apply State.setHqe_keeps

theorem State.setCq_keeps {a : State} {x0 : State} {x1 : Nat} {x2 : Nat} {x3 : Cq} (h0 : Keeps a x0) : Keeps a (State.setCq x0 x1 x2 x3) := by
  unfold State.setCq
  try dsimp only
  repeat' first
    | with_reducible assumption
    | with_reducible apply State.setHqe_keeps

theorem signalVector_keeps {a : State} {x0 : State} {x1 : Nat} {x2 : Nat} (h0 : Keeps a x0) : Keeps a (signalVector x0 x1 x2) := by
  unfold signalVector
  try dsimp only
  repeat' first
    | with_reducible assumption
    | with_reducible apply State.setFn_keeps
    | (with_reducible refine Keeps.fst (by with_reducible assumption) ?_)
    | (with_reducible refine Keeps.snd (by with_reducible assumption) ?_)
    | (with_reducible refine Keeps.fold ?_ _ ?_)
    | (with_reducible refine Keeps.foldFst ?_ _ ?_)
    | split
    | (with_reducible intro _)
    | fail_if_no_progress (with_reducible apply Keeps.put)

theorem signalCq_keeps {a : State} {x0 : State} {x1 : Nat} {x2 : Nat} {x3 : Bool} (h0 : Keeps a x0) : Keeps a (signalCq x0 x1 x2 x3) := by
  unfold signalCq
  try dsimp only
  repeat' first
    | with_reducible assumption
    | with_reducible apply State.setCq_keeps
    | with_reducible apply signalVector_keeps
    | (with_reducible refine Keeps.fst (by with_reducible assumption) ?_)
    | (with_reducible refine Keeps.snd (by with_reducible assumption) ?_)
    | (with_reducible refine Keeps.fold ?_ _ ?_)
    | (with_reducible refine Keeps.foldFst ?_ _ ?_)
    | split

theorem writeEntry_keeps {a : State} {x0 : State} {x1 : Nat} {x2 : Nat} {x3 : Cq} {x4 : Completion} (h0 : Keeps a x0) : Keeps a (writeEntry x0 x1 x2 x3 x4) := by
  unfold writeEntry
  try dsimp only
  repeat' first
    | with_reducible assumption
    | with_reducible apply State.setCq_keeps
    | with_reducible apply signalCq_keeps
    | with_reducible apply State.setMems_keeps
    | (with_reducible refine Keeps.fst (by with_reducible assumption) ?_)
    | (with_reducible refine Keeps.snd (by with_reducible assumption) ?_)
    | (with_reducible refine Keeps.fold ?_ _ ?_)
    | (with_reducible refine Keeps.foldFst ?_ _ ?_)
    | split
    | fail_if_no_progress (with_reducible apply Keeps.putMems)
    | with_reducible exact Memory.istore_wf (fun w => writeBytes_wf _ _ w)
    | with_reducible exact Memory.scratch_wf (fun w => writeBytes_wf _ _ w)
    | with_reducible exact Memory.shared_wf (fun w => writeBytes_wf _ _ w)
    | with_reducible exact Memory.mgmt_wf (fun w => writeBytes_wf _ _ w)
    | with_reducible exact Memory.pkt_wf (fun w => writeBytes_wf _ _ w)
    | with_reducible exact Memory.hbm_wf (fun w => writeBytes_wf _ _ w)
    | with_reducible exact Memory.host_wf (fun w => writeBytes_wf _ _ w)

theorem postCompletion_keeps {a : State} {x0 : State} {x1 : Nat} {x2 : Nat} {x3 : Completion} (h0 : Keeps a x0) : Keeps a (postCompletion x0 x1 x2 x3) := by
  unfold postCompletion
  try dsimp only
  repeat' first
    | with_reducible assumption
    | with_reducible apply State.setCq_keeps
    | with_reducible apply writeEntry_keeps
    | (with_reducible refine Keeps.fst (by with_reducible assumption) ?_)
    | (with_reducible refine Keeps.snd (by with_reducible assumption) ?_)
    | (with_reducible refine Keeps.fold ?_ _ ?_)
    | (with_reducible refine Keeps.foldFst ?_ _ ?_)
    | split

theorem completeCmd_keeps {a : State} {x0 : State} {x1 : CmdPort} {x2 : Desc} {x3 : CmdResult} (h0 : Keeps a x0) : Keeps a (completeCmd x0 x1 x2 x3) := by
  unfold completeCmd
  try dsimp only
  repeat' first
    | with_reducible assumption
    | with_reducible apply h3
    | with_reducible apply postCompletion_keeps
    | with_reducible apply State.count_keeps
    | (with_reducible refine Keeps.fst (by with_reducible assumption) ?_)
    | (with_reducible refine Keeps.snd (by with_reducible assumption) ?_)
    | (with_reducible refine Keeps.fold ?_ _ ?_)
    | (with_reducible refine Keeps.foldFst ?_ _ ?_)
    | split
    | (with_reducible intro _)
    | fail_if_no_progress (with_reducible apply Keeps.put)

theorem finishDestroy_keeps {a : State} {x0 : State} {x1 : Nat} {x2 : Nat} (h0 : Keeps a x0) : Keeps a (finishDestroy x0 x1 x2) := by
  unfold finishDestroy
  try dsimp only
  repeat' first
    | with_reducible assumption
    | with_reducible apply State.setHqe_keeps
    | with_reducible apply completeCmd_keeps
    | (with_reducible refine Keeps.fst (by with_reducible assumption) ?_)
    | (with_reducible refine Keeps.snd (by with_reducible assumption) ?_)
    | (with_reducible refine Keeps.fold ?_ _ ?_)
    | (with_reducible refine Keeps.foldFst ?_ _ ?_)
    | split

theorem completeItem_keeps {a : State} {x0 : State} {x1 : Nat} {x2 : Nat} {x3 : Nat} {x4 : CmdResult} (h0 : Keeps a x0) : Keeps a (completeItem x0 x1 x2 x3 x4) := by
  unfold completeItem
  try dsimp only
  repeat' first
    | with_reducible assumption
    | with_reducible apply h4
    | with_reducible apply State.setHring_keeps
    | with_reducible apply postCompletion_keeps
    | with_reducible apply finishDestroy_keeps
    | (with_reducible refine Keeps.fst (by with_reducible assumption) ?_)
    | (with_reducible refine Keeps.snd (by with_reducible assumption) ?_)
    | (with_reducible refine Keeps.fold ?_ _ ?_)
    | (with_reducible refine Keeps.foldFst ?_ _ ?_)
    | split

end Sys2Proof.Machine
end

