-- ==== Sys2Proof/Laws/Dlr.lean ====
section
/-! SUPPORT. What the operations of Dlr keep: the fuses, the queue and the canonical form of the stores. -/

namespace Sys2Proof.Machine

open Host

theorem State.setDlr_keeps {a : State} {x0 : State} {x1 : Dlr} (h0 : Keeps a x0) : Keeps a (State.setDlr x0 x1) := by
  unfold State.setDlr
  try dsimp only
  repeat' first
    | with_reducible assumption
    | (with_reducible refine Keeps.fst (by with_reducible assumption) ?_)
    | (with_reducible refine Keeps.snd (by with_reducible assumption) ?_)
    | (with_reducible refine Keeps.fold ?_ _ ?_)
    | (with_reducible refine Keeps.foldFst ?_ _ ?_)
    | split
    | (with_reducible intro _)
    | fail_if_no_progress (with_reducible apply Keeps.put)

theorem State.setReady_keeps {a : State} {x0 : State} {x1 : Nat} {x2 : Nat} {x3 : List DlrItem} (h0 : Keeps a x0) : Keeps a (State.setReady x0 x1 x2 x3) := by
  unfold State.setReady
  try dsimp only
  repeat' first
    | with_reducible assumption
    | with_reducible apply State.setDlr_keeps

theorem State.setTrump_keeps {a : State} {x0 : State} {x1 : Nat} {x2 : List DlrItem} (h0 : Keeps a x0) : Keeps a (State.setTrump x0 x1 x2) := by
  unfold State.setTrump
  try dsimp only
  repeat' first
    | with_reducible assumption
    | with_reducible apply State.setDlr_keeps

theorem State.setDelay_keeps {a : State} {x0 : State} {x1 : Nat} {x2 : List DlrItem} (h0 : Keeps a x0) : Keeps a (State.setDelay x0 x1 x2) := by
  unfold State.setDelay
  try dsimp only
  repeat' first
    | with_reducible assumption
    | with_reducible apply State.setDlr_keeps

theorem stopAfterEntry_keeps {a : State} {x0 : State} {x1 : Nat} (h0 : Keeps a x0) : Keeps a (stopAfterEntry x0 x1) := by
  unfold stopAfterEntry
  try dsimp only
  repeat' first
    | with_reducible assumption
    | with_reducible apply State.setDlr_keeps
    | (with_reducible refine Keeps.fst (by with_reducible assumption) ?_)
    | (with_reducible refine Keeps.snd (by with_reducible assumption) ?_)
    | (with_reducible refine Keeps.fold ?_ _ ?_)
    | (with_reducible refine Keeps.foldFst ?_ _ ?_)
    | split

theorem stopAfterExit_keeps {a : State} {x0 : State} (h0 : Keeps a x0) : Keeps a (stopAfterExit x0) := by
  unfold stopAfterExit
  try dsimp only
  repeat' first
    | with_reducible assumption
    | with_reducible apply State.setDlr_keeps
    | (with_reducible refine Keeps.fst (by with_reducible assumption) ?_)
    | (with_reducible refine Keeps.snd (by with_reducible assumption) ?_)
    | (with_reducible refine Keeps.fold ?_ _ ?_)
    | (with_reducible refine Keeps.foldFst ?_ _ ?_)
    | split

theorem stopRecompute_keeps {a : State} {x0 : State} (h0 : Keeps a x0) : Keeps a (stopRecompute x0) := by
  unfold stopRecompute
  try dsimp only
  repeat' first
    | with_reducible assumption
    | with_reducible apply State.setDlr_keeps

theorem dlrFreeze_keeps {a : State} {x0 : State} (h0 : Keeps a x0) : Keeps a (dlrFreeze x0) := by
  unfold dlrFreeze
  try dsimp only
  repeat' first
    | with_reducible assumption
    | with_reducible apply State.setDlr_keeps

theorem enterReady_keeps {a : State} {x0 : State} {x1 : DlrItem} (h0 : Keeps a x0) : Keeps a (enterReady x0 x1) := by
  unfold enterReady
  try dsimp only
  repeat' first
    | with_reducible assumption
    | with_reducible apply State.setReady_keeps
    | with_reducible apply stopAfterEntry_keeps
    | with_reducible apply State.setDlr_keeps

theorem dropItem_keeps {a : State} {x0 : State} {x1 : DlrItem} (h0 : Keeps a x0) : Keeps a (dropItem x0 x1) := by
  unfold dropItem
  try dsimp only
  repeat' first
    | with_reducible assumption
    | with_reducible apply resolveDropped_keeps
    | with_reducible apply freePacket_keeps

theorem enterSlow_keeps {a : State} {x0 : State} {x1 : DlrItem} (h0 : Keeps a x0) : Keeps a (enterSlow x0 x1) := by
  unfold enterSlow
  try dsimp only
  repeat' first
    | with_reducible assumption
    | with_reducible apply State.setDlr_keeps
    | with_reducible apply State.count_keeps
    | with_reducible apply dropItem_keeps
    | (with_reducible refine Keeps.fst (by with_reducible assumption) ?_)
    | (with_reducible refine Keeps.snd (by with_reducible assumption) ?_)
    | (with_reducible refine Keeps.fold ?_ _ ?_)
    | (with_reducible refine Keeps.foldFst ?_ _ ?_)
    | split

theorem acceptItem_keeps {a : State} {x0 : State} {x1 : DlrItem} (h0 : Keeps a x0) : Keeps a (acceptItem x0 x1) := by
  unfold acceptItem
  try dsimp only
  repeat' first
    | with_reducible assumption
    | with_reducible apply enterReady_keeps
    | with_reducible apply State.count_keeps
    | with_reducible apply enterSlow_keeps
    | (with_reducible refine Keeps.fst (by with_reducible assumption) ?_)
    | (with_reducible refine Keeps.snd (by with_reducible assumption) ?_)
    | (with_reducible refine Keeps.fold ?_ _ ?_)
    | (with_reducible refine Keeps.foldFst ?_ _ ?_)
    | split

theorem execDlrItemArrive_keeps {a : State} {x0 : State} (h0 : Keeps a x0) : OKeeps a (execDlrItemArrive x0) := by
  unfold execDlrItemArrive
  try dsimp only
  repeat' first
    | with_reducible assumption
    | with_reducible apply OKeeps.next
    | exact trivial
    | with_reducible apply State.setDlr_keeps
    | with_reducible apply acceptItem_keeps
    | (with_reducible refine Keeps.fst (by with_reducible assumption) ?_)
    | (with_reducible refine Keeps.snd (by with_reducible assumption) ?_)
    | (with_reducible refine Keeps.fold ?_ _ ?_)
    | (with_reducible refine Keeps.foldFst ?_ _ ?_)
    | split

theorem State.setTpri_keeps {a : State} {x0 : State} {x1 : Nat} {x2 : ThreadPrio} (h0 : Keeps a x0) : Keeps a (State.setTpri x0 x1 x2) := by
  unfold State.setTpri
  try dsimp only
  repeat' first
    | with_reducible assumption
    | with_reducible apply State.setDlr_keeps

theorem clearTpri_keeps {a : State} {x0 : State} {x1 : Nat} (h0 : Keeps a x0) : Keeps a (clearTpri x0 x1) := by
  unfold clearTpri
  try dsimp only
  repeat' first
    | with_reducible assumption
    | with_reducible apply State.setTpri_keeps

theorem execDlrInhSignal_keeps {a : State} {x0 : State} (h0 : Keeps a x0) : OKeeps a (execDlrInhSignal x0) := by
  unfold execDlrInhSignal
  try dsimp only
  repeat' first
    | with_reducible assumption
    | with_reducible apply OKeeps.next
    | exact trivial
    | with_reducible apply signalInh_keeps
    | with_reducible apply State.setTpri_keeps
    | with_reducible apply State.setDlr_keeps
    | with_reducible apply State.count_keeps
    | (with_reducible refine Keeps.fst (by with_reducible assumption) ?_)
    | (with_reducible refine Keeps.snd (by with_reducible assumption) ?_)
    | (with_reducible refine Keeps.fold ?_ _ ?_)
    | (with_reducible refine Keeps.foldFst ?_ _ ?_)
    | split

theorem dispatchTo_keeps {a : State} {x0 : State} {x1 : Nat} {x2 : DlrItem} (h0 : Keeps a x0) : Keeps a (dispatchTo x0 x1 x2) := by
  unfold dispatchTo
  try dsimp only
  repeat' first
    | with_reducible assumption
    | with_reducible apply State.setTpri_keeps
    | with_reducible apply State.count_keeps
    | with_reducible apply State.setThread_keeps
    | with_reducible apply State.setMems_keeps
    | with_reducible apply tryApply_keeps
    | (with_reducible refine Keeps.fst (by with_reducible assumption) ?_)
    | (with_reducible refine Keeps.snd (by with_reducible assumption) ?_)
    | (with_reducible refine Keeps.fold ?_ _ ?_)
    | (with_reducible refine Keeps.foldFst ?_ _ ?_)
    | split
    | fail_if_no_progress (with_reducible apply Keeps.putMems)
    | with_reducible exact Memory.istore_wf (fun w => writeBytes_wf _ _ w)
    | with_reducible exact Memory.scratch_wf (fun w => writeBytes_wf _ _ w)

theorem takeItem_keeps {a : State} {x0 : State} {x1 : Nat} {x2 : ListChoice} (h0 : Keeps a x0) : PKeeps a Prod.snd (takeItem x0 x1 x2) := by
  unfold takeItem
  try dsimp only
  repeat' first
    | with_reducible assumption
    | with_reducible apply PKeeps.some
    | exact PKeeps.none
    | with_reducible apply State.setReady_keeps
    | with_reducible apply State.setTrump_keeps
    | with_reducible apply State.setDlr_keeps
    | (with_reducible refine Keeps.fst (by with_reducible assumption) ?_)
    | (with_reducible refine Keeps.snd (by with_reducible assumption) ?_)
    | (with_reducible refine Keeps.fold ?_ _ ?_)
    | (with_reducible refine Keeps.foldFst ?_ _ ?_)
    | split

theorem execDlrDispatch_keeps {a : State} {x0 : State} (h0 : Keeps a x0) : OKeeps a (execDlrDispatch x0) := by
  unfold execDlrDispatch
  try dsimp only
  repeat' first
    | with_reducible assumption
    | with_reducible apply OKeeps.next
    | exact trivial
    | with_reducible apply dispatchTo_keeps
    | with_reducible apply State.setDlr_keeps
    | with_reducible apply State.count_keeps
    | with_reducible apply dropItem_keeps
    | with_reducible apply stopAfterExit_keeps
    | with_reducible apply takeItem_keeps
    | (with_reducible refine Keeps.fst (by with_reducible assumption) ?_)
    | (with_reducible refine Keeps.snd (by with_reducible assumption) ?_)
    | (with_reducible refine PKeeps.ofSnd (by with_reducible assumption) ?_)
    | with_reducible apply PKeeps.bind
    | (with_reducible refine PKeeps.ofFst (by with_reducible assumption) ?_)
    | (with_reducible refine Keeps.fold ?_ _ ?_)
    | (with_reducible refine Keeps.foldFst ?_ _ ?_)
    | split

theorem execDlrTrump_keeps {a : State} {x0 : Fin 16} {x1 : State} (h1 : Keeps a x1) : OKeeps a (execDlrTrump x0 x1) := by
  unfold execDlrTrump
  try dsimp only
  repeat' first
    | with_reducible assumption
    | with_reducible apply OKeeps.next
    | exact trivial
    | with_reducible apply State.setTrump_keeps
    | with_reducible apply State.count_keeps
    | with_reducible apply State.setReady_keeps
    | with_reducible apply State.setDlr_keeps
    | (with_reducible refine Keeps.fst (by with_reducible assumption) ?_)
    | (with_reducible refine Keeps.snd (by with_reducible assumption) ?_)
    | (with_reducible refine Keeps.fold ?_ _ ?_)
    | (with_reducible refine Keeps.foldFst ?_ _ ?_)
    | split

theorem completeHost_keeps {a : State} {x0 : State} {x1 : List Word} {x2 : CmdResult} (h0 : Keeps a x0) : Keeps a (completeHost x0 x1 x2) := by
  unfold completeHost
  try dsimp only
  repeat' first
    | with_reducible assumption
    | with_reducible apply h2
    | with_reducible apply completeItem_keeps

theorem releaseDue_keeps {a : State} {x0 : State} {x1 : DlrItem} (h0 : Keeps a x0) : Keeps a (releaseDue x0 x1) := by
  unfold releaseDue
  try dsimp only
  repeat' first
    | with_reducible assumption
    | with_reducible apply enterReady_keeps
    | with_reducible apply completeHost_keeps
    | with_reducible apply State.count_keeps
    | (with_reducible refine Keeps.fst (by with_reducible assumption) ?_)
    | (with_reducible refine Keeps.snd (by with_reducible assumption) ?_)
    | (with_reducible refine Keeps.fold ?_ _ ?_)
    | (with_reducible refine Keeps.foldFst ?_ _ ?_)
    | split

theorem releaseGroup_keeps {a : State} {x0 : Nat} {x1 : List DlrItem} {x2 : State} (h2 : Keeps a x2) : Keeps a (releaseGroup x0 x1 x2) := by
  induction x1 generalizing x2 with
  | nil => exact h2
  | cons y ys ih =>
    unfold releaseGroup
    split
    · refine ih ?_
      split
      · exact State.setDelay_keeps h2
      · exact State.count_keeps (State.setDelay_keeps h2)
    · exact ih (releaseDue_keeps h2)

theorem execDlrTick_keeps {a : State} {x0 : State} (h0 : Keeps a x0) : OKeeps a (execDlrTick x0) := by
  unfold execDlrTick
  try dsimp only
  repeat' first
    | with_reducible assumption
    | with_reducible apply OKeeps.next
    | exact trivial
    | with_reducible apply State.setDelay_keeps
    | with_reducible apply releaseGroup_keeps
    | with_reducible apply State.setDlr_keeps
    | (with_reducible refine Keeps.fst (by with_reducible assumption) ?_)
    | (with_reducible refine Keeps.snd (by with_reducible assumption) ?_)
    | (with_reducible refine Keeps.fold ?_ _ ?_)
    | (with_reducible refine Keeps.foldFst ?_ _ ?_)
    | split
    | (with_reducible intro _)

theorem enterSubmission_keeps {a : State} {x0 : State} {x1 : List Word} (h0 : Keeps a x0) : Keeps a (enterSubmission x0 x1) := by
  unfold enterSubmission
  try dsimp only
  repeat' first
    | with_reducible assumption
    | with_reducible apply enterReady_keeps
    | with_reducible apply State.setDelay_keeps
    | (with_reducible refine Keeps.fst (by with_reducible assumption) ?_)
    | (with_reducible refine Keeps.snd (by with_reducible assumption) ?_)
    | (with_reducible refine Keeps.fold ?_ _ ?_)
    | (with_reducible refine Keeps.foldFst ?_ _ ?_)
    | split

theorem countRefused_keeps {a : State} {x0 : State} (h0 : Keeps a x0) : Keeps a (countRefused x0) := by
  unfold countRefused
  try dsimp only
  repeat' first
    | with_reducible assumption
    | with_reducible apply State.count_keeps

end Sys2Proof.Machine
end

