-- ==== Sys2Proof/Laws/EthOps.lean ====
section
/-! SUPPORT. What the operations of EthOps keep: the fuses, the queue and the canonical form of the stores. -/

namespace Sys2Proof.Machine

open Host

theorem State.setEthPort_keeps {a : State} {x0 : State} {x1 : Nat} {x2 : EthPort} (h0 : Keeps a x0) : Keeps a (State.setEthPort x0 x1 x2) := by
  unfold State.setEthPort
  try dsimp only
  repeat' first
    | with_reducible assumption
    | (with_reducible refine Keeps.fst (by with_reducible assumption) ?_)
    | (with_reducible refine Keeps.snd (by with_reducible assumption) ?_)
    | split
    | (with_reducible intro _)
    | fail_if_no_progress (with_reducible apply Keeps.put)

theorem ptpCheck_keeps {a : State} {x0 : State} (h0 : Keeps a x0) : Keeps a (ptpCheck x0) := by
  unfold ptpCheck
  try dsimp only
  repeat' first
    | with_reducible assumption
    | with_reducible apply State.logEvent_keeps
    | (with_reducible refine Keeps.fst (by with_reducible assumption) ?_)
    | (with_reducible refine Keeps.snd (by with_reducible assumption) ?_)
    | split
    | (with_reducible intro _)
    | fail_if_no_progress (with_reducible apply Keeps.put)

end Sys2Proof.Machine
end

