-- ==== Sys2Proof/Laws/Loupe.lean ====
section
/-! SUPPORT. What the operations of Loupe keep: the fuses, the queue and the canonical form of the stores. -/

namespace Sys2Proof.Machine

open Host

theorem State.setLoupe_keeps {a : State} {x0 : State} {x1 : Loupe} (h0 : Keeps a x0) : Keeps a (State.setLoupe x0 x1) := by
  unfold State.setLoupe
  try dsimp only
  repeat' first
    | with_reducible assumption
    | (with_reducible refine Keeps.fst (by with_reducible assumption) ?_)
    | (with_reducible refine Keeps.snd (by with_reducible assumption) ?_)
    | split
    | (with_reducible intro _)
    | fail_if_no_progress (with_reducible apply Keeps.put)

theorem cshAdmit_keeps {a : State} {x0 : State} {x1 : Nat} (h0 : Keeps a x0) : Keeps a (cshAdmit x0 x1) := by
  unfold cshAdmit
  try dsimp only
  repeat' first
    | with_reducible assumption
    | with_reducible apply State.cshOffer_keeps
    | with_reducible apply State.count_keeps
    | (with_reducible refine Keeps.fst (by with_reducible assumption) ?_)
    | (with_reducible refine Keeps.snd (by with_reducible assumption) ?_)
    | split
    | (with_reducible intro _)
    | fail_if_no_progress (with_reducible apply Keeps.put)

theorem enterLoupe_keeps {a : State} {x0 : State} {x1 : Nat} {x2 : Nat} {x3 : Nat} (h0 : Keeps a x0) : Keeps a (enterLoupe x0 x1 x2 x3) := by
  unfold enterLoupe
  try dsimp only
  repeat' first
    | with_reducible assumption
    | with_reducible apply State.setLoupe_keeps

theorem offerLoupe_keeps {a : State} {x0 : State} {x1 : Nat} (h0 : Keeps a x0) : Keeps a (offerLoupe x0 x1) := by
  unfold offerLoupe
  try dsimp only
  repeat' first
    | with_reducible assumption
    | with_reducible apply State.setPkt_keeps
    | with_reducible apply cshAdmit_keeps
    | with_reducible apply enterLoupe_keeps

theorem State.setEngines_keeps {a : State} {x0 : State} {x1 : Nat} {x2 : List Engine} (h0 : Keeps a x0) : Keeps a (State.setEngines x0 x1 x2) := by
  unfold State.setEngines
  try dsimp only
  repeat' first
    | with_reducible assumption
    | with_reducible apply State.setLoupe_keeps

theorem storeEcc_keeps {a : State} {x0 : State} {x1 : Nat} {x2 : Ecc} (h0 : Keeps a x0) : Keeps a (storeEcc x0 x1 x2) := by
  unfold storeEcc
  try dsimp only
  repeat' first
    | with_reducible assumption
    | with_reducible apply State.logEvent_keeps
    | with_reducible apply State.setLoupe_keeps
    | (with_reducible refine Keeps.fst (by with_reducible assumption) ?_)
    | (with_reducible refine Keeps.snd (by with_reducible assumption) ?_)
    | split

theorem execLoupeWord_keeps {a : State} {x0 : Fin 2} {x1 : Fin 32} {x2 : Ecc} {x3 : State} (h3 : Keeps a x3) : OKeeps a (execLoupeWord x0 x1 x2 x3) := by
  unfold execLoupeWord
  try dsimp only
  repeat' first
    | with_reducible assumption
    | with_reducible apply OKeeps.next
    | exact trivial
    | with_reducible apply State.count_keeps
    | with_reducible apply State.setEngines_keeps
    | with_reducible apply storeEcc_keeps
    | (with_reducible refine Keeps.fst (by with_reducible assumption) ?_)
    | (with_reducible refine Keeps.snd (by with_reducible assumption) ?_)
    | split

theorem execLoupeIntake_keeps {a : State} {x0 : Fin 2} {x1 : State} (h1 : Keeps a x1) : OKeeps a (execLoupeIntake x0 x1) := by
  unfold execLoupeIntake
  try dsimp only
  repeat' first
    | with_reducible assumption
    | with_reducible apply OKeeps.next
    | exact trivial
    | with_reducible apply State.setEngines_keeps
    | with_reducible apply State.setLoupe_keeps
    | (with_reducible refine Keeps.fst (by with_reducible assumption) ?_)
    | (with_reducible refine Keeps.snd (by with_reducible assumption) ?_)
    | split

theorem execLoupeDeliver_keeps {a : State} {x0 : Fin 2} {x1 : State} (h1 : Keeps a x1) : OKeeps a (execLoupeDeliver x0 x1) := by
  unfold execLoupeDeliver
  try dsimp only
  repeat' first
    | with_reducible assumption
    | with_reducible apply OKeeps.next
    | exact trivial
    | with_reducible apply State.setEngines_keeps
    | (with_reducible refine Keeps.fst (by with_reducible assumption) ?_)
    | (with_reducible refine Keeps.snd (by with_reducible assumption) ?_)
    | split
    | (with_reducible intro _)
    | fail_if_no_progress (with_reducible apply Keeps.put)

end Sys2Proof.Machine
end

