-- ==== Sys2Proof/Laws/Cls.lean ====
section
/-! SUPPORT. What the operations of Cls keep: the fuses, the queue and the canonical form of the stores. -/

namespace Sys2Proof.Machine

open Host

theorem State.setCls_keeps {a : State} {x0 : State} {x1 : Cls} (h0 : Keeps a x0) : Keeps a (State.setCls x0 x1) := by
  unfold State.setCls
  try dsimp only
  repeat' first
    | with_reducible assumption
    | (with_reducible refine Keeps.fst (by with_reducible assumption) ?_)
    | (with_reducible refine Keeps.snd (by with_reducible assumption) ?_)
    | (with_reducible refine Keeps.fold ?_ _ ?_)
    | (with_reducible refine Keeps.foldFst ?_ _ ?_)
    | split
    | (with_reducible intro _)
    | fail_if_no_progress (with_reducible apply Keeps.put)

theorem State.setLane_keeps {a : State} {x0 : State} {x1 : Nat} {x2 : List ClsCtx} (h0 : Keeps a x0) : Keeps a (State.setLane x0 x1 x2) := by
  unfold State.setLane
  try dsimp only
  repeat' first
    | with_reducible assumption
    | with_reducible apply State.setCls_keeps

theorem State.setCtx_keeps {a : State} {x0 : State} {x1 : Nat} {x2 : Nat} {x3 : ClsCtx} (h0 : Keeps a x0) : Keeps a (State.setCtx x0 x1 x2 x3) := by
  unfold State.setCtx
  try dsimp only
  repeat' first
    | with_reducible assumption
    | with_reducible apply State.setLane_keeps

theorem State.dropCtx_keeps {a : State} {x0 : State} {x1 : Nat} {x2 : Nat} (h0 : Keeps a x0) : Keeps a (State.dropCtx x0 x1 x2) := by
  unfold State.dropCtx
  try dsimp only
  repeat' first
    | with_reducible assumption
    | with_reducible apply State.setLane_keeps

theorem countLine_keeps {a : State} {x0 : State} {x1 : Nat} (h0 : Keeps a x0) : Keeps a (countLine x0 x1) := by
  unfold countLine
  try dsimp only
  repeat' first
    | with_reducible assumption
    | with_reducible apply hbmRead_keeps
    | with_reducible apply State.count_keeps
    | (with_reducible refine Keeps.fst (by with_reducible assumption) ?_)
    | (with_reducible refine Keeps.snd (by with_reducible assumption) ?_)
    | (with_reducible refine Keeps.fold ?_ _ ?_)
    | (with_reducible refine Keeps.foldFst ?_ _ ?_)
    | split

theorem reloadLine_keeps {a : State} {x0 : State} {x1 : Nat} (h0 : Keeps a x0) : Keeps a (reloadLine x0 x1).1 := by
  unfold reloadLine
  repeat' first
    | with_reducible assumption
    | with_reducible apply State.setCls_keeps
    | with_reducible apply State.count_keeps
    | with_reducible apply hbmRead_keeps
    | (with_reducible refine Keeps.fst (by with_reducible assumption) ?_)
    | (with_reducible refine Keeps.snd (by with_reducible assumption) ?_)
    | (with_reducible refine Keeps.fold ?_ _ ?_)
    | (with_reducible refine Keeps.foldFst ?_ _ ?_)
    | split

theorem readLine_keeps {a : State} {x0 : State} {x1 : Nat} {x2 : Ecc} (h0 : Keeps a x0) : Keeps a (readLine x0 x1 x2).1 := by
  unfold readLine
  try dsimp only
  repeat' first
    | with_reducible assumption
    | with_reducible apply countLine_keeps
    | with_reducible apply State.count_keeps
    | with_reducible apply reloadLine_keeps
    | (with_reducible refine Keeps.fst (by with_reducible assumption) ?_)
    | (with_reducible refine Keeps.snd (by with_reducible assumption) ?_)
    | (with_reducible refine Keeps.fold ?_ _ ?_)
    | (with_reducible refine Keeps.foldFst ?_ _ ?_)
    | split

theorem writeClsLine_keeps {a : State} {x0 : State} {x1 : Nat} {x2 : List Byte} (h0 : Keeps a x0) : Keeps a (writeClsLine x0 x1 x2) := by
  unfold writeClsLine
  try dsimp only
  repeat' first
    | with_reducible assumption
    | with_reducible apply State.setCls_keeps
    | with_reducible apply hbmWrite_keeps
    | (with_reducible refine Keeps.fst (by with_reducible assumption) ?_)
    | (with_reducible refine Keeps.snd (by with_reducible assumption) ?_)
    | (with_reducible refine Keeps.fold ?_ _ ?_)
    | (with_reducible refine Keeps.foldFst ?_ _ ?_)
    | split

theorem activateSlot_keeps {a : State} {x0 : State} {x1 : Nat} (h0 : Keeps a x0) : Keeps a (activateSlot x0 x1) := by
  unfold activateSlot
  try dsimp only
  repeat' first
    | with_reducible assumption
    | with_reducible apply makeCurrent_keeps
    | (with_reducible refine Keeps.fst (by with_reducible assumption) ?_)
    | (with_reducible refine Keeps.snd (by with_reducible assumption) ?_)
    | (with_reducible refine Keeps.fold ?_ _ ?_)
    | (with_reducible refine Keeps.foldFst ?_ _ ?_)
    | split

theorem execEpochCommitTime_keeps {a : State} {x0 : BitVec 2} {x1 : State} (h1 : Keeps a x1) : OKeeps a (execEpochCommitTime x0 x1) := by
  unfold execEpochCommitTime
  try dsimp only
  repeat' first
    | with_reducible assumption
    | with_reducible apply OKeeps.next
    | exact trivial
    | with_reducible apply activateSlot_keeps
    | (with_reducible refine Keeps.fst (by with_reducible assumption) ?_)
    | (with_reducible refine Keeps.snd (by with_reducible assumption) ?_)
    | (with_reducible refine Keeps.fold ?_ _ ?_)
    | (with_reducible refine Keeps.foldFst ?_ _ ?_)
    | split

theorem finishItem_keeps {a : State} {x0 : State} {x1 : Nat} {x2 : Nat} {x3 : ClsCtx} {x4 : Bool} {x5 : Nat} {x6 : Word} {x7 : Proposal} (h0 : Keeps a x0) : Keeps a (finishItem x0 x1 x2 x3 x4 x5 x6 x7) := by
  unfold finishItem
  try dsimp only
  repeat' first
    | with_reducible assumption
    | with_reducible apply State.setCtx_keeps

theorem countResult_keeps {a : State} {x0 : State} {x1 : ClsCtx} {x2 : Nat} (h0 : Keeps a x0) : Keeps a (countResult x0 x1 x2) := by
  unfold countResult
  try dsimp only
  repeat' first
    | with_reducible assumption
    | with_reducible apply State.count_keeps
    | (with_reducible refine Keeps.fst (by with_reducible assumption) ?_)
    | (with_reducible refine Keeps.snd (by with_reducible assumption) ?_)
    | (with_reducible refine Keeps.fold ?_ _ ?_)
    | (with_reducible refine Keeps.foldFst ?_ _ ?_)
    | split

theorem setEntryClass_keeps {a : State} {x0 : State} {x1 : Nat} {x2 : Nat} {x3 : Nat} (h0 : Keeps a x0) : Keeps a (setEntryClass x0 x1 x2 x3) := by
  unfold setEntryClass
  try dsimp only
  repeat' first
    | with_reducible assumption
    | with_reducible apply State.setEntry_keeps
    | (with_reducible refine Keeps.fst (by with_reducible assumption) ?_)
    | (with_reducible refine Keeps.snd (by with_reducible assumption) ?_)
    | (with_reducible refine Keeps.fold ?_ _ ?_)
    | (with_reducible refine Keeps.foldFst ?_ _ ?_)
    | split

theorem deliverResult_keeps {a : State} {x0 : State} {x1 : ClsCtx} {x2 : Option Nat} {x3 : Nat} {x4 : Nat} (h0 : Keeps a x0) : Keeps a (deliverResult x0 x1 x2 x3 x4).1 := by
  unfold deliverResult
  try dsimp only
  repeat' first
    | with_reducible assumption
    | with_reducible apply setEntryClass_keeps
    | with_reducible apply deliverKey_keeps
    | (with_reducible refine Keeps.fst (by with_reducible assumption) ?_)
    | (with_reducible refine Keeps.snd (by with_reducible assumption) ?_)
    | (with_reducible refine Keeps.fold ?_ _ ?_)
    | (with_reducible refine Keeps.foldFst ?_ _ ?_)
    | split

theorem endSlow_keeps {a : State} {x0 : State} {x1 : Nat} {x2 : Nat} {x3 : ClsCtx} {x4 : Nat} (h0 : Keeps a x0) : Keeps a (endSlow x0 x1 x2 x3 x4) := by
  unfold endSlow
  try dsimp only
  repeat' first
    | with_reducible assumption
    | with_reducible apply State.dropCtx_keeps
    | with_reducible apply finishItem_keeps
    | with_reducible apply deliverResult_keeps
    | with_reducible apply countResult_keeps
    | (with_reducible refine Keeps.fst (by with_reducible assumption) ?_)
    | (with_reducible refine Keeps.snd (by with_reducible assumption) ?_)
    | (with_reducible refine Keeps.fold ?_ _ ?_)
    | (with_reducible refine Keeps.foldFst ?_ _ ?_)
    | split

theorem dropClassified_keeps {a : State} {x0 : State} {x1 : ClsCtx} {x2 : Nat} (h0 : Keeps a x0) : Keeps a (dropClassified x0 x1 x2) := by
  unfold dropClassified
  try dsimp only
  repeat' first
    | with_reducible assumption
    | with_reducible apply resolveDropped_keeps
    | with_reducible apply freePacket_keeps

theorem startWalk_keeps {a : State} {x0 : State} {x1 : Nat} {x2 : Nat} {x3 : ClsCtx} (h0 : Keeps a x0) : Keeps a (startWalk x0 x1 x2 x3) := by
  unfold startWalk
  try dsimp only
  repeat' first
    | with_reducible assumption
    | with_reducible apply dropClassified_keeps
    | with_reducible apply State.dropCtx_keeps
    | with_reducible apply deliverResult_keeps
    | with_reducible apply countResult_keeps
    | with_reducible apply State.count_keeps
    | with_reducible apply endSlow_keeps
    | with_reducible apply State.setCtx_keeps
    | (with_reducible refine Keeps.fst (by with_reducible assumption) ?_)
    | (with_reducible refine Keeps.snd (by with_reducible assumption) ?_)
    | (with_reducible refine Keeps.fold ?_ _ ?_)
    | (with_reducible refine Keeps.foldFst ?_ _ ?_)
    | split

theorem pinFirst_keeps {a : State} {x0 : State} {x1 : Nat} {x2 : Nat} {x3 : ClsCtx} (h0 : Keeps a x0) : Keeps a (pinFirst x0 x1 x2 x3) := by
  unfold pinFirst
  try dsimp only
  repeat' first
    | with_reducible assumption
    | with_reducible apply startWalk_keeps
    | with_reducible apply State.setPkt_keeps
    | with_reducible apply reserveEntry_keeps
    | with_reducible apply State.count_keeps
    | with_reducible apply activateSlot_keeps
    | (with_reducible refine Keeps.fst (by with_reducible assumption) ?_)
    | (with_reducible refine Keeps.snd (by with_reducible assumption) ?_)
    | (with_reducible refine PKeeps.ofSnd (by with_reducible assumption) ?_)
    | with_reducible apply PKeeps.bind
    | (with_reducible refine PKeeps.ofFst (by with_reducible assumption) ?_)
    | (with_reducible refine Keeps.fold ?_ _ ?_)
    | (with_reducible refine Keeps.foldFst ?_ _ ?_)
    | split

theorem pinAgain_keeps {a : State} {x0 : State} {x1 : Nat} {x2 : Nat} {x3 : ClsCtx} (h0 : Keeps a x0) : Keeps a (pinAgain x0 x1 x2 x3) := by
  unfold pinAgain
  try dsimp only
  repeat' first
    | with_reducible assumption
    | with_reducible apply startWalk_keeps
    | with_reducible apply endSlow_keeps
    | with_reducible apply State.setPkt_keeps
    | (with_reducible refine Keeps.fst (by with_reducible assumption) ?_)
    | (with_reducible refine Keeps.snd (by with_reducible assumption) ?_)
    | (with_reducible refine Keeps.fold ?_ _ ?_)
    | (with_reducible refine Keeps.foldFst ?_ _ ?_)
    | split

theorem execClsResultAccept_keeps {a : State} {x0 : Fin 2} {x1 : State} (h1 : Keeps a x1) : OKeeps a (execClsResultAccept x0 x1) := by
  unfold execClsResultAccept
  try dsimp only
  repeat' first
    | with_reducible assumption
    | with_reducible apply OKeeps.next
    | exact trivial
    | with_reducible apply pinFirst_keeps
    | with_reducible apply pinAgain_keeps
    | (with_reducible refine Keeps.fst (by with_reducible assumption) ?_)
    | (with_reducible refine Keeps.snd (by with_reducible assumption) ?_)
    | (with_reducible refine Keeps.fold ?_ _ ?_)
    | (with_reducible refine Keeps.foldFst ?_ _ ?_)
    | split

theorem walkResult_keeps {a : State} {x0 : State} {x1 : Nat} {x2 : Nat} {x3 : ClsCtx} {x4 : Nat} {x5 : Nat} {x6 : WalkStep} (h0 : Keeps a x0) : Keeps a (walkResult x0 x1 x2 x3 x4 x5 x6) := by
  unfold walkResult
  try dsimp only
  repeat' first
    | with_reducible assumption
    | with_reducible apply State.setCtx_keeps
    | with_reducible apply endSlow_keeps
    | (with_reducible refine Keeps.fst (by with_reducible assumption) ?_)
    | (with_reducible refine Keeps.snd (by with_reducible assumption) ?_)
    | (with_reducible refine Keeps.fold ?_ _ ?_)
    | (with_reducible refine Keeps.foldFst ?_ _ ?_)
    | split

theorem execClsLineReturn_keeps {a : State} {x0 : Fin 2} {x1 : BitVec 11} {x2 : Ecc} {x3 : State} (h3 : Keeps a x3) : OKeeps a (execClsLineReturn x0 x1 x2 x3) := by
  unfold execClsLineReturn
  try dsimp only
  repeat' first
    | with_reducible assumption
    | with_reducible apply OKeeps.next
    | exact trivial
    | with_reducible apply walkResult_keeps
    | with_reducible apply readLine_keeps
    | (with_reducible refine Keeps.fst (by with_reducible assumption) ?_)
    | (with_reducible refine Keeps.snd (by with_reducible assumption) ?_)
    | (with_reducible refine Keeps.fold ?_ _ ?_)
    | (with_reducible refine Keeps.foldFst ?_ _ ?_)
    | split

theorem bumpCounter_keeps {a : State} {x0 : State} {x1 : Nat} {x2 : Nat} (h0 : Keeps a x0) : Keeps a (bumpCounter x0 x1 x2) := by
  unfold bumpCounter
  repeat' first
    | with_reducible assumption
    | with_reducible apply hbmWrite_keeps
    | with_reducible apply hbmRead_keeps
    | (with_reducible refine Keeps.fst (by with_reducible assumption) ?_)
    | (with_reducible refine Keeps.snd (by with_reducible assumption) ?_)
    | (with_reducible refine Keeps.fold ?_ _ ?_)
    | (with_reducible refine Keeps.foldFst ?_ _ ?_)
    | split
    | dsimp only

theorem captureAct_keeps {a : State} {x0 : State} {x1 : ClsCtx} {x2 : List Byte} {x3 : BitVec 24} {x4 : Nat} {x5 : Nat} {x6 : Nat} (h0 : Keeps a x0) : Keeps a (captureAct x0 x1 x2 x3 x4 x5 x6) := by
  unfold captureAct
  refine Keeps.ite (State.count_keeps h0) ?_
  have k1 : ∀ c : Prop, [Decidable c] → Keeps a (if c then x0.cshStart else x0) := fun c _ => Keeps.ite (State.cshStart_keeps h0) h0
  have k2 : ∀ (c : Prop) [Decidable c] (b : Bool) (m : SMap Nat), Keeps a (if b = true then
      { (if c then x0.cshStart else x0) with csh := { (if c then x0.cshStart else x0).csh with samples := m } }
      else (if c then x0.cshStart else x0)) := fun c _ b m => Keeps.ite (Keeps.put (k1 c)) (k1 c)
  have k3 : ∀ {s : State} (b : Bool) (c : Prop) [Decidable c] (r : CshRec), Keeps a s →
      Keeps a (if b = true then s else if c then s.cshOffer r else s.count (cshBase + 0x908)) :=
    fun b c _ r h => Keeps.ite h (Keeps.ite (State.cshOffer_keeps h) (State.count_keeps h))
  refine Keeps.ite (State.logEvent_keeps (k3 _ _ _ (k2 _ _ _))) (Keeps.ite (Keeps.ite (State.logEvent_keeps (State.cshStop_keeps
    (k3 _ _ _ (k2 _ _ _)))) (State.cshStop_keeps (k3 _ _ _ (k2 _ _ _)))) (k3 _ _ _ (k2 _ _ _)))

theorem applyEffects_keeps {a : State} {x0 : State} {x1 : ClsCtx} {x2 : ListSummary} {x3 : BitVec 24} {x4 : Bool} {x5 : List Act} {x6 : Edited} {x7 : State} (h0 : Keeps a x0) (h7 : Keeps a x7) : Keeps a (applyEffects x0 x1 x2 x3 x4 x5 x6 x7) := by
  induction x5 generalizing x6 x7 with
  | nil => exact h7
  | cons y ys ih =>
    unfold applyEffects
    dsimp only
    apply ih
    split
    · exact bumpCounter_keeps h7
    · exact captureAct_keeps h7
    · exact h7

theorem storeEdit_keeps {a : State} {x0 : State} {x1 : Nat} {x2 : Nat} {x3 : Edited} (h0 : Keeps a x0) : Keeps a (storeEdit x0 x1 x2 x3) := by
  unfold storeEdit
  try dsimp only
  repeat' first
    | with_reducible assumption
    | with_reducible apply State.setPkt_keeps
    | with_reducible apply State.bufWrite_keeps

theorem finishMeters_keeps {a : State} {x0 : State} {x1 : Nat} {x2 : Nat} {x3 : ClsCtx} {x4 : Nat} {x5 : AfterMeters} (h0 : Keeps a x0) : Keeps a (finishMeters x0 x1 x2 x3 x4 x5) := by
  unfold finishMeters
  try dsimp only
  repeat' first
    | with_reducible assumption
    | with_reducible apply State.setCtx_keeps
    | with_reducible apply enterLoupe_keeps
    | with_reducible apply State.setEntry_keeps
    | with_reducible apply State.dropCtx_keeps
    | (with_reducible refine Keeps.fst (by with_reducible assumption) ?_)
    | (with_reducible refine Keeps.snd (by with_reducible assumption) ?_)
    | (with_reducible refine Keeps.fold ?_ _ ?_)
    | (with_reducible refine Keeps.foldFst ?_ _ ?_)
    | split

theorem nextMeter_keeps {a : State} {x0 : State} {x1 : Nat} {x2 : Nat} {x3 : ClsCtx} {x4 : List ColourOp} {x5 : Nat} {x6 : AfterMeters} (h0 : Keeps a x0) : Keeps a (nextMeter x0 x1 x2 x3 x4 x5 x6) := by
  unfold nextMeter
  try dsimp only
  repeat' first
    | with_reducible assumption
    | with_reducible apply State.setCtx_keeps
    | with_reducible apply finishMeters_keeps
    | (with_reducible refine Keeps.fst (by with_reducible assumption) ?_)
    | (with_reducible refine Keeps.snd (by with_reducible assumption) ?_)
    | (with_reducible refine Keeps.fold ?_ _ ?_)
    | (with_reducible refine Keeps.foldFst ?_ _ ?_)
    | split

theorem endList_keeps {a : State} {x0 : State} {x1 : Nat} {x2 : Nat} {x3 : ClsCtx} {x4 : Nat} {x5 : Word} {x6 : ListSummary} {x7 : List Act} {x8 : AfterMeters} (h0 : Keeps a x0) : Keeps a (endList x0 x1 x2 x3 x4 x5 x6 x7 x8) := by
  unfold endList
  try dsimp only
  repeat' first
    | with_reducible assumption
    | with_reducible apply nextMeter_keeps
    | with_reducible apply finishItem_keeps
    | (with_reducible refine Keeps.fst (by with_reducible assumption) ?_)
    | (with_reducible refine Keeps.snd (by with_reducible assumption) ?_)
    | (with_reducible refine Keeps.fold ?_ _ ?_)
    | (with_reducible refine Keeps.foldFst ?_ _ ?_)
    | split

theorem execClsActionEval_keeps {a : State} {x0 : Fin 2} {x1 : BitVec 11} {x2 : State} (h2 : Keeps a x2) : OKeeps a (execClsActionEval x0 x1 x2) := by
  unfold execClsActionEval
  try dsimp only
  repeat' first
    | with_reducible assumption
    | with_reducible apply OKeeps.next
    | exact trivial
    | with_reducible apply State.count_keeps
    | with_reducible apply dropClassified_keeps
    | with_reducible apply endList_keeps
    | with_reducible apply deliverResult_keeps
    | with_reducible apply storeEdit_keeps
    | with_reducible apply countResult_keeps
    | with_reducible apply applyEffects_keeps
    | with_reducible apply endSlow_keeps
    | with_reducible apply countLine_keeps
    | (with_reducible refine Keeps.fst (by with_reducible assumption) ?_)
    | (with_reducible refine Keeps.snd (by with_reducible assumption) ?_)
    | (with_reducible refine Keeps.fold ?_ _ ?_)
    | (with_reducible refine Keeps.foldFst ?_ _ ?_)
    | split

theorem runMeter_keeps {a : State} {x0 : State} {x1 : Nat} {x2 : Bool} {x3 : Nat} {x4 : Nat} (h0 : Keeps a x0) : Keeps a (runMeter x0 x1 x2 x3 x4).1 := by
  unfold runMeter
  repeat' first
    | with_reducible assumption
    | with_reducible apply hbmWrite_keeps
    | with_reducible apply State.takeFree_keeps
    | with_reducible apply hbmRead_keeps
    | (with_reducible refine Keeps.fst (by with_reducible assumption) ?_)
    | (with_reducible refine Keeps.snd (by with_reducible assumption) ?_)
    | (with_reducible refine Keeps.fold ?_ _ ?_)
    | (with_reducible refine Keeps.foldFst ?_ _ ?_)
    | split
    | dsimp only

theorem execMeterOp_keeps {a : State} {x0 : Fin 2} {x1 : BitVec 11} {x2 : State} (h2 : Keeps a x2) : OKeeps a (execMeterOp x0 x1 x2) := by
  unfold execMeterOp
  repeat' first
    | with_reducible assumption
    | with_reducible apply OKeeps.next
    | exact trivial
    | with_reducible apply nextMeter_keeps
    | with_reducible apply runMeter_keeps
    | (with_reducible refine Keeps.fst (by with_reducible assumption) ?_)
    | (with_reducible refine Keeps.snd (by with_reducible assumption) ?_)
    | (with_reducible refine Keeps.fold ?_ _ ?_)
    | (with_reducible refine Keeps.foldFst ?_ _ ?_)
    | split

theorem execClsDeliver_keeps {a : State} {x0 : Fin 2} {x1 : BitVec 11} {x2 : State} (h2 : Keeps a x2) : OKeeps a (execClsDeliver x0 x1 x2) := by
  unfold execClsDeliver
  try dsimp only
  repeat' first
    | with_reducible assumption
    | with_reducible apply OKeeps.next
    | exact trivial
    | with_reducible apply State.setDlr_keeps
    | with_reducible apply State.dropCtx_keeps
    | (with_reducible refine Keeps.fst (by with_reducible assumption) ?_)
    | (with_reducible refine Keeps.snd (by with_reducible assumption) ?_)
    | (with_reducible refine Keeps.fold ?_ _ ?_)
    | (with_reducible refine Keeps.foldFst ?_ _ ?_)
    | split

end Sys2Proof.Machine
end

