-- ==== Sys2Proof/Laws/Thread.lean ====
section
/-! SUPPORT. What the operations of Thread keep: the fuses, the queue and the canonical form of the stores. -/

namespace Sys2Proof.Machine

open Host

theorem orphanChildren_keeps {a : State} {x0 : State} {x1 : Nat} (h0 : Keeps a x0) : Keeps a (orphanChildren x0 x1) := by
  unfold orphanChildren
  try dsimp only
  repeat' first
    | with_reducible assumption
    | with_reducible apply State.modThread_keeps
    | (with_reducible refine Keeps.fst (by with_reducible assumption) ?_)
    | (with_reducible refine Keeps.snd (by with_reducible assumption) ?_)
    | (with_reducible refine Keeps.fold ?_ _ ?_)
    | (with_reducible refine Keeps.foldFst ?_ _ ?_)
    | split
    | (with_reducible intro _)

theorem loseCxLate_keeps {a : State} {x0 : State} {x1 : Nat} (h0 : Keeps a x0) : Keeps a (loseCxLate x0 x1) := by
  unfold loseCxLate
  try dsimp only
  repeat' first
    | with_reducible assumption
    | with_reducible apply State.count_keeps
    | with_reducible apply State.logEvent_keeps
    | with_reducible apply State.modThread_keeps
    | (with_reducible refine Keeps.fst (by with_reducible assumption) ?_)
    | (with_reducible refine Keeps.snd (by with_reducible assumption) ?_)
    | (with_reducible refine Keeps.fold ?_ _ ?_)
    | (with_reducible refine Keeps.foldFst ?_ _ ?_)
    | split

theorem dropAtEnd_keeps {a : State} {x0 : State} {x1 : Nat} {x2 : Nat} {x3 : Nat} {x4 : Nat} (h0 : Keeps a x0) : Keeps a (dropAtEnd x0 x1 x2 x3 x4) := by
  unfold dropAtEnd
  try dsimp only
  repeat' first
    | with_reducible assumption
    | with_reducible apply tryApply_keeps
    | with_reducible apply forgetPacket_keeps
    | with_reducible apply resolveDropped_keeps

theorem endPacket_keeps {a : State} {x0 : State} {x1 : Nat} {x2 : List Word} (h0 : Keeps a x0) : Keeps a (endPacket x0 x1 x2) := by
  unfold endPacket
  try dsimp only
  repeat' first
    | with_reducible assumption
    | with_reducible apply State.setFix_keeps
    | with_reducible apply resolveDropped_keeps
    | with_reducible apply tryApply_keeps
    | with_reducible apply thrCount_keeps
    | with_reducible apply dropAtEnd_keeps
    | (with_reducible refine Keeps.fst (by with_reducible assumption) ?_)
    | (with_reducible refine Keeps.snd (by with_reducible assumption) ?_)
    | (with_reducible refine Keeps.fold ?_ _ ?_)
    | (with_reducible refine Keeps.foldFst ?_ _ ?_)
    | split

theorem endHost_keeps {a : State} {x0 : State} {x1 : Nat} {x2 : List Word} (h0 : Keeps a x0) : Keeps a (endHost x0 x1 x2) := by
  unfold endHost
  try dsimp only
  repeat' first
    | with_reducible assumption
    | with_reducible apply completeHost_keeps

theorem endItem_keeps {a : State} {x0 : State} {x1 : Nat} (h0 : Keeps a x0) : Keeps a (endItem x0 x1) := by
  unfold endItem
  try dsimp only
  repeat' first
    | with_reducible assumption
    | with_reducible apply endHost_keeps
    | with_reducible apply endPacket_keeps
    | (with_reducible refine Keeps.fst (by with_reducible assumption) ?_)
    | (with_reducible refine Keeps.snd (by with_reducible assumption) ?_)
    | (with_reducible refine Keeps.fold ?_ _ ?_)
    | (with_reducible refine Keeps.foldFst ?_ _ ?_)
    | split

theorem becomeIdle_keeps {a : State} {x0 : State} {x1 : Nat} (h0 : Keeps a x0) : Keeps a (becomeIdle x0 x1) := by
  unfold becomeIdle
  try dsimp only
  repeat' first
    | with_reducible assumption
    | with_reducible apply State.modThread_keeps
    | with_reducible apply clearTpri_keeps

theorem endThread_keeps {a : State} {x0 : Nat} {x1 : State} {x2 : Nat} (h1 : Keeps a x1) : Keeps a (endThread x0 x1 x2) := by
  induction x0 generalizing x1 x2 with
  | zero => exact h1
  | succ n ih =>
    unfold endThread
    dsimp only
    repeat' first
      | with_reducible assumption
      | with_reducible apply ih
      | with_reducible apply endWait_keeps
      | with_reducible apply State.modThread_keeps
      | with_reducible apply becomeIdle_keeps
      | with_reducible apply orphanChildren_keeps
      | with_reducible apply endItem_keeps
      | with_reducible apply loseCxLate_keeps
      | split

theorem completeEnd_keeps {a : State} {x0 : State} {x1 : Nat} (h0 : Keeps a x0) : Keeps a (completeEnd x0 x1) := by
  unfold completeEnd
  try dsimp only
  repeat' first
    | with_reducible assumption
    | with_reducible apply endThread_keeps

theorem execFork_keeps {a : State} {x0 : ThreadId} {x1 : RFields} {x2 : State} (h2 : Keeps a x2) : OKeeps a (execFork x0 x1 x2) := by
  unfold execFork
  try dsimp only
  repeat' first
    | with_reducible assumption
    | with_reducible apply OKeeps.next
    | exact trivial
    | with_reducible apply RKeeps.ok
    | with_reducible apply RKeeps.jump
    | with_reducible apply RKeeps.stay
    | with_reducible apply RKeeps.gone
    | exact RKeeps.raise
    | exact RKeeps.call
    | with_reducible apply State.modThread_keeps
    | with_reducible apply State.setThread_keeps
    | with_reducible apply thrCount_keeps
    | with_reducible apply answer_keeps
    | with_reducible apply workRow_keeps
    | (with_reducible refine Keeps.fst (by with_reducible assumption) ?_)
    | (with_reducible refine Keeps.snd (by with_reducible assumption) ?_)
    | (with_reducible refine Keeps.fold ?_ _ ?_)
    | (with_reducible refine Keeps.foldFst ?_ _ ?_)
    | split
    | (with_reducible intro _)

theorem execJoin_keeps {a : State} {x0 : ThreadId} {x1 : RFields} {x2 : State} (h2 : Keeps a x2) : OKeeps a (execJoin x0 x1 x2) := by
  unfold execJoin
  try dsimp only
  repeat' first
    | with_reducible assumption
    | with_reducible apply OKeeps.next
    | exact trivial
    | with_reducible apply RKeeps.ok
    | with_reducible apply RKeeps.jump
    | with_reducible apply RKeeps.stay
    | with_reducible apply RKeeps.gone
    | exact RKeeps.raise
    | exact RKeeps.call
    | with_reducible apply waitOrTimeout_keeps
    | with_reducible apply answer_keeps
    | with_reducible apply workRow_keeps
    | (with_reducible refine Keeps.fst (by with_reducible assumption) ?_)
    | (with_reducible refine Keeps.snd (by with_reducible assumption) ?_)
    | (with_reducible refine Keeps.fold ?_ _ ?_)
    | (with_reducible refine Keeps.foldFst ?_ _ ?_)
    | split
    | (with_reducible intro _)

theorem execEndOp_keeps {a : State} {x0 : ThreadId} {x1 : RFields} {x2 : State} (h2 : Keeps a x2) : OKeeps a (execEndOp x0 x1 x2) := by
  unfold execEndOp
  try dsimp only
  repeat' first
    | with_reducible assumption
    | with_reducible apply OKeeps.next
    | exact trivial
    | with_reducible apply RKeeps.ok
    | with_reducible apply RKeeps.jump
    | with_reducible apply RKeeps.stay
    | with_reducible apply RKeeps.gone
    | exact RKeeps.raise
    | exact RKeeps.call
    | with_reducible apply startWait_keeps
    | with_reducible apply thrCount_keeps
    | with_reducible apply completeEnd_keeps
    | with_reducible apply workRow_keeps
    | (with_reducible refine Keeps.fst (by with_reducible assumption) ?_)
    | (with_reducible refine Keeps.snd (by with_reducible assumption) ?_)
    | (with_reducible refine Keeps.fold ?_ _ ?_)
    | (with_reducible refine Keeps.foldFst ?_ _ ?_)
    | split
    | (with_reducible intro _)

theorem execYield_keeps {a : State} {x0 : ThreadId} {x1 : RFields} {x2 : State} (h2 : Keeps a x2) : OKeeps a (execYield x0 x1 x2) := by
  unfold execYield
  try dsimp only
  repeat' first
    | with_reducible assumption
    | with_reducible apply OKeeps.next
    | exact trivial
    | with_reducible apply RKeeps.ok
    | with_reducible apply RKeeps.jump
    | with_reducible apply RKeeps.stay
    | with_reducible apply RKeeps.gone
    | exact RKeeps.raise
    | exact RKeeps.call
    | with_reducible apply workRow_keeps
    | (with_reducible refine Keeps.fst (by with_reducible assumption) ?_)
    | (with_reducible refine Keeps.snd (by with_reducible assumption) ?_)
    | (with_reducible refine Keeps.fold ?_ _ ?_)
    | (with_reducible refine Keeps.foldFst ?_ _ ?_)
    | split
    | (with_reducible intro _)

theorem execWaitt_keeps {a : State} {x0 : ThreadId} {x1 : RFields} {x2 : State} (h2 : Keeps a x2) : OKeeps a (execWaitt x0 x1 x2) := by
  unfold execWaitt
  try dsimp only
  repeat' first
    | with_reducible assumption
    | with_reducible apply OKeeps.next
    | exact trivial
    | with_reducible apply RKeeps.ok
    | with_reducible apply RKeeps.jump
    | with_reducible apply RKeeps.stay
    | with_reducible apply RKeeps.gone
    | exact RKeeps.raise
    | exact RKeeps.call
    | with_reducible apply startWait_keeps
    | with_reducible apply answer_keeps
    | with_reducible apply workRow_keeps
    | (with_reducible refine Keeps.fst (by with_reducible assumption) ?_)
    | (with_reducible refine Keeps.snd (by with_reducible assumption) ?_)
    | (with_reducible refine Keeps.fold ?_ _ ?_)
    | (with_reducible refine Keeps.foldFst ?_ _ ?_)
    | split
    | (with_reducible intro _)

theorem consumeEvents_keeps {a : State} {x0 : State} {x1 : Nat} {x2 : BitVec 16} (h0 : Keeps a x0) : Keeps a (consumeEvents x0 x1 x2) := by
  unfold consumeEvents
  try dsimp only
  repeat' first
    | with_reducible assumption
    | with_reducible apply State.modThread_keeps

theorem execWaite_keeps {a : State} {x0 : ThreadId} {x1 : RFields} {x2 : State} (h2 : Keeps a x2) : OKeeps a (execWaite x0 x1 x2) := by
  unfold execWaite
  try dsimp only
  repeat' first
    | with_reducible assumption
    | with_reducible apply OKeeps.next
    | exact trivial
    | with_reducible apply RKeeps.ok
    | with_reducible apply RKeeps.jump
    | with_reducible apply RKeeps.stay
    | with_reducible apply RKeeps.gone
    | exact RKeeps.raise
    | exact RKeeps.call
    | with_reducible apply waitOrTimeout_keeps
    | with_reducible apply consumeEvents_keeps
    | with_reducible apply answer_keeps
    | with_reducible apply workRow_keeps
    | (with_reducible refine Keeps.fst (by with_reducible assumption) ?_)
    | (with_reducible refine Keeps.snd (by with_reducible assumption) ?_)
    | (with_reducible refine Keeps.fold ?_ _ ?_)
    | (with_reducible refine Keeps.foldFst ?_ _ ?_)
    | split
    | (with_reducible intro _)

theorem execPost_keeps {a : State} {x0 : ThreadId} {x1 : RFields} {x2 : State} (h2 : Keeps a x2) : OKeeps a (execPost x0 x1 x2) := by
  unfold execPost
  try dsimp only
  repeat' first
    | with_reducible assumption
    | with_reducible apply OKeeps.next
    | exact trivial
    | with_reducible apply RKeeps.ok
    | with_reducible apply RKeeps.jump
    | with_reducible apply RKeeps.stay
    | with_reducible apply RKeeps.gone
    | exact RKeeps.raise
    | exact RKeeps.call
    | with_reducible apply workRow_keeps
    | (with_reducible refine Keeps.fst (by with_reducible assumption) ?_)
    | (with_reducible refine Keeps.snd (by with_reducible assumption) ?_)
    | (with_reducible refine Keeps.fold ?_ _ ?_)
    | (with_reducible refine Keeps.foldFst ?_ _ ?_)
    | split
    | fail_if_no_progress (with_reducible apply Keeps.putCores)
    | with_reducible exact Cores.posts_wf
    | with_reducible exact Cores.chans_wf (fun w => sput_wf w _ _)
    | with_reducible exact Cores.chans_wf (fun w => smod_wf w _ _)
    | with_reducible exact Cores.clusters_wf (fun w => sput_wf w _ _)
    | with_reducible exact Cores.clusters_wf (fun w => smod_wf w _ _)
    | with_reducible exact Cores.cxen_wf (fun w => sput_wf w _ _)
    | with_reducible exact Cores.cxen_wf (fun w => smod_wf w _ _)
    | with_reducible exact Cores.cxlog_wf (fun w => sput_wf w _ _)
    | with_reducible exact Cores.cxlog_wf (fun w => smod_wf w _ _)
    | with_reducible exact Cores.bht_wf (fun w => sput_wf w _ _)
    | with_reducible exact Cores.bht_wf (fun w => smod_wf w _ _)
    | (with_reducible intro _)

theorem execPostArrive_keeps {a : State} {x0 : State} (h0 : Keeps a x0) : OKeeps a (execPostArrive x0) := by
  unfold execPostArrive
  try dsimp only
  repeat' first
    | with_reducible assumption
    | with_reducible apply OKeeps.next
    | exact trivial
    | with_reducible apply consumeEvents_keeps
    | with_reducible apply endWait_keeps
    | with_reducible apply State.modThread_keeps
    | with_reducible apply thrCount_keeps
    | (with_reducible refine Keeps.fst (by with_reducible assumption) ?_)
    | (with_reducible refine Keeps.snd (by with_reducible assumption) ?_)
    | (with_reducible refine Keeps.fold ?_ _ ?_)
    | (with_reducible refine Keeps.foldFst ?_ _ ?_)
    | split
    | fail_if_no_progress (with_reducible apply Keeps.putCores)
    | with_reducible exact Cores.posts_wf

theorem execSubmit_keeps {a : State} {x0 : ThreadId} {x1 : RFields} {x2 : State} (h2 : Keeps a x2) : OKeeps a (execSubmit x0 x1 x2) := by
  unfold execSubmit
  refine workRow_keeps (fun th => ?_) h2
  dsimp only
  split
  · exact RKeeps.raise
  · split
    · exact answer_keeps (countRefused_keeps h2)
    · split
      · exact answer_keeps (enterSubmission_keeps h2)
      · split
        · exact answer_keeps (countRefused_keeps h2)
        · exact waitOrTimeout_keeps h2

theorem execSubmitResume_keeps {a : State} {x0 : ThreadId} {x1 : State} (h1 : Keeps a x1) : OKeeps a (execSubmitResume x0 x1) := by
  unfold execSubmitResume
  try dsimp only
  repeat' first
    | with_reducible assumption
    | with_reducible apply OKeeps.next
    | exact trivial
    | with_reducible apply enterSubmission_keeps
    | with_reducible apply countRefused_keeps
    | with_reducible apply endWait_keeps
    | (with_reducible refine Keeps.fst (by with_reducible assumption) ?_)
    | (with_reducible refine Keeps.snd (by with_reducible assumption) ?_)
    | (with_reducible refine Keeps.fold ?_ _ ?_)
    | (with_reducible refine Keeps.foldFst ?_ _ ?_)
    | split

theorem sendRecord_keeps {a : State} {x0 : State} {x1 : Nat} {x2 : List Byte} {x3 : Time} (h0 : Keeps a x0) : Keeps a (sendRecord x0 x1 x2 x3).1 := by
  unfold sendRecord
  try dsimp only
  repeat' first
    | with_reducible assumption
    | with_reducible apply registerCreated_keeps
    | with_reducible apply tryApply_keeps
    | (with_reducible refine Keeps.fst (by with_reducible assumption) ?_)
    | (with_reducible refine Keeps.snd (by with_reducible assumption) ?_)
    | (with_reducible refine Keeps.fold ?_ _ ?_)
    | (with_reducible refine Keeps.foldFst ?_ _ ?_)
    | split

theorem execPktout_keeps {a : State} {x0 : ThreadId} {x1 : RFields} {x2 : State} (h2 : Keeps a x2) : OKeeps a (execPktout x0 x1 x2) := by
  unfold execPktout
  try dsimp only
  repeat' first
    | with_reducible assumption
    | with_reducible apply OKeeps.next
    | exact trivial
    | with_reducible apply RKeeps.ok
    | with_reducible apply RKeeps.jump
    | with_reducible apply RKeeps.stay
    | with_reducible apply RKeeps.gone
    | exact RKeeps.raise
    | exact RKeeps.call
    | with_reducible apply sendRecord_keeps
    | with_reducible apply waitOrTimeout_keeps
    | with_reducible apply State.stamp_keeps
    | with_reducible apply answer_keeps
    | with_reducible apply workRow_keeps
    | (with_reducible refine Keeps.fst (by with_reducible assumption) ?_)
    | (with_reducible refine Keeps.snd (by with_reducible assumption) ?_)
    | (with_reducible refine Keeps.fold ?_ _ ?_)
    | (with_reducible refine Keeps.foldFst ?_ _ ?_)
    | split
    | (with_reducible intro _)

theorem execPktoutResume_keeps {a : State} {x0 : ThreadId} {x1 : State} (h1 : Keeps a x1) : OKeeps a (execPktoutResume x0 x1) := by
  unfold execPktoutResume
  try dsimp only
  repeat' first
    | with_reducible assumption
    | with_reducible apply OKeeps.next
    | exact trivial
    | with_reducible apply State.modThread_keeps
    | with_reducible apply sendRecord_keeps
    | with_reducible apply endWait_keeps
    | (with_reducible refine Keeps.fst (by with_reducible assumption) ?_)
    | (with_reducible refine Keeps.snd (by with_reducible assumption) ?_)
    | (with_reducible refine Keeps.fold ?_ _ ?_)
    | (with_reducible refine Keeps.foldFst ?_ _ ?_)
    | split

theorem sendTrayWithdrawal_keeps {a : State} {x0 : State} {x1 : Nat} {x2 : Withdrawal} (h0 : Keeps a x0) : Keeps a (sendTrayWithdrawal x0 x1 x2) := by
  unfold sendTrayWithdrawal
  try dsimp only
  repeat' first
    | with_reducible assumption
    | with_reducible apply State.setTrays_keeps

theorem withdrawWait_keeps {a : State} {x0 : State} {x1 : Nat} (h0 : Keeps a x0) : Keeps a (withdrawWait x0 x1) := by
  unfold withdrawWait
  try dsimp only
  repeat' first
    | with_reducible assumption
    | with_reducible apply State.modThread_keeps
    | with_reducible apply sendTrayWithdrawal_keeps
    | with_reducible apply sendLckWithdrawal_keeps
    | with_reducible apply leaveChan_keeps
    | (with_reducible refine Keeps.fst (by with_reducible assumption) ?_)
    | (with_reducible refine Keeps.snd (by with_reducible assumption) ?_)
    | (with_reducible refine Keeps.fold ?_ _ ?_)
    | (with_reducible refine Keeps.foldFst ?_ _ ?_)
    | split

theorem endEarly_keeps {a : State} {x0 : State} {x1 : Nat} {x2 : Nat} (h0 : Keeps a x0) : Keeps a (endEarly x0 x1 x2) := by
  unfold endEarly
  try dsimp only
  repeat' first
    | with_reducible assumption
    | with_reducible apply sendTrayWithdrawal_keeps
    | with_reducible apply sendLckWithdrawal_keeps
    | with_reducible apply leaveChan_keeps
    | with_reducible apply State.modThread_keeps
    | with_reducible apply passBy_keeps
    | with_reducible apply completeEnd_keeps
    | with_reducible apply endWait_keeps
    | (with_reducible refine Keeps.fst (by with_reducible assumption) ?_)
    | (with_reducible refine Keeps.snd (by with_reducible assumption) ?_)
    | (with_reducible refine Keeps.fold ?_ _ ?_)
    | (with_reducible refine Keeps.foldFst ?_ _ ?_)
    | split

theorem execTimerCompareReached_keeps {a : State} {x0 : ThreadId} {x1 : State} (h1 : Keeps a x1) : OKeeps a (execTimerCompareReached x0 x1) := by
  unfold execTimerCompareReached
  try dsimp only
  repeat' first
    | with_reducible assumption
    | with_reducible apply OKeeps.next
    | exact trivial
    | with_reducible apply thrCount_keeps
    | with_reducible apply endEarly_keeps
    | (with_reducible refine Keeps.fst (by with_reducible assumption) ?_)
    | (with_reducible refine Keeps.snd (by with_reducible assumption) ?_)
    | (with_reducible refine Keeps.fold ?_ _ ?_)
    | (with_reducible refine Keeps.foldFst ?_ _ ?_)
    | split

theorem execClusterDeadlock_keeps {a : State} {x0 : Fin 17} {x1 : State} (h1 : Keeps a x1) : OKeeps a (execClusterDeadlock x0 x1) := by
  unfold execClusterDeadlock
  try dsimp only
  repeat' first
    | with_reducible assumption
    | with_reducible apply OKeeps.next
    | exact trivial
    | with_reducible apply endEarly_keeps
    | with_reducible apply State.logEvent_keeps
    | with_reducible apply State.setCluster_keeps
    | with_reducible apply State.count_keeps
    | (with_reducible refine Keeps.fst (by with_reducible assumption) ?_)
    | (with_reducible refine Keeps.snd (by with_reducible assumption) ?_)
    | (with_reducible refine Keeps.fold ?_ _ ?_)
    | (with_reducible refine Keeps.foldFst ?_ _ ?_)
    | split

theorem execInterruptTake_keeps {a : State} {x0 : ThreadId} {x1 : State} (h1 : Keeps a x1) : OKeeps a (execInterruptTake x0 x1) := by
  unfold execInterruptTake
  try dsimp only
  repeat' first
    | with_reducible assumption
    | with_reducible apply OKeeps.next
    | exact trivial
    | with_reducible apply takeException_keeps
    | with_reducible apply withdrawWait_keeps
    | with_reducible apply State.modThread_keeps
    | (with_reducible refine Keeps.fst (by with_reducible assumption) ?_)
    | (with_reducible refine Keeps.snd (by with_reducible assumption) ?_)
    | (with_reducible refine Keeps.fold ?_ _ ?_)
    | (with_reducible refine Keeps.foldFst ?_ _ ?_)
    | split

theorem execMachineCheck_keeps {a : State} {x0 : ThreadId} {x1 : Addr} {x2 : State} (h2 : Keeps a x2) : OKeeps a (execMachineCheck x0 x1 x2) := by
  unfold execMachineCheck
  try dsimp only
  repeat' first
    | with_reducible assumption
    | with_reducible apply OKeeps.next
    | exact trivial
    | with_reducible apply State.modThread_keeps
    | (with_reducible refine Keeps.fst (by with_reducible assumption) ?_)
    | (with_reducible refine Keeps.snd (by with_reducible assumption) ?_)
    | (with_reducible refine Keeps.fold ?_ _ ?_)
    | (with_reducible refine Keeps.foldFst ?_ _ ?_)
    | split

theorem killThread_keeps {a : State} {x0 : State} {x1 : Nat} (h0 : Keeps a x0) : Keeps a (killThread x0 x1) := by
  unfold killThread
  try dsimp only
  repeat' first
    | with_reducible assumption
    | with_reducible apply completeEnd_keeps
    | with_reducible apply thrCount_keeps
    | with_reducible apply State.modThread_keeps
    | with_reducible apply completeHost_keeps
    | with_reducible apply dropAtEnd_keeps
    | with_reducible apply lckReset_keeps
    | with_reducible apply traysKill_keeps
    | with_reducible apply loseCxLate_keeps
    | with_reducible apply killChan_keeps
    | (with_reducible refine Keeps.fst (by with_reducible assumption) ?_)
    | (with_reducible refine Keeps.snd (by with_reducible assumption) ?_)
    | (with_reducible refine Keeps.fold ?_ _ ?_)
    | (with_reducible refine Keeps.foldFst ?_ _ ?_)
    | split

end Sys2Proof.Machine
end

