-- ==== Sys2Proof/Laws/Debug.lean ====
section
/-! SUPPORT. What the operations of Debug keep: the fuses, the queue and the canonical form of the stores. -/

namespace Sys2Proof.Machine

open Host

theorem setDbgResult_keeps {a : State} {x0 : State} {x1 : Nat} {x2 : BitVec 4} (h0 : Keeps a x0) : Keeps a (setDbgResult x0 x1 x2) := by
  unfold setDbgResult
  try dsimp only
  repeat' first
    | with_reducible assumption
    | with_reducible apply State.setCluster_keeps

theorem haltRequest_keeps {a : State} {x0 : State} {x1 : Nat} (h0 : Keeps a x0) : Keeps a (haltRequest x0 x1) := by
  unfold haltRequest
  try dsimp only
  repeat' first
    | with_reducible assumption
    | with_reducible apply withdrawWait_keeps
    | with_reducible apply haltThread_keeps
    | with_reducible apply State.modThread_keeps
    | (with_reducible refine Keeps.fst (by with_reducible assumption) ?_)
    | (with_reducible refine Keeps.snd (by with_reducible assumption) ?_)
    | (with_reducible refine Keeps.fold ?_ _ ?_)
    | (with_reducible refine Keeps.foldFst ?_ _ ?_)
    | split

theorem resumeThread_keeps {a : State} {x0 : State} {x1 : Nat} (h0 : Keeps a x0) : Keeps a (resumeThread x0 x1) := by
  unfold resumeThread
  try dsimp only
  repeat' first
    | with_reducible assumption
    | with_reducible apply State.modThread_keeps
    | with_reducible apply holdChannels_keeps

theorem abortChan_keeps {a : State} {x0 : State} {x1 : Nat} {x2 : Nat} (h0 : Keeps a x0) : Keeps a (abortChan x0 x1 x2) := by
  unfold abortChan
  try dsimp only
  repeat' first
    | with_reducible assumption
    | with_reducible apply State.count_keeps
    | with_reducible apply freeChan_keeps
    | with_reducible apply State.modThread_keeps

theorem dbgAct_keeps {a : State} {x0 : State} {x1 : Nat} {x2 : Nat} {x3 : Nat} {x4 : Nat} (h0 : Keeps a x0) : Keeps a (dbgAct x0 x1 x2 x3 x4) := by
  unfold dbgAct
  try dsimp only
  repeat' first
    | with_reducible assumption
    | with_reducible apply abortChan_keeps
    | with_reducible apply killThread_keeps
    | with_reducible apply State.modThread_keeps
    | with_reducible apply resumeThread_keeps
    | with_reducible apply haltRequest_keeps
    | (with_reducible refine Keeps.fst (by with_reducible assumption) ?_)
    | (with_reducible refine Keeps.snd (by with_reducible assumption) ?_)
    | (with_reducible refine Keeps.fold ?_ _ ?_)
    | (with_reducible refine Keeps.foldFst ?_ _ ?_)
    | split

theorem dbgRequest_keeps {a : State} {x0 : State} {x1 : Nat} {x2 : Nat} {x3 : Nat} {x4 : Nat} (h0 : Keeps a x0) : Keeps a (dbgRequest x0 x1 x2 x3 x4) := by
  unfold dbgRequest
  try dsimp only
  repeat' first
    | with_reducible assumption
    | with_reducible apply dbgAct_keeps
    | with_reducible apply setDbgResult_keeps
    | (with_reducible refine Keeps.fst (by with_reducible assumption) ?_)
    | (with_reducible refine Keeps.snd (by with_reducible assumption) ?_)
    | (with_reducible refine Keeps.fold ?_ _ ?_)
    | (with_reducible refine Keeps.foldFst ?_ _ ?_)
    | split

theorem execHalt_keeps {a : State} {x0 : Fin 17} {x1 : Fin 64} {x2 : State} (h2 : Keeps a x2) : OKeeps a (execHalt x0 x1 x2) := by
  unfold execHalt
  try dsimp only
  repeat' first
    | with_reducible assumption
    | with_reducible apply OKeeps.next
    | exact trivial
    | with_reducible apply dbgRequest_keeps

theorem execResume_keeps {a : State} {x0 : Fin 17} {x1 : Fin 64} {x2 : State} (h2 : Keeps a x2) : OKeeps a (execResume x0 x1 x2) := by
  unfold execResume
  try dsimp only
  repeat' first
    | with_reducible assumption
    | with_reducible apply OKeeps.next
    | exact trivial
    | with_reducible apply dbgRequest_keeps

theorem execStep_keeps {a : State} {x0 : Fin 17} {x1 : Fin 64} {x2 : State} (h2 : Keeps a x2) : OKeeps a (execStep x0 x1 x2) := by
  unfold execStep
  try dsimp only
  repeat' first
    | with_reducible assumption
    | with_reducible apply OKeeps.next
    | exact trivial
    | with_reducible apply dbgRequest_keeps

theorem execKill_keeps {a : State} {x0 : Fin 17} {x1 : Fin 64} {x2 : State} (h2 : Keeps a x2) : OKeeps a (execKill x0 x1 x2) := by
  unfold execKill
  try dsimp only
  repeat' first
    | with_reducible assumption
    | with_reducible apply OKeeps.next
    | exact trivial
    | with_reducible apply dbgRequest_keeps

theorem execTrap_keeps {a : State} {x0 : Fin 17} {x1 : Fin 64} {x2 : State} (h2 : Keeps a x2) : OKeeps a (execTrap x0 x1 x2) := by
  unfold execTrap
  try dsimp only
  repeat' first
    | with_reducible assumption
    | with_reducible apply OKeeps.next
    | exact trivial
    | with_reducible apply dbgRequest_keeps

theorem execChabort_keeps {a : State} {x0 : Fin 17} {x1 : Fin 32} {x2 : State} (h2 : Keeps a x2) : OKeeps a (execChabort x0 x1 x2) := by
  unfold execChabort
  try dsimp only
  repeat' first
    | with_reducible assumption
    | with_reducible apply OKeeps.next
    | exact trivial
    | with_reducible apply dbgRequest_keeps

theorem windowWrite_keeps {a : State} {x0 : State} {x1 : Nat} {x2 : Nat} {x3 : Word} (h0 : Keeps a x0) : Keeps a (windowWrite x0 x1 x2 x3) := by
  unfold windowWrite
  try dsimp only
  repeat' first
    | with_reducible assumption
    | with_reducible apply State.modThread_keeps
    | with_reducible apply setDbgResult_keeps
    | (with_reducible refine Keeps.fst (by with_reducible assumption) ?_)
    | (with_reducible refine Keeps.snd (by with_reducible assumption) ?_)
    | (with_reducible refine Keeps.fold ?_ _ ?_)
    | (with_reducible refine Keeps.foldFst ?_ _ ?_)
    | split

theorem execDbgWinWrite_keeps {a : State} {x0 : Fin 17} {x1 : BitVec 8} {x2 : Word} {x3 : State} (h3 : Keeps a x3) : OKeeps a (execDbgWinWrite x0 x1 x2 x3) := by
  unfold execDbgWinWrite
  try dsimp only
  repeat' first
    | with_reducible assumption
    | with_reducible apply OKeeps.next
    | exact trivial
    | with_reducible apply windowWrite_keeps
    | (with_reducible refine Keeps.fst (by with_reducible assumption) ?_)
    | (with_reducible refine Keeps.snd (by with_reducible assumption) ?_)
    | (with_reducible refine Keeps.fold ?_ _ ?_)
    | (with_reducible refine Keeps.foldFst ?_ _ ?_)
    | split

theorem traceRecord_keeps {a : State} {x0 : State} {x1 : Nat} (h0 : Keeps a x0) : Keeps a (traceRecord x0 x1) := by
  unfold traceRecord
  try dsimp only
  repeat' first
    | with_reducible assumption
    | with_reducible apply thrCount_keeps
    | with_reducible apply State.cshOffer_keeps
    | (with_reducible refine Keeps.fst (by with_reducible assumption) ?_)
    | (with_reducible refine Keeps.snd (by with_reducible assumption) ?_)
    | (with_reducible refine Keeps.fold ?_ _ ?_)
    | (with_reducible refine Keeps.foldFst ?_ _ ?_)
    | split

theorem execBreakpointHit_keeps {a : State} {x0 : ThreadId} {x1 : Fin 4} {x2 : State} (h2 : Keeps a x2) : OKeeps a (execBreakpointHit x0 x1 x2) := by
  unfold execBreakpointHit
  try dsimp only
  repeat' first
    | with_reducible assumption
    | with_reducible apply OKeeps.next
    | exact trivial
    | with_reducible apply takeException_keeps
    | with_reducible apply endStep_keeps
    | with_reducible apply haltThread_keeps
    | with_reducible apply traceRecord_keeps
    | (with_reducible refine Keeps.fst (by with_reducible assumption) ?_)
    | (with_reducible refine Keeps.snd (by with_reducible assumption) ?_)
    | (with_reducible refine Keeps.fold ?_ _ ?_)
    | (with_reducible refine Keeps.foldFst ?_ _ ?_)
    | split

theorem killForSwap_keeps {a : State} {x0 : State} (h0 : Keeps a x0) : Keeps a (killForSwap x0) := by
  unfold killForSwap
  try dsimp only
  repeat' first
    | with_reducible assumption
    | with_reducible apply killThread_keeps
    | with_reducible apply State.logEvent_keeps
    | (with_reducible refine Keeps.fst (by with_reducible assumption) ?_)
    | (with_reducible refine Keeps.snd (by with_reducible assumption) ?_)
    | (with_reducible refine Keeps.fold ?_ _ ?_)
    | (with_reducible refine Keeps.foldFst ?_ _ ?_)
    | split
    | (with_reducible intro _)

end Sys2Proof.Machine
end

