-- ==== Sys2Proof/Laws/RingOps.lean ====
section
/-! SUPPORT. What the operations of RingOps keep: the fuses, the queue and the canonical form of the stores. -/

namespace Sys2Proof.Machine

open Host

theorem State.setRing_keeps {a : State} {x0 : State} {x1 : Ring} (h0 : Keeps a x0) : Keeps a (State.setRing x0 x1) := by
  unfold State.setRing
  try dsimp only
  repeat' first
    | with_reducible assumption
    | (with_reducible refine Keeps.fst (by with_reducible assumption) ?_)
    | (with_reducible refine Keeps.snd (by with_reducible assumption) ?_)
    | split
    | (with_reducible intro _)
    | fail_if_no_progress (with_reducible apply Keeps.put)

theorem State.setRport_keeps {a : State} {x0 : State} {x1 : Nat} {x2 : RingPort} (h0 : Keeps a x0) : Keeps a (State.setRport x0 x1 x2) := by
  unfold State.setRport
  try dsimp only
  repeat' first
    | with_reducible assumption
    | with_reducible apply State.setRing_keeps

theorem State.setDie_keeps {a : State} {x0 : State} {x1 : Nat} {x2 : Bypass} (h0 : Keeps a x0) : Keeps a (State.setDie x0 x1 x2) := by
  unfold State.setDie
  try dsimp only
  repeat' first
    | with_reducible assumption
    | with_reducible apply State.setRing_keeps

theorem freeBlocks_keeps {a : State} {x0 : State} {x1 : Nat} {x2 : Nat} {x3 : Nat} (h0 : Keeps a x0) : Keeps a (freeBlocks x0 x1 x2 x3) := by
  unfold freeBlocks
  try dsimp only
  repeat' first
    | with_reducible assumption
    | with_reducible apply State.setRport_keeps
    | (with_reducible refine Keeps.fst (by with_reducible assumption) ?_)
    | (with_reducible refine Keeps.snd (by with_reducible assumption) ?_)
    | split

theorem hearCtrl_keeps {a : State} {x0 : State} {x1 : Nat} {x2 : List Byte} (h0 : Keeps a x0) : Keeps a (hearCtrl x0 x1 x2) := by
  unfold hearCtrl
  try dsimp only
  repeat' first
    | with_reducible assumption
    | with_reducible apply State.count_keeps
    | with_reducible apply State.setRing_keeps
    | with_reducible apply State.logEvent_keeps
    | (with_reducible refine Keeps.fst (by with_reducible assumption) ?_)
    | (with_reducible refine Keeps.snd (by with_reducible assumption) ?_)
    | split

theorem queueOwn_keeps {a : State} {x0 : State} {x1 : Nat} {x2 : Nat} {x3 : List Byte} (h0 : Keeps a x0) : Keeps a (queueOwn x0 x1 x2 x3) := by
  unfold queueOwn
  try dsimp only
  repeat' first
    | with_reducible assumption
    | with_reducible apply State.count_keeps
    | with_reducible apply State.setRing_keeps
    | (with_reducible refine Keeps.fst (by with_reducible assumption) ?_)
    | (with_reducible refine Keeps.snd (by with_reducible assumption) ?_)
    | split

theorem reportDiscard_keeps {a : State} {x0 : State} {x1 : Nat} {x2 : RHdr} {x3 : Time} {x4 : Nat} {x5 : Nat} (h0 : Keeps a x0) : Keeps a (reportDiscard x0 x1 x2 x3 x4 x5) := by
  unfold reportDiscard
  try dsimp only
  repeat' first
    | with_reducible assumption
    | with_reducible apply queueOwn_keeps
    | with_reducible apply hearCtrl_keeps
    | with_reducible apply State.setRing_keeps
    | (with_reducible refine Keeps.fst (by with_reducible assumption) ?_)
    | (with_reducible refine Keeps.snd (by with_reducible assumption) ?_)
    | split

theorem unreachable_keeps {a : State} {x0 : State} {x1 : RFrame} {x2 : Nat} (h0 : Keeps a x0) : Keeps a (unreachable x0 x1 x2) := by
  unfold unreachable
  try dsimp only
  repeat' first
    | with_reducible assumption
    | with_reducible apply freeBlocks_keeps
    | with_reducible apply State.count_keeps
    | with_reducible apply reportDiscard_keeps

end Sys2Proof.Machine
end

