-- ==== Sys2Proof/Laws/SwtOps.lean ====
section
/-! SUPPORT. What the operations of SwtOps keep: the fuses, the queue and the canonical form of the stores. -/

namespace Sys2Proof.Machine

open Host

theorem State.setSwtOut_keeps {a : State} {x0 : State} {x1 : Nat} {x2 : SwtOut} (h0 : Keeps a x0) : Keeps a (State.setSwtOut x0 x1 x2) := by
  unfold State.setSwtOut
  try dsimp only
  repeat' first
    | with_reducible assumption
    | with_reducible apply State.swtSet_keeps

theorem State.setSqueue_keeps {a : State} {x0 : State} {x1 : Nat} {x2 : SwtQueue} (h0 : Keeps a x0) : Keeps a (State.setSqueue x0 x1 x2) := by
  unfold State.setSqueue
  try dsimp only
  repeat' first
    | with_reducible assumption
    | with_reducible apply State.swtSet_keeps

theorem countQueue_keeps {a : State} {x0 : State} {x1 : Nat} {x2 : Nat} {x3 : Nat} (h0 : Keeps a x0) : Keeps a (countQueue x0 x1 x2 x3) := by
  unfold countQueue
  try dsimp only
  repeat' first
    | with_reducible assumption
    | with_reducible apply State.swtSet_keeps

theorem endRelease_keeps {a : State} {x0 : State} {x1 : Nat} (h0 : Keeps a x0) : Keeps a (endRelease x0 x1) := by
  unfold endRelease
  try dsimp only
  repeat' first
    | with_reducible assumption
    | with_reducible apply State.swtSet_keeps
    | with_reducible apply freePacket_keeps
    | (with_reducible refine Keeps.fst (by with_reducible assumption) ?_)
    | (with_reducible refine Keeps.snd (by with_reducible assumption) ?_)
    | (with_reducible refine Keeps.fold ?_ _ ?_)
    | (with_reducible refine Keeps.foldFst ?_ _ ?_)
    | split

theorem copyDone_keeps {a : State} {x0 : State} {x1 : Nat} (h0 : Keeps a x0) : Keeps a (copyDone x0 x1) := by
  unfold copyDone
  try dsimp only
  repeat' first
    | with_reducible assumption
    | with_reducible apply State.swtSet_keeps
    | with_reducible apply endRelease_keeps
    | (with_reducible refine Keeps.fst (by with_reducible assumption) ?_)
    | (with_reducible refine Keeps.snd (by with_reducible assumption) ?_)
    | (with_reducible refine Keeps.fold ?_ _ ?_)
    | (with_reducible refine Keeps.foldFst ?_ _ ?_)
    | split

theorem dropCopy_keeps {a : State} {x0 : State} {x1 : SwtCopy} {x2 : Nat} (h0 : Keeps a x0) : Keeps a (dropCopy x0 x1 x2) := by
  unfold dropCopy
  try dsimp only
  repeat' first
    | with_reducible assumption
    | with_reducible apply swtDrop_keeps
    | with_reducible apply countQueue_keeps
    | with_reducible apply copyDone_keeps

theorem popQueue_keeps {a : State} {x0 : State} {x1 : Nat} (h0 : Keeps a x0) : Keeps a (popQueue x0 x1) := by
  unfold popQueue
  try dsimp only
  repeat' first
    | with_reducible assumption
    | with_reducible apply State.setSqueue_keeps
    | (with_reducible refine Keeps.fst (by with_reducible assumption) ?_)
    | (with_reducible refine Keeps.snd (by with_reducible assumption) ?_)
    | (with_reducible refine Keeps.fold ?_ _ ?_)
    | (with_reducible refine Keeps.foldFst ?_ _ ?_)
    | split

theorem untrump_keeps {a : State} {x0 : State} {x1 : Nat → Bool} (h0 : Keeps a x0) : Keeps a (untrump x0 x1) := by
  unfold untrump
  try dsimp only
  repeat' first
    | with_reducible assumption
    | with_reducible apply State.setSqueue_keeps
    | (with_reducible refine Keeps.fst (by with_reducible assumption) ?_)
    | (with_reducible refine Keeps.snd (by with_reducible assumption) ?_)
    | (with_reducible refine Keeps.fold ?_ _ ?_)
    | (with_reducible refine Keeps.foldFst ?_ _ ?_)
    | split
    | (with_reducible intro _)

theorem flushQueue_keeps {a : State} {x0 : State} {x1 : Nat} {x2 : Nat} (h0 : Keeps a x0) : Keeps a (flushQueue x0 x1 x2) := by
  unfold flushQueue
  try dsimp only
  repeat' first
    | with_reducible assumption
    | with_reducible apply State.setSqueue_keeps
    | with_reducible apply dropCopy_keeps
    | (with_reducible refine Keeps.fst (by with_reducible assumption) ?_)
    | (with_reducible refine Keeps.snd (by with_reducible assumption) ?_)
    | (with_reducible refine Keeps.fold ?_ _ ?_)
    | (with_reducible refine Keeps.foldFst ?_ _ ?_)
    | split
    | (with_reducible intro _)

theorem flushOutput_keeps {a : State} {x0 : State} {x1 : Nat} {x2 : Nat} (h0 : Keeps a x0) : Keeps a (flushOutput x0 x1 x2) := by
  unfold flushOutput
  try dsimp only
  repeat' first
    | with_reducible assumption
    | with_reducible apply flushQueue_keeps
    | (with_reducible refine Keeps.fst (by with_reducible assumption) ?_)
    | (with_reducible refine Keeps.snd (by with_reducible assumption) ?_)
    | (with_reducible refine Keeps.fold ?_ _ ?_)
    | (with_reducible refine Keeps.foldFst ?_ _ ?_)
    | split
    | (with_reducible intro _)

theorem trimHead.go_keeps {a : State} {x0 : Nat} {x1 : Nat} {x2 : State} (h2 : Keeps a x2) : Keeps a (trimHead.go x0 x1 x2) := by
  induction x1 generalizing x2 with
  | zero => exact h2
  | succ n ih =>
    unfold trimHead.go
    split
    · exact h2
    · split
      · exact ih (dropCopy_keeps (popQueue_keeps h2))
      · exact h2

theorem trimHead_keeps {a : State} {x0 : State} {x1 : Nat} (h0 : Keeps a x0) : Keeps a (trimHead x0 x1) := by
  unfold trimHead
  try dsimp only
  repeat' first
    | with_reducible assumption
    | with_reducible apply trimHead.go_keeps

theorem swtFreeze_keeps {a : State} {x0 : State} (h0 : Keeps a x0) : Keeps a (swtFreeze x0) := by
  unfold swtFreeze
  try dsimp only
  repeat' first
    | with_reducible assumption
    | with_reducible apply trimHead_keeps
    | with_reducible apply State.setSwtOut_keeps
    | with_reducible apply dropCopy_keeps
    | with_reducible apply State.swtSet_keeps
    | (with_reducible refine Keeps.fst (by with_reducible assumption) ?_)
    | (with_reducible refine Keeps.snd (by with_reducible assumption) ?_)
    | (with_reducible refine Keeps.fold ?_ _ ?_)
    | (with_reducible refine Keeps.foldFst ?_ _ ?_)
    | split
    | (with_reducible intro _)

theorem redDrop_keeps {a : State} {x0 : State} {x1 : Nat} {x2 : Nat} {x3 : Nat} (h0 : Keeps a x0) : Keeps a (redDrop x0 x1 x2 x3).1 := by
  unfold redDrop
  try dsimp only
  repeat' first
    | with_reducible assumption
    | with_reducible apply State.swtSet_keeps
    | (with_reducible refine Keeps.fst (by with_reducible assumption) ?_)
    | (with_reducible refine Keeps.snd (by with_reducible assumption) ?_)
    | (with_reducible refine Keeps.fold ?_ _ ?_)
    | (with_reducible refine Keeps.foldFst ?_ _ ?_)
    | split

theorem refuseCopy_keeps {a : State} {x0 : State} {x1 : Option Nat} {x2 : Nat} {x3 : Nat} (h0 : Keeps a x0) : Keeps a (refuseCopy x0 x1 x2 x3) := by
  unfold refuseCopy
  try dsimp only
  repeat' first
    | with_reducible assumption
    | with_reducible apply countQueue_keeps
    | with_reducible apply swtDrop_keeps
    | (with_reducible refine Keeps.fst (by with_reducible assumption) ?_)
    | (with_reducible refine Keeps.snd (by with_reducible assumption) ?_)
    | (with_reducible refine Keeps.fold ?_ _ ?_)
    | (with_reducible refine Keeps.foldFst ?_ _ ?_)
    | split

theorem enqueueCopy_keeps {a : State} {x0 : State} {x1 : Nat} {x2 : RelState} {x3 : BitVec 64} (h0 : Keeps a x0) : Keeps a (enqueueCopy x0 x1 x2 x3) := by
  unfold enqueueCopy
  try dsimp only
  repeat' first
    | with_reducible assumption
    | with_reducible apply trimHead_keeps
    | with_reducible apply State.count_keeps
    | with_reducible apply countQueue_keeps
    | with_reducible apply State.swtSet_keeps
    | with_reducible apply redDrop_keeps
    | with_reducible apply State.setSqueue_keeps
    | with_reducible apply refuseCopy_keeps
    | (with_reducible refine Keeps.fst (by with_reducible assumption) ?_)
    | (with_reducible refine Keeps.snd (by with_reducible assumption) ?_)
    | (with_reducible refine Keeps.fold ?_ _ ?_)
    | (with_reducible refine Keeps.foldFst ?_ _ ?_)
    | split

theorem loseTx_keeps {a : State} {x0 : State} {x1 : Nat} (h0 : Keeps a x0) : Keeps a (loseTx x0 x1) := by
  unfold loseTx
  try dsimp only
  repeat' first
    | with_reducible assumption
    | with_reducible apply State.setSwtOut_keeps
    | with_reducible apply dropCopy_keeps
    | (with_reducible refine Keeps.fst (by with_reducible assumption) ?_)
    | (with_reducible refine Keeps.snd (by with_reducible assumption) ?_)
    | (with_reducible refine Keeps.fold ?_ _ ?_)
    | (with_reducible refine Keeps.foldFst ?_ _ ?_)
    | split

theorem swtGoDown_keeps {a : State} {x0 : State} {x1 : Nat} (h0 : Keeps a x0) : Keeps a (swtGoDown x0 x1) := by
  unfold swtGoDown
  try dsimp only
  repeat' first
    | with_reducible assumption
    | with_reducible apply State.setSwtOut_keeps
    | with_reducible apply flushOutput_keeps

theorem swtLinkDown_keeps {a : State} {x0 : State} {x1 : Nat} {x2 : Bool} (h0 : Keeps a x0) : Keeps a (swtLinkDown x0 x1 x2) := by
  unfold swtLinkDown
  try dsimp only
  repeat' first
    | with_reducible assumption
    | with_reducible apply State.setSwtOut_keeps
    | with_reducible apply untrump_keeps
    | with_reducible apply loseTx_keeps
    | with_reducible apply swtGoDown_keeps
    | (with_reducible refine Keeps.fst (by with_reducible assumption) ?_)
    | (with_reducible refine Keeps.snd (by with_reducible assumption) ?_)
    | (with_reducible refine Keeps.fold ?_ _ ?_)
    | (with_reducible refine Keeps.foldFst ?_ _ ?_)
    | split

theorem swtLinkUp_keeps {a : State} {x0 : State} {x1 : Nat} (h0 : Keeps a x0) : Keeps a (swtLinkUp x0 x1) := by
  unfold swtLinkUp
  try dsimp only
  repeat' first
    | with_reducible assumption
    | with_reducible apply State.setSwtOut_keeps

end Sys2Proof.Machine
end

