-- ==== Sys2Proof/Laws/Tim.lean ====
section
/-! SUPPORT. What the operations of Tim keep: the fuses, the queue and the canonical form of the stores. -/

namespace Sys2Proof.Machine

open Host

theorem State.setTim_keeps {a : State} {x0 : State} {x1 : Tim} (h0 : Keeps a x0) : Keeps a (State.setTim x0 x1) := by
  unfold State.setTim
  try dsimp only
  repeat' first
    | with_reducible assumption
    | (with_reducible refine Keeps.fst (by with_reducible assumption) ?_)
    | (with_reducible refine Keeps.snd (by with_reducible assumption) ?_)
    | (with_reducible refine Keeps.fold ?_ _ ?_)
    | (with_reducible refine Keeps.foldFst ?_ _ ?_)
    | split
    | (with_reducible intro _)
    | fail_if_no_progress (with_reducible apply Keeps.put)

theorem slewRate_keeps {a : State} {x0 : State} (h0 : Keeps a x0) : Keeps a (slewRate x0) := by
  unfold slewRate
  try dsimp only
  repeat' first
    | with_reducible assumption
    | with_reducible apply State.setTim_keeps
    | with_reducible apply State.takeFree_keeps

theorem armPps_keeps {a : State} {x0 : State} (h0 : Keeps a x0) : Keeps a (armPps x0) := by
  unfold armPps
  try dsimp only
  repeat' first
    | with_reducible assumption
    | with_reducible apply State.setTim_keeps

theorem setTai_keeps {a : State} {x0 : State} {x1 : BitVec 96} (h0 : Keeps a x0) : Keeps a (setTai x0 x1) := by
  unfold setTai
  try dsimp only
  repeat' first
    | with_reducible assumption
    | with_reducible apply State.setTim_keeps
    | with_reducible apply armPps_keeps

theorem execPpsOutEdge_keeps {a : State} {x0 : State} (h0 : Keeps a x0) : OKeeps a (execPpsOutEdge x0) := by
  unfold execPpsOutEdge
  try dsimp only
  repeat' first
    | with_reducible assumption
    | with_reducible apply OKeeps.next
    | exact trivial
    | (with_reducible refine Keeps.fst (by with_reducible assumption) ?_)
    | (with_reducible refine Keeps.snd (by with_reducible assumption) ?_)
    | (with_reducible refine Keeps.fold ?_ _ ?_)
    | (with_reducible refine Keeps.foldFst ?_ _ ?_)
    | split
    | (with_reducible intro _)
    | fail_if_no_progress (with_reducible apply Keeps.put)

theorem enterSync_keeps {a : State} {x0 : State} {x1 : SyncState} (h0 : Keeps a x0) : Keeps a (enterSync x0 x1) := by
  unfold enterSync
  try dsimp only
  repeat' first
    | with_reducible assumption
    | with_reducible apply State.setTim_keeps
    | with_reducible apply armPps_keeps

theorem noteLower_keeps {a : State} {x0 : State} (h0 : Keeps a x0) : Keeps a (noteLower x0) := by
  unfold noteLower
  try dsimp only
  repeat' first
    | with_reducible assumption
    | with_reducible apply State.setTim_keeps

theorem becomeMaster_keeps {a : State} {x0 : State} (h0 : Keeps a x0) : Keeps a (becomeMaster x0) := by
  unfold becomeMaster
  try dsimp only
  repeat' first
    | with_reducible assumption
    | with_reducible apply State.setTim_keeps
    | with_reducible apply noteLower_keeps
    | with_reducible apply ptpCheck_keeps
    | with_reducible apply enterSync_keeps

theorem setSyncPort_keeps {a : State} {x0 : State} {x1 : Nat} {x2 : SyncPort} (h0 : Keeps a x0) : Keeps a (setSyncPort x0 x1 x2) := by
  unfold setSyncPort
  try dsimp only
  repeat' first
    | with_reducible assumption
    | with_reducible apply State.setTim_keeps

theorem followMaster_keeps {a : State} {x0 : State} {x1 : Nat × Nat} {x2 : SyncState} (h0 : Keeps a x0) : Keeps a (followMaster x0 x1 x2) := by
  unfold followMaster
  try dsimp only
  repeat' first
    | with_reducible assumption
    | with_reducible apply State.setTim_keeps
    | with_reducible apply noteLower_keeps
    | with_reducible apply enterSync_keeps
    | (with_reducible refine Keeps.fst (by with_reducible assumption) ?_)
    | (with_reducible refine Keeps.snd (by with_reducible assumption) ?_)
    | (with_reducible refine Keeps.fold ?_ _ ?_)
    | (with_reducible refine Keeps.foldFst ?_ _ ?_)
    | split

theorem stepCounter_keeps {a : State} {x0 : State} {x1 : ℤ} (h0 : Keeps a x0) : Keeps a (stepCounter x0 x1) := by
  unfold stepCounter
  try dsimp only
  repeat' first
    | with_reducible assumption
    | with_reducible apply armPps_keeps
    | with_reducible apply State.setTim_keeps

theorem acquire_keeps {a : State} {x0 : State} {x1 : Nat} {x2 : Nat × Nat} (h0 : Keeps a x0) : Keeps a (acquire x0 x1 x2) := by
  unfold acquire
  try dsimp only
  repeat' first
    | with_reducible assumption
    | with_reducible apply stepCounter_keeps
    | with_reducible apply State.setTim_keeps
    | with_reducible apply followMaster_keeps
    | (with_reducible refine Keeps.fst (by with_reducible assumption) ?_)
    | (with_reducible refine Keeps.snd (by with_reducible assumption) ?_)
    | (with_reducible refine Keeps.fold ?_ _ ?_)
    | (with_reducible refine Keeps.foldFst ?_ _ ?_)
    | split

theorem timeConflict_keeps {a : State} {x0 : State} {x1 : Nat} {x2 : ℤ} (h0 : Keeps a x0) : Keeps a (timeConflict x0 x1 x2) := by
  unfold timeConflict
  try dsimp only
  repeat' first
    | with_reducible assumption
    | with_reducible apply State.count_keeps
    | with_reducible apply State.logEvent_keeps

theorem hearMaster_keeps {a : State} {x0 : State} {x1 : Nat} {x2 : Nat × Nat} (h0 : Keeps a x0) : Keeps a (hearMaster x0 x1 x2) := by
  unfold hearMaster
  try dsimp only
  repeat' first
    | with_reducible assumption
    | with_reducible apply followMaster_keeps
    | with_reducible apply timeConflict_keeps
    | (with_reducible refine Keeps.fst (by with_reducible assumption) ?_)
    | (with_reducible refine Keeps.snd (by with_reducible assumption) ?_)
    | (with_reducible refine Keeps.fold ?_ _ ?_)
    | (with_reducible refine Keeps.foldFst ?_ _ ?_)
    | split

theorem hearSyncA_keeps {a : State} {x0 : State} {x1 : Nat} {x2 : BitVec 136} (h0 : Keeps a x0) : Keeps a (hearSyncA x0 x1 x2) := by
  unfold hearSyncA
  try dsimp only
  repeat' first
    | with_reducible assumption
    | with_reducible apply hearMaster_keeps
    | with_reducible apply noteLower_keeps
    | with_reducible apply followMaster_keeps
    | with_reducible apply acquire_keeps
    | with_reducible apply State.setTim_keeps
    | with_reducible apply setSyncPort_keeps
    | (with_reducible refine Keeps.fst (by with_reducible assumption) ?_)
    | (with_reducible refine Keeps.snd (by with_reducible assumption) ?_)
    | (with_reducible refine Keeps.fold ?_ _ ?_)
    | (with_reducible refine Keeps.foldFst ?_ _ ?_)
    | split

theorem hearSyncT_keeps {a : State} {x0 : State} {x1 : Nat} {x2 : BitVec 136} (h0 : Keeps a x0) : Keeps a (hearSyncT x0 x1 x2) := by
  unfold hearSyncT
  try dsimp only
  repeat' first
    | with_reducible assumption
    | with_reducible apply slewRate_keeps
    | with_reducible apply stepCounter_keeps
    | with_reducible apply State.setTim_keeps
    | with_reducible apply setSyncPort_keeps
    | with_reducible apply State.stamp_keeps
    | (with_reducible refine Keeps.fst (by with_reducible assumption) ?_)
    | (with_reducible refine Keeps.snd (by with_reducible assumption) ?_)
    | (with_reducible refine Keeps.fold ?_ _ ?_)
    | (with_reducible refine Keeps.foldFst ?_ _ ?_)
    | split

theorem hearSyncTai_keeps {a : State} {x0 : State} {x1 : Nat} {x2 : BitVec 136} (h0 : Keeps a x0) : Keeps a (hearSyncTai x0 x1 x2) := by
  unfold hearSyncTai
  try dsimp only
  repeat' first
    | with_reducible assumption
    | with_reducible apply State.setTim_keeps
    | with_reducible apply armPps_keeps
    | (with_reducible refine Keeps.fst (by with_reducible assumption) ?_)
    | (with_reducible refine Keeps.snd (by with_reducible assumption) ?_)
    | (with_reducible refine Keeps.fold ?_ _ ?_)
    | (with_reducible refine Keeps.foldFst ?_ _ ?_)
    | split

theorem execAcquireLock_keeps {a : State} {x0 : State} (h0 : Keeps a x0) : OKeeps a (execAcquireLock x0) := by
  unfold execAcquireLock
  try dsimp only
  repeat' first
    | with_reducible assumption
    | with_reducible apply OKeeps.next
    | exact trivial
    | with_reducible apply enterSync_keeps
    | with_reducible apply noteLower_keeps
    | (with_reducible refine Keeps.fst (by with_reducible assumption) ?_)
    | (with_reducible refine Keeps.snd (by with_reducible assumption) ?_)
    | (with_reducible refine Keeps.fold ?_ _ ?_)
    | (with_reducible refine Keeps.foldFst ?_ _ ?_)
    | split

theorem execAcquireTimeout_keeps {a : State} {x0 : State} (h0 : Keeps a x0) : OKeeps a (execAcquireTimeout x0) := by
  unfold execAcquireTimeout
  try dsimp only
  repeat' first
    | with_reducible assumption
    | with_reducible apply OKeeps.next
    | exact trivial
    | with_reducible apply State.setTim_keeps
    | with_reducible apply enterSync_keeps
    | (with_reducible refine Keeps.fst (by with_reducible assumption) ?_)
    | (with_reducible refine Keeps.snd (by with_reducible assumption) ?_)
    | (with_reducible refine Keeps.fold ?_ _ ?_)
    | (with_reducible refine Keeps.foldFst ?_ _ ?_)
    | split

theorem execElectTimeout_keeps {a : State} {x0 : State} (h0 : Keeps a x0) : OKeeps a (execElectTimeout x0) := by
  unfold execElectTimeout
  try dsimp only
  repeat' first
    | with_reducible assumption
    | with_reducible apply OKeeps.next
    | exact trivial
    | with_reducible apply becomeMaster_keeps
    | (with_reducible refine Keeps.fst (by with_reducible assumption) ?_)
    | (with_reducible refine Keeps.snd (by with_reducible assumption) ?_)
    | (with_reducible refine Keeps.fold ?_ _ ?_)
    | (with_reducible refine Keeps.foldFst ?_ _ ?_)
    | split

theorem execParentLossTimeout_keeps {a : State} {x0 : State} (h0 : Keeps a x0) : OKeeps a (execParentLossTimeout x0) := by
  unfold execParentLossTimeout
  try dsimp only
  repeat' first
    | with_reducible assumption
    | with_reducible apply OKeeps.next
    | exact trivial
    | with_reducible apply State.setTim_keeps
    | with_reducible apply noteLower_keeps
    | with_reducible apply enterSync_keeps
    | with_reducible apply followMaster_keeps
    | with_reducible apply State.count_keeps
    | (with_reducible refine Keeps.fst (by with_reducible assumption) ?_)
    | (with_reducible refine Keeps.snd (by with_reducible assumption) ?_)
    | (with_reducible refine Keeps.fold ?_ _ ?_)
    | (with_reducible refine Keeps.foldFst ?_ _ ?_)
    | split

theorem execMasterTakeover_keeps {a : State} {x0 : State} (h0 : Keeps a x0) : OKeeps a (execMasterTakeover x0) := by
  unfold execMasterTakeover
  try dsimp only
  repeat' first
    | with_reducible assumption
    | with_reducible apply OKeeps.next
    | exact trivial
    | with_reducible apply becomeMaster_keeps
    | (with_reducible refine Keeps.fst (by with_reducible assumption) ?_)
    | (with_reducible refine Keeps.snd (by with_reducible assumption) ?_)
    | (with_reducible refine Keeps.fold ?_ _ ?_)
    | (with_reducible refine Keeps.foldFst ?_ _ ?_)
    | split

theorem execHoldoverTimeout_keeps {a : State} {x0 : State} (h0 : Keeps a x0) : OKeeps a (execHoldoverTimeout x0) := by
  unfold execHoldoverTimeout
  try dsimp only
  repeat' first
    | with_reducible assumption
    | with_reducible apply OKeeps.next
    | exact trivial
    | with_reducible apply becomeMaster_keeps
    | (with_reducible refine Keeps.fst (by with_reducible assumption) ?_)
    | (with_reducible refine Keeps.snd (by with_reducible assumption) ?_)
    | (with_reducible refine Keeps.fold ?_ _ ?_)
    | (with_reducible refine Keeps.foldFst ?_ _ ?_)
    | split

theorem roleChanged_keeps {a : State} {x0 : State} {x1 : Nat} (h0 : Keeps a x0) : Keeps a (roleChanged x0 x1) := by
  unfold roleChanged
  try dsimp only
  repeat' first
    | with_reducible assumption
    | with_reducible apply State.setTim_keeps
    | with_reducible apply enterSync_keeps
    | with_reducible apply armPps_keeps
    | with_reducible apply noteLower_keeps
    | (with_reducible refine Keeps.fst (by with_reducible assumption) ?_)
    | (with_reducible refine Keeps.snd (by with_reducible assumption) ?_)
    | (with_reducible refine Keeps.fold ?_ _ ?_)
    | (with_reducible refine Keeps.foldFst ?_ _ ?_)
    | split

theorem timProfile_keeps {a : State} {x0 : State} {x1 : Nat} (h0 : Keeps a x0) : Keeps a (timProfile x0 x1) := by
  unfold timProfile
  try dsimp only
  repeat' first
    | with_reducible assumption
    | with_reducible apply State.setTim_keeps
    | with_reducible apply roleChanged_keeps
    | with_reducible apply enterSync_keeps
    | (with_reducible refine Keeps.fst (by with_reducible assumption) ?_)
    | (with_reducible refine Keeps.snd (by with_reducible assumption) ?_)
    | (with_reducible refine Keeps.fold ?_ _ ?_)
    | (with_reducible refine Keeps.foldFst ?_ _ ?_)
    | split

end Sys2Proof.Machine
end

