-- ==== Sys2Proof/Laws/Eth.lean ====
section
/-! SUPPORT. What the operations of Eth keep: the fuses, the queue and the canonical form of the stores. -/

namespace Sys2Proof.Machine

open Host

theorem ethEnter_keeps {a : State} {x0 : State} {x1 : Nat} {x2 : EthState} (h0 : Keeps a x0) : Keeps a (ethEnter x0 x1 x2) := by
  unfold ethEnter
  try dsimp only
  repeat' first
    | with_reducible assumption
    | with_reducible apply State.setEthPort_keeps

theorem ethStart_keeps {a : State} {x0 : State} {x1 : Nat} (h0 : Keeps a x0) : Keeps a (ethStart x0 x1) := by
  unfold ethStart
  try dsimp only
  repeat' first
    | with_reducible assumption
    | with_reducible apply swtLinkUp_keeps
    | with_reducible apply ethEnter_keeps
    | (with_reducible refine Keeps.fst (by with_reducible assumption) ?_)
    | (with_reducible refine Keeps.snd (by with_reducible assumption) ?_)
    | (with_reducible refine Keeps.fold ?_ _ ?_)
    | (with_reducible refine Keeps.foldFst ?_ _ ?_)
    | split

theorem ethStop_keeps {a : State} {x0 : State} {x1 : Nat} {x2 : Bool} (h0 : Keeps a x0) : Keeps a (ethStop x0 x1 x2) := by
  unfold ethStop
  try dsimp only
  repeat' first
    | with_reducible assumption
    | with_reducible apply ethEnter_keeps
    | with_reducible apply swtLinkDown_keeps

theorem ethCfgChanged_keeps {a : State} {x0 : State} {x1 : Nat} {x2 : Word} (h0 : Keeps a x0) : Keeps a (ethCfgChanged x0 x1 x2) := by
  unfold ethCfgChanged
  try dsimp only
  repeat' first
    | with_reducible assumption
    | with_reducible apply ethStop_keeps
    | with_reducible apply ethStart_keeps
    | (with_reducible refine Keeps.fst (by with_reducible assumption) ?_)
    | (with_reducible refine Keeps.snd (by with_reducible assumption) ?_)
    | (with_reducible refine Keeps.fold ?_ _ ?_)
    | (with_reducible refine Keeps.foldFst ?_ _ ?_)
    | split

theorem ethStartAll_keeps {a : State} {x0 : State} (h0 : Keeps a x0) : Keeps a (ethStartAll x0) := by
  unfold ethStartAll
  try dsimp only
  repeat' first
    | with_reducible assumption
    | with_reducible apply ethStart_keeps
    | (with_reducible refine Keeps.fst (by with_reducible assumption) ?_)
    | (with_reducible refine Keeps.snd (by with_reducible assumption) ?_)
    | (with_reducible refine Keeps.fold ?_ _ ?_)

theorem execAutoNegotiation_keeps {a : State} {x0 : Fin 16} {x1 : Bool} {x2 : State} (h2 : Keeps a x2) : OKeeps a (execAutoNegotiation x0 x1 x2) := by
  unfold execAutoNegotiation
  try dsimp only
  repeat' first
    | with_reducible assumption
    | with_reducible apply OKeeps.next
    | exact trivial
    | with_reducible apply State.logEvent_keeps
    | with_reducible apply ethEnter_keeps
    | (with_reducible refine Keeps.fst (by with_reducible assumption) ?_)
    | (with_reducible refine Keeps.snd (by with_reducible assumption) ?_)
    | (with_reducible refine Keeps.fold ?_ _ ?_)
    | (with_reducible refine Keeps.foldFst ?_ _ ?_)
    | split

theorem execTrainDone_keeps {a : State} {x0 : Fin 16} {x1 : State} (h1 : Keeps a x1) : OKeeps a (execTrainDone x0 x1) := by
  unfold execTrainDone
  try dsimp only
  repeat' first
    | with_reducible assumption
    | with_reducible apply OKeeps.next
    | exact trivial
    | with_reducible apply ethEnter_keeps
    | (with_reducible refine Keeps.fst (by with_reducible assumption) ?_)
    | (with_reducible refine Keeps.snd (by with_reducible assumption) ?_)
    | (with_reducible refine Keeps.fold ?_ _ ?_)
    | (with_reducible refine Keeps.foldFst ?_ _ ?_)
    | split

theorem execTrainLimitExpire_keeps {a : State} {x0 : Fin 16} {x1 : State} (h1 : Keeps a x1) : OKeeps a (execTrainLimitExpire x0 x1) := by
  unfold execTrainLimitExpire
  try dsimp only
  repeat' first
    | with_reducible assumption
    | with_reducible apply OKeeps.next
    | exact trivial
    | with_reducible apply ethEnter_keeps
    | with_reducible apply State.logEvent_keeps
    | (with_reducible refine Keeps.fst (by with_reducible assumption) ?_)
    | (with_reducible refine Keeps.snd (by with_reducible assumption) ?_)
    | (with_reducible refine Keeps.fold ?_ _ ?_)
    | (with_reducible refine Keeps.foldFst ?_ _ ?_)
    | split

theorem execUpDebExpire_keeps {a : State} {x0 : Fin 16} {x1 : State} (h1 : Keeps a x1) : OKeeps a (execUpDebExpire x0 x1) := by
  unfold execUpDebExpire
  try dsimp only
  repeat' first
    | with_reducible assumption
    | with_reducible apply OKeeps.next
    | exact trivial
    | with_reducible apply swtLinkUp_keeps
    | with_reducible apply State.logEvent_keeps
    | with_reducible apply State.setEthPort_keeps
    | with_reducible apply ethEnter_keeps
    | (with_reducible refine Keeps.fst (by with_reducible assumption) ?_)
    | (with_reducible refine Keeps.snd (by with_reducible assumption) ?_)
    | (with_reducible refine Keeps.fold ?_ _ ?_)
    | (with_reducible refine Keeps.foldFst ?_ _ ?_)
    | split

theorem execEthLinkFault_keeps {a : State} {x0 : Fin 16} {x1 : Bool} {x2 : Bool} {x3 : Bool} {x4 : State} (h4 : Keeps a x4) : OKeeps a (execEthLinkFault x0 x1 x2 x3 x4) := by
  unfold execEthLinkFault
  try dsimp only
  repeat' first
    | with_reducible assumption
    | with_reducible apply OKeeps.next
    | exact trivial
    | with_reducible apply State.setEthPort_keeps
    | (with_reducible refine Keeps.fst (by with_reducible assumption) ?_)
    | (with_reducible refine Keeps.snd (by with_reducible assumption) ?_)
    | (with_reducible refine Keeps.fold ?_ _ ?_)
    | (with_reducible refine Keeps.foldFst ?_ _ ?_)
    | split

theorem execDownDebExpire_keeps {a : State} {x0 : Fin 16} {x1 : State} (h1 : Keeps a x1) : OKeeps a (execDownDebExpire x0 x1) := by
  unfold execDownDebExpire
  try dsimp only
  repeat' first
    | with_reducible assumption
    | with_reducible apply OKeeps.next
    | exact trivial
    | with_reducible apply swtLinkDown_keeps
    | with_reducible apply State.logEvent_keeps
    | with_reducible apply ethEnter_keeps
    | with_reducible apply State.count_keeps
    | (with_reducible refine Keeps.fst (by with_reducible assumption) ?_)
    | (with_reducible refine Keeps.snd (by with_reducible assumption) ?_)
    | (with_reducible refine Keeps.fold ?_ _ ?_)
    | (with_reducible refine Keeps.foldFst ?_ _ ?_)
    | split

theorem recordTsq_keeps {a : State} {x0 : State} {x1 : Nat} {x2 : PtpAt} {x3 : Time} {x4 : List Byte} (h0 : Keeps a x0) : Keeps a (recordTsq x0 x1 x2 x3 x4) := by
  unfold recordTsq
  try dsimp only
  repeat' first
    | with_reducible assumption
    | with_reducible apply State.setEthPort_keeps
    | with_reducible apply State.count_keeps
    | (with_reducible refine Keeps.fst (by with_reducible assumption) ?_)
    | (with_reducible refine Keeps.snd (by with_reducible assumption) ?_)
    | (with_reducible refine Keeps.fold ?_ _ ?_)
    | (with_reducible refine Keeps.foldFst ?_ _ ?_)
    | split

theorem ptpTransmit_keeps {a : State} {x0 : State} {x1 : Nat} {x2 : Time} {x3 : List Byte} (h0 : Keeps a x0) : Keeps a (ptpTransmit x0 x1 x2 x3).1 := by
  unfold ptpTransmit
  split
  · exact h0
  · dsimp only
    split
    · exact State.stamp_keeps h0
    · dsimp only
      split
      · exact State.count_keeps (recordTsq_keeps (State.stamp_keeps h0))
      · exact recordTsq_keeps (State.stamp_keeps h0)

theorem readTsq_keeps {a : State} {x0 : State} {x1 : Nat} (h0 : Keeps a x0) : Keeps a (readTsq x0 x1).1 := by
  unfold readTsq
  try dsimp only
  repeat' first
    | with_reducible assumption
    | with_reducible apply State.setEthPort_keeps
    | (with_reducible refine Keeps.fst (by with_reducible assumption) ?_)
    | (with_reducible refine Keeps.snd (by with_reducible assumption) ?_)
    | (with_reducible refine Keeps.fold ?_ _ ?_)
    | (with_reducible refine Keeps.foldFst ?_ _ ?_)
    | split

theorem applyPfc_keeps {a : State} {x0 : State} {x1 : Nat} {x2 : List Byte} (h0 : Keeps a x0) : Keeps a (applyPfc x0 x1 x2) := by
  unfold applyPfc
  try dsimp only
  repeat' first
    | with_reducible assumption
    | with_reducible apply untrump_keeps
    | with_reducible apply State.setEthPort_keeps
    | (with_reducible refine Keeps.fst (by with_reducible assumption) ?_)
    | (with_reducible refine Keeps.snd (by with_reducible assumption) ?_)
    | (with_reducible refine Keeps.fold ?_ _ ?_)
    | (with_reducible refine Keeps.foldFst ?_ _ ?_)
    | split
    | (with_reducible intro _)

theorem sendPfc_keeps {a : State} {x0 : State} {x1 : Nat} {x2 : BitVec 8} {x3 : BitVec 8} (h0 : Keeps a x0) : Keeps a (sendPfc x0 x1 x2 x3) := by
  unfold sendPfc
  try dsimp only
  repeat' first
    | with_reducible assumption
    | with_reducible apply State.count_keeps
    | with_reducible apply State.setEthPort_keeps
    | with_reducible apply State.takeFree_keeps
    | (with_reducible refine Keeps.fst (by with_reducible assumption) ?_)
    | (with_reducible refine Keeps.snd (by with_reducible assumption) ?_)
    | (with_reducible refine Keeps.fold ?_ _ ?_)
    | (with_reducible refine Keeps.foldFst ?_ _ ?_)
    | split
    | (with_reducible intro _)
    | fail_if_no_progress (with_reducible apply Keeps.put)

theorem execPfcSend_keeps {a : State} {x0 : Fin 16} {x1 : State} (h1 : Keeps a x1) : OKeeps a (execPfcSend x0 x1) := by
  unfold execPfcSend
  try dsimp only
  repeat' first
    | with_reducible assumption
    | with_reducible apply OKeeps.next
    | exact trivial
    | with_reducible apply sendPfc_keeps
    | (with_reducible refine Keeps.fst (by with_reducible assumption) ?_)
    | (with_reducible refine Keeps.snd (by with_reducible assumption) ?_)
    | (with_reducible refine Keeps.fold ?_ _ ?_)
    | (with_reducible refine Keeps.foldFst ?_ _ ?_)
    | split

theorem execPfcRefresh_keeps {a : State} {x0 : Fin 16} {x1 : State} (h1 : Keeps a x1) : OKeeps a (execPfcRefresh x0 x1) := by
  unfold execPfcRefresh
  try dsimp only
  repeat' first
    | with_reducible assumption
    | with_reducible apply OKeeps.next
    | exact trivial
    | with_reducible apply sendPfc_keeps
    | (with_reducible refine Keeps.fst (by with_reducible assumption) ?_)
    | (with_reducible refine Keeps.snd (by with_reducible assumption) ?_)
    | (with_reducible refine Keeps.fold ?_ _ ?_)
    | (with_reducible refine Keeps.foldFst ?_ _ ?_)
    | split

theorem execPfcPauseExpire_keeps {a : State} {x0 : Fin 16} {x1 : Fin 8} {x2 : State} (h2 : Keeps a x2) : OKeeps a (execPfcPauseExpire x0 x1 x2) := by
  unfold execPfcPauseExpire
  try dsimp only
  repeat' first
    | with_reducible assumption
    | with_reducible apply OKeeps.next
    | exact trivial
    | with_reducible apply State.setEthPort_keeps
    | (with_reducible refine Keeps.fst (by with_reducible assumption) ?_)
    | (with_reducible refine Keeps.snd (by with_reducible assumption) ?_)
    | (with_reducible refine Keeps.fold ?_ _ ?_)
    | (with_reducible refine Keeps.foldFst ?_ _ ?_)
    | split

theorem ptpSync_keeps {a : State} {x0 : State} (h0 : Keeps a x0) : Keeps a (ptpSync x0) := by
  unfold ptpSync
  try dsimp only
  repeat' first
    | with_reducible assumption
    | with_reducible apply setTai_keeps
    | with_reducible apply slewRate_keeps
    | with_reducible apply State.takeFree_keeps

theorem ethAdmit_keeps {a : State} {x0 : State} {x1 : Nat} {x2 : List Byte} (h0 : Keeps a x0) : Keeps a (ethAdmit x0 x1 x2) := by
  unfold ethAdmit
  try dsimp only
  repeat' first
    | with_reducible assumption
    | with_reducible apply offerLoupe_keeps
    | with_reducible apply admitPacket_keeps
    | with_reducible apply ptpSync_keeps
    | with_reducible apply State.stamp_keeps
    | (with_reducible refine Keeps.fst (by with_reducible assumption) ?_)
    | (with_reducible refine Keeps.snd (by with_reducible assumption) ?_)
    | (with_reducible refine Keeps.fold ?_ _ ?_)
    | (with_reducible refine Keeps.foldFst ?_ _ ?_)
    | split

theorem ethReceive_keeps {a : State} {x0 : State} {x1 : Nat} {x2 : List Byte} {x3 : Bool} (h0 : Keeps a x0) : Keeps a (ethReceive x0 x1 x2 x3) := by
  unfold ethReceive
  try dsimp only
  repeat' first
    | with_reducible assumption
    | with_reducible apply applyPfc_keeps
    | with_reducible apply ethAdmit_keeps
    | with_reducible apply State.count_keeps
    | with_reducible apply State.countN_keeps
    | (with_reducible refine Keeps.fst (by with_reducible assumption) ?_)
    | (with_reducible refine Keeps.snd (by with_reducible assumption) ?_)
    | (with_reducible refine Keeps.fold ?_ _ ?_)
    | (with_reducible refine Keeps.foldFst ?_ _ ?_)
    | split

theorem execEthRxFrame_keeps {a : State} {x0 : Fin 16} {x1 : List Byte} {x2 : Bool} {x3 : State} (h3 : Keeps a x3) : OKeeps a (execEthRxFrame x0 x1 x2 x3) := by
  unfold execEthRxFrame
  try dsimp only
  repeat' first
    | with_reducible assumption
    | with_reducible apply OKeeps.next
    | exact trivial
    | with_reducible apply ethReceive_keeps
    | (with_reducible refine Keeps.fst (by with_reducible assumption) ?_)
    | (with_reducible refine Keeps.snd (by with_reducible assumption) ?_)
    | (with_reducible refine Keeps.fold ?_ _ ?_)
    | (with_reducible refine Keeps.foldFst ?_ _ ?_)
    | split
    | (with_reducible intro _)
    | fail_if_no_progress (with_reducible apply Keeps.put)

theorem execPfcRx_keeps {a : State} {x0 : Fin 16} {x1 : List Byte} {x2 : State} (h2 : Keeps a x2) : OKeeps a (execPfcRx x0 x1 x2) := by
  unfold execPfcRx
  try dsimp only
  repeat' first
    | with_reducible assumption
    | with_reducible apply OKeeps.next
    | exact trivial
    | with_reducible apply ethReceive_keeps
    | (with_reducible refine Keeps.fst (by with_reducible assumption) ?_)
    | (with_reducible refine Keeps.snd (by with_reducible assumption) ?_)
    | (with_reducible refine Keeps.fold ?_ _ ?_)
    | (with_reducible refine Keeps.foldFst ?_ _ ?_)
    | split

theorem ethTransmit_keeps {a : State} {x0 : State} {x1 : Nat} {x2 : Time} {x3 : List Byte} {x4 : Bool} (h0 : Keeps a x0) : Keeps a (ethTransmit x0 x1 x2 x3 x4) := by
  unfold ethTransmit
  try dsimp only
  repeat' first
    | with_reducible assumption
    | with_reducible apply ethReceive_keeps
    | with_reducible apply State.count_keeps
    | with_reducible apply State.countN_keeps
    | with_reducible apply ptpTransmit_keeps
    | (with_reducible refine Keeps.fst (by with_reducible assumption) ?_)
    | (with_reducible refine Keeps.snd (by with_reducible assumption) ?_)
    | (with_reducible refine Keeps.fold ?_ _ ?_)
    | (with_reducible refine Keeps.foldFst ?_ _ ?_)
    | split
    | (with_reducible intro _)
    | fail_if_no_progress (with_reducible apply Keeps.put)

end Sys2Proof.Machine
end

