-- ==== Sys2Proof/Laws/Swt.lean ====
section
/-! SUPPORT. What the operations of Swt keep: the fuses, the queue and the canonical form of the stores. -/

namespace Sys2Proof.Machine

open Host

theorem execSwtEnqueue_keeps {a : State} {x0 : State} (h0 : Keeps a x0) : OKeeps a (execSwtEnqueue x0) := by
  unfold execSwtEnqueue
  try dsimp only
  repeat' first
    | with_reducible assumption
    | with_reducible apply OKeeps.next
    | exact trivial
    | with_reducible apply enqueueCopy_keeps
    | with_reducible apply endRelease_keeps
    | with_reducible apply State.swtSet_keeps
    | (with_reducible refine Keeps.fst (by with_reducible assumption) ?_)
    | (with_reducible refine Keeps.snd (by with_reducible assumption) ?_)
    | (with_reducible refine Keeps.fold ?_ _ ?_)
    | (with_reducible refine Keeps.foldFst ?_ _ ?_)
    | split
    | (with_reducible intro _)

theorem State.setSnode_keeps {a : State} {x0 : State} {x1 : Nat} {x2 : SwtNode} (h0 : Keeps a x0) : Keeps a (State.setSnode x0 x1 x2) := by
  unfold State.setSnode
  try dsimp only
  repeat' first
    | with_reducible assumption
    | with_reducible apply State.swtSet_keeps

theorem chargeNode_keeps {a : State} {x0 : Nat} {x1 : State} {x2 : SwtLevel} {x3 : Nat} (h1 : Keeps a x1) : Keeps a (chargeNode x0 x1 x2 x3) := by
  unfold chargeNode
  try dsimp only
  repeat' first
    | with_reducible assumption
    | with_reducible apply State.setSnode_keeps

theorem clearDeficit_keeps {a : State} {x0 : State} {x1 : SwtLevel} {x2 : Nat} {x3 : Bool} (h0 : Keeps a x0) : Keeps a (clearDeficit x0 x1 x2 x3) := by
  unfold clearDeficit
  try dsimp only
  repeat' first
    | with_reducible assumption
    | with_reducible apply State.setSnode_keeps
    | (with_reducible refine Keeps.fst (by with_reducible assumption) ?_)
    | (with_reducible refine Keeps.snd (by with_reducible assumption) ?_)
    | (with_reducible refine Keeps.fold ?_ _ ?_)
    | (with_reducible refine Keeps.foldFst ?_ _ ?_)
    | split

theorem chargePath_keeps {a : State} {x0 : State} {x1 : SwtPick} {x2 : Nat} (h0 : Keeps a x0) : Keeps a (chargePath x0 x1 x2) := by
  unfold chargePath
  try dsimp only
  repeat' first
    | with_reducible assumption
    | with_reducible apply clearDeficit_keeps
    | with_reducible apply chargeNode_keeps
    | with_reducible apply State.setSnode_keeps
    | (with_reducible refine Keeps.fst (by with_reducible assumption) ?_)
    | (with_reducible refine Keeps.snd (by with_reducible assumption) ?_)
    | (with_reducible refine Keeps.fold ?_ _ ?_)
    | (with_reducible refine Keeps.foldFst ?_ _ ?_)
    | split
    | (with_reducible intro _)

theorem dropAged.go_keeps {a : State} {x0 : Nat} {x1 : Nat} {x2 : State} (h2 : Keeps a x2) : Keeps a (dropAged.go x0 x1 x2) := by
  induction x1 generalizing x2 with
  | zero => exact h2
  | succ n ih =>
    unfold dropAged.go
    split
    · exact h2
    · split
      · exact ih (trimHead_keeps (dropCopy_keeps (popQueue_keeps h2)))
      · exact h2

theorem dropAged_keeps {a : State} {x0 : State} {x1 : Nat} (h0 : Keeps a x0) : Keeps a (dropAged x0 x1) := by
  unfold dropAged
  try dsimp only
  repeat' first
    | with_reducible assumption
    | with_reducible apply dropAged.go_keeps

theorem takeNext_keeps {a : State} {x0 : Nat} {x1 : Nat} {x2 : State} (h2 : Keeps a x2) : Keeps a (takeNext x0 x1 x2).1 := by
  induction x1 generalizing x2 with
  | zero => exact h2
  | succ n ih =>
    unfold takeNext
    split
    · exact h2
    · next p _ =>
      have k := dropAged_keeps (x1 := p.queue) (Keeps.fold (f := fun st e => State.setSnode st e.1 e.2)
        (fun st x h => State.setSnode_keeps h) p.nodes h2)
      dsimp only
      split
      · exact ih k
      · exact chargePath_keeps (trimHead_keeps (popQueue_keeps k))

theorem finishCopy_keeps {a : State} {x0 : State} {x1 : Nat} {x2 : SwtCopy} (h0 : Keeps a x0) : Keeps a (finishCopy x0 x1 x2) := by
  unfold finishCopy
  try dsimp only
  repeat' first
    | with_reducible assumption
    | with_reducible apply State.setSwtOut_keeps
    | with_reducible apply State.count_keeps
    | with_reducible apply countQueue_keeps
    | with_reducible apply copyDone_keeps

theorem offerRing_keeps {a : State} {x0 : State} {x1 : Nat} {x2 : SwtCopy} {x3 : Release} (h0 : Keeps a x0) : Keeps a (offerRing x0 x1 x2 x3) := by
  unfold offerRing
  try dsimp only
  repeat' first
    | with_reducible assumption
    | with_reducible apply unreachable_keeps
    | with_reducible apply copyDone_keeps
    | with_reducible apply finishCopy_keeps
    | with_reducible apply State.setRport_keeps
    | with_reducible apply State.setSwtOut_keeps
    | with_reducible apply State.setRing_keeps
    | with_reducible apply State.count_keeps
    | (with_reducible refine Keeps.fst (by with_reducible assumption) ?_)
    | (with_reducible refine Keeps.snd (by with_reducible assumption) ?_)
    | (with_reducible refine Keeps.fold ?_ _ ?_)
    | (with_reducible refine Keeps.foldFst ?_ _ ?_)
    | split

theorem execSwtDequeue_keeps {a : State} {x0 : Fin 22} {x1 : State} (h1 : Keeps a x1) : OKeeps a (execSwtDequeue x0 x1) := by
  unfold execSwtDequeue
  try dsimp only
  repeat' first
    | with_reducible assumption
    | with_reducible apply OKeeps.next
    | exact trivial
    | with_reducible apply State.setSwtOut_keeps
    | with_reducible apply offerRing_keeps
    | with_reducible apply takeNext_keeps
    | (with_reducible refine Keeps.fst (by with_reducible assumption) ?_)
    | (with_reducible refine Keeps.snd (by with_reducible assumption) ?_)
    | (with_reducible refine Keeps.fold ?_ _ ?_)
    | (with_reducible refine Keeps.foldFst ?_ _ ?_)
    | split

theorem endSending_keeps {a : State} {x0 : State} {x1 : Nat} {x2 : List Byte} {x3 : List Byte} (h0 : Keeps a x0) : Keeps a (endSending x0 x1 x2 x3) := by
  unfold endSending
  try dsimp only
  repeat' first
    | with_reducible assumption
    | with_reducible apply State.setRport_keeps
    | (with_reducible refine Keeps.fst (by with_reducible assumption) ?_)
    | (with_reducible refine Keeps.snd (by with_reducible assumption) ?_)
    | (with_reducible refine Keeps.fold ?_ _ ?_)
    | (with_reducible refine Keeps.foldFst ?_ _ ?_)
    | split
    | (with_reducible intro _)
    | fail_if_no_progress (with_reducible apply Keeps.put)

theorem execSwtTxDone_keeps {a : State} {x0 : Fin 22} {x1 : State} (h1 : Keeps a x1) : OKeeps a (execSwtTxDone x0 x1) := by
  unfold execSwtTxDone
  try dsimp only
  repeat' first
    | with_reducible assumption
    | with_reducible apply OKeeps.next
    | exact trivial
    | with_reducible apply endSending_keeps
    | with_reducible apply finishCopy_keeps
    | with_reducible apply ethTransmit_keeps
    | (with_reducible refine Keeps.fst (by with_reducible assumption) ?_)
    | (with_reducible refine Keeps.snd (by with_reducible assumption) ?_)
    | (with_reducible refine Keeps.fold ?_ _ ?_)
    | (with_reducible refine Keeps.foldFst ?_ _ ?_)
    | split

theorem execSwtTxEcc_keeps {a : State} {x0 : Fin 22} {x1 : State} (h1 : Keeps a x1) : OKeeps a (execSwtTxEcc x0 x1) := by
  unfold execSwtTxEcc
  try dsimp only
  repeat' first
    | with_reducible assumption
    | with_reducible apply OKeeps.next
    | exact trivial
    | with_reducible apply State.setSwtOut_keeps
    | with_reducible apply State.count_keeps
    | (with_reducible refine Keeps.fst (by with_reducible assumption) ?_)
    | (with_reducible refine Keeps.snd (by with_reducible assumption) ?_)
    | (with_reducible refine Keeps.fold ?_ _ ?_)
    | (with_reducible refine Keeps.foldFst ?_ _ ?_)
    | split

theorem execSwtQueueTrump_keeps {a : State} {x0 : BitVec 15} {x1 : State} (h1 : Keeps a x1) : OKeeps a (execSwtQueueTrump x0 x1) := by
  unfold execSwtQueueTrump
  try dsimp only
  repeat' first
    | with_reducible assumption
    | with_reducible apply OKeeps.next
    | exact trivial
    | with_reducible apply State.setSqueue_keeps
    | with_reducible apply State.count_keeps
    | (with_reducible refine Keeps.fst (by with_reducible assumption) ?_)
    | (with_reducible refine Keeps.snd (by with_reducible assumption) ?_)
    | (with_reducible refine Keeps.fold ?_ _ ?_)
    | (with_reducible refine Keeps.foldFst ?_ _ ?_)
    | split

theorem execSwtHoldExpire_keeps {a : State} {x0 : Fin 16} {x1 : State} (h1 : Keeps a x1) : OKeeps a (execSwtHoldExpire x0 x1) := by
  unfold execSwtHoldExpire
  try dsimp only
  repeat' first
    | with_reducible assumption
    | with_reducible apply OKeeps.next
    | exact trivial
    | with_reducible apply swtGoDown_keeps
    | (with_reducible refine Keeps.fst (by with_reducible assumption) ?_)
    | (with_reducible refine Keeps.snd (by with_reducible assumption) ?_)
    | (with_reducible refine Keeps.fold ?_ _ ?_)
    | (with_reducible refine Keeps.foldFst ?_ _ ?_)
    | split

end Sys2Proof.Machine
end

