-- ==== Sys2Proof/Laws/Hqe.lean ====
section
/-! SUPPORT. What the operations of Hqe keep: the fuses, the queue and the canonical form of the stores. -/

namespace Sys2Proof.Machine

open Host

theorem fillBuffers_wf : ∀ (bs : List RxBuf) {m : SMap Byte} (data : List Byte), swf 0 m = true → swf 0 (fillBuffers m bs data) = true
  | [], _, _, h => h
  | b :: bs, _, data, h => fillBuffers_wf bs (data.drop b.len) (writeBytes_wf _ _ h)

theorem askRead_keeps {a : State} {x0 : State} {x1 : Nat} {x2 : Nat} {x3 : Nat} (h0 : Keeps a x0) : Keeps a (askRead x0 x1 x2 x3) := by
  unfold askRead
  try dsimp only
  repeat' first
    | with_reducible assumption
    | (with_reducible refine Keeps.fst (by with_reducible assumption) ?_)
    | (with_reducible refine Keeps.snd (by with_reducible assumption) ?_)
    | (with_reducible refine Keeps.fold ?_ _ ?_)
    | (with_reducible refine Keeps.foldFst ?_ _ ?_)
    | split
    | (with_reducible intro _)
    | fail_if_no_progress (with_reducible apply Keeps.put)

theorem askSwap_keeps {a : State} {x0 : State} {x1 : Nat} {x2 : Nat} (h0 : Keeps a x0) : Keeps a (askSwap x0 x1 x2) := by
  unfold askSwap
  try dsimp only
  repeat' first
    | with_reducible assumption
    | (with_reducible refine Keeps.fst (by with_reducible assumption) ?_)
    | (with_reducible refine Keeps.snd (by with_reducible assumption) ?_)
    | (with_reducible refine Keeps.fold ?_ _ ?_)
    | (with_reducible refine Keeps.foldFst ?_ _ ?_)
    | split
    | (with_reducible intro _)
    | fail_if_no_progress (with_reducible apply Keeps.put)

theorem endPoll_keeps {a : State} {x0 : State} {x1 : Nat} (h0 : Keeps a x0) : Keeps a (endPoll x0 x1) := by
  unfold endPoll
  try dsimp only
  repeat' first
    | with_reducible assumption
    | with_reducible apply State.setFn_keeps
    | (with_reducible refine Keeps.fst (by with_reducible assumption) ?_)
    | (with_reducible refine Keeps.snd (by with_reducible assumption) ?_)
    | (with_reducible refine Keeps.fold ?_ _ ?_)
    | (with_reducible refine Keeps.foldFst ?_ _ ?_)
    | split

theorem State.setPoll_keeps {a : State} {x0 : State} {x1 : Nat} {x2 : Poll} (h0 : Keeps a x0) : Keeps a (State.setPoll x0 x1 x2) := by
  unfold State.setPoll
  try dsimp only
  repeat' first
    | with_reducible assumption
    | with_reducible apply State.setFn_keeps

theorem execHqePoll_keeps {a : State} {x0 : Fin 1028} {x1 : State} (h1 : Keeps a x1) : OKeeps a (execHqePoll x0 x1) := by
  unfold execHqePoll
  try dsimp only
  repeat' first
    | with_reducible assumption
    | with_reducible apply OKeeps.next
    | exact trivial
    | with_reducible apply endPoll_keeps
    | with_reducible apply State.setFn_keeps
    | with_reducible apply askRead_keeps
    | with_reducible apply State.setHqe_keeps
    | with_reducible apply State.count_keeps
    | (with_reducible refine Keeps.fst (by with_reducible assumption) ?_)
    | (with_reducible refine Keeps.snd (by with_reducible assumption) ?_)
    | (with_reducible refine Keeps.fold ?_ _ ?_)
    | (with_reducible refine Keeps.foldFst ?_ _ ?_)
    | split
    | (with_reducible intro _)

theorem execSummaryReadDone_keeps {a : State} {x0 : Fin 1028} {x1 : BitVec 512} {x2 : State} (h2 : Keeps a x2) : OKeeps a (execSummaryReadDone x0 x1 x2) := by
  unfold execSummaryReadDone
  try dsimp only
  repeat' first
    | with_reducible assumption
    | with_reducible apply OKeeps.next
    | exact trivial
    | with_reducible apply askSwap_keeps
    | with_reducible apply endPoll_keeps
    | with_reducible apply State.setPoll_keeps
    | (with_reducible refine Keeps.fst (by with_reducible assumption) ?_)
    | (with_reducible refine Keeps.snd (by with_reducible assumption) ?_)
    | (with_reducible refine Keeps.fold ?_ _ ?_)
    | (with_reducible refine Keeps.foldFst ?_ _ ?_)
    | split
    | (with_reducible intro _)

theorem bitmapRing_keeps {a : State} {x0 : Nat} {x1 : State} {x2 : Nat} (h1 : Keeps a x1) : Keeps a (bitmapRing x0 x1 x2) := by
  unfold bitmapRing
  try dsimp only
  repeat' first
    | with_reducible assumption
    | with_reducible apply State.setPoll_keeps
    | with_reducible apply askRead_keeps
    | with_reducible apply State.count_keeps
    | (with_reducible refine Keeps.fst (by with_reducible assumption) ?_)
    | (with_reducible refine Keeps.snd (by with_reducible assumption) ?_)
    | (with_reducible refine Keeps.fold ?_ _ ?_)
    | (with_reducible refine Keeps.foldFst ?_ _ ?_)
    | split

theorem execAtomicSwapDone_keeps {a : State} {x0 : Fin 1028} {x1 : BitVec 11} {x2 : BitVec 64} {x3 : State} (h3 : Keeps a x3) : OKeeps a (execAtomicSwapDone x0 x1 x2 x3) := by
  unfold execAtomicSwapDone
  try dsimp only
  repeat' first
    | with_reducible assumption
    | with_reducible apply OKeeps.next
    | exact trivial
    | with_reducible apply bitmapRing_keeps
    | with_reducible apply askSwap_keeps
    | with_reducible apply endPoll_keeps
    | with_reducible apply State.setPoll_keeps
    | (with_reducible refine Keeps.fst (by with_reducible assumption) ?_)
    | (with_reducible refine Keeps.snd (by with_reducible assumption) ?_)
    | (with_reducible refine Keeps.fold ?_ _ ?_)
    | (with_reducible refine Keeps.foldFst ?_ _ ?_)
    | split
    | (with_reducible intro _)

theorem freeWord_keeps {a : State} {x0 : State} {x1 : Word} (h0 : Keeps a x0) : Keeps a (freeWord x0 x1).2 := by
  unfold freeWord
  try dsimp only
  repeat' first
    | with_reducible assumption
    | with_reducible apply State.takeFree_keeps

theorem failDescriptor_keeps {a : State} {x0 : State} {x1 : Nat} {x2 : Nat} {x3 : HRing} {x4 : Nat} {x5 : Nat} {x6 : Word} {x7 : Word} {x8 : Bool} (h0 : Keeps a x0) : Keeps a (failDescriptor x0 x1 x2 x3 x4 x5 x6 x7 x8) := by
  unfold failDescriptor
  try dsimp only
  repeat' first
    | with_reducible assumption
    | with_reducible apply postCompletion_keeps
    | with_reducible apply freeWord_keeps
    | (with_reducible refine Keeps.fst (by with_reducible assumption) ?_)
    | (with_reducible refine Keeps.snd (by with_reducible assumption) ?_)
    | (with_reducible refine Keeps.fold ?_ _ ?_)
    | (with_reducible refine Keeps.foldFst ?_ _ ?_)
    | split

theorem faultRing_keeps {a : State} {x0 : State} {x1 : Nat} {x2 : Nat} {x3 : HRing} (h0 : Keeps a x0) : Keeps a (faultRing x0 x1 x2 x3) := by
  unfold faultRing
  try dsimp only
  repeat' first
    | with_reducible assumption
    | with_reducible apply State.setHring_keeps
    | with_reducible apply failDescriptor_keeps
    | with_reducible apply freeWord_keeps

theorem hearDoorbell_keeps {a : State} {x0 : State} {x1 : Nat} {x2 : Nat} {x3 : BitVec 64} (h0 : Keeps a x0) : Keeps a (hearDoorbell x0 x1 x2 x3) := by
  unfold hearDoorbell
  try dsimp only
  repeat' first
    | with_reducible assumption
    | with_reducible apply State.setHring_keeps
    | with_reducible apply State.setPoll_keeps
    | with_reducible apply faultRing_keeps
    | with_reducible apply State.count_keeps
    | (with_reducible refine Keeps.fst (by with_reducible assumption) ?_)
    | (with_reducible refine Keeps.snd (by with_reducible assumption) ?_)
    | (with_reducible refine Keeps.fold ?_ _ ?_)
    | (with_reducible refine Keeps.foldFst ?_ _ ?_)
    | split

theorem execDoorbellRead_keeps {a : State} {x0 : Fin 1028} {x1 : BitVec 16} {x2 : BitVec 64} {x3 : State} (h3 : Keeps a x3) : OKeeps a (execDoorbellRead x0 x1 x2 x3) := by
  unfold execDoorbellRead
  try dsimp only
  repeat' first
    | with_reducible assumption
    | with_reducible apply OKeeps.next
    | exact trivial
    | with_reducible apply State.setPoll_keeps
    | with_reducible apply hearDoorbell_keeps
    | with_reducible apply endPoll_keeps
    | (with_reducible refine Keeps.fst (by with_reducible assumption) ?_)
    | (with_reducible refine Keeps.snd (by with_reducible assumption) ?_)
    | (with_reducible refine Keeps.fold ?_ _ ?_)
    | (with_reducible refine Keeps.foldFst ?_ _ ?_)
    | split

theorem takeDescriptors_keeps {a : State} {x0 : HRing} {x1 : State} {x2 : List Desc} (h1 : Keeps a x1) : Keeps a (takeDescriptors x0 x1 x2).1 := by
  induction x2 generalizing x0 x1 with
  | nil => exact h1
  | cons y ys ih =>
    unfold takeDescriptors
    exact ih (State.stamp_keeps h1)

theorem execDescriptorFetch_keeps {a : State} {x0 : Fin 1028} {x1 : BitVec 16} {x2 : List Desc} {x3 : State} (h3 : Keeps a x3) : OKeeps a (execDescriptorFetch x0 x1 x2 x3) := by
  unfold execDescriptorFetch
  try dsimp only
  repeat' first
    | with_reducible assumption
    | with_reducible apply OKeeps.next
    | exact trivial
    | with_reducible apply State.setHring_keeps
    | with_reducible apply State.countN_keeps
    | with_reducible apply takeDescriptors_keeps
    | with_reducible apply askRead_keeps
    | (with_reducible refine Keeps.fst (by with_reducible assumption) ?_)
    | (with_reducible refine Keeps.snd (by with_reducible assumption) ?_)
    | (with_reducible refine Keeps.fold ?_ _ ?_)
    | (with_reducible refine Keeps.foldFst ?_ _ ?_)
    | split

theorem completeTx_keeps {a : State} {x0 : State} {x1 : Nat} {x2 : Nat} {x3 : TxFrame} {x4 : Nat} {x5 : Nat} (h0 : Keeps a x0) : Keeps a (completeTx x0 x1 x2 x3 x4 x5) := by
  unfold completeTx
  try dsimp only
  repeat' first
    | with_reducible assumption
    | with_reducible apply postCompletion_keeps
    | with_reducible apply State.count_keeps
    | (with_reducible refine Keeps.fst (by with_reducible assumption) ?_)
    | (with_reducible refine Keeps.snd (by with_reducible assumption) ?_)
    | (with_reducible refine Keeps.fold ?_ _ ?_)
    | (with_reducible refine Keeps.foldFst ?_ _ ?_)
    | split

theorem execTxSeg_keeps {a : State} {x0 : Fin 1028} {x1 : BitVec 16} {x2 : State} (h2 : Keeps a x2) : OKeeps a (execTxSeg x0 x1 x2) := by
  unfold execTxSeg
  try dsimp only
  repeat' first
    | with_reducible assumption
    | with_reducible apply OKeeps.next
    | exact trivial
    | with_reducible apply completeTx_keeps
    | with_reducible apply askRead_keeps
    | with_reducible apply State.setHring_keeps
    | with_reducible apply failDescriptor_keeps
    | with_reducible apply finishDestroy_keeps
    | (with_reducible refine Keeps.fst (by with_reducible assumption) ?_)
    | (with_reducible refine Keeps.snd (by with_reducible assumption) ?_)
    | (with_reducible refine Keeps.fold ?_ _ ?_)
    | (with_reducible refine Keeps.foldFst ?_ _ ?_)
    | split

theorem hostAdmit_keeps {a : State} {x0 : State} {x1 : Nat} {x2 : Nat} {x3 : HRing} {x4 : TxFrame} {x5 : List Byte} (h0 : Keeps a x0) : Keeps a (hostAdmit x0 x1 x2 x3 x4 x5) := by
  unfold hostAdmit
  try dsimp only
  repeat' first
    | with_reducible assumption
    | with_reducible apply offerLoupe_keeps
    | with_reducible apply completeTx_keeps
    | with_reducible apply admitPacket_keeps
    | (with_reducible refine Keeps.fst (by with_reducible assumption) ?_)
    | (with_reducible refine Keeps.snd (by with_reducible assumption) ?_)
    | (with_reducible refine Keeps.fold ?_ _ ?_)
    | (with_reducible refine Keeps.foldFst ?_ _ ?_)
    | split

theorem execTxDataReadDone_keeps {a : State} {x0 : Fin 1028} {x1 : BitVec 16} {x2 : List Byte} {x3 : Bool} {x4 : State} (h4 : Keeps a x4) : OKeeps a (execTxDataReadDone x0 x1 x2 x3 x4) := by
  unfold execTxDataReadDone
  try dsimp only
  repeat' first
    | with_reducible assumption
    | with_reducible apply OKeeps.next
    | exact trivial
    | with_reducible apply hostAdmit_keeps
    | with_reducible apply completeTx_keeps
    | with_reducible apply finishDestroy_keeps
    | with_reducible apply State.setHring_keeps
    | (with_reducible refine Keeps.fst (by with_reducible assumption) ?_)
    | (with_reducible refine Keeps.snd (by with_reducible assumption) ?_)
    | (with_reducible refine Keeps.fold ?_ _ ?_)
    | (with_reducible refine Keeps.foldFst ?_ _ ?_)
    | split

theorem execRxBuf_keeps {a : State} {x0 : Fin 1028} {x1 : BitVec 16} {x2 : State} (h2 : Keeps a x2) : OKeeps a (execRxBuf x0 x1 x2) := by
  unfold execRxBuf
  try dsimp only
  repeat' first
    | with_reducible assumption
    | with_reducible apply OKeeps.next
    | exact trivial
    | with_reducible apply State.setHring_keeps
    | with_reducible apply failDescriptor_keeps
    | with_reducible apply finishDestroy_keeps
    | (with_reducible refine Keeps.fst (by with_reducible assumption) ?_)
    | (with_reducible refine Keeps.snd (by with_reducible assumption) ?_)
    | (with_reducible refine Keeps.fold ?_ _ ?_)
    | (with_reducible refine Keeps.foldFst ?_ _ ?_)
    | split

theorem writeCopy_keeps {a : State} {x0 : State} {x1 : Nat} {x2 : SwtCopy} {x3 : Nat} (h0 : Keeps a x0) : Keeps a (writeCopy x0 x1 x2 x3) := by
  unfold writeCopy
  try dsimp only
  repeat' first
    | with_reducible assumption
    | with_reducible apply postCompletion_keeps
    | with_reducible apply finishCopy_keeps
    | with_reducible apply State.setHring_keeps
    | with_reducible apply State.setMems_keeps
    | (with_reducible refine Keeps.fst (by with_reducible assumption) ?_)
    | (with_reducible refine Keeps.snd (by with_reducible assumption) ?_)
    | (with_reducible refine Keeps.fold ?_ _ ?_)
    | (with_reducible refine Keeps.foldFst ?_ _ ?_)
    | split
    | fail_if_no_progress (with_reducible apply Keeps.putMems)
    | with_reducible exact Memory.istore_wf (fun w => writeBytes_wf _ _ w)
    | with_reducible exact Memory.scratch_wf (fun w => writeBytes_wf _ _ w)
    | with_reducible exact Memory.shared_wf (fun w => writeBytes_wf _ _ w)
    | with_reducible exact Memory.mgmt_wf (fun w => writeBytes_wf _ _ w)
    | with_reducible exact Memory.pkt_wf (fun w => writeBytes_wf _ _ w)
    | with_reducible exact Memory.hbm_wf (fun w => writeBytes_wf _ _ w)
    | with_reducible exact Memory.host_wf (fun w => writeBytes_wf _ _ w)
    | with_reducible exact Memory.host_wf (fun w => fillBuffers_wf _ _ w)

theorem requeueCopy_keeps {a : State} {x0 : State} {x1 : Nat} {x2 : SwtCopy} (h0 : Keeps a x0) : Keeps a (requeueCopy x0 x1 x2) := by
  unfold requeueCopy
  try dsimp only
  repeat' first
    | with_reducible assumption
    | with_reducible apply State.setSqueue_keeps
    | with_reducible apply State.setSwtOut_keeps

theorem refuseHost_keeps {a : State} {x0 : State} {x1 : Nat} {x2 : SwtCopy} (h0 : Keeps a x0) : Keeps a (refuseHost x0 x1 x2) := by
  unfold refuseHost
  try dsimp only
  repeat' first
    | with_reducible assumption
    | with_reducible apply State.setSwtOut_keeps
    | with_reducible apply dropCopy_keeps

theorem execRxDeliver_keeps {a : State} {x0 : Fin 22} {x1 : State} (h1 : Keeps a x1) : OKeeps a (execRxDeliver x0 x1) := by
  unfold execRxDeliver
  try dsimp only
  repeat' first
    | with_reducible assumption
    | with_reducible apply OKeeps.next
    | exact trivial
    | with_reducible apply writeCopy_keeps
    | with_reducible apply requeueCopy_keeps
    | with_reducible apply State.count_keeps
    | with_reducible apply refuseHost_keeps
    | (with_reducible refine Keeps.fst (by with_reducible assumption) ?_)
    | (with_reducible refine Keeps.snd (by with_reducible assumption) ?_)
    | (with_reducible refine Keeps.fold ?_ _ ?_)
    | (with_reducible refine Keeps.foldFst ?_ _ ?_)
    | split

theorem drainWaiting_keeps {a : State} {x0 : Nat} {x1 : Nat} {x2 : Nat} {x3 : State} (h3 : Keeps a x3) : Keeps a (drainWaiting x0 x1 x2 x3) := by
  induction x2 generalizing x3 with
  | zero => exact h3
  | succ n ih =>
    unfold drainWaiting
    split
    · exact h3
    · split
      · exact h3
      · split
        · exact ih (writeEntry_keeps h3)
        · exact h3

theorem execCqRecheck_keeps {a : State} {x0 : Fin 1028} {x1 : BitVec 16} {x2 : Word} {x3 : State} (h3 : Keeps a x3) : OKeeps a (execCqRecheck x0 x1 x2 x3) := by
  unfold execCqRecheck
  try dsimp only
  repeat' first
    | with_reducible assumption
    | with_reducible apply OKeeps.next
    | exact trivial
    | with_reducible apply State.count_keeps
    | with_reducible apply State.setCq_keeps
    | with_reducible apply drainWaiting_keeps
    | (with_reducible refine Keeps.fst (by with_reducible assumption) ?_)
    | (with_reducible refine Keeps.snd (by with_reducible assumption) ?_)
    | (with_reducible refine Keeps.fold ?_ _ ?_)
    | (with_reducible refine Keeps.foldFst ?_ _ ?_)
    | split

theorem execModTimeExpire_keeps {a : State} {x0 : Fin 1028} {x1 : BitVec 16} {x2 : State} (h2 : Keeps a x2) : OKeeps a (execModTimeExpire x0 x1 x2) := by
  unfold execModTimeExpire
  try dsimp only
  repeat' first
    | with_reducible assumption
    | with_reducible apply OKeeps.next
    | exact trivial
    | with_reducible apply State.setCq_keeps
    | with_reducible apply signalVector_keeps
    | (with_reducible refine Keeps.fst (by with_reducible assumption) ?_)
    | (with_reducible refine Keeps.snd (by with_reducible assumption) ?_)
    | (with_reducible refine Keeps.fold ?_ _ ?_)
    | (with_reducible refine Keeps.foldFst ?_ _ ?_)
    | split

theorem execEventRingSignal_keeps {a : State} {x0 : Fin 4} {x1 : State} (h1 : Keeps a x1) : OKeeps a (execEventRingSignal x0 x1) := by
  unfold execEventRingSignal
  try dsimp only
  repeat' first
    | with_reducible assumption
    | with_reducible apply OKeeps.next
    | exact trivial
    | with_reducible apply signalVector_keeps
    | (with_reducible refine Keeps.fst (by with_reducible assumption) ?_)
    | (with_reducible refine Keeps.snd (by with_reducible assumption) ?_)
    | (with_reducible refine Keeps.fold ?_ _ ?_)
    | (with_reducible refine Keeps.foldFst ?_ _ ?_)
    | split
    | (with_reducible intro _)
    | fail_if_no_progress (with_reducible apply Keeps.put)

theorem sendPending_keeps {a : State} {x0 : State} {x1 : Nat} {x2 : HqeFn} (h0 : Keeps a x0) : Keeps a (sendPending x0 x1 x2) := by
  unfold sendPending
  try dsimp only
  repeat' first
    | with_reducible assumption
    | with_reducible apply State.setFn_keeps
    | (with_reducible refine Keeps.fst (by with_reducible assumption) ?_)
    | (with_reducible refine Keeps.snd (by with_reducible assumption) ?_)
    | (with_reducible refine Keeps.fold ?_ _ ?_)
    | (with_reducible refine Keeps.foldFst ?_ _ ?_)
    | split
    | (with_reducible intro _)
    | fail_if_no_progress (with_reducible apply Keeps.put)

theorem execMsixTableWrite_keeps {a : State} {x0 : Fin 1028} {x1 : BitVec 11} {x2 : Bool} {x3 : State} (h3 : Keeps a x3) : OKeeps a (execMsixTableWrite x0 x1 x2 x3) := by
  unfold execMsixTableWrite
  try dsimp only
  repeat' first
    | with_reducible assumption
    | with_reducible apply OKeeps.next
    | exact trivial
    | with_reducible apply State.setFn_keeps
    | with_reducible apply sendPending_keeps
    | (with_reducible refine Keeps.fst (by with_reducible assumption) ?_)
    | (with_reducible refine Keeps.snd (by with_reducible assumption) ?_)
    | (with_reducible refine Keeps.fold ?_ _ ?_)
    | (with_reducible refine Keeps.foldFst ?_ _ ?_)
    | split

theorem dropRings_keeps {a : State} {x0 : State} {x1 : Nat} (h0 : Keeps a x0) : Keeps a (dropRings x0 x1) := by
  unfold dropRings
  try dsimp only
  repeat' first
    | with_reducible assumption
    | with_reducible apply State.setFn_keeps
    | with_reducible apply State.setHqe_keeps

theorem enableFn_keeps {a : State} {x0 : State} {x1 : Nat} {x2 : HqeFn} (h0 : Keeps a x0) : Keeps a (enableFn x0 x1 x2) := by
  unfold enableFn
  try dsimp only
  repeat' first
    | with_reducible assumption
    | with_reducible apply State.setCq_keeps
    | with_reducible apply State.setHring_keeps
    | with_reducible apply State.takeFree_keeps
    | with_reducible apply State.setFn_keeps
    | (with_reducible refine Keeps.fst (by with_reducible assumption) ?_)
    | (with_reducible refine Keeps.snd (by with_reducible assumption) ?_)
    | (with_reducible refine Keeps.fold ?_ _ ?_)
    | (with_reducible refine Keeps.foldFst ?_ _ ?_)
    | split

theorem disableFn_keeps {a : State} {x0 : State} {x1 : Nat} (h0 : Keeps a x0) : Keeps a (disableFn x0 x1) := by
  unfold disableFn
  try dsimp only
  repeat' first
    | with_reducible assumption
    | with_reducible apply State.setFn_keeps
    | with_reducible apply dropRings_keeps

theorem writeFnCtrl_keeps {a : State} {x0 : State} {x1 : Nat} {x2 : Word} (h0 : Keeps a x0) : Keeps a (writeFnCtrl x0 x1 x2) := by
  unfold writeFnCtrl
  try dsimp only
  repeat' first
    | with_reducible assumption
    | with_reducible apply disableFn_keeps
    | with_reducible apply enableFn_keeps
    | with_reducible apply State.setFn_keeps
    | (with_reducible refine Keeps.fst (by with_reducible assumption) ?_)
    | (with_reducible refine Keeps.snd (by with_reducible assumption) ?_)
    | (with_reducible refine Keeps.fold ?_ _ ?_)
    | (with_reducible refine Keeps.foldFst ?_ _ ?_)
    | split

theorem resetFn_keeps {a : State} {x0 : State} {x1 : Nat} (h0 : Keeps a x0) : Keeps a (resetFn x0 x1) := by
  unfold resetFn
  try dsimp only
  repeat' first
    | with_reducible assumption
    | with_reducible apply State.setFn_keeps
    | with_reducible apply State.setHqe_keeps
    | with_reducible apply dropRings_keeps

theorem flrFn_keeps {a : State} {x0 : State} {x1 : Nat} (h0 : Keeps a x0) : Keeps a (flrFn x0 x1) := by
  unfold flrFn
  try dsimp only
  repeat' first
    | with_reducible assumption
    | with_reducible apply resetFn_keeps
    | (with_reducible refine Keeps.fst (by with_reducible assumption) ?_)
    | (with_reducible refine Keeps.snd (by with_reducible assumption) ?_)
    | (with_reducible refine Keeps.fold ?_ _ ?_)
    | (with_reducible refine Keeps.foldFst ?_ _ ?_)
    | split

theorem execFlr_keeps {a : State} {x0 : Fin 1028} {x1 : State} (h1 : Keeps a x1) : OKeeps a (execFlr x0 x1) := by
  unfold execFlr
  try dsimp only
  repeat' first
    | with_reducible assumption
    | with_reducible apply OKeeps.next
    | exact trivial
    | with_reducible apply flrFn_keeps
    | (with_reducible refine Keeps.fst (by with_reducible assumption) ?_)
    | (with_reducible refine Keeps.snd (by with_reducible assumption) ?_)
    | (with_reducible refine Keeps.fold ?_ _ ?_)
    | (with_reducible refine Keeps.foldFst ?_ _ ?_)
    | split

theorem resetPort_keeps {a : State} {x0 : State} {x1 : Nat} (h0 : Keeps a x0) : Keeps a (resetPort x0 x1) := by
  unfold resetPort
  try dsimp only
  repeat' first
    | with_reducible assumption
    | with_reducible apply State.setHqe_keeps
    | with_reducible apply flrFn_keeps
    | (with_reducible refine Keeps.fst (by with_reducible assumption) ?_)
    | (with_reducible refine Keeps.snd (by with_reducible assumption) ?_)
    | (with_reducible refine Keeps.fold ?_ _ ?_)
    | (with_reducible refine Keeps.foldFst ?_ _ ?_)
    | split
    | (with_reducible intro _)
    | fail_if_no_progress (with_reducible apply Keeps.put)

theorem execPcieConfigWrite_keeps {a : State} {x0 : Fin 1028} {x1 : ConfigWrite} {x2 : State} (h2 : Keeps a x2) : OKeeps a (execPcieConfigWrite x0 x1 x2) := by
  unfold execPcieConfigWrite
  try dsimp only
  repeat' first
    | with_reducible assumption
    | with_reducible apply OKeeps.next
    | exact trivial
    | with_reducible apply sendPending_keeps
    | with_reducible apply resetFn_keeps
    | with_reducible apply State.setFn_keeps
    | (with_reducible refine Keeps.fst (by with_reducible assumption) ?_)
    | (with_reducible refine Keeps.snd (by with_reducible assumption) ?_)
    | (with_reducible refine Keeps.fold ?_ _ ?_)
    | (with_reducible refine Keeps.foldFst ?_ _ ?_)
    | split

end Sys2Proof.Machine
end

