-- ==== Sys2Proof/Laws/Hbm.lean ====
section
/-! SUPPORT. What the operations of Hbm keep: the fuses, the queue and the canonical form of the stores. -/

namespace Sys2Proof.Machine

open Host

theorem srising_filter {α : Type} (f : Nat × α → Bool) : ∀ {m : SMap α} {b : Nat}, srising b m = true → srising b (m.filter f) = true
  | [], _, _ => rfl
  | (k, v) :: m, b, h => by
    simp only [srising, Bool.and_eq_true, decide_eq_true_eq] at h
    rw [List.filter_cons]
    split
    · simp only [srising, Bool.and_eq_true, decide_eq_true_eq]; exact ⟨h.1, srising_filter f h.2⟩
    · exact srising_mono (by omega) (srising_filter f h.2)

/-- Taking entries out keeps the canonical form. -/
theorem filter_wf {α : Type} [DecidableEq α] {d : α} (f : Nat × α → Bool) {m : SMap α} (h : swf d m = true) :
    swf d (m.filter f) = true := by
  simp only [swf, Bool.and_eq_true] at h ⊢
  refine ⟨?_, ?_⟩
  · rcases m with _ | ⟨⟨k, v⟩, r⟩
    · rfl
    · rw [List.filter_cons]
      have hr : srising k r = true := h.1
      split
      · exact srising_filter f hr
      · have := srising_filter f hr
        rcases hq : r.filter f with _ | ⟨⟨k2, v2⟩, r2⟩
        · rfl
        · rw [hq] at this; simp only [srising, Bool.and_eq_true] at this; exact this.2
  · rw [List.all_eq_true] at h ⊢
    exact fun x hx => h.2 x (List.mem_filter.1 hx).1

theorem refuseEntry_keeps {a : State} {x0 : State} {x1 : Nat} {x2 : HbmEntry} (h0 : Keeps a x0) : Keeps a (refuseEntry x0 x1 x2) := by
  unfold refuseEntry
  try dsimp only
  repeat' first
    | with_reducible assumption
    | with_reducible apply State.setHbmCtl_keeps
    | with_reducible apply State.count_keeps
    | (with_reducible refine Keeps.fst (by with_reducible assumption) ?_)
    | (with_reducible refine Keeps.snd (by with_reducible assumption) ?_)
    | (with_reducible refine Keeps.fold ?_ _ ?_)
    | (with_reducible refine Keeps.foldFst ?_ _ ?_)
    | split

theorem execHbmRequest_keeps {a : State} {x0 : Fin 4} {x1 : Fin 8} {x2 : BitVec 12} {x3 : BitVec 2} {x4 : BitVec 38} {x5 : BitVec 7} {x6 : List Byte} {x7 : State} (h7 : Keeps a x7) : OKeeps a (execHbmRequest x0 x1 x2 x3 x4 x5 x6 x7) := by
  unfold execHbmRequest
  try dsimp only
  repeat' first
    | with_reducible assumption
    | with_reducible apply OKeeps.next
    | exact trivial
    | with_reducible apply State.setHbmCtl_keeps
    | with_reducible apply refuseEntry_keeps
    | (with_reducible refine Keeps.fst (by with_reducible assumption) ?_)
    | (with_reducible refine Keeps.snd (by with_reducible assumption) ?_)
    | (with_reducible refine Keeps.fold ?_ _ ?_)
    | (with_reducible refine Keeps.foldFst ?_ _ ?_)
    | split

theorem noteLate_keeps {a : State} {x0 : State} {x1 : Nat} {x2 : Nat} (h0 : Keeps a x0) : Keeps a (noteLate x0 x1 x2) := by
  unfold noteLate
  try dsimp only
  repeat' first
    | with_reducible assumption
    | with_reducible apply State.setHbmCtl_keeps
    | with_reducible apply State.count_keeps
    | (with_reducible refine Keeps.fst (by with_reducible assumption) ?_)
    | (with_reducible refine Keeps.snd (by with_reducible assumption) ?_)
    | (with_reducible refine Keeps.fold ?_ _ ?_)
    | (with_reducible refine Keeps.foldFst ?_ _ ?_)
    | split

theorem execHbmTrump_keeps {a : State} {x0 : Fin 4} {x1 : BitVec 11} {x2 : State} (h2 : Keeps a x2) : OKeeps a (execHbmTrump x0 x1 x2) := by
  unfold execHbmTrump
  try dsimp only
  repeat' first
    | with_reducible assumption
    | with_reducible apply OKeeps.next
    | exact trivial
    | with_reducible apply State.setHbmCtl_keeps
    | with_reducible apply State.count_keeps
    | with_reducible apply noteLate_keeps
    | (with_reducible refine Keeps.fst (by with_reducible assumption) ?_)
    | (with_reducible refine Keeps.snd (by with_reducible assumption) ?_)
    | (with_reducible refine Keeps.fold ?_ _ ?_)
    | (with_reducible refine Keeps.foldFst ?_ _ ?_)
    | split

theorem issueEntry_keeps {a : State} {x0 : State} {x1 : Nat} {x2 : Nat} {x3 : Nat} {x4 : HbmEntry} (h0 : Keeps a x0) : Keeps a (issueEntry x0 x1 x2 x3 x4) := by
  unfold issueEntry
  try dsimp only
  repeat' first
    | with_reducible assumption
    | with_reducible apply State.setHbmCtl_keeps
    | with_reducible apply State.countN_keeps
    | with_reducible apply State.setMems_keeps
    | (with_reducible refine Keeps.fst (by with_reducible assumption) ?_)
    | (with_reducible refine Keeps.snd (by with_reducible assumption) ?_)
    | (with_reducible refine Keeps.fold ?_ _ ?_)
    | (with_reducible refine Keeps.foldFst ?_ _ ?_)
    | split
    | fail_if_no_progress (with_reducible apply Keeps.putMems)
    | with_reducible exact Memory.istore_wf (fun w => writeBytes_wf _ _ w)
    | with_reducible exact Memory.scratch_wf (fun w => writeBytes_wf _ _ w)
    | with_reducible exact Memory.shared_wf (fun w => writeBytes_wf _ _ w)
    | with_reducible exact Memory.mgmt_wf (fun w => writeBytes_wf _ _ w)
    | with_reducible exact Memory.pkt_wf (fun w => writeBytes_wf _ _ w)
    | with_reducible exact Memory.hbm_wf (fun w => writeBytes_wf _ _ w)

theorem execHbmCommandIssue_keeps {a : State} {x0 : Fin 4} {x1 : Fin 32} {x2 : State} (h2 : Keeps a x2) : OKeeps a (execHbmCommandIssue x0 x1 x2) := by
  unfold execHbmCommandIssue
  try dsimp only
  repeat' first
    | with_reducible assumption
    | with_reducible apply OKeeps.next
    | exact trivial
    | with_reducible apply noteLate_keeps
    | with_reducible apply issueEntry_keeps
    | with_reducible apply State.setHbmCtl_keeps
    | (with_reducible refine Keeps.fst (by with_reducible assumption) ?_)
    | (with_reducible refine Keeps.snd (by with_reducible assumption) ?_)
    | (with_reducible refine Keeps.fold ?_ _ ?_)
    | (with_reducible refine Keeps.foldFst ?_ _ ?_)
    | split

theorem execHbmRefresh_keeps {a : State} {x0 : Fin 4} {x1 : Fin 32} {x2 : State} (h2 : Keeps a x2) : OKeeps a (execHbmRefresh x0 x1 x2) := by
  unfold execHbmRefresh
  try dsimp only
  repeat' first
    | with_reducible assumption
    | with_reducible apply OKeeps.next
    | exact trivial
    | with_reducible apply State.setHbmCtl_keeps
    | with_reducible apply State.count_keeps
    | (with_reducible refine Keeps.fst (by with_reducible assumption) ?_)
    | (with_reducible refine Keeps.snd (by with_reducible assumption) ?_)
    | (with_reducible refine Keeps.fold ?_ _ ?_)
    | (with_reducible refine Keeps.foldFst ?_ _ ?_)
    | split

theorem execHbmTempRead_keeps {a : State} {x0 : Fin 4} {x1 : Byte} {x2 : State} (h2 : Keeps a x2) : OKeeps a (execHbmTempRead x0 x1 x2) := by
  unfold execHbmTempRead
  try dsimp only
  repeat' first
    | with_reducible assumption
    | with_reducible apply OKeeps.next
    | exact trivial
    | with_reducible apply State.logEvent_keeps
    | with_reducible apply State.setHbmCtl_keeps
    | (with_reducible refine Keeps.fst (by with_reducible assumption) ?_)
    | (with_reducible refine Keeps.snd (by with_reducible assumption) ?_)
    | (with_reducible refine Keeps.fold ?_ _ ?_)
    | (with_reducible refine Keeps.foldFst ?_ _ ?_)
    | split

theorem execHbmDriftCheck_keeps {a : State} {x0 : Fin 4} {x1 : State} (h1 : Keeps a x1) : OKeeps a (execHbmDriftCheck x0 x1) := by
  unfold execHbmDriftCheck
  try dsimp only
  repeat' first
    | with_reducible assumption
    | with_reducible apply OKeeps.next

theorem correct_keeps {a : State} {x0 : State} {x1 : Nat} {x2 : Nat} {x3 : Bool} (h0 : Keeps a x0) : Keeps a (correct x0 x1 x2 x3) := by
  unfold correct
  try dsimp only
  repeat' first
    | with_reducible assumption
    | with_reducible apply State.logEvent_keeps
    | with_reducible apply State.setHbmCtl_keeps
    | with_reducible apply State.count_keeps
    | (with_reducible refine Keeps.fst (by with_reducible assumption) ?_)
    | (with_reducible refine Keeps.snd (by with_reducible assumption) ?_)
    | (with_reducible refine Keeps.fold ?_ _ ?_)
    | (with_reducible refine Keeps.foldFst ?_ _ ?_)
    | split

theorem eraseNegative_keeps {a : State} {x0 : State} {x1 : Nat} (h0 : Keeps a x0) : Keeps a (eraseNegative x0 x1) := by
  unfold eraseNegative
  try dsimp only
  repeat' first
    | with_reducible assumption
    | with_reducible apply State.setHbmCtl_keeps
    | (with_reducible refine Keeps.fst (by with_reducible assumption) ?_)
    | (with_reducible refine Keeps.snd (by with_reducible assumption) ?_)
    | (with_reducible refine Keeps.fold ?_ _ ?_)
    | (with_reducible refine Keeps.foldFst ?_ _ ?_)
    | split
    | (with_reducible intro _)
    | fail_if_no_progress (with_reducible apply Keeps.put)

theorem freezeDevice_keeps {a : State} {x0 : State} {x1 : Nat} (h0 : Keeps a x0) : Keeps a (freezeDevice x0 x1) := by
  unfold freezeDevice
  try dsimp only
  repeat' first
    | with_reducible assumption
    | with_reducible apply signalVector_keeps
    | with_reducible apply traysFreeze_keeps
    | with_reducible apply dlrFreeze_keeps
    | with_reducible apply swtFreeze_keeps
    | (with_reducible refine Keeps.fst (by with_reducible assumption) ?_)
    | (with_reducible refine Keeps.snd (by with_reducible assumption) ?_)
    | (with_reducible refine Keeps.fold ?_ _ ?_)
    | (with_reducible refine Keeps.foldFst ?_ _ ?_)
    | split
    | (with_reducible intro _)
    | fail_if_no_progress (with_reducible apply Keeps.put)

theorem freezeCtl_keeps {a : State} {x0 : State} {x1 : Nat} {x2 : HbmFailure} (h0 : Keeps a x0) : Keeps a (freezeCtl x0 x1 x2) := by
  unfold freezeCtl
  try dsimp only
  repeat' first
    | with_reducible assumption
    | with_reducible apply State.logEvent_keeps
    | with_reducible apply freezeDevice_keeps
    | with_reducible apply State.setHbmCtl_keeps
    | with_reducible apply refuseEntry_keeps
    | with_reducible apply State.count_keeps
    | (with_reducible refine Keeps.fst (by with_reducible assumption) ?_)
    | (with_reducible refine Keeps.snd (by with_reducible assumption) ?_)
    | (with_reducible refine Keeps.fold ?_ _ ?_)
    | (with_reducible refine Keeps.foldFst ?_ _ ?_)
    | split
    | (with_reducible intro _)
    | fail_if_no_progress (with_reducible apply Keeps.put)

theorem execHbmFreeze_keeps {a : State} {x0 : Fin 4} {x1 : BitVec 8} {x2 : BitVec 38} {x3 : BitVec 3} {x4 : BitVec 12} {x5 : Word} {x6 : List Byte} {x7 : Byte} {x8 : State} (h8 : Keeps a x8) : OKeeps a (execHbmFreeze x0 x1 x2 x3 x4 x5 x6 x7 x8) := by
  unfold execHbmFreeze
  try dsimp only
  repeat' first
    | with_reducible assumption
    | with_reducible apply OKeeps.next
    | exact trivial
    | with_reducible apply freezeCtl_keeps
    | (with_reducible refine Keeps.fst (by with_reducible assumption) ?_)
    | (with_reducible refine Keeps.snd (by with_reducible assumption) ?_)
    | (with_reducible refine Keeps.fold ?_ _ ?_)
    | (with_reducible refine Keeps.foldFst ?_ _ ?_)
    | split

theorem openFailure_keeps {a : State} {x0 : State} {x1 : Nat} {x2 : Nat} {x3 : Nat} {x4 : Nat} (h0 : Keeps a x0) : Keeps a (openFailure x0 x1 x2 x3 x4).1 := by
  unfold openFailure
  try dsimp only
  repeat' first
    | with_reducible assumption
    | with_reducible apply State.takeFree_keeps

theorem execHbmReadReturn_keeps {a : State} {x0 : Fin 4} {x1 : BitVec 11} {x2 : Ecc} {x3 : Bool} {x4 : State} (h4 : Keeps a x4) : OKeeps a (execHbmReadReturn x0 x1 x2 x3 x4) := by
  unfold execHbmReadReturn
  try dsimp only
  repeat' first
    | with_reducible assumption
    | with_reducible apply OKeeps.next
    | exact trivial
    | with_reducible apply correct_keeps
    | with_reducible apply State.setHbmCtl_keeps
    | with_reducible apply noteLate_keeps
    | with_reducible apply freezeCtl_keeps
    | with_reducible apply openFailure_keeps
    | (with_reducible refine Keeps.fst (by with_reducible assumption) ?_)
    | (with_reducible refine Keeps.snd (by with_reducible assumption) ?_)
    | (with_reducible refine Keeps.fold ?_ _ ?_)
    | (with_reducible refine Keeps.foldFst ?_ _ ?_)
    | split

theorem execHbmTrainDone_keeps {a : State} {x0 : Fin 4} {x1 : Bool} {x2 : Byte} {x3 : State} (h3 : Keeps a x3) : OKeeps a (execHbmTrainDone x0 x1 x2 x3) := by
  unfold execHbmTrainDone
  dsimp only
  split
  · exact OKeeps.next h3
  · split
    · refine OKeeps.next (State.setHbmCtl_keeps (State.setMems_keeps (Memory.hbm_wf fun w => ?_) h3))
      exact filter_wf _ w
    · split
      · exact OKeeps.next (State.setHbmCtl_keeps h3)
      · exact OKeeps.next (freezeCtl_keeps (openFailure_keeps (State.takeFree_keeps h3)))

theorem execHbmScrub_keeps {a : State} {x0 : Fin 4} {x1 : Ecc} {x2 : State} (h2 : Keeps a x2) : OKeeps a (execHbmScrub x0 x1 x2) := by
  unfold execHbmScrub
  try dsimp only
  repeat' first
    | with_reducible assumption
    | with_reducible apply OKeeps.next
    | exact trivial
    | with_reducible apply freezeCtl_keeps
    | with_reducible apply openFailure_keeps
    | with_reducible apply State.takeFree_keeps
    | with_reducible apply correct_keeps
    | with_reducible apply State.setHbmCtl_keeps
    | with_reducible apply State.count_keeps
    | (with_reducible refine Keeps.fst (by with_reducible assumption) ?_)
    | (with_reducible refine Keeps.snd (by with_reducible assumption) ?_)
    | (with_reducible refine Keeps.fold ?_ _ ?_)
    | (with_reducible refine Keeps.foldFst ?_ _ ?_)
    | split

end Sys2Proof.Machine
end

