-- ==== Sys2Proof/Laws/RingTransit.lean ====
section
/-! SUPPORT. What the operations of RingTransit keep: the fuses, the queue and the canonical form of the stores. -/

namespace Sys2Proof.Machine

open Host

theorem startFrame_keeps {a : State} {x0 : State} {x1 : Nat} {x2 : RFrame} {x3 : Option Sending} (h0 : Keeps a x0) : Keeps a (startFrame x0 x1 x2 x3) := by
  unfold startFrame
  try dsimp only
  repeat' first
    | with_reducible assumption
    | with_reducible apply State.setRport_keeps

theorem sendStored_keeps {a : State} {x0 : State} {x1 : Nat} {x2 : RFrame} (h0 : Keeps a x0) : Keeps a (sendStored x0 x1 x2) := by
  unfold sendStored
  try dsimp only
  repeat' first
    | with_reducible assumption
    | with_reducible apply State.count_keeps
    | with_reducible apply freeBlocks_keeps
    | with_reducible apply startFrame_keeps
    | (with_reducible refine Keeps.fst (by with_reducible assumption) ?_)
    | (with_reducible refine Keeps.snd (by with_reducible assumption) ?_)
    | (with_reducible refine Keeps.fold ?_ _ ?_)
    | (with_reducible refine Keeps.foldFst ?_ _ ?_)
    | split
    | (with_reducible intro _)
    | fail_if_no_progress (with_reducible apply Keeps.put)

theorem heardGood_keeps {a : State} {x0 : State} {x1 : Nat} (h0 : Keeps a x0) : Keeps a (heardGood x0 x1) := by
  unfold heardGood
  try dsimp only
  repeat' first
    | with_reducible assumption
    | with_reducible apply State.setRport_keeps

theorem finishRx_keeps {a : State} {x0 : State} {x1 : Nat} {x2 : RxFrame} (h0 : Keeps a x0) : Keeps a (finishRx x0 x1 x2) := by
  unfold finishRx
  try dsimp only
  repeat' first
    | with_reducible assumption
    | with_reducible apply State.setRport_keeps

theorem stompOutput_keeps {a : State} {x0 : State} {x1 : Nat} {x2 : RxFrame} {x3 : Nat} (h0 : Keeps a x0) : Keeps a (stompOutput x0 x1 x2 x3) := by
  unfold stompOutput
  try dsimp only
  repeat' first
    | with_reducible assumption
    | with_reducible apply endSending_keeps
    | with_reducible apply State.count_keeps
    | with_reducible apply State.setRport_keeps
    | with_reducible apply State.takeFree_keeps
    | (with_reducible refine Keeps.fst (by with_reducible assumption) ?_)
    | (with_reducible refine Keeps.snd (by with_reducible assumption) ?_)
    | (with_reducible refine Keeps.fold ?_ _ ?_)
    | (with_reducible refine Keeps.foldFst ?_ _ ?_)
    | split

theorem abortRx_keeps {a : State} {x0 : State} {x1 : Nat} {x2 : Nat} (h0 : Keeps a x0) : Keeps a (abortRx x0 x1 x2) := by
  unfold abortRx
  try dsimp only
  repeat' first
    | with_reducible assumption
    | with_reducible apply State.setRing_keeps
    | with_reducible apply State.count_keeps
    | with_reducible apply State.takeFree_keeps
    | with_reducible apply stompOutput_keeps
    | with_reducible apply freeBlocks_keeps
    | with_reducible apply State.setRport_keeps
    | (with_reducible refine Keeps.fst (by with_reducible assumption) ?_)
    | (with_reducible refine Keeps.snd (by with_reducible assumption) ?_)
    | (with_reducible refine Keeps.fold ?_ _ ?_)
    | (with_reducible refine Keeps.foldFst ?_ _ ?_)
    | split

theorem breakFrame_keeps {a : State} {x0 : State} {x1 : Nat} (h0 : Keeps a x0) : Keeps a (breakFrame x0 x1) := by
  unfold breakFrame
  try dsimp only
  repeat' first
    | with_reducible assumption
    | with_reducible apply State.setRport_keeps
    | with_reducible apply abortRx_keeps
    | with_reducible apply State.takeFree_keeps
    | (with_reducible refine Keeps.fst (by with_reducible assumption) ?_)
    | (with_reducible refine Keeps.snd (by with_reducible assumption) ?_)
    | (with_reducible refine Keeps.fold ?_ _ ?_)
    | (with_reducible refine Keeps.foldFst ?_ _ ?_)
    | split

theorem discardAtSof_keeps {a : State} {x0 : State} {x1 : Nat} {x2 : RxFrame} (h0 : Keeps a x0) : Keeps a (discardAtSof x0 x1 x2) := by
  unfold discardAtSof
  try dsimp only
  repeat' first
    | with_reducible assumption
    | with_reducible apply freeBlocks_keeps
    | with_reducible apply finishRx_keeps

theorem routeFrame_keeps {a : State} {x0 : State} {x1 : Nat} {x2 : RxFrame} (h0 : Keeps a x0) : Keeps a (routeFrame x0 x1 x2) := by
  unfold routeFrame
  try dsimp only
  repeat' first
    | with_reducible assumption
    | with_reducible apply State.setRport_keeps
    | with_reducible apply startFrame_keeps
    | with_reducible apply State.count_keeps
    | with_reducible apply unreachable_keeps
    | with_reducible apply finishRx_keeps
    | (with_reducible refine Keeps.fst (by with_reducible assumption) ?_)
    | (with_reducible refine Keeps.snd (by with_reducible assumption) ?_)
    | (with_reducible refine Keeps.fold ?_ _ ?_)
    | (with_reducible refine Keeps.foldFst ?_ _ ?_)
    | split

theorem sofChecks_keeps {a : State} {x0 : State} {x1 : Nat} {x2 : RxFrame} {x3 : BitVec 128} (h0 : Keeps a x0) : Keeps a (sofChecks x0 x1 x2 x3) := by
  unfold sofChecks
  try dsimp only
  repeat' first
    | with_reducible assumption
    | with_reducible apply routeFrame_keeps
    | with_reducible apply State.setRport_keeps
    | with_reducible apply unreachable_keeps
    | with_reducible apply finishRx_keeps
    | with_reducible apply discardAtSof_keeps
    | with_reducible apply State.count_keeps
    | (with_reducible refine Keeps.fst (by with_reducible assumption) ?_)
    | (with_reducible refine Keeps.snd (by with_reducible assumption) ?_)
    | (with_reducible refine Keeps.fold ?_ _ ?_)
    | (with_reducible refine Keeps.foldFst ?_ _ ?_)
    | split

theorem execSof_keeps {a : State} {x0 : Fin 4} {x1 : Byte} {x2 : BitVec 128} {x3 : BitVec 16} {x4 : State} (h4 : Keeps a x4) : OKeeps a (execSof x0 x1 x2 x3 x4) := by
  unfold execSof
  try dsimp only
  repeat' first
    | with_reducible assumption
    | with_reducible apply OKeeps.next
    | exact trivial
    | with_reducible apply State.setRport_keeps
    | with_reducible apply sofChecks_keeps
    | with_reducible apply heardGood_keeps
    | with_reducible apply breakFrame_keeps
    | (with_reducible refine Keeps.fst (by with_reducible assumption) ?_)
    | (with_reducible refine Keeps.snd (by with_reducible assumption) ?_)
    | (with_reducible refine Keeps.fold ?_ _ ?_)
    | (with_reducible refine Keeps.foldFst ?_ _ ?_)
    | split

theorem countStomp_keeps {a : State} {x0 : State} {x1 : Nat} {x2 : TrailerKind} (h0 : Keeps a x0) : Keeps a (countStomp x0 x1 x2) := by
  unfold countStomp
  try dsimp only
  repeat' first
    | with_reducible assumption
    | with_reducible apply State.count_keeps
    | (with_reducible refine Keeps.fst (by with_reducible assumption) ?_)
    | (with_reducible refine Keeps.snd (by with_reducible assumption) ?_)
    | (with_reducible refine Keeps.fold ?_ _ ?_)
    | (with_reducible refine Keeps.foldFst ?_ _ ?_)
    | split

theorem execTransitTrailer_keeps {a : State} {x0 : Fin 4} {x1 : List Byte} {x2 : State} (h2 : Keeps a x2) : OKeeps a (execTransitTrailer x0 x1 x2) := by
  unfold execTransitTrailer
  try dsimp only
  repeat' first
    | with_reducible assumption
    | with_reducible apply OKeeps.next
    | exact trivial
    | with_reducible apply State.setRing_keeps
    | with_reducible apply freeBlocks_keeps
    | with_reducible apply endSending_keeps
    | with_reducible apply countStomp_keeps
    | with_reducible apply finishRx_keeps
    | with_reducible apply heardGood_keeps
    | (with_reducible refine Keeps.fst (by with_reducible assumption) ?_)
    | (with_reducible refine Keeps.snd (by with_reducible assumption) ?_)
    | (with_reducible refine Keeps.fold ?_ _ ?_)
    | (with_reducible refine Keeps.foldFst ?_ _ ?_)
    | split

theorem execRingUnderrun_keeps {a : State} {x0 : Fin 4} {x1 : State} (h1 : Keeps a x1) : OKeeps a (execRingUnderrun x0 x1) := by
  unfold execRingUnderrun
  try dsimp only
  repeat' first
    | with_reducible assumption
    | with_reducible apply OKeeps.next
    | exact trivial
    | with_reducible apply State.setRport_keeps
    | with_reducible apply stompOutput_keeps
    | (with_reducible refine Keeps.fst (by with_reducible assumption) ?_)
    | (with_reducible refine Keeps.snd (by with_reducible assumption) ?_)
    | (with_reducible refine Keeps.fold ?_ _ ?_)
    | (with_reducible refine Keeps.foldFst ?_ _ ?_)
    | split

theorem admitRing_keeps {a : State} {x0 : State} {x1 : Nat} {x2 : RxFrame} (h0 : Keeps a x0) : Keeps a (admitRing x0 x1 x2) := by
  unfold admitRing
  try dsimp only
  repeat' first
    | with_reducible assumption
    | with_reducible apply State.count_keeps
    | with_reducible apply offerLoupe_keeps
    | with_reducible apply freeBlocks_keeps
    | with_reducible apply admitPacket_keeps
    | (with_reducible refine Keeps.fst (by with_reducible assumption) ?_)
    | (with_reducible refine Keeps.snd (by with_reducible assumption) ?_)
    | (with_reducible refine Keeps.fold ?_ _ ?_)
    | (with_reducible refine Keeps.foldFst ?_ _ ?_)
    | split

theorem terminateData_keeps {a : State} {x0 : State} {x1 : Nat} {x2 : RxFrame} (h0 : Keeps a x0) : Keeps a (terminateData x0 x1 x2) := by
  unfold terminateData
  try dsimp only
  repeat' first
    | with_reducible assumption
    | with_reducible apply admitRing_keeps
    | with_reducible apply State.setRport_keeps
    | with_reducible apply reportDiscard_keeps
    | with_reducible apply State.count_keeps
    | with_reducible apply freeBlocks_keeps
    | (with_reducible refine Keeps.fst (by with_reducible assumption) ?_)
    | (with_reducible refine Keeps.snd (by with_reducible assumption) ?_)
    | (with_reducible refine Keeps.fold ?_ _ ?_)
    | (with_reducible refine Keeps.foldFst ?_ _ ?_)
    | split

theorem takeWhole_keeps {a : State} {x0 : State} {x1 : Nat} {x2 : Nat} {x3 : List Byte} (h0 : Keeps a x0) : Keeps a (takeWhole x0 x1 x2 x3).1 := by
  unfold takeWhole
  try dsimp only
  repeat' first
    | with_reducible assumption
    | with_reducible apply freeBlocks_keeps
    | with_reducible apply State.count_keeps
    | with_reducible apply heardGood_keeps
    | with_reducible apply finishRx_keeps
    | (with_reducible refine Keeps.fst (by with_reducible assumption) ?_)
    | (with_reducible refine Keeps.snd (by with_reducible assumption) ?_)
    | (with_reducible refine Keeps.fold ?_ _ ?_)
    | (with_reducible refine Keeps.foldFst ?_ _ ?_)
    | split

theorem execRingTerminate_keeps {a : State} {x0 : Fin 4} {x1 : Option (List Byte)} {x2 : State} (h2 : Keeps a x2) : OKeeps a (execRingTerminate x0 x1 x2) := by
  unfold execRingTerminate
  try dsimp only
  repeat' first
    | with_reducible assumption
    | with_reducible apply OKeeps.next
    | exact trivial
    | with_reducible apply State.setRport_keeps
    | with_reducible apply terminateData_keeps
    | with_reducible apply takeWhole_keeps
    | (with_reducible refine Keeps.fst (by with_reducible assumption) ?_)
    | (with_reducible refine Keeps.snd (by with_reducible assumption) ?_)
    | (with_reducible refine Keeps.fold ?_ _ ?_)
    | (with_reducible refine Keeps.foldFst ?_ _ ?_)
    | split

theorem execCtrlFrame_keeps {a : State} {x0 : Fin 4} {x1 : List Byte} {x2 : State} (h2 : Keeps a x2) : OKeeps a (execCtrlFrame x0 x1 x2) := by
  unfold execCtrlFrame
  try dsimp only
  repeat' first
    | with_reducible assumption
    | with_reducible apply OKeeps.next
    | exact trivial
    | with_reducible apply freeBlocks_keeps
    | with_reducible apply hearCtrl_keeps
    | with_reducible apply takeWhole_keeps
    | (with_reducible refine Keeps.fst (by with_reducible assumption) ?_)
    | (with_reducible refine Keeps.snd (by with_reducible assumption) ?_)
    | (with_reducible refine Keeps.fold ?_ _ ?_)
    | (with_reducible refine Keeps.foldFst ?_ _ ?_)
    | split

theorem dropTtl_keeps {a : State} {x0 : State} {x1 : RFrame} (h0 : Keeps a x0) : Keeps a (dropTtl x0 x1) := by
  unfold dropTtl
  try dsimp only
  repeat' first
    | with_reducible assumption
    | with_reducible apply freeBlocks_keeps
    | with_reducible apply State.count_keeps

theorem selectFrame_keeps {a : State} {x0 : Nat} {x1 : Nat} {x2 : State} (h2 : Keeps a x2) : Keeps a (selectFrame x0 x1 x2) := by
  induction x1 generalizing x2 with
  | zero => exact h2
  | succ n ih =>
    unfold selectFrame
    dsimp only
    repeat' first
      | with_reducible assumption
      | with_reducible apply ih
      | with_reducible apply startFrame_keeps
      | with_reducible apply sendStored_keeps
      | with_reducible apply dropTtl_keeps
      | with_reducible apply State.setRport_keeps
      | with_reducible apply State.setRing_keeps
      | split

theorem flushAnswers_keeps {a : State} {x0 : State} (h0 : Keeps a x0) : Keeps a (flushAnswers x0) := by
  unfold flushAnswers
  try dsimp only
  repeat' first
    | with_reducible assumption
    | with_reducible apply State.setRing_keeps
    | with_reducible apply queueOwn_keeps
    | (with_reducible refine Keeps.fst (by with_reducible assumption) ?_)
    | (with_reducible refine Keeps.snd (by with_reducible assumption) ?_)
    | (with_reducible refine Keeps.fold ?_ _ ?_)
    | (with_reducible refine Keeps.foldFst ?_ _ ?_)
    | split
    | (with_reducible intro _)

theorem execRingOutputSelect_keeps {a : State} {x0 : Fin 4} {x1 : State} (h1 : Keeps a x1) : OKeeps a (execRingOutputSelect x0 x1) := by
  unfold execRingOutputSelect
  try dsimp only
  repeat' first
    | with_reducible assumption
    | with_reducible apply OKeeps.next
    | exact trivial
    | with_reducible apply selectFrame_keeps
    | with_reducible apply flushAnswers_keeps

theorem execTransitTtlRecheck_keeps {a : State} {x0 : State} (h0 : Keeps a x0) : OKeeps a (execTransitTtlRecheck x0) := by
  unfold execTransitTtlRecheck
  try dsimp only
  repeat' first
    | with_reducible assumption
    | with_reducible apply OKeeps.next
    | exact trivial
    | with_reducible apply State.setRing_keeps
    | with_reducible apply dropTtl_keeps
    | (with_reducible refine Keeps.fst (by with_reducible assumption) ?_)
    | (with_reducible refine Keeps.snd (by with_reducible assumption) ?_)
    | (with_reducible refine Keeps.fold ?_ _ ?_)

theorem execCtrlGapExpire_keeps {a : State} {x0 : BitVec 14} {x1 : State} (h1 : Keeps a x1) : OKeeps a (execCtrlGapExpire x0 x1) := by
  unfold execCtrlGapExpire
  try dsimp only
  repeat' first
    | with_reducible assumption
    | with_reducible apply OKeeps.next
    | exact trivial
    | with_reducible apply queueOwn_keeps
    | with_reducible apply hearCtrl_keeps
    | with_reducible apply State.setRing_keeps
    | (with_reducible refine Keeps.fst (by with_reducible assumption) ?_)
    | (with_reducible refine Keeps.snd (by with_reducible assumption) ?_)
    | (with_reducible refine Keeps.fold ?_ _ ?_)
    | (with_reducible refine Keeps.foldFst ?_ _ ?_)
    | split

end Sys2Proof.Machine
end

