-- ==== Sys2Proof/Laws/RingLink.lean ====
section
/-! SUPPORT. What the operations of RingLink keep: the fuses, the queue and the canonical form of the stores. -/

namespace Sys2Proof.Machine

open Host

theorem sendWord_keeps {a : State} {x0 : State} {x1 : Nat} {x2 : BitVec 144} (h0 : Keeps a x0) : Keeps a (sendWord x0 x1 x2) := by
  unfold sendWord
  try dsimp only
  repeat' first
    | with_reducible assumption
    | (with_reducible refine Keeps.fst (by with_reducible assumption) ?_)
    | (with_reducible refine Keeps.snd (by with_reducible assumption) ?_)
    | (with_reducible refine Keeps.fold ?_ _ ?_)
    | (with_reducible refine Keeps.foldFst ?_ _ ?_)
    | split
    | (with_reducible intro _)
    | fail_if_no_progress (with_reducible apply Keeps.put)

theorem sendIdle_keeps {a : State} {x0 : State} {x1 : Nat} (h0 : Keeps a x0) : Keeps a (sendIdle x0 x1) := by
  unfold sendIdle
  try dsimp only
  repeat' first
    | with_reducible assumption
    | with_reducible apply sendWord_keeps
    | with_reducible apply State.setRport_keeps

theorem sendNak_keeps {a : State} {x0 : State} {x1 : Nat} (h0 : Keeps a x0) : Keeps a (sendNak x0 x1) := by
  unfold sendNak
  try dsimp only
  repeat' first
    | with_reducible assumption
    | with_reducible apply State.setRport_keeps
    | with_reducible apply sendWord_keeps
    | with_reducible apply State.count_keeps

theorem sendCredits_keeps {a : State} {x0 : State} {x1 : Nat} (h0 : Keeps a x0) : Keeps a (sendCredits x0 x1) := by
  unfold sendCredits
  try dsimp only
  repeat' first
    | with_reducible assumption
    | with_reducible apply sendWord_keeps
    | with_reducible apply State.setRport_keeps
    | (with_reducible refine Keeps.fst (by with_reducible assumption) ?_)
    | (with_reducible refine Keeps.snd (by with_reducible assumption) ?_)
    | (with_reducible refine Keeps.fold ?_ _ ?_)
    | (with_reducible refine Keeps.foldFst ?_ _ ?_)
    | split
    | (with_reducible intro _)

theorem execWmIdleSend_keeps {a : State} {x0 : Fin 4} {x1 : State} (h1 : Keeps a x1) : OKeeps a (execWmIdleSend x0 x1) := by
  unfold execWmIdleSend
  try dsimp only
  repeat' first
    | with_reducible assumption
    | with_reducible apply OKeeps.next
    | exact trivial
    | with_reducible apply sendIdle_keeps
    | (with_reducible refine Keeps.fst (by with_reducible assumption) ?_)
    | (with_reducible refine Keeps.snd (by with_reducible assumption) ?_)
    | (with_reducible refine Keeps.fold ?_ _ ?_)
    | (with_reducible refine Keeps.foldFst ?_ _ ?_)
    | split

theorem execAckSend_keeps {a : State} {x0 : Fin 4} {x1 : State} (h1 : Keeps a x1) : OKeeps a (execAckSend x0 x1) := by
  unfold execAckSend
  try dsimp only
  repeat' first
    | with_reducible assumption
    | with_reducible apply OKeeps.next
    | exact trivial
    | with_reducible apply sendIdle_keeps
    | (with_reducible refine Keeps.fst (by with_reducible assumption) ?_)
    | (with_reducible refine Keeps.snd (by with_reducible assumption) ?_)
    | (with_reducible refine Keeps.fold ?_ _ ?_)
    | (with_reducible refine Keeps.foldFst ?_ _ ?_)
    | split

theorem execCreditReport_keeps {a : State} {x0 : Fin 4} {x1 : State} (h1 : Keeps a x1) : OKeeps a (execCreditReport x0 x1) := by
  unfold execCreditReport
  try dsimp only
  repeat' first
    | with_reducible assumption
    | with_reducible apply OKeeps.next
    | exact trivial
    | with_reducible apply sendCredits_keeps
    | (with_reducible refine Keeps.fst (by with_reducible assumption) ?_)
    | (with_reducible refine Keeps.snd (by with_reducible assumption) ?_)
    | (with_reducible refine Keeps.fold ?_ _ ?_)
    | (with_reducible refine Keeps.foldFst ?_ _ ?_)
    | split

theorem execNakRepeat_keeps {a : State} {x0 : Fin 4} {x1 : State} (h1 : Keeps a x1) : OKeeps a (execNakRepeat x0 x1) := by
  unfold execNakRepeat
  try dsimp only
  repeat' first
    | with_reducible assumption
    | with_reducible apply OKeeps.next
    | exact trivial
    | with_reducible apply sendNak_keeps
    | (with_reducible refine Keeps.fst (by with_reducible assumption) ?_)
    | (with_reducible refine Keeps.snd (by with_reducible assumption) ?_)
    | (with_reducible refine Keeps.fold ?_ _ ?_)
    | (with_reducible refine Keeps.foldFst ?_ _ ?_)
    | split

theorem enterHold_keeps {a : State} {x0 : State} {x1 : Nat} (h0 : Keeps a x0) : Keeps a (enterHold x0 x1) := by
  unfold enterHold
  try dsimp only
  repeat' first
    | with_reducible assumption
    | with_reducible apply State.logEvent_keeps
    | with_reducible apply State.count_keeps
    | with_reducible apply abortRx_keeps
    | with_reducible apply State.setRport_keeps
    | (with_reducible refine Keeps.fst (by with_reducible assumption) ?_)
    | (with_reducible refine Keeps.snd (by with_reducible assumption) ?_)
    | (with_reducible refine Keeps.fold ?_ _ ?_)
    | (with_reducible refine Keeps.foldFst ?_ _ ?_)
    | split

theorem rerouteFrame_keeps {a : State} {x0 : State} {x1 : RFrame} (h0 : Keeps a x0) : Keeps a (rerouteFrame x0 x1) := by
  unfold rerouteFrame
  try dsimp only
  repeat' first
    | with_reducible assumption
    | with_reducible apply unreachable_keeps
    | with_reducible apply State.setRing_keeps
    | with_reducible apply State.count_keeps
    | (with_reducible refine Keeps.fst (by with_reducible assumption) ?_)
    | (with_reducible refine Keeps.snd (by with_reducible assumption) ?_)
    | (with_reducible refine Keeps.fold ?_ _ ?_)
    | (with_reducible refine Keeps.foldFst ?_ _ ?_)
    | split

theorem rerouteArriving_keeps {a : State} {x0 : State} {x1 : Nat} (h0 : Keeps a x0) : Keeps a (rerouteArriving x0 x1) := by
  unfold rerouteArriving
  try dsimp only
  repeat' first
    | with_reducible assumption
    | with_reducible apply reportDiscard_keeps
    | with_reducible apply State.setRport_keeps
    | with_reducible apply State.count_keeps
    | (with_reducible refine Keeps.fst (by with_reducible assumption) ?_)
    | (with_reducible refine Keeps.snd (by with_reducible assumption) ?_)
    | (with_reducible refine Keeps.fold ?_ _ ?_)
    | (with_reducible refine Keeps.foldFst ?_ _ ?_)
    | split

theorem rerouteOwn_keeps {a : State} {x0 : State} {x1 : Nat} {x2 : RFrame} (h0 : Keeps a x0) : Keeps a (rerouteOwn x0 x1 x2) := by
  unfold rerouteOwn
  try dsimp only
  repeat' first
    | with_reducible assumption
    | with_reducible apply rerouteFrame_keeps
    | with_reducible apply finishCopy_keeps
    | (with_reducible refine Keeps.fst (by with_reducible assumption) ?_)
    | (with_reducible refine Keeps.snd (by with_reducible assumption) ?_)
    | (with_reducible refine Keeps.fold ?_ _ ?_)
    | (with_reducible refine Keeps.foldFst ?_ _ ?_)
    | split

theorem rerouteAll_keeps {a : State} {x0 : State} {x1 : Nat} (h0 : Keeps a x0) : Keeps a (rerouteAll x0 x1) := by
  unfold rerouteAll
  try dsimp only
  repeat' first
    | with_reducible assumption
    | with_reducible apply rerouteArriving_keeps
    | with_reducible apply rerouteOwn_keeps
    | with_reducible apply rerouteFrame_keeps
    | with_reducible apply State.setRing_keeps
    | with_reducible apply State.setRport_keeps
    | (with_reducible refine Keeps.fst (by with_reducible assumption) ?_)
    | (with_reducible refine Keeps.snd (by with_reducible assumption) ?_)
    | (with_reducible refine Keeps.fold ?_ _ ?_)
    | (with_reducible refine Keeps.foldFst ?_ _ ?_)
    | split
    | (with_reducible intro _)

theorem declareDown_keeps {a : State} {x0 : State} {x1 : Nat} (h0 : Keeps a x0) : Keeps a (declareDown x0 x1) := by
  unfold declareDown
  try dsimp only
  repeat' first
    | with_reducible assumption
    | with_reducible apply State.logEvent_keeps
    | with_reducible apply rerouteAll_keeps
    | with_reducible apply State.setRport_keeps

theorem execLinkHoldExpire_keeps {a : State} {x0 : Fin 4} {x1 : State} (h1 : Keeps a x1) : OKeeps a (execLinkHoldExpire x0 x1) := by
  unfold execLinkHoldExpire
  try dsimp only
  repeat' first
    | with_reducible assumption
    | with_reducible apply OKeeps.next
    | exact trivial
    | with_reducible apply declareDown_keeps
    | (with_reducible refine Keeps.fst (by with_reducible assumption) ?_)
    | (with_reducible refine Keeps.snd (by with_reducible assumption) ?_)
    | (with_reducible refine Keeps.fold ?_ _ ?_)
    | (with_reducible refine Keeps.foldFst ?_ _ ?_)
    | split

theorem execLinkLockLoss_keeps {a : State} {x0 : Fin 4} {x1 : State} (h1 : Keeps a x1) : OKeeps a (execLinkLockLoss x0 x1) := by
  unfold execLinkLockLoss
  try dsimp only
  repeat' first
    | with_reducible assumption
    | with_reducible apply OKeeps.next
    | exact trivial
    | with_reducible apply enterHold_keeps

theorem portToPass_keeps {a : State} {x0 : State} {x1 : Nat} (h0 : Keeps a x0) : Keeps a (portToPass x0 x1) := by
  unfold portToPass
  try dsimp only
  repeat' first
    | with_reducible assumption
    | with_reducible apply State.setRport_keeps
    | with_reducible apply abortRx_keeps

theorem releaseDie_keeps {a : State} {x0 : State} {x1 : Nat} (h0 : Keeps a x0) : Keeps a (releaseDie x0 x1) := by
  unfold releaseDie
  try dsimp only
  repeat' first
    | with_reducible assumption
    | with_reducible apply portToPass_keeps
    | with_reducible apply rerouteAll_keeps
    | with_reducible apply State.setDie_keeps

theorem spliceFails_keeps {a : State} {x0 : State} {x1 : Nat} {x2 : Nat} (h0 : Keeps a x0) : Keeps a (spliceFails x0 x1 x2) := by
  unfold spliceFails
  try dsimp only
  repeat' first
    | with_reducible assumption
    | with_reducible apply State.logEvent_keeps
    | with_reducible apply releaseDie_keeps
    | with_reducible apply State.count_keeps

theorem splice_keeps {a : State} {x0 : State} {x1 : Nat} (h0 : Keeps a x0) : Keeps a (splice x0 x1).1 := by
  unfold splice
  try dsimp only
  repeat' first
    | with_reducible assumption
    | with_reducible apply State.setDie_keeps
    | (with_reducible refine Keeps.fst (by with_reducible assumption) ?_)
    | (with_reducible refine Keeps.snd (by with_reducible assumption) ?_)
    | (with_reducible refine Keeps.fold ?_ _ ?_)
    | (with_reducible refine Keeps.foldFst ?_ _ ?_)
    | split

theorem autoSplice_keeps {a : State} {x0 : State} (h0 : Keeps a x0) : Keeps a (autoSplice x0) := by
  unfold autoSplice
  try dsimp only
  repeat' first
    | with_reducible assumption
    | with_reducible apply splice_keeps
    | (with_reducible refine Keeps.fst (by with_reducible assumption) ?_)
    | (with_reducible refine Keeps.snd (by with_reducible assumption) ?_)
    | (with_reducible refine Keeps.fold ?_ _ ?_)
    | (with_reducible refine Keeps.foldFst ?_ _ ?_)
    | split

theorem sendLeave_keeps {a : State} {x0 : State} {x1 : Nat} (h0 : Keeps a x0) : Keeps a (sendLeave x0 x1) := by
  unfold sendLeave
  try dsimp only
  repeat' first
    | with_reducible assumption
    | with_reducible apply State.setRport_keeps
    | with_reducible apply sendWord_keeps
    | (with_reducible refine Keeps.fst (by with_reducible assumption) ?_)
    | (with_reducible refine Keeps.snd (by with_reducible assumption) ?_)
    | (with_reducible refine Keeps.fold ?_ _ ?_)
    | (with_reducible refine Keeps.foldFst ?_ _ ?_)
    | split

theorem leaveRing_keeps {a : State} {x0 : State} {x1 : Nat} (h0 : Keeps a x0) : Keeps a (leaveRing x0 x1).1 := by
  unfold leaveRing
  try dsimp only
  repeat' first
    | with_reducible assumption
    | with_reducible apply State.setDie_keeps
    | with_reducible apply sendLeave_keeps
    | (with_reducible refine Keeps.fst (by with_reducible assumption) ?_)
    | (with_reducible refine Keeps.snd (by with_reducible assumption) ?_)
    | (with_reducible refine Keeps.fold ?_ _ ?_)
    | (with_reducible refine Keeps.foldFst ?_ _ ?_)
    | split

theorem passEvent_keeps {a : State} {x0 : State} {x1 : Nat} (h0 : Keeps a x0) : Keeps a (passEvent x0 x1) := by
  unfold passEvent
  try dsimp only
  repeat' first
    | with_reducible assumption
    | with_reducible apply releaseDie_keeps
    | with_reducible apply State.logEvent_keeps

theorem passRing_keeps {a : State} {x0 : State} {x1 : Nat} (h0 : Keeps a x0) : Keeps a (passRing x0 x1).1 := by
  unfold passRing
  try dsimp only
  repeat' first
    | with_reducible assumption
    | with_reducible apply passEvent_keeps
    | with_reducible apply releaseDie_keeps
    | (with_reducible refine Keeps.fst (by with_reducible assumption) ?_)
    | (with_reducible refine Keeps.snd (by with_reducible assumption) ?_)
    | (with_reducible refine Keeps.fold ?_ _ ?_)
    | (with_reducible refine Keeps.foldFst ?_ _ ?_)
    | split

theorem ringCommand_keeps {a : State} {x0 : State} {x1 : Nat} (h0 : Keeps a x0) : Keeps a (ringCommand x0 x1).1 := by
  unfold ringCommand
  try dsimp only
  repeat' first
    | with_reducible assumption
    | with_reducible apply passRing_keeps
    | with_reducible apply leaveRing_keeps
    | with_reducible apply splice_keeps
    | (with_reducible refine Keeps.fst (by with_reducible assumption) ?_)
    | (with_reducible refine Keeps.snd (by with_reducible assumption) ?_)
    | (with_reducible refine Keeps.fold ?_ _ ?_)
    | (with_reducible refine Keeps.foldFst ?_ _ ?_)
    | split

theorem execBypassActuated_keeps {a : State} {x0 : Fin 2} {x1 : State} (h1 : Keeps a x1) : OKeeps a (execBypassActuated x0 x1) := by
  unfold execBypassActuated
  try dsimp only
  repeat' first
    | with_reducible assumption
    | with_reducible apply OKeeps.next
    | exact trivial
    | with_reducible apply State.logEvent_keeps
    | with_reducible apply State.setDie_keeps
    | (with_reducible refine Keeps.fst (by with_reducible assumption) ?_)
    | (with_reducible refine Keeps.snd (by with_reducible assumption) ?_)
    | (with_reducible refine Keeps.fold ?_ _ ?_)
    | (with_reducible refine Keeps.foldFst ?_ _ ?_)
    | split

theorem execSpliceTimeout_keeps {a : State} {x0 : Fin 2} {x1 : State} (h1 : Keeps a x1) : OKeeps a (execSpliceTimeout x0 x1) := by
  unfold execSpliceTimeout
  try dsimp only
  repeat' first
    | with_reducible assumption
    | with_reducible apply OKeeps.next
    | exact trivial
    | with_reducible apply passEvent_keeps
    | with_reducible apply spliceFails_keeps
    | with_reducible apply State.takeFree_keeps
    | (with_reducible refine Keeps.fst (by with_reducible assumption) ?_)
    | (with_reducible refine Keeps.snd (by with_reducible assumption) ?_)
    | (with_reducible refine Keeps.fold ?_ _ ?_)
    | (with_reducible refine Keeps.foldFst ?_ _ ?_)
    | split

theorem execLeaveDrainDone_keeps {a : State} {x0 : Fin 2} {x1 : State} (h1 : Keeps a x1) : OKeeps a (execLeaveDrainDone x0 x1) := by
  unfold execLeaveDrainDone
  try dsimp only
  repeat' first
    | with_reducible assumption
    | with_reducible apply OKeeps.next
    | exact trivial
    | with_reducible apply passEvent_keeps
    | (with_reducible refine Keeps.fst (by with_reducible assumption) ?_)
    | (with_reducible refine Keeps.snd (by with_reducible assumption) ?_)
    | (with_reducible refine Keeps.fold ?_ _ ?_)
    | (with_reducible refine Keeps.foldFst ?_ _ ?_)
    | split

theorem execLinkSignalDetect_keeps {a : State} {x0 : Fin 4} {x1 : State} (h1 : Keeps a x1) : OKeeps a (execLinkSignalDetect x0 x1) := by
  unfold execLinkSignalDetect
  try dsimp only
  repeat' first
    | with_reducible assumption
    | with_reducible apply OKeeps.next
    | exact trivial
    | with_reducible apply State.setRport_keeps
    | (with_reducible refine Keeps.fst (by with_reducible assumption) ?_)
    | (with_reducible refine Keeps.snd (by with_reducible assumption) ?_)
    | (with_reducible refine Keeps.fold ?_ _ ?_)
    | (with_reducible refine Keeps.foldFst ?_ _ ?_)
    | split

theorem execTrainLock_keeps {a : State} {x0 : Fin 4} {x1 : State} (h1 : Keeps a x1) : OKeeps a (execTrainLock x0 x1) := by
  unfold execTrainLock
  try dsimp only
  repeat' first
    | with_reducible assumption
    | with_reducible apply OKeeps.next
    | exact trivial
    | with_reducible apply State.setRport_keeps
    | (with_reducible refine Keeps.fst (by with_reducible assumption) ?_)
    | (with_reducible refine Keeps.snd (by with_reducible assumption) ?_)
    | (with_reducible refine Keeps.fold ?_ _ ?_)
    | (with_reducible refine Keeps.foldFst ?_ _ ?_)
    | split

theorem execTrainTimeout_keeps {a : State} {x0 : Fin 4} {x1 : State} (h1 : Keeps a x1) : OKeeps a (execTrainTimeout x0 x1) := by
  unfold execTrainTimeout
  try dsimp only
  repeat' first
    | with_reducible assumption
    | with_reducible apply OKeeps.next
    | exact trivial
    | with_reducible apply State.setRport_keeps
    | (with_reducible refine Keeps.fst (by with_reducible assumption) ?_)
    | (with_reducible refine Keeps.snd (by with_reducible assumption) ?_)
    | (with_reducible refine Keeps.fold ?_ _ ?_)
    | (with_reducible refine Keeps.foldFst ?_ _ ?_)
    | split

theorem execRefuseRetry_keeps {a : State} {x0 : Fin 4} {x1 : State} (h1 : Keeps a x1) : OKeeps a (execRefuseRetry x0 x1) := by
  unfold execRefuseRetry
  try dsimp only
  repeat' first
    | with_reducible assumption
    | with_reducible apply OKeeps.next
    | exact trivial
    | with_reducible apply State.setRport_keeps
    | (with_reducible refine Keeps.fst (by with_reducible assumption) ?_)
    | (with_reducible refine Keeps.snd (by with_reducible assumption) ?_)
    | (with_reducible refine Keeps.fold ?_ _ ?_)
    | (with_reducible refine Keeps.foldFst ?_ _ ?_)
    | split

theorem refusedLink_keeps {a : State} {x0 : State} {x1 : Nat} {x2 : Nat} {x3 : Bool} (h0 : Keeps a x0) : Keeps a (refusedLink x0 x1 x2 x3) := by
  unfold refusedLink
  try dsimp only
  repeat' first
    | with_reducible assumption
    | with_reducible apply spliceFails_keeps
    | with_reducible apply State.count_keeps
    | with_reducible apply State.logEvent_keeps
    | with_reducible apply State.setRport_keeps
    | (with_reducible refine Keeps.fst (by with_reducible assumption) ?_)
    | (with_reducible refine Keeps.snd (by with_reducible assumption) ?_)
    | (with_reducible refine Keeps.fold ?_ _ ?_)
    | (with_reducible refine Keeps.foldFst ?_ _ ?_)
    | split

theorem goUp_keeps {a : State} {x0 : State} {x1 : Nat} {x2 : HelloInfo} (h0 : Keeps a x0) : Keeps a (goUp x0 x1 x2) := by
  unfold goUp
  try dsimp only
  repeat' first
    | with_reducible assumption
    | with_reducible apply State.logEvent_keeps
    | with_reducible apply State.count_keeps
    | with_reducible apply State.setRing_keeps
    | with_reducible apply State.setRport_keeps
    | (with_reducible refine Keeps.fst (by with_reducible assumption) ?_)
    | (with_reducible refine Keeps.snd (by with_reducible assumption) ?_)
    | (with_reducible refine Keeps.fold ?_ _ ?_)
    | (with_reducible refine Keeps.foldFst ?_ _ ?_)
    | split
    | (with_reducible intro _)
    | fail_if_no_progress (with_reducible apply Keeps.put)

theorem sendResume_keeps {a : State} {x0 : State} {x1 : Nat} (h0 : Keeps a x0) : Keeps a (sendResume x0 x1) := by
  unfold sendResume
  try dsimp only
  repeat' first
    | with_reducible assumption
    | with_reducible apply sendWord_keeps
    | (with_reducible refine Keeps.fst (by with_reducible assumption) ?_)
    | (with_reducible refine Keeps.snd (by with_reducible assumption) ?_)
    | (with_reducible refine Keeps.fold ?_ _ ?_)
    | (with_reducible refine Keeps.foldFst ?_ _ ?_)
    | split

theorem tryPort_keeps {a : State} {x0 : State} {x1 : Nat} (h0 : Keeps a x0) : Keeps a (tryPort x0 x1) := by
  unfold tryPort
  try dsimp only
  repeat' first
    | with_reducible assumption
    | with_reducible apply goUp_keeps
    | (with_reducible refine Keeps.fst (by with_reducible assumption) ?_)
    | (with_reducible refine Keeps.snd (by with_reducible assumption) ?_)
    | (with_reducible refine Keeps.fold ?_ _ ?_)
    | (with_reducible refine Keeps.foldFst ?_ _ ?_)
    | split

theorem tryPlay_keeps {a : State} {x0 : State} {x1 : Nat} (h0 : Keeps a x0) : Keeps a (tryPlay x0 x1) := by
  unfold tryPlay
  try dsimp only
  repeat' first
    | with_reducible assumption
    | with_reducible apply State.setDie_keeps
    | with_reducible apply State.logEvent_keeps
    | (with_reducible refine Keeps.fst (by with_reducible assumption) ?_)
    | (with_reducible refine Keeps.snd (by with_reducible assumption) ?_)
    | (with_reducible refine Keeps.fold ?_ _ ?_)
    | (with_reducible refine Keeps.foldFst ?_ _ ?_)
    | split

theorem settleLinks_keeps {a : State} {x0 : State} {x1 : Nat} {x2 : Bool} (h0 : Keeps a x0) : Keeps a (settleLinks x0 x1 x2) := by
  unfold settleLinks
  try dsimp only
  repeat' first
    | with_reducible assumption
    | with_reducible apply tryPort_keeps
    | with_reducible apply tryPlay_keeps
    | with_reducible apply sendResume_keeps
    | (with_reducible refine Keeps.fst (by with_reducible assumption) ?_)
    | (with_reducible refine Keeps.snd (by with_reducible assumption) ?_)
    | (with_reducible refine Keeps.fold ?_ _ ?_)
    | (with_reducible refine Keeps.foldFst ?_ _ ?_)
    | split

theorem execHelloSend_keeps {a : State} {x0 : Fin 4} {x1 : State} (h1 : Keeps a x1) : OKeeps a (execHelloSend x0 x1) := by
  unfold execHelloSend
  try dsimp only
  repeat' first
    | with_reducible assumption
    | with_reducible apply OKeeps.next
    | exact trivial
    | with_reducible apply State.setRport_keeps
    | with_reducible apply sendWord_keeps
    | with_reducible apply settleLinks_keeps
    | (with_reducible refine Keeps.fst (by with_reducible assumption) ?_)
    | (with_reducible refine Keeps.snd (by with_reducible assumption) ?_)
    | (with_reducible refine Keeps.fold ?_ _ ?_)
    | (with_reducible refine Keeps.foldFst ?_ _ ?_)
    | split

theorem heardLink_keeps {a : State} {x0 : State} {x1 : Nat} (h0 : Keeps a x0) : Keeps a (heardLink x0 x1) := by
  unfold heardLink
  try dsimp only
  repeat' first
    | with_reducible assumption
    | with_reducible apply heardGood_keeps
    | with_reducible apply breakFrame_keeps
    | (with_reducible refine Keeps.fst (by with_reducible assumption) ?_)
    | (with_reducible refine Keeps.snd (by with_reducible assumption) ?_)
    | (with_reducible refine Keeps.fold ?_ _ ?_)
    | (with_reducible refine Keeps.foldFst ?_ _ ?_)
    | split

theorem execHello_keeps {a : State} {x0 : Fin 4} {x1 : BitVec 136} {x2 : State} (h2 : Keeps a x2) : OKeeps a (execHello x0 x1 x2) := by
  unfold execHello
  try dsimp only
  repeat' first
    | with_reducible assumption
    | with_reducible apply OKeeps.next
    | exact trivial
    | with_reducible apply State.setRport_keeps
    | with_reducible apply settleLinks_keeps
    | with_reducible apply sendWord_keeps
    | with_reducible apply refusedLink_keeps
    | with_reducible apply heardLink_keeps
    | (with_reducible refine Keeps.fst (by with_reducible assumption) ?_)
    | (with_reducible refine Keeps.snd (by with_reducible assumption) ?_)
    | (with_reducible refine Keeps.fold ?_ _ ?_)
    | (with_reducible refine Keeps.foldFst ?_ _ ?_)
    | split

theorem execRingResume_keeps {a : State} {x0 : Fin 4} {x1 : BitVec 136} {x2 : State} (h2 : Keeps a x2) : OKeeps a (execRingResume x0 x1 x2) := by
  unfold execRingResume
  try dsimp only
  repeat' first
    | with_reducible assumption
    | with_reducible apply OKeeps.next
    | exact trivial
    | with_reducible apply State.setRport_keeps
    | with_reducible apply settleLinks_keeps
    | with_reducible apply heardLink_keeps
    | (with_reducible refine Keeps.fst (by with_reducible assumption) ?_)
    | (with_reducible refine Keeps.snd (by with_reducible assumption) ?_)
    | (with_reducible refine Keeps.fold ?_ _ ?_)
    | (with_reducible refine Keeps.foldFst ?_ _ ?_)
    | split

theorem execRefuse_keeps {a : State} {x0 : Fin 4} {x1 : BitVec 136} {x2 : State} (h2 : Keeps a x2) : OKeeps a (execRefuse x0 x1 x2) := by
  unfold execRefuse
  try dsimp only
  repeat' first
    | with_reducible assumption
    | with_reducible apply OKeeps.next
    | exact trivial
    | with_reducible apply refusedLink_keeps
    | with_reducible apply heardLink_keeps
    | (with_reducible refine Keeps.fst (by with_reducible assumption) ?_)
    | (with_reducible refine Keeps.snd (by with_reducible assumption) ?_)
    | (with_reducible refine Keeps.fold ?_ _ ?_)
    | (with_reducible refine Keeps.foldFst ?_ _ ?_)
    | split

theorem execLeave_keeps {a : State} {x0 : Fin 4} {x1 : BitVec 136} {x2 : State} (h2 : Keeps a x2) : OKeeps a (execLeave x0 x1 x2) := by
  unfold execLeave
  try dsimp only
  repeat' first
    | with_reducible assumption
    | with_reducible apply OKeeps.next
    | exact trivial
    | with_reducible apply State.setRport_keeps
    | with_reducible apply sendWord_keeps
    | with_reducible apply heardLink_keeps
    | (with_reducible refine Keeps.fst (by with_reducible assumption) ?_)
    | (with_reducible refine Keeps.snd (by with_reducible assumption) ?_)
    | (with_reducible refine Keeps.fold ?_ _ ?_)
    | (with_reducible refine Keeps.foldFst ?_ _ ?_)
    | split

theorem execLeaveAck_keeps {a : State} {x0 : Fin 4} {x1 : BitVec 136} {x2 : State} (h2 : Keeps a x2) : OKeeps a (execLeaveAck x0 x1 x2) := by
  unfold execLeaveAck
  try dsimp only
  repeat' first
    | with_reducible assumption
    | with_reducible apply OKeeps.next
    | exact trivial
    | with_reducible apply State.setRport_keeps
    | with_reducible apply heardGood_keeps
    | (with_reducible refine Keeps.fst (by with_reducible assumption) ?_)
    | (with_reducible refine Keeps.snd (by with_reducible assumption) ?_)
    | (with_reducible refine Keeps.fold ?_ _ ?_)
    | (with_reducible refine Keeps.foldFst ?_ _ ?_)
    | split

theorem onUp_keeps {a : State} {x0 : State} {x1 : Nat} {x2 : State → State} (h0 : Keeps a x0) (h2 : ∀ st, Keeps a st → Keeps a (x2 st)) : Keeps a (onUp x0 x1 x2) := by
  unfold onUp
  try dsimp only
  repeat' first
    | with_reducible assumption
    | with_reducible apply h2
    | with_reducible apply heardGood_keeps
    | (with_reducible refine Keeps.fst (by with_reducible assumption) ?_)
    | (with_reducible refine Keeps.snd (by with_reducible assumption) ?_)
    | (with_reducible refine Keeps.fold ?_ _ ?_)
    | (with_reducible refine Keeps.foldFst ?_ _ ?_)
    | split

theorem execIdle_keeps {a : State} {x0 : Fin 4} {x1 : BitVec 136} {x2 : State} (h2 : Keeps a x2) : OKeeps a (execIdle x0 x1 x2) := by
  unfold execIdle
  try dsimp only
  repeat' first
    | with_reducible assumption
    | with_reducible apply OKeeps.next
    | exact trivial
    | with_reducible apply State.setRport_keeps
    | with_reducible apply onUp_keeps
    | (with_reducible refine Keeps.fst (by with_reducible assumption) ?_)
    | (with_reducible refine Keeps.snd (by with_reducible assumption) ?_)
    | (with_reducible refine Keeps.fold ?_ _ ?_)
    | (with_reducible refine Keeps.foldFst ?_ _ ?_)
    | split
    | (with_reducible intro _)

theorem execCredit_keeps {a : State} {x0 : Fin 4} {x1 : BitVec 136} {x2 : State} (h2 : Keeps a x2) : OKeeps a (execCredit x0 x1 x2) := by
  unfold execCredit
  try dsimp only
  repeat' first
    | with_reducible assumption
    | with_reducible apply OKeeps.next
    | exact trivial
    | with_reducible apply State.setRport_keeps
    | with_reducible apply onUp_keeps
    | (with_reducible refine Keeps.fst (by with_reducible assumption) ?_)
    | (with_reducible refine Keeps.snd (by with_reducible assumption) ?_)
    | (with_reducible refine Keeps.fold ?_ _ ?_)
    | (with_reducible refine Keeps.foldFst ?_ _ ?_)
    | split
    | (with_reducible intro _)

theorem execNak_keeps {a : State} {x0 : Fin 4} {x1 : BitVec 136} {x2 : State} (h2 : Keeps a x2) : OKeeps a (execNak x0 x1 x2) := by
  unfold execNak
  try dsimp only
  repeat' first
    | with_reducible assumption
    | with_reducible apply OKeeps.next
    | exact trivial
    | with_reducible apply sendWord_keeps
    | with_reducible apply State.count_keeps
    | with_reducible apply enterHold_keeps
    | with_reducible apply State.setRport_keeps
    | with_reducible apply onUp_keeps
    | (with_reducible refine Keeps.fst (by with_reducible assumption) ?_)
    | (with_reducible refine Keeps.snd (by with_reducible assumption) ?_)
    | (with_reducible refine Keeps.fold ?_ _ ?_)
    | (with_reducible refine Keeps.foldFst ?_ _ ?_)
    | split
    | (with_reducible intro _)
    | fail_if_no_progress (with_reducible apply Keeps.put)

theorem execReplay_keeps {a : State} {x0 : Fin 4} {x1 : BitVec 136} {x2 : State} (h2 : Keeps a x2) : OKeeps a (execReplay x0 x1 x2) := by
  unfold execReplay
  try dsimp only
  repeat' first
    | with_reducible assumption
    | with_reducible apply OKeeps.next
    | exact trivial
    | with_reducible apply State.setRport_keeps
    | with_reducible apply onUp_keeps
    | (with_reducible refine Keeps.fst (by with_reducible assumption) ?_)
    | (with_reducible refine Keeps.snd (by with_reducible assumption) ?_)
    | (with_reducible refine Keeps.fold ?_ _ ?_)
    | (with_reducible refine Keeps.foldFst ?_ _ ?_)
    | split
    | (with_reducible intro _)

theorem execBadControlWord_keeps {a : State} {x0 : Fin 4} {x1 : BitVec 144} {x2 : State} (h2 : Keeps a x2) : OKeeps a (execBadControlWord x0 x1 x2) := by
  unfold execBadControlWord
  try dsimp only
  repeat' first
    | with_reducible assumption
    | with_reducible apply OKeeps.next
    | exact trivial
    | with_reducible apply State.count_keeps
    | with_reducible apply onUp_keeps
    | (with_reducible refine Keeps.fst (by with_reducible assumption) ?_)
    | (with_reducible refine Keeps.snd (by with_reducible assumption) ?_)
    | (with_reducible refine Keeps.fold ?_ _ ?_)
    | (with_reducible refine Keeps.foldFst ?_ _ ?_)
    | split
    | (with_reducible intro _)

theorem lostBlock_keeps {a : State} {x0 : State} {x1 : Nat} (h0 : Keeps a x0) : Keeps a (lostBlock x0 x1) := by
  unfold lostBlock
  try dsimp only
  repeat' first
    | with_reducible assumption
    | with_reducible apply State.takeFree_keeps
    | with_reducible apply sendNak_keeps
    | with_reducible apply enterHold_keeps
    | with_reducible apply State.setRport_keeps
    | (with_reducible refine Keeps.fst (by with_reducible assumption) ?_)
    | (with_reducible refine Keeps.snd (by with_reducible assumption) ?_)
    | (with_reducible refine Keeps.fold ?_ _ ?_)
    | (with_reducible refine Keeps.foldFst ?_ _ ?_)
    | split

theorem execFecUncorrectable_keeps {a : State} {x0 : Fin 4} {x1 : BitVec 160} {x2 : State} (h2 : Keeps a x2) : OKeeps a (execFecUncorrectable x0 x1 x2) := by
  unfold execFecUncorrectable
  try dsimp only
  repeat' first
    | with_reducible assumption
    | with_reducible apply OKeeps.next
    | exact trivial
    | with_reducible apply heardGood_keeps
    | with_reducible apply State.count_keeps
    | with_reducible apply lostBlock_keeps
    | (with_reducible refine Keeps.fst (by with_reducible assumption) ?_)
    | (with_reducible refine Keeps.snd (by with_reducible assumption) ?_)
    | (with_reducible refine Keeps.fold ?_ _ ?_)
    | (with_reducible refine Keeps.foldFst ?_ _ ?_)
    | split

theorem execBreakClear_keeps {a : State} {x0 : Fin 4} {x1 : State} (h1 : Keeps a x1) : OKeeps a (execBreakClear x0 x1) := by
  unfold execBreakClear
  try dsimp only
  repeat' first
    | with_reducible assumption
    | with_reducible apply OKeeps.next
    | exact trivial
    | with_reducible apply State.setRport_keeps
    | (with_reducible refine Keeps.fst (by with_reducible assumption) ?_)
    | (with_reducible refine Keeps.snd (by with_reducible assumption) ?_)
    | (with_reducible refine Keeps.fold ?_ _ ?_)
    | (with_reducible refine Keeps.foldFst ?_ _ ?_)
    | split

theorem execAvoidExpire_keeps {a : State} {x0 : State} (h0 : Keeps a x0) : OKeeps a (execAvoidExpire x0) := by
  unfold execAvoidExpire
  try dsimp only
  repeat' first
    | with_reducible assumption
    | with_reducible apply OKeeps.next
    | exact trivial
    | with_reducible apply State.setRing_keeps

theorem execSyncT_keeps {a : State} {x0 : Fin 4} {x1 : BitVec 136} {x2 : State} (h2 : Keeps a x2) : OKeeps a (execSyncT x0 x1 x2) := by
  unfold execSyncT
  try dsimp only
  repeat' first
    | with_reducible assumption
    | with_reducible apply OKeeps.next
    | exact trivial
    | with_reducible apply hearSyncT_keeps
    | with_reducible apply onUp_keeps
    | (with_reducible refine Keeps.fst (by with_reducible assumption) ?_)
    | (with_reducible refine Keeps.snd (by with_reducible assumption) ?_)
    | (with_reducible refine Keeps.fold ?_ _ ?_)
    | (with_reducible refine Keeps.foldFst ?_ _ ?_)
    | split
    | (with_reducible intro _)

theorem execSyncA_keeps {a : State} {x0 : Fin 4} {x1 : BitVec 136} {x2 : State} (h2 : Keeps a x2) : OKeeps a (execSyncA x0 x1 x2) := by
  unfold execSyncA
  try dsimp only
  repeat' first
    | with_reducible assumption
    | with_reducible apply OKeeps.next
    | exact trivial
    | with_reducible apply hearSyncA_keeps
    | with_reducible apply State.setRport_keeps
    | with_reducible apply onUp_keeps
    | (with_reducible refine Keeps.fst (by with_reducible assumption) ?_)
    | (with_reducible refine Keeps.snd (by with_reducible assumption) ?_)
    | (with_reducible refine Keeps.fold ?_ _ ?_)
    | (with_reducible refine Keeps.foldFst ?_ _ ?_)
    | split
    | (with_reducible intro _)

theorem execSyncTai_keeps {a : State} {x0 : Fin 4} {x1 : BitVec 136} {x2 : State} (h2 : Keeps a x2) : OKeeps a (execSyncTai x0 x1 x2) := by
  unfold execSyncTai
  try dsimp only
  repeat' first
    | with_reducible assumption
    | with_reducible apply OKeeps.next
    | exact trivial
    | with_reducible apply hearSyncTai_keeps
    | with_reducible apply onUp_keeps
    | (with_reducible refine Keeps.fst (by with_reducible assumption) ?_)
    | (with_reducible refine Keeps.snd (by with_reducible assumption) ?_)
    | (with_reducible refine Keeps.fold ?_ _ ?_)
    | (with_reducible refine Keeps.foldFst ?_ _ ?_)
    | split
    | (with_reducible intro _)

theorem execSyncTSend_keeps {a : State} {x0 : Fin 4} {x1 : State} (h1 : Keeps a x1) : OKeeps a (execSyncTSend x0 x1) := by
  unfold execSyncTSend
  try dsimp only
  repeat' first
    | with_reducible assumption
    | with_reducible apply OKeeps.next
    | exact trivial
    | with_reducible apply setSyncPort_keeps
    | with_reducible apply sendWord_keeps
    | with_reducible apply State.stamp_keeps
    | (with_reducible refine Keeps.fst (by with_reducible assumption) ?_)
    | (with_reducible refine Keeps.snd (by with_reducible assumption) ?_)
    | (with_reducible refine Keeps.fold ?_ _ ?_)
    | (with_reducible refine Keeps.foldFst ?_ _ ?_)
    | split

theorem execSyncASend_keeps {a : State} {x0 : Fin 4} {x1 : State} (h1 : Keeps a x1) : OKeeps a (execSyncASend x0 x1) := by
  unfold execSyncASend
  try dsimp only
  repeat' first
    | with_reducible assumption
    | with_reducible apply OKeeps.next
    | exact trivial
    | with_reducible apply setSyncPort_keeps
    | with_reducible apply sendWord_keeps
    | (with_reducible refine Keeps.fst (by with_reducible assumption) ?_)
    | (with_reducible refine Keeps.snd (by with_reducible assumption) ?_)
    | (with_reducible refine Keeps.fold ?_ _ ?_)
    | (with_reducible refine Keeps.foldFst ?_ _ ?_)
    | split

theorem execSyncTaiSend_keeps {a : State} {x0 : Fin 4} {x1 : State} (h1 : Keeps a x1) : OKeeps a (execSyncTaiSend x0 x1) := by
  unfold execSyncTaiSend
  try dsimp only
  repeat' first
    | with_reducible assumption
    | with_reducible apply OKeeps.next
    | exact trivial
    | with_reducible apply setSyncPort_keeps
    | with_reducible apply sendWord_keeps
    | (with_reducible refine Keeps.fst (by with_reducible assumption) ?_)
    | (with_reducible refine Keeps.snd (by with_reducible assumption) ?_)
    | (with_reducible refine Keeps.fold ?_ _ ?_)
    | (with_reducible refine Keeps.foldFst ?_ _ ?_)
    | split

end Sys2Proof.Machine
end

