-- ==== Sys2Proof/Laws/Pwr.lean ====
section
/-! SUPPORT. What the operations of Pwr keep: the fuses, the queue and the canonical form of the stores. -/

namespace Sys2Proof.Machine

open Host

theorem State.setPwr_keeps {a : State} {x0 : State} {x1 : Pwr} (h0 : Keeps a x0) : Keeps a (State.setPwr x0 x1) := by
  unfold State.setPwr
  try dsimp only
  repeat' first
    | with_reducible assumption
    | (with_reducible refine Keeps.fst (by with_reducible assumption) ?_)
    | (with_reducible refine Keeps.snd (by with_reducible assumption) ?_)
    | (with_reducible refine Keeps.fold ?_ _ ?_)
    | (with_reducible refine Keeps.foldFst ?_ _ ?_)
    | split
    | (with_reducible intro _)
    | fail_if_no_progress (with_reducible apply Keeps.put)

theorem State.setMgt_keeps {a : State} {x0 : State} {x1 : Mgt} (h0 : Keeps a x0) : Keeps a (State.setMgt x0 x1) := by
  unfold State.setMgt
  try dsimp only
  repeat' first
    | with_reducible assumption
    | (with_reducible refine Keeps.fst (by with_reducible assumption) ?_)
    | (with_reducible refine Keeps.snd (by with_reducible assumption) ?_)
    | (with_reducible refine Keeps.fold ?_ _ ?_)
    | (with_reducible refine Keeps.foldFst ?_ _ ?_)
    | split
    | (with_reducible intro _)
    | fail_if_no_progress (with_reducible apply Keeps.put)

theorem clearDevice_keeps {a : State} {x0 : State} (h0 : Keeps a x0) : Keeps a (clearDevice x0) := by
  refine ⟨h0.variant, h0.pending, fun w => ?_⟩
  have := (Memory.wf_iff _).1 (h0.wf w).1
  refine ⟨?_, ?_, ?_, ?_⟩
  · rw [Memory.wf_iff]
    exact ⟨rfl, rfl, rfl, rfl, rfl, this.2.2.2.2.2.1, this.2.2.2.2.2.2.1, this.2.2.2.2.2.2.2⟩
  · rfl
  · rfl
  · rfl

theorem coldReset_keeps {a : State} {x0 : State} {x1 : Nat} (h0 : Keeps a x0) : Keeps a (coldReset x0 x1) := by
  unfold coldReset
  try dsimp only
  repeat' first
    | with_reducible assumption
    | with_reducible apply State.setPwr_keeps
    | with_reducible apply clearDevice_keeps

theorem warmReset_keeps {a : State} {x0 : State} {x1 : Nat} (h0 : Keeps a x0) : Keeps a (warmReset x0 x1) := by
  unfold warmReset
  try dsimp only
  repeat' first
    | with_reducible assumption
    | with_reducible apply clearDevice_keeps
    | (with_reducible refine Keeps.fst (by with_reducible assumption) ?_)
    | (with_reducible refine Keeps.snd (by with_reducible assumption) ?_)
    | (with_reducible refine Keeps.fold ?_ _ ?_)
    | (with_reducible refine Keeps.foldFst ?_ _ ?_)
    | split
    | (with_reducible intro _)
    | fail_if_no_progress (with_reducible apply Keeps.put)

theorem enterBoot_keeps {a : State} {x0 : State} (h0 : Keeps a x0) : Keeps a (enterBoot x0) := by
  unfold enterBoot
  try dsimp only
  repeat' first
    | with_reducible assumption
    | (with_reducible refine Keeps.fst (by with_reducible assumption) ?_)
    | (with_reducible refine Keeps.snd (by with_reducible assumption) ?_)
    | (with_reducible refine Keeps.fold ?_ _ ?_)
    | (with_reducible refine Keeps.foldFst ?_ _ ?_)
    | split
    | (with_reducible intro _)
    | fail_if_no_progress (with_reducible apply Keeps.put)

theorem startWarm_keeps {a : State} {x0 : State} {x1 : Nat} (h0 : Keeps a x0) : Keeps a (startWarm x0 x1) := by
  unfold startWarm
  try dsimp only
  repeat' first
    | with_reducible assumption
    | with_reducible apply warmReset_keeps
    | with_reducible apply State.setPwr_keeps
    | (with_reducible refine Keeps.fst (by with_reducible assumption) ?_)
    | (with_reducible refine Keeps.snd (by with_reducible assumption) ?_)
    | (with_reducible refine Keeps.fold ?_ _ ?_)
    | (with_reducible refine Keeps.foldFst ?_ _ ?_)
    | split

theorem leaveReset_keeps {a : State} {x0 : State} (h0 : Keeps a x0) : Keeps a (leaveReset x0) := by
  unfold leaveReset
  try dsimp only
  repeat' first
    | with_reducible assumption
    | with_reducible apply enterBoot_keeps
    | (with_reducible refine Keeps.fst (by with_reducible assumption) ?_)
    | (with_reducible refine Keeps.snd (by with_reducible assumption) ?_)
    | (with_reducible refine Keeps.fold ?_ _ ?_)
    | (with_reducible refine Keeps.foldFst ?_ _ ?_)
    | split

theorem execPoresetNAssert_keeps {a : State} {x0 : State} (h0 : Keeps a x0) : OKeeps a (execPoresetNAssert x0) := by
  unfold execPoresetNAssert
  try dsimp only
  repeat' first
    | with_reducible assumption
    | with_reducible apply OKeeps.next
    | exact trivial
    | with_reducible apply coldReset_keeps
    | (with_reducible refine Keeps.fst (by with_reducible assumption) ?_)
    | (with_reducible refine Keeps.snd (by with_reducible assumption) ?_)
    | (with_reducible refine Keeps.fold ?_ _ ?_)
    | (with_reducible refine Keeps.foldFst ?_ _ ?_)
    | split
    | (with_reducible intro _)
    | fail_if_no_progress (with_reducible apply Keeps.put)

theorem execPoresetNDeassert_keeps {a : State} {x0 : BitVec 2} {x1 : State} (h1 : Keeps a x1) : OKeeps a (execPoresetNDeassert x0 x1) := by
  unfold execPoresetNDeassert
  try dsimp only
  repeat' first
    | with_reducible assumption
    | with_reducible apply OKeeps.next
    | exact trivial
    | with_reducible apply State.setMgt_keeps
    | with_reducible apply leaveReset_keeps
    | with_reducible apply State.setPwr_keeps
    | (with_reducible refine Keeps.fst (by with_reducible assumption) ?_)
    | (with_reducible refine Keeps.snd (by with_reducible assumption) ?_)
    | (with_reducible refine Keeps.fold ?_ _ ?_)
    | (with_reducible refine Keeps.foldFst ?_ _ ?_)
    | split

theorem execWarmrstNAssert_keeps {a : State} {x0 : State} (h0 : Keeps a x0) : OKeeps a (execWarmrstNAssert x0) := by
  unfold execWarmrstNAssert
  try dsimp only
  repeat' first
    | with_reducible assumption
    | with_reducible apply OKeeps.next
    | exact trivial
    | with_reducible apply startWarm_keeps
    | with_reducible apply State.setPwr_keeps
    | (with_reducible refine Keeps.fst (by with_reducible assumption) ?_)
    | (with_reducible refine Keeps.snd (by with_reducible assumption) ?_)
    | (with_reducible refine Keeps.fold ?_ _ ?_)
    | (with_reducible refine Keeps.foldFst ?_ _ ?_)
    | split

theorem execWarmrstNDeassert_keeps {a : State} {x0 : State} (h0 : Keeps a x0) : OKeeps a (execWarmrstNDeassert x0) := by
  unfold execWarmrstNDeassert
  try dsimp only
  repeat' first
    | with_reducible assumption
    | with_reducible apply OKeeps.next
    | exact trivial
    | with_reducible apply State.setPwr_keeps
    | with_reducible apply leaveReset_keeps

theorem execWarmResetStart_keeps {a : State} {x0 : State} (h0 : Keeps a x0) : OKeeps a (execWarmResetStart x0) := by
  unfold execWarmResetStart
  try dsimp only
  repeat' first
    | with_reducible assumption
    | with_reducible apply OKeeps.next
    | exact trivial
    | with_reducible apply State.setMgt_keeps
    | with_reducible apply startWarm_keeps
    | with_reducible apply leaveReset_keeps
    | (with_reducible refine Keeps.fst (by with_reducible assumption) ?_)
    | (with_reducible refine Keeps.snd (by with_reducible assumption) ?_)
    | (with_reducible refine Keeps.fold ?_ _ ?_)
    | (with_reducible refine Keeps.foldFst ?_ _ ?_)
    | split

theorem execNegativeComplete_keeps {a : State} {x0 : Fin 4} {x1 : State} (h1 : Keeps a x1) : OKeeps a (execNegativeComplete x0 x1) := by
  unfold execNegativeComplete
  try dsimp only
  repeat' first
    | with_reducible assumption
    | with_reducible apply OKeeps.next
    | exact trivial
    | with_reducible apply warmReset_keeps
    | with_reducible apply leaveReset_keeps
    | with_reducible apply State.setHbmCtl_keeps
    | (with_reducible refine Keeps.fst (by with_reducible assumption) ?_)
    | (with_reducible refine Keeps.snd (by with_reducible assumption) ?_)
    | (with_reducible refine Keeps.fold ?_ _ ?_)
    | (with_reducible refine Keeps.foldFst ?_ _ ?_)
    | split
    | (with_reducible intro _)
    | fail_if_no_progress (with_reducible apply Keeps.put)

theorem execPerstNAssert_keeps {a : State} {x0 : Fin 2} {x1 : State} (h1 : Keeps a x1) : OKeeps a (execPerstNAssert x0 x1) := by
  unfold execPerstNAssert
  try dsimp only
  repeat' first
    | with_reducible assumption
    | with_reducible apply OKeeps.next
    | exact trivial
    | with_reducible apply State.setPwr_keeps
    | with_reducible apply resetPort_keeps

theorem execPerstNDeassert_keeps {a : State} {x0 : Fin 2} {x1 : State} (h1 : Keeps a x1) : OKeeps a (execPerstNDeassert x0 x1) := by
  unfold execPerstNDeassert
  try dsimp only
  repeat' first
    | with_reducible assumption
    | with_reducible apply OKeeps.next
    | exact trivial
    | with_reducible apply State.setPwr_keeps

theorem execJtagTrst_keeps {a : State} {x0 : State} (h0 : Keeps a x0) : OKeeps a (execJtagTrst x0) := by
  unfold execJtagTrst
  try dsimp only
  repeat' first
    | with_reducible assumption
    | with_reducible apply OKeeps.next

theorem execPowerLoss_keeps {a : State} {x0 : Bool} {x1 : State} (h1 : Keeps a x1) : OKeeps a (execPowerLoss x0 x1) := by
  unfold execPowerLoss
  try dsimp only
  repeat' first
    | with_reducible assumption
    | with_reducible apply OKeeps.next
    | exact trivial
    | with_reducible apply coldReset_keeps
    | (with_reducible refine Keeps.fst (by with_reducible assumption) ?_)
    | (with_reducible refine Keeps.snd (by with_reducible assumption) ?_)
    | (with_reducible refine Keeps.fold ?_ _ ?_)
    | (with_reducible refine Keeps.foldFst ?_ _ ?_)
    | split
    | (with_reducible intro _)
    | fail_if_no_progress (with_reducible apply Keeps.put)

theorem execPowerOn_keeps {a : State} {x0 : State} (h0 : Keeps a x0) : OKeeps a (execPowerOn x0) := by
  unfold execPowerOn
  try dsimp only
  repeat' first
    | with_reducible assumption
    | with_reducible apply OKeeps.next
    | exact trivial
    | with_reducible apply coldReset_keeps
    | (with_reducible refine Keeps.fst (by with_reducible assumption) ?_)
    | (with_reducible refine Keeps.snd (by with_reducible assumption) ?_)
    | (with_reducible refine Keeps.fold ?_ _ ?_)
    | (with_reducible refine Keeps.foldFst ?_ _ ?_)
    | split
    | (with_reducible intro _)
    | fail_if_no_progress (with_reducible apply Keeps.put)

theorem execBrownout_keeps {a : State} {x0 : State} (h0 : Keeps a x0) : OKeeps a (execBrownout x0) := by
  unfold execBrownout
  try dsimp only
  repeat' first
    | with_reducible assumption
    | with_reducible apply OKeeps.next
    | exact trivial
    | with_reducible apply coldReset_keeps
    | (with_reducible refine Keeps.fst (by with_reducible assumption) ?_)
    | (with_reducible refine Keeps.snd (by with_reducible assumption) ?_)
    | (with_reducible refine Keeps.fold ?_ _ ?_)
    | (with_reducible refine Keeps.foldFst ?_ _ ?_)
    | split
    | (with_reducible intro _)
    | fail_if_no_progress (with_reducible apply Keeps.put)

theorem execBootHeaderRead_keeps {a : State} {x0 : State} (h0 : Keeps a x0) : OKeeps a (execBootHeaderRead x0) := by
  unfold execBootHeaderRead
  try dsimp only
  repeat' first
    | with_reducible assumption
    | with_reducible apply OKeeps.next
    | exact trivial
    | with_reducible apply State.setHbmCtl_keeps
    | with_reducible apply State.setMgt_keeps
    | with_reducible apply State.setHqe_keeps
    | (with_reducible refine Keeps.fst (by with_reducible assumption) ?_)
    | (with_reducible refine Keeps.snd (by with_reducible assumption) ?_)
    | (with_reducible refine Keeps.fold ?_ _ ?_)
    | (with_reducible refine Keeps.foldFst ?_ _ ?_)
    | split
    | (with_reducible intro _)

theorem runFirmware_keeps {a : State} {x0 : State} {x1 : Bool} {x2 : Bool} (h0 : Keeps a x0) : Keeps a (runFirmware x0 x1 x2) := by
  unfold runFirmware
  try dsimp only
  repeat' first
    | with_reducible assumption
    | with_reducible apply State.setMgt_keeps

theorem execFirmwareVerified_keeps {a : State} {x0 : Bool} {x1 : Bool} {x2 : State} (h2 : Keeps a x2) : OKeeps a (execFirmwareVerified x0 x1 x2) := by
  unfold execFirmwareVerified
  try dsimp only
  repeat' first
    | with_reducible assumption
    | with_reducible apply OKeeps.next
    | exact trivial
    | with_reducible apply runFirmware_keeps
    | (with_reducible refine Keeps.fst (by with_reducible assumption) ?_)
    | (with_reducible refine Keeps.snd (by with_reducible assumption) ?_)
    | (with_reducible refine Keeps.fold ?_ _ ?_)
    | (with_reducible refine Keeps.foldFst ?_ _ ?_)
    | split

theorem setLevel'_keeps {a : State} {x0 : State} {x1 : Nat} {x2 : Nat} {x3 : Nat} (h0 : Keeps a x0) : Keeps a (setLevel' x0 x1 x2 x3) := by
  unfold setLevel'
  try dsimp only
  repeat' first
    | with_reducible assumption
    | with_reducible apply State.setPwr_keeps
    | with_reducible apply State.count_keeps
    | with_reducible apply State.countN_keeps
    | (with_reducible refine Keeps.fst (by with_reducible assumption) ?_)
    | (with_reducible refine Keeps.snd (by with_reducible assumption) ?_)
    | (with_reducible refine Keeps.fold ?_ _ ?_)
    | (with_reducible refine Keeps.foldFst ?_ _ ?_)
    | split

theorem execStretchLevelUp_keeps {a : State} {x0 : Fin 38} {x1 : BitVec 10} {x2 : Word} {x3 : State} (h3 : Keeps a x3) : OKeeps a (execStretchLevelUp x0 x1 x2 x3) := by
  unfold execStretchLevelUp
  try dsimp only
  repeat' first
    | with_reducible assumption
    | with_reducible apply OKeeps.next
    | exact trivial
    | with_reducible apply setLevel'_keeps
    | (with_reducible refine Keeps.fst (by with_reducible assumption) ?_)
    | (with_reducible refine Keeps.snd (by with_reducible assumption) ?_)
    | (with_reducible refine Keeps.fold ?_ _ ?_)
    | (with_reducible refine Keeps.foldFst ?_ _ ?_)
    | split

theorem execStretchLevelDown_keeps {a : State} {x0 : Fin 38} {x1 : BitVec 10} {x2 : Word} {x3 : State} (h3 : Keeps a x3) : OKeeps a (execStretchLevelDown x0 x1 x2 x3) := by
  unfold execStretchLevelDown
  try dsimp only
  repeat' first
    | with_reducible assumption
    | with_reducible apply OKeeps.next
    | exact trivial
    | with_reducible apply setLevel'_keeps
    | (with_reducible refine Keeps.fst (by with_reducible assumption) ?_)
    | (with_reducible refine Keeps.snd (by with_reducible assumption) ?_)
    | (with_reducible refine Keeps.fold ?_ _ ?_)
    | (with_reducible refine Keeps.foldFst ?_ _ ?_)
    | split

theorem thermalEvent_keeps {a : State} {x0 : State} {x1 : Nat} {x2 : Nat} (h0 : Keeps a x0) : Keeps a (thermalEvent x0 x1 x2) := by
  unfold thermalEvent
  try dsimp only
  repeat' first
    | with_reducible assumption
    | with_reducible apply State.logEvent_keeps

theorem thermalTrip_keeps {a : State} {x0 : State} (h0 : Keeps a x0) : Keeps a (thermalTrip x0) := by
  unfold thermalTrip
  try dsimp only
  repeat' first
    | with_reducible assumption
    | with_reducible apply coldReset_keeps
    | (with_reducible refine Keeps.fst (by with_reducible assumption) ?_)
    | (with_reducible refine Keeps.snd (by with_reducible assumption) ?_)
    | (with_reducible refine Keeps.fold ?_ _ ?_)
    | (with_reducible refine Keeps.foldFst ?_ _ ?_)
    | split
    | (with_reducible intro _)
    | fail_if_no_progress (with_reducible apply Keeps.put)

theorem setThrottle_keeps {a : State} {x0 : State} {x1 : Nat} (h0 : Keeps a x0) : Keeps a (setThrottle x0 x1) := by
  unfold setThrottle
  try dsimp only
  repeat' first
    | with_reducible assumption
    | with_reducible apply State.setPwr_keeps
    | with_reducible apply setLevel'_keeps
    | (with_reducible refine Keeps.fst (by with_reducible assumption) ?_)
    | (with_reducible refine Keeps.snd (by with_reducible assumption) ?_)
    | (with_reducible refine Keeps.fold ?_ _ ?_)
    | (with_reducible refine Keeps.foldFst ?_ _ ?_)
    | split
    | (with_reducible intro _)

theorem execDieTempSample_keeps {a : State} {x0 : Byte} {x1 : State} (h1 : Keeps a x1) : OKeeps a (execDieTempSample x0 x1) := by
  unfold execDieTempSample
  try dsimp only
  repeat' first
    | with_reducible assumption
    | with_reducible apply OKeeps.next
    | exact trivial
    | with_reducible apply thermalTrip_keeps
    | with_reducible apply setThrottle_keeps
    | with_reducible apply thermalEvent_keeps
    | with_reducible apply State.setPwr_keeps
    | (with_reducible refine Keeps.fst (by with_reducible assumption) ?_)
    | (with_reducible refine Keeps.snd (by with_reducible assumption) ?_)
    | (with_reducible refine Keeps.fold ?_ _ ?_)
    | (with_reducible refine Keeps.foldFst ?_ _ ?_)
    | split

theorem State.setInput_keeps {a : State} {x0 : State} {x1 : Nat} {x2 : SlowInput} (h0 : Keeps a x0) : Keeps a (State.setInput x0 x1 x2) := by
  unfold State.setInput
  try dsimp only
  repeat' first
    | with_reducible assumption
    | with_reducible apply State.setPwr_keeps

theorem execInputChange_keeps {a : State} {x0 : Fin 21} {x1 : Bool} {x2 : State} (h2 : Keeps a x2) : OKeeps a (execInputChange x0 x1 x2) := by
  unfold execInputChange
  try dsimp only
  repeat' first
    | with_reducible assumption
    | with_reducible apply OKeeps.next
    | exact trivial
    | with_reducible apply State.count_keeps
    | with_reducible apply State.setInput_keeps
    | (with_reducible refine Keeps.fst (by with_reducible assumption) ?_)
    | (with_reducible refine Keeps.snd (by with_reducible assumption) ?_)
    | (with_reducible refine Keeps.fold ?_ _ ?_)
    | (with_reducible refine Keeps.foldFst ?_ _ ?_)
    | split

theorem ppsAccept_keeps {a : State} {x0 : State} {x1 : Time} (h0 : Keeps a x0) : Keeps a (ppsAccept x0 x1) := by
  unfold ppsAccept
  try dsimp only
  repeat' first
    | with_reducible assumption
    | with_reducible apply setTai_keeps
    | with_reducible apply State.setPwr_keeps
    | with_reducible apply State.count_keeps
    | (with_reducible refine Keeps.fst (by with_reducible assumption) ?_)
    | (with_reducible refine Keeps.snd (by with_reducible assumption) ?_)
    | (with_reducible refine Keeps.fold ?_ _ ?_)
    | (with_reducible refine Keeps.foldFst ?_ _ ?_)
    | split

theorem ppsEdge_keeps {a : State} {x0 : State} {x1 : Time} (h0 : Keeps a x0) : Keeps a (ppsEdge x0 x1) := by
  unfold ppsEdge
  try dsimp only
  repeat' first
    | with_reducible assumption
    | with_reducible apply State.setPwr_keeps
    | with_reducible apply State.count_keeps
    | with_reducible apply State.logEvent_keeps
    | with_reducible apply ppsAccept_keeps
    | (with_reducible refine Keeps.fst (by with_reducible assumption) ?_)
    | (with_reducible refine Keeps.snd (by with_reducible assumption) ?_)
    | (with_reducible refine Keeps.fold ?_ _ ?_)
    | (with_reducible refine Keeps.foldFst ?_ _ ?_)
    | split

theorem activeEdge_keeps {a : State} {x0 : State} {x1 : Nat} {x2 : Time} (h0 : Keeps a x0) : Keeps a (activeEdge x0 x1 x2) := by
  unfold activeEdge
  try dsimp only
  repeat' first
    | with_reducible assumption
    | with_reducible apply State.setPwr_keeps
    | with_reducible apply State.count_keeps
    | with_reducible apply ppsEdge_keeps
    | (with_reducible refine Keeps.fst (by with_reducible assumption) ?_)
    | (with_reducible refine Keeps.snd (by with_reducible assumption) ?_)
    | (with_reducible refine Keeps.fold ?_ _ ?_)
    | (with_reducible refine Keeps.foldFst ?_ _ ?_)
    | split

theorem execInputLevelAccept_keeps {a : State} {x0 : Fin 21} {x1 : State} (h1 : Keeps a x1) : OKeeps a (execInputLevelAccept x0 x1) := by
  unfold execInputLevelAccept
  try dsimp only
  repeat' first
    | with_reducible assumption
    | with_reducible apply OKeeps.next
    | exact trivial
    | with_reducible apply activeEdge_keeps
    | with_reducible apply State.setInput_keeps
    | (with_reducible refine Keeps.fst (by with_reducible assumption) ?_)
    | (with_reducible refine Keeps.snd (by with_reducible assumption) ?_)
    | (with_reducible refine Keeps.fold ?_ _ ?_)
    | (with_reducible refine Keeps.foldFst ?_ _ ?_)
    | split

theorem execInputStuck_keeps {a : State} {x0 : Fin 5} {x1 : State} (h1 : Keeps a x1) : OKeeps a (execInputStuck x0 x1) := by
  unfold execInputStuck
  try dsimp only
  repeat' first
    | with_reducible assumption
    | with_reducible apply OKeeps.next
    | exact trivial
    | with_reducible apply State.setInput_keeps
    | with_reducible apply State.logEvent_keeps
    | (with_reducible refine Keeps.fst (by with_reducible assumption) ?_)
    | (with_reducible refine Keeps.snd (by with_reducible assumption) ?_)
    | (with_reducible refine Keeps.fold ?_ _ ?_)
    | (with_reducible refine Keeps.foldFst ?_ _ ?_)
    | split

theorem execTimerefLoss_keeps {a : State} {x0 : State} (h0 : Keeps a x0) : OKeeps a (execTimerefLoss x0) := by
  unfold execTimerefLoss
  try dsimp only
  repeat' first
    | with_reducible assumption
    | with_reducible apply OKeeps.next
    | exact trivial
    | with_reducible apply State.setPwr_keeps
    | with_reducible apply State.count_keeps
    | (with_reducible refine Keeps.fst (by with_reducible assumption) ?_)
    | (with_reducible refine Keeps.snd (by with_reducible assumption) ?_)
    | (with_reducible refine Keeps.fold ?_ _ ?_)
    | (with_reducible refine Keeps.foldFst ?_ _ ?_)
    | split

theorem execTimerefRestore_keeps {a : State} {x0 : State} (h0 : Keeps a x0) : OKeeps a (execTimerefRestore x0) := by
  unfold execTimerefRestore
  try dsimp only
  repeat' first
    | with_reducible assumption
    | with_reducible apply OKeeps.next
    | exact trivial
    | with_reducible apply slewRate_keeps
    | with_reducible apply State.setPwr_keeps
    | (with_reducible refine Keeps.fst (by with_reducible assumption) ?_)
    | (with_reducible refine Keeps.snd (by with_reducible assumption) ?_)
    | (with_reducible refine Keeps.fold ?_ _ ?_)
    | (with_reducible refine Keeps.foldFst ?_ _ ?_)
    | split

end Sys2Proof.Machine
end

