-- ==== Sys2Proof/Laws/Portal.lean ====
section
/-! SUPPORT. What the operations of Portal keep: the fuses, the queue and the canonical form of the stores. -/

namespace Sys2Proof.Machine

open Host

theorem portalAlloc_keeps {a : State} {x0 : State} {x1 : ThreadId} {x2 : AllocReq} {x3 : Bool} {x4 : BitVec 4} {x5 : Option BaseUpdate} (h0 : Keeps a x0) : RKeeps a (portalAlloc x0 x1 x2 x3 x4 x5) := by
  unfold portalAlloc
  try dsimp only
  repeat' first
    | with_reducible assumption
    | with_reducible apply RKeeps.ok
    | with_reducible apply RKeeps.jump
    | with_reducible apply RKeeps.stay
    | with_reducible apply RKeeps.gone
    | exact RKeeps.raise
    | exact RKeeps.call
    | with_reducible apply State.modThread_keeps
    | with_reducible apply allocLoad_keeps
    | (with_reducible refine Keeps.fst (by with_reducible assumption) ?_)
    | (with_reducible refine Keeps.snd (by with_reducible assumption) ?_)
    | (with_reducible refine Keeps.fold ?_ _ ?_)
    | (with_reducible refine Keeps.foldFst ?_ _ ?_)
    | split

theorem portalStore_keeps {a : State} {x0 : State} {x1 : Nat} {x2 : TryOp} {x3 : Nat} {x4 : Nat} (h0 : Keeps a x0) : Keeps a (portalStore x0 x1 x2 x3 x4) := by
  unfold portalStore
  try dsimp only
  repeat' first
    | with_reducible assumption
    | with_reducible apply dropUnclaimed_keeps
    | with_reducible apply tryApply_keeps
    | with_reducible apply forgetPacket_keeps

theorem portalRow_keeps {a : State} {x0 : ThreadId} {x1 : Nat} {x2 : Result} {x3 : State} (h2 : RKeeps a x2) (h3 : Keeps a x3) : OKeeps a (portalRow x0 x1 x2 x3) := by
  unfold portalRow
  try dsimp only
  repeat' first
    | with_reducible assumption
    | with_reducible apply h2
    | with_reducible apply OKeeps.next
    | exact trivial
    | with_reducible apply RKeeps.ok
    | with_reducible apply RKeeps.jump
    | with_reducible apply RKeeps.stay
    | with_reducible apply RKeeps.gone
    | exact RKeeps.raise
    | exact RKeeps.call
    | with_reducible apply issue_keeps
    | (with_reducible refine Keeps.fst (by with_reducible assumption) ?_)
    | (with_reducible refine Keeps.snd (by with_reducible assumption) ?_)
    | (with_reducible refine Keeps.fold ?_ _ ?_)
    | (with_reducible refine Keeps.foldFst ?_ _ ?_)
    | split
    | (with_reducible intro _)

theorem execTraysAllocSize_keeps {a : State} {x0 : ThreadId} {x1 : BitVec 10} {x2 : Bool} {x3 : BitVec 4} {x4 : State} (h4 : Keeps a x4) : OKeeps a (execTraysAllocSize x0 x1 x2 x3 x4) := by
  unfold execTraysAllocSize
  try dsimp only
  repeat' first
    | with_reducible assumption
    | with_reducible apply OKeeps.next
    | exact trivial
    | with_reducible apply RKeeps.ok
    | with_reducible apply RKeeps.jump
    | with_reducible apply RKeeps.stay
    | with_reducible apply RKeeps.gone
    | exact RKeeps.raise
    | exact RKeeps.call
    | with_reducible apply portalAlloc_keeps
    | with_reducible apply portalRow_keeps

theorem execTraysAllocPool_keeps {a : State} {x0 : ThreadId} {x1 : BitVec 3} {x2 : Bool} {x3 : BitVec 4} {x4 : State} (h4 : Keeps a x4) : OKeeps a (execTraysAllocPool x0 x1 x2 x3 x4) := by
  unfold execTraysAllocPool
  try dsimp only
  repeat' first
    | with_reducible assumption
    | with_reducible apply OKeeps.next
    | exact trivial
    | with_reducible apply RKeeps.ok
    | with_reducible apply RKeeps.jump
    | with_reducible apply RKeeps.stay
    | with_reducible apply RKeeps.gone
    | exact RKeeps.raise
    | exact RKeeps.call
    | with_reducible apply portalAlloc_keeps
    | with_reducible apply portalRow_keeps

theorem execFree_keeps {a : State} {x0 : ThreadId} {x1 : Word} {x2 : State} (h2 : Keeps a x2) : OKeeps a (execFree x0 x1 x2) := by
  unfold execFree
  try dsimp only
  repeat' first
    | with_reducible assumption
    | with_reducible apply OKeeps.next
    | exact trivial
    | with_reducible apply RKeeps.ok
    | with_reducible apply RKeeps.jump
    | with_reducible apply RKeeps.stay
    | with_reducible apply RKeeps.gone
    | exact RKeeps.raise
    | exact RKeeps.call
    | with_reducible apply portalStore_keeps
    | with_reducible apply portalRow_keeps

theorem execGive_keeps {a : State} {x0 : ThreadId} {x1 : BitVec 12} {x2 : Word} {x3 : State} (h3 : Keeps a x3) : OKeeps a (execGive x0 x1 x2 x3) := by
  unfold execGive
  try dsimp only
  repeat' first
    | with_reducible assumption
    | with_reducible apply OKeeps.next
    | exact trivial
    | with_reducible apply RKeeps.ok
    | with_reducible apply RKeeps.jump
    | with_reducible apply RKeeps.stay
    | with_reducible apply RKeeps.gone
    | exact RKeeps.raise
    | exact RKeeps.call
    | with_reducible apply portalStore_keeps
    | with_reducible apply portalRow_keeps

theorem execShare_keeps {a : State} {x0 : ThreadId} {x1 : BitVec 12} {x2 : Word} {x3 : State} (h3 : Keeps a x3) : OKeeps a (execShare x0 x1 x2 x3) := by
  unfold execShare
  try dsimp only
  repeat' first
    | with_reducible assumption
    | with_reducible apply OKeeps.next
    | exact trivial
    | with_reducible apply RKeeps.ok
    | with_reducible apply RKeeps.jump
    | with_reducible apply RKeeps.stay
    | with_reducible apply RKeeps.gone
    | exact RKeeps.raise
    | exact RKeeps.call
    | with_reducible apply portalStore_keeps
    | with_reducible apply portalRow_keeps

theorem execTraysWaitReport_keeps {a : State} {x0 : ThreadId} {x1 : State} (h1 : Keeps a x1) : OKeeps a (execTraysWaitReport x0 x1) := by
  unfold execTraysWaitReport
  try dsimp only
  repeat' first
    | with_reducible assumption
    | with_reducible apply OKeeps.next
    | exact trivial
    | with_reducible apply State.setTrays_keeps
    | with_reducible apply State.count_keeps
    | (with_reducible refine Keeps.fst (by with_reducible assumption) ?_)
    | (with_reducible refine Keeps.snd (by with_reducible assumption) ?_)
    | (with_reducible refine Keeps.fold ?_ _ ?_)
    | (with_reducible refine Keeps.foldFst ?_ _ ?_)
    | split

theorem execTraysWithdraw_keeps {a : State} {x0 : ThreadId} {x1 : State} (h1 : Keeps a x1) : OKeeps a (execTraysWithdraw x0 x1) := by
  unfold execTraysWithdraw
  try dsimp only
  repeat' first
    | with_reducible assumption
    | with_reducible apply OKeeps.next
    | exact trivial
    | with_reducible apply State.setTrays_keeps
    | with_reducible apply endTrayWait_keeps
    | with_reducible apply State.count_keeps
    | (with_reducible refine Keeps.fst (by with_reducible assumption) ?_)
    | (with_reducible refine Keeps.snd (by with_reducible assumption) ?_)
    | (with_reducible refine Keeps.fold ?_ _ ?_)
    | (with_reducible refine Keeps.foldFst ?_ _ ?_)
    | split

theorem startReclaim_keeps {a : State} {x0 : State} {x1 : Nat} (h0 : Keeps a x0) : Keeps a (startReclaim x0 x1) := by
  unfold startReclaim
  try dsimp only
  repeat' first
    | with_reducible assumption
    | with_reducible apply State.setTrays_keeps
    | (with_reducible refine Keeps.fst (by with_reducible assumption) ?_)
    | (with_reducible refine Keeps.snd (by with_reducible assumption) ?_)
    | (with_reducible refine Keeps.fold ?_ _ ?_)
    | (with_reducible refine Keeps.foldFst ?_ _ ?_)
    | split

theorem execTraysReclaimed_keeps {a : State} {x0 : State} (h0 : Keeps a x0) : OKeeps a (execTraysReclaimed x0) := by
  unfold execTraysReclaimed
  split
  · exact OKeeps.next h0
  · next r _ =>
    refine OKeeps.next (State.logEvent_keeps (Keeps.fold (fun st x h => forgetPacket_keeps h) _ (State.setTrays_keeps ?_)))
    exact Keeps.foldFst (fun p x h => reclaimBuffer_keeps h) _ h0

theorem execTraysEcc_keeps {a : State} {x0 : Word} {x1 : State} (h1 : Keeps a x1) : OKeeps a (execTraysEcc x0 x1) := by
  unfold execTraysEcc
  try dsimp only
  repeat' first
    | with_reducible assumption
    | with_reducible apply OKeeps.next
    | exact trivial
    | with_reducible apply State.count_keeps
    | with_reducible apply State.logEvent_keeps
    | with_reducible apply State.setFreeList_keeps
    | with_reducible apply State.setBuf_keeps
    | (with_reducible refine Keeps.fst (by with_reducible assumption) ?_)
    | (with_reducible refine Keeps.snd (by with_reducible assumption) ?_)
    | (with_reducible refine Keeps.fold ?_ _ ?_)
    | (with_reducible refine Keeps.foldFst ?_ _ ?_)
    | split

end Sys2Proof.Machine
end

