-- ==== Sys2Proof/Laws/Regs.lean ====
section
/-! SUPPORT. What the operations of Regs keep: the fuses, the queue and the canonical form of the stores. -/

namespace Sys2Proof.Machine

open Host

theorem State.setGlb_keeps {a : State} {x0 : State} {x1 : Glb} (h0 : Keeps a x0) : Keeps a (State.setGlb x0 x1) := by
  unfold State.setGlb
  try dsimp only
  repeat' first
    | with_reducible assumption
    | (with_reducible refine Keeps.fst (by with_reducible assumption) ?_)
    | (with_reducible refine Keeps.snd (by with_reducible assumption) ?_)
    | (with_reducible refine Keeps.fold ?_ _ ?_)
    | (with_reducible refine Keeps.foldFst ?_ _ ?_)
    | split
    | (with_reducible intro _)
    | fail_if_no_progress (with_reducible apply Keeps.put)

theorem flagError_keeps {a : State} {x0 : State} {x1 : BitVec 4} {x2 : Path} {x3 : Nat} {x4 : Bool} (h0 : Keeps a x0) : Keeps a (flagError x0 x1 x2 x3 x4) := by
  unfold flagError
  try dsimp only
  repeat' first
    | with_reducible assumption
    | with_reducible apply State.setGlb_keeps
    | (with_reducible refine Keeps.fst (by with_reducible assumption) ?_)
    | (with_reducible refine Keeps.snd (by with_reducible assumption) ?_)
    | (with_reducible refine Keeps.fold ?_ _ ?_)
    | (with_reducible refine Keeps.foldFst ?_ _ ?_)
    | split

theorem flagAccess_keeps {a : State} {x0 : State} {x1 : Path} {x2 : Nat} {x3 : Bool} (h0 : Keeps a x0) : Keeps a (flagAccess x0 x1 x2 x3) := by
  unfold flagAccess
  try dsimp only
  repeat' first
    | with_reducible assumption
    | with_reducible apply State.setGlb_keeps
    | (with_reducible refine Keeps.fst (by with_reducible assumption) ?_)
    | (with_reducible refine Keeps.snd (by with_reducible assumption) ?_)
    | (with_reducible refine Keeps.fold ?_ _ ?_)
    | (with_reducible refine Keeps.foldFst ?_ _ ?_)
    | split

theorem State.putStored_keeps {a : State} {x0 : State} {x1 : Nat} {x2 : Word} (h0 : Keeps a x0) : Keeps a (State.putStored x0 x1 x2) := by
  unfold State.putStored
  try dsimp only
  repeat' first
    | with_reducible assumption
    | with_reducible apply State.setReg_keeps
    | with_reducible apply State.setFn_keeps
    | (with_reducible refine Keeps.fst (by with_reducible assumption) ?_)
    | (with_reducible refine Keeps.snd (by with_reducible assumption) ?_)
    | (with_reducible refine Keeps.fold ?_ _ ?_)
    | (with_reducible refine Keeps.foldFst ?_ _ ?_)
    | split

theorem expertChanged_keeps {a : State} {x0 : State} {x1 : Nat} {x2 : Bool} (h0 : Keeps a x0) : Keeps a (expertChanged x0 x1 x2) := by
  unfold expertChanged
  try dsimp only
  repeat' first
    | with_reducible assumption
    | with_reducible apply State.setReg_keeps
    | (with_reducible refine Keeps.fst (by with_reducible assumption) ?_)
    | (with_reducible refine Keeps.snd (by with_reducible assumption) ?_)
    | (with_reducible refine Keeps.fold ?_ _ ?_)
    | (with_reducible refine Keeps.foldFst ?_ _ ?_)
    | split
    | (with_reducible intro _)

theorem withdrawExpert_keeps {a : State} {x0 : State} {x1 : Nat} (h0 : Keeps a x0) : Keeps a (withdrawExpert x0 x1) := by
  unfold withdrawExpert
  try dsimp only
  repeat' first
    | with_reducible assumption
    | with_reducible apply State.setReg_keeps
    | with_reducible apply expertChanged_keeps
    | (with_reducible refine Keeps.fst (by with_reducible assumption) ?_)
    | (with_reducible refine Keeps.snd (by with_reducible assumption) ?_)
    | (with_reducible refine Keeps.fold ?_ _ ?_)
    | (with_reducible refine Keeps.foldFst ?_ _ ?_)
    | split

theorem xoffRefresh_keeps {a : State} {x0 : State} {x1 : Nat} {x2 : Nat} (h0 : Keeps a x0) : Keeps a (xoffRefresh x0 x1 x2) := by
  unfold xoffRefresh
  try dsimp only
  repeat' first
    | with_reducible assumption
    | with_reducible apply occAdd_keeps
    | with_reducible apply occSub_keeps
    | with_reducible apply State.swtSet_keeps
    | (with_reducible refine Keeps.fst (by with_reducible assumption) ?_)
    | (with_reducible refine Keeps.snd (by with_reducible assumption) ?_)
    | (with_reducible refine Keeps.fold ?_ _ ?_)
    | (with_reducible refine Keeps.foldFst ?_ _ ?_)
    | split

theorem afterWrite_keeps {a : State} {x0 : State} {x1 : Nat} {x2 : Nat} {x3 : Word} {x4 : Word} (h0 : Keeps a x0) : Keeps a (afterWrite x0 x1 x2 x3 x4) := by
  unfold afterWrite
  try dsimp only
  repeat' first
    | with_reducible assumption
    | with_reducible apply expertChanged_keeps
    | with_reducible apply semInit_keeps
    | with_reducible apply xoffRefresh_keeps
    | with_reducible apply ethCfgChanged_keeps
    | with_reducible apply roleChanged_keeps
    | with_reducible apply ptpCheck_keeps
    | (with_reducible refine Keeps.fst (by with_reducible assumption) ?_)
    | (with_reducible refine Keeps.snd (by with_reducible assumption) ?_)
    | (with_reducible refine Keeps.fold ?_ _ ?_)
    | (with_reducible refine Keeps.foldFst ?_ _ ?_)
    | split

theorem writeStored_keeps {a : State} {x0 : State} {x1 : Path} {x2 : Nat} {x3 : Nat} {x4 : Nat} {x5 : RegRow} {x6 : Word} (h0 : Keeps a x0) : Keeps a (writeStored x0 x1 x2 x3 x4 x5 x6).1 := by
  unfold writeStored
  try dsimp only
  repeat' first
    | with_reducible assumption
    | with_reducible apply expertChanged_keeps
    | with_reducible apply afterWrite_keeps
    | with_reducible apply writeFnCtrl_keeps
    | with_reducible apply flagError_keeps
    | with_reducible apply State.putStored_keeps
    | (with_reducible refine Keeps.fst (by with_reducible assumption) ?_)
    | (with_reducible refine Keeps.snd (by with_reducible assumption) ?_)
    | (with_reducible refine Keeps.fold ?_ _ ?_)
    | (with_reducible refine Keeps.foldFst ?_ _ ?_)
    | split

theorem writePart_keeps {a : State} {x0 : State} {x1 : Path} {x2 : Nat} {x3 : Nat} {x4 : Nat} {x5 : Nat} {x6 : Nat} {x7 : RegRow} {x8 : Word} (h0 : Keeps a x0) : Keeps a (writePart x0 x1 x2 x3 x4 x5 x6 x7 x8).1 := by
  unfold writePart
  try dsimp only
  repeat' first
    | with_reducible assumption
    | with_reducible apply State.putStored_keeps
    | with_reducible apply setTai_keeps
    | with_reducible apply flagError_keeps
    | with_reducible apply State.setGlb_keeps
    | (with_reducible refine Keeps.fst (by with_reducible assumption) ?_)
    | (with_reducible refine Keeps.snd (by with_reducible assumption) ?_)
    | (with_reducible refine Keeps.fold ?_ _ ?_)
    | (with_reducible refine Keeps.foldFst ?_ _ ?_)
    | split
    | (with_reducible intro _)

theorem writeExpert_keeps {a : State} {x0 : State} {x1 : Word} (h0 : Keeps a x0) : Keeps a (writeExpert x0 x1) := by
  unfold writeExpert
  try dsimp only
  repeat' first
    | with_reducible assumption
    | with_reducible apply withdrawExpert_keeps
    | (with_reducible refine Keeps.fst (by with_reducible assumption) ?_)
    | (with_reducible refine Keeps.snd (by with_reducible assumption) ?_)
    | (with_reducible refine Keeps.fold ?_ _ ?_)
    | (with_reducible refine Keeps.foldFst ?_ _ ?_)
    | split
    | (with_reducible intro _)

theorem writeExpertThr_keeps {a : State} {x0 : State} {x1 : Word} (h0 : Keeps a x0) : Keeps a (writeExpertThr x0 x1) := by
  unfold writeExpertThr
  try dsimp only
  repeat' first
    | with_reducible assumption
    | with_reducible apply withdrawExpert_keeps
    | (with_reducible refine Keeps.fst (by with_reducible assumption) ?_)
    | (with_reducible refine Keeps.snd (by with_reducible assumption) ?_)
    | (with_reducible refine Keeps.fold ?_ _ ?_)
    | (with_reducible refine Keeps.foldFst ?_ _ ?_)
    | split
    | (with_reducible intro _)

theorem writeReset_keeps {a : State} {x0 : State} {x1 : Path} {x2 : Nat} {x3 : Word} (h0 : Keeps a x0) : Keeps a (writeReset x0 x1 x2 x3).1 := by
  unfold writeReset
  try dsimp only
  repeat' first
    | with_reducible assumption
    | with_reducible apply flagError_keeps
    | with_reducible apply State.setMgt_keeps
    | with_reducible apply flagAccess_keeps
    | (with_reducible refine Keeps.fst (by with_reducible assumption) ?_)
    | (with_reducible refine Keeps.snd (by with_reducible assumption) ?_)
    | (with_reducible refine Keeps.fold ?_ _ ?_)
    | (with_reducible refine Keeps.foldFst ?_ _ ?_)
    | split

theorem writeRingCmd_keeps {a : State} {x0 : State} {x1 : Path} {x2 : Nat} {x3 : Word} (h0 : Keeps a x0) : Keeps a (writeRingCmd x0 x1 x2 x3).1 := by
  unfold writeRingCmd
  try dsimp only
  repeat' first
    | with_reducible assumption
    | with_reducible apply State.setRing_keeps
    | with_reducible apply ringCommand_keeps
    | with_reducible apply flagError_keeps
    | (with_reducible refine Keeps.fst (by with_reducible assumption) ?_)
    | (with_reducible refine Keeps.snd (by with_reducible assumption) ?_)
    | (with_reducible refine Keeps.fold ?_ _ ?_)
    | (with_reducible refine Keeps.foldFst ?_ _ ?_)
    | split

theorem writeDbgReq_keeps {a : State} {x0 : State} {x1 : Path} {x2 : Nat} {x3 : Nat} {x4 : Word} (h0 : Keeps a x0) : Keeps a (writeDbgReq x0 x1 x2 x3 x4).1 := by
  unfold writeDbgReq
  try dsimp only
  repeat' first
    | with_reducible assumption
    | with_reducible apply dbgRequest_keeps
    | with_reducible apply flagError_keeps
    | (with_reducible refine Keeps.fst (by with_reducible assumption) ?_)
    | (with_reducible refine Keeps.snd (by with_reducible assumption) ?_)
    | (with_reducible refine Keeps.fold ?_ _ ?_)
    | (with_reducible refine Keeps.foldFst ?_ _ ?_)
    | split

theorem writeReclaim_keeps {a : State} {x0 : State} {x1 : Path} {x2 : Nat} {x3 : Word} (h0 : Keeps a x0) : Keeps a (writeReclaim x0 x1 x2 x3).1 := by
  unfold writeReclaim
  try dsimp only
  repeat' first
    | with_reducible assumption
    | with_reducible apply startReclaim_keeps
    | with_reducible apply flagError_keeps
    | (with_reducible refine Keeps.fst (by with_reducible assumption) ?_)
    | (with_reducible refine Keeps.snd (by with_reducible assumption) ?_)
    | (with_reducible refine Keeps.fold ?_ _ ?_)
    | (with_reducible refine Keeps.foldFst ?_ _ ?_)
    | split

theorem clearCxLog_keeps {a : State} {x0 : State} {x1 : Nat} (h0 : Keeps a x0) : Keeps a (clearCxLog x0 x1) := by
  unfold clearCxLog
  try dsimp only
  repeat' first
    | with_reducible assumption
    | (with_reducible refine Keeps.fst (by with_reducible assumption) ?_)
    | (with_reducible refine Keeps.snd (by with_reducible assumption) ?_)
    | (with_reducible refine Keeps.fold ?_ _ ?_)
    | (with_reducible refine Keeps.foldFst ?_ _ ?_)
    | split
    | fail_if_no_progress (with_reducible apply Keeps.putCores)
    | with_reducible exact Cores.posts_wf
    | with_reducible exact Cores.chans_wf (fun w => sput_wf w _ _)
    | with_reducible exact Cores.chans_wf (fun w => smod_wf w _ _)
    | with_reducible exact Cores.clusters_wf (fun w => sput_wf w _ _)
    | with_reducible exact Cores.clusters_wf (fun w => smod_wf w _ _)
    | with_reducible exact Cores.cxen_wf (fun w => sput_wf w _ _)
    | with_reducible exact Cores.cxen_wf (fun w => smod_wf w _ _)
    | with_reducible exact Cores.cxlog_wf (fun w => sput_wf w _ _)

theorem writeSpecial_keeps {a : State} {x0 : State} {x1 : Path} {x2 : Nat} {x3 : Nat} {x4 : Nat} {x5 : Word} (h0 : Keeps a x0) : PKeeps a Prod.fst (writeSpecial x0 x1 x2 x3 x4 x5) := by
  unfold writeSpecial
  refine PKeeps.ite ?_ (PKeeps.ite ?_ (PKeeps.ite ?_ (PKeeps.ite ?_ (PKeeps.ite ?_ (PKeeps.ite ?_ (PKeeps.ite ?_ (PKeeps.ite ?_
    (PKeeps.ite ?_ (PKeeps.ite ?_ PKeeps.none)))))))))
  · split
    · exact PKeeps.some (State.setGlb_keeps h0)
    · exact PKeeps.some (writeReset_keeps h0)
    · exact PKeeps.some (writeExpert_keeps h0)
    · exact PKeeps.some (writeExpertThr_keeps h0)
    · exact PKeeps.none
  · split
    · exact PKeeps.some (Keeps.fold (fun st x h => Keeps.ite (State.setInput_keeps h) h) _ h0)
    · exact PKeeps.some (State.setPwr_keeps h0)
    · exact PKeeps.none
  · exact PKeeps.some (Keeps.ite (State.setEthPort_keeps h0) h0)
  · exact PKeeps.some (writeRingCmd_keeps h0)
  · exact PKeeps.some (Keeps.ite (State.setLoupe_keeps h0) h0)
  · exact PKeeps.some (Keeps.ite (State.setCls_keeps h0) h0)
  · exact PKeeps.some (writeReclaim_keeps h0)
  · exact PKeeps.some (flushQueue_keeps h0)
  · exact PKeeps.some (forceLock_keeps h0)
  · refine PKeeps.ite ?_ (PKeeps.ite ?_ (PKeeps.ite ?_ PKeeps.none))
    · exact PKeeps.some (writeDbgReq_keeps h0)
    · exact PKeeps.some (windowWrite_keeps h0)
    · exact PKeeps.some (Keeps.ite (clearCxLog_keeps h0) h0)

theorem regWrite_keeps {a : State} {x0 : State} {x1 : Path} {x2 : Nat} {x3 : Word} (h0 : Keeps a x0) : Keeps a (regWrite x0 x1 x2 x3).1 := by
  unfold regWrite
  try dsimp only
  repeat' first
    | with_reducible assumption
    | with_reducible apply writeSpecial_keeps
    | with_reducible apply writePart_keeps
    | with_reducible apply writeStored_keeps
    | with_reducible apply flagError_keeps
    | (with_reducible refine Keeps.fst (by with_reducible assumption) ?_)
    | (with_reducible refine Keeps.snd (by with_reducible assumption) ?_)
    | (with_reducible refine PKeeps.ofSnd (by with_reducible assumption) ?_)
    | with_reducible apply PKeeps.bind
    | (with_reducible refine PKeeps.ofFst (by with_reducible assumption) ?_)
    | (with_reducible refine Keeps.fold ?_ _ ?_)
    | (with_reducible refine Keeps.foldFst ?_ _ ?_)
    | split

theorem clearRead_keeps {a : State} {x0 : State} {x1 : Nat} {x2 : Nat} (h0 : Keeps a x0) : Keeps a (clearRead x0 x1 x2) := by
  unfold clearRead
  split
  · split
    · exact State.setPwr_keeps h0
    · exact State.setPwr_keeps h0
  · split
    · exact State.setLoupe_keeps h0
    · split
      · refine h0.cnt (fun w => ?_) rfl rfl rfl rfl rfl
        exact sput_wf (sput_wf w _ _) _ _
      · split
        · exact readTsq_keeps h0
        · exact h0

theorem regRead_keeps {a : State} {x0 : State} {x1 : Path} {x2 : Nat} (h0 : Keeps a x0) : Keeps a (regRead x0 x1 x2).1 := by
  unfold regRead
  try dsimp only
  repeat' first
    | with_reducible assumption
    | with_reducible apply State.setGlb_keeps
    | with_reducible apply clearRead_keeps
    | with_reducible apply flagError_keeps
    | (with_reducible refine Keeps.fst (by with_reducible assumption) ?_)
    | (with_reducible refine Keeps.snd (by with_reducible assumption) ?_)
    | (with_reducible refine Keeps.fold ?_ _ ?_)
    | (with_reducible refine Keeps.foldFst ?_ _ ?_)
    | split

theorem execRegisterWrite_keeps {a : State} {x0 : Path} {x1 : BitVec 26} {x2 : Word} {x3 : State} (h3 : Keeps a x3) : OKeeps a (execRegisterWrite x0 x1 x2 x3) := by
  unfold execRegisterWrite
  try dsimp only
  repeat' first
    | with_reducible assumption
    | with_reducible apply OKeeps.next
    | exact trivial
    | with_reducible apply regWrite_keeps

theorem execUnmappedAccess_keeps {a : State} {x0 : Path} {x1 : BitVec 26} {x2 : Bool} {x3 : State} (h3 : Keeps a x3) : OKeeps a (execUnmappedAccess x0 x1 x2 x3) := by
  unfold execUnmappedAccess
  try dsimp only
  repeat' first
    | with_reducible assumption
    | with_reducible apply OKeeps.next
    | exact trivial
    | with_reducible apply regRead_keeps
    | with_reducible apply regWrite_keeps
    | (with_reducible refine Keeps.fst (by with_reducible assumption) ?_)
    | (with_reducible refine Keeps.snd (by with_reducible assumption) ?_)
    | (with_reducible refine Keeps.fold ?_ _ ?_)
    | (with_reducible refine Keeps.foldFst ?_ _ ?_)
    | split

theorem execRcRead_keeps {a : State} {x0 : Path} {x1 : BitVec 26} {x2 : State} (h2 : Keeps a x2) : OKeeps a (execRcRead x0 x1 x2) := by
  unfold execRcRead
  try dsimp only
  repeat' first
    | with_reducible assumption
    | with_reducible apply OKeeps.next
    | exact trivial
    | with_reducible apply regRead_keeps
    | (with_reducible refine Keeps.fst (by with_reducible assumption) ?_)
    | (with_reducible refine Keeps.snd (by with_reducible assumption) ?_)
    | (with_reducible refine Keeps.fold ?_ _ ?_)
    | (with_reducible refine Keeps.foldFst ?_ _ ?_)
    | split

theorem execLatchingRead_keeps {a : State} {x0 : Path} {x1 : BitVec 26} {x2 : State} (h2 : Keeps a x2) : OKeeps a (execLatchingRead x0 x1 x2) := by
  unfold execLatchingRead
  try dsimp only
  repeat' first
    | with_reducible assumption
    | with_reducible apply OKeeps.next
    | exact trivial
    | with_reducible apply regRead_keeps
    | (with_reducible refine Keeps.fst (by with_reducible assumption) ?_)
    | (with_reducible refine Keeps.snd (by with_reducible assumption) ?_)
    | (with_reducible refine Keeps.fold ?_ _ ?_)
    | (with_reducible refine Keeps.foldFst ?_ _ ?_)
    | split

theorem execPartialAccess_keeps {a : State} {x0 : Path} {x1 : BitVec 26} {x2 : Bool} {x3 : State} (h3 : Keeps a x3) : OKeeps a (execPartialAccess x0 x1 x2 x3) := by
  unfold execPartialAccess
  try dsimp only
  repeat' first
    | with_reducible assumption
    | with_reducible apply OKeeps.next
    | exact trivial
    | with_reducible apply flagAccess_keeps
    | (with_reducible refine Keeps.fst (by with_reducible assumption) ?_)
    | (with_reducible refine Keeps.snd (by with_reducible assumption) ?_)
    | (with_reducible refine Keeps.fold ?_ _ ?_)
    | (with_reducible refine Keeps.foldFst ?_ _ ?_)
    | split

theorem execOversizeRequest_keeps {a : State} {x0 : Path} {x1 : BitVec 26} {x2 : Bool} {x3 : State} (h3 : Keeps a x3) : OKeeps a (execOversizeRequest x0 x1 x2 x3) := by
  unfold execOversizeRequest
  try dsimp only
  repeat' first
    | with_reducible assumption
    | with_reducible apply OKeeps.next
    | exact trivial
    | with_reducible apply flagAccess_keeps
    | (with_reducible refine Keeps.fst (by with_reducible assumption) ?_)
    | (with_reducible refine Keeps.snd (by with_reducible assumption) ?_)
    | (with_reducible refine Keeps.fold ?_ _ ?_)
    | (with_reducible refine Keeps.foldFst ?_ _ ?_)
    | split

theorem execGlbReset_keeps {a : State} {x0 : Path} {x1 : Word} {x2 : State} (h2 : Keeps a x2) : OKeeps a (execGlbReset x0 x1 x2) := by
  unfold execGlbReset
  try dsimp only
  repeat' first
    | with_reducible assumption
    | with_reducible apply OKeeps.next
    | exact trivial
    | with_reducible apply regWrite_keeps

theorem execGlbExpert_keeps {a : State} {x0 : Path} {x1 : Word} {x2 : State} (h2 : Keeps a x2) : OKeeps a (execGlbExpert x0 x1 x2) := by
  unfold execGlbExpert
  try dsimp only
  repeat' first
    | with_reducible assumption
    | with_reducible apply OKeeps.next
    | exact trivial
    | with_reducible apply regWrite_keeps

theorem execGlbExpertThr_keeps {a : State} {x0 : Path} {x1 : Word} {x2 : State} (h2 : Keeps a x2) : OKeeps a (execGlbExpertThr x0 x1 x2) := by
  unfold execGlbExpertThr
  try dsimp only
  repeat' first
    | with_reducible assumption
    | with_reducible apply OKeeps.next
    | exact trivial
    | with_reducible apply regWrite_keeps

theorem execRoleWrite_keeps {a : State} {x0 : Path} {x1 : Word} {x2 : State} (h2 : Keeps a x2) : OKeeps a (execRoleWrite x0 x1 x2) := by
  unfold execRoleWrite
  try dsimp only
  repeat' first
    | with_reducible assumption
    | with_reducible apply OKeeps.next
    | exact trivial
    | with_reducible apply regWrite_keeps

theorem execTaiOffsetWrite_keeps {a : State} {x0 : Path} {x1 : Word} {x2 : State} (h2 : Keeps a x2) : OKeeps a (execTaiOffsetWrite x0 x1 x2) := by
  unfold execTaiOffsetWrite
  try dsimp only
  repeat' first
    | with_reducible assumption
    | with_reducible apply OKeeps.next
    | exact trivial
    | with_reducible apply regWrite_keeps

theorem execEthPortCfgWrite_keeps {a : State} {x0 : Path} {x1 : Fin 16} {x2 : Word} {x3 : State} (h3 : Keeps a x3) : OKeeps a (execEthPortCfgWrite x0 x1 x2 x3) := by
  unfold execEthPortCfgWrite
  try dsimp only
  repeat' first
    | with_reducible assumption
    | with_reducible apply OKeeps.next
    | exact trivial
    | with_reducible apply regWrite_keeps

theorem execTsqRead_keeps {a : State} {x0 : Path} {x1 : Fin 16} {x2 : State} (h2 : Keeps a x2) : OKeeps a (execTsqRead x0 x1 x2) := by
  unfold execTsqRead
  try dsimp only
  repeat' first
    | with_reducible assumption
    | with_reducible apply OKeeps.next
    | exact trivial
    | with_reducible apply regRead_keeps

theorem execSwtQflush_keeps {a : State} {x0 : Path} {x1 : BitVec 15} {x2 : State} (h2 : Keeps a x2) : OKeeps a (execSwtQflush x0 x1 x2) := by
  unfold execSwtQflush
  try dsimp only
  repeat' first
    | with_reducible assumption
    | with_reducible apply OKeeps.next
    | exact trivial
    | with_reducible apply regWrite_keeps

theorem execTryReclaim_keeps {a : State} {x0 : Path} {x1 : BitVec 12} {x2 : State} (h2 : Keeps a x2) : OKeeps a (execTryReclaim x0 x1 x2) := by
  unfold execTryReclaim
  try dsimp only
  repeat' first
    | with_reducible assumption
    | with_reducible apply OKeeps.next
    | exact trivial
    | with_reducible apply regWrite_keeps

theorem execSpliceX_keeps {a : State} {x0 : Path} {x1 : State} (h1 : Keeps a x1) : OKeeps a (execSpliceX x0 x1) := by
  unfold execSpliceX
  try dsimp only
  repeat' first
    | with_reducible assumption
    | with_reducible apply OKeeps.next
    | exact trivial
    | with_reducible apply regWrite_keeps

theorem execSpliceY_keeps {a : State} {x0 : Path} {x1 : State} (h1 : Keeps a x1) : OKeeps a (execSpliceY x0 x1) := by
  unfold execSpliceY
  try dsimp only
  repeat' first
    | with_reducible assumption
    | with_reducible apply OKeeps.next
    | exact trivial
    | with_reducible apply regWrite_keeps

theorem execLeaveX_keeps {a : State} {x0 : Path} {x1 : State} (h1 : Keeps a x1) : OKeeps a (execLeaveX x0 x1) := by
  unfold execLeaveX
  try dsimp only
  repeat' first
    | with_reducible assumption
    | with_reducible apply OKeeps.next
    | exact trivial
    | with_reducible apply regWrite_keeps

theorem execLeaveY_keeps {a : State} {x0 : Path} {x1 : State} (h1 : Keeps a x1) : OKeeps a (execLeaveY x0 x1) := by
  unfold execLeaveY
  try dsimp only
  repeat' first
    | with_reducible assumption
    | with_reducible apply OKeeps.next
    | exact trivial
    | with_reducible apply regWrite_keeps

theorem execPassX_keeps {a : State} {x0 : Path} {x1 : State} (h1 : Keeps a x1) : OKeeps a (execPassX x0 x1) := by
  unfold execPassX
  try dsimp only
  repeat' first
    | with_reducible assumption
    | with_reducible apply OKeeps.next
    | exact trivial
    | with_reducible apply regWrite_keeps

theorem execPassY_keeps {a : State} {x0 : Path} {x1 : State} (h1 : Keeps a x1) : OKeeps a (execPassY x0 x1) := by
  unfold execPassY
  try dsimp only
  repeat' first
    | with_reducible assumption
    | with_reducible apply OKeeps.next
    | exact trivial
    | with_reducible apply regWrite_keeps

theorem execFnCtrlWrite_keeps {a : State} {x0 : Path} {x1 : Fin 1028} {x2 : Word} {x3 : State} (h3 : Keeps a x3) : OKeeps a (execFnCtrlWrite x0 x1 x2 x3) := by
  unfold execFnCtrlWrite
  try dsimp only
  repeat' first
    | with_reducible assumption
    | with_reducible apply OKeeps.next
    | exact trivial
    | with_reducible apply regWrite_keeps
    | (with_reducible refine Keeps.fst (by with_reducible assumption) ?_)
    | (with_reducible refine Keeps.snd (by with_reducible assumption) ?_)
    | (with_reducible refine Keeps.fold ?_ _ ?_)
    | (with_reducible refine Keeps.foldFst ?_ _ ?_)
    | split

end Sys2Proof.Machine
end

