-- ==== Sys2Proof/Laws/Image.lean ====
section
/-! SUPPORT. What the operations of Image keep: the fuses, the queue and the canonical form of the stores. -/

namespace Sys2Proof.Machine

open Host



theorem tryWrites_keeps {a : State} {x0 : State} {x1 : List (Nat × Nat × Word)} (h0 : Keeps a x0) : Keeps a (tryWrites x0 x1).1 := by
  induction x1 generalizing x0 with
  | nil => exact h0
  | cons y ys ih =>
    unfold tryWrites
    exact ih (regWrite_keeps h0)

theorem fillDefaults_keeps {a : State} {x0 : List (Nat × Nat × Word)} {x1 : State} (h1 : Keeps a x1) : Keeps a (fillDefaults x0 x1) := by
  unfold fillDefaults
  try dsimp only
  repeat' first
    | with_reducible assumption
    | with_reducible apply State.setReg_keeps
    | (with_reducible refine Keeps.fst (by with_reducible assumption) ?_)
    | (with_reducible refine Keeps.snd (by with_reducible assumption) ?_)
    | (with_reducible refine Keeps.fold ?_ _ ?_)
    | (with_reducible refine Keeps.foldFst ?_ _ ?_)
    | split
    | (with_reducible intro _)



theorem refuseImage_keeps {a : State} {x0 : State} {x1 : Nat} {x2 : Refused} (h0 : Keeps a x0) : Keeps a (refuseImage x0 x1 x2) := by
  unfold refuseImage
  try dsimp only
  repeat' first
    | with_reducible assumption
    | with_reducible apply State.setMgt_keeps
    | with_reducible apply State.logEvent_keeps
    | with_reducible apply State.takeFree_keeps
    | (with_reducible refine Keeps.fst (by with_reducible assumption) ?_)
    | (with_reducible refine Keeps.snd (by with_reducible assumption) ?_)
    | (with_reducible refine Keeps.fold ?_ _ ?_)
    | (with_reducible refine Keeps.foldFst ?_ _ ?_)
    | split

theorem writeAccepted_keeps {a : State} {x0 : State} {x1 : List Byte} (h0 : Keeps a x0) : Keeps a (writeAccepted x0 x1) := by
  unfold writeAccepted
  try dsimp only
  repeat' first
    | with_reducible assumption
    | with_reducible apply hbmWrite_keeps
    | with_reducible apply trial_keeps
    | (with_reducible refine Keeps.fst (by with_reducible assumption) ?_)
    | (with_reducible refine Keeps.snd (by with_reducible assumption) ?_)
    | (with_reducible refine Keeps.fold ?_ _ ?_)
    | (with_reducible refine Keeps.foldFst ?_ _ ?_)
    | split
    | (with_reducible intro _)

theorem acceptImage_keeps {a : State} {x0 : State} {x1 : Nat} {x2 : Bool} (h0 : Keeps a x0) : Keeps a (acceptImage x0 x1 x2).1 := by
  unfold acceptImage
  try dsimp only
  repeat' first
    | with_reducible assumption
    | with_reducible apply writeAccepted_keeps
    | with_reducible apply refuseImage_keeps
    | (with_reducible refine Keeps.fst (by with_reducible assumption) ?_)
    | (with_reducible refine Keeps.snd (by with_reducible assumption) ?_)
    | (with_reducible refine Keeps.fold ?_ _ ?_)
    | (with_reducible refine Keeps.foldFst ?_ _ ?_)
    | split

end Sys2Proof.Machine
end

