-- ==== Sys2Proof/Laws/Profile.lean ====
section
/-! SUPPORT. What the operations of Profile keep: the fuses, the queue and the canonical form of the stores. -/

namespace Sys2Proof.Machine

open Host

theorem mergeRegs_wf (s t : State) (ws : List Nat) (h : swf 0 s.regs = true) : swf 0 (mergeRegs s t ws) = true := by
  unfold mergeRegs
  suffices ∀ (l : List Nat) (m : SMap Word), swf 0 m = true →
      swf 0 (l.foldl (fun m k => sput 0 m k (putBits (s.reg k) (profileMask ws k) (t.reg k))) m) = true from this _ _ h
  intro l
  induction l with
  | nil => exact fun _ h => h
  | cons y ys ih => exact fun m h => ih _ (sput_wf h _ _)

theorem effectWrite_keeps {a : State} {x0 : State} {x1 : Nat × Nat × Word} (h0 : Keeps a x0) : Keeps a (effectWrite x0 x1) := by
  unfold effectWrite
  try dsimp only
  repeat' first
    | with_reducible assumption
    | with_reducible apply regWrite_keeps
    | (with_reducible refine Keeps.fst (by with_reducible assumption) ?_)
    | (with_reducible refine Keeps.snd (by with_reducible assumption) ?_)
    | (with_reducible refine Keeps.fold ?_ _ ?_)
    | (with_reducible refine Keeps.foldFst ?_ _ ?_)
    | split

theorem loadMicrocode_keeps {a : State} {x0 : State} {x1 : List Byte} (h0 : Keeps a x0) : Keeps a (loadMicrocode x0 x1) := by
  unfold loadMicrocode
  try dsimp only
  repeat' first
    | with_reducible assumption
    | with_reducible apply State.setLoupe_keeps

theorem loadIstore_keeps {a : State} {x0 : List Byte} {x1 : State} {x2 : Section} (h1 : Keeps a x1) : Keeps a (loadIstore x0 x1 x2) := by
  unfold loadIstore
  try dsimp only
  repeat' first
    | with_reducible assumption
    | with_reducible apply State.setMems_keeps
    | (with_reducible refine Keeps.fst (by with_reducible assumption) ?_)
    | (with_reducible refine Keeps.snd (by with_reducible assumption) ?_)
    | (with_reducible refine Keeps.fold ?_ _ ?_)
    | (with_reducible refine Keeps.foldFst ?_ _ ?_)
    | split
    | fail_if_no_progress (with_reducible apply Keeps.putMems)
    | with_reducible exact Memory.istore_wf (fun w => writeBytes_wf _ _ w)
    | with_reducible exact Memory.scratch_wf (fun w => writeBytes_wf _ _ w)
    | with_reducible exact Memory.shared_wf (fun w => writeBytes_wf _ _ w)
    | with_reducible exact Memory.mgmt_wf (fun w => writeBytes_wf _ _ w)
    | with_reducible exact Memory.pkt_wf (fun w => writeBytes_wf _ _ w)
    | with_reducible exact Memory.hbm_wf (fun w => writeBytes_wf _ _ w)
    | with_reducible exact Memory.host_wf (fun w => writeBytes_wf _ _ w)
    | with_reducible exact Memory.istore_wf (fun w => writeLE_wf w _ _ _)
    | with_reducible exact Memory.scratch_wf (fun w => writeLE_wf w _ _ _)
    | with_reducible exact Memory.shared_wf (fun w => writeLE_wf w _ _ _)
    | with_reducible exact Memory.mgmt_wf (fun w => writeLE_wf w _ _ _)
    | with_reducible exact Memory.pkt_wf (fun w => writeLE_wf w _ _ _)
    | with_reducible exact Memory.hbm_wf (fun w => writeLE_wf w _ _ _)
    | with_reducible exact Memory.host_wf (fun w => writeLE_wf w _ _ _)
    | (with_reducible intro _)

theorem writeMeter_keeps {a : State} {x0 : State} {x1 : Nat} {x2 : List Byte} {x3 : Nat} (h0 : Keeps a x0) : Keeps a (writeMeter x0 x1 x2 x3) := by
  unfold writeMeter
  try dsimp only
  repeat' first
    | with_reducible assumption
    | with_reducible apply hbmWrite_keeps

theorem loadMeters_keeps {a : State} {x0 : State} {x1 : List Byte} {x2 : Time} (h0 : Keeps a x0) : Keeps a (loadMeters x0 x1 x2) := by
  unfold loadMeters
  try dsimp only
  repeat' first
    | with_reducible assumption
    | with_reducible apply writeMeter_keeps
    | (with_reducible refine Keeps.fst (by with_reducible assumption) ?_)
    | (with_reducible refine Keeps.snd (by with_reducible assumption) ?_)
    | (with_reducible refine Keeps.fold ?_ _ ?_)
    | (with_reducible refine Keeps.foldFst ?_ _ ?_)
    | split
    | (with_reducible intro _)

theorem fillCache_keeps {a : State} {x0 : State} (h0 : Keeps a x0) : Keeps a (fillCache x0) := by
  unfold fillCache
  try dsimp only
  repeat' first
    | with_reducible assumption
    | with_reducible apply State.setCls_keeps

theorem swapEpochs_keeps {a : State} {x0 : State} {x1 : List Byte} {x2 : Time} (h0 : Keeps a x0) : Keeps a (swapEpochs x0 x1 x2) := by
  unfold swapEpochs
  try dsimp only
  repeat' first
    | with_reducible assumption
    | with_reducible apply State.setCls_keeps
    | with_reducible apply makeCurrent_keeps
    | with_reducible apply State.setFix_keeps
    | with_reducible apply State.logEvent_keeps
    | (with_reducible refine Keeps.fst (by with_reducible assumption) ?_)
    | (with_reducible refine Keeps.snd (by with_reducible assumption) ?_)
    | (with_reducible refine Keeps.fold ?_ _ ?_)
    | (with_reducible refine Keeps.foldFst ?_ _ ?_)
    | split
    | (with_reducible intro _)

theorem swapLocks_keeps {a : State} {x0 : State} {x1 : State} (h0 : Keeps a x0) (h1 : Keeps a x1) : Keeps a (swapLocks x0 x1) := by
  unfold swapLocks
  try dsimp only
  repeat' first
    | with_reducible assumption
    | with_reducible apply semInit_keeps
    | with_reducible apply State.setReg_keeps
    | with_reducible apply State.setLck_keeps
    | with_reducible apply signalInh_keeps
    | (with_reducible refine Keeps.fst (by with_reducible assumption) ?_)
    | (with_reducible refine Keeps.snd (by with_reducible assumption) ?_)
    | (with_reducible refine Keeps.fold ?_ _ ?_)
    | (with_reducible refine Keeps.foldFst ?_ _ ?_)
    | split
    | (with_reducible intro _)

theorem swapModes_keeps {a : State} {x0 : State} {x1 : List Byte} (h0 : Keeps a x0) : Keeps a (swapModes x0 x1) := by
  unfold swapModes
  try dsimp only
  repeat' first
    | with_reducible assumption
    | with_reducible apply ethStop_keeps
    | (with_reducible refine Keeps.fst (by with_reducible assumption) ?_)
    | (with_reducible refine Keeps.snd (by with_reducible assumption) ?_)
    | (with_reducible refine Keeps.fold ?_ _ ?_)
    | (with_reducible refine Keeps.foldFst ?_ _ ?_)
    | split
    | (with_reducible intro _)
    | fail_if_no_progress (with_reducible apply Keeps.put)

theorem swapPorts_keeps {a : State} {x0 : State} {x1 : State} (h0 : Keeps a x0) (h1 : Keeps a x1) : Keeps a (swapPorts x0 x1) := by
  unfold swapPorts
  try dsimp only
  repeat' first
    | with_reducible assumption
    | with_reducible apply ethCfgChanged_keeps
    | (with_reducible refine Keeps.fst (by with_reducible assumption) ?_)
    | (with_reducible refine Keeps.snd (by with_reducible assumption) ?_)
    | (with_reducible refine Keeps.fold ?_ _ ?_)
    | (with_reducible refine Keeps.foldFst ?_ _ ?_)
    | split
    | (with_reducible intro _)

theorem swapXoff_keeps {a : State} {x0 : State} (h0 : Keeps a x0) : Keeps a (swapXoff x0) := by
  unfold swapXoff
  try dsimp only
  repeat' first
    | with_reducible assumption
    | with_reducible apply xoffRefresh_keeps
    | (with_reducible refine Keeps.fst (by with_reducible assumption) ?_)
    | (with_reducible refine Keeps.snd (by with_reducible assumption) ?_)
    | (with_reducible refine Keeps.fold ?_ _ ?_)
    | (with_reducible refine Keeps.foldFst ?_ _ ?_)
    | split
    | (with_reducible intro _)

theorem swapQueues_keeps {a : State} {x0 : State} (h0 : Keeps a x0) : Keeps a (swapQueues x0) := by
  unfold swapQueues
  try dsimp only
  repeat' first
    | with_reducible assumption
    | with_reducible apply flushQueue_keeps
    | (with_reducible refine Keeps.fst (by with_reducible assumption) ?_)
    | (with_reducible refine Keeps.snd (by with_reducible assumption) ?_)
    | (with_reducible refine Keeps.fold ?_ _ ?_)
    | (with_reducible refine Keeps.foldFst ?_ _ ?_)
    | split
    | (with_reducible intro _)

theorem freeCxen_keeps {a : State} {x0 : State} (h0 : Keeps a x0) : Keeps a (freeCxen x0) := by
  unfold freeCxen
  try dsimp only
  repeat' first
    | with_reducible assumption
    | with_reducible apply State.takeFree_keeps
    | (with_reducible refine Keeps.fst (by with_reducible assumption) ?_)
    | (with_reducible refine Keeps.snd (by with_reducible assumption) ?_)
    | (with_reducible refine Keeps.fold ?_ _ ?_)
    | (with_reducible refine Keeps.foldFst ?_ _ ?_)
    | split
    | fail_if_no_progress (with_reducible apply Keeps.putCores)
    | with_reducible exact Cores.posts_wf
    | with_reducible exact Cores.chans_wf (fun w => sput_wf w _ _)
    | with_reducible exact Cores.chans_wf (fun w => smod_wf w _ _)
    | with_reducible exact Cores.clusters_wf (fun w => sput_wf w _ _)
    | with_reducible exact Cores.clusters_wf (fun w => smod_wf w _ _)
    | with_reducible exact Cores.cxen_wf (fun w => sput_wf w _ _)
    | with_reducible exact Cores.cxen_wf (fun w => smod_wf w _ _)
    | with_reducible exact Cores.cxlog_wf (fun w => sput_wf w _ _)
    | with_reducible exact Cores.cxlog_wf (fun w => smod_wf w _ _)
    | with_reducible exact Cores.bht_wf (fun w => sput_wf w _ _)
    | with_reducible exact Cores.bht_wf (fun w => smod_wf w _ _)
    | (with_reducible intro _)

theorem applyImage_keeps {a : State} {x0 : State} {x1 : List Byte} {x2 : Time} (h0 : Keeps a x0) : Keeps a (applyImage x0 x1 x2) := by
  unfold applyImage
  dsimp only
  refine ptpCheck_keeps (timProfile_keeps (State.setMgt_keeps (stopRecompute_keeps (swapQueues_keeps (swapXoff_keeps (swapPorts_keeps h0
    (freeCxen_keeps (Keeps.putCores (Cores.chans_wf fun _ => rfl) (swapLocks_keeps h0 (swapEpochs_keeps (loadMeters_keeps (fillCache_keeps (Keeps.fold
      (fun st x h => loadIstore_keeps h) _ (loadMicrocode_keeps (Keeps.fold (fun st x h => effectWrite_keeps h) _
        (swapModes_keeps ?_))))))))))))))))
  have k : Keeps a (if x0.mgt.applied = true then x0 else x0.setTrays { x0.trays with pools := imagePools x1 }) := by
    split
    · exact h0
    · exact State.setTrays_keeps h0
  exact k.reg (fun w => mergeRegs_wf _ _ _ w) rfl rfl rfl rfl rfl

theorem enterRun_keeps {a : State} {x0 : State} (h0 : Keeps a x0) : Keeps a (enterRun x0) := by
  unfold enterRun
  try dsimp only
  repeat' first
    | with_reducible assumption
    | with_reducible apply ethStartAll_keeps
    | with_reducible apply autoSplice_keeps
    | (with_reducible refine Keeps.fst (by with_reducible assumption) ?_)
    | (with_reducible refine Keeps.snd (by with_reducible assumption) ?_)
    | (with_reducible refine Keeps.fold ?_ _ ?_)
    | (with_reducible refine Keeps.foldFst ?_ _ ?_)
    | split
    | (with_reducible intro _)
    | fail_if_no_progress (with_reducible apply Keeps.put)

theorem execBootProfileApplied_keeps {a : State} {x0 : Bool} {x1 : State} (h1 : Keeps a x1) : OKeeps a (execBootProfileApplied x0 x1) := by
  unfold execBootProfileApplied
  try dsimp only
  repeat' first
    | with_reducible assumption
    | with_reducible apply OKeeps.next
    | exact trivial
    | with_reducible apply State.setMgt_keeps
    | with_reducible apply enterRun_keeps
    | with_reducible apply applyImage_keeps
    | with_reducible apply acceptImage_keeps
    | (with_reducible refine Keeps.fst (by with_reducible assumption) ?_)
    | (with_reducible refine Keeps.snd (by with_reducible assumption) ?_)
    | (with_reducible refine Keeps.fold ?_ _ ?_)
    | (with_reducible refine Keeps.foldFst ?_ _ ?_)
    | split
    | (with_reducible intro _)
    | fail_if_no_progress (with_reducible apply Keeps.put)

theorem completeSwitch_keeps {a : State} {x0 : State} {x1 : PendingSwitch} {x2 : Nat} (h0 : Keeps a x0) : Keeps a (completeSwitch x0 x1 x2) := by
  unfold completeSwitch
  try dsimp only
  repeat' first
    | with_reducible assumption
    | with_reducible apply enterRun_keeps
    | with_reducible apply State.logEvent_keeps
    | with_reducible apply State.setMgt_keeps

theorem holdFrames_keeps {a : State} {x0 : State} {x1 : Time} (h0 : Keeps a x0) : Keeps a (holdFrames x0 x1) := by
  unfold holdFrames
  try dsimp only
  repeat' first
    | with_reducible assumption
    | with_reducible apply State.setPkt_keeps
    | (with_reducible refine Keeps.fst (by with_reducible assumption) ?_)
    | (with_reducible refine Keeps.snd (by with_reducible assumption) ?_)
    | (with_reducible refine Keeps.fold ?_ _ ?_)
    | (with_reducible refine Keeps.foldFst ?_ _ ?_)
    | split
    | (with_reducible intro _)

theorem releaseHeld_keeps {a : State} {x0 : State} (h0 : Keeps a x0) : Keeps a (releaseHeld x0) := by
  unfold releaseHeld
  try dsimp only
  repeat' first
    | with_reducible assumption
    | with_reducible apply State.setPkt_keeps
    | (with_reducible refine Keeps.fst (by with_reducible assumption) ?_)
    | (with_reducible refine Keeps.snd (by with_reducible assumption) ?_)
    | (with_reducible refine Keeps.fold ?_ _ ?_)
    | (with_reducible refine Keeps.foldFst ?_ _ ?_)
    | split
    | (with_reducible intro _)

theorem execProfileSwitchTime_keeps {a : State} {x0 : State} (h0 : Keeps a x0) : OKeeps a (execProfileSwitchTime x0) := by
  unfold execProfileSwitchTime
  try dsimp only
  repeat' first
    | with_reducible assumption
    | with_reducible apply OKeeps.next
    | exact trivial
    | with_reducible apply holdFrames_keeps
    | with_reducible apply State.setMgt_keeps
    | with_reducible apply applyImage_keeps
    | with_reducible apply completeSwitch_keeps
    | (with_reducible refine Keeps.fst (by with_reducible assumption) ?_)
    | (with_reducible refine Keeps.snd (by with_reducible assumption) ?_)
    | (with_reducible refine Keeps.fold ?_ _ ?_)
    | (with_reducible refine Keeps.foldFst ?_ _ ?_)
    | split
    | (with_reducible intro _)
    | fail_if_no_progress (with_reducible apply Keeps.put)

theorem execDrainLimitExpire_keeps {a : State} {x0 : State} (h0 : Keeps a x0) : OKeeps a (execDrainLimitExpire x0) := by
  unfold execDrainLimitExpire
  try dsimp only
  repeat' first
    | with_reducible assumption
    | with_reducible apply OKeeps.next
    | exact trivial
    | with_reducible apply killForSwap_keeps
    | with_reducible apply State.setMgt_keeps
    | (with_reducible refine Keeps.fst (by with_reducible assumption) ?_)
    | (with_reducible refine Keeps.snd (by with_reducible assumption) ?_)
    | (with_reducible refine Keeps.fold ?_ _ ?_)
    | (with_reducible refine Keeps.foldFst ?_ _ ?_)
    | split

theorem execStopBathDrainDone_keeps {a : State} {x0 : State} (h0 : Keeps a x0) : OKeeps a (execStopBathDrainDone x0) := by
  unfold execStopBathDrainDone
  try dsimp only
  repeat' first
    | with_reducible assumption
    | with_reducible apply OKeeps.next
    | exact trivial
    | with_reducible apply State.setMgt_keeps
    | (with_reducible refine Keeps.fst (by with_reducible assumption) ?_)
    | (with_reducible refine Keeps.snd (by with_reducible assumption) ?_)
    | (with_reducible refine Keeps.fold ?_ _ ?_)
    | (with_reducible refine Keeps.foldFst ?_ _ ?_)
    | split

theorem execSwapFixerEmpty_keeps {a : State} {x0 : State} (h0 : Keeps a x0) : OKeeps a (execSwapFixerEmpty x0) := by
  unfold execSwapFixerEmpty
  try dsimp only
  repeat' first
    | with_reducible assumption
    | with_reducible apply OKeeps.next
    | exact trivial
    | with_reducible apply State.setMgt_keeps
    | with_reducible apply applyImage_keeps
    | (with_reducible refine Keeps.fst (by with_reducible assumption) ?_)
    | (with_reducible refine Keeps.snd (by with_reducible assumption) ?_)
    | (with_reducible refine Keeps.fold ?_ _ ?_)
    | (with_reducible refine Keeps.foldFst ?_ _ ?_)
    | split

theorem execSwapComplete_keeps {a : State} {x0 : State} (h0 : Keeps a x0) : OKeeps a (execSwapComplete x0) := by
  unfold execSwapComplete
  try dsimp only
  repeat' first
    | with_reducible assumption
    | with_reducible apply OKeeps.next
    | exact trivial
    | with_reducible apply releaseHeld_keeps
    | with_reducible apply completeSwitch_keeps
    | (with_reducible refine Keeps.fst (by with_reducible assumption) ?_)
    | (with_reducible refine Keeps.snd (by with_reducible assumption) ?_)
    | (with_reducible refine Keeps.fold ?_ _ ?_)
    | (with_reducible refine Keeps.foldFst ?_ _ ?_)
    | split

end Sys2Proof.Machine
end

