-- ==== Sys2Proof/Laws/Snapshot.lean ====
section
/-! SUPPORT. What the operations of Snapshot keep: the fuses, the queue and the canonical form of the stores. -/

namespace Sys2Proof.Machine

open Host

theorem pairBytes_keeps {a : State} {x0 : Nat} {x1 : State × List Byte} (h1 : Keeps a x1.1) : Keeps a (pairBytes x0 x1).1 := by
  unfold pairBytes
  try dsimp only
  repeat' first
    | with_reducible assumption
    | with_reducible apply State.takeFree_keeps
    | with_reducible apply hbmRead_keeps
    | (with_reducible refine Keeps.fst (by with_reducible assumption) ?_)
    | (with_reducible refine Keeps.snd (by with_reducible assumption) ?_)
    | (with_reducible refine Keeps.fold ?_ _ ?_)
    | (with_reducible refine Keeps.foldFst ?_ _ ?_)
    | split

theorem sectionBytes_keeps {a : State} {x0 : Stream} {x1 : State × List Byte} {x2 : Nat} (h1 : Keeps a x1.1) : Keeps a (sectionBytes x0 x1 x2).1 := by
  unfold sectionBytes
  try dsimp only
  repeat' first
    | with_reducible assumption
    | with_reducible apply pairBytes_keeps
    | (with_reducible refine Keeps.fst (by with_reducible assumption) ?_)
    | (with_reducible refine Keeps.snd (by with_reducible assumption) ?_)
    | (with_reducible refine Keeps.fold ?_ _ ?_)
    | (with_reducible refine Keeps.foldFst ?_ _ ?_)
    | split
    | (with_reducible intro _)

theorem snapshotBytes_keeps {a : State} {x0 : State} {x1 : Nat} {x2 : Stream} {x3 : Word} {x4 : Time} (h0 : Keeps a x0) : Keeps a (snapshotBytes x0 x1 x2 x3 x4).1 := by
  unfold snapshotBytes
  try dsimp only
  repeat' first
    | with_reducible assumption
    | with_reducible apply sectionBytes_keeps
    | (with_reducible refine Keeps.fst (by with_reducible assumption) ?_)
    | (with_reducible refine Keeps.snd (by with_reducible assumption) ?_)
    | (with_reducible refine Keeps.fold ?_ _ ?_)
    | (with_reducible refine Keeps.foldFst ?_ _ ?_)

theorem State.setStream_keeps {a : State} {x0 : State} {x1 : Nat} {x2 : Stream} (h0 : Keeps a x0) : Keeps a (State.setStream x0 x1 x2) := by
  unfold State.setStream
  try dsimp only
  repeat' first
    | with_reducible assumption
    | with_reducible apply State.setHqe_keeps

theorem snapshotMiss_keeps {a : State} {x0 : State} (h0 : Keeps a x0) : Keeps a (snapshotMiss x0) := by
  unfold snapshotMiss
  try dsimp only
  repeat' first
    | with_reducible assumption
    | with_reducible apply State.count_keeps

theorem execSnapshotTake_keeps {a : State} {x0 : BitVec 8} {x1 : State} (h1 : Keeps a x1) : OKeeps a (execSnapshotTake x0 x1) := by
  unfold execSnapshotTake
  try dsimp only
  repeat' first
    | with_reducible assumption
    | with_reducible apply OKeeps.next
    | exact trivial
    | with_reducible apply snapshotBytes_keeps
    | with_reducible apply State.setStream_keeps
    | with_reducible apply snapshotMiss_keeps
    | (with_reducible refine Keeps.fst (by with_reducible assumption) ?_)
    | (with_reducible refine Keeps.snd (by with_reducible assumption) ?_)
    | (with_reducible refine Keeps.fold ?_ _ ?_)
    | (with_reducible refine Keeps.foldFst ?_ _ ?_)
    | split

theorem execSnapshotDeliver_keeps {a : State} {x0 : BitVec 8} {x1 : State} (h1 : Keeps a x1) : OKeeps a (execSnapshotDeliver x0 x1) := by
  unfold execSnapshotDeliver
  try dsimp only
  repeat' first
    | with_reducible assumption
    | with_reducible apply OKeeps.next
    | exact trivial
    | with_reducible apply postCompletion_keeps
    | with_reducible apply State.setMems_keeps
    | with_reducible apply snapshotMiss_keeps
    | with_reducible apply State.setStream_keeps
    | (with_reducible refine Keeps.fst (by with_reducible assumption) ?_)
    | (with_reducible refine Keeps.snd (by with_reducible assumption) ?_)
    | (with_reducible refine Keeps.fold ?_ _ ?_)
    | (with_reducible refine Keeps.foldFst ?_ _ ?_)
    | split
    | fail_if_no_progress (with_reducible apply Keeps.putMems)
    | with_reducible exact Memory.istore_wf (fun w => writeBytes_wf _ _ w)
    | with_reducible exact Memory.scratch_wf (fun w => writeBytes_wf _ _ w)
    | with_reducible exact Memory.shared_wf (fun w => writeBytes_wf _ _ w)
    | with_reducible exact Memory.mgmt_wf (fun w => writeBytes_wf _ _ w)
    | with_reducible exact Memory.pkt_wf (fun w => writeBytes_wf _ _ w)
    | with_reducible exact Memory.hbm_wf (fun w => writeBytes_wf _ _ w)
    | with_reducible exact Memory.host_wf (fun w => writeBytes_wf _ _ w)

end Sys2Proof.Machine
end

