-- ==== Sys2Proof/Laws/Commands.lean ====
section
/-! SUPPORT. What the operations of Commands keep: the fuses, the queue and the canonical form of the stores. -/

namespace Sys2Proof.Machine

open Host

theorem returnData_keeps {a : State} {x0 : State} {x1 : CmdPort} {x2 : Desc} {x3 : List Byte} {x4 : CmdResult} (h0 : Keeps a x0) : Keeps a (returnData x0 x1 x2 x3 x4).1 := by
  unfold returnData
  try dsimp only
  repeat' first
    | with_reducible assumption
    | with_reducible apply h4
    | with_reducible apply State.setMems_keeps
    | (with_reducible refine Keeps.fst (by with_reducible assumption) ?_)
    | (with_reducible refine Keeps.snd (by with_reducible assumption) ?_)
    | (with_reducible refine Keeps.fold ?_ _ ?_)
    | (with_reducible refine Keeps.foldFst ?_ _ ?_)
    | split
    | fail_if_no_progress (with_reducible apply Keeps.putMems)
    | with_reducible exact Memory.istore_wf (fun w => writeBytes_wf _ _ w)
    | with_reducible exact Memory.scratch_wf (fun w => writeBytes_wf _ _ w)
    | with_reducible exact Memory.shared_wf (fun w => writeBytes_wf _ _ w)
    | with_reducible exact Memory.mgmt_wf (fun w => writeBytes_wf _ _ w)
    | with_reducible exact Memory.pkt_wf (fun w => writeBytes_wf _ _ w)
    | with_reducible exact Memory.hbm_wf (fun w => writeBytes_wf _ _ w)
    | with_reducible exact Memory.host_wf (fun w => writeBytes_wf _ _ w)

theorem fails_keeps {a : State} {x0 : State} {x1 : Nat} (h0 : Keeps a x0) : Keeps a (fails x0 x1).1 := by
  unfold fails
  try dsimp only
  repeat' first
    | with_reducible assumption

theorem succeeds_keeps {a : State} {x0 : State} {x1 : Nat} (h0 : Keeps a x0) : Keeps a (succeeds x0 x1).1 := by
  unfold succeeds
  try dsimp only
  repeat' first
    | with_reducible assumption

theorem ringCreate_keeps {a : State} {x0 : State} {x1 : Nat} {x2 : Desc} (h0 : Keeps a x0) : Keeps a (ringCreate x0 x1 x2).1 := by
  unfold ringCreate
  try dsimp only
  repeat' first
    | with_reducible assumption
    | with_reducible apply State.setHring_keeps
    | with_reducible apply succeeds_keeps
    | with_reducible apply fails_keeps
    | (with_reducible refine Keeps.fst (by with_reducible assumption) ?_)
    | (with_reducible refine Keeps.snd (by with_reducible assumption) ?_)
    | (with_reducible refine Keeps.fold ?_ _ ?_)
    | (with_reducible refine Keeps.foldFst ?_ _ ?_)
    | split

theorem cqCreate_keeps {a : State} {x0 : State} {x1 : Nat} {x2 : Desc} (h0 : Keeps a x0) : Keeps a (cqCreate x0 x1 x2).1 := by
  unfold cqCreate
  try dsimp only
  repeat' first
    | with_reducible assumption
    | with_reducible apply State.setCq_keeps
    | with_reducible apply succeeds_keeps
    | with_reducible apply fails_keeps
    | (with_reducible refine Keeps.fst (by with_reducible assumption) ?_)
    | (with_reducible refine Keeps.snd (by with_reducible assumption) ?_)
    | (with_reducible refine Keeps.fold ?_ _ ?_)
    | (with_reducible refine Keeps.foldFst ?_ _ ?_)
    | split

theorem ringDestroy_keeps {a : State} {x0 : State} {x1 : CmdPort} {x2 : Nat} {x3 : Desc} (h0 : Keeps a x0) : Keeps a (ringDestroy x0 x1 x2 x3).1 := by
  unfold ringDestroy
  try dsimp only
  repeat' first
    | with_reducible assumption
    | with_reducible apply State.setHring_keeps
    | with_reducible apply finishDestroy_keeps
    | with_reducible apply State.setHqe_keeps
    | with_reducible apply succeeds_keeps
    | with_reducible apply fails_keeps
    | (with_reducible refine Keeps.fst (by with_reducible assumption) ?_)
    | (with_reducible refine Keeps.snd (by with_reducible assumption) ?_)
    | (with_reducible refine Keeps.fold ?_ _ ?_)
    | (with_reducible refine Keeps.foldFst ?_ _ ?_)
    | split

theorem vfConfig_keeps {a : State} {x0 : State} {x1 : Nat} {x2 : Desc} (h0 : Keeps a x0) : Keeps a (vfConfig x0 x1 x2).1 := by
  unfold vfConfig
  try dsimp only
  repeat' first
    | with_reducible assumption
    | with_reducible apply State.setFn_keeps
    | with_reducible apply succeeds_keeps
    | with_reducible apply fails_keeps
    | (with_reducible refine Keeps.fst (by with_reducible assumption) ?_)
    | (with_reducible refine Keeps.snd (by with_reducible assumption) ?_)
    | (with_reducible refine Keeps.fold ?_ _ ?_)
    | (with_reducible refine Keeps.foldFst ?_ _ ?_)
    | split

theorem snapCreate_keeps {a : State} {x0 : State} {x1 : CmdPort} {x2 : Nat} {x3 : Desc} {x4 : List Byte} {x5 : Bool} (h0 : Keeps a x0) : Keeps a (snapCreate x0 x1 x2 x3 x4 x5).1 := by
  unfold snapCreate
  try dsimp only
  repeat' first
    | with_reducible assumption
    | with_reducible apply State.setStream_keeps
    | with_reducible apply succeeds_keeps
    | with_reducible apply fails_keeps
    | (with_reducible refine Keeps.fst (by with_reducible assumption) ?_)
    | (with_reducible refine Keeps.snd (by with_reducible assumption) ?_)
    | (with_reducible refine Keeps.fold ?_ _ ?_)
    | (with_reducible refine Keeps.foldFst ?_ _ ?_)
    | split

theorem snapRequest_keeps {a : State} {x0 : State} {x1 : Desc} (h0 : Keeps a x0) : Keeps a (snapRequest x0 x1).1 := by
  unfold snapRequest
  try dsimp only
  repeat' first
    | with_reducible assumption
    | with_reducible apply State.setStream_keeps
    | with_reducible apply succeeds_keeps
    | with_reducible apply fails_keeps
    | (with_reducible refine Keeps.fst (by with_reducible assumption) ?_)
    | (with_reducible refine Keeps.snd (by with_reducible assumption) ?_)
    | (with_reducible refine Keeps.fold ?_ _ ?_)
    | (with_reducible refine Keeps.foldFst ?_ _ ?_)
    | split

theorem snapDestroy_keeps {a : State} {x0 : State} {x1 : Desc} (h0 : Keeps a x0) : Keeps a (snapDestroy x0 x1).1 := by
  unfold snapDestroy
  try dsimp only
  repeat' first
    | with_reducible assumption
    | with_reducible apply State.setHqe_keeps
    | with_reducible apply succeeds_keeps
    | with_reducible apply fails_keeps
    | (with_reducible refine Keeps.fst (by with_reducible assumption) ?_)
    | (with_reducible refine Keeps.snd (by with_reducible assumption) ?_)
    | (with_reducible refine Keeps.fold ?_ _ ?_)
    | (with_reducible refine Keeps.foldFst ?_ _ ?_)
    | split

theorem clsNodeWrite_keeps {a : State} {x0 : State} {x1 : CmdPort} {x2 : Desc} {x3 : List Byte} {x4 : Bool} (h0 : Keeps a x0) : Keeps a (clsNodeWrite x0 x1 x2 x3 x4).1 := by
  unfold clsNodeWrite
  try dsimp only
  repeat' first
    | with_reducible assumption
    | with_reducible apply writeClsLine_keeps
    | with_reducible apply succeeds_keeps
    | with_reducible apply fails_keeps
    | (with_reducible refine Keeps.fst (by with_reducible assumption) ?_)
    | (with_reducible refine Keeps.snd (by with_reducible assumption) ?_)
    | (with_reducible refine Keeps.fold ?_ _ ?_)
    | (with_reducible refine Keeps.foldFst ?_ _ ?_)
    | split
    | (with_reducible intro _)

theorem clsEpochStage_keeps {a : State} {x0 : State} {x1 : CmdPort} {x2 : Desc} {x3 : List Byte} {x4 : Bool} (h0 : Keeps a x0) : Keeps a (clsEpochStage x0 x1 x2 x3 x4).1 := by
  unfold clsEpochStage
  try dsimp only
  repeat' first
    | with_reducible assumption
    | with_reducible apply State.setCls_keeps
    | with_reducible apply succeeds_keeps
    | with_reducible apply fails_keeps
    | (with_reducible refine Keeps.fst (by with_reducible assumption) ?_)
    | (with_reducible refine Keeps.snd (by with_reducible assumption) ?_)
    | (with_reducible refine Keeps.fold ?_ _ ?_)
    | (with_reducible refine Keeps.foldFst ?_ _ ?_)
    | split

theorem clsEpochCommit_keeps {a : State} {x0 : State} {x1 : Desc} (h0 : Keeps a x0) : Keeps a (clsEpochCommit x0 x1).1 := by
  unfold clsEpochCommit
  try dsimp only
  repeat' first
    | with_reducible assumption
    | with_reducible apply State.setCls_keeps
    | with_reducible apply succeeds_keeps
    | with_reducible apply State.setSlot_keeps
    | with_reducible apply fails_keeps
    | (with_reducible refine Keeps.fst (by with_reducible assumption) ?_)
    | (with_reducible refine Keeps.snd (by with_reducible assumption) ?_)
    | (with_reducible refine Keeps.fold ?_ _ ?_)
    | (with_reducible refine Keeps.foldFst ?_ _ ?_)
    | split

theorem clsEpochAbort_keeps {a : State} {x0 : State} {x1 : Desc} (h0 : Keeps a x0) : Keeps a (clsEpochAbort x0 x1).1 := by
  unfold clsEpochAbort
  try dsimp only
  repeat' first
    | with_reducible assumption
    | with_reducible apply State.setSlot_keeps
    | with_reducible apply State.logEvent_keeps
    | with_reducible apply succeeds_keeps
    | with_reducible apply fails_keeps
    | (with_reducible refine Keeps.fst (by with_reducible assumption) ?_)
    | (with_reducible refine Keeps.snd (by with_reducible assumption) ?_)
    | (with_reducible refine Keeps.fold ?_ _ ?_)
    | (with_reducible refine Keeps.foldFst ?_ _ ?_)
    | split

theorem meterWrite_keeps {a : State} {x0 : State} {x1 : CmdPort} {x2 : Desc} {x3 : List Byte} {x4 : Bool} (h0 : Keeps a x0) : Keeps a (meterWrite x0 x1 x2 x3 x4).1 := by
  unfold meterWrite
  try dsimp only
  repeat' first
    | with_reducible assumption
    | with_reducible apply writeMeter_keeps
    | with_reducible apply succeeds_keeps
    | with_reducible apply fails_keeps
    | (with_reducible refine Keeps.fst (by with_reducible assumption) ?_)
    | (with_reducible refine Keeps.snd (by with_reducible assumption) ?_)
    | (with_reducible refine Keeps.fold ?_ _ ?_)
    | (with_reducible refine Keeps.foldFst ?_ _ ?_)
    | split

theorem lockOutcome_keeps {a : State} {x0 : Bool} {x1 : State × LckAnswer} (h1 : Keeps a x1.1) : Keeps a (lockOutcome x0 x1).1 := by
  unfold lockOutcome
  try dsimp only
  repeat' first
    | with_reducible assumption
    | with_reducible apply fails_keeps
    | with_reducible apply succeeds_keeps
    | (with_reducible refine Keeps.fst (by with_reducible assumption) ?_)
    | (with_reducible refine Keeps.snd (by with_reducible assumption) ?_)
    | (with_reducible refine Keeps.fold ?_ _ ?_)
    | (with_reducible refine Keeps.foldFst ?_ _ ?_)
    | split

theorem lockAcquire_keeps {a : State} {x0 : State} {x1 : CmdPort} {x2 : Desc} (h0 : Keeps a x0) : Keeps a (lockAcquire x0 x1 x2).1 := by
  unfold lockAcquire
  try dsimp only
  repeat' first
    | with_reducible assumption
    | with_reducible apply lockRequest_keeps
    | with_reducible apply lockOutcome_keeps

theorem lockRelease_keeps {a : State} {x0 : State} {x1 : CmdPort} {x2 : Desc} (h0 : Keeps a x0) : Keeps a (lockRelease x0 x1 x2).1 := by
  unfold lockRelease
  try dsimp only
  repeat' first
    | with_reducible assumption
    | with_reducible apply unlockRequest_keeps
    | with_reducible apply lockOutcome_keeps

theorem semTake_keeps {a : State} {x0 : State} {x1 : CmdPort} {x2 : Desc} (h0 : Keeps a x0) : Keeps a (semTake x0 x1 x2).1 := by
  unfold semTake
  try dsimp only
  repeat' first
    | with_reducible assumption
    | with_reducible apply takeRequest_keeps
    | with_reducible apply lockOutcome_keeps

theorem lockForce_keeps {a : State} {x0 : State} {x1 : CmdPort} {x2 : Desc} (h0 : Keeps a x0) : Keeps a (lockForce x0 x1 x2).1 := by
  unfold lockForce
  try dsimp only
  repeat' first
    | with_reducible assumption
    | with_reducible apply succeeds_keeps
    | with_reducible apply forceLock_keeps

theorem ringOp_keeps {a : State} {x0 : State} {x1 : Desc} (h0 : Keeps a x0) : Keeps a (ringOp x0 x1).1 := by
  unfold ringOp
  try dsimp only
  repeat' first
    | with_reducible assumption
    | with_reducible apply succeeds_keeps
    | with_reducible apply State.setRing_keeps
    | with_reducible apply ringCommand_keeps
    | with_reducible apply fails_keeps
    | (with_reducible refine Keeps.fst (by with_reducible assumption) ?_)
    | (with_reducible refine Keeps.snd (by with_reducible assumption) ?_)
    | (with_reducible refine Keeps.fold ?_ _ ?_)
    | (with_reducible refine Keeps.foldFst ?_ _ ?_)
    | split

theorem profileSwitch_keeps {a : State} {x0 : State} {x1 : Desc} {x2 : Bool} (h0 : Keeps a x0) : Keeps a (profileSwitch x0 x1 x2).1 := by
  unfold profileSwitch
  try dsimp only
  repeat' first
    | with_reducible assumption
    | with_reducible apply State.setMgt_keeps
    | with_reducible apply succeeds_keeps
    | with_reducible apply acceptImage_keeps
    | with_reducible apply fails_keeps
    | (with_reducible refine Keeps.fst (by with_reducible assumption) ?_)
    | (with_reducible refine Keeps.snd (by with_reducible assumption) ?_)
    | (with_reducible refine Keeps.fold ?_ _ ?_)
    | (with_reducible refine Keeps.foldFst ?_ _ ?_)
    | split

theorem profileCancel_keeps {a : State} {x0 : State} (h0 : Keeps a x0) : Keeps a (profileCancel x0).1 := by
  unfold profileCancel
  try dsimp only
  repeat' first
    | with_reducible assumption
    | with_reducible apply State.setMgt_keeps
    | with_reducible apply State.logEvent_keeps
    | with_reducible apply succeeds_keeps
    | with_reducible apply fails_keeps
    | (with_reducible refine Keeps.fst (by with_reducible assumption) ?_)
    | (with_reducible refine Keeps.snd (by with_reducible assumption) ?_)
    | (with_reducible refine Keeps.fold ?_ _ ?_)
    | (with_reducible refine Keeps.foldFst ?_ _ ?_)
    | split

theorem profileStatus_keeps {a : State} {x0 : State} (h0 : Keeps a x0) : Keeps a (profileStatus x0).1 := by
  unfold profileStatus
  try dsimp only
  repeat' first
    | with_reducible assumption

theorem negativeRead_keeps {a : State} {x0 : State} {x1 : CmdPort} {x2 : Desc} (h0 : Keeps a x0) : Keeps a (negativeRead x0 x1 x2).1 := by
  unfold negativeRead
  try dsimp only
  repeat' first
    | with_reducible assumption
    | with_reducible apply returnData_keeps
    | with_reducible apply fails_keeps
    | (with_reducible refine Keeps.fst (by with_reducible assumption) ?_)
    | (with_reducible refine Keeps.snd (by with_reducible assumption) ?_)
    | (with_reducible refine Keeps.fold ?_ _ ?_)
    | (with_reducible refine Keeps.foldFst ?_ _ ?_)
    | split

theorem negativeClear_keeps {a : State} {x0 : State} {x1 : Desc} (h0 : Keeps a x0) : Keeps a (negativeClear x0 x1).1 := by
  unfold negativeClear
  try dsimp only
  repeat' first
    | with_reducible assumption
    | with_reducible apply eraseNegative_keeps
    | with_reducible apply succeeds_keeps
    | with_reducible apply fails_keeps
    | (with_reducible refine Keeps.fst (by with_reducible assumption) ?_)
    | (with_reducible refine Keeps.snd (by with_reducible assumption) ?_)
    | (with_reducible refine Keeps.fold ?_ _ ?_)
    | (with_reducible refine Keeps.foldFst ?_ _ ?_)
    | split

theorem eventRingSet_keeps {a : State} {x0 : State} {x1 : Nat} {x2 : Desc} (h0 : Keeps a x0) : Keeps a (eventRingSet x0 x1 x2).1 := by
  unfold eventRingSet
  try dsimp only
  repeat' first
    | with_reducible assumption
    | with_reducible apply fails_keeps
    | with_reducible apply succeeds_keeps
    | (with_reducible refine Keeps.fst (by with_reducible assumption) ?_)
    | (with_reducible refine Keeps.snd (by with_reducible assumption) ?_)
    | (with_reducible refine Keeps.fold ?_ _ ?_)
    | (with_reducible refine Keeps.foldFst ?_ _ ?_)
    | split
    | (with_reducible intro _)
    | fail_if_no_progress (with_reducible apply Keeps.put)

theorem eventRead_keeps {a : State} {x0 : State} {x1 : CmdPort} {x2 : Desc} (h0 : Keeps a x0) : Keeps a (eventRead x0 x1 x2).1 := by
  unfold eventRead
  try dsimp only
  repeat' first
    | with_reducible assumption
    | with_reducible apply returnData_keeps
    | with_reducible apply fails_keeps
    | (with_reducible refine Keeps.fst (by with_reducible assumption) ?_)
    | (with_reducible refine Keeps.snd (by with_reducible assumption) ?_)
    | (with_reducible refine Keeps.fold ?_ _ ?_)
    | (with_reducible refine Keeps.foldFst ?_ _ ?_)
    | split

theorem cshArm_keeps {a : State} {x0 : State} {x1 : Desc} (h0 : Keeps a x0) : Keeps a (cshArm x0 x1).1 := by
  unfold cshArm
  try dsimp only
  repeat' first
    | with_reducible assumption
    | with_reducible apply fails_keeps
    | with_reducible apply succeeds_keeps
    | (with_reducible refine Keeps.fst (by with_reducible assumption) ?_)
    | (with_reducible refine Keeps.snd (by with_reducible assumption) ?_)
    | (with_reducible refine Keeps.fold ?_ _ ?_)
    | (with_reducible refine Keeps.foldFst ?_ _ ?_)
    | split
    | (with_reducible intro _)
    | fail_if_no_progress (with_reducible apply Keeps.put)

theorem cshStopped_keeps {a : State} {x0 : State} (h0 : Keeps a x0) : Keeps a (cshStopped x0) := by
  unfold cshStopped
  try dsimp only
  repeat' first
    | with_reducible assumption
    | with_reducible apply State.logEvent_keeps

theorem cshStopNow_keeps {a : State} {x0 : State} (h0 : Keeps a x0) : Keeps a (cshStopNow x0) := by
  unfold cshStopNow
  try dsimp only
  repeat' first
    | with_reducible assumption
    | with_reducible apply State.cshStop_keeps
    | with_reducible apply cshStopped_keeps
    | (with_reducible refine Keeps.fst (by with_reducible assumption) ?_)
    | (with_reducible refine Keeps.snd (by with_reducible assumption) ?_)
    | (with_reducible refine Keeps.fold ?_ _ ?_)
    | (with_reducible refine Keeps.foldFst ?_ _ ?_)
    | split
    | (with_reducible intro _)
    | fail_if_no_progress (with_reducible apply Keeps.put)

theorem cshStopAt_keeps {a : State} {x0 : State} {x1 : Desc} (h0 : Keeps a x0) : Keeps a (cshStopAt x0 x1).1 := by
  unfold cshStopAt
  try dsimp only
  repeat' first
    | with_reducible assumption
    | with_reducible apply cshStopNow_keeps
    | with_reducible apply succeeds_keeps
    | (with_reducible refine Keeps.fst (by with_reducible assumption) ?_)
    | (with_reducible refine Keeps.snd (by with_reducible assumption) ?_)
    | (with_reducible refine Keeps.fold ?_ _ ?_)
    | (with_reducible refine Keeps.foldFst ?_ _ ?_)
    | split
    | (with_reducible intro _)
    | fail_if_no_progress (with_reducible apply Keeps.put)

theorem cshMark_keeps {a : State} {x0 : State} {x1 : CmdPort} {x2 : Desc} (h0 : Keeps a x0) : Keeps a (cshMark x0 x1 x2).1 := by
  unfold cshMark
  try dsimp only
  repeat' first
    | with_reducible assumption
    | with_reducible apply State.takeFree_keeps
    | with_reducible apply succeeds_keeps
    | with_reducible apply State.cshOffer_keeps
    | (with_reducible refine Keeps.fst (by with_reducible assumption) ?_)
    | (with_reducible refine Keeps.snd (by with_reducible assumption) ?_)
    | (with_reducible refine Keeps.fold ?_ _ ?_)
    | (with_reducible refine Keeps.foldFst ?_ _ ?_)
    | split

theorem cshRead_keeps {a : State} {x0 : State} {x1 : CmdPort} {x2 : Desc} (h0 : Keeps a x0) : Keeps a (cshRead x0 x1 x2).1 := by
  unfold cshRead
  try dsimp only
  repeat' first
    | with_reducible assumption
    | with_reducible apply returnData_keeps
    | with_reducible apply hbmRead_keeps
    | with_reducible apply fails_keeps
    | (with_reducible refine Keeps.fst (by with_reducible assumption) ?_)
    | (with_reducible refine Keeps.snd (by with_reducible assumption) ?_)
    | (with_reducible refine Keeps.fold ?_ _ ?_)
    | (with_reducible refine Keeps.foldFst ?_ _ ?_)
    | split

theorem debugMode_keeps {a : State} {x0 : State} {x1 : Desc} (h0 : Keeps a x0) : Keeps a (debugMode x0 x1).1 := by
  unfold debugMode
  try dsimp only
  repeat' first
    | with_reducible assumption
    | with_reducible apply succeeds_keeps
    | with_reducible apply fails_keeps
    | with_reducible apply State.setReg_keeps
    | (with_reducible refine Keeps.fst (by with_reducible assumption) ?_)
    | (with_reducible refine Keeps.snd (by with_reducible assumption) ?_)
    | (with_reducible refine Keeps.fold ?_ _ ?_)
    | (with_reducible refine Keeps.foldFst ?_ _ ?_)
    | split
    | (with_reducible intro _)

theorem threadReset_keeps {a : State} {x0 : State} {x1 : Desc} (h0 : Keeps a x0) : Keeps a (threadReset x0 x1).1 := by
  unfold threadReset
  try dsimp only
  repeat' first
    | with_reducible assumption
    | with_reducible apply fails_keeps
    | with_reducible apply killThread_keeps
    | with_reducible apply succeeds_keeps
    | (with_reducible refine Keeps.fst (by with_reducible assumption) ?_)
    | (with_reducible refine Keeps.snd (by with_reducible assumption) ?_)
    | (with_reducible refine Keeps.fold ?_ _ ?_)
    | (with_reducible refine Keeps.foldFst ?_ _ ?_)
    | split

theorem traysReclaim_keeps {a : State} {x0 : State} {x1 : Desc} (h0 : Keeps a x0) : Keeps a (traysReclaim x0 x1).1 := by
  unfold traysReclaim
  try dsimp only
  repeat' first
    | with_reducible assumption
    | with_reducible apply startReclaim_keeps
    | with_reducible apply succeeds_keeps
    | with_reducible apply fails_keeps
    | (with_reducible refine Keeps.fst (by with_reducible assumption) ?_)
    | (with_reducible refine Keeps.snd (by with_reducible assumption) ?_)
    | (with_reducible refine Keeps.fold ?_ _ ?_)
    | (with_reducible refine Keeps.foldFst ?_ _ ?_)
    | split

theorem taiSet_keeps {a : State} {x0 : State} {x1 : Desc} (h0 : Keeps a x0) : Keeps a (taiSet x0 x1).1 := by
  unfold taiSet
  try dsimp only
  repeat' first
    | with_reducible assumption
    | with_reducible apply setTai_keeps
    | with_reducible apply succeeds_keeps
    | with_reducible apply fails_keeps
    | (with_reducible refine Keeps.fst (by with_reducible assumption) ?_)
    | (with_reducible refine Keeps.snd (by with_reducible assumption) ?_)
    | (with_reducible refine Keeps.fold ?_ _ ?_)
    | (with_reducible refine Keeps.foldFst ?_ _ ?_)
    | split

theorem regReadCmd_keeps {a : State} {x0 : State} {x1 : CmdPort} {x2 : Desc} (h0 : Keeps a x0) : Keeps a (regReadCmd x0 x1 x2).1 := by
  unfold regReadCmd
  try dsimp only
  repeat' first
    | with_reducible assumption
    | with_reducible apply regRead_keeps

theorem regWriteCmd_keeps {a : State} {x0 : State} {x1 : Desc} (h0 : Keeps a x0) : Keeps a (regWriteCmd x0 x1).1 := by
  unfold regWriteCmd
  try dsimp only
  repeat' first
    | with_reducible assumption
    | with_reducible apply fails_keeps
    | with_reducible apply succeeds_keeps
    | with_reducible apply regWrite_keeps
    | (with_reducible refine Keeps.fst (by with_reducible assumption) ?_)
    | (with_reducible refine Keeps.snd (by with_reducible assumption) ?_)
    | (with_reducible refine Keeps.fold ?_ _ ?_)
    | (with_reducible refine Keeps.foldFst ?_ _ ?_)
    | split

theorem deviceReset_keeps {a : State} {x0 : State} {x1 : Desc} (h0 : Keeps a x0) : Keeps a (deviceReset x0 x1).1 := by
  unfold deviceReset
  try dsimp only
  repeat' first
    | with_reducible assumption
    | with_reducible apply State.setMgt_keeps
    | with_reducible apply succeeds_keeps
    | with_reducible apply fails_keeps
    | (with_reducible refine Keeps.fst (by with_reducible assumption) ?_)
    | (with_reducible refine Keeps.snd (by with_reducible assumption) ?_)
    | (with_reducible refine Keeps.fold ?_ _ ?_)
    | (with_reducible refine Keeps.foldFst ?_ _ ?_)
    | split

theorem identify_keeps {a : State} {x0 : State} (h0 : Keeps a x0) : Keeps a (identify x0).1 := by
  unfold identify
  try dsimp only
  repeat' first
    | with_reducible assumption

theorem commandBody_keeps {a : State} {x0 : State} {x1 : CmdPort} {x2 : Desc} {x3 : List Byte} {x4 : Bool} (h0 : Keeps a x0) : Keeps a (commandBody x0 x1 x2 x3 x4).1 := by
  unfold commandBody
  try dsimp only
  repeat' first
    | with_reducible assumption
    | with_reducible apply fails_keeps
    | with_reducible apply identify_keeps
    | with_reducible apply deviceReset_keeps
    | with_reducible apply regWriteCmd_keeps
    | with_reducible apply regReadCmd_keeps
    | with_reducible apply taiSet_keeps
    | with_reducible apply traysReclaim_keeps
    | with_reducible apply threadReset_keeps
    | with_reducible apply debugMode_keeps
    | with_reducible apply cshRead_keeps
    | with_reducible apply cshMark_keeps
    | with_reducible apply cshStopAt_keeps
    | with_reducible apply cshArm_keeps
    | with_reducible apply eventRead_keeps
    | with_reducible apply eventRingSet_keeps
    | with_reducible apply negativeClear_keeps
    | with_reducible apply negativeRead_keeps
    | with_reducible apply profileStatus_keeps
    | with_reducible apply profileCancel_keeps
    | with_reducible apply profileSwitch_keeps
    | with_reducible apply ringOp_keeps
    | with_reducible apply lockForce_keeps
    | with_reducible apply semTake_keeps
    | with_reducible apply lockRelease_keeps
    | with_reducible apply lockAcquire_keeps
    | with_reducible apply meterWrite_keeps
    | with_reducible apply clsEpochAbort_keeps
    | with_reducible apply clsEpochCommit_keeps
    | with_reducible apply clsEpochStage_keeps
    | with_reducible apply clsNodeWrite_keeps
    | with_reducible apply snapDestroy_keeps
    | with_reducible apply snapRequest_keeps
    | with_reducible apply snapCreate_keeps
    | with_reducible apply vfConfig_keeps
    | with_reducible apply ringDestroy_keeps
    | with_reducible apply cqCreate_keeps
    | with_reducible apply ringCreate_keeps
    | (with_reducible refine Keeps.fst (by with_reducible assumption) ?_)
    | (with_reducible refine Keeps.snd (by with_reducible assumption) ?_)
    | (with_reducible refine Keeps.fold ?_ _ ?_)
    | (with_reducible refine Keeps.foldFst ?_ _ ?_)
    | split

theorem answerCommand_keeps {a : State} {x0 : CmdPort} {x1 : Desc} {x2 : CmdOutcome} (h2 : Keeps a x2.1) : Keeps a (answerCommand x0 x1 x2) := by
  unfold answerCommand
  try dsimp only
  repeat' first
    | with_reducible assumption
    | with_reducible apply completeCmd_keeps
    | (with_reducible refine Keeps.fst (by with_reducible assumption) ?_)
    | (with_reducible refine Keeps.snd (by with_reducible assumption) ?_)
    | (with_reducible refine Keeps.fold ?_ _ ?_)
    | (with_reducible refine Keeps.foldFst ?_ _ ?_)
    | split

theorem runCommand_keeps {a : State} {x0 : State} {x1 : CmdPort} {x2 : Desc} {x3 : List Byte} {x4 : Bool} (h0 : Keeps a x0) : Keeps a (runCommand x0 x1 x2 x3 x4) := by
  unfold runCommand
  split
  · exact completeCmd_keeps h0
  · exact answerCommand_keeps (commandBody_keeps h0)

theorem commandRow_keeps {a : State} {x0 : Nat} {x1 : CmdPort} {x2 : Desc} {x3 : List Byte} {x4 : Bool} {x5 : State} (h5 : Keeps a x5) : OKeeps a (commandRow x0 x1 x2 x3 x4 x5) := by
  unfold commandRow
  try dsimp only
  repeat' first
    | with_reducible assumption
    | with_reducible apply OKeeps.next
    | exact trivial
    | with_reducible apply runCommand_keeps
    | (with_reducible refine Keeps.fst (by with_reducible assumption) ?_)
    | (with_reducible refine Keeps.snd (by with_reducible assumption) ?_)
    | (with_reducible refine Keeps.fold ?_ _ ?_)
    | (with_reducible refine Keeps.foldFst ?_ _ ?_)
    | split

theorem execRingCreate_keeps {a : State} {x0 : CmdPort} {x1 : Desc} {x2 : State} (h2 : Keeps a x2) : OKeeps a (execRingCreate x0 x1 x2) := by
  unfold execRingCreate
  try dsimp only
  repeat' first
    | with_reducible assumption
    | with_reducible apply OKeeps.next
    | exact trivial
    | with_reducible apply commandRow_keeps

theorem execCqCreate_keeps {a : State} {x0 : CmdPort} {x1 : Desc} {x2 : State} (h2 : Keeps a x2) : OKeeps a (execCqCreate x0 x1 x2) := by
  unfold execCqCreate
  try dsimp only
  repeat' first
    | with_reducible assumption
    | with_reducible apply OKeeps.next
    | exact trivial
    | with_reducible apply commandRow_keeps

theorem execRingDestroy_keeps {a : State} {x0 : CmdPort} {x1 : Desc} {x2 : State} (h2 : Keeps a x2) : OKeeps a (execRingDestroy x0 x1 x2) := by
  unfold execRingDestroy
  try dsimp only
  repeat' first
    | with_reducible assumption
    | with_reducible apply OKeeps.next
    | exact trivial
    | with_reducible apply commandRow_keeps

theorem execVfConfig_keeps {a : State} {x0 : CmdPort} {x1 : Desc} {x2 : State} (h2 : Keeps a x2) : OKeeps a (execVfConfig x0 x1 x2) := by
  unfold execVfConfig
  try dsimp only
  repeat' first
    | with_reducible assumption
    | with_reducible apply OKeeps.next
    | exact trivial
    | with_reducible apply commandRow_keeps

theorem execSnapCreate_keeps {a : State} {x0 : CmdPort} {x1 : Desc} {x2 : List Byte} {x3 : Bool} {x4 : State} (h4 : Keeps a x4) : OKeeps a (execSnapCreate x0 x1 x2 x3 x4) := by
  unfold execSnapCreate
  try dsimp only
  repeat' first
    | with_reducible assumption
    | with_reducible apply OKeeps.next
    | exact trivial
    | with_reducible apply commandRow_keeps

theorem execSnapRequest_keeps {a : State} {x0 : CmdPort} {x1 : Desc} {x2 : State} (h2 : Keeps a x2) : OKeeps a (execSnapRequest x0 x1 x2) := by
  unfold execSnapRequest
  try dsimp only
  repeat' first
    | with_reducible assumption
    | with_reducible apply OKeeps.next
    | exact trivial
    | with_reducible apply commandRow_keeps

theorem execSnapDestroy_keeps {a : State} {x0 : CmdPort} {x1 : Desc} {x2 : State} (h2 : Keeps a x2) : OKeeps a (execSnapDestroy x0 x1 x2) := by
  unfold execSnapDestroy
  try dsimp only
  repeat' first
    | with_reducible assumption
    | with_reducible apply OKeeps.next
    | exact trivial
    | with_reducible apply commandRow_keeps

theorem execClsNodeWrite_keeps {a : State} {x0 : CmdPort} {x1 : Desc} {x2 : List Byte} {x3 : Bool} {x4 : State} (h4 : Keeps a x4) : OKeeps a (execClsNodeWrite x0 x1 x2 x3 x4) := by
  unfold execClsNodeWrite
  try dsimp only
  repeat' first
    | with_reducible assumption
    | with_reducible apply OKeeps.next
    | exact trivial
    | with_reducible apply commandRow_keeps

theorem execClsEpochStage_keeps {a : State} {x0 : CmdPort} {x1 : Desc} {x2 : List Byte} {x3 : Bool} {x4 : State} (h4 : Keeps a x4) : OKeeps a (execClsEpochStage x0 x1 x2 x3 x4) := by
  unfold execClsEpochStage
  try dsimp only
  repeat' first
    | with_reducible assumption
    | with_reducible apply OKeeps.next
    | exact trivial
    | with_reducible apply commandRow_keeps

theorem execClsEpochCommit_keeps {a : State} {x0 : CmdPort} {x1 : Desc} {x2 : State} (h2 : Keeps a x2) : OKeeps a (execClsEpochCommit x0 x1 x2) := by
  unfold execClsEpochCommit
  try dsimp only
  repeat' first
    | with_reducible assumption
    | with_reducible apply OKeeps.next
    | exact trivial
    | with_reducible apply commandRow_keeps

theorem execClsEpochAbort_keeps {a : State} {x0 : CmdPort} {x1 : Desc} {x2 : State} (h2 : Keeps a x2) : OKeeps a (execClsEpochAbort x0 x1 x2) := by
  unfold execClsEpochAbort
  try dsimp only
  repeat' first
    | with_reducible assumption
    | with_reducible apply OKeeps.next
    | exact trivial
    | with_reducible apply commandRow_keeps

theorem execMeterWrite_keeps {a : State} {x0 : CmdPort} {x1 : Desc} {x2 : List Byte} {x3 : Bool} {x4 : State} (h4 : Keeps a x4) : OKeeps a (execMeterWrite x0 x1 x2 x3 x4) := by
  unfold execMeterWrite
  try dsimp only
  repeat' first
    | with_reducible assumption
    | with_reducible apply OKeeps.next
    | exact trivial
    | with_reducible apply commandRow_keeps

theorem execLockAcquire_keeps {a : State} {x0 : CmdPort} {x1 : Desc} {x2 : State} (h2 : Keeps a x2) : OKeeps a (execLockAcquire x0 x1 x2) := by
  unfold execLockAcquire
  try dsimp only
  repeat' first
    | with_reducible assumption
    | with_reducible apply OKeeps.next
    | exact trivial
    | with_reducible apply commandRow_keeps

theorem execLockRelease_keeps {a : State} {x0 : CmdPort} {x1 : Desc} {x2 : State} (h2 : Keeps a x2) : OKeeps a (execLockRelease x0 x1 x2) := by
  unfold execLockRelease
  try dsimp only
  repeat' first
    | with_reducible assumption
    | with_reducible apply OKeeps.next
    | exact trivial
    | with_reducible apply commandRow_keeps

theorem execSemTake_keeps {a : State} {x0 : CmdPort} {x1 : Desc} {x2 : State} (h2 : Keeps a x2) : OKeeps a (execSemTake x0 x1 x2) := by
  unfold execSemTake
  try dsimp only
  repeat' first
    | with_reducible assumption
    | with_reducible apply OKeeps.next
    | exact trivial
    | with_reducible apply commandRow_keeps

theorem execLockForce_keeps {a : State} {x0 : CmdPort} {x1 : Desc} {x2 : State} (h2 : Keeps a x2) : OKeeps a (execLockForce x0 x1 x2) := by
  unfold execLockForce
  try dsimp only
  repeat' first
    | with_reducible assumption
    | with_reducible apply OKeeps.next
    | exact trivial
    | with_reducible apply commandRow_keeps

theorem execRingOp_keeps {a : State} {x0 : CmdPort} {x1 : Desc} {x2 : State} (h2 : Keeps a x2) : OKeeps a (execRingOp x0 x1 x2) := by
  unfold execRingOp
  try dsimp only
  repeat' first
    | with_reducible assumption
    | with_reducible apply OKeeps.next
    | exact trivial
    | with_reducible apply commandRow_keeps

theorem execProfileSwitch_keeps {a : State} {x0 : CmdPort} {x1 : Desc} {x2 : Bool} {x3 : State} (h3 : Keeps a x3) : OKeeps a (execProfileSwitch x0 x1 x2 x3) := by
  unfold execProfileSwitch
  try dsimp only
  repeat' first
    | with_reducible assumption
    | with_reducible apply OKeeps.next
    | exact trivial
    | with_reducible apply commandRow_keeps

theorem execProfileCancel_keeps {a : State} {x0 : CmdPort} {x1 : Desc} {x2 : State} (h2 : Keeps a x2) : OKeeps a (execProfileCancel x0 x1 x2) := by
  unfold execProfileCancel
  try dsimp only
  repeat' first
    | with_reducible assumption
    | with_reducible apply OKeeps.next
    | exact trivial
    | with_reducible apply commandRow_keeps

theorem execProfileStatus_keeps {a : State} {x0 : CmdPort} {x1 : Desc} {x2 : State} (h2 : Keeps a x2) : OKeeps a (execProfileStatus x0 x1 x2) := by
  unfold execProfileStatus
  try dsimp only
  repeat' first
    | with_reducible assumption
    | with_reducible apply OKeeps.next
    | exact trivial
    | with_reducible apply commandRow_keeps

theorem execNegativeRead_keeps {a : State} {x0 : CmdPort} {x1 : Desc} {x2 : State} (h2 : Keeps a x2) : OKeeps a (execNegativeRead x0 x1 x2) := by
  unfold execNegativeRead
  try dsimp only
  repeat' first
    | with_reducible assumption
    | with_reducible apply OKeeps.next
    | exact trivial
    | with_reducible apply commandRow_keeps

theorem execNegativeClear_keeps {a : State} {x0 : CmdPort} {x1 : Desc} {x2 : State} (h2 : Keeps a x2) : OKeeps a (execNegativeClear x0 x1 x2) := by
  unfold execNegativeClear
  try dsimp only
  repeat' first
    | with_reducible assumption
    | with_reducible apply OKeeps.next
    | exact trivial
    | with_reducible apply commandRow_keeps

theorem execEventRingSet_keeps {a : State} {x0 : CmdPort} {x1 : Desc} {x2 : State} (h2 : Keeps a x2) : OKeeps a (execEventRingSet x0 x1 x2) := by
  unfold execEventRingSet
  try dsimp only
  repeat' first
    | with_reducible assumption
    | with_reducible apply OKeeps.next
    | exact trivial
    | with_reducible apply commandRow_keeps

theorem execEventRead_keeps {a : State} {x0 : CmdPort} {x1 : Desc} {x2 : State} (h2 : Keeps a x2) : OKeeps a (execEventRead x0 x1 x2) := by
  unfold execEventRead
  try dsimp only
  repeat' first
    | with_reducible assumption
    | with_reducible apply OKeeps.next
    | exact trivial
    | with_reducible apply commandRow_keeps

theorem execCshArm_keeps {a : State} {x0 : CmdPort} {x1 : Desc} {x2 : State} (h2 : Keeps a x2) : OKeeps a (execCshArm x0 x1 x2) := by
  unfold execCshArm
  try dsimp only
  repeat' first
    | with_reducible assumption
    | with_reducible apply OKeeps.next
    | exact trivial
    | with_reducible apply commandRow_keeps

theorem execCshStop_keeps {a : State} {x0 : CmdPort} {x1 : Desc} {x2 : State} (h2 : Keeps a x2) : OKeeps a (execCshStop x0 x1 x2) := by
  unfold execCshStop
  try dsimp only
  repeat' first
    | with_reducible assumption
    | with_reducible apply OKeeps.next
    | exact trivial
    | with_reducible apply commandRow_keeps

theorem execCshMark_keeps {a : State} {x0 : CmdPort} {x1 : Desc} {x2 : State} (h2 : Keeps a x2) : OKeeps a (execCshMark x0 x1 x2) := by
  unfold execCshMark
  try dsimp only
  repeat' first
    | with_reducible assumption
    | with_reducible apply OKeeps.next
    | exact trivial
    | with_reducible apply commandRow_keeps

theorem execCshRead_keeps {a : State} {x0 : CmdPort} {x1 : Desc} {x2 : State} (h2 : Keeps a x2) : OKeeps a (execCshRead x0 x1 x2) := by
  unfold execCshRead
  try dsimp only
  repeat' first
    | with_reducible assumption
    | with_reducible apply OKeeps.next
    | exact trivial
    | with_reducible apply commandRow_keeps

theorem execDebugMode_keeps {a : State} {x0 : CmdPort} {x1 : Desc} {x2 : State} (h2 : Keeps a x2) : OKeeps a (execDebugMode x0 x1 x2) := by
  unfold execDebugMode
  try dsimp only
  repeat' first
    | with_reducible assumption
    | with_reducible apply OKeeps.next
    | exact trivial
    | with_reducible apply commandRow_keeps

theorem execThreadReset_keeps {a : State} {x0 : CmdPort} {x1 : Desc} {x2 : State} (h2 : Keeps a x2) : OKeeps a (execThreadReset x0 x1 x2) := by
  unfold execThreadReset
  try dsimp only
  repeat' first
    | with_reducible assumption
    | with_reducible apply OKeeps.next
    | exact trivial
    | with_reducible apply commandRow_keeps

theorem execTraysReclaim_keeps {a : State} {x0 : CmdPort} {x1 : Desc} {x2 : State} (h2 : Keeps a x2) : OKeeps a (execTraysReclaim x0 x1 x2) := by
  unfold execTraysReclaim
  try dsimp only
  repeat' first
    | with_reducible assumption
    | with_reducible apply OKeeps.next
    | exact trivial
    | with_reducible apply commandRow_keeps

theorem execTaiSet_keeps {a : State} {x0 : CmdPort} {x1 : Desc} {x2 : State} (h2 : Keeps a x2) : OKeeps a (execTaiSet x0 x1 x2) := by
  unfold execTaiSet
  try dsimp only
  repeat' first
    | with_reducible assumption
    | with_reducible apply OKeeps.next
    | exact trivial
    | with_reducible apply commandRow_keeps

theorem execRegRead_keeps {a : State} {x0 : CmdPort} {x1 : Desc} {x2 : State} (h2 : Keeps a x2) : OKeeps a (execRegRead x0 x1 x2) := by
  unfold execRegRead
  try dsimp only
  repeat' first
    | with_reducible assumption
    | with_reducible apply OKeeps.next
    | exact trivial
    | with_reducible apply commandRow_keeps

theorem execRegWrite_keeps {a : State} {x0 : CmdPort} {x1 : Desc} {x2 : State} (h2 : Keeps a x2) : OKeeps a (execRegWrite x0 x1 x2) := by
  unfold execRegWrite
  try dsimp only
  repeat' first
    | with_reducible assumption
    | with_reducible apply OKeeps.next
    | exact trivial
    | with_reducible apply commandRow_keeps

theorem execDeviceReset_keeps {a : State} {x0 : CmdPort} {x1 : Desc} {x2 : State} (h2 : Keeps a x2) : OKeeps a (execDeviceReset x0 x1 x2) := by
  unfold execDeviceReset
  try dsimp only
  repeat' first
    | with_reducible assumption
    | with_reducible apply OKeeps.next
    | exact trivial
    | with_reducible apply commandRow_keeps

theorem execIdentify_keeps {a : State} {x0 : CmdPort} {x1 : Desc} {x2 : State} (h2 : Keeps a x2) : OKeeps a (execIdentify x0 x1 x2) := by
  unfold execIdentify
  try dsimp only
  repeat' first
    | with_reducible assumption
    | with_reducible apply OKeeps.next
    | exact trivial
    | with_reducible apply commandRow_keeps

end Sys2Proof.Machine
end

