-- ==== Sys2Proof/Laws/Contact.lean ====
section
/-! SUPPORT. What the operations of Contact keep: the fuses, the queue and the canonical form of the stores. -/

namespace Sys2Proof.Machine

open Host

theorem execCshStartTime_keeps {a : State} {x0 : State} (h0 : Keeps a x0) : OKeeps a (execCshStartTime x0) := by
  unfold execCshStartTime
  try dsimp only
  repeat' first
    | with_reducible assumption
    | with_reducible apply OKeeps.next
    | exact trivial
    | with_reducible apply State.cshStart_keeps
    | with_reducible apply State.logEvent_keeps
    | (with_reducible refine Keeps.fst (by with_reducible assumption) ?_)
    | (with_reducible refine Keeps.snd (by with_reducible assumption) ?_)
    | split
    | (with_reducible intro _)
    | fail_if_no_progress (with_reducible apply Keeps.put)

theorem execCshStopTime_keeps {a : State} {x0 : State} (h0 : Keeps a x0) : OKeeps a (execCshStopTime x0) := by
  unfold execCshStopTime
  try dsimp only
  repeat' first
    | with_reducible assumption
    | with_reducible apply OKeeps.next
    | exact trivial
    | with_reducible apply cshStopNow_keeps
    | (with_reducible refine Keeps.fst (by with_reducible assumption) ?_)
    | (with_reducible refine Keeps.snd (by with_reducible assumption) ?_)
    | split

theorem cshEnd_keeps {a : State} {x0 : State} (h0 : Keeps a x0) : Keeps a (cshEnd x0) := by
  unfold cshEnd
  try dsimp only
  repeat' first
    | with_reducible assumption
    | with_reducible apply State.logEvent_keeps
    | (with_reducible refine Keeps.fst (by with_reducible assumption) ?_)
    | (with_reducible refine Keeps.snd (by with_reducible assumption) ?_)
    | split
    | (with_reducible intro _)
    | fail_if_no_progress (with_reducible apply Keeps.put)

theorem cshStore_keeps {a : State} {x0 : State} {x1 : List Byte} (h0 : Keeps a x0) : Keeps a (cshStore x0 x1) := by
  unfold cshStore
  try dsimp only
  repeat' first
    | with_reducible assumption
    | with_reducible apply cshEnd_keeps
    | with_reducible apply hbmWrite_keeps
    | with_reducible apply State.count_keeps
    | (with_reducible refine Keeps.fst (by with_reducible assumption) ?_)
    | (with_reducible refine Keeps.snd (by with_reducible assumption) ?_)
    | split
    | (with_reducible intro _)
    | fail_if_no_progress (with_reducible apply Keeps.put)

theorem cshPad_keeps {a : State} {x0 : State} (h0 : Keeps a x0) : Keeps a (cshPad x0) := by
  unfold cshPad
  try dsimp only
  repeat' first
    | with_reducible assumption
    | with_reducible apply cshStore_keeps
    | with_reducible apply State.takeFree_keeps

theorem cshAppend_keeps {a : State} {x0 : State} {x1 : CshRec} (h0 : Keeps a x0) : Keeps a (cshAppend x0 x1) := by
  unfold cshAppend
  try dsimp only
  repeat' first
    | with_reducible assumption
    | with_reducible apply cshStore_keeps
    | with_reducible apply cshPad_keeps
    | (with_reducible refine Keeps.fst (by with_reducible assumption) ?_)
    | (with_reducible refine Keeps.snd (by with_reducible assumption) ?_)
    | split

theorem cshGap_keeps {a : State} {x0 : State} (h0 : Keeps a x0) : Keeps a (cshGap x0) := by
  unfold cshGap
  try dsimp only
  repeat' first
    | with_reducible assumption
    | with_reducible apply cshAppend_keeps
    | with_reducible apply State.takeFree_keeps
    | (with_reducible refine Keeps.fst (by with_reducible assumption) ?_)
    | (with_reducible refine Keeps.snd (by with_reducible assumption) ?_)
    | split
    | (with_reducible intro _)
    | fail_if_no_progress (with_reducible apply Keeps.put)

theorem cshDrop_keeps {a : State} {x0 : State} (h0 : Keeps a x0) : Keeps a (cshDrop x0) := by
  unfold cshDrop
  try dsimp only
  repeat' first
    | with_reducible assumption
    | with_reducible apply State.logEvent_keeps
    | with_reducible apply State.count_keeps
    | (with_reducible refine Keeps.fst (by with_reducible assumption) ?_)
    | (with_reducible refine Keeps.snd (by with_reducible assumption) ?_)
    | split
    | (with_reducible intro _)
    | fail_if_no_progress (with_reducible apply Keeps.put)

theorem execCshRecordWrite_keeps {a : State} {x0 : Bool} {x1 : State} (h1 : Keeps a x1) : OKeeps a (execCshRecordWrite x0 x1) := by
  unfold execCshRecordWrite
  try dsimp only
  repeat' first
    | with_reducible assumption
    | with_reducible apply OKeeps.next
    | exact trivial
    | with_reducible apply cshAppend_keeps
    | with_reducible apply cshGap_keeps
    | with_reducible apply cshDrop_keeps
    | (with_reducible refine Keeps.fst (by with_reducible assumption) ?_)
    | (with_reducible refine Keeps.snd (by with_reducible assumption) ?_)
    | split
    | (with_reducible intro _)
    | fail_if_no_progress (with_reducible apply Keeps.put)

end Sys2Proof.Machine
end

