-- ==== Sys2Proof/Laws/Cx.lean ====
section
/-! SUPPORT. What the operations of Cx keep: the fuses, the queue and the canonical form of the stores. -/

namespace Sys2Proof.Machine

open Host

theorem cxRow_keeps {a : State} {x0 : Nat} {x1 : XFields → Bool} {x2 : Thread → XFields → Thread} {x3 : ThreadId} {x4 : XFields} {x5 : State} (h5 : Keeps a x5) : OKeeps a (cxRow x0 x1 x2 x3 x4 x5) := by
  unfold cxRow
  try dsimp only
  repeat' first
    | with_reducible assumption
    | with_reducible apply OKeeps.next
    | exact trivial
    | with_reducible apply RKeeps.ok
    | with_reducible apply RKeeps.jump
    | with_reducible apply RKeeps.stay
    | with_reducible apply RKeeps.gone
    | exact RKeeps.raise
    | exact RKeeps.call
    | with_reducible apply Result.regs_keeps
    | with_reducible apply issue_keeps
    | (with_reducible refine Keeps.fst (by with_reducible assumption) ?_)
    | (with_reducible refine Keeps.snd (by with_reducible assumption) ?_)
    | (with_reducible refine Keeps.fold ?_ _ ?_)
    | (with_reducible refine Keeps.foldFst ?_ _ ?_)
    | split
    | (with_reducible intro _)

theorem execCrc32c_keeps {a : State} {x0 : ThreadId} {x1 : XFields} {x2 : State} (h2 : Keeps a x2) : OKeeps a (execCrc32c x0 x1 x2) := by
  unfold execCrc32c
  try dsimp only
  repeat' first
    | with_reducible assumption
    | with_reducible apply OKeeps.next
    | exact trivial
    | with_reducible apply cxRow_keeps

theorem execCrc64_keeps {a : State} {x0 : ThreadId} {x1 : XFields} {x2 : State} (h2 : Keeps a x2) : OKeeps a (execCrc64 x0 x1 x2) := by
  unfold execCrc64
  try dsimp only
  repeat' first
    | with_reducible assumption
    | with_reducible apply OKeeps.next
    | exact trivial
    | with_reducible apply cxRow_keeps

theorem execToep_keeps {a : State} {x0 : ThreadId} {x1 : XFields} {x2 : State} (h2 : Keeps a x2) : OKeeps a (execToep x0 x1 x2) := by
  unfold execToep
  try dsimp only
  repeat' first
    | with_reducible assumption
    | with_reducible apply OKeeps.next
    | exact trivial
    | with_reducible apply cxRow_keeps

theorem execSymh_keeps {a : State} {x0 : ThreadId} {x1 : XFields} {x2 : State} (h2 : Keeps a x2) : OKeeps a (execSymh x0 x1 x2) := by
  unfold execSymh
  try dsimp only
  repeat' first
    | with_reducible assumption
    | with_reducible apply OKeeps.next
    | exact trivial
    | with_reducible apply cxRow_keeps

theorem execAese_keeps {a : State} {x0 : ThreadId} {x1 : XFields} {x2 : State} (h2 : Keeps a x2) : OKeeps a (execAese x0 x1 x2) := by
  unfold execAese
  try dsimp only
  repeat' first
    | with_reducible assumption
    | with_reducible apply OKeeps.next
    | exact trivial
    | with_reducible apply cxRow_keeps

theorem execAesd_keeps {a : State} {x0 : ThreadId} {x1 : XFields} {x2 : State} (h2 : Keeps a x2) : OKeeps a (execAesd x0 x1 x2) := by
  unfold execAesd
  try dsimp only
  repeat' first
    | with_reducible assumption
    | with_reducible apply OKeeps.next
    | exact trivial
    | with_reducible apply cxRow_keeps

theorem execGhash_keeps {a : State} {x0 : ThreadId} {x1 : XFields} {x2 : State} (h2 : Keeps a x2) : OKeeps a (execGhash x0 x1 x2) := by
  unfold execGhash
  try dsimp only
  repeat' first
    | with_reducible assumption
    | with_reducible apply OKeeps.next
    | exact trivial
    | with_reducible apply cxRow_keeps

theorem execSha256r_keeps {a : State} {x0 : ThreadId} {x1 : XFields} {x2 : State} (h2 : Keeps a x2) : OKeeps a (execSha256r x0 x1 x2) := by
  unfold execSha256r
  try dsimp only
  repeat' first
    | with_reducible assumption
    | with_reducible apply OKeeps.next
    | exact trivial
    | with_reducible apply cxRow_keeps

theorem execSha256m_keeps {a : State} {x0 : ThreadId} {x1 : XFields} {x2 : State} (h2 : Keeps a x2) : OKeeps a (execSha256m x0 x1 x2) := by
  unfold execSha256m
  try dsimp only
  repeat' first
    | with_reducible assumption
    | with_reducible apply OKeeps.next
    | exact trivial
    | with_reducible apply cxRow_keeps

theorem execMcmp128_keeps {a : State} {x0 : ThreadId} {x1 : XFields} {x2 : State} (h2 : Keeps a x2) : OKeeps a (execMcmp128 x0 x1 x2) := by
  unfold execMcmp128
  try dsimp only
  repeat' first
    | with_reducible assumption
    | with_reducible apply OKeeps.next
    | exact trivial
    | with_reducible apply cxRow_keeps

theorem execBgath_keeps {a : State} {x0 : ThreadId} {x1 : XFields} {x2 : State} (h2 : Keeps a x2) : OKeeps a (execBgath x0 x1 x2) := by
  unfold execBgath
  try dsimp only
  repeat' first
    | with_reducible assumption
    | with_reducible apply OKeeps.next
    | exact trivial
    | with_reducible apply cxRow_keeps

theorem execBscat_keeps {a : State} {x0 : ThreadId} {x1 : XFields} {x2 : State} (h2 : Keeps a x2) : OKeeps a (execBscat x0 x1 x2) := by
  unfold execBscat
  try dsimp only
  repeat' first
    | with_reducible assumption
    | with_reducible apply OKeeps.next
    | exact trivial
    | with_reducible apply cxRow_keeps

theorem lateError_keeps {a : State} {x0 : State} {x1 : Nat} {x2 : BitVec 6} {x3 : BitVec 17} (h0 : Keeps a x0) : Keeps a (lateError x0 x1 x2 x3) := by
  unfold lateError
  try dsimp only
  repeat' first
    | with_reducible assumption
    | with_reducible apply State.modThread_keeps
    | (with_reducible refine Keeps.fst (by with_reducible assumption) ?_)
    | (with_reducible refine Keeps.snd (by with_reducible assumption) ?_)
    | (with_reducible refine Keeps.fold ?_ _ ?_)
    | (with_reducible refine Keeps.foldFst ?_ _ ?_)
    | split
    | fail_if_no_progress (with_reducible apply Keeps.putCores)
    | with_reducible exact Cores.posts_wf
    | with_reducible exact Cores.chans_wf (fun w => sput_wf w _ _)
    | with_reducible exact Cores.chans_wf (fun w => smod_wf w _ _)
    | with_reducible exact Cores.clusters_wf (fun w => sput_wf w _ _)
    | with_reducible exact Cores.clusters_wf (fun w => smod_wf w _ _)
    | with_reducible exact Cores.cxen_wf (fun w => sput_wf w _ _)
    | with_reducible exact Cores.cxen_wf (fun w => smod_wf w _ _)
    | with_reducible exact Cores.cxlog_wf (fun w => sput_wf w _ _)

theorem execCxLate_keeps {a : State} {x0 : ThreadId} {x1 : BitVec 6} {x2 : BitVec 17} {x3 : Bool} {x4 : State} (h4 : Keeps a x4) : OKeeps a (execCxLate x0 x1 x2 x3 x4) := by
  unfold execCxLate
  try dsimp only
  repeat' first
    | with_reducible assumption
    | with_reducible apply OKeeps.next
    | exact trivial
    | with_reducible apply lateError_keeps
    | with_reducible apply loseCxLate_keeps
    | with_reducible apply State.count_keeps
    | (with_reducible refine Keeps.fst (by with_reducible assumption) ?_)
    | (with_reducible refine Keeps.snd (by with_reducible assumption) ?_)
    | (with_reducible refine Keeps.fold ?_ _ ?_)
    | (with_reducible refine Keeps.foldFst ?_ _ ?_)
    | split

end Sys2Proof.Machine
end

