-- ==== Sys2Proof/Laws/Issue.lean ====
section
/-! SUPPORT. How an instruction that issues moves its thread on. -/

namespace Sys2Proof.Machine

open Host

theorem State.thread_setThread {s : State} (h : Cores.wf s.cores = true) (t k : Nat) (v : Thread) :
    (s.setThread t v).thread k = if k = t then v else s.thread k :=
  sget_sput ((Cores.wf_iff _).1 h).1 _ _ _

theorem State.cluster_setThread {s : State} (h : Cores.wf s.cores = true) (t c : Nat) (v : Thread) (hv : v.state = .run) :
    (s.setThread t v).cluster c = if c = clusterOf t then { s.cluster c with dlSince := none } else s.cluster c := by
  have e : (s.setThread t v).cluster c = if c = clusterOf t then { s.cluster (clusterOf t) with dlSince := none } else s.cluster c := by
    simp only [State.setThread, hv, true_or, if_true]
    exact sget_sput ((Cores.wf_iff _).1 h).2.2.1 _ _ _
  rw [e]; split
  · next h' => rw [h']
  · rfl

theorem State.setThread_wf {s : State} (h : Cores.wf s.cores = true) (t : Nat) (v : Thread) :
    Cores.wf (s.setThread t v).cores = true := by
  rw [Cores.wf_iff] at h ⊢
  exact ⟨sput_wf h.1 _ _, h.2.1, sput_wf h.2.2.1 _ _, h.2.2.2.1, h.2.2.2.2.1, h.2.2.2.2.2⟩

theorem State.ready.issues {s : State} {t : ThreadId} (h : s.ready t) : (s.thread t).issues = true := by
  simp [Thread.issues, h.run, h.free]

/-- An instruction of a ready thread that passes its checks runs its body. -/
theorem issue_ready {s : State} {t : ThreadId} (h : s.ready t) (w : Word) (body : Thread → Result) :
    issue s t w true true body = settle s t (s.thread t).pc (body (s.thread t)) := by
  simp [issue, h.issues, h.fetch]

theorem OnlyThread.setThread {s : State} {t : ThreadId} (h : Cores.wf s.cores = true) {v : Thread} (hv : v.state = .run) :
    OnlyThread s (s.setThread t v) t :=
  ⟨fun k hk => by rw [State.thread_setThread h, if_neg hk], fun c => State.cluster_setThread h _ _ _ hv, rfl⟩

theorem OnlyThread.trans {s u w : State} {t : ThreadId} (h : OnlyThread s u t) (k : OnlyThread u w t) : OnlyThread s w t :=
  ⟨fun x hx => (k.others x hx).trans (h.others x hx),
   fun c => by rw [k.clusters, h.clusters]; split <;> rfl,
   by
    have e := k.rest
    have f := h.rest
    rw [e, f]⟩

theorem endStep_no {s : State} {t : Nat} (h : (s.thread t).stepArmed = false) : endStep s t = s := by
  simp [endStep, h]

theorem exec_ok {s : State} {t : ThreadId} (h : s.ready t) {v : Thread} (hv : v.state = .run) (hs : v.stepArmed = false) :
    ∃ u, settle s t (s.thread t).pc (.ok (s.setThread t v)) = u ∧
      u.thread t = { v with pc := (s.thread t).pc + 4, jumpFrom := none } ∧ OnlyThread s u t := by
  refine ⟨_, rfl, ?_, ?_⟩
  all_goals
    simp only [settle, State.modThread]
    rw [State.thread_setThread h.form, if_pos rfl, endStep_no]
  · rw [State.thread_setThread (State.setThread_wf h.form _ _), if_pos rfl]
  · rw [State.thread_setThread (State.setThread_wf h.form _ _), if_pos rfl]; exact hs
  · exact (OnlyThread.setThread h.form hv).trans (OnlyThread.setThread (State.setThread_wf h.form _ _) hv)
  · rw [State.thread_setThread (State.setThread_wf h.form _ _), if_pos rfl]; exact hs

theorem exec_jump {s : State} {t : ThreadId} (h : s.ready t) {v : Thread} (hv : v.state = .run) (hs : v.stepArmed = false)
    (a : Addr) :
    ∃ u, settle s t (s.thread t).pc (.jump (s.setThread t v) a) = u ∧
      u.thread t = { v with pc := a, jumpFrom := some (s.thread t).pc } ∧ OnlyThread s u t := by
  refine ⟨_, rfl, ?_, ?_⟩
  all_goals
    simp only [settle, State.modThread]
    rw [State.thread_setThread h.form, if_pos rfl, endStep_no]
  · rw [State.thread_setThread (State.setThread_wf h.form _ _), if_pos rfl]
  · rw [State.thread_setThread (State.setThread_wf h.form _ _), if_pos rfl]; exact hs
  · exact (OnlyThread.setThread h.form hv).trans (OnlyThread.setThread (State.setThread_wf h.form _ _) hv)
  · rw [State.thread_setThread (State.setThread_wf h.form _ _), if_pos rfl]; exact hs

@[simp] theorem Thread.setD_state (th : Thread) (r : BitVec 4) (v : Word) : (th.setD r v).state = th.state := by
  unfold Thread.setD; split <;> rfl
@[simp] theorem Thread.setD_stepArmed (th : Thread) (r : BitVec 4) (v : Word) : (th.setD r v).stepArmed = th.stepArmed := by
  unfold Thread.setD; split <;> rfl
@[simp] theorem Thread.setA_state (th : Thread) (r : BitVec 3) (v : Addr) : (th.setA r v).state = th.state := rfl
@[simp] theorem Thread.setA_stepArmed (th : Thread) (r : BitVec 3) (v : Addr) : (th.setA r v).stepArmed = th.stepArmed := rfl
@[simp] theorem Thread.setAcc_state (th : Thread) (i : BitVec 1) (v : Acc) : (th.setAcc i v).state = th.state := by
  unfold Thread.setAcc; split <;> rfl
@[simp] theorem Thread.setAcc_stepArmed (th : Thread) (i : BitVec 1) (v : Acc) : (th.setAcc i v).stepArmed = th.stepArmed := by
  unfold Thread.setAcc; split <;> rfl

/-- A row whose result goes to registers of its thread completes. -/
theorem retires_row {i : Instr} {s : State} {t : ThreadId} {w : Word} {legal permitted : Bool} {body : Thread → Result} {v : Thread}
    (h : s.ready t) (e : exec i s = .next (issue s t w legal permitted body)) (hl : legal = true) (hp : permitted = true)
    (hb : body (s.thread t) = .ok (s.setThread t v)) (hv : v.state = .run) (hs : v.stepArmed = false) : Retires i s t v := by
  subst hl hp
  obtain ⟨u, hu, h1, h2⟩ := exec_ok h hv hs
  exact ⟨u, by rw [e, issue_ready h, hb, hu], h1, h2⟩

theorem jumps_row {i : Instr} {s : State} {t : ThreadId} {w : Word} {legal permitted : Bool} {body : Thread → Result} {v : Thread}
    {a : Addr} (h : s.ready t) (e : exec i s = .next (issue s t w legal permitted body)) (hl : legal = true) (hp : permitted = true)
    (hb : body (s.thread t) = .jump (s.setThread t v) a) (hv : v.state = .run) (hs : v.stepArmed = false) : Jumps i s t v a := by
  subst hl hp
  obtain ⟨u, hu, h1, h2⟩ := exec_jump h hv hs a
  exact ⟨u, by rw [e, issue_ready h, hb, hu], h1, h2⟩

end Sys2Proof.Machine
end

