-- ==== Sys2Proof/Laws/Mem.lean ====
section
/-! SUPPORT. What the operations of Mem keep: the fuses, the queue and the canonical form of the stores. -/

namespace Sys2Proof.Machine

open Host

theorem loadRow_keeps {a : State} {x0 : Nat} {x1 : AccessSize} {x2 : Bool} {x3 : ThreadId} {x4 : MFields} {x5 : State} (h5 : Keeps a x5) : OKeeps a (loadRow x0 x1 x2 x3 x4 x5) := by
  unfold loadRow
  try dsimp only
  repeat' first
    | with_reducible assumption
    | with_reducible apply OKeeps.next
    | exact trivial
    | with_reducible apply RKeeps.ok
    | with_reducible apply RKeeps.jump
    | with_reducible apply RKeeps.stay
    | with_reducible apply RKeeps.gone
    | exact RKeeps.raise
    | exact RKeeps.call
    | with_reducible apply State.modThread_keeps
    | with_reducible apply portalAlloc_keeps
    | with_reducible apply Result.regs_keeps
    | with_reducible apply issue_keeps
    | (with_reducible refine Keeps.fst (by with_reducible assumption) ?_)
    | (with_reducible refine Keeps.snd (by with_reducible assumption) ?_)
    | split
    | (with_reducible intro _)

theorem storeAt_keeps {a : State} {x0 : State} {x1 : ThreadId} {x2 : Place} {x3 : Nat} {x4 : Nat} (h0 : Keeps a x0) : Keeps a (storeAt x0 x1 x2 x3 x4) := by
  unfold storeAt
  split
  · split
    · split
      · exact portalStore_keeps h0
      · exact h0
    · exact regWrite_keeps h0
  · exact writePlace_keeps h0

theorem storeRow_keeps {a : State} {x0 : Nat} {x1 : AccessSize} {x2 : ThreadId} {x3 : MFields} {x4 : State} (h4 : Keeps a x4) : OKeeps a (storeRow x0 x1 x2 x3 x4) := by
  unfold storeRow
  try dsimp only
  repeat' first
    | with_reducible assumption
    | with_reducible apply OKeeps.next
    | exact trivial
    | with_reducible apply RKeeps.ok
    | with_reducible apply RKeeps.jump
    | with_reducible apply RKeeps.stay
    | with_reducible apply RKeeps.gone
    | exact RKeeps.raise
    | exact RKeeps.call
    | with_reducible apply storeAt_keeps
    | with_reducible apply State.modThread_keeps
    | with_reducible apply issue_keeps
    | (with_reducible refine Keeps.fst (by with_reducible assumption) ?_)
    | (with_reducible refine Keeps.snd (by with_reducible assumption) ?_)
    | split
    | (with_reducible intro _)

theorem execLdb_keeps {a : State} {x0 : ThreadId} {x1 : MFields} {x2 : State} (h2 : Keeps a x2) : OKeeps a (execLdb x0 x1 x2) := by
  unfold execLdb
  try dsimp only
  repeat' first
    | with_reducible assumption
    | with_reducible apply OKeeps.next
    | exact trivial
    | with_reducible apply loadRow_keeps

theorem execLdbu_keeps {a : State} {x0 : ThreadId} {x1 : MFields} {x2 : State} (h2 : Keeps a x2) : OKeeps a (execLdbu x0 x1 x2) := by
  unfold execLdbu
  try dsimp only
  repeat' first
    | with_reducible assumption
    | with_reducible apply OKeeps.next
    | exact trivial
    | with_reducible apply loadRow_keeps

theorem execLdh_keeps {a : State} {x0 : ThreadId} {x1 : MFields} {x2 : State} (h2 : Keeps a x2) : OKeeps a (execLdh x0 x1 x2) := by
  unfold execLdh
  try dsimp only
  repeat' first
    | with_reducible assumption
    | with_reducible apply OKeeps.next
    | exact trivial
    | with_reducible apply loadRow_keeps

theorem execLdhu_keeps {a : State} {x0 : ThreadId} {x1 : MFields} {x2 : State} (h2 : Keeps a x2) : OKeeps a (execLdhu x0 x1 x2) := by
  unfold execLdhu
  try dsimp only
  repeat' first
    | with_reducible assumption
    | with_reducible apply OKeeps.next
    | exact trivial
    | with_reducible apply loadRow_keeps

theorem execLdw_keeps {a : State} {x0 : ThreadId} {x1 : MFields} {x2 : State} (h2 : Keeps a x2) : OKeeps a (execLdw x0 x1 x2) := by
  unfold execLdw
  try dsimp only
  repeat' first
    | with_reducible assumption
    | with_reducible apply OKeeps.next
    | exact trivial
    | with_reducible apply loadRow_keeps

theorem execLda_keeps {a : State} {x0 : ThreadId} {x1 : MFields} {x2 : State} (h2 : Keeps a x2) : OKeeps a (execLda x0 x1 x2) := by
  unfold execLda
  try dsimp only
  repeat' first
    | with_reducible assumption
    | with_reducible apply OKeeps.next
    | exact trivial
    | with_reducible apply loadRow_keeps

theorem execStb_keeps {a : State} {x0 : ThreadId} {x1 : MFields} {x2 : State} (h2 : Keeps a x2) : OKeeps a (execStb x0 x1 x2) := by
  unfold execStb
  try dsimp only
  repeat' first
    | with_reducible assumption
    | with_reducible apply OKeeps.next
    | exact trivial
    | with_reducible apply storeRow_keeps

theorem execSth_keeps {a : State} {x0 : ThreadId} {x1 : MFields} {x2 : State} (h2 : Keeps a x2) : OKeeps a (execSth x0 x1 x2) := by
  unfold execSth
  try dsimp only
  repeat' first
    | with_reducible assumption
    | with_reducible apply OKeeps.next
    | exact trivial
    | with_reducible apply storeRow_keeps

theorem execStw_keeps {a : State} {x0 : ThreadId} {x1 : MFields} {x2 : State} (h2 : Keeps a x2) : OKeeps a (execStw x0 x1 x2) := by
  unfold execStw
  try dsimp only
  repeat' first
    | with_reducible assumption
    | with_reducible apply OKeeps.next
    | exact trivial
    | with_reducible apply storeRow_keeps

theorem execSta_keeps {a : State} {x0 : ThreadId} {x1 : MFields} {x2 : State} (h2 : Keeps a x2) : OKeeps a (execSta x0 x1 x2) := by
  unfold execSta
  try dsimp only
  repeat' first
    | with_reducible assumption
    | with_reducible apply OKeeps.next
    | exact trivial
    | with_reducible apply storeRow_keeps

theorem finishReturn_keeps {a : State} {x0 : State} {x1 : Nat} {x2 : Thread → Thread} (h0 : Keeps a x0) : Keeps a (finishReturn x0 x1 x2) := by
  unfold finishReturn
  try dsimp only
  repeat' first
    | with_reducible assumption
    | with_reducible apply endStep_keeps
    | with_reducible apply haltThread_keeps
    | with_reducible apply State.modThread_keeps
    | (with_reducible refine Keeps.fst (by with_reducible assumption) ?_)
    | (with_reducible refine Keeps.snd (by with_reducible assumption) ?_)
    | split

theorem failReturn_keeps {a : State} {x0 : State} {x1 : Nat} {x2 : Addr} (h0 : Keeps a x0) : Keeps a (failReturn x0 x1 x2) := by
  unfold failReturn
  try dsimp only
  repeat' first
    | with_reducible assumption
    | with_reducible apply endStep_keeps
    | with_reducible apply haltThread_keeps
    | with_reducible apply takeException_keeps
    | with_reducible apply State.modThread_keeps
    | (with_reducible refine Keeps.fst (by with_reducible assumption) ?_)
    | (with_reducible refine Keeps.snd (by with_reducible assumption) ?_)
    | split

theorem fetchPlace_keeps {a : State} {x0 : State} {x1 : ThreadId} {x2 : Place} {x3 : Nat} (h0 : Keeps a x0) : Keeps a (fetchPlace x0 x1 x2 x3).1 := by
  unfold fetchPlace
  try dsimp only
  repeat' first
    | with_reducible assumption
    | with_reducible apply hbmRead_keeps
    | with_reducible apply regRead_keeps
    | (with_reducible refine Keeps.fst (by with_reducible assumption) ?_)
    | (with_reducible refine Keeps.snd (by with_reducible assumption) ?_)
    | split

theorem returnTo_keeps {a : State} {x0 : State} {x1 : ThreadId} {x2 : Bool} {x3 : Outstanding} (h0 : Keeps a x0) : Keeps a (returnTo x0 x1 x2 x3) := by
  unfold returnTo
  try dsimp only
  repeat' first
    | with_reducible assumption
    | with_reducible apply writePlace_keeps
    | with_reducible apply State.count_keeps
    | with_reducible apply fetchPlace_keeps
    | with_reducible apply failReturn_keeps
    | with_reducible apply finishReturn_keeps
    | (with_reducible refine Keeps.fst (by with_reducible assumption) ?_)
    | (with_reducible refine Keeps.snd (by with_reducible assumption) ?_)
    | split

theorem execLoadDataReturn_keeps {a : State} {x0 : ThreadId} {x1 : Bool} {x2 : State} (h2 : Keeps a x2) : OKeeps a (execLoadDataReturn x0 x1 x2) := by
  unfold execLoadDataReturn
  try dsimp only
  repeat' first
    | with_reducible assumption
    | with_reducible apply OKeeps.next
    | exact trivial
    | with_reducible apply returnTo_keeps
    | (with_reducible refine Keeps.fst (by with_reducible assumption) ?_)
    | (with_reducible refine Keeps.snd (by with_reducible assumption) ?_)
    | split

end Sys2Proof.Machine
end

