-- ==== Sys2Proof/Laws/Mgmt.lean ====
section
/-! SUPPORT. What the operations of Mgmt keep: the fuses, the queue and the canonical form of the stores. -/

namespace Sys2Proof.Machine

open Host

theorem submitHost_keeps {a : State} {x0 : State} {x1 : State} {x2 : Nat} {x3 : Nat} {x4 : HRing} {x5 : HDesc} {x6 : State → Nat → State} (h0 : Keeps a x0) (h1 : Keeps a x1) (h6 : ∀ st n, Keeps a st → Keeps a (x6 st n)) : Keeps a (submitHost x0 x1 x2 x3 x4 x5 x6) := by
  unfold submitHost
  dsimp only
  split
  · exact h6 _ _ h1
  · split
    · exact h6 _ _ h1
    · split
      · exact h6 _ _ (countRefused_keeps h1)
      · split
        · exact h0
        · refine enterSubmission_keeps ?_
          split
          · exact State.setHring_keeps h1
          · exact h1

theorem execCmd_keeps {a : State} {x0 : Fin 1028} {x1 : BitVec 16} {x2 : List Byte} {x3 : Bool} {x4 : State} (h4 : Keeps a x4) : OKeeps a (execCmd x0 x1 x2 x3 x4) := by
  unfold execCmd
  try dsimp only
  repeat' first
    | with_reducible assumption
    | with_reducible apply OKeeps.next
    | exact trivial
    | with_reducible apply runCommand_keeps
    | with_reducible apply submitHost_keeps
    | with_reducible apply finishDestroy_keeps
    | with_reducible apply failDescriptor_keeps
    | with_reducible apply State.setHring_keeps
    | (with_reducible refine Keeps.fst (by with_reducible assumption) ?_)
    | (with_reducible refine Keeps.snd (by with_reducible assumption) ?_)
    | (with_reducible refine Keeps.fold ?_ _ ?_)
    | (with_reducible refine Keeps.foldFst ?_ _ ?_)
    | split
    | (with_reducible intro _)

theorem hearManager_keeps {a : State} {x0 : State} {x1 : Nat} {x2 : List Byte} (h0 : Keeps a x0) : Keeps a (hearManager x0 x1 x2) := by
  unfold hearManager
  try dsimp only
  repeat' first
    | with_reducible assumption
    | with_reducible apply runCommand_keeps
    | with_reducible apply State.setRing_keeps
    | (with_reducible refine Keeps.fst (by with_reducible assumption) ?_)
    | (with_reducible refine Keeps.snd (by with_reducible assumption) ?_)
    | (with_reducible refine Keeps.fold ?_ _ ?_)
    | (with_reducible refine Keeps.foldFst ?_ _ ?_)
    | split

theorem execMgmtFrame_keeps {a : State} {x0 : Fin 4} {x1 : List Byte} {x2 : State} (h2 : Keeps a x2) : OKeeps a (execMgmtFrame x0 x1 x2) := by
  unfold execMgmtFrame
  try dsimp only
  repeat' first
    | with_reducible assumption
    | with_reducible apply OKeeps.next
    | exact trivial
    | with_reducible apply hearManager_keeps
    | with_reducible apply State.count_keeps
    | with_reducible apply reportDiscard_keeps
    | with_reducible apply freeBlocks_keeps
    | with_reducible apply takeWhole_keeps
    | (with_reducible refine Keeps.fst (by with_reducible assumption) ?_)
    | (with_reducible refine Keeps.snd (by with_reducible assumption) ?_)
    | (with_reducible refine Keeps.fold ?_ _ ?_)
    | (with_reducible refine Keeps.foldFst ?_ _ ?_)
    | split

theorem execVendorCommand_keeps {a : State} {x0 : List Byte} {x1 : State} (h1 : Keeps a x1) : OKeeps a (execVendorCommand x0 x1) := by
  unfold execVendorCommand
  try dsimp only
  repeat' first
    | with_reducible assumption
    | with_reducible apply OKeeps.next
    | exact trivial
    | with_reducible apply runCommand_keeps
    | (with_reducible refine Keeps.fst (by with_reducible assumption) ?_)
    | (with_reducible refine Keeps.snd (by with_reducible assumption) ?_)
    | (with_reducible refine Keeps.fold ?_ _ ?_)
    | (with_reducible refine Keeps.foldFst ?_ _ ?_)
    | split

theorem sendMctp_keeps {a : State} {x0 : State} {x1 : List Byte} (h0 : Keeps a x0) : Keeps a (sendMctp x0 x1) := by
  unfold sendMctp
  try dsimp only
  repeat' first
    | with_reducible assumption
    | (with_reducible refine Keeps.fst (by with_reducible assumption) ?_)
    | (with_reducible refine Keeps.snd (by with_reducible assumption) ?_)
    | (with_reducible refine Keeps.fold ?_ _ ?_)
    | (with_reducible refine Keeps.foldFst ?_ _ ?_)
    | split
    | (with_reducible intro _)
    | fail_if_no_progress (with_reducible apply Keeps.put)

theorem freeBytes_keeps {a : State} {x0 : Nat} {x1 : State} (h1 : Keeps a x1) : Keeps a (freeBytes x0 x1).2 := by
  induction x0 generalizing x1 with
  | zero => exact h1
  | succ n ih =>
    unfold freeBytes
    exact ih (State.takeFree_keeps h1)

theorem controlAnswer_keeps {a : State} {x0 : State} {x1 : Nat} {x2 : List Byte} (h0 : Keeps a x0) : Keeps a (controlAnswer x0 x1 x2).2 := by
  unfold controlAnswer
  try dsimp only
  repeat' first
    | with_reducible assumption
    | with_reducible apply freeBytes_keeps
    | with_reducible apply State.setMgt_keeps
    | (with_reducible refine Keeps.fst (by with_reducible assumption) ?_)
    | (with_reducible refine Keeps.snd (by with_reducible assumption) ?_)
    | (with_reducible refine Keeps.fold ?_ _ ?_)
    | (with_reducible refine Keeps.foldFst ?_ _ ?_)
    | split

theorem execMctpControl_keeps {a : State} {x0 : List Byte} {x1 : State} (h1 : Keeps a x1) : OKeeps a (execMctpControl x0 x1) := by
  unfold execMctpControl
  try dsimp only
  repeat' first
    | with_reducible assumption
    | with_reducible apply OKeeps.next
    | exact trivial
    | with_reducible apply sendMctp_keeps
    | with_reducible apply controlAnswer_keeps
    | (with_reducible refine Keeps.fst (by with_reducible assumption) ?_)
    | (with_reducible refine Keeps.snd (by with_reducible assumption) ?_)
    | (with_reducible refine Keeps.fold ?_ _ ?_)
    | (with_reducible refine Keeps.foldFst ?_ _ ?_)
    | split

theorem pldmAnswer_keeps {a : State} {x0 : State} {x1 : Nat} {x2 : Nat} {x3 : List Byte} (h0 : Keeps a x0) : Keeps a (pldmAnswer x0 x1 x2 x3).2 := by
  unfold pldmAnswer
  try dsimp only
  repeat' first
    | with_reducible assumption
    | with_reducible apply freeBytes_keeps
    | (with_reducible refine Keeps.fst (by with_reducible assumption) ?_)
    | (with_reducible refine Keeps.snd (by with_reducible assumption) ?_)
    | (with_reducible refine Keeps.fold ?_ _ ?_)
    | (with_reducible refine Keeps.foldFst ?_ _ ?_)
    | split

theorem execPldmMessage_keeps {a : State} {x0 : List Byte} {x1 : State} (h1 : Keeps a x1) : OKeeps a (execPldmMessage x0 x1) := by
  unfold execPldmMessage
  try dsimp only
  repeat' first
    | with_reducible assumption
    | with_reducible apply OKeeps.next
    | exact trivial
    | with_reducible apply sendMctp_keeps
    | with_reducible apply pldmAnswer_keeps
    | (with_reducible refine Keeps.fst (by with_reducible assumption) ?_)
    | (with_reducible refine Keeps.snd (by with_reducible assumption) ?_)
    | (with_reducible refine Keeps.fold ?_ _ ?_)
    | (with_reducible refine Keeps.foldFst ?_ _ ?_)
    | split

theorem writeFlash_keeps {a : State} {x0 : State} {x1 : Nat} {x2 : List Byte} (h0 : Keeps a x0) : Keeps a (writeFlash x0 x1 x2) := by
  exact h0.mem (Memory.flash_wf fun w => by
    suffices ∀ (l : List (Byte × Nat)) (m : SMap Byte), swf 0xFF m = true →
        swf 0xFF (l.foldl (fun m e => sput 0xFF m (x1 + e.2) e.1) m) = true from this _ _ w
    intro l
    induction l with
    | nil => exact fun _ h => h
    | cons y ys ih => exact fun m h => ih _ (sput_wf h _ _)) rfl rfl rfl rfl rfl

theorem rewriteHeader_keeps {a : State} {x0 : State} {x1 : Bool} (h0 : Keeps a x0) : Keeps a (rewriteHeader x0 x1) := by
  unfold rewriteHeader
  try dsimp only
  repeat' first
    | with_reducible assumption
    | with_reducible apply writeFlash_keeps

theorem fwUpdated_keeps {a : State} {x0 : State} {x1 : Nat} {x2 : Nat} (h0 : Keeps a x0) : Keeps a (fwUpdated x0 x1 x2) := by
  unfold fwUpdated
  try dsimp only
  repeat' first
    | with_reducible assumption
    | with_reducible apply State.logEvent_keeps

theorem updateFirmware_keeps {a : State} {x0 : State} {x1 : List Byte} {x2 : Bool} (h0 : Keeps a x0) : Keeps a (updateFirmware x0 x1 x2) := by
  unfold updateFirmware
  try dsimp only
  repeat' first
    | with_reducible assumption
    | with_reducible apply writeFlash_keeps
    | with_reducible apply rewriteHeader_keeps
    | with_reducible apply fwUpdated_keeps
    | (with_reducible refine Keeps.fst (by with_reducible assumption) ?_)
    | (with_reducible refine Keeps.snd (by with_reducible assumption) ?_)
    | (with_reducible refine Keeps.fold ?_ _ ?_)
    | (with_reducible refine Keeps.foldFst ?_ _ ?_)
    | split

theorem updateProfile_keeps {a : State} {x0 : State} {x1 : Nat} {x2 : List Byte} (h0 : Keeps a x0) : Keeps a (updateProfile x0 x1 x2) := by
  unfold updateProfile
  try dsimp only
  repeat' first
    | with_reducible assumption
    | with_reducible apply fwUpdated_keeps
    | with_reducible apply writeFlash_keeps
    | with_reducible apply State.takeFree_keeps
    | with_reducible apply refuseImage_keeps
    | (with_reducible refine Keeps.fst (by with_reducible assumption) ?_)
    | (with_reducible refine Keeps.snd (by with_reducible assumption) ?_)
    | (with_reducible refine Keeps.fold ?_ _ ?_)
    | (with_reducible refine Keeps.foldFst ?_ _ ?_)
    | split

theorem execPldmUpdate_keeps {a : State} {x0 : BitVec 16} {x1 : List Byte} {x2 : Bool} {x3 : State} (h3 : Keeps a x3) : OKeeps a (execPldmUpdate x0 x1 x2 x3) := by
  unfold execPldmUpdate
  try dsimp only
  repeat' first
    | with_reducible assumption
    | with_reducible apply OKeeps.next
    | exact trivial
    | with_reducible apply updateProfile_keeps
    | with_reducible apply updateFirmware_keeps
    | (with_reducible refine Keeps.fst (by with_reducible assumption) ?_)
    | (with_reducible refine Keeps.snd (by with_reducible assumption) ?_)
    | (with_reducible refine Keeps.fold ?_ _ ?_)
    | (with_reducible refine Keeps.foldFst ?_ _ ?_)
    | split

theorem execSensorUpdate_keeps {a : State} {x0 : BitVec 16} {x1 : BitVec 16} {x2 : State} (h2 : Keeps a x2) : OKeeps a (execSensorUpdate x0 x1 x2) := by
  unfold execSensorUpdate
  try dsimp only
  repeat' first
    | with_reducible assumption
    | with_reducible apply OKeeps.next
    | exact trivial
    | with_reducible apply State.setMgt_keeps
    | (with_reducible refine Keeps.fst (by with_reducible assumption) ?_)
    | (with_reducible refine Keeps.snd (by with_reducible assumption) ?_)
    | (with_reducible refine Keeps.fold ?_ _ ?_)
    | (with_reducible refine Keeps.foldFst ?_ _ ?_)
    | split

end Sys2Proof.Machine
end

