-- ==== Sys2Proof/WellFormed.lean ====
section
/-! DEFINITION. What a sender can spell: the operands that name the row's own command, and lists of the lengths the manual
allows.  A command that breaks a check has no effect when it is run. -/

namespace Sys2Proof

/-- R456, R462, R538: the descriptor carries this opcode. -/
def Desc.names (d : Desc) (opcode : Nat) : Bool := d.w0.toNat / 65536 == opcode

/-- R450: a fetch takes 1–64 descriptors. -/
def fetchLength (n : Nat) : Bool := decide (1 ≤ n) && decide (n ≤ 64)

/-- R502: a request lies in one 64-byte line, and a write or an atomic carries its bytes. -/
def lineRequest (op : BitVec 2) (addr : BitVec 38) (len : BitVec 7) (data : List Byte) : Bool :=
  decide (1 ≤ len.toNat) && decide (addr.toNat % 64 + len.toNat ≤ 64) && (op == 0 || data.length == len.toNat)

/-- R305: semaphores 0–4,095, locks 0–16,383. -/
def lockNumber (onSem : Bool) (n : BitVec 14) : Bool := !onSem || decide (n.toNat < 4096)

/-- R538: requesters 0–1,089. -/
def requesterNumber (r : BitVec 12) : Bool := decide (r.toNat < 1090)

/-- R466: streams 0–63. -/
def streamNumber (k : BitVec 8) : Bool := decide (k.toNat < 64)

/-- R274: an offset of the debug window names a word of it. -/
def windowOffset (o : BitVec 8) : Bool := o.toNat % 4 == 0 && decide (o.toNat < 0xB4)

/-- R540, R541: the message type of an MCTP message. -/
def messageType (t : Byte) (msg : List Byte) : Bool := msg.head? == some t

/-- The opcode of a row of the command table (R462, R538). -/
def Instr.opcode : Instr → Option Nat
  | .ringCreate .. => some 0x0001
  | .cqCreate .. => some 0x0002
  | .ringDestroy .. => some 0x0003
  | .vfConfig .. => some 0x0004
  | .snapCreate .. => some 0x0005
  | .snapRequest .. => some 0x0006
  | .snapDestroy .. => some 0x0007
  | .clsNodeWrite .. => some 0x0100
  | .clsEpochStage .. => some 0x0101
  | .clsEpochCommit .. => some 0x0102
  | .clsEpochAbort .. => some 0x0103
  | .meterWrite .. => some 0x0200
  | .lockAcquire .. => some 0x0300
  | .lockRelease .. => some 0x0301
  | .semTake .. => some 0x0302
  | .lockForce .. => some 0x0303
  | .ringOp .. => some 0x0400
  | .profileSwitch .. => some 0x0500
  | .profileCancel .. => some 0x0501
  | .profileStatus .. => some 0x0502
  | .negativeRead .. => some 0x0510
  | .negativeClear .. => some 0x0511
  | .eventRingSet .. => some 0x0520
  | .eventRead .. => some 0x0521
  | .cshArm .. => some 0x0530
  | .cshStop .. => some 0x0531
  | .cshMark .. => some 0x0532
  | .cshRead .. => some 0x0533
  | .debugMode .. => some 0x0540
  | .threadReset .. => some 0x0541
  | .traysReclaim .. => some 0x0550
  | .taiSet .. => some 0x0560
  | .regRead .. => some 0x0570
  | .regWrite .. => some 0x0571
  | .deviceReset .. => some 0x0580
  | .identify .. => some 0x0581
  | .registerWrite .. | .unmappedAccess .. | .rcRead .. | .latchingRead .. | .partialAccess .. | .oversizeRequest ..
  | .glbReset .. | .glbExpert .. | .glbExpertThr .. | .warmResetStart .. | .poresetNAssert .. | .poresetNDeassert ..
  | .warmrstNAssert .. | .warmrstNDeassert .. | .perstNAssert .. | .perstNDeassert .. | .jtagTrst .. | .powerLoss ..
  | .brownout .. | .firmwareVerified .. | .bootProfileApplied .. | .hbmTrainDone .. | .stretchLevelUp ..
  | .stretchLevelDown .. | .dieTempSample .. | .inputChange .. | .inputLevelAccept .. | .inputStuck ..
  | .timerefLoss .. | .timerefRestore .. | .syncT .. | .syncA .. | .syncTai .. | .syncTSend .. | .syncASend ..
  | .syncTaiSend .. | .acquireLock .. | .acquireTimeout .. | .electTimeout .. | .parentLossTimeout ..
  | .masterTakeover .. | .holdoverTimeout .. | .roleWrite .. | .taiOffsetWrite .. | .ppsOutEdge .. | .ethRxFrame ..
  | .loupeIntake .. | .loupeWord .. | .loupeDeliver .. | .clsResultAccept .. | .clsLineReturn .. | .clsActionEval ..
  | .meterOp .. | .clsDeliver .. | .epochCommitTime .. | .epochSupersededRelease .. | .dlrItemArrive ..
  | .dlrDispatch .. | .dlrTrump .. | .dlrTick .. | .dlrInhSignal .. | .fixCompletion .. | .fixRelease ..
  | .fixSettleExpire .. | .fixHoldExpire .. | .fixTtlExpire .. | .fixDomainExpire .. | .fixEcc .. | .loadDataReturn ..
  | .machineCheck .. | .interruptTake .. | .add .. | .addc .. | .sub .. | .subc .. | .and .. | .or .. | .xor ..
  | .andn .. | .sll .. | .srl .. | .sra .. | .ror .. | .slli .. | .srli .. | .srai .. | .rori .. | .slt .. | .sltu ..
  | .min .. | .max .. | .minu .. | .maxu .. | .mul .. | .mulh .. | .mulhu .. | .div .. | .divu .. | .rem .. | .remu ..
  | .clz .. | .popc .. | .bswap .. | .addi .. | .andi .. | .ori .. | .xori .. | .li .. | .lui .. | .aaddi .. | .alpc ..
  | .ldb .. | .ldbu .. | .ldh .. | .ldhu .. | .ldw .. | .lda .. | .stb .. | .sth .. | .stw .. | .sta .. | .brc ..
  | .brf .. | .bra .. | .j .. | .jr .. | .extu .. | .exts .. | .ins .. | .mac .. | .macu .. | .msu .. | .msuu ..
  | .mula .. | .aclr .. | .mtac .. | .mtacu .. | .mfacl .. | .mfach .. | .mfacg .. | .asat .. | .ashr .. | .dadd ..
  | .daddc .. | .dsub .. | .dsubc .. | .daj .. | .dacc .. | .asc2p .. | .p2bin .. | .bin2p .. | .movda .. | .movdas ..
  | .movad .. | .movah .. | .movha .. | .aadd .. | .asub .. | .adiff .. | .amov .. | .mfs .. | .mts .. | .mfsa ..
  | .mtsa .. | .syscall .. | .moncall .. | .breakOp .. | .eret .. | .fence .. | .clrf .. | .fork .. | .join ..
  | .endOp .. | .waitt .. | .waite .. | .post .. | .postArrive .. | .chw .. | .chcommit .. | .send .. | .recv ..
  | .yield .. | .submit .. | .submitResume .. | .pktout .. | .pktoutResume .. | .timerCompareReached ..
  | .clusterDeadlock .. | .halt .. | .resume .. | .step .. | .kill .. | .trap .. | .chabort .. | .dbgWinWrite ..
  | .breakpointHit .. | .drainLimitExpire .. | .crc32c .. | .crc64 .. | .toep .. | .symh .. | .aese .. | .aesd ..
  | .ghash .. | .sha256r .. | .sha256m .. | .mcmp128 .. | .bgath .. | .bscat .. | .cxLate .. | .lock .. | .trylock ..
  | .unlock .. | .semp .. | .semv .. | .aaddw .. | .aswpw .. | .acasw .. | .aandw .. | .aorw .. | .lockTrump ..
  | .lockWithdraw .. | .lckForce .. | .semInitWrite .. | .traysAllocSize .. | .traysAllocPool .. | .free .. | .give ..
  | .share .. | .traysWaitReport .. | .traysWithdraw .. | .tryReclaim .. | .traysReclaimed .. | .traysEcc ..
  | .swtEnqueue .. | .swtDequeue .. | .swtTxDone .. | .swtTxEcc .. | .swtQueueTrump .. | .swtQflush ..
  | .swtHoldExpire .. | .ethPortCfgWrite .. | .autoNegotiation .. | .trainDone .. | .trainLimitExpire ..
  | .upDebExpire .. | .ethLinkFault .. | .downDebExpire .. | .pfcSend .. | .pfcRefresh .. | .pfcRx ..
  | .pfcPauseExpire .. | .tsqRead .. | .sof .. | .ringTerminate .. | .ctrlFrame .. | .mgmtFrame ..
  | .ringOutputSelect .. | .transitTtlRecheck .. | .ringUnderrun .. | .fecUncorrectable .. | .idle .. | .credit ..
  | .nak .. | .replay .. | .hello .. | .ringResume .. | .refuse .. | .leave .. | .leaveAck .. | .badControlWord ..
  | .nakRepeat .. | .ackSend .. | .creditReport .. | .wmIdleSend .. | .ctrlGapExpire .. | .spliceX .. | .spliceY ..
  | .leaveX .. | .leaveY .. | .passX .. | .passY .. | .bypassActuated .. | .spliceTimeout .. | .leaveDrainDone ..
  | .linkSignalDetect .. | .trainLock .. | .trainTimeout .. | .helloSend .. | .refuseRetry .. | .linkLockLoss ..
  | .linkHoldExpire .. | .breakClear .. | .avoidExpire .. | .hqePoll .. | .summaryReadDone .. | .atomicSwapDone ..
  | .doorbellRead .. | .descriptorFetch .. | .txSeg .. | .txDataReadDone .. | .modTimeExpire .. | .rxBuf ..
  | .rxDeliver .. | .cqRecheck .. | .cmd .. | .fnCtrlWrite .. | .flr .. | .snapshotTake .. | .snapshotDeliver ..
  | .profileSwitchTime .. | .stopBathDrainDone .. | .swapFixerEmpty .. | .swapComplete .. | .cshStartTime ..
  | .cshStopTime .. | .cshRecordWrite .. | .mctpControl .. | .pldmMessage .. | .pldmUpdate .. | .vendorCommand ..
  | .sensorUpdate .. | .hbmRequest .. | .hbmCommandIssue .. | .hbmTrump .. | .hbmReadReturn .. | .hbmFreeze ..
  | .negativeComplete .. | .hbmRefresh .. | .hbmTempRead .. | .hbmDriftCheck .. | .hbmScrub .. | .powerOn ..
  | .bootHeaderRead .. | .transitTrailer .. | .eventRingSignal .. | .pcieConfigWrite .. | .msixTableWrite .. => none

/-- The checks of a command. -/
def Instr.wf : Instr → Bool
  | .dbgWinWrite _ o _ => windowOffset o
  | .lockTrump onSem n _ => lockNumber onSem n
  | .tryReclaim _ req => requesterNumber req
  | .descriptorFetch _ _ ds => fetchLength ds.length
  | .snapshotTake k => streamNumber k
  | .snapshotDeliver k => streamNumber k
  | .ringCreate _ d => d.names 0x0001
  | .cqCreate _ d => d.names 0x0002
  | .ringDestroy _ d => d.names 0x0003
  | .vfConfig _ d => d.names 0x0004
  | .snapCreate _ d _ _ => d.names 0x0005
  | .snapRequest _ d => d.names 0x0006
  | .snapDestroy _ d => d.names 0x0007
  | .clsNodeWrite _ d _ _ => d.names 0x0100
  | .clsEpochStage _ d _ _ => d.names 0x0101
  | .clsEpochCommit _ d => d.names 0x0102
  | .clsEpochAbort _ d => d.names 0x0103
  | .meterWrite _ d _ _ => d.names 0x0200
  | .lockAcquire _ d => d.names 0x0300
  | .lockRelease _ d => d.names 0x0301
  | .semTake _ d => d.names 0x0302
  | .lockForce _ d => d.names 0x0303
  | .ringOp _ d => d.names 0x0400
  | .profileSwitch _ d _ => d.names 0x0500
  | .profileCancel _ d => d.names 0x0501
  | .profileStatus _ d => d.names 0x0502
  | .negativeRead _ d => d.names 0x0510
  | .negativeClear _ d => d.names 0x0511
  | .eventRingSet _ d => d.names 0x0520
  | .eventRead _ d => d.names 0x0521
  | .cshArm _ d => d.names 0x0530
  | .cshStop _ d => d.names 0x0531
  | .cshMark _ d => d.names 0x0532
  | .cshRead _ d => d.names 0x0533
  | .debugMode _ d => d.names 0x0540
  | .threadReset _ d => d.names 0x0541
  | .traysReclaim _ d => d.names 0x0550
  | .taiSet _ d => d.names 0x0560
  | .regRead _ d => d.names 0x0570
  | .regWrite _ d => d.names 0x0571
  | .deviceReset _ d => d.names 0x0580
  | .identify _ d => d.names 0x0581
  | .mctpControl msg => messageType 0x00 msg
  | .pldmMessage msg => messageType 0x01 msg
  | .vendorCommand msg => messageType 0x7E msg
  | .hbmRequest _ _ _ op addr len data => lineRequest op addr len data
  | .registerWrite .. | .unmappedAccess .. | .rcRead .. | .latchingRead .. | .partialAccess .. | .oversizeRequest ..
  | .glbReset .. | .glbExpert .. | .glbExpertThr .. | .warmResetStart .. | .poresetNAssert .. | .poresetNDeassert ..
  | .warmrstNAssert .. | .warmrstNDeassert .. | .perstNAssert .. | .perstNDeassert .. | .jtagTrst .. | .powerLoss ..
  | .brownout .. | .firmwareVerified .. | .bootProfileApplied .. | .hbmTrainDone .. | .stretchLevelUp ..
  | .stretchLevelDown .. | .dieTempSample .. | .inputChange .. | .inputLevelAccept .. | .inputStuck ..
  | .timerefLoss .. | .timerefRestore .. | .syncT .. | .syncA .. | .syncTai .. | .syncTSend .. | .syncASend ..
  | .syncTaiSend .. | .acquireLock .. | .acquireTimeout .. | .electTimeout .. | .parentLossTimeout ..
  | .masterTakeover .. | .holdoverTimeout .. | .roleWrite .. | .taiOffsetWrite .. | .ppsOutEdge .. | .ethRxFrame ..
  | .loupeIntake .. | .loupeWord .. | .loupeDeliver .. | .clsResultAccept .. | .clsLineReturn .. | .clsActionEval ..
  | .meterOp .. | .clsDeliver .. | .epochCommitTime .. | .epochSupersededRelease .. | .dlrItemArrive ..
  | .dlrDispatch .. | .dlrTrump .. | .dlrTick .. | .dlrInhSignal .. | .fixCompletion .. | .fixRelease ..
  | .fixSettleExpire .. | .fixHoldExpire .. | .fixTtlExpire .. | .fixDomainExpire .. | .fixEcc .. | .loadDataReturn ..
  | .machineCheck .. | .interruptTake .. | .add .. | .addc .. | .sub .. | .subc .. | .and .. | .or .. | .xor ..
  | .andn .. | .sll .. | .srl .. | .sra .. | .ror .. | .slli .. | .srli .. | .srai .. | .rori .. | .slt .. | .sltu ..
  | .min .. | .max .. | .minu .. | .maxu .. | .mul .. | .mulh .. | .mulhu .. | .div .. | .divu .. | .rem .. | .remu ..
  | .clz .. | .popc .. | .bswap .. | .addi .. | .andi .. | .ori .. | .xori .. | .li .. | .lui .. | .aaddi .. | .alpc ..
  | .ldb .. | .ldbu .. | .ldh .. | .ldhu .. | .ldw .. | .lda .. | .stb .. | .sth .. | .stw .. | .sta .. | .brc ..
  | .brf .. | .bra .. | .j .. | .jr .. | .extu .. | .exts .. | .ins .. | .mac .. | .macu .. | .msu .. | .msuu ..
  | .mula .. | .aclr .. | .mtac .. | .mtacu .. | .mfacl .. | .mfach .. | .mfacg .. | .asat .. | .ashr .. | .dadd ..
  | .daddc .. | .dsub .. | .dsubc .. | .daj .. | .dacc .. | .asc2p .. | .p2bin .. | .bin2p .. | .movda .. | .movdas ..
  | .movad .. | .movah .. | .movha .. | .aadd .. | .asub .. | .adiff .. | .amov .. | .mfs .. | .mts .. | .mfsa ..
  | .mtsa .. | .syscall .. | .moncall .. | .breakOp .. | .eret .. | .fence .. | .clrf .. | .fork .. | .join ..
  | .endOp .. | .waitt .. | .waite .. | .post .. | .postArrive .. | .chw .. | .chcommit .. | .send .. | .recv ..
  | .yield .. | .submit .. | .submitResume .. | .pktout .. | .pktoutResume .. | .timerCompareReached ..
  | .clusterDeadlock .. | .halt .. | .resume .. | .step .. | .kill .. | .trap .. | .chabort .. | .breakpointHit ..
  | .drainLimitExpire .. | .crc32c .. | .crc64 .. | .toep .. | .symh .. | .aese .. | .aesd .. | .ghash .. | .sha256r ..
  | .sha256m .. | .mcmp128 .. | .bgath .. | .bscat .. | .cxLate .. | .lock .. | .trylock .. | .unlock .. | .semp ..
  | .semv .. | .aaddw .. | .aswpw .. | .acasw .. | .aandw .. | .aorw .. | .lockWithdraw .. | .lckForce ..
  | .semInitWrite .. | .traysAllocSize .. | .traysAllocPool .. | .free .. | .give .. | .share .. | .traysWaitReport ..
  | .traysWithdraw .. | .traysReclaimed .. | .traysEcc .. | .swtEnqueue .. | .swtDequeue .. | .swtTxDone ..
  | .swtTxEcc .. | .swtQueueTrump .. | .swtQflush .. | .swtHoldExpire .. | .ethPortCfgWrite .. | .autoNegotiation ..
  | .trainDone .. | .trainLimitExpire .. | .upDebExpire .. | .ethLinkFault .. | .downDebExpire .. | .pfcSend ..
  | .pfcRefresh .. | .pfcRx .. | .pfcPauseExpire .. | .tsqRead .. | .sof .. | .ringTerminate .. | .ctrlFrame ..
  | .mgmtFrame .. | .ringOutputSelect .. | .transitTtlRecheck .. | .ringUnderrun .. | .fecUncorrectable .. | .idle ..
  | .credit .. | .nak .. | .replay .. | .hello .. | .ringResume .. | .refuse .. | .leave .. | .leaveAck ..
  | .badControlWord .. | .nakRepeat .. | .ackSend .. | .creditReport .. | .wmIdleSend .. | .ctrlGapExpire ..
  | .spliceX .. | .spliceY .. | .leaveX .. | .leaveY .. | .passX .. | .passY .. | .bypassActuated ..
  | .spliceTimeout .. | .leaveDrainDone .. | .linkSignalDetect .. | .trainLock .. | .trainTimeout .. | .helloSend ..
  | .refuseRetry .. | .linkLockLoss .. | .linkHoldExpire .. | .breakClear .. | .avoidExpire .. | .hqePoll ..
  | .summaryReadDone .. | .atomicSwapDone .. | .doorbellRead .. | .txSeg .. | .txDataReadDone .. | .modTimeExpire ..
  | .rxBuf .. | .rxDeliver .. | .cqRecheck .. | .cmd .. | .fnCtrlWrite .. | .flr .. | .profileSwitchTime ..
  | .stopBathDrainDone .. | .swapFixerEmpty .. | .swapComplete .. | .cshStartTime .. | .cshStopTime ..
  | .cshRecordWrite .. | .pldmUpdate .. | .sensorUpdate .. | .hbmCommandIssue .. | .hbmTrump .. | .hbmReadReturn ..
  | .hbmFreeze .. | .negativeComplete .. | .hbmRefresh .. | .hbmTempRead .. | .hbmDriftCheck .. | .hbmScrub ..
  | .powerOn .. | .bootHeaderRead .. | .transitTrailer .. | .eventRingSignal .. | .pcieConfigWrite ..
  | .msixTableWrite .. => true

end Sys2Proof
end

