-- ==== Sys2Proof/Laws/PerInstr.lean ====
section
/-! SUPPORT. A law of every row, one lemma per constructor: the rows of the command table are those whose well-formedness fixes
the opcode of their descriptor. -/

namespace Sys2Proof.Laws.Row

/-- The descriptor of a row of the command table. -/
def descOf : Instr → Option Desc
  | .ringCreate _ d => some d
  | .cqCreate _ d => some d
  | .ringDestroy _ d => some d
  | .vfConfig _ d => some d
  | .snapCreate _ d _ _ => some d
  | .snapRequest _ d => some d
  | .snapDestroy _ d => some d
  | .clsNodeWrite _ d _ _ => some d
  | .clsEpochStage _ d _ _ => some d
  | .clsEpochCommit _ d => some d
  | .clsEpochAbort _ d => some d
  | .meterWrite _ d _ _ => some d
  | .lockAcquire _ d => some d
  | .lockRelease _ d => some d
  | .semTake _ d => some d
  | .lockForce _ d => some d
  | .ringOp _ d => some d
  | .profileSwitch _ d _ => some d
  | .profileCancel _ d => some d
  | .profileStatus _ d => some d
  | .negativeRead _ d => some d
  | .negativeClear _ d => some d
  | .eventRingSet _ d => some d
  | .eventRead _ d => some d
  | .cshArm _ d => some d
  | .cshStop _ d => some d
  | .cshMark _ d => some d
  | .cshRead _ d => some d
  | .debugMode _ d => some d
  | .threadReset _ d => some d
  | .traysReclaim _ d => some d
  | .taiSet _ d => some d
  | .regRead _ d => some d
  | .regWrite _ d => some d
  | .deviceReset _ d => some d
  | .identify _ d => some d
  | .registerWrite .. | .unmappedAccess .. | .rcRead .. | .latchingRead .. | .partialAccess .. | .oversizeRequest ..
  | .glbReset .. | .glbExpert .. | .glbExpertThr .. | .warmResetStart .. | .poresetNAssert .. | .poresetNDeassert ..
  | .warmrstNAssert .. | .warmrstNDeassert .. | .perstNAssert .. | .perstNDeassert .. | .jtagTrst .. | .powerLoss ..
  | .brownout .. | .firmwareVerified .. | .bootProfileApplied .. | .hbmTrainDone .. | .stretchLevelUp ..
  | .stretchLevelDown .. | .dieTempSample .. | .inputChange .. | .inputLevelAccept .. | .inputStuck ..
  | .timerefLoss .. | .timerefRestore .. | .syncT .. | .syncA .. | .syncTai .. | .syncTSend .. | .syncASend ..
  | .syncTaiSend .. | .acquireLock .. | .acquireTimeout .. | .electTimeout .. | .parentLossTimeout ..
  | .masterTakeover .. | .holdoverTimeout .. | .roleWrite .. | .taiOffsetWrite .. | .ppsOutEdge .. | .ethRxFrame ..
  | .loupeIntake .. | .loupeWord .. | .loupeDeliver .. | .clsResultAccept .. | .clsLineReturn .. | .clsActionEval ..
  | .meterOp .. | .clsDeliver .. | .epochCommitTime .. | .epochSupersededRelease .. | .dlrItemArrive ..
  | .dlrDispatch .. | .dlrTrump .. | .dlrTick .. | .dlrInhSignal .. | .fixCompletion .. | .fixRelease ..
  | .fixSettleExpire .. | .fixHoldExpire .. | .fixTtlExpire .. | .fixDomainExpire .. | .fixEcc .. | .loadDataReturn ..
  | .machineCheck .. | .interruptTake .. | .add .. | .addc .. | .sub .. | .subc .. | .and .. | .or .. | .xor ..
  | .andn .. | .sll .. | .srl .. | .sra .. | .ror .. | .slli .. | .srli .. | .srai .. | .rori .. | .slt .. | .sltu ..
  | .min .. | .max .. | .minu .. | .maxu .. | .mul .. | .mulh .. | .mulhu .. | .div .. | .divu .. | .rem .. | .remu ..
  | .clz .. | .popc .. | .bswap .. | .addi .. | .andi .. | .ori .. | .xori .. | .li .. | .lui .. | .aaddi .. | .alpc ..
  | .ldb .. | .ldbu .. | .ldh .. | .ldhu .. | .ldw .. | .lda .. | .stb .. | .sth .. | .stw .. | .sta .. | .brc ..
  | .brf .. | .bra .. | .j .. | .jr .. | .extu .. | .exts .. | .ins .. | .mac .. | .macu .. | .msu .. | .msuu ..
  | .mula .. | .aclr .. | .mtac .. | .mtacu .. | .mfacl .. | .mfach .. | .mfacg .. | .asat .. | .ashr .. | .dadd ..
  | .daddc .. | .dsub .. | .dsubc .. | .daj .. | .dacc .. | .asc2p .. | .p2bin .. | .bin2p .. | .movda .. | .movdas ..
  | .movad .. | .movah .. | .movha .. | .aadd .. | .asub .. | .adiff .. | .amov .. | .mfs .. | .mts .. | .mfsa ..
  | .mtsa .. | .syscall .. | .moncall .. | .breakOp .. | .eret .. | .fence .. | .clrf .. | .fork .. | .join ..
  | .endOp .. | .waitt .. | .waite .. | .post .. | .postArrive .. | .chw .. | .chcommit .. | .send .. | .recv ..
  | .yield .. | .submit .. | .submitResume .. | .pktout .. | .pktoutResume .. | .timerCompareReached ..
  | .clusterDeadlock .. | .halt .. | .resume .. | .step .. | .kill .. | .trap .. | .chabort .. | .dbgWinWrite ..
  | .breakpointHit .. | .drainLimitExpire .. | .crc32c .. | .crc64 .. | .toep .. | .symh .. | .aese .. | .aesd ..
  | .ghash .. | .sha256r .. | .sha256m .. | .mcmp128 .. | .bgath .. | .bscat .. | .cxLate .. | .lock .. | .trylock ..
  | .unlock .. | .semp .. | .semv .. | .aaddw .. | .aswpw .. | .acasw .. | .aandw .. | .aorw .. | .lockTrump ..
  | .lockWithdraw .. | .lckForce .. | .semInitWrite .. | .traysAllocSize .. | .traysAllocPool .. | .free .. | .give ..
  | .share .. | .traysWaitReport .. | .traysWithdraw .. | .tryReclaim .. | .traysReclaimed .. | .traysEcc ..
  | .swtEnqueue .. | .swtDequeue .. | .swtTxDone .. | .swtTxEcc .. | .swtQueueTrump .. | .swtQflush ..
  | .swtHoldExpire .. | .ethPortCfgWrite .. | .autoNegotiation .. | .trainDone .. | .trainLimitExpire ..
  | .upDebExpire .. | .ethLinkFault .. | .downDebExpire .. | .pfcSend .. | .pfcRefresh .. | .pfcRx ..
  | .pfcPauseExpire .. | .tsqRead .. | .sof .. | .ringTerminate .. | .ctrlFrame .. | .mgmtFrame ..
  | .ringOutputSelect .. | .transitTtlRecheck .. | .ringUnderrun .. | .fecUncorrectable .. | .idle .. | .credit ..
  | .nak .. | .replay .. | .hello .. | .ringResume .. | .refuse .. | .leave .. | .leaveAck .. | .badControlWord ..
  | .nakRepeat .. | .ackSend .. | .creditReport .. | .wmIdleSend .. | .ctrlGapExpire .. | .spliceX .. | .spliceY ..
  | .leaveX .. | .leaveY .. | .passX .. | .passY .. | .bypassActuated .. | .spliceTimeout .. | .leaveDrainDone ..
  | .linkSignalDetect .. | .trainLock .. | .trainTimeout .. | .helloSend .. | .refuseRetry .. | .linkLockLoss ..
  | .linkHoldExpire .. | .breakClear .. | .avoidExpire .. | .hqePoll .. | .summaryReadDone .. | .atomicSwapDone ..
  | .doorbellRead .. | .descriptorFetch .. | .txSeg .. | .txDataReadDone .. | .modTimeExpire .. | .rxBuf ..
  | .rxDeliver .. | .cqRecheck .. | .cmd .. | .fnCtrlWrite .. | .flr .. | .snapshotTake .. | .snapshotDeliver ..
  | .profileSwitchTime .. | .stopBathDrainDone .. | .swapFixerEmpty .. | .swapComplete .. | .cshStartTime ..
  | .cshStopTime .. | .cshRecordWrite .. | .mctpControl .. | .pldmMessage .. | .pldmUpdate .. | .vendorCommand ..
  | .sensorUpdate .. | .hbmRequest .. | .hbmCommandIssue .. | .hbmTrump .. | .hbmReadReturn .. | .hbmFreeze ..
  | .negativeComplete .. | .hbmRefresh .. | .hbmTempRead .. | .hbmDriftCheck .. | .hbmScrub .. | .powerOn ..
  | .bootHeaderRead .. | .transitTrailer .. | .eventRingSignal .. | .pcieConfigWrite .. | .msixTableWrite .. => none

/-- A row has an opcode exactly when it has a descriptor, and a well-formed row's descriptor names that opcode. -/
def Statement (i : Instr) : Prop :=
  (Instr.opcode i).isSome = (descOf i).isSome ∧
    ∀ n d, Instr.opcode i = some n → descOf i = some d → Instr.wf i = true → d.names n = true

/-- A row without an opcode and without a descriptor. -/
theorem of_none {i : Instr} (ho : Instr.opcode i = none) (hd : descOf i = none) : Statement i := by
  refine ⟨by rw [ho, hd]; rfl, fun n d h => ?_⟩
  rw [ho] at h; cases h

/-- A row of the command table. -/
theorem of_row {i : Instr} {k : Nat} {e : Desc} (ho : Instr.opcode i = some k) (hd : descOf i = some e)
    (hw : Instr.wf i = e.names k) : Statement i := by
  refine ⟨by rw [ho, hd]; rfl, fun n d h h' hf => ?_⟩
  rw [ho] at h; rw [hd] at h'; cases h; cases h'; rw [← hw]; exact hf

theorem registerWrite : ∀ x1 x2 x3, Statement (.registerWrite x1 x2 x3) := fun _ _ _ => of_none rfl rfl
theorem unmappedAccess : ∀ x1 x2 x3, Statement (.unmappedAccess x1 x2 x3) := fun _ _ _ => of_none rfl rfl
theorem rcRead : ∀ x1 x2, Statement (.rcRead x1 x2) := fun _ _ => of_none rfl rfl
theorem latchingRead : ∀ x1 x2, Statement (.latchingRead x1 x2) := fun _ _ => of_none rfl rfl
theorem partialAccess : ∀ x1 x2 x3, Statement (.partialAccess x1 x2 x3) := fun _ _ _ => of_none rfl rfl
theorem oversizeRequest : ∀ x1 x2 x3, Statement (.oversizeRequest x1 x2 x3) := fun _ _ _ => of_none rfl rfl
theorem glbReset : ∀ x1 x2, Statement (.glbReset x1 x2) := fun _ _ => of_none rfl rfl
theorem glbExpert : ∀ x1 x2, Statement (.glbExpert x1 x2) := fun _ _ => of_none rfl rfl
theorem glbExpertThr : ∀ x1 x2, Statement (.glbExpertThr x1 x2) := fun _ _ => of_none rfl rfl
theorem warmResetStart : Statement .warmResetStart := of_none rfl rfl
theorem poresetNAssert : Statement .poresetNAssert := of_none rfl rfl
theorem poresetNDeassert : ∀ x1, Statement (.poresetNDeassert x1) := fun _ => of_none rfl rfl
theorem warmrstNAssert : Statement .warmrstNAssert := of_none rfl rfl
theorem warmrstNDeassert : Statement .warmrstNDeassert := of_none rfl rfl
theorem perstNAssert : ∀ x1, Statement (.perstNAssert x1) := fun _ => of_none rfl rfl
theorem perstNDeassert : ∀ x1, Statement (.perstNDeassert x1) := fun _ => of_none rfl rfl
theorem jtagTrst : Statement .jtagTrst := of_none rfl rfl
theorem powerLoss : ∀ x1, Statement (.powerLoss x1) := fun _ => of_none rfl rfl
theorem brownout : Statement .brownout := of_none rfl rfl
theorem firmwareVerified : ∀ x1 x2, Statement (.firmwareVerified x1 x2) := fun _ _ => of_none rfl rfl
theorem bootProfileApplied : ∀ x1, Statement (.bootProfileApplied x1) := fun _ => of_none rfl rfl
theorem hbmTrainDone : ∀ x1 x2 x3, Statement (.hbmTrainDone x1 x2 x3) := fun _ _ _ => of_none rfl rfl
theorem stretchLevelUp : ∀ x1 x2 x3, Statement (.stretchLevelUp x1 x2 x3) := fun _ _ _ => of_none rfl rfl
theorem stretchLevelDown : ∀ x1 x2 x3, Statement (.stretchLevelDown x1 x2 x3) := fun _ _ _ => of_none rfl rfl
theorem dieTempSample : ∀ x1, Statement (.dieTempSample x1) := fun _ => of_none rfl rfl
theorem inputChange : ∀ x1 x2, Statement (.inputChange x1 x2) := fun _ _ => of_none rfl rfl
theorem inputLevelAccept : ∀ x1, Statement (.inputLevelAccept x1) := fun _ => of_none rfl rfl
theorem inputStuck : ∀ x1, Statement (.inputStuck x1) := fun _ => of_none rfl rfl
theorem timerefLoss : Statement .timerefLoss := of_none rfl rfl
theorem timerefRestore : Statement .timerefRestore := of_none rfl rfl
theorem syncT : ∀ x1 x2, Statement (.syncT x1 x2) := fun _ _ => of_none rfl rfl
theorem syncA : ∀ x1 x2, Statement (.syncA x1 x2) := fun _ _ => of_none rfl rfl
theorem syncTai : ∀ x1 x2, Statement (.syncTai x1 x2) := fun _ _ => of_none rfl rfl
theorem syncTSend : ∀ x1, Statement (.syncTSend x1) := fun _ => of_none rfl rfl
theorem syncASend : ∀ x1, Statement (.syncASend x1) := fun _ => of_none rfl rfl
theorem syncTaiSend : ∀ x1, Statement (.syncTaiSend x1) := fun _ => of_none rfl rfl
theorem acquireLock : Statement .acquireLock := of_none rfl rfl
theorem acquireTimeout : Statement .acquireTimeout := of_none rfl rfl
theorem electTimeout : Statement .electTimeout := of_none rfl rfl
theorem parentLossTimeout : Statement .parentLossTimeout := of_none rfl rfl
theorem masterTakeover : Statement .masterTakeover := of_none rfl rfl
theorem holdoverTimeout : Statement .holdoverTimeout := of_none rfl rfl
theorem roleWrite : ∀ x1 x2, Statement (.roleWrite x1 x2) := fun _ _ => of_none rfl rfl
theorem taiOffsetWrite : ∀ x1 x2, Statement (.taiOffsetWrite x1 x2) := fun _ _ => of_none rfl rfl
theorem ppsOutEdge : Statement .ppsOutEdge := of_none rfl rfl
theorem ethRxFrame : ∀ x1 x2 x3, Statement (.ethRxFrame x1 x2 x3) := fun _ _ _ => of_none rfl rfl
theorem loupeIntake : ∀ x1, Statement (.loupeIntake x1) := fun _ => of_none rfl rfl
theorem loupeWord : ∀ x1 x2 x3, Statement (.loupeWord x1 x2 x3) := fun _ _ _ => of_none rfl rfl
theorem loupeDeliver : ∀ x1, Statement (.loupeDeliver x1) := fun _ => of_none rfl rfl
theorem clsResultAccept : ∀ x1, Statement (.clsResultAccept x1) := fun _ => of_none rfl rfl
theorem clsLineReturn : ∀ x1 x2 x3, Statement (.clsLineReturn x1 x2 x3) := fun _ _ _ => of_none rfl rfl
theorem clsActionEval : ∀ x1 x2, Statement (.clsActionEval x1 x2) := fun _ _ => of_none rfl rfl
theorem meterOp : ∀ x1 x2, Statement (.meterOp x1 x2) := fun _ _ => of_none rfl rfl
theorem clsDeliver : ∀ x1 x2, Statement (.clsDeliver x1 x2) := fun _ _ => of_none rfl rfl
theorem epochCommitTime : ∀ x1, Statement (.epochCommitTime x1) := fun _ => of_none rfl rfl
theorem epochSupersededRelease : ∀ x1, Statement (.epochSupersededRelease x1) := fun _ => of_none rfl rfl
theorem dlrItemArrive : Statement .dlrItemArrive := of_none rfl rfl
theorem dlrDispatch : Statement .dlrDispatch := of_none rfl rfl
theorem dlrTrump : ∀ x1, Statement (.dlrTrump x1) := fun _ => of_none rfl rfl
theorem dlrTick : Statement .dlrTick := of_none rfl rfl
theorem dlrInhSignal : Statement .dlrInhSignal := of_none rfl rfl
theorem fixCompletion : Statement .fixCompletion := of_none rfl rfl
theorem fixRelease : ∀ x1, Statement (.fixRelease x1) := fun _ => of_none rfl rfl
theorem fixSettleExpire : ∀ x1, Statement (.fixSettleExpire x1) := fun _ => of_none rfl rfl
theorem fixHoldExpire : ∀ x1, Statement (.fixHoldExpire x1) := fun _ => of_none rfl rfl
theorem fixTtlExpire : ∀ x1, Statement (.fixTtlExpire x1) := fun _ => of_none rfl rfl
theorem fixDomainExpire : ∀ x1, Statement (.fixDomainExpire x1) := fun _ => of_none rfl rfl
theorem fixEcc : ∀ x1, Statement (.fixEcc x1) := fun _ => of_none rfl rfl
theorem loadDataReturn : ∀ x1 x2, Statement (.loadDataReturn x1 x2) := fun _ _ => of_none rfl rfl
theorem machineCheck : ∀ x1 x2, Statement (.machineCheck x1 x2) := fun _ _ => of_none rfl rfl
theorem interruptTake : ∀ x1, Statement (.interruptTake x1) := fun _ => of_none rfl rfl
theorem add : ∀ x1 x2, Statement (.add x1 x2) := fun _ _ => of_none rfl rfl
theorem addc : ∀ x1 x2, Statement (.addc x1 x2) := fun _ _ => of_none rfl rfl
theorem sub : ∀ x1 x2, Statement (.sub x1 x2) := fun _ _ => of_none rfl rfl
theorem subc : ∀ x1 x2, Statement (.subc x1 x2) := fun _ _ => of_none rfl rfl
theorem and : ∀ x1 x2, Statement (.and x1 x2) := fun _ _ => of_none rfl rfl
theorem or : ∀ x1 x2, Statement (.or x1 x2) := fun _ _ => of_none rfl rfl
theorem xor : ∀ x1 x2, Statement (.xor x1 x2) := fun _ _ => of_none rfl rfl
theorem andn : ∀ x1 x2, Statement (.andn x1 x2) := fun _ _ => of_none rfl rfl
theorem sll : ∀ x1 x2, Statement (.sll x1 x2) := fun _ _ => of_none rfl rfl
theorem srl : ∀ x1 x2, Statement (.srl x1 x2) := fun _ _ => of_none rfl rfl
theorem sra : ∀ x1 x2, Statement (.sra x1 x2) := fun _ _ => of_none rfl rfl
theorem ror : ∀ x1 x2, Statement (.ror x1 x2) := fun _ _ => of_none rfl rfl
theorem slli : ∀ x1 x2, Statement (.slli x1 x2) := fun _ _ => of_none rfl rfl
theorem srli : ∀ x1 x2, Statement (.srli x1 x2) := fun _ _ => of_none rfl rfl
theorem srai : ∀ x1 x2, Statement (.srai x1 x2) := fun _ _ => of_none rfl rfl
theorem rori : ∀ x1 x2, Statement (.rori x1 x2) := fun _ _ => of_none rfl rfl
theorem slt : ∀ x1 x2, Statement (.slt x1 x2) := fun _ _ => of_none rfl rfl
theorem sltu : ∀ x1 x2, Statement (.sltu x1 x2) := fun _ _ => of_none rfl rfl
theorem min : ∀ x1 x2, Statement (.min x1 x2) := fun _ _ => of_none rfl rfl
theorem max : ∀ x1 x2, Statement (.max x1 x2) := fun _ _ => of_none rfl rfl
theorem minu : ∀ x1 x2, Statement (.minu x1 x2) := fun _ _ => of_none rfl rfl
theorem maxu : ∀ x1 x2, Statement (.maxu x1 x2) := fun _ _ => of_none rfl rfl
theorem mul : ∀ x1 x2, Statement (.mul x1 x2) := fun _ _ => of_none rfl rfl
theorem mulh : ∀ x1 x2, Statement (.mulh x1 x2) := fun _ _ => of_none rfl rfl
theorem mulhu : ∀ x1 x2, Statement (.mulhu x1 x2) := fun _ _ => of_none rfl rfl
theorem div : ∀ x1 x2, Statement (.div x1 x2) := fun _ _ => of_none rfl rfl
theorem divu : ∀ x1 x2, Statement (.divu x1 x2) := fun _ _ => of_none rfl rfl
theorem rem : ∀ x1 x2, Statement (.rem x1 x2) := fun _ _ => of_none rfl rfl
theorem remu : ∀ x1 x2, Statement (.remu x1 x2) := fun _ _ => of_none rfl rfl
theorem clz : ∀ x1 x2, Statement (.clz x1 x2) := fun _ _ => of_none rfl rfl
theorem popc : ∀ x1 x2, Statement (.popc x1 x2) := fun _ _ => of_none rfl rfl
theorem bswap : ∀ x1 x2, Statement (.bswap x1 x2) := fun _ _ => of_none rfl rfl
theorem addi : ∀ x1 x2, Statement (.addi x1 x2) := fun _ _ => of_none rfl rfl
theorem andi : ∀ x1 x2, Statement (.andi x1 x2) := fun _ _ => of_none rfl rfl
theorem ori : ∀ x1 x2, Statement (.ori x1 x2) := fun _ _ => of_none rfl rfl
theorem xori : ∀ x1 x2, Statement (.xori x1 x2) := fun _ _ => of_none rfl rfl
theorem li : ∀ x1 x2, Statement (.li x1 x2) := fun _ _ => of_none rfl rfl
theorem lui : ∀ x1 x2, Statement (.lui x1 x2) := fun _ _ => of_none rfl rfl
theorem aaddi : ∀ x1 x2, Statement (.aaddi x1 x2) := fun _ _ => of_none rfl rfl
theorem alpc : ∀ x1 x2, Statement (.alpc x1 x2) := fun _ _ => of_none rfl rfl
theorem ldb : ∀ x1 x2, Statement (.ldb x1 x2) := fun _ _ => of_none rfl rfl
theorem ldbu : ∀ x1 x2, Statement (.ldbu x1 x2) := fun _ _ => of_none rfl rfl
theorem ldh : ∀ x1 x2, Statement (.ldh x1 x2) := fun _ _ => of_none rfl rfl
theorem ldhu : ∀ x1 x2, Statement (.ldhu x1 x2) := fun _ _ => of_none rfl rfl
theorem ldw : ∀ x1 x2, Statement (.ldw x1 x2) := fun _ _ => of_none rfl rfl
theorem lda : ∀ x1 x2, Statement (.lda x1 x2) := fun _ _ => of_none rfl rfl
theorem stb : ∀ x1 x2, Statement (.stb x1 x2) := fun _ _ => of_none rfl rfl
theorem sth : ∀ x1 x2, Statement (.sth x1 x2) := fun _ _ => of_none rfl rfl
theorem stw : ∀ x1 x2, Statement (.stw x1 x2) := fun _ _ => of_none rfl rfl
theorem sta : ∀ x1 x2, Statement (.sta x1 x2) := fun _ _ => of_none rfl rfl
theorem brc : ∀ x1 x2, Statement (.brc x1 x2) := fun _ _ => of_none rfl rfl
theorem brf : ∀ x1 x2, Statement (.brf x1 x2) := fun _ _ => of_none rfl rfl
theorem bra : ∀ x1 x2, Statement (.bra x1 x2) := fun _ _ => of_none rfl rfl
theorem j : ∀ x1 x2, Statement (.j x1 x2) := fun _ _ => of_none rfl rfl
theorem jr : ∀ x1 x2, Statement (.jr x1 x2) := fun _ _ => of_none rfl rfl
theorem extu : ∀ x1 x2, Statement (.extu x1 x2) := fun _ _ => of_none rfl rfl
theorem exts : ∀ x1 x2, Statement (.exts x1 x2) := fun _ _ => of_none rfl rfl
theorem ins : ∀ x1 x2, Statement (.ins x1 x2) := fun _ _ => of_none rfl rfl
theorem mac : ∀ x1 x2, Statement (.mac x1 x2) := fun _ _ => of_none rfl rfl
theorem macu : ∀ x1 x2, Statement (.macu x1 x2) := fun _ _ => of_none rfl rfl
theorem msu : ∀ x1 x2, Statement (.msu x1 x2) := fun _ _ => of_none rfl rfl
theorem msuu : ∀ x1 x2, Statement (.msuu x1 x2) := fun _ _ => of_none rfl rfl
theorem mula : ∀ x1 x2, Statement (.mula x1 x2) := fun _ _ => of_none rfl rfl
theorem aclr : ∀ x1 x2, Statement (.aclr x1 x2) := fun _ _ => of_none rfl rfl
theorem mtac : ∀ x1 x2, Statement (.mtac x1 x2) := fun _ _ => of_none rfl rfl
theorem mtacu : ∀ x1 x2, Statement (.mtacu x1 x2) := fun _ _ => of_none rfl rfl
theorem mfacl : ∀ x1 x2, Statement (.mfacl x1 x2) := fun _ _ => of_none rfl rfl
theorem mfach : ∀ x1 x2, Statement (.mfach x1 x2) := fun _ _ => of_none rfl rfl
theorem mfacg : ∀ x1 x2, Statement (.mfacg x1 x2) := fun _ _ => of_none rfl rfl
theorem asat : ∀ x1 x2, Statement (.asat x1 x2) := fun _ _ => of_none rfl rfl
theorem ashr : ∀ x1 x2, Statement (.ashr x1 x2) := fun _ _ => of_none rfl rfl
theorem dadd : ∀ x1 x2, Statement (.dadd x1 x2) := fun _ _ => of_none rfl rfl
theorem daddc : ∀ x1 x2, Statement (.daddc x1 x2) := fun _ _ => of_none rfl rfl
theorem dsub : ∀ x1 x2, Statement (.dsub x1 x2) := fun _ _ => of_none rfl rfl
theorem dsubc : ∀ x1 x2, Statement (.dsubc x1 x2) := fun _ _ => of_none rfl rfl
theorem daj : ∀ x1 x2, Statement (.daj x1 x2) := fun _ _ => of_none rfl rfl
theorem dacc : ∀ x1 x2, Statement (.dacc x1 x2) := fun _ _ => of_none rfl rfl
theorem asc2p : ∀ x1 x2, Statement (.asc2p x1 x2) := fun _ _ => of_none rfl rfl
theorem p2bin : ∀ x1 x2, Statement (.p2bin x1 x2) := fun _ _ => of_none rfl rfl
theorem bin2p : ∀ x1 x2, Statement (.bin2p x1 x2) := fun _ _ => of_none rfl rfl
theorem movda : ∀ x1 x2, Statement (.movda x1 x2) := fun _ _ => of_none rfl rfl
theorem movdas : ∀ x1 x2, Statement (.movdas x1 x2) := fun _ _ => of_none rfl rfl
theorem movad : ∀ x1 x2, Statement (.movad x1 x2) := fun _ _ => of_none rfl rfl
theorem movah : ∀ x1 x2, Statement (.movah x1 x2) := fun _ _ => of_none rfl rfl
theorem movha : ∀ x1 x2, Statement (.movha x1 x2) := fun _ _ => of_none rfl rfl
theorem aadd : ∀ x1 x2, Statement (.aadd x1 x2) := fun _ _ => of_none rfl rfl
theorem asub : ∀ x1 x2, Statement (.asub x1 x2) := fun _ _ => of_none rfl rfl
theorem adiff : ∀ x1 x2, Statement (.adiff x1 x2) := fun _ _ => of_none rfl rfl
theorem amov : ∀ x1 x2, Statement (.amov x1 x2) := fun _ _ => of_none rfl rfl
theorem mfs : ∀ x1 x2, Statement (.mfs x1 x2) := fun _ _ => of_none rfl rfl
theorem mts : ∀ x1 x2, Statement (.mts x1 x2) := fun _ _ => of_none rfl rfl
theorem mfsa : ∀ x1 x2, Statement (.mfsa x1 x2) := fun _ _ => of_none rfl rfl
theorem mtsa : ∀ x1 x2, Statement (.mtsa x1 x2) := fun _ _ => of_none rfl rfl
theorem syscall : ∀ x1 x2, Statement (.syscall x1 x2) := fun _ _ => of_none rfl rfl
theorem moncall : ∀ x1 x2, Statement (.moncall x1 x2) := fun _ _ => of_none rfl rfl
theorem breakOp : ∀ x1 x2, Statement (.breakOp x1 x2) := fun _ _ => of_none rfl rfl
theorem eret : ∀ x1 x2, Statement (.eret x1 x2) := fun _ _ => of_none rfl rfl
theorem fence : ∀ x1 x2, Statement (.fence x1 x2) := fun _ _ => of_none rfl rfl
theorem clrf : ∀ x1 x2, Statement (.clrf x1 x2) := fun _ _ => of_none rfl rfl
theorem fork : ∀ x1 x2, Statement (.fork x1 x2) := fun _ _ => of_none rfl rfl
theorem join : ∀ x1 x2, Statement (.join x1 x2) := fun _ _ => of_none rfl rfl
theorem endOp : ∀ x1 x2, Statement (.endOp x1 x2) := fun _ _ => of_none rfl rfl
theorem waitt : ∀ x1 x2, Statement (.waitt x1 x2) := fun _ _ => of_none rfl rfl
theorem waite : ∀ x1 x2, Statement (.waite x1 x2) := fun _ _ => of_none rfl rfl
theorem post : ∀ x1 x2, Statement (.post x1 x2) := fun _ _ => of_none rfl rfl
theorem postArrive : Statement .postArrive := of_none rfl rfl
theorem chw : ∀ x1 x2, Statement (.chw x1 x2) := fun _ _ => of_none rfl rfl
theorem chcommit : ∀ x1 x2, Statement (.chcommit x1 x2) := fun _ _ => of_none rfl rfl
theorem send : ∀ x1 x2, Statement (.send x1 x2) := fun _ _ => of_none rfl rfl
theorem recv : ∀ x1 x2, Statement (.recv x1 x2) := fun _ _ => of_none rfl rfl
theorem yield : ∀ x1 x2, Statement (.yield x1 x2) := fun _ _ => of_none rfl rfl
theorem submit : ∀ x1 x2, Statement (.submit x1 x2) := fun _ _ => of_none rfl rfl
theorem submitResume : ∀ x1, Statement (.submitResume x1) := fun _ => of_none rfl rfl
theorem pktout : ∀ x1 x2, Statement (.pktout x1 x2) := fun _ _ => of_none rfl rfl
theorem pktoutResume : ∀ x1, Statement (.pktoutResume x1) := fun _ => of_none rfl rfl
theorem timerCompareReached : ∀ x1, Statement (.timerCompareReached x1) := fun _ => of_none rfl rfl
theorem clusterDeadlock : ∀ x1, Statement (.clusterDeadlock x1) := fun _ => of_none rfl rfl
theorem halt : ∀ x1 x2, Statement (.halt x1 x2) := fun _ _ => of_none rfl rfl
theorem resume : ∀ x1 x2, Statement (.resume x1 x2) := fun _ _ => of_none rfl rfl
theorem step : ∀ x1 x2, Statement (.step x1 x2) := fun _ _ => of_none rfl rfl
theorem kill : ∀ x1 x2, Statement (.kill x1 x2) := fun _ _ => of_none rfl rfl
theorem trap : ∀ x1 x2, Statement (.trap x1 x2) := fun _ _ => of_none rfl rfl
theorem chabort : ∀ x1 x2, Statement (.chabort x1 x2) := fun _ _ => of_none rfl rfl
theorem dbgWinWrite : ∀ x1 x2 x3, Statement (.dbgWinWrite x1 x2 x3) := fun _ _ _ => of_none rfl rfl
theorem breakpointHit : ∀ x1 x2, Statement (.breakpointHit x1 x2) := fun _ _ => of_none rfl rfl
theorem drainLimitExpire : Statement .drainLimitExpire := of_none rfl rfl
theorem crc32c : ∀ x1 x2, Statement (.crc32c x1 x2) := fun _ _ => of_none rfl rfl
theorem crc64 : ∀ x1 x2, Statement (.crc64 x1 x2) := fun _ _ => of_none rfl rfl
theorem toep : ∀ x1 x2, Statement (.toep x1 x2) := fun _ _ => of_none rfl rfl
theorem symh : ∀ x1 x2, Statement (.symh x1 x2) := fun _ _ => of_none rfl rfl
theorem aese : ∀ x1 x2, Statement (.aese x1 x2) := fun _ _ => of_none rfl rfl
theorem aesd : ∀ x1 x2, Statement (.aesd x1 x2) := fun _ _ => of_none rfl rfl
theorem ghash : ∀ x1 x2, Statement (.ghash x1 x2) := fun _ _ => of_none rfl rfl
theorem sha256r : ∀ x1 x2, Statement (.sha256r x1 x2) := fun _ _ => of_none rfl rfl
theorem sha256m : ∀ x1 x2, Statement (.sha256m x1 x2) := fun _ _ => of_none rfl rfl
theorem mcmp128 : ∀ x1 x2, Statement (.mcmp128 x1 x2) := fun _ _ => of_none rfl rfl
theorem bgath : ∀ x1 x2, Statement (.bgath x1 x2) := fun _ _ => of_none rfl rfl
theorem bscat : ∀ x1 x2, Statement (.bscat x1 x2) := fun _ _ => of_none rfl rfl
theorem cxLate : ∀ x1 x2 x3 x4, Statement (.cxLate x1 x2 x3 x4) := fun _ _ _ _ => of_none rfl rfl
theorem lock : ∀ x1 x2, Statement (.lock x1 x2) := fun _ _ => of_none rfl rfl
theorem trylock : ∀ x1 x2, Statement (.trylock x1 x2) := fun _ _ => of_none rfl rfl
theorem unlock : ∀ x1 x2, Statement (.unlock x1 x2) := fun _ _ => of_none rfl rfl
theorem semp : ∀ x1 x2, Statement (.semp x1 x2) := fun _ _ => of_none rfl rfl
theorem semv : ∀ x1 x2, Statement (.semv x1 x2) := fun _ _ => of_none rfl rfl
theorem aaddw : ∀ x1 x2, Statement (.aaddw x1 x2) := fun _ _ => of_none rfl rfl
theorem aswpw : ∀ x1 x2, Statement (.aswpw x1 x2) := fun _ _ => of_none rfl rfl
theorem acasw : ∀ x1 x2, Statement (.acasw x1 x2) := fun _ _ => of_none rfl rfl
theorem aandw : ∀ x1 x2, Statement (.aandw x1 x2) := fun _ _ => of_none rfl rfl
theorem aorw : ∀ x1 x2, Statement (.aorw x1 x2) := fun _ _ => of_none rfl rfl
theorem lockTrump : ∀ x1 x2 x3, Statement (.lockTrump x1 x2 x3) := fun _ _ _ => of_none rfl rfl
theorem lockWithdraw : ∀ x1, Statement (.lockWithdraw x1) := fun _ => of_none rfl rfl
theorem lckForce : ∀ x1 x2, Statement (.lckForce x1 x2) := fun _ _ => of_none rfl rfl
theorem semInitWrite : ∀ x1 x2 x3, Statement (.semInitWrite x1 x2 x3) := fun _ _ _ => of_none rfl rfl
theorem traysAllocSize : ∀ x1 x2 x3 x4, Statement (.traysAllocSize x1 x2 x3 x4) := fun _ _ _ _ => of_none rfl rfl
theorem traysAllocPool : ∀ x1 x2 x3 x4, Statement (.traysAllocPool x1 x2 x3 x4) := fun _ _ _ _ => of_none rfl rfl
theorem free : ∀ x1 x2, Statement (.free x1 x2) := fun _ _ => of_none rfl rfl
theorem give : ∀ x1 x2 x3, Statement (.give x1 x2 x3) := fun _ _ _ => of_none rfl rfl
theorem share : ∀ x1 x2 x3, Statement (.share x1 x2 x3) := fun _ _ _ => of_none rfl rfl
theorem traysWaitReport : ∀ x1, Statement (.traysWaitReport x1) := fun _ => of_none rfl rfl
theorem traysWithdraw : ∀ x1, Statement (.traysWithdraw x1) := fun _ => of_none rfl rfl
theorem tryReclaim : ∀ x1 x2, Statement (.tryReclaim x1 x2) := fun _ _ => of_none rfl rfl
theorem traysReclaimed : Statement .traysReclaimed := of_none rfl rfl
theorem traysEcc : ∀ x1, Statement (.traysEcc x1) := fun _ => of_none rfl rfl
theorem swtEnqueue : Statement .swtEnqueue := of_none rfl rfl
theorem swtDequeue : ∀ x1, Statement (.swtDequeue x1) := fun _ => of_none rfl rfl
theorem swtTxDone : ∀ x1, Statement (.swtTxDone x1) := fun _ => of_none rfl rfl
theorem swtTxEcc : ∀ x1, Statement (.swtTxEcc x1) := fun _ => of_none rfl rfl
theorem swtQueueTrump : ∀ x1, Statement (.swtQueueTrump x1) := fun _ => of_none rfl rfl
theorem swtQflush : ∀ x1 x2, Statement (.swtQflush x1 x2) := fun _ _ => of_none rfl rfl
theorem swtHoldExpire : ∀ x1, Statement (.swtHoldExpire x1) := fun _ => of_none rfl rfl
theorem ethPortCfgWrite : ∀ x1 x2 x3, Statement (.ethPortCfgWrite x1 x2 x3) := fun _ _ _ => of_none rfl rfl
theorem autoNegotiation : ∀ x1 x2, Statement (.autoNegotiation x1 x2) := fun _ _ => of_none rfl rfl
theorem trainDone : ∀ x1, Statement (.trainDone x1) := fun _ => of_none rfl rfl
theorem trainLimitExpire : ∀ x1, Statement (.trainLimitExpire x1) := fun _ => of_none rfl rfl
theorem upDebExpire : ∀ x1, Statement (.upDebExpire x1) := fun _ => of_none rfl rfl
theorem ethLinkFault : ∀ x1 x2 x3 x4, Statement (.ethLinkFault x1 x2 x3 x4) := fun _ _ _ _ => of_none rfl rfl
theorem downDebExpire : ∀ x1, Statement (.downDebExpire x1) := fun _ => of_none rfl rfl
theorem pfcSend : ∀ x1, Statement (.pfcSend x1) := fun _ => of_none rfl rfl
theorem pfcRefresh : ∀ x1, Statement (.pfcRefresh x1) := fun _ => of_none rfl rfl
theorem pfcRx : ∀ x1 x2, Statement (.pfcRx x1 x2) := fun _ _ => of_none rfl rfl
theorem pfcPauseExpire : ∀ x1 x2, Statement (.pfcPauseExpire x1 x2) := fun _ _ => of_none rfl rfl
theorem tsqRead : ∀ x1 x2, Statement (.tsqRead x1 x2) := fun _ _ => of_none rfl rfl
theorem sof : ∀ x1 x2 x3 x4, Statement (.sof x1 x2 x3 x4) := fun _ _ _ _ => of_none rfl rfl
theorem ringTerminate : ∀ x1 x2, Statement (.ringTerminate x1 x2) := fun _ _ => of_none rfl rfl
theorem ctrlFrame : ∀ x1 x2, Statement (.ctrlFrame x1 x2) := fun _ _ => of_none rfl rfl
theorem mgmtFrame : ∀ x1 x2, Statement (.mgmtFrame x1 x2) := fun _ _ => of_none rfl rfl
theorem ringOutputSelect : ∀ x1, Statement (.ringOutputSelect x1) := fun _ => of_none rfl rfl
theorem transitTtlRecheck : Statement .transitTtlRecheck := of_none rfl rfl
theorem ringUnderrun : ∀ x1, Statement (.ringUnderrun x1) := fun _ => of_none rfl rfl
theorem fecUncorrectable : ∀ x1 x2, Statement (.fecUncorrectable x1 x2) := fun _ _ => of_none rfl rfl
theorem idle : ∀ x1 x2, Statement (.idle x1 x2) := fun _ _ => of_none rfl rfl
theorem credit : ∀ x1 x2, Statement (.credit x1 x2) := fun _ _ => of_none rfl rfl
theorem nak : ∀ x1 x2, Statement (.nak x1 x2) := fun _ _ => of_none rfl rfl
theorem replay : ∀ x1 x2, Statement (.replay x1 x2) := fun _ _ => of_none rfl rfl
theorem hello : ∀ x1 x2, Statement (.hello x1 x2) := fun _ _ => of_none rfl rfl
theorem ringResume : ∀ x1 x2, Statement (.ringResume x1 x2) := fun _ _ => of_none rfl rfl
theorem refuse : ∀ x1 x2, Statement (.refuse x1 x2) := fun _ _ => of_none rfl rfl
theorem leave : ∀ x1 x2, Statement (.leave x1 x2) := fun _ _ => of_none rfl rfl
theorem leaveAck : ∀ x1 x2, Statement (.leaveAck x1 x2) := fun _ _ => of_none rfl rfl
theorem badControlWord : ∀ x1 x2, Statement (.badControlWord x1 x2) := fun _ _ => of_none rfl rfl
theorem nakRepeat : ∀ x1, Statement (.nakRepeat x1) := fun _ => of_none rfl rfl
theorem ackSend : ∀ x1, Statement (.ackSend x1) := fun _ => of_none rfl rfl
theorem creditReport : ∀ x1, Statement (.creditReport x1) := fun _ => of_none rfl rfl
theorem wmIdleSend : ∀ x1, Statement (.wmIdleSend x1) := fun _ => of_none rfl rfl
theorem ctrlGapExpire : ∀ x1, Statement (.ctrlGapExpire x1) := fun _ => of_none rfl rfl
theorem spliceX : ∀ x1, Statement (.spliceX x1) := fun _ => of_none rfl rfl
theorem spliceY : ∀ x1, Statement (.spliceY x1) := fun _ => of_none rfl rfl
theorem leaveX : ∀ x1, Statement (.leaveX x1) := fun _ => of_none rfl rfl
theorem leaveY : ∀ x1, Statement (.leaveY x1) := fun _ => of_none rfl rfl
theorem passX : ∀ x1, Statement (.passX x1) := fun _ => of_none rfl rfl
theorem passY : ∀ x1, Statement (.passY x1) := fun _ => of_none rfl rfl
theorem bypassActuated : ∀ x1, Statement (.bypassActuated x1) := fun _ => of_none rfl rfl
theorem spliceTimeout : ∀ x1, Statement (.spliceTimeout x1) := fun _ => of_none rfl rfl
theorem leaveDrainDone : ∀ x1, Statement (.leaveDrainDone x1) := fun _ => of_none rfl rfl
theorem linkSignalDetect : ∀ x1, Statement (.linkSignalDetect x1) := fun _ => of_none rfl rfl
theorem trainLock : ∀ x1, Statement (.trainLock x1) := fun _ => of_none rfl rfl
theorem trainTimeout : ∀ x1, Statement (.trainTimeout x1) := fun _ => of_none rfl rfl
theorem helloSend : ∀ x1, Statement (.helloSend x1) := fun _ => of_none rfl rfl
theorem refuseRetry : ∀ x1, Statement (.refuseRetry x1) := fun _ => of_none rfl rfl
theorem linkLockLoss : ∀ x1, Statement (.linkLockLoss x1) := fun _ => of_none rfl rfl
theorem linkHoldExpire : ∀ x1, Statement (.linkHoldExpire x1) := fun _ => of_none rfl rfl
theorem breakClear : ∀ x1, Statement (.breakClear x1) := fun _ => of_none rfl rfl
theorem avoidExpire : Statement .avoidExpire := of_none rfl rfl
theorem hqePoll : ∀ x1, Statement (.hqePoll x1) := fun _ => of_none rfl rfl
theorem summaryReadDone : ∀ x1 x2, Statement (.summaryReadDone x1 x2) := fun _ _ => of_none rfl rfl
theorem atomicSwapDone : ∀ x1 x2 x3, Statement (.atomicSwapDone x1 x2 x3) := fun _ _ _ => of_none rfl rfl
theorem doorbellRead : ∀ x1 x2 x3, Statement (.doorbellRead x1 x2 x3) := fun _ _ _ => of_none rfl rfl
theorem descriptorFetch : ∀ x1 x2 x3, Statement (.descriptorFetch x1 x2 x3) := fun _ _ _ => of_none rfl rfl
theorem txSeg : ∀ x1 x2, Statement (.txSeg x1 x2) := fun _ _ => of_none rfl rfl
theorem txDataReadDone : ∀ x1 x2 x3 x4, Statement (.txDataReadDone x1 x2 x3 x4) := fun _ _ _ _ => of_none rfl rfl
theorem modTimeExpire : ∀ x1 x2, Statement (.modTimeExpire x1 x2) := fun _ _ => of_none rfl rfl
theorem rxBuf : ∀ x1 x2, Statement (.rxBuf x1 x2) := fun _ _ => of_none rfl rfl
theorem rxDeliver : ∀ x1, Statement (.rxDeliver x1) := fun _ => of_none rfl rfl
theorem cqRecheck : ∀ x1 x2 x3, Statement (.cqRecheck x1 x2 x3) := fun _ _ _ => of_none rfl rfl
theorem cmd : ∀ x1 x2 x3 x4, Statement (.cmd x1 x2 x3 x4) := fun _ _ _ _ => of_none rfl rfl
theorem fnCtrlWrite : ∀ x1 x2 x3, Statement (.fnCtrlWrite x1 x2 x3) := fun _ _ _ => of_none rfl rfl
theorem flr : ∀ x1, Statement (.flr x1) := fun _ => of_none rfl rfl
theorem snapshotTake : ∀ x1, Statement (.snapshotTake x1) := fun _ => of_none rfl rfl
theorem snapshotDeliver : ∀ x1, Statement (.snapshotDeliver x1) := fun _ => of_none rfl rfl
theorem ringCreate : ∀ x1 x2, Statement (.ringCreate x1 x2) := fun _ _ => of_row rfl rfl rfl
theorem cqCreate : ∀ x1 x2, Statement (.cqCreate x1 x2) := fun _ _ => of_row rfl rfl rfl
theorem ringDestroy : ∀ x1 x2, Statement (.ringDestroy x1 x2) := fun _ _ => of_row rfl rfl rfl
theorem vfConfig : ∀ x1 x2, Statement (.vfConfig x1 x2) := fun _ _ => of_row rfl rfl rfl
theorem snapCreate : ∀ x1 x2 x3 x4, Statement (.snapCreate x1 x2 x3 x4) := fun _ _ _ _ => of_row rfl rfl rfl
theorem snapRequest : ∀ x1 x2, Statement (.snapRequest x1 x2) := fun _ _ => of_row rfl rfl rfl
theorem snapDestroy : ∀ x1 x2, Statement (.snapDestroy x1 x2) := fun _ _ => of_row rfl rfl rfl
theorem clsNodeWrite : ∀ x1 x2 x3 x4, Statement (.clsNodeWrite x1 x2 x3 x4) := fun _ _ _ _ => of_row rfl rfl rfl
theorem clsEpochStage : ∀ x1 x2 x3 x4, Statement (.clsEpochStage x1 x2 x3 x4) := fun _ _ _ _ => of_row rfl rfl rfl
theorem clsEpochCommit : ∀ x1 x2, Statement (.clsEpochCommit x1 x2) := fun _ _ => of_row rfl rfl rfl
theorem clsEpochAbort : ∀ x1 x2, Statement (.clsEpochAbort x1 x2) := fun _ _ => of_row rfl rfl rfl
theorem meterWrite : ∀ x1 x2 x3 x4, Statement (.meterWrite x1 x2 x3 x4) := fun _ _ _ _ => of_row rfl rfl rfl
theorem lockAcquire : ∀ x1 x2, Statement (.lockAcquire x1 x2) := fun _ _ => of_row rfl rfl rfl
theorem lockRelease : ∀ x1 x2, Statement (.lockRelease x1 x2) := fun _ _ => of_row rfl rfl rfl
theorem semTake : ∀ x1 x2, Statement (.semTake x1 x2) := fun _ _ => of_row rfl rfl rfl
theorem lockForce : ∀ x1 x2, Statement (.lockForce x1 x2) := fun _ _ => of_row rfl rfl rfl
theorem ringOp : ∀ x1 x2, Statement (.ringOp x1 x2) := fun _ _ => of_row rfl rfl rfl
theorem profileSwitch : ∀ x1 x2 x3, Statement (.profileSwitch x1 x2 x3) := fun _ _ _ => of_row rfl rfl rfl
theorem profileCancel : ∀ x1 x2, Statement (.profileCancel x1 x2) := fun _ _ => of_row rfl rfl rfl
theorem profileStatus : ∀ x1 x2, Statement (.profileStatus x1 x2) := fun _ _ => of_row rfl rfl rfl
theorem negativeRead : ∀ x1 x2, Statement (.negativeRead x1 x2) := fun _ _ => of_row rfl rfl rfl
theorem negativeClear : ∀ x1 x2, Statement (.negativeClear x1 x2) := fun _ _ => of_row rfl rfl rfl
theorem eventRingSet : ∀ x1 x2, Statement (.eventRingSet x1 x2) := fun _ _ => of_row rfl rfl rfl
theorem eventRead : ∀ x1 x2, Statement (.eventRead x1 x2) := fun _ _ => of_row rfl rfl rfl
theorem cshArm : ∀ x1 x2, Statement (.cshArm x1 x2) := fun _ _ => of_row rfl rfl rfl
theorem cshStop : ∀ x1 x2, Statement (.cshStop x1 x2) := fun _ _ => of_row rfl rfl rfl
theorem cshMark : ∀ x1 x2, Statement (.cshMark x1 x2) := fun _ _ => of_row rfl rfl rfl
theorem cshRead : ∀ x1 x2, Statement (.cshRead x1 x2) := fun _ _ => of_row rfl rfl rfl
theorem debugMode : ∀ x1 x2, Statement (.debugMode x1 x2) := fun _ _ => of_row rfl rfl rfl
theorem threadReset : ∀ x1 x2, Statement (.threadReset x1 x2) := fun _ _ => of_row rfl rfl rfl
theorem traysReclaim : ∀ x1 x2, Statement (.traysReclaim x1 x2) := fun _ _ => of_row rfl rfl rfl
theorem taiSet : ∀ x1 x2, Statement (.taiSet x1 x2) := fun _ _ => of_row rfl rfl rfl
theorem regRead : ∀ x1 x2, Statement (.regRead x1 x2) := fun _ _ => of_row rfl rfl rfl
theorem regWrite : ∀ x1 x2, Statement (.regWrite x1 x2) := fun _ _ => of_row rfl rfl rfl
theorem deviceReset : ∀ x1 x2, Statement (.deviceReset x1 x2) := fun _ _ => of_row rfl rfl rfl
theorem identify : ∀ x1 x2, Statement (.identify x1 x2) := fun _ _ => of_row rfl rfl rfl
theorem profileSwitchTime : Statement .profileSwitchTime := of_none rfl rfl
theorem stopBathDrainDone : Statement .stopBathDrainDone := of_none rfl rfl
theorem swapFixerEmpty : Statement .swapFixerEmpty := of_none rfl rfl
theorem swapComplete : Statement .swapComplete := of_none rfl rfl
theorem cshStartTime : Statement .cshStartTime := of_none rfl rfl
theorem cshStopTime : Statement .cshStopTime := of_none rfl rfl
theorem cshRecordWrite : ∀ x1, Statement (.cshRecordWrite x1) := fun _ => of_none rfl rfl
theorem mctpControl : ∀ x1, Statement (.mctpControl x1) := fun _ => of_none rfl rfl
theorem pldmMessage : ∀ x1, Statement (.pldmMessage x1) := fun _ => of_none rfl rfl
theorem pldmUpdate : ∀ x1 x2 x3, Statement (.pldmUpdate x1 x2 x3) := fun _ _ _ => of_none rfl rfl
theorem vendorCommand : ∀ x1, Statement (.vendorCommand x1) := fun _ => of_none rfl rfl
theorem sensorUpdate : ∀ x1 x2, Statement (.sensorUpdate x1 x2) := fun _ _ => of_none rfl rfl
theorem hbmRequest : ∀ x1 x2 x3 x4 x5 x6 x7, Statement (.hbmRequest x1 x2 x3 x4 x5 x6 x7) := fun _ _ _ _ _ _ _ => of_none rfl rfl
theorem hbmCommandIssue : ∀ x1 x2, Statement (.hbmCommandIssue x1 x2) := fun _ _ => of_none rfl rfl
theorem hbmTrump : ∀ x1 x2, Statement (.hbmTrump x1 x2) := fun _ _ => of_none rfl rfl
theorem hbmReadReturn : ∀ x1 x2 x3 x4, Statement (.hbmReadReturn x1 x2 x3 x4) := fun _ _ _ _ => of_none rfl rfl
theorem hbmFreeze : ∀ x1 x2 x3 x4 x5 x6 x7 x8, Statement (.hbmFreeze x1 x2 x3 x4 x5 x6 x7 x8) := fun _ _ _ _ _ _ _ _ => of_none rfl rfl
theorem negativeComplete : ∀ x1, Statement (.negativeComplete x1) := fun _ => of_none rfl rfl
theorem hbmRefresh : ∀ x1 x2, Statement (.hbmRefresh x1 x2) := fun _ _ => of_none rfl rfl
theorem hbmTempRead : ∀ x1 x2, Statement (.hbmTempRead x1 x2) := fun _ _ => of_none rfl rfl
theorem hbmDriftCheck : ∀ x1, Statement (.hbmDriftCheck x1) := fun _ => of_none rfl rfl
theorem hbmScrub : ∀ x1 x2, Statement (.hbmScrub x1 x2) := fun _ _ => of_none rfl rfl
theorem powerOn : Statement .powerOn := of_none rfl rfl
theorem bootHeaderRead : Statement .bootHeaderRead := of_none rfl rfl
theorem transitTrailer : ∀ x1 x2, Statement (.transitTrailer x1 x2) := fun _ _ => of_none rfl rfl
theorem eventRingSignal : ∀ x1, Statement (.eventRingSignal x1) := fun _ => of_none rfl rfl
theorem pcieConfigWrite : ∀ x1 x2, Statement (.pcieConfigWrite x1 x2) := fun _ _ => of_none rfl rfl
theorem msixTableWrite : ∀ x1 x2 x3, Statement (.msixTableWrite x1 x2 x3) := fun _ _ _ => of_none rfl rfl

end Sys2Proof.Laws.Row
end

