-- ==== Sys2Proof/Laws/State.lean ====
section
/-! SUPPORT. What each update of State changes and what it leaves: one lemma per field, so that no proof unfolds an update. -/

namespace Sys2Proof.Machine

open Host

/-! ### setMems -/

@[simp] theorem State.setMems_variant (s : State) (m : Mems) : (s.setMems m).variant = s.variant := rfl
@[simp] theorem State.setMems_dev (s : State) (m : Mems) : (s.setMems m).dev = s.dev := rfl
@[simp] theorem State.setMems_faultN (s : State) (m : Mems) : (s.setMems m).faultN = s.faultN := rfl
@[simp] theorem State.setMems_glb (s : State) (m : Mems) : (s.setMems m).glb = s.glb := rfl
@[simp] theorem State.setMems_tim (s : State) (m : Mems) : (s.setMems m).tim = s.tim := rfl
@[simp] theorem State.setMems_regs (s : State) (m : Mems) : (s.setMems m).regs = s.regs := rfl
@[simp] theorem State.setMems_counters (s : State) (m : Mems) : (s.setMems m).counters = s.counters := rfl
@[simp] theorem State.setMems_cores (s : State) (m : Mems) : (s.setMems m).cores = s.cores := rfl
@[simp] theorem State.setMems_mems (s : State) (m : Mems) : (s.setMems m).mems = m := rfl
@[simp] theorem State.setMems_lck (s : State) (m : Mems) : (s.setMems m).lck = s.lck := rfl
@[simp] theorem State.setMems_trays (s : State) (m : Mems) : (s.setMems m).trays = s.trays := rfl
@[simp] theorem State.setMems_dlr (s : State) (m : Mems) : (s.setMems m).dlr = s.dlr := rfl
@[simp] theorem State.setMems_fix (s : State) (m : Mems) : (s.setMems m).fix = s.fix := rfl
@[simp] theorem State.setMems_loupe (s : State) (m : Mems) : (s.setMems m).loupe = s.loupe := rfl
@[simp] theorem State.setMems_cls (s : State) (m : Mems) : (s.setMems m).cls = s.cls := rfl
@[simp] theorem State.setMems_pkts (s : State) (m : Mems) : (s.setMems m).pkts = s.pkts := rfl
@[simp] theorem State.setMems_swt (s : State) (m : Mems) : (s.setMems m).swt = s.swt := rfl
@[simp] theorem State.setMems_ring (s : State) (m : Mems) : (s.setMems m).ring = s.ring := rfl
@[simp] theorem State.setMems_eth (s : State) (m : Mems) : (s.setMems m).eth = s.eth := rfl
@[simp] theorem State.setMems_hbm (s : State) (m : Mems) : (s.setMems m).hbm = s.hbm := rfl
@[simp] theorem State.setMems_hqe (s : State) (m : Mems) : (s.setMems m).hqe = s.hqe := rfl
@[simp] theorem State.setMems_events (s : State) (m : Mems) : (s.setMems m).events = s.events := rfl
@[simp] theorem State.setMems_csh (s : State) (m : Mems) : (s.setMems m).csh = s.csh := rfl
@[simp] theorem State.setMems_mgt (s : State) (m : Mems) : (s.setMems m).mgt = s.mgt := rfl
@[simp] theorem State.setMems_pwr (s : State) (m : Mems) : (s.setMems m).pwr = s.pwr := rfl
@[simp] theorem State.setMems_sent (s : State) (m : Mems) : (s.setMems m).sent = s.sent := rfl
@[simp] theorem State.setMems_freeCtr (s : State) (m : Mems) : (s.setMems m).freeCtr = s.freeCtr := rfl
@[simp] theorem State.setMems_pending (s : State) (m : Mems) : (s.setMems m).pending = s.pending := rfl

/-! ### setGlb -/

@[simp] theorem State.setGlb_variant (s : State) (g : Glb) : (s.setGlb g).variant = s.variant := rfl
@[simp] theorem State.setGlb_dev (s : State) (g : Glb) : (s.setGlb g).dev = s.dev := rfl
@[simp] theorem State.setGlb_faultN (s : State) (g : Glb) : (s.setGlb g).faultN = s.faultN := rfl
@[simp] theorem State.setGlb_glb (s : State) (g : Glb) : (s.setGlb g).glb = g := rfl
@[simp] theorem State.setGlb_tim (s : State) (g : Glb) : (s.setGlb g).tim = s.tim := rfl
@[simp] theorem State.setGlb_regs (s : State) (g : Glb) : (s.setGlb g).regs = s.regs := rfl
@[simp] theorem State.setGlb_counters (s : State) (g : Glb) : (s.setGlb g).counters = s.counters := rfl
@[simp] theorem State.setGlb_cores (s : State) (g : Glb) : (s.setGlb g).cores = s.cores := rfl
@[simp] theorem State.setGlb_mems (s : State) (g : Glb) : (s.setGlb g).mems = s.mems := rfl
@[simp] theorem State.setGlb_lck (s : State) (g : Glb) : (s.setGlb g).lck = s.lck := rfl
@[simp] theorem State.setGlb_trays (s : State) (g : Glb) : (s.setGlb g).trays = s.trays := rfl
@[simp] theorem State.setGlb_dlr (s : State) (g : Glb) : (s.setGlb g).dlr = s.dlr := rfl
@[simp] theorem State.setGlb_fix (s : State) (g : Glb) : (s.setGlb g).fix = s.fix := rfl
@[simp] theorem State.setGlb_loupe (s : State) (g : Glb) : (s.setGlb g).loupe = s.loupe := rfl
@[simp] theorem State.setGlb_cls (s : State) (g : Glb) : (s.setGlb g).cls = s.cls := rfl
@[simp] theorem State.setGlb_pkts (s : State) (g : Glb) : (s.setGlb g).pkts = s.pkts := rfl
@[simp] theorem State.setGlb_swt (s : State) (g : Glb) : (s.setGlb g).swt = s.swt := rfl
@[simp] theorem State.setGlb_ring (s : State) (g : Glb) : (s.setGlb g).ring = s.ring := rfl
@[simp] theorem State.setGlb_eth (s : State) (g : Glb) : (s.setGlb g).eth = s.eth := rfl
@[simp] theorem State.setGlb_hbm (s : State) (g : Glb) : (s.setGlb g).hbm = s.hbm := rfl
@[simp] theorem State.setGlb_hqe (s : State) (g : Glb) : (s.setGlb g).hqe = s.hqe := rfl
@[simp] theorem State.setGlb_events (s : State) (g : Glb) : (s.setGlb g).events = s.events := rfl
@[simp] theorem State.setGlb_csh (s : State) (g : Glb) : (s.setGlb g).csh = s.csh := rfl
@[simp] theorem State.setGlb_mgt (s : State) (g : Glb) : (s.setGlb g).mgt = s.mgt := rfl
@[simp] theorem State.setGlb_pwr (s : State) (g : Glb) : (s.setGlb g).pwr = s.pwr := rfl
@[simp] theorem State.setGlb_sent (s : State) (g : Glb) : (s.setGlb g).sent = s.sent := rfl
@[simp] theorem State.setGlb_freeCtr (s : State) (g : Glb) : (s.setGlb g).freeCtr = s.freeCtr := rfl
@[simp] theorem State.setGlb_pending (s : State) (g : Glb) : (s.setGlb g).pending = s.pending := rfl

/-! ### setTim -/

@[simp] theorem State.setTim_variant (s : State) (t : Tim) : (s.setTim t).variant = s.variant := rfl
@[simp] theorem State.setTim_dev (s : State) (t : Tim) : (s.setTim t).dev = s.dev := rfl
@[simp] theorem State.setTim_faultN (s : State) (t : Tim) : (s.setTim t).faultN = s.faultN := rfl
@[simp] theorem State.setTim_glb (s : State) (t : Tim) : (s.setTim t).glb = s.glb := rfl
@[simp] theorem State.setTim_tim (s : State) (t : Tim) : (s.setTim t).tim = t := rfl
@[simp] theorem State.setTim_regs (s : State) (t : Tim) : (s.setTim t).regs = s.regs := rfl
@[simp] theorem State.setTim_counters (s : State) (t : Tim) : (s.setTim t).counters = s.counters := rfl
@[simp] theorem State.setTim_cores (s : State) (t : Tim) : (s.setTim t).cores = s.cores := rfl
@[simp] theorem State.setTim_mems (s : State) (t : Tim) : (s.setTim t).mems = s.mems := rfl
@[simp] theorem State.setTim_lck (s : State) (t : Tim) : (s.setTim t).lck = s.lck := rfl
@[simp] theorem State.setTim_trays (s : State) (t : Tim) : (s.setTim t).trays = s.trays := rfl
@[simp] theorem State.setTim_dlr (s : State) (t : Tim) : (s.setTim t).dlr = s.dlr := rfl
@[simp] theorem State.setTim_fix (s : State) (t : Tim) : (s.setTim t).fix = s.fix := rfl
@[simp] theorem State.setTim_loupe (s : State) (t : Tim) : (s.setTim t).loupe = s.loupe := rfl
@[simp] theorem State.setTim_cls (s : State) (t : Tim) : (s.setTim t).cls = s.cls := rfl
@[simp] theorem State.setTim_pkts (s : State) (t : Tim) : (s.setTim t).pkts = s.pkts := rfl
@[simp] theorem State.setTim_swt (s : State) (t : Tim) : (s.setTim t).swt = s.swt := rfl
@[simp] theorem State.setTim_ring (s : State) (t : Tim) : (s.setTim t).ring = s.ring := rfl
@[simp] theorem State.setTim_eth (s : State) (t : Tim) : (s.setTim t).eth = s.eth := rfl
@[simp] theorem State.setTim_hbm (s : State) (t : Tim) : (s.setTim t).hbm = s.hbm := rfl
@[simp] theorem State.setTim_hqe (s : State) (t : Tim) : (s.setTim t).hqe = s.hqe := rfl
@[simp] theorem State.setTim_events (s : State) (t : Tim) : (s.setTim t).events = s.events := rfl
@[simp] theorem State.setTim_csh (s : State) (t : Tim) : (s.setTim t).csh = s.csh := rfl
@[simp] theorem State.setTim_mgt (s : State) (t : Tim) : (s.setTim t).mgt = s.mgt := rfl
@[simp] theorem State.setTim_pwr (s : State) (t : Tim) : (s.setTim t).pwr = s.pwr := rfl
@[simp] theorem State.setTim_sent (s : State) (t : Tim) : (s.setTim t).sent = s.sent := rfl
@[simp] theorem State.setTim_freeCtr (s : State) (t : Tim) : (s.setTim t).freeCtr = s.freeCtr := rfl
@[simp] theorem State.setTim_pending (s : State) (t : Tim) : (s.setTim t).pending = s.pending := rfl

/-! ### setReg -/

@[simp] theorem State.setReg_variant (s : State) (off : Nat) (v : Word) : (s.setReg off v).variant = s.variant := rfl
@[simp] theorem State.setReg_dev (s : State) (off : Nat) (v : Word) : (s.setReg off v).dev = s.dev := rfl
@[simp] theorem State.setReg_faultN (s : State) (off : Nat) (v : Word) : (s.setReg off v).faultN = s.faultN := rfl
@[simp] theorem State.setReg_glb (s : State) (off : Nat) (v : Word) : (s.setReg off v).glb = s.glb := rfl
@[simp] theorem State.setReg_tim (s : State) (off : Nat) (v : Word) : (s.setReg off v).tim = s.tim := rfl
@[simp] theorem State.setReg_regs (s : State) (off : Nat) (v : Word) : (s.setReg off v).regs = sput 0 s.regs off v := rfl
@[simp] theorem State.setReg_counters (s : State) (off : Nat) (v : Word) : (s.setReg off v).counters = s.counters := rfl
@[simp] theorem State.setReg_cores (s : State) (off : Nat) (v : Word) : (s.setReg off v).cores = s.cores := rfl
@[simp] theorem State.setReg_mems (s : State) (off : Nat) (v : Word) : (s.setReg off v).mems = s.mems := rfl
@[simp] theorem State.setReg_lck (s : State) (off : Nat) (v : Word) : (s.setReg off v).lck = s.lck := rfl
@[simp] theorem State.setReg_trays (s : State) (off : Nat) (v : Word) : (s.setReg off v).trays = s.trays := rfl
@[simp] theorem State.setReg_dlr (s : State) (off : Nat) (v : Word) : (s.setReg off v).dlr = s.dlr := rfl
@[simp] theorem State.setReg_fix (s : State) (off : Nat) (v : Word) : (s.setReg off v).fix = s.fix := rfl
@[simp] theorem State.setReg_loupe (s : State) (off : Nat) (v : Word) : (s.setReg off v).loupe = s.loupe := rfl
@[simp] theorem State.setReg_cls (s : State) (off : Nat) (v : Word) : (s.setReg off v).cls = s.cls := rfl
@[simp] theorem State.setReg_pkts (s : State) (off : Nat) (v : Word) : (s.setReg off v).pkts = s.pkts := rfl
@[simp] theorem State.setReg_swt (s : State) (off : Nat) (v : Word) : (s.setReg off v).swt = s.swt := rfl
@[simp] theorem State.setReg_ring (s : State) (off : Nat) (v : Word) : (s.setReg off v).ring = s.ring := rfl
@[simp] theorem State.setReg_eth (s : State) (off : Nat) (v : Word) : (s.setReg off v).eth = s.eth := rfl
@[simp] theorem State.setReg_hbm (s : State) (off : Nat) (v : Word) : (s.setReg off v).hbm = s.hbm := rfl
@[simp] theorem State.setReg_hqe (s : State) (off : Nat) (v : Word) : (s.setReg off v).hqe = s.hqe := rfl
@[simp] theorem State.setReg_events (s : State) (off : Nat) (v : Word) : (s.setReg off v).events = s.events := rfl
@[simp] theorem State.setReg_csh (s : State) (off : Nat) (v : Word) : (s.setReg off v).csh = s.csh := rfl
@[simp] theorem State.setReg_mgt (s : State) (off : Nat) (v : Word) : (s.setReg off v).mgt = s.mgt := rfl
@[simp] theorem State.setReg_pwr (s : State) (off : Nat) (v : Word) : (s.setReg off v).pwr = s.pwr := rfl
@[simp] theorem State.setReg_sent (s : State) (off : Nat) (v : Word) : (s.setReg off v).sent = s.sent := rfl
@[simp] theorem State.setReg_freeCtr (s : State) (off : Nat) (v : Word) : (s.setReg off v).freeCtr = s.freeCtr := rfl
@[simp] theorem State.setReg_pending (s : State) (off : Nat) (v : Word) : (s.setReg off v).pending = s.pending := rfl

/-! ### count -/

@[simp] theorem State.count_variant (s : State) (off : Nat) : (s.count off).variant = s.variant := rfl
@[simp] theorem State.count_dev (s : State) (off : Nat) : (s.count off).dev = s.dev := rfl
@[simp] theorem State.count_faultN (s : State) (off : Nat) : (s.count off).faultN = s.faultN := rfl
@[simp] theorem State.count_glb (s : State) (off : Nat) : (s.count off).glb = s.glb := rfl
@[simp] theorem State.count_tim (s : State) (off : Nat) : (s.count off).tim = s.tim := rfl
@[simp] theorem State.count_regs (s : State) (off : Nat) : (s.count off).regs = s.regs := rfl
@[simp] theorem State.count_counters (s : State) (off : Nat) : (s.count off).counters = smod 0 s.counters off (· + 1) := rfl
@[simp] theorem State.count_cores (s : State) (off : Nat) : (s.count off).cores = s.cores := rfl
@[simp] theorem State.count_mems (s : State) (off : Nat) : (s.count off).mems = s.mems := rfl
@[simp] theorem State.count_lck (s : State) (off : Nat) : (s.count off).lck = s.lck := rfl
@[simp] theorem State.count_trays (s : State) (off : Nat) : (s.count off).trays = s.trays := rfl
@[simp] theorem State.count_dlr (s : State) (off : Nat) : (s.count off).dlr = s.dlr := rfl
@[simp] theorem State.count_fix (s : State) (off : Nat) : (s.count off).fix = s.fix := rfl
@[simp] theorem State.count_loupe (s : State) (off : Nat) : (s.count off).loupe = s.loupe := rfl
@[simp] theorem State.count_cls (s : State) (off : Nat) : (s.count off).cls = s.cls := rfl
@[simp] theorem State.count_pkts (s : State) (off : Nat) : (s.count off).pkts = s.pkts := rfl
@[simp] theorem State.count_swt (s : State) (off : Nat) : (s.count off).swt = s.swt := rfl
@[simp] theorem State.count_ring (s : State) (off : Nat) : (s.count off).ring = s.ring := rfl
@[simp] theorem State.count_eth (s : State) (off : Nat) : (s.count off).eth = s.eth := rfl
@[simp] theorem State.count_hbm (s : State) (off : Nat) : (s.count off).hbm = s.hbm := rfl
@[simp] theorem State.count_hqe (s : State) (off : Nat) : (s.count off).hqe = s.hqe := rfl
@[simp] theorem State.count_events (s : State) (off : Nat) : (s.count off).events = s.events := rfl
@[simp] theorem State.count_csh (s : State) (off : Nat) : (s.count off).csh = s.csh := rfl
@[simp] theorem State.count_mgt (s : State) (off : Nat) : (s.count off).mgt = s.mgt := rfl
@[simp] theorem State.count_pwr (s : State) (off : Nat) : (s.count off).pwr = s.pwr := rfl
@[simp] theorem State.count_sent (s : State) (off : Nat) : (s.count off).sent = s.sent := rfl
@[simp] theorem State.count_freeCtr (s : State) (off : Nat) : (s.count off).freeCtr = s.freeCtr := rfl
@[simp] theorem State.count_pending (s : State) (off : Nat) : (s.count off).pending = s.pending := rfl

/-! ### countN -/

@[simp] theorem State.countN_variant (s : State) (off n : Nat) : (s.countN off n).variant = s.variant := rfl
@[simp] theorem State.countN_dev (s : State) (off n : Nat) : (s.countN off n).dev = s.dev := rfl
@[simp] theorem State.countN_faultN (s : State) (off n : Nat) : (s.countN off n).faultN = s.faultN := rfl
@[simp] theorem State.countN_glb (s : State) (off n : Nat) : (s.countN off n).glb = s.glb := rfl
@[simp] theorem State.countN_tim (s : State) (off n : Nat) : (s.countN off n).tim = s.tim := rfl
@[simp] theorem State.countN_regs (s : State) (off n : Nat) : (s.countN off n).regs = s.regs := rfl
@[simp] theorem State.countN_counters (s : State) (off n : Nat) : (s.countN off n).counters = smod 0 s.counters off (· + n) := rfl
@[simp] theorem State.countN_cores (s : State) (off n : Nat) : (s.countN off n).cores = s.cores := rfl
@[simp] theorem State.countN_mems (s : State) (off n : Nat) : (s.countN off n).mems = s.mems := rfl
@[simp] theorem State.countN_lck (s : State) (off n : Nat) : (s.countN off n).lck = s.lck := rfl
@[simp] theorem State.countN_trays (s : State) (off n : Nat) : (s.countN off n).trays = s.trays := rfl
@[simp] theorem State.countN_dlr (s : State) (off n : Nat) : (s.countN off n).dlr = s.dlr := rfl
@[simp] theorem State.countN_fix (s : State) (off n : Nat) : (s.countN off n).fix = s.fix := rfl
@[simp] theorem State.countN_loupe (s : State) (off n : Nat) : (s.countN off n).loupe = s.loupe := rfl
@[simp] theorem State.countN_cls (s : State) (off n : Nat) : (s.countN off n).cls = s.cls := rfl
@[simp] theorem State.countN_pkts (s : State) (off n : Nat) : (s.countN off n).pkts = s.pkts := rfl
@[simp] theorem State.countN_swt (s : State) (off n : Nat) : (s.countN off n).swt = s.swt := rfl
@[simp] theorem State.countN_ring (s : State) (off n : Nat) : (s.countN off n).ring = s.ring := rfl
@[simp] theorem State.countN_eth (s : State) (off n : Nat) : (s.countN off n).eth = s.eth := rfl
@[simp] theorem State.countN_hbm (s : State) (off n : Nat) : (s.countN off n).hbm = s.hbm := rfl
@[simp] theorem State.countN_hqe (s : State) (off n : Nat) : (s.countN off n).hqe = s.hqe := rfl
@[simp] theorem State.countN_events (s : State) (off n : Nat) : (s.countN off n).events = s.events := rfl
@[simp] theorem State.countN_csh (s : State) (off n : Nat) : (s.countN off n).csh = s.csh := rfl
@[simp] theorem State.countN_mgt (s : State) (off n : Nat) : (s.countN off n).mgt = s.mgt := rfl
@[simp] theorem State.countN_pwr (s : State) (off n : Nat) : (s.countN off n).pwr = s.pwr := rfl
@[simp] theorem State.countN_sent (s : State) (off n : Nat) : (s.countN off n).sent = s.sent := rfl
@[simp] theorem State.countN_freeCtr (s : State) (off n : Nat) : (s.countN off n).freeCtr = s.freeCtr := rfl
@[simp] theorem State.countN_pending (s : State) (off n : Nat) : (s.countN off n).pending = s.pending := rfl

/-! ### setLck -/

@[simp] theorem State.setLck_variant (s : State) (l : Lck) : (s.setLck l).variant = s.variant := rfl
@[simp] theorem State.setLck_dev (s : State) (l : Lck) : (s.setLck l).dev = s.dev := rfl
@[simp] theorem State.setLck_faultN (s : State) (l : Lck) : (s.setLck l).faultN = s.faultN := rfl
@[simp] theorem State.setLck_glb (s : State) (l : Lck) : (s.setLck l).glb = s.glb := rfl
@[simp] theorem State.setLck_tim (s : State) (l : Lck) : (s.setLck l).tim = s.tim := rfl
@[simp] theorem State.setLck_regs (s : State) (l : Lck) : (s.setLck l).regs = s.regs := rfl
@[simp] theorem State.setLck_counters (s : State) (l : Lck) : (s.setLck l).counters = s.counters := rfl
@[simp] theorem State.setLck_cores (s : State) (l : Lck) : (s.setLck l).cores = s.cores := rfl
@[simp] theorem State.setLck_mems (s : State) (l : Lck) : (s.setLck l).mems = s.mems := rfl
@[simp] theorem State.setLck_lck (s : State) (l : Lck) : (s.setLck l).lck = l := rfl
@[simp] theorem State.setLck_trays (s : State) (l : Lck) : (s.setLck l).trays = s.trays := rfl
@[simp] theorem State.setLck_dlr (s : State) (l : Lck) : (s.setLck l).dlr = s.dlr := rfl
@[simp] theorem State.setLck_fix (s : State) (l : Lck) : (s.setLck l).fix = s.fix := rfl
@[simp] theorem State.setLck_loupe (s : State) (l : Lck) : (s.setLck l).loupe = s.loupe := rfl
@[simp] theorem State.setLck_cls (s : State) (l : Lck) : (s.setLck l).cls = s.cls := rfl
@[simp] theorem State.setLck_pkts (s : State) (l : Lck) : (s.setLck l).pkts = s.pkts := rfl
@[simp] theorem State.setLck_swt (s : State) (l : Lck) : (s.setLck l).swt = s.swt := rfl
@[simp] theorem State.setLck_ring (s : State) (l : Lck) : (s.setLck l).ring = s.ring := rfl
@[simp] theorem State.setLck_eth (s : State) (l : Lck) : (s.setLck l).eth = s.eth := rfl
@[simp] theorem State.setLck_hbm (s : State) (l : Lck) : (s.setLck l).hbm = s.hbm := rfl
@[simp] theorem State.setLck_hqe (s : State) (l : Lck) : (s.setLck l).hqe = s.hqe := rfl
@[simp] theorem State.setLck_events (s : State) (l : Lck) : (s.setLck l).events = s.events := rfl
@[simp] theorem State.setLck_csh (s : State) (l : Lck) : (s.setLck l).csh = s.csh := rfl
@[simp] theorem State.setLck_mgt (s : State) (l : Lck) : (s.setLck l).mgt = s.mgt := rfl
@[simp] theorem State.setLck_pwr (s : State) (l : Lck) : (s.setLck l).pwr = s.pwr := rfl
@[simp] theorem State.setLck_sent (s : State) (l : Lck) : (s.setLck l).sent = s.sent := rfl
@[simp] theorem State.setLck_freeCtr (s : State) (l : Lck) : (s.setLck l).freeCtr = s.freeCtr := rfl
@[simp] theorem State.setLck_pending (s : State) (l : Lck) : (s.setLck l).pending = s.pending := rfl

/-! ### setTrays -/

@[simp] theorem State.setTrays_variant (s : State) (t : Trays) : (s.setTrays t).variant = s.variant := rfl
@[simp] theorem State.setTrays_dev (s : State) (t : Trays) : (s.setTrays t).dev = s.dev := rfl
@[simp] theorem State.setTrays_faultN (s : State) (t : Trays) : (s.setTrays t).faultN = s.faultN := rfl
@[simp] theorem State.setTrays_glb (s : State) (t : Trays) : (s.setTrays t).glb = s.glb := rfl
@[simp] theorem State.setTrays_tim (s : State) (t : Trays) : (s.setTrays t).tim = s.tim := rfl
@[simp] theorem State.setTrays_regs (s : State) (t : Trays) : (s.setTrays t).regs = s.regs := rfl
@[simp] theorem State.setTrays_counters (s : State) (t : Trays) : (s.setTrays t).counters = s.counters := rfl
@[simp] theorem State.setTrays_cores (s : State) (t : Trays) : (s.setTrays t).cores = s.cores := rfl
@[simp] theorem State.setTrays_mems (s : State) (t : Trays) : (s.setTrays t).mems = s.mems := rfl
@[simp] theorem State.setTrays_lck (s : State) (t : Trays) : (s.setTrays t).lck = s.lck := rfl
@[simp] theorem State.setTrays_trays (s : State) (t : Trays) : (s.setTrays t).trays = t := rfl
@[simp] theorem State.setTrays_dlr (s : State) (t : Trays) : (s.setTrays t).dlr = s.dlr := rfl
@[simp] theorem State.setTrays_fix (s : State) (t : Trays) : (s.setTrays t).fix = s.fix := rfl
@[simp] theorem State.setTrays_loupe (s : State) (t : Trays) : (s.setTrays t).loupe = s.loupe := rfl
@[simp] theorem State.setTrays_cls (s : State) (t : Trays) : (s.setTrays t).cls = s.cls := rfl
@[simp] theorem State.setTrays_pkts (s : State) (t : Trays) : (s.setTrays t).pkts = s.pkts := rfl
@[simp] theorem State.setTrays_swt (s : State) (t : Trays) : (s.setTrays t).swt = s.swt := rfl
@[simp] theorem State.setTrays_ring (s : State) (t : Trays) : (s.setTrays t).ring = s.ring := rfl
@[simp] theorem State.setTrays_eth (s : State) (t : Trays) : (s.setTrays t).eth = s.eth := rfl
@[simp] theorem State.setTrays_hbm (s : State) (t : Trays) : (s.setTrays t).hbm = s.hbm := rfl
@[simp] theorem State.setTrays_hqe (s : State) (t : Trays) : (s.setTrays t).hqe = s.hqe := rfl
@[simp] theorem State.setTrays_events (s : State) (t : Trays) : (s.setTrays t).events = s.events := rfl
@[simp] theorem State.setTrays_csh (s : State) (t : Trays) : (s.setTrays t).csh = s.csh := rfl
@[simp] theorem State.setTrays_mgt (s : State) (t : Trays) : (s.setTrays t).mgt = s.mgt := rfl
@[simp] theorem State.setTrays_pwr (s : State) (t : Trays) : (s.setTrays t).pwr = s.pwr := rfl
@[simp] theorem State.setTrays_sent (s : State) (t : Trays) : (s.setTrays t).sent = s.sent := rfl
@[simp] theorem State.setTrays_freeCtr (s : State) (t : Trays) : (s.setTrays t).freeCtr = s.freeCtr := rfl
@[simp] theorem State.setTrays_pending (s : State) (t : Trays) : (s.setTrays t).pending = s.pending := rfl

/-! ### setDlr -/

@[simp] theorem State.setDlr_variant (s : State) (d : Dlr) : (s.setDlr d).variant = s.variant := rfl
@[simp] theorem State.setDlr_dev (s : State) (d : Dlr) : (s.setDlr d).dev = s.dev := rfl
@[simp] theorem State.setDlr_faultN (s : State) (d : Dlr) : (s.setDlr d).faultN = s.faultN := rfl
@[simp] theorem State.setDlr_glb (s : State) (d : Dlr) : (s.setDlr d).glb = s.glb := rfl
@[simp] theorem State.setDlr_tim (s : State) (d : Dlr) : (s.setDlr d).tim = s.tim := rfl
@[simp] theorem State.setDlr_regs (s : State) (d : Dlr) : (s.setDlr d).regs = s.regs := rfl
@[simp] theorem State.setDlr_counters (s : State) (d : Dlr) : (s.setDlr d).counters = s.counters := rfl
@[simp] theorem State.setDlr_cores (s : State) (d : Dlr) : (s.setDlr d).cores = s.cores := rfl
@[simp] theorem State.setDlr_mems (s : State) (d : Dlr) : (s.setDlr d).mems = s.mems := rfl
@[simp] theorem State.setDlr_lck (s : State) (d : Dlr) : (s.setDlr d).lck = s.lck := rfl
@[simp] theorem State.setDlr_trays (s : State) (d : Dlr) : (s.setDlr d).trays = s.trays := rfl
@[simp] theorem State.setDlr_dlr (s : State) (d : Dlr) : (s.setDlr d).dlr = d := rfl
@[simp] theorem State.setDlr_fix (s : State) (d : Dlr) : (s.setDlr d).fix = s.fix := rfl
@[simp] theorem State.setDlr_loupe (s : State) (d : Dlr) : (s.setDlr d).loupe = s.loupe := rfl
@[simp] theorem State.setDlr_cls (s : State) (d : Dlr) : (s.setDlr d).cls = s.cls := rfl
@[simp] theorem State.setDlr_pkts (s : State) (d : Dlr) : (s.setDlr d).pkts = s.pkts := rfl
@[simp] theorem State.setDlr_swt (s : State) (d : Dlr) : (s.setDlr d).swt = s.swt := rfl
@[simp] theorem State.setDlr_ring (s : State) (d : Dlr) : (s.setDlr d).ring = s.ring := rfl
@[simp] theorem State.setDlr_eth (s : State) (d : Dlr) : (s.setDlr d).eth = s.eth := rfl
@[simp] theorem State.setDlr_hbm (s : State) (d : Dlr) : (s.setDlr d).hbm = s.hbm := rfl
@[simp] theorem State.setDlr_hqe (s : State) (d : Dlr) : (s.setDlr d).hqe = s.hqe := rfl
@[simp] theorem State.setDlr_events (s : State) (d : Dlr) : (s.setDlr d).events = s.events := rfl
@[simp] theorem State.setDlr_csh (s : State) (d : Dlr) : (s.setDlr d).csh = s.csh := rfl
@[simp] theorem State.setDlr_mgt (s : State) (d : Dlr) : (s.setDlr d).mgt = s.mgt := rfl
@[simp] theorem State.setDlr_pwr (s : State) (d : Dlr) : (s.setDlr d).pwr = s.pwr := rfl
@[simp] theorem State.setDlr_sent (s : State) (d : Dlr) : (s.setDlr d).sent = s.sent := rfl
@[simp] theorem State.setDlr_freeCtr (s : State) (d : Dlr) : (s.setDlr d).freeCtr = s.freeCtr := rfl
@[simp] theorem State.setDlr_pending (s : State) (d : Dlr) : (s.setDlr d).pending = s.pending := rfl

/-! ### setFix -/

@[simp] theorem State.setFix_variant (s : State) (f : Fix) : (s.setFix f).variant = s.variant := rfl
@[simp] theorem State.setFix_dev (s : State) (f : Fix) : (s.setFix f).dev = s.dev := rfl
@[simp] theorem State.setFix_faultN (s : State) (f : Fix) : (s.setFix f).faultN = s.faultN := rfl
@[simp] theorem State.setFix_glb (s : State) (f : Fix) : (s.setFix f).glb = s.glb := rfl
@[simp] theorem State.setFix_tim (s : State) (f : Fix) : (s.setFix f).tim = s.tim := rfl
@[simp] theorem State.setFix_regs (s : State) (f : Fix) : (s.setFix f).regs = s.regs := rfl
@[simp] theorem State.setFix_counters (s : State) (f : Fix) : (s.setFix f).counters = s.counters := rfl
@[simp] theorem State.setFix_cores (s : State) (f : Fix) : (s.setFix f).cores = s.cores := rfl
@[simp] theorem State.setFix_mems (s : State) (f : Fix) : (s.setFix f).mems = s.mems := rfl
@[simp] theorem State.setFix_lck (s : State) (f : Fix) : (s.setFix f).lck = s.lck := rfl
@[simp] theorem State.setFix_trays (s : State) (f : Fix) : (s.setFix f).trays = s.trays := rfl
@[simp] theorem State.setFix_dlr (s : State) (f : Fix) : (s.setFix f).dlr = s.dlr := rfl
@[simp] theorem State.setFix_fix (s : State) (f : Fix) : (s.setFix f).fix = f := rfl
@[simp] theorem State.setFix_loupe (s : State) (f : Fix) : (s.setFix f).loupe = s.loupe := rfl
@[simp] theorem State.setFix_cls (s : State) (f : Fix) : (s.setFix f).cls = s.cls := rfl
@[simp] theorem State.setFix_pkts (s : State) (f : Fix) : (s.setFix f).pkts = s.pkts := rfl
@[simp] theorem State.setFix_swt (s : State) (f : Fix) : (s.setFix f).swt = s.swt := rfl
@[simp] theorem State.setFix_ring (s : State) (f : Fix) : (s.setFix f).ring = s.ring := rfl
@[simp] theorem State.setFix_eth (s : State) (f : Fix) : (s.setFix f).eth = s.eth := rfl
@[simp] theorem State.setFix_hbm (s : State) (f : Fix) : (s.setFix f).hbm = s.hbm := rfl
@[simp] theorem State.setFix_hqe (s : State) (f : Fix) : (s.setFix f).hqe = s.hqe := rfl
@[simp] theorem State.setFix_events (s : State) (f : Fix) : (s.setFix f).events = s.events := rfl
@[simp] theorem State.setFix_csh (s : State) (f : Fix) : (s.setFix f).csh = s.csh := rfl
@[simp] theorem State.setFix_mgt (s : State) (f : Fix) : (s.setFix f).mgt = s.mgt := rfl
@[simp] theorem State.setFix_pwr (s : State) (f : Fix) : (s.setFix f).pwr = s.pwr := rfl
@[simp] theorem State.setFix_sent (s : State) (f : Fix) : (s.setFix f).sent = s.sent := rfl
@[simp] theorem State.setFix_freeCtr (s : State) (f : Fix) : (s.setFix f).freeCtr = s.freeCtr := rfl
@[simp] theorem State.setFix_pending (s : State) (f : Fix) : (s.setFix f).pending = s.pending := rfl

/-! ### setLoupe -/

@[simp] theorem State.setLoupe_variant (s : State) (l : Loupe) : (s.setLoupe l).variant = s.variant := rfl
@[simp] theorem State.setLoupe_dev (s : State) (l : Loupe) : (s.setLoupe l).dev = s.dev := rfl
@[simp] theorem State.setLoupe_faultN (s : State) (l : Loupe) : (s.setLoupe l).faultN = s.faultN := rfl
@[simp] theorem State.setLoupe_glb (s : State) (l : Loupe) : (s.setLoupe l).glb = s.glb := rfl
@[simp] theorem State.setLoupe_tim (s : State) (l : Loupe) : (s.setLoupe l).tim = s.tim := rfl
@[simp] theorem State.setLoupe_regs (s : State) (l : Loupe) : (s.setLoupe l).regs = s.regs := rfl
@[simp] theorem State.setLoupe_counters (s : State) (l : Loupe) : (s.setLoupe l).counters = s.counters := rfl
@[simp] theorem State.setLoupe_cores (s : State) (l : Loupe) : (s.setLoupe l).cores = s.cores := rfl
@[simp] theorem State.setLoupe_mems (s : State) (l : Loupe) : (s.setLoupe l).mems = s.mems := rfl
@[simp] theorem State.setLoupe_lck (s : State) (l : Loupe) : (s.setLoupe l).lck = s.lck := rfl
@[simp] theorem State.setLoupe_trays (s : State) (l : Loupe) : (s.setLoupe l).trays = s.trays := rfl
@[simp] theorem State.setLoupe_dlr (s : State) (l : Loupe) : (s.setLoupe l).dlr = s.dlr := rfl
@[simp] theorem State.setLoupe_fix (s : State) (l : Loupe) : (s.setLoupe l).fix = s.fix := rfl
@[simp] theorem State.setLoupe_loupe (s : State) (l : Loupe) : (s.setLoupe l).loupe = l := rfl
@[simp] theorem State.setLoupe_cls (s : State) (l : Loupe) : (s.setLoupe l).cls = s.cls := rfl
@[simp] theorem State.setLoupe_pkts (s : State) (l : Loupe) : (s.setLoupe l).pkts = s.pkts := rfl
@[simp] theorem State.setLoupe_swt (s : State) (l : Loupe) : (s.setLoupe l).swt = s.swt := rfl
@[simp] theorem State.setLoupe_ring (s : State) (l : Loupe) : (s.setLoupe l).ring = s.ring := rfl
@[simp] theorem State.setLoupe_eth (s : State) (l : Loupe) : (s.setLoupe l).eth = s.eth := rfl
@[simp] theorem State.setLoupe_hbm (s : State) (l : Loupe) : (s.setLoupe l).hbm = s.hbm := rfl
@[simp] theorem State.setLoupe_hqe (s : State) (l : Loupe) : (s.setLoupe l).hqe = s.hqe := rfl
@[simp] theorem State.setLoupe_events (s : State) (l : Loupe) : (s.setLoupe l).events = s.events := rfl
@[simp] theorem State.setLoupe_csh (s : State) (l : Loupe) : (s.setLoupe l).csh = s.csh := rfl
@[simp] theorem State.setLoupe_mgt (s : State) (l : Loupe) : (s.setLoupe l).mgt = s.mgt := rfl
@[simp] theorem State.setLoupe_pwr (s : State) (l : Loupe) : (s.setLoupe l).pwr = s.pwr := rfl
@[simp] theorem State.setLoupe_sent (s : State) (l : Loupe) : (s.setLoupe l).sent = s.sent := rfl
@[simp] theorem State.setLoupe_freeCtr (s : State) (l : Loupe) : (s.setLoupe l).freeCtr = s.freeCtr := rfl
@[simp] theorem State.setLoupe_pending (s : State) (l : Loupe) : (s.setLoupe l).pending = s.pending := rfl

/-! ### setCls -/

@[simp] theorem State.setCls_variant (s : State) (c : Cls) : (s.setCls c).variant = s.variant := rfl
@[simp] theorem State.setCls_dev (s : State) (c : Cls) : (s.setCls c).dev = s.dev := rfl
@[simp] theorem State.setCls_faultN (s : State) (c : Cls) : (s.setCls c).faultN = s.faultN := rfl
@[simp] theorem State.setCls_glb (s : State) (c : Cls) : (s.setCls c).glb = s.glb := rfl
@[simp] theorem State.setCls_tim (s : State) (c : Cls) : (s.setCls c).tim = s.tim := rfl
@[simp] theorem State.setCls_regs (s : State) (c : Cls) : (s.setCls c).regs = s.regs := rfl
@[simp] theorem State.setCls_counters (s : State) (c : Cls) : (s.setCls c).counters = s.counters := rfl
@[simp] theorem State.setCls_cores (s : State) (c : Cls) : (s.setCls c).cores = s.cores := rfl
@[simp] theorem State.setCls_mems (s : State) (c : Cls) : (s.setCls c).mems = s.mems := rfl
@[simp] theorem State.setCls_lck (s : State) (c : Cls) : (s.setCls c).lck = s.lck := rfl
@[simp] theorem State.setCls_trays (s : State) (c : Cls) : (s.setCls c).trays = s.trays := rfl
@[simp] theorem State.setCls_dlr (s : State) (c : Cls) : (s.setCls c).dlr = s.dlr := rfl
@[simp] theorem State.setCls_fix (s : State) (c : Cls) : (s.setCls c).fix = s.fix := rfl
@[simp] theorem State.setCls_loupe (s : State) (c : Cls) : (s.setCls c).loupe = s.loupe := rfl
@[simp] theorem State.setCls_cls (s : State) (c : Cls) : (s.setCls c).cls = c := rfl
@[simp] theorem State.setCls_pkts (s : State) (c : Cls) : (s.setCls c).pkts = s.pkts := rfl
@[simp] theorem State.setCls_swt (s : State) (c : Cls) : (s.setCls c).swt = s.swt := rfl
@[simp] theorem State.setCls_ring (s : State) (c : Cls) : (s.setCls c).ring = s.ring := rfl
@[simp] theorem State.setCls_eth (s : State) (c : Cls) : (s.setCls c).eth = s.eth := rfl
@[simp] theorem State.setCls_hbm (s : State) (c : Cls) : (s.setCls c).hbm = s.hbm := rfl
@[simp] theorem State.setCls_hqe (s : State) (c : Cls) : (s.setCls c).hqe = s.hqe := rfl
@[simp] theorem State.setCls_events (s : State) (c : Cls) : (s.setCls c).events = s.events := rfl
@[simp] theorem State.setCls_csh (s : State) (c : Cls) : (s.setCls c).csh = s.csh := rfl
@[simp] theorem State.setCls_mgt (s : State) (c : Cls) : (s.setCls c).mgt = s.mgt := rfl
@[simp] theorem State.setCls_pwr (s : State) (c : Cls) : (s.setCls c).pwr = s.pwr := rfl
@[simp] theorem State.setCls_sent (s : State) (c : Cls) : (s.setCls c).sent = s.sent := rfl
@[simp] theorem State.setCls_freeCtr (s : State) (c : Cls) : (s.setCls c).freeCtr = s.freeCtr := rfl
@[simp] theorem State.setCls_pending (s : State) (c : Cls) : (s.setCls c).pending = s.pending := rfl

/-! ### setPkt -/

@[simp] theorem State.setPkt_variant (s : State) (h : Nat) (p : Pkt) : (s.setPkt h p).variant = s.variant := rfl
@[simp] theorem State.setPkt_dev (s : State) (h : Nat) (p : Pkt) : (s.setPkt h p).dev = s.dev := rfl
@[simp] theorem State.setPkt_faultN (s : State) (h : Nat) (p : Pkt) : (s.setPkt h p).faultN = s.faultN := rfl
@[simp] theorem State.setPkt_glb (s : State) (h : Nat) (p : Pkt) : (s.setPkt h p).glb = s.glb := rfl
@[simp] theorem State.setPkt_tim (s : State) (h : Nat) (p : Pkt) : (s.setPkt h p).tim = s.tim := rfl
@[simp] theorem State.setPkt_regs (s : State) (h : Nat) (p : Pkt) : (s.setPkt h p).regs = s.regs := rfl
@[simp] theorem State.setPkt_counters (s : State) (h : Nat) (p : Pkt) : (s.setPkt h p).counters = s.counters := rfl
@[simp] theorem State.setPkt_cores (s : State) (h : Nat) (p : Pkt) : (s.setPkt h p).cores = s.cores := rfl
@[simp] theorem State.setPkt_mems (s : State) (h : Nat) (p : Pkt) : (s.setPkt h p).mems = s.mems := rfl
@[simp] theorem State.setPkt_lck (s : State) (h : Nat) (p : Pkt) : (s.setPkt h p).lck = s.lck := rfl
@[simp] theorem State.setPkt_trays (s : State) (h : Nat) (p : Pkt) : (s.setPkt h p).trays = s.trays := rfl
@[simp] theorem State.setPkt_dlr (s : State) (h : Nat) (p : Pkt) : (s.setPkt h p).dlr = s.dlr := rfl
@[simp] theorem State.setPkt_fix (s : State) (h : Nat) (p : Pkt) : (s.setPkt h p).fix = s.fix := rfl
@[simp] theorem State.setPkt_loupe (s : State) (h : Nat) (p : Pkt) : (s.setPkt h p).loupe = s.loupe := rfl
@[simp] theorem State.setPkt_cls (s : State) (h : Nat) (p : Pkt) : (s.setPkt h p).cls = s.cls := rfl
@[simp] theorem State.setPkt_pkts (s : State) (h : Nat) (p : Pkt) : (s.setPkt h p).pkts = sput Pkt.none s.pkts h p := rfl
@[simp] theorem State.setPkt_swt (s : State) (h : Nat) (p : Pkt) : (s.setPkt h p).swt = s.swt := rfl
@[simp] theorem State.setPkt_ring (s : State) (h : Nat) (p : Pkt) : (s.setPkt h p).ring = s.ring := rfl
@[simp] theorem State.setPkt_eth (s : State) (h : Nat) (p : Pkt) : (s.setPkt h p).eth = s.eth := rfl
@[simp] theorem State.setPkt_hbm (s : State) (h : Nat) (p : Pkt) : (s.setPkt h p).hbm = s.hbm := rfl
@[simp] theorem State.setPkt_hqe (s : State) (h : Nat) (p : Pkt) : (s.setPkt h p).hqe = s.hqe := rfl
@[simp] theorem State.setPkt_events (s : State) (h : Nat) (p : Pkt) : (s.setPkt h p).events = s.events := rfl
@[simp] theorem State.setPkt_csh (s : State) (h : Nat) (p : Pkt) : (s.setPkt h p).csh = s.csh := rfl
@[simp] theorem State.setPkt_mgt (s : State) (h : Nat) (p : Pkt) : (s.setPkt h p).mgt = s.mgt := rfl
@[simp] theorem State.setPkt_pwr (s : State) (h : Nat) (p : Pkt) : (s.setPkt h p).pwr = s.pwr := rfl
@[simp] theorem State.setPkt_sent (s : State) (h : Nat) (p : Pkt) : (s.setPkt h p).sent = s.sent := rfl
@[simp] theorem State.setPkt_freeCtr (s : State) (h : Nat) (p : Pkt) : (s.setPkt h p).freeCtr = s.freeCtr := rfl
@[simp] theorem State.setPkt_pending (s : State) (h : Nat) (p : Pkt) : (s.setPkt h p).pending = s.pending := rfl

/-! ### swtSet -/

@[simp] theorem State.swtSet_variant (s : State) (w : Swt) : (s.swtSet w).variant = s.variant := rfl
@[simp] theorem State.swtSet_dev (s : State) (w : Swt) : (s.swtSet w).dev = s.dev := rfl
@[simp] theorem State.swtSet_faultN (s : State) (w : Swt) : (s.swtSet w).faultN = s.faultN := rfl
@[simp] theorem State.swtSet_glb (s : State) (w : Swt) : (s.swtSet w).glb = s.glb := rfl
@[simp] theorem State.swtSet_tim (s : State) (w : Swt) : (s.swtSet w).tim = s.tim := rfl
@[simp] theorem State.swtSet_regs (s : State) (w : Swt) : (s.swtSet w).regs = s.regs := rfl
@[simp] theorem State.swtSet_counters (s : State) (w : Swt) : (s.swtSet w).counters = s.counters := rfl
@[simp] theorem State.swtSet_cores (s : State) (w : Swt) : (s.swtSet w).cores = s.cores := rfl
@[simp] theorem State.swtSet_mems (s : State) (w : Swt) : (s.swtSet w).mems = s.mems := rfl
@[simp] theorem State.swtSet_lck (s : State) (w : Swt) : (s.swtSet w).lck = s.lck := rfl
@[simp] theorem State.swtSet_trays (s : State) (w : Swt) : (s.swtSet w).trays = s.trays := rfl
@[simp] theorem State.swtSet_dlr (s : State) (w : Swt) : (s.swtSet w).dlr = s.dlr := rfl
@[simp] theorem State.swtSet_fix (s : State) (w : Swt) : (s.swtSet w).fix = s.fix := rfl
@[simp] theorem State.swtSet_loupe (s : State) (w : Swt) : (s.swtSet w).loupe = s.loupe := rfl
@[simp] theorem State.swtSet_cls (s : State) (w : Swt) : (s.swtSet w).cls = s.cls := rfl
@[simp] theorem State.swtSet_pkts (s : State) (w : Swt) : (s.swtSet w).pkts = s.pkts := rfl
@[simp] theorem State.swtSet_swt (s : State) (w : Swt) : (s.swtSet w).swt = w := rfl
@[simp] theorem State.swtSet_ring (s : State) (w : Swt) : (s.swtSet w).ring = s.ring := rfl
@[simp] theorem State.swtSet_eth (s : State) (w : Swt) : (s.swtSet w).eth = s.eth := rfl
@[simp] theorem State.swtSet_hbm (s : State) (w : Swt) : (s.swtSet w).hbm = s.hbm := rfl
@[simp] theorem State.swtSet_hqe (s : State) (w : Swt) : (s.swtSet w).hqe = s.hqe := rfl
@[simp] theorem State.swtSet_events (s : State) (w : Swt) : (s.swtSet w).events = s.events := rfl
@[simp] theorem State.swtSet_csh (s : State) (w : Swt) : (s.swtSet w).csh = s.csh := rfl
@[simp] theorem State.swtSet_mgt (s : State) (w : Swt) : (s.swtSet w).mgt = s.mgt := rfl
@[simp] theorem State.swtSet_pwr (s : State) (w : Swt) : (s.swtSet w).pwr = s.pwr := rfl
@[simp] theorem State.swtSet_sent (s : State) (w : Swt) : (s.swtSet w).sent = s.sent := rfl
@[simp] theorem State.swtSet_freeCtr (s : State) (w : Swt) : (s.swtSet w).freeCtr = s.freeCtr := rfl
@[simp] theorem State.swtSet_pending (s : State) (w : Swt) : (s.swtSet w).pending = s.pending := rfl

/-! ### setRing -/

@[simp] theorem State.setRing_variant (s : State) (r : Ring) : (s.setRing r).variant = s.variant := rfl
@[simp] theorem State.setRing_dev (s : State) (r : Ring) : (s.setRing r).dev = s.dev := rfl
@[simp] theorem State.setRing_faultN (s : State) (r : Ring) : (s.setRing r).faultN = s.faultN := rfl
@[simp] theorem State.setRing_glb (s : State) (r : Ring) : (s.setRing r).glb = s.glb := rfl
@[simp] theorem State.setRing_tim (s : State) (r : Ring) : (s.setRing r).tim = s.tim := rfl
@[simp] theorem State.setRing_regs (s : State) (r : Ring) : (s.setRing r).regs = s.regs := rfl
@[simp] theorem State.setRing_counters (s : State) (r : Ring) : (s.setRing r).counters = s.counters := rfl
@[simp] theorem State.setRing_cores (s : State) (r : Ring) : (s.setRing r).cores = s.cores := rfl
@[simp] theorem State.setRing_mems (s : State) (r : Ring) : (s.setRing r).mems = s.mems := rfl
@[simp] theorem State.setRing_lck (s : State) (r : Ring) : (s.setRing r).lck = s.lck := rfl
@[simp] theorem State.setRing_trays (s : State) (r : Ring) : (s.setRing r).trays = s.trays := rfl
@[simp] theorem State.setRing_dlr (s : State) (r : Ring) : (s.setRing r).dlr = s.dlr := rfl
@[simp] theorem State.setRing_fix (s : State) (r : Ring) : (s.setRing r).fix = s.fix := rfl
@[simp] theorem State.setRing_loupe (s : State) (r : Ring) : (s.setRing r).loupe = s.loupe := rfl
@[simp] theorem State.setRing_cls (s : State) (r : Ring) : (s.setRing r).cls = s.cls := rfl
@[simp] theorem State.setRing_pkts (s : State) (r : Ring) : (s.setRing r).pkts = s.pkts := rfl
@[simp] theorem State.setRing_swt (s : State) (r : Ring) : (s.setRing r).swt = s.swt := rfl
@[simp] theorem State.setRing_ring (s : State) (r : Ring) : (s.setRing r).ring = r := rfl
@[simp] theorem State.setRing_eth (s : State) (r : Ring) : (s.setRing r).eth = s.eth := rfl
@[simp] theorem State.setRing_hbm (s : State) (r : Ring) : (s.setRing r).hbm = s.hbm := rfl
@[simp] theorem State.setRing_hqe (s : State) (r : Ring) : (s.setRing r).hqe = s.hqe := rfl
@[simp] theorem State.setRing_events (s : State) (r : Ring) : (s.setRing r).events = s.events := rfl
@[simp] theorem State.setRing_csh (s : State) (r : Ring) : (s.setRing r).csh = s.csh := rfl
@[simp] theorem State.setRing_mgt (s : State) (r : Ring) : (s.setRing r).mgt = s.mgt := rfl
@[simp] theorem State.setRing_pwr (s : State) (r : Ring) : (s.setRing r).pwr = s.pwr := rfl
@[simp] theorem State.setRing_sent (s : State) (r : Ring) : (s.setRing r).sent = s.sent := rfl
@[simp] theorem State.setRing_freeCtr (s : State) (r : Ring) : (s.setRing r).freeCtr = s.freeCtr := rfl
@[simp] theorem State.setRing_pending (s : State) (r : Ring) : (s.setRing r).pending = s.pending := rfl

/-! ### setHqe -/

@[simp] theorem State.setHqe_variant (s : State) (h : Hqe) : (s.setHqe h).variant = s.variant := rfl
@[simp] theorem State.setHqe_dev (s : State) (h : Hqe) : (s.setHqe h).dev = s.dev := rfl
@[simp] theorem State.setHqe_faultN (s : State) (h : Hqe) : (s.setHqe h).faultN = s.faultN := rfl
@[simp] theorem State.setHqe_glb (s : State) (h : Hqe) : (s.setHqe h).glb = s.glb := rfl
@[simp] theorem State.setHqe_tim (s : State) (h : Hqe) : (s.setHqe h).tim = s.tim := rfl
@[simp] theorem State.setHqe_regs (s : State) (h : Hqe) : (s.setHqe h).regs = s.regs := rfl
@[simp] theorem State.setHqe_counters (s : State) (h : Hqe) : (s.setHqe h).counters = s.counters := rfl
@[simp] theorem State.setHqe_cores (s : State) (h : Hqe) : (s.setHqe h).cores = s.cores := rfl
@[simp] theorem State.setHqe_mems (s : State) (h : Hqe) : (s.setHqe h).mems = s.mems := rfl
@[simp] theorem State.setHqe_lck (s : State) (h : Hqe) : (s.setHqe h).lck = s.lck := rfl
@[simp] theorem State.setHqe_trays (s : State) (h : Hqe) : (s.setHqe h).trays = s.trays := rfl
@[simp] theorem State.setHqe_dlr (s : State) (h : Hqe) : (s.setHqe h).dlr = s.dlr := rfl
@[simp] theorem State.setHqe_fix (s : State) (h : Hqe) : (s.setHqe h).fix = s.fix := rfl
@[simp] theorem State.setHqe_loupe (s : State) (h : Hqe) : (s.setHqe h).loupe = s.loupe := rfl
@[simp] theorem State.setHqe_cls (s : State) (h : Hqe) : (s.setHqe h).cls = s.cls := rfl
@[simp] theorem State.setHqe_pkts (s : State) (h : Hqe) : (s.setHqe h).pkts = s.pkts := rfl
@[simp] theorem State.setHqe_swt (s : State) (h : Hqe) : (s.setHqe h).swt = s.swt := rfl
@[simp] theorem State.setHqe_ring (s : State) (h : Hqe) : (s.setHqe h).ring = s.ring := rfl
@[simp] theorem State.setHqe_eth (s : State) (h : Hqe) : (s.setHqe h).eth = s.eth := rfl
@[simp] theorem State.setHqe_hbm (s : State) (h : Hqe) : (s.setHqe h).hbm = s.hbm := rfl
@[simp] theorem State.setHqe_hqe (s : State) (h : Hqe) : (s.setHqe h).hqe = h := rfl
@[simp] theorem State.setHqe_events (s : State) (h : Hqe) : (s.setHqe h).events = s.events := rfl
@[simp] theorem State.setHqe_csh (s : State) (h : Hqe) : (s.setHqe h).csh = s.csh := rfl
@[simp] theorem State.setHqe_mgt (s : State) (h : Hqe) : (s.setHqe h).mgt = s.mgt := rfl
@[simp] theorem State.setHqe_pwr (s : State) (h : Hqe) : (s.setHqe h).pwr = s.pwr := rfl
@[simp] theorem State.setHqe_sent (s : State) (h : Hqe) : (s.setHqe h).sent = s.sent := rfl
@[simp] theorem State.setHqe_freeCtr (s : State) (h : Hqe) : (s.setHqe h).freeCtr = s.freeCtr := rfl
@[simp] theorem State.setHqe_pending (s : State) (h : Hqe) : (s.setHqe h).pending = s.pending := rfl

/-! ### setMgt -/

@[simp] theorem State.setMgt_variant (s : State) (m : Mgt) : (s.setMgt m).variant = s.variant := rfl
@[simp] theorem State.setMgt_dev (s : State) (m : Mgt) : (s.setMgt m).dev = s.dev := rfl
@[simp] theorem State.setMgt_faultN (s : State) (m : Mgt) : (s.setMgt m).faultN = s.faultN := rfl
@[simp] theorem State.setMgt_glb (s : State) (m : Mgt) : (s.setMgt m).glb = s.glb := rfl
@[simp] theorem State.setMgt_tim (s : State) (m : Mgt) : (s.setMgt m).tim = s.tim := rfl
@[simp] theorem State.setMgt_regs (s : State) (m : Mgt) : (s.setMgt m).regs = s.regs := rfl
@[simp] theorem State.setMgt_counters (s : State) (m : Mgt) : (s.setMgt m).counters = s.counters := rfl
@[simp] theorem State.setMgt_cores (s : State) (m : Mgt) : (s.setMgt m).cores = s.cores := rfl
@[simp] theorem State.setMgt_mems (s : State) (m : Mgt) : (s.setMgt m).mems = s.mems := rfl
@[simp] theorem State.setMgt_lck (s : State) (m : Mgt) : (s.setMgt m).lck = s.lck := rfl
@[simp] theorem State.setMgt_trays (s : State) (m : Mgt) : (s.setMgt m).trays = s.trays := rfl
@[simp] theorem State.setMgt_dlr (s : State) (m : Mgt) : (s.setMgt m).dlr = s.dlr := rfl
@[simp] theorem State.setMgt_fix (s : State) (m : Mgt) : (s.setMgt m).fix = s.fix := rfl
@[simp] theorem State.setMgt_loupe (s : State) (m : Mgt) : (s.setMgt m).loupe = s.loupe := rfl
@[simp] theorem State.setMgt_cls (s : State) (m : Mgt) : (s.setMgt m).cls = s.cls := rfl
@[simp] theorem State.setMgt_pkts (s : State) (m : Mgt) : (s.setMgt m).pkts = s.pkts := rfl
@[simp] theorem State.setMgt_swt (s : State) (m : Mgt) : (s.setMgt m).swt = s.swt := rfl
@[simp] theorem State.setMgt_ring (s : State) (m : Mgt) : (s.setMgt m).ring = s.ring := rfl
@[simp] theorem State.setMgt_eth (s : State) (m : Mgt) : (s.setMgt m).eth = s.eth := rfl
@[simp] theorem State.setMgt_hbm (s : State) (m : Mgt) : (s.setMgt m).hbm = s.hbm := rfl
@[simp] theorem State.setMgt_hqe (s : State) (m : Mgt) : (s.setMgt m).hqe = s.hqe := rfl
@[simp] theorem State.setMgt_events (s : State) (m : Mgt) : (s.setMgt m).events = s.events := rfl
@[simp] theorem State.setMgt_csh (s : State) (m : Mgt) : (s.setMgt m).csh = s.csh := rfl
@[simp] theorem State.setMgt_mgt (s : State) (m : Mgt) : (s.setMgt m).mgt = m := rfl
@[simp] theorem State.setMgt_pwr (s : State) (m : Mgt) : (s.setMgt m).pwr = s.pwr := rfl
@[simp] theorem State.setMgt_sent (s : State) (m : Mgt) : (s.setMgt m).sent = s.sent := rfl
@[simp] theorem State.setMgt_freeCtr (s : State) (m : Mgt) : (s.setMgt m).freeCtr = s.freeCtr := rfl
@[simp] theorem State.setMgt_pending (s : State) (m : Mgt) : (s.setMgt m).pending = s.pending := rfl

/-! ### setPwr -/

@[simp] theorem State.setPwr_variant (s : State) (p : Pwr) : (s.setPwr p).variant = s.variant := rfl
@[simp] theorem State.setPwr_dev (s : State) (p : Pwr) : (s.setPwr p).dev = s.dev := rfl
@[simp] theorem State.setPwr_faultN (s : State) (p : Pwr) : (s.setPwr p).faultN = s.faultN := rfl
@[simp] theorem State.setPwr_glb (s : State) (p : Pwr) : (s.setPwr p).glb = s.glb := rfl
@[simp] theorem State.setPwr_tim (s : State) (p : Pwr) : (s.setPwr p).tim = s.tim := rfl
@[simp] theorem State.setPwr_regs (s : State) (p : Pwr) : (s.setPwr p).regs = s.regs := rfl
@[simp] theorem State.setPwr_counters (s : State) (p : Pwr) : (s.setPwr p).counters = s.counters := rfl
@[simp] theorem State.setPwr_cores (s : State) (p : Pwr) : (s.setPwr p).cores = s.cores := rfl
@[simp] theorem State.setPwr_mems (s : State) (p : Pwr) : (s.setPwr p).mems = s.mems := rfl
@[simp] theorem State.setPwr_lck (s : State) (p : Pwr) : (s.setPwr p).lck = s.lck := rfl
@[simp] theorem State.setPwr_trays (s : State) (p : Pwr) : (s.setPwr p).trays = s.trays := rfl
@[simp] theorem State.setPwr_dlr (s : State) (p : Pwr) : (s.setPwr p).dlr = s.dlr := rfl
@[simp] theorem State.setPwr_fix (s : State) (p : Pwr) : (s.setPwr p).fix = s.fix := rfl
@[simp] theorem State.setPwr_loupe (s : State) (p : Pwr) : (s.setPwr p).loupe = s.loupe := rfl
@[simp] theorem State.setPwr_cls (s : State) (p : Pwr) : (s.setPwr p).cls = s.cls := rfl
@[simp] theorem State.setPwr_pkts (s : State) (p : Pwr) : (s.setPwr p).pkts = s.pkts := rfl
@[simp] theorem State.setPwr_swt (s : State) (p : Pwr) : (s.setPwr p).swt = s.swt := rfl
@[simp] theorem State.setPwr_ring (s : State) (p : Pwr) : (s.setPwr p).ring = s.ring := rfl
@[simp] theorem State.setPwr_eth (s : State) (p : Pwr) : (s.setPwr p).eth = s.eth := rfl
@[simp] theorem State.setPwr_hbm (s : State) (p : Pwr) : (s.setPwr p).hbm = s.hbm := rfl
@[simp] theorem State.setPwr_hqe (s : State) (p : Pwr) : (s.setPwr p).hqe = s.hqe := rfl
@[simp] theorem State.setPwr_events (s : State) (p : Pwr) : (s.setPwr p).events = s.events := rfl
@[simp] theorem State.setPwr_csh (s : State) (p : Pwr) : (s.setPwr p).csh = s.csh := rfl
@[simp] theorem State.setPwr_mgt (s : State) (p : Pwr) : (s.setPwr p).mgt = s.mgt := rfl
@[simp] theorem State.setPwr_pwr (s : State) (p : Pwr) : (s.setPwr p).pwr = p := rfl
@[simp] theorem State.setPwr_sent (s : State) (p : Pwr) : (s.setPwr p).sent = s.sent := rfl
@[simp] theorem State.setPwr_freeCtr (s : State) (p : Pwr) : (s.setPwr p).freeCtr = s.freeCtr := rfl
@[simp] theorem State.setPwr_pending (s : State) (p : Pwr) : (s.setPwr p).pending = s.pending := rfl

/-! ### setEthPort -/

@[simp] theorem State.setEthPort_variant (s : State) (p : Nat) (v : EthPort) : (s.setEthPort p v).variant = s.variant := rfl
@[simp] theorem State.setEthPort_dev (s : State) (p : Nat) (v : EthPort) : (s.setEthPort p v).dev = s.dev := rfl
@[simp] theorem State.setEthPort_faultN (s : State) (p : Nat) (v : EthPort) : (s.setEthPort p v).faultN = s.faultN := rfl
@[simp] theorem State.setEthPort_glb (s : State) (p : Nat) (v : EthPort) : (s.setEthPort p v).glb = s.glb := rfl
@[simp] theorem State.setEthPort_tim (s : State) (p : Nat) (v : EthPort) : (s.setEthPort p v).tim = s.tim := rfl
@[simp] theorem State.setEthPort_regs (s : State) (p : Nat) (v : EthPort) : (s.setEthPort p v).regs = s.regs := rfl
@[simp] theorem State.setEthPort_counters (s : State) (p : Nat) (v : EthPort) : (s.setEthPort p v).counters = s.counters := rfl
@[simp] theorem State.setEthPort_cores (s : State) (p : Nat) (v : EthPort) : (s.setEthPort p v).cores = s.cores := rfl
@[simp] theorem State.setEthPort_mems (s : State) (p : Nat) (v : EthPort) : (s.setEthPort p v).mems = s.mems := rfl
@[simp] theorem State.setEthPort_lck (s : State) (p : Nat) (v : EthPort) : (s.setEthPort p v).lck = s.lck := rfl
@[simp] theorem State.setEthPort_trays (s : State) (p : Nat) (v : EthPort) : (s.setEthPort p v).trays = s.trays := rfl
@[simp] theorem State.setEthPort_dlr (s : State) (p : Nat) (v : EthPort) : (s.setEthPort p v).dlr = s.dlr := rfl
@[simp] theorem State.setEthPort_fix (s : State) (p : Nat) (v : EthPort) : (s.setEthPort p v).fix = s.fix := rfl
@[simp] theorem State.setEthPort_loupe (s : State) (p : Nat) (v : EthPort) : (s.setEthPort p v).loupe = s.loupe := rfl
@[simp] theorem State.setEthPort_cls (s : State) (p : Nat) (v : EthPort) : (s.setEthPort p v).cls = s.cls := rfl
@[simp] theorem State.setEthPort_pkts (s : State) (p : Nat) (v : EthPort) : (s.setEthPort p v).pkts = s.pkts := rfl
@[simp] theorem State.setEthPort_swt (s : State) (p : Nat) (v : EthPort) : (s.setEthPort p v).swt = s.swt := rfl
@[simp] theorem State.setEthPort_ring (s : State) (p : Nat) (v : EthPort) : (s.setEthPort p v).ring = s.ring := rfl
@[simp] theorem State.setEthPort_hbm (s : State) (p : Nat) (v : EthPort) : (s.setEthPort p v).hbm = s.hbm := rfl
@[simp] theorem State.setEthPort_hqe (s : State) (p : Nat) (v : EthPort) : (s.setEthPort p v).hqe = s.hqe := rfl
@[simp] theorem State.setEthPort_events (s : State) (p : Nat) (v : EthPort) : (s.setEthPort p v).events = s.events := rfl
@[simp] theorem State.setEthPort_csh (s : State) (p : Nat) (v : EthPort) : (s.setEthPort p v).csh = s.csh := rfl
@[simp] theorem State.setEthPort_mgt (s : State) (p : Nat) (v : EthPort) : (s.setEthPort p v).mgt = s.mgt := rfl
@[simp] theorem State.setEthPort_pwr (s : State) (p : Nat) (v : EthPort) : (s.setEthPort p v).pwr = s.pwr := rfl
@[simp] theorem State.setEthPort_sent (s : State) (p : Nat) (v : EthPort) : (s.setEthPort p v).sent = s.sent := rfl
@[simp] theorem State.setEthPort_freeCtr (s : State) (p : Nat) (v : EthPort) : (s.setEthPort p v).freeCtr = s.freeCtr := rfl
@[simp] theorem State.setEthPort_pending (s : State) (p : Nat) (v : EthPort) : (s.setEthPort p v).pending = s.pending := rfl

/-! ### setHbmCtl -/

@[simp] theorem State.setHbmCtl_variant (s : State) (c : Nat) (v : HbmCtl) : (s.setHbmCtl c v).variant = s.variant := rfl
@[simp] theorem State.setHbmCtl_dev (s : State) (c : Nat) (v : HbmCtl) : (s.setHbmCtl c v).dev = s.dev := rfl
@[simp] theorem State.setHbmCtl_faultN (s : State) (c : Nat) (v : HbmCtl) : (s.setHbmCtl c v).faultN = s.faultN := rfl
@[simp] theorem State.setHbmCtl_glb (s : State) (c : Nat) (v : HbmCtl) : (s.setHbmCtl c v).glb = s.glb := rfl
@[simp] theorem State.setHbmCtl_tim (s : State) (c : Nat) (v : HbmCtl) : (s.setHbmCtl c v).tim = s.tim := rfl
@[simp] theorem State.setHbmCtl_regs (s : State) (c : Nat) (v : HbmCtl) : (s.setHbmCtl c v).regs = s.regs := rfl
@[simp] theorem State.setHbmCtl_counters (s : State) (c : Nat) (v : HbmCtl) : (s.setHbmCtl c v).counters = s.counters := rfl
@[simp] theorem State.setHbmCtl_cores (s : State) (c : Nat) (v : HbmCtl) : (s.setHbmCtl c v).cores = s.cores := rfl
@[simp] theorem State.setHbmCtl_mems (s : State) (c : Nat) (v : HbmCtl) : (s.setHbmCtl c v).mems = s.mems := rfl
@[simp] theorem State.setHbmCtl_lck (s : State) (c : Nat) (v : HbmCtl) : (s.setHbmCtl c v).lck = s.lck := rfl
@[simp] theorem State.setHbmCtl_trays (s : State) (c : Nat) (v : HbmCtl) : (s.setHbmCtl c v).trays = s.trays := rfl
@[simp] theorem State.setHbmCtl_dlr (s : State) (c : Nat) (v : HbmCtl) : (s.setHbmCtl c v).dlr = s.dlr := rfl
@[simp] theorem State.setHbmCtl_fix (s : State) (c : Nat) (v : HbmCtl) : (s.setHbmCtl c v).fix = s.fix := rfl
@[simp] theorem State.setHbmCtl_loupe (s : State) (c : Nat) (v : HbmCtl) : (s.setHbmCtl c v).loupe = s.loupe := rfl
@[simp] theorem State.setHbmCtl_cls (s : State) (c : Nat) (v : HbmCtl) : (s.setHbmCtl c v).cls = s.cls := rfl
@[simp] theorem State.setHbmCtl_pkts (s : State) (c : Nat) (v : HbmCtl) : (s.setHbmCtl c v).pkts = s.pkts := rfl
@[simp] theorem State.setHbmCtl_swt (s : State) (c : Nat) (v : HbmCtl) : (s.setHbmCtl c v).swt = s.swt := rfl
@[simp] theorem State.setHbmCtl_ring (s : State) (c : Nat) (v : HbmCtl) : (s.setHbmCtl c v).ring = s.ring := rfl
@[simp] theorem State.setHbmCtl_eth (s : State) (c : Nat) (v : HbmCtl) : (s.setHbmCtl c v).eth = s.eth := rfl
@[simp] theorem State.setHbmCtl_hqe (s : State) (c : Nat) (v : HbmCtl) : (s.setHbmCtl c v).hqe = s.hqe := rfl
@[simp] theorem State.setHbmCtl_events (s : State) (c : Nat) (v : HbmCtl) : (s.setHbmCtl c v).events = s.events := rfl
@[simp] theorem State.setHbmCtl_csh (s : State) (c : Nat) (v : HbmCtl) : (s.setHbmCtl c v).csh = s.csh := rfl
@[simp] theorem State.setHbmCtl_mgt (s : State) (c : Nat) (v : HbmCtl) : (s.setHbmCtl c v).mgt = s.mgt := rfl
@[simp] theorem State.setHbmCtl_pwr (s : State) (c : Nat) (v : HbmCtl) : (s.setHbmCtl c v).pwr = s.pwr := rfl
@[simp] theorem State.setHbmCtl_sent (s : State) (c : Nat) (v : HbmCtl) : (s.setHbmCtl c v).sent = s.sent := rfl
@[simp] theorem State.setHbmCtl_freeCtr (s : State) (c : Nat) (v : HbmCtl) : (s.setHbmCtl c v).freeCtr = s.freeCtr := rfl
@[simp] theorem State.setHbmCtl_pending (s : State) (c : Nat) (v : HbmCtl) : (s.setHbmCtl c v).pending = s.pending := rfl

/-! ### setCluster -/

@[simp] theorem State.setCluster_variant (s : State) (c : Nat) (v : Cluster) : (s.setCluster c v).variant = s.variant := rfl
@[simp] theorem State.setCluster_dev (s : State) (c : Nat) (v : Cluster) : (s.setCluster c v).dev = s.dev := rfl
@[simp] theorem State.setCluster_faultN (s : State) (c : Nat) (v : Cluster) : (s.setCluster c v).faultN = s.faultN := rfl
@[simp] theorem State.setCluster_glb (s : State) (c : Nat) (v : Cluster) : (s.setCluster c v).glb = s.glb := rfl
@[simp] theorem State.setCluster_tim (s : State) (c : Nat) (v : Cluster) : (s.setCluster c v).tim = s.tim := rfl
@[simp] theorem State.setCluster_regs (s : State) (c : Nat) (v : Cluster) : (s.setCluster c v).regs = s.regs := rfl
@[simp] theorem State.setCluster_counters (s : State) (c : Nat) (v : Cluster) : (s.setCluster c v).counters = s.counters := rfl
@[simp] theorem State.setCluster_mems (s : State) (c : Nat) (v : Cluster) : (s.setCluster c v).mems = s.mems := rfl
@[simp] theorem State.setCluster_lck (s : State) (c : Nat) (v : Cluster) : (s.setCluster c v).lck = s.lck := rfl
@[simp] theorem State.setCluster_trays (s : State) (c : Nat) (v : Cluster) : (s.setCluster c v).trays = s.trays := rfl
@[simp] theorem State.setCluster_dlr (s : State) (c : Nat) (v : Cluster) : (s.setCluster c v).dlr = s.dlr := rfl
@[simp] theorem State.setCluster_fix (s : State) (c : Nat) (v : Cluster) : (s.setCluster c v).fix = s.fix := rfl
@[simp] theorem State.setCluster_loupe (s : State) (c : Nat) (v : Cluster) : (s.setCluster c v).loupe = s.loupe := rfl
@[simp] theorem State.setCluster_cls (s : State) (c : Nat) (v : Cluster) : (s.setCluster c v).cls = s.cls := rfl
@[simp] theorem State.setCluster_pkts (s : State) (c : Nat) (v : Cluster) : (s.setCluster c v).pkts = s.pkts := rfl
@[simp] theorem State.setCluster_swt (s : State) (c : Nat) (v : Cluster) : (s.setCluster c v).swt = s.swt := rfl
@[simp] theorem State.setCluster_ring (s : State) (c : Nat) (v : Cluster) : (s.setCluster c v).ring = s.ring := rfl
@[simp] theorem State.setCluster_eth (s : State) (c : Nat) (v : Cluster) : (s.setCluster c v).eth = s.eth := rfl
@[simp] theorem State.setCluster_hbm (s : State) (c : Nat) (v : Cluster) : (s.setCluster c v).hbm = s.hbm := rfl
@[simp] theorem State.setCluster_hqe (s : State) (c : Nat) (v : Cluster) : (s.setCluster c v).hqe = s.hqe := rfl
@[simp] theorem State.setCluster_events (s : State) (c : Nat) (v : Cluster) : (s.setCluster c v).events = s.events := rfl
@[simp] theorem State.setCluster_csh (s : State) (c : Nat) (v : Cluster) : (s.setCluster c v).csh = s.csh := rfl
@[simp] theorem State.setCluster_mgt (s : State) (c : Nat) (v : Cluster) : (s.setCluster c v).mgt = s.mgt := rfl
@[simp] theorem State.setCluster_pwr (s : State) (c : Nat) (v : Cluster) : (s.setCluster c v).pwr = s.pwr := rfl
@[simp] theorem State.setCluster_sent (s : State) (c : Nat) (v : Cluster) : (s.setCluster c v).sent = s.sent := rfl
@[simp] theorem State.setCluster_freeCtr (s : State) (c : Nat) (v : Cluster) : (s.setCluster c v).freeCtr = s.freeCtr := rfl
@[simp] theorem State.setCluster_pending (s : State) (c : Nat) (v : Cluster) : (s.setCluster c v).pending = s.pending := rfl

/-! ### setThread -/

@[simp] theorem State.setThread_variant (s : State) (t : Nat) (v : Thread) : (s.setThread t v).variant = s.variant := rfl
@[simp] theorem State.setThread_dev (s : State) (t : Nat) (v : Thread) : (s.setThread t v).dev = s.dev := rfl
@[simp] theorem State.setThread_faultN (s : State) (t : Nat) (v : Thread) : (s.setThread t v).faultN = s.faultN := rfl
@[simp] theorem State.setThread_glb (s : State) (t : Nat) (v : Thread) : (s.setThread t v).glb = s.glb := rfl
@[simp] theorem State.setThread_tim (s : State) (t : Nat) (v : Thread) : (s.setThread t v).tim = s.tim := rfl
@[simp] theorem State.setThread_regs (s : State) (t : Nat) (v : Thread) : (s.setThread t v).regs = s.regs := rfl
@[simp] theorem State.setThread_counters (s : State) (t : Nat) (v : Thread) : (s.setThread t v).counters = s.counters := rfl
@[simp] theorem State.setThread_mems (s : State) (t : Nat) (v : Thread) : (s.setThread t v).mems = s.mems := rfl
@[simp] theorem State.setThread_lck (s : State) (t : Nat) (v : Thread) : (s.setThread t v).lck = s.lck := rfl
@[simp] theorem State.setThread_trays (s : State) (t : Nat) (v : Thread) : (s.setThread t v).trays = s.trays := rfl
@[simp] theorem State.setThread_dlr (s : State) (t : Nat) (v : Thread) : (s.setThread t v).dlr = s.dlr := rfl
@[simp] theorem State.setThread_fix (s : State) (t : Nat) (v : Thread) : (s.setThread t v).fix = s.fix := rfl
@[simp] theorem State.setThread_loupe (s : State) (t : Nat) (v : Thread) : (s.setThread t v).loupe = s.loupe := rfl
@[simp] theorem State.setThread_cls (s : State) (t : Nat) (v : Thread) : (s.setThread t v).cls = s.cls := rfl
@[simp] theorem State.setThread_pkts (s : State) (t : Nat) (v : Thread) : (s.setThread t v).pkts = s.pkts := rfl
@[simp] theorem State.setThread_swt (s : State) (t : Nat) (v : Thread) : (s.setThread t v).swt = s.swt := rfl
@[simp] theorem State.setThread_ring (s : State) (t : Nat) (v : Thread) : (s.setThread t v).ring = s.ring := rfl
@[simp] theorem State.setThread_eth (s : State) (t : Nat) (v : Thread) : (s.setThread t v).eth = s.eth := rfl
@[simp] theorem State.setThread_hbm (s : State) (t : Nat) (v : Thread) : (s.setThread t v).hbm = s.hbm := rfl
@[simp] theorem State.setThread_hqe (s : State) (t : Nat) (v : Thread) : (s.setThread t v).hqe = s.hqe := rfl
@[simp] theorem State.setThread_events (s : State) (t : Nat) (v : Thread) : (s.setThread t v).events = s.events := rfl
@[simp] theorem State.setThread_csh (s : State) (t : Nat) (v : Thread) : (s.setThread t v).csh = s.csh := rfl
@[simp] theorem State.setThread_mgt (s : State) (t : Nat) (v : Thread) : (s.setThread t v).mgt = s.mgt := rfl
@[simp] theorem State.setThread_pwr (s : State) (t : Nat) (v : Thread) : (s.setThread t v).pwr = s.pwr := rfl
@[simp] theorem State.setThread_sent (s : State) (t : Nat) (v : Thread) : (s.setThread t v).sent = s.sent := rfl
@[simp] theorem State.setThread_freeCtr (s : State) (t : Nat) (v : Thread) : (s.setThread t v).freeCtr = s.freeCtr := rfl
@[simp] theorem State.setThread_pending (s : State) (t : Nat) (v : Thread) : (s.setThread t v).pending = s.pending := rfl

/-! ### setChan -/

@[simp] theorem State.setChan_variant (s : State) (c n : Nat) (v : Channel) : (s.setChan c n v).variant = s.variant := rfl
@[simp] theorem State.setChan_dev (s : State) (c n : Nat) (v : Channel) : (s.setChan c n v).dev = s.dev := rfl
@[simp] theorem State.setChan_faultN (s : State) (c n : Nat) (v : Channel) : (s.setChan c n v).faultN = s.faultN := rfl
@[simp] theorem State.setChan_glb (s : State) (c n : Nat) (v : Channel) : (s.setChan c n v).glb = s.glb := rfl
@[simp] theorem State.setChan_tim (s : State) (c n : Nat) (v : Channel) : (s.setChan c n v).tim = s.tim := rfl
@[simp] theorem State.setChan_regs (s : State) (c n : Nat) (v : Channel) : (s.setChan c n v).regs = s.regs := rfl
@[simp] theorem State.setChan_counters (s : State) (c n : Nat) (v : Channel) : (s.setChan c n v).counters = s.counters := rfl
@[simp] theorem State.setChan_mems (s : State) (c n : Nat) (v : Channel) : (s.setChan c n v).mems = s.mems := rfl
@[simp] theorem State.setChan_lck (s : State) (c n : Nat) (v : Channel) : (s.setChan c n v).lck = s.lck := rfl
@[simp] theorem State.setChan_trays (s : State) (c n : Nat) (v : Channel) : (s.setChan c n v).trays = s.trays := rfl
@[simp] theorem State.setChan_dlr (s : State) (c n : Nat) (v : Channel) : (s.setChan c n v).dlr = s.dlr := rfl
@[simp] theorem State.setChan_fix (s : State) (c n : Nat) (v : Channel) : (s.setChan c n v).fix = s.fix := rfl
@[simp] theorem State.setChan_loupe (s : State) (c n : Nat) (v : Channel) : (s.setChan c n v).loupe = s.loupe := rfl
@[simp] theorem State.setChan_cls (s : State) (c n : Nat) (v : Channel) : (s.setChan c n v).cls = s.cls := rfl
@[simp] theorem State.setChan_pkts (s : State) (c n : Nat) (v : Channel) : (s.setChan c n v).pkts = s.pkts := rfl
@[simp] theorem State.setChan_swt (s : State) (c n : Nat) (v : Channel) : (s.setChan c n v).swt = s.swt := rfl
@[simp] theorem State.setChan_ring (s : State) (c n : Nat) (v : Channel) : (s.setChan c n v).ring = s.ring := rfl
@[simp] theorem State.setChan_eth (s : State) (c n : Nat) (v : Channel) : (s.setChan c n v).eth = s.eth := rfl
@[simp] theorem State.setChan_hbm (s : State) (c n : Nat) (v : Channel) : (s.setChan c n v).hbm = s.hbm := rfl
@[simp] theorem State.setChan_hqe (s : State) (c n : Nat) (v : Channel) : (s.setChan c n v).hqe = s.hqe := rfl
@[simp] theorem State.setChan_events (s : State) (c n : Nat) (v : Channel) : (s.setChan c n v).events = s.events := rfl
@[simp] theorem State.setChan_csh (s : State) (c n : Nat) (v : Channel) : (s.setChan c n v).csh = s.csh := rfl
@[simp] theorem State.setChan_mgt (s : State) (c n : Nat) (v : Channel) : (s.setChan c n v).mgt = s.mgt := rfl
@[simp] theorem State.setChan_pwr (s : State) (c n : Nat) (v : Channel) : (s.setChan c n v).pwr = s.pwr := rfl
@[simp] theorem State.setChan_sent (s : State) (c n : Nat) (v : Channel) : (s.setChan c n v).sent = s.sent := rfl
@[simp] theorem State.setChan_freeCtr (s : State) (c n : Nat) (v : Channel) : (s.setChan c n v).freeCtr = s.freeCtr := rfl
@[simp] theorem State.setChan_pending (s : State) (c n : Nat) (v : Channel) : (s.setChan c n v).pending = s.pending := rfl

end Sys2Proof.Machine
end

