-- ==== Sys2Proof/Tests/Slice0.lean ====
section
/-! SUPPORT. The model's own tests: a state and operands that meet the hypotheses of each claim, the checks of WellFormed, and the
examples of the manual. -/

namespace Sys2Proof.Tests

open Sys2Proof Sys2Proof.Machine Host

/-! ### States for the witnesses -/

/-- A thread in RUN. -/
def busy : Thread := { Thread.cleared with state := .run }

/-- The device in RUN, thread 0 as `th`, everything else as after reset. -/
def one (th : Thread) : State := { State.reset with dev := .run, cores := { Cores.reset with threads := [(0, th)] } }

/-- Thread 0 as `th`, thread 1 as `k`. -/
def two (th k : Thread) : State := { one th with cores := { Cores.reset with threads := [(0, th), (1, k)] } }

/-- Thread 0 as `th`, channel 0 of its cluster as `ch`. -/
def withChan (th : Thread) (ch : Channel) : State := { one th with cores := { Cores.reset with threads := [(0, th)], chans := [(0, ch)] } }

def fr : RFields := { rd := 1, rs1 := 0, rs2 := 0, aux := 0 }
def f0 : RFields := { rd := 0, rs1 := 0, rs2 := 0, aux := 0 }
def fi : IFields := { rd := 7, rs1 := 0, imm := 0x3FFFF }
def fm : MFields := { rt := 3, ab := 1, mode := 0, disp := 0 }
def fs : SFields := { rd := 0, rs1 := 0, imm := 0 }
def fx : XFields := { rd := 4, rs1 := 8, rs2 := 2, cxc := 0 }

theorem ready_of {th : Thread} (h : th.state = .run) (o : th.outstanding = none) (p : badPc th.pc = false) (n : th.stepArmed = false)
    (w : Cores.wf (one th).cores = true) : (one th).ready 0 := ⟨h, o, p, n, w⟩

theorem busy_ready : (one busy).ready 0 := ready_of rfl rfl rfl rfl (by decide)

/-! ### Witnesses: the core instructions -/

theorem wit_LogicRowsWriteRd : (one busy).ready 0 ∧ fr.aux = 0 := ⟨busy_ready, rfl⟩
theorem wit_SumsAndDifferencesSetFlags : (one busy).ready 0 ∧ fr.aux = 0 := ⟨busy_ready, rfl⟩
theorem wit_ShiftsTakeFiveBits :
    (one busy).ready 0 ∧ fr.aux = 0 ∧ fr.rs2 = 0 ∧ ({ fr with aux := 31 } : RFields).aux.toNat < 32 := ⟨busy_ready, rfl, rfl, by decide⟩
theorem wit_ComparesOrderSignedAndUnsigned : (one busy).ready 0 ∧ fr.aux = 0 := ⟨busy_ready, rfl⟩
theorem wit_ProductsAndQuotients : (one busy).ready 0 ∧ fr.aux = 0 := ⟨busy_ready, rfl⟩
theorem wit_CountsAndByteOrder : (one busy).ready 0 ∧ fr.aux = 0 ∧ fr.rs2 = 0 := ⟨busy_ready, rfl, rfl⟩

/-- A nonzero AUX where the row does not use it, for each major opcode that a claim names. -/
theorem wit_IllegalIn :
    (one busy).ready 0 ∧ (∃ c, coreForm (.add 0 { fr with aux := 1 }) = some c ∧ c.word.toNat / 2 ^ 26 = 0 ∧ ¬c.legal) ∧
    (∃ c, coreForm (.mac 0 { fr with aux := 1 }) = some c ∧ c.word.toNat / 2 ^ 26 = 0x1C ∧ ¬c.legal) ∧
    (∃ c, coreForm (.amov 0 { fr with aux := 1 }) = some c ∧ c.word.toNat / 2 ^ 26 = 0x1E ∧ ¬c.legal) ∧
    (∃ c, coreForm (.li 0 { fi with rs1 := 1 }) = some c ∧ c.word.toNat / 2 ^ 26 = 0x05 ∧ ¬c.legal) ∧
    (∃ c, coreForm (.lui 0 { fi with rs1 := 1 }) = some c ∧ c.word.toNat / 2 ^ 26 = 0x06 ∧ ¬c.legal) ∧
    (∃ c, coreForm (.aaddi 0 { fi with rd := 8 }) = some c ∧ c.word.toNat / 2 ^ 26 = 0x12 ∧ ¬c.legal) ∧
    (∃ c, coreForm (.alpc 0 { fi with rs1 := 1 }) = some c ∧ c.word.toNat / 2 ^ 26 = 0x13 ∧ ¬c.legal) ∧
    (∃ c, coreForm (.extu 0 { rd := 1, rs1 := 1, pos := 31, wm1 := 1, rsv := 0 }) = some c ∧ c.word.toNat / 2 ^ 26 = 0x24 ∧ ¬c.legal) := by
  refine ⟨busy_ready, ?_, ?_, ?_, ?_, ?_, ?_, ?_, ?_⟩
  all_goals exact ⟨_, rfl, by decide, by decide⟩

theorem wit_ReservedFieldsRaiseIllegal :
    (one busy).ready 0 ∧ ∃ c, coreForm (.jr 0 { link := 0, la := 1, ab := 6, rsv := 0, imm := 0 }) = some c ∧ c.thread = 0 ∧ ¬c.legal :=
  ⟨busy_ready, _, rfl, rfl, by decide⟩

theorem wit_InstructionsAreFetched :
    (∃ c, coreForm (.add 0 fr) = some c ∧ c.thread = 0) ∧
    ((one { busy with outstanding := some (.status 1 0 none) }).thread 0).outstanding ≠ none ∧
    (State.reset.thread 0).state = .idle ∧ ((one { busy with state := .wait }).thread 0).state = .wait ∧
    ((one { busy with state := .halt }).thread 0).state = .halt ∧ ((one { busy with state := .halt }).thread 0).stepArmed = false ∧
    0x20000 ≤ ((one { busy with pc := 0x20000 }).thread 0).pc.toNat ∧ ((one { busy with pc := 2 }).thread 0).pc.toNat % 4 ≠ 0 :=
  ⟨⟨_, rfl, rfl⟩, by decide, rfl, rfl, rfl, rfl, by decide, by decide⟩

theorem wit_ImmediateRows : (one busy).ready 0 ∧ fi.rs1 = 0 ∧ fi.rd.toNat < 8 ∧ fi.rs1.toNat < 8 := ⟨busy_ready, by decide⟩
theorem wit_BitFieldsMoveTheirBits :
    (one busy).ready 0 ∧ (16 : BitVec 5).toNat + (15 : BitVec 5).toNat ≤ 31 ∧ (31 : BitVec 5).toNat + (0 : BitVec 5).toNat ≤ 31 :=
  ⟨busy_ready, by decide⟩
theorem wit_AccumulatorProducts : (one busy).ready 0 ∧ fr.rd.toNat < 2 ∧ fr.aux = 0 := ⟨busy_ready, by decide⟩
theorem wit_AccumulatorMoves :
    (one busy).ready 0 ∧ fr.rd.toNat < 2 ∧ fr.aux = 0 ∧ fr.rs1 = 0 ∧ fr.rs2 = 0 ∧ fr.rs1.toNat < 2 ∧ (63 : BitVec 8).toNat < 64 :=
  ⟨busy_ready, by decide⟩

/-- D1 = 99,999,999 and D2 with an invalid digit. -/
def digits : Thread := { busy with d := [(1, 0x99999999), (2, 0x0000000A)] }
theorem digits_ready : (one digits).ready 0 := ready_of rfl rfl rfl rfl (by decide)
theorem valid8 : ValidDigits 8 0x99999999 := by
  intro i h
  have : ∀ i ∈ List.range 8, 0x99999999 / 16 ^ i % 16 ≤ 9 := by decide
  exact this i (List.mem_range.2 h)
theorem invalid8 : ¬ValidDigits 8 0x0000000A := fun h => absurd (h 0 (by decide)) (by decide)
theorem wit_DecimalArithmetic :
    (one digits).ready 0 ∧ fr.aux = 0 ∧ ValidDigits 8 (digits.dreg 1).toNat ∧ ¬(ValidDigits 8 (digits.dreg 1).toNat ∧ ValidDigits 8 (digits.dreg 2).toNat) :=
  ⟨digits_ready, rfl, valid8, fun h => invalid8 h.2⟩
theorem wit_DecimalAdjustAndAccumulate :
    (one digits).ready 0 ∧ fr.rs2 = 0 ∧ fr.aux = 0 ∧ fr.rd.toNat < 2 ∧ ValidDigits 8 (digits.dreg 1).toNat ∧
    ValidDigits 16 ((digits.acc 0).toNat % 2 ^ 64) ∧ ¬(ValidDigits 8 (digits.dreg 2).toNat ∧ ValidDigits 16 ((digits.acc 0).toNat % 2 ^ 64)) := by
  refine ⟨digits_ready, rfl, rfl, by decide, valid8, ?_, fun h => invalid8 h.1⟩
  intro i _; simp [digits, busy, Thread.cleared, Thread.acc]
theorem wit_DigitConversions :
    (one digits).ready 0 ∧ (let n := (0x82 : BitVec 8).toNat / 16; 1 ≤ n ∧ n ≤ 8 ∧ 4 < n) ∧ (0x82 : BitVec 8).setWidth 4 ≠ fr.rd ∧
    (let n := (0x10 : BitVec 8).toNat / 16; 1 ≤ n ∧ n ≤ 8 ∧ fr.rs2 = 0) ∧ fr.aux = 0 ∧ ValidDigits 8 (digits.dreg 1).toNat ∧
    ¬ValidDigits 8 (digits.dreg 2).toNat := ⟨digits_ready, by decide, by decide, by decide, rfl, valid8, invalid8⟩
theorem wit_TransfersAndAddressArithmetic :
    (one busy).ready 0 ∧ fr.aux = 0 ∧ fr.rs2 = 0 ∧ (7 : BitVec 4).toNat < 8 ∧ fr.rd.toNat < 8 ∧ fr.rs1.toNat < 8 ∧ (3 : BitVec 8).toNat < 4 :=
  ⟨busy_ready, by decide⟩

theorem wit_ConditionalBranches :
    (one busy).ready 0 ∧ ((5 : BitVec 4).toNat = 5) ∧ ((7 : BitVec 4).toNat = 6 + 1) ∧ (7 : BitVec 4).toNat < 8 := ⟨busy_ready, by decide⟩
theorem wit_JumpsAndLinks : (one busy).ready 0 ∧ ({ link := 1, la := 6, ab := 6, rsv := 0, imm := 0 } : JRFields).link = 1 ∧
    ({ link := 0, la := 0, ab := 6, rsv := 0, imm := 0 } : JRFields).la = 0 := ⟨busy_ready, rfl, rfl⟩

/-- A1 at the end of the scratch, A2 in packet SRAM, A3 in HBM, A4 in the register window, A5 nowhere. -/
def places : Thread := { busy with a := [(1, 0x10FFFC), (2, 0x10000000), (3, 0x400000000000), (4, 0x20000040), (5, 0x300000)] }
theorem places_ready : (one places).ready 0 := ready_of rfl rfl rfl rfl (by decide)
theorem wit_NearLoadsComplete :
    (one places).ready 0 ∧ LegalMem true .word fm ∧ nearPlace 0 (.scratch 0xFFFC) = true ∧
    checkAccess (one places) 0 (effectiveAddress places fm) 4 false false true = .inl (.scratch 0xFFFC) ∧
    LegalMem true .byte { fm with mode := 3, disp := 63 } ∧ LegalMem true .eight { fm with rt := 7, mode := 2 } :=
  ⟨places_ready, by unfold LegalMem; decide, by decide, by decide, by unfold LegalMem; decide, by unfold LegalMem; decide⟩
theorem wit_FarLoadsLeaveTheCore :
    (one places).ready 0 ∧ LegalMem true .word { fm with ab := 2 } ∧ nearPlace 0 (.pkt 0) = false ∧
    checkAccess (one places) 0 (effectiveAddress places { fm with ab := 2 }) 4 false false true = .inl (.pkt 0) ∧
    (∀ off, Place.pkt 0 = .window off → off < tryBase + 0x10000 ∨ tryBase + 0x1C000 ≤ off) :=
  ⟨places_ready, by unfold LegalMem; decide, by decide, by decide, by intro off h; cases h⟩

/-- A load from packet SRAM awaits its data. -/
def loading : Thread := { busy with outstanding := some (.load 3 .word false 0x10000000 none) }
theorem wit_LoadDataReturns :
    Cores.wf (one loading).cores = true ∧ loading.state = .run ∧ loading.stepArmed = false ∧ loading.haltReq = false ∧
    loading.outstanding = some (.load fm.rt .word false 0x10000000 none) ∧
    (region (0 : ThreadId).val (0x10000000 : Addr).toNat).map (fun x => x.2.2.2) = some (.pkt 0) := by decide
theorem wit_StoresWriteTheirBytes :
    (one places).ready 0 ∧ (one places).wf ∧ LegalMem false .word fm ∧
    checkAccess (one places) 0 (effectiveAddress places fm) 4 true false true = .inl (.scratch 0xFFFC) :=
  ⟨places_ready, by unfold State.wf; decide, by unfold LegalMem; decide, by decide⟩
theorem wit_StoresToHbmWriteTheirBytes :
    (one places).ready 0 ∧ (one places).wf ∧ LegalMem false .word { fm with ab := 3 } ∧
    checkAccess (one places) 0 (effectiveAddress places { fm with ab := 3 }) 4 true false true = .inl (.hbm 0) ∧
    (one places).hbmPoisoned 0 4 = false :=
  ⟨places_ready, by unfold State.wf; decide, by unfold LegalMem; decide, by decide, by decide⟩
theorem wit_BadAccessesRaise :
    (one places).ready 0 ∧ LegalMem true .word { fm with ab := 4 } ∧
    checkAccess (one places) 0 (effectiveAddress places { fm with ab := 4 }) 4 false false true = .inr 0x07 ∧
    LegalMem false .eight { fm with disp := 1 } ∧
    checkAccess (one places) 0 (effectiveAddress places { fm with disp := 1 }) 8 true true false = .inr 0x06 :=
  ⟨places_ready, by unfold LegalMem; decide, by decide, by unfold LegalMem; decide, by decide⟩
theorem wit_AccessChecks :
    (0x10FFFD % 4 ≠ 0) ∧ region 0 0x400000 = none ∧ (0x100000 ≤ 0x10FFFC ∧ 0x10FFFC + 4 ≤ 0x110000) ∧
    (region 0 0x10FFFC).map (fun p => p.2.2.1) = some 0x110000 ∧ (0x200000 ≤ 0x3FFFFF ∧ 0x3FFFFF + 1 ≤ 0x400000) ∧
    (0x10000000 ≤ 0x13FFFFFC ∧ 0x13FFFFFC + 4 ≤ 0x14000000) ∧ (0x1000000 ≤ 0x2FFFFFF ∧ 0x2FFFFFF + 1 ≤ 0x3000000) ∧
    (0x20000000 ≤ 0x23FFFFFC ∧ 0x23FFFFFC + 4 ≤ 0x24000000) ∧ 0x1FFFF < 0x20000 ∧
    (0x400000000000 ≤ 0x402FFFFFFFFF ∧ 0x402FFFFFFFFF + 1 ≤ 0x403000000000) := by decide

/-- Thread 0 at Supervisor. -/
def super : Thread := { busy with tsr := 0x40000000 }
theorem super_ready : (one super).ready 0 := ready_of rfl rfl rfl rfl (by decide)
theorem wit_SystemRegisterMoves :
    (one super).ready 0 ∧ fs.rs1 = 0 ∧ fs.rd = 0 ∧ (one super).thread 0 = super ∧
    (∃ x, sysInfo 0x000 = some x ∧ x.wide = false ∧ x.rd ≤ super.level ∧ x.wr ≤ super.level ∧ busy.level < x.wr) ∧
    (∃ x, sysInfo 0x010 = some x ∧ x.wide = true ∧ x.rd ≤ super.level ∧ x.wr ≤ super.level ∧ busy.level < x.rd) ∧
    (∃ x, sysInfo 0x021 = some x ∧ x.wide = false ∧ super.level < x.rd) ∧ (∃ x, sysInfo 0x020 = some x ∧ x.wide = true ∧ super.level < x.wr) ∧
    (∀ x, sysInfo 0x010 = some x → x.wide = true) ∧ (∀ x, sysInfo 0x000 = some x → x.wide = false) ∧ sysInfo 0x005 = none := by
  refine ⟨super_ready, rfl, rfl, rfl, ⟨_, rfl, ?_⟩, ⟨_, rfl, ?_⟩, ⟨_, rfl, ?_⟩, ⟨_, rfl, ?_⟩, ?_, ?_, rfl⟩
  all_goals first | decide | (intro x h; cases h; rfl)
theorem wit_SystemRegisterWrites : Cores.wf (one super).cores = true := by decide
theorem wit_ExceptionEntry :
    Cores.wf (one super).cores = true ∧ ((one super).thread 0).state = .run ∧ 0 < 0x1F ∧ 0x1F < 0x20 ∧
    bitAt super.tsr 28 = false ∧ super.level < 2 ∧
    bitAt ({ super with tsr := 0x50000000 } : Thread).tsr 28 = true ∧ bitAt ({ super with tsr := 0x50000000 } : Thread).tsr 27 = false ∧
    ({ super with tsr := 0x80000000 } : Thread).level = 2 ∧ bitAt ({ super with tsr := 0x80000000 } : Thread).tsr 27 = false := by decide
theorem wit_CallsTakeTheirException : (one busy).ready 0 ∧ fs.rd = 0 ∧ fs.rs1 = 0 := ⟨busy_ready, rfl, rfl⟩
theorem wit_ReturnsFencesAndFlags :
    (one super).ready 0 ∧ (one busy).ready 0 ∧ fs.rd = 0 ∧ fs.rs1 = 0 ∧ fs.imm = 0 ∧ busy.level = 0 ∧ super.level = 1 ∧
    0 < (7 : BitVec 12).toNat ∧ (7 : BitVec 12).toNat < 8 ∧ (31 : BitVec 12).toNat < 32 := ⟨super_ready, busy_ready, by decide⟩
theorem wit_StatusWordsArrive :
    Cores.wf (one { busy with outstanding := some (.status 1 7 none) }).cores = true ∧ busy.state = .run ∧ busy.stepArmed = false ∧
    busy.haltReq = false := by decide
theorem wit_ForkStartsAChild :
    (one busy).ready 0 ∧ fr.rs1.toNat < 8 ∧ fr.rs2 ≠ 15 ∧ fr.aux = 0 ∧ ((one busy).thread 7).state = .idle ∧
    (one busy).dispatchThread (coreOf 0) 7 = false ∧ (∀ j, j < 8 → j < 1 → ((one busy).thread j).state ≠ .idle) :=
  ⟨busy_ready, by decide, by decide, by decide, rfl, by decide, fun j _ h => by
    have : j = 0 := by omega
    subst this; decide⟩
theorem wit_JoinEndYield :
    (one busy).ready 0 ∧ (one { busy with children := 1 }).ready 0 ∧ ¬(one { busy with children := 1 }).compared 0 ∧
    (one { busy with children := 1, arm := true }).compared 0 ∧ fr.rs1 = 0 ∧ fr.rs2 = 0 ∧ fr.aux = 0 ∧ busy.children = 0 ∧
    busy.item = none ∧ busy.irqCxLate = none ∧ busy.parent = none ∧
    ((two { busy with parent := some 1 } busy).thread 1).state = .run ∧ ((two { busy with parent := some 1 } busy).thread 1).parent ≠ some 0 :=
  ⟨busy_ready, ready_of rfl rfl rfl rfl (by decide), by unfold State.compared; decide, by unfold State.compared; decide, by decide⟩

/-- D1 holds an event mask of 3, and event 0 is pending. -/
def waits : Thread := { busy with d := [(1, 3)], evpend := 1 }
theorem wit_TimerAndEventWaits :
    (one waits).ready 0 ∧ fr.rs1 = 0 ∧ fr.rs2 = 0 ∧ fr.aux = 0 ∧ waits.arm = false ∧ (one { waits with arm := true }).compared 0 ∧
    waits.evpend &&& (waits.dreg 1).setWidth 16 ≠ 0 ∧ busy.evpend &&& (3 : BitVec 16) = 0 ∧ ¬(one { busy with d := [(1, 3)] }).compared 0 ∧
    ¬(one { busy with arm := true, tcmp := 1 }).compared 0 :=
  ⟨ready_of rfl rfl rfl rfl (by decide), by decide, by decide, by decide, rfl, by unfold State.compared; decide, by decide, by decide,
   by unfold State.compared; decide, by unfold State.compared; decide⟩
def posted (p : PostMsg) (th : Thread) : State := { one th with cores := { (one th).cores with posts := [p] } }
theorem wit_PostedEvents :
    Cores.wf (posted { poster := 0, target := 0, event := 15 } busy).cores = true ∧ (one busy).ready 0 ∧ f0.rd = 0 ∧ f0.rs2 = 0 ∧
    (15 : BitVec 8).toNat < 16 ∧ 1031 < 1032 ∧ (1031 ≤ 1031) ∧ clusterOf 0 = clusterOf 63 ∧ busy.wait = .none ∧
    ({ busy with state := .wait, wait := .waite 1 1 } : Thread).wait = .waite 1 1 ∧ (1 : BitVec 16).getLsbD 0 = true :=
  ⟨by decide, busy_ready, by decide⟩
theorem wit_TimerCompareEndsWaits :
    ∀ w ∈ [Wait.waitt 1, .join 1, .waite 1 1, .send 1 0, .submit 1 [], .pktout 1 [] 0, .recv 1 0 0x100000, .endjoin],
      let s := one { busy with state := .wait, wait := w, arm := true }
      Cores.wf s.cores = true ∧ (s.thread 0).state = .wait ∧ (s.thread 0).wait = w ∧ s.compared 0 := by
  unfold State.compared; decide

/-! ### Witnesses: submission, channels, deadlock, debug -/

/-- A1 names the scratch, A2 is misaligned, A3 lies too near to the scratch's end. -/
def submitter : Thread := { busy with a := [(1, 0x100000), (2, 0x100001), (3, 0x10FFF8)] }
theorem submitter_ready : (one submitter).ready 0 := ready_of rfl rfl rfl rfl (by decide)
/-- Group 0 has thread 0 of core 1, program 0 is valid, and the quota of group 0 is `q`. -/
def submits (q : Word) : State :=
  { one submitter with
    regs := [(dlrBase + 0x100, 2), (dlrBase + 0x300, q), (dlrBase + 0x400, 0x80000000)] }
theorem wit_SubmitEntersItsItem :
    (one submitter).ready 0 ∧ (1 : BitVec 4).toNat < 8 ∧ fr.rs2 = 0 ∧ (1 : BitVec 8).toNat < 2 ∧
    (submitter.areg 2).toNat % 4 ≠ 0 ∧ (submitter.areg 3).toNat % 4 = 0 ∧
    ¬(0x100000 ≤ (submitter.areg 3).toNat ∧ (submitter.areg 3).toNat + 64 ≤ 0x110000) ∧
    (submitter.areg 1).toNat % 4 = 0 ∧ 0x100000 ≤ (submitter.areg 1).toNat ∧ (submitter.areg 1).toNat + 64 ≤ 0x110000 ∧
    (one submitter).submitStatus (stampItem (one submitter) (List.replicate 16 0)) false ≠ 0 ∧
    (submits 8).submitStatus (stampItem (submits 8) (4 :: List.replicate 15 0)) false = 0 ∧
    (submits 8).submitRoom (stampItem (submits 8) (4 :: List.replicate 15 0)) false = true ∧
    (submits 0).submitRoom (stampItem (submits 0) (4 :: List.replicate 15 0)) false = false :=
  ⟨submitter_ready, by decide, by decide, by decide, by decide, by decide, by decide, by decide, by decide, by decide,
   by decide, by decide, by decide, by decide⟩
theorem wit_WaitingSubmissionsResume :
    (let s := one { busy with state := .wait, wait := .submit 1 [] }
     Cores.wf s.cores = true ∧ (s.thread 0).state = .wait ∧ (s.thread 0).wait = .submit 1 [] ∧ s.dev ≠ .frozen ∧
     s.submitRoom [] false = false ∧ (submits 8).submitRoom [] false = true ∧ ({ s with dev := .frozen } : State).dev = .frozen) ∧
    (let s := one { busy with state := .wait, wait := .pktout 1 [] 0 }
     Cores.wf s.cores = true ∧ (s.thread 0).wait = .pktout 1 [] 0 ∧ s.dev ≠ .frozen ∧ s.fixFull = false) ∧
    ∀ e, ({ one busy with fix := { Fix.reset with entries := List.replicate 131072 (0, e) } } : State).fixFull = true :=
  ⟨by decide, by decide, fun e => decide_eq_true (le_of_eq (List.length_replicate ..).symm)⟩

/-- A record of 64 bytes to Ethernet port 0, of the buffer with handle 0. -/
def record : List Byte := [0, 0, 0, 0, 64, 0] ++ List.replicate 26 0
/-- Pool 0 has 16 buffers of 2 KiB. -/
def pooled (th : Thread) : State :=
  { one th with regs := [(tryBase + 0x1000, 16)], trays := { Trays.reset with pools := { en := true, hbm := false, fit := true, code := 5, count := 16, base := 0 } :: List.replicate 7 Pool.off } }
theorem wit_PktoutSendsItsRecord :
    (one submitter).ready 0 ∧ (1 : BitVec 4).toNat < 8 ∧ fr.rs2 = 0 ∧ fr.aux = 0 ∧ (submitter.areg 2).toNat % 8 ≠ 0 ∧
    (submitter.areg 3).toNat % 8 = 0 ∧ ¬((submitter.areg 3).toNat + 32 ≤ 0x110000) ∧ (submitter.areg 1).toNat % 8 = 0 ∧
    goodRecord (one submitter) (List.replicate 32 0) = false ∧ goodRecord (pooled submitter) record = true ∧
    (pooled submitter).fixFull = false ∧ submitter.arm = false :=
  ⟨submitter_ready, by decide, by decide, by decide, by decide, by decide, by decide, by decide, by decide, by decide, by decide, rfl⟩

theorem wit_ChannelWritesClaimAndFill :
    (one busy).ready 0 ∧ f0.rd = 0 ∧ (7 : BitVec 8).toNat < 8 ∧ busy.failed 0 = false ∧ ({ busy with wstat := 0x200 } : Thread).failed 0 = true ∧
    ((one busy).chan 0 0).st = .free ∧ ((withChan busy { Channel.empty with st := .filling }).chan 0 0).owner = 0 ∧
    ((withChan busy { Channel.empty with st := .full }).chan 0 0).st ≠ .free ∧ ¬(one busy).compared 0 ∧
    (one { busy with arm := true }).compared 0 :=
  ⟨busy_ready, by decide, by decide, by decide, by decide, rfl, rfl, by decide, by unfold State.compared; decide, by unfold State.compared; decide⟩
theorem wit_CommitAndSend :
    (one busy).ready 0 ∧ fr.rs2 = 0 ∧ 1 ≤ (8 : BitVec 8).toNat ∧ (8 : BitVec 8).toNat ≤ 8 ∧ busy.failed 0 = false ∧
    ({ busy with wstat := 0x204 } : Thread).failed 0 = true ∧ ((one busy).chan 0 0).st = .free ∧
    (let s := withChan busy { Channel.empty with st := .filling }
     (s.chan 0 0).st = .filling ∧ (s.chan 0 0).owner = 0 ∧ (s.chan 0 0).receivers = []) ∧
    ((withChan busy { Channel.empty with st := .acked }).chan 0 0).st = .acked ∧ ¬(one busy).compared 0 :=
  ⟨busy_ready, by decide, by decide, by decide, by decide, by decide, rfl, by decide, rfl, by unfold State.compared; decide⟩
theorem wit_ReceiveTakesTheMessage :
    (one submitter).ready 0 ∧ (one submitter).wf ∧ (3 : BitVec 4).toNat < 8 ∧ f0.aux = 0 ∧ (submitter.areg 2).toNat % 4 ≠ 0 ∧
    ¬((submitter.areg 3).toNat + 32 ≤ 0x110000) ∧ (submitter.areg 1).toNat + 32 ≤ 0x110000 ∧
    ((withChan submitter { Channel.empty with st := .full, n := 8 }).chan 0 0).st = .full ∧ ((one submitter).chan 0 0).st ≠ .sending ∧
    ¬(one submitter).compared 0 :=
  ⟨submitter_ready, by unfold State.wf; decide, by decide, by decide, by decide, by decide, by decide, rfl, by decide, by unfold State.compared; decide⟩

/-- Thread 0 waits in JOIN, alone in its cluster, with the detector on and its count long over. -/
def stuck : State :=
  { one { busy with state := .wait, wait := .join 1, children := 1 } with
    regs := [(thrBase 0, 1)], tim := { Tim.reset with count := 0x100000 * 2 ^ 32 }
    cores := { Cores.reset with threads := [(0, { busy with state := .wait, wait := .join 1, children := 1 })]
                                clusters := [(0, { Cluster.empty with dlSince := some 0 })] } }
set_option maxRecDepth 4000 in
theorem wit_DeadlockEndsOneWait :
    Cores.wf stuck.cores = true ∧ (clusterThreads 0).find? stuck.closedWait = some 0 ∧ stuck.dlHolds 0 = true ∧
    stuck.dlCycles 0 ≤ stuck.dlCount 0 ∧ (stuck.thread 0).wait = .join 1 := by decide
theorem wit_InterruptsByPriority :
    Cores.wf (one busy).cores = true ∧ State.reset.thread 0 = Thread.cleared ∧ Thread.cleared.state = .idle ∧ busy.outstanding = none ∧
    ({ busy with irqCheck := some 1 } : Thread).irqCheck = some 1 ∧ ({ busy with irqDebug := some 1 } : Thread).irqCheck = none ∧
    (let th : Thread := { busy with tsr := 0x20000000, irqCxLate := some 0, evpend := 1, evirq := 1 }
     bitAt th.tsr 29 = true ∧ bitAt th.tsr 28 = false ∧ th.irqCxLate = some 0 ∧ th.evpend &&& th.evirq.setWidth 16 ≠ 0) ∧
    ¬(bitAt busy.tsr 29 = true ∧ bitAt busy.tsr 28 = false) ∧
    ({ busy with state := .wait, wait := .join 1, irqCheck := some 1 } : Thread).wait = .join 1 := by decide

/-- Cluster 0 in debug mode FULL, thread 0 as `th`. -/
def debugged (th : Thread) : State := { one th with regs := [(thrBase 0 + 0x400, 2), (thrBase 0 + 0x410, 0x90000000)] }
set_option maxRecDepth 4000 in
theorem wit_DebugRequestsAreChecked :
    (one busy).dbgMode 0 ≠ 2 ∧ (debugged busy).dbgMode 0 = 2 ∧
    (clusterThreads 0).any (fun x => ((debugged { busy with stepArmed := true }).thread x).haltReq || ((debugged { busy with stepArmed := true }).thread x).stepArmed) = true ∧
    (clusterThreads 0).any (fun x => ((debugged busy).thread x).haltReq || ((debugged busy).thread x).stepArmed) = false ∧
    ((debugged busy).thread (threadOf 0 1)).state = .idle ∧ ((debugged busy).chan 0 0).st ≠ .held := by decide
set_option maxRecDepth 4000 in
theorem wit_DebugRequestsAct :
    Cores.wf (debugged busy).cores = true ∧ (debugged busy).dbgMode 0 = 2 ∧ threadOf 0 0 = 0 ∧ busy.state = .run ∧
    (clusterThreads 0).any (fun x => ((debugged busy).thread x).haltReq || ((debugged busy).thread x).stepArmed) = false ∧
    ((debugged { busy with outstanding := some (.status 1 0 none) }).thread 0).outstanding ≠ none ∧
    ((debugged { busy with state := .halt }).thread 0).state = .halt := by decide
theorem wit_KillEndsAThread :
    (one busy).wf ∧ State.reset.wf ∧ (State.reset.thread 1031).state = .idle ∧ ((one busy).thread 0).state ≠ .idle ∧
    busy.item = none ∧ busy.irqCxLate = none ∧ busy.parent = none ∧ (one busy).lck.locks = [] ∧ (one busy).trays.waiters = [] ∧
    (one busy).cores.chans = [] := by unfold State.wf; decide
theorem wit_DebugWindowWrites :
    Cores.wf (debugged busy).cores = true ∧ (0xB0 : BitVec 8).toNat % 4 = 0 ∧ (0xB0 : BitVec 8).toNat < 0xB4 ∧ (one busy).dbgMode 0 ≠ 2 ∧
    (debugged busy).dbgMode 0 = 2 ∧ threadOf 0 ((debugged busy).fld (thrBase 0 + 0x40C) 5 0) = 0 ∧ busy.state ≠ .halt ∧
    ((debugged { busy with state := .halt }).thread 0).state = .halt ∧ (0x3C : BitVec 8).toNat = 4 * (15 : BitVec 4).toNat ∧
    (0x7C : BitVec 8).toNat = 0x44 + 8 * (7 : BitVec 3).toNat ∧ (0x94 : BitVec 8).toNat = 0x8C + 4 * 2 := by decide
theorem wit_BreakpointsHaltTrapOrTrace :
    (let v := (debugged busy).reg (thrBase (clusterOf 0) + 0x410 + 4 * 0)
     bitAt v 31 = true ∧ bitAt v 28 = true ∧ busy.pc.toNat = bits v 16 0 ∧ bits v 30 29 = 0) ∧
    (debugged busy).dbgMode 0 = 2 ∧ busy.issues = true ∧ busy.stepArmed = false ∧ (one busy).dbgMode 0 = 0 := by decide

/-! ### Witnesses: CX, locks, atomics, Trays, registers -/

/-- CXEN of core 0 enables every function at every level. -/
def cx : State := { one busy with cores := { (one busy).cores with cxen := [(0, 0x003F3F3F)] } }
theorem cx_ready : cx.ready 0 := ⟨rfl, rfl, by decide, rfl, by decide⟩
theorem wit_CxChecksAndHashes :
    cx.ready 0 ∧ cx.cxReady 0 0x00 0 ∧ cx.cxReady 0 0x02 1 ∧ 1 ≤ (4 : BitVec 8).toNat ∧ (4 : BitVec 8).toNat ≤ 4 ∧
    (14 : BitVec 4).toNat % 2 = 0 ∧ (14 : BitVec 4) ≠ 0 :=
  ⟨cx_ready, by unfold State.cxReady; decide, by unfold State.cxReady; decide, by decide⟩
theorem wit_CxCiphersAndDigests :
    cx.ready 0 ∧ cx.cxReady 0 0x08 2 ∧ cx.cxReady 0 0x0D 3 ∧ (1 : BitVec 8).toNat < 2 ∧ (15 : BitVec 8).toNat < 16 ∧
    (4 : BitVec 4) ≠ 8 ∧ (14 : BitVec 4).toNat / 4 ≠ (4 : BitVec 4).toNat / 4 ∧ (14 : BitVec 4).toNat / 4 ≠ (8 : BitVec 4).toNat / 4 ∧
    swf 0 busy.d = true :=
  ⟨cx_ready, by unfold State.cxReady; decide, by unfold State.cxReady; decide, by decide⟩
theorem wit_CxCompareGatherScatter :
    cx.ready 0 ∧ cx.cxReady 0 0x10 4 ∧ cx.cxReady 0 0x14 5 ∧ fx.cxc = 0 :=
  ⟨cx_ready, by unfold State.cxReady; decide, by unfold State.cxReady; decide, rfl⟩
/-- The part without AES, and one whose CXEN is 0. -/
theorem wit_CxAbsentAndDenied :
    (one busy).ready 0 ∧ legalAes { fx with rs2 := 0 } = true ∧ ({ one busy with variant := .fx } : State).variant = .fx ∧
    bitAt (({ one busy with cores := { (one busy).cores with cxen := [(0, 0)] } } : State).cxen (coreOf 0)) (8 * busy.level + 0) = false :=
  ⟨busy_ready, by decide, rfl, by decide⟩
theorem wit_CxLateErrors : (one busy).wf ∧ ((one busy).thread 0).state ≠ .idle := by unfold State.wf; decide

/-- Lock 0 as `l`. -/
def locked (th : Thread) (l : LockSt) : State := { one th with lck := { Lck.reset with locks := [(0, l)] } }
def waiter (r : Nat) : LckWaiter := { req := r, since := 0, trumped := false, wd := .none }
theorem wit_LocksAreTakenOrWaitedFor :
    (one busy).ready 0 ∧ fr.rs2 = 0 ∧ fr.aux = 0 ∧ (∀ g ∈ (one busy).lck.unclaimed, g.1 ≠ 0) ∧ sfind (one busy).lck.locks 0 = none ∧
    sfind (locked busy { holder := 0, waiters := [] }).lck.locks 0 = some { holder := 0, waiters := [] } ∧
    closesCycle (locked busy { holder := 5, waiters := [] }) 0 2 5 = false ∧
    closesCycle { locked busy { holder := 5, waiters := [] } with
      lck := { Lck.reset with locks := [(0, { holder := 5, waiters := [] }), (1, { holder := 0, waiters := [waiter 5] })] } } 0 3 5 = true :=
  ⟨busy_ready, by decide⟩
theorem wit_UnlockHandsOver :
    (one busy).ready 0 ∧ (∀ l, sfind (one busy).lck.locks 0 = some l → l.holder ≠ 0) ∧
    sfind (locked busy { holder := 0, waiters := [waiter 1] }).lck.locks 0 = some { holder := 0, waiters := [waiter 1] } ∧
    chooseWaiter (locked busy { holder := 0, waiters := [waiter 1] }) false [waiter 1] = some (waiter 1) ∧ (waiter 1).req ≠ 0 ∧
    (waiter 1).wd ≠ .interrupt ∧ ((two busy { busy with state := .wait, wait := .lock 1 0 }).thread 1).wait = .lock 1 0 :=
  ⟨busy_ready, (fun l h => by simp [one, State.reset, Lck.reset, sfind] at h), by decide⟩
theorem wit_GrantOrder :
    chooseWaiter (one busy) false [waiter 1, { waiter 2 with trumped := true }] = some { waiter 2 with trumped := true } ∧
    chooseWaiter (one busy) false [waiter 1, waiter 2] = some (waiter 1) := by decide
theorem wit_UnclaimedGrantIsTaken :
    (one busy).ready 0 ∧ fr.rs2 = 0 ∧ (1 : BitVec 8).toNat < 2 ∧
    ({ one busy with lck := { Lck.reset with unclaimed := [(0, 0)] } } : State).lck.unclaimed = [(0, 0)] := ⟨busy_ready, by decide⟩
def semSet (v : SemSt) : State := { one busy with lck := { Lck.reset with sems := [(0, v)] } }
theorem wit_SemaphoresTakeAndGive :
    (one busy).ready 0 ∧ fr.rs2 = 0 ∧ (∀ g ∈ (one busy).lck.unclaimed, g.1 ≠ 0) ∧
    (sget SemSt.empty (semSet { SemSt.empty with count := 0xFFFF }).lck.sems 0).count = 0xFFFF ∧ SemSt.empty.count = 0 ∧
    SemSt.empty.waiters = [] ∧ chooseWaiter (one busy) (one busy).semFifo [waiter 1] = some (waiter 1) := ⟨busy_ready, by decide⟩
theorem wit_AgedWaitersAreTrumped :
    (let s := locked busy { holder := 0, waiters := [waiter 1] }
     sfind s.lck.locks (0 : BitVec 14).toNat = some { holder := 0, waiters := [waiter 1] } ∧ s.lockTrumpAge ≤ s.elapsed 0 ∧
     bitAt (s.reg lckBase) 31 = false) ∧ sfind (one busy).lck.locks (0 : BitVec 14).toNat = none := by decide
theorem wit_ForcedReleaseAndWithdrawal :
    Path.writes .board = true ∧ Path.writes .fabric = false ∧ sfind (one busy).lck.locks (0 : BitVec 14).toNat = none ∧
    bitAt ((one busy).reg (lckBase + 0x100)) 0 = false ∧ (one busy).lckWithdrawal 0 = .none ∧
    (∀ w ∈ [Withdrawal.interrupt, .deadlock, .timeout],
      (locked busy { holder := 1, waiters := [{ waiter 0 with wd := w }] }).lckWithdrawal 0 = w) := by decide
theorem wit_SemaphoreInitSetsCounts :
    (one busy).wf ∧ swf SemSt.empty (one busy).lck.sems = true ∧ Path.writes .board = true ∧ ((one busy).sem (2 * 2047 + 1)).waiters = [] := by
  unfold State.wf; decide
theorem wit_AtomicsLeaveTheCore :
    (one places).ready 0 ∧ (2 : BitVec 4).toNat < 8 ∧ checkAccess (one places) 0 (places.areg 2) 4 true true true = .inl (.pkt 0) ∧
    checkAccess (one places) 0 (places.areg 1) 4 true true true = .inl (.scratch 0xFFFC) ∧
    checkAccess (one places) 0 (places.areg 4) 4 true true true = .inr 0x07 ∧ (15 : BitVec 8).toNat < 16 :=
  ⟨places_ready, by decide⟩
theorem wit_AtomicsReturnTheOldValue :
    (one { busy with outstanding := some (.atomic 1 .add 1 0x10000000) }).wf ∧ busy.state = .run ∧ busy.stepArmed = false ∧
    busy.haltReq = false ∧ (region (0 : ThreadId).val (0x10000000 : Addr).toNat).map (fun x => x.2.2.2) = some (.pkt 0) := by
  unfold State.wf; decide

theorem wit_AllocationLoads :
    (one super).ready 0 ∧ 1 ≤ super.level ∧ sfind (one super).trays.unclaimed 0 = none ∧ (one super).dev ≠ .frozen ∧
    (one super).candidates (.size 64) = [] ∧ (pooled super).candidates (.size 64) = [0] ∧ (pooled super).candidates (.pool 0) = [0] ∧
    (pooled super).firstFit 0 [0] = some 0 ∧ ((pooled super).takeBuffer 0).map (·.1) = some 0 ∧
    (let s := { pooled super with trays := { (pooled super).trays with free := { FreeList.boot with fresh := 16 } :: List.replicate 7 FreeList.boot } }
     s.candidates (.pool 0) = [0] ∧ State.firstFit s 0 [0] = none ∧ [0].any (fun q => s.aboveReserve (quotaGroup 0) q (s.freeCount q)) = false) :=
  ⟨super_ready, by decide⟩
theorem wit_PortalNeedsSupervisor : (one busy).ready 0 ∧ busy.level = 0 := ⟨busy_ready, by decide⟩
def allocWaits (w : TryWaiter) : State :=
  { one { busy with state := .wait, wait := .trays 1 (.pool 0) 0x12000 none } with trays := { Trays.reset with waiters := [w] } }
def tryWaiter : TryWaiter := { req := 0, ask := .pool 0, offset := 0x12000, since := 0, reported := false, wd := .none }
theorem wit_AllocationWaitsEnd :
    ∀ wd ∈ [Withdrawal.none, .interrupt, .timeout, .deadlock],
      let s := allocWaits { tryWaiter with wd := wd }
      (s.trays.waiters.find? fun x => x.req == 0) = some { tryWaiter with wd := wd } ∧ s.waitReport ≤ s.elapsed 0 ∧
      (s.thread 0).wait = .trays 1 (.pool 0) 0x12000 none ∧ (s.thread 0).state = .wait := by decide
def owned (owners : List Nat) : State :=
  { pooled super with trays := { (pooled super).trays with bufs := [(3, .alloc owners [])], free := { FreeList.boot with fresh := 4 } :: List.replicate 7 FreeList.boot } }
theorem owned_ready (o : List Nat) : (owned o).ready 0 := ⟨rfl, rfl, rfl, rfl, rfl⟩
theorem wit_OwnersAreNamed :
    (owned [5, 0, 9]).ready 0 ∧ 1 ≤ super.level ∧ sfind (owned [5, 0, 9]).trays.unclaimed 0 = none ∧ (owned [5, 0, 9]).badHandle 3 = false ∧
    sfind (owned [5, 0, 9]).trays.bufs 3 = some (.alloc [5, 0, 9] []) ∧ sorted (owned [5, 0, 9]).trays.bufs = true ∧ 0 ∈ [5, 0, 9] ∧
    [5, 0, 9].erase 0 ≠ [] ∧ (1089 : BitVec 12).toNat < 1090 ∧ [5, 0, 9].length < 4 := ⟨owned_ready _, by decide⟩
theorem wit_LastFreeReturnsTheBuffer :
    (owned [0]).ready 0 ∧ 1 ≤ super.level ∧ sfind (owned [0]).trays.unclaimed 0 = none ∧ (owned [0]).badHandle 3 = false ∧
    sfind (owned [0]).trays.bufs 3 = some (.alloc [0] []) ∧ (owned [0]).trays.waiters = [] ∧ bitAt ((owned [0]).reg tryBase) 31 = false :=
  ⟨owned_ready _, by decide⟩
/-- Every reason: unallocated, not an owner, no head, a bad handle, four owners, a bad target, and a transfer of the device's own. -/
theorem wit_RejectedTransfers :
    sfind (owned [0]).trays.bufs 2 = none ∧ (owned [0]).badHandle 2 = false ∧ 1 ∉ [0] ∧ (owned [0]).badHandle 16 = true ∧
    4 ≤ [0, 1, 2, 3].length ∧ 1090 ≤ 1090 ∧ TryOp.endItem ≠ .free := by decide
theorem wit_ReclaimAndLostBuffers :
    (one busy).answers .board = true ∧ Path.writes .board = true ∧ (1089 : BitVec 12).toNat < 1090 ∧ 1090 ≤ (1090 : BitVec 12).toNat ∧
    (one busy).trays.reclaim = none ∧ ({ one busy with trays := { Trays.reset with reclaim := some 3 } } : State).trays.reclaim = some 3 ∧
    (one busy).badHandle 0 = true ∧ (pooled busy).badHandle 0 = false ∧ poolOf 0 < (pooled busy).trays.free.length := by decide

theorem wit_RegisterAccessErrors :
    (one busy).answers .board = true ∧ (one busy).target .board 0x44 = .unmapped ∧ (one busy).target .board 0x40 ≠ .unmapped ∧
    overPcie (.pf 0) = true ∧ overPcie .board = false := by decide

/-- The device in RUN, with these stored registers. -/
def run (r : SMap Word) : State := { State.reset with dev := .run, regs := r }
/-- The counter at `t` FTU. -/
def at_ (t : Nat) (s : State) : State := { s with tim := { s.tim with count := BitVec.ofNat 96 (t * 2 ^ 32) } }

/-- A plain, a read-only, a counter and an expert register, a reserved encoding, and a PIN field that may hold any value. -/
theorem wit_RegisterWritesStoreRwBits :
    (run []).answers .board = true ∧ (Path.board ≠ Path.fabric) ∧
    (match (run []).target .board (timBase + 0x30) with
      | .reg k b r => k == timBase + 0x30 && b == timBase && r.kind == .plain && r.rw != 0 && (writeSpecial (run []) .board k b (k - b) 5).isNone
      | _ => false) = true ∧
    (match (run []).target .board (lckBase + 4) with
      | .reg k b r => k == lckBase + 4 && b == lckBase && r.kind == .plain && (writeSpecial (run []) .board k b (k - b) 5).isNone
      | _ => false) = true ∧
    (match (run []).target .board (timBase + 0x40) with | .reg _ b r => r.kind == .expert && !(run []).expertOn b | _ => false) = true ∧
    (match (run []).target .board (ethBase + 0x800) with | .reg _ _ r => r.kind == .counter | _ => false) = true := by decide
theorem wit_ScratchHoldsWhatIsWritten :
    (run []).wf ∧ (run []).answers .board = true ∧ (run []).answers (.mc 1) = true := by unfold State.wf; decide
theorem wit_ReadsThatClearOrLatch :
    (run []).answers .board = true ∧
    (match (run []).target .board (pwrBase + 0x10) with | .reg k b r => k == pwrBase + 0x10 && b == pwrBase && r.kind == .clears | _ => false) = true ∧
    (match (run []).target .board (timBase + 8) with | .reg k _ r => k == timBase + 8 && r.kind == .roLow 2 | _ => false) = true ∧
    (match (run []).target .board 0x40 with | .reg _ _ r => r.kind != .clears && r.kind != .roLow 2 | _ => false) = true := by decide
theorem wit_ResetRegisterNeedsItsKey :
    (run []).answers .board = true ∧ ((0xA5C30001 : Word).toNat / 2 ^ 16 = 0xA5C3 ∧ bitAt (0xA5C30001 : Word) 0 = true) ∧
    (run []).mgt.warmAt = none ∧ ({ run [] with mgt := { Mgt.reset with warmAt := some 5 } } : State).mgt.warmAt ≠ none ∧
    ¬((0xA5C30000 : Word).toNat / 2 ^ 16 = 0xA5C3 ∧ bitAt (0xA5C30000 : Word) 0 = true) ∧
    ¬((0xA5C20001 : Word).toNat / 2 ^ 16 = 0xA5C3 ∧ bitAt (0xA5C20001 : Word) 0 = true) ∧ (run []).dev ≠ .reset := by decide
theorem wit_ExpertValuesAreWithdrawn :
    (run [(lckBase, 0x80000000)]).wf ∧ (run []).answers (.mc 1) = true ∧ bitAt (0x800 : Word) 11 = true ∧
    (run [(lckBase, 0x80000000)]).expertOn lckBase = true ∧ bitAt (0x10000 : Word) 16 = true ∧
    (run [(thrBase 16, 0x80000000)]).expertOn (thrBase 16) = true := by unfold State.wf; decide

/-! ### Witnesses: timebase and Ethernet -/

/-- The node may lead (ROLE ELECT, priority 0), in state `st` since time 0, at 2 ms. -/
def syncing (st : SyncState) : State := at_ 32000000 { run [(timBase, 1)] with tim := { Tim.reset with st := st } }
/-- Port 1 hears, at 2 ms, the master (1, 7) two hops away. -/
def hearing (st : SyncState) : State :=
  let a : Announce := { prio := 1, node := 9, masterPrio := 1, master := 7, hops := 2, gen := 0, sync := 2 }
  at_ 32000000 { run [(timBase, 1)] with tim := { Tim.reset with
    st := st
    master := some (1, 7)
    ports := lset Tim.reset.ports 1 { SyncPort.reset with heard := some a, heardAt := 32000000 } } }
theorem wit_SynchronisationTimers :
    (let s := syncing .unsync; s.tim.st = .unsync ∧ s.mayLead = true ∧ usFtu 1000 ≤ s.elapsed s.tim.quiet) ∧
    (let s := syncing .locked
     let s1 : State := { s with tim := { s.tim with lower := some 0 } }
     s1.tim.st = .locked ∧ s1.mayLead = true ∧ s1.tim.lower = some 0 ∧ usFtu 1000 ≤ s1.elapsed 0 ∧ usFtu 10 ≤ s.elapsed s.tim.parentAt ∧
     s.tim.master.bind s.bestParent = none) ∧
    (let s := syncing .holdover; s.tim.st = .holdover ∧ s.mayLead = true ∧ s.lowestHeard = true ∧ usFtu 1000 ≤ s.elapsed s.tim.since) ∧
    (let s := syncing .acquire
     let s1 : State := { s with tim := { s.tim with good := 16 } }
     s1.tim.st = .acquire ∧ 16 ≤ s1.tim.good ∧ usFtu 10 ≤ s.elapsed s.tim.parentAt) ∧
    (let s := hearing .locked; s.tim.st = .locked ∧ usFtu 10 ≤ s.elapsed s.tim.parentAt ∧ s.tim.master = some (1, 7) ∧ s.bestParent (1, 7) = some (1, 2)) := by
  decide
theorem wit_RoleAndTaiWrites :
    (syncing .master).wf ∧ (syncing .master).answers .board = true ∧ Path.manages .board ∧ bits (2 : Word) 1 0 < 3 ∧ bits (2 : Word) 3 2 < 3 ∧
    (syncing .master).role < 3 ∧ (syncing .master).fld timBase 3 2 < 3 ∧ bits (3 : Word) 1 0 = 3 ∧ bits (0xC : Word) 3 2 = 3 ∧
    (syncing .locked).follower = true ∧ (syncing .master).follower = false :=
  ⟨by unfold State.wf; decide, by decide, trivial, by decide⟩
theorem wit_SecondsAndReference :
    (let s := at_ 16000000000 { run [(timBase, 0x10001)] with tim := { Tim.reset with st := .master, ppsNext := 1 } }
     s.ppsEnabled = true ∧ s.tim.ppsNext ≤ s.taiOf s.nowN / 16000000000) ∧ (syncing .master).ppsEnabled = false ∧
    ({ run [] with pwr := { Pwr.reset with timerefOk := true } } : State).pwr.timerefOk = true ∧ (syncing .master).dev ≠ .reset ∧
    (syncing .master).pwr.timerefOk = false ∧ usFtu 1000 ≤ (syncing .master).elapsed (syncing .master).pwr.timerefSince ∧
    (syncing .master).fld timBase 3 2 ≠ 1 := by decide

/-- Ring port 1 in UP. -/
def linked (s : State) : State := { s with ring := { s.ring with ports := lset s.ring.ports 1 { RingPort.reset with link := .up } } }
theorem wit_SyncWordsSent :
    ((linked (syncing .master)).rport (1 : Fin 4)).link = .up ∧ (linked (syncing .master)).intervalOver 1 none = true ∧
    (linked (syncing .master)).intervalOver 10 (some 0) = true := by decide
/-- A control word: byte 1 `seq`; read as SYNC_A it names the master (1, 7), two hops away, from a sender in LOCKED. -/
def syncWord (seq : Nat) : BitVec 136 := BitVec.ofNat 136 (seq * 2 ^ 128 + 1 * 2 ^ 104 + 7 * 2 ^ 88 + 2 * 2 ^ 80 + 2 * 2 ^ 40)
theorem wit_SyncWordsHeard :
    ((syncing .unsync).rport (1 : Fin 4)).link ≠ .up ∧ ((linked (syncing .free)).rport (1 : Fin 4)).link = .up ∧
    (linked (syncing .free)).tim.st = .free ∧ wordByte (syncWord 0) 13 < 128 ∧
    (let s := linked (syncing .unsync)
     let a := parseSyncA (syncWord 0)
     let s0 := s.setRport 1 { s.rport 1 with uncorr := 0 }
     let heard := setSyncPort s0 1 { s0.syncPort 1 with heard := some a, heardAt := s0.now }
     s.tim.st = .unsync ∧ 1 ≤ a.sync ∧ a.sync ≤ 4 ∧ s.tim.parent = none ∧ heard.bestParent (a.masterPrio, a.master) = some (1, a.hops)) ∧
    (let s := linked { syncing .locked with tim := { (syncing .locked).tim with parent := some 1 } }
     s.tim.parent = some (1 : Fin 4).val ∧ (s.tim.st = .acquire ∨ s.tim.st = .locked)) ∧
    (let s := linked { syncing .locked with tim := { (syncing .locked).tim with
        ports := lset Tim.reset.ports 1 { SyncPort.reset with rx := some (4, 100), sentAt := some 200 } } }
     s.tim.st ≠ .free ∧ s.tim.parent ≠ some (1 : Fin 4).val ∧ (s.syncPort 1).rx = some (4, 100) ∧ (s.syncPort 1).sentAt = some 200 ∧
     BitVec.ofNat 8 (wordByte (syncWord 5) 1) = (4 : BitVec 8) + 1) := by decide

/-- Ethernet port 0 as `v`, its ETH_Pp_CFG as `cfg`, at 40 s. -/
def ether (cfg : Word) (v : EthPort) : State :=
  at_ 640000000000 { run [(ethBase + 0x100, cfg), (timBase, 2)] with
    eth := { modeLo := 0, modeHi := 0, ports := [(0, v)] }, tim := { Tim.reset with st := .free } }
theorem wit_LinksComeUpInStages :
    ((ether 0 { EthPort.reset with st := .an }).ethPort (0 : Fin 16)).st = .an ∧
    (let s := at_ 640000000000 (ether 0 { EthPort.reset with st := .train })
     (s.ethPort 0).st = .train ∧ usFtu s.trainLimit ≤ s.elapsed (s.ethPort 0).since) ∧
    (let s := ether 0 { EthPort.reset with st := .align, aligned := some 0 }
     (s.ethPort 0).st = .align ∧ (s.ethPort 0).aligned = some 0 ∧ usFtu s.upDeb ≤ s.elapsed (laterOf 0 (s.ethPort 0).since) ∧ s.ethLoop 0 ≠ 3) ∧
    (let s := ether 0 { EthPort.reset with st := .up, fault := some 0 }
     s.portActive (0 : Fin 16) = true ∧ (s.ethPort 0).st = .up ∧ (s.ethPort 0).fault = some 0 ∧ usFtu s.downDeb ≤ s.elapsed 0 ∧ s.ethLoop 0 ≠ 1) := by
  decide
theorem wit_PortConfigurationWrites :
    (let s := ether 0x40 EthPort.reset
     s.wf ∧ s.answers .board = true ∧ Path.manages .board ∧ s.portActive (0 : Fin 16) = true ∧ (s.ethPort 0).st = .disabled ∧ s.dev = .run ∧
     (s.swtOut 0).st = .down) ∧
    (let v : Word := 0x80000040
     bits v 30 29 < 3 ∧ 64 ≤ bits v 13 0 ∧ ¬(bits v 30 29 = 2 ∧ bitAt v 28 = true) ∧ bitAt v 31 = true ∧ bits v 27 26 ≠ 1) ∧
    bitAt (0x00000040 : Word) 31 = false ∧ bits (0x60000040 : Word) 30 29 = 3 ∧
    bitAt ((ether 0x80000040 EthPort.reset).reg (ethBase + 0x100)) 31 = true :=
  ⟨⟨by unfold State.wf; decide, by decide, trivial, by decide⟩, by decide⟩
/-- A PFC frame for priority 0 with 5 quanta. -/
def pfc : List Byte := [0x01, 0x80, 0xC2, 0, 0, 1, 2, 0, 0, 0, 0, 1, 0x88, 0x08, 0x01, 0x01, 0, 1, 0, 5] ++ List.replicate 40 0
def etherUp : EthPort := { EthPort.reset with st := .up, aligned := some 0 }
theorem wit_FlowControlAndTimestampQueue :
    (let s := ether 0 { etherUp with held := 1 }
     s.macReady (0 : Fin 16) = true ∧ (s.swtOut 0).tx = none ∧ s.wantHeld 0 ≠ (s.ethPort 0).held ∧ (s.ethPort 0).held ≠ 0 ∧
     s.quantaFtu 0 (s.fld (ethBase + 0x108) 31 16) ≤ 2 * s.elapsed (s.ethPort 0).pfcAt ∧ s.pausedBy 0 0 = false ∧ s.answers .board = true ∧
     (s.ethPort 0).tsq = []) ∧
    (let s : State := { ether 0x00000640 etherUp with regs := [(ethBase + 0x100, 0x640), (ethBase + 0x108, 0x00640001), (timBase, 2)] }
     s.hearsWire (0 : Fin 16) = true ∧ s.ethLoop 0 = 0 ∧ be16 pfc 12 = 0x8808 ∧ be16 pfc 14 = 0x0101 ∧
     s.ethReject 0 pfc (s.ethPort 0).fault.isNone = none ∧ (pfc.getD 17 0).toNat = 2 ^ (0 : Fin 8).val ∧
     (s.fld (ethBase + 0x108) 7 0).testBit (0 : Fin 8) = true) ∧
    (ether 0 { etherUp with tsq := [(7, 1, 2, 3)] }).ethPort (0 : Fin 16) ≠ EthPort.reset := by decide
set_option maxRecDepth 40000 in
theorem wit_ReceivedFramesAreChecked :
    (let s := ether 0x640 etherUp
     s.hearsWire (0 : Fin 16) = true ∧ s.ethLoop 0 = 0 ∧ s.dev ≠ .frozen ∧ s.gateOpen = true ∧ (s.ethPort 0).fault = none ∧
     60 ≤ s.ethMaxFrame 0 ∧
     s.ethMaxFrame 0 < 1601 ∧ be16 (List.replicate 60 0) 12 ≠ 0x8808 ∧
     s.slaveSync 0 (List.replicate 60 0) = false ∧ (admitPacket s Pkt.none (s.admitPool 0) (List.replicate 60 0)).2 = none) ∧
    (let s : State := { ether 0x640 etherUp with regs := [(ethBase + 0x100, 0x640), (timBase, 1)], tim := Tim.reset }
     s.hearsWire (0 : Fin 16) = true ∧ s.gateOpen = false) := by decide

/-! ### Witnesses: switch core, Dealer, Fixer -/

/-- A release of one 60-byte packet to Ethernet port 0. -/
def release : Release :=
  { handle := 0, len := 60, outs := [0], klass := 0, colour := 0, late := false, ots := 0, key := 0, node := 0, sport := 0, port := 0,
    epoch := 0, ring := false }
def copy : SwtCopy := { rel := 3, out := 0, len := 60, since := 0, ce := false, bad := false, route := (false, false, false), queue := 0 }
/-- Port 0 up and without alignment faults, its queue 0 enabled with one RED profile of 1 KiB, MTU 1,500, one release in work. -/
def switching (x : RelState) (swt : Swt) : State :=
  at_ 16000000 { ether 0x640 etherUp with
    regs := [(ethBase + 0x100, 0x640), (swtBase + 0x100, 1500), (swtBase + 0x400, 1), (swtBase + 0x404, 1), (swtBase + 0x4000, 0x00100000), (swtBase + 0x20000, 0x00100000),
      (swtBase + 0x80000, 0x80100000),
      (timBase, 2)]
    swt := { swt with rels := [(3, x)], outs := [(0, { SwtOut.reset with st := .up })] } }
theorem wit_CopiesAreEnqueued :
    (let s := switching { r := release, todo := [0], live := 1 } Swt.reset
     let x : RelState := { r := release, todo := [0], live := 1 }
     s.oldestRelease = some (3, x) ∧ x.todo = [0] ∧ 0 < x.live ∧ (s.queueFor 0 0).map (fun r => (r.1, r.2.1)) = some (0, 0) ∧
     s.outActive 0 = true ∧ s.nodeEn .queue 0 = true ∧ s.nodeEn .queue 1 = false ∧ copyLen 0 60 ≤ s.outMtu 0 ∧ s.outMtu 0 < 1501 ∧
     ¬(0 < 16 ∧ (s.swtOut 0).st = .down) ∧ (s.swtOut 1).st = .down ∧
     (s.squeue 0).depth + 60 ≤ bits (s.reg (s.redOff 0)) 19 0 * 1024 ∧ bits (s.reg (s.redOff 0)) 19 0 * 1024 < 1000 + 60 ∧ s.dev ≠ .frozen ∧
     avgAfter (s.squeue 0).avg (s.squeue 0).depth (bits (s.reg (s.redOff 0)) 27 24) / 256 <
       bits (s.reg (s.redOff 0 + 4 + 8 * (0 : BitVec 2).toNat)) 19 0) ∧
    (State.reset.queueFor (BitVec.ofNat 64 (2 * 2 ^ 16)) 0).isNone = true := by decide
/-- The queue holds the copy; `tx` says what the port is sending. -/
def queued (tx : Option SwtCopy) : State :=
  let s := switching { r := release, todo := [], live := 2 } { Swt.reset with queues := [(0, { SwtQueue.empty with frames := [copy], depth := 60 })] }
  { s with swt := { s.swt with outs := [(0, { SwtOut.reset with st := .up, tx := tx })] } }
set_option maxRecDepth 8000 in
theorem wit_OutputsSendTheSelectedCopy :
    (let s := queued none
     s.canStart (0 : Fin 22) = true ∧ s.busyQueues (0 : Fin 22) ≠ [] ∧ (s.pickQueue (0 : Fin 22)).map (·.queue) = some 0 ∧
     (s.squeue 0).frames = [copy] ∧ s.tooOld 0 copy = false ∧ s.dev ≠ .frozen ∧ (sfind s.swt.rels copy.rel).isSome = true ∧
     (s.swtOut (0 : Fin 22)).tx = none) ∧
    (let s := queued (some copy)
     (s.swtOut (0 : Fin 22)).tx = some copy ∧ outDtype copy.out ≠ 2 ∧ sfind s.swt.rels copy.rel = some { r := release, todo := [], live := 2 } ∧
     s.ethLoop 0 = 0 ∧ s.ptpEvent 0 (s.copyBytes copy ++ List.replicate (60 - (s.copyBytes copy).length) 0) = none ∧ copy.bad = false ∧
     ({ copy with bad := true } : SwtCopy).bad = true) := by decide
theorem wit_QueuesTrumpFlushAndGoDown :
    (let s := queued none
     s.eligible (0 : BitVec 15).toNat = true ∧ (s.squeue 0).trumped = false ∧ s.headAged (s.squeue 0).frames = true ∧ s.answers .board = true ∧
     (s.squeue 0).frames = [copy] ∧ (s.squeue 1).frames = [] ∧ (s.swtOut (0 : Fin 16)).st ≠ .hold) ∧
    (let s : State := { queued none with swt := { (queued none).swt with outs := [(1, { SwtOut.reset with st := .hold })] } }
     (s.swtOut (1 : Fin 16)).st = .hold ∧ usFtu (100 * s.fld (swtBase + 0x104 + 8 * (1 : Fin 16)) 9 0) ≤ s.elapsed (s.swtOut 1).holdSince ∧
     s.busyQueues (1 : Fin 16) = []) := by decide

/-- An item of kind 5 for group `g` with program 0, due at `due`, and its Dealer: group 0 is core 0 with thread 0, program 0 at 0x100. -/
def item (g due : Nat) : DlrItem :=
  { w := [BitVec.ofNat 32 (5 + 16 * g), 7, 0, 0, 0, 0, 0, 0, BitVec.ofNat 32 due, 0], att := Attach.empty, since := 0, slow := false,
    late := false, seq := 0 }
def dealing (dlr : Dlr) : State :=
  at_ 16000000 { run [(dlrBase, 0x10), (dlrBase + 0x100, 1), (dlrBase + 0x200, 1), (dlrBase + 0x300, 4), (dlrBase + 0x400, 0x80000100)] with dlr := dlr }
theorem wit_ItemsJoinTheirLists :
    (let s := dealing { Dlr.reset with inbox := [item 0 0] }
     s.dlr.inbox = [item 0 0] ∧ (item 0 0).slow = false ∧ s.emptyGroup (item 0 0).group = false ∧ s.validProgram (item 0 0).prog = true ∧
     s.emptyGroup (item 1 0).group = true ∧ s.slowInvalid = false ∧ 16 ≤ (List.replicate 16 (0 : Word)).length ∧ s.storeUsed < 32768 ∧
     s.occupancy 0 = 0 ∧ s.highMark 0 = 4) ∧
    ({ dealing Dlr.reset with regs := [(dlrBase + 8, 1)] } : State).slowFull = false := by decide
theorem wit_ItemsAreDispatchedAndTrumped :
    (let s := dealing { Dlr.reset with ready := [(0, [item 0 0])] }
     s.dev ≠ .frozen ∧ s.wf ∧ s.chooseGroup = some 0 ∧ s.chooseList 0 = some (.ready 0) ∧ s.chooseThread 0 = some 0 ∧
     s.readyList 0 0 = [item 0 0] ∧ (item 0 0).isPacket = false ∧
     firstIn ((((List.range 16).flatMap fun p => s.readyList 0 p) ++ (if s.fld (dlrBase + 8) 31 28 = (0 : Fin 16).val then s.dlr.slow else [])).filter
       fun x => usFtu (s.fld (dlrBase + 0x300 + 4 * (0 : Fin 16)) 23 16) ≤ s.elapsed x.since) = some (item 0 0) ∧ s.dlr.inhBox = []) ∧
    (let s := dealing { Dlr.reset with inhBox := [(3, some 16)] }
     s.dlr.inhBox = [(3, some 16)] ∧ s.waitedLock 3 = none) ∧ ({ dealing Dlr.reset with dev := .frozen } : State).dev = .frozen := by
  unfold State.wf; decide
theorem wit_TicksReleaseDueEntries :
    let s := fun (due last stop : Nat) => dealing { Dlr.reset with delay := [(0, [item 0 due])], lastTick := BitVec.ofNat 64 last, stop := BitVec.ofNat 16 stop }
    (s 5 0 0).dlr.delay = [((0 : Fin 16).val, [item 0 5])] ∧ (item 0 5).group = (0 : Fin 16).val ∧ 0 < (s 5 0 0).tickFtu ∧ (s 5 0 0).dev = .run ∧
    (let b := (s 5 0 0).nowN / (s 5 0 0).tickFtu * (s 5 0 0).tickFtu
     (s 5 0 0).dlr.lastTick.toNat < b ∧ b ≤ (s 5 16000000 0).dlr.lastTick.toNat ∧ b < 2 ^ 64 ∧ (item 0 5).due ≤ b ∧ b < (item 0 17000000).due) ∧
    (s 5 0 1).stopped (0 : Fin 16) = true ∧ (s 5 0 0).stopped (0 : Fin 16) = false ∧ (item 0 5).late = false ∧
    (s 5 0 0).emptyGroup 0 = false ∧ (s 5 0 0).validProgram (item 0 5).prog = true ∧ (item 0 5).kind ≠ 4 := by decide

/-- An entry of domain key 1 with timestamp `ots`, in state `st`. -/
def entry (st : FixState) (ots : Nat) : FixEntry :=
  { ots := BitVec.ofNat 64 ots, key := 1, keyed := true, node := 0, sport := 0, port := 0, eslot := 0, epoch := 0, st := st, reason := .none,
    late := false, bypassed := false, spill := false, readyAt := 0, handle := 7, len := 60, outs := [0], klass := 0, colour := 0,
    clamped := false, ring := false, viol := false, dropReason := 0 }
/-- Profile 0 as `prof`; HOLD_LIMIT 100 µs, TTL 50 µs, SETTLE 0.5 µs; at 2 ms. -/
def fixing (prof : Word) (es : SMap FixEntry) : State :=
  at_ 32000000 { run [(fixBase, 100), (fixBase + 4, 0x00640001), (fixBase + 8, prof)] with fix := { Fix.reset with entries := es } }
theorem wit_EntriesCompleteAndAreReleased :
    (let s := fixing 0 [(5, entry .ready 0)]
     s.fixEntry (5 : BitVec 17).toNat = some (entry .ready 0) ∧ s.dev ≠ .frozen ∧ s.fabricScope 1 = false ∧ s.modeOf 1 = .strict ∧
     (∀ x ∈ s.ahead 5 (entry .ready 0), x.2.st = .tomb ∨ x.2.bypassed = true) ∧ s.admissionFloor = none) ∧
    (let s := fixing 4 [(5, entry .ready 0)]
     s.fabricScope 1 = true ∧ s.countedMarks = [] ∧ (entry .ready 0).ots.toNat + s.settle < s.nowN) ∧
    (fixing 2 []).modeOf 1 = .unordered ∧
    (let s := fixing 0 [(4, entry .inflight 0), (5, entry .ready 9)]
     ¬(∀ x ∈ s.ahead 5 (entry .ready 9), x.2.st = .tomb ∨ x.2.bypassed = true)) ∧
    (let r : FixReport := { entry := 5, orig := 7, handle := 7, len := 60, outs := [0] }
     let s : State := { fixing 0 [(5, entry .inflight 0)] with fix := { Fix.reset with entries := [(5, entry .inflight 0)], reports := [r] } }
     s.fix.reports = [r] ∧ r.entry = (5 : BitVec 17).toNat ∧ sfind s.fix.owed r.orig = none ∧ (entry .inflight 0).st = .inflight ∧
     r.orig = r.handle.toNat) := by decide
theorem wit_LimitsEndEntries :
    (let s := fixing 1 [(4, entry .inflight 0), (5, entry .ready 9)]
     s.fixEntry (5 : BitVec 17).toNat = some (entry .ready 9) ∧ s.dev ≠ .frozen ∧ s.modeOf 1 = .bounded ∧
     s.holdLimit ≤ s.elapsed (entry .ready 9).readyAt ∧ s.ahead 5 (entry .ready 9) = [(4, entry .inflight 0)] ∧
     s.fixEntry 4 = some (entry .inflight 0) ∧ (entry .inflight 0).bypassed = false ∧
     s.elapsed ({ entry .ready 9 with readyAt := 32000000 } : FixEntry).readyAt < s.holdLimit) ∧
    (fixing 0 []).modeOf 1 = .strict ∧ (fixing 0 [(5, entry .ready 9)]).ahead 5 (entry .ready 9) = [] ∧
    (let v := { entry .inflight 0 with ring := true }
     v.ring = true ∧ (fixing 0 []).ttl + v.ots.toNat < (fixing 0 []).nowN) ∧
    (fixing 0 []).nowN ≤ (entry .ready 32000000).ots.toNat + (fixing 0 []).ttl ∧ (entry .tomb 0).st = .tomb := by decide
theorem wit_SlotsAndDomainsAreGivenUp :
    let slots := fun (refs : Nat) (live cur : Bool) => [{ FixSlot.empty with live := live, current := cur, refs := refs }]
    let s := fun (due refs : Nat) (live cur : Bool) => ({ fixing 4 [] with fix := { Fix.reset with
      superseded := [(0, BitVec.ofNat 64 due)], slots := slots refs live cur, domains := [(1, { floor := some 0 })] } } : State)
    sfind (s 5 1 true false).fix.superseded (0 : BitVec 2).toNat = some 5 ∧ (s 40000000 1 true false).now < 40000000 ∧
    (5 : Time) ≤ (s 5 1 true false).now ∧ ((s 5 1 true false).slot 0).refs - 1 = 0 ∧ ((s 5 1 true false).slot 0).live = true ∧
    ((s 5 1 true false).slot 0).current = false ∧ ((s 5 2 true false).slot 0).refs - 1 ≠ 0 ∧ sfind (s 5 1 true false).fix.superseded 1 = none ∧
    sfind (s 5 1 true false).fix.domains (1 : BitVec 24).toNat = some { floor := some 0 } ∧
    (∀ x ∈ (s 5 1 true false).fix.entries, ¬(x.2.keyed = true ∧ x.2.spill = false ∧ x.2.key = 1)) ∧
    (0 : Time).toNat + (s 5 1 true false).ttl < (s 5 1 true false).nowN := by decide

/-! ### Witnesses: Loupe and classifier -/

/-- A frame of 60 bytes with handle 7 waits for pipeline 0 from Ethernet port 0; `e` are the pipeline's engines. -/
def parsing (e : List Engine) : State :=
  { run [(loupeBase, 0x0000FF00)] with
    loupe := { Loupe.reset with waiting := [(0, [7])], engines := [(0, e)] }
    pkts := [(7, { Pkt.none with len := 60 })] }
def engine (pc : LoupePc) (out : Option Nat) : Engine :=
  { h := 7, src := 0, recirc := false, pc := pc, base := 0, limit := 60, frameLen := 60, stack := [], micro := [], key := [], clocks := 0, out := out }
theorem wit_FramesEnterAndLeaveTheLoupe :
    (let s := parsing []
     s.dev ≠ .frozen ∧ (s.engines (0 : Fin 2)).length < s.expert loupeBase (loupeBase + 4) 13 8 32 ∧ s.clsAccepts (0 : Fin 2) = true ∧
     s.sourceOrder (0 : Fin 2) = [0] ∧ 22 ∉ [0] ∧ s.frameReady (0 : Fin 2) 0 = some 7) ∧
    (let e := engine (.word 0x400) (some 0)
     (parsing [e]).engines (0 : Fin 2) = [e] ∧ e.out = some 0 ∧ (engine (.word 0x400) none).out = none) := by decide
/-- A word that ends PARSED, one that goes on, one that jumps, and an engine in front of each; the trap word's fields are plain too. -/
theorem wit_MicrowordsRun :
    (let e := engine (.word 0xFFF) none
     (parsing [e]).engines (0 : Fin 2) = [e] ∧ ((parsing [e]).engines (0 : Fin 2))[(0 : Fin 32).val]? = some e ∧ e.out = none ∧
     e.pc = .word 0xFFF ∧ 0x400 ≤ 0xFFF ∧ (parsing [e]).stepLimit = 255) ∧
    (let f := fun (w : Nat) (hi lo : Nat) => w / 2 ^ lo % 2 ^ (hi + 1 - lo)
     (∀ w ∈ [trapWord.toNat, 0, 2 ^ 12 + 0x400, 6 * 2 ^ 12],
       f w 116 114 = 0 ∧ f w 98 96 = 0 ∧ f w 80 78 = 0 ∧ f w 62 61 = 0 ∧ f w 29 24 = 0 ∧ f w 23 21 = 0 ∧ f w 39 38 < 2) ∧
     f trapWord.toNat 20 19 ≠ 0 ∧ f 0 20 19 = 0 ∧ f 0 14 12 = 0 ∧ f (2 ^ 12 + 0x400) 14 12 = 1 ∧ f (6 * 2 ^ 12) 14 12 = 6 ∧
     f (2 ^ 38 + 61 * 2 ^ 30) 39 38 = 1 ∧ f (2 ^ 38 + 61 * 2 ^ 30) 35 30 = 61) := by decide

/-- A context of pipeline 0 for the packet of handle 7. -/
def ctx (ph : ClsPhase) : ClsCtx :=
  { r := { h := 7, src := 0, recirc := false, pipe := 0, cls := 0, key := [], stack := [], base := 0, frameLen := 60 }, phase := ph, entry := 5,
    slot := 0, clamped := false, pass := 0, colour := 0, meterLen := 60, item := [0x10], att := Attach.empty }
def classifying (ph : ClsPhase) (cls : Cls) : State :=
  { parsing [] with
    cls := { cls with lanes := [(0, [ctx ph])] }
    fix := { Fix.reset with entries := [(5, entry .inflight 0)], slots := lset Fix.reset.slots 0 { FixSlot.empty with live := true, current := true } }
    mems := { Mems.empty with pkt := [] } }
/-- The first word of a node with TYPE `t`. -/
def node (t : Nat) : SMap Byte := [(3, BitVec.ofNat 8 (16 * t))]
theorem wit_PacketsArePinnedAndWalk :
    (let s := classifying .arrived { Cls.reset with descs := [(323, 0x40)] }
     (s.lane (0 : Fin 2))[(0 : BitVec 11).toNat]? = some (ctx .arrived) ∧ s.arrivedAt (0 : Fin 2) = some 0 ∧ s.dev ≠ .frozen ∧
     (ctx .arrived).r.recirc = false ∧ s.fixFull = false ∧ s.chooseSlot (s.pkt 7).ots = (0, false) ∧ (s.slot 0).pending = false ∧
     s.mapEntry { ctx .arrived with slot := 0 } / 2 ^ 30 % 4 = 1) ∧
    (let n := fun t => nodeOf (readBytes (classifying (.walk 0 0 0) { Cls.reset with cache := node t }).cls.cache (64 * 0) 64)
     n 4 = .link 0 ∧ n 1 = .cut 0 0 0 ∧ n 2 = .range 0 1 0 [] ∧ n 3 = .rule [] false 0 0 0 ∧ n 0 = .empty ∧ n 5 = .reserved) ∧
    (classifying .arrived Cls.reset).walkLimit = 32 ∧ (classifying .arrived Cls.reset).treeWord 0 0 1 ≠ 0xFFFFFFFF ∧
    (ctx .done).phase = .done ∧ bits (wordOf (ctx .done).item 0) 3 0 ≠ 1 ∧ (classifying .done Cls.reset).stopped (bits (wordOf (ctx .done).item 0) 7 4) = false := by
  decide
/-- An action list of one DISPATCH to group 2, priority 3, program 4, and a meter of 100 bytes with 100 bytes of committed tokens. -/
def acting (ph : ClsPhase) : State :=
  { classifying ph { Cls.reset with cache := [(4, 4), (6, 0x46), (7, 0x38 + 2)] } with
    trays := { (pooled busy).trays with bufs := [(7, .alloc [1024] [])] }
    mems := { Mems.empty with hbm := [(3, 0x80), (12, 100), (21, 0x64)] } }
set_option maxRecDepth 8000 in
theorem wit_ActionListsDispatch :
    (let ph := ClsPhase.list 0 0 9 0
     let s := acting ph
     (s.lane (0 : Fin 2))[(0 : BitVec 11).toNat]? = some (ctx ph) ∧ 0 < 131072 ∧
     (takeEntries (lineEntries (readBytes s.cls.cache (64 * 0) 64))).isSome = true ∧
     (s.listEntries 0).bind actsOf = some [.dispatch 2 3 4] ∧ (s.fixEntry (ctx ph).entry).map (·.keyed) = some true ∧
     14 ≤ (s.packetBytes 7 60).length ∧ (s.packetBytes 7 60).length ≤ 16383) ∧
    (let s := classifying (.list 0 0 9 0) { Cls.reset with cache := [(7, 0xFF)] }
     (s.listEntries 0).bind actsOf = none) := by decide
set_option maxRecDepth 8000 in
theorem wit_MetersColourPackets :
    let s := acting (.meters [.meter true 0] .item)
    let m := meterOf ((hbmRead s (s.meterAddr 0) 64).2.getD [])
    (s.lane (0 : Fin 2))[(0 : BitVec 11).toNat]? = some (ctx (.meters [.meter true 0] .item)) ∧
    (hbmRead s (s.meterAddr 0) 64).2.isSome = true ∧ m.en = true ∧ m.two = false ∧
    256 * ((60 : Int) + m.adj).toNat ≤ min (256 * m.cbs) m.tc ∧ m.te < 256 * ((60 : Int) + m.adj).toNat ∧
    (meterOf ((hbmRead s (s.meterAddr 1) 64).2.getD [])).en = false := by decide
theorem wit_EpochsBecomeCurrent :
    let slots := fun (commit : Nat) (cur : Bool) => [{ FixSlot.empty with pending := true, commit := BitVec.ofNat 64 commit },
      { FixSlot.empty with live := cur, current := cur }, FixSlot.empty, FixSlot.empty]
    let s := fun (commit : Nat) (cur : Bool) => ({ fixing 0 [] with fix := { Fix.reset with slots := slots commit cur } } : State)
    (s 5 true).dev ≠ .frozen ∧ ((s 5 true).slot (0 : BitVec 2).toNat).pending = true ∧ (s 40000000 true).now < ((s 40000000 true).slot 0).commit ∧
    ((s 5 true).slot 0).commit ≤ (s 5 true).now ∧ (s 5 true).pendingUpTo ((s 5 true).slot 0).commit = [(0 : BitVec 2).toNat] ∧
    (∀ j, j < 4 → j ≠ 0 → ¬(((s 5 false).slot j).live = true ∧ ((s 5 false).slot j).current = true)) ∧
    ((s 5 true).slot 1).live = true ∧ ((s 5 true).slot 1).current = true := by decide

/-! ### Witnesses: resets, boot, power and inputs -/

def inReset (pwr : Pwr) : State := { State.reset with dev := .reset, pwr := pwr }
def waitsWarm (t : Nat) (pwr : Pwr) : State := at_ 32000000 { run [] with mgt := { Mgt.reset with warmAt := some (BitVec.ofNat 64 t) }, pwr := pwr }
theorem wit_ResetsClearTheDevice :
    (run []).pwr.vddIo = true ∧ (run []).dev ≠ .reset ∧ (run []).negBusy = false ∧
    ({ run [] with hbm := { Hbm.reset with ctls := lset Hbm.reset.ctls 0 { HbmCtl.reset with negBusy := some 0 } } } : State).negBusy = true ∧
    (inReset Pwr.reset).dev = .reset ∧
    (let s := waitsWarm 5 Pwr.reset
     s.mgt.warmAt = some 5 ∧ 5 ≤ s.now ∧ s.pwr.por = false ∧ s.pwr.warm = false ∧ s.pwr.held = false ∧ s.dev ≠ .reset ∧ s.negBusy = false) ∧
    (waitsWarm 40000000 Pwr.reset).now < 40000000 ∧ (run []).mgt.warmAt = none ∧
    (let s := inReset { Pwr.reset with por := true, held := true }
     s.pwr.por = true ∧ s.pwr.warm = false ∧ s.pwr.held = true ∧ s.elapsed s.pwr.porAt < usFtu 100 ∧
     usFtu 100 ≤ (at_ 32000000 s).elapsed s.pwr.porAt) ∧ (inReset { Pwr.reset with por := true }).pwr.held = false := by decide
theorem wit_BootGoesByStages :
    State.reset.dev = .boot ∧ State.reset.mgt.boot.headerRead = false ∧
    (let s : State := { State.reset with mgt := { Mgt.reset with boot := { headerRead := true, firmware := false, fallback := true } } }
     s.mgt.boot.headerRead = true ∧ s.mgt.boot.firmware = false ∧ s.mgt.boot.fallback = true ∧ s.mgt.fwSlot = false) ∧
    (let s : State := { State.reset with hbm := { Hbm.reset with ctls := lset Hbm.reset.ctls 0 { HbmCtl.reset with st := .training } } }
     (s.hbmCtl (0 : Fin 4)).st = .training ∧ (s.hbmCtl (0 : Fin 4)).failed = false) := by decide
/-- BOOT with firmware running and every stack trained; the empty flash holds no image. -/
def booting : State :=
  { State.reset with
    mgt := { Mgt.reset with boot := { headerRead := true, firmware := true, fallback := false } }
    hbm := { Hbm.reset with ctls := List.replicate 4 { HbmCtl.reset with st := .active, trained := true } } }
theorem wit_BootProfileEndsBoot : booting.dev = .boot ∧ booting.mgt.boot.firmware = true ∧ booting.hbmTrained = true := by decide

def island1 (l : Nat) : State := { run [] with pwr := { Pwr.reset with islands := [(1, { level := l, high := l })] } }
theorem wit_IslandsStretch :
    (run []).dev ≠ .reset ∧ (run []).adaptive (1 : Fin 38) = true ∧ (run []).adaptive (30 : Fin 38) = false ∧ (run []).thresh = 705 ∧
    ((704 : BitVec 10).toNat < 705 ∧ 705 ≤ (704 : BitVec 10).toNat + 20) ∧ ((684 : BitVec 10).toNat + 20 < 705 ∧ 705 ≤ (684 : BitVec 10).toNat + 40) ∧
    (664 : BitVec 10).toNat + 40 < 705 ∧ 705 ≤ (705 : BitVec 10).toNat ∧ ((run []).island (1 : Fin 38)).level = 0 ∧
    ((island1 1).island (1 : Fin 38)).level = 0 + 1 ∧ (island1 1).pwr.throttle = false ∧ (island1 1).holdCycles ≤ (32 : Word).toNat ∧
    (31 : Word).toNat < (island1 1).holdCycles ∧ (island1 1).thresh + (island1 1).hyst ≤ (715 : BitVec 10).toNat + 20 * 0 := by decide
theorem wit_TemperatureActs :
    (run []).dev ≠ .reset ∧ (∀ c : Fin 4, ((run []).hbmCtl c).temp < 105) ∧ (104 : Byte).toNat < 105 ∧ (run []).pwr.throttle = false ∧
    (102 : Byte).toNat ≤ 102 ∧ ({ run [] with pwr := { Pwr.reset with throttle := true } } : State).pwr.throttle = true ∧ 105 ≤ (105 : Byte).toNat ∧
    (114 : Byte).toNat < 115 ∧ 115 ≤ (115 : Byte).toNat ∧ (run []).pwr.temp < 105 ∧
    (∃ c : Fin 4, 105 ≤ (({ run [] with hbm := { Hbm.reset with ctls := [{ HbmCtl.reset with temp := 105 }] } } : State).hbmCtl c).temp) := by decide
def slow (i : Nat) (v : SlowInput) : State := at_ 320000000 { run [(pwrBase, 1)] with pwr := { Pwr.reset with inputs := [(i, v)] } }
theorem wit_SlowInputsAreDeglitched :
    (let v : SlowInput := { SlowInput.low with raw := true, rawAt := 319990000 }
     (slow 0 v).isInput (0 : Fin 21) = true ∧ ((slow 0 v).input 0).raw ≠ false ∧ ((slow 0 v).input 0).level = false ∧
     (slow 0 v).elapsed ((slow 0 v).input 0).rawAt < usFtu 2 ∧ v.raw ≠ v.level) ∧
    (let v : SlowInput := { SlowInput.low with raw := true, rawAt := 5 }
     usFtu 2 ≤ (slow 0 v).elapsed ((slow 0 v).input 0).rawAt ∧ v.raw = (slow 0 v).activeLevel (0 : Fin 21) ∧ bitAt ((slow 0 v).reg pwrBase) 0 = true ∧
     v.raw = (slow 1 v).activeLevel (1 : Fin 21) ∧ bitAt ((slow 1 v).reg pwrBase) 1 = false ∧ v.ignored = false ∧
     (slow 20 v).isInput (20 : Fin 21) = true ∧ (4 : Fin 21).val = 4 ∧ (slow 4 v).tim.st ≠ .master ∧
     ((slow 4 v).input 4).rawAt.toNat % 16000000000 ≤ 160000 ∧ (slow 4 v).pwr.ppsRejects = 0 ∧ 160000 < 160001) ∧
    (let v : SlowInput := { SlowInput.low with raw := true, level := true, edge := 5 }
     v.level = (slow 0 v).activeLevel (0 : Fin 21) ∧ v.raw = v.level ∧ v.edge ≠ 0 ∧ usFtu 10000 < (slow 0 v).elapsed v.edge) := by decide
theorem wit_SensorsAreRead :
    (at_ 32000000 (run [])).dev ≠ .reset ∧ (at_ 32000000 (run [])).mgt.sensorAt.toNat + usFtu 1000 ≤ (at_ 32000000 (run [])).nowN ∧
    (run []).nowN < (run []).mgt.sensorAt.toNat + usFtu 1000 := by decide

/-! ### Witnesses: the ring -/

/-- A 4 × 4 ring, this node 0, TTL 50 µs, at 2 ms, with the ports `ps`. -/
def ringing (ps : List RingPort) : State :=
  at_ 32000000 { run [(ringBase, 1500), (ringBase + 8, 0x0404), (ringBase + 0xC, 0x00050100), (fixBase + 4, 0x00640001)] with
    ring := { Ring.reset with ports := ps, dims := [{ Bypass.new with st := .play, inPlay := true }, Bypass.new] } }
def portUp : RingPort := { RingPort.reset with link := .up, credit := [(0, 100), (8, 100)] }
/-- IDLE that acknowledges `ack`, CREDIT, NAK or REPLAY of EXP 0. -/
def wordOfAck (ack : Nat) : BitVec 136 := BitVec.ofNat 136 (ack * 2 ^ 56)
set_option maxRecDepth 40000 in
theorem wit_WordsHeardOnALink :
    (let s := ringing [{ portUp with seq := 4 }]
     (s.rport (0 : Fin 4)).link = .up ∧
     (let ack := BitVec.ofNat 16 (wordBytes (wordOfAck 3) 9 2)
      let v := s.rport 0
      ack = 3 ∧ ack ≠ v.acked ∧ (ack - v.acked).toNat ≤ (v.seq - v.acked).toNat) ∧
     BitVec.ofNat 16 (wordBytes (wordOfAck 0) 9 2) = (s.rport 0).acked ∧ (s.rport 0).naks + 1 < s.expert ringBase (ringBase + 0x30) 15 8 8 ∧
     (s.rport 0).discarding = false) ∧
    (let v := { portUp with discarding := true }
     v.discarding = true ∧ BitVec.ofNat 16 (wordBytes (wordOfAck 3) 1 2) = v.exp) ∧
    (BitVec.ofNat 144 (0x55 * 2 ^ 136)).toNat / 2 ^ 136 ∉ [0x01, 0x02, 0x03, 0x04, 0x08, 0x09, 0x0A, 0x10, 0x20, 0x21, 0x22, 0x23, 0x24] := by decide
theorem wit_LinksThatAreNotUpStaySilent : ((ringing []).rport (3 : Fin 4)).link ≠ .up := by decide
set_option maxRecDepth 40000 in
/-- No error, one wrong symbol, and both check symbols wrong by the same. -/
theorem wit_CodewordsAreCorrectedOrReplayed :
    syndromes 0 = (0, 0) ∧ (1 : BitVec 5) ≠ 0 ∧ (decodeWord (1 <<< 155)).map (·.2) = some true ∧ decodeWord 0 = some (0, false) ∧
    (decodeWord (33)).isNone = true ∧
    (let s := ringing [portUp]; (s.rport (0 : Fin 4)).link = .up ∧ (s.rport 0).uncorr + 1 < 16 ∧ (s.rport 0).discarding = false ∧ (s.rport 0).rx = none) ∧
    (let v := { portUp with uncorr := 15, discarding := true }; 16 ≤ v.uncorr + 1 ∧ v.discarding = true) := by decide
theorem wit_WordsSentOnALink :
    (let s := ringing [{ portUp with unacked := 64, discarding := true }]
     let v := s.rport (0 : Fin 4)
     v.link = .up ∧ s.expert ringBase (ringBase + 0x30) 23 16 64 ≤ v.unacked ∧
     nsFtu (4 * s.expert fixBase (fixBase + 0x80) 15 8 25) ≤ s.elapsed v.wmAt ∧ v.discarding = true ∧ usFtu 1 ≤ s.elapsed v.nakAt ∧
     usFtu 4 ≤ s.elapsed v.creditAt) := by decide
theorem wit_BreaksAndAvoidEntriesExpire :
    let s := ringing [{ portUp with broken := some (2, 0) }, { portUp with broken := some (2, 32000000) }]
    (s.rport (0 : Fin 4)).broken = some (2, 0) ∧ usFtu 10 ≤ s.elapsed 0 ∧ (s.rport (1 : Fin 4)).broken = some (2, 32000000) ∧
    s.elapsed 32000000 < usFtu 10 := by decide

/-- A header for node `dest` with good HCRC. -/
def ringHdr (dest hops kind : Nat) (rev : Bool) : BitVec 128 :=
  ({ dest := dest, src := 2, ts := 31999900, key := 0, cls := 0, sport := 1, hops := hops, order := false, xdir := false, ydir := false,
     vc := false, rev := rev, kind := kind } : RHdr).bits
def checks (s : State) (hdr : BitVec 128) : Prop :=
  s.receives 1 = true ∧ (s.rport 1).rx = none ∧ (s.rport 1).wmRx ≤ fullOrigin (RHdr.of hdr).ts s.now ∧ headerCrc hdr = hdr.extractLsb' 0 16
def wellAddressed (s : State) (hdr : BitVec 128) : Prop :=
  ¬((RHdr.of hdr).kind = 3 ∨ hdr.getLsbD 16 = true ∨ s.dimSize 0 ≤ indexOfNode (RHdr.of hdr).dest 0 ∨ s.dimSize 1 ≤ indexOfNode (RHdr.of hdr).dest 1) ∧
  ¬(fullOrigin (RHdr.of hdr).ts s.now).toNat + s.ttl < s.nowN
set_option maxRecDepth 40000 in
theorem wit_FramesAreCheckedAtTheirSof :
    let s := ringing [portUp, portUp]
    checks s (ringHdr 1 0 0 false) ∧ wellAddressed s (ringHdr 1 0 0 false) ∧ headerCrc 1 ≠ (1 : BitVec 128).extractLsb' 0 16 ∧
    (RHdr.of (ringHdr 1 0 3 false)).kind = 3 ∧ s.dimSize 0 ≤ indexOfNode (RHdr.of (ringHdr 5 0 0 false)).dest 0 ∧
    (RHdr.of (ringHdr 0 0 0 false)).dest = s.ownNode ∧ (RHdr.of (ringHdr 1 255 0 false)).hops = 255 ∧ (RHdr.of (ringHdr 1 0 0 false)).dest ≠ s.ownNode ∧
    (let h := RHdr.of (ringHdr 1 0 0 false)
     s.skips 1 (indexOfNode h.dest 0) = false ∧ s.portDown (s.nextHop h 1).1 = false ∧ (ringing [portUp]).portDown 1 = true ∧
     (ringing [RingPort.reset, portUp]).portDown 0 = true ∧ (RHdr.of (s.nextHop h 1).2.bits).rev = false ∧ (s.nextHop h 1).1 < 2) := by
  unfold checks wellAddressed; decide

/-- A frame in progress on port 1 with handle as `fate`, and its payload of 16 bytes with its PCRC. -/
def rxFrame (hdr : BitVec 128) (fate : RxFate) : RxFrame :=
  { f := { hdr := hdr, ots := 31999900, inp := 1, out := 0, blocks := 3, inPool := 0, payload := [], trailer := none, resent := false },
    fate := fate, viol := false, arrival := 0, seq := 0, stall := none }
def payload (code : Byte) : List Byte := code :: List.replicate 15 0
set_option maxRecDepth 40000 in
theorem wit_TransitFramesEnd :
    (let s := ringing [{ portUp with retry := [{ seq := 0, f := (rxFrame 0 .forward).f }] }, { portUp with rx := some (rxFrame 0 .forward) }]
     (s.rport (1 : Fin 4)).rx = some (rxFrame 0 .forward) ∧ s.receives 1 = true ∧ (payload 0).length ≤ s.ringMtu ∧
     nsFtu (8 * s.expert ringBase (ringBase + 0x30) 31 24 64) < s.elapsed 0 ∧ (s.rport 0).retry ≠ [] ∧ (s.rport 0).link = .up) ∧
    (let good := goodTrailer (payload 0)
     good.length = 8 ∧ BitVec.ofNat 32 (beNat (good.take 4)) = crc32cOf (payload 0) ∧
     ¬(BitVec.ofNat 32 (beNat (good.take 4)) = ~~~crc32cOf (payload 0) ∨ good.getD 4 0 ≠ 0)) ∧
    (let bad : List Byte := [0, 0, 0, 1, 0, 0, 0, 0]
     BitVec.ofNat 32 (beNat (bad.take 4)) ≠ crc32cOf (payload 0) ∧ ¬(BitVec.ofNat 32 (beNat (bad.take 4)) = ~~~crc32cOf (payload 0) ∨ bad.getD 4 0 ≠ 0)) ∧
    (let stomped : List Byte := [0, 0, 0, 1, 3, 0, 0, 0]; stomped.getD 4 0 ≠ 0) := by decide
set_option maxRecDepth 40000 in
theorem wit_FramesTerminate :
    (∀ kind ∈ [0, 1, 2], (RHdr.of (rxFrame (ringHdr 0 0 kind false) .terminate).f.hdr).kind = kind) ∧
    (let good := goodTrailer (payload 1)
     BitVec.ofNat 32 (beNat (good.take 4)) = crc32cOf (payload 1) ∧ BitVec.ofNat 32 (beNat (good.take 4)) ≠ ~~~crc32cOf (payload 1) ∧
     good.getD 4 0 = 0) ∧ (payload 1).length ≤ (ringing []).ringMtu ∧
    (let s := { ringing [portUp, { portUp with rx := some (rxFrame (ringHdr 0 0 0 false) .terminate) }] with tim := (syncing .master).tim }
     s.gateOpen = true ∧ s.dev ≠ .frozen ∧ s.isDuplicate (rxFrame (ringHdr 0 0 0 false) .terminate) = false ∧ s.xoff 19 0 = false ∧
     s.isManager 2 = false ∧ s.receives 1 = true) ∧ (ringing []).gateOpen = false ∧
    ((payload 1).getD 0 0 = 1 ∧ (payload 1).getD 1 0 = 0 ∧ (payload 3).getD 0 0 ∉ ([1, 2] : List Byte)) ∧
    ({ ringing [] with regs := [(ringBase + 0x10, 0x80000002)] } : State).isManager 2 = true := by decide
theorem wit_OutputsSelectByClassAndAge :
    (let s := ringing [{ portUp with offer := some (rxFrame 0 .wait).f }]
     s.ring.answers = [] ∧ (s.rport (0 : Fin 4)).offer = some (rxFrame 0 .wait).f ∧ s.canSend 0 (rxFrame 0 .wait).f = true ∧ s.ring.waits = []) ∧
    (let s : State := { ringing [portUp] with ring := { (ringing [portUp]).ring with waits := [(rxFrame 0 .wait).f] } }
     s.ring.waits[0]? = some (rxFrame 0 .wait).f ∧ (rxFrame 0 .wait).f.out = (0 : Fin 4).val ∧ s.canSend 0 (rxFrame 0 .wait).f = true ∧
     (rxFrame 0 .wait).f.inp < 4 ∧ s.nowN ≤ (rxFrame 0 .wait).f.ots.toNat + s.ttl) := by decide
theorem wit_DiscardsAreReportedOncePerGap :
    let g := fun (t : Nat) => ({ sent := BitVec.ofNat 64 t, count := 1, report := some (2, 3, (rxFrame 0 .wait).f) } : CtrlGap)
    let s := fun (t : Nat) => ({ ringing [] with ring := { Ring.reset with gaps := [(2, g t)] } } : State)
    sfind (s 0).ring.gaps (2 : BitVec 14).toNat = some (g 0) ∧ (s 0).nowN < (g 32000000).sent.toNat + (s 0).ctrlGap ∧
    (g 0).sent.toNat + (s 0).ctrlGap ≤ (s 0).nowN ∧ (2 : BitVec 14).toNat ≠ (s 0).ownNode := by decide

theorem wit_LinksTrainAndHold :
    (let s := ringing [RingPort.reset, { RingPort.reset with refused := true }, { RingPort.reset with link := .train }, { portUp with hold := some 0 }]
     ((s.die (dimOf (0 : Fin 4))).inPlay = true ∧ (s.die 0).st = .play ∧ (s.rport 0).link = .down) ∧ (s.rport 0).refused = false ∧
     (s.rport 1).refused = true ∧ usFtu 1000 ≤ s.elapsed (s.rport 1).since ∧ (s.rport 2).link = .train ∧ usFtu 100 ≤ s.elapsed (s.rport 2).since ∧
     (s.rport 3).link = .up ∧ (s.rport 3).rx = none ∧ (s.rport 3).hold = some 0 ∧ usFtu (10 * s.fld (ringBase + 0xC) 31 16) ≤ s.elapsed 0 ∧
     s.elapsed 32000000 < usFtu (10 * s.fld (ringBase + 0xC) 31 16) ∧ (s.rport 3).retry = [] ∧ (s.rport 3).offer = none ∧ s.ring.waits = []) := by decide
set_option maxRecDepth 40000 in
theorem wit_FramesLeaveADeadLink :
    let f := (rxFrame (ringHdr 1 0 0 false) .wait).f
    f.out = (0 : Fin 4).val ∧ (ringing [RingPort.reset, portUp]).portDown 0 = true ∧ (RHdr.of f.hdr).rev = false ∧
    (ringing [RingPort.reset, portUp]).portDown (otherPort 0) = false ∧ (RHdr.of (ringHdr 1 0 0 true)).rev = true ∧
    (ringing []).portDown (otherPort 0) = true := by decide
/-- A HELLO of node 1 on its port 0, in a 4 × 4 ring: bytes 3–7. -/
def helloWord : BitVec 136 := BitVec.ofNat 136 (1 * 2 ^ 104 + 1 * 2 ^ 96 + 4 * 2 ^ 88 + 4 * 2 ^ 80)
theorem wit_HellosBringLinksUp :
    let s := ringing [{ RingPort.reset with link := .hello, helloSent := some 0 }]
    (s.rport (0 : Fin 4)).link = .hello ∧ (s.die 0).st = .play ∧ (s.rport 0).helloSent.isSome = true ∧ (s.rport 0).retry = [] ∧
    s.ring.waits = [] ∧ (s.rport 0).heldBack = [] ∧ wordBytes helloWord 1 2 = s.systemId ∧ wordBytes (helloWord + 1 <<< 120) 1 2 ≠ s.systemId ∧
    (wordByte helloWord 6 = s.dimSize 0 ∧ wordByte helloWord 7 = s.dimSize 1) ∧ (parseHello helloWord).port = otherPort 0 ∧
    (parseHello helloWord).node ≠ s.ownNode ∧ indexOfNode (parseHello helloWord).node 0 < s.dimSize 0 ∧
    indexOfNode (parseHello helloWord).node 1 = s.ownIndex 1 ∧ (parseHello helloWord).joining = false ∧
    ringDist (s.dimSize 0) (indexOfNode (parseHello helloWord).node 0) (s.ownIndex 0) ≤ 3 ∧ (s.rport 0).hello = none := by decide
def dies (v : Bypass) : State := { ringing [] with ring := { Ring.reset with dims := [v, Bypass.new] } }
theorem wit_BypassDiesSpliceAndPass :
    (let v : Bypass := { Bypass.new with st := .join, moving := some true }
     ((dies v).die (0 : Fin 2)).moving = some true ∧ v.count + 1 < 95000000 ∧ (dies v).spliceLimit ≤ (dies v).elapsed v.since) ∧
    95000000 ≤ ({ Bypass.new with count := 94999999 } : Bypass).count + 1 ∧ Bypass.new.moving = none ∧
    ((dies { Bypass.new with st := .leave }).die (0 : Fin 2)).st = .leave ∧ (dies Bypass.new).drained (2 * (0 : Fin 2)) = true ∧
    (ringing [portUp]).drained (2 * (0 : Fin 2)) = false := by decide
theorem wit_RingCommandsActOnTheDies :
    (dies Bypass.new).answers .board = true ∧ Path.manages .board ∧ (dies Bypass.new).variant.hasRing = true ∧ ((dies Bypass.new).die (0 : Fin 2)).st = .pass ∧
    (dies Bypass.new).dev = .run ∧ 2 ≤ (dies Bypass.new).dimSize 0 ∧ (run []).dimSize (0 : Fin 2) < 2 ∧ ((ringing []).die (0 : Fin 2)).st = .play ∧
    ((ringing []).rport (2 * (0 : Fin 2))).link ≠ .up ∧ ((ringing [portUp, portUp]).rport (2 * (0 : Fin 2))).link = .up ∧
    ((ringing [portUp, portUp]).rport (2 * (0 : Fin 2) + 1)).link = .up := ⟨by decide, trivial, by decide⟩

/-! ### Witnesses: the host queue engine -/

/-- Function 0, ACTIVE, as `f`, with these rings and completion rings; its link is up, fabric time is 2 ms. -/
def hosting (f : HqeFn) (rings : SMap HRing) (cqs : SMap Cq) : State :=
  at_ 32000000 { run [] with
    hqe := { Hqe.reset with portsFixed := true, fns := [(0, { f with active := true })], rings := rings, cqs := cqs }
    pwr := { Pwr.reset with perst0 := false }
    tim := { Tim.reset with st := .master }
    mgt := { Mgt.reset with boot := { headerRead := true, firmware := true, fallback := false } } }
/-- Function 0 with a command ring 0 and the rings `v` at 1 and completion ring 0. -/
def hosts (v : HRing) : State :=
  hosting HqeFn.reset [(0, HRing.new .cmd 0 0 0x1000 0), (1, v)] [(0, Cq.new 0 0x2000 1 false 1 0)]
def desc0 : Desc := { w0 := 0, w1 := 0, w2 := 0, w3 := 0, w4 := 0, w5 := 0, w6 := 0, w7 := 0 }
def fetched (d : Desc) : HDesc := { d := d, idx := 0, stamp := 5, solicit := false }
set_option maxRecDepth 40000 in
theorem wit_PollsFindDoorbells :
    (let s := hosts (HRing.new .tx 0 0 0x3000 0)
     s.pollDue (0 : Fin 1028) = true ∧ nsFtu s.pollGap ≤ s.elapsed s.hqe.lastPoll ∧ s.pollTurn (0 : Fin 1028) = true ∧ (s.fn 0).bitmap = false ∧
     s.activeRings 0 = [0, 1] ∧ s.hqeRuns 0 = true) ∧
    (hosting { HqeFn.reset with ctrl := 2, atomic := true } [] []).fn 0 ≠ HqeFn.reset ∧
    ((hosting { HqeFn.reset with ctrl := 2, atomic := true } [] []).fn 0).bitmap = true ∧
    (let s := hosting { HqeFn.reset with p := { Poll.none with active := true, line := true, swaps := [] } } [] []
     s.hqeRuns (0 : Fin 1028) = true ∧ (s.fn 0).p.line = true ∧ s.pollDue 0 = false ∧
     (List.range 8).filter (fun i => (1 : BitVec 512).extractLsb' (64 * i) 64 != 0) = [0] ∧ (s.fn 0).p.records = []) ∧
    (let s := hosting { HqeFn.reset with p := { Poll.none with active := true, swaps := [3, 8] } } [] []
     (3 : BitVec 11).toNat ∈ (s.fn 0).p.swaps ∧ (8 : BitVec 11).toNat ∈ (s.fn 0).p.swaps ∧
     (List.range 64).filter (fun i => (1 : BitVec 64).getLsbD i) ≠ []) ∧ (run []).hqeRuns 0 = false := by decide
def polling (records : List Nat) (v : HRing) : State :=
  hosting { HqeFn.reset with p := { Poll.none with active := true, records := records } } [(1, v)] [(0, Cq.new 0 0x2000 1 false 1 0)]
theorem wit_DoorbellsAreChecked :
    (let s := polling [1, 2] (HRing.new .tx 0 0 0x3000 7)
     s.hqeRuns (0 : Fin 1028) = true ∧ (1 : BitVec 16).toNat ∈ (s.fn 0).p.records ∧ (3 : BitVec 16).toNat ∉ (s.fn 0).p.records ∧
     (s.fn 0).p.records.erase 1 ≠ [] ∧ s.hring 0 2 = none ∧ s.hring 0 1 = some (HRing.new .tx 0 0 0x3000 7)) ∧
    (let v := HRing.new .tx 0 0 0x3000 7
     (let r : BitVec 64 := 7 <<< 32 ||| 64
      r.toNat / 2 ^ 32 % 65536 = v.gen ∧ r.toNat / 2 ^ 49 = 0 ∧ (r.toNat % 2 ^ 32 + 2 ^ 32 - v.ci) % 2 ^ 32 ≤ 64 * 2 ^ v.sizeCode) ∧
     (let r : BitVec 64 := 7 <<< 32 ||| 65; 64 * 2 ^ v.sizeCode < (r.toNat % 2 ^ 32 + 2 ^ 32 - v.ci) % 2 ^ 32) ∧
     (let r : BitVec 64 := 1 <<< 49 ||| 7 <<< 32; r.toNat / 2 ^ 49 ≠ 0 ∧ r.toNat / 2 ^ 32 % 65536 = v.gen) ∧ v.fault = false ∧ v.dying = none) ∧
    (((polling [9] (HRing.new .tx 0 0 0 0)).fn 0).p = { Poll.none with active := true, records := [9] }) := by decide
set_option maxRecDepth 40000 in
theorem wit_DescriptorsAreFetchedInOrder :
    let v : HRing := { HRing.new .tx 0 0 0x3000 0 with pi := 1 }
    let s := hosts v
    s.hring (0 : Fin 1028) (1 : BitVec 16).toNat = some v ∧ v.fault = false ∧ v.dying = none ∧ s.hqeRuns 0 = true ∧
    (s.hcq 0 v.cq).map (·.full) = some false ∧ s.gateOpen = true ∧ s.xoff (s.hostInput 0) v.prio = false ∧ [desc0].length ≤ s.fetchMax ∧
    [desc0].length ≤ (v.pi + 2 ^ 32 - v.ci) % 2 ^ 32 ∧ (v.pi + 2 ^ 32 - v.ci) % 2 ^ 32 < [desc0, desc0].length ∧ v.ci < 2 ^ 32 := by decide
/-- A whole frame of 60 bytes in one TX_SEG: SOP and EOP. -/
def seg : Desc := { desc0 with w0 := 0x003C0301, w4 := 60 }
set_option maxRecDepth 40000 in
theorem wit_FramesAreTransmitted :
    (let v : HRing := { HRing.new .tx 0 0 0x3000 0 with fetched := [fetched seg] }
     (hosts v).hring (0 : Fin 1028) (1 : BitVec 16).toNat = some v ∧ v.typ = .tx ∧ (hosts v).hqeRuns 0 = true ∧ bits seg.w0 7 0 = 0x01 ∧
     bitAt seg.w0 9 = true ∧ bits desc0.w0 7 0 ≠ 0x01 ∧
     (let f := addSegment (fetched seg) v.frame; f.bad = false ∧ f.segs ≤ 16 ∧ f.total = f.frameLen) ∧
     (addSegment (fetched { seg with w4 := 61 }) v.frame).total ≠ (addSegment (fetched { seg with w4 := 61 }) v.frame).frameLen ∧
     bitAt (0x003C0101 : Word) 9 = false) ∧
    (let f := addSegment (fetched seg) none
     let v : HRing := { HRing.new .tx 0 0 0x3000 0 with reads := [f] }
     v.reads = [f] ∧ (List.replicate 60 (0 : Byte)).length = f.frameLen ∧ (admitPacket (hosts v) Pkt.none 0 (List.replicate 60 0)).2 = none) := by decide
theorem wit_CopiesAreDelivered :
    let d : Desc := { desc0 with w0 := 0x10, w4 := 2048 }
    let v : HRing := { HRing.new .rx 0 0 0x3000 0 with fetched := [fetched d] }
    (hosts v).hring (0 : Fin 1028) (1 : BitVec 16).toNat = some v ∧ v.typ = .rx ∧ v.dying = none ∧ (hosts v).hqeRuns 0 = true ∧
    bits d.w0 7 0 = 0x10 ∧ (bits d.w0 31 8 = 0 ∧ 64 ≤ d.w4.toNat ∧ d.w4.toNat ≤ 16384 ∧ d.w5 = 0 ∧ d.w6 = 0 ∧ d.w7 = 0) ∧
    bits seg.w0 7 0 ≠ 0x10 ∧ ¬(64 ≤ (63 : Word).toNat) := by decide
/-- A HOST copy for ring 1 of function 0. -/
def hostCopy : SwtCopy := { copy with out := BitVec.ofNat 64 (2 * 2 ^ 16 + 1) }
def buf (n : Nat) : RxBuf := { cookie := 0, addr := 0x4000, len := n, idx := 0, solicit := false }
def hostDelivers (v : HRing) : State :=
  { hosts v with swt := { Swt.reset with rels := [(3, { r := release, todo := [], live := 1 })], outs := [(16, { SwtOut.reset with tx := some hostCopy })] } }
theorem wit_HostCopiesWaitOrGo :
    (let v : HRing := { HRing.new .rx 0 0 0x3000 0 with posted := [buf 64] }
     let s := hostDelivers v
     (s.swtOut (16 : Fin 22)).tx = some hostCopy ∧ outDtype hostCopy.out = 2 ∧ s.ringOwner (outDest hostCopy.out) = (0, 1) ∧
     s.hring 0 1 = some v ∧ v.fault = false ∧ v.dying = none ∧ (s.fn 0).flrBusy = false ∧ buffersFor hostCopy.len v.posted = some 1 ∧
     (s.hcq 0 v.cq).map (·.noRoom) = some false ∧ (sfind s.swt.rels hostCopy.rel).isSome = true) ∧
    (hostDelivers (HRing.new .rx 0 0 0 0)).hring 0 2 = none ∧
    buffersFor 60 [] = none ∧ buffersFor 60 (List.replicate 8 (buf 7)) = none ∧ buffersFor 60 (List.replicate 9 (buf 7)) = some 9 ∧
    8 ≤ (List.replicate 8 (buf 7)).length := by decide
theorem wit_CompletionRingsFillAndSignal :
    let e : Completion := { d := desc0, solicit := false }
    let c := Cq.new 0 0x2000 1 true 1 10
    let full : Cq := { c with pi := 64, full := true }
    (hosts (HRing.new .tx 0 0 0 0)).hcq (0 : Fin 1028) (0 : BitVec 16).toNat = some (Cq.new 0 0x2000 1 false 1 0) ∧ c.waiting = [] ∧
    c.used < 64 * 2 ^ c.sizeCode ∧ (hosts (HRing.new .tx 0 0 0 0)).dev ≠ .frozen ∧ c.irq = true ∧ c.modCnt ≤ c.unsignalled + 1 ∧
    (Cq.new 0 0x2000 1 false 1 0).irq = false ∧ 64 * 2 ^ full.sizeCode ≤ full.used ∧ full.noRoom = true ∧ c.noRoom = false ∧
    ({ full with waiting := [e] } : Cq).waiting ≠ [] ∧ (hosts (HRing.new .tx 0 0 0 0)).hqeRuns 0 = true ∧ c.modTime ≠ 0 ∧
    ({ c with unsignalled := 1 } : Cq).unsignalled ≠ 0 ∧ nsFtu (100 * c.modTime) ≤ (hosts (HRing.new .tx 0 0 0 0)).elapsed c.first := by decide

theorem wit_FunctionsAreEnabledAndDisabled :
    (let s := hosting HqeFn.reset [] []
     s.answers .board = true ∧ (0 : Fin 1028).val < 4 ∧ s.pfPresent 0 = true ∧ bitAt (s.fn 0).ctrl 0 = false ∧ bitAt (1 : Word) 0 = true ∧
     s.ringsHeld 0 ≠ 0 ∧ s.cqsHeld 0 ≠ 0 ∧ s.ringsHeld 4 = 0) ∧
    (let s := hosting { HqeFn.reset with ctrl := 1 } [] []
     bitAt (s.fn 0).ctrl 0 = true ∧ bitAt (0 : Word) 1 = bitAt (s.fn 0).ctrl 1 ∧ bitAt (2 : Word) 1 ≠ bitAt (s.fn 0).ctrl 1) := by decide
theorem wit_ConfigurationSpaceAndReset :
    (hosting HqeFn.reset [] []).fnUp (0 : Fin 1028) = true ∧ (0 : Fin 1028).val < 4 ∧
    (let s := hosting { HqeFn.reset with vfEnable := true } [] []
     s.fnUp (4 : Fin 1028) = true ∧ 4 ≤ (4 : Fin 1028).val) ∧ (63 : BitVec 11).toNat < 64 := by decide
def eventRing : EventRing := { base := 0x5000, records := 64, irq := true, vector := 2, dirty := true, holdoff := 5 }
theorem wit_EventRingsSignal :
    let s : State := { hosting HqeFn.reset [] [] with events := { EventLog.reset with rings := [(0, eventRing)] } }
    sfind s.events.rings (0 : Fin 4) = some eventRing ∧ eventRing.irq = true ∧ eventRing.dirty = true ∧ eventRing.holdoff ≤ s.now ∧ s.dev ≠ .frozen ∧
    s.now < ({ eventRing with holdoff := 40000000 } : EventRing).holdoff := by decide
/-- A stream of no units, every 1 ms. -/
def stream : Stream :=
  { fn := 0, units := 0, slots := 2, period := 1000, addr := 0x6000, clsFirst := 0, clsCount := 0, qFirst := 0, qCount := 0, cq := 0, gen := 0,
    last := 0, requests := [], taken := none }
theorem wit_SnapshotsAreTakenAndDelivered :
    (let s : State := { hosts (HRing.new .tx 0 0 0 0) with hqe := { (hosts (HRing.new .tx 0 0 0 0)).hqe with streams := [(3, stream)] } }
     sfind s.hqe.streams (3 : BitVec 8).toNat = some stream ∧ stream.taken = none ∧ stream.requests = [] ∧ stream.period ≠ 0 ∧
     stream.last.toNat < s.nowN / (16000 * stream.period) * (16000 * stream.period) ∧ (5 : Time) ≤ s.now ∧ stream.units = 0 ∧
     s.hqeRuns stream.fn = true ∧ (s.hcq stream.fn stream.cq).map (·.full) = some false) ∧
    ({ stream with taken := some (0, 0, []) } : Stream).taken.isSome = true ∧ (run []).hqeRuns stream.fn = false := by decide

/-! ### Witnesses: commands -/

/-- A descriptor of opcode `op` with these operands. -/
def cmd (op : Nat) (w2 w3 w4 w6 : Word) : Desc := { desc0 with w0 := BitVec.ofNat 32 (op * 65536 + 0x20), w2 := w2, w3 := w3, w4 := w4, w6 := w6 }
/-- The port of function 0's command ring, and the board's. -/
def port0 : CmdPort := .ring 0 0 0 false
def board0 : CmdPort := .board 0
def base : State := hosting HqeFn.reset [] [(0, Cq.new 0 0x2000 1 false 1 0)]
theorem accepts_of {s : State} {p : CmdPort} {d : Desc} {op : Nat} (a : opcodeOf d = op) (b : s.serves p = true) (c : commandRefusal s p d = none) :
    s.accepts p d op := ⟨a, b, c⟩
theorem wit_CommandsAreCheckedInOrder :
    CommandRow port0 (cmd 0x0300 0 0 0 0) [] true 0x0300 (.lockAcquire port0 (cmd 0x0300 0 0 0 0)) [.host, .tenant] ∧
    opcodeOf (cmd 0x0300 0 0 0 0) = 0x0300 ∧ base.serves port0 = true ∧ (run []).serves port0 = false ∧ authorityOf port0 ∈ [Authority.host, .tenant] ∧
    authorityOf board0 ∉ [Authority.host, .tenant] ∧ ({ base with dev := .frozen } : State).serves board0 = true ∧
    bits ({ cmd 0x0300 0 0 0 0 with w0 := 0x03000220 } : Desc).w0 15 9 ≠ 0 ∧ bits (cmd 0x0300 0 0 0 0).w0 15 9 = 0 := by
  refine ⟨by simp [CommandRow], by decide⟩
theorem wit_CompletionsGoToTheirPorts :
    (CmdResult.of 0x0C).status ≠ 6 ∧ (hosts (HRing.new .cmd 0 0 0 0)).hring (0 : Fin 1028).val (1 : BitVec 16).toNat = some (HRing.new .cmd 0 0 0 0) ∧
    base.hring (0 : Fin 1028).val (1 : BitVec 16).toNat = none := by decide
theorem wit_CommandDescriptorsAreRun :
    (let d := cmd 0x0581 0 0 0 0
     let v : HRing := { HRing.new .cmd 0 0 0x3000 0 with fetched := [fetched d] }
     let s := hosts v
     s.hring (0 : Fin 1028) (1 : BitVec 16).toNat = some v ∧ v.typ = .cmd ∧ v.dying = none ∧ v.fetched = [fetched d] ∧ s.hqeRuns 0 = true ∧
     bitAt d.w0 8 = false ∧ bits d.w0 7 0 = 0x20 ∧ v.core = false ∧ s.serves port0 = true ∧ bits d.w0 15 9 = 0 ∧
     operandsOf d = [0, 0, 0, 0, 0, 0] ∧ opcodeOf d = 0x0581 ∧ commandRefusal s port0 (cmd 0x0599 0 0 0 0) = some 1) ∧
    (let d : Desc := { cmd 1 0 0 0 0 with w0 := 0x00010120 }
     bitAt d.w0 8 = true ∧ ({ HRing.new .cmd 0 0 0 0 with items := [(0, 0, false)] } : HRing).items ≠ []) ∧
    (let item := [BitVec.ofNat 32 3] ++ List.replicate 15 (0 : Word)
     (hosts (HRing.new .cmd 0 0 0 0)).submitStatus item true = 2 ∧
     (let s : State := { dealing Dlr.reset with mgt := base.mgt }
      s.submitStatus item true = 0 ∧ s.submitRoom item true = true) ∧
     ({ dealing Dlr.reset with regs := [(dlrBase + 0x100, 1)] } : State).submitStatus item true = 3) := by decide

theorem wit_RingsAreCreatedAndDestroyed :
    base.accepts port0 (cmd 0x0001 0x00000005 0 0x1000 0) 0x0001 ∧ base.accepts port0 (cmd 0x0002 5 0x1000 0x1000 0) 0x0002 ∧
    base.accepts port0 (cmd 0x0003 0x00010000 0 0 0) 0x0003 ∧
    (base.ringInRange 0 5 = true ∧ base.cqInRange 0 0 = true ∧ base.hring 0 5 = none ∧ base.hcq 0 0 ≠ none ∧ base.hcq 0 5 = none ∧
     base.ringInRange 0 0x8000 = false ∧ base.cqNamed 0 0 = false ∧ (hosts (HRing.new .tx 0 0 0 0)).cqNamed 0 0 = true ∧
     (let v := HRing.new .tx 0 0 0 0
      (hosts v).hring 0 1 = some v ∧ v.dying = none ∧ v.fetched = [] ∧ v.reads = [] ∧ v.items = [])) := by
  refine ⟨accepts_of ?_ ?_ ?_, accepts_of ?_ ?_ ?_, accepts_of ?_ ?_ ?_, ?_⟩ <;> decide
theorem wit_TenantsGetRanges :
    base.accepts port0 (cmd 0x0004 3 0x00040010 0x00040010 0) 0x0004 ∧ ¬(base.totalVfs 0 ≤ 3) ∧ base.totalVfs 0 ≤ 512 ∧
    (∀ e ∈ base.hqe.fns, ¬4 ≤ e.1) ∧ bitAt (base.fn (base.vfBase 0 + 3)).ctrl 0 = false ∧ 64 < bits (65 : Word) 6 0 ∧
    bitAt ((hosting HqeFn.reset [] []).setFn 7 { HqeFn.reset with ctrl := 1 } |>.fn (base.vfBase 0 + 3)).ctrl 0 = true := by
  refine ⟨accepts_of ?_ ?_ ?_, ?_⟩ <;> decide
/-- The descriptor of a stream of no units with two slots. -/
def streamBytes : List Byte := [0, 0, 2] ++ List.replicate 29 0
theorem wit_StreamsAreCreatedAndDestroyed :
    base.accepts port0 (cmd 0x0005 3 0 0 0) 0x0005 ∧ base.accepts port0 (cmd 0x0006 3 0 32032000 0) 0x0006 ∧
    base.accepts port0 (cmd 0x0007 3 0 0 0) 0x0007 ∧
    (base.hqe.streams.length < 64 ∧ sfind base.hqe.streams 3 = none ∧ 32 ≤ streamBytes.length ∧
     streamOk (streamBytes.take 32) (streamOf base 0 (streamBytes.take 32)) = true ∧ streamOk (List.replicate 32 0) (streamOf base 0 (List.replicate 32 0)) = false ∧
     (streamOf base 0 streamBytes).units.testBit 1 = false ∧ base.cqInRange 0 (streamOf base 0 streamBytes).cq = true ∧
     wideOf (cmd 0x0006 3 0 32031999 0) < base.nowN + usFtu 2 ∧ base.nowN + usFtu 2 ≤ wideOf (cmd 0x0006 3 0 32032000 0)) := by
  refine ⟨accepts_of ?_ ?_ ?_, accepts_of ?_ ?_ ?_, accepts_of ?_ ?_ ?_, ?_⟩ <;> decide
/-- 16,384 lines and two meters. -/
def tables : State := { base with regs := [(clsBase + 0x10, 1), (swtBase + 0x14, 2)] }
theorem wit_ClassifierCommands :
    tables.accepts port0 (cmd 0x0100 0x00010000 0 0 0) 0x0100 ∧ tables.accepts port0 (cmd 0x0101 9 0 0 0) 0x0101 ∧
    tables.accepts port0 (cmd 0x0102 9 0 0 0) 0x0102 ∧ tables.accepts port0 (cmd 0x0103 9 0 0 0) 0x0103 ∧ tables.accepts port0 (cmd 0x0200 1 0 0 0) 0x0200 ∧
    (authorityOf port0 = .host ∧ authorityOf (.ring 4 0 0 false) = .tenant ∧ 0 + 1 ≤ tables.clsLines ∧
     lineCheck tables port0 0 (List.replicate 64 0) = 0 ∧ lineCheck tables port0 0 ([0, 0, 0, 0xF0] ++ List.replicate 60 0) ≠ 0 ∧
     tables.cls.staged = none ∧ ({ tables with dev := .swap } : State).dev = .swap ∧ tables.slot 0 = FixSlot.empty ∧ tables.meterCount = 2 ∧
     meterOk (leBytes 4 0x80000000 ++ List.replicate 8 0 ++ leBytes 4 100 ++ List.replicate 48 0) = true ∧ meterOk (List.replicate 64 0) = false) := by
  refine ⟨accepts_of ?_ ?_ ?_, accepts_of ?_ ?_ ?_, accepts_of ?_ ?_ ?_, accepts_of ?_ ?_ ?_, accepts_of ?_ ?_ ?_, ?_⟩ <;> decide
theorem wit_LockCommands :
    base.accepts port0 (cmd 0x0300 5 0 0 0) 0x0300 ∧ base.accepts port0 (cmd 0x0301 5 0 0 0) 0x0301 ∧
    base.accepts port0 (cmd 0x0302 5 0 0 0) 0x0302 ∧ base.accepts port0 (cmd 0x0303 5 0 0 0) 0x0303 ∧
    (sfind base.lck.locks 5 = none ∧ (base.portRequester port0, 5) ∉ base.lck.unclaimed ∧ (sget SemSt.empty base.lck.sems 5).count = 0 ∧
     base.configClass 5 = false ∧
     (let l : LockSt := { holder := base.portRequester port0, waiters := [] }
      let s : State := { base with lck := { Lck.reset with locks := [(5, l)], sems := [(5, { count := 2, waiters := [] })] } }
      sfind s.lck.locks 5 = some l ∧ l.holder = s.portRequester port0 ∧ l.holder ≠ s.portRequester board0 ∧ l.waiters = [] ∧
      (sget SemSt.empty s.lck.sems 5).count ≠ 0)) := by
  refine ⟨accepts_of ?_ ?_ ?_, accepts_of ?_ ?_ ?_, accepts_of ?_ ?_ ?_, accepts_of ?_ ?_ ?_, ?_⟩ <;> decide
theorem wit_RingOpCommand :
    base.accepts board0 (cmd 0x0400 1 0 0 0) 0x0400 ∧ base.variant.hasRing = true ∧ ({ base with variant := .fe } : State).variant.hasRing = false := by
  refine ⟨accepts_of ?_ ?_ ?_, ?_⟩ <;> decide
def switchTo (t : Nat) : PendingSwitch := { profile := 2, time := BitVec.ofNat 64 t, image := [] }
theorem wit_ProfileCommands :
    base.accepts board0 (cmd 0x0500 2 0 0 0) 0x0500 ∧ base.accepts board0 (cmd 0x0501 0 0 0 0) 0x0501 ∧
    base.accepts board0 (cmd 0x0502 0 0 0 0) 0x0502 ∧
    (base.dev = .run ∧ State.reset.dev ≠ .idle ∧ State.reset.dev ≠ .run ∧ base.mgt.switch = none ∧
     (∃ x, ({ base with mgt := { base.mgt with switch := some (switchTo 5) } } : State).mgt.switch = some x)) := by
  refine ⟨accepts_of ?_ ?_ ?_, accepts_of ?_ ?_ ?_, accepts_of ?_ ?_ ?_, by decide, by decide, by decide, by decide, ⟨_, rfl⟩⟩ <;> decide
theorem wit_NegativeCommands :
    base.accepts board0 (cmd 0x0510 1 64 0 64) 0x0510 ∧ base.accepts board0 (cmd 0x0511 1 0 0 0) 0x0511 ∧
    (base.variant.hasStack 1 = true ∧ ({ base with variant := .fh } : State).variant.hasStack 3 = false ∧ ¬(64 % 64 ≠ 0 ∨ 65536 < 64 + 64) ∧
     65 % 64 ≠ 0 ∧ authorityOf port0 = .host ∧ authorityOf board0 ≠ .host ∧ (base.hbmCtl 1).negBusy = none) := by
  refine ⟨accepts_of ?_ ?_ ?_, accepts_of ?_ ?_ ?_, ?_⟩ <;> decide
theorem wit_EventCommands :
    base.accepts port0 (cmd 0x0520 0 0 0x1000 0) 0x0520 ∧ base.accepts port0 (cmd 0x0521 0 0 0 256) 0x0521 ∧
    base.accepts board0 (cmd 0x0521 0 0 0 32) 0x0521 ∧ (wideOf (cmd 0x0520 0 0 0x1000 0) % 4096 = 0 ∧ wideOf (cmd 0x0520 0 0 0x1000 0) ≠ 0 ∧
     wideOf (cmd 0x0520 0 0 0x1001 0) % 4096 ≠ 0 ∧ wideOf (cmd 0x0520 0 0 0 0) = 0 ∧ 1024 < 32 * 33) := by
  refine ⟨accepts_of ?_ ?_ ?_, accepts_of ?_ ?_ ?_, accepts_of ?_ ?_ ?_, ?_⟩ <;> decide
theorem wit_DeviceCommands :
    base.accepts board0 (cmd 0x0540 16 2 0 0) 0x0540 ∧ base.accepts board0 (cmd 0x0541 0x407 0 0 0) 0x0541 ∧
    base.accepts board0 (cmd 0x0550 1089 0 0 0) 0x0550 ∧ base.accepts board0 (cmd 0x0560 5 0 0 0) 0x0560 ∧
    base.accepts board0 (cmd 0x0570 0x40 0 0 0) 0x0570 ∧ base.accepts board0 (cmd 0x0571 0x40 5 0 0) 0x0571 ∧
    base.accepts board0 (cmd 0x0580 1 0 0 0) 0x0580 ∧ base.accepts board0 (cmd 0x0581 0 0 0 0) 0x0581 ∧
    (bits (2 : Word) 1 0 ≠ 3 ∧ bits (16 : Word) 4 0 ≤ 16 ∧ bitAt (0x407 : Word) 10 = true ∧ bits (0x407 : Word) 9 0 < 8 ∧ base.trays.reclaim = none ∧
     base.follower = false ∧ (syncing .locked).follower = true ∧ bitAt (1 : Word) 0 = true ∧ base.mgt.warmAt = none) := by
  refine ⟨accepts_of ?_ ?_ ?_, accepts_of ?_ ?_ ?_, accepts_of ?_ ?_ ?_, accepts_of ?_ ?_ ?_, accepts_of ?_ ?_ ?_, accepts_of ?_ ?_ ?_,
    accepts_of ?_ ?_ ?_, accepts_of ?_ ?_ ?_, ?_⟩ <;> decide

/-! ### Witnesses: Contact Sheet, profile switch, board services -/

def sheet (c : Csh) (r : SMap Word) : State := { base with csh := c, regs := r }
theorem wit_CaptureStartsAndStops :
    base.accepts board0 (cmd 0x0530 0 0 0 0) 0x0530 ∧ base.accepts board0 (cmd 0x0531 0 0 5 0) 0x0531 ∧
    (base.csh.st = .idle ∧ (let s := sheet { Csh.reset with st := .armed, startT := some 5, stopT := some 5 } []
      s.csh.startT = some 5 ∧ s.csh.st = .armed ∧ 5 ≤ s.now ∧ s.csh.stopT = some 5 ∧ s.now < 40000000) ∧
     (sheet { Csh.reset with st := .recording } [(cshBase, 3)]).fld cshBase 15 0 ≠ 0 ∧ (sheet { Csh.reset with st := .recording } []).fld cshBase 15 0 = 0 ∧
     wideOf (cmd 0x0531 0 0 5 0) ≠ 0 ∧ wideOf (cmd 0x0531 0 0 0 0) = 0) := by
  refine ⟨accepts_of ?_ ?_ ?_, accepts_of ?_ ?_ ?_, ?_⟩ <;> decide
def mark : CshRec := CshRec.plain 6 0 [1, 2, 3, 4, 0]
theorem wit_RecordsAreWrittenInOrder :
    let s := sheet { Csh.reset with st := .recording, offers := [mark] } [(cshBase + 0x10, 1)]
    s.csh.offers = [mark] ∧ s.dev ≠ .reset ∧ s.csh.gap = 0 ∧ s.csh.rateSince ≤ s.now ∧ s.csh.wrptr + 64 < s.cshSize ∧
    48 + 16 * ((mark.body.length + 15) / 16) = 64 ∧ s.csh.st = .recording ∧ (sheet { Csh.reset with offers := [mark] } []).cshSize = 0 ∧
    s.now < ({ Csh.reset with rateSince := 40000000 } : Csh).rateSince := by decide
theorem wit_CaptureCommands :
    base.accepts board0 (cmd 0x0532 7 0 0 0) 0x0532 ∧ base.accepts port0 (cmd 0x0533 16 0 0 32) 0x0533 ∧
    ((sheet { Csh.reset with st := .recording } []).csh.st = .recording ∧ base.csh.st ≠ .recording ∧ base.csh.st ≠ .post ∧
     16 % 16 = 0 ∧ 32 % 16 = 0 ∧ 16 + 32 ≤ (sheet Csh.reset [(cshBase + 0x10, 1)]).cshSize ∧ base.cshSize < 16 + 32 ∧
     (hbmRead (sheet Csh.reset [(cshBase + 0x10, 1)]) ((sheet Csh.reset [(cshBase + 0x10, 1)]).cshRegion + 16) 32).2.isSome = true) := by
  refine ⟨accepts_of ?_ ?_ ?_, accepts_of ?_ ?_ ?_, ?_⟩ <;> decide
def swapping (x : SwapStep) : State :=
  { base with dev := .swap, mgt := { base.mgt with swap := some { sw := switchTo 5, step := x, killed := 0 } } }
theorem wit_ProfileSwitch :
    (let s : State := { base with mgt := { base.mgt with switch := some (switchTo 5) } }
     s.mgt.switch = some (switchTo 5) ∧ (switchTo 5).time ≤ s.now ∧ s.now < (switchTo 40000000).time ∧ s.dev = .run) ∧ base.mgt.switch = none ∧
    (swapping .drain).dev = .swap ∧ (switchTo 5).time.toNat + usFtu ((swapping .drain).fld mgtBase 15 0) ≤ (swapping .drain).nowN ∧
    (swapping .drain).drainDone = true ∧ (swapping .fixer).fix.entries = [] ∧ (swapping .fixer).fix.reports = [] ∧ base.dev ≠ .swap := by decide
theorem wit_BoardCommandsAreRun :
    (List.replicate 32 (0 : Byte)).length = 32 ∧ base.serves (.board 5) = true ∧ State.reset.serves (.board 5) = false ∧ (0 : Byte) ≠ 1 ∧
    ([0x7E, 0x1F, 0x9B] : List Byte).take 3 ≠ [0x7E, 0x1F, 0x9A] := by decide
theorem wit_ControlRequestsAreAnswered :
    base.dev ≠ .reset ∧ (0x80 : Byte).getLsbD 7 = true ∧ (0 : Byte).toNat % 4 < 2 ∧ (8 : Byte) ≠ 0 ∧ (8 : Byte) ≠ 0xFF ∧ 2 ≤ (2 : Byte).toNat % 4 ∧
    7 ≤ (7 : Byte).toNat := by decide
theorem wit_SensorsAreReadOverPldm :
    base.dev ≠ .reset ∧ base.mgt.boot.firmware = true ∧ base.mgt.sensors[7 - 1]? = some 0 ∧ base.mgt.sensors.length < 8 ∧
    State.reset.mgt.boot.firmware = false ∧ (1 : Byte).toNat % 64 ≠ 0 ∧ (1 : Byte).toNat % 64 ≠ 2 ∧ (1 : Byte).toNat % 64 ≠ 5 := by decide
/-- The smallest firmware: a header and one byte. -/
def firmware : List Byte := [0x41, 0x4C, 0x46, 0x57, 1, 0, 0, 0, 1] ++ List.replicate 248 0
set_option maxRecDepth 40000 in
theorem wit_UpdatesFillTheFlash :
    base.dev ≠ .reset ∧ swf 0xFF base.mems.flash = true ∧ firmwareOk firmware = true ∧ firmwareOk [] = false ∧ 0x10 ≤ (0x13 : BitVec 16).toNat ∧
    (0x13 : BitVec 16).toNat ≤ 0x13 ∧ 0x13 < (0x14 : BitVec 16).toNat := by decide

/-! ### Witnesses: HBM, and the rules for the whole device -/

def hentry (op : HbmOp) (arrival : Nat) : HbmEntry :=
  { addr := 0, port := 1, req := 0, op := op, len := 64, data := List.replicate 64 0, arrival := BitVec.ofNat 64 arrival, late := true,
    trumped := false, issued := false }
/-- Controller 0 as `v`; AGE_LIMIT is 10 µs, TARGET of port 1 is 1 µs, and the scrub is on. -/
def stacked (v : HbmCtl) : State := at_ 32000000 { run [(hbmBase, 0x000A0080), (hbmBase + 0x104, 1000)] with hbm := { Hbm.reset with ctls := lset Hbm.reset.ctls 0 v } }
def active (es : List HbmEntry) : HbmCtl := { HbmCtl.reset with st := .active, trained := true, entries := es }
theorem wit_RequestsReachTheirController :
    (let s := stacked (active [hentry .read 0])
     (s.hbmCtl (0 : Fin 4)).st = .active ∧ 0 < 0x3000000000 ∧ (hbmDecode 0).stack = (0 : Fin 4).val ∧ (1 : Fin 8).val ≠ 7 ∧ 1 ≤ (64 : BitVec 7).toNat ∧
     0 % 64 + (64 : BitVec 7).toNat ≤ 64 ∧ ((s.hbmCtl 0).entries.filter fun x => x.reads == true).length < 1024 ∧
     ((s.hbmCtl 0).entries.filter fun x => x.port == 1).length < 256 ∧ (s.hbmCtl 0).entries[(0 : BitVec 11).toNat]? = some (hentry .read 0) ∧
     (hentry .read 0).late = true ∧ usFtu (s.fld hbmBase 23 16) ≤ s.elapsed (hentry .read 0).arrival ∧
     s.elapsed (hentry .read 32000000).arrival < usFtu (s.fld hbmBase 23 16)) ∧
    ((stacked { HbmCtl.reset with st := .frozen }).hbmCtl (0 : Fin 4)).st = .frozen ∧ (0 : BitVec 2) = 0 ∧ ((1 : BitVec 2) ≠ 0 ∧ (1 : BitVec 2) ≠ 2) ∧
    ¬(0 % 64 + (65 : BitVec 7).toNat ≤ 64) := by decide
theorem wit_SlotsGoByUrgency :
    (let s := stacked (active [hentry .read 0])
     (s.hbmCtl (0 : Fin 4)).st = .active ∧ ((s.hbmCtl 0).waitingOn (0 : Fin 32)) = [(0, hentry .read 0)] ∧ s.urgency (hentry .read 0) = some 4 ∧
     s.drains ((s.hbmCtl 0).pc (0 : Fin 32)).draining [] = false) ∧
    (let s := stacked (active [hentry .write 0])
     s.drains ((s.hbmCtl 0).pc (0 : Fin 32)).draining (((s.hbmCtl 0).waitingOn (0 : Fin 32)).filter fun e => !e.2.reads) = true) ∧
    (let s := stacked (active [hentry .read 32000000])
     s.urgency (hentry .read 32000000) = some 0 ∧ ((s.hbmCtl 0).pc (0 : Fin 32)).hits < s.rowHitMax) ∧
    ((stacked (active [])).hbmCtl 0).waitingOn (0 : Fin 32) = [] ∧ (((stacked (active [])).hbmCtl 0).pc (0 : Fin 32)).postponed = 0 := by decide
theorem wit_StacksAreTended :
    (let s := stacked (active [hentry .read 0])
     (∃ e ∈ (s.hbmCtl (0 : Fin 4)).waitingOn (0 : Fin 32), s.urgency e.2 = some 4) ∧ ((s.hbmCtl 0).pc (0 : Fin 32)).postponed < 4) ∧
    (State.reset.hbmCtl (0 : Fin 4)).st ≠ .active ∧ 95 ≤ (95 : Byte).toNat ∧ (active []).tempHigh = false ∧ (89 : Byte).toNat < 90 ∧ (94 : Byte).toNat < 95 ∧
    ({ hentry .read 0 with issued := true } : HbmEntry).issued = true ∧ bitAt ((stacked (active [])).reg hbmBase) 7 = true ∧
    bitAt ((run []).reg hbmBase) 7 = false ∧ (stacked (active [])).fld (hbmBase + 8) 15 0 = 0 := by decide
theorem wit_HbmFreeze :
    (let s := stacked (active [{ hentry .read 0 with issued := true }])
     (s.hbmCtl (0 : Fin 4)).st = .active ∧ s.dev ≠ .reset ∧ (0x84 : BitVec 8).getLsbD 2 = true ∧ (∀ m, m < 2 → m ≠ 6 → (0x84 : BitVec 8).getLsbD m = false) ∧
     (s.hbmCtl 0).entries[(0 : BitVec 11).toNat]? = some { hentry .read 0 with issued := true } ∧ bitAt (s.reg hbmBase) 7 = true) ∧
    (let s := stacked { HbmCtl.reset with st := .frozen, negBusy := some 5 }
     (s.hbmCtl (0 : Fin 4)).negBusy = some 5 ∧ s.pwr.warmWaits = none ∧ (∀ d : Fin 4, d ≠ 0 → (s.hbmCtl d).negBusy = none) ∧ s.hbm.ctls.length = 4) ∧
    ({ Pwr.reset with warm := true, warmWaits := some 2 } : Pwr).warmWaits = some 2 := by decide
theorem wit_StepRunsFront : ({ State.reset with pending := [Instr.powerOn, .powerOn] } : State).pending = .powerOn :: [.powerOn] := rfl
theorem wit_EmptyQueuePassesTime : State.reset.pending = [] ∧ State.reset.dev ≠ .reset ∧ (inReset Pwr.reset).dev = .reset := by decide
theorem wit_EveryStepKeepsTheInvariant : State.reset.Inv .fa ∧ (run [(0x40, 1)]).Inv .fa :=
  ⟨⟨rfl, by unfold State.wf; decide⟩, ⟨rfl, by unfold State.wf; decide⟩⟩
theorem wit_EventsAreLogged :
    State.reset.csh.st = .idle ∧ swf EventRec.empty State.reset.events.log = true ∧ State.reset.events.rings = [] ∧
    State.reset.fld mgtBase 17 16 ≤ 2 ∧ 1 < State.reset.fld mgtBase 17 16 ∧ ({ base with dev := .frozen } : State).dev = .frozen := by decide

/-! ### The checks of WellFormed: one ill-formed term for each -/

theorem test_wf_names : Instr.wf (.identify board0 (cmd 0x0580 0 0 0 0)) = false := by decide
theorem test_wf_fetch_none : Instr.wf (.descriptorFetch 0 0 []) = false := by decide
theorem test_wf_fetch_many : Instr.wf (.descriptorFetch 0 0 (List.replicate 65 desc0)) = false := by decide
theorem test_wf_line : Instr.wf (.hbmRequest 0 0 0 0 0x3C 8 []) = false := by decide
theorem test_wf_line_data : Instr.wf (.hbmRequest 0 0 0 1 0x00 4 [1, 2, 3]) = false := by decide
theorem test_wf_lock : Instr.wf (.lockTrump true 4096 0) = false := by decide
theorem test_wf_requester : Instr.wf (.tryReclaim (.pf 0) 1090) = false := by decide
theorem test_wf_stream : Instr.wf (.snapshotTake 64) = false := by decide
theorem test_wf_stream_deliver : Instr.wf (.snapshotDeliver 64) = false := by decide
theorem test_wf_window : Instr.wf (.dbgWinWrite 0 0xB4 0) = false := by decide
theorem test_wf_window_word : Instr.wf (.dbgWinWrite 0 2 0) = false := by decide
theorem test_wf_message : Instr.wf (.mctpControl [0x01, 0x80, 0x02]) = false := by decide
theorem test_wf_pldm : Instr.wf (.pldmMessage []) = false := by decide
theorem test_wf_vendor : Instr.wf (.vendorCommand [0x00]) = false := by decide
/-- The same commands with the operands in their ranges. -/
theorem test_wf_accepts :
    Instr.wf (.identify board0 (cmd 0x0581 0 0 0 0)) = true ∧ Instr.wf (.descriptorFetch 0 0 [desc0]) = true ∧
    Instr.wf (.hbmRequest 0 0 0 1 0x3C 4 [1, 2, 3, 4]) = true ∧ Instr.wf (.lockTrump false 4096 0) = true ∧
    Instr.wf (.tryReclaim (.pf 0) 1089) = true ∧ Instr.wf (.snapshotTake 63) = true ∧
    Instr.wf (.dbgWinWrite 0 0xB0 0) = true ∧ Instr.wf (.mctpControl [0x00]) = true := by decide

/-! ### The register file and the dispatch -/

/-- The state after a command. -/
def after (c : Instr) (s : State) : State :=
  match exec c s with
  | .next t => t
  | _ => s

/-- GLB_ERR, GLB_ERR_ADDR and GLB_ERR_ACC. -/
def errors (s : State) : Word × Word × Word :=
  ((regRead s (.pf 0) 0x020).2, (regRead s (.pf 0) 0x024).2, (regRead s (.pf 0) 0x028).2)

/-- The five accesses of the example at R600, from FIX_RING_TIME at its default. -/
def access1 : State := after (.registerWrite (.pf 0) 0x0D00004 0) (run [(0x0D00004, 0x00280008)])
def access2 : State := after (.unmappedAccess (.mc 0) 0x1800000 false) access1
def access3 : State := after (.registerWrite (.pf 0) 0x020 3) access2
def access4 : State := after (.partialAccess (.pf 0) 0x0C00000 true) access3
def access5 : State := after (.unmappedAccess (.thread 0) 0x1800004 false) access4

/-- Manual: chapter 17, the five accesses of the example after R600. -/
theorem test_glb_err :
    errors access1 = (0x2, 0x80D00004, 0) ∧ errors access2 = (0xB, 0x80D00004, 0) ∧ errors access3 = (0x8, 0x80D00004, 0) ∧
    errors access4 = (0xC, 0x80D00004, 0x80C00000) ∧ errors access5 = (0xD, 0x29800004, 0x80C00000) := by decide

/-- Manual: chapter 17, the example of CLS_REGION after R595. -/
def region1 : State :=
  { run [(clsBase + 0x08, 0x20000000)] with dev := .run }
def regionLow : State := after (.registerWrite (.mc 0) 0x0A00008 0x00800000) (after (.registerWrite (.pf 0) 0x0A00008 0x00400000) region1)
def regionPf : State := after (.registerWrite (.pf 0) 0x0A0000C 1) regionLow
def regionMc : State := after (.registerWrite (.mc 0) 0x0A0000C 2) regionPf

theorem test_region_pf : regionPf.reg (clsBase + 0x08) = 0x00400000 ∧ regionPf.reg (clsBase + 0x0C) = 1 := by decide
theorem test_region_mc : regionMc.reg (clsBase + 0x08) = 0x00400000 ∧ regionMc.reg (clsBase + 0x0C) = 2 := by decide

/-! ### The core -/

/-- The thread after an instruction. -/
def then_ (c : Instr) (th : Thread) : Thread := (after c (one th)).thread 0

/-- Manual: chapter 6, the example after R240: ADD D3, D1, D2 then DAJ D3, D3. -/
def summed : Thread := then_ (.add 0 { rd := 3, rs1 := 1, rs2 := 2, aux := 0 }) { busy with d := [(1, 0x65), (2, 0x95)] }
def adjusted : Thread := then_ (.daj 0 { rd := 3, rs1 := 3, rs2 := 0, aux := 0 }) summed

theorem test_add_for_daj : summed.dreg 3 = 0xFA ∧ summed.flagC = false ∧ (List.range 8).all (fun i => !summed.flagHC i) := by decide
theorem test_daj : adjusted.dreg 3 = 0x160 ∧ adjusted.flagDC = false := by decide

/-- Manual: chapter 6, the ASCII length field: ASC2P D4, D2, D3, N = 8, mask to D5, then P2BIN D6, D4. -/
def packed : Thread :=
  then_ (.asc2p 0 { rd := 4, rs1 := 2, rs2 := 3, aux := 0x85 }) { busy with d := [(2, 0x30363431), (3, 0x0A0D0A0D)] }

theorem test_asc2p : packed.dreg 4 = 0x1460 ∧ packed.dreg 5 = 0x4F0 := by decide
theorem test_p2bin : (then_ (.p2bin 0 { rd := 6, rs1 := 4, rs2 := 0, aux := 0 }) packed).dreg 6 = 0x5B4 := by decide
/-- Manual: chapter 6, the words of the same table. -/
theorem test_words :
    RFields.word 0x1D 0x07 { rd := 4, rs1 := 2, rs2 := 3, aux := 0x85 } = 0x7508C785 ∧
    RFields.word 0x1D 0x08 { rd := 6, rs1 := 4, rs2 := 0, aux := 0 } = 0x75900800 ∧
    RFields.word 0x1C 0x05 { rd := 0, rs1 := 0, rs2 := 0, aux := 0 } = 0x70000500 := by decide

/-- Manual: chapter 6, the decimal sum: DACC ACC0, D4. -/
def sums (acc : BitVec 72) (v : Word) : Thread :=
  then_ (.dacc 0 { rd := 0, rs1 := 4, rs2 := 0, aux := 0 }) { busy with d := [(4, v)], acc0 := acc }

theorem test_dacc : (sums 0x12550 0x9875).acc 0 = 0x22425 ∧ (sums 0x22425 0x4325).acc 0 = 0x26750 := by decide
theorem test_dacc_guard : (sums 0x9999999999999990 0x25).acc 0 = 0x010000000000000015 ∧ (sums 0x9999999999999990 0x25).flagDC = true := by
  decide

/-- Manual: chapter 8, the CRC-32C of "123456789", in three instructions. -/
def digits9 : Thread := { busy with d := [(2, 0x34333231), (3, 0x38373635), (4, 0x39), (5, 0xFFFFFFFF)] }
set_option maxRecDepth 20000 in
theorem test_crc32c : crc32cOf [0x31, 0x32, 0x33, 0x34, 0x35, 0x36, 0x37, 0x38, 0x39] = 0xE3069283 := by decide
set_option maxRecDepth 20000 in
theorem test_crc32c_steps :
    crc32c (crc32c (crc32c 0xFFFFFFFF (leBytes 4 0x34333231)) (leBytes 4 0x38373635)) [0x39] ^^^ 0xFFFFFFFF = 0xE3069283 := by decide
/-- R293 names the AES S-box; FIPS 197 gives this entry. -/
theorem test_sbox : sbox 0x53 = 0xED ∧ invSbox 0xED = 0x53 := by decide

/-! ### HBM, the Classifier, the switch and the fabric -/

/-- Manual: chapter 14, the decode of HBM address 0x0A_1234_5778. -/
theorem test_hbm_decode :
    hbmDecode 0x0A12345778 = { stack := 1, pc := 25, sid := 1, group := 1, bank := 0, row := 13750, column := 11, byte := 0x18 } := by decide

/-- Manual: chapter 4, line 0x100 and entry E4 of the two-level tree. -/
theorem test_cut : nodeOf (leBytes 4 0x18600000 ++ leBytes 4 0x00040000 ++ List.replicate 56 0) = .cut 384 8 0x40000 := by decide
theorem test_dispatch : actOf 0x3A68000700000000 = some (.dispatch 3 4 7) ∧ isLast 0x3A68000700000000 = true := by decide

/-- Manual: chapter 10, AVG at 1,000 KiB and a depth of 1,400 KiB with WQ 2. -/
theorem test_avg : avgAfter (1000 * 256) (1400 * 1024) 2 = 1100 * 256 := by decide
/-- Manual: chapter 10, the green copy of attempt 3 fails against P = 44 with R = 31. -/
theorem test_avg_third : avgAfter (11755 * 256 / 10) (1396 * 1024) 2 = 1230625 * 256 / 1000 := by decide

/-- Manual: chapter 11, the route from 0x017E to 0x3F81 in a 128 × 128 system with credits 900 and 1,400. -/
def routing : State :=
  { run [(ringBase + 4, 0x017E), (ringBase + 8, 0x8080)] with
    ring := { Ring.reset with ports := [RingPort.reset, { RingPort.reset with credit := [(3, 900)] },
      { RingPort.reset with credit := [(19, 1400)] }, RingPort.reset] } }
theorem test_route : routing.routeFor 0x3F81 3 = (true, false, true) := by decide

end Sys2Proof.Tests
end

section
/-! SUPPORT. The reserved fields of the core instructions (R225): each command of `coreForm` is an `issue` of its word, whose
legality check agrees with the form's, and a failed check raises ILLEGAL. -/

namespace Sys2Proof.Machine

open Host

/-! ### An exception does not arm a step -/

theorem copyToRing_cores (s : State) (e : EventRec) (r : Nat × EventRing) : (copyToRing s e r).cores = s.cores := by
  obtain ⟨pf, r⟩ := r
  simp only [copyToRing]

theorem copyToRing_fold_cores (e : EventRec) (rs : List (Nat × EventRing)) (s : State) :
    (rs.foldl (fun st r => copyToRing st e r) s).cores = s.cores := by
  induction rs generalizing s with
  | nil => rfl
  | cons r rs ih => rw [List.foldl_cons, ih, copyToRing_cores]

@[simp] theorem logRecord_cores (s : State) (code sev : Nat) (data : BitVec 128) : (logRecord s code sev data).1.cores = s.cores := by
  simp only [logRecord, apply_ite State.cores, copyToRing_fold_cores, ite_self]

@[simp] theorem cshStart_cores (s : State) : s.cshStart.cores = s.cores := rfl

@[simp] theorem cshStop_cores (s : State) : s.cshStop.cores = s.cores := by
  simp only [State.cshStop, apply_ite State.cores, ite_self]

@[simp] theorem cshOffer_cores (s : State) (r : CshRec) : (s.cshOffer r).cores = s.cores := by
  unfold State.cshOffer; split <;> rfl

theorem logEventN_cores (n : Nat) (s : State) (code sev : Nat) (data : BitVec 128) :
    (logEventN n s code sev data).cores = s.cores := by
  induction n generalizing s code sev data with
  | zero => exact logRecord_cores s code sev data
  | succ n ih =>
    simp only [logEventN, ih, apply_ite State.cores, cshStart_cores, cshStop_cores, cshOffer_cores, logRecord_cores, ite_self]

@[simp] theorem logEvent_cores (s : State) (code sev : Nat) (data : BitVec 128) : (s.logEvent code sev data).cores = s.cores :=
  logEventN_cores 3 s code sev data

theorem holdChannels_thread (s : State) (t k : Nat) (halting : Bool) : (holdChannels s t halting).thread k = s.thread k := by
  unfold holdChannels
  refine List.foldlRecOn _ _ (motive := fun u : State => u.thread k = s.thread k) rfl fun u hu c _ => ?_
  dsimp only
  split
  · exact hu
  · split
    · exact hu
    · exact hu

theorem doubleFault_stepArmed {s : State} (h : Cores.wf s.cores = true) (t code : Nat) (pc : Addr) :
    ((doubleFault s t code pc).thread t).stepArmed = false := by
  have e : (doubleFault s t code pc).thread t = (haltThread s t).thread t := by
    simp only [State.thread, doubleFault, logEvent_cores]
  rw [e, haltThread, holdChannels_thread, State.modThread, State.thread_setThread h, if_pos rfl]

theorem enterHandler_stepArmed (th : Thread) (l code : Nat) (epc einfo : Addr) :
    (enterHandler th l code epc einfo).stepArmed = th.stepArmed := by
  unfold enterHandler; dsimp only; split <;> rfl

theorem setThread_enterHandler_stepArmed {s : State} (h : Cores.wf s.cores = true) {t : Nat}
    (n : (s.thread t).stepArmed = false) (l code : Nat) (epc einfo : Addr) :
    ((s.setThread t (enterHandler (s.thread t) l code epc einfo)).thread t).stepArmed = false := by
  rw [State.thread_setThread h, if_pos rfl, enterHandler_stepArmed, n]

/-- R276: a thread without a STEP has none after an exception. -/
theorem takeException_stepArmed {s : State} {t : Nat} (h : Cores.wf s.cores = true) (n : (s.thread t).stepArmed = false)
    (code : Nat) (epc einfo : Addr) : ((takeException s t code epc einfo).thread t).stepArmed = false := by
  unfold takeException
  dsimp only
  split
  · split
    · split
      · exact doubleFault_stepArmed h _ _ _
      · exact setThread_enterHandler_stepArmed h n _ _ _ _
    · exact setThread_enterHandler_stepArmed h n _ _ _ _
  · split
    · exact doubleFault_stepArmed h _ _ _
    · exact setThread_enterHandler_stepArmed h n _ _ _ _

/-- A precise exception of a ready thread is taken and has no other effect. -/
theorem settle_raise {s : State} {t : ThreadId} (h : s.ready t) (pc : Addr) (code : Nat) (einfo : Addr) :
    settle s t pc (.raise code einfo) = takeException s t code pc einfo :=
  endStep_no (takeException_stepArmed h.form h.noStep code pc einfo)

/-- R225, R247: an instruction of a ready thread that fails its field check raises ILLEGAL with its word. -/
theorem issue_illegal {s : State} {t : ThreadId} (h : s.ready t) (w : Word) (permitted : Bool) (body : Thread → Result) :
    issue s t w false permitted body = takeException s t codeIllegal (s.thread t).pc (w.setWidth 48) := by
  simp only [issue, h.issues, h.fetch, if_true, Bool.false_eq_true, if_false, Bool.not_false]
  exact settle_raise h _ _ _

/-! ### The field checks -/

@[simp] theorem isA_iff (r : BitVec 4) : isA r = true ↔ r.toNat < 8 := by simp [isA]
@[simp] theorem isAcc_iff (r : BitVec 4) : isAcc r = true ↔ r.toNat < 2 := by simp [isAcc]
@[simp] theorem isPair_iff (r : BitVec 4) : isPair r = true ↔ Pairs r.toNat := by revert r; unfold Pairs; decide
@[simp] theorem isQuad_iff (r : BitVec 4) : isQuad r = true ↔ Quads r.toNat := by revert r; unfold Quads; decide

/-- R289: a quad that CXC names lies in its low four bits. -/
theorem quads_cxc (cxc : BitVec 8) : (cxc.toNat < 16 ∧ Quads (cxc.toNat % 16)) ↔ Quads cxc.toNat := by
  unfold Quads; simp only [List.mem_cons, List.not_mem_nil, or_false]; omega

/-- R234: FENCE names something to wait for. -/
theorem fence_imm (n : BitVec 12) : ¬n = 0#12 ↔ 1 ≤ n.toNat := by rw [BitVec.toNat_eq, BitVec.toNat_ofNat]; omega

@[simp] theorem legal3_iff (f : RFields) : legal3 f = true ↔ f.aux = 0 := by simp [legal3]
@[simp] theorem legal2_iff (f : RFields) : legal2 f = true ↔ f.rs2 = 0 ∧ f.aux = 0 := by simp [legal2]
@[simp] theorem legalRd_iff (f : RFields) : legalRd f = true ↔ f.rs1 = 0 ∧ f.rs2 = 0 ∧ f.aux = 0 := by simp [legalRd, and_assoc]
@[simp] theorem legalNone_iff (f : RFields) : legalNone f = true ↔ f.rd = 0 ∧ f.rs1 = 0 ∧ f.rs2 = 0 ∧ f.aux = 0 := by
  simp [legalNone, and_assoc]
@[simp] theorem legalImm12_iff (f : SFields) : legalImm12 f = true ↔ f.rd = 0 ∧ f.rs1 = 0 := by simp [legalImm12]
@[simp] theorem legalField_iff (f : BFFields) : legalField f = true ↔ f.rsv = 0 ∧ f.pos.toNat + f.wm1.toNat ≤ 31 := by
  simp [legalField]

/-- R225: the AUX bits at `k` and above are 0. -/
theorem auxWithin_iff {k : Nat} (hk : k ≤ 8) (aux : BitVec 8) : auxWithin aux (2 ^ k - 1) = true ↔ aux.toNat < 2 ^ k := by
  have all : ∀ k : Fin 9, ∀ aux : BitVec 8, auxWithin aux (2 ^ k.val - 1) = decide (aux.toNat < 2 ^ k.val) := by decide
  rw [all ⟨k, by omega⟩ aux, decide_eq_true_eq]

@[simp] theorem auxWithin_0 (aux : BitVec 8) : auxWithin aux 0 = true ↔ aux = 0 := by
  simpa [BitVec.toNat_eq] using auxWithin_iff (k := 0) (by decide) aux
@[simp] theorem auxWithin_1 (aux : BitVec 8) : auxWithin aux 1 = true ↔ aux.toNat < 2 := auxWithin_iff (k := 1) (by decide) aux
@[simp] theorem auxWithin_3 (aux : BitVec 8) : auxWithin aux 3 = true ↔ aux.toNat < 4 := auxWithin_iff (k := 2) (by decide) aux
@[simp] theorem auxWithin_7 (aux : BitVec 8) : auxWithin aux 7 = true ↔ aux.toNat < 8 := auxWithin_iff (k := 3) (by decide) aux
@[simp] theorem auxWithin_0x0F (aux : BitVec 8) : auxWithin aux 0xF = true ↔ aux.toNat < 16 := auxWithin_iff (k := 4) (by decide) aux
@[simp] theorem auxWithin_0x1F (aux : BitVec 8) : auxWithin aux 0x1F = true ↔ aux.toNat < 32 := auxWithin_iff (k := 5) (by decide) aux
@[simp] theorem auxWithin_0x3F (aux : BitVec 8) : auxWithin aux 0x3F = true ↔ aux.toNat < 64 := auxWithin_iff (k := 6) (by decide) aux

@[simp] theorem condD_isSome (cond : BitVec 4) (a b : Word) : (condD cond a b).isSome = true ↔ cond.toNat < 6 := by
  unfold condD; split <;> grind
@[simp] theorem condF_isSome (cond : BitVec 4) (tsr : Word) : (condF cond tsr).isSome = true ↔ cond.toNat < 8 := by
  unfold condF; split <;> grind
@[simp] theorem condA_isSome (cond : BitVec 4) (a b : Addr) : (condA cond a b).isSome = true ↔ cond.toNat ∈ [0, 1, 4, 5] := by
  unfold condA; split <;> simp_all

/-- R222: the number is assigned, with the width that the instruction moves. -/
@[simp] theorem sysLegal_iff (n : Nat) (wide : Bool) : sysLegal n wide = true ↔ ∃ x, sysInfo n = some x ∧ x.wide = wide := by
  unfold sysLegal; cases sysInfo n <;> simp

/-- R242: the fields of ASC2P. -/
theorem legalAsc2p_iff (f : RFields) : legalAsc2p f = true ↔
    1 ≤ f.aux.toNat / 16 ∧ f.aux.toNat / 16 ≤ 8 ∧ (f.aux.toNat / 16 ≤ 4 → f.rs2 = 0) ∧
      (f.rd ≠ 0 → f.aux.toNat % 16 ≠ f.rd.toNat) := by
  have mask : f.aux.setWidth 4 = f.rd ↔ f.aux.toNat % 16 = f.rd.toNat := by rw [BitVec.toNat_eq, BitVec.toNat_setWidth]
  simp only [legalAsc2p, Bool.and_eq_true, Bool.or_eq_true, decide_eq_true_eq, beq_iff_eq, bne_iff_ne, ne_eq, mask, and_assoc]
  have := Nat.lt_or_ge 4 (f.aux.toNat / 16)
  grind

/-- R225, R229: the fields of a load or store. -/
theorem memLegal_iff (load : Bool) (size : AccessSize) (f : MFields) :
    memLegal load size.isEight f = true ↔ LegalMem load size f := by
  have eight : size.isEight = true ↔ size = .eight := by cases size <;> simp [AccessSize.isEight]
  cases load <;> simp [memLegal, LegalMem, modeLegal, ← eight, aOf] <;> grind

/-! ### Every form -/

/-- The command issues the form's word, under a field check that answers whether the form is legal. -/
def CoreForm.IssuedBy (c : CoreForm) (i : Instr) (s : State) : Prop :=
  ∃ legal permitted body, exec i s = .next (issue s c.thread c.word legal permitted body) ∧ (legal = true ↔ c.legal)

theorem CoreForm.issuedBy {i : Instr} {s : State} {t : ThreadId} {w : Word} {legal permitted : Bool} {body : Thread → Result} {P : Prop}
    (e : exec i s = .next (issue s t w legal permitted body)) (h : legal = true ↔ P) : CoreForm.IssuedBy ⟨t, w, P⟩ i s :=
  ⟨legal, permitted, body, e, h⟩

/-- R225: the field check of every core instruction is that of its form. -/
theorem coreForm_issuedBy {i : Instr} {c : CoreForm} (h : coreForm i = some c) (s : State) : c.IssuedBy i s := by
  cases i with
  | add t f | addc t f | sub t f | subc t f | and t f | or t f | xor t f | andn t f | sll t f | srl t f | sra t f | ror t f
  | slt t f | sltu t f | min t f | max t f | minu t f | maxu t f | mul t f | mulh t f | mulhu t f | div t f | divu t f
  | rem t f | remu t f | dadd t f | daddc t f | dsub t f | dsubc t f =>
    cases h; exact CoreForm.issuedBy rfl (legal3_iff f)
  | clz t f | popc t f | bswap t f | daj t f | p2bin t f | bin2p t f =>
    cases h; exact CoreForm.issuedBy rfl (legal2_iff f)
  | slli t f | srli t f | srai t f | rori t f =>
    cases h; exact CoreForm.issuedBy rfl (by simp [legalShift])
  | addi t f | andi t f | ori t f | xori t f =>
    cases h; exact CoreForm.issuedBy rfl (by simp)
  | li t f | lui t f | aaddi t f | alpc t f =>
    cases h; exact CoreForm.issuedBy rfl (by simp)
  | ldb t f | ldbu t f | ldh t f | ldhu t f | ldw t f | lda t f | stb t f | sth t f | stw t f | sta t f =>
    cases h; exact CoreForm.issuedBy rfl (memLegal_iff _ _ f)
  | brc t f | brf t f | bra t f =>
    cases h; exact CoreForm.issuedBy rfl (by simp [and_comm, and_assoc])
  | j t f | jr t f =>
    cases h; exact CoreForm.issuedBy rfl (by simp)
  | extu t f | exts t f | ins t f =>
    cases h; exact CoreForm.issuedBy rfl (legalField_iff f)
  | mac t f | macu t f | msu t f | msuu t f | mula t f | mtac t f | mtacu t f =>
    cases h; exact CoreForm.issuedBy rfl (by simp [legalAcc3])
  | aclr t f | ashr t f =>
    cases h; exact CoreForm.issuedBy rfl (by simp [legalAccOnly, and_assoc])
  | mfacl t f | mfach t f | mfacg t f | asat t f =>
    cases h; exact CoreForm.issuedBy rfl (by simp [legalAccRead, and_assoc])
  | dacc t f => cases h; exact CoreForm.issuedBy rfl (by simp)
  | asc2p t f => cases h; exact CoreForm.issuedBy rfl (legalAsc2p_iff f)
  | movda t f | movdas t f | movad t f | movah t f | movha t f | aadd t f | asub t f | adiff t f | amov t f =>
    cases h; exact CoreForm.issuedBy rfl (by simp [and_assoc])
  | mfs t f | mts t f | mfsa t f | mtsa t f =>
    cases h; exact CoreForm.issuedBy rfl (by simp [and_assoc])
  | syscall t f | moncall t f | breakOp t f =>
    cases h; exact CoreForm.issuedBy rfl (legalImm12_iff f)
  | eret t f | clrf t f =>
    cases h; exact CoreForm.issuedBy rfl (by simp [and_assoc])
  | fence t f =>
    cases h; exact CoreForm.issuedBy rfl (by simp [and_assoc, fence_imm])
  | join t f | waitt t f => cases h; exact CoreForm.issuedBy rfl (legalRd_iff f)
  | endOp t f | yield t f => cases h; exact CoreForm.issuedBy rfl (legalNone_iff f)
  | fork t f | waite t f | post t f | chw t f | chcommit t f | send t f | recv t f | submit t f | pktout t f =>
    cases h; exact CoreForm.issuedBy rfl (by simp [and_assoc])
  | lock t f | trylock t f | unlock t f | semp t f | semv t f =>
    cases h; exact CoreForm.issuedBy rfl (by simp [legalLock])
  | aaddw t f | aswpw t f | acasw t f | aandw t f | aorw t f =>
    cases h; exact CoreForm.issuedBy rfl (by simp)
  | crc32c t f | crc64 t f | toep t f | symh t f | aese t f | aesd t f | ghash t f | sha256r t f | sha256m t f | bgath t f
  | bscat t f =>
    cases h; exact CoreForm.issuedBy rfl (by simp [legalCount, legalAes, pairOutside, and_assoc])
  | mcmp128 t f => cases h; exact CoreForm.issuedBy rfl (by rw [← quads_cxc]; simp [and_assoc])
  | _ => cases h

end Sys2Proof.Machine

open Sys2Proof Sys2Proof.Machine Host

/-- Settles O8: the field check of every form is its legality, and a failed check of a ready thread is an ILLEGAL exception. -/
theorem reservedFieldsRaiseIllegal : Obligations.ReservedFieldsRaiseIllegal := by
  intro i s c h ready illegal
  obtain ⟨legal, permitted, body, e, check⟩ := coreForm_issuedBy h s
  have failed : legal = false := by simpa [illegal] using check
  unfold Raises
  rw [e, failed, issue_illegal ready, codeIllegal]

end

section
/-! SUPPORT. What an access to a register does (R7, R11, R12, R589–R599): one rule for each kind of target, and the errors that an
access sets with their captures. -/

namespace Sys2Proof.Machine

open Host

/-! ### Errors and their captures -/

theorem captureWord_of_lt {off : Nat} (h : off < 2 ^ 26) (s : State) (p : Path) (write : Bool) :
    captureWord s p off write = at' (b2n write) 31 ||| at' (pathCode s p % 16) 27 ||| at' off 0 := by
  rw [captureWord, Nat.mod_eq_of_lt h]

/-- R13: the first UNMAPPED or BAD_ENCODING is captured; a later one sets OVERFLOW. -/
theorem flagError_of_lt {off : Nat} (h : off < 2 ^ 26) (s : State) (flag : BitVec 4) (p : Path) (write : Bool) :
    flagError s flag p off write = { s with glb :=
      if s.glb.err &&& 3 = 0 then { s.glb with
        err := s.glb.err ||| flag
        errAddr := at' (b2n write) 31 ||| at' (pathCode s p % 16) 27 ||| at' off 0 }
      else { s.glb with err := s.glb.err ||| flag ||| 8 } } := by
  rw [← captureWord_of_lt h]
  have both : errUnmapped ||| errEncoding = 3 := rfl
  rw [flagError, both]
  split <;> rfl

/-- R599: the first BAD_ACCESS is captured with the word's offset; a later one sets OVERFLOW. -/
theorem flagAccess_of_lt {off : Nat} (h : off < 2 ^ 26) (s : State) (p : Path) (write : Bool) :
    flagAccess s p off write = { s with glb :=
      if s.glb.err &&& 4 = 0 then { s.glb with
        err := s.glb.err ||| 4
        errAcc := at' (b2n write) 31 ||| at' (pathCode s p % 16) 27 ||| at' (off / 4 * 4) 0 }
      else { s.glb with err := s.glb.err ||| 4 ||| 8 } } := by
  rw [← captureWord_of_lt (off := off / 4 * 4) (by omega)]
  unfold flagAccess errAccess
  split <;> rfl

/-! ### Writes, by what they reach -/

section write
variable {s : State} {p : Path} {off key b : Nat} {r : RegRow} (v : Word) (ha : s.answers p = true) (hp : p ≠ .fabric)

include ha hp

theorem regWrite_unmapped (h : s.target p off = .unmapped) :
    regWrite s p off v = (flagError s errUnmapped p off true, false) := by
  simp [regWrite, ha, hp, h]

theorem regWrite_counter (h : s.target p off = .reg key b r) (hk : r.kind = .counter) : regWrite s p off v = (s, true) := by
  simp [regWrite, ha, hp, h, hk]

/-- R21: the expert set ignores writes while EXPERT_EN is 0 and in SWAP. -/
theorem regWrite_expert_ignored (h : s.target p off = .reg key b r) (hk : r.kind = .expert)
    (hx : s.expertOn b = false ∨ s.dev = .swap) : regWrite s p off v = (s, true) := by
  have ignored : ¬(s.expertOn b = true ∧ s.dev ≠ .swap) := by rintro ⟨on, ne⟩; simp [on, ne] at hx
  simp only [regWrite, ha, hp, h, hk, ignored, Bool.not_true, Bool.false_eq_true, or_self, if_false]

theorem regWrite_special {x : State × Bool} (h : s.target p off = .reg key b r) (hk : r.kind = .plain)
    (hw : writeSpecial s p off b (key - b) v = some x) : regWrite s p off v = x := by
  simp [regWrite, ha, hp, h, hk, hw]

theorem regWrite_plain (h : s.target p off = .reg key b r) (hk : r.kind = .plain)
    (hw : writeSpecial s p off b (key - b) v = none) :
    regWrite s p off v = if r.rw = 0 then (s, true) else writeStored s p off key b r v := by
  simp [regWrite, ha, hp, h, hk, hw]

end write

/-- R11: a write that an encoding or a relation of its register refuses. -/
def writeRefused (s : State) (key b : Nat) (r : RegRow) (v : Word) : Bool :=
  let m := rwMask b (key - b) r
  let old := s.stored key
  let new := putBits old m v
  r.chk.any (fieldBad (old &&& m) (new &&& m)) || relationBad s (s.putStored key new) b (key - b) old new

theorem writeStored_refused {s : State} {key b : Nat} {r : RegRow} {v : Word} (h : writeRefused s key b r v = true)
    (p : Path) (off : Nat) : writeStored s p off key b r v = (flagError s errEncoding p off true, false) :=
  if_pos h

/-- R7: a write that nothing refuses, outside the function pages and TIM. -/
theorem writeStored_stored {s : State} {key b : Nat} {r : RegRow} {v : Word} (h : writeRefused s key b r v = false)
    (hb : b < 0x3000000) (ht : b ≠ timBase) (p : Path) (off : Nat) :
    let old := s.stored key
    let new := putBits old (rwMask b (key - b) r) v
    writeStored s p off key b r v = (afterWrite (s.putStored key new) b (key - b) old new, true) := by
  have notPage : ¬(0x3000000 ≤ b ∧ key - b = 0) := by omega
  have accepted : ¬writeRefused s key b r v = true := by simp [h]
  refine (if_neg accepted).trans ?_
  simp only [notPage, ht, false_and, if_false]

/-! ### Reads, by what they reach -/

section read
variable {s : State} {p : Path} {off key b : Nat} {r : RegRow} (ha : s.answers p = true)

include ha

theorem regRead_unmapped (h : s.target p off = .unmapped) : regRead s p off = (flagError s errUnmapped p off false, 0) := by
  simp [regRead, ha, h]

theorem regRead_clears (h : s.target p off = .reg key b r) (hk : r.kind = .clears) :
    (regRead s p off).1 = clearRead s b (key - b) := by
  simp [regRead, ha, h, hk]

theorem regRead_roLow (h : s.target p off = .reg key b r) (hk : r.kind = .roLow 2) :
    (regRead s p off).1 = s.setGlb { s.glb with latch := sins s.glb.latch (partKey p (key + 4)) (s.valueAt (key + 4)) } := by
  simp [regRead, ha, h, hk]

theorem regRead_plain (h : s.target p off = .reg key b r) (hk : r.kind = .plain) :
    regRead s p off = (s, (s.stored key &&& rwMask b (key - b) r) ||| s.view key) := by
  simp [regRead, State.regValue, ha, h, hk]

end read

/-! ### The rows of an access -/

theorem exec_unmappedAccess {s : State} {p : Path} {off : BitVec 26} (ha : s.answers p = true) (hp : p ≠ .fabric)
    (h : s.target p off.toNat = .unmapped) (write : Bool) :
    exec (.unmappedAccess p off write) s = .next (flagError s errUnmapped p off.toNat write) := by
  change execUnmappedAccess p off write s = _
  rw [execUnmappedAccess, if_pos h, regWrite_unmapped 0 ha hp h, regRead_unmapped ha h]
  cases write <;> rfl

theorem exec_rejectedAccess {s : State} {p : Path} (ha : s.answers p = true) (off : BitVec 26) (write : Bool) {i : Instr}
    (hi : i ∈ [Instr.partialAccess p off write, .oversizeRequest p off write]) :
    exec i s = .next (if overPcie p then flagAccess s p off.toNat write else s) := by
  have row : exec i s = .next (if overPcie p && s.answers p then flagAccess s p off.toNat write else s) := by
    rcases List.mem_pair.1 hi with rfl | rfl <;> rfl
  rw [row, ha, Bool.and_true]

end Sys2Proof.Machine

open Sys2Proof Sys2Proof.Machine Host

theorem registerAccessErrors : Claim.RegisterAccessErrors := by
  intro s p off write ha hp
  refine ⟨fun h => ?_, fun h => if_neg h, fun i hi => ⟨fun pcie => ?_, fun other => ?_⟩⟩
  · rw [exec_unmappedAccess ha hp h, flagError_of_lt off.isLt, errUnmapped]
  · rw [exec_rejectedAccess ha off write hi, if_pos pcie, flagAccess_of_lt off.isLt]
  · rw [exec_rejectedAccess ha off write hi, other]; rfl

theorem registerWritesStoreRwBits : Claim.RegisterWritesStoreRwBits := by
  intro s p off v key b r ha hp h
  have write (x : State × Bool) (e : regWrite s p off.toNat v = x) : exec (.registerWrite p off v) s = .next x.1 :=
    congrArg (fun y : State × Bool => Outcome.next y.1) e
  refine ⟨fun hk => write _ (regWrite_counter v ha hp h hk), fun hk hx => write _ (regWrite_expert_ignored v ha hp h hk hx),
    fun hk hw => ?_⟩
  have plain := regWrite_plain v ha hp h hk hw
  refine ⟨fun hr => write _ (plain.trans (if_pos hr)), fun hr hb => ?_, fun hr hb page tim => ?_⟩
  · exact write _ ((plain.trans (if_neg hr)).trans (writeStored_refused hb p _))
  · exact write _ ((plain.trans (if_neg hr)).trans (writeStored_stored hb page tim p _))

/-- Settles O36, from the rule of each kind of target. -/
theorem registerAccess : Obligations.RegisterAccess := ⟨registerAccessErrors, registerWritesStoreRwBits⟩

end

section
/-! SUPPORT. The global registers with effects of their own: GLB_SCRATCH, GLB_RESET, GLB_EXPERT and GLB_EXPERT_THR (R596–R599). -/

namespace Sys2Proof.Machine

open Host

/-! ### Stored registers -/

theorem reg_setReg {s : State} (h : swf 0 s.regs = true) (k j : Nat) (v : Word) :
    (s.setReg k v).reg j = if j = k then v else s.reg j := sget_sput h k j v

theorem setReg_regs_wf {s : State} (h : swf 0 s.regs = true) (k : Nat) (v : Word) : swf 0 (s.setReg k v).regs = true := sput_wf h k v

/-! ### The global block on every path -/

theorem deadReg_glb (s : State) (o : Nat) : s.deadReg glbBase o = false := by
  simp [State.deadReg, glbBase, ringBase, hbmBase, ethBase, tryBase]

/-- R587: a register of the global block lies at its offset on every path but a VF's. -/
theorem target_glb {o : Nat} {r : RegRow} (aligned : o % 4 = 0) (low : o < 0x100000) (row : regRow o = some (glbBase, r))
    (s : State) {p : Path} (hp : ∀ f, p ≠ .vf f) : s.target p o = .reg o glbBase r := by
  have word : o / 4 * 4 = o := by omega
  have own : ¬(hqeBase + 0x1000 ≤ o ∧ o < hqeBase + 0x1100) := by unfold hqeBase; omega
  have other : ¬(hqeBase + 0x2000 ≤ o ∧ o < hqeBase + 0x2400) := by unfold hqeBase; omega
  have space : o < 0x3000000 := by omega
  cases p with
  | vf f => exact absurd rfl (hp f)
  | _ =>
    unfold State.target
    simp only [word]
    rw [if_neg own, if_neg other, if_pos space, row]
    simp only [deadReg_glb, Bool.false_eq_true, if_false]

/-- R587: the paths that reach every block's registers. -/
theorem Path.manages_iff (p : Path) : (p = .board ∨ (∃ f, p = .pf f) ∨ ∃ k, p = .mc k) ↔ Path.manages p := by
  cases p <;> simp [Path.manages]

theorem Path.manages.ne_vf {p : Path} (h : Path.manages p) (f : Fin 1024) : p ≠ .vf f := by rintro rfl; exact h
theorem Path.manages.ne_fabric {p : Path} (h : Path.manages p) : p ≠ .fabric := by rintro rfl; exact h

/-! ### GLB_SCRATCH -/

/-- R596: a write of GLB_SCRATCH stores the word. -/
theorem regWrite_glbScratch {s : State} {p : Path} (ha : s.answers p = true) (hp : Path.manages p) (v : Word) :
    regWrite s p 0x40 v = (s.setReg 0x40 v, true) := by
  have row : s.target p 0x40 = .reg 0x40 glbBase (nv 0x40 0xFFFFFFFF []) := target_glb (by decide) (by decide) (by decide) s hp.ne_vf
  have accepted : writeRefused s 0x40 glbBase (nv 0x40 0xFFFFFFFF []) v = false := rfl
  have whole (w : Word) : putBits w (rwMask glbBase (0x40 - glbBase) (nv 0x40 0xFFFFFFFF [])) v = v := by
    have ones : rwMask glbBase (0x40 - glbBase) (nv 0x40 0xFFFFFFFF []) = BitVec.allOnes 32 := by decide
    rw [putBits, ones, BitVec.and_allOnes, BitVec.not_allOnes, BitVec.and_zero, BitVec.zero_or]
  rw [regWrite_plain v ha hp.ne_fabric row rfl rfl, if_neg (by decide),
    writeStored_stored accepted (by decide) (by decide), whole]
  rfl

/-- R596: a read of GLB_SCRATCH returns the stored word. -/
theorem regRead_glbScratch {s : State} {p : Path} (ha : s.answers p = true) (hp : Path.manages p) : regRead s p 0x40 = (s, s.reg 0x40) := by
  have row : s.target p 0x40 = .reg 0x40 glbBase (nv 0x40 0xFFFFFFFF []) := target_glb (by decide) (by decide) (by decide) s hp.ne_vf
  have ones : rwMask glbBase (0x40 - glbBase) (nv 0x40 0xFFFFFFFF []) = BitVec.allOnes 32 := by decide
  have stored : s.stored 0x40 = s.reg 0x40 := rfl
  have view : s.view 0x40 = 0#32 := rfl
  rw [regRead_plain ha row rfl, ones, stored, view, BitVec.and_allOnes, BitVec.or_zero]

/-! ### GLB_RESET -/

theorem regWrite_glbReset {s : State} {p : Path} (ha : s.answers p = true) (hv : ∀ f, p ≠ .vf f) (hp : p ≠ .fabric) (v : Word) :
    regWrite s p 0x2C v = writeReset s p 0x2C v :=
  regWrite_special v ha hp (target_glb (by decide) (by decide) (by decide) s hv) (r := ro 0x2C) rfl rfl

/-- R598: the key in bits 31:16, whatever the bits below. -/
theorem bits_high (v : Word) : bits v 31 16 = v.toNat / 2 ^ 16 := by
  have := v.isLt
  unfold bits; omega

/-! ### Expert sets withdrawn -/

/-- The registers that withdrawing the expert values of the block at `b` may write. -/
def expertKeys (b : Nat) : List Nat := b :: expertOffsets b (blockOf b).2

theorem fold_setReg_zero (ks : List Nat) {s : State} (h : swf 0 s.regs = true) :
    let u := ks.foldl (fun st k => st.setReg k 0) s
    swf 0 u.regs = true ∧ u = { s with regs := u.regs } ∧ ∀ j, u.reg j = if j ∈ ks then 0 else s.reg j := by
  induction ks generalizing s with
  | nil => exact ⟨h, rfl, fun j => rfl⟩
  | cons k ks ih =>
    obtain ⟨form, only, reads⟩ := ih (setReg_regs_wf h k 0)
    refine ⟨form, only, fun j => (reads j).trans ?_⟩
    rw [reg_setReg h]
    by_cases hj : j ∈ ks <;> by_cases hk : j = k <;> simp [hj, hk]

theorem bit31_cleared (w : Word) : bitAt (w &&& 0x7FFFFFFF) 31 = false := by
  have zero : Nat.testBit 0x7FFFFFFF 31 = false := by decide
  simp [bitAt, Nat.testBit_and, zero]

/-- What withdrawing a block's expert values leaves (R23, R597). -/
structure Withdrawn (s u : State) (b : Nat) : Prop where
  form : swf 0 u.regs = true
  only : u = { s with regs := u.regs }
  off : u.expertOn b = false
  back : ∀ k ∈ expertOffsets b (blockOf b).2, u.reg k = if s.expertOn b then 0 else s.reg k
  others : ∀ k, k ∉ expertKeys b → u.reg k = s.reg k

theorem withdrawExpert_withdrawn {s : State} (h : swf 0 s.regs = true) (b : Nat) : Withdrawn s (withdrawExpert s b) b := by
  by_cases on : s.expertOn b = true
  · obtain ⟨form, only, reads⟩ := fold_setReg_zero (expertOffsets b (blockOf b).2) (setReg_regs_wf h b (s.reg b &&& 0x7FFFFFFF))
    have cleared : withdrawExpert s b =
        (expertOffsets b (blockOf b).2).foldl (fun st k => st.setReg k 0) (s.setReg b (s.reg b &&& 0x7FFFFFFF)) := if_pos on
    rw [← cleared] at form only reads
    refine ⟨form, only, ?_, fun k hk => by rw [reads, if_pos hk, if_pos on], fun k hk => ?_⟩
    · rw [State.expertOn, reads, reg_setReg h, if_pos rfl]
      split
      · rfl
      · exact bit31_cleared _
    · simp only [expertKeys, List.mem_cons, not_or] at hk
      obtain ⟨ne, out⟩ := hk
      rw [reads, if_neg out, reg_setReg h, if_neg ne]
  · have same : withdrawExpert s b = s := if_neg on
    rw [same]
    exact ⟨h, rfl, by simpa using on, fun k _ => (if_neg on).symm, fun k _ => rfl⟩

theorem fold_withdrawExpert_only (bs : List Nat) {s : State} (h : swf 0 s.regs = true) :
    bs.foldl withdrawExpert s = { s with regs := (bs.foldl withdrawExpert s).regs } := by
  induction bs generalizing s with
  | nil => rfl
  | cons c cs ih =>
    have w := withdrawExpert_withdrawn h c
    rw [List.foldl_cons, ih w.form, w.only]

/-- Withdrawing the expert values of several blocks, seen from a block whose registers no other of them writes. -/
theorem fold_withdrawExpert {b : Nat} (bs : List Nat) {s : State} (h : swf 0 s.regs = true)
    (apart : ∀ c ∈ bs, c ≠ b → ∀ k ∈ expertKeys b, k ∉ expertKeys c) :
    let u := bs.foldl withdrawExpert s
    u.expertOn b = (if b ∈ bs then false else s.expertOn b) ∧
      ∀ k ∈ expertOffsets b (blockOf b).2, u.reg k = if b ∈ bs ∧ s.expertOn b = true then 0 else s.reg k := by
  induction bs generalizing s with
  | nil => simp
  | cons c cs ih =>
    have w := withdrawExpert_withdrawn h c
    obtain ⟨off, back⟩ := ih w.form fun d hd => apart d (List.mem_cons_of_mem _ hd)
    by_cases hc : c = b
    · subst hc
      refine ⟨?_, fun k hk => ?_⟩
      · simp [List.foldl_cons, off, w.off]
      · simp [List.foldl_cons, back k hk, w.off, w.back k hk]
    · have away := apart c List.mem_cons_self hc
      have kept : (withdrawExpert s c).expertOn b = s.expertOn b := by
        rw [State.expertOn, State.expertOn, w.others b (away b List.mem_cons_self)]
      have ne : ¬b = c := fun e => hc e.symm
      refine ⟨?_, fun k hk => ?_⟩
      · simp [List.foldl_cons, off, kept, ne]
      · simp [List.foldl_cons, back k hk, kept, ne, w.others k (away k (List.mem_cons_of_mem _ hk))]

/-- R597: the blocks that a write of GLB_EXPERT names. -/
def namedBlocks (s : State) (v : Word) : List Nat :=
  ((List.range 14).filter fun i => bitAt v i && ((expertBlocks.getD i (0, [])).1 != ringBase || s.variant.hasRing)).map
    fun i => (expertBlocks.getD i (0, [])).1

/-- R597: the cluster blocks that a write of GLB_EXPERT_THR names. -/
def namedClusters (v : Word) : List Nat := ((List.range 17).filter fun c => bitAt v c).map thrBase

theorem writeExpert_eq (s : State) (v : Word) : writeExpert s v = (namedBlocks s v).foldl withdrawExpert s := by
  rw [namedBlocks, List.foldl_map, List.foldl_filter, writeExpert]

theorem writeExpertThr_eq (s : State) (v : Word) : writeExpertThr s v = (namedClusters v).foldl withdrawExpert s := by
  rw [namedClusters, List.foldl_map, List.foldl_filter, writeExpertThr]

theorem bitAt_zero (i : Nat) : bitAt 0 i = false := by simp [bitAt]

theorem namedBlocks_zero (s : State) : namedBlocks s 0 = [] := by
  simp only [namedBlocks, bitAt_zero, Bool.false_and, List.filter_false, List.map_nil]

theorem namedClusters_zero : namedClusters 0 = [] := by
  simp only [namedClusters, bitAt_zero, List.filter_false, List.map_nil]

theorem lckBase_mem_namedBlocks {s : State} {v : Word} (h : bitAt v 11 = true) : lckBase ∈ namedBlocks s v :=
  List.mem_map.2 ⟨11, List.mem_filter.2 ⟨by decide, by rw [h]; rfl⟩, rfl⟩

theorem thrBase_mem_namedClusters {v : Word} {c : Nat} (hc : c < 17) (h : bitAt v c = true) : thrBase c ∈ namedClusters v :=
  List.mem_map.2 ⟨c, by simp [h, hc], rfl⟩

/-- The blocks of GLB_EXPERT write no register of LCK but LCK itself. -/
theorem namedBlocks_apart {s : State} {v : Word} :
    ∀ c ∈ namedBlocks s v, c ≠ lckBase → ∀ k ∈ expertKeys lckBase, k ∉ expertKeys c := by
  have all : ∀ i < 14, (expertBlocks.getD i (0, [])).1 ≠ lckBase → ∀ k ∈ expertKeys lckBase, k ∉ expertKeys (expertBlocks.getD i (0, [])).1 := by
    decide
  intro c hc
  obtain ⟨i, hi, rfl⟩ := List.mem_map.1 hc
  exact all i (List.mem_range.1 (List.mem_filter.1 hi).1)

theorem expertOffsets_thrBase : ∀ c < 17, expertOffsets (thrBase c) (blockOf (thrBase c)).2 = [thrBase c + 0x40] := by decide

/-- R585: the cluster blocks lie at least 0x20000 bytes apart. -/
theorem thrBase_apart {c d : Nat} (h : thrBase d ≠ thrBase c) : thrBase c + 0x20000 ≤ thrBase d ∨ thrBase d + 0x20000 ≤ thrBase c := by
  unfold thrBase at *
  split_ifs at * <;> omega

theorem namedClusters_apart {v : Word} {c : Nat} (hc : c < 17) :
    ∀ b ∈ namedClusters v, b ≠ thrBase c → ∀ k ∈ expertKeys (thrBase c), k ∉ expertKeys b := by
  intro b hb ne k hk
  obtain ⟨d, hd, rfl⟩ := List.mem_map.1 hb
  have hd := List.mem_range.1 (List.mem_filter.1 hd).1
  simp only [expertKeys, expertOffsets_thrBase c hc, expertOffsets_thrBase d hd, List.mem_cons, List.not_mem_nil, or_false] at hk ⊢
  have := thrBase_apart ne
  omega

theorem regWrite_glbExpert {s : State} {p : Path} (ha : s.answers p = true) (hp : Path.manages p) (v : Word) :
    regWrite s p 0x30 v = (writeExpert s v, true) :=
  regWrite_special v ha hp.ne_fabric (target_glb (by decide) (by decide) (by decide) s hp.ne_vf) (r := ro 0x30) rfl rfl

theorem regWrite_glbExpertThr {s : State} {p : Path} (ha : s.answers p = true) (hp : Path.manages p) (v : Word) :
    regWrite s p 0x34 v = (writeExpertThr s v, true) :=
  regWrite_special v ha hp.ne_fabric (target_glb (by decide) (by decide) (by decide) s hp.ne_vf) (r := ro 0x34) rfl rfl

end Sys2Proof.Machine

open Sys2Proof Sys2Proof.Machine Host

theorem scratchHoldsWhatIsWritten : Claim.ScratchHoldsWhatIsWritten := by
  intro s p v hs ha hp
  have hp := (Path.manages_iff p).1 hp
  obtain ⟨_, regs, _, _⟩ := hs
  have written : exec (.registerWrite p 0x40 v) s = .next (s.setReg 0x40 v) :=
    congrArg (fun x : State × Bool => Outcome.next x.1) (regWrite_glbScratch ha hp v)
  have held : (s.setReg 0x40 v).reg 0x40 = v := by rw [reg_setReg regs, if_pos rfl]
  have after : (s.setReg 0x40 v).answers p = true := ha
  refine ⟨_, written, held, by rw [regRead_glbScratch after hp, held], fun k hk => by rw [reg_setReg regs, if_neg hk], rfl⟩

theorem readsThatClearOrLatch : Claim.ReadsThatClearOrLatch := by
  intro s p off key b r ha h
  have clears : exec (.rcRead p off) s = .next (if r.kind == .clears then (regRead s p off.toNat).1 else s) := by
    change execRcRead p off s = _
    simp only [execRcRead, State.reachesKind, h]
  have latches : exec (.latchingRead p off) s = .next (if r.kind == .roLow 2 then (regRead s p off.toNat).1 else s) := by
    change execLatchingRead p off s = _
    simp only [execLatchingRead, State.reachesKind, h]
  rw [clears, latches]
  refine ⟨fun hk => ?_, fun hk => by simp [hk], fun hk => ?_, fun hk => by simp [hk]⟩
  · rw [if_pos (by simp [hk]), regRead_clears ha h hk]
    refine ⟨rfl, ?_, ?_⟩
    · rintro rfl rfl; rfl
    · rintro rfl; rfl
  · rw [if_pos (by simp [hk]), regRead_roLow ha h hk]

theorem resetRegisterNeedsItsKey : Claim.ResetRegisterNeedsItsKey := by
  intro s p v ha hp
  have hp := (Path.manages_iff p).1 hp
  have row : exec (.glbReset p v) s = .next (writeReset s p 0x2C v).1 :=
    congrArg (fun x : State × Bool => Outcome.next x.1) (regWrite_glbReset ha hp.ne_vf hp.ne_fabric v)
  have keyed : writeReset s p 0x2C v = if v.toNat / 2 ^ 16 = 0xA5C3 ∧ bitAt v 0 = true
      then (if s.mgt.warmAt.isSome then s else s.setMgt { s.mgt with warmAt := some (s.now + 160000) }, true)
      else (flagError s 2 p 0x2C true, false) := by
    rw [← bits_high]
    cases p with
    | pf f | mc k | board => rfl
    | thread t | vf f | fabric => exact hp.elim
  rw [row, keyed]
  refine ⟨fun key go idle => ?_, fun key go armed => ?_, fun bad => by rw [if_neg bad], fun t live => ?_⟩
  · rw [if_pos ⟨key, go⟩, idle]; rfl
  · rw [if_pos ⟨key, go⟩, if_pos (Option.isSome_iff_ne_none.2 armed)]
  · have answers : s.answers (.thread t) = true := by simp [State.answers, live]
    exact congrArg (fun x : State × Bool => Outcome.next x.1)
      (regWrite_glbReset answers (fun _ => nofun) nofun v)

theorem expertValuesAreWithdrawn : Claim.ExpertValuesAreWithdrawn := by
  intro s p v hs ha hp
  have hp := (Path.manages_iff p).1 hp
  obtain ⟨_, regs, _, _⟩ := hs
  have blocks : exec (.glbExpert p v) s = .next ((namedBlocks s v).foldl withdrawExpert s) := by
    rw [← writeExpert_eq]
    exact congrArg (fun x : State × Bool => Outcome.next x.1) (regWrite_glbExpert ha hp v)
  have clusters : exec (.glbExpertThr p v) s = .next ((namedClusters v).foldl withdrawExpert s) := by
    rw [← writeExpertThr_eq]
    exact congrArg (fun x : State × Bool => Outcome.next x.1) (regWrite_glbExpertThr ha hp v)
  refine ⟨_, _, blocks, clusters, fun hv => ?_, fun c hc hv => ?_, ?_, fold_withdrawExpert_only _ regs, fold_withdrawExpert_only _ regs⟩
  · obtain ⟨off, back⟩ := fold_withdrawExpert (namedBlocks s v) regs namedBlocks_apart
    have named := lckBase_mem_namedBlocks (s := s) hv
    refine ⟨off.trans (if_pos named), fun on => (back _ ?_).trans (if_pos ⟨named, on⟩)⟩
    decide
  · obtain ⟨off, back⟩ := fold_withdrawExpert (namedClusters v) regs (namedClusters_apart hc)
    have named := thrBase_mem_namedClusters hc hv
    refine ⟨off.trans (if_pos named), fun on => (back _ ?_).trans (if_pos ⟨named, on⟩)⟩
    exact expertOffsets_thrBase c hc ▸ List.mem_singleton_self _
  · rintro rfl
    rw [namedBlocks_zero, namedClusters_zero]
    exact ⟨rfl, rfl⟩

/-- Settles O37: each global register by its own rule; the expert sets by following one block through all withdrawals. -/
theorem registerSideEffects : Obligations.RegisterSideEffects :=
  ⟨scratchHoldsWhatIsWritten, readsThatClearOrLatch, resetRegisterNeedsItsKey, expertValuesAreWithdrawn⟩

end

section
/-! SUPPORT. Commands: the row of each opcode and its common checks (R537, R539), where a completion goes (R457, R541, R544), and the
descriptors of a command ring (R456, R463). -/

namespace Sys2Proof.Machine

open Host

/-! ### The rows of the command tables -/

/-- R538: every row of the tables runs the executor on its opcode, whose rule names the same authorities. -/
theorem CommandRow.runs {p : CmdPort} {d : Desc} {data : List Byte} {ok : Bool} {op : Nat} {i : Instr} {who : List Authority}
    (h : CommandRow p d data ok op i who) :
    (∃ data' ok', ∀ s, exec i s = commandRow op p d data' ok' s) ∧
      ∃ rule, cmdRule op = some rule ∧ ∀ a, rule.permits a = true ↔ a ∈ who := by
  simp only [CommandRow, List.cons_append, List.nil_append, List.mem_cons, List.not_mem_nil, or_false, Prod.mk.injEq] at h
  rcases h with h | h | h | h | h | h | h | h | h | h | h | h | h | h | h | h | h | h | h | h | h | h | h | h | h | h | h | h | h | h |
    h | h | h | h | h | h
  all_goals
    obtain ⟨rfl, rfl, rfl⟩ := h
    exact ⟨⟨_, _, fun s => rfl⟩, _, rfl, fun a => by cases a <;> decide⟩

theorem commandRow_unserved {op : Nat} {p : CmdPort} {s : State} (h : s.serves p = false) (d : Desc) (data : List Byte) (ok : Bool) :
    commandRow op p d data ok s = .next s := by
  simp [commandRow, h]

/-- A served command that a common check refuses completes with that status. -/
theorem commandRow_refused {op : Nat} {p : CmdPort} {d : Desc} {s : State} {status : Nat} (hop : opcodeOf d = op)
    (hs : s.serves p = true) (h : commandRefusal s p d = some status) (data : List Byte) (ok : Bool) :
    commandRow op p d data ok s = .next (completeCmd s p d (.of status)) := by
  simp [commandRow, hop, hs, runCommand, h]

/-! ### The common checks in their order (R537, R539) -/

section checks
variable {s : State} {p : CmdPort} {d : Desc} {rule : CmdRule} (hr : cmdRule (opcodeOf d) = some rule)

include hr

theorem commandRefusal_frozen (hf : s.dev = .frozen) (hx : runsFrozen (opcodeOf d) = false) : commandRefusal s p d = some 0x0C := by
  simp only [commandRefusal, hr, hf, hx, Bool.not_false, and_self, if_true, stBadState]

theorem commandRefusal_denied (hf : ¬(s.dev = .frozen ∧ runsFrozen (opcodeOf d) = false)) (ha : rule.permits (authorityOf p) = false) :
    commandRefusal s p d = some 0x04 := by
  simp only [commandRefusal, hr, Bool.not_eq_true', hf, if_false, ha, if_true, stDenied]

theorem commandRefusal_reserved (hf : ¬(s.dev = .frozen ∧ runsFrozen (opcodeOf d) = false)) (ha : rule.permits (authorityOf p) = true)
    (hd : rule.reserved d = true) : commandRefusal s p d = some 0x02 := by
  simp only [commandRefusal, hr, Bool.not_eq_true', hf, if_false, ha, Bool.true_eq_false, hd, if_true, stBadField]

theorem commandRefusal_none (hf : ¬(s.dev = .frozen ∧ runsFrozen (opcodeOf d) = false)) (ha : rule.permits (authorityOf p) = true)
    (hd : rule.reserved d = false) : commandRefusal s p d = none := by
  simp only [commandRefusal, hr, Bool.not_eq_true', hf, if_false, ha, Bool.true_eq_false, hd, Bool.false_eq_true]

end checks

theorem runsFrozen_eq_false (op : Nat) :
    runsFrozen op = false ↔ op ∉ [0x0502, 0x0510, 0x0511, 0x0521, 0x0533, 0x0570, 0x0580, 0x0581] := by
  rw [runsFrozen, ← Bool.not_eq_true, List.contains_iff_mem]

/-! ### Where a completion goes -/

theorem withPhase_first (c : Desc) : withPhase c 0 1 = { c with w7 := c.w7 &&& 0x7FFFFFFF ||| 0x80000000 } := rfl

section ringPort
variable {s : State} {fn : Fin 1028} {r : BitVec 16} {c : CmdResult} (noDma : c.status ≠ stDmaError) (idx : BitVec 16) (sol : Bool) (d : Desc)

include noDma

/-- R457: the completion of a command of a ring is an entry of the ring's completion ring. -/
theorem completeCmd_ring {v : HRing} (h : s.hring fn r.toNat = some v) :
    completeCmd s (.ring fn r idx sol) d c = postCompletion s fn v.cq
      { d := completion 3 c.status r.toNat d.w1 (BitVec.ofNat 32 idx.toNat) c.r0 s.now c.r1 (c.r2 &&& 0x7FFFFFFF), solicit := sol } := by
  simp only [completeCmd, noDma, if_false, h]

theorem completeCmd_noRing (h : s.hring fn r.toNat = none) : completeCmd s (.ring fn r idx sol) d c = s := by
  simp only [completeCmd, noDma, if_false, h]

end ringPort

/-! ### The rings that completions and submissions leave -/

theorem sfind_sins {α : Type} (m : SMap α) (k : Nat) (v : α) : sfind (sins m k v) k = some v := by
  induction m with
  | nil => simp [sins, sfind]
  | cons e m ih =>
    unfold sins
    split
    · simp [sfind]
    · split
      · simp [sfind]
      · next ne => simp [sfind, ih, Ne.symm ne]

theorem sins_sins {α : Type} (m : SMap α) (k : Nat) (v w : α) : sins (sins m k v) k w = sins m k w := by
  induction m with
  | nil => simp [sins]
  | cons e m ih =>
    by_cases lt : k < e.1
    · simp [sins, lt]
    · by_cases eq : k = e.1
      · simp [sins, eq]
      · simp [sins, lt, eq, ih]

theorem hring_setHring (s : State) (fn r : Nat) (v : HRing) : (s.setHring fn r v).hring fn r = some v := sfind_sins _ _ _

theorem setHring_setHring (s : State) (fn r : Nat) (v w : HRing) : (s.setHring fn r v).setHring fn r w = s.setHring fn r w := by
  simp only [State.setHring, State.setHqe, sins_sins]

/-- A ring is found where the rings are the same. -/
theorem hring_of_rings {s u : State} (h : u.hqe.rings = s.hqe.rings) (fn r : Nat) : u.hring fn r = s.hring fn r := by
  rw [State.hring, State.hring, h]

theorem signalVector_rings (s : State) (fn v : Nat) : (signalVector s fn v).hqe.rings = s.hqe.rings := by
  unfold signalVector; dsimp only
  split
  · rfl
  · split <;> rfl

theorem signalCq_rings (s : State) (fn q : Nat) (solicit : Bool) : (signalCq s fn q solicit).hqe.rings = s.hqe.rings := by
  unfold signalCq
  split
  · rfl
  · dsimp only
    split
    · exact signalVector_rings _ _ _
    · rfl

/-- R458: an entry of a completion ring leaves the descriptor rings. -/
theorem postCompletion_rings (s : State) (fn q : Nat) (e : Completion) : (postCompletion s fn q e).hqe.rings = s.hqe.rings := by
  unfold postCompletion
  split
  · rfl
  · split
    · exact signalCq_rings _ _ _ _
    · rfl

theorem completeCmd_rings (s : State) (p : CmdPort) (d : Desc) (c : CmdResult) : (completeCmd s p d c).hqe.rings = s.hqe.rings := by
  cases p with
  | board tag | fabric node seq => rfl
  | ring fn r idx sol =>
    have counted : (if c.status = stDmaError then s.count (hqeBase + 0x920) else s).hqe.rings = s.hqe.rings := by split <;> rfl
    unfold completeCmd
    dsimp only
    split
    · exact counted
    · exact (postCompletion_rings _ _ _ _).trans counted

theorem stopAfterEntry_rings (s : State) (g : Nat) : (stopAfterEntry s g).hqe.rings = s.hqe.rings := by
  unfold stopAfterEntry
  split
  · rfl
  · split <;> rfl

/-- R186: an item that enters the Dealer leaves the descriptor rings. -/
theorem enterSubmission_rings (s : State) (w : List Word) : (enterSubmission s w).hqe.rings = s.hqe.rings := by
  unfold enterSubmission
  dsimp only
  split
  · rfl
  · exact stopAfterEntry_rings _ _

/-- R469: nothing ends with a descriptor of a ring that is not being destroyed. -/
theorem finishDestroy_alive {s : State} {fn r : Nat} {v : HRing} (h : s.hring fn r = some v) (alive : v.dying = none) :
    finishDestroy s fn r = s := by
  simp only [finishDestroy, h, alive]

/-! ### The oldest descriptor of a command ring (R456, R463) -/

theorem fenceHolds_of_flag {h : HDesc} (flag : bitAt h.d.w0 8 = false) (s : State) (fn r : Nat) (v : HRing) :
    fenceHolds s fn r v h = false := by
  simp [fenceHolds, flag]

theorem fenceHolds_of_items {h : HDesc} {v : HRing} (flag : bitAt h.d.w0 8 = true) (items : v.items ≠ []) (s : State) (fn r : Nat) :
    fenceHolds s fn r v h = true := by
  simp [fenceHolds, flag, items]

/-- R457: a command descriptor that is refused completes with its status alone. -/
theorem failDescriptor_cmd {v : HRing} (h : v.typ = .cmd) (s : State) (fn r status idx : Nat) (cookie w6 : Word) (solicit : Bool) :
    failDescriptor s fn r v status idx cookie w6 solicit = postCompletion s fn v.cq
      { d := completion 3 status r cookie (BitVec.ofNat 32 (idx % 65536)) 0 s.now 0 0, solicit := solicit } := by
  simp [failDescriptor, h, RingType.kind]

/-- What the oldest descriptor `h` of a ring comes to, in the state `s1` without it. -/
def descriptorRun (s s1 : State) (fn : Fin 1028) (r : BitVec 16) (v : HRing) (h : HDesc) (data : List Byte) (ok : Bool) : State :=
  let fails := fun (st : State) (status : Nat) => failDescriptor st fn r.toNat v status h.idx h.d.w1 0 h.solicit
  let p := CmdPort.ring fn r (BitVec.ofNat 16 h.idx) h.solicit
  if bits h.d.w0 7 0 ≠ 0x20 then fails s1 stBadOpcode
  else if v.core then submitHost s s1 fn r.toNat v h fails
  else if s.serves p then runCommand s1 p h.d data ok else s

theorem descriptorRun_exec {v : HRing} {h : HDesc} (mode : bits h.d.w0 7 0 = 0x20) (exe : v.core = false) (s s1 : State) (fn : Fin 1028)
    (r : BitVec 16) (data : List Byte) (ok : Bool) :
    descriptorRun s s1 fn r v h data ok = if s.serves (.ring fn r (BitVec.ofNat 16 h.idx) h.solicit)
      then runCommand s1 (.ring fn r (BitVec.ofNat 16 h.idx) h.solicit) h.d data ok else s := by
  simp only [descriptorRun, mode, exe, ne_eq, not_true_eq_false, if_false, Bool.false_eq_true]

theorem descriptorRun_core {v : HRing} {h : HDesc} (mode : bits h.d.w0 7 0 = 0x20) (core : v.core = true) (s s1 : State) (fn : Fin 1028)
    (r : BitVec 16) (data : List Byte) (ok : Bool) :
    descriptorRun s s1 fn r v h data ok = submitHost s s1 fn r.toNat v h
      fun st status => failDescriptor st fn r.toNat v status h.idx h.d.w1 0 h.solicit := by
  simp only [descriptorRun, mode, core, ne_eq, not_true_eq_false, if_false, if_true]

section submit
variable {h : HDesc} (s s1 : State) (fn r : Nat) (v : HRing) (fails : State → Nat → State)

theorem submitHost_reserved (reserved : bits h.d.w0 15 9 ≠ 0) : submitHost s s1 fn r v h fails = fails s1 stBadField := if_pos reserved

variable (clean : bits h.d.w0 15 9 = 0)

include clean

theorem submitHost_badOpcode (high : 256 ≤ opcodeOf h.d) : submitHost s s1 fn r v h fails = fails s1 stBadOpcode := by
  simp only [submitHost, clean, ne_eq, not_true_eq_false, if_false, high, if_true]

variable (low : opcodeOf h.d < 256)

include low

theorem submitHost_refused {status : Nat} (h0 : s.submitStatus (hostItem fn r v h) true = status) (bad : status ≠ 0) :
    submitHost s s1 fn r v h fails = fails (countRefused s1) (submitFailure status) := by
  simp only [submitHost, clean, ne_eq, not_true_eq_false, if_false, Nat.not_le.2 low, h0, bad, not_false_eq_true, if_true]

theorem submitHost_waits (h0 : s.submitStatus (hostItem fn r v h) true = 0) (full : s.submitRoom (hostItem fn r v h) true = false) :
    submitHost s s1 fn r v h fails = s := by
  simp only [submitHost, clean, ne_eq, not_true_eq_false, if_false, Nat.not_le.2 low, h0, full, Bool.not_false, if_true]

theorem submitHost_enters (h0 : s.submitStatus (hostItem fn r v h) true = 0) (room : s.submitRoom (hostItem fn r v h) true = true)
    {v1 : HRing} (there : s1.hring fn r = some v1) : submitHost s s1 fn r v h fails =
      enterSubmission (s1.setHring fn r { v1 with items := v1.items ++ [(h.idx, h.d.w1, h.solicit)] }) (hostItem fn r v h) := by
  simp only [submitHost, clean, ne_eq, not_true_eq_false, if_false, Nat.not_le.2 low, h0, room, Bool.not_true, Bool.false_eq_true, there]

end submit

section descriptor
variable {s : State} {fn : Fin 1028} {r : BitVec 16} {v : HRing} {h : HDesc} {rest : List HDesc}
  (found : s.hring fn r.toNat = some v) (fetched : v.fetched = h :: rest)

include found fetched

theorem exec_cmd_fenced (fence : fenceHolds s fn r.toNat v h = true) (data : List Byte) (ok : Bool) :
    exec (.cmd fn r data ok) s = .next s := by
  change execCmd fn r data ok s = _
  simp only [execCmd, found, fetched, fence, or_true, if_true]

theorem exec_cmd (cmd : v.typ = .cmd) (runs : s.hqeRuns fn = true) (fence : fenceHolds s fn r.toNat v h = false)
    (data : List Byte) (ok : Bool) {u : State}
    (e : descriptorRun s (s.setHring fn r.toNat { v with fetched := rest }) fn r v h data ok = u)
    (kept : ∃ v', u.hring fn r.toNat = some v' ∧ v'.dying = none) :
    exec (.cmd fn r data ok) s = .next u := by
  obtain ⟨v', still, alive'⟩ := kept
  have finish : execCmd fn r data ok s =
      .next (finishDestroy (descriptorRun s (s.setHring fn r.toNat { v with fetched := rest }) fn r v h data ok) fn r.toNat) := by
    simp only [execCmd, descriptorRun, found, fetched, fence, runs, cmd, Bool.not_true, Bool.false_eq_true, ne_eq, not_true_eq_false,
      or_self, if_false]
    split
    · rfl
    · split <;> rfl
  exact finish.trans (by rw [e, finishDestroy_alive still alive'])

end descriptor

/-- R538: IDENTIFY with no operand passes every check. -/
theorem commandRefusal_identify {d : Desc} (op : opcodeOf d = 0x0581) (reserved : bits d.w0 15 9 = 0)
    (operands : operandsOf d = [0, 0, 0, 0, 0, 0]) (s : State) (p : CmdPort) : commandRefusal s p d = none := by
  have rule : cmdRule (opcodeOf d) = some { board := true, host := true, tenant := true, fabric := true, used := [0, 0, 0, 0, 0, 0] } := by
    rw [op]; rfl
  have runs : runsFrozen (opcodeOf d) = true := by rw [op]; decide
  refine commandRefusal_none rule (by simp [runs]) (by cases authorityOf p <;> rfl) ?_
  rw [CmdRule.reserved, reserved, operands]
  decide

theorem runCommand_refused {s : State} {p : CmdPort} {d : Desc} {status : Nat} (h : commandRefusal s p d = some status)
    (data : List Byte) (ok : Bool) : runCommand s p d data ok = completeCmd s p d (.of status) := by
  simp only [runCommand, h]

theorem runCommand_identify {d : Desc} (op : opcodeOf d = 0x0581) (reserved : bits d.w0 15 9 = 0)
    (operands : operandsOf d = [0, 0, 0, 0, 0, 0]) (s : State) (p : CmdPort) (data : List Byte) (ok : Bool) :
    runCommand s p d data ok = completeCmd s p d
      { status := 0, r0 := 0x16401F9A, r1 := s.mgt.fwVersion, r2 := BitVec.ofNat 32 s.ownNode, data := [] } := by
  simp only [runCommand, commandRefusal_identify op reserved operands, commandBody, op]
  rfl

end Sys2Proof.Machine

open Sys2Proof Sys2Proof.Machine Host

theorem commandsAreCheckedInOrder : Claim.CommandsAreCheckedInOrder := by
  intro s p d data ok op i who row hop
  obtain ⟨⟨data', ok', runs⟩, rule, hr, permits⟩ := row.runs
  rw [← hop] at hr
  refine ⟨fun idle => (runs s).trans (commandRow_unserved idle d _ _), fun served => ?_⟩
  have fails (status : Nat) (h : commandRefusal s p d = some status) : Fails i s p d status :=
    (runs s).trans (commandRow_refused hop served h _ _)
  simp only [← runsFrozen_eq_false, ← hop, ← permits]
  refine ⟨fun ⟨frozen, out⟩ => fails _ (commandRefusal_frozen hr frozen out),
    fun live denied => fails _ (commandRefusal_denied hr live (by simpa using denied)),
    fun live may reserved => fails _ (commandRefusal_reserved hr live may ?_)⟩
  simp [CmdRule.reserved, reserved]

theorem completionsGoToTheirPorts : Claim.CompletionsGoToTheirPorts := by
  intro s d c
  refine ⟨fun fn r idx sol v ok h => ?_, fun fn r idx sol ok h => ?_, fun tag => ?_, fun node seq => rfl⟩
  · exact completeCmd_ring ok idx sol d h
  · exact completeCmd_noRing ok idx sol d h
  · simp only [completeCmd, mctpResponse, BitVec.ofNat_toNat, BitVec.setWidth_eq, withPhase_first]

theorem commandDescriptorsAreRun : Claim.CommandDescriptorsAreRun := by
  intro s fn r data ok v h rest found cmd alive fetched runs s1 p op item fails fence
  refine ⟨fun ⟨flag, held⟩ => exec_cmd_fenced found fetched ?_ data ok, fun flag => ?_⟩
  · exact held.elim (fun items => fenceHolds_of_items flag items _ _ _) id
  have noFence := fenceHolds_of_flag flag s fn r.toNat v
  -- a state with the rings of `s1` is what the command comes to
  have runsTo (u : State) (e : descriptorRun s s1 fn r v h data ok = u) (same : u.hqe.rings = s1.hqe.rings) :
      exec (.cmd fn r data ok) s = .next u :=
    exec_cmd found fetched cmd runs noFence data ok e ⟨_, (hring_of_rings same _ _).trans (hring_setHring s fn r.toNat _), alive⟩
  have staysAt (e : descriptorRun s s1 fn r v h data ok = s) : exec (.cmd fn r data ok) s = .next s :=
    exec_cmd found fetched cmd runs noFence data ok e ⟨v, found, alive⟩
  have failsIn (t : State) (status : Nat) (same : t.hqe.rings = s1.hqe.rings) (now : t.now = s.now)
      (e : descriptorRun s s1 fn r v h data ok = failDescriptor t fn r.toNat v status h.idx h.d.w1 0 h.solicit) : fails t status :=
    runsTo _ (e.trans (by rw [failDescriptor_cmd cmd, now])) ((postCompletion_rings _ _ _ _).trans same)
  refine ⟨fun mode => failsIn s1 _ rfl rfl (if_pos mode), fun mode exe idle => staysAt ?_, fun mode exe served => ?_, fun mode core => ?_⟩
  · rw [descriptorRun_exec mode exe, if_neg (by simpa [p] using idle)]
  · have run : descriptorRun s s1 fn r v h data ok = runCommand s1 p h.d data ok := by rw [descriptorRun_exec mode exe, if_pos served]
    refine ⟨fun status refused => ?_, fun identify reserved operands => ?_⟩
    · exact runsTo _ (run.trans (runCommand_refused refused data ok)) (completeCmd_rings _ _ _ _)
    · exact runsTo _ (run.trans (runCommand_identify identify reserved operands s1 p data ok)) (completeCmd_rings _ _ _ _)
  · have run := descriptorRun_core mode core s s1 fn r data ok
    refine ⟨fun reserved => failsIn s1 _ rfl rfl (run.trans (submitHost_reserved _ _ _ _ _ _ reserved)),
      fun clean high => failsIn s1 _ rfl rfl (run.trans (submitHost_badOpcode _ _ _ _ _ _ clean high)), fun clean low => ?_⟩
    have refused (status : Nat) (answer : s.submitStatus item true = status) (bad : status ≠ 0) :
        fails (countRefused s1) (submitFailure status) :=
      failsIn (countRefused s1) _ rfl rfl (run.trans (submitHost_refused _ _ _ _ _ _ clean low answer bad))
    refine ⟨fun status => refused 2 status (by decide), fun status => refused 3 status (by decide), fun status full => ?_,
      fun status room => ?_⟩
    · exact staysAt (run.trans (submitHost_waits _ _ _ _ _ _ clean low status full))
    · have enters := run.trans (submitHost_enters _ s1 _ _ _ _ clean low status room (hring_setHring s fn r.toNat _))
      rw [setHring_setHring] at enters
      exact exec_cmd found fetched cmd runs noFence data ok enters
        ⟨_, (hring_of_rings (enterSubmission_rings _ _) _ _).trans (hring_setHring s fn r.toNat _), alive⟩

/-- Settles O52: the checks for every row of the tables, the three ports, and the branches of a descriptor's run. -/
theorem commandsAndCompletions : Obligations.CommandsAndCompletions :=
  ⟨commandsAreCheckedInOrder, completionsGoToTheirPorts, commandDescriptorsAreRun⟩

end

section
/-! SUPPORT. Resets of the device and of a PCIe port (R49, R469, R470, R569–R572): what each clears, and the functions of the HQE that
a reset takes away. -/

namespace Sys2Proof.Machine

open Host

/-! ### What a reset clears (R570) -/

/-- The causes, pins, logs and Negatives that the kinds of reset treat differently are no part of `Cleared`. -/
theorem Cleared.differing {s u : State} (h : Cleared s u) (dev : DevState) (faultN : Bool) (hbm : Hbm) (events : EventLog)
    (mgt : Mgt) (pwr : Pwr) :
    Cleared s { u with dev := dev, faultN := faultN, hbm := hbm, events := events, mgt := mgt, pwr := pwr } :=
  ⟨h.mems, h.registers, h.threads, h.packets, h.links, h.ring, h.tim, h.outside⟩

/-- The pins, the bookkeeping of resets and the controllers are not what a reset keeps. -/
theorem Cleared.source {s u : State} {hbm : Hbm} {pwr : Pwr} {mgt : Mgt} (h : Cleared { s with hbm := hbm, pwr := pwr, mgt := mgt } u) : Cleared s u :=
  ⟨h.mems, h.registers, h.threads, h.packets, h.links, h.ring, h.tim, h.outside⟩

theorem clearDevice_cleared (s : State) : Cleared s (clearDevice s) where
  mems := rfl
  registers := ⟨rfl, rfl, rfl⟩
  threads := ⟨rfl, rfl, rfl⟩
  packets := ⟨rfl, rfl, rfl, rfl, rfl, rfl⟩
  links := ⟨rfl, rfl, rfl⟩
  ring := ⟨rfl, List.map_map ..⟩
  tim := rfl
  outside := ⟨rfl, rfl, rfl⟩

theorem coldReset_cleared (s : State) (cause : Nat) : Cleared s (coldReset s cause) :=
  (clearDevice_cleared s).differing _ _ _ _ _ _

theorem warmReset_cleared (s : State) (cause : Nat) : Cleared s (warmReset s cause) :=
  (clearDevice_cleared s).differing _ _ _ _ _ _

/-! ### The end of a reset (R49, R571) -/

theorem leaveReset_of_released {s : State} (dev : s.dev = .reset) (por : s.pwr.por = false) (warm : s.pwr.warm = false)
    (held : s.pwr.held = false) (vddIo : s.pwr.vddIo = true) : leaveReset s = enterBoot s := by
  simp [leaveReset, dev, por, warm, held, vddIo]

theorem startWarm_of_idle {s : State} (h : s.negBusy = false) (cause : Nat) : startWarm s cause = warmReset s cause := by
  simp [startWarm, h]

theorem startWarm_of_busy {s : State} (h : s.negBusy = true) (cause : Nat) :
    startWarm s cause = s.setPwr { s.pwr with warmWaits := some cause } := by
  simp [startWarm, h]

theorem exec_warmResetStart {s : State} {t : Time} (h : s.mgt.warmAt = some t) : exec .warmResetStart s =
    .next (if t ≤ s.now ∧ s.dev ≠ .reset then leaveReset (startWarm (s.setMgt { s.mgt with warmAt := none }) 3) else s) := by
  change execWarmResetStart s = _
  simp only [execWarmResetStart, h]

section poresetNDeassert
variable {s : State} (sel : BitVec 2) (por : s.pwr.por = true)

include por

/-- R561: PORESET_N ends a hold only after 100 µs. -/
theorem exec_poresetNDeassert_short (held : s.pwr.held = true) (short : s.elapsed s.pwr.porAt < usFtu 100) :
    exec (.poresetNDeassert sel) s = .next (s.setPwr { s.pwr with por := false }) := by
  change execPoresetNDeassert sel s = _
  rw [execPoresetNDeassert, por, if_neg (by decide), if_pos ⟨held, short⟩]

theorem exec_poresetNDeassert_released (ended : s.pwr.held = false ∨ usFtu 100 ≤ s.elapsed s.pwr.porAt) (dev : s.dev = .reset)
    (warm : s.pwr.warm = false) (vddIo : s.pwr.vddIo = true) : exec (.poresetNDeassert sel) s =
      .next (enterBoot ((s.setPwr { s.pwr with por := false, held := false }).setMgt { s.mgt with bootSel := sel, pinSel := sel })) := by
  have free : ¬(s.pwr.held = true ∧ s.elapsed s.pwr.porAt < usFtu 100) := by
    rintro ⟨held, short⟩
    rcases ended with h | h
    · simp [held] at h
    · omega
  change execPoresetNDeassert sel s = _
  rw [execPoresetNDeassert, por, if_neg (by decide), if_neg free]
  exact congrArg Outcome.next (leaveReset_of_released dev rfl warm rfl vddIo)

end poresetNDeassert

/-! ### Sparse stores of any form -/

/-- A value that is listed is read back, in whatever order the keys stand. -/
theorem sget_sput_self {α : Type} [DecidableEq α] {d v : α} (h : v ≠ d) (m : SMap α) (k : Nat) : sget d (sput d m k v) k = v := by
  induction m with
  | nil => simp [sput, h, sget]
  | cons e m ih =>
    unfold sput
    split
    · simp [sget]
    · split
      · simp [sget]
      · next ne => simp [sget, Ne.symm ne, ih]

theorem sput_sput {α : Type} [DecidableEq α] {d v : α} (h : v ≠ d) (m : SMap α) (k : Nat) (w : α) :
    sput d (sput d m k v) k w = sput d m k w := by
  induction m with
  | nil => by_cases hw : w = d <;> simp [sput, h, hw]
  | cons e m ih =>
    by_cases lt : k < e.1
    · by_cases hw : w = d <;> simp [sput, h, lt, hw]
    · by_cases eq : k = e.1
      · by_cases hw : w = d <;> simp [sput, h, eq, hw]
      · simp [sput, lt, eq, ih]

theorem mem_sput {α : Type} [DecidableEq α] {d v : α} {k : Nat} {e : Nat × α} {m : SMap α} (h : e ∈ sput d m k v) :
    e ∈ m ∨ e.1 = k := by
  induction m with
  | nil =>
    unfold sput at h
    split at h
    · simp at h
    · exact .inr (by simp at h; simp [h])
  | cons x m ih =>
    unfold sput at h
    repeat' split at h
    · exact .inl h
    · rcases List.mem_cons.1 h with rfl | h
      · exact .inr rfl
      · exact .inl h
    · exact .inl (.tail _ h)
    · rcases List.mem_cons.1 h with rfl | h
      · exact .inr rfl
      · exact .inl (.tail _ h)
    · rcases List.mem_cons.1 h with rfl | h
      · exact .inl (.head _)
      · exact (ih h).imp_left (.tail _)

theorem mem_keys_sins {α : Type} (m : SMap α) (k : Nat) (v : α) (n : Nat) :
    n ∈ (sins m k v).map (·.1) ↔ n = k ∨ n ∈ m.map (·.1) := by
  induction m with
  | nil => simp [sins]
  | cons e m ih =>
    unfold sins
    split
    · simp
    · split
      · next eq => simp [eq]
      · simp only [List.map_cons, List.mem_cons, ih]
        exact or_left_comm

theorem mem_dedupSorted (l : List Nat) (n : Nat) : n ∈ dedupSorted l ↔ n ∈ l := by
  have fold (m : SMap Unit) : n ∈ (l.foldl (fun m n => sins m n ()) m).map (·.1) ↔ n ∈ l ∨ n ∈ m.map (·.1) := by
    induction l generalizing m with
    | nil => simp
    | cons x l ih =>
      rw [List.foldl_cons, ih, mem_keys_sins, List.mem_cons, ← or_assoc, or_comm (a := n ∈ l)]
  simpa [dedupSorted] using fold []

/-! ### Functions reset (R469, R470) -/

/-- Which PF a function belongs to follows the port modes alone. -/
theorem pfOf_of_modes {s u : State} (h0 : u.hqe.h0Split = s.hqe.h0Split) (h1 : u.hqe.h1Split = s.hqe.h1Split) (n : Nat) :
    u.pfOf n = s.pfOf n := by
  have split : u.pfSplit = s.pfSplit := by funext p; rw [State.pfSplit, State.pfSplit, h0, h1]
  have present : u.pfPresent = s.pfPresent := by funext p; rw [State.pfPresent, State.pfPresent, split]
  have vfs : u.totalVfs = s.totalVfs := by funext p; rw [State.totalVfs, State.totalVfs, present, split]
  have base : u.vfBase = s.vfBase := by funext p; rw [State.vfBase, State.vfBase, vfs]
  rw [State.pfOf, State.pfOf, base, vfs]

theorem pfOf_pf {s : State} {n : Nat} (h : n < 4) : s.pfOf n = n := if_pos h

theorem setHqe_setHqe (s : State) (a b : Hqe) : (s.setHqe a).setHqe b = s.setHqe b := rfl

/-- The functions `ns` have been reset: their rings, completion rings and streams are gone, and nothing outside the HQE differs. -/
structure FnsReset (s u : State) (ns : List Nat) : Prop where
  only : u = s.setHqe u.hqe
  pfOf : ∀ n, u.pfOf n = s.pfOf n
  rings : ∀ e ∈ u.hqe.rings, e ∈ s.hqe.rings ∧ e.1 / 65536 ∉ ns
  cqs : ∀ e ∈ u.hqe.cqs, e ∈ s.hqe.cqs ∧ e.1 / 65536 ∉ ns
  streams : ∀ e ∈ u.hqe.streams, e ∈ s.hqe.streams ∧ e.2.fn ∉ ns
  fns : ∀ e ∈ u.hqe.fns, e ∈ s.hqe.fns ∨ e.1 ∈ ns

theorem FnsReset.refl (s : State) : FnsReset s s [] :=
  ⟨rfl, fun _ => rfl, by simp, by simp, by simp, fun _ => .inl⟩

theorem FnsReset.trans {s u w : State} {ns ms : List Nat} (h : FnsReset s u ns) (k : FnsReset u w ms) : FnsReset s w (ns ++ ms) where
  only := by rw [k.only, h.only, setHqe_setHqe, State.setHqe_hqe]
  pfOf n := (k.pfOf n).trans (h.pfOf n)
  rings e he := by
    obtain ⟨hu, hm⟩ := k.rings e he
    exact (h.rings e hu).imp_right fun hn => by simp [hn, hm]
  cqs e he := by
    obtain ⟨hu, hm⟩ := k.cqs e he
    exact (h.cqs e hu).imp_right fun hn => by simp [hn, hm]
  streams e he := by
    obtain ⟨hu, hm⟩ := k.streams e he
    exact (h.streams e hu).imp_right fun hn => by simp [hn, hm]
  fns e he := by
    rw [List.mem_append]
    rcases k.fns e he with hu | hm
    · exact (h.fns e hu).imp_right .inl
    · exact .inr (.inr hm)

theorem resetFn_reset (s : State) (fn : Nat) : FnsReset s (resetFn s fn) [fn] where
  only := by simp only [resetFn, dropRings, State.setFn, setHqe_setHqe, State.setHqe_hqe]
  pfOf := pfOf_of_modes (s := s) (u := resetFn s fn) rfl rfl
  rings e he := by simpa [resetFn, dropRings, State.setFn] using he
  cqs e he := by simpa [resetFn, dropRings, State.setFn] using he
  streams e he := by simpa [resetFn, dropRings, State.setFn] using he
  fns e he := by
    rw [List.mem_singleton]
    rcases mem_sput he with h | h
    · exact mem_sput h
    · exact .inr h

theorem fold_resetFn_reset (ns : List Nat) (s : State) : FnsReset s (ns.foldl resetFn s) ns := by
  induction ns generalizing s with
  | nil => rw [List.foldl_nil]; exact .refl s
  | cons n ns ih => rw [List.foldl_cons]; exact (resetFn_reset s n).trans (ih _)

/-- R470: an FLR of a PF resets the VFs that anything is kept of, and the PF. -/
theorem flrFn_reset (s : State) (fn : Nat) : FnsReset s (flrFn s fn) ((if fn < 4 then s.vfNumbers fn else []) ++ [fn]) := by
  by_cases h : fn < 4
  · rw [flrFn, if_pos h, if_pos h]
    exact (fold_resetFn_reset _ s).trans (resetFn_reset _ fn)
  · rw [flrFn, if_neg h, if_neg h]
    exact resetFn_reset s fn

theorem mem_vfNumbers {s : State} {pf n : Nat} : n ∈ s.vfNumbers pf ↔
    (n ∈ s.hqe.fns.map (·.1) ∨ n ∈ s.hqe.rings.map (·.1 / 65536)) ∧ 4 ≤ n ∧ s.pfOf n = pf := by
  rw [State.vfNumbers, mem_dedupSorted, List.mem_filter, List.mem_append]
  simp

/-! ### A PCIe port's reset (R49, R469) -/

/-- R49: one PF of a port that is reset. -/
def resetPf (s : State) (pf : Nat) : State :=
  let s1 := flrFn s pf
  let s2 := s1.setHqe { s1.hqe with fns := s1.hqe.fns.filter fun (e : Nat × HqeFn) => s1.pfOf e.1 != pf }
  { s2 with events := { s2.events with rings := sdel s2.events.rings pf } }

theorem resetPort_eq (s : State) (h : Nat) : resetPort s h = resetPf (resetPf s (2 * h)) (2 * h + 1) := rfl

theorem resetPf_hqe (s : State) (pf : Nat) : (resetPf s pf).hqe =
    { (flrFn s pf).hqe with fns := (flrFn s pf).hqe.fns.filter fun (e : Nat × HqeFn) => (flrFn s pf).pfOf e.1 != pf } := rfl

/-- The pages of a PF and of its VFs go with its reset; beside the HQE, only its event ring goes. -/
theorem resetPf_spec (s : State) {pf : Nat} (h : pf < 4) :
    (∃ hqe events, resetPf s pf = { s with hqe := hqe, events := events }) ∧ (∀ n, (resetPf s pf).pfOf n = s.pfOf n) ∧
      ∀ e ∈ (resetPf s pf).hqe.fns, e ∈ s.hqe.fns ∧ s.pfOf e.1 ≠ pf := by
  have flr := flrFn_reset s pf
  have only : resetPf s pf = { s with hqe := (resetPf s pf).hqe, events := (resetPf s pf).events } := by
    rw [resetPf, flr.only]; rfl
  refine ⟨⟨_, _, only⟩, fun n => ?_, fun e he => ?_⟩
  · exact (pfOf_of_modes (by rw [resetPf_hqe]) (by rw [resetPf_hqe]) n).trans (flr.pfOf n)
  rw [resetPf_hqe] at he
  obtain ⟨he, other⟩ := List.mem_filter.1 he
  rw [flr.pfOf] at other
  replace other : s.pfOf e.1 ≠ pf := by simpa using other
  refine ⟨(flr.fns e he).resolve_right fun mine => ?_, other⟩
  rw [if_pos h, List.mem_append, mem_vfNumbers, List.mem_singleton] at mine
  rcases mine with ⟨_, _, vf⟩ | rfl
  · exact other vf
  · exact other (pfOf_pf h)

end Sys2Proof.Machine

open Sys2Proof Sys2Proof.Machine Host

theorem resetsClearTheDevice : Claim.ResetsClearTheDevice := by
  intro s sel v
  refine ⟨fun vddIo => ?_, fun vddIo => ?_, ?_, ?_, fun live idle => ?_, fun live busy => ?_, fun dev => congrArg Outcome.next (if_pos dev),
    fun t due now live idle por warm held vddIo => ?_, fun t due early => ?_, fun none => ?_,
    fun por dev warm vddIo => ⟨fun ended => ?_, fun held short => ?_⟩, fun dev por held vddIo => ?_, rfl⟩
  · exact ⟨_, congrArg Outcome.next (if_pos vddIo), (coldReset_cleared s _).differing .., rfl, rfl, rfl, rfl, rfl, rfl⟩
  · exact ⟨_, congrArg Outcome.next (if_pos vddIo), (coldReset_cleared s 4).differing .., rfl, rfl, rfl, rfl, rfl, rfl⟩
  · exact ⟨_, rfl, (coldReset_cleared s _).differing .., rfl, rfl, rfl, rfl, rfl, rfl, rfl⟩
  · exact ⟨_, rfl, (coldReset_cleared s _).differing .., rfl, rfl, rfl, rfl, fun off => by simp [coldReset, off]⟩
  · refine ⟨warmReset (s.setPwr { s.pwr with warm := true }) 2, ?_, (warmReset_cleared _ 2).source, rfl, rfl, rfl, ⟨rfl, rfl, rfl⟩, rfl⟩
    exact congrArg Outcome.next ((if_neg live).trans (startWarm_of_idle (by exact idle) 2))
  · exact congrArg Outcome.next ((if_neg live).trans (startWarm_of_busy (by exact busy) 2))
  · refine ⟨enterBoot (warmReset (s.setMgt { s.mgt with warmAt := .none }) 3), ?_, ((warmReset_cleared _ 3).differing ..).source,
      ⟨rfl, rfl, rfl⟩, ⟨rfl, rfl, rfl⟩, rfl⟩
    rw [exec_warmResetStart due, if_pos ⟨now, live⟩, startWarm_of_idle (by exact idle)]
    exact congrArg Outcome.next (leaveReset_of_released rfl por warm held vddIo)
  · rw [exec_warmResetStart due, if_neg fun h => BitVec.not_le.2 early h.1]
  · change execWarmResetStart s = _
    simp only [execWarmResetStart, none]
  · refine ⟨_, exec_poresetNDeassert_released sel por ended dev warm vddIo, ⟨rfl, rfl, rfl⟩, rfl, rfl, rfl, rfl, rfl⟩
  · exact exec_poresetNDeassert_short sel por held short
  · exact ⟨_, congrArg Outcome.next (leaveReset_of_released dev por rfl held vddIo), ⟨rfl, rfl, rfl⟩, rfl, rfl⟩

theorem portResetsLeaveTheDeviceState : Claim.PortResetsLeaveTheDeviceState := by
  intro s h
  have low : 2 * h.val < 4 := by omega
  have high : 2 * h.val + 1 < 4 := by omega
  refine ⟨⟨_, rfl, ?_⟩, rfl⟩
  obtain ⟨⟨hqe, events, first⟩, same, gone⟩ := resetPf_spec s low
  obtain ⟨⟨hqe', events', second⟩, -, gone'⟩ := resetPf_spec (resetPf s (2 * h.val)) high
  have only : resetPort s h = { s with hqe := hqe', events := events' } := by rw [resetPort_eq, second, first]
  refine ⟨by rw [only]; rfl, by rw [only]; rfl, by rw [only]; rfl, fun e he => ?_, by rw [only]; rfl⟩
  obtain ⟨he, ne'⟩ := gone' e he
  obtain ⟨-, ne⟩ := gone e he
  rw [same] at ne'
  omega

/-- Settles O44: every device reset clears what `clearDevice` clears, and a port's reset goes PF by PF. -/
theorem resetsOfTheDevice : Obligations.ResetsOfTheDevice := ⟨resetsClearTheDevice, portResetsLeaveTheDeviceState⟩

end

section
/-! SUPPORT. What logging an event may change (R545, R546, R552): the log, the event rings in host memory, the Contact Sheet and the messages
sent. -/

namespace Sys2Proof.Machine

open Host

/-- R546: only what logging events may change differs. -/
def Logs (s u : State) : Prop := ∃ events host csh sent, u = { s with events := events, mems := { s.mems with host := host }, csh := csh, sent := sent }

theorem Logs.refl (s : State) : Logs s s := ⟨_, _, _, _, rfl⟩

theorem Logs.trans {s u w : State} (h : Logs s u) (k : Logs u w) : Logs s w := by
  obtain ⟨_, _, _, _, rfl⟩ := h
  obtain ⟨_, _, _, _, rfl⟩ := k
  exact ⟨_, _, _, _, rfl⟩

theorem Logs.eq_logged {s u : State} (h : Logs s u) : u = s.logged u := by
  obtain ⟨_, _, _, _, rfl⟩ := h
  rfl

theorem Logs.ite {s u w : State} {c : Prop} [Decidable c] (h : Logs s u) (k : Logs s w) : Logs s (if c then u else w) := by
  split
  · exact h
  · exact k

/-- A step that is taken only sometimes. -/
theorem Logs.maybe {s u w : State} {c : Prop} [Decidable c] (h : Logs s u) (k : Logs u w) : Logs s (if c then w else u) := .ite (h.trans k) h

theorem copyToRing_logs (s : State) (e : EventRec) (x : Nat × EventRing) : Logs s (copyToRing s e x) := ⟨_, _, _, _, rfl⟩

theorem logRecord_logs (s : State) (code sev : Nat) (data : BitVec 128) : Logs s (logRecord s code sev data).1 := by
  have copies (e : EventRec) (rs : SMap EventRing) (u : State) : Logs u (rs.foldl (fun st r => copyToRing st e r) u) := by
    induction rs generalizing u with
    | nil => exact .refl u
    | cons r rs ih => rw [List.foldl_cons]; exact (copyToRing_logs u e r).trans (ih _)
  unfold logRecord
  dsimp only
  exact .maybe (.ite ⟨_, _, _, _, rfl⟩ (Logs.trans ⟨_, _, _, _, rfl⟩ (copies _ _ _))) ⟨_, _, _, _, rfl⟩

theorem cshStart_logs (s : State) : Logs s s.cshStart := ⟨_, _, _, _, rfl⟩

theorem cshOffer_logs (s : State) (r : CshRec) : Logs s (s.cshOffer r) := .maybe (.refl s) ⟨_, _, _, _, rfl⟩

theorem cshStop_logs (s : State) : Logs s s.cshStop := .ite ⟨_, _, _, _, rfl⟩ ⟨_, _, _, _, rfl⟩

theorem logEventN_logs (n : Nat) (s : State) (code sev : Nat) (data : BitVec 128) : Logs s (logEventN n s code sev data) := by
  induction n generalizing s code sev data with
  | zero => exact logRecord_logs s code sev data
  | succ n ih =>
    unfold logEventN
    dsimp only
    refine .ite (.trans ?_ (ih ..)) (.maybe ?_ (ih ..))
    all_goals exact .maybe (.maybe (.maybe (logRecord_logs ..) (cshStart_logs _)) (cshOffer_logs _ _)) (cshStop_logs _)

theorem logEvent_logs (s : State) (code sev : Nat) (data : BitVec 128) : Logs s (s.logEvent code sev data) := logEventN_logs 3 s code sev data

/-- R546: an event changes what logging may change, and no more. -/
theorem logEvent_eq_logged (s : State) (code sev : Nat) (data : BitVec 128) : s.logEvent code sev data = s.logged (s.logEvent code sev data) :=
  (logEvent_logs s code sev data).eq_logged

end Sys2Proof.Machine
end

section
/-! SUPPORT. Buffers that go back to Trays (R337, R340, R342, R345): which units and counters this may touch. -/

namespace Sys2Proof.Machine

open Host

theorem sget_sput_ne {α : Type} [DecidableEq α] {d v : α} {j k : Nat} (h : j ≠ k) (m : SMap α) : sget d (sput d m k v) j = sget d m j := by
  induction m with
  | nil => by_cases hv : v = d <;> simp [sput, hv, sget, Ne.symm h]
  | cons e m ih =>
    unfold sput
    split
    · by_cases hv : v = d <;> simp [hv, sget, Ne.symm h]
    · split
      · next eq => subst eq; by_cases hv : v = d <;> simp [hv, sget, Ne.symm h]
      · simp only [sget, ih]

/-- The offset of no counter of Trays. -/
def OutsideTrays (off : Nat) : Prop := off < tryBase ∨ tryBase + 0x1000 ≤ off

/-- Buffers have gone back, to waiting threads or to their pools: Trays, threads and packets differ, the counters of Trays, and what
logging a rejection may change. -/
structure Returned (s u : State) : Prop where
  only : ∃ cores counters trays pkts events host csh sent, u = { s with
    cores := cores, counters := counters, trays := trays, pkts := pkts, events := events, mems := { s.mems with host := host }, csh := csh, sent := sent }
  counters : ∀ off, OutsideTrays off → sget 0 u.counters off = sget 0 s.counters off

theorem Returned.refl (s : State) : Returned s s := ⟨⟨_, _, _, _, _, _, _, _, rfl⟩, fun _ _ => rfl⟩

theorem Returned.trans {s u w : State} (h : Returned s u) (k : Returned u w) : Returned s w := by
  obtain ⟨⟨_, _, _, _, _, _, _, _, rfl⟩, hc⟩ := h
  obtain ⟨⟨_, _, _, _, _, _, _, _, rfl⟩, kc⟩ := k
  exact ⟨⟨_, _, _, _, _, _, _, _, rfl⟩, fun off ho => (kc off ho).trans (hc off ho)⟩

theorem Returned.count {s u : State} (h : Returned s u) {off : Nat} (ho : ¬OutsideTrays off) : Returned s (u.count off) :=
  h.trans ⟨⟨_, _, _, _, _, _, _, _, rfl⟩, fun _ hj => sget_sput_ne (by rintro rfl; exact ho hj) _⟩

theorem setTrays_returned (s : State) (t : Trays) : Returned s (s.setTrays t) := ⟨⟨_, _, _, _, _, _, _, _, rfl⟩, fun _ _ => rfl⟩

theorem setThread_returned (s : State) (t : Nat) (v : Thread) : Returned s (s.setThread t v) := ⟨⟨_, _, _, _, _, _, _, _, rfl⟩, fun _ _ => rfl⟩

theorem Returned.of_logs {s u : State} (h : Logs s u) : Returned s u := by
  obtain ⟨_, _, _, _, rfl⟩ := h
  exact ⟨⟨_, _, _, _, _, _, _, _, rfl⟩, fun _ _ => rfl⟩

theorem grantBuffer_returned (s : State) (w : TryWaiter) (h : Nat) : Returned s (grantBuffer s w h) := by
  have granted : Returned s ((s.setBuf h (.alloc [w.req] [])).count (tryBase + 0x900)) := (setTrays_returned s _).count (by unfold OutsideTrays; omega)
  unfold grantBuffer
  dsimp only
  split
  · exact (granted.trans (setTrays_returned _ _)).trans (setTrays_returned _ _)
  · exact (granted.trans (setTrays_returned _ _)).trans (setThread_returned ..)

theorem returnBuffer_returned (s : State) (h : Nat) : Returned s (returnBuffer s h) := by
  have counted : Returned s ((s.setTrays { s.trays with bufs := sdel s.trays.bufs h }).count (tryBase + 0x904)) :=
    (setTrays_returned s _).count (by unfold OutsideTrays; omega)
  unfold returnBuffer
  dsimp only
  split
  · exact counted.trans (grantBuffer_returned ..)
  · split <;> exact counted.trans (setTrays_returned ..)

theorem returnChain_returned (s : State) (h : Nat) (chain : List Nat) : Returned s (returnChain s h chain) := by
  unfold returnChain
  generalize h :: chain = hs
  induction hs generalizing s with
  | nil => exact .refl s
  | cons b hs ih =>
    rw [List.foldl_cons]
    refine Returned.trans ?_ (ih _)
    split
    · exact .refl s
    · exact returnBuffer_returned s b

/-- R344: the reasons of a rejection. -/
theorem tryReason_le {s : State} {op : TryOp} {r h target n : Nat} (hn : tryReason s op r h target = some n) : n ≤ 7 := by
  unfold tryReason at hn
  repeat' split at hn
  all_goals simp at hn <;> omega

theorem rejectTry_returned (s : State) (op : TryOp) (r h : Nat) {reason : Nat} (hr : reason ≤ 7) : Returned s (rejectTry s op r h reason) := by
  unfold rejectTry
  refine Returned.trans ((setTrays_returned s _).count ?_) (.of_logs (logEvent_logs ..))
  unfold OutsideTrays
  omega

theorem tryApply_free_returned (s : State) (r h target : Nat) : Returned s (tryApply s .free r h target).1 := by
  unfold tryApply
  split
  · next why => exact rejectTry_returned _ _ _ _ (tryReason_le why)
  · split
    · dsimp only
      split
      · exact returnChain_returned ..
      · exact setTrays_returned ..
    · exact .refl s

/-- R342: the packet path frees its name on a packet. -/
theorem freePacket_returned (s : State) (h : Nat) : Returned s (freePacket s h) := by
  unfold freePacket forgetPacket
  split
  · exact tryApply_free_returned ..
  · exact (tryApply_free_returned ..).trans ⟨⟨_, _, _, _, _, _, _, _, rfl⟩, fun _ _ => rfl⟩

theorem freePacket_fix (s : State) (h : Nat) : (freePacket s h).fix = s.fix := by
  obtain ⟨_, _, _, _, _, _, _, _, e⟩ := (freePacket_returned s h).only
  rw [e]

end Sys2Proof.Machine
end

section
/-! SUPPORT. The Fixer (R74–R89): what the accounts around an entry leave, when an entry may be released, and what its limits do. -/

namespace Sys2Proof.Machine

open Host

/-! ### The accounts around an entry (R41, R74, R81, R353) -/

/-- References, floors, slots of domains and ingress counts have been settled: threads, registers, counters and releases are as
before, and no entry has come. -/
structure Accounted (s u : State) : Prop where
  cores : u.cores = s.cores
  regs : u.regs = s.regs
  counters : u.counters = s.counters
  rels : u.swt.rels = s.swt.rels
  nextRel : u.swt.nextRel = s.swt.nextRel
  entries : ∀ x ∈ u.fix.entries, x ∈ s.fix.entries

theorem Accounted.refl (s : State) : Accounted s s := ⟨rfl, rfl, rfl, rfl, rfl, fun _ => id⟩

theorem Accounted.trans {s u w : State} (h : Accounted s u) (k : Accounted u w) : Accounted s w :=
  ⟨k.cores.trans h.cores, k.regs.trans h.regs, k.counters.trans h.counters, k.rels.trans h.rels, k.nextRel.trans h.nextRel,
    fun x hx => h.entries x (k.entries x hx)⟩

theorem Accounted.of_logs {s u : State} (h : Logs s u) : Accounted s u := by
  obtain ⟨_, _, _, _, rfl⟩ := h
  exact ⟨rfl, rfl, rfl, rfl, rfl, fun _ => id⟩

/-- An update of the Fixer that lists no new entry. -/
theorem setFix_accounted {s : State} {f : Fix} (h : ∀ x ∈ f.entries, x ∈ s.fix.entries) : Accounted s (s.setFix f) :=
  ⟨rfl, rfl, rfl, rfl, rfl, h⟩

theorem setSlot_accounted (s : State) (k : Nat) (v : FixSlot) : Accounted s (s.setSlot k v) := setFix_accounted fun _ => id

theorem retireSlot_accounted (s : State) (k : Nat) : Accounted s (retireSlot s k) := by
  unfold retireSlot
  dsimp only
  split
  · exact (setSlot_accounted s k _).trans (.of_logs (logEvent_logs ..))
  · exact .refl s

theorem returnRef_accounted (s : State) (k : Nat) : Accounted s (returnRef s k) := (setSlot_accounted s k _).trans (retireSlot_accounted _ k)

theorem occSub_accounted (s : State) (i k n : Nat) : Accounted s (occSub s i k n) := by
  unfold occSub
  dsimp only
  split <;> exact ⟨rfl, rfl, rfl, rfl, rfl, fun _ => id⟩

theorem leaveIngress_accounted (s : State) (h : Nat) : Accounted s (leaveIngress s h) := by
  unfold leaveIngress
  dsimp only
  split
  · exact .refl s
  · exact Accounted.trans (u := s.setPkt h _) ⟨rfl, rfl, rfl, rfl, rfl, fun _ => id⟩ (occSub_accounted ..)

theorem cshRelease_accounted (s : State) (v : FixEntry) (tomb late : Bool) : Accounted s (cshRelease s v tomb late) := by
  unfold cshRelease
  split
  · exact .of_logs (cshOffer_logs ..)
  · exact .refl s

theorem fixSweep_accounted (s : State) : Accounted s (fixSweep s) :=
  (setFix_accounted fun _ hx => (List.mem_filter.1 hx).1 : Accounted s (sweepTombs s)).trans (setFix_accounted fun _ => id)

theorem raiseFloor_accounted (s : State) (v : FixEntry) : Accounted s (raiseFloor s v) := by
  unfold raiseFloor
  dsimp only
  split
  · exact setFix_accounted fun _ => id
  · split
    · exact .refl s
    · exact setFix_accounted fun _ => id

/-! ### Release (R78–R81) -/

theorem orderHolds_iff {s : State} {e : Nat} {v : FixEntry} :
    orderHolds s e v = true ↔ ∀ x ∈ s.ahead e v, x.2.st = .tomb ∨ x.2.bypassed = true := by
  simp [orderHolds]

theorem floorHolds_iff {s : State} {v : FixEntry} : floorHolds s v = true ↔ ∀ f, s.admissionFloor = some f → v.ots < f := by
  unfold floorHolds
  cases s.admissionFloor <;> simp

theorem marksHold_iff {s : State} {v : FixEntry} : marksHold s v = true ↔ ∀ m ∈ s.countedMarks, v.ots < m := by
  simp [marksHold]

theorem settleHolds_iff {s : State} {v : FixEntry} : settleHolds s v = true ↔ v.ots.toNat + s.settle < s.nowN := by
  simp [settleHolds]

theorem outOfOrder_unordered {s : State} {v : FixEntry} (h : s.modeOf v.key = .unordered) : outOfOrder s v = true := by
  simp [outOfOrder, h]

theorem outOfOrder_strict {s : State} {v : FixEntry} (h : s.modeOf v.key = .strict) : outOfOrder s v = false := by
  simp [outOfOrder, h]

/-- What the switch core is given of an entry (R80). -/
def FixEntry.release (v : FixEntry) : Release :=
  { handle := v.handle, len := v.len, outs := v.outs, klass := v.klass, colour := v.colour, late := v.late || v.bypassed,
    ots := v.ots, key := v.key, node := v.node, sport := v.sport, port := v.port, epoch := v.epoch, ring := v.ring }

/-- What the release of an entry leaves (R78, R80). -/
structure Released (s u : State) (e : Nat) (v : FixEntry) : Prop where
  rels : u.swt.rels = sins s.swt.rels s.swt.nextRel { r := v.release, todo := v.outs, live := 0 }
  nextRel : u.swt.nextRel = s.swt.nextRel + 1
  entries : ∀ x ∈ u.fix.entries, x ∈ sdel s.fix.entries e
  cores : u.cores = s.cores
  regs : u.regs = s.regs

theorem Released.accounted {s u w : State} {e : Nat} {v : FixEntry} (h : Released s u e v) (k : Accounted u w) : Released s w e v :=
  ⟨k.rels.trans h.rels, k.nextRel.trans h.nextRel, fun x hx => h.entries x (k.entries x hx), k.cores.trans h.cores, k.regs.trans h.regs⟩

theorem Released.counted {s u : State} {e : Nat} {v : FixEntry} (h : Released s u e v) (c : Prop) [Decidable c] (off : Nat) :
    Released s (if c then u.count off else u) e v := by
  split
  · exact ⟨h.rels, h.nextRel, h.entries, h.cores, h.regs⟩
  · exact h

theorem releaseEntry_released (s : State) (e : Nat) (v : FixEntry) : Released s (releaseEntry s e v) e v := by
  unfold releaseEntry
  refine .accounted (.counted (.counted ?_ ..) ..) <| (raiseFloor_accounted ..).trans <| (leaveIngress_accounted ..).trans <|
    (returnRef_accounted ..).trans <| (cshRelease_accounted ..).trans (fixSweep_accounted _)
  exact ⟨rfl, rfl, fun _ => id, rfl, rfl⟩

section commands
variable {s : State} {e : BitVec 17} {v : FixEntry} (h : s.fixEntry e.toNat = some v)

include h

theorem exec_fixRelease : exec (.fixRelease e) s =
    .next (if s.dev ≠ .frozen ∧ releasable s e.toNat v = true then releaseEntry s e.toNat v else s) := by
  change execFixRelease e s = _
  simp only [execFixRelease, h]

theorem exec_fixSettleExpire : exec (.fixSettleExpire e) s =
    .next (if s.dev ≠ .frozen ∧ s.fabricScope v.key = true ∧ settleHolds s v = true ∧ releasable s e.toNat v = true
      then releaseEntry s e.toNat v else s) := by
  change execFixSettleExpire e s = _
  simp only [execFixSettleExpire, h]

/-- R82: the hold limit acts only on what stands ahead of a READY entry whose time has come. -/
theorem exec_fixHoldExpire : exec (.fixHoldExpire e) s =
    .next (if s.dev ≠ .frozen ∧ v.st = .ready ∧ s.modeOf v.key ≠ .unordered ∧ s.holdLimit ≤ s.elapsed v.readyAt
      then (s.ahead e.toNat v).foldl holdAct s else s) := by
  change execFixHoldExpire e s = _
  simp only [execFixHoldExpire, h]
  split <;> rfl

theorem exec_fixTtlExpire_kept (kept : v.ring = false ∨ s.nowN ≤ v.ots.toNat + s.ttl) : exec (.fixTtlExpire e) s = .next s := by
  change execFixTtlExpire e s = _
  simp only [execFixTtlExpire, h]
  rw [if_pos]
  rcases kept with h | h <;> simp [h]

section expired
variable (live : s.dev ≠ .frozen) (ring : v.ring = true) (past : s.ttl + v.ots.toNat < s.nowN)

include live ring past

theorem exec_fixTtlExpire_inflight (st : v.st = .inflight) :
    exec (.fixTtlExpire e) s = .next (giveUp (s.count (fixBase + 0x118)) e.toNat v .ttl) := by
  have young : ¬s.nowN ≤ v.ots.toNat + s.ttl := by omega
  change execFixTtlExpire e s = _
  simp [execFixTtlExpire, h, live, ring, st, young]

theorem exec_fixTtlExpire_ready (st : v.st = .ready) : exec (.fixTtlExpire e) s =
    .next (fixSweep (freePacket (leaveIngress (returnRef ((s.count (fixBase + 0x118)).setFix
      { s.fix with entries := sdel s.fix.entries e.toNat }) v.eslot) v.handle.toNat) v.handle.toNat)) := by
  have young : ¬s.nowN ≤ v.ots.toNat + s.ttl := by omega
  change execFixTtlExpire e s = _
  simp [execFixTtlExpire, h, live, ring, st, young]

end expired

theorem exec_fixEcc : exec (.fixEcc e) s = .next (if v.st = .tomb then s else
    (if v.st = .ready then freePacket (tombstone s e.toNat .ecc 0) v.handle.toNat else giveUp s e.toNat v .ecc).logEvent 0x33 2
      (evAt 0 e.toNat)) := by
  change execFixEcc e s = _
  simp only [execFixEcc, h]
  split <;> rfl

end commands

/-! ### Entries given up (R82–R84) -/

theorem giveUp_owed (s : State) (e : Nat) (v : FixEntry) (why : TombReason) : sfind (giveUp s e v why).fix.owed v.handle.toNat = some why :=
  sfind_sins _ _ _

/-- R84: a tombstone is counted once. -/
theorem giveUp_counters {s : State} {e : Nat} {v : FixEntry} (h : s.fixEntry e = some v) (st : v.st ≠ .tomb) (why : TombReason) :
    (giveUp s e v why).counters = (s.count (fixBase + 0x100)).counters := by
  have accounts : Accounted ((s.setEntry e { v with st := .tomb, reason := why, dropReason := 0 }).count (fixBase + 0x100))
      (tombstone s e why 0) := by
    simp only [tombstone, h, if_neg st]
    exact (leaveIngress_accounted ..).trans <| (returnRef_accounted ..).trans <| (cshRelease_accounted ..).trans (fixSweep_accounted _)
  exact accounts.counters

section holdAct
variable {s : State} {k : Nat} {w v : FixEntry} (found : s.fixEntry k = some w) (st : w.st = .inflight) (fresh : w.bypassed = false)

include found st fresh

/-- R82: an entry of a STRICT domain is given up. -/
theorem holdAct_strict (mode : s.modeOf w.key = .strict) : holdAct s (k, v) = giveUp (s.count (fixBase + 0x10C)) k w .holdExpired := by
  simp [holdAct, found, st, fresh, mode]

/-- R82: an entry of another domain is bypassed. -/
theorem holdAct_bounded (mode : s.modeOf w.key ≠ .strict) :
    holdAct s (k, v) = (s.setEntry k { w with bypassed := true }).count (fixBase + 0x10C) := by
  simp [holdAct, found, st, fresh, mode]

end holdAct

/-! ### Epoch slots (R41, R88, R167) -/

theorem retireSlot_kept {s : State} {k : Nat} (h : (s.slot k).refs ≠ 0 ∨ (s.slot k).live = false ∨ (s.slot k).current = true) :
    retireSlot s k = s := by
  refine if_neg ?_
  rintro ⟨live, old, free⟩
  simp [live, free] at h
  simp [h] at old

theorem retireSlot_cleared {s : State} {k : Nat} (live : (s.slot k).live = true) (old : (s.slot k).current = false)
    (free : (s.slot k).refs = 0) : retireSlot s k = (s.setSlot k FixSlot.empty).logEvent 0x31 0 (epochData (s.slot k) k) :=
  if_pos ⟨live, by simp [old], free⟩

/-! ### Domains (R74) -/

theorem domainIdle_iff {s : State} {key : BitVec 24} {d : FixDomain} : domainIdle s key.toNat d = true ↔
    (∀ x ∈ s.fix.entries, ¬(x.2.keyed = true ∧ x.2.spill = false ∧ x.2.key = key)) ∧
      ∀ t, d.floor = some t → s.fabricScope key = true → t.toNat + s.ttl < s.nowN := by
  have entries : (!(s.fix.entries.any fun x => x.2.keyed && !x.2.spill && x.2.key.toNat == key.toNat)) = true ↔
      ∀ x ∈ s.fix.entries, ¬(x.2.keyed = true ∧ x.2.spill = false ∧ x.2.key = key) := by
    simp [BitVec.toNat_inj]
  rw [domainIdle, Bool.and_eq_true, entries, BitVec.ofNat_toNat, BitVec.setWidth_eq]
  refine and_congr_right fun _ => ?_
  cases d.floor with
  | none => simp
  | some t => cases s.fabricScope key <;> simp

end Sys2Proof.Machine

open Sys2Proof Sys2Proof.Machine Host

theorem entriesCompleteAndAreReleased : Claim.EntriesCompleteAndAreReleased := by
  intro s e v h
  have release := exec_fixRelease h
  have settle := exec_fixSettleExpire h
  -- an entry that may be released is, with all that a release leaves
  have done {i : Instr} (runs : exec i s = .next (releaseEntry s e.toNat v)) : Does i s fun u =>
      u.swt.rels = sins s.swt.rels s.swt.nextRel { r := v.release, todo := v.outs, live := 0 } ∧ u.swt.nextRel = s.swt.nextRel + 1 ∧
      (∀ x ∈ u.fix.entries, x ∈ sdel s.fix.entries e.toNat) ∧ u.cores = s.cores ∧ u.regs = s.regs := by
    obtain ⟨rels, nextRel, entries, cores, regs⟩ := releaseEntry_released s e.toNat v
    exact ⟨_, runs, rels, nextRel, entries, cores, regs⟩
  refine ⟨fun stays => ?_, fun live ready mode => ?_, fun live ready scope order => ?_, fun live ready scope order marks => ?_,
    fun live ready scope order settled => ?_, fun strict blocked => ?_, fun r rest reports entry owed => ⟨fun st orig => ?_, fun st => ?_⟩⟩
  · have fixed : ¬(s.dev ≠ .frozen ∧ releasable s e.toNat v = true) := by
      rintro ⟨live, may⟩
      rcases stays with h | h
      · exact live h
      · simp [releasable, h] at may
    exact ⟨by rw [release, if_neg fixed], by rw [settle, if_neg fun h => fixed ⟨h.1, h.2.2.2⟩]⟩
  · refine done (release.trans (congrArg _ (if_pos ⟨live, ?_⟩)))
    simp [releasable, ready, outOfOrder_unordered mode]
  · refine done (release.trans (congrArg _ (if_pos ⟨live, ?_⟩)))
    simp [releasable, ready, orderHolds_iff.2 order.1, floorHolds_iff.2 order.2, scope]
  · refine done (release.trans (congrArg _ (if_pos ⟨live, ?_⟩)))
    simp [releasable, ready, orderHolds_iff.2 order.1, floorHolds_iff.2 order.2, marksHold_iff.2 marks]
  · have late := settleHolds_iff.2 settled
    refine done (settle.trans (congrArg _ (if_pos ⟨live, scope, late, ?_⟩)))
    simp [releasable, ready, orderHolds_iff.2 order.1, floorHolds_iff.2 order.2, late]
  · refine release.trans (congrArg _ (if_neg fun ⟨_, may⟩ => blocked ?_))
    simp only [releasable, outOfOrder_strict strict, Bool.false_or, Bool.and_eq_true] at may
    exact ⟨orderHolds_iff.1 may.2.1.1, floorHolds_iff.1 may.2.1.2⟩
  · have found : (s.setFix { s.fix with reports := rest }).fixEntry r.entry = some v := entry ▸ h
    change execFixCompletion s = _
    simp only [execFixCompletion, reports, State.setFix_fix, owed, found, st, if_true]
    rw [movePacket, if_pos orig, entry]
    rfl
  · have found : (s.setFix { s.fix with reports := rest }).fixEntry r.entry = some v := entry ▸ h
    change execFixCompletion s = _
    simp only [execFixCompletion, reports, State.setFix_fix, owed, found, st, if_false]

theorem limitsEndEntries : Claim.LimitsEndEntries := by
  intro s e v h live
  have hold := exec_fixHoldExpire h
  refine ⟨fun k w ready mode due ahead found st fresh => ?_, fun _ _ ahead => ?_, fun early => ?_,
    fun ring past => ⟨fun st => ?_, fun st => ?_⟩, exec_fixTtlExpire_kept h, fun st => ?_, fun st => ?_, fun st => ?_⟩
  · rw [hold, if_pos ⟨live, ready, mode, due⟩, ahead]
    exact ⟨fun bounded => congrArg _ (holdAct_bounded found st fresh (by simp [bounded])),
      fun strict => congrArg _ (holdAct_strict found st fresh strict)⟩
  · rw [hold, ahead]; simp
  · rw [hold, if_neg fun h => by omega]
  · refine ⟨_, exec_fixTtlExpire_inflight h live ring past st, giveUp_owed .., ?_⟩
    exact giveUp_counters (s := s.count (fixBase + 0x118)) h (by simp [st]) .ttl
  · refine ⟨_, exec_fixTtlExpire_ready h live ring past st, fun x hx => ?_⟩
    have hx := (fixSweep_accounted _).entries x hx
    rw [freePacket_fix] at hx
    exact (returnRef_accounted ..).entries x ((leaveIngress_accounted ..).entries x hx)
  · refine ⟨?_, giveUp_owed ..⟩
    rw [exec_fixEcc h]; simp [st]
  · rw [exec_fixEcc h]; simp [st]
  · rw [exec_fixEcc h, if_pos st]

theorem slotsAndDomainsAreGivenUp : Claim.SlotsAndDomainsAreGivenUp := by
  intro s k key d
  refine ⟨fun due found => ?_, fun none => ?_, fun found => ?_⟩
  · have run : exec (.epochSupersededRelease k) s = .next (if due ≤ s.now then
        returnRef (s.setFix { s.fix with superseded := sdel s.fix.superseded k.toNat }) k.toNat else s) := by
      change execEpochSupersededRelease k s = _
      simp only [execEpochSupersededRelease, found]
      split <;> rfl
    refine ⟨fun early => ?_, fun past held => ?_, fun past free live old => ?_⟩
    · rw [run, if_neg (BitVec.not_le.2 early)]
    · rw [run, if_pos past]
      exact congrArg _ (retireSlot_kept (by exact held))
    · rw [run, if_pos past]
      exact congrArg _ (retireSlot_cleared (by exact live) (by exact old) (by exact free))
  · change execEpochSupersededRelease k s = _
    simp only [execEpochSupersededRelease, none]
  · have run : exec (.fixDomainExpire key) s = .next (if domainIdle s key.toNat d = true then
        s.setFix { s.fix with domains := sdel s.fix.domains key.toNat } else s) := by
      change execFixDomainExpire key s = _
      simp only [execFixDomainExpire, found]
    rw [run]
    exact ⟨fun idle past => congrArg _ (if_pos (domainIdle_iff.2 ⟨idle, past⟩)), fun busy => congrArg _ (if_neg (mt domainIdle_iff.1 busy))⟩

/-- Settles O42: releases by their conditions, limits by what they give up, slots and domains by when they are idle. -/
theorem fixerOrder : Obligations.FixerOrder := ⟨entriesCompleteAndAreReleased, limitsEndEntries, slotsAndDomainsAreGivenUp⟩

end

section
/-! SUPPORT. Freezing a controller and the device (R510–R517): what the way into FROZEN leaves of the HBM, and the Negative's first bytes. -/

namespace Sys2Proof.Machine

open Host

/-! ### Controllers -/

theorem length_lset {α : Type} (l : List α) (i : Nat) (v : α) : (lset l i v).length = l.length := by
  induction l generalizing i with
  | nil => rfl
  | cons x l ih => cases i with
    | zero => rfl
    | succ i => simp [lset, ih]

theorem getD_lset {α : Type} (l : List α) (i j : Nat) (v d : α) :
    (lset l i v).getD j d = if j = i ∧ j < l.length then v else l.getD j d := by
  induction l generalizing i j with
  | nil => simp [lset]
  | cons x l ih => cases i <;> cases j <;> simp [lset]; simpa using ih ..

theorem lset_of_length_le {α : Type} {l : List α} {i : Nat} (h : l.length ≤ i) (v : α) : lset l i v = l := by
  induction l generalizing i with
  | nil => rfl
  | cons x l ih => cases i with
    | zero => simp at h
    | succ i => rw [lset, ih (by simpa using h)]

/-- A controller that serves is one of the list. -/
theorem ctl_mem_of_st {s : State} {c : Nat} (h : (s.hbmCtl c).st ≠ .absent) : c < s.hbm.ctls.length := by
  by_contra out
  exact h (by rw [State.hbmCtl, List.getD_eq_default _ _ (by omega)]; rfl)

theorem hbmCtl_setHbmCtl {s : State} {c : Nat} (h : c < s.hbm.ctls.length) (v : HbmCtl) : (s.setHbmCtl c v).hbmCtl c = v := by
  unfold State.hbmCtl State.setHbmCtl
  rw [getD_lset, if_pos ⟨rfl, h⟩]

theorem hbmCtl_setHbmCtl_ne {s : State} {c d : Nat} (h : d ≠ c) (v : HbmCtl) : (s.setHbmCtl c v).hbmCtl d = s.hbmCtl d := by
  unfold State.hbmCtl State.setHbmCtl
  rw [getD_lset, if_neg fun e => h e.1]

@[simp] theorem setHbmCtl_neg (s : State) (c : Nat) (v : HbmCtl) : (s.setHbmCtl c v).hbm.neg = s.hbm.neg := rfl

/-- A change of the answer alone. -/
theorem hbmCtl_setHbmCtl_answer (s : State) (c : Nat) (x : Option (HbmEntry × List Byte × Bool)) :
    ∃ y, (s.setHbmCtl c { s.hbmCtl c with answer := x }).hbmCtl c = { s.hbmCtl c with answer := y } := by
  by_cases h : c < s.hbm.ctls.length
  · exact ⟨x, hbmCtl_setHbmCtl h _⟩
  · exact ⟨(s.hbmCtl c).answer, by rw [State.setHbmCtl, lset_of_length_le (Nat.not_lt.1 h)]⟩

/-! ### What the way into FROZEN leaves (R511–R514) -/

/-- The state of the device, the Negatives, the registers, the cells and controller `c` are as before, but for the answer that the
controller last gave; the count of its lost Negatives stays. -/
structure HbmKept (c : Nat) (s u : State) : Prop where
  dev : u.dev = s.dev
  mgt : u.mgt = s.mgt
  faultN : u.faultN = s.faultN
  stop : u.dlr.stop = s.dlr.stop
  neg : u.hbm.neg = s.hbm.neg
  first : u.hbm.first = s.hbm.first
  ctl : ∃ a, u.hbmCtl c = { s.hbmCtl c with answer := a }
  cells : u.mems.hbm = s.mems.hbm
  regs : u.regs = s.regs
  lost : sget 0 u.counters (hbmCnt c 0x28) = sget 0 s.counters (hbmCnt c 0x28)

variable {c : Nat}

theorem HbmKept.refl (s : State) : HbmKept c s s := ⟨rfl, rfl, rfl, rfl, rfl, rfl, ⟨_, rfl⟩, rfl, rfl, rfl⟩

theorem HbmKept.trans {s u w : State} (h : HbmKept c s u) (k : HbmKept c u w) : HbmKept c s w where
  dev := k.dev.trans h.dev
  mgt := k.mgt.trans h.mgt
  faultN := k.faultN.trans h.faultN
  stop := k.stop.trans h.stop
  neg := k.neg.trans h.neg
  first := k.first.trans h.first
  ctl := by
    obtain ⟨a, ha⟩ := k.ctl
    obtain ⟨b, hb⟩ := h.ctl
    exact ⟨a, by rw [ha, hb]⟩
  cells := k.cells.trans h.cells
  regs := k.regs.trans h.regs
  lost := k.lost.trans h.lost

theorem HbmKept.fold {α : Type} {f : State → α → State} (hf : ∀ st x, HbmKept c st (f st x)) (l : List α) (s : State) :
    HbmKept c s (l.foldl f s) := by
  induction l generalizing s with
  | nil => exact .refl s
  | cons x l ih => rw [List.foldl_cons]; exact (hf s x).trans (ih _)

theorem HbmKept.of_logs {s u : State} (h : Logs s u) : HbmKept c s u := by
  obtain ⟨_, _, _, _, rfl⟩ := h
  exact ⟨rfl, rfl, rfl, rfl, rfl, rfl, ⟨_, rfl⟩, rfl, rfl, rfl⟩

theorem HbmKept.count {s u : State} (h : HbmKept c s u) {off : Nat} (ho : hbmCnt c 0x28 ≠ off) : HbmKept c s (u.count off) :=
  h.trans ⟨rfl, rfl, rfl, rfl, rfl, rfl, ⟨_, rfl⟩, rfl, rfl, sget_sput_ne ho _⟩

theorem HbmKept.of_returned {s u : State} (h : Returned s u) : HbmKept c s u := by
  have outside : OutsideTrays (hbmCnt c 0x28) := .inr (by unfold hbmCnt hbmBase tryBase; omega)
  obtain ⟨⟨_, _, _, _, _, _, _, _, rfl⟩, counters⟩ := h
  exact ⟨rfl, rfl, rfl, rfl, rfl, rfl, ⟨_, rfl⟩, rfl, rfl, counters _ outside⟩

theorem swtSet_kept (s : State) (w : Swt) : HbmKept c s (s.swtSet w) :=
  ⟨rfl, rfl, rfl, rfl, rfl, rfl, ⟨_, rfl⟩, rfl, rfl, rfl⟩

theorem refuseEntry_kept (s : State) (e : HbmEntry) : HbmKept c s (refuseEntry s c e) := by
  unfold refuseEntry
  split
  · have answered : HbmKept c s (s.setHbmCtl c { s.hbmCtl c with answer := some (e, [], true) }) :=
      ⟨rfl, rfl, rfl, rfl, rfl, rfl, hbmCtl_setHbmCtl_answer .., rfl, rfl, rfl⟩
    exact answered.count (by unfold hbmCnt; omega)
  · exact (HbmKept.refl s).count (by unfold hbmCnt; omega)

theorem endTrayWait_kept (s : State) (t : Nat) (v : Word) : HbmKept c s (endTrayWait s t v) :=
  .of_returned ((setTrays_returned s _).trans (setThread_returned ..))

theorem traysFreeze_kept (s : State) : HbmKept c s (traysFreeze s) :=
  (HbmKept.of_returned (setTrays_returned s _)).trans (.fold (fun _ _ => endTrayWait_kept ..) _ _)

theorem signalVector_kept (s : State) (fn v : Nat) : HbmKept c s (signalVector s fn v) := by
  unfold signalVector
  dsimp only
  split
  · exact .refl s
  · split <;> exact ⟨rfl, rfl, rfl, rfl, rfl, rfl, ⟨_, rfl⟩, rfl, rfl, rfl⟩

theorem endRelease_kept (s : State) (n : Nat) : HbmKept c s (endRelease s n) := by
  unfold endRelease
  split
  · split
    · exact (swtSet_kept s _).trans (.of_returned (freePacket_returned ..))
    · exact .refl s
  · exact .refl s

theorem copyDone_kept (s : State) (n : Nat) : HbmKept c s (copyDone s n) := by
  unfold copyDone
  split
  · exact (swtSet_kept s _).trans (endRelease_kept ..)
  · exact .refl s

theorem dropCopy_kept (s : State) (x : SwtCopy) {reason : Nat} (h : reason < 16) : HbmKept c s (dropCopy s x reason) := by
  have dropped : HbmKept c s (swtDrop s reason) := (HbmKept.refl s).count (by unfold hbmCnt hbmBase swtBase; omega)
  exact (dropped.trans (swtSet_kept ..)).trans (copyDone_kept ..)

theorem trimHead_kept (s : State) (q : Nat) : HbmKept c s (trimHead s q) := by
  have go (n : Nat) (s : State) : HbmKept c s (trimHead.go q n s) := by
    induction n generalizing s with
    | zero => exact .refl s
    | succ n ih =>
      have popped : HbmKept c s (popQueue s q) := by
        unfold popQueue
        dsimp only
        split
        · exact .refl s
        · exact swtSet_kept ..
      unfold trimHead.go
      split
      · exact .refl s
      · split
        · exact (popped.trans (dropCopy_kept _ _ (by decide))).trans (ih _)
        · exact .refl s
  exact go _ s

theorem swtFreeze_kept (s : State) : HbmKept c s (swtFreeze s) := by
  have outs (st : State) (o : Nat × SwtOut) : HbmKept c st (match (st.swtOut o.1).tx with
      | some x => if outDtype x.out = 2 then dropCopy (st.setSwtOut o.1 { st.swtOut o.1 with tx := none }) x 0xB else st
      | none => st) := by
    split
    · split
      · exact (swtSet_kept ..).trans (dropCopy_kept _ _ (by decide))
      · exact .refl st
    · exact .refl st
  exact ((swtSet_kept ..).trans (.fold outs _ _)).trans (.fold (fun _ _ => trimHead_kept ..) _ _)

/-- R513: the device has entered FROZEN for controller `c`, whose own freeze stands. -/
structure DeviceFrozen (c : Nat) (s u : State) : Prop where
  dev : u.dev = .frozen
  first : u.hbm.first = some c
  switch : u.mgt.switch = none
  swap : u.mgt.swap = none
  stop : u.dlr.stop = 0xFFFF
  neg : u.hbm.neg = s.hbm.neg
  ctl : ∃ a, u.hbmCtl c = { s.hbmCtl c with answer := a }
  cells : u.mems.hbm = s.mems.hbm
  regs : u.regs = s.regs
  lost : sget 0 u.counters (hbmCnt c 0x28) = sget 0 s.counters (hbmCnt c 0x28)

theorem DeviceFrozen.kept {s u w : State} (h : DeviceFrozen c s u) (k : HbmKept c u w) : DeviceFrozen c s w where
  dev := k.dev.trans h.dev
  first := k.first.trans h.first
  switch := (congrArg Mgt.switch k.mgt).trans h.switch
  swap := (congrArg Mgt.swap k.mgt).trans h.swap
  stop := k.stop.trans h.stop
  neg := k.neg.trans h.neg
  ctl := by
    obtain ⟨a, ha⟩ := k.ctl
    obtain ⟨b, hb⟩ := h.ctl
    exact ⟨a, by rw [ha, hb]⟩
  cells := k.cells.trans h.cells
  regs := k.regs.trans h.regs
  lost := k.lost.trans h.lost

/-- R513: the fatal AER message of a PF, behind its vector 0. -/
theorem freezeMessages_kept (ns : List Nat) (s : State) : HbmKept c s (ns.foldl (fun (st : State) (f : Nat) =>
    if st.fnUp f then
      let st1 := signalVector st f 0
      { st1 with sent := .aer f :: st1.sent }
    else st) s) := by
  refine .fold (fun st f => ?_) ns s
  split
  · exact (signalVector_kept st f 0).trans ⟨rfl, rfl, rfl, rfl, rfl, rfl, ⟨_, rfl⟩, rfl, rfl, rfl⟩
  · exact .refl st

/-- R513: the device as it stops, before its functions send their messages. -/
def haltDevice (s : State) (c : Nat) : State :=
  { swtFreeze (dlrFreeze (traysFreeze
      { s with dev := .frozen, hbm := { s.hbm with first := some c }, mgt := { s.mgt with switch := none, swap := none } })) with faultN := true }

theorem haltDevice_frozen (s : State) : DeviceFrozen c s (haltDevice s c) := by
  have trays := traysFreeze_kept (c := c)
    { s with dev := .frozen, hbm := { s.hbm with first := some c }, mgt := { s.mgt with switch := none, swap := none } }
  have stopped : DeviceFrozen c s (dlrFreeze (traysFreeze
      { s with dev := .frozen, hbm := { s.hbm with first := some c }, mgt := { s.mgt with switch := none, swap := none } })) :=
    ⟨trays.dev, trays.first, congrArg Mgt.switch trays.mgt, congrArg Mgt.swap trays.mgt, rfl, trays.neg, trays.ctl, trays.cells,
      trays.regs, trays.lost⟩
  obtain ⟨dev, first, switch, swap, stop, neg, ctl, cells, regs, lost⟩ := stopped.kept (swtFreeze_kept _)
  exact ⟨dev, first, switch, swap, stop, neg, ctl, cells, regs, lost⟩

theorem freezeDevice_frozen (s : State) : DeviceFrozen c s (freezeDevice s c) ∧ (freezeDevice s c).faultN = true := by
  have messages := freezeMessages_kept (c := c) [0, 1, 2, 3] (haltDevice s c)
  exact ⟨(haltDevice_frozen s).kept messages, messages.faultN⟩

/-! ### The Negative (R515) -/

theorem sget_writeBytes_below (bs : List Byte) (m : SMap Byte) {a j : Nat} (h : j < a) : sget 0 (writeBytes m a bs) j = sget 0 m j := by
  induction bs generalizing m a with
  | nil => rfl
  | cons b bs ih => rw [writeBytes, ih _ (by omega), sget_sput_ne (by omega)]

theorem sget_putAll_below (l : List (Nat × List Byte)) (m : SMap Byte) {base j : Nat} (h : ∀ e ∈ l, j < base + e.1) :
    sget 0 (putAll m base l) j = sget 0 m j := by
  unfold putAll
  induction l generalizing m with
  | nil => rfl
  | cons e l ih =>
    rw [List.foldl_cons, ih _ fun x hx => h x (.tail _ hx), sget_writeBytes_below _ _ (h e (.head _))]

/-- Byte 3 of an image is its cause. -/
theorem negativeOf_cause {s : State} {c : Nat} {x : HbmFailure} (h : BitVec.ofNat 8 (lowestCause x.causes) ≠ 0) (m : SMap Byte) :
    sget 0 (negativeOf s c x m) (65536 * c + 3) = BitVec.ofNat 8 (lowestCause x.causes) := by
  have above {n : Nat} (hn : 3 < n) (l : List (Nat × List Byte)) (m : SMap Byte) :
      sget 0 (putAll m (65536 * c + n) l) (65536 * c + 3) = sget 0 m (65536 * c + 3) := sget_putAll_below l m fun e _ => by omega
  unfold negativeOf
  dsimp only
  rw [above (by decide), above (by decide), above (by decide), above (by decide), above (by decide), above (by decide)]
  unfold putAll
  rw [List.foldl_cons]
  refine (sget_putAll_below _ _ ?_).trans ?_
  · simp
  · simp only [List.cons_append, writeBytes]
    rw [sget_writeBytes_below _ _ (by omega)]
    exact sget_sput_self h _ _

theorem lowestCause_eq {m : BitVec 8} {n : Nat} (hn : n < 8) (h : m.getLsbD n = true) (low : ∀ k, k < n → m.getLsbD k = false) :
    lowestCause m = n + 1 := by
  have found : (List.range 8).find? (fun i => m.getLsbD i) = some n := by
    rw [List.find?_range_eq_some]
    exact ⟨h, List.mem_range.2 hn, fun k hk => by simp [low k hk]⟩
  rw [lowestCause, found]
  rfl

/-! ### A controller freezes (R511, R514, R517) -/

/-- The units that the freeze of controller `c` with this cause leaves, seen from the state before it. -/
structure CtlFrozen (c n : Nat) (s u : State) : Prop where
  st : (u.hbmCtl c).st = .frozen
  cause : (u.hbmCtl c).cause = n
  entries : (u.hbmCtl c).entries = []
  dev : u.dev = .frozen
  first : s.dev ≠ .frozen → u.faultN = true ∧ u.hbm.first = some c ∧ u.mgt.switch = none ∧ u.mgt.swap = none ∧ u.dlr.stop = 0xFFFF
  later : s.dev = .frozen → u.hbm.first = s.hbm.first ∧ u.mgt = s.mgt
  held : (s.hbmCtl c).negValid = true → u.hbm.neg = s.hbm.neg ∧ (u.hbmCtl c).negValid = true ∧
    sget 0 u.counters (hbmCnt c 0x28) = sget 0 s.counters (hbmCnt c 0x28) + 1
  written : (s.hbmCtl c).negValid = false → (u.hbmCtl c).negBusy = some s.now ∧ (u.hbmCtl c).negValid = false ∧
    sget 0 u.hbm.neg (65536 * c + 3) = BitVec.ofNat 8 n
  cells : u.mems.hbm = s.mems.hbm
  regs : u.regs = s.regs

/-- The controller's own freeze, before its requests are refused. -/
def latchCtl (s : State) (c : Nat) (x : HbmFailure) : State :=
  let v := s.hbmCtl c
  let s1 := if v.negValid then s.count (hbmCnt c 0x28)
    else { s with hbm := { s.hbm with neg := negativeOf s c x (s.hbm.neg.filter fun e => e.1 / 65536 != c) } }
  s1.setHbmCtl c { v with st := .frozen, cause := lowestCause x.causes, causeMask := x.causes, entries := [],
                          negBusy := if v.negValid then none else some s.now }

theorem freezeCtl_eq (s : State) (c : Nat) (x : HbmFailure) : freezeCtl s c x =
    (let s2 := (s.hbmCtl c).entries.foldl (fun st e => refuseEntry st c e) (latchCtl s c x)
     (if s2.dev = .frozen then s2 else freezeDevice s2 c).logEvent 0x80 3 (evAt 0 c ||| evAt 1 (lowestCause x.causes))) := rfl

theorem hbmCtl_latchCtl {s : State} {c : Nat} (h : c < s.hbm.ctls.length) (x : HbmFailure) : (latchCtl s c x).hbmCtl c =
    { s.hbmCtl c with st := .frozen, cause := lowestCause x.causes, causeMask := x.causes, entries := [],
                      negBusy := if (s.hbmCtl c).negValid then none else some s.now } := by
  unfold latchCtl
  dsimp only
  split <;> exact hbmCtl_setHbmCtl (by exact h) _

theorem latchCtl_held {s : State} {c : Nat} (h : (s.hbmCtl c).negValid = true) (x : HbmFailure) :
    (latchCtl s c x).hbm.neg = s.hbm.neg ∧ sget 0 (latchCtl s c x).counters (hbmCnt c 0x28) = sget 0 s.counters (hbmCnt c 0x28) + 1 := by
  have counted : (latchCtl s c x).hbm.neg = s.hbm.neg ∧ (latchCtl s c x).counters = (s.count (hbmCnt c 0x28)).counters := by
    unfold latchCtl; simp only [h, if_true]; exact ⟨rfl, rfl⟩
  exact ⟨counted.1, by rw [counted.2]; exact sget_sput_self (Nat.succ_ne_zero _) _ _⟩

theorem latchCtl_written {s : State} {c : Nat} (h : (s.hbmCtl c).negValid = false) (x : HbmFailure) :
    (latchCtl s c x).hbm.neg = negativeOf s c x (s.hbm.neg.filter fun e => e.1 / 65536 != c) := by
  simp only [latchCtl, h, Bool.false_eq_true, if_false, setHbmCtl_neg]

/-- Beside the HBM, a latch only counts. -/
theorem latchCtl_only (s : State) (c : Nat) (x : HbmFailure) : ∃ ctls neg counters,
    latchCtl s c x = { s with hbm := { s.hbm with ctls := ctls, neg := neg }, counters := counters } := by
  unfold latchCtl
  dsimp only
  split <;> exact ⟨_, _, _, rfl⟩

theorem freezeCtl_frozen {s : State} {c : Nat} (h : c < s.hbm.ctls.length) (x : HbmFailure)
    (cause : BitVec.ofNat 8 (lowestCause x.causes) ≠ 0) : CtlFrozen c (lowestCause x.causes) s (freezeCtl s c x) := by
  rw [freezeCtl_eq]
  dsimp only
  have refused : HbmKept c (latchCtl s c x) ((s.hbmCtl c).entries.foldl (fun st e => refuseEntry st c e) (latchCtl s c x)) :=
    .fold (fun st e => refuseEntry_kept st e) _ _
  generalize (s.hbmCtl c).entries.foldl (fun st e => refuseEntry st c e) (latchCtl s c x) = s2 at refused
  have logged (u : State) (data : BitVec 128) : HbmKept c u (u.logEvent 0x80 3 data) := .of_logs (logEvent_logs ..)
  have latched := hbmCtl_latchCtl h x
  obtain ⟨ctls, neg, counters, only⟩ := latchCtl_only s c x
  have dev : s2.dev = s.dev := refused.dev.trans (by rw [only])
  -- what both ways into FROZEN leave of the controller and its Negative
  have common {u : State} (ctl : ∃ a, u.hbmCtl c = { (latchCtl s c x).hbmCtl c with answer := a }) (hneg : u.hbm.neg = (latchCtl s c x).hbm.neg)
      (lost : sget 0 u.counters (hbmCnt c 0x28) = sget 0 (latchCtl s c x).counters (hbmCnt c 0x28))
      (cells : u.mems.hbm = (latchCtl s c x).mems.hbm) (regs : u.regs = (latchCtl s c x).regs) (frozen : u.dev = .frozen)
      (first : s.dev ≠ .frozen → u.faultN = true ∧ u.hbm.first = some c ∧ u.mgt.switch = none ∧ u.mgt.swap = none ∧ u.dlr.stop = 0xFFFF)
      (later : s.dev = .frozen → u.hbm.first = s.hbm.first ∧ u.mgt = s.mgt) : CtlFrozen c (lowestCause x.causes) s u := by
    obtain ⟨a, ctl⟩ := ctl
    rw [latched] at ctl
    refine ⟨by rw [ctl], by rw [ctl], by rw [ctl], frozen, first, later, fun held => ?_, fun free => ?_, by rw [cells, only], by rw [regs, only]⟩
    · obtain ⟨same, count⟩ := latchCtl_held held x
      exact ⟨hneg.trans same, by rw [ctl]; exact held, lost.trans count⟩
    · rw [hneg, latchCtl_written free, negativeOf_cause cause, ctl]
      exact ⟨by simp [free], free, rfl⟩
  split
  · next was =>
    have kept := refused.trans (logged s2 (evAt 0 c ||| evAt 1 (lowestCause x.causes)))
    refine common kept.ctl kept.neg kept.lost kept.cells kept.regs ((logged s2 _).dev.trans was) (fun live => absurd (dev ▸ was) live)
      fun _ => ⟨kept.first.trans (by rw [only]), kept.mgt.trans (by rw [only])⟩
  · next live =>
    obtain ⟨halted, fault⟩ := freezeDevice_frozen (c := c) s2
    have kept := logged (freezeDevice s2 c) (evAt 0 c ||| evAt 1 (lowestCause x.causes))
    have halted := halted.kept kept
    obtain ⟨a, ctl⟩ := halted.ctl
    obtain ⟨b, ctl'⟩ := refused.ctl
    refine common ⟨a, by rw [ctl, ctl']⟩ (halted.neg.trans refused.neg) (halted.lost.trans refused.lost) (halted.cells.trans refused.cells)
      (halted.regs.trans refused.regs) halted.dev
      (fun _ => ⟨kept.faultN.trans fault, halted.first, halted.switch, halted.swap, halted.stop⟩) (fun was => absurd (dev.trans was) live)

/-- The freeze seen from a state that differs in what it does not speak of. -/
theorem CtlFrozen.of_before {c cause : Nat} {s s1 u : State} (h : CtlFrozen c cause s1 u) (dev : s1.dev = s.dev) (mgt : s1.mgt = s.mgt)
    (first : s1.hbm.first = s.hbm.first) (neg : s1.hbm.neg = s.hbm.neg) (valid : (s1.hbmCtl c).negValid = (s.hbmCtl c).negValid)
    (now : s1.now = s.now) (lost : sget 0 s1.counters (hbmCnt c 0x28) = sget 0 s.counters (hbmCnt c 0x28))
    (cells : s1.mems.hbm = s.mems.hbm) (regs : s1.regs = s.regs) : CtlFrozen c cause s u where
  st := h.st
  cause := h.cause
  entries := h.entries
  dev := h.dev
  first := dev ▸ h.first
  later := by rw [← dev, ← first, ← mgt]; exact h.later
  held := by rw [← valid, ← neg, ← lost]; exact h.held
  written := by rw [← valid, ← now]; exact h.written
  cells := h.cells.trans cells
  regs := h.regs.trans regs

theorem ofNat_cause_ne_zero : ∀ n < 8, BitVec.ofNat 8 (n + 1) ≠ 0 := by decide

theorem getLsbD_openCauses : ∀ k < 8, k ≠ 6 → (0xBF : BitVec 8).getLsbD k = true := by decide

/-- R510: cause 7 is reserved. -/
theorem lowestCause_open {causes : BitVec 8} {n : Nat} (hn : n < 8) (kind : n ≠ 6) (raised : causes.getLsbD n = true)
    (low : ∀ m, m < n → m ≠ 6 → causes.getLsbD m = false) : lowestCause (causes &&& 0xBF) = n + 1 := by
  refine lowestCause_eq hn ?_ fun k hk => ?_
  · rw [BitVec.getLsbD_and, raised, getLsbD_openCauses n hn kind]; rfl
  · rw [BitVec.getLsbD_and]
    by_cases h : k = 6
    · subst h; exact Bool.and_false _
    · rw [low k hk h]; rfl

/-- R508, R510: a failure of a command that does not carry the rest of it takes free values. -/
theorem openFailure_frozen {s : State} {c : Nat} (h : c < s.hbm.ctls.length) (cause addr port req : Nat)
    (one : lowestCause (BitVec.ofNat 8 (2 ^ (cause - 1))) = cause) (small : BitVec.ofNat 8 cause ≠ 0) :
    CtlFrozen c cause s (freezeCtl (openFailure s cause addr port req).1 c (openFailure s cause addr port req).2) := by
  have same : lowestCause (openFailure s cause addr port req).2.causes = cause := one
  have frozen := freezeCtl_frozen (s := (openFailure s cause addr port req).1) h (openFailure s cause addr port req).2 (by rwa [same])
  rw [same] at frozen
  exact frozen.of_before rfl rfl rfl rfl rfl rfl rfl rfl rfl

theorem lowestCause_zero : lowestCause 0 = 0 := by decide

/-- The patrol scrub has read burst `k`. -/
def scrubbed (s : State) (c : Nat) : State :=
  ((s.setHbmCtl c { s.hbmCtl c with scrub := ((s.hbmCtl c).scrub + 1) % stackBursts }).count (hbmCnt c 0x00)).takeFree.2

/-- R509, R510: what the scrub finds, with its request free. -/
def scrubFailure (s : State) (c : Nat) : State × HbmFailure :=
  openFailure (scrubbed s c) 3 (scrubAddr c (s.hbmCtl c).scrub) 6 (Config.free s.freeCtr % 4096)

theorem exec_hbmScrub_uncorrectable {s : State} {c : Fin 4} (active : (s.hbmCtl c).st = .active) (on : bitAt (s.reg hbmBase) 7 = true) :
    exec (.hbmScrub c .uncorrectable) s = .next (freezeCtl (scrubFailure s c).1 c (scrubFailure s c).2) := by
  exact if_neg (by simp [active, on])

theorem scrub_frozen {s : State} {c : Nat} (h : c < s.hbm.ctls.length) : CtlFrozen c 3 s (freezeCtl (scrubFailure s c).1 c (scrubFailure s c).2) := by
  have there : c < (scrubbed s c).hbm.ctls.length := h.trans_eq (length_lset ..).symm
  have valid : ((scrubbed s c).hbmCtl c).negValid = (s.hbmCtl c).negValid := by
    change ((s.setHbmCtl c _).hbmCtl c).negValid = _
    rw [hbmCtl_setHbmCtl h]
  refine (openFailure_frozen there _ _ _ _ (by decide) (by decide)).of_before rfl rfl rfl rfl valid rfl ?_ rfl rfl
  exact sget_sput_ne (by unfold hbmCnt; omega) _

/-! ### The end of a Negative (R515, R630) -/

theorem negBusy_of_ctls {s : State} (h : ∀ d < s.hbm.ctls.length, (s.hbmCtl d).negBusy = none) : s.negBusy = false := by
  rw [State.negBusy, List.any_eq_false]
  intro v hv
  obtain ⟨d, hd, rfl⟩ := List.mem_iff_getElem.1 hv
  have := h d hd
  rw [State.hbmCtl, List.getD_eq_getElem _ _ hd] at this
  simp [this]

/-- The Negative of controller `c` is complete. -/
def completeNegative (s : State) (c : Nat) : State :=
  let s1 := { s with hbm := { s.hbm with neg := writeBytes s.hbm.neg (65536 * c + 0x28) (leBytes 8 s.nowN) } }
  s1.setHbmCtl c { s.hbmCtl c with negBusy := none, negValid := true }

theorem exec_negativeComplete {s : State} {c : Fin 4} {t : Time} (h : (s.hbmCtl c).negBusy = some t) :
    exec (.negativeComplete c) s = .next (match s.pwr.warmWaits with
      | none => completeNegative s c
      | some cause => if (completeNegative s c).negBusy then completeNegative s c else leaveReset (warmReset (completeNegative s c) cause)) := by
  change execNegativeComplete c s = _
  simp only [execNegativeComplete, h]
  rfl

theorem negBusy_completeNegative {s : State} {c : Fin 4} (four : s.hbm.ctls.length = 4) (others : ∀ d : Fin 4, d ≠ c → (s.hbmCtl d).negBusy = none) :
    (completeNegative s c).negBusy = false := by
  have length : (completeNegative s c).hbm.ctls.length = 4 := (length_lset ..).trans four
  refine negBusy_of_ctls fun d hd => ?_
  rw [length] at hd
  by_cases h : d = c
  · subst h
    have there : c.val < s.hbm.ctls.length := by omega
    change ((State.setHbmCtl _ c _).hbmCtl c).negBusy = none
    rw [hbmCtl_setHbmCtl (by exact there)]
  · exact (congrArg HbmCtl.negBusy (hbmCtl_setHbmCtl_ne h _)).trans (others ⟨d, hd⟩ (by rintro rfl; exact h rfl))

/-- R571: WARMRST_N, still asserted, holds the device in RESET. -/
theorem leaveReset_of_warm {s : State} (h : s.pwr.warm = true) : leaveReset s = s := by
  simp [leaveReset, h]

end Sys2Proof.Machine

open Sys2Proof Sys2Proof.Machine Host

/-- Settles O59: the freeze of a controller by each command that can cause it, and the end of its Negative. -/
theorem hbmFreeze : Obligations.HbmFreeze := by
  intro s c causes addr port req syndrome burst severity v frozen freeze
  have freezes {i : Instr} {cause : Nat} {u : State} (runs : exec i s = .next u) (h : CtlFrozen c cause s u) : Does i s (frozen cause) :=
    ⟨u, runs, h.st, h.cause, h.entries, h.dev, h.first, h.later, h.held, h.written, h.cells, h.regs⟩
  have serves (active : v.st = .active) : c.val < s.hbm.ctls.length := ctl_mem_of_st (by rw [active]; decide)
  refine ⟨fun active live n hn kind raised low => ?_, fun still => ?_, fun k e found active issued d => ?_, fun active on => ?_,
    fun t busy free => ?_, fun free => ?_, fun t cause busy waits others four warm => ?_⟩
  · have cause := lowestCause_open hn kind raised low
    have any : causes &&& 0xBF ≠ 0 := by
      intro h
      rw [h] at cause
      exact absurd cause (by rw [lowestCause_zero]; omega)
    refine freezes (congrArg Outcome.next (if_pos ⟨active, any, live⟩)) ?_
    have whole := freezeCtl_frozen (serves active)
      { causes := causes &&& 0xBF, addr := addr.toNat, port := port.toNat, req := req.toNat, syndrome := syndrome, burst := burst, severity := severity }
      (by rw [cause]; exact ofNat_cause_ne_zero n hn)
    rwa [cause] at whole
  · refine congrArg _ (if_neg ?_)
    rintro ⟨active, any, live⟩
    rcases still with h | rfl | h
    · exact h active
    · exact any BitVec.zero_and
    · exact live h
  · have run : exec (.hbmReadReturn c k .uncorrectable d) s =
        .next (freezeCtl (openFailure s 1 e.addr e.port e.req).1 c (openFailure s 1 e.addr e.port e.req).2) := by
      change execHbmReadReturn c k .uncorrectable d s = _
      simp [execHbmReadReturn, found, active, issued, v]
    exact freezes run (openFailure_frozen (serves active) _ _ _ _ (by decide) (by decide))
  · exact freezes (exec_hbmScrub_uncorrectable active on) (scrub_frozen (serves active))
  · rw [exec_negativeComplete busy, free]; rfl
  · have free : (s.hbmCtl c).negBusy = none := free
    change execNegativeComplete c s = _
    simp only [execNegativeComplete, free]
  · have idle : (completeNegative s c).negBusy = false := negBusy_completeNegative (by omega) others
    have cleared := Cleared.source (s := s) (hbm := (completeNegative s c).hbm) (warmReset_cleared (completeNegative s c) cause)
    refine ⟨_, ?_, cleared, rfl, rfl, rfl⟩
    rw [exec_negativeComplete busy, waits]
    simp only [idle, Bool.false_eq_true, if_false]
    exact congrArg _ (leaveReset_of_warm warm)

end

section
/-! SUPPORT. Profile switches and the end of BOOT (R49, R425, R481, R525, R532): what entering RUN changes, the steps of the Stop Bath, and
what an accepted or a refused image leaves. -/

namespace Sys2Proof.Machine

open Host

/-! ### Folds that write one unit -/

theorem foldl_setPkts {α : Type} {f : State → α → State} (hf : ∀ st x, ∃ pkts, f st x = { st with pkts := pkts }) (l : List α) (s : State) :
    ∃ pkts, l.foldl f s = { s with pkts := pkts } := by
  induction l generalizing s with
  | nil => exact ⟨_, rfl⟩
  | cons x l ih =>
    obtain ⟨_, first⟩ := hf s x
    obtain ⟨pkts, rest⟩ := ih (f s x)
    rw [first] at rest
    exact ⟨pkts, by rw [List.foldl_cons, first, rest]⟩

/-- R532: holding frames marks packets alone. -/
theorem holdFrames_only (s : State) (t : Time) : ∃ pkts, holdFrames s t = { s with pkts := pkts } := by
  refine foldl_setPkts (fun st h => ?_) _ s
  split <;> exact ⟨_, rfl⟩

theorem releaseHeld_only (s : State) : ∃ pkts, releaseHeld s = { s with pkts := pkts } := by
  refine foldl_setPkts (fun st e => ?_) _ s
  split <;> exact ⟨_, rfl⟩

/-! ### Entering RUN (R49, R425, R481) -/

/-- Only the ports, the outputs and the dies differ. -/
def LinksOnly (s u : State) : Prop := ∃ eth swt ring, u = { s with eth := eth, swt := swt, ring := ring }

theorem LinksOnly.refl (s : State) : LinksOnly s s := ⟨_, _, _, rfl⟩

theorem LinksOnly.trans {s u w : State} (h : LinksOnly s u) (k : LinksOnly u w) : LinksOnly s w := by
  obtain ⟨_, _, _, rfl⟩ := h
  obtain ⟨_, _, _, rfl⟩ := k
  exact ⟨_, _, _, rfl⟩

theorem ethStart_links (s : State) (p : Nat) : LinksOnly s (ethStart s p) := by
  unfold ethStart
  dsimp only
  split
  · split <;> exact ⟨_, _, _, rfl⟩
  · exact .refl s

theorem ethStartAll_links (s : State) : LinksOnly s (ethStartAll s) := by
  unfold ethStartAll
  generalize List.range 16 = ps
  induction ps generalizing s with
  | nil => exact .refl s
  | cons p ps ih => rw [List.foldl_cons]; exact (ethStart_links s p).trans (ih _)

theorem splice_links (s : State) (d : Nat) : LinksOnly s (splice s d).1 := by
  unfold splice
  dsimp only
  split
  any_goals exact .refl s
  split
  · exact ⟨_, _, _, rfl⟩
  · exact .refl s

theorem autoSplice_links (s : State) : LinksOnly s (autoSplice s) := by
  unfold autoSplice
  split
  · exact (splice_links s 0).trans (splice_links _ 1)
  · exact .refl s

theorem enterRun_only (s : State) : ∃ eth swt ring, enterRun s = { s with dev := .run, eth := eth, swt := swt, ring := ring } :=
  (ethStartAll_links { s with dev := .run }).trans (autoSplice_links _)

/-! ### A completed switch (R532, R600) -/

/-- The device runs profile `profile`, with no switch pending. -/
structure Switched (s u : State) (profile : BitVec 2) : Prop where
  dev : u.dev = .run
  mgt : u.mgt = { s.mgt with
    switch := none, swap := none, active := profile, applied := true, bootSel := profile, switches := min 255 (s.mgt.switches + 1) }
  regs : u.regs = s.regs

theorem completeSwitch_switched (s : State) (x : PendingSwitch) (killed : Nat) : Switched s (completeSwitch s x killed) x.profile := by
  unfold completeSwitch
  dsimp only
  rw [logEvent_eq_logged]
  obtain ⟨_, _, _, run⟩ := enterRun_only (s.setMgt { s.mgt with
    switch := none, swap := none, active := x.profile, applied := true, bootSel := x.profile, switches := min 255 (s.mgt.switches + 1) })
  rw [run]
  exact ⟨rfl, rfl, rfl⟩

/-! ### The steps of the Stop Bath (R532) -/

section swap
variable {s : State} {w : Swap} (dev : s.dev = .swap) (swap : s.mgt.swap = some w)

include dev swap

theorem exec_drainLimitExpire : exec .drainLimitExpire s =
    .next (if w.step = .drain ∧ w.sw.time.toNat + usFtu (s.fld mgtBase 15 0) ≤ s.nowN
      then killForSwap (s.setMgt { s.mgt with swap := some { w with killed := w.killed + s.busyThreads.length } }) else s) := by
  change execDrainLimitExpire s = _
  simp only [execDrainLimitExpire, dev, swap]
  split <;> rfl

theorem exec_stopBathDrainDone : exec .stopBathDrainDone s =
    .next (if w.step = .drain ∧ s.drainDone = true then s.setMgt { s.mgt with swap := some { w with step := .fixer } } else s) := by
  change execStopBathDrainDone s = _
  simp only [execStopBathDrainDone, dev, swap]
  split <;> rfl

theorem exec_swapFixerEmpty : exec .swapFixerEmpty s =
    .next (if w.step = .fixer ∧ s.fix.entries.isEmpty = true ∧ s.fix.reports.isEmpty = true
      then (applyImage s w.sw.image w.sw.time).setMgt { (applyImage s w.sw.image w.sw.time).mgt with swap := some { w with step := .loaded } }
      else s) := by
  change execSwapFixerEmpty s = _
  simp only [execSwapFixerEmpty, dev, swap]
  split <;> rfl

theorem exec_swapComplete : exec .swapComplete s =
    .next (if w.step = .loaded then completeSwitch (releaseHeld s) w.sw w.killed else s) := by
  change execSwapComplete s = _
  simp only [execSwapComplete, dev, swap]
  split <;> rfl

end swap

/-- R532: outside SWAP the steps do nothing. -/
theorem exec_swapStep_of_ne {s : State} (dev : s.dev ≠ .swap) {i : Instr}
    (hi : i ∈ [Instr.drainLimitExpire, .stopBathDrainDone, .swapFixerEmpty, .swapComplete]) : exec i s = .next s := by
  have out {f : Swap → Outcome State Fault Refusal} : (match s.dev, s.mgt.swap with
      | .swap, some w => f w
      | _, _ => .next s) = .next s := by
    split
    · next h _ => exact absurd h dev
    · rfl
  simp only [List.mem_cons, List.not_mem_nil, or_false] at hi
  rcases hi with rfl | rfl | rfl | rfl <;> exact out

theorem exec_profileSwitchTime {s : State} {x : PendingSwitch} (h : s.mgt.switch = some x) : exec .profileSwitchTime s =
    if s.now < x.time then .next s
    else if s.dev = .idle then .next (completeSwitch (applyImage s x.image x.time) x 0)
    else if s.dev = .run then .next (holdFrames
      { s with dev := .swap, mgt := { s.mgt with switch := none, swap := some { sw := x, step := .drain, killed := 0 } } } x.time)
    else .next s := by
  change execProfileSwitchTime s = _
  simp only [execProfileSwitchTime, h]
  rfl

end Sys2Proof.Machine

open Sys2Proof Sys2Proof.Machine Host

/-- Settles O56: each step of the Stop Bath by its own equation; entering RUN touches links alone. -/
theorem profileSwitch : Obligations.ProfileSwitch := by
  intro s step applied
  have applies {u v : State} {profile : BitVec 2} (h : Switched v u profile) : applied u profile := by
    refine ⟨h.dev, ?_⟩
    rw [h.mgt]
    exact ⟨rfl, rfl, rfl, rfl, rfl⟩
  refine ⟨fun x pending => ?_, fun none => ?_, fun w dev swap => ?_, fun dev i hi => exec_swapStep_of_ne dev hi⟩
  · have time := exec_profileSwitchTime pending
    refine ⟨fun early => time.trans (if_pos early), fun due idle => ?_, fun due run => ?_⟩
    · have now : exec .profileSwitchTime s = .next (completeSwitch (applyImage s x.image x.time) x 0) := by
        rw [time, if_neg (BitVec.not_lt.2 due), if_pos idle]
      exact ⟨_, now, applies (completeSwitch_switched ..)⟩
    · obtain ⟨pkts, held⟩ := holdFrames_only
        { s with dev := .swap, mgt := { s.mgt with switch := none, swap := some { sw := x, step := .drain, killed := 0 } } } x.time
      rw [if_neg (BitVec.not_lt.2 due), if_neg (by rw [run]; decide), if_pos run, held] at time
      exact ⟨_, time, rfl, rfl, rfl, rfl⟩
  · change execProfileSwitchTime s = _
    simp only [execProfileSwitchTime, none]
  · have limit := exec_drainLimitExpire dev swap
    have drained := exec_stopBathDrainDone dev swap
    have empty := exec_swapFixerEmpty dev swap
    have complete := exec_swapComplete dev swap
    refine ⟨fun drain late => ?_, fun other => ?_, fun drain done => ?_, fun other => ?_, fun fixer entries reports => ?_, fun other => ?_,
      fun loaded => ?_, fun other => ?_⟩
    · rw [limit, if_pos ⟨drain, late⟩]; rfl
    · rw [limit, if_neg]
      rintro ⟨drain, late⟩
      rcases other with h | h
      · omega
      · exact h drain
    · rw [drained, if_pos ⟨drain, done⟩]; rfl
    · rw [drained, if_neg]
      rintro ⟨drain, done⟩
      rcases other with h | h
      · exact h drain
      · rw [h] at done; exact Bool.false_ne_true done
    · rw [empty, if_pos ⟨fixer, by rw [entries]; rfl, by rw [reports]; rfl⟩]; rfl
    · rw [empty, if_neg]
      rintro ⟨fixer, entries, -⟩
      rcases other with h | h
      · exact h fixer
      · exact h (List.isEmpty_iff.1 entries)
    · obtain ⟨pkts, held⟩ := releaseHeld_only s
      have switched := completeSwitch_switched { s with pkts := pkts } w.sw w.killed
      rw [if_pos loaded, held] at complete
      exact ⟨_, complete, applies switched, by rw [switched.mgt], switched.regs⟩
    · rw [complete, if_neg other]

end

section
/-! SUPPORT. BOOT (R49, R499, R521–R528): the header in force, the firmware that runs, training, and the boot profile. -/

namespace Sys2Proof.Machine

open Host

/-! ### The header, the firmware, training (R499, R523, R524) -/

/-- R499: training starts in the stacks present. -/
theorem startTraining_only (cs : List Nat) (s : State) : ∃ ctls, cs.foldl (fun (st : State) (c : Nat) =>
    if st.variant.hasStack c then st.setHbmCtl c { st.hbmCtl c with st := .training } else st) s = { s with hbm := { s.hbm with ctls := ctls } } := by
  induction cs generalizing s with
  | nil => exact ⟨_, rfl⟩
  | cons c cs ih =>
    rw [List.foldl_cons]
    split
    · obtain ⟨ctls, rest⟩ := ih (s.setHbmCtl c { s.hbmCtl c with st := .training })
      exact ⟨ctls, by rw [rest]; rfl⟩
    · exact ih s

theorem exec_bootHeaderRead {s : State} (dev : s.dev = .boot) (fresh : s.mgt.boot.headerRead = false) :
    ∃ ctls, exec .bootHeaderRead s = .next { s with
      hqe := { s.hqe with h0Split := s.bootHeader.h0, h1Split := s.bootHeader.h1, portsFixed := true }
      mgt := { s.mgt with fwSlot := s.bootHeader.slot, boot := { s.mgt.boot with headerRead := true, fallback := s.bootHeader.fallback } }
      hbm := { s.hbm with ctls := ctls } } := by
  obtain ⟨ctls, trained⟩ := startTraining_only [0, 1, 2, 3] { s with
    hqe := { s.hqe with h0Split := s.bootHeader.h0, h1Split := s.bootHeader.h1, portsFixed := true }
    mgt := { s.mgt with fwSlot := s.bootHeader.slot, boot := { s.mgt.boot with headerRead := true, fallback := s.bootHeader.fallback } } }
  exact ⟨ctls, (if_neg (by simp [dev, fresh])).trans (congrArg Outcome.next trained)⟩

theorem bootHeader_first {s : State} {x : BootHeader} (h0 : s.headerCopy 0 = some x) (h1 : s.headerCopy 1 = none) : s.bootHeader = x := by
  simp only [State.bootHeader, h0, h1]

theorem bootHeader_newer {s : State} {x y : BootHeader} (h0 : s.headerCopy 0 = some x) (h1 : s.headerCopy 1 = some y) (newer : x.seq < y.seq) :
    s.bootHeader = y := by
  simp only [State.bootHeader, h0, h1, newer, if_true]

/-- R524: slot A verifies as `a` says, slot B as `b` says. -/
theorem exec_firmwareVerified {s : State} (dev : s.dev = .boot) (header : s.mgt.boot.headerRead = true) (idle : s.mgt.boot.firmware = false)
    (a b : Bool) : exec (.firmwareVerified a b) s = .next (if (if s.mgt.fwSlot then b else a) = true then runFirmware s s.mgt.fwSlot false
      else if (s.mgt.boot.fallback && if !s.mgt.fwSlot then b else a) = true then runFirmware s (!s.mgt.fwSlot) true else s) :=
  if_neg (by simp [dev, header, idle])

theorem exec_hbmTrainDone_ok {s : State} {c : Fin 4} (training : (s.hbmCtl c).st = .training) (repair : Byte) :
    exec (.hbmTrainDone c true repair) s =
      .next ((s.setMems { s.mems with hbm := s.mems.hbm.filter fun e => (hbmDecode e.1).stack != c.val }).setHbmCtl c
        { s.hbmCtl c with st := .active, trained := true, repair := repair.toNat }) :=
  (if_neg (by simp [training])).trans (if_pos rfl)

theorem exec_hbmTrainDone_fails {s : State} {c : Fin 4} (training : (s.hbmCtl c).st = .training) (first : (s.hbmCtl c).failed = false)
    (repair : Byte) : exec (.hbmTrainDone c false repair) s = .next (s.setHbmCtl c { s.hbmCtl c with failed := true }) :=
  (if_neg (by simp [training])).trans ((if_neg (by decide)).trans (if_pos (by rw [first]; rfl)))

/-! ### The boot profile (R525, R528) -/

/-- R528: a refusal leaves its reason and its event. -/
theorem refuseImage_only (s : State) (n : Nat) (r : Refused) :
    (refuseImage s n r).mgt = { s.mgt with lastRefuse := r.reason } ∧ (refuseImage s n r).regs = s.regs ∧ (refuseImage s n r).cores = s.cores := by
  unfold refuseImage
  dsimp only
  rw [logEvent_eq_logged]
  split <;> exact ⟨rfl, rfl, rfl⟩

section bootProfile
variable {s : State} (dev : s.dev = .boot) (firmware : s.mgt.boot.firmware = true) (trained : s.hbmTrained = true)

include dev firmware trained

theorem exec_bootProfileApplied_refused {flashOk : Bool} {r : Refused}
    (refused : (if flashOk then imageRefusal s (s.flashImage s.mgt.bootProfile.toNat) else some { reason := 0xC, place := none }) = some r) :
    exec (.bootProfileApplied flashOk) s = .next { refuseImage s s.mgt.bootProfile.toNat r with dev := .idle, faultN := false } := by
  refine (if_neg (by simp [dev, firmware, trained])).trans ?_
  simp only [acceptImage, refused]

theorem exec_bootProfileApplied_accepted (accepted : imageRefusal s (s.flashImage s.mgt.bootProfile.toNat) = none) :
    ∃ t : State, exec (.bootProfileApplied true) s =
      .next (enterRun { State.setMgt t { t.mgt with applied := true, active := s.mgt.bootProfile } with faultN := false }) := by
  have run : exec (.bootProfileApplied true) s = execBootProfileApplied true s := rfl
  rw [run, execBootProfileApplied, if_neg (by simp [dev, firmware, trained])]
  simp only [acceptImage, accepted, if_true]
  exact ⟨_, rfl⟩

end bootProfile

end Sys2Proof.Machine

open Sys2Proof Sys2Proof.Machine Host

theorem bootGoesByStages : Claim.BootGoesByStages := by
  intro s a b c repair act ran
  refine ⟨fun dev fresh => ?_, fun dev header idle => ?_, fun training => ⟨?_, fun first => exec_hbmTrainDone_fails training first repair⟩⟩
  · obtain ⟨ctls, read⟩ := exec_bootHeaderRead dev fresh
    exact ⟨_, read, fun x h0 h1 => bootHeader_first h0 h1, fun x y h0 h1 newer => bootHeader_newer h0 h1 newer, rfl, rfl, rfl⟩
  · have verified := exec_firmwareVerified dev header idle a b
    have other : (if !s.mgt.fwSlot then b else a) = if act = true then a else b := by
      change _ = if s.mgt.fwSlot = true then a else b
      cases s.mgt.fwSlot <;> rfl
    refine ⟨fun good => verified.trans (congrArg _ (if_pos good)), fun bad fallback good => ?_, fun bad none => ?_⟩
    · refine verified.trans (congrArg _ ((if_neg (by rw [bad]; decide)).trans (if_pos ?_)))
      rw [fallback, Bool.true_and, other]; exact good
    · refine verified.trans (congrArg _ ((if_neg (by rw [bad]; decide)).trans (if_neg ?_)))
      rw [Bool.and_eq_true, not_and]
      rintro fallback
      rcases none with h | h
      · rw [h] at fallback; exact absurd fallback (by decide)
      · rw [other, h]; decide
  · refine ⟨_, exec_hbmTrainDone_ok training repair, rfl, fun e he => ?_, rfl⟩
    simpa using (List.mem_filter.1 he).2

theorem bootProfileEndsBoot : Claim.BootProfileEndsBoot := by
  intro s flashOk dev firmware trained img
  have refuses {r : Refused} (refused : (if flashOk then imageRefusal s img else some { reason := 0xC, place := none }) = some r) :
      Does (.bootProfileApplied flashOk) s fun u => u.dev = .idle ∧ u.faultN = false ∧ u.mgt.lastRefuse = r.reason ∧ u.regs = s.regs ∧
        u.cores = s.cores := by
    obtain ⟨mgt, regs, cores⟩ := refuseImage_only s s.mgt.bootProfile.toNat r
    exact ⟨_, exec_bootProfileApplied_refused dev firmware trained refused, rfl, rfl, congrArg Mgt.lastRefuse mgt, regs, cores⟩
  refine ⟨fun unreadable => refuses (by rw [unreadable]; rfl), fun r readable refused => refuses (by rw [readable]; exact refused),
    fun readable accepted => ?_⟩
  obtain ⟨t, applied⟩ := exec_bootProfileApplied_accepted dev firmware trained accepted
  obtain ⟨_, _, _, run⟩ := enterRun_only { State.setMgt t { t.mgt with applied := true, active := s.mgt.bootProfile } with faultN := false }
  rw [run] at applied
  subst readable
  exact ⟨_, applied, rfl, rfl, rfl, rfl⟩

/-- Settles O45: each stage by its equation; a boot profile is refused with its reason, or applied on the way into RUN. -/
theorem bootStages : Obligations.BootStages := ⟨bootGoesByStages, bootProfileEndsBoot⟩

end

section
/-! SUPPORT. What a host does to a function (R438, R443, R464, R469, R470, R586): the write of FN_CTRL on every path that reaches the
function's page, configuration space and MSI-X, and the FLR. -/

namespace Sys2Proof.Machine

open Host

/-! ### The page of a function (R443, R586) -/

/-- R443: the row of FN_CTRL. -/
def fnCtrlRow : RegRow := nv 0x00 0x3 []

theorem regRow_pageBase (fn : Nat) : regRow (pageBase fn) = some (pageBase fn, fnCtrlRow) := by
  have start : pageBase fn - pageBase fn % 0x100 = pageBase fn := by unfold pageBase; omega
  have block : blockOf (pageBase fn) = (pageBase fn, fnRows) := by
    unfold blockOf
    repeat rw [if_neg (by unfold pageBase; omega)]
    rw [start]
  rw [regRow, block]
  simp [fnRows, fnCtrlRow, nv, RegRow.place]

theorem pageTarget_ctrl (fn : Nat) : pageTarget fn 0 = .reg (pageBase fn) (pageBase fn) fnCtrlRow := by
  unfold pageTarget
  simp only [Nat.add_zero, regRow_pageBase]

theorem target_vf_ctrl (s : State) (k : Fin 1024) : s.target (.vf k) 0 = .reg (pageBase (4 + k)) (pageBase (4 + k)) fnCtrlRow := by
  unfold State.target
  simp only [Nat.zero_div, Nat.zero_mul]
  rw [if_pos (by decide), pageTarget_ctrl]

theorem target_pf_ctrl (s : State) (k : Fin 4) : s.target (.pf k) (hqeBase + 0x1000) = .reg (pageBase k) (pageBase k) fnCtrlRow := by
  have word : (hqeBase + 0x1000) / 4 * 4 = hqeBase + 0x1000 := by decide
  have offset : (hqeBase + 0x1000) % 0x100 = 0 := by decide
  unfold State.target
  simp only [word, offset]
  rw [if_pos (by decide), pageTarget_ctrl]

/-- R586: the page of a PF as the management core and the board see it. -/
theorem target_view_ctrl {s : State} {p : Path} {fn : Nat} (view : p = .board ∨ ∃ k, p = .mc k) (pf : fn < 4) (present : s.pfPresent fn = true) :
    s.target p (hqeBase + 0x2000 + 0x100 * fn) = .reg (pageBase fn) (pageBase fn) fnCtrlRow := by
  have word : (hqeBase + 0x2000 + 0x100 * fn) / 4 * 4 = hqeBase + 0x2000 + 0x100 * fn := by unfold hqeBase; omega
  have notOwn : ¬(hqeBase + 0x1000 ≤ hqeBase + 0x2000 + 0x100 * fn ∧ hqeBase + 0x2000 + 0x100 * fn < hqeBase + 0x1100) := by
    unfold hqeBase; omega
  have other : hqeBase + 0x2000 ≤ hqeBase + 0x2000 + 0x100 * fn ∧ hqeBase + 0x2000 + 0x100 * fn < hqeBase + 0x2400 := by
    unfold hqeBase; omega
  have number : (hqeBase + 0x2000 + 0x100 * fn - (hqeBase + 0x2000)) / 0x100 = fn := by omega
  have offset : (hqeBase + 0x2000 + 0x100 * fn) % 0x100 = 0 := by unfold hqeBase; omega
  have page : s.target p (hqeBase + 0x2000 + 0x100 * fn) = pageTarget fn 0 := by
    rcases view with rfl | ⟨k, rfl⟩
    all_goals
      unfold State.target
      simp only [word]
      rw [if_neg notOwn, if_pos other, number, offset, present]
      rfl
  rw [page, pageTarget_ctrl]

theorem stored_fnCtrl (s : State) (fn : Nat) : s.stored (pageBase fn) = (s.fn fn).ctrl := by
  have number : (pageBase fn - 0x3000000) / 0x100 = fn := by unfold pageBase; omega
  have offset : pageBase fn % 0x100 = 0 := by unfold pageBase; omega
  have page : 0x3000000 ≤ pageBase fn := by unfold pageBase; omega
  unfold State.stored
  rw [if_pos page, number, offset]
  rfl

theorem rwMask_fnCtrl (fn : Nat) : rwMask (pageBase fn) 0 fnCtrlRow = 3 := by
  have notSwt : ¬(pageBase fn = swtBase ∧ 0x100 ≤ 0 ∧ 0 < 0x1B0) := by omega
  exact if_neg notSwt

theorem writeSpecial_fnCtrl (s : State) (p : Path) (off fn : Nat) (v : Word) : writeSpecial s p off (pageBase fn) 0 v = none := by
  have page : 0x3000000 ≤ pageBase fn := by unfold pageBase; omega
  have apart {b : Nat} (h : b < 0x3000000) : pageBase fn ≠ b := by omega
  have core : ¬(0x2000000 ≤ pageBase fn ∧ pageBase fn < 0x3000000) := by omega
  have glb := apart (b := glbBase) (by decide)
  have pwr := apart (b := pwrBase) (by decide)
  have eth := apart (b := ethBase) (by decide)
  have ring := apart (b := ringBase) (by decide)
  have loupe := apart (b := loupeBase) (by decide)
  have cls := apart (b := clsBase) (by decide)
  have try' := apart (b := tryBase) (by decide)
  have swt := apart (b := swtBase) (by decide)
  have lck := apart (b := lckBase) (by decide)
  unfold writeSpecial
  rw [if_neg core]
  simp only [glb, pwr, eth, ring, loupe, cls, try', swt, lck, false_and, if_false]

theorem bitAt_putBits (w m v : Word) (i : Nat) : bitAt (putBits w m v) i = if bitAt m i then bitAt v i else bitAt w i := by
  change (putBits w m v).getLsbD i = if m.getLsbD i then v.getLsbD i else w.getLsbD i
  rw [putBits, BitVec.getLsbD_or, BitVec.getLsbD_and, BitVec.getLsbD_and, BitVec.getLsbD_not]
  by_cases hi : i < 32
  · cases m.getLsbD i <;> simp [hi]
  · simp [BitVec.getLsbD_of_ge w i (by omega), BitVec.getLsbD_of_ge m i (by omega)]

theorem bits_one (w : Word) (i : Nat) : bits w i i = b2n (bitAt w i) := by
  have one : i + 1 - i = 1 := by omega
  rw [bits, bitAt, one, Nat.pow_one, b2n, Nat.testBit_eq_decide_div_mod_eq]
  have := Nat.mod_two_eq_zero_or_one (w.toNat / 2 ^ i)
  rcases this with h | h <;> simp [h]

theorem changed_bit (old new : Word) (i : Nat) : changed old new i i = (bitAt old i != bitAt new i) := by
  rw [changed, bits_one, bits_one]
  cases bitAt old i <;> cases bitAt new i <;> rfl

/-- R443: the value that a write of FN_CTRL offers. -/
def fnCtrlOffer (f : HqeFn) (v : Word) : Word := putBits f.ctrl 3 v

theorem bitAt_fnCtrlOffer (f : HqeFn) (v : Word) : bitAt (fnCtrlOffer f v) 0 = bitAt v 0 ∧ bitAt (fnCtrlOffer f v) 1 = bitAt v 1 := by
  constructor <;> exact (bitAt_putBits ..).trans (if_pos (by decide))

/-- R443: SUM_EN alone is what EN = 1 protects in FN_CTRL. -/
theorem writeRefused_fnCtrl (s : State) (fn : Nat) (v : Word) :
    writeRefused s (pageBase fn) (pageBase fn) fnCtrlRow v = (bitAt (s.fn fn).ctrl 0 && (bitAt (s.fn fn).ctrl 1 != bitAt v 1)) := by
  have number : (pageBase fn - 0x3000000) / 0x100 = fn := by unfold pageBase; omega
  have page : 0x3000000 ≤ pageBase fn := by unfold pageBase; omega
  have offer : changed (s.fn fn).ctrl (fnCtrlOffer (s.fn fn) v) 1 1 = (bitAt (s.fn fn).ctrl 1 != bitAt v 1) := by
    rw [changed_bit, (bitAt_fnCtrlOffer _ v).2]
  unfold writeRefused relationBad
  simp only [Nat.sub_self, stored_fnCtrl, rwMask_fnCtrl]
  rw [if_pos page, number, ← offer]
  rfl

/-- R443, R586: a write that reaches FN_CTRL of a function. -/
theorem regWrite_fnCtrl {s : State} {p : Path} {off fn : Nat} (ha : s.answers p = true) (hp : p ≠ .fabric)
    (h : s.target p off = .reg (pageBase fn) (pageBase fn) fnCtrlRow) (v : Word) :
    (regWrite s p off v).1 = if bitAt (s.fn fn).ctrl 0 = true ∧ bitAt v 1 ≠ bitAt (s.fn fn).ctrl 1 then flagError s 2 p off true
      else writeFnCtrl s fn (fnCtrlOffer (s.fn fn) v) := by
  have number : (pageBase fn - 0x3000000) / 0x100 = fn := by unfold pageBase; omega
  have page : 0x3000000 ≤ pageBase fn := by unfold pageBase; omega
  have special := writeSpecial_fnCtrl s p off fn v
  rw [← Nat.sub_self (pageBase fn)] at special
  rw [regWrite_plain v ha hp h rfl special, if_neg (by decide)]
  have refused := writeRefused_fnCtrl s fn v
  by_cases locked : bitAt (s.fn fn).ctrl 0 = true ∧ bitAt v 1 ≠ bitAt (s.fn fn).ctrl 1
  · rw [if_pos locked]
    rw [locked.1, Bool.true_and, bne_iff_ne.2 locked.2.symm] at refused
    rw [writeStored_refused refused]
    rfl
  · rw [if_neg locked]
    have accepted : ¬writeRefused s (pageBase fn) (pageBase fn) fnCtrlRow v = true := by
      rw [refused, Bool.and_eq_true, bne_iff_ne]
      exact fun ⟨en, ne⟩ => locked ⟨en, ne.symm⟩
    refine congrArg Prod.fst ((if_neg accepted).trans (if_pos ⟨page, Nat.sub_self _⟩)) |>.trans ?_
    rw [number, stored_fnCtrl, Nat.sub_self, rwMask_fnCtrl]
    rfl

/-! ### Enabling and disabling (R443, R469) -/

theorem fn_setFn {s : State} {fn : Nat} {f : HqeFn} (h : f ≠ HqeFn.reset) : (s.setFn fn f).fn fn = f := sget_sput_self h _ _

theorem setFn_setFn {s : State} {fn : Nat} {f : HqeFn} (h : f ≠ HqeFn.reset) (g : HqeFn) : (s.setFn fn f).setFn fn g = s.setFn fn g := by
  simp only [State.setFn, setHqe_setHqe, State.setHqe_hqe, sput_sput h]

/-- R443: a function with EN set is listed. -/
theorem ne_reset_of_enabled {f : HqeFn} (h : bitAt f.ctrl 0 = true) : f ≠ HqeFn.reset := by
  rintro rfl
  exact absurd h (by decide)

/-- EN as the low bit of the word. -/
theorem and_one_of_bit (w : Word) : w &&& 1 = if bitAt w 0 then 1 else 0 := by
  refine (BitVec.and_one_eq_setWidth_ofBool_getLsbD (x := w)).trans ?_
  change BitVec.setWidth 32 (BitVec.ofBool (bitAt w 0)) = _
  cases bitAt w 0 <;> rfl

theorem fnCtrlOffer_sum (f : HqeFn) (v : Word) : fnCtrlOffer f v &&& 2 = v &&& 2 := by
  have other : (~~~3 &&& 2 : Word) = 0 := by decide
  have own : (3 &&& 2 : Word) = 2 := by decide
  rw [fnCtrlOffer, putBits, BitVec.and_or_distrib_right, BitVec.and_assoc, BitVec.and_assoc, other, own]
  exact (congrArg (· ||| v &&& 2) BitVec.and_zero).trans BitVec.zero_or

/-- R443: SUM_EN as written, beside EN as it was. -/
theorem fnCtrlOffer_keeping (f : HqeFn) (v : Word) :
    fnCtrlOffer f v &&& 2 ||| f.ctrl &&& 1 = if bitAt f.ctrl 0 then v &&& 2 ||| 1 else v &&& 2 := by
  rw [fnCtrlOffer_sum, and_one_of_bit]
  split
  · rfl
  · exact BitVec.or_zero

section writeFnCtrl
variable {s : State} {fn : Nat} {v : Word}

/-- R443: EN stays 0: SUM_EN is stored. -/
theorem writeFnCtrl_off (en : bitAt (s.fn fn).ctrl 0 = false) (off : bitAt v 0 = false) :
    writeFnCtrl s fn (fnCtrlOffer (s.fn fn) v) = s.setFn fn { s.fn fn with ctrl := v &&& 2 } := by
  unfold writeFnCtrl
  simp only [(bitAt_fnCtrlOffer _ v).1, fnCtrlOffer_keeping, en, off, Bool.false_and, Bool.and_false, Bool.false_eq_true, if_false]

/-- R443: EN 0 → 1. -/
theorem writeFnCtrl_enables (en : bitAt (s.fn fn).ctrl 0 = false) (on : bitAt v 0 = true) :
    writeFnCtrl s fn (fnCtrlOffer (s.fn fn) v) = enableFn s fn { s.fn fn with ctrl := v &&& 2 } := by
  unfold writeFnCtrl
  simp only [(bitAt_fnCtrlOffer _ v).1, fnCtrlOffer_keeping, en, on, Bool.not_false, Bool.and_true, if_true, Bool.false_eq_true, if_false]

/-- R443: EN 1 → 0. -/
theorem writeFnCtrl_disables (en : bitAt (s.fn fn).ctrl 0 = true) (off : bitAt v 0 = false) :
    writeFnCtrl s fn (fnCtrlOffer (s.fn fn) v) = disableFn (s.setFn fn { s.fn fn with ctrl := v &&& 2 ||| 1 }) fn := by
  unfold writeFnCtrl
  simp only [(bitAt_fnCtrlOffer _ v).1, fnCtrlOffer_keeping, en, off, Bool.not_true, Bool.and_false, Bool.not_false, Bool.and_true,
    Bool.false_eq_true, if_false, if_true]

end writeFnCtrl

/-- R443: a write of FN_CTRL through a path that reaches the page of a function. -/
theorem exec_fnCtrlWrite {s : State} {p : Path} {fn : Fin 1028} {off : Nat} (ha : s.answers p = true)
    (reaches : (∃ k, p = .vf k ∧ fn.val = 4 + k.val ∧ off = 0) ∨ (∃ k, p = .pf k ∧ fn.val = k.val ∧ off = hqeBase + 0x1000) ∨
      ((p = .board ∨ ∃ k, p = .mc k) ∧ fn.val < 4 ∧ s.pfPresent fn = true ∧ off = hqeBase + 0x2000 + 0x100 * fn.val)) (v : Word) :
    exec (.fnCtrlWrite p fn v) s = .next (if bitAt (s.fn fn).ctrl 0 = true ∧ bitAt v 1 ≠ bitAt (s.fn fn).ctrl 1
      then flagError s 2 p off true else writeFnCtrl s fn (fnCtrlOffer (s.fn fn) v)) := by
  rcases reaches with ⟨k, rfl, number, rfl⟩ | ⟨k, rfl, number, rfl⟩ | ⟨view, pf, present, rfl⟩
  · have target := target_vf_ctrl s k
    rw [← number] at target
    rw [← regWrite_fnCtrl ha (by simp) target]
    exact congrArg _ (if_pos number.symm)
  · have target := target_pf_ctrl s k
    rw [← number] at target
    rw [← regWrite_fnCtrl ha (by simp) target]
    exact congrArg _ (if_pos number.symm)
  · rw [← regWrite_fnCtrl ha (by rcases view with rfl | ⟨k, rfl⟩ <;> simp) (target_view_ctrl view pf present)]
    rcases view with rfl | ⟨k, rfl⟩ <;> exact congrArg _ (if_pos pf)

theorem bit_or_one (w : Word) : bitAt (w ||| 1) 0 = true := by
  change (w ||| 1).getLsbD 0 = true
  rw [BitVec.getLsbD_or, Bool.or_eq_true]
  exact .inr (by decide)

/-- R443, R469: the page of a function as EN 1 → 0 leaves it. -/
theorem disableFn_enabled {s : State} {fn : Nat} {f : HqeFn} (h : bitAt f.ctrl 0 = true) :
    disableFn (s.setFn fn f) fn = s.setHqe { s.hqe with
      rings := s.hqe.rings.filter fun e => e.1 / 65536 != fn
      cqs := s.hqe.cqs.filter fun e => e.1 / 65536 != fn
      fns := sput HqeFn.reset s.hqe.fns fn { f with ctrl := f.ctrl &&& ~~~1, active := false, p := Poll.none } } := by
  have listed := ne_reset_of_enabled h
  have dropped : dropRings (s.setFn fn f) fn = (s.setHqe { s.hqe with
      rings := s.hqe.rings.filter fun e => e.1 / 65536 != fn
      cqs := s.hqe.cqs.filter fun e => e.1 / 65536 != fn }).setFn fn { f with active := false, p := Poll.none } := by
    have read : sget HqeFn.reset (sput HqeFn.reset s.hqe.fns fn f) fn = f := sget_sput_self listed _ _
    simp only [dropRings, State.setFn, State.fn, setHqe_setHqe, State.setHqe_hqe, read, sput_sput listed]
  have idle : { f with active := false, p := Poll.none } ≠ HqeFn.reset := ne_reset_of_enabled h
  rw [disableFn, dropped, fn_setFn idle, setFn_setFn idle]
  simp only [State.setFn, setHqe_setHqe, State.setHqe_hqe]

/-- R443: the admin pair is created from the page's registers. -/
theorem enableFn_creates {s : State} {fn : Nat} (f : HqeFn) (rings : s.ringsHeld fn ≠ 0) (cqs : s.cqsHeld fn ≠ 0) :
    let u := enableFn s fn f
    u.fn fn = { f with
      ctrl := f.ctrl ||| 1, active := true, adminFault := false, interval := bits f.poll 15 0, lastPoll := s.now, p := Poll.none } ∧
    u.hring fn 0 = some (HRing.new .cmd (bits f.adminCfg 3 0) 0 f.admin.toNat 0) ∧
    (∃ n t, 1 ≤ n ∧ n ≤ 255 ∧
      u.hcq fn 0 = some (Cq.new (bits f.adminCfg 7 4) f.acq.toNat (bits f.adminCfg 18 8) (bitAt f.adminCfg 19) n t)) ∧
    u = { s with hqe := u.hqe, freeCtr := u.freeCtr } := by
  have held : ¬(s.ringsHeld fn = 0 ∨ s.cqsHeld fn = 0) := by simp [rings, cqs]
  unfold enableFn
  rw [if_neg held]
  refine ⟨fn_setFn (ne_reset_of_enabled (bit_or_one _)), hring_setHring .., ⟨_, _, ?_, ?_, sfind_sins ..⟩, ?_⟩
  · omega
  · omega
  · rfl

end Sys2Proof.Machine

open Sys2Proof Sys2Proof.Machine Host

theorem functionsAreEnabledAndDisabled : Claim.FunctionsAreEnabledAndDisabled := by
  intro s p fn v off ha reaches f
  have write : exec (.fnCtrlWrite p fn v) s = .next (if bitAt f.ctrl 0 = true ∧ bitAt v 1 ≠ bitAt f.ctrl 1 then flagError s 2 p off true
      else writeFnCtrl s fn (fnCtrlOffer f v)) :=
    exec_fnCtrlWrite ha reaches v
  have accepted (h : bitAt f.ctrl 0 = false ∨ bitAt v 1 = bitAt f.ctrl 1) :
      exec (.fnCtrlWrite p fn v) s = .next (writeFnCtrl s fn (fnCtrlOffer f v)) := by
    refine write.trans (congrArg _ (if_neg ?_))
    rintro ⟨en, ne⟩
    exact h.elim (fun e => absurd (en.symm.trans e) (by decide)) ne
  refine ⟨fun en on => ⟨fun none => ?_, fun rings cqs => ?_⟩, fun en stop sum => ?_, fun en sum => ?_, fun en stop => ?_⟩
  · rw [accepted (.inl en), writeFnCtrl_enables en on, enableFn, if_pos none]
  · refine ⟨_, accepted (.inl en), ?_⟩
    rw [writeFnCtrl_enables en on]
    have both : v &&& 3 = v &&& 2 ||| 1 := by
      have three : (3 : Word) = 2 ||| 1 := by decide
      rw [three, BitVec.and_or_distrib_left, and_one_of_bit, if_pos on]
    rw [both]
    exact enableFn_creates { f with ctrl := v &&& 2 } rings cqs
  · rw [accepted (.inr sum), writeFnCtrl_disables en stop, disableFn_enabled (bit_or_one _)]
    have cleared : (v &&& 2 ||| 1) &&& ~~~1 = v &&& 2 := by
      have sum : (2 &&& ~~~1 : Word) = 2 := by decide
      rw [BitVec.and_or_distrib_right, BitVec.and_assoc, sum]
      exact BitVec.or_zero
    rw [cleared]
    rfl
  · exact write.trans (congrArg _ (if_pos ⟨en, sum⟩))
  · rw [accepted (.inl en), writeFnCtrl_off en stop]

end

section
/-! SUPPORT. Configuration space, MSI-X and the reset of a function (R438, R464, R470). -/

namespace Sys2Proof.Machine

open Host

/-! ### Messages (R464) -/

theorem fold_sent (due : SMap Bool) (fn : Nat) (s : State) : due.foldl (fun st e => { st with sent := .msix fn e.1 :: st.sent }) s =
    { s with sent := (due.map fun e => Sent.msix fn e.1).reverse ++ s.sent } := by
  induction due generalizing s with
  | nil => rfl
  | cons e due ih => rw [List.foldl_cons, ih, List.map_cons, List.reverse_cons, List.append_assoc, List.singleton_append]

/-- R464: pending messages leave for the vectors that are not masked, while MSI-X is enabled and the function is not masked. -/
theorem sendPending_eq (s : State) (fn : Nat) (g : HqeFn) : sendPending s fn g = if g.msixEn = true ∧ g.msixMask = false
    then { s.setFn fn { g with pendingVec := g.pendingVec.filter fun e => !sget false g.unmasked e.1 } with
      sent := ((g.pendingVec.filter fun e => sget false g.unmasked e.1).map fun e => Sent.msix fn e.1).reverse ++ s.sent }
    else s.setFn fn g := by
  unfold sendPending
  by_cases h : g.msixEn = true ∧ g.msixMask = false
  · rw [if_pos h, if_neg (by simp [h]), fold_sent]
    rfl
  · have held : (!g.msixEn) = true ∨ g.msixMask = true := by
      cases en : g.msixEn <;> cases mask : g.msixMask <;> simp_all
    rw [if_neg h, if_pos held]

section config
variable {s : State} {fn : Fin 1028} (up : s.fnUp fn = true)

include up

theorem exec_atomicEnable (on : Bool) :
    exec (.pcieConfigWrite fn (.atomicEnable on)) s = .next (s.setFn fn { s.fn fn with atomic := on }) :=
  if_neg (by simp [up])

theorem exec_vfEnable_vf (vf : 4 ≤ fn.val) (on : Bool) : exec (.pcieConfigWrite fn (.vfEnable on)) s = .next s :=
  (if_neg (by simp [up])).trans (if_pos vf)

theorem exec_vfEnable_set (pf : fn.val < 4) :
    exec (.pcieConfigWrite fn (.vfEnable true)) s = .next (s.setFn fn { s.fn fn with vfEnable := true }) :=
  (if_neg (by simp [up])).trans ((if_neg (by omega)).trans (if_pos rfl))

theorem exec_vfEnable_clear (pf : fn.val < 4) : exec (.pcieConfigWrite fn (.vfEnable false)) s =
    .next ((s.vfNumbers fn).foldl resetFn (s.setFn fn { s.fn fn with vfEnable := false })) :=
  (if_neg (by simp [up])).trans ((if_neg (by omega)).trans (if_neg (by decide)))

theorem exec_msix (on mask : Bool) : exec (.pcieConfigWrite fn (.msix on mask)) s =
    .next (sendPending s fn { s.fn fn with msixEn := on, msixMask := mask }) :=
  if_neg (by simp [up])

theorem exec_msixTableWrite {v : BitVec 11} (vector : fn.val < 4 ∨ v.toNat < 64) (masked : Bool) : exec (.msixTableWrite fn v masked) s =
    .next (sendPending s fn { s.fn fn with unmasked := sput false (s.fn fn).unmasked v.toNat (!masked) }) :=
  if_neg (by simp [up]; omega)

theorem exec_flr : exec (.flr fn) s = .next (flrFn s fn) := congrArg Outcome.next (if_pos up)

end config

/-- R470: the page that a reset leaves of `f`. -/
def HqeFn.limits (f : HqeFn) : HqeFn :=
  { HqeFn.reset with ringFirst := f.ringFirst, ringCount := f.ringCount, cqFirst := f.cqFirst, cqCount := f.cqCount
                     vectors := f.vectors, lineFirst := f.lineFirst, lineCount := f.lineCount }

theorem ne_reset_of_ringCount {f : HqeFn} (h : f.ringCount ≠ 0) : f ≠ HqeFn.reset := by
  rintro rfl
  exact h rfl

/-- R470: the page of a function that is reset keeps the limits that its PF has set. -/
theorem fn_resetFn {s : State} {fn : Nat} (h : (s.fn fn).ringCount ≠ 0) : (resetFn s fn).fn fn = (s.fn fn).limits := by
  have page : (dropRings s fn).fn fn = { s.fn fn with active := false, p := Poll.none } := fn_setFn (ne_reset_of_ringCount h)
  have kept : ((dropRings s fn).fn fn).limits = (s.fn fn).limits := by rw [page]; rfl
  exact (fn_setFn (ne_reset_of_ringCount (by exact (congrArg HqeFn.ringCount kept).trans_ne h))).trans kept

end Sys2Proof.Machine

open Sys2Proof Sys2Proof.Machine Host

theorem configurationSpaceAndReset : Claim.ConfigurationSpaceAndReset := by
  intro s fn up f sends
  refine ⟨exec_atomicEnable up, exec_vfEnable_set up, fun pf => ?_, exec_vfEnable_vf up, fun on mask => ?_,
    fun v masked vector => ?_, ?_⟩
  · refine ⟨_, exec_vfEnable_clear up pf, fun e he => ?_⟩
    obtain ⟨kept, out⟩ := (fold_resetFn_reset _ _).rings e he
    refine ⟨kept, fun vf => out (mem_vfNumbers.2 ⟨.inr (List.mem_map_of_mem kept), vf⟩)⟩
  · exact (exec_msix up on mask).trans (congrArg _ (sendPending_eq ..))
  · exact (exec_msixTableWrite up vector masked).trans (congrArg _ (sendPending_eq ..))
  · have reset := flrFn_reset s fn
    refine ⟨_, exec_flr up, fun e he => ?_, fun e he => ?_, fun e he => ?_, fun vf limits => ?_, reset.only⟩
    · exact (reset.rings e he).imp_right (by simp)
    · exact (reset.cqs e he).imp_right (by simp)
    · exact (reset.streams e he).imp_right (by simp)
    · rw [flrFn, if_neg (by omega)]
      exact fn_resetFn limits

end

section
/-! SUPPORT. A PF's event ring signals (R546); snapshots are taken and delivered (R467, R468). -/

namespace Sys2Proof.Machine

open Host

/-! ### Event rings (R546) -/

theorem signalVector_eq (s : State) (fn v : Nat) : signalVector s fn v =
    if (s.fn fn).msixEn = false then s
    else if (s.fn fn).msixMask = false ∧ sget false (s.fn fn).unmasked v = true then { s with sent := .msix fn v :: s.sent }
    else s.setFn fn { s.fn fn with pendingVec := sput false (s.fn fn).pendingVec v true } := by
  unfold signalVector
  simp only [Bool.not_eq_true', Bool.and_eq_true]

theorem exec_eventRingSignal {s : State} {pf : Fin 4} {r : EventRing} (h : sfind s.events.rings pf = some r) :
    exec (.eventRingSignal pf) s = .next (if r.irq = true ∧ r.dirty = true ∧ r.holdoff ≤ s.now ∧ s.dev ≠ .frozen then
      signalVector { s with events := { s.events with
        rings := sins s.events.rings pf { r with dirty := false, holdoff := s.now + 16000 } } } pf r.vector
    else s) := by
  change execEventRingSignal pf s = _
  unfold execEventRingSignal
  rw [h]
  rfl

/-! ### What a snapshot holds (R466, R468) -/

/-- R468: a section follows what stands before it, and only the counters of the classifier are read from memory. -/
theorem sectionBytes_appends (x : Stream) (s : State) (bs : List Byte) (bit : Nat) :
    ∃ more u, sectionBytes x (s, bs) bit = (u, bs ++ more) ∧ (bit ≠ 14 → u = s) := by
  have pairs (is : List Nat) (s : State) (bs : List Byte) :
      ∃ more u, is.foldl (fun a' i => pairBytes i a') (s, bs) = (u, bs ++ more) := by
    induction is generalizing s bs with
    | nil => exact ⟨[], s, by rw [List.foldl_nil, List.append_nil]⟩
    | cons i is ih =>
      obtain ⟨more, u, one⟩ : ∃ more u, pairBytes i (s, bs) = (u, bs ++ more) := by
        unfold pairBytes
        dsimp only
        split
        · exact ⟨_, _, rfl⟩
        · exact ⟨_, _, rfl⟩
      obtain ⟨rest, w, all⟩ := ih u (bs ++ more)
      exact ⟨more ++ rest, w, by rw [List.foldl_cons, one, all, List.append_assoc]⟩
  unfold sectionBytes
  dsimp only
  split
  · next e =>
    obtain ⟨more, u, all⟩ := pairs ((List.range x.clsCount).map (x.clsFirst + ·)) s (bs ++ leBytes 2 bit ++ [0, 0] ++ leBytes 4 (x.bodyLen bit))
    exact ⟨_, u, by rw [all, List.append_assoc, List.append_assoc, List.append_assoc], fun ne => absurd e ne⟩
  · split
    · exact ⟨_, s, by rw [List.append_assoc, List.append_assoc, List.append_assoc], fun _ => rfl⟩
    · exact ⟨_, s, by rw [List.append_assoc, List.append_assoc, List.append_assoc], fun _ => rfl⟩

theorem fold_sectionBytes (x : Stream) (sections : List Nat) (s : State) (bs : List Byte) :
    ∃ body u, sections.foldl (sectionBytes x) (s, bs) = (u, bs ++ body) ∧ (sections = [] → body = []) ∧ (14 ∉ sections → u = s) := by
  induction sections generalizing s bs with
  | nil => exact ⟨[], s, by rw [List.foldl_nil, List.append_nil], fun _ => rfl, fun _ => rfl⟩
  | cons bit sections ih =>
    obtain ⟨more, u, one, same⟩ := sectionBytes_appends x s bs bit
    obtain ⟨rest, w, all, -, keeps⟩ := ih u (bs ++ more)
    refine ⟨more ++ rest, w, by rw [List.foldl_cons, one, all, List.append_assoc], fun none => absurd none (by simp), fun out => ?_⟩
    rw [List.mem_cons, not_or] at out
    exact (keeps out.2).trans (same (Ne.symm out.1))

/-- R468: the header of a snapshot. -/
def snapshotHead (s : State) (k : Nat) (x : Stream) (gen : Word) (t : Time) : List Byte :=
  leBytes 4 gen.toNat ++ leBytes 2 k ++ leBytes 2 x.units ++ leBytes 8 t.toNat ++ leBytes 2 s.ownNode ++
    leBytes 2 s.systemId ++ leBytes 4 x.length ++ List.replicate 40 0

theorem mem_sections (x : Stream) (bit : Nat) : bit ∈ x.sections ↔ bit < 16 ∧ x.units.testBit bit = true := by
  rw [Stream.sections, List.mem_filter, List.mem_range]

theorem snapshotBytes_framed (s : State) (k : Nat) (x : Stream) (gen : Word) (t : Time) :
    ∃ body u, snapshotBytes s k x gen t = (u, snapshotHead s k x gen t ++ body ++ leBytes 4 gen.toNat ++ [0, 0, 0, 0]) ∧
      (x.units = 0 → body = []) ∧ (x.units.testBit 14 = false → u = s) := by
  obtain ⟨body, u, all, empty, keeps⟩ := fold_sectionBytes x x.sections s (snapshotHead s k x gen t)
  refine ⟨body, u, ?_, fun units => empty ?_, fun cls => keeps ?_⟩
  · have frame : snapshotBytes s k x gen t = ((x.sections.foldl (sectionBytes x) (s, snapshotHead s k x gen t)).1,
        (x.sections.foldl (sectionBytes x) (s, snapshotHead s k x gen t)).2 ++ leBytes 4 gen.toNat ++ leBytes 4 0) := rfl
    rw [frame, all]
    rfl
  · rw [List.eq_nil_iff_forall_not_mem]
    intro bit h
    simp [mem_sections, units] at h
  · simp [mem_sections, cls]

/-! ### Taking and delivering (R467) -/

section take
variable {s : State} {k : BitVec 8} {x : Stream} (h : sfind s.hqe.streams k.toNat = some x)

include h

theorem exec_snapshotTake_none (due : s.snapshotDue x = none) : exec (.snapshotTake k) s = .next s := by
  change execSnapshotTake k s = _
  unfold execSnapshotTake
  simp only [h, due]

theorem exec_snapshotTake_missed {t : Time} {y : Stream} (due : s.snapshotDue x = some (t, y)) (busy : x.taken.isSome = true) :
    exec (.snapshotTake k) s = .next (snapshotMiss (s.setStream k.toNat { y with gen := y.gen + 1 })) := by
  change execSnapshotTake k s = _
  unfold execSnapshotTake
  simp only [h, due, busy, if_true]

theorem exec_snapshotTake_taken {t : Time} {y : Stream} (due : s.snapshotDue x = some (t, y)) (idle : x.taken = none) :
    exec (.snapshotTake k) s = .next ((snapshotBytes s k.toNat x x.gen t).1.setStream k.toNat
      { y with gen := y.gen + 1, taken := some (x.gen, t, (snapshotBytes s k.toNat x x.gen t).2) }) := by
  change execSnapshotTake k s = _
  unfold execSnapshotTake
  simp only [h, due, idle, Option.isSome_none, Bool.false_eq_true, if_false]

end take

theorem snapshotDue_request {s : State} {x : Stream} {t : Time} {rest : List Time} (requests : x.requests = t :: rest) (le : t ≤ s.now) :
    s.snapshotDue x = some (t, { x with requests := rest }) := by
  unfold State.snapshotDue
  simp [requests, le]

theorem snapshotDue_instant {s : State} {x : Stream} (requests : x.requests = []) (period : x.period ≠ 0)
    (late : x.last.toNat < s.nowN / (16000 * x.period) * (16000 * x.period)) :
    s.snapshotDue x = some (BitVec.ofNat 64 (s.nowN / (16000 * x.period) * (16000 * x.period)),
      { x with last := BitVec.ofNat 64 (s.nowN / (16000 * x.period) * (16000 * x.period)) }) := by
  unfold State.snapshotDue State.lastInstant
  simp only [requests, List.find?_nil, if_neg period]
  exact if_pos ⟨period, late⟩

theorem snapshotDue_none {s : State} {x : Stream} (requests : x.requests = [])
    (early : x.period = 0 ∨ s.nowN / (16000 * x.period) * (16000 * x.period) ≤ x.last.toNat) : s.snapshotDue x = none := by
  unfold State.snapshotDue
  simp only [requests, List.find?_nil]
  refine if_neg ?_
  rintro ⟨period, late⟩
  rw [State.lastInstant, if_neg period] at late
  rcases early with zero | le
  · exact period zero
  · omega

section deliver
variable {s : State} {k : BitVec 8} {x : Stream} (h : sfind s.hqe.streams k.toNat = some x)

include h

theorem exec_snapshotDeliver_none (idle : x.taken = none) : exec (.snapshotDeliver k) s = .next s := by
  change execSnapshotDeliver k s = _
  unfold execSnapshotDeliver
  simp only [h, idle]

theorem exec_snapshotDeliver_blocked {gen : Word} {t : Time} {bs : List Byte} (taken : x.taken = some (gen, t, bs))
    (blocked : s.snapshotBlocked x = true) :
    exec (.snapshotDeliver k) s = .next (snapshotMiss (s.setStream k.toNat { x with taken := none })) := by
  change execSnapshotDeliver k s = _
  unfold execSnapshotDeliver
  simp only [h, taken, blocked, if_true]

theorem exec_snapshotDeliver_written {gen : Word} {t : Time} {bs : List Byte} (taken : x.taken = some (gen, t, bs))
    (free : s.snapshotBlocked x = false) :
    let filled := (s.setMems { s.mems with host := writeBytes s.mems.host (x.addr + gen.toNat % x.slots * bs.length) bs }).setStream k.toNat
      { x with taken := none }
    exec (.snapshotDeliver k) s = .next (postCompletion filled x.fn x.cq
      { d := completion 4 stOk k.toNat gen (BitVec.ofNat 32 (gen.toNat % x.slots)) (BitVec.ofNat 32 bs.length) s.now (t.setWidth 32) 0
        solicit := false }) := by
  change execSnapshotDeliver k s = _
  unfold execSnapshotDeliver
  simp only [h, taken, free, Bool.false_eq_true, if_false]
  rfl

end deliver

end Sys2Proof.Machine

open Sys2Proof Sys2Proof.Machine Host

theorem eventRingsSignal : Claim.EventRingsSignal := by
  intro s pf r h f quiet
  have signal := exec_eventRingSignal h
  refine ⟨fun irq dirty holdoff dev => ?_, fun still => ?_⟩
  · rw [signal, if_pos ⟨irq, dirty, holdoff, dev⟩, signalVector_eq]
    rfl
  · refine signal.trans (congrArg _ (if_neg ?_))
    rintro ⟨irq, dirty, holdoff, dev⟩
    rcases still with off | clean | early | frozen
    · simp [off] at irq
    · simp [clean] at dirty
    · exact absurd holdoff (BitVec.not_le.2 early)
    · exact dev frozen

theorem snapshotsAreTakenAndDelivered : Claim.SnapshotsAreTakenAndDelivered := by
  intro s k x h put due instant
  have taking (t : Time) (y : Stream) (found : s.snapshotDue x = some (t, y)) (gen : y.gen = x.gen) : due t y := by
    refine ⟨fun idle => ?_, fun busy => ?_⟩
    · obtain ⟨body, u, bytes, empty, keeps⟩ := snapshotBytes_framed s k.toNat x x.gen t
      have step := exec_snapshotTake_taken h found idle
      rw [bytes, gen] at step
      refine ⟨_, step, body, sfind_sins _ _ _, empty, fun cls => ?_⟩
      rw [keeps cls]
      rfl
    · rw [← gen]
      exact exec_snapshotTake_missed h found busy
  refine ⟨fun t rest requests le => ?_, fun requests period late => ?_, fun requests early => ?_, exec_snapshotDeliver_none h,
    fun gen t bs taken => ⟨fun blocked => ?_, fun c runs ring room => ?_⟩⟩
  · exact taking t _ (snapshotDue_request requests le) rfl
  · exact taking _ _ (snapshotDue_instant requests period late) rfl
  · exact exec_snapshotTake_none h (snapshotDue_none requests early)
  · refine exec_snapshotDeliver_blocked h taken ?_
    unfold State.snapshotBlocked
    rcases blocked with stopped | full
    · rw [stopped]; rfl
    · cases ring : s.hcq x.fn x.cq with
      | none => exact Bool.or_true _
      | some c => simp [full c ring]
  · refine exec_snapshotDeliver_written h taken ?_
    unfold State.snapshotBlocked
    rw [runs, ring]
    exact room

/-- Settles O51: each write of a host by the rule of what it reaches; resets by what they take away; snapshots by what is due. -/
theorem hostFunctions : Obligations.HostFunctions :=
  ⟨functionsAreEnabledAndDisabled, configurationSpaceAndReset, eventRingsSignal, snapshotsAreTakenAndDelivered⟩

end

section
/-! SUPPORT. What the board asks over I3C0 (R540–R542): messages in bytes, the commands they carry, the endpoint's answers and the
sensors. -/

namespace Sys2Proof.Machine

open Host

/-! ### Numbers in bytes -/

theorem length_leBytes (n v : Nat) : (leBytes n v).length = n := by
  induction n generalizing v with
  | zero => rfl
  | succ n ih => rw [leBytes, List.length_cons, ih]

theorem leNat_leBytes {n v : Nat} (h : v < 256 ^ n) : leNat (leBytes n v) = v := by
  induction n generalizing v with
  | zero => rw [leBytes, leNat]; omega
  | succ n ih =>
    rw [leBytes, leNat, ih (by rw [pow_succ] at h; omega), BitVec.toNat_ofNat]
    omega

theorem leNat_word (w : Word) : leNat (leBytes 4 w.toNat) = w.toNat := leNat_leBytes w.isLt

/-- Word `i` of words in bytes. -/
theorem word_of_bytes {α : Type} (f : α → Word) {l : List α} {i : Nat} {a : α} (h : l[i]? = some a) :
    ((l.flatMap fun x => leBytes 4 (f x).toNat).drop (4 * i)).take 4 = leBytes 4 (f a).toNat := by
  induction l generalizing i with
  | nil => simp at h
  | cons x l ih =>
    rw [List.flatMap_cons]
    cases i with
    | zero =>
      obtain rfl : x = a := by simpa using h
      exact List.take_left' (length_leBytes ..)
    | succ i =>
      have past : 4 * (i + 1) = (leBytes 4 (f x).toNat).length + 4 * i := by rw [length_leBytes]; omega
      rw [past, List.drop_length_add_append]
      exact ih (by simpa using h)

/-- A descriptor is read from the bytes of its words. -/
theorem descOf_bytes (w : Fin 8 → Word) : descOf ((List.finRange 8).flatMap fun i => leBytes 4 (w i).toNat) =
    { w0 := w 0, w1 := w 1, w2 := w 2, w3 := w 3, w4 := w 4, w5 := w 5, w6 := w 6, w7 := w 7 } := by
  have word (i : Fin 8) : BitVec.ofNat 32 (leNat ((((List.finRange 8).flatMap fun i => leBytes 4 (w i).toNat).drop (4 * i.val)).take 4)) = w i := by
    rw [word_of_bytes w (a := i) (by simp), leNat_word, BitVec.ofNat_toNat, BitVec.setWidth_eq]
  unfold descOf
  rw [Desc.mk.injEq]
  exact ⟨word 0, word 1, word 2, word 3, word 4, word 5, word 6, word 7⟩

/-- A descriptor is read from 32 bytes, whatever follows. -/
theorem descOf_append {desc : List Byte} (h : desc.length = 32) (data : List Byte) : descOf (desc ++ data) = descOf desc := by
  have word {i : Nat} (hi : i < 8) : ((desc ++ data).drop (4 * i)).take 4 = (desc.drop (4 * i)).take 4 := by
    rw [List.drop_append_of_le_length (by omega), List.take_append_of_le_length (by rw [List.length_drop]; omega)]
  unfold descOf
  simp only [word (by decide : 0 < 8), word (by decide : 1 < 8), word (by decide : 2 < 8), word (by decide : 3 < 8), word (by decide : 4 < 8),
    word (by decide : 5 < 8), word (by decide : 6 < 8), word (by decide : 7 < 8)]

/-! ### Board commands (R541) -/

/-- R541: a vendor-defined message of KIND `kind` whose LEN says `n`. -/
def vendorMessage (kind tag : Byte) (n : Nat) (desc data : List Byte) : List Byte :=
  [0x7E, 0x1F, 0x9A] ++ [kind, tag] ++ leBytes 2 n ++ desc ++ data

section vendor
variable {s : State} {kind tag : Byte} {n : Nat} {desc data : List Byte} (hd : desc.length = 32) (hn : n < 65536)

include hd hn

/-- R541: what the device does with a message of its vendor. -/
theorem exec_vendorMessage : exec (.vendorCommand (vendorMessage kind tag n desc data)) s =
    .next (if kind ≠ 1 ∨ n ≠ data.length ∨ s.serves (.board tag) = false then s
      else runCommand s (.board tag) (descOf desc) data true) := by
  have body : (vendorMessage kind tag n desc data).drop 3 = kind :: tag :: (leBytes 2 n ++ (desc ++ data)) := by
    simp [vendorMessage]
  have len : leNat (((kind :: tag :: (leBytes 2 n ++ (desc ++ data))).drop 2).take 2) = n := by
    rw [List.drop_succ_cons, List.drop_succ_cons, List.drop_zero, List.take_left' (length_leBytes ..), leNat_leBytes (by omega)]
  have rest : (kind :: tag :: (leBytes 2 n ++ (desc ++ data))).drop 4 = desc ++ data := by
    rw [List.drop_succ_cons, List.drop_succ_cons, List.drop_left' (length_leBytes ..)]
  have whole : (kind :: tag :: (leBytes 2 n ++ (desc ++ data))).length = 36 + data.length := by
    simp [length_leBytes, hd]; omega
  have tail : (kind :: tag :: (leBytes 2 n ++ (desc ++ data))).drop 36 = data := by
    have past : 36 = 4 + desc.length := by omega
    rw [past, ← List.drop_drop, rest, List.drop_left]
  have head : (vendorMessage kind tag n desc data).take 3 = [0x7E, 0x1F, 0x9A] := by simp [vendorMessage]
  have lens : 36 + data.length ≠ 36 + n ↔ n ≠ data.length := by omega
  change execVendorCommand (vendorMessage kind tag n desc data) s = _
  unfold execVendorCommand
  simp only [body, len, whole, rest, tail, descOf_append hd, head, lens, List.getD_cons_zero, List.getD_cons_succ, ne_eq, not_true_eq_false,
    false_or, Bool.not_eq_true']
  exact (apply_ite Outcome.next ..).symm

end vendor

/-! ### The endpoint (R540) -/

/-- Bytes that the protocol chooses take from the free choices and nothing else. -/
theorem freeBytes_only (n : Nat) (s : State) : (freeBytes n s).1.length = n ∧ ∃ k, (freeBytes n s).2 = { s with freeCtr := k } := by
  induction n generalizing s with
  | zero => exact ⟨rfl, _, rfl⟩
  | succ n ih =>
    obtain ⟨len, k, only⟩ := ih s.takeFree.2
    unfold freeBytes
    refine ⟨congrArg (· + 1) len, k, only.trans rfl⟩

/-- R540: a control request is answered under its own number, with its command and what the command asks. -/
theorem exec_controlRequest {s : State} {inst : Byte} (dev : s.dev ≠ .reset) (request : inst.getLsbD 7 = true) (cmd : Byte) (data : List Byte) :
    exec (.mctpControl ([0x00, inst, cmd] ++ data)) s = .next (sendMctp (controlAnswer s cmd.toNat data).2
      ([0x00, inst &&& 0x1F, cmd] ++ (controlAnswer s cmd.toNat data).1)) :=
  if_neg (by simp [dev, request])

theorem controlAnswer_setEid (s : State) (op eid : Byte) : controlAnswer s 1 [op, eid] =
    if 2 ≤ op.toNat % 4 ∨ eid = 0 ∨ eid = 0xFF then ([0x02], s) else ([0x00, 0x00, eid, 0x00], s.setMgt { s.mgt with eid := eid }) := rfl

/-! ### PLDM (R540, R542) -/

/-- R540: the PLDM types that the device serves. -/
def State.servesPldm (s : State) (typ : Nat) : Prop := if s.mgt.boot.firmware then typ = 0 ∨ typ = 2 ∨ typ = 5 else typ = 5

section answers
variable {s : State} {data : List Byte}

theorem pldmAnswer_sensor {v : Nat} (h : s.sensor (leNat (data.take 2)) = some v) :
    pldmAnswer s 2 0x11 data = ([0x00, 0x03, 0x00, 0x00] ++ (freeBytes 3 s).1 ++ leBytes 2 v, (freeBytes 3 s).2) := by
  unfold pldmAnswer
  simp [h]

theorem pldmAnswer_noSensor (h : s.sensor (leNat (data.take 2)) = none) : pldmAnswer s 2 0x11 data = ([0x80], s) := by
  unfold pldmAnswer
  simp [h]

theorem pldmAnswer_state (h : leNat (data.take 2) = 8) :
    pldmAnswer s 2 0x21 data = ([0x00, 0x01, 0x00, BitVec.ofNat 8 s.dev.code] ++ (freeBytes 2 s).1, (freeBytes 2 s).2) := by
  unfold pldmAnswer
  simp [h]

theorem pldmAnswer_noState (h : leNat (data.take 2) ≠ 8) : pldmAnswer s 2 0x21 data = ([0x80], s) := by
  unfold pldmAnswer
  simp [h]

end answers

section pldm
variable {s : State} {inst : Byte} (dev : s.dev ≠ .reset) (request : inst.getLsbD 7 = true) (typ cmd : Byte) (data : List Byte)

theorem exec_pldmRequest_ignored (other : ¬s.servesPldm (typ.toNat % 64)) :
    exec (.pldmMessage ([0x01, inst, typ, cmd] ++ data)) s = .next s :=
  if_pos (by
    unfold State.servesPldm at other
    simp only [Bool.not_eq_true', decide_eq_false_iff_not]
    exact .inr (.inr (.inr (.inr other))))

include dev request

theorem exec_pldmRequest (served : s.servesPldm (typ.toNat % 64)) :
    exec (.pldmMessage ([0x01, inst, typ, cmd] ++ data)) s = .next (sendMctp (pldmAnswer s (typ.toNat % 64) cmd.toNat data).2
      ([0x01, inst &&& 0x1F, typ, cmd] ++ (pldmAnswer s (typ.toNat % 64) cmd.toNat data).1)) :=
  if_neg (by
    unfold State.servesPldm at served
    simp only [dev, false_or]
    rintro (short | kind | answer | other)
    · simp at short
      omega
    · simp at kind
    · simp at answer
      simp [answer] at request
    · rw [Bool.not_eq_true', decide_eq_false_iff_not] at other
      exact other served)

end pldm

end Sys2Proof.Machine

open Sys2Proof Sys2Proof.Machine Host

theorem boardCommandsAreRun : Claim.BoardCommandsAreRun := by
  refine ⟨?_, fun s msg other => if_pos (.inl other), ?_⟩
  · intro s tag desc data msg hd short
    refine ⟨fun serves => ?_, fun closed => ?_, fun kind n hn bad => ?_⟩
    · exact (exec_vendorMessage hd short).trans (congrArg _ (if_neg (by simp [serves])))
    · exact (exec_vendorMessage hd short).trans (congrArg _ (if_pos (.inr (.inr closed))))
    · exact (exec_vendorMessage hd hn).trans (congrArg _ (if_pos (bad.imp_right .inl)))
  · rintro w d rfl
    exact descOf_bytes w

theorem controlRequestsAreAnswered : Claim.ControlRequestsAreAnswered := by
  intro s inst dev request ask answer
  have reply (cmd : Byte) (data b : List Byte) (t : State) (h : controlAnswer s cmd.toNat data = (b, t)) :
      exec (ask cmd data) s = .next (answer t cmd b) := by
    refine (exec_controlRequest dev request cmd data).trans ?_
    rw [h]
    rfl
  refine ⟨fun op eid sets low high => reply _ _ _ _ ?_, fun op eid bad => reply _ _ _ _ ?_, fun data => reply _ _ _ _ rfl,
    fun data => ?_, fun data => reply _ _ _ _ rfl, fun data => ?_, fun cmd data other => reply _ _ _ _ ?_⟩
  · have accepted : ¬(2 ≤ op.toNat % 4 ∨ eid = 0 ∨ eid = 0xFF) := by
      rintro (h | h | h)
      · omega
      · exact low h
      · exact high h
    exact (controlAnswer_setEid s op eid).trans (if_neg accepted)
  · exact (controlAnswer_setEid s op eid).trans (if_pos bad)
  · obtain ⟨len, n, only⟩ := freeBytes_only 4 s
    exact ⟨_, n, len, reply 4 data _ _ (by rw [← only]; rfl)⟩
  · obtain ⟨len, n, only⟩ := freeBytes_only 2 s
    exact ⟨_, n, len, reply 6 data _ _ (by rw [← only]; rfl)⟩
  · unfold controlAnswer
    split
    case h_6 => rfl
    all_goals omega

theorem sensorsAreReadOverPldm : Claim.SensorsAreReadOverPldm := by
  intro s inst dev request ask answer
  refine ⟨fun firmware id hid => ?_, fun typ cmd data t0 t2 t5 => ?_, fun bare typ cmd data t5 => ?_⟩
  · have reads (data : List Byte) : leNat ((leBytes 2 id ++ data).take 2) = id := by
      rw [List.take_left' (length_leBytes ..), leNat_leBytes (by omega)]
    have reply (cmd : Byte) (data b : List Byte) (t : State) (h : pldmAnswer s 2 cmd.toNat data = (b, t)) :
        exec (ask 2 cmd data) s = .next (answer t 2 cmd b) := by
      have served : s.servesPldm ((2 : Byte).toNat % 64) := by
        unfold State.servesPldm
        rw [if_pos firmware]
        decide
      refine (exec_pldmRequest dev request 2 cmd data served).trans ?_
      have two : (2 : Byte).toNat % 64 = 2 := rfl
      rw [two, h]
      rfl
    refine ⟨fun v one found => ?_, fun none => reply _ _ _ _ (pldmAnswer_noSensor ?_), fun eight => ?_, fun other =>
      reply _ _ _ _ (pldmAnswer_noState ?_)⟩
    · obtain ⟨len, n, only⟩ := freeBytes_only 3 s
      have sensor : s.sensor id = some v := (if_neg (by omega)).trans found
      exact ⟨_, n, len, reply 0x11 _ _ _ (only ▸ pldmAnswer_sensor (by rw [reads, sensor]))⟩
    · rw [reads, State.sensor]
      rcases none with rfl | past
      · rfl
      · rw [if_neg (by omega), List.getElem?_eq_none (by omega)]
    · obtain ⟨len, n, only⟩ := freeBytes_only 2 s
      exact ⟨_, n, len, reply 0x21 _ _ _ (only ▸ pldmAnswer_state (by rw [reads, eight]))⟩
    · rwa [reads]
  · refine exec_pldmRequest_ignored typ cmd data ?_
    unfold State.servesPldm
    split
    · rintro (h | h | h)
      · exact t0 h
      · exact t2 h
      · exact t5 h
    · exact t5
  · refine exec_pldmRequest_ignored typ cmd data ?_
    unfold State.servesPldm
    rw [bare]
    exact t5

end

section
/-! SUPPORT. Updates (R522–R524, R528, R543): what is written to the flash, the boot header that is rewritten, the event. -/

namespace Sys2Proof.Machine

open Host

/-! ### The flash (R521) -/

def State.flashByte (s : State) (a : Nat) : Byte := sget 0xFF s.mems.flash a

/-- The flash with bytes written one after another from `a` on. -/
def flashWith (m : SMap Byte) (a : Nat) (bs : List Byte) : SMap Byte := bs.zipIdx.foldl (fun m e => sput 0xFF m (a + e.2) e.1) m

theorem flashWith_cons (m : SMap Byte) (a : Nat) (b : Byte) (bs : List Byte) :
    flashWith m a (b :: bs) = flashWith (sput 0xFF m a b) (a + 1) bs := by
  have place (n : Nat) : a + (0 + 1 + n) = a + 1 + n := by omega
  rw [flashWith, List.zipIdx_cons, List.foldl_cons, List.zipIdx_eq_map_add, List.foldl_map]
  simp only [place, Nat.add_zero, flashWith]

theorem flashWith_wf {m : SMap Byte} (h : swf 0xFF m = true) (a : Nat) (bs : List Byte) : swf 0xFF (flashWith m a bs) = true := by
  induction bs generalizing m a with
  | nil => exact h
  | cons b bs ih => rw [flashWith_cons]; exact ih (sput_wf h a b) (a + 1)

/-- A byte outside the bytes written reads as before; inside, it reads the byte written. -/
theorem sget_flashWith {m : SMap Byte} (h : swf 0xFF m = true) (a : Nat) (bs : List Byte) (j : Nat) :
    sget 0xFF (flashWith m a bs) j = if a ≤ j ∧ j < a + bs.length then bs.getD (j - a) 0 else sget 0xFF m j := by
  induction bs generalizing m a with
  | nil => rw [if_neg (by simp)]; rfl
  | cons b bs ih =>
    rw [flashWith_cons, ih (sput_wf h a b), sget_sput h, List.length_cons]
    by_cases here : j = a
    · subst here
      rw [if_neg (by omega), if_pos rfl, if_pos (by omega), Nat.sub_self, List.getD_cons_zero]
    · rw [if_neg here]
      by_cases inside : a + 1 ≤ j ∧ j < a + 1 + bs.length
      · have next : j - a = (j - (a + 1)) + 1 := by omega
        rw [if_pos inside, if_pos (by omega), next, List.getD_cons_succ]
      · rw [if_neg inside, if_neg (by omega)]

/-! ### The boot header (R522, R523) -/

/-- R523: what the header copies say follows the first 8 KiB of the flash alone. -/
theorem headerCopy_of_bytes {s u : State} (h : ∀ a, a < 8192 → u.flashByte a = s.flashByte a) {i : Nat} (hi : i < 2) :
    u.headerCopy i = s.headerCopy i := by
  have bytes {a n : Nat} (hn : a + n ≤ 8192) : u.flashBytes a n = s.flashBytes a n :=
    List.map_congr_left fun k hk => h _ (by rw [List.mem_range] at hk; omega)
  have number {a n : Nat} (hn : a + n ≤ 8192) : u.flashLE a n = s.flashLE a n := congrArg leNat (bytes hn)
  unfold State.headerCopy
  simp (disch := omega) only [number, bytes]

theorem length_headerImage (h : BootHeader) : (headerImage h).length = 4096 := by
  simp only [headerImage, List.length_append, length_leBytes, List.length_replicate, List.length_cons, List.length_nil]

/-- R522: a boot header's bytes, with their check. -/
theorem headerImage_eq (h0 h1 slot fallback : Bool) (seq : Nat) :
    let body := [0x41, 0x4C, 0x44, 0x48, 0x01, 0x00, BitVec.ofNat 8 h0.toNat, BitVec.ofNat 8 h1.toNat, BitVec.ofNat 8 slot.toNat,
      BitVec.ofNat 8 fallback.toNat, 0x00, 0x00] ++ leBytes 4 seq ++ List.replicate 4076 0
    headerImage { h0 := h0, h1 := h1, slot := slot, fallback := fallback, seq := seq } = body ++ leBytes 4 (crc32cOf body).toNat := by
  have flag (b : Bool) : b2n b = b.toNat := by cases b <;> rfl
  unfold headerImage
  rw [flag, flag, flag, flag]
  rfl

section bytes
variable {s u : State} (h : ∀ a, a < 8192 → u.flashByte a = s.flashByte a)

include h

theorem bootHeader_of_bytes : u.bootHeader = s.bootHeader := by
  rw [State.bootHeader, State.bootHeader, headerCopy_of_bytes h (by decide : 0 < 2), headerCopy_of_bytes h (by decide : 1 < 2)]

theorem headerInForce_of_bytes : u.headerInForce = s.headerInForce := by
  rw [State.headerInForce, State.headerInForce, headerCopy_of_bytes h (by decide : 0 < 2), headerCopy_of_bytes h (by decide : 1 < 2)]

end bytes

/-! ### The event of an update (R543, R547) -/

/-- The two states differ in the bytes of host memory alone. -/
def HostAside (s u : State) : Prop := ∃ m, u = { s with mems := { s.mems with host := m } }

theorem HostAside.ite {s u s' u' : State} {c : Prop} [Decidable c] (h : HostAside s u) (k : HostAside s' u') :
    HostAside (if c then s else s') (if c then u else u') := by
  split
  · exact h
  · exact k

/-- R546: an event is logged in one way whatever host memory holds. -/
theorem logRecord_hostAside {s u : State} (h : HostAside s u) (code sev : Nat) (data : BitVec 128) :
    HostAside (logRecord s code sev data).1 (logRecord u code sev data).1 ∧ (logRecord u code sev data).2 = (logRecord s code sev data).2 := by
  have copies (e : EventRec) (rs : SMap EventRing) {s u : State} (h : HostAside s u) :
      HostAside (rs.foldl (fun st r => copyToRing st e r) s) (rs.foldl (fun st r => copyToRing st e r) u) := by
    induction rs generalizing s u with
    | nil => exact h
    | cons r rs ih =>
      rw [List.foldl_cons, List.foldl_cons]
      refine ih ?_
      obtain ⟨m, rfl⟩ := h
      exact ⟨_, rfl⟩
  have message {s u : State} (h : HostAside s u) (b : List Byte) :
      HostAside { s with sent := .mctp b :: s.sent } { u with sent := .mctp b :: u.sent } := by
    obtain ⟨m, rfl⟩ := h
    exact ⟨_, rfl⟩
  obtain ⟨m, rfl⟩ := h
  refine ⟨?_, rfl⟩
  unfold logRecord
  dsimp only
  exact .ite (message (.ite ⟨_, rfl⟩ (copies _ _ ⟨_, rfl⟩)) _) (.ite ⟨_, rfl⟩ (copies _ _ ⟨_, rfl⟩))

/-- R549, R552: what an event does to the Contact Sheet. -/
def eventTaps (code : Nat) (e : EventRec) (s : State) : State :=
  let s2 := if s.csh.st = .armed ∧ s.cshNames 0x28 code then s.cshStart else s
  let s3 := if bitAt (s2.reg (cshBase + 0x20)) 29 then s2.cshOffer (CshRec.plain 5 e.time e.bytes) else s2
  if s.csh.st = .recording ∧ s.cshNames 0x2C code then s3.cshStop else s3

/-- R546, R552: an event is logged, then it acts on the Contact Sheet, whose change may be the next event. -/
theorem logEventN_succ (n : Nat) (s : State) (code sev : Nat) (data : BitVec 128) : logEventN (n + 1) s code sev data =
    let t := (logRecord s code sev data).1
    let u := eventTaps code (logRecord s code sev data).2 t
    if t.csh.st = .armed ∧ t.cshNames 0x28 code then logEventN n u 0x90 0 (BitVec.ofNat 128 (u.csh.seq.toNat * 2 ^ 32))
    else if (t.csh.st = .recording ∧ t.cshNames 0x2C code) ∧ u.csh.st = .stopped then
      logEventN n u 0x91 0 (BitVec.ofNat 128 (u.cshLastSeq * 2 ^ 32))
    else u := rfl

section taps
variable {s u : State} (h : HostAside s u)

include h

theorem cshOffer_hostAside (r : CshRec) : HostAside (s.cshOffer r) (u.cshOffer r) := by
  obtain ⟨m, rfl⟩ := h
  exact .ite ⟨_, rfl⟩ ⟨_, rfl⟩

theorem cshStop_hostAside : HostAside s.cshStop u.cshStop := by
  obtain ⟨m, rfl⟩ := h
  exact .ite ⟨_, rfl⟩ ⟨_, rfl⟩

theorem eventOffer_hostAside (r : CshRec) : HostAside (if bitAt (s.reg (cshBase + 0x20)) 29 then s.cshOffer r else s)
    (if bitAt (u.reg (cshBase + 0x20)) 29 then u.cshOffer r else u) := by
  have offered := cshOffer_hostAside h r
  obtain ⟨m, rfl⟩ := h
  exact .ite offered ⟨_, rfl⟩

theorem eventTaps_hostAside (code : Nat) (e : EventRec) : HostAside (eventTaps code e s) (eventTaps code e u) := by
  obtain ⟨m, rfl⟩ := h
  have offered := eventOffer_hostAside (s := if s.csh.st = .armed ∧ s.cshNames 0x28 code then s.cshStart else s)
    (.ite ⟨m, rfl⟩ ⟨m, rfl⟩) (CshRec.plain 5 e.time e.bytes)
  exact .ite (cshStop_hostAside offered) offered

end taps

theorem logEventN_hostAside (n : Nat) {s u : State} (h : HostAside s u) (code sev : Nat) (data : BitVec 128) :
    HostAside (logEventN n s code sev data) (logEventN n u code sev data) := by
  induction n generalizing s u code sev data with
  | zero => exact (logRecord_hostAside h code sev data).1
  | succ n ih =>
    obtain ⟨first, same⟩ := logRecord_hostAside h code sev data
    have tapped := eventTaps_hostAside first code (logRecord s code sev data).2
    rw [logEventN_succ, logEventN_succ]
    dsimp only
    rw [same]
    generalize eventTaps code (logRecord s code sev data).2 (logRecord s code sev data).1 = t at *
    generalize eventTaps code (logRecord s code sev data).2 (logRecord u code sev data).1 = w at *
    obtain ⟨m, first⟩ := first
    obtain ⟨m', rfl⟩ := tapped
    rw [first]
    exact .ite (ih ⟨m', rfl⟩ _ _ _) (.ite (ih ⟨m', rfl⟩ _ _ _) ⟨m', rfl⟩)

/-- R546: the log after an event is one, whatever host memory holds. -/
theorem logEvent_events (s : State) (m : SMap Byte) (code sev : Nat) (data : BitVec 128) :
    (State.logEvent { s with mems := { s.mems with host := m } } code sev data).events = (s.logEvent code sev data).events := by
  obtain ⟨m', aside⟩ := logEventN_hostAside 3 (s := s) ⟨m, rfl⟩ code sev data
  rw [State.logEvent, aside, State.logEvent]

end Sys2Proof.Machine
end

section
/-! SUPPORT. The two kinds of update (R543): firmware with its boot header, and a profile's image. -/

namespace Sys2Proof.Machine

open Host

/-! ### What an update leaves -/

/-- The state with another flash, and with free choices taken. -/
def State.withFlash (s : State) (flash : SMap Byte) (n : Nat) : State := { s with mems := { s.mems with flash := flash }, freeCtr := n }

/-- R543: an update changes the flash, and FW_UPDATED what logging may change. -/
theorem fwUpdated_frame (s : State) (flash : SMap Byte) (n component version : Nat) :
    let u := fwUpdated (s.withFlash flash n) component version
    u.mems.flash = flash ∧
    u = { s.logged u with mems := { s.mems with flash := u.mems.flash, host := u.mems.host }, freeCtr := u.freeCtr } := by
  obtain ⟨events, host, csh, sent, logs⟩ := logEvent_logs (s.withFlash flash n) 4 0 (evAt 0 component ||| evAt 4 version)
  unfold fwUpdated
  rw [logs]
  exact ⟨rfl, rfl⟩

/-- R543, R547: FW_UPDATED is logged as it would be had the flash held the update before. -/
theorem fwUpdated_events (s : State) (flash : SMap Byte) (component version : Nat) :
    let u := fwUpdated (s.withFlash flash s.freeCtr) component version
    u.events = (State.logEvent { s with mems := u.mems } 4 0 (evAt 0 component ||| evAt 4 version)).events := by
  obtain ⟨events, host, csh, sent, logs⟩ := logEvent_logs (s.withFlash flash s.freeCtr) 4 0 (evAt 0 component ||| evAt 4 version)
  have mems : (fwUpdated (s.withFlash flash s.freeCtr) component version).mems = { s.mems with flash := flash, host := host } := by
    rw [fwUpdated, logs]
    rfl
  dsimp only
  rw [mems]
  exact (logEvent_events (s.withFlash flash s.freeCtr) host 4 0 _).symm

/-! ### Firmware (R523, R524) -/

/-- R521: a slot lies behind the header copies. -/
theorem slotBase_ge (slot : Bool) : 8192 ≤ slotBase slot := by cases slot <;> decide

/-- R523: where the header copy not used lies. -/
def State.spareCopy (s : State) : Nat := if s.headerInForce = some 0 then 4096 else 0

/-- R523: the header that names the slot of an update. -/
def State.nextHeader (s : State) (slot : Bool) : BootHeader := { s.bootHeader with slot := slot, seq := (s.bootHeader.seq + 1) % 2 ^ 32 }

/-- The flash after an update of firmware. -/
def State.updatedFlash (s : State) (slot : Bool) (data : List Byte) : SMap Byte :=
  flashWith (flashWith s.mems.flash (slotBase slot) data) s.spareCopy (headerImage (s.nextHeader slot))

section firmware
variable {s : State} (form : swf 0xFF s.mems.flash = true) (slot : Bool) (data : List Byte)

include form

theorem rewriteHeader_writeFlash : rewriteHeader (writeFlash s (slotBase slot) data) slot = s.withFlash (s.updatedFlash slot data) s.freeCtr := by
  have below (a : Nat) (ha : a < 8192) : (writeFlash s (slotBase slot) data).flashByte a = s.flashByte a :=
    (sget_flashWith form _ _ _).trans (if_neg (by have := slotBase_ge slot; omega))
  unfold rewriteHeader
  rw [bootHeader_of_bytes below, headerInForce_of_bytes below]
  rfl

theorem sget_updatedFlash (a : Nat) : sget 0xFF (s.updatedFlash slot data) a =
    if s.spareCopy ≤ a ∧ a < s.spareCopy + 4096 then (headerImage (s.nextHeader slot)).getD (a - s.spareCopy) 0
    else if slotBase slot ≤ a ∧ a < slotBase slot + data.length then data.getD (a - slotBase slot) 0 else s.flashByte a := by
  rw [State.updatedFlash, sget_flashWith (flashWith_wf form _ _), length_headerImage, sget_flashWith form]
  rfl

end firmware

/-- R543: the slot that is not in use. -/
def State.spareSlot (s : State) : Bool := if s.mgt.boot.firmware then !s.mgt.fwSlot else !s.bootHeader.slot

theorem updateFirmware_verified {s : State} (form : swf 0xFF s.mems.flash = true) {data : List Byte} (ok : firmwareOk data = true) :
    updateFirmware s data true = fwUpdated (s.withFlash (s.updatedFlash s.spareSlot data) s.freeCtr) 1 (leNat ((data.drop 4).take 4)) := by
  have slot : (!(if s.mgt.boot.firmware then s.mgt.fwSlot else s.bootHeader.slot)) = s.spareSlot := by
    unfold State.spareSlot
    split <;> rfl
  rw [← rewriteHeader_writeFlash form]
  unfold updateFirmware
  rw [slot]
  exact if_neg (by simp [ok])

theorem updateFirmware_refused {s : State} {data : List Byte} {verified : Bool} (h : firmwareOk data = false ∨ verified = false) :
    updateFirmware s data verified = s := if_pos (by simpa using h)

/-! ### A profile (R528) -/

theorem updateProfile_refused {s : State} {data : List Byte} {r : Refused} (h : imageRefusal s data = some r) (n : Nat) :
    updateProfile s n data = refuseImage s n r := by
  unfold updateProfile
  rw [h]

theorem updateProfile_accepted {s : State} {data : List Byte} (h : imageRefusal s data = none) (n : Nat) : ∃ version,
    updateProfile s n data =
      fwUpdated (s.withFlash (flashWith s.mems.flash (0x10000000 + 0x4000000 * n) data) (s.freeCtr + 1)) (0x10 + n) version := by
  refine ⟨Config.free s.freeCtr % 2 ^ 32, ?_⟩
  unfold updateProfile
  rw [h]
  rfl

/-! ### The rows -/

section rows
variable {s : State} (dev : s.dev ≠ .reset) (data : List Byte) (verified : Bool)

include dev

theorem exec_pldmUpdate_firmware : exec (.pldmUpdate 1 data verified) s = .next (updateFirmware s data verified) :=
  congrArg Outcome.next ((if_neg dev).trans (if_pos rfl))

theorem exec_pldmUpdate_profile {c : BitVec 16} (low : 0x10 ≤ c.toNat) (high : c.toNat ≤ 0x13) :
    exec (.pldmUpdate c data verified) s = .next (updateProfile s (c.toNat - 0x10) data) :=
  congrArg Outcome.next ((if_neg dev).trans ((if_neg (by omega)).trans (if_pos (by omega))))

theorem exec_pldmUpdate_other {c : BitVec 16} (firmware : c.toNat ≠ 1) (profile : c.toNat < 0x10 ∨ 0x13 < c.toNat) :
    exec (.pldmUpdate c data verified) s = .next s :=
  congrArg Outcome.next ((if_neg dev).trans ((if_neg firmware).trans (if_neg (by omega))))

end rows

end Sys2Proof.Machine

open Sys2Proof Sys2Proof.Machine Host

theorem updatesFillTheFlash : Claim.UpdatesFillTheFlash := by
  intro s data verified dev form byte frame slot start copy h body image updated
  refine ⟨fun ok good => ?_, fun bad => ?_, fun c low high => ⟨fun r refused => ?_, fun accepted => ?_⟩, fun c firmware profile => ?_⟩
  · subst good
    obtain ⟨flash, only⟩ := fwUpdated_frame s (s.updatedFlash s.spareSlot data) s.freeCtr 1 (leNat ((data.drop 4).take 4))
    have run := (exec_pldmUpdate_firmware dev data true).trans (congrArg _ (updateFirmware_verified form ok))
    refine ⟨_, run, only, fun a => ?_, fwUpdated_events s (s.updatedFlash s.spareSlot data) 1 _⟩
    have header : headerImage (s.nextHeader s.spareSlot) = image := headerImage_eq h.h0 h.h1 slot h.fallback ((h.seq + 1) % 2 ^ 32)
    refine (congrArg (sget 0xFF · a) flash).trans ((sget_updatedFlash form _ data a).trans ?_)
    rw [header]
    rfl
  · exact (exec_pldmUpdate_firmware dev data verified).trans (congrArg _ (updateFirmware_refused bad))
  · exact (exec_pldmUpdate_profile dev data verified low high).trans (congrArg _ (updateProfile_refused refused _))
  · obtain ⟨version, filled⟩ := updateProfile_accepted accepted (c.toNat - 0x10)
    obtain ⟨flash, only⟩ := fwUpdated_frame s (flashWith s.mems.flash (0x10000000 + 0x4000000 * (c.toNat - 0x10)) data) (s.freeCtr + 1)
      (0x10 + (c.toNat - 0x10)) version
    have run := (exec_pldmUpdate_profile dev data verified low high).trans (congrArg _ filled)
    refine ⟨_, run, only, fun a => ?_⟩
    exact (congrArg (sget 0xFF · a) flash).trans (sget_flashWith form _ data a)
  · exact exec_pldmUpdate_other dev data verified firmware profile

/-- Settles O57: messages by their bytes, answers by their codes, updates by what they write to the flash. -/
theorem boardServices : Obligations.BoardServices :=
  ⟨boardCommandsAreRun, controlRequestsAreAnswered, sensorsAreReadOverPldm, updatesFillTheFlash⟩

end

section
/-! SUPPORT. SUBMIT and PKTOUT (R186, R235, R261): the area of the scratch that they read, and where each branch leaves its thread. -/

namespace Sys2Proof.Machine

open Host

/-! ### Instructions that stay at their thread (R244, R257) -/

/-- A ready thread that waits, or awaits a value, is left as the body leaves it. -/
theorem settle_stay {s : State} {t : ThreadId} (h : s.ready t) (pc : Addr) (u : State) : settle s t pc (.stay u) = u :=
  if_neg fun both => absurd both.1 (by simp [h.noStep])

/-- An OP 0x21 instruction of a ready thread that passes its field check runs its body. -/
theorem workRow_ready {s : State} {t : ThreadId} (h : s.ready t) {legal : RFields → Bool} {f : RFields} (fields : legal f = true)
    (fn : Nat) (body : Thread → Result) :
    workRow fn legal body t f s = .next (settle s t (s.thread t).pc (body (s.thread t))) := by
  rw [workRow, fields, issue_ready h]

/-- R262: the compare is not both armed and reached. -/
theorem compareReached_iff {s : State} {t : Nat} : (s.thread t).compareReached s.now = true ↔ s.compared t := by
  rw [Thread.compareReached, Bool.and_eq_true, decide_eq_true_eq, BitVec.le_def]
  rfl

theorem waitOrTimeout_waits {s : State} {t : Nat} (h : ¬s.compared t) (rd : BitVec 4) (w : Wait) :
    waitOrTimeout s t rd w = .stay (s.waiting t w) := if_neg (mt compareReached_iff.1 h)

/-! ### The area of the scratch (R186, R261) -/

section area
variable {a : Addr} {n al : Nat} (t : Nat)

theorem scratchArea_misaligned (h : a.toNat % al ≠ 0) : scratchArea t a n al = .inr codeMisaligned := if_pos h

theorem scratchArea_outside (h : a.toNat % al = 0) (out : ¬(0x100000 ≤ a.toNat ∧ a.toNat + n ≤ 0x110000)) :
    scratchArea t a n al = .inr codeAccess := (if_neg (not_not.2 h)).trans (if_neg out)

theorem scratchArea_inside (h : a.toNat % al = 0) (low : 0x100000 ≤ a.toNat) (high : a.toNat + n ≤ 0x110000) :
    scratchArea t a n al = .inl (0x10000 * coreOf t + (a.toNat - 0x100000)) := (if_neg (not_not.2 h)).trans (if_pos ⟨low, high⟩)

end area

/-! ### SUBMIT (R186, R235) -/

/-- R225, R235: the field check of SUBMIT. -/
def submitLegal (f : RFields) : Bool := isA f.rs1 && f.rs2 == 0 && auxWithin f.aux 1

section submit
variable {s : State} {t : ThreadId} {f : RFields} (ready : s.ready t) (fields : submitLegal f = true)

include ready fields

theorem exec_submit_raises {code : Nat} (h : scratchArea t ((s.thread t).areg (aOf f.rs1)) 64 4 = .inr code) :
    Raises (.submit t f) s t code ((s.thread t).areg (aOf f.rs1)) := by
  refine (workRow_ready (legal := submitLegal) ready fields 0x0B _).trans ?_
  dsimp only
  rw [h]
  exact congrArg _ (settle_raise ready _ _ _)

/-- R186: what SUBMIT answers for the item `w` in the scratch. -/
theorem exec_submit_item {off : Nat} {w : List Word} (h : scratchArea t ((s.thread t).areg (aOf f.rs1)) 64 4 = .inl off)
    (item : stampItem s (itemWords s off) = w) : exec (.submit t f) s =
      .next (if s.submitStatus w false ≠ 0 then (countRefused s).awaiting t f.rd (BitVec.ofNat 32 (s.submitStatus w false))
        else if s.submitRoom w false then (enterSubmission s w).awaiting t f.rd 0
        else if f.aux = 0 then (countRefused s).awaiting t f.rd 1
        else settle s t (s.thread t).pc (waitOrTimeout s t f.rd (.submit f.rd w))) := by
  refine (workRow_ready (legal := submitLegal) ready fields 0x0B _).trans ?_
  dsimp only
  rw [h]
  dsimp only
  rw [item, apply_ite (settle s t _), apply_ite (settle s t _), apply_ite (settle s t _)]
  simp only [answer, settle_stay ready]
  rfl

end submit

/-! ### PKTOUT (R76, R261) -/

/-- R225, R261: the field check of PKTOUT. -/
def pktoutLegal (f : RFields) : Bool := isA f.rs1 && f.rs2 == 0 && f.aux == 0

section pktout
variable {s : State} {t : ThreadId} {f : RFields} (ready : s.ready t) (fields : pktoutLegal f = true)

include ready fields

theorem exec_pktout_raises {code : Nat} (h : scratchArea t ((s.thread t).areg (aOf f.rs1)) 32 8 = .inr code) :
    Raises (.pktout t f) s t code ((s.thread t).areg (aOf f.rs1)) := by
  refine (workRow_ready (legal := pktoutLegal) ready fields 0x0C _).trans ?_
  dsimp only
  rw [h]
  exact congrArg _ (settle_raise ready _ _ _)

/-- R261: what PKTOUT answers for the record `r` in the scratch, with the timestamp `p`. -/
theorem exec_pktout_record {off : Nat} {r : List Byte} (h : scratchArea t ((s.thread t).areg (aOf f.rs1)) 32 8 = .inl off)
    (record : readBytes s.mems.scratch off 32 = r) {p : Time × State} (point : s.stamp pointThread s.now = p) : exec (.pktout t f) s =
      .next (if goodRecord s r = false then s.awaiting t f.rd 7
        else if s.dev = .frozen then s.awaiting t f.rd 8
        else if s.fixFull then settle s t (s.thread t).pc (waitOrTimeout p.2 t f.rd (.pktout f.rd r p.1))
        else (sendRecord p.2 t r p.1).1.awaiting t f.rd (BitVec.ofNat 32 (sendRecord p.2 t r p.1).2)) := by
  refine (workRow_ready (legal := pktoutLegal) ready fields 0x0C _).trans ?_
  dsimp only
  rw [h]
  dsimp only
  rw [record, point, apply_ite (settle s t _), apply_ite (settle s t _), apply_ite (settle s t _)]
  simp only [answer, settle_stay ready, Bool.not_eq_true']
  rfl

end pktout

/-! ### Waits resumed (R76, R186, R261) -/

/-- The end of a wait, for a thread that waits. -/
theorem endWait_waiting {s : State} {t : Nat} (h : (s.thread t).state = .wait) (rd : BitVec 4) (w : Word) :
    endWait s t rd w = s.resumed t rd w := by
  simp only [endWait, State.resumed, State.modThread, h, if_true]

theorem stopAfterEntry_cores (s : State) (g : Nat) : (stopAfterEntry s g).cores = s.cores := by
  unfold stopAfterEntry
  split
  · rfl
  · split <;> rfl

/-- R186: a submission touches no thread. -/
theorem enterSubmission_cores (s : State) (w : List Word) : (enterSubmission s w).cores = s.cores := by
  unfold enterSubmission
  dsimp only
  split
  · rfl
  · exact stopAfterEntry_cores _ _

/-- A thread that awaits a value is found as it was stored. -/
theorem thread_setThread_awaiting {v : Thread} {o : Outstanding} (h : v.outstanding = some o) (s : State) (t : Nat) :
    (s.setThread t v).thread t = v := sget_sput_self (by rintro rfl; cases h) _ _

section resume
variable {s : State} {t : ThreadId} {rd : BitVec 4} (waits : (s.thread t).state = .wait)

include waits

theorem exec_submitResume {w : List Word} (h : (s.thread t).wait = .submit rd w) : exec (.submitResume t) s =
    .next (if s.dev = .frozen then endWait (countRefused s) t rd 6
      else if s.submitRoom w false then endWait (enterSubmission s w) t rd 0 else s) := by
  change execSubmitResume t s = _
  simp only [execSubmitResume, h, waits, ne_eq, not_true_eq_false, if_false]
  split
  · rfl
  · split <;> rfl

theorem exec_pktoutResume {r : List Byte} {ots : Time} (h : (s.thread t).wait = .pktout rd r ots) : exec (.pktoutResume t) s =
    .next (if s.dev = .frozen then endWait s t rd 8 else if s.fixFull then s
      else
        let x := sendRecord (s.modThread t fun x => { x with wait := .none }) t r ots
        endWait x.1 t rd (BitVec.ofNat 32 x.2)) := by
  change execPktoutResume t s = _
  simp only [execPktoutResume, h, waits, ne_eq, not_true_eq_false, if_false]
  split
  · rfl
  · split <;> rfl

end resume

end Sys2Proof.Machine

open Sys2Proof Sys2Proof.Machine Host

theorem submitEntersItsItem : Claim.SubmitEntersItsItem := by
  intro s t f ready base rs2 aux th a off w
  have fields : submitLegal f = true := by
    simp only [submitLegal, Bool.and_eq_true, isA_iff, beq_iff_eq, auxWithin_1]
    exact ⟨⟨base, rs2⟩, aux⟩
  refine ⟨fun odd => exec_submit_raises ready fields (scratchArea_misaligned t odd),
    fun al out => exec_submit_raises ready fields (scratchArea_outside t al out), fun al low high => ?_⟩
  have item := exec_submit_item ready fields (scratchArea_inside t al low high) (rfl : _ = w)
  refine ⟨fun refused => ?_, fun ok room => ?_, fun ok full => ⟨fun returns => ?_, fun stays early => ?_⟩⟩
  · rw [item, if_pos refused]
  · rw [item, if_neg (not_not.2 ok), if_pos room]
  · rw [item, if_neg (not_not.2 ok), if_neg (by simp [full]), if_pos returns]
  · rw [item, if_neg (not_not.2 ok), if_neg (by simp [full]), if_neg (by rw [stays]; decide), waitOrTimeout_waits early,
      settle_stay ready]

theorem waitingSubmissionsResume : Claim.WaitingSubmissionsResume := by
  intro s t rd form waits
  refine ⟨fun w wait => ?_, fun r ots wait => ?_⟩
  · have run := exec_submitResume waits wait
    refine ⟨fun frozen => ?_, fun live room => ?_, fun live full => ?_⟩
    · have still : ((countRefused s).thread t).state = .wait := waits
      rw [run, if_pos frozen, endWait_waiting still]
    · have still : ((enterSubmission s w).thread t).state = .wait := by rw [State.thread, enterSubmission_cores]; exact waits
      rw [run, if_neg live, if_pos room, endWait_waiting still]
    · rw [run, if_neg live, if_neg (by simp [full])]
  · have run := exec_pktoutResume waits wait
    refine ⟨fun frozen => ?_, fun live full => ?_, fun live free => ?_⟩
    · rw [run, if_pos frozen, endWait_waiting waits]
    · rw [run, if_neg live, if_pos full]
    · rw [if_neg live, if_neg (by simp [free])] at run
      exact ⟨_, run, by rw [endWait, State.modThread, thread_setThread_awaiting rfl],
        by rw [endWait, State.modThread, thread_setThread_awaiting rfl]⟩

theorem pktoutSendsItsRecord : Claim.PktoutSendsItsRecord := by
  intro s t f ready base rs2 aux th a r
  have fields : pktoutLegal f = true := by
    simp only [pktoutLegal, Bool.and_eq_true, isA_iff, beq_iff_eq]
    exact ⟨⟨base, rs2⟩, aux⟩
  refine ⟨fun odd => exec_pktout_raises ready fields (scratchArea_misaligned t odd),
    fun al out => exec_pktout_raises ready fields (scratchArea_outside t al out), fun al low high => ?_⟩
  have run := exec_pktout_record ready fields (scratchArea_inside t al low high) (rfl : _ = r) rfl
  refine ⟨fun bad => ?_, fun good frozen => ?_, fun good live => ?_⟩
  · rw [run, if_pos bad]
  · rw [run, if_neg (by simp [good]), if_pos frozen]
  intro p
  refine ⟨fun free => ?_, fun full unarmed => ?_⟩
  · rw [run, if_neg (by simp [good]), if_neg live, if_neg (by simp [free])]
  · have early : ¬p.2.compared t := fun both => absurd (unarmed.symm.trans both.1) (by decide)
    rw [run, if_neg (by simp [good]), if_neg live, if_pos full, waitOrTimeout_waits early, settle_stay ready]

/-- Settles O25: each instruction by the branch its checks take; a wait is resumed as its own instruction would have ended. -/
theorem submissionAndOutput : Obligations.SubmissionAndOutput :=
  ⟨submitEntersItsItem, waitingSubmissionsResume, pktoutSendsItsRecord⟩

end

section
/-! SUPPORT. The synchronisation states (R63): what each operation of the timebase leaves, and the timers' rows. -/

namespace Sys2Proof.Machine

open Host

/-! ### What logging leaves (R545, R546) -/

/-- An event changes nothing of the timebase and no register. -/
theorem Logs.tim {s u : State} (h : Logs s u) : u.tim = s.tim := by obtain ⟨_, _, _, _, rfl⟩ := h; rfl
theorem Logs.regs {s u : State} (h : Logs s u) : u.regs = s.regs := by obtain ⟨_, _, _, _, rfl⟩ := h; rfl
theorem Logs.mgt {s u : State} (h : Logs s u) : u.mgt = s.mgt := by obtain ⟨_, _, _, _, rfl⟩ := h; rfl

/-- R487: the check of the PTP port logs at most one event, and notes that it has done so. -/
theorem ptpCheck_logs (s : State) : ∃ b, Logs { s with mgt := { s.mgt with ptpNoPort := b } } (ptpCheck s) := by
  unfold ptpCheck
  dsimp only
  split
  · exact ⟨true, logEvent_logs _ _ _ _⟩
  · exact ⟨s.mgt.ptpNoPort, Logs.refl s⟩

theorem ptpCheck_tim (s : State) : (ptpCheck s).tim = s.tim := by
  obtain ⟨_, h⟩ := ptpCheck_logs s
  exact h.tim

theorem ptpCheck_regs (s : State) : (ptpCheck s).regs = s.regs := by
  obtain ⟨_, h⟩ := ptpCheck_logs s
  exact h.regs

/-! ### Following and leading (R60, R63) -/

/-- R63: this node leads from now on, and its counter goes on. -/
theorem becomeMaster_leads {i : Instr} {s : State} (h : exec i s = .next (becomeMaster s)) : Leads i s := by
  refine ⟨_, h, ?_⟩
  unfold becomeMaster
  dsimp only
  obtain ⟨b, _, _, _, _, e⟩ := ptpCheck_logs
    (noteLower ((enterSync s .master).setTim
      { (enterSync s .master).tim with parent := none, hops := 0, master := some (enterSync s .master).ownTuple, offset := none }))
  rw [e]
  exact ⟨rfl, rfl, rfl, rfl, rfl, rfl, rfl, rfl, rfl⟩

/-- What following master `m` in state `st` through port `q`, `h` hops from it, leaves. -/
structure Follows (s u : State) (m : Nat × Nat) (st : SyncState) (q h : Nat) : Prop where
  st : u.tim.st = st
  master : u.tim.master = some m
  parent : u.tim.parent = some q
  hops : u.tim.hops = h + 1
  rest : u = { s with tim := u.tim }

theorem followMaster_follows {s : State} {m : Nat × Nat} {q h : Nat} (best : s.bestParent m = some (q, h)) (st : SyncState) :
    Follows s (followMaster s m st) m st q h := by
  unfold followMaster
  rw [best]
  dsimp only
  by_cases same : s.tim.st = st
  · rw [if_pos same]
    exact ⟨same, rfl, rfl, rfl, rfl⟩
  · rw [if_neg same]
    exact ⟨rfl, rfl, rfl, rfl, rfl⟩

theorem followMaster_count (s : State) (m : Nat × Nat) (st : SyncState) : (followMaster s m st).tim.count = s.tim.count := by
  unfold followMaster
  split
  · rfl
  · by_cases same : s.tim.st = st
    · rw [if_pos same]; rfl
    · rw [if_neg same]; rfl

/-! ### The rows of the timers (R63) -/

section timers
variable {s : State}

theorem exec_electTimeout (st : s.tim.st = .unsync) (lead : s.mayLead = true) (due : usFtu 1000 ≤ s.elapsed s.tim.quiet) :
    exec .electTimeout s = .next (becomeMaster s) := congrArg Outcome.next (if_pos ⟨st, lead, due⟩)

theorem exec_masterTakeover {t : Time} (lower : s.tim.lower = some t) (st : s.tim.st = .locked) (lead : s.mayLead = true)
    (due : usFtu 1000 ≤ s.elapsed t) : exec .masterTakeover s = .next (becomeMaster s) := by
  change execMasterTakeover s = _
  unfold execMasterTakeover
  rw [lower]
  exact congrArg Outcome.next (if_pos ⟨st, lead, due⟩)

theorem exec_holdoverTimeout (st : s.tim.st = .holdover) (lead : s.mayLead = true) (lowest : s.lowestHeard = true)
    (due : usFtu 1000 ≤ s.elapsed s.tim.since) : exec .holdoverTimeout s = .next (becomeMaster s) :=
  congrArg Outcome.next (if_pos ⟨st, lead, lowest, due⟩)

theorem exec_acquireLock (st : s.tim.st = .acquire) (good : 16 ≤ s.tim.good) :
    exec .acquireLock s = .next (noteLower (enterSync s .locked)) := congrArg Outcome.next (if_pos ⟨st, good⟩)

theorem exec_acquireTimeout (st : s.tim.st = .acquire) (due : usFtu 10 ≤ s.elapsed s.tim.parentAt) :
    exec .acquireTimeout s =
      let s1 := enterSync s .unsync
      .next (s1.setTim { s1.tim with parent := none, stepDue := false, good := 0, quiet := s1.now, offset := none }) :=
  congrArg Outcome.next (if_pos ⟨st, due⟩)

section parentLoss
variable (st : s.tim.st = .locked) (due : usFtu 10 ≤ s.elapsed s.tim.parentAt)

include st due

theorem exec_parentLossTimeout_found {m : Nat × Nat} {x : Nat × Nat} (master : s.tim.master = some m) (best : s.bestParent m = some x) :
    exec .parentLossTimeout s = .next (followMaster (s.count (timBase + 0x36)) m .locked) := by
  have found : (s.count (timBase + 0x36)).tim.master.bind (s.count (timBase + 0x36)).bestParent = some x := by
    rw [show (s.count (timBase + 0x36)).tim.master = some m from master]
    exact best
  change execParentLossTimeout s = _
  unfold execParentLossTimeout
  rw [if_pos ⟨st, due⟩]
  dsimp only
  rw [found, show (s.count (timBase + 0x36)).tim.master = some m from master]
  rfl

theorem exec_parentLossTimeout_none (none : s.tim.master.bind s.bestParent = none) :
    exec .parentLossTimeout s =
      let s2 := enterSync (s.count (timBase + 0x36)) .holdover
      .next (noteLower (s2.setTim { s2.tim with parent := .none, fromMaster := false })) := by
  have lost : (s.count (timBase + 0x36)).tim.master.bind (s.count (timBase + 0x36)).bestParent = .none := none
  change execParentLossTimeout s = _
  unfold execParentLossTimeout
  rw [if_pos ⟨st, due⟩]
  dsimp only
  rw [lost]

end parentLoss

end timers

/-! ### Seconds and the reference (R65, R67, R581) -/

/-- R67: the fabric time of a whole TAI second. -/
theorem tai_of_second (n : Nat) (tai : BitVec 96) :
    ((BitVec.ofNat 64 n - tai.setWidth 64).toNat + tai.toNat) % 2 ^ 64 = n % 2 ^ 64 := by
  rw [BitVec.toNat_sub, BitVec.toNat_ofNat, BitVec.toNat_setWidth]
  omega

/-- R69: the slew limit is a field of 16 bits. -/
theorem slewMax_lt (s : State) : s.slewMax < 65536 := by
  unfold State.slewMax State.expert
  split
  · exact Nat.mod_lt _ (by decide)
  · decide

/-- R54: a rate drawn from the limit's range lies within the limit. -/
theorem rate_within {lim : Nat} (small : lim ≤ nominalIncr) (v : Nat) :
    let r := BitVec.ofNat 64 (nominalIncr - lim + v % (2 * lim + 1))
    nominalIncr ≤ r.toNat + lim ∧ r.toNat ≤ nominalIncr + lim := by
  have part := Nat.mod_lt v (show 0 < 2 * lim + 1 by omega)
  dsimp only
  rw [BitVec.toNat_ofNat, Nat.mod_eq_of_lt (by unfold nominalIncr at *; omega)]
  omega

/-- R60, R65: the servo's new rate lies within the slew limit. -/
theorem slewRate_limit (s : State) :
    nominalIncr ≤ (slewRate s).tim.incr.toNat + nominalIncr * s.slewMax / 1000000 ∧
      (slewRate s).tim.incr.toNat ≤ nominalIncr + nominalIncr * s.slewMax / 1000000 := by
  have small : nominalIncr * s.slewMax / 1000000 ≤ nominalIncr := by
    have := slewMax_lt s
    unfold nominalIncr
    omega
  exact rate_within small _

/-! ### Words sent (R60, R64, R394) -/

section sent
variable {s : State} {p : Fin 4} (up : (s.rport p).link = .up)

include up

/-- A port in UP sends a word whose interval is over. -/
theorem sends_of_interval {us : Nat} {last : Option Time} (due : s.intervalOver us last = true) :
    ¬((s.rport p).link ≠ .up ∨ (!s.intervalOver us last) = true) := by
  simp [up, due]

theorem exec_syncTSend {x : SyncPort} (port : s.syncPort p = x) (due : s.intervalOver 1 x.sentAt = true) {t : Time} {s1 : State}
    (stamp : s.stamp (38 + p) s.now = (t, s1)) : exec (.syncTSend p) s =
      let rx : Time := match x.rx with | some r => r.2 | none => 0
      .next (sendWord (setSyncPort s1 p { s1.syncPort p with txSeq := x.txSeq + 1, sentAt := some t }) p
        (ctlWord 0x08 ([BitVec.ofNat 8 x.txSeq.toNat] ++ beBytes 8 (x.sentAt.getD 0).toNat ++ beBytes 8 rx.toNat))) := by
  subst port
  change execSyncTSend p s = _
  unfold execSyncTSend pointSyncTx
  dsimp only
  rw [if_neg (sends_of_interval up due), stamp]
  cases (s.syncPort p).rx <;> rfl

theorem exec_syncASend (due : s.intervalOver 1 (s.syncPort p).lastA = true) : exec (.syncASend p) s =
    let m := if s.tim.st = .master then s.ownTuple else s.tim.master.getD (0, 0)
    .next (sendWord (setSyncPort s p { s.syncPort p with lastA := some s.now }) p
      (ctlWord 0x09 ([BitVec.ofNat 8 s.ownTuple.1] ++ beBytes 2 s.ownNode ++ [BitVec.ofNat 8 m.1] ++ beBytes 2 m.2 ++
        [BitVec.ofNat 8 s.tim.hops] ++ beBytes 2 s.systemId ++ beBytes 2 s.tim.taiGen.toNat ++
        [BitVec.ofNat 8 s.tim.st.code, BitVec.ofNat 8 (s.breakNotice p)]))) := if_neg (sends_of_interval up due)

theorem exec_syncTaiSend (due : s.intervalOver 10 (s.syncPort p).lastTai = true) : exec (.syncTaiSend p) s =
    .next (sendWord (setSyncPort s p { s.syncPort p with lastTai := some s.now }) p
      (ctlWord 0x0A (beBytes 2 s.tim.taiGen.toNat ++ beBytes 12 s.tim.taiOffset.toNat))) := if_neg (sends_of_interval up due)

end sent

/-! ### Words heard (R60, R63, R394) -/

section heard
variable {s : State} {p : Fin 4}

theorem onUp_up (up : (s.rport p).link = .up) (f : State → State) :
    onUp s p f = f (s.setRport p { s.rport p with uncorr := 0 }) := if_pos up

theorem onUp_down (down : (s.rport p).link ≠ .up) (f : State → State) : onUp s p f = s := if_neg down

theorem exec_syncT (up : (s.rport p).link = .up) (w : BitVec 136) :
    exec (.syncT p w) s = .next (hearSyncT (s.setRport p { s.rport p with uncorr := 0 }) p w) := congrArg Outcome.next (onUp_up up _)

theorem exec_syncTai (up : (s.rport p).link = .up) (w : BitVec 136) :
    exec (.syncTai p w) s = .next (hearSyncTai (s.setRport p { s.rport p with uncorr := 0 }) p w) :=
  congrArg Outcome.next (onUp_up up _)

theorem exec_syncA {w : BitVec 136} (up : (s.rport p).link = .up) (quiet : wordByte w 13 < 128) :
    exec (.syncA p w) s = .next (hearSyncA (s.setRport p { s.rport p with uncorr := 0 }) p w) := by
  refine congrArg Outcome.next ((onUp_up up _).trans ?_)
  have clear : ¬(wordByte w 13).testBit 7 = true := by rw [Nat.testBit_lt_two_pow (i := 7) quiet]; decide
  exact congrArg (hearSyncA · p w) (if_neg clear)

/-- R63: the first SYNC_A that names a master reaches a node in UNSYNC. -/
theorem acquire_follows {m : Nat × Nat} {q h : Nat} (best : s.bestParent m = some (q, h)) (n : Nat) :
    Follows s (acquire s n m) m .acquire q h := by
  have follows := followMaster_follows best .acquire
  have rest := follows.rest
  unfold acquire
  dsimp only
  split
  · exact ⟨follows.st, follows.master, follows.parent, follows.hops, by rw [rest]; rfl⟩
  · exact ⟨follows.st, follows.master, follows.parent, follows.hops, by rw [rest]; rfl⟩

theorem hearSyncA_unsync {w : BitVec 136} {n : Nat} (st : s.tim.st = .unsync) (orphan : s.tim.parent = none)
    (names : (parseSyncA w).names = true) : hearSyncA s n w =
      acquire (setSyncPort s n { s.syncPort n with heard := some (parseSyncA w), heardAt := s.now }) n (parseSyncA w).tuple := by
  unfold hearSyncA
  dsimp only
  have still : (setSyncPort s n { s.syncPort n with heard := some (parseSyncA w), heardAt := s.now }).tim.parent ≠ some n := by
    change s.tim.parent ≠ some n
    rw [orphan]
    exact Option.some_ne_none n |>.symm
  rw [if_neg (by rw [st]; decide), if_neg still,
    show (setSyncPort s n { s.syncPort n with heard := some (parseSyncA w), heardAt := s.now }).tim.st = .unsync from st]
  exact if_pos names

theorem stamp_syncPort (s : State) (k n : Nat) (t : Time) : (s.stamp k t).2.syncPort n = s.syncPort n := rfl
theorem stamp_parent (s : State) (k : Nat) (t : Time) : (s.stamp k t).2.tim.parent = s.tim.parent := rfl
theorem setSyncPort_parent (s : State) (n : Nat) (v : SyncPort) : (setSyncPort s n v).tim.parent = s.tim.parent := rfl

/-- R60: a pair of SYNC_T words from a neighbour that is not the parent is measured, and nothing follows from it. -/
theorem hearSyncT_neighbour {w : BitVec 136} {n : Nat} {seq : BitVec 8} {t2 t3 : Time} (live : s.tim.st ≠ .free)
    (other : s.tim.parent ≠ some n) (rx : (s.syncPort n).rx = some (seq, t2)) (sent : (s.syncPort n).sentAt = some t3)
    (next : BitVec.ofNat 8 (wordByte w 1) = seq + 1) : hearSyncT s n w =
      let v := (s.stamp (34 + n) s.now).2
      let arrived := setSyncPort v n { v.syncPort n with rx := some (BitVec.ofNat 8 (wordByte w 1), (s.stamp (34 + n) s.now).1) }
      let x := exchange (wordBytes w 2 8) t2.toNat t3.toNat (wordBytes w 10 8)
      setSyncPort arrived n { arrived.syncPort n with offset := some (x.1 + s.asym n), delay := x.2 } := by
  unfold hearSyncT
  rw [if_neg live]
  dsimp only [pointSyncRx]
  simp only [stamp_syncPort, stamp_parent, setSyncPort_parent, rx, sent, next, other, ne_eq, not_true_eq_false, not_false_eq_true,
    if_false, if_true]
  rfl

end heard

end Sys2Proof.Machine

open Sys2Proof Sys2Proof.Machine Host

theorem synchronisationTimers : Claim.SynchronisationTimers := by
  intro s
  refine ⟨fun st lead due => becomeMaster_leads (exec_electTimeout st lead due),
    fun t st lead lower due => becomeMaster_leads (exec_masterTakeover lower st lead due),
    fun st lead lowest due => becomeMaster_leads (exec_holdoverTimeout st lead lowest due),
    fun st good => ⟨_, exec_acquireLock st good, rfl, rfl, rfl, rfl, by simp [State.gateOpen, noteLower, enterSync, armPps, State.setTim], rfl⟩,
    fun st due => ⟨_, exec_acquireTimeout st due, rfl, rfl, rfl, rfl⟩,
    fun st due => ⟨fun m q h master best => ?_, fun none => ⟨_, exec_parentLossTimeout_none st due none, rfl, rfl, rfl, rfl, rfl⟩⟩⟩
  have follows := followMaster_follows (s := s.count (timBase + 0x36)) best .locked
  exact ⟨_, exec_parentLossTimeout_found st due master best, follows.st, follows.parent, follows.hops, followMaster_count _ _ _, follows.rest⟩

theorem secondsAndReference : Claim.SecondsAndReference := by
  intro s sec
  refine ⟨fun on due => ⟨_, if_pos ⟨on, due⟩, rfl, ⟨_, rfl, rfl, tai_of_second _ _⟩, rfl⟩, fun off => if_neg off,
    fun ok => congrArg _ (if_pos ok), fun dev bad due => ?_⟩
  have restores : ¬(s.dev = .reset ∨ s.pwr.timerefOk = true ∨ s.elapsed s.pwr.timerefSince < usFtu 1000) := by
    simp [dev, bad, due]
  refine ⟨_, if_neg restores, ?_⟩
  by_cases disciplined : s.tim.st = .master ∧ s.fld timBase 3 2 = 1
  · have slews : (s.setPwr { s.pwr with timerefOk := true }).tim.st = .master ∧
        (s.setPwr { s.pwr with timerefOk := true }).fld timBase 3 2 = 1 := disciplined
    dsimp only
    rw [if_pos slews]
    exact ⟨rfl, rfl, fun other => absurd disciplined (by tauto), .inr (slewRate_limit _)⟩
  · have keeps : ¬((s.setPwr { s.pwr with timerefOk := true }).tim.st = .master ∧
        (s.setPwr { s.pwr with timerefOk := true }).fld timBase 3 2 = 1) := disciplined
    dsimp only
    rw [if_neg keeps]
    exact ⟨rfl, rfl, fun _ => rfl, .inl rfl⟩

theorem syncWordsSent : Claim.SyncWordsSent := by
  intro s p up x m rx
  exact ⟨fun due => ⟨_, exec_syncTSend up rfl due rfl, rfl, rfl, rfl, rfl⟩, fun due => exec_syncASend up due,
    fun due => exec_syncTaiSend up due⟩

theorem syncWordsHeard : Claim.SyncWordsHeard := by
  intro s p w s0 x a heard t1 t4
  refine ⟨fun down i hi => ?_, fun up free quiet i hi => ?_, fun up quiet st low high orphan q h best => ?_,
    fun up parent st => ?_, fun up live other seq t2 t3 rx sent next => ?_⟩
  · rcases hi with _ | ⟨_, _ | ⟨_, _ | ⟨_, h⟩⟩⟩
    · exact congrArg _ (onUp_down down _)
    · exact congrArg _ (onUp_down down _)
    · exact congrArg _ (onUp_down down _)
    · cases h
  · rcases hi with _ | ⟨_, _ | ⟨_, _ | ⟨_, h⟩⟩⟩
    · exact (exec_syncT up w).trans (congrArg _ (if_pos free))
    · exact (exec_syncA up quiet).trans (congrArg _ (if_pos free))
    · have apart : ¬(s.tim.parent = some p.val ∧ (s.tim.st = .acquire ∨ s.tim.st = .locked)) := by simp [free]
      exact (exec_syncTai up w).trans (congrArg _ (if_neg apart))
    · cases h
  · have names : a.names = true := by simp [Announce.names, low, high]
    have run := (exec_syncA up quiet).trans (congrArg _ (hearSyncA_unsync st orphan names))
    have follows := acquire_follows best p.val
    exact ⟨_, run, follows.st, follows.master, follows.parent, follows.hops, (congrArg State.ring follows.rest :), follows.rest⟩
  · exact ⟨_, (exec_syncTai up w).trans (congrArg _ (if_pos ⟨parent, st⟩)), rfl, rfl, rfl, rfl⟩
  · exact ⟨_, (exec_syncT up w).trans (congrArg _ (hearSyncT_neighbour live other rx sent next)), rfl, rfl, rfl⟩

end

section
/-! SUPPORT. The registers of TIM (R63, R66, R68, R594): a write of TIM_CTRL, and the commit of TIM_TAI_OFFSET. -/

namespace Sys2Proof.Machine

open Host

/-! ### Fields of a written word (R7) -/

theorem testBit_bits (w : Word) (hi lo i : Nat) : (bits w hi lo).testBit i = (decide (i < hi + 1 - lo) && bitAt w (lo + i)) := by
  rw [bits, Nat.testBit_mod_two_pow, Nat.testBit_div_two_pow, Nat.add_comm i, bitAt]

section covered
variable {m : Word} {hi lo : Nat} (h : ∀ i < hi + 1 - lo, bitAt m (lo + i) = true)

include h

theorem bits_and_covered (w : Word) : bits (w &&& m) hi lo = bits w hi lo := by
  refine Nat.eq_of_testBit_eq fun i => ?_
  rw [testBit_bits, testBit_bits]
  by_cases inside : i < hi + 1 - lo
  · have both : bitAt (w &&& m) (lo + i) = (bitAt w (lo + i) && bitAt m (lo + i)) := BitVec.getLsbD_and
    rw [both, h i inside, Bool.and_true]
  · rw [decide_eq_false inside, Bool.false_and, Bool.false_and]

theorem bits_putBits_covered (w v : Word) : bits (putBits w m v) hi lo = bits v hi lo := by
  refine Nat.eq_of_testBit_eq fun i => ?_
  rw [testBit_bits, testBit_bits]
  by_cases inside : i < hi + 1 - lo
  · rw [bitAt_putBits, h i inside, if_pos rfl]
  · rw [decide_eq_false inside, Bool.false_and, Bool.false_and]

/-- R11: a checked field that the mask covers is bad if the write changes it to a value out of its range. -/
theorem fieldBad_covered (w v : Word) (least most : Nat) : fieldBad (w &&& m) (putBits w m v &&& m) (hi, lo, least, most) =
    (bits w hi lo != bits v hi lo && (decide (bits v hi lo < least) || decide (most < bits v hi lo))) := by
  change (bits _ hi lo != bits _ hi lo && (decide (bits _ hi lo < least) || decide (most < bits _ hi lo))) = _
  rw [bits_and_covered h, bits_and_covered h, bits_putBits_covered h]

end covered

/-! ### What an offset outside the function pages names (R585) -/

theorem target_row {key b : Nat} {r : RegRow} {s : State} (aligned : key % 4 = 0) (space : key < 0x3000000)
    (page : key < hqeBase ∨ ethBase ≤ key) (row : regRow key = some (b, r)) (alive : s.deadReg b (key - b) = false)
    {p : Path} (hp : ∀ f, p ≠ .vf f) : s.target p key = .reg key b r := by
  have word : key / 4 * 4 = key := by omega
  have own : ¬(hqeBase + 0x1000 ≤ key ∧ key < hqeBase + 0x1100) := by unfold hqeBase ethBase at *; omega
  have other : ¬(hqeBase + 0x2000 ≤ key ∧ key < hqeBase + 0x2400) := by unfold hqeBase ethBase at *; omega
  cases p with
  | vf f => exact absurd rfl (hp f)
  | _ =>
    unfold State.target
    simp only [word]
    rw [if_neg own, if_neg other, if_pos space, row]
    simp only [alive, Bool.false_eq_true, if_false]

/-! ### TIM_CTRL (R63, R68) -/

/-- R68: the row of TIM_CTRL. -/
def timCtrlRow : RegRow := pf 0x00 0x8001FFFF [(3, 2, 0, 2), (1, 0, 0, 2)]

/-- R68: the row of TIM_TAI_OFFSET_HI. -/
def taiHighRow : RegRow := part 0x18 2 3 0xFFFFFFFF 0

theorem deadReg_tim (s : State) (o : Nat) : s.deadReg timBase o = false := by
  simp [State.deadReg, timBase, ringBase, hbmBase, ethBase, tryBase]

theorem target_timCtrl (s : State) {p : Path} (hp : Path.manages p) : s.target p timBase = .reg timBase timBase timCtrlRow :=
  target_row (by decide) (by decide) (by decide) (by decide) (deadReg_tim s _) hp.ne_vf

theorem target_taiHigh (s : State) {p : Path} (hp : Path.manages p) :
    s.target p (timBase + 0x18) = .reg (timBase + 0x18) timBase taiHighRow :=
  target_row (by decide) (by decide) (by decide) (by decide) (deadReg_tim s _) hp.ne_vf

/-- R11, R68: what a write of TIM_CTRL may not do: give ROLE or SRC the code 3. -/
theorem writeRefused_timCtrl (s : State) (v : Word) : writeRefused s timBase timBase timCtrlRow v =
    ((s.fld timBase 3 2 != bits v 3 2 && decide (2 < bits v 3 2)) || (s.role != bits v 1 0 && decide (2 < bits v 1 0))) := by
  have source := fieldBad_covered (m := 0x8001FFFF) (hi := 3) (lo := 2) (by decide) (s.reg timBase) v 0 2
  have role := fieldBad_covered (m := 0x8001FFFF) (hi := 1) (lo := 0) (by decide) (s.reg timBase) v 0 2
  have checks : writeRefused s timBase timBase timCtrlRow v =
      (fieldBad (s.reg timBase &&& 0x8001FFFF) (putBits (s.reg timBase) 0x8001FFFF v &&& 0x8001FFFF) (3, 2, 0, 2) ||
        (fieldBad (s.reg timBase &&& 0x8001FFFF) (putBits (s.reg timBase) 0x8001FFFF v &&& 0x8001FFFF) (1, 0, 0, 2) || false) || false) := rfl
  rw [checks, source, role]
  simp [State.fld, State.role]

/-- R63, R64: what a change of ROLE makes of the synchronisation state. -/
theorem roleChanged_st (s : State) (old : Nat) : (roleChanged s old).tim.st =
    if s.tim.st = .master ∧ s.role = 0 then .holdover else if s.tim.st = .master ∧ s.role = 2 then .free else s.tim.st := by
  unfold roleChanged
  dsimp only
  split
  · exact (if_pos ‹_›).symm
  · split
    · exact ((if_neg ‹_›).trans (if_pos ‹_›)).symm
    · refine Eq.trans ?_ ((if_neg ‹_›).trans (if_neg ‹_›)).symm
      split <;> rfl

theorem roleChanged_only (s : State) (old : Nat) :
    (roleChanged s old).tim.count = s.tim.count ∧ (roleChanged s old).regs = s.regs := by
  have start : (noteLower (armPps s)).tim.count = s.tim.count ∧ (noteLower (armPps s)).regs = s.regs := ⟨rfl, rfl⟩
  unfold roleChanged
  generalize noteLower (armPps s) = s1 at *
  dsimp only
  split
  · exact start
  · split
    · exact start
    · split <;> exact start

theorem role_of_regs {s u : State} (h : u.regs = s.regs) : u.role = s.role := by
  rw [State.role, State.role, State.fld, State.fld, State.reg, State.reg, h]

/-- R63, R487: what a stored value of TIM_CTRL sets off. -/
theorem roleWrite_stored (s : State) (new : Word) :
    let s0 := s.setReg timBase new
    let u := ptpCheck (roleChanged s0 s.role)
    (u.tim.st = if s.tim.st = .master ∧ s0.role = 0 then .holdover else if s.tim.st = .master ∧ s0.role = 2 then .free
      else s.tim.st) ∧ u.tim.count = s.tim.count ∧ u.regs = s0.regs := by
  have kept := roleChanged_only (s.setReg timBase new) s.role
  dsimp only
  rw [ptpCheck_tim, ptpCheck_regs]
  exact ⟨roleChanged_st _ _, kept.1, kept.2⟩

/-- R22: what EXPERT_EN of TIM adds or withdraws. -/
theorem expertChanged_tim (s : State) (on : Bool) : ∃ w, expertChanged s timBase on = s.setReg (timBase + 0x40) w := ⟨_, rfl⟩

/-- R63: the state that a write of TIM_CTRL leaves. -/
theorem regWrite_timCtrl {s : State} {p : Path} {v : Word} (ha : s.answers p = true) (hp : Path.manages p)
    (ok : writeRefused s timBase timBase timCtrlRow v = false) :
    let new := putBits (s.reg timBase) 0x8001FFFF v
    let s1 := ptpCheck (roleChanged (s.setReg timBase new) s.role)
    (regWrite s p timBase v).1 = s1 ∨ ∃ w, (regWrite s p timBase v).1 = s1.setReg (timBase + 0x40) w := by
  have plain := regWrite_plain v ha hp.ne_fabric (target_timCtrl s hp) rfl rfl
  have accepted : ¬writeRefused s timBase timBase timCtrlRow v = true := by simp [ok]
  rw [plain, if_neg (by decide)]
  intro new s1
  have stored : writeStored s p timBase timBase timBase timCtrlRow v =
      (if timBase = timBase ∧ timBase = timBase ∧ changed (s.reg timBase) new 31 31 then expertChanged s1 timBase (bitAt new 31) else s1, true) :=
    if_neg accepted
  rw [stored]
  dsimp only
  split
  · exact .inr (expertChanged_tim s1 _)
  · exact .inl rfl

/-! ### TIM_TAI_OFFSET (R64, R66, R594) -/

section tai
variable {s : State} {p : Path} {v : Word} (ha : s.answers p = true) (hp : Path.manages p)

include ha hp

theorem regWrite_taiHigh : regWrite s p (timBase + 0x18) v = writePart s p (timBase + 0x18) (timBase + 0x18) timBase 2 3 taiHighRow v := by
  have part : taiHighRow.kind = .part 2 3 := rfl
  simp only [regWrite, ha, hp.ne_fabric, target_taiHigh s hp, part, Bool.not_true, Bool.false_eq_true, or_self, if_false]

/-- R64: a follower ignores a write of TIM_TAI_OFFSET. -/
theorem exec_taiOffsetWrite_follower (h : s.follower = true) : exec (.taiOffsetWrite p v) s = .next s := by
  refine congrArg Outcome.next ((congrArg Prod.fst (regWrite_taiHigh ha hp)).trans ?_)
  exact congrArg Prod.fst (if_pos ⟨rfl, h⟩)

/-- R66, R594: the write of the highest part commits the value. -/
theorem exec_taiOffsetWrite_commits (h : s.follower = false) : ∃ pend, exec (.taiOffsetWrite p v) s =
    .next (setTai (s.setGlb { s.glb with pend := pend }) (v ++ s.partFor p (timBase + 0x14) ++ s.partFor p (timBase + 0x10))) := by
  have run : exec (.taiOffsetWrite p v) s = .next (writePart s p (timBase + 0x18) (timBase + 0x18) timBase 2 3 taiHighRow v).1 :=
    congrArg (fun x : State × Bool => Outcome.next x.1) (regWrite_taiHigh ha hp)
  have leads : ¬(timBase = timBase ∧ s.follower = true) := by simp [h]
  have whole : v &&& BitVec.ofNat 32 taiHighRow.rw = v := BitVec.and_allOnes
  rw [run]
  unfold writePart
  rw [if_neg leads, if_neg (by decide), whole]
  exact ⟨_, rfl⟩

end tai

end Sys2Proof.Machine

open Sys2Proof Sys2Proof.Machine Host

theorem roleAndTaiWrites : Claim.RoleAndTaiWrites := by
  intro s p v form ha hp
  obtain ⟨_, regs, _⟩ := form
  refine ⟨fun role source => ?_, fun roleOk sourceOk bad => ?_, fun follows => exec_taiOffsetWrite_follower ha hp follows, fun leads => ?_⟩
  · have ok : writeRefused s timBase timBase timCtrlRow v = false := by
      rw [writeRefused_timCtrl, decide_eq_false (by omega), decide_eq_false (by omega)]
      simp
    have field : bits (putBits (s.reg timBase) 0x8001FFFF v) 1 0 = bits v 1 0 := bits_putBits_covered (by decide) _ _
    obtain ⟨st, count, regs1⟩ := roleWrite_stored s (putBits (s.reg timBase) 0x8001FFFF v)
    have role1 : (s.setReg timBase (putBits (s.reg timBase) 0x8001FFFF v)).role = bits v 1 0 := by
      rw [State.role, State.fld, reg_setReg regs, if_pos rfl, field]
    rw [role1] at st
    rcases regWrite_timCtrl ha hp ok with plain | ⟨w, expert⟩
    · refine ⟨_, congrArg Outcome.next plain, ?_, count, st⟩
      rw [role_of_regs regs1, role1]
    · refine ⟨_, congrArg Outcome.next expert, ?_, count, st⟩
      have form1 : swf 0 (s.setReg timBase (putBits (s.reg timBase) 0x8001FFFF v)).regs = true := setReg_regs_wf regs _ _
      rw [State.role, State.fld, reg_setReg (by rw [regs1]; exact form1), if_neg (by decide)]
      exact (role_of_regs regs1).trans role1
  · have refused : writeRefused s timBase timBase timCtrlRow v = true := by
      rw [writeRefused_timCtrl]
      rcases bad with role | source
      · have moved : (s.role != 3) = true := bne_iff_ne.2 (by omega)
        simp [role, moved]
      · have moved : (s.fld timBase 3 2 != 3) = true := bne_iff_ne.2 (by omega)
        simp [source, moved]
    have plain := regWrite_plain v ha hp.ne_fabric (target_timCtrl s hp) rfl rfl
    rw [if_neg (by decide), writeStored_refused refused] at plain
    exact congrArg (fun x : State × Bool => Outcome.next x.1) plain
  · obtain ⟨pend, run⟩ := exec_taiOffsetWrite_commits ha hp leads (v := v)
    exact ⟨_, run, rfl, rfl, rfl, rfl, rfl⟩

/-- Settles O38: the timers and words change `tim` alone, by the operation of R63 that each calls; a register write by its row. -/
theorem timebaseAndSynchronisation : Obligations.TimebaseAndSynchronisation :=
  ⟨synchronisationTimers, roleAndTaiWrites, secondsAndReference, syncWordsSent, syncWordsHeard⟩

end

section
/-! SUPPORT. The link of an Ethernet port (R480, R481, R490): its stages, and a write of ETH_Pp_CFG. -/

namespace Sys2Proof.Machine

open Host

/-! ### The stored port -/

/-- A port that is not as at reset is found as it was stored. -/
theorem ethPort_setEthPort {v : EthPort} (h : v ≠ EthPort.reset) (s : State) (p : Nat) : (s.setEthPort p v).ethPort p = v :=
  sget_sput_self h _ _

theorem setEthPort_setEthPort {v : EthPort} (h : v ≠ EthPort.reset) (s : State) (p : Nat) (w : EthPort) :
    (s.setEthPort p v).setEthPort p w = s.setEthPort p w := by
  simp only [State.setEthPort, sput_sput h]

theorem ne_reset_of_st {v : EthPort} (h : v.st ≠ .disabled) : v ≠ EthPort.reset := by
  rintro rfl
  exact h rfl

/-! ### The stages (R480, R481, R482) -/

section stages
variable {s : State} {p : Fin 16}

theorem exec_autoNegotiation (st : (s.ethPort p).st = .an) (able : Bool) : exec (.autoNegotiation p able) s =
    .next (if able then ethEnter s p .train else (ethEnter s p .an).logEvent 0x72 1 (evAt 0 p)) :=
  congrArg Outcome.next (if_neg (not_not.2 st))

theorem exec_upDebExpire {t : Time} (aligned : (s.ethPort p).aligned = some t) (st : (s.ethPort p).st = .align)
    (due : usFtu s.upDeb ≤ s.elapsed (laterOf t (s.ethPort p).since)) (near : s.ethLoop p ≠ 3) : exec (.upDebExpire p) s =
      .next ((swtLinkUp (s.setEthPort p { s.ethPort p with
        st := .up, since := s.now, fault := if (s.ethPort p).lfault || (s.ethPort p).rfault then some s.now else none }) p).logEvent
          0x70 0 (evAt 0 p)) := by
  have up : ({ s.ethPort p with st := .up, since := s.now, fault := none } : EthPort) ≠ EthPort.reset := ne_reset_of_st nofun
  have port : (ethEnter s p .up).ethPort p = { s.ethPort p with st := .up, since := s.now, fault := none } := ethPort_setEthPort up s p
  change execUpDebExpire p s = _
  unfold execUpDebExpire
  dsimp only
  rw [aligned]
  dsimp only
  rw [if_pos ⟨st, due⟩, if_neg near, port]
  dsimp only
  rw [ethEnter, setEthPort_setEthPort up, aligned]

theorem exec_ethLinkFault (active : s.portActive p = true) (aligned loc rem : Bool) : exec (.ethLinkFault p aligned loc rem) s =
    let v := s.ethPort p
    .next (s.setEthPort p { v with
      aligned := if aligned = true then some (v.aligned.getD s.now) else none
      lfault := loc
      rfault := rem
      fault := if v.st = .up ∧ (aligned = false ∨ loc = true ∨ rem = true) then some (v.fault.getD s.now) else none }) := by
  have first (t : Option Time) : (t.orElse fun _ => some s.now) = some (t.getD s.now) := by cases t <;> rfl
  have bad : (!aligned || loc || rem) = true ↔ aligned = false ∨ loc = true ∨ rem = true := by
    cases aligned <;> cases loc <;> cases rem <;> decide
  change execEthLinkFault p aligned loc rem s = _
  unfold execEthLinkFault
  rw [if_neg (by simp [active])]
  simp only [first, bad]

theorem exec_downDebExpire {t : Time} (fault : (s.ethPort p).fault = some t) (st : (s.ethPort p).st = .up)
    (due : usFtu s.downDeb ≤ s.elapsed t) (wire : s.ethLoop p ≠ 1) : exec (.downDebExpire p) s =
      .next ((swtLinkDown ((ethEnter s p (s.firstStage p)).count (ethCnt p 0x3C)) p false).logEvent 0x71 1 (evAt 0 p)) := by
  change execDownDebExpire p s = _
  unfold execDownDebExpire
  dsimp only
  rw [fault]
  dsimp only
  rw [if_pos ⟨st, due⟩, if_neg wire]

end stages

/-! ### ETH_Pp_CFG (R11, R480, R491) -/

/-- R491: the row of ETH_Pp_CFG. -/
def ethCfgRow : RegRow :=
  { base := 0x100, n1 := 16, s1 := 0x40, rw := 0xFC003FFF, prof := 0xF0003FFF, chk := [(30, 29, 0, 2), (13, 0, 64, 16383)] }

theorem regRow_ethCfg : ∀ q : Fin 16, regRow (ethReg q 0) = some (ethBase, ethCfgRow) := by decide

/-- R476: the registers of an active port's first lane are there. -/
theorem deadReg_ethPort {s : State} {q : Nat} (h : s.portActive q = true) {o : Nat} (port : (o - 0x100) / 0x40 = q)
    (low : o < 0x800) : s.deadReg ethBase o = false := by
  have counters : ¬0x800 ≤ o := by omega
  simp [State.deadReg, ethBase, ringBase, hbmBase, tryBase, port, h, counters]

theorem target_ethCfg {s : State} {p : Path} {q : Fin 16} (hp : Path.manages p) (active : s.portActive q = true) :
    s.target p (ethReg q 0) = .reg (ethReg q 0) ethBase ethCfgRow := by
  have := q.isLt
  refine target_row ?_ ?_ (.inr ?_) (regRow_ethCfg q) (deadReg_ethPort active ?_ ?_) hp.ne_vf
  all_goals unfold ethReg ethBase; omega

/-- R485: of the registers of a port, ETH_Pp_STATUS alone has bits that a write clears. -/
theorem writeSpecial_eth {o : Nat} (h : o % 0x40 ≠ 4) (s : State) (p : Path) (off : Nat) (v : Word) :
    writeSpecial s p off ethBase o v = none := by
  have glb : ethBase ≠ glbBase := by decide
  have pwr : ethBase ≠ pwrBase := by decide
  have ring : ethBase ≠ ringBase := by decide
  have loupe : ethBase ≠ loupeBase := by decide
  have cls : ethBase ≠ clsBase := by decide
  have try' : ethBase ≠ tryBase := by decide
  have swt : ethBase ≠ swtBase := by decide
  have lck : ethBase ≠ lckBase := by decide
  have core : ¬(0x2000000 ≤ ethBase ∧ ethBase < 0x3000000) := by decide
  unfold writeSpecial
  simp only [h, glb, pwr, ring, loupe, cls, try', swt, lck, core, false_and, and_false, if_false]

/-- The offset of ETH_Pp_CFG in its block. -/
theorem ethReg_sub (q : Fin 16) : ethReg q 0 - ethBase = 0x100 + 0x40 * q := by unfold ethReg; omega

/-- R7: the value that a write of ETH_Pp_CFG offers. -/
def ethCfgOffer (s : State) (q : Nat) (v : Word) : Word := putBits (s.reg (ethReg q 0)) 0xFC003FFF v

theorem stored_ethCfg (s : State) (q : Fin 16) : s.stored (ethReg q 0) = s.reg (ethReg q 0) := by
  have := q.isLt
  have page : ¬0x3000000 ≤ ethReg q 0 := by unfold ethReg ethBase; omega
  have low : ethReg q 0 ≠ timBase + 0x10 := by unfold ethReg ethBase timBase; omega
  have middle : ethReg q 0 ≠ timBase + 0x14 := by unfold ethReg ethBase timBase; omega
  have high : ethReg q 0 ≠ timBase + 0x18 := by unfold ethReg ethBase timBase; omega
  unfold State.stored
  rw [if_neg page, if_neg low, if_neg middle, if_neg high]

theorem putStored_ethCfg (s : State) (q : Fin 16) (w : Word) : s.putStored (ethReg q 0) w = s.setReg (ethReg q 0) w := by
  have := q.isLt
  exact if_neg (by unfold ethReg ethBase; omega)

/-- R11, R480: the fields of ETH_Pp_CFG that are checked, and the relation of MEDIA 2 and AN. -/
theorem writeRefused_ethCfg (s : State) (q : Fin 16) (v : Word) :
    let old := s.reg (ethReg q 0)
    writeRefused s (ethReg q 0) ethBase ethCfgRow v =
      (((bits old 30 29 != bits v 30 29 && decide (2 < bits v 30 29)) ||
        (bits old 13 0 != bits v 13 0 && (decide (bits v 13 0 < 64) || decide (16383 < bits v 13 0)))) ||
      ((bits old 28 28 != bits v 28 28 || bits old 30 29 != bits v 30 29) && bitAt v 28 && bits v 30 29 == 2)) := by
  intro old
  have media := fieldBad_covered (m := 0xFC003FFF) (hi := 30) (lo := 29) (by decide) old v 0 2
  have frame := fieldBad_covered (m := 0xFC003FFF) (hi := 13) (lo := 0) (by decide) old v 64 16383
  have an : bits (putBits old 0xFC003FFF v) 28 28 = bits v 28 28 := bits_putBits_covered (by decide) _ _
  have kind : bits (putBits old 0xFC003FFF v) 30 29 = bits v 30 29 := bits_putBits_covered (by decide) _ _
  have on : bitAt (putBits old 0xFC003FFF v) 28 = bitAt v 28 := (bitAt_putBits ..).trans (if_pos (by decide))
  have low : 0x100 ≤ 0x100 + 0x40 * q.val := by omega
  have high : 0x100 + 0x40 * q.val < 0x500 := by omega
  have first : (0x100 + 0x40 * q.val) % 0x40 = 0 := by omega
  have relation (s' : State) (new : Word) : relationBad s s' ethBase (0x100 + 0x40 * q) old new =
      ((changed old new 28 28 || changed old new 30 29) && bitAt new 28 && bits new 30 29 == 2) := by
    refine Eq.trans (b := decide (0x100 ≤ 0x100 + 0x40 * q.val) && decide (0x100 + 0x40 * q.val < 0x500) &&
      (0x100 + 0x40 * q.val) % 0x40 == 0 && (changed old new 28 28 || changed old new 30 29) && bitAt new 28 && bits new 30 29 == 2) rfl ?_
    rw [decide_eq_true low, decide_eq_true high, first]
    rfl
  have mask : rwMask ethBase (0x100 + 0x40 * q) ethCfgRow = 0xFC003FFF := if_neg fun h => absurd h.1 (by decide)
  unfold writeRefused
  dsimp only
  rw [stored_ethCfg, ethReg_sub, mask, relation]
  simp only [ethCfgRow, List.any_cons, List.any_nil, media, frame, changed, an, kind, on, Bool.or_false, Nat.not_lt_zero,
    decide_false, Bool.false_or, old]

theorem afterWrite_ethCfg (s : State) (q : Fin 16) (old new : Word) :
    afterWrite s ethBase (0x100 + 0x40 * q) old new = ethCfgChanged s q old := by
  have := q.isLt
  have port : ethBase = ethBase ∧ 0x100 ≤ 0x100 + 0x40 * q.val ∧ 0x100 + 0x40 * q.val < 0x500 := ⟨rfl, by omega, by omega⟩
  have number : (0x100 + 0x40 * q.val - 0x100) / 0x40 = q := by omega
  refine (if_neg fun h => absurd h.1 (by decide)).trans ((if_pos port).trans ((if_pos (by omega)).trans ?_))
  rw [number]

section cfg
variable {s : State} {p : Path} {q : Fin 16} {v : Word} (ha : s.answers p = true) (hp : Path.manages p) (active : s.portActive q = true)

include ha hp active

theorem exec_ethPortCfgWrite : exec (.ethPortCfgWrite p q v) s =
    .next (if writeRefused s (ethReg q 0) ethBase ethCfgRow v then flagError s 2 p (ethReg q 0) true
      else ethCfgChanged (s.setReg (ethReg q 0) (ethCfgOffer s q v)) q (s.reg (ethReg q 0))) := by
  have special : writeSpecial s p (ethReg q 0) ethBase (ethReg q 0 - ethBase) v = none := by
    rw [ethReg_sub]
    exact writeSpecial_eth (by omega) s p _ v
  have plain := regWrite_plain v ha hp.ne_fabric (target_ethCfg hp active) rfl special
  refine congrArg Outcome.next ?_
  rw [plain, if_neg (by decide)]
  by_cases refused : writeRefused s (ethReg q 0) ethBase ethCfgRow v = true
  · rw [if_pos refused, writeStored_refused refused]
    rfl
  · rw [if_neg refused, writeStored_stored (eq_false_of_ne_true refused) (by decide) (by decide)]
    have mask : rwMask ethBase (0x100 + 0x40 * q) ethCfgRow = 0xFC003FFF := if_neg fun h => absurd h.1 (by decide)
    dsimp only
    rw [ethReg_sub, mask, stored_ethCfg, putStored_ethCfg, afterWrite_ethCfg]
    rfl

end cfg

section offered
variable {s : State} (regs : swf 0 s.regs = true) (q : Fin 16) (v : Word)

include regs

/-- R491: the fields of ETH_Pp_CFG once `v` is stored. -/
theorem ethCfg_fields :
    let w := s.setReg (ethReg q 0) (ethCfgOffer s q v)
    w.ethEn q = bitAt v 31 ∧ w.ethMedia q = bits v 30 29 ∧ w.ethAn q = bitAt v 28 ∧ w.ethLoop q = bits v 27 26 := by
  have field : (s.setReg (ethReg q 0) (ethCfgOffer s q v)).reg (ethReg q 0) = ethCfgOffer s q v := by rw [reg_setReg regs, if_pos rfl]
  have bit {i : Nat} (h : bitAt 0xFC003FFF i = true) : bitAt (ethCfgOffer s q v) i = bitAt v i := (bitAt_putBits ..).trans (if_pos h)
  dsimp only
  rw [State.ethEn, State.ethMedia, State.ethAn, State.ethLoop, State.fld, State.fld, field]
  exact ⟨bit (by decide), bits_putBits_covered (by decide) _ _, bit (by decide), bits_putBits_covered (by decide) _ _⟩

end offered

/-! ### A changed configuration (R481) -/

section changed
variable {s : State} {q : Nat} {old : Word}

/-- R481: an enabled port that is disabled goes to its first stage. -/
theorem ethCfgChanged_starts (on : s.ethEn q = true) (loop : s.ethLoop q = bits old 27 26) (wire : s.ethLoop q ≠ 1)
    (st : (s.ethPort q).st = .disabled) (active : s.portActive q = true) (dev : s.dev = .run ∨ s.dev = .swap) :
    ethCfgChanged s q old = ethEnter s q (s.firstStage q) := by
  have still : ¬(s.ethLoop q != bits old 27 26 || (bitAt old 31 && !s.ethEn q)) = true := by simp [on, loop]
  have near : ¬(ethEnter s q (s.firstStage q)).ethLoop q = 1 := wire
  unfold ethCfgChanged
  dsimp only
  rw [if_neg still, ethStart, if_pos ⟨st, on, active, dev⟩, if_neg near]

/-- A port that is not enabled does not start. -/
theorem ethStart_off (off : s.ethEn q = false) : ethStart s q = s := if_neg fun h => absurd (off.symm.trans h.2.1) (by decide)

/-- R481: a port that is switched off is disabled; SWT, for which its link is down, hears nothing. -/
theorem ethCfgChanged_stops (off : s.ethEn q = false) (was : bitAt old 31 = true) (down : (s.swtOut q).st = .down) :
    ethCfgChanged s q old = ethEnter s q .disabled := by
  have stops : (s.ethLoop q != bits old 27 26 || (bitAt old 31 && !s.ethEn q)) = true := by simp [off, was]
  have silent : swtLinkDown (ethEnter s q .disabled) q false = ethEnter s q .disabled := by
    have out : ((ethEnter s q .disabled).swtOut q).st = .down := down
    exact (if_pos (by rw [out]; decide)).trans (if_neg fun h => absurd h.1 (by decide))
  unfold ethCfgChanged
  dsimp only
  rw [if_pos stops, ethStop, silent]
  exact ethStart_off off

theorem ethCfgChanged_stays (off : s.ethEn q = false) (was : bitAt old 31 = false) (loop : s.ethLoop q = bits old 27 26) :
    ethCfgChanged s q old = s := by
  have still : ¬(s.ethLoop q != bits old 27 26 || (bitAt old 31 && !s.ethEn q)) = true := by simp [was, loop]
  unfold ethCfgChanged
  dsimp only
  rw [if_neg still]
  exact ethStart_off off

end changed

end Sys2Proof.Machine

open Sys2Proof Sys2Proof.Machine Host

theorem linksComeUpInStages : Claim.LinksComeUpInStages := by
  intro s p v enter first
  refine ⟨fun st => ⟨exec_autoNegotiation st true, exec_autoNegotiation st false⟩, fun st => congrArg _ (if_pos st),
    fun st due => congrArg _ (if_pos ⟨st, due⟩), fun t st aligned due near => ?_, fun aligned loc rem active => exec_ethLinkFault active aligned loc rem,
    fun t st fault due wire => exec_downDebExpire fault st due wire⟩
  rw [exec_upDebExpire aligned st due near]
  simp only [Bool.or_eq_true]
  rfl

theorem portConfigurationWrites : Claim.PortConfigurationWrites := by
  intro s p q v form ha hp active key old m w stage first
  obtain ⟨_, regs, _⟩ := form
  obtain ⟨en, media, an, loop⟩ := ethCfg_fields regs q v
  have write := exec_ethPortCfgWrite ha hp active (v := v)
  have checks := writeRefused_ethCfg s q v
  refine ⟨fun mediaOk frameOk apart => ?_, fun oldOk bad => ?_⟩
  · have frame : bits v 13 0 < 16384 := Nat.mod_lt _ (by decide)
    have ok : writeRefused s (ethReg q 0) ethBase ethCfgRow v = false := by
      have both : (bitAt v 28 && bits v 30 29 == 2) = false := by
        rw [Bool.eq_false_iff, ne_eq, Bool.and_eq_true, beq_iff_eq]
        exact fun h => apart ⟨h.2, h.1⟩
      rw [checks, decide_eq_false (by omega : ¬2 < bits v 30 29), decide_eq_false (by omega : ¬bits v 13 0 < 64),
        decide_eq_false (by omega : ¬16383 < bits v 13 0), Bool.and_assoc, both]
      simp
    rw [ok, if_neg (by decide)] at write
    refine ⟨fun on sameLoop wire st dev => ?_, fun off was down => ?_, fun off was sameLoop => ?_⟩
    · have starts := ethCfgChanged_starts (en.trans on) (loop.trans sameLoop) (by rw [loop]; exact wire) st active dev
      rw [State.firstStage, media, an] at starts
      exact write.trans (congrArg Outcome.next starts)
    · exact write.trans (congrArg Outcome.next (ethCfgChanged_stops (en.trans off) was down))
    · exact write.trans (congrArg Outcome.next (ethCfgChanged_stays (en.trans off) was (loop.trans sameLoop)))
  · have refused : writeRefused s (ethReg q 0) ethBase ethCfgRow v = true := by
      have moved : (bits (s.reg (ethReg q 0)) 30 29 != 3) = true := bne_iff_ne.2 (Nat.ne_of_lt oldOk)
      rw [checks, bad, moved]
      rfl
    rw [write, refused, if_pos rfl]
    rfl

end

section
/-! SUPPORT. What an Ethernet port receives and sends by itself (R478, R485, R488, R489): the checks of a frame, PFC, the timestamp
queue. -/

namespace Sys2Proof.Machine

open Host

/-! ### PFC sent (R488) -/

section send
variable {s : State} {p : Fin 16} (ready : s.macReady p = true) (idle : (s.swtOut p).tx = none)

include ready idle

theorem exec_pfcSend (changed : s.wantHeld p ≠ (s.ethPort p).held) : exec (.pfcSend p) s =
    .next (sendPfc s p (s.wantHeld p ^^^ (s.ethPort p).held) (s.wantHeld p)) :=
  congrArg Outcome.next (if_pos ⟨ready, by rw [idle]; rfl, fun same => changed (BitVec.xor_eq_zero_iff.1 same)⟩)

theorem exec_pfcRefresh (held : (s.ethPort p).held ≠ 0)
    (due : s.quantaFtu p (s.fld (ethReg p 8) 31 16) ≤ 2 * s.elapsed (s.ethPort p).pfcAt) :
    exec (.pfcRefresh p) s = .next (sendPfc s p (s.ethPort p).held (s.ethPort p).held) :=
  congrArg Outcome.next (if_pos ⟨ready, by rw [idle]; rfl, held, due⟩)

end send

theorem length_beBytes (n v : Nat) : (beBytes n v).length = n := by rw [beBytes, List.length_reverse, length_leBytes]

/-- R488: the frame that goes out, and what the port then holds. -/
theorem sendPfc_sends (s : State) (p : Fin 16) (which hold : BitVec 8) :
    let u := sendPfc s p which hold
    ∃ src : List Byte, src.length = 6 ∧
      u.sent = .eth p ([0x01, 0x80, 0xC2, 0x00, 0x00, 0x01] ++ src ++ [0x88, 0x08, 0x01, 0x01] ++ beBytes 2 which.toNat ++
        ((List.range 8).flatMap fun k => beBytes 2 (if which.getLsbD k = true ∧ hold.getLsbD k = true
          then s.fld (ethBase + 0x100 + 0x40 * p + 8) 31 16 else 0)) ++ List.replicate 26 0) false :: s.sent ∧
      u.eth = (s.setEthPort p { s.ethPort p with held := hold, pfcAt := s.now }).eth ∧
      u = { s.count (ethCnt p 0x30) with eth := u.eth, sent := u.sent, freeCtr := s.freeCtr + 1 } := by
  refine ⟨beBytes 6 s.takeFree.1, length_beBytes _ _, ?_, rfl, rfl⟩
  simp only [← Bool.and_eq_true]
  rfl

/-! ### PFC received (R489) -/

theorem foldl_setQueues {α : Type} {f : State → α → State}
    (hf : ∀ st x, ∃ queues, f st x = { st with swt := { st.swt with queues := queues } }) (l : List α) (s : State) :
    ∃ queues, l.foldl f s = { s with swt := { s.swt with queues := queues } } := by
  induction l generalizing s with
  | nil => exact ⟨_, rfl⟩
  | cons x l ih =>
    obtain ⟨q1, h1⟩ := hf s x
    obtain ⟨q2, h2⟩ := ih (f s x)
    rw [List.foldl_cons, h2, h1]
    exact ⟨q2, rfl⟩

/-- R375: what ends Trump touches the queues alone. -/
theorem untrump_only (s : State) (f : Nat → Bool) : ∃ queues, untrump s f = { s with swt := { s.swt with queues := queues } } := by
  refine foldl_setQueues (fun st e => ?_) _ s
  dsimp only
  split
  · exact ⟨_, rfl⟩
  · exact ⟨_, rfl⟩

/-- The one bit of a power of two, among those that `f` allows. -/
theorem filter_two_pow (k : Fin 8) {f : Nat → Bool} (h : f k = true) :
    ((List.range 8).filter fun j => (2 ^ k.val).testBit j && f j) = [k.val] := by
  have alone : ∀ k : Fin 8, ((List.range 8).filter fun j => (2 ^ k.val).testBit j) = [k.val] := by decide
  simp only [Bool.and_comm]
  rw [← List.filter_filter, alone, List.filter_cons, if_pos h, List.filter_nil]

/-- R489: a frame for one priority pauses it for its quanta, or ends its pause. -/
theorem applyPfc_pauses {s : State} {p : Fin 16} {f : List Byte} {k : Fin 8} (one : (f.getD 17 0).toNat = 2 ^ k.val)
    (on : (s.fld (ethReg p 8) 7 0).testBit k = true) :
    let n := be16 f (18 + 2 * k)
    let till := if n = 0 then 0 else s.now + BitVec.ofNat 64 (nsFtu 60 + s.quantaFtu p n)
    let s1 := s.setEthPort p { s.ethPort p with paused := sput 0 (s.ethPort p).paused k till }
    applyPfc s p f = untrump s1 s1.queuePaused := by
  intro n till s1
  unfold applyPfc
  dsimp only
  rw [one, ← List.foldl_filter, filter_two_pow k on]
  rfl

/-! ### The checks of a received frame (R478) -/

section receive
variable {s : State} {p : Fin 16} {f : List Byte} {good : Bool}

/-- R478: what a sound frame may still fail is its length. -/
theorem ethReject_sound (live : s.dev ≠ .frozen) (gate : s.gateOpen = true) (ok : good = true) : s.ethReject p f good =
    if f.length < 60 then some 0x14 else if s.ethMaxFrame p < f.length then some 0x18 else none :=
  (if_neg live).trans ((if_neg (by rw [gate]; decide)).trans (if_neg (by rw [ok]; decide)))

/-- R478: the state once a frame has been counted. -/
def rxCounted (s : State) (p : Nat) (f : List Byte) : State := (s.count (ethCnt p 0)).countN (ethCnt p 4) f.length

theorem exec_ethRxFrame (hears : s.hearsWire p = true) (wire : s.ethLoop p = 0) :
    exec (.ethRxFrame p f good) s = .next (ethReceive s p f good) := by
  refine (if_neg (by simp [hears])).trans (congrArg Outcome.next (if_neg (by rw [wire]; decide)))

theorem ethReceive_rejected {off : Nat} (h : s.ethReject p f (good && (s.ethPort p).fault.isNone) = some off) :
    ethReceive s p f good = (rxCounted s p f).count (ethCnt p off) := by
  have counted : (rxCounted s p f).ethReject p f (good && ((rxCounted s p f).ethPort p).fault.isNone) = some off := h
  rw [rxCounted] at counted
  unfold ethReceive
  dsimp only
  rw [counted]
  rfl

theorem ethReceive_passed (h : s.ethReject p f (good && (s.ethPort p).fault.isNone) = none) : ethReceive s p f good =
    if be16 f 12 ≠ 0x8808 then ethAdmit (rxCounted s p f) p f
    else if be16 f 14 = 0x0101 then applyPfc ((rxCounted s p f).count (ethCnt p 0x1C)) p f
    else (rxCounted s p f).count (ethCnt p 0x20) := by
  have counted : (rxCounted s p f).ethReject p f (good && ((rxCounted s p f).ethPort p).fault.isNone) = none := h
  rw [rxCounted] at counted
  unfold ethReceive
  dsimp only
  rw [counted]
  rfl

end receive

/-- R57, R352, R478: the record of a frame that arrives at a port at `t`. -/
def rxRecord (s : State) (p : Fin 16) (f : List Byte) (t : Time) : Pkt :=
  { Pkt.none with
    input := p, prio := s.ethPrio p f, ots := t, arrival := t, node := BitVec.ofNat 14 s.ownNode,
    sport := BitVec.ofNat 5 p, port := BitVec.ofNat 5 p, held := s.heldFrom t }

/-- R478: a frame that is no Sync for the slave is accepted with its timestamp, and what is accepted goes to the Loupe. -/
theorem ethAdmit_plain {s u : State} {p : Fin 16} {f : List Byte} {h : Option Nat} (plain : s.slaveSync p f = false)
    (accepted : admitPacket (s.stamp p s.now).2 (rxRecord s p f (s.stamp p s.now).1) (s.admitPool 0) f = (u, h)) :
    ethAdmit s p f = h.elim u (offerLoupe u) := by
  have still : (s.stamp p s.now).2.slaveSync p f = false := plain
  unfold ethAdmit
  dsimp only
  rw [if_neg (by rw [still]; decide)]
  change (match admitPacket (s.stamp p s.now).2 (rxRecord s p f (s.stamp p s.now).1) (s.admitPool 0) f with
    | (s3, some h) => offerLoupe s3 h
    | (s3, none) => s3) = _
  rw [accepted]
  cases h <;> rfl

/-! ### The timestamp queue (R485) -/

/-- R491: the row of ETH_Pp_TSQ_INFO. -/
def tsqInfoRow : RegRow := rc 0x120 16 0x40

theorem regRow_tsqInfo : ∀ q : Fin 16, regRow (ethReg q 0x20) = some (ethBase, tsqInfoRow) := by decide

theorem exec_tsqRead {s : State} {m : Path} {p : Fin 16} (ha : s.answers m = true) (hm : Path.manages m) (active : s.portActive p = true) :
    exec (.tsqRead m p) s = .next (readTsq s p).1 := by
  have := p.isLt
  have number : (ethReg p 0x20 - ethBase - 0x100) / 0x40 = p := by unfold ethReg; omega
  have target : s.target m (ethReg p 0x20) = .reg (ethReg p 0x20) ethBase tsqInfoRow := by
    refine target_row ?_ ?_ (.inr ?_) (regRow_tsqInfo p) (deadReg_ethPort active number ?_) hm.ne_vf
    all_goals unfold ethReg ethBase; omega
  have clears : clearRead s ethBase (ethReg p 0x20 - ethBase) = (readTsq s ((ethReg p 0x20 - ethBase - 0x100) / 0x40)).1 := by
    refine (if_neg (by decide)).trans ((if_neg (by decide)).trans ((if_neg (by decide)).trans (if_pos rfl)))
  refine congrArg Outcome.next ?_
  rw [regRead_clears ha target rfl, clears, number]

end Sys2Proof.Machine

open Sys2Proof Sys2Proof.Machine Host

theorem flowControlAndTimestampQueue : Claim.FlowControlAndTimestampQueue := by
  intro s p v want q sends
  refine ⟨fun ready idle => ⟨fun changed => ⟨_, exec_pfcSend ready idle changed, sendPfc_sends _ _ _ _⟩,
      fun held due => ⟨_, exec_pfcRefresh ready idle held due, sendPfc_sends _ _ _ _⟩⟩,
    fun f k hears wire pause code sound one on => ?_, fun k ended => congrArg _ (if_neg (by simp [ended])),
    fun m ha hm active => ⟨fun empty => ?_, fun e r first => ?_⟩⟩
  · have run : exec (.pfcRx p f) s = .next (applyPfc ((rxCounted s p f).count (ethCnt p 0x1C)) p f) := by
      refine (congrArg Outcome.next (if_pos ⟨hears, pause, code⟩)).trans (congrArg _ ?_)
      rw [ethReceive_passed (good := true) sound, if_neg (not_not.2 pause), if_pos code]
    rw [applyPfc_pauses (s := (rxCounted s p f).count (ethCnt p 0x1C)) one on] at run
    obtain ⟨queues, ends⟩ := untrump_only _ _
    rw [ends] at run
    exact ⟨_, run, rfl, rfl, rfl⟩
  · rw [exec_tsqRead ha hm active, readTsq, show (s.ethPort p).tsq = [] from empty]
  · rw [exec_tsqRead ha hm active, readTsq, show (s.ethPort p).tsq = e :: r from first]

theorem receivedFramesAreChecked : Claim.ReceivedFramesAreChecked := by
  intro s p f good hears wire s1 drops sound
  have receives : exec (.ethRxFrame p f good) s = .next (ethReceive s p f good) := exec_ethRxFrame hears wire
  have rejects {off : Nat} (h : s.ethReject p f (good && (s.ethPort p).fault.isNone) = some off) : drops off :=
    receives.trans (congrArg _ (ethReceive_rejected h))
  have sound_iff : (good && (s.ethPort p).fault.isNone) = true ↔ sound := by rw [Bool.and_eq_true, Option.isNone_iff_eq_none]
  refine ⟨fun frozen => rejects (if_pos frozen), fun live shut => rejects ?_, fun live gate bad => rejects ?_,
    fun live gate ok short => rejects ?_, fun live gate ok min long => rejects ?_, fun live gate ok min max => ?_⟩
  · exact (if_neg live).trans (if_pos (by rw [shut]; rfl))
  · have unsound : (!(good && (s.ethPort p).fault.isNone)) = true := by rw [Bool.not_eq_true', ← Bool.not_eq_true, sound_iff]; exact bad
    exact (if_neg live).trans ((if_neg (by rw [gate]; decide)).trans (if_pos unsound))
  · rw [ethReject_sound live gate (sound_iff.2 ok), if_pos short]
  · rw [ethReject_sound live gate (sound_iff.2 ok), if_neg (by omega), if_pos long]
  · have passes : s.ethReject p f (good && (s.ethPort p).fault.isNone) = none := by
      rw [ethReject_sound live gate (sound_iff.2 ok), if_neg (by omega), if_neg (by omega)]
    rw [ethReceive_passed passes] at receives
    refine ⟨fun control other => ?_, fun data plain => ?_⟩
    · rw [if_neg (not_not.2 control), if_neg other] at receives
      exact receives
    · rw [if_pos data] at receives
      exact ⟨fun s3 h accepted => receives.trans (congrArg _ (ethAdmit_plain (s := rxCounted s p f) plain accepted)),
        fun s3 full => receives.trans (congrArg _ (ethAdmit_plain (s := rxCounted s p f) plain full))⟩

/-- Settles O39: a link by the stage it enters, a write by the row of ETH_Pp_CFG, a frame by the first check that it fails. -/
theorem ethernetPorts : Obligations.EthernetPorts :=
  ⟨linksComeUpInStages, portConfigurationWrites, flowControlAndTimestampQueue, receivedFramesAreChecked⟩

end

section
/-! SUPPORT. The code of a ring link (R391, R392): multiplication by α is linear and without fixed points below its order 31, so the
syndromes of one wrong data symbol name its place and its value. -/

namespace Sys2Proof.Machine

open Host

theorem mulAlpha_xor : ∀ a b : BitVec 5, mulAlpha (a ^^^ b) = mulAlpha a ^^^ mulAlpha b := by decide

theorem mulAlpha_injective : Function.Injective mulAlpha := fun a b => by revert a b; decide

theorem timesAlpha_xor (n : Nat) (a b : BitVec 5) : timesAlpha n (a ^^^ b) = timesAlpha n a ^^^ timesAlpha n b := by
  induction n generalizing a b with
  | zero => rfl
  | succ n ih => rw [timesAlpha, mulAlpha_xor, ih]; rfl

theorem timesAlpha_injective (n : Nat) : Function.Injective (timesAlpha n) := by
  induction n with
  | zero => exact fun _ _ => id
  | succ n ih => exact ih.comp mulAlpha_injective

theorem timesAlpha_zero (n : Nat) : timesAlpha n 0 = 0 := by
  induction n with
  | zero => rfl
  | succ n ih => exact ih

theorem timesAlpha_add (m n : Nat) (v : BitVec 5) : timesAlpha (m + n) v = timesAlpha m (timesAlpha n v) := by
  induction n generalizing v with
  | zero => rfl
  | succ n ih => exact ih _

/-- The order of α is 31. -/
theorem timesAlpha_ne_self : ∀ (n : Fin 30) (v : BitVec 5), v ≠ 0 → timesAlpha (n + 1) v ≠ v := by decide

/-- Equal powers of α below 31 are the same power. -/
theorem timesAlpha_ne {k j : Nat} {e : BitVec 5} (less : k < j) (small : j < 30) (wrong : e ≠ 0) :
    timesAlpha (k + 1) e ≠ timesAlpha (j + 1) e := by
  obtain ⟨n, rfl⟩ := Nat.exists_eq_add_of_lt less
  intro equal
  rw [show k + n + 1 + 1 = k + 1 + (n + 1) by omega, timesAlpha_add (k + 1)] at equal
  exact timesAlpha_ne_self ⟨n, by omega⟩ e wrong (timesAlpha_injective _ equal).symm

/-! ### The syndromes -/

/-- What symbol `i` adds to the syndromes. -/
def syndromeStep (c : BitVec 160) (a : BitVec 5 × BitVec 5) (i : Nat) : BitVec 5 × BitVec 5 :=
  (a.1 ^^^ symbolAt c i, a.2 ^^^ timesAlpha (i + 1) (symbolAt c i))

theorem syndromes_eq (c : BitVec 160) : syndromes c = (List.range 30).foldl (syndromeStep c) (symbolAt c 30, symbolAt c 31) := rfl

theorem symbolAt_xor (c d : BitVec 160) (i : Nat) : symbolAt (c ^^^ d) i = symbolAt c i ^^^ symbolAt d i := BitVec.extractLsb'_xor

theorem syndromeStep_xor (c d : BitVec 160) (a b : BitVec 5 × BitVec 5) (i : Nat) :
    syndromeStep (c ^^^ d) (a.1 ^^^ b.1, a.2 ^^^ b.2) i =
      ((syndromeStep c a i).1 ^^^ (syndromeStep d b i).1, (syndromeStep c a i).2 ^^^ (syndromeStep d b i).2) := by
  simp only [syndromeStep, symbolAt_xor, timesAlpha_xor, Prod.mk.injEq]
  constructor <;> ac_rfl

theorem foldl_syndromeStep_xor (c d : BitVec 160) (l : List Nat) (a b : BitVec 5 × BitVec 5) :
    l.foldl (syndromeStep (c ^^^ d)) (a.1 ^^^ b.1, a.2 ^^^ b.2) =
      ((l.foldl (syndromeStep c) a).1 ^^^ (l.foldl (syndromeStep d) b).1,
        (l.foldl (syndromeStep c) a).2 ^^^ (l.foldl (syndromeStep d) b).2) := by
  induction l generalizing a b with
  | nil => rfl
  | cons i l ih => rw [List.foldl_cons, syndromeStep_xor, ih]; rfl

theorem syndromes_xor (c d : BitVec 160) :
    syndromes (c ^^^ d) = ((syndromes c).1 ^^^ (syndromes d).1, (syndromes c).2 ^^^ (syndromes d).2) := by
  rw [syndromes_eq, symbolAt_xor, symbolAt_xor]
  exact foldl_syndromeStep_xor c d _ (_, _) (_, _)

theorem foldl_syndromeStep_of_zero {c : BitVec 160} {l : List Nat} (zero : ∀ i ∈ l, symbolAt c i = 0) (a : BitVec 5 × BitVec 5) :
    l.foldl (syndromeStep c) a = a := by
  induction l with
  | nil => rfl
  | cons i l ih =>
    obtain ⟨first, rest⟩ := List.forall_mem_cons.1 zero
    have step : syndromeStep c a i = a := by simp [syndromeStep, first, show timesAlpha (i + 1) (0#5) = 0#5 from timesAlpha_zero _]
    rw [List.foldl_cons, step, ih rest]

/-- A codeword that is 0 but for data symbol `j`. -/
def symbolError (j : Nat) (e : BitVec 5) : BitVec 160 := e.setWidth 160 <<< (155 - 5 * j)

theorem symbolAt_symbolError {i j : Nat} (hi : i < 32) (hj : j < 32) (e : BitVec 5) :
    symbolAt (symbolError j e) i = if i = j then e else 0 := by
  refine BitVec.eq_of_getLsbD_eq fun k hk => ?_
  rw [symbolAt, symbolError, BitVec.getLsbD_extractLsb', BitVec.getLsbD_shiftLeft, BitVec.getLsbD_setWidth]
  rcases Nat.lt_trichotomy i j with less | rfl | more
  · rw [if_neg less.ne, BitVec.getLsbD_of_ge e _ (by omega)]; simp
  · simp [hk, show 155 - 5 * i + k < 160 by omega, show k < 160 by omega]
  · simp [more.ne', show 155 - 5 * i + k < 155 - 5 * j by omega]

theorem syndromes_symbolError {j : Nat} (data : j < 30) (e : BitVec 5) :
    syndromes (symbolError j e) = (e, timesAlpha (j + 1) e) := by
  have symbol (i : Nat) (hi : i < 32) := symbolAt_symbolError hi (show j < 32 by omega) e
  obtain ⟨before, after, split⟩ := List.append_of_mem (List.mem_range.2 data)
  have distinct : (before ++ j :: after).Nodup := split ▸ List.nodup_range
  have bound : ∀ i ∈ before ++ j :: after, i < 30 := fun i hi => List.mem_range.1 (split ▸ hi)
  obtain ⟨absent, -⟩ := List.nodup_middle.1 distinct |> List.nodup_cons.1
  have zero (i : Nat) (hi : i ∈ before ++ after) : symbolAt (symbolError j e) i = 0 := by
    refine (symbol i ?_).trans (if_neg (by rintro rfl; exact absent hi))
    have := bound i (by simp only [List.mem_append, List.mem_cons] at hi ⊢; tauto)
    omega
  rw [syndromes_eq, split, List.foldl_append, List.foldl_cons,
    foldl_syndromeStep_of_zero fun i hi => zero i (List.mem_append_left _ hi),
    foldl_syndromeStep_of_zero fun i hi => zero i (List.mem_append_right _ hi),
    syndromeStep, symbol j (by omega), symbol 30 (by omega), symbol 31 (by omega), if_pos rfl, if_neg (by omega), if_neg (by omega)]
  simp

/-! ### Decoding -/

theorem decodeWord_of_zero {c : BitVec 160} (clean : syndromes c = (0, 0)) : decodeWord c = some (c.extractLsb' 10 150, false) := by
  simp only [decodeWord, clean, true_or, if_true]

/-- Syndromes that fit an error `e` at data symbol `j` correct that symbol. -/
theorem decodeWord_of_syndromes {c : BitVec 160} {j : Nat} {e : BitVec 5} (data : j < 30) (wrong : e ≠ 0)
    (fits : syndromes c = (e, timesAlpha (j + 1) e)) :
    decodeWord c = some (c.extractLsb' 10 150 ^^^ (e.setWidth 150 <<< (145 - 5 * j)), true) := by
  have nonzero : timesAlpha (j + 1) e ≠ 0 := fun zero => wrong (timesAlpha_injective _ (zero.trans (timesAlpha_zero _).symm))
  have place : (List.range 30).find? (fun k => timesAlpha (k + 1) e == timesAlpha (j + 1) e) = some j := by
    refine List.find?_range_eq_some.2 ⟨beq_self_eq_true _, List.mem_range.2 data, fun k less => ?_⟩
    rw [beq_false_of_ne (timesAlpha_ne less data wrong)]
    rfl
  simp only [decodeWord, fits, if_neg (not_or.2 ⟨wrong, nonzero⟩), place]

theorem data_symbolError {j : Nat} (data : j < 30) (e : BitVec 5) :
    (symbolError j e).extractLsb' 10 150 = e.setWidth 150 <<< (145 - 5 * j) := by
  refine BitVec.eq_of_getLsbD_eq fun k hk => ?_
  simp only [symbolError, BitVec.getLsbD_extractLsb', BitVec.getLsbD_shiftLeft, BitVec.getLsbD_setWidth, hk,
    show 10 + k < 160 by omega, show (10 + k < 155 - 5 * j) ↔ (k < 145 - 5 * j) by omega,
    show 10 + k - (155 - 5 * j) = k - (145 - 5 * j) by omega, show k - (145 - 5 * j) < 160 by omega,
    show k - (145 - 5 * j) < 150 by omega,
    decide_true, Bool.true_and]

/-- R392: one wrong data symbol is corrected. -/
theorem decodeWord_corrects {c : BitVec 160} {j : Nat} {e : BitVec 5} (data : j < 30) (clean : syndromes c = (0, 0)) (wrong : e ≠ 0) :
    decodeWord (c ^^^ symbolError j e) = some (c.extractLsb' 10 150, true) := by
  have fits : syndromes (c ^^^ symbolError j e) = (e, timesAlpha (j + 1) e) := by
    rw [syndromes_xor, clean, syndromes_symbolError data]; simp
  rw [decodeWord_of_syndromes data wrong fits, BitVec.extractLsb'_xor, data_symbolError data, BitVec.xor_assoc, BitVec.xor_self,
    BitVec.xor_zero]

end Sys2Proof.Machine
end

section
/-! SUPPORT. Words on a ring link (R391–R399, R430): what a port holds after it is set, what each word heard does to it, and what the
words sent say. -/

namespace Sys2Proof.Machine

open Host

/-! ### Ring ports -/

theorem lset_lset {α : Type} (l : List α) (i : Nat) (v w : α) : lset (lset l i v) i w = lset l i w := by
  induction l generalizing i with
  | nil => rfl
  | cons x l ih => cases i with
    | zero => rfl
    | succ i => exact congrArg (x :: ·) (ih i)

section ports
variable {s : State} {p : Nat}

theorem setRport_setRport (s : State) (p : Nat) (v w : RingPort) : (s.setRport p v).setRport p w = s.setRport p w :=
  congrArg (fun l => s.setRing { s.ring with ports := l }) (lset_lset s.ring.ports p v w)

theorem rport_count (s : State) (off p : Nat) : (s.count off).rport p = s.rport p := rfl

/-- A port that is UP is one of the node's ports. -/
theorem port_lt_of_up (up : (s.rport p).link = .up) : p < s.ring.ports.length := by
  by_contra none
  rw [State.rport, List.getD_eq_default _ _ (Nat.le_of_not_lt none)] at up
  exact nomatch up

theorem rport_setRport (up : (s.rport p).link = .up) (v : RingPort) : (s.setRport p v).rport p = v :=
  (getD_lset s.ring.ports p p v RingPort.reset).trans (if_pos ⟨rfl, port_lt_of_up up⟩)

end ports

/-! ### Words heard (R394–R396) -/

/-- R396: the frames that leave the retry buffer are the longest initial run of frames acknowledged whole. -/
theorem dropAcked_eq_drop (n : BitVec 16) (l : List RetryFrame) : ∃ k,
    (∀ e ∈ l.take k, e.f.trailer.isSome ∧ e.f.blocks ≤ (n - e.seq).toNat ∧ (n - e.seq).toNat ≤ 32768) ∧
    (∀ e, l[k]? = some e → ¬(e.f.trailer.isSome ∧ e.f.blocks ≤ (n - e.seq).toNat ∧ (n - e.seq).toNat ≤ 32768)) ∧
    dropAcked n l = l.drop k := by
  induction l with
  | nil => exact ⟨0, nofun, nofun, rfl⟩
  | cons e l ih =>
    by_cases whole : e.f.trailer.isSome ∧ e.f.blocks ≤ (n - e.seq).toNat ∧ (n - e.seq).toNat ≤ 32768
    · obtain ⟨k, before, next, drops⟩ := ih
      exact ⟨k + 1, List.forall_mem_cons.2 ⟨whole, before⟩, next, (if_pos whole).trans drops⟩
    · refine ⟨0, nofun, fun x first => ?_, if_neg whole⟩
      obtain rfl : e = x := Option.some.inj first
      exact whole

theorem reservedType_eq_true {c : Nat} (new : c ∉ [0x01, 0x02, 0x03, 0x04, 0x08, 0x09, 0x0A, 0x10, 0x20, 0x21, 0x22, 0x23, 0x24]) :
    reservedType c = true := by
  rw [reservedType, Bool.not_eq_true', List.contains_eq_mem, decide_eq_false new]

/-! ### Codewords (R391–R395) -/

theorem badBlock_eq_true_iff (d : BitVec 150) : badBlock d = true ↔
    ¬if d.getLsbD 149 = true then d.toNat / 2 ^ 144 % 32 = 0 else d.toNat / 2 ^ 144 % 32 ≤ 18 := by
  rw [badBlock]
  split
  · simp
  · simp

section codewords
variable {s : State} {p : Fin 4} {c : BitVec 160} (up : (s.rport p).link = .up)
include up

/-- R395: a block that decodes and may be used ends a run of uncorrectable codewords. -/
theorem exec_fecUncorrectable_good {d : BitVec 150} {fixed : Bool} (decodes : decodeWord c = some (d, fixed))
    (usable : badBlock d = false) : exec (.fecUncorrectable p c) s =
      .next (heardGood (if fixed then s.count (ringCnt p 0x0C) else s) p) := by
  change execFecUncorrectable p c s = _
  rw [execFecUncorrectable, if_neg (not_not.2 up), decodes]
  exact congrArg _ (if_neg (by rw [usable]; decide))

theorem exec_fecUncorrectable_lost (lost : decodeWord c = none ∨ ∃ d, decodeWord c = some (d, false) ∧ badBlock d = true) :
    exec (.fecUncorrectable p c) s = .next (lostBlock (s.count (ringCnt p 0x10)) p) := by
  change execFecUncorrectable p c s = _
  rw [execFecUncorrectable, if_neg (not_not.2 up)]
  rcases lost with none | ⟨d, decodes, bad⟩
  · rw [none]
  · rw [decodes]
    exact congrArg _ (if_pos bad)

end codewords

section lost
variable {s : State} {p : Nat} {v : RingPort} (port : s.rport p = v) (up : v.link = .up)
include port up

/-- R430: a port with no frame arriving enters HOLD. -/
theorem enterHold_of_idle (idle : v.rx = none) : enterHold s p =
    ((s.setRport p { v with
      link := .hold, hold := some s.now, rxNextOld := v.exp, discarding := false, oldPeer := v.peer, hello := none, helloSent := none,
      resumed := none }).logEvent 0x61 1 (evAt 0 p ||| evAt 2 (v.peer.getD 0))).count (ringCnt p 0x58) := by
  subst port
  have still : abortRx s p 2 = s := by rw [abortRx, idle]
  rw [enterHold, if_neg (not_not.2 up), still]
  dsimp only
  rw [idle]
  rfl

theorem lostBlock_of_discarding (few : v.uncorr + 1 < 16) (discarding : v.discarding = true) :
    lostBlock s p = s.setRport p { v with uncorr := v.uncorr + 1 } := by
  subst port
  exact (if_neg (Nat.not_le.2 few)).trans (if_pos discarding)

/-- R395: between frames the first block lost is answered with a NAK. -/
theorem lostBlock_between_frames (few : v.uncorr + 1 < 16) (receives : v.discarding = false) (idle : v.rx = none) : lostBlock s p =
    (({ s with sent := .word p (ctlWord 0x03 (beBytes 2 v.exp.toNat)) :: s.sent } : State).setRport p
      { v with uncorr := v.uncorr + 1, discarding := true, nakAt := s.now }).count (ringCnt p 0x14) := by
  subst port
  rw [lostBlock, if_neg (Nat.not_le.2 few), if_neg (by rw [receives]; decide), idle]
  simp only [rport_setRport up, setRport_setRport, sendNak]
  rfl

/-- R395: the sixteenth block lost in a row puts the link in HOLD. -/
theorem lostBlock_sixteenth (many : 16 ≤ v.uncorr + 1) (idle : v.rx = none) : lostBlock s p =
    ((s.setRport p { v with
      uncorr := v.uncorr + 1, link := .hold, hold := some s.now, rxNextOld := v.exp, discarding := false, oldPeer := v.peer,
      hello := none, helloSent := none, resumed := none }).logEvent 0x61 1 (evAt 0 p ||| evAt 2 (v.peer.getD 0))).count
        (ringCnt p 0x58) := by
  subst port
  have next := rport_setRport up { s.rport p with uncorr := (s.rport p).uncorr + 1 }
  refine (if_pos many).trans ((enterHold_of_idle next up idle).trans ?_)
  rw [setRport_setRport]
  rfl

end lost

/-! ### Words sent (R85, R395, R399) -/

theorem foldl_sendWord {α : Type} (s : State) (p : Nat) (f : α → BitVec 144) (l : List α) :
    l.foldl (fun u i => sendWord u p (f i)) s = { s with sent := (l.map fun i => Sent.word p (f i)).reverse ++ s.sent } := by
  induction l generalizing s with
  | nil => rfl
  | cons i l ih =>
    rw [List.foldl_cons, ih, List.map_cons, List.reverse_cons, List.append_assoc]
    rfl

theorem sendCredits_eq {s : State} {p : Nat} {word : Nat → Sent} (content : ∀ i, word i =
    Sent.word p (creditWord s p (s.nextMark p) [3 * i, 3 * i + 1, min 31 (3 * i + 2)])) : sendCredits s p =
    { s.setRport p { s.rport p with wmTx := s.nextMark p, wmAt := s.now, creditAt := s.now } with
      sent := ((List.range 11).map word).reverse ++ s.sent } := by
  obtain rfl := funext content
  exact foldl_sendWord _ p _ _

theorem le_laterOf (a b : Time) : b ≤ laterOf a b := by
  rw [laterOf]
  split
  · exact BitVec.le_refl b
  · next h => exact BitVec.not_lt.1 h

end Sys2Proof.Machine

open Sys2Proof Sys2Proof.Machine Host

theorem wordsHeardOnALink : Claim.WordsHeardOnALink := by
  intro s p w c up s0 v wm ack exp entry whole
  have hears (f : State → State) : (.next (onUp s p f) : Outcome State Fault Refusal) = .next (f s0) :=
    congrArg Outcome.next (onUp_up up f)
  refine ⟨fun new sent => ?_, fun old => (hears _).trans (congrArg _ ?_), hears _, fun few => (hears _).trans (congrArg _ ?_),
    fun discarding awaited => (hears _).trans (congrArg _ ?_), fun other => (hears _).trans (congrArg _ ?_),
    fun new => (hears _).trans (congrArg _ ?_)⟩
  · obtain ⟨k, before, next, drops⟩ := dropAcked_eq_drop ack v.retry
    have takes : takeAck v ack = { v with acked := ack, naks := 0, retry := v.retry.drop k } :=
      (if_neg (not_or.2 ⟨new, Nat.not_lt.2 sent⟩)).trans (by rw [drops])
    exact ⟨k, before, next, (hears _).trans
      (congrArg (fun x : RingPort => Outcome.next (s0.setRport p { x with wmRx := wm })) takes)⟩
  · exact congrArg (fun x : RingPort => s0.setRport p { x with wmRx := wm }) (if_pos old)
  · exact if_neg (Nat.not_le.2 few)
  · exact if_pos ⟨discarding, awaited⟩
  · refine if_neg fun h => ?_
    obtain ⟨discarding, awaited⟩ := h
    rcases other with receives | early
    · exact Bool.false_ne_true (receives.symm.trans discarding)
    · exact early awaited
  · exact if_pos (reservedType_eq_true new)

theorem linksThatAreNotUpStaySilent : Claim.LinksThatAreNotUpStaySilent := by
  intro s p w c b down
  have hears (f : State → State) : (.next (onUp s p f) : Outcome State Fault Refusal) = .next s :=
    congrArg Outcome.next (onUp_down down f)
  have sends {due : Prop} [Decidable due] (u : State) :
      (.next (if (s.rport p).link = .up ∧ due then u else s) : Outcome State Fault Refusal) = .next s :=
    congrArg Outcome.next (if_neg fun h => down h.1)
  simp only [List.forall_mem_cons]
  exact ⟨hears _, hears _, hears _, hears _, hears _, congrArg _ (if_pos down), sends _, sends _, sends _, sends _,
    if_pos (.inl down), if_pos (.inl down), if_pos (.inl down), congrArg _ (if_pos down), List.forall_mem_nil _⟩

theorem codewordsAreCorrectedOrReplayed : Claim.CodewordsAreCorrectedOrReplayed := by
  refine ⟨fun c j e clean wrong => decodeWord_corrects j.isLt clean wrong, fun c clean => decodeWord_of_zero clean, ?_⟩
  intro s p c up v good usable lost
  have uses {d : BitVec 150} (h : usable d) : badBlock d = false :=
    Bool.eq_false_iff.2 fun bad => (badBlock_eq_true_iff d).1 bad h
  have loses (h : lost) : exec (.fecUncorrectable p c) s = .next (lostBlock (s.count (ringCnt p 0x10)) p) :=
    exec_fecUncorrectable_lost up (h.imp_right fun ⟨d, decodes, bad⟩ => ⟨d, decodes, (badBlock_eq_true_iff d).2 bad⟩)
  refine ⟨fun d decodes use => exec_fecUncorrectable_good up decodes (uses use),
    fun d decodes use => exec_fecUncorrectable_good up decodes (uses use),
    fun h few discarding => (loses h).trans (congrArg _ (lostBlock_of_discarding (rport_count s _ p) up few discarding)),
    fun h few receives idle => (loses h).trans (congrArg _ (lostBlock_between_frames (rport_count s _ p) up few receives idle)),
    fun h many idle => (loses h).trans (congrArg _ (lostBlock_sixteenth (rport_count s _ p) up many idle))⟩

theorem wordsSentOnALink : Claim.WordsSentOnALink := by
  intro s p up v m idle freed word
  refine ⟨le_laterOf _ _, fun due => congrArg _ (if_pos ⟨up, due⟩), fun due => congrArg _ (if_pos ⟨up, due⟩),
    fun discarding due => congrArg _ (if_pos ⟨up, discarding, due⟩),
    fun due => congrArg _ ((if_pos ⟨up, due⟩).trans (sendCredits_eq fun i => ?_))⟩
  simp only [creditWord, List.flatMap_cons, List.flatMap_nil, List.append_nil, List.append_assoc, word, freed]
  rfl

theorem breaksAndAvoidEntriesExpire : Claim.BreaksAndAvoidEntriesExpire := by
  intro s p
  refine ⟨fun a t notice past => ?_, fun a t notice fresh => ?_, _, rfl, fun e => ?_, List.filter_sublist, rfl⟩
  · change execBreakClear p s = _
    rw [execBreakClear, notice]
    exact congrArg _ (if_pos past)
  · change execBreakClear p s = _
    rw [execBreakClear, notice]
    exact congrArg _ (if_neg (Nat.not_le.2 fresh))
  · exact List.mem_filter.trans (and_congr_right fun _ => decide_eq_true_iff)

/-- Settles O47: the code by the linearity of its syndromes, the retry buffer by the longest run of frames that an ACK covers, the words by what
each does to its port. -/
theorem ringWords : Obligations.RingWords :=
  ⟨wordsHeardOnALink, linksThatAreNotUpStaySilent, codewordsAreCorrectedOrReplayed, wordsSentOnALink, breaksAndAvoidEntriesExpire⟩

end

section
/-! SUPPORT. The Loupe (R97, R102–R109, R119, R127): the frame a pipeline takes in, the words that read nothing, how a program ends, and
what the classifier is given. -/

namespace Sys2Proof.Machine

open Host

/-! ### Intake and delivery (R97, R98) -/

section frames
variable {s : State} {pipe : Fin 2} {src h : Nat} {rest : List Nat} {e : Engine} {es : List Engine}

/-- R97: with recirculation alone or absent, no turn is contested, and the next source in order is served. -/
theorem exec_loupeIntake (live : s.dev ≠ .frozen) (room : (s.engines pipe).length < s.expert loupeBase (loupeBase + 4) 13 8 32)
    (accepts : s.clsAccepts pipe = true) (order : s.sourceOrder pipe = src :: rest) (alone : 22 ∉ src :: rest ∨ rest = [])
    (ready : s.frameReady pipe src = some h) : exec (.loupeIntake pipe) s = .next ((s.setLoupe { s.loupe with
      waiting := smod [] s.loupe.waiting (32 * pipe.val + src) (·.drop 1)
      last := sput 22 s.loupe.last pipe src
      contested := sput [] s.loupe.contested pipe (sget [] s.loupe.contested pipe) }).setEngines pipe
        (s.engines pipe ++ [startEngine s h src])) := by
  have may : ¬(s.dev = .frozen ∨ s.expert loupeBase (loupeBase + 4) 13 8 32 ≤ (s.engines pipe).length ∨
      (!s.clsAccepts pipe) = true) := by
    simp [live, room, accepts]
  have uncontested : ((src :: rest).contains 22 && (src :: rest).any (· != 22)) = false := by
    rcases alone with absent | rfl
    · rw [List.contains_eq_mem, decide_eq_false absent, Bool.false_and]
    · by_cases recirc : src = 22 <;> simp [recirc, Ne.symm]
  change execLoupeIntake pipe s = _
  simp only [execLoupeIntake, if_neg may, order, uncontested, Bool.false_and, Bool.false_eq_true, if_false, ready]
  rfl

theorem exec_loupeDeliver_running (first : s.engines pipe = e :: es) (run : e.out = none) : exec (.loupeDeliver pipe) s = .next s := by
  change execLoupeDeliver pipe s = _
  simp only [execLoupeDeliver, first, run]

/-- R98: what the classifier is given of an engine whose program has ended with class `c`. -/
def Engine.result (e : Engine) (pipe c : Nat) : ParseResult :=
  { h := e.h, src := e.src, recirc := e.recirc, pipe := pipe, cls := c, key := e.key, stack := e.stack, base := e.base,
    frameLen := e.frameLen }

theorem exec_loupeDeliver_ended {c : Nat} (first : s.engines pipe = e :: es) (ended : e.out = some c) (live : s.dev ≠ .frozen)
    (accepts : s.clsAccepts pipe = true) : exec (.loupeDeliver pipe) s = .next { s.setEngines pipe es with
      cls := { s.cls with lanes := smod [] s.cls.lanes pipe (· ++ [{
        r := e.result pipe c, phase := .arrived, entry := 0, slot := 0, clamped := false, pass := 0, colour := 0, meterLen := 0, item := [],
        att := Attach.empty }]) } } := by
  have may : ¬(s.dev = .frozen ∨ (!s.clsAccepts pipe) = true) := by simp [live, accepts]
  change execLoupeDeliver pipe s = _
  simp only [execLoupeDeliver, first, ended, if_neg may]
  rfl

end frames

/-! ### A program that runs or has ended (R103, R108) -/

section engine
variable {e : Engine}

theorem Engine.andThen_ended {c : Nat} (ended : e.out = some c) (f : Engine → Engine) : e.andThen f = e := if_pos (by rw [ended]; rfl)

variable (run : e.out = none)

include run

theorem Engine.andThen_running (f : Engine → Engine) : e.andThen f = f e := if_neg (by rw [run]; decide)

theorem Engine.failIf_running (b : Bool) (c : Nat) : e.failIf b c = if b then e.finish c else e := Engine.andThen_running run _

/-- R108 step 7: BASE beyond LIMIT truncates the program. -/
theorem Engine.advance_beyond {n : Nat} (beyond : e.limit < e.base + n) : e.advance n false = e.finish truncated := by
  rw [Engine.advance, failIf_running run, decide_eq_true beyond, if_pos rfl]
  exact andThen_ended rfl _

theorem Engine.advance_within {n : Nat} (within : e.base + n ≤ e.limit) (field : Bool) :
    e.advance n field = { e with base := e.base + n } := by
  rw [Engine.advance, failIf_running run, decide_eq_false (Nat.not_lt.2 within), if_neg Bool.false_ne_true]
  exact andThen_running run _

theorem Engine.spend_within {n limit : Nat} (within : e.clocks + n ≤ limit) : e.spend n limit = { e with clocks := e.clocks + n } := by
  refine (andThen_running run _).trans ((failIf_running (e := { e with clocks := e.clocks + n }) run _ _).trans ?_)
  rw [decide_eq_false (Nat.not_lt.2 within), if_neg Bool.false_ne_true]

theorem Engine.spend_beyond {n limit : Nat} (beyond : limit < e.clocks + n) :
    e.spend n limit = { e with clocks := e.clocks + n, out := some stepLimitHit } := by
  refine (andThen_running run _).trans ((failIf_running (e := { e with clocks := e.clocks + n }) run _ _).trans ?_)
  rw [decide_eq_true beyond, if_pos rfl]
  rfl

end engine

/-- The program of `e` has ended with class `c` as `v`; of the frame and its result only BASE has moved. -/
structure Engine.EndsAs (e v : Engine) (c : Nat) : Prop where
  out : v.out = some c
  h : v.h = e.h
  src : v.src = e.src
  stack : v.stack = e.stack
  limit : v.limit = e.limit
  key : v.key = e.key

theorem Engine.EndsAs.moved (e : Engine) (base clocks c : Nat) (pc : LoupePc) :
    e.EndsAs { e with base := base, pc := pc, clocks := clocks, out := some c } c := ⟨rfl, rfl, rfl, rfl, rfl, rfl⟩

/-- R103: slots 2 and 3 at the end of the program. -/
theorem Engine.close_key (e : Engine) :
    e.close.key = writeBytes e.key 4 (beBytes 2 (e.stack.length * 4096 + min e.base 1023) ++ beBytes 2 e.limit) := by
  have base : (if 1023 < e.base then 0x3FF else e.base) = min e.base 1023 := by split <;> omega
  rw [← base]
  rfl

/-! ### Words that read nothing (R105–R110) -/

/-- R105: the word reads, pushes and checks nothing, and moves BASE by a constant at most. -/
structure PlainWord (w : BitVec 128) : Prop where
  extract0 : microField w 116 114 = 0
  extract1 : microField w 98 96 = 0
  extract2 : microField w 80 78 = 0
  compare : microField w 62 61 = 0
  push : microField w 29 24 = 0
  check : microField w 23 21 = 0
  mode : microField w 39 38 < 2

/-- R107: how far a word moves BASE in CONST mode. -/
def constAdvance (w : BitVec 128) : Nat := if microField w 39 38 = 1 then microField w 35 30 else 0

section word
variable {w : BitVec 128} (plain : PlainWord w)

include plain

theorem PlainWord.extractUnit (k : Nat) (hk : k < 3) : (extractUnit w k).2.1 = 0 := by
  match k with
  | 0 => exact congrArg extractBytes plain.extract0
  | 1 => exact congrArg extractBytes plain.extract1
  | 2 => exact congrArg extractBytes plain.extract2

theorem microExtracts_plain (win : List Byte) (e : Engine) : microExtracts w win e = e := by
  simp only [microExtracts, plain.extractUnit, Nat.reduceLT, if_true]

theorem microReads_plain {e : Engine} (run : e.out = none) : microReads w e = e := by
  simp only [microReads, plain.extractUnit, plain.compare, Nat.reduceLT, if_true, Engine.andThen_running run]

theorem microOperand_plain (win : List Byte) (e : Engine) : microOperand w win e = (0, false) := if_pos plain.compare

theorem microLcheck_plain (l n : Nat) (e : Engine) : microLcheck w l n e = e := by
  simp [microLcheck, plain.check]

/-- R108: a plain word advances BASE, then ends the program or goes to the next word. -/
theorem microStep_plain {e : Engine} (run : e.out = none) (s : State) (win : List Byte) (a : Nat) :
    microStep s w win a e = (e.advance (constAdvance w) false).andThen fun e =>
      if microField w 20 19 ≠ 0 then e.finish (16 * microField w 20 19 + microField w 18 15) else microNext s w a 0 false e := by
  have mode2 : microField w 39 38 ≠ 2 := by have := plain.mode; omega
  simp only [microStep, microReads_plain plain run, plain.push, if_true, Engine.andThen_running run, microExtracts_plain plain,
    microOperand_plain plain, microLcheck_plain plain, mode2, if_false, beq_eq_false_iff_ne.2 mode2, constAdvance]

section moves
variable {e : Engine} {s : State} {win : List Byte} {a : Nat} (run : e.out = none)

include run

theorem microStep_beyond (beyond : e.limit < e.base + constAdvance w) : microStep s w win a e = e.finish truncated := by
  rw [microStep_plain plain run, Engine.advance_beyond run beyond, Engine.andThen_ended rfl]

variable (within : e.base + constAdvance w ≤ e.limit)

include within

theorem microStep_ends (out : microField w 20 19 ≠ 0) : microStep s w win a e =
    { e with base := e.base + constAdvance w, out := some (16 * microField w 20 19 + microField w 18 15) } := by
  rw [microStep_plain plain run, Engine.advance_within run within, Engine.andThen_running (by exact run), if_pos out]
  rfl

theorem microStep_goes (out : microField w 20 19 = 0) :
    microStep s w win a e = microNext s w a 0 false { e with base := e.base + constAdvance w } := by
  rw [microStep_plain plain run, Engine.advance_within run within, Engine.andThen_running (by exact run), if_neg (not_not.2 out)]

end moves

end word

/-! ### The next word (R109) -/

section next
variable {s : State} {w : BitVec 128} {a l : Nat} {c : Bool} {e : Engine}

theorem microNext_jump (op : microField w 14 12 = 1) : microNext s w a l c e = { e with pc := .word (microField w 11 0) } := if_pos op

theorem microNext_ret (op : microField w 14 12 = 6) (empty : e.micro = []) : microNext s w a l c e = e.finish microFault := by
  simp [microNext, op, Engine.ret, empty]

variable (op : microField w 14 12 = 0) (run : e.out = none)

include op run

theorem microNext_fall (more : a ≠ 0xFFF) : microNext s w a l c e = { e with pc := .word (a + 1) } := by
  simp [microNext, op, Engine.failIf_running run, more, Engine.andThen_running run]

/-- R109: nothing follows the last word of the store. -/
theorem microNext_last (last : a = 0xFFF) : microNext s w a l c e = e.finish microFault := by
  simp [microNext, op, Engine.failIf_running run, last, Engine.andThen_ended (e := e.finish microFault) rfl]

end next

/-! ### LOUPE_WORD -/

/-- R127: an uncorrectable word is captured, unless one was before. -/
theorem storeEcc_uncorrectable (s : State) (a : Nat) : (storeEcc s a .uncorrectable).loupe.engines = s.loupe.engines ∧
    (storeEcc s a .uncorrectable).loupe.csUe = true ∧ (s.loupe.csUe = false → (storeEcc s a .uncorrectable).loupe.csErr = a) ∧
    (storeEcc s a .uncorrectable).counters = s.counters := by
  unfold storeEcc
  dsimp only
  split
  · next old => exact ⟨rfl, old, fun new => absurd (new.symm.trans old) Bool.false_ne_true, rfl⟩
  · rw [logEvent_eq_logged]
    exact ⟨rfl, rfl, fun _ => rfl, rfl⟩

section step
variable {s : State} {pipe : Fin 2} {k : Fin 32} {e : Engine} {a : Nat} (there : (s.engines pipe)[k.val]? = some e) (run : e.out = none)
  (pc : e.pc = .word a) (customer : 0x400 ≤ a)

include there run pc customer

theorem exec_loupeWord_uncorrectable : exec (.loupeWord pipe k .uncorrectable) s =
    .next (((storeEcc s a .uncorrectable).setEngines pipe
      (lset ((storeEcc s a .uncorrectable).engines pipe) k (e.finish microFault).close)).count (outcomeCounter e.src microFault)) := by
  change execLoupeWord pipe k .uncorrectable s = _
  simp only [execLoupeWord, there, run, pc, if_neg (Nat.not_lt.2 customer), Option.isSome_none, Bool.false_eq_true, if_false, if_true]
  rfl

variable {v : Engine}
  (word : ∀ win, (microStep s (sget trapWord s.loupe.store a) win a e).spend (microField (sget trapWord s.loupe.store a) 127 126 + 1)
    s.stepLimit = v)

include word

theorem exec_loupeWord_runs (goes : v.out = none) :
    exec (.loupeWord pipe k .good) s = .next (s.setEngines pipe (lset (s.engines pipe) k v)) := by
  change execLoupeWord pipe k .good s = _
  simp only [execLoupeWord, there, run, pc, if_neg (Nat.not_lt.2 customer), Option.isSome_none, Bool.false_eq_true, if_false,
    storeEcc, word, goes, reduceCtorEq]

theorem exec_loupeWord_ends {c : Nat} (ended : v.out = some c) : exec (.loupeWord pipe k .good) s =
    .next ((s.setEngines pipe (lset (s.engines pipe) k v.close)).count (outcomeCounter v.src c)) := by
  have closed : v.close.out = some c := ended
  have src : v.close.src = v.src := rfl
  change execLoupeWord pipe k .good s = _
  simp only [execLoupeWord, there, run, pc, if_neg (Nat.not_lt.2 customer), Option.isSome_none, Option.isSome_some, Bool.false_eq_true,
    if_false, if_true, storeEcc, word, ended, closed, src, reduceCtorEq]

end step

end Sys2Proof.Machine

open Sys2Proof Sys2Proof.Machine Host

theorem framesEnterAndLeaveTheLoupe : Claim.FramesEnterAndLeaveTheLoupe := by
  intro s pipe
  refine ⟨fun src rest h live room accepts order alone ready => ?_, fun e rest c first ended live accepts => ?_,
    fun e rest first run => exec_loupeDeliver_running first run⟩
  · exact ⟨_, exec_loupeIntake live room accepts order alone ready, startEngine s h src,
      rfl, rfl, rfl, rfl, rfl, rfl, rfl, rfl, rfl, rfl, rfl⟩
  · exact ⟨_, exec_loupeDeliver_ended first ended live accepts, _, rfl, rfl, rfl, rfl, rfl⟩

theorem microwordsRun : Claim.MicrowordsRun := by
  intro s pipe k e a there run pc customer w f plain base clocks becomes ends
  have isPlain (p : plain) : PlainWord w := by
    obtain ⟨x0, x1, x2, cmp, push, check, mode⟩ := p
    exact ⟨x0, x1, x2, cmp, push, check, mode⟩
  have endsAs {v : Engine} {c : Nat} (word : ∀ win, (microStep s w win a e).spend (f 127 126 + 1) s.stepLimit = v)
      (h : e.EndsAs v c) : ends c := by
    refine ⟨_, exec_loupeWord_ends there run pc customer word h.out, v.close, h.out, h.h, h.stack, h.limit, ?_, by rw [h.src]⟩
    rw [Engine.close_key, h.key]
    rfl
  have goes (p : plain) (within : base ≤ e.limit) (out : f 20 19 = 0) {v : Engine}
      (next : microNext s w a 0 false { e with base := base } = v) (win : List Byte) :
      (microStep s w win a e).spend (f 127 126 + 1) s.stepLimit = v.spend (f 127 126 + 1) s.stepLimit :=
    congrArg (Engine.spend · _ _) ((microStep_goes (isPlain p) run within out).trans next)
  have ended {v : Engine} {c : Nat} (out : v.out = some c) : v.spend (f 127 126 + 1) s.stepLimit = v := Engine.andThen_ended out _
  have counted {v : Engine} (few : clocks ≤ s.stepLimit) (runs : v.out = none) (same : v.clocks = e.clocks) :
      v.spend (f 127 126 + 1) s.stepLimit = { v with clocks := v.clocks + (f 127 126 + 1) } :=
    Engine.spend_within runs (by rw [same]; exact few)
  refine ⟨fun p beyond => ?_, fun p within out few => ?_, fun p within out few => ⟨fun jump => ?_, fun falls more => ?_,
    fun falls last => ?_, fun ret empty => ?_⟩, fun p within out jump many => ?_, ?_⟩
  · refine endsAs (fun win => ?_) (v := e.finish truncated) (.moved ..)
    rw [microStep_beyond (isPlain p) run beyond, ended rfl]
  · refine endsAs (fun win => ?_) (v := { e with base := base, out := some (16 * f 20 19 + f 18 15) }) (.moved ..)
    rw [microStep_ends (isPlain p) run within out]
    exact ended rfl
  · exact exec_loupeWord_runs there run pc customer
      (fun win => (goes p within out (microNext_jump jump) win).trans (counted few run rfl)) run
  · exact exec_loupeWord_runs there run pc customer
      (fun win => (goes p within out (microNext_fall falls run more) win).trans (counted few run rfl)) run
  · exact endsAs (fun win => (goes p within out (microNext_last falls run last) win).trans (ended rfl))
      (.moved ..)
  · exact endsAs (fun win => (goes p within out (microNext_ret ret empty) win).trans (ended rfl))
      (.moved ..)
  · exact endsAs (fun win => (goes p within out (microNext_jump jump) win).trans (Engine.spend_beyond (by exact run) many))
      (.moved ..)
  · obtain ⟨engines, csUe, csErr, counters⟩ := storeEcc_uncorrectable s a
    refine ⟨_, exec_loupeWord_uncorrectable there run pc customer, (e.finish microFault).close, rfl, ?_, csUe, csErr, ?_⟩
    · exact congrArg (fun m => sput [] m pipe.val (lset (sget [] m pipe) k (e.finish microFault).close)) engines
    · exact congrArg (fun m => smod 0 m (outcomeCounter e.src microFault) (· + 1)) counters

end

section
/-! SUPPORT. The Classifier's walk (R136, R145, R148, R164, R165, R195): the pin of a first pass, the nodes read from the tree-top cache,
and the delivery of an item. -/

namespace Sys2Proof.Machine

open Host

/-! ### The pin of a first pass (R164, R165) -/

section accept
variable {s : State} {lane : Fin 2} {k : Nat} {c : ClsCtx}

theorem exec_clsResultAccept_first (next : s.arrivedAt lane = some k) (there : (s.lane lane)[k]? = some c) (live : s.dev ≠ .frozen)
    (first : c.r.recirc = false) (room : s.fixFull = false) : exec (.clsResultAccept lane) s = .next (pinFirst s lane k c) := by
  change execClsResultAccept lane s = _
  simp only [execClsResultAccept, next, there, live, first, room, Bool.false_eq_true, if_false]

/-- R136: the class map's entry names a tree. -/
theorem startWalk_tree {n : Nat} (tree : s.mapEntry c / 2 ^ 30 % 4 = 1) : startWalk s n k c = s.setCtx n k { c with
    phase := .walk (s.mapEntry c % 2 ^ 30 % 16) (s.treeWord c.slot (s.mapEntry c % 2 ^ 30 % 16) 0) 0 } := by
  have kind : nbits (s.mapEntry c) 31 30 = 1 := tree
  have target : nbits (s.mapEntry c) 29 0 = s.mapEntry c % 2 ^ 30 := by simp [nbits]
  simp only [startWalk, kind, target]

theorem activateSlot_kept (idle : (s.slot k).pending = false) : activateSlot s k = s := if_neg (by rw [idle]; decide)

theorem reserveEntry_room (room : s.fixFull = false) (h : Nat) (p : Pkt) (slot : Nat) (clamped : Bool) : ∃ v : FixEntry,
    reserveEntry s h p slot clamped = some (lowestFree 0 s.fix.entries, takeRef (s.setEntry (lowestFree 0 s.fix.entries) v) slot) ∧
      v.ots = p.ots ∧ v.st = .inflight ∧ v.keyed = false ∧ v.handle = BitVec.ofNat 32 h ∧ v.eslot = slot ∧ v.clamped = clamped :=
  ⟨_, if_neg (by rw [room]; decide), rfl, rfl, rfl, rfl, rfl, rfl⟩

end accept

/-! ### Nodes (R145, R148) -/

section walk
variable {s : State} {lane : Fin 2} {k : BitVec 11} {c : ClsCtx} {t n reads : Nat}

/-- R148: a line of the tree-top cache is read without HBM. -/
theorem clsLine_cached (cached : n < 131072) : s.clsLine n = some (readBytes s.cls.cache (64 * n) 64) := if_pos cached

theorem countLine_cached (cached : n < 131072) : countLine s n = s := if_pos cached

theorem readLine_cached (cached : n < 131072) : readLine s n .good = (s, some (readBytes s.cls.cache (64 * n) 64)) := by
  simp [readLine, countLine_cached cached, clsLine_cached cached]

theorem exec_clsLineReturn_cached (there : (s.lane lane)[k.toNat]? = some c) (phase : c.phase = .walk t n reads) (cached : n < 131072) :
    exec (.clsLineReturn lane k .good) s = .next (walkResult s lane k.toNat c t (reads + 1)
      (walkNode c.r.key (nodeOf (readBytes s.cls.cache (64 * n) 64)))) := by
  change execClsLineReturn lane k .good s = _
  simp only [execClsLineReturn, there, phase, readLine_cached cached]

theorem walkNode_rule_passes {key : SMap Byte} {tests : List KeyTest} {alt next rule : Nat} (more : Bool)
    (passes : ∀ x ∈ tests, keyField key x.off x.width &&& x.mask = x.value) :
    walkNode key (.rule tests more alt next rule) = if more then .go next else .hit next rule :=
  if_pos (List.all_eq_true.2 fun x hx => beq_iff_eq.2 (passes x hx))

/-- R142: a test that fails leads to ALT. -/
theorem walkNode_rule_fails {key : SMap Byte} {tests : List KeyTest} {alt next rule : Nat} (more : Bool)
    (fails : ¬∀ x ∈ tests, keyField key x.off x.width &&& x.mask = x.value) (there : alt ≠ 0xFFFFFFFF) :
    walkNode key (.rule tests more alt next rule) = .go alt :=
  (if_neg fun all => fails fun x hx => beq_iff_eq.1 (List.all_eq_true.1 all x hx)).trans (if_neg there)

end walk

/-! ### CLS_DELIVER (R132, R195) -/

theorem exec_clsDeliver {s : State} {lane : Fin 2} {k : BitVec 11} {c : ClsCtx} (there : (s.lane lane)[k.toNat]? = some c)
    (done : c.phase = .done) : exec (.clsDeliver lane k) s =
      if decide (bits (wordOf c.item 0) 3 0 = 1) = true ∨ s.stopped (bits (wordOf c.item 0) 7 4) = false then
        .next ((s.setDlr { s.dlr with inbox := s.dlr.inbox ++ [{
          w := c.item, att := c.att, since := s.now, slow := decide (bits (wordOf c.item 0) 3 0 = 1), late := false, seq := 0 }] }).dropCtx
            lane k.toNat)
      else .next s := by
  change execClsDeliver lane k s = _
  by_cases slow : bits (wordOf c.item 0) 3 0 = 1
  · simp [execClsDeliver, there, done, slow]
  · cases stop : s.stopped (bits (wordOf c.item 0) 7 4) <;> simp [execClsDeliver, there, done, slow, stop]

end Sys2Proof.Machine

open Sys2Proof Sys2Proof.Machine Host

theorem packetsArePinnedAndWalk : Claim.PacketsArePinnedAndWalk := by
  intro s lane k c there p moves
  refine ⟨fun slot next live first room chosen active => ?_, fun t n reads phase cached => ?_, fun done => ?_⟩
  · intro m tree
    obtain ⟨v, reserved, ots, st, keyed, handle, eslot, clamped⟩ := reserveEntry_room room c.r.h p slot false
    refine ⟨_, exec_clsResultAccept_first next there live first room, v, { c with
      entry := lowestFree 0 s.fix.entries, slot := slot, clamped := false, pass := 0, meterLen := c.r.frameLen
      phase := .walk (m % 2 ^ 30 % 16) (s.treeWord slot (m % 2 ^ 30 % 16) 0) 0 }, ?_⟩
    have pinned : pinFirst s lane k.toNat c = startWalk ((takeRef (s.setEntry (lowestFree 0 s.fix.entries) v) slot).setPkt c.r.h
        { (takeRef (s.setEntry (lowestFree 0 s.fix.entries) v) slot).pkt c.r.h with
          slot := slot, clamped := false, entry := lowestFree 0 s.fix.entries, pass := 0, stack := c.r.stack }) lane k.toNat
        { c with entry := lowestFree 0 s.fix.entries, slot := slot, clamped := false, pass := 0, meterLen := c.r.frameLen } := by
      rw [pinFirst, chosen]
      simp only [activateSlot_kept active, Bool.false_eq_true, if_false]
      rw [reserved]
    rw [pinned, startWalk_tree (by exact tree)]
    exact ⟨rfl, ots, st, keyed, handle, eslot, clamped, rfl, rfl, rfl, rfl, rfl, rfl, rfl, rfl⟩
  · intro node goes
    have run {step : WalkStep} (node_eq : walkNode c.r.key node = step) :
        exec (.clsLineReturn lane k .good) s = .next (walkResult s lane k.toNat c t (reads + 1) step) :=
      node_eq ▸ exec_clsLineReturn_cached there phase cached
    have goesOn {m : Nat} (node_eq : walkNode c.r.key node = .go m) : goes m := by
      have step := run node_eq
      by_cases limit : s.walkLimit ≤ reads + 1
      · exact (if_pos limit).mpr (step.trans (congrArg _ (if_pos limit)))
      · exact (if_neg limit).mpr (step.trans (congrArg _ (if_neg limit)))
    refine ⟨fun m e => goesOn (e ▸ rfl), fun off w child e => goesOn (e ▸ rfl), fun off w child bounds e => goesOn (e ▸ rfl),
      fun tests more alt next rule e =>
        ⟨fun passes go => goesOn ?_, fun passes hit => run (step := .hit next rule) ?_, fun fails other => goesOn ?_⟩,
      fun e list => ?_, fun e none => ?_, fun e => run (step := .fault) (e ▸ rfl)⟩
    · rw [e, walkNode_rule_passes more passes, if_pos go]
    · rw [e, walkNode_rule_passes more passes, hit]; rfl
    · rw [e, walkNode_rule_fails more fails other]
    · exact (run (step := .miss) (e ▸ rfl)).trans (congrArg _ (if_neg list))
    · exact (run (step := .miss) (e ▸ rfl)).trans (congrArg _ (if_pos none))
  · have run := exec_clsDeliver there done
    refine ⟨fun may => run.trans (if_pos may), fun quick stop => run.trans (if_neg ?_)⟩
    rintro (isSlow | goes)
    · exact Bool.false_ne_true (quick.symm.trans isSlow)
    · exact Bool.false_ne_true (goes.symm.trans stop)

end

section
/-! SUPPORT. Meters (R363, R365): the fill of the buckets, and the colours of RFC 2697 and RFC 2698. -/

namespace Sys2Proof.Machine

open Host

/-! ### The buckets and the colour (R365) -/

section meter
variable {m : Meter} {now b c : Nat}

/-- R365: what the committed bucket of the single rate cannot hold goes to the excess bucket (RFC 2697); with two rates each bucket fills at
its own (RFC 2698). -/
theorem fillMeter_eq : fillMeter m now = { m with
    tc := min (256 * m.cbs) (m.tc + m.cir * (now - m.last) / 500000)
    te := min (256 * m.ebs) (if m.two = true then m.te + m.pir * (now - m.last) / 500000
      else m.te + (m.tc + m.cir * (now - m.last) / 500000 - min (256 * m.cbs) (m.tc + m.cir * (now - m.last) / 500000)))
    last := max m.last now } := by
  cases rates : m.two with
  | false => exact (if_neg (by rw [rates]; decide)).trans (by rw [if_neg Bool.false_ne_true, rates]; rfl)
  | true => exact (if_pos rates).trans (by rw [if_pos rfl, rates]; rfl)

theorem colourMeter_single (single : m.two = false) : colourMeter m b c =
    if c = 0 ∧ b ≤ m.tc then ({ m with tc := m.tc - b }, 0)
    else if c < 2 ∧ b ≤ m.te then ({ m with te := m.te - b }, 1) else (m, 2) :=
  if_neg (by rw [single]; decide)

theorem colourMeter_two (two : m.two = true) : colourMeter m b c =
    if c = 2 ∨ m.te < b then (m, 2) else if c = 1 ∨ m.tc < b then ({ m with te := m.te - b }, 1)
    else ({ m with te := m.te - b, tc := m.tc - b }, 0) := if_pos two

end meter

/-! ### METER_OP -/

section run
variable {s s1 : State} {i : Nat} {l : List Byte} (read : hbmRead s (s.meterAddr i) 64 = (s1, some l))

include read

theorem runMeter_disabled (off : (meterOf l).en = false) (aware : Bool) (colour len : Nat) :
    runMeter s i aware colour len = (s1, if aware then colour else 0) := by
  simp only [runMeter, read, off, Bool.not_false, if_true]

theorem runMeter_enabled (on : (meterOf l).en = true) {aware : Bool} {colour len tc te given : Nat}
    (colours : colourMeter (fillMeter (meterOf l) s.nowN) (256 * ((len : Int) + (meterOf l).adj).toNat) (if aware then colour else 0) =
      ({ meterOf l with tc := tc, te := te, last := max (meterOf l).last s.nowN }, given)) : runMeter s i aware colour len =
        (hbmWrite s1 (s.meterAddr i + 20) (leBytes 4 tc ++ leBytes 4 te ++ leBytes 8 (max (meterOf l).last s.nowN)), given) := by
  simp only [runMeter, read, on, Bool.not_true, Bool.false_eq_true, if_false, colours, Meter.tail]

end run

theorem exec_meterOp {s s2 : State} {lane : Fin 2} {k : BitVec 11} {c : ClsCtx} {aware : Bool} {i colour : Nat} {rest : List ColourOp}
    {next : AfterMeters} (there : (s.lane lane)[k.toNat]? = some c) (phase : c.phase = .meters (.meter aware i :: rest) next)
    (meter : runMeter s i aware c.colour c.meterLen = (s2, colour)) :
    exec (.meterOp lane k) s = .next (nextMeter s2 lane k.toNat c rest colour next) := by
  change execMeterOp lane k s = _
  simp only [execMeterOp, there, phase, meter]

end Sys2Proof.Machine

open Sys2Proof Sys2Proof.Machine Host

theorem metersColourPackets : Claim.MetersColourPackets := by
  intro s lane k c aware i rest next l there phase a s1 read m c0 b dt add tc te gives
  have run (tc' te' colour : Nat) (on : m.en = true)
      (colours : colourMeter (fillMeter m s.nowN) b c0 = ({ m with tc := tc', te := te', last := max m.last s.nowN }, colour)) :
      gives tc' te' colour := exec_meterOp there phase (runMeter_enabled read on colours)
  have disabled : m.en = false → exec (.meterOp lane k) s = .next (nextMeter s1 lane k.toNat c rest c0 next) := fun off =>
    exec_meterOp there phase (runMeter_disabled read off aware _ _)
  clear_value c0 m
  have filled : fillMeter m s.nowN = { m with tc := tc, te := te, last := max m.last s.nowN } := fillMeter_eq
  clear_value te tc b
  rw [filled] at run
  refine ⟨disabled, fun on single => ?_, fun on two => ?_⟩
  · rw [colourMeter_single (by exact single)] at run
    refine ⟨fun green enough => run _ _ 0 on (if_pos ⟨green, enough⟩), fun yellow short enough => run _ _ 1 on ?_,
      fun short dry => run _ _ 2 on ?_⟩
    · exact (if_neg short).trans (if_pos ⟨yellow, enough⟩)
    · exact (if_neg short).trans (if_neg dry)
  · rw [colourMeter_two (by exact two)] at run
    refine ⟨fun red => run _ _ 2 on (if_pos red), fun notRed enough short => run _ _ 1 on ?_,
      fun notRed notYellow enough committed => run _ _ 0 on ?_⟩
    · exact (if_neg (not_or.2 ⟨notRed, Nat.not_lt.2 enough⟩)).trans (if_pos short)
    · exact (if_neg (not_or.2 ⟨notRed, Nat.not_lt.2 enough⟩)).trans (if_neg (not_or.2 ⟨notYellow, Nat.not_lt.2 committed⟩))

end

section
/-! SUPPORT. Action lists (R151, R157–R159, R165): the lists that cannot be evaluated, the list of one DISPATCH, and the item it
leaves. -/

namespace Sys2Proof.Machine

open Host

/-! ### Fields of a built word (R7) -/

theorem bits_or (a b : Word) (hi lo : Nat) : bits (a ||| b) hi lo = bits a hi lo ||| bits b hi lo := by
  refine Nat.eq_of_testBit_eq fun i => ?_
  have both : bitAt (a ||| b) (lo + i) = (bitAt a (lo + i) || bitAt b (lo + i)) := BitVec.getLsbD_or
  rw [Nat.testBit_or, testBit_bits, testBit_bits, testBit_bits, both, Bool.and_or_distrib_left]

theorem bitAt_at' {v p i : Nat} (word : i < 32) : bitAt (at' v p) i = (decide (p ≤ i) && v.testBit (i - p)) := by
  rw [bitAt, at', BitVec.toNat_ofNat, Nat.testBit_mod_two_pow, decide_eq_true word, Bool.true_and, Nat.testBit_mul_two_pow]

/-- A number that fits a field is read back from it. -/
theorem bits_at' {v hi lo : Nat} (word : hi < 32) (fits : v < 2 ^ (hi + 1 - lo)) : bits (at' v lo) hi lo = v := by
  refine Nat.eq_of_testBit_eq fun i => ?_
  rw [testBit_bits]
  by_cases inside : i < hi + 1 - lo
  · rw [decide_eq_true inside, bitAt_at' (by omega), decide_eq_true (by omega), Bool.true_and, Bool.true_and, Nat.add_sub_cancel_left]
  · rw [decide_eq_false inside, Bool.false_and, Nat.testBit_lt_two_pow (fits.trans_le (Nat.pow_le_pow_right (by omega) (by omega)))]

/-- A number above a field leaves it 0. -/
theorem bits_at'_above {v p hi lo : Nat} (word : hi < 32) (above : hi < p) : bits (at' v p) hi lo = 0 := by
  refine Nat.eq_of_testBit_eq fun i => ?_
  rw [testBit_bits, Nat.zero_testBit]
  by_cases inside : i < hi + 1 - lo
  · rw [decide_eq_true inside, bitAt_at' (by omega), decide_eq_false (by omega), Bool.false_and, Bool.and_false]
  · rw [decide_eq_false inside, Bool.false_and]

/-- A number that ends below a field leaves it 0. -/
theorem bits_at'_below {v p hi lo : Nat} (word : hi < 32) (below : v < 2 ^ (lo - p)) : bits (at' v p) hi lo = 0 := by
  refine Nat.eq_of_testBit_eq fun i => ?_
  rw [testBit_bits, Nat.zero_testBit]
  by_cases inside : i < hi + 1 - lo
  · rw [bitAt_at' (by omega), Nat.testBit_lt_two_pow (below.trans_le (Nat.pow_le_pow_right (by omega) (by omega))), Bool.and_false,
      Bool.and_false]
  · rw [decide_eq_false inside, Bool.false_and]

theorem bits_putBits_apart {m : Word} {hi lo : Nat} (apart : ∀ i < hi + 1 - lo, bitAt m (lo + i) = false) (w v : Word) :
    bits (putBits w m v) hi lo = bits w hi lo := by
  refine Nat.eq_of_testBit_eq fun i => ?_
  rw [testBit_bits, testBit_bits]
  by_cases inside : i < hi + 1 - lo
  · rw [bitAt_putBits, apart i inside, if_neg Bool.false_ne_true]
  · rw [decide_eq_false inside, Bool.false_and, Bool.false_and]

/-! ### Contexts -/

theorem getElem?_lset_self {α : Type} {l : List α} {i : Nat} {x : α} (h : l[i]? = some x) (v : α) : (lset l i v)[i]? = some v := by
  induction l generalizing i with
  | nil => simp at h
  | cons y l ih => cases i with
    | zero => rfl
    | succ i => exact ih h

section contexts
variable {s : State} {n k : Nat} {c : ClsCtx} (there : (s.lane n)[k]? = some c)

include there

theorem lset_ctx_ne_nil (v : ClsCtx) : lset (s.lane n) k v ≠ [] := fun empty => by
  have := getElem?_lset_self there v
  rw [empty] at this
  simp at this

theorem lane_setCtx (v : ClsCtx) : (s.setCtx n k v).lane n = lset (s.lane n) k v := sget_sput_self (lset_ctx_ne_nil there v) _ _

theorem setCtx_setCtx (v w : ClsCtx) : (s.setCtx n k v).setCtx n k w = s.setCtx n k w := by
  rw [State.setCtx, lane_setCtx there, lset_lset]
  exact congrArg (fun l => s.setCls { s.cls with lanes := l }) (sput_sput (lset_ctx_ne_nil there v) _ _ _)

end contexts

/-! ### Evaluation (R151, R156) -/

section list
variable {s : State} {line : Nat} {e : Edited}

/-- R151: a list without its actions is a fault. -/
theorem evalList_none (none : (s.listEntries line).bind actsOf = Option.none) : evalList s line e = ([], .fault) := by
  rw [evalList, none]

theorem actsOf_eq_singleton {es : List Nat} {a : Act} (h : actsOf es = some [a]) : ∃ x, es = [x] ∧ actOf x = some a := by
  match es with
  | [] => simp [actsOf] at h
  | [x] => cases hx : actOf x <;> simp [actsOf, hx] at h; exact ⟨x, rfl, by rw [hx, h]⟩
  | x :: y :: es =>
    cases hx : actOf x <;> cases hy : actOf y <;> cases hs : actsOf es <;> simp [actsOf, hx, hy, hs] at h

variable {g q prog : Nat} (acts : (s.listEntries line).bind actsOf = some [.dispatch g q prog])

include acts

theorem evalList_dispatch (long : 14 ≤ e.bytes.length) (short : e.bytes.length ≤ 16383) :
    evalList s line e = ([.dispatch g q prog], .ok e) := by
  have fits : ¬(e.bytes.length < 14 ∨ 16383 < e.bytes.length) := by omega
  simp only [evalList, acts]
  exact (if_pos rfl).trans (congrArg (_, ·) (if_neg fits))

/-- R154: a list with no PUSH_HDR reads its own line alone. -/
theorem linesOf_dispatch (cached : line < 131072)
    (one : (takeEntries (lineEntries (readBytes s.cls.cache (64 * line) 64))).isSome = true) : s.linesOf line = [line] := by
  obtain ⟨es, entries, only⟩ := Option.bind_eq_some_iff.1 acts
  obtain ⟨x, rfl, act⟩ := actsOf_eq_singleton only
  simp [State.linesOf, clsLine_cached cached, one, entries, act]

end list

/-! ### The result and the item (R157, R165, R173) -/

/-- R165: the key of a keyed entry is delivered already; only its class, its colour and the packet's floor change. -/
theorem deliverResult_keyed {s : State} {c : ClsCtx} {v : FixEntry} (found : s.fixEntry c.entry = some v) (keyed : v.keyed = true)
    (domain : Option Nat) (klass colour : Nat) :
    ∃ fix pkts, deliverResult s c domain klass colour = ({ s with fix := fix, pkts := pkts }, true) := by
  have delivered (key : BitVec 24) (kl : BitVec 3) (co : BitVec 2) : deliverKey s c.entry key kl co =
      (s.setPkt v.handle.toNat { s.pkt v.handle.toNat with floor := false }, true) := by
    simp only [deliverKey, found, keyed, if_true]
  have same : (s.setPkt v.handle.toNat { s.pkt v.handle.toNat with floor := false }).fixEntry c.entry = some v := found
  refine ⟨(setEntryClass (s.setPkt v.handle.toNat { s.pkt v.handle.toNat with floor := false }) c.entry klass colour).fix,
    sput Pkt.none s.pkts v.handle.toNat { s.pkt v.handle.toNat with floor := false }, ?_⟩
  simp only [deliverResult, delivered, if_true, setEntryClass, same]
  rfl

/-- The context as its item goes to the Dealer: the item's colour is set last (R157). -/
def itemCtx (s : State) (c : ClsCtx) (status : Nat) (rule : Word) (p : Proposal) : ClsCtx :=
  { c with
    phase := .done
    item := lset (workItem s c false status rule p) 0 (putBits (wordOf (workItem s c false status rule p) 0) (mask 24 23) (at' 0 23))
    att := { key := c.r.key, stack := (s.pkt c.r.h).stack, outs := p.outs } }

/-- R157: the colour goes to the packet's entry and to its item. -/
theorem finishMeters_item (s : State) (n k : Nat) (c : ClsCtx) (colour : Nat) : ∃ fix, finishMeters s n k c colour .item =
    { s with fix := fix }.setCtx n k
      { c with phase := .done, item := lset c.item 0 (putBits (wordOf c.item 0) (mask 24 23) (at' colour 23)) } := by
  unfold finishMeters
  dsimp only
  split <;> exact ⟨_, rfl⟩

/-- R157: with no colour step left the context is done at once. -/
theorem endList_item {s : State} {n k : Nat} {c : ClsCtx} (there : (s.lane n)[k]? = some c) {as : List Act} (noColour : colourOps as = [])
    {x : ListSummary} (quick : x.slow = none) (status : Nat) (rule : Word) : ∃ fix, endList s n k c status rule x as .item =
      { s with fix := fix }.setCtx n k (itemCtx s c status rule { x.prop with sreason := 0 }) := by
  let c1 : ClsCtx := { c with
    phase := .done
    item := workItem s c false status rule { x.prop with sreason := 0 }
    att := { key := c.r.key, stack := (s.pkt c.r.h).stack, outs := x.prop.outs } }
  have ended : endList s n k c status rule x as .item = finishMeters (s.setCtx n k c1) n k c1 0 .item := by
    have mine : ((s.setCtx n k c1).lane n)[k]? = some c1 := by rw [lane_setCtx there, getElem?_lset_self there]
    rw [endList, if_pos rfl, noColour, quick]
    change nextMeter (s.setCtx n k c1) n k ((((s.setCtx n k c1).lane n)[k]?).getD c) [] 0 .item = _
    rw [mine]
    rfl
  obtain ⟨fix, finished⟩ := finishMeters_item (s.setCtx n k c1) n k c1 0
  exact ⟨fix, (ended.trans finished).trans (setCtx_setCtx (s := { s with fix := fix }) there c1 _)⟩

/-- R158: the word of a DISPATCH. -/
def dispatchWord (g q prog : Nat) : Word := at' g 28 ||| at' q 24 ||| at' prog 0

section head
variable {g q prog : Nat} (group : g < 16) (prio : q < 16) (program : prog < 256)

include group prio program

theorem bits_dispatchWord : bits (dispatchWord g q prog) 31 28 = g ∧ bits (dispatchWord g q prog) 27 24 = q ∧
    bits (dispatchWord g q prog) 7 0 = prog := by
  simp (disch := omega) only [dispatchWord, bits_or, bits_at', bits_at'_above, bits_at'_below, Nat.zero_or, Nat.or_zero, and_self]

/-- R173: the first word of an item that a DISPATCH alone has made. -/
theorem bits_item (s : State) (c : ClsCtx) (status : Nat) (rule : Word) :
    let w := wordOf (itemCtx s c status rule { Proposal.none with dispatch := dispatchWord g q prog }).item 0
    bits w 3 0 = 0 ∧ bits w 7 4 = g ∧ bits w 11 8 = q ∧ bits w 19 12 = prog := by
  intro w
  obtain ⟨hg, hq, hprog⟩ := bits_dispatchWord group prio program
  have head : w =
      putBits (at' 0 0 ||| at' (bits (dispatchWord g q prog) 31 28) 4 ||| at' (bits (dispatchWord g q prog) 27 24) 8 |||
        at' (bits (dispatchWord g q prog) 7 0) 12 ||| at' 0 20 ||| at' 0 23 ||| at' status 25 ||| at' (b2n c.clamped) 29)
        (mask 24 23) (at' 0 23) := rfl
  rw [hg, hq, hprog] at head
  rw [head, bits_putBits_apart (by decide), bits_putBits_apart (by decide), bits_putBits_apart (by decide), bits_putBits_apart (by decide)]
  simp (disch := omega) only [bits_or, bits_at', bits_at'_above, bits_at'_below, Nat.zero_or, Nat.or_zero, and_self]

end head

/-! ### CLS_ACTION_EVAL -/

/-- R172: a result changes counters alone. -/
theorem countResult_only (s : State) (c : ClsCtx) (status : Nat) :
    countResult s c status = { s with counters := (countResult s c status).counters } := by
  unfold countResult
  dsimp only
  split
  · rfl
  · split <;> rfl

section eval
variable {s : State} {lane : Fin 2} {k : BitVec 11} {c : ClsCtx} {line status : Nat} {rule dispatch : Word}
  (there : (s.lane lane)[k.toNat]? = some c) (phase : c.phase = .list line status rule dispatch)

include there phase

theorem exec_clsActionEval_fault (fault : evalList s line (startEdit s c) = ([], .fault)) : exec (.clsActionEval lane k) s =
    .next (endSlow ((s.linesOf line).foldl countLine s) lane k.toNat c csActionFault) := by
  change execClsActionEval lane k s = _
  simp only [execClsActionEval, there, phase, fault]

/-- R157, R158: a DISPATCH alone neither edits nor drops, and leaves an item. -/
theorem exec_clsActionEval_dispatch {g q prog : Nat} {u : State}
    (list : evalList s line (startEdit s c) = ([.dispatch g q prog], .ok (startEdit s c))) (own : (s.linesOf line).foldl countLine s = s)
    (delivers : deliverResult (countResult s c status) c none 0 0 = (u, true)) : exec (.clsActionEval lane k) s =
      .next (endList u lane k.toNat c status rule (summarise dispatch [.dispatch g q prog]) [.dispatch g q prog] .item) := by
  have limits : ([.dispatch g q prog] : List Act).any Act.isEdit = false := rfl
  change execClsActionEval lane k s = _
  simp only [execClsActionEval, there, phase, list, own]
  dsimp only [summarise, List.foldl_cons, List.foldl_nil, sumAct, applyEffects, colourOps, runSets, Proposal.none]
  simp only [limits, Bool.false_eq_true, and_false, if_false]
  rw [delivers]
  rfl

end eval

end Sys2Proof.Machine

open Sys2Proof Sys2Proof.Machine Host

theorem actionListsDispatch : Claim.ActionListsDispatch := by
  intro s lane k c line status rule dispatch there phase cached acts one
  refine ⟨fun none => exec_clsActionEval_fault there phase (evalList_none none),
    fun g q prog v single list group prio program found keyed long short => ?_⟩
  have counted := countResult_only s c status
  have own : (s.linesOf line).foldl countLine s = s := by
    rw [linesOf_dispatch list cached single]
    exact countLine_cached cached
  obtain ⟨fix, pkts, delivers⟩ := deliverResult_keyed (s := countResult s c status) (by rw [counted]; exact found) keyed none 0 0
  obtain ⟨_, ends⟩ := endList_item (s := { countResult s c status with fix := fix, pkts := pkts }) (by rw [counted]; exact there)
    (as := [.dispatch g q prog]) rfl (x := summarise dispatch [.dispatch g q prog]) rfl status rule
  obtain ⟨kind, itsGroup, itsPrio, itsProg⟩ :=
    bits_item group prio program { countResult s c status with fix := fix, pkts := pkts } c status rule
  refine ⟨_, (exec_clsActionEval_dispatch there phase (evalList_dispatch list long short) own delivers).trans (congrArg _ ends),
    itemCtx _ c status rule { Proposal.none with dispatch := dispatchWord g q prog }, ?_, rfl, rfl, rfl,
    kind, itsGroup, itsPrio, itsProg, rfl, rfl, rfl, rfl, ?_, ?_, ?_⟩
  all_goals rw [counted]; rfl

end

section
/-! SUPPORT. Epochs (R41, R164, R167): the slot that becomes CURRENT, and the one that it supersedes. -/

namespace Sys2Proof.Machine

open Host

/-! ### Folds that act at one place -/

theorem foldl_of_fixed {α : Type} {f : State → α → State} {l : List α} {s : State} (fixed : ∀ i ∈ l, f s i = s) :
    l.foldl f s = s := by
  induction l with
  | nil => rfl
  | cons i l ih =>
    obtain ⟨first, rest⟩ := List.forall_mem_cons.1 fixed
    rw [List.foldl_cons, first, ih rest]

theorem foldl_of_once {α : Type} {f : State → α → State} {l : List α} {s : State} {j : α} (distinct : l.Nodup) (mem : j ∈ l)
    (before : ∀ i ∈ l, i ≠ j → f s i = s) (after : ∀ i ∈ l, i ≠ j → f (f s j) i = f s j) : l.foldl f s = f s j := by
  induction l with
  | nil => simp at mem
  | cons i l ih =>
    obtain ⟨absent, rest⟩ := List.nodup_cons.1 distinct
    obtain ⟨beforeHead, beforeRest⟩ := List.forall_mem_cons.1 before
    obtain ⟨-, afterRest⟩ := List.forall_mem_cons.1 after
    rw [List.foldl_cons]
    rcases List.mem_cons.1 mem with rfl | later
    · exact foldl_of_fixed fun k hk => afterRest k hk fun same => absent (same ▸ hk)
    · rw [beforeHead fun same => absent (same ▸ later)]
      exact ih rest later beforeRest afterRest

/-! ### Superseding (R41, R167) -/

theorem slot_setSlot_ne {s : State} {i j : Nat} (other : i ≠ j) (v : FixSlot) : (s.setSlot j v).slot i = s.slot i :=
  (getD_lset s.fix.slots j i v FixSlot.empty).trans (if_neg fun h => other h.1)

/-- R41: slot `j` is CURRENT no longer, and keeps a reference until `due`. -/
def supersede (s : State) (j : Nat) (due : Time) : State :=
  let s1 := s.setSlot j { s.slot j with current := false, refs := (s.slot j).refs + 1 }
  s1.setFix { s1.fix with superseded := sins s.fix.superseded j due }

/-- R167: what becoming CURRENT at slot `k` does to slot `j`. -/
def supersedeFor (k : Nat) (due : Time) (s : State) (j : Nat) : State :=
  if j ≠ k ∧ (s.slot j).live = true ∧ (s.slot j).current = true then supersede s j due else s

/-- R167: slot `k` with the flags of a CURRENT slot, and its event. -/
def enterCurrent (s : State) (k : Nat) (v : FixSlot) : State :=
  (s.setSlot k { v with live := true, current := true, pending := false }).logEvent 0x30 0 (epochData v k)

theorem makeCurrent_eq (s : State) (k : Nat) : makeCurrent s k = enterCurrent
    ((List.range 4).foldl (supersedeFor k ((s.slot k).commit + BitVec.ofNat 64 s.ttl)) s) k (s.slot k) := rfl

section supersede
variable {s : State} {k : Nat} {due : Time}

theorem supersedeFor_idle {j : Nat} (idle : j ≠ k → ¬((s.slot j).live = true ∧ (s.slot j).current = true)) :
    supersedeFor k due s j = s := if_neg fun ⟨other, busy⟩ => idle other busy

theorem supersede_none (idle : ∀ j, j < 4 → j ≠ k → ¬((s.slot j).live = true ∧ (s.slot j).current = true)) :
    (List.range 4).foldl (supersedeFor k due) s = s :=
  foldl_of_fixed fun j hj => supersedeFor_idle (idle j (List.mem_range.1 hj))

/-- R41: of several slots only the one that was CURRENT is superseded. -/
theorem supersede_one {j : Nat} (low : j < 4) (other : j ≠ k) (live : (s.slot j).live = true) (current : (s.slot j).current = true)
    (idle : ∀ i, i < 4 → i ≠ k → i ≠ j → ¬((s.slot i).live = true ∧ (s.slot i).current = true)) :
    (List.range 4).foldl (supersedeFor k due) s = supersede s j due := by
  have acts : supersedeFor k due s j = supersede s j due := if_pos ⟨other, live, current⟩
  have same {i : Nat} (apart : i ≠ j) : (supersede s j due).slot i = s.slot i := slot_setSlot_ne apart _
  rw [foldl_of_once List.nodup_range (List.mem_range.2 low) (fun i hi apart => ?_) (fun i hi apart => ?_), acts]
  · exact supersedeFor_idle fun h => idle i (List.mem_range.1 hi) h apart
  · rw [acts]
    exact supersedeFor_idle fun h => by rw [same apart]; exact idle i (List.mem_range.1 hi) h apart

end supersede

/-! ### EPOCH_COMMIT_TIME (R167) -/

section commit
variable {s : State} {k : BitVec 2}

theorem exec_epochCommitTime_early (early : s.now < (s.slot k.toNat).commit) : exec (.epochCommitTime k) s = .next s :=
  if_neg fun ⟨_, _, due⟩ => BitVec.not_le.2 early due

/-- R164: with no PENDING slot to go first, the slot becomes CURRENT. -/
theorem exec_epochCommitTime_due (live : s.dev ≠ .frozen) (pending : (s.slot k.toNat).pending = true)
    (due : (s.slot k.toNat).commit ≤ s.now) (alone : s.pendingUpTo (s.slot k.toNat).commit = [k.toNat]) :
    exec (.epochCommitTime k) s = .next (makeCurrent s k.toNat) := by
  refine (if_pos ⟨live, pending, due⟩).trans (congrArg _ ?_)
  rw [activateSlot, if_pos pending, alone]
  rfl

end commit

end Sys2Proof.Machine

open Sys2Proof Sys2Proof.Machine Host

theorem epochsBecomeCurrent : Claim.EpochsBecomeCurrent := by
  intro s k live pending v current
  refine ⟨exec_epochCommitTime_early, fun due alone => ?_⟩
  have run := exec_epochCommitTime_due live pending due alone
  rw [makeCurrent_eq] at run
  refine ⟨fun idle => run.trans ?_, fun j low other isLive isCurrent idle => run.trans ?_⟩
  · rw [supersede_none idle]
    rfl
  · rw [supersede_one low other isLive isCurrent idle]
    rfl

/-- Settles O43: the words by what a plain word leaves to do, the walk by what each node says, a list by the item that its DISPATCH
alone builds, the meters by the two algorithms, the epochs by the one slot that is superseded. -/
theorem loupeAndClassifier : Obligations.LoupeAndClassifier :=
  ⟨framesEnterAndLeaveTheLoupe, microwordsRun, packetsArePinnedAndWalk, actionListsDispatch, metersColourPackets, epochsBecomeCurrent⟩

end

section
/-! SUPPORT. Commands for rings and tenants (R441, R442, R462, R469, R471): an accepted command answers what its body comes to, and each
check of a body by the status it fails with. -/

namespace Sys2Proof.Machine

open Host

/-! ### Accepted commands (R29, R537) -/

section accepted
variable {s t : State} {p : CmdPort} {d : Desc} {op : Nat} {o : CmdOutcome}

/-- R537: past the common checks, the row of an opcode answers the outcome of that opcode's body. -/
theorem commandRow_accepted (h : s.accepts p d op) {data : List Byte} {ok : Bool} (body : commandBody s p d data ok = o) :
    commandRow op p d data ok s = .next (answerCommand p d o) := by
  rw [commandRow, if_pos ⟨h.opcode, h.served⟩, runCommand, h.checks, body]

theorem commandRow_answers (h : s.accepts p d op) {data : List Byte} {ok : Bool} (body : commandBody s p d data ok = o) {r : CmdResult}
    (e : o = (t, some r)) : commandRow op p d data ok s = .next (completeCmd t p d r) :=
  commandRow_accepted h (body.trans e)

/-- R537: an accepted command came with an authority that its rule permits. -/
theorem State.accepts.permitted (h : s.accepts p d op) {rule : CmdRule} (hr : cmdRule op = some rule) :
    rule.permits (authorityOf p) = true := by
  rw [← h.opcode] at hr
  by_contra denied
  have refused : commandRefusal s p d ≠ none := by
    by_cases out : s.dev = .frozen ∧ runsFrozen (opcodeOf d) = false
    · simp [commandRefusal_frozen hr out.1 out.2]
    · simp [commandRefusal_denied hr out (by simpa using denied)]
  exact refused h.checks

end accepted

section rows
variable {s t : State} {p : CmdPort} {d : Desc} {r : CmdResult}

theorem answers_ringCreate (h : s.accepts p d 0x0001) (e : ringCreate s (fnOf p) d = (t, some r)) :
    Answers (.ringCreate p d) s p d t r :=
  commandRow_answers h (by rw [commandBody, h.opcode]; rfl) e

theorem answers_cqCreate (h : s.accepts p d 0x0002) (e : cqCreate s (fnOf p) d = (t, some r)) : Answers (.cqCreate p d) s p d t r :=
  commandRow_answers h (by rw [commandBody, h.opcode]; rfl) e

theorem answers_ringDestroy (h : s.accepts p d 0x0003) (e : ringDestroy s p (fnOf p) d = (t, some r)) :
    Answers (.ringDestroy p d) s p d t r :=
  commandRow_answers h (by rw [commandBody, h.opcode]; rfl) e

/-- R469: RING_DESTROY may complete later. -/
theorem exec_ringDestroy (h : s.accepts p d 0x0003) :
    exec (.ringDestroy p d) s = .next (answerCommand p d (ringDestroy s p (fnOf p) d)) :=
  commandRow_accepted h (by rw [commandBody, h.opcode]; rfl)

theorem answers_vfConfig (h : s.accepts p d 0x0004) (e : vfConfig s (fnOf p) d = (t, some r)) : Answers (.vfConfig p d) s p d t r :=
  commandRow_answers h (by rw [commandBody, h.opcode]; rfl) e

end rows

theorem aligned4K_iff (a : Nat) : aligned4K a = true ↔ a % 4096 = 0 := beq_iff_eq

theorem aligned4K_eq_false (a : Nat) : aligned4K a = false ↔ a % 4096 ≠ 0 := by rw [← Bool.not_eq_true, aligned4K_iff]

/-! ### RING_CREATE (R442, R462) -/

/-- R462: the type that an RTYPE other than 3 names. -/
def namedType (typ : Nat) : RingType := if typ = 0 then .tx else if typ = 1 then .rx else .cmd

/-- R462: RTYPE is a field of two bits, of which 3 is reserved. -/
theorem ringTypeOf_rtype (w : Word) :
    ringTypeOf (bits w 17 16) = if bits w 17 16 = 3 then none else some (namedType (bits w 17 16)) := by
  have low : bits w 17 16 < 4 := Nat.mod_lt _ (by decide)
  generalize bits w 17 16 = typ at low
  match typ with
  | 0 | 1 | 2 | 3 => rfl

theorem otherTypeFields_namedType (typ : Nat) (w : Word) : otherTypeFields (namedType typ) w = true ↔
    if typ = 0 then bits w 26 17 = 0 else if typ = 1 then bits w 16 14 = 0 ∧ bits w 26 18 = 0
      else bits w 17 14 = 0 ∧ (bitAt w 18 = true ∨ bits w 26 19 = 0) := by
  unfold namedType
  split
  · simp [otherTypeFields]
  · split <;> simp [otherTypeFields]

section ringCreate
variable {s : State} {fn : Nat} {d : Desc}

theorem ringCreate_badType (h : ringTypeOf (bits d.w2 17 16) = none ∨
    ∃ t, ringTypeOf (bits d.w2 17 16) = some t ∧ otherTypeFields t d.w3 = false) : ringCreate s fn d = fails s stBadField := by
  rcases h with none | ⟨t, some, bad⟩
  · simp only [ringCreate, none]
  · simp only [ringCreate, some, bad, Bool.not_false, if_true]

variable {t : RingType} (type : ringTypeOf (bits d.w2 17 16) = some t) (fields : otherTypeFields t d.w3 = true)

include type fields

theorem ringCreate_outOfRange (out : s.ringInRange fn (bits d.w2 15 0) = false ∨ s.cqInRange fn (bits d.w3 13 0) = false) :
    ringCreate s fn d = fails s stOutOfRange := by
  simp only [ringCreate, type, fields, Bool.not_true, Bool.false_eq_true, if_false, Bool.not_eq_true', out, if_true]

variable (ring : s.ringInRange fn (bits d.w2 15 0) = true) (cq : s.cqInRange fn (bits d.w3 13 0) = true)

include ring cq

theorem ringCreate_badField (bad : ¬(bits d.w2 21 18 ≤ 10 ∧ wideOf d % 4096 = 0)) : ringCreate s fn d = fails s stBadField := by
  have check : 10 < bits d.w2 21 18 ∨ (!aligned4K (wideOf d)) = true := by
    rw [Bool.not_eq_true', aligned4K_eq_false]
    omega
  simp only [ringCreate, type, fields, ring, cq, Bool.not_true, Bool.false_eq_true, or_self, if_false, check, if_true]

variable (sound : bits d.w2 21 18 ≤ 10 ∧ wideOf d % 4096 = 0)

include sound

theorem ringCreate_sound : ringCreate s fn d = if (s.hring fn (bits d.w2 15 0)).isSome ∨ (s.hcq fn (bits d.w3 13 0)).isNone
    then fails s stBadState
    else succeeds (s.setHring fn (bits d.w2 15 0)
      { HRing.new t (bits d.w2 21 18) (bits d.w3 13 0) (wideOf d) (bits d.w6 15 0) with
        prio := bits d.w3 16 14, nobuf := bitAt d.w3 17, core := bitAt d.w3 18, group := bits d.w3 22 19
        dprio := bits d.w3 26 23 }) 0 := by
  obtain ⟨size, base⟩ := sound
  simp only [ringCreate, type, fields, ring, cq, Bool.not_true, Bool.false_eq_true, or_self, if_false, Nat.not_lt.2 size,
    (aligned4K_iff _).2 base]

end ringCreate

/-! ### CQ_CREATE (R442, R464) -/

theorem cqCreate_eq (s : State) (fn : Nat) (d : Desc) : cqCreate s fn d =
    if s.cqInRange fn (bits d.w2 13 0) = false ∨ (4 ≤ fn ∧ bitAt d.w3 11 = true ∧ (s.fn fn).vectors ≤ bits d.w3 10 0)
      then fails s stOutOfRange
    else if 10 < bits d.w2 17 14 ∨ bits d.w3 19 12 = 0 ∨ wideOf d % 4096 ≠ 0 ∨ (fn < 4 ∧ bitAt d.w3 11 = true ∧ bits d.w3 10 0 = 0)
      then fails s stBadField
    else if (s.hcq fn (bits d.w2 13 0)).isSome then fails s stBadState
    else succeeds (s.setCq fn (bits d.w2 13 0) (Cq.new (bits d.w2 17 14) (wideOf d) (bits d.w3 10 0) (bitAt d.w3 11) (bits d.w3 19 12)
      (bits d.w3 31 20))) 0 := by
  simp only [cqCreate, Bool.not_eq_true', aligned4K_eq_false]

/-! ### RING_DESTROY (R469) -/

section ringDestroy
variable {s : State} {p : CmdPort} {fn : Nat} {d : Desc}

theorem ringDestroy_cq (kind : bitAt d.w2 16 = true) (range : s.cqInRange fn (bits d.w2 15 0) = true)
    (there : s.hcq fn (bits d.w2 15 0) ≠ none) :
    ringDestroy s p fn d = if s.cqNamed fn (bits d.w2 15 0) then fails s stBadState
      else succeeds (s.setHqe { s.hqe with cqs := sdel s.hqe.cqs (ringKey fn (bits d.w2 15 0)) }) 0 := by
  simp only [ringDestroy, kind, range, Option.isNone_eq_false_iff.2 (Option.isSome_iff_ne_none.2 there), if_true, Bool.not_true,
    Bool.false_eq_true, if_false, false_or]

variable (kind : bitAt d.w2 16 = false) (range : s.ringInRange fn (bits d.w2 15 0) = true)

include kind range

theorem ringDestroy_refused (bad : s.hring fn (bits d.w2 15 0) = none ∨ bits d.w2 15 0 = 0) :
    ringDestroy s p fn d = fails s stBadState := by
  simp only [ringDestroy, kind, range, Bool.not_true, Bool.false_eq_true, if_false]
  split
  · rfl
  · next found => exact if_pos (.inl (bad.resolve_left (by simp [found])))

theorem ringDestroy_begins {v : HRing} (found : s.hring fn (bits d.w2 15 0) = some v) (other : bits d.w2 15 0 ≠ 0)
    (alive : v.dying = none) : ringDestroy s p fn d =
      (finishDestroy (s.setHring fn (bits d.w2 15 0) { v with dying := some (p, d), frame := none }) fn (bits d.w2 15 0), none) := by
  simp only [ringDestroy, kind, range, Bool.not_true, Bool.false_eq_true, if_false, found, other, alive, Option.isSome_none, or_self]

end ringDestroy

section finishDestroy
variable {s : State} {p : CmdPort} {fn r : Nat} {d : Desc} {v : HRing}

/-- R469: a ring with descriptors fetched stays until they are complete. -/
theorem finishDestroy_waits (found : s.hring fn r = some v) (dying : v.dying = some (p, d))
    (busy : v.fetched ≠ [] ∨ v.reads ≠ [] ∨ v.items ≠ []) : finishDestroy s fn r = s := by
  simp only [finishDestroy, found, dying, List.isEmpty_iff]
  exact if_neg fun ⟨fetched, reads, items⟩ => busy.elim (· fetched) (·.elim (· reads) (· items))

theorem finishDestroy_ends (found : s.hring fn r = some v) (dying : v.dying = some (p, d)) (fetched : v.fetched = [])
    (reads : v.reads = []) (items : v.items = []) : finishDestroy s fn r =
      let t := completeCmd s p d (.of stOk)
      t.setHqe { t.hqe with rings := sdel t.hqe.rings (ringKey fn r) } := by
  simp only [finishDestroy, found, dying, fetched, reads, items, List.isEmpty_nil, and_self, if_true]

end finishDestroy

/-! ### VF_CONFIG (R441, R471) -/

/-- R441, R471: the ranges of VF_CONFIG meet those of another VF: rings and completion rings within the PF, lines within the device. -/
def vfClash (s : State) (pf fn : Nat) (d : Desc) : Bool :=
  (s.hqe.fns.filter fun e => 4 ≤ e.1 && e.1 != fn).any fun e =>
    (s.pfOf e.1 == pf && (spansMeet (bits d.w3 15 0) (bits d.w3 31 16) e.2.ringFirst e.2.ringCount ||
        spansMeet (bits d.w4 13 0) (bits d.w4 29 16) e.2.cqFirst e.2.cqCount))
      || spansMeet d.w6.toNat d.w7.toNat e.2.lineFirst e.2.lineCount

theorem spansMeet_iff (a n b m : Nat) : spansMeet a n b m = true ↔ a < b + m ∧ b < a + n ∧ 0 < n ∧ 0 < m := by
  simp [spansMeet, and_assoc]

theorem vfClash_iff (s : State) (pf fn : Nat) (d : Desc) :
    let meets := fun (a n b m : Nat) => a < b + m ∧ b < a + n ∧ 0 < n ∧ 0 < m
    vfClash s pf fn d = true ↔ ∃ e ∈ s.hqe.fns, 4 ≤ e.1 ∧ e.1 ≠ fn ∧
      ((s.pfOf e.1 = pf ∧ (meets (bits d.w3 15 0) (bits d.w3 31 16) e.2.ringFirst e.2.ringCount ∨
        meets (bits d.w4 13 0) (bits d.w4 29 16) e.2.cqFirst e.2.cqCount)) ∨ meets d.w6.toNat d.w7.toNat e.2.lineFirst e.2.lineCount) := by
  simp only [vfClash, List.any_eq_true, List.mem_filter, Bool.and_eq_true, Bool.or_eq_true, decide_eq_true_eq, bne_iff_ne, beq_iff_eq,
    spansMeet_iff, and_assoc]

theorem vfConfig_eq (s : State) (pf : Nat) (d : Desc) : vfConfig s pf d =
    let fn := s.vfBase pf + bits d.w2 9 0
    if s.totalVfs pf ≤ bits d.w2 9 0 ∨ s.ringShare pf < bits d.w3 15 0 + bits d.w3 31 16 ∨ s.cqShare pf < bits d.w4 13 0 + bits d.w4 29 16
      then fails s stOutOfRange
    else if 64 < bits d.w5 6 0 ∨ vfClash s pf fn d = true then fails s stBadField
    else if bitAt (s.fn fn).ctrl 0 then fails s stBadState
    else succeeds (s.setFn fn { s.fn fn with
      ringFirst := bits d.w3 15 0, ringCount := bits d.w3 31 16, cqFirst := bits d.w4 13 0, cqCount := bits d.w4 29 16
      vectors := bits d.w5 6 0, lineFirst := d.w6.toNat, lineCount := d.w7.toNat }) 0 := rfl

end Sys2Proof.Machine

open Sys2Proof Sys2Proof.Machine Host

theorem ringsAreCreatedAndDestroyed : Claim.RingsAreCreatedAndDestroyed := by
  intro s p d fn r q create typ others sound
  refine ⟨fun h => ?_, fun h => ?_, fun h => ?_⟩
  · have type := ringTypeOf_rtype d.w2
    have fields : otherTypeFields (namedType typ) d.w3 = true ↔ others := otherTypeFields_namedType _ _
    refine ⟨fun bad => answers_ringCreate h (ringCreate_badType ?_), fun three own out => ?_, fun three own ring cq => ?_⟩
    · by_cases three : typ = 3
      · exact .inl (type.trans (if_pos three))
      · exact .inr ⟨_, type.trans (if_neg three), Bool.eq_false_iff.2 fun ok => bad.elim three (· (fields.1 ok))⟩
    · exact answers_ringCreate h (ringCreate_outOfRange (type.trans (if_neg three)) (fields.2 own) out)
    · have named := type.trans (if_neg three)
      refine ⟨fun bad => answers_ringCreate h (ringCreate_badField named (fields.2 own) ring cq bad), fun ok busy => ?_,
        fun ok free there => ?_⟩
      · refine answers_ringCreate h ((ringCreate_sound named (fields.2 own) ring cq ok).trans (if_pos ?_))
        exact busy.imp Option.isSome_iff_ne_none.2 Option.isNone_iff_eq_none.2
      · refine answers_ringCreate h ((ringCreate_sound named (fields.2 own) ring cq ok).trans (if_neg ?_))
        rintro (some | none)
        · exact Option.isSome_iff_ne_none.1 some free
        · exact there (Option.isNone_iff_eq_none.1 none)
  · intro c vec irq outside bad
    have run := cqCreate_eq s fn d
    refine ⟨fun out => answers_cqCreate h (run.trans (if_pos out)),
      fun inside bad => answers_cqCreate h (run.trans ((if_neg inside).trans (if_pos bad))),
      fun inside sound busy => answers_cqCreate h (run.trans ((if_neg inside).trans ((if_neg sound).trans (if_pos ?_)))),
      fun inside sound free => answers_cqCreate h (run.trans ((if_neg inside).trans ((if_neg sound).trans (if_neg ?_))))⟩
    · exact Option.isSome_iff_ne_none.2 busy
    · exact fun some => Option.isSome_iff_ne_none.1 some free
  · refine ⟨fun kind range there => ?_, fun kind range => ⟨fun bad => answers_ringDestroy h (ringDestroy_refused kind range bad),
      fun v found other alive => ?_⟩⟩
    · have run := ringDestroy_cq (p := p) kind range there
      exact ⟨fun named => answers_ringDestroy h (run.trans (if_pos named)),
        fun free => answers_ringDestroy h (run.trans (if_neg (Bool.eq_false_iff.1 free)))⟩
    · have run : exec (.ringDestroy p d) s =
          .next (finishDestroy (s.setHring fn r { v with dying := some (p, d), frame := none }) fn r) :=
        (exec_ringDestroy h).trans (by rw [ringDestroy_begins kind range found other alive]; rfl)
      have dying := hring_setHring s fn r { v with dying := some (p, d), frame := none }
      exact ⟨fun busy => run.trans (congrArg _ (finishDestroy_waits dying rfl busy)),
        fun fetched reads items => run.trans (congrArg _ (finishDestroy_ends dying rfl fetched reads items))⟩

theorem tenantsGetRanges : Claim.TenantsGetRanges := by
  intro s p d h pf fn meets outside clash
  have clashes : vfClash s pf fn d = true ↔ clash := vfClash_iff s pf fn d
  have run := vfConfig_eq s pf d
  have sound (few : bits d.w5 6 0 ≤ 64) (apart : ¬clash) : ¬(64 < bits d.w5 6 0 ∨ vfClash s pf fn d = true) :=
    fun bad => bad.elim (Nat.not_lt.2 few) (apart ∘ clashes.1)
  refine ⟨fun out => answers_vfConfig h (run.trans (if_pos out)),
    fun inside bad => answers_vfConfig h (run.trans ((if_neg inside).trans (if_pos (bad.imp_right clashes.2)))),
    fun inside few apart on => answers_vfConfig h (run.trans ((if_neg inside).trans ((if_neg (sound few apart)).trans (if_pos on)))),
    fun inside few apart off => answers_vfConfig h (run.trans ((if_neg inside).trans ((if_neg (sound few apart)).trans (if_neg ?_))))⟩
  exact Bool.eq_false_iff.1 off

end

section
/-! SUPPORT. Commands for snapshot streams (R465–R467), for the classifier's tables and epochs (R144, R155, R162, R163, R471) and for
meters (R364). -/

namespace Sys2Proof.Machine

open Host

/-! ### Rows and the data they read (R536) -/

section rows
variable {s t : State} {p : CmdPort} {d : Desc} {r : CmdResult}

theorem answers_snapRequest (h : s.accepts p d 0x0006) (e : snapRequest s d = (t, some r)) : Answers (.snapRequest p d) s p d t r :=
  commandRow_answers h (by rw [commandBody, h.opcode]; rfl) e

theorem answers_snapDestroy (h : s.accepts p d 0x0007) (e : snapDestroy s d = (t, some r)) : Answers (.snapDestroy p d) s p d t r :=
  commandRow_answers h (by rw [commandBody, h.opcode]; rfl) e

theorem answers_clsEpochCommit (h : s.accepts p d 0x0102) (e : clsEpochCommit s d = (t, some r)) :
    Answers (.clsEpochCommit p d) s p d t r :=
  commandRow_answers h (by rw [commandBody, h.opcode]; rfl) e

theorem answers_clsEpochAbort (h : s.accepts p d 0x0103) (e : clsEpochAbort s d = (t, some r)) :
    Answers (.clsEpochAbort p d) s p d t r :=
  commandRow_answers h (by rw [commandBody, h.opcode]; rfl) e

variable {data : List Byte} {ok : Bool}

theorem answers_snapCreate (h : s.accepts p d 0x0005) (e : snapCreate s p (fnOf p) d data ok = (t, some r)) :
    Answers (.snapCreate p d data ok) s p d t r :=
  commandRow_answers h (by rw [commandBody, h.opcode]; rfl) e

theorem answers_clsNodeWrite (h : s.accepts p d 0x0100) (e : clsNodeWrite s p d data ok = (t, some r)) :
    Answers (.clsNodeWrite p d data ok) s p d t r :=
  commandRow_answers h (by rw [commandBody, h.opcode]; rfl) e

theorem answers_clsEpochStage (h : s.accepts p d 0x0101) (e : clsEpochStage s p d data ok = (t, some r)) :
    Answers (.clsEpochStage p d data ok) s p d t r :=
  commandRow_answers h (by rw [commandBody, h.opcode]; rfl) e

theorem answers_meterWrite (h : s.accepts p d 0x0200) (e : meterWrite s p d data ok = (t, some r)) :
    Answers (.meterWrite p d data ok) s p d t r :=
  commandRow_answers h (by rw [commandBody, h.opcode]; rfl) e

end rows

section host
variable {p : CmdPort} (host : authorityOf p = .host) (d : Desc) {n : Nat} {data : List Byte} {ok : Bool}

include host

theorem readOperand_host : readOperand p d n data ok = if ok ∧ n ≤ data.length then .ok (data.take n) else .error stDmaError := by
  cases p with
  | ring fn r idx sol => rfl
  | board tag | fabric node seq => simp [authorityOf] at host

/-- R461: a host read that fails, or returns too little, is a DMA error. -/
theorem readOperand_host_error (bad : ok = false ∨ data.length < n) : readOperand p d n data ok = .error stDmaError :=
  (readOperand_host host d).trans (if_neg fun ⟨good, enough⟩ => bad.elim (by simp [good]) (Nat.not_lt.2 enough))

theorem readOperand_host_ok (good : ok = true) (enough : n ≤ data.length) : readOperand p d n data ok = .ok (data.take n) :=
  (readOperand_host host d).trans (if_pos ⟨good, enough⟩)

end host

/-! ### SNAP_CREATE and SNAP_REQUEST (R466, R467) -/

/-- R535, R538: SNAP_CREATE comes from a PF alone. -/
theorem authorityOf_snapCreate {s : State} {p : CmdPort} {d : Desc} (h : s.accepts p d 0x0005) : authorityOf p = .host := by
  have permitted := h.permitted rfl
  cases who : authorityOf p with
  | host => rfl
  | board | tenant | fabric => simp [who, CmdRule.permits] at permitted

section snapCreate
variable {s : State} {p : CmdPort} {fn : Nat} {d : Desc} {data : List Byte} {ok : Bool}

theorem snapCreate_full (full : 64 ≤ s.hqe.streams.length) : snapCreate s p fn d data ok = fails s stResource := if_pos full

variable (room : s.hqe.streams.length < 64)

include room

theorem snapCreate_taken (taken : sfind s.hqe.streams (bits d.w2 5 0) ≠ none) : snapCreate s p fn d data ok = fails s stBadState :=
  (if_neg (Nat.not_le.2 room)).trans (if_pos (Option.isSome_iff_ne_none.2 taken))

variable (free : sfind s.hqe.streams (bits d.w2 5 0) = none)

include free

theorem snapCreate_unread {status : Nat} (unread : readOperand p d 32 data ok = .error status) :
    snapCreate s p fn d data ok = fails s status := by
  simp only [snapCreate, Nat.not_le.2 room, free, unread, if_false, Option.isSome_none, Bool.false_eq_true]

variable {b : List Byte} (read : readOperand p d 32 data ok = .ok b)

include read

theorem snapCreate_badField (bad : streamOk b (streamOf s fn b) = false) : snapCreate s p fn d data ok = fails s stBadField := by
  simp only [snapCreate, Nat.not_le.2 room, free, read, bad, if_false, Option.isSome_none, Bool.false_eq_true, Bool.not_false, if_true]

theorem snapCreate_sound (sound : streamOk b (streamOf s fn b) = true)
    (present : (streamOf s fn b).units.testBit 1 = false ∨ s.variant.hasRing = true) : snapCreate s p fn d data ok =
      if s.cqInRange fn (streamOf s fn b).cq = false then fails s stOutOfRange
      else if (s.hcq fn (streamOf s fn b).cq).isNone then fails s stBadState
      else succeeds (s.setStream (bits d.w2 5 0) (streamOf s fn b)) (streamOf s fn b).length := by
  have units : ¬((streamOf s fn b).units.testBit 1 = true ∧ s.variant.hasRing = false) := fun ⟨ring, absent⟩ =>
    present.elim (by simp [ring]) (by simp [absent])
  simp only [snapCreate, Nat.not_le.2 room, free, read, sound, units, if_false, Option.isSome_none, Bool.false_eq_true, Bool.not_true,
    Bool.not_eq_true']

end snapCreate

theorem snapRequest_none {s : State} {d : Desc} (absent : sfind s.hqe.streams (bits d.w2 5 0) = none) :
    snapRequest s d = fails s stBadState := by
  simp only [snapRequest, absent]

theorem snapRequest_some {s : State} {d : Desc} {y : Stream} (found : sfind s.hqe.streams (bits d.w2 5 0) = some y) :
    snapRequest s d = if wideOf d < s.nowN + usFtu 2 then fails s stLateTime
      else succeeds (s.setStream (bits d.w2 5 0) { y with requests := y.requests ++ [timeOf d] }) 0 := by
  simp only [snapRequest, found]

/-! ### CLS_NODE_WRITE (R144, R155, R162, R471) -/

theorem lpos_eq_findIdx? {α : Type} (f : α → Bool) (l : List α) : lpos f l = l.findIdx? f := by
  induction l with
  | nil => rfl
  | cons x l ih => rw [lpos, List.findIdx?_cons, ih]

/-- Line `i` of the data of CLS_NODE_WRITE. -/
def dataLine (data : List Byte) (i : Nat) : List Byte := (data.drop (64 * i)).take 64

theorem linesIn_take (n : Nat) (data : List Byte) : linesIn n (data.take (64 * n)) = (List.range n).map (dataLine data) := by
  induction n generalizing data with
  | zero => rfl
  | succ n ih =>
    have later : (data.take (64 * (n + 1))).drop 64 = (data.drop 64).take (64 * n) := by
      rw [List.drop_take, show 64 * (n + 1) - 64 = 64 * n by omega]
    have next (i : Nat) : dataLine (data.drop 64) i = dataLine data (i + 1) := by
      rw [dataLine, dataLine, List.drop_drop, show 64 + 64 * i = 64 * (i + 1) by omega]
    rw [linesIn, later, ih, List.take_take, Nat.min_eq_left (by omega), List.range_succ_eq_map, List.map_cons, List.map_map]
    exact congrArg (_ :: ·) (List.map_congr_left fun i _ => next i)

theorem zipIdx_map_range {α : Type} (f : Nat → α) (n : Nat) :
    ((List.range n).map f).zipIdx = (List.range n).map fun i => (f i, i) := by
  apply List.ext_getElem <;> simp

theorem lpos_map_range_none {α : Type} {f : α → Bool} {line : Nat → α} {n : Nat} (good : ∀ i, i < n → f (line i) = false) :
    lpos f ((List.range n).map line) = none := by
  rw [lpos_eq_findIdx?, List.findIdx?_eq_none_iff]
  exact List.forall_mem_map.2 fun i hi => good i (List.mem_range.1 hi)

theorem lpos_map_range_some {α : Type} {f : α → Bool} {line : Nat → α} {n i : Nat} (hi : i < n) (bad : f (line i) = true)
    (good : ∀ j, j < i → f (line j) = false) : lpos f ((List.range n).map line) = some i := by
  rw [lpos_eq_findIdx?, List.findIdx?_eq_some_iff_getElem]
  exact ⟨by simpa using hi, by simpa using bad, fun j hj => by simpa using good j hj⟩

section lines
variable {s : State} {p : CmdPort} {d : Desc} {data : List Byte}

/-- R471: a tenant's lines lie within the function's range. -/
theorem clsNodeWrite_foreign (tenant : authorityOf p = .tenant)
    (out : d.w3.toNat < (s.fn (fnOf p)).lineFirst ∨
      (s.fn (fnOf p)).lineFirst + (s.fn (fnOf p)).lineCount < d.w3.toNat + bits d.w2 24 16) :
    ∃ r0, clsNodeWrite s p d data true = (s, some { CmdResult.of stOutOfRange with r0 := r0 }) := ⟨_, if_pos ⟨tenant, out⟩⟩

variable (host : authorityOf p = .host)
  (fields : ¬(bits d.w2 24 16 = 0 ∨ 256 < bits d.w2 24 16 ∨ bits d.w2 1 0 = 3)) (inside : d.w3.toNat + bits d.w2 24 16 ≤ s.clsLines)

include host fields inside

theorem clsNodeWrite_unread (short : data.length < 64 * bits d.w2 24 16) : clsNodeWrite s p d data true = fails s stDmaError := by
  simp only [clsNodeWrite, host, reduceCtorEq, false_and, if_false, fields, Nat.not_lt.2 inside,
    readOperand_host_error host d (.inr short)]

variable (enough : 64 * bits d.w2 24 16 ≤ data.length)

include enough

/-- R162: the lines are checked before any is written. -/
theorem clsNodeWrite_bad {i : Nat} (hi : i < bits d.w2 24 16) (bad : lineCheck s p (bits d.w2 1 0) (dataLine data i) ≠ 0)
    (good : ∀ j, j < i → lineCheck s p (bits d.w2 1 0) (dataLine data j) = 0) : clsNodeWrite s p d data true =
      (s, some { CmdResult.of (lineCheck s p (bits d.w2 1 0) (dataLine data i)) with r0 := BitVec.ofNat 32 (d.w3.toNat + i) }) := by
  have first := lpos_map_range_some (f := fun l => lineCheck s p (bits d.w2 1 0) l != stOk) hi (bne_iff_ne.2 bad)
    fun j hj => bne_eq_false_iff_eq.2 (good j hj)
  have line : ((List.range (bits d.w2 24 16)).map (dataLine data)).getD i [] = dataLine data i := by simp [hi]
  simp only [clsNodeWrite, host, reduceCtorEq, false_and, if_false, fields, Nat.not_lt.2 inside, readOperand_host_ok host d rfl enough,
    linesIn_take, first, line]

theorem clsNodeWrite_good (good : ∀ i, i < bits d.w2 24 16 → lineCheck s p (bits d.w2 1 0) (dataLine data i) = 0) :
    clsNodeWrite s p d data true =
      succeeds ((List.range (bits d.w2 24 16)).foldl (fun t i => writeClsLine t (d.w3.toNat + i) (dataLine data i)) s) 0 := by
  have none := lpos_map_range_none (f := fun l => lineCheck s p (bits d.w2 1 0) l != stOk)
    fun j hj => bne_eq_false_iff_eq.2 (good j hj)
  simp only [clsNodeWrite, host, reduceCtorEq, false_and, if_false, fields, Nat.not_lt.2 inside, readOperand_host_ok host d rfl enough,
    linesIn_take, none, zipIdx_map_range, List.foldl_map]

end lines

/-! ### CLS_EPOCH_STAGE and METER_WRITE (R162, R364) -/

section reads
variable {s : State} {p : CmdPort} {d : Desc} {data : List Byte} (host : authorityOf p = .host)

include host

theorem clsEpochStage_host (enough : 2048 ≤ data.length) : clsEpochStage s p d data true =
    if leNat (data.take 2) ≠ bits d.w2 15 0 ∨ descOk s.clsLines (data.take 2048) = false then fails s stBadField
    else succeeds (s.setCls { s.cls with staged := some (writeBytes [] 0 (data.take 2048)) }) 0 := by
  simp only [clsEpochStage, readOperand_host_ok host d rfl enough, List.take_take, Nat.reduceLeDiff, Nat.min_eq_left,
    Bool.not_eq_true']

variable (known : bits d.w2 19 0 < s.meterCount)

include known

theorem meterWrite_unread (short : data.length < 64) : meterWrite s p d data true = fails s stDmaError := by
  simp only [meterWrite, Nat.not_le.2 known, if_false, readOperand_host_error host d (.inr short)]

theorem meterWrite_host (enough : 64 ≤ data.length) : meterWrite s p d data true =
    if meterOk (data.take 64) then succeeds (writeMeter s (bits d.w2 19 0) (data.take 64) s.nowN) 0 else fails s stBadField := by
  simp only [meterWrite, Nat.not_le.2 known, if_false, readOperand_host_ok host d rfl enough]

end reads

/-! ### Epoch slots in use (R163) -/

/-- R163: a slot is in use while it is LIVE or PENDING. -/
def State.slotUsed (s : State) (k : Nat) : Prop := k < 4 ∧ ((s.slot k).live = true ∨ (s.slot k).pending = true)

theorem usedSlots_any (s : State) (f : Nat → Bool) : s.usedSlots.any f = true ↔ ∃ k, s.slotUsed k ∧ f k = true := by
  simp only [State.usedSlots, State.slotUsed, List.any_eq_true, List.mem_filter, List.mem_range, Bool.or_eq_true]

theorem low16_lt (w : Word) : bits w 15 0 < 65536 := Nat.mod_lt _ (by decide)

/-- R163: epoch `e` is not after, modulo 2^16, the epoch of every slot in use. -/
def State.epochBehind (s : State) (e : Nat) : Prop :=
  ∃ k, s.slotUsed k ∧ (e = (s.slot k).number.toNat ∨ 32768 ≤ (e + 65536 - (s.slot k).number.toNat) % 65536)

theorem epochBehind_iff (s : State) {e : Nat} (he : e < 65536) :
    (s.usedSlots.any fun k => (e + 65536 - (s.slot k).number.toNat) % 65536 == 0 ||
      decide (32768 ≤ (e + 65536 - (s.slot k).number.toNat) % 65536)) = true ↔ s.epochBehind e := by
  have same (n : BitVec 16) : (e + 65536 - n.toNat) % 65536 = 0 ↔ e = n.toNat := by
    have := n.isLt
    omega
  simp only [usedSlots_any, Bool.or_eq_true, beq_iff_eq, decide_eq_true_eq, same, State.epochBehind]

/-- R163: a commit time without the lead of MIN_LEAD, or not after that of every slot in use. -/
def State.commitLate (s : State) (d : Desc) : Prop :=
  wideOf d < s.nowN + s.minLead ∨ ∃ k, s.slotUsed k ∧ timeOf d ≤ (s.slot k).commit

theorem commitLate_iff (s : State) (d : Desc) :
    (wideOf d < s.nowN + s.minLead ∨ (s.usedSlots.any fun k => timeOf d ≤ (s.slot k).commit) = true) ↔ s.commitLate d := by
  simp only [usedSlots_any, decide_eq_true_eq, State.commitLate]

/-- The slot that CLS_EPOCH_COMMIT takes: the first that is not in use. -/
def State.freeSlot (s : State) : Option Nat := (List.range 4).find? fun k => !(s.slot k).live && !(s.slot k).pending

theorem slotUsed_iff {s : State} {k : Nat} (low : k < 4) : s.slotUsed k ↔ (!(s.slot k).live && !(s.slot k).pending) = false := by
  simp only [State.slotUsed, low, true_and, Bool.and_eq_false_iff, Bool.not_eq_false']

theorem freeSlot_eq_none {s : State} (all : ∀ k, k < 4 → s.slotUsed k) : s.freeSlot = none :=
  List.find?_range_eq_none.2 fun k low => by rw [(slotUsed_iff low).1 (all k low)]; rfl

theorem freeSlot_eq_some {s : State} {k : Nat} (low : k < 4) (free : ¬s.slotUsed k) (before : ∀ j, j < k → s.slotUsed j) :
    s.freeSlot = some k :=
  List.find?_range_eq_some.2 ⟨by simpa [slotUsed_iff low] using free, List.mem_range.2 low, fun j hj => by
    rw [(slotUsed_iff (hj.trans low)).1 (before j hj)]; rfl⟩

/-! ### CLS_EPOCH_COMMIT and CLS_EPOCH_ABORT (R162, R163, R167) -/

/-- R163: the state in which slot `k` is PENDING with the staged descriptor `b`. -/
def State.commitSlot (s : State) (d : Desc) (b : SMap Byte) (k : Nat) : State :=
  let t := s.setSlot k { FixSlot.empty with number := BitVec.ofNat 16 (bits d.w2 15 0), pending := true, commit := timeOf d }
  t.setCls { s.cls with
    staged := none
    descs := b.foldl (fun m x => sput 0 m (2048 * k + x.1) x.2) (s.cls.descs.filter fun x => x.1 / 2048 != k) }

section commit
variable {s : State} {d : Desc}

theorem clsEpochCommit_unstaged (unstaged : s.cls.staged = none) :
    clsEpochCommit s d = fails s (if s.dev = .swap then stEpochBusy else stBadEpoch) := by
  simp only [clsEpochCommit, unstaged]

theorem clsEpochCommit_swap (swap : s.dev = .swap) : clsEpochCommit s d = fails s stEpochBusy := by
  cases staged : s.cls.staged with
  | none => rw [clsEpochCommit_unstaged staged, if_pos swap]
  | some b => simp only [clsEpochCommit, staged, swap, if_true]

variable {b : SMap Byte} (staged : s.cls.staged = some b) (live : s.dev ≠ .swap)

include staged live

theorem clsEpochCommit_badEpoch (bad : readLE b 0 2 ≠ bits d.w2 15 0 ∨ s.epochBehind (bits d.w2 15 0)) :
    clsEpochCommit s d = fails s stBadEpoch := by
  simp only [clsEpochCommit, staged, live, if_false, epochBehind_iff s (low16_lt d.w2), bad, if_true]

variable (number : readLE b 0 2 = bits d.w2 15 0) (ahead : ¬s.epochBehind (bits d.w2 15 0))

include number ahead

theorem clsEpochCommit_late (late : s.commitLate d) : clsEpochCommit s d = fails s stLateTime := by
  simp only [clsEpochCommit, staged, live, if_false, epochBehind_iff s (low16_lt d.w2), number, ne_eq, not_true_eq_false, ahead, or_self,
    commitLate_iff, late, if_true]

variable (early : ¬s.commitLate d)

include early

/-- R163: a commit that is neither behind nor late takes the first free slot, if there is one. -/
theorem clsEpochCommit_timely {slot : Option Nat} (free : s.freeSlot = slot) : clsEpochCommit s d =
    slot.elim (fails s stEpochBusy) fun k => succeeds (s.commitSlot d b k) k := by
  unfold State.freeSlot at free
  simp only [clsEpochCommit, staged, live, if_false, epochBehind_iff s (low16_lt d.w2), number, ne_eq, not_true_eq_false, ahead, or_self,
    commitLate_iff, early, free]
  cases slot <;> rfl

end commit

section abort
variable {s : State} {d : Desc}

/-- R167: slot `k` is PENDING with epoch `e`. -/
def State.pendingWith (s : State) (e k : Nat) : Prop := (s.slot k).pending = true ∧ (s.slot k).number.toNat = e

theorem pendingWith_iff {e k : Nat} : ((s.slot k).pending && (s.slot k).number.toNat == e) = true ↔ s.pendingWith e k := by
  rw [Bool.and_eq_true, beq_iff_eq, State.pendingWith]

theorem not_pendingWith_iff {e k : Nat} :
    ((s.slot k).pending = false ∨ (s.slot k).number.toNat ≠ e) ↔ ¬s.pendingWith e k := by
  rw [State.pendingWith, not_and_or, Bool.not_eq_true]

theorem clsEpochAbort_none (none : ∀ k, k < 4 → ¬s.pendingWith (bits d.w2 15 0) k) : clsEpochAbort s d = fails s stNotPending := by
  have search : (List.range 4).find? (fun k => (s.slot k).pending && (s.slot k).number.toNat == bits d.w2 15 0) = Option.none :=
    List.find?_eq_none.2 fun k hk => mt pendingWith_iff.1 (none k (List.mem_range.1 hk))
  simp only [clsEpochAbort, search]

theorem clsEpochAbort_first {k : Nat} (low : k < 4) (found : s.pendingWith (bits d.w2 15 0) k)
    (first : ∀ j, j < k → ¬s.pendingWith (bits d.w2 15 0) j) :
    clsEpochAbort s d = succeeds ((s.setSlot k FixSlot.empty).logEvent 0x32 0 (epochData (s.slot k) k)) 0 := by
  have search : (List.range 4).find? (fun k => (s.slot k).pending && (s.slot k).number.toNat == bits d.w2 15 0) = some k :=
    List.find?_range_eq_some.2 ⟨pendingWith_iff.2 found, List.mem_range.2 low, fun j hj => by
      rw [Bool.eq_false_iff.2 (mt pendingWith_iff.1 (first j hj))]; rfl⟩
  simp only [clsEpochAbort, search]

end abort

end Sys2Proof.Machine

open Sys2Proof Sys2Proof.Machine Host

theorem streamsAreCreatedAndDestroyed : Claim.StreamsAreCreatedAndDestroyed := by
  intro s p d data ok k create x
  refine ⟨fun h room free => ?_, fun h full => answers_snapCreate h (snapCreate_full full),
    fun h room taken => answers_snapCreate h (snapCreate_taken room taken), fun h => ?_, fun h => ?_⟩
  · have host := authorityOf_snapCreate h
    refine ⟨fun bad => answers_snapCreate h (snapCreate_unread room free (readOperand_host_error host d bad)), fun good enough => ?_⟩
    have read := readOperand_host_ok host d good enough
    refine ⟨fun bad => answers_snapCreate h (snapCreate_badField room free read bad), fun sound present => ?_⟩
    have run := snapCreate_sound room free read sound present
    refine ⟨fun out => answers_snapCreate h (run.trans (if_pos out)), fun inside there => ?_⟩
    refine answers_snapCreate h (run.trans ((if_neg (Bool.eq_false_iff.not_left.2 inside)).trans (if_neg ?_)))
    exact mt Option.isNone_iff_eq_none.1 there
  · refine ⟨fun absent => answers_snapRequest h (snapRequest_none absent), fun y found => ?_⟩
    have run := snapRequest_some found
    exact ⟨fun soon => answers_snapRequest h (run.trans (if_pos soon)),
      fun ahead => answers_snapRequest h (run.trans (if_neg (Nat.not_lt.2 ahead)))⟩
  · exact ⟨fun absent => answers_snapDestroy h (if_pos (Option.isNone_iff_eq_none.2 absent)),
      fun there => answers_snapDestroy h (if_neg (mt Option.isNone_iff_eq_none.1 there))⟩

theorem classifierCommands : Claim.ClassifierCommands := by
  intro s p d data write n first kind line e
  refine ⟨fun h host least most sort inside => ?_, fun h tenant out => ?_, fun h host enough => ?_, fun h => ?_, fun h => ?_,
    fun h host => ?_⟩
  · have fields : ¬(n = 0 ∨ 256 < n ∨ kind = 3) := by omega
    exact ⟨fun short => answers_clsNodeWrite h (clsNodeWrite_unread host fields inside short),
      fun enough => ⟨fun good => answers_clsNodeWrite h (clsNodeWrite_good host fields inside enough good),
        fun i hi good bad => answers_clsNodeWrite h (clsNodeWrite_bad host fields inside enough hi bad good)⟩⟩
  · obtain ⟨r0, outcome⟩ := clsNodeWrite_foreign tenant out
    exact ⟨r0, answers_clsNodeWrite h outcome⟩
  · have run := clsEpochStage_host host (d := d) (s := s) enough
    refine ⟨fun same sound => answers_clsEpochStage h (run.trans (if_neg ?_)),
      fun bad => answers_clsEpochStage h (run.trans (if_pos bad))⟩
    exact fun bad => bad.elim (· same) (by simp [sound])
  · refine ⟨fun unstaged live => answers_clsEpochCommit h ?_, fun swap => answers_clsEpochCommit h (clsEpochCommit_swap swap),
      fun b staged live => ?_⟩
    · rw [clsEpochCommit_unstaged unstaged, if_neg live]
      rfl
    · refine ⟨fun bad => answers_clsEpochCommit h (clsEpochCommit_badEpoch staged live bad),
        fun number ahead tardy => answers_clsEpochCommit h (clsEpochCommit_late staged live number ahead tardy),
        fun number ahead early => ?_⟩
      have run {slot : Option Nat} (free : s.freeSlot = slot) := clsEpochCommit_timely staged live number ahead early free
      exact ⟨fun all => answers_clsEpochCommit h (run (freeSlot_eq_none all)),
        fun k low free before => answers_clsEpochCommit h (run (freeSlot_eq_some low free before))⟩
  · simp only [not_pendingWith_iff]
    exact ⟨fun none => answers_clsEpochAbort h (clsEpochAbort_none none),
      fun k low pending number before => answers_clsEpochAbort h (clsEpochAbort_first low ⟨pending, number⟩ before)⟩
  · refine ⟨fun unknown => answers_meterWrite h (if_pos unknown),
      fun known short => answers_meterWrite h (meterWrite_unread host known short), fun known enough => ?_⟩
    have run := meterWrite_host host known enough
    exact ⟨fun ok => answers_meterWrite h (run.trans (if_pos ok)),
      fun bad => answers_meterWrite h (run.trans (if_neg (Bool.eq_false_iff.1 bad)))⟩

/-- Settles O53: each command by the first check that it fails, or by what it leaves once it has passed them all. -/
theorem ringTenantStreamAndClassifierCommands : Obligations.RingTenantStreamAndClassifierCommands :=
  ⟨ringsAreCreatedAndDestroyed, tenantsGetRanges, streamsAreCreatedAndDestroyed, classifierCommands⟩

end

section
/-! SUPPORT. The Dealer's lists (R173, R183, R188, R189, R194): the words of an item, the ready list and the STOP bits after an entry, and
the slow-path list. -/

namespace Sys2Proof.Machine

open Host

/-! ### The words of an item (R173) -/

theorem wordOf_setW_self {x : DlrItem} {i : Nat} (there : i < x.w.length) (m v : Word) :
    wordOf (x.setW i m v).w i = putBits (wordOf x.w i) m v := (getD_lset ..).trans (if_pos ⟨rfl, there⟩)

theorem wordOf_setW_ne {i j : Nat} (other : j ≠ i) (x : DlrItem) (m v : Word) : wordOf (x.setW i m v).w j = wordOf x.w j :=
  (getD_lset ..).trans (if_neg fun h => other h.1)

theorem length_setW (x : DlrItem) (i : Nat) (m v : Word) : (x.setW i m v).w.length = x.w.length := length_lset ..

/-! ### Entry into a ready list (R183, R194, R199) -/

/-- R194: the STOP bits that an entry into group `g` leaves. -/
def State.stopOnEntry (s : State) (g : Nat) : BitVec 16 :=
  if s.storeFull then 0xFFFF else if 1 ≤ s.occupancy g ∧ s.highMark g ≤ s.occupancy g then stopWith s.dlr.stop g true else s.dlr.stop

theorem stopAfterEntry_eq (s : State) (g : Nat) : stopAfterEntry s g = s.setDlr { s.dlr with stop := s.stopOnEntry g } := by
  unfold stopAfterEntry State.stopOnEntry
  split
  · rfl
  · split <;> rfl

/-- R194: a full store stops every group, a group at HIGH stops, and below HIGH nothing changes. -/
theorem stop_stopAfterEntry (s : State) (g : Nat) :
    let u := stopAfterEntry s g
    (32768 ≤ u.storeUsed → u.dlr.stop = 0xFFFF) ∧
    (u.storeUsed < 32768 → 1 ≤ u.occupancy g → u.highMark g ≤ u.occupancy g → u.dlr.stop = s.dlr.stop ||| BitVec.ofNat 16 (2 ^ g)) ∧
    (u.storeUsed < 32768 → u.occupancy g < u.highMark g → u.dlr.stop = s.dlr.stop) := by
  have room (h : s.storeUsed < 32768) : ¬s.storeFull = true := fun full => absurd (of_decide_eq_true full) (Nat.not_le.2 h)
  rw [stopAfterEntry_eq]
  exact ⟨fun full => if_pos (decide_eq_true full), fun h held high => (if_neg (room h)).trans (if_pos ⟨held, high⟩),
    fun h low => (if_neg (room h)).trans (if_neg fun both => Nat.not_le.2 low both.2)⟩

/-- R183, R199: item `x` is the last of the ready list of its GROUP and PRIO; the STOP bits are not looked at yet. -/
def State.joined (s : State) (x : DlrItem) : State :=
  let k := 16 * x.group + x.prio
  s.setDlr { s.dlr with
    nextSeq := s.dlr.nextSeq + 1
    ready := sput [] s.dlr.ready k (sget [] s.dlr.ready k ++ [{ x with since := s.now, seq := s.dlr.nextSeq }]) }

theorem enterReady_eq (s : State) (x : DlrItem) : enterReady s x = stopAfterEntry (s.joined x) x.group := rfl

theorem dlr_enterReady (s : State) (x : DlrItem) :
    (enterReady s x).dlr = { (s.joined x).dlr with stop := (enterReady s x).dlr.stop } := by
  rw [enterReady_eq, stopAfterEntry_eq]
  rfl

theorem enterReady_only (s : State) (x : DlrItem) : enterReady s x = { s with dlr := (enterReady s x).dlr } := by
  rw [enterReady_eq, stopAfterEntry_eq]
  rfl

/-! ### The slow-path list (R188–R190) -/

/-- R188: the KIND, GROUP, PRIO and PROG that the slow-path list gives its items. -/
def State.slowHead (s : State) : Word :=
  1 ||| at' (s.fld (dlrBase + 8) 31 28) 4 ||| at' (s.fld (dlrBase + 8) 27 24) 8 ||| at' (s.fld (dlrBase + 8) 23 16) 12

/-- R188: item `x` as the slow-path list takes it. -/
def State.slowItem (s : State) (x : DlrItem) : DlrItem :=
  { x.setW 0 0xFFFFF s.slowHead with since := s.now, slow := true, seq := s.dlr.nextSeq }

/-- R189: item `x` with its reason in W6: an empty group (2), or an invalid program (1). -/
def State.rejected (s : State) (x : DlrItem) : DlrItem :=
  x.setW 6 0xF00000 (if s.emptyGroup x.group = true then 0x200000 else 0x100000)

theorem bits_slowHead (s : State) : bits s.slowHead 3 0 = 1 ∧ bits s.slowHead 7 4 = s.fld (dlrBase + 8) 31 28 ∧
    bits s.slowHead 11 8 = s.fld (dlrBase + 8) 27 24 ∧ bits s.slowHead 19 12 = s.fld (dlrBase + 8) 23 16 := by
  have group : s.fld (dlrBase + 8) 31 28 < 16 := Nat.mod_lt _ (by decide)
  have prio : s.fld (dlrBase + 8) 27 24 < 16 := Nat.mod_lt _ (by decide)
  have prog : s.fld (dlrBase + 8) 23 16 < 256 := Nat.mod_lt _ (by decide)
  have one : (1 : Word) = at' 1 0 := by decide
  simp (disch := omega) only [State.slowHead, one, bits_or, bits_at', bits_at'_above, bits_at'_below, Nat.zero_or, Nat.or_zero, and_self]

/-- R188: an item of the slow-path list has the GROUP, PRIO and PROG of DLR_SLOW. -/
theorem slowItem_head (s : State) {x : DlrItem} (long : 0 < x.w.length) : (s.slowItem x).kind = 1 ∧
    (s.slowItem x).group = s.fld (dlrBase + 8) 31 28 ∧ (s.slowItem x).prio = s.fld (dlrBase + 8) 27 24 ∧
    (s.slowItem x).prog = s.fld (dlrBase + 8) 23 16 := by
  have word : wordOf (s.slowItem x).w 0 = putBits (wordOf x.w 0) 0xFFFFF s.slowHead := wordOf_setW_self long ..
  obtain ⟨kind, group, prio, prog⟩ := bits_slowHead s
  rw [DlrItem.kind, DlrItem.group, DlrItem.prio, DlrItem.prog, word, bits_putBits_covered (by decide), bits_putBits_covered (by decide),
    bits_putBits_covered (by decide), bits_putBits_covered (by decide)]
  exact ⟨kind, group, prio, prog⟩

/-- R189: the reason is read back from the slow-path item. -/
theorem slowItem_reason (s : State) {x : DlrItem} (long : 6 < x.w.length) :
    bits (wordOf (s.slowItem (s.rejected x)).w 6) 23 20 = if s.emptyGroup x.group = true then 2 else 1 := by
  have word : wordOf (s.slowItem (s.rejected x)).w 6 =
      putBits (wordOf x.w 6) 0xF00000 (if s.emptyGroup x.group = true then 0x200000 else 0x100000) :=
    (wordOf_setW_ne (by decide) ..).trans (wordOf_setW_self long ..)
  rw [word, bits_putBits_covered (by decide)]
  split <;> rfl

section accept
variable {s : State} {x : DlrItem}

theorem enterSlow_accepted (valid : s.slowInvalid = false) (room : s.slowFull = false) : enterSlow s x =
    (s.setDlr { s.dlr with slow := s.dlr.slow ++ [s.slowItem x], nextSeq := s.dlr.nextSeq + 1 }).count (dlrBase + 0x90C) :=
  (if_neg (Bool.eq_false_iff.1 valid)).trans (if_neg (Bool.eq_false_iff.1 room))

variable (fast : x.slow = false)

include fast

theorem acceptItem_good (group : s.emptyGroup x.group = false) (prog : s.validProgram x.prog = true) :
    acceptItem s x = enterReady s x := by
  simp [acceptItem, fast, group, prog]

theorem acceptItem_bad (bad : s.emptyGroup x.group = true ∨ s.validProgram x.prog = false) :
    acceptItem s x = enterSlow (s.count (dlrBase + 0x914)) (s.rejected x) := by
  by_cases group : s.emptyGroup x.group = true
  · simp [acceptItem, fast, State.rejected, group]
  · simp [acceptItem, fast, State.rejected, group, bad.resolve_left group]

end accept

theorem exec_dlrItemArrive {s : State} {x : DlrItem} {rest : List DlrItem} (first : s.dlr.inbox = x :: rest) :
    exec .dlrItemArrive s = .next (acceptItem (s.setDlr { s.dlr with inbox := rest }) x) := by
  change execDlrItemArrive s = _
  simp only [execDlrItemArrive, first]

end Sys2Proof.Machine

open Sys2Proof Sys2Proof.Machine Host

theorem itemsJoinTheirLists : Claim.ItemsJoinTheirLists := by
  intro s x rest first
  have run := exec_dlrItemArrive first
  refine ⟨fun fast group prog => ?_, fun fast bad valid room => ?_⟩
  · let v := s.setDlr { s.dlr with inbox := rest }
    rw [acceptItem_good fast (by exact group) (by exact prog)] at run
    obtain ⟨full, high, low⟩ := stop_stopAfterEntry (v.joined x) x.group
    exact ⟨_, run, dlr_enterReady v x, full, high, low, enterReady_only v x⟩
  · rw [acceptItem_bad fast (by exact bad), enterSlow_accepted (by exact valid) (by exact room)] at run
    refine ⟨_, run, _, rfl, rfl, rfl, rfl, fun long => ?_, rfl⟩
    obtain ⟨kind, group, prio, prog⟩ := slowItem_head s (x := s.rejected x) (by rw [State.rejected, length_setW]; omega)
    exact ⟨group, prio, prog, kind, slowItem_reason s (by omega)⟩

end

section
/-! SUPPORT. Dispatch, Trump and inherited priorities (R176, R180, R182, R184, R185, R198, R214): the thread as it starts, its dispatch area,
and what each command leaves of the lists. -/

namespace Sys2Proof.Machine

open Host

/-! ### The thread as it starts (R214) -/

/-- Of two writes to an empty store, the later one is read first. -/
theorem sget_sput_sput_nil {α : Type} [DecidableEq α] (d v w : α) (i j k : Nat) :
    sget d (sput d (sput d [] i v) j w) k = if k = j then w else if k = i then v else d := by
  rw [sget_sput (sput_wf (swf_nil d) _ _), sget_sput (swf_nil d), sget_nil]

section start
variable (s : State) (t : Nat) (x : DlrItem)

theorem startState_dreg (k : BitVec 4) :
    (startState s t x).dreg k = if k = 2 then wordOf x.w 1 else if k = 1 then wordOf x.w 0 else 0 := by
  by_cases zero : k = 0
  · subst zero
    rfl
  · rw [Thread.dreg, if_neg zero]
    simp only [BitVec.toNat_eq (x := k)]
    exact sget_sput_sput_nil (α := Word) ..

theorem startState_areg (k : BitVec 3) : (startState s t x).areg k =
    if k = 7 then BitVec.ofNat 48 (0x108000 + 0x1000 * (t % 8)) else if k = 1 then BitVec.ofNat 48 (0x10F000 + 0x140 * (t % 8)) else 0 := by
  simp only [BitVec.toNat_eq (x := k)]
  exact sget_sput_sput_nil (α := Addr) ..

/-- R214, R220: the level is the program's, with interrupts enabled and no exception in work. -/
theorem startState_tsr : (startState s t x).level = bits (s.program x.prog) 30 30 ∧ bitAt (startState s t x).tsr 29 = true ∧
    bitAt (startState s t x).tsr 28 = false := by
  have fits : bits (s.program x.prog) 30 30 < 2 := Nat.mod_lt _ (by decide)
  have tsr : (startState s t x).tsr = at' (bits (s.program x.prog) 30 30) 30 ||| at' 1 29 := rfl
  have either (i : Nat) : bitAt (startState s t x).tsr i = (bitAt (at' (bits (s.program x.prog) 30 30) 30) i || bitAt (at' 1 29) i) := by
    rw [tsr]; exact BitVec.getLsbD_or
  refine ⟨?_, ?_, ?_⟩
  · rw [Thread.level, tsr]
    simp (disch := omega) only [bits_or, bits_at', bits_at'_below, Nat.or_zero]
  · rw [either, bitAt_at' (by decide), bitAt_at' (by decide)]; rfl
  · rw [either, bitAt_at' (by decide), bitAt_at' (by decide)]; rfl

end start

/-! ### The dispatch area (R176) -/

/-- Bytes just written are read back. -/
theorem readBytes_writeBytes_append (bs cs : List Byte) {m : SMap Byte} (h : swf 0 m = true) (a : Nat) :
    readBytes (writeBytes m a (bs ++ cs)) a bs.length = bs := by
  induction bs generalizing m a with
  | nil => rfl
  | cons b bs ih =>
    have byte : sget 0 (writeBytes (sput 0 m a b) (a + 1) (bs ++ cs)) a = b := by
      rw [sget_writeBytes _ _ _ (sput_wf h a b), if_neg (by omega), sget_sput h, if_pos rfl]
    exact congrArg₂ List.cons byte (ih (sput_wf h a b) (a + 1))

theorem length_itemBytes (w : List Word) : (w.flatMap fun v => leBytes 4 v.toNat).length = 4 * w.length := by
  simp [List.length_flatMap, length_leBytes, Nat.mul_comm]

/-! ### One dispatch (R180, R182, R184) -/

/-- R183, R184: item `x`, first of its list, leaves the ready list of group `g` and priority `p` for thread `t`. -/
def State.served (s : State) (g p t : Nat) (r : List DlrItem) : State :=
  s.setDlr { s.dlr with
    ready := sput [] s.dlr.ready (16 * g + p) r
    share := sput 0 s.dlr.share g (sget 0 s.dlr.share g + 1)
    lastGroup := g
    lastCore := sput 127 s.dlr.lastCore g (coreOf t) }

/-- R176, R197, R214: a work item that is no packet is handed to thread `t` with no buffer. -/
def State.started (s : State) (t : Nat) (x : DlrItem) : State :=
  (((s.setMems { s.mems with scratch := writeBytes s.mems.scratch (dispatchOff t) (dispatchArea x) }).setThread t (startState s t x)).setTpri t
    { s.tpri t with busy := true, base := x.prio }).count (dlrBase + 0x900)

theorem dispatchTo_work {x : DlrItem} (work : x.isPacket = false) (s : State) (t : Nat) : dispatchTo s t x = s.started t x := by
  rw [dispatchTo, work]
  rfl

theorem thread_started {s : State} (cores : Cores.wf s.cores = true) (t : Nat) (x : DlrItem) (k : Nat) :
    (s.started t x).thread k = if k = t then startState s t x else s.thread k :=
  State.thread_setThread (s := s.setMems { s.mems with scratch := writeBytes s.mems.scratch (dispatchOff t) (dispatchArea x) }) cores ..

theorem dlr_started (s : State) (t : Nat) (x : DlrItem) : (s.started t x).dlr =
    { s.dlr with tpri := sput ThreadPrio.none s.dlr.tpri t { s.tpri t with busy := true, base := x.prio } } := rfl

theorem counters_started (s : State) (t : Nat) (x : DlrItem) : (s.started t x).counters = (s.count (dlrBase + 0x900)).counters := by
  simp [State.started, State.setTpri, State.count, State.countN]

theorem regs_started (s : State) (t : Nat) (x : DlrItem) : (s.started t x).regs = s.regs := by
  simp [State.started, State.setTpri]

theorem scratch_started (s : State) {x : DlrItem} (work : x.isPacket = false) (t : Nat) : (s.started t x).mems.scratch =
    writeBytes s.mems.scratch (dispatchOff t) ((x.w.flatMap fun w => leBytes 4 w.toNat) ++ leBytes 256 0) := by
  have area : dispatchArea x = (x.w.flatMap fun w => leBytes 4 w.toNat) ++ leBytes 256 0 := by rw [dispatchArea, work]; rfl
  rw [← area]
  rfl

theorem stopAfterExit_only (s : State) : ∃ stop, stopAfterExit s = s.setDlr { s.dlr with stop := stop } := by
  unfold stopAfterExit
  split <;> exact ⟨_, rfl⟩

theorem exec_dlrDispatch_frozen {s : State} (frozen : s.dev = .frozen) : exec .dlrDispatch s = .next s := if_pos frozen

theorem exec_dlrDispatch_ready {s : State} {g p t : Nat} {x : DlrItem} {r : List DlrItem} (live : s.dev ≠ .frozen)
    (group : s.chooseGroup = some g) (list : s.chooseList g = some (.ready p)) (thread : s.chooseThread g = some t)
    (first : s.readyList g p = x :: r) (fast : x.slow = false) :
    exec .dlrDispatch s = .next (stopAfterExit (dispatchTo (s.served g p t r) t x)) := by
  change execDlrDispatch s = _
  simp only [execDlrDispatch, if_neg live, group, list, thread, takeItem, first, fast, Bool.false_eq_true, false_and, if_false]
  rfl

/-! ### Trump (R185) and inherited priorities (R198) -/

theorem exec_dlrTrump_aged {s : State} {g : Fin 16} {x : DlrItem}
    (oldest : firstIn ((((List.range 16).flatMap fun p => s.readyList g p) ++ (if s.fld (dlrBase + 8) 31 28 = g.val then s.dlr.slow else [])).filter
      fun x => usFtu (s.fld (dlrBase + 0x300 + 4 * g) 23 16) ≤ s.elapsed x.since) = some x) (fast : x.slow = false) :
    exec (.dlrTrump g) s = .next ((s.setDlr { s.dlr with
      slow := s.dlr.slow.filter fun y => y.seq != x.seq
      ready := sput [] s.dlr.ready (16 * g + x.prio) ((s.readyList g x.prio).filter fun y => y.seq != x.seq)
      trump := sput [] s.dlr.trump g (insertSeq (x.setW 0 0x40000000 0x40000000) (s.trumpList g)) }).count (dlrBase + 0x904)) := by
  change execDlrTrump g s = _
  simp only [execDlrTrump, oldest, fast]
  rfl

theorem waitedLock_setDlr (s : State) (d : Dlr) (t : Nat) : (s.setDlr d).waitedLock t = s.waitedLock t := rfl

theorem waitedLock_count (s : State) (off t : Nat) : (s.count off).waitedLock t = s.waitedLock t := rfl

theorem exec_dlrInhSignal_none {s : State} (none : s.dlr.inhBox = []) : exec .dlrInhSignal s = .next s := by
  change execDlrInhSignal s = _
  simp only [execDlrInhSignal, none]

/-- R198: a thread that waits on no lock passes its new priority to no holder. -/
theorem exec_dlrInhSignal_free {s : State} {t : Nat} {v : Option Nat} {rest : List (Nat × Option Nat)} (first : s.dlr.inhBox = (t, v) :: rest)
    (free : s.waitedLock t = none) : exec .dlrInhSignal s = .next ((s.setDlr { s.dlr with
      inhBox := rest, tpri := sput ThreadPrio.none s.dlr.tpri t { s.tpri t with inh := v } }).count (dlrBase + 0x920)) := by
  change execDlrInhSignal s = _
  simp only [execDlrInhSignal, first, State.setTpri, waitedLock_setDlr, waitedLock_count, free, Option.bind_none]
  rfl

end Sys2Proof.Machine

open Sys2Proof Sys2Proof.Machine Host

theorem itemsAreDispatchedAndTrumped : Claim.ItemsAreDispatchedAndTrumped := by
  intro s
  refine ⟨exec_dlrDispatch_frozen, fun g p x r t live wf group list thread first fast work _ => ?_,
    fun g x oldest fast => ⟨_, exec_dlrTrump_aged oldest fast, rfl, rfl⟩, exec_dlrInhSignal_none,
    fun t v rest first free => ⟨_, exec_dlrInhSignal_free first free, rfl, rfl⟩⟩
  have run := exec_dlrDispatch_ready live group list thread first fast
  obtain ⟨v, handed⟩ : ∃ v, v = (s.served g p t r).started t x := ⟨_, rfl⟩
  obtain ⟨stop, exits⟩ := stopAfterExit_only v
  rw [dispatchTo_work work, ← handed, exits] at run
  obtain ⟨memories, -, -, cores⟩ := wf
  have threads (k : Nat) : v.thread k = if k = t then startState s t x else s.thread k := by
    rw [handed]; exact thread_started (s := s.served g p t r) cores t x k
  have dlr := handed ▸ dlr_started (s.served g p t r) t x
  have scratch := handed ▸ scratch_started (s.served g p t r) work t
  refine ⟨_, run, ?_⟩
  beta_reduce
  intro th
  have starts : th = startState s t x := (threads t).trans (if_pos rfl)
  clear_value th
  subst starts
  obtain ⟨level, enabled, exl⟩ := startState_tsr s t x
  have d := startState_dreg s t x
  have a := startState_areg s t x
  refine ⟨rfl, rfl, level, enabled, exl, d 1, d 2, fun k not1 not2 => ?_, a 1, a 7, fun k not1 not7 => ?_, rfl, ?_,
    congrArg Dlr.ready dlr, congrArg Dlr.lastGroup dlr, congrArg Dlr.tpri dlr, fun k other => (threads k).trans (if_neg other),
    handed ▸ counters_started (s.served g p t r) t x, handed ▸ regs_started (s.served g p t r) t x⟩
  · rw [d, if_neg not2, if_neg not1]
  · rw [a, if_neg not7, if_neg not1]
  · change readBytes v.mems.scratch (dispatchOff t) _ = _
    rw [scratch, ← length_itemBytes]
    exact readBytes_writeBytes_append _ _ ((Memory.wf_iff _).1 memories).2.1 _

end

section
/-! SUPPORT. Delay lists (R191–R193): what a tick boundary does to the list of one group. -/

namespace Sys2Proof.Machine

open Host

/-! ### Delay lists of one group -/

/-- The delay lists are empty but for that of group `g`, which is `l`. -/
def State.delaysOnly (s : State) (g : Nat) (l : List DlrItem) : Prop := s.dlr.delay = sput [] [] g l

section only
variable {s : State} {g : Nat} {l : List DlrItem} (only : s.delaysOnly g l)

include only

theorem delayList_only : s.delayList g = l := by
  rw [State.delayList, only, sget_sput (swf_nil []), if_pos rfl]

theorem setDelay_only (l' : List DlrItem) : s.setDelay g l' = s.setDlr { s.dlr with delay := sput [] [] g l' } := by
  have again : sput [] (sput [] [] g l) g l' = sput [] [] g l' := by by_cases empty : l = [] <;> simp [sput, empty]
  rw [State.setDelay, only, again]

theorem setDelay_same : s.setDelay g l = s := by
  rw [setDelay_only only, ← only]
  rfl

theorem delaysOnly_setDelay (l' : List DlrItem) : (s.setDelay g l').delaysOnly g l' := by
  rw [setDelay_only only]
  rfl

theorem setDelay_setDelay (l' l'' : List DlrItem) : (s.setDelay g l').setDelay g l'' = s.setDelay g l'' := by
  rw [setDelay_only (delaysOnly_setDelay only l'), setDelay_only only, setDelay_only only]
  rfl

theorem delayList_other {k : Nat} (other : k ≠ g) : s.delayList k = [] := by
  rw [State.delayList, only, sget_sput (swf_nil []), if_neg other, sget_nil]

theorem delaysOnly_enterReady (x : DlrItem) : (enterReady s x).delaysOnly g l := by
  rw [State.delaysOnly, dlr_enterReady]
  exact only

theorem setDelay_other {k : Nat} (other : k ≠ g) : s.setDelay k [] = s := by
  have same : sput [] s.dlr.delay k [] = s.dlr.delay := by
    rw [only]
    by_cases empty : l = [] <;> simp [sput, empty, other]
  rw [State.setDelay, same]
  rfl

end only

/-! ### DLR_TICK (R192, R193) -/

/-- R192: the tick boundary `b` for the delay list of group `g`. -/
def serveDelays (b : Nat) (s : State) (g : Nat) : State :=
  let s1 := releaseGroup g ((s.delayList g).filter fun x => x.due ≤ b) (s.setDelay g [])
  s1.setDelay g (s1.delayList g ++ (s.delayList g).filter fun x => !(x.due ≤ b))

section tick
variable {s : State} (ticks : 0 < s.tickFtu) {b : Nat} (boundary : s.nowN / s.tickFtu * s.tickFtu = b)

include ticks boundary

theorem exec_dlrTick_served (past : b ≤ s.dlr.lastTick.toNat) : exec .dlrTick s = .next s := by
  change execDlrTick s = _
  simp only [execDlrTick, if_neg ticks.ne', boundary, past, or_true, if_true]

theorem exec_dlrTick_boundary (live : s.dev ≠ .frozen) (ahead : s.dlr.lastTick.toNat < b) : exec .dlrTick s =
    .next ((List.range 16).foldl (serveDelays b) (s.setDlr { s.dlr with lastTick := BitVec.ofNat 64 b })) := by
  change execDlrTick s = _
  simp only [execDlrTick, if_neg ticks.ne', boundary, live, Nat.not_le.2 ahead, or_self, if_false]
  rfl

end tick

theorem serveDelays_other {s : State} {g k b : Nat} {l : List DlrItem} (only : s.delaysOnly g l) (other : k ≠ g) :
    serveDelays b s k = s := by
  simp only [serveDelays, delayList_other only other, List.filter_nil, List.append_nil, setDelay_other only other, releaseGroup]

/-- R192: a boundary acts on the one group that has entries. -/
theorem serveDelays_once {s : State} {g b : Nat} {l l' : List DlrItem} (low : g < 16) (only : s.delaysOnly g l)
    (after : (serveDelays b s g).delaysOnly g l') : (List.range 16).foldl (serveDelays b) s = serveDelays b s g :=
  foldl_of_once List.nodup_range (List.mem_range.2 low) (fun _ _ other => serveDelays_other only other)
    fun _ _ other => serveDelays_other after other

/-! ### One entry (R192, R193) -/

theorem releaseGroup_stopped {s : State} {g : Nat} {x : DlrItem} (stopped : s.stopped g = true) (fresh : x.late = false) :
    releaseGroup g [x] s = (s.setDelay g (s.delayList g ++ [{ x with late := true }])).count (dlrBase + 0x91C) := by
  simp [releaseGroup, stopped, fresh]

theorem releaseGroup_flow {s : State} {g : Nat} {x : DlrItem} (flow : s.stopped g = false) (live : s.dev ≠ .swap) :
    releaseGroup g [x] s = releaseDue s x := by
  simp [releaseGroup, flow, live]

theorem releaseDue_good {s : State} {x : DlrItem} (group : s.emptyGroup x.group = false) (prog : s.validProgram x.prog = true)
    (kind : x.kind ≠ 4) : releaseDue s x = enterReady s x := by
  simp [releaseDue, group, prog, kind]

section one
variable {s : State} {g b : Nat} {x : DlrItem} (only : s.delaysOnly g [x])

include only

theorem serveDelays_early (early : b < x.due) : serveDelays b s g = s := by
  have none := delayList_only (delaysOnly_setDelay only [])
  simp [serveDelays, delayList_only only, Nat.not_le.2 early, releaseGroup, none, setDelay_setDelay only, setDelay_same only]

variable (due : x.due ≤ b)

include due

theorem serveDelays_due {u : State} {l : List DlrItem} (released : releaseGroup g [x] (s.setDelay g []) = u) (left : u.delaysOnly g l) :
    serveDelays b s g = u := by
  simp [serveDelays, delayList_only only, due, released, delayList_only left, setDelay_same left]

/-- R193: an entry that stays past its boundary is marked and counted. -/
theorem serveDelays_stopped (stopped : s.stopped g = true) (fresh : x.late = false) : serveDelays b s g =
    (s.setDlr { s.dlr with delay := sput [] [] g [{ x with late := true }] }).count (dlrBase + 0x91C) := by
  refine serveDelays_due only due (l := [{ x with late := true }]) ?_ rfl
  rw [releaseGroup_stopped (by exact stopped) fresh, delayList_only (delaysOnly_setDelay only []), List.nil_append,
    setDelay_setDelay only, setDelay_only only]

/-- R192: a due entry of a group in FLOW goes the way of every item that enters a ready list. -/
theorem serveDelays_flow (flow : s.stopped g = false) (live : s.dev ≠ .swap) (cores : s.emptyGroup x.group = false)
    (prog : s.validProgram x.prog = true) (kind : x.kind ≠ 4) : serveDelays b s g = enterReady (s.setDlr { s.dlr with delay := [] }) x := by
  have emptied : s.setDelay g [] = s.setDlr { s.dlr with delay := [] } := setDelay_only only []
  refine serveDelays_due only due (l := []) ?_ (delaysOnly_enterReady (by rfl) x)
  rw [emptied, releaseGroup_flow (by exact flow) (by exact live), releaseDue_good (by exact cores) (by exact prog) kind]

end one

end Sys2Proof.Machine

open Sys2Proof Sys2Proof.Machine Host

theorem ticksReleaseDueEntries : Claim.TicksReleaseDueEntries := by
  intro s g x delay group ticks run b
  have live : s.dev ≠ .frozen ∧ s.dev ≠ .swap := by rw [run]; decide
  refine ⟨exec_dlrTick_served ticks rfl, fun ahead _ => ?_⟩
  let v := s.setDlr { s.dlr with lastTick := BitVec.ofNat 64 b }
  have only : v.delaysOnly g [x] := delay
  have ticked {u : State} (l : List DlrItem) (served : serveDelays b v g = u) (after : u.delaysOnly g l) : exec .dlrTick s = .next u := by
    rw [exec_dlrTick_boundary ticks rfl live.1 ahead, serveDelays_once g.isLt only (by rw [served]; exact after), served]
  refine ⟨fun early => ticked [x] (serveDelays_early only early) only, fun due stopped fresh => ?_, fun due flow cores prog kind => ?_⟩
  · exact ⟨_, ticked [{ x with late := true }] (serveDelays_stopped only due stopped fresh) rfl, rfl, rfl⟩
  · have served := serveDelays_flow only due flow (by exact live.2) (by rw [group]; exact cores) prog kind
    refine ⟨_, ticked [] served (delaysOnly_enterReady (by rfl) x), ?_, enterReady_only _ x⟩
    rw [← group]
    exact dlr_enterReady _ x

/-- Settles O41: entries by the list that takes them, a dispatch by the thread it starts, a tick by the one group that has an entry. -/
theorem dealerDispatch : Obligations.DealerDispatch := ⟨itemsJoinTheirLists, itemsAreDispatchedAndTrumped, ticksReleaseDueEntries⟩

end

section
/-! SUPPORT. How an instruction of a core ends (R206, R247): in an exception, in registers of its own thread, or beside them. -/

namespace Sys2Proof.Machine

open Host

/-! ### An exception of a thread in any state of its tables -/

/-- A thread that is not IDLE is found as it was stored, in whatever order the threads are listed. -/
theorem thread_setThread_self {v : Thread} (h : v.state ≠ .idle) (s : State) (t : Nat) : (s.setThread t v).thread t = v :=
  sget_sput_self (by rintro rfl; exact h rfl) _ _

theorem enterHandler_state (th : Thread) (l code : Nat) (epc einfo : Addr) : (enterHandler th l code epc einfo).state = th.state := by
  unfold enterHandler; dsimp only; split <;> rfl

theorem enterHandler_haltReq (th : Thread) (l code : Nat) (epc einfo : Addr) :
    (enterHandler th l code epc einfo).haltReq = th.haltReq := by
  unfold enterHandler; dsimp only; split <;> rfl

/-- R250: the thread that a second exception halts. -/
theorem thread_doubleFault (s : State) (t code : Nat) (pc : Addr) :
    (doubleFault s t code pc).thread t = { s.thread t with state := .halt, wait := .none, haltReq := false, stepArmed := false } := by
  have logged : (doubleFault s t code pc).thread t = (haltThread s t).thread t := by simp only [State.thread, doubleFault, logEvent_cores]
  rw [logged, haltThread, holdChannels_thread, State.modThread, thread_setThread_self (by simp)]

/-- R245: an exception of a working thread halts it, or moves it to a handler. -/
theorem thread_takeException {s : State} {t : Nat} (work : (s.thread t).state ≠ .idle) (code : Nat) (epc einfo : Addr) :
    (takeException s t code epc einfo).thread t =
        { s.thread t with state := .halt, wait := .none, haltReq := false, stepArmed := false } ∨
      ∃ l c info, (takeException s t code epc einfo).thread t = enterHandler (s.thread t) l c epc info := by
  have entered (l c info) : (s.setThread t (enterHandler (s.thread t) l c epc info)).thread t = enterHandler (s.thread t) l c epc info :=
    thread_setThread_self (by rwa [enterHandler_state]) s t
  unfold takeException
  dsimp only
  split
  · split
    · split
      · exact .inl (thread_doubleFault ..)
      · exact .inr ⟨_, _, _, entered ..⟩
    · exact .inr ⟨_, _, _, entered ..⟩
  · split
    · exact .inl (thread_doubleFault ..)
    · exact .inr ⟨_, _, _, entered ..⟩

/-- R276: a working thread without a STEP has none after an exception. -/
theorem endStep_takeException {s : State} {t : Nat} (work : (s.thread t).state ≠ .idle) (n : (s.thread t).stepArmed = false)
    (code : Nat) (epc einfo : Addr) : endStep (takeException s t code epc einfo) t = takeException s t code epc einfo := by
  refine endStep_no ?_
  rcases thread_takeException work code epc einfo with h | ⟨l, c, info, h⟩
  · rw [h]
  · rw [h, enterHandler_stepArmed, n]

/-- R276: a working thread that is not asked to halt is not after an exception. -/
theorem haltReq_takeException {s : State} {t : Nat} (work : (s.thread t).state ≠ .idle) (n : (s.thread t).haltReq = false)
    (code : Nat) (epc einfo : Addr) : ((takeException s t code epc einfo).thread t).haltReq = false := by
  rcases thread_takeException work code epc einfo with h | ⟨l, c, info, h⟩
  · rw [h]
  · rw [h, enterHandler_haltReq, n]

/-! ### Issue (R206, R210) -/

theorem issue_no {s : State} {t : ThreadId} (h : (s.thread t).issues = false) (w : Word) (legal permitted : Bool)
    (body : Thread → Result) : issue s t w legal permitted body = s := by
  simp [issue, h]

/-- R210: a thread in RUN whose PC is bad raises FETCH_FAULT. -/
theorem issue_badPc {s : State} {t : ThreadId} (run : (s.thread t).state = .run) (free : (s.thread t).outstanding = none)
    (n : (s.thread t).stepArmed = false) (bad : badPc (s.thread t).pc = true) (w : Word) (legal permitted : Bool)
    (body : Thread → Result) : issue s t w legal permitted body =
      takeException s t codeFetchFault (s.thread t).pc ((s.thread t).jumpFrom.getD (s.thread t).pc) := by
  have issues : (s.thread t).issues = true := by simp [Thread.issues, run, free]
  simp only [issue, issues, bad, if_true, settle]
  exact endStep_takeException (by simp [run]) n ..

/-- R222, R244: an instruction of a ready thread that fails its level check raises PRIV with its word. -/
theorem issue_priv {s : State} {t : ThreadId} (h : s.ready t) (w : Word) (body : Thread → Result) :
    issue s t w true false body = takeException s t codePriv (s.thread t).pc (w.setWidth 48) := by
  simp only [issue, h.issues, h.fetch, if_true, Bool.false_eq_true, if_false, Bool.not_true, Bool.not_false]
  exact settle_raise h _ _ _

/-! ### Results in registers of the thread -/

section rows
variable {i : Instr} {s : State} {t : ThreadId} {w : Word} {legal : Bool} (ready : s.ready t)

include ready

/-- A row that writes registers of its thread retires. -/
theorem retires_regs {g : Thread → Thread} {v : Thread} (check : legal = true)
    (row : exec i s = .next (issue s t w legal true fun th => Result.regs s t (g th))) (value : g (s.thread t) = v)
    (state : v.state = (s.thread t).state) (step : v.stepArmed = (s.thread t).stepArmed) : Retires i s t v :=
  retires_row ready row check rfl (by rw [value]; rfl) (state.trans ready.run) (step.trans ready.noStep)

/-- A row that writes one D register. -/
theorem retires_setD {rd : BitVec 4} {g : Thread → Word} {v : Word} (check : legal = true)
    (row : exec i s = .next (issue s t w legal true fun th => Result.regs s t (th.setD rd (g th)))) (value : g (s.thread t) = v) :
    Retires i s t ((s.thread t).setD rd v) :=
  retires_regs ready check row (by rw [value]) (by simp) (by simp)

/-- A row that writes one A register. -/
theorem retires_setA {rd : BitVec 3} {g : Thread → Addr} {v : Addr} (check : legal = true)
    (row : exec i s = .next (issue s t w legal true fun th => Result.regs s t (th.setA rd (g th)))) (value : g (s.thread t) = v) :
    Retires i s t ((s.thread t).setA rd v) :=
  retires_regs ready check row (by rw [value]) rfl rfl

/-- A row that writes one accumulator. -/
theorem retires_setAcc {rd : BitVec 1} {g : Thread → Acc} {v : Acc} (check : legal = true)
    (row : exec i s = .next (issue s t w legal true fun th => Result.regs s t (th.setAcc rd (g th)))) (value : g (s.thread t) = v) :
    Retires i s t ((s.thread t).setAcc rd v) :=
  retires_regs ready check row (by rw [value]) (by simp) (by simp)

/-- A row that writes one D register and TSR. -/
theorem retires_setD_tsr {rd : BitVec 4} {g : Thread → Word} {tsr : Thread → Word} {v : Word} (check : legal = true)
    (row : exec i s = .next (issue s t w legal true fun th => Result.regs s t { th.setD rd (g th) with tsr := tsr th }))
    (value : g (s.thread t) = v) : Retires i s t { (s.thread t).setD rd v with tsr := tsr (s.thread t) } :=
  retires_regs ready check row (by rw [value]) (by simp) (by simp)

end rows

end Sys2Proof.Machine

open Sys2Proof Sys2Proof.Machine Host

/-- Settles O7: every form is an `issue`, which a thread that cannot issue passes over and a bad PC ends in FETCH_FAULT. -/
theorem instructionsAreFetched : Obligations.InstructionsAreFetched := by
  intro i s c form th
  obtain ⟨legal, permitted, body, e, -⟩ := coreForm_issuedBy form s
  have passes (h : th.issues = false) : exec i s = .next s := by rw [e, issue_no h]
  refine ⟨fun busy => passes ?_, fun state => passes ?_, fun halt unarmed => passes ?_, fun run free unarmed bad => ?_⟩
  · obtain ⟨o, ho⟩ := Option.ne_none_iff_exists'.1 busy
    simp [Thread.issues, ho]
  · rcases state with h | h <;> simp [Thread.issues, h]
  · simp [Thread.issues, halt, unarmed]
  · have badPc : badPc th.pc = true := by
      rw [Machine.badPc, Bool.or_eq_true, decide_eq_true_eq, bne_iff_ne]
      exact bad
    rw [Raises, e, issue_badPc run free unarmed badPc, codeFetchFault]

/-- R225: the illegal words of one major opcode, from those of all. -/
theorem illegalIn (op : Nat) : Claim.IllegalIn op := fun i s c form _ => reservedFieldsRaiseIllegal i s c form

end

section
/-! SUPPORT. The ALU (R227): each row's value in the arithmetic of the manual, and the bits of TSR that a row writes. -/

namespace Sys2Proof.Machine

open Host

/-! ### Bits of a word -/

@[simp] theorem bitAt_or (a b : Word) (k : Nat) : bitAt (a ||| b) k = (bitAt a k || bitAt b k) := BitVec.getLsbD_or
@[simp] theorem bitAt_and (a b : Word) (k : Nat) : bitAt (a &&& b) k = (bitAt a k && bitAt b k) := BitVec.getLsbD_and

theorem bitAt_not {k : Nat} (h : k < 32) (a : Word) : bitAt (~~~a) k = !bitAt a k := by
  change (~~~a).getLsbD k = !a.getLsbD k
  simp [h]

theorem bitAt_ofNat {k : Nat} (h : k < 32) (n : Nat) : bitAt (BitVec.ofNat 32 n) k = n.testBit k := by
  rw [bitAt, BitVec.toNat_ofNat, Nat.testBit_mod_two_pow, decide_eq_true h, Bool.true_and]

theorem bitAt_setBit {k : Nat} (h : k < 32) (w : Word) (i : Nat) (b : Bool) :
    bitAt (setBit w i b) k = if k = i then b else bitAt w k := by
  have bit : bitAt (BitVec.ofNat 32 (2 ^ i)) k = decide (k = i) := by
    rw [bitAt_ofNat h, Nat.testBit_two_pow, decide_eq_decide, eq_comm]
  rw [setBit, apply_ite (bitAt · k), bitAt_or, bitAt_and, bitAt_not h, bit]
  by_cases e : k = i <;> cases b <;> simp [e]

theorem onlyBit_setBit (w : Word) (i : Nat) (b : Bool) : OnlyBit w (setBit w i b) i b := fun _ h => bitAt_setBit h w i b

/-- A number built bit by bit. -/
theorem testBit_foldl_bits (p : Nat → Bool) (n : Nat) :
    let v := (List.range n).foldl (fun acc i => acc + b2n (p i) * 2 ^ i) 0
    v < 2 ^ n ∧ ∀ k, v.testBit k = (decide (k < n) && p k) := by
  induction n with
  | zero => exact ⟨Nat.one_pos, fun k => by simp⟩
  | succ n ih =>
    obtain ⟨small, bits⟩ := ih
    simp only [List.range_succ, List.foldl_append, List.foldl_cons, List.foldl_nil]
    generalize (List.range n).foldl (fun acc i => acc + b2n (p i) * 2 ^ i) 0 = v at small bits
    have one : b2n (p n) < 2 := by cases p n <;> decide
    refine ⟨by rw [Nat.pow_succ]; nlinarith, fun k => ?_⟩
    rw [Nat.add_comm, Nat.mul_comm, Nat.testBit_two_pow_mul_add _ small]
    split
    · next lt => rw [bits, decide_eq_true lt, decide_eq_true (Nat.lt_succ_of_lt lt)]
    · next ge =>
      rcases Nat.lt_or_eq_of_le (Nat.not_lt.1 ge) with lt | rfl
      · rw [decide_eq_false (by omega), Nat.testBit_lt_two_pow (one.trans_le (Nat.le_self_pow (by omega) 2)), Bool.false_and]
      · rw [Nat.sub_self, decide_eq_true (Nat.lt_succ_self n)]
        cases p n <;> rfl

/-! ### TSR after sums (R220, R227) -/

theorem nibbleCarry_eq (a b : Word) (c i : Nat) :
    nibbleCarry a b c i = decide (16 ^ (i + 1) ≤ a.toNat % 16 ^ (i + 1) + b.toNat % 16 ^ (i + 1) + c) := by
  have radix : 2 ^ (4 * (i + 1)) = 16 ^ (i + 1) := by rw [Nat.pow_mul]
  rw [nibbleCarry, radix]

/-- R227: C is the carry out, and the eight bits of HC are the nibble carries. -/
theorem bitAt_addFlags {k : Nat} (h : k < 32) (tsr a b : Word) (c : Nat) : bitAt (addFlags tsr a b c) k =
    if k = 16 then decide (2 ^ 32 ≤ a.toNat + b.toNat + c)
    else if 8 ≤ k ∧ k < 16 then decide (16 ^ (k - 7) ≤ a.toNat % 16 ^ (k - 7) + b.toNat % 16 ^ (k - 7) + c)
    else bitAt tsr k := by
  have clear : bitAt 0xFFFF00FF k = decide (¬(8 ≤ k ∧ k < 16)) := by
    have all : ∀ k : Fin 32, bitAt 0xFFFF00FF k = decide (¬(8 ≤ k.val ∧ k.val < 16)) := by decide
    exact all ⟨k, h⟩
  have carries : (halfCarries a b c).testBit (k - 8) = (decide (k - 8 < 8) && nibbleCarry a b c (k - 8)) :=
    (testBit_foldl_bits (nibbleCarry a b c) 8).2 _
  rw [addFlags, bitAt_setBit h, bitAt_or, bitAt_and, clear, bitAt_at' h, carries, nibbleCarry_eq]
  by_cases nibble : 8 ≤ k ∧ k < 16
  · have index : k - 8 + 1 = k - 7 := by omega
    simp [tsrC, nibble, index, show k - 8 < 8 by omega]
  · by_cases low : 8 ≤ k
    · simp [tsrC, low, show ¬k - 8 < 8 by omega, show ¬k < 16 by omega]
    · simp [tsrC, low]

theorem onlyBit_subFlags (tsr a b : Word) (c : Nat) : OnlyBit tsr (subFlags tsr a b c) 16 (decide (a.toNat < b.toNat + c)) :=
  onlyBit_setBit tsr 16 _

/-! ### Values (R227) -/

theorem sshiftRight_eq_ofInt {w : Nat} (a : BitVec w) (n : Nat) : a.sshiftRight n = BitVec.ofInt w (a.toInt / 2 ^ n) := by
  have shift : a.toInt / 2 ^ n = (a.sshiftRight n).toInt := by
    rw [BitVec.toInt_sshiftRight, Int.shiftRight_eq_div_pow, Nat.cast_pow, Nat.cast_ofNat]
  rw [shift, BitVec.ofInt_toInt]

theorem rotateRight_eq {n : Nat} (h : n < 32) (a : Word) : a.rotateRight n = a >>> n ||| a <<< (32 - n) := by
  rw [BitVec.rotateRight_def, Nat.mod_eq_of_lt h]

theorem min_signed (a b : Word) : (if a.slt b then a else b) = BitVec.ofInt 32 (min a.toInt b.toInt) := by
  simp only [BitVec.slt_iff_toInt_lt]
  split
  · next h => rw [min_eq_left h.le, BitVec.ofInt_toInt]
  · next h => rw [min_eq_right (not_lt.1 h), BitVec.ofInt_toInt]

theorem max_signed (a b : Word) : (if a.slt b then b else a) = BitVec.ofInt 32 (max a.toInt b.toInt) := by
  simp only [BitVec.slt_iff_toInt_lt]
  split
  · next h => rw [max_eq_right h.le, BitVec.ofInt_toInt]
  · next h => rw [max_eq_left (not_lt.1 h), BitVec.ofInt_toInt]

theorem min_unsigned (a b : Word) : (if a.ult b then a else b) = BitVec.ofNat 32 (min a.toNat b.toNat) := by
  simp only [BitVec.ult_iff_lt, BitVec.lt_def]
  split
  · next h => rw [min_eq_left h.le, BitVec.ofNat_toNat, BitVec.setWidth_eq]
  · next h => rw [min_eq_right (not_lt.1 h), BitVec.ofNat_toNat, BitVec.setWidth_eq]

theorem max_unsigned (a b : Word) : (if a.ult b then b else a) = BitVec.ofNat 32 (max a.toNat b.toNat) := by
  simp only [BitVec.ult_iff_lt, BitVec.lt_def]
  split
  · next h => rw [max_eq_right h.le, BitVec.ofNat_toNat, BitVec.setWidth_eq]
  · next h => rw [max_eq_left (not_lt.1 h), BitVec.ofNat_toNat, BitVec.setWidth_eq]

theorem flagWord_slt (a b : Word) : flagWord (a.slt b) = if a.toInt < b.toInt then 1 else 0 := by
  simp only [flagWord, BitVec.slt_iff_toInt_lt]

theorem flagWord_ult (a b : Word) : flagWord (a.ult b) = if a.toNat < b.toNat then 1 else 0 := by
  simp only [flagWord, BitVec.ult_iff_lt, BitVec.lt_def]

theorem mul_signed (a b : Word) : a * b = BitVec.ofInt 32 (a.toInt * b.toInt) := by
  rw [BitVec.ofInt_mul, BitVec.ofInt_toInt, BitVec.ofInt_toInt]

/-- The high half of 64 bits, read as signed. -/
theorem highHalf_signed (x : BitVec 64) : x.extractLsb' 32 32 = BitVec.ofInt 32 (x.toInt / 2 ^ 32) := by
  refine BitVec.eq_of_toNat_eq ?_
  rw [BitVec.extractLsb'_toNat, BitVec.toNat_ofInt, BitVec.toInt_eq_toNat_cond, Nat.shiftRight_eq_div_pow]
  have := x.isLt
  split <;> omega

theorem mulHigh_eq (a b : Word) : mulHigh a b = BitVec.ofInt 32 (a.toInt * b.toInt / 2 ^ 32) := by
  have exact64 : (a.signExtend 64 * b.signExtend 64).toInt = a.toInt * b.toInt := by
    rw [BitVec.toInt_mul, BitVec.toInt_signExtend_of_le (by decide), BitVec.toInt_signExtend_of_le (by decide)]
    have la := a.le_toInt
    have ha := a.toInt_lt
    have lb := b.le_toInt
    have hb := b.toInt_lt
    refine Int.bmod_eq_of_le_mul_two ?_ ?_ <;> norm_num at * <;> nlinarith
  rw [mulHigh, highHalf_signed, exact64]

theorem mulHighU_eq (a b : Word) : mulHighU a b = BitVec.ofNat 32 (a.toNat * b.toNat / 2 ^ 32) := by
  have product : a.toNat * b.toNat < 2 ^ 64 :=
    (Nat.mul_lt_mul'' a.isLt b.isLt).trans_eq (by norm_num)
  refine BitVec.eq_of_toNat_eq ?_
  rw [mulHighU, BitVec.extractLsb'_toNat, BitVec.toNat_ofNat, BitVec.toNat_mul, BitVec.toNat_setWidth_of_le (by decide),
    BitVec.toNat_setWidth_of_le (by decide), Nat.mod_eq_of_lt product, Nat.shiftRight_eq_div_pow]

theorem divS_eq (a b : Word) : divS a b = if b = 0 then 0xFFFFFFFF else BitVec.ofInt 32 (a.toInt.tdiv b.toInt) := by
  have quotient : a.sdiv b = BitVec.ofInt 32 (a.toInt.tdiv b.toInt) :=
    BitVec.eq_of_toInt_eq (by rw [BitVec.toInt_sdiv, BitVec.toInt_ofInt])
  rw [divS, quotient]

theorem divU_eq (a b : Word) : divU a b = if b = 0 then 0xFFFFFFFF else BitVec.ofNat 32 (a.toNat / b.toNat) := by
  rw [divU, ← BitVec.toNat_udiv, BitVec.ofNat_toNat, BitVec.setWidth_eq]

theorem remS_eq (a b : Word) : remS a b = if b = 0 then a else BitVec.ofInt 32 (a.toInt.tmod b.toInt) := by
  rw [remS, ← BitVec.toInt_srem, BitVec.ofInt_toInt]

theorem remU_eq (a b : Word) : remU a b = if b = 0 then a else BitVec.ofNat 32 (a.toNat % b.toNat) := by
  rw [remU, ← BitVec.toNat_umod, BitVec.ofNat_toNat, BitVec.setWidth_eq]

/-- The count of leading zeros places the highest 1 of the low `n` bits. -/
theorem leadingZeros_spec (w : Word) (n : Nat) : leadingZeros n w ≤ n ∧ w.toNat % 2 ^ n < 2 ^ (n - leadingZeros n w) ∧
    (leadingZeros n w < n → 2 ^ (n - 1 - leadingZeros n w) ≤ w.toNat % 2 ^ n) := by
  induction n with
  | zero => exact ⟨Nat.le_refl 0, by simp [Nat.mod_one], by simp [leadingZeros]⟩
  | succ n ih =>
    obtain ⟨le, high, low⟩ := ih
    have split := Nat.mod_pow_succ (x := w.toNat) (b := 2) (k := n)
    have digit : w.toNat / 2 ^ n % 2 = b2n (bitAt w n) := by rw [← bits_one, bits, Nat.add_sub_cancel_left, Nat.pow_one]
    rw [digit] at split
    cases bit : bitAt w n with
    | true =>
      have zeros : leadingZeros (n + 1) w = 0 := if_pos bit
      rw [zeros]
      refine ⟨Nat.zero_le _, Nat.mod_lt _ (Nat.two_pow_pos _), fun _ => ?_⟩
      simp [split, bit, b2n]
    | false =>
      have zeros : leadingZeros (n + 1) w = leadingZeros n w + 1 := by simp [leadingZeros, bit, Nat.add_comm]
      have same : w.toNat % 2 ^ (n + 1) = w.toNat % 2 ^ n := by simp [split, bit, b2n]
      rw [zeros, same, Nat.add_sub_add_right]
      refine ⟨Nat.succ_le_succ le, high, fun lt => ?_⟩
      have index : n + 1 - 1 - (leadingZeros n w + 1) = n - 1 - leadingZeros n w := by omega
      rw [index]
      exact low (by omega)

theorem ones_eq_countP (w : Word) (n : Nat) : ones n w = (List.range n).countP fun i => bitAt w i := by
  induction n with
  | zero => rfl
  | succ n ih =>
    rw [ones, ih, List.range_succ, List.countP_append, List.countP_singleton, Nat.add_comm, b2n]

theorem extract_byteSwap {i : Nat} (h : i < 4) (a : Word) :
    (byteSwap a).extractLsb' (8 * i) 8 = a.extractLsb' (8 * (3 - i)) 8 := by
  have last {m : Nat} (x : BitVec m) (y : BitVec 8) : (x ++ y).extractLsb' 0 8 = y := by
    rw [BitVec.extractLsb'_append_eq_of_add_le (Nat.le_refl _), BitVec.extractLsb'_eq_self]
  have before {m : Nat} (x : BitVec m) (y : BitVec 8) (k : Nat) : (x ++ y).extractLsb' (k + 8) 8 = x.extractLsb' k 8 := by
    rw [BitVec.extractLsb'_append_eq_of_le (Nat.le_add_left ..), Nat.add_sub_cancel]
  interval_cases i
  · exact last _ _
  · exact (before _ _ 0).trans (last _ _)
  · exact (before _ _ 8).trans ((before _ _ 0).trans (last _ _))
  · exact (before _ _ 16).trans ((before _ _ 8).trans ((before _ _ 0).trans BitVec.extractLsb'_eq_self))

end Sys2Proof.Machine

open Sys2Proof Sys2Proof.Machine Host

theorem logicRowsWriteRd : Claim.LogicRowsWriteRd := by
  intro s t f ready aux
  have check : legal3 f = true := (legal3_iff f).2 aux
  exact ⟨retires_setD ready check rfl rfl, retires_setD ready check rfl rfl, retires_setD ready check rfl rfl,
    retires_setD ready check rfl rfl⟩

theorem sumsAndDifferencesSetFlags : Claim.SumsAndDifferencesSetFlags := by
  intro s t f ready aux th a b sum difference
  have check : legal3 f = true := (legal3_iff f).2 aux
  refine ⟨⟨_, retires_setD_tsr ready check rfl rfl, fun k hk => bitAt_addFlags hk ..⟩,
    ⟨_, retires_setD_tsr ready check rfl rfl, fun k hk => bitAt_addFlags hk ..⟩,
    ⟨_, retires_setD_tsr ready check rfl rfl, onlyBit_subFlags th.tsr a b 0⟩,
    ⟨_, retires_setD_tsr ready check rfl rfl, onlyBit_subFlags th.tsr a b _⟩⟩

theorem shiftsTakeFiveBits : Claim.ShiftsTakeFiveBits := by
  intro s t f ready th a n
  refine ⟨fun aux => ?_, fun rs2 low => ?_⟩
  · have check : legal3 f = true := (legal3_iff f).2 aux
    exact ⟨retires_setD ready check rfl rfl, retires_setD ready check rfl rfl,
      retires_setD ready check rfl (sshiftRight_eq_ofInt a n),
      retires_setD ready check rfl (rotateRight_eq (Nat.mod_lt _ (by decide)) a)⟩
  · have check : legalShift f = true := by simp [legalShift, rs2, low]
    have amount : f.aux.toNat % 32 = f.aux.toNat := Nat.mod_eq_of_lt low
    exact ⟨retires_setD ready check rfl (congrArg (a <<< ·) amount), retires_setD ready check rfl (congrArg (a >>> ·) amount),
      retires_setD ready check rfl ((congrArg a.sshiftRight amount).trans (sshiftRight_eq_ofInt a _)),
      retires_setD ready check rfl ((congrArg a.rotateRight amount).trans (rotateRight_eq low a))⟩

theorem comparesOrderSignedAndUnsigned : Claim.ComparesOrderSignedAndUnsigned := by
  intro s t f ready aux th a b
  have check : legal3 f = true := (legal3_iff f).2 aux
  exact ⟨retires_setD ready check rfl (flagWord_slt a b), retires_setD ready check rfl (flagWord_ult a b),
    retires_setD ready check rfl (min_signed a b), retires_setD ready check rfl (max_signed a b),
    retires_setD ready check rfl (min_unsigned a b), retires_setD ready check rfl (max_unsigned a b)⟩

theorem productsAndQuotients : Claim.ProductsAndQuotients := by
  intro s t f ready aux th a b
  have check : legal3 f = true := (legal3_iff f).2 aux
  exact ⟨retires_setD ready check rfl (mul_signed a b), retires_setD ready check rfl (mulHigh_eq a b),
    retires_setD ready check rfl (mulHighU_eq a b), retires_setD ready check rfl (divS_eq a b),
    retires_setD ready check rfl (divU_eq a b), retires_setD ready check rfl (remS_eq a b),
    retires_setD ready check rfl (remU_eq a b)⟩

theorem countsAndByteOrder : Claim.CountsAndByteOrder := by
  intro s t f ready aux rs2 th a
  have check : legal2 f = true := (legal2_iff f).2 ⟨rs2, aux⟩
  obtain ⟨most, high, low⟩ := leadingZeros_spec a 32
  rw [Nat.mod_eq_of_lt a.isLt] at high low
  exact ⟨⟨_, most, high, low, retires_setD ready check rfl rfl⟩,
    retires_setD ready check rfl (congrArg _ (ones_eq_countP a 32)),
    ⟨_, fun i hi => extract_byteSwap hi a, retires_setD ready check rfl rfl⟩⟩

/-- Settles O10: each row is a value written to RD, its value by the arithmetic of the word, its flags bit by bit. -/
theorem aluTable : Obligations.AluTable :=
  ⟨logicRowsWriteRd, sumsAndDifferencesSetFlags, shiftsTakeFiveBits, comparesOrderSignedAndUnsigned, productsAndQuotients,
    countsAndByteOrder, illegalIn 0x00⟩

end

section
/-! SUPPORT. The immediate rows and the bit fields (R228, R231): their values in the arithmetic of the manual. -/

namespace Sys2Proof.Machine

open Host

/-! ### Immediates (R228) -/

theorem lui_value (imm : BitVec 18) : imm.setWidth 32 <<< 14 = BitVec.ofNat 32 (imm.toNat * 2 ^ 14) := by
  refine BitVec.eq_of_toNat_eq ?_
  rw [BitVec.toNat_shiftLeft, BitVec.toNat_setWidth_of_le (by decide), BitVec.toNat_ofNat, Nat.shiftLeft_eq]

/-! ### Bit fields (R231) -/

theorem getLsbD_fieldMask (f : BFFields) {i : Nat} (h : i < 32) : (fieldMask f).getLsbD i = decide (i ≤ f.wm1.toNat) := by
  rw [fieldMask, BitVec.getLsbD_ofNat, Nat.testBit_two_pow_sub_one, decide_eq_true h, Bool.true_and, decide_eq_decide, Nat.lt_succ_iff]

theorem getLsbD_fieldOf (f : BFFields) (w : Word) {i : Nat} (h : i < 32) :
    (fieldOf f w).getLsbD i = (decide (i ≤ f.wm1.toNat) && w.getLsbD (f.pos.toNat + i)) := by
  rw [fieldOf, BitVec.getLsbD_and, getLsbD_fieldMask f h, BitVec.getLsbD_ushiftRight, Bool.and_comm]

theorem getLsbD_fieldSigned (f : BFFields) (w : Word) {i : Nat} (h : i < 32) :
    (fieldSigned f w).getLsbD i = w.getLsbD (f.pos.toNat + min i f.wm1.toNat) := by
  have top : bitAt (fieldOf f w) f.wm1.toNat = w.getLsbD (f.pos.toNat + f.wm1.toNat) := by
    refine (getLsbD_fieldOf f w (by omega)).trans ?_
    simp
  have signed : (fieldSigned f w).getLsbD i =
      if w.getLsbD (f.pos.toNat + f.wm1.toNat) then (fieldOf f w).getLsbD i || !decide (i ≤ f.wm1.toNat) else (fieldOf f w).getLsbD i := by
    rw [fieldSigned, top, apply_ite (BitVec.getLsbD · i), BitVec.getLsbD_or, BitVec.getLsbD_not, getLsbD_fieldMask f h,
      decide_eq_true h, Bool.true_and]
  rw [signed, getLsbD_fieldOf f w h]
  by_cases inside : i ≤ f.wm1.toNat
  · simp [inside]
  · rw [min_eq_right (Nat.le_of_not_le inside)]
    cases sign : w.getLsbD (f.pos.toNat + f.wm1.toNat) <;> simp [inside]

/-- R231: the field of `b` is replaced by the low bits of `a`. -/
theorem getLsbD_insert (f : BFFields) (a b : Word) {i : Nat} (h : i < 32) :
    (b &&& ~~~(fieldMask f <<< f.pos.toNat) ||| (a &&& fieldMask f) <<< f.pos.toNat).getLsbD i =
      if f.pos.toNat ≤ i ∧ i ≤ f.pos.toNat + f.wm1.toNat then a.getLsbD (i - f.pos.toNat) else b.getLsbD i := by
  simp only [BitVec.getLsbD_or, BitVec.getLsbD_and, BitVec.getLsbD_not, BitVec.getLsbD_shiftLeft,
    getLsbD_fieldMask f (Nat.lt_of_le_of_lt (Nat.sub_le i f.pos.toNat) h), decide_eq_true h, Bool.true_and]
  by_cases below : i < f.pos.toNat
  · simp [below]
  · by_cases inside : i - f.pos.toNat ≤ f.wm1.toNat
    · simp [below, inside, show f.pos.toNat ≤ i ∧ i ≤ f.pos.toNat + f.wm1.toNat by omega]
    · simp [below, inside, show ¬i ≤ f.pos.toNat + f.wm1.toNat by omega]

end Sys2Proof.Machine

open Sys2Proof Sys2Proof.Machine Host

theorem immediateRows : Claim.ImmediateRows := by
  intro s t f ready th a
  have zeros : f.imm.setWidth 32 = BitVec.ofNat 32 f.imm.toNat := (BitVec.ofNat_toNat ..).symm
  refine ⟨⟨retires_setD ready rfl rfl rfl, retires_setD ready rfl rfl (congrArg (a &&& ·) zeros),
    retires_setD ready rfl rfl (congrArg (a ||| ·) zeros), retires_setD ready rfl rfl (congrArg (a ^^^ ·) zeros)⟩,
    fun rs1 => ?_, fun rd rs1 => ?_, fun rd rs1 => ?_⟩
  · have check : (f.rs1 == 0) = true := beq_iff_eq.2 rs1
    exact ⟨retires_setD ready check rfl rfl, retires_setD ready check rfl (lui_value f.imm)⟩
  · exact retires_setA ready (by simp [rd, rs1]) rfl rfl
  · exact retires_setA ready (by simp [rd, rs1]) rfl rfl

/-- Settles O11: each row is a value written to RD. -/
theorem immediateTable : Obligations.ImmediateTable :=
  ⟨immediateRows, illegalIn 0x01, illegalIn 0x02, illegalIn 0x03, illegalIn 0x04, illegalIn 0x05, illegalIn 0x06, illegalIn 0x12,
    illegalIn 0x13⟩

theorem bitFieldsMoveTheirBits : Claim.BitFieldsMoveTheirBits := by
  intro s t f ready rsv fits th a p w
  have check : legalField f = true := (legalField_iff f).2 ⟨rsv, fits⟩
  refine ⟨⟨_, retires_setD ready check rfl rfl, fun i hi => getLsbD_fieldOf f a hi⟩,
    ⟨_, retires_setD ready check rfl rfl, fun i hi => getLsbD_fieldSigned f a hi⟩,
    ⟨_, retires_setD ready check rfl rfl, fun i hi => getLsbD_insert f a _ hi⟩⟩

/-- Settles O12: the field is taken, extended or replaced bit by bit. -/
theorem bitFieldTable : Obligations.BitFieldTable := ⟨bitFieldsMoveTheirBits, illegalIn 0x24⟩

end

section
/-! SUPPORT. The accumulators (R232) and the transfers between register classes (R233): each row's value in the arithmetic of the manual. -/

namespace Sys2Proof.Machine

open Host

/-! ### Accumulators (R232) -/

theorem onlyBit_accFlags (tsr : Word) (x : Int) :
    OnlyBit tsr (accFlags tsr x) 19 (bitAt tsr 19 || decide (x < -2 ^ 71 ∨ 2 ^ 71 ≤ x)) := by
  intro k hk
  unfold accFlags
  split
  · next out => rw [bitAt_setBit hk, decide_eq_true out, Bool.or_true]; rfl
  · next inside =>
    rw [decide_eq_false inside, Bool.or_false]
    split
    · next e => rw [e]
    · rfl

/-- R232: a row that adds to an accumulator, or subtracts from it. -/
theorem retires_accTo {i : Instr} {s : State} {t : ThreadId} {w : Word} {legal : Bool} (ready : s.ready t) (check : legal = true)
    {j : BitVec 1} {x : Thread → Int}
    (row : exec i s = .next (issue s t w legal true fun th => Result.regs s t (accTo th j (x th)))) :
    let th := s.thread t
    ∃ tsr : Word, Retires i s t { th.setAcc j (BitVec.ofInt 72 (x th)) with tsr := tsr } ∧
      OnlyBit th.tsr tsr 19 (bitAt th.tsr 19 || decide (x th < -2 ^ 71 ∨ 2 ^ 71 ≤ x th)) :=
  ⟨_, retires_regs ready check row rfl (Thread.setAcc_state ..) (Thread.setAcc_stepArmed ..), onlyBit_accFlags _ _⟩

theorem accLow_eq (x : Acc) : x.setWidth 32 = BitVec.ofNat 32 x.toNat := (BitVec.ofNat_toNat ..).symm

theorem accHigh_eq (x : Acc) : x.extractLsb' 32 32 = BitVec.ofNat 32 (x.toNat / 2 ^ 32) := by
  refine BitVec.eq_of_toNat_eq ?_
  rw [BitVec.extractLsb'_toNat, BitVec.toNat_ofNat, Nat.shiftRight_eq_div_pow]

/-- The top byte, sign-extended, is the accumulator's floor at 2^64. -/
theorem accGuard_eq (x : Acc) : (x.extractLsb' 64 8).signExtend 32 = BitVec.ofInt 32 (x.toInt / 2 ^ 64) := by
  have guard : (x.extractLsb' 64 8).toInt = x.toInt / 2 ^ 64 := by
    rw [BitVec.toInt_eq_toNat_cond, BitVec.toInt_eq_toNat_cond, BitVec.extractLsb'_toNat, Nat.shiftRight_eq_div_pow]
    have := x.isLt
    split <;> split <;> omega
  rw [← guard]
  rfl

theorem saturate32_eq (v : Int) : saturate32 v = BitVec.ofInt 32 (max (-2 ^ 31) (min (2 ^ 31 - 1) v)) := by
  unfold saturate32
  split
  · next low => rw [min_eq_right (by omega), max_eq_left (by omega)]; rfl
  · split
    · next high => rw [min_eq_left (by omega), max_eq_right (by omega)]; rfl
    · rw [min_eq_right (by omega), max_eq_right (by omega)]

theorem toInt_sshiftRight_eq {w : Nat} (x : BitVec w) (n : Nat) : (x.sshiftRight n).toInt = x.toInt / 2 ^ n := by
  rw [BitVec.toInt_sshiftRight, Int.shiftRight_eq_div_pow, Nat.cast_pow, Nat.cast_ofNat]

/-! ### Addresses (R233) -/

theorem shiftLeft_ofInt {w : Nat} (x : Int) (n : Nat) : BitVec.ofInt w x <<< n = BitVec.ofInt w (x * 2 ^ n) := by
  have power : BitVec.twoPow w n = BitVec.ofInt w (2 ^ n) := by
    rw [← Nat.cast_ofNat, ← Nat.cast_pow, BitVec.ofInt_natCast]
    refine BitVec.eq_of_toNat_eq ?_
    rw [BitVec.toNat_twoPow, BitVec.toNat_ofNat]
  rw [BitVec.shiftLeft_eq_mul_twoPow, power, BitVec.ofInt_mul]

theorem ofInt_toNat {w : Nat} (x : BitVec w) : BitVec.ofInt w x.toNat = x := by
  rw [BitVec.ofInt_natCast, BitVec.ofNat_toNat, BitVec.setWidth_eq]

theorem addrHigh_eq (a : Addr) : (a.extractLsb' 32 16).setWidth 32 = BitVec.ofNat 32 (a.toNat / 2 ^ 32) := by
  have := a.isLt
  refine BitVec.eq_of_toNat_eq ?_
  rw [BitVec.toNat_setWidth_of_le (by decide), BitVec.extractLsb'_toNat, BitVec.toNat_ofNat, Nat.shiftRight_eq_div_pow]
  omega

theorem addrOf_halves (hi lo : Word) : (hi.setWidth 16 ++ lo : Addr) = BitVec.ofNat 48 (hi.toNat % 2 ^ 16 * 2 ^ 32 + lo.toNat) := by
  have := lo.isLt
  refine BitVec.eq_of_toNat_eq ?_
  rw [BitVec.toNat_append, BitVec.toNat_setWidth, ← Nat.shiftLeft_add_eq_or_of_lt lo.isLt, Nat.shiftLeft_eq, BitVec.toNat_ofNat]
  omega

end Sys2Proof.Machine

open Sys2Proof Sys2Proof.Machine Host

theorem accumulatorProducts : Claim.AccumulatorProducts := by
  intro s t f ready rd aux th i signed unsigned takes
  have check : legalAcc3 f = true := by simp [legalAcc3, rd, aux]
  exact ⟨retires_accTo ready check (x := fun th => (th.acc i).toInt + prodS th f) rfl,
    retires_accTo ready check (x := fun th => (th.acc i).toInt + prodU th f) rfl,
    retires_accTo ready check (x := fun th => (th.acc i).toInt - prodS th f) rfl,
    retires_accTo ready check (x := fun th => (th.acc i).toInt - prodU th f) rfl,
    retires_setAcc ready check rfl rfl⟩

theorem accumulatorMoves : Claim.AccumulatorMoves := by
  intro s t f ready th i j pair n
  refine ⟨fun rd aux => ?_, fun rs1 rs2 aux => ?_, fun low rs2 => ⟨fun rs1 => ?_, fun rd rs1 => ?_⟩⟩
  · have check : legalAcc3 f = true := by simp [legalAcc3, rd, aux]
    exact ⟨retires_setAcc ready check rfl rfl, retires_setAcc ready check rfl (BitVec.ofNat_toNat ..).symm,
      fun rs1 rs2 => retires_setAcc ready (by simp [legalAccOnly, rd, rs1, rs2, aux]) rfl rfl⟩
  · have check : legalAccRead 0 f = true := by simp [legalAccRead, rs1, rs2, aux]
    exact ⟨retires_setD ready check rfl (accLow_eq _), retires_setD ready check rfl (accHigh_eq _),
      retires_setD ready check rfl (accGuard_eq _)⟩
  · have check : legalAccRead 0x3F f = true := by simp [legalAccRead, rs1, rs2]; exact low
    refine retires_setD ready check rfl ?_
    rw [saturate32_eq, toInt_sshiftRight_eq, Nat.mod_eq_of_lt low]
    rfl
  · have check : legalAccOnly 0x3F f = true := by simp [legalAccOnly, rd, rs1, rs2]; exact low
    refine retires_setAcc ready check rfl ?_
    rw [Nat.mod_eq_of_lt low, sshiftRight_eq_ofInt]
    rfl

/-- Settles O13: products over the integers narrowed to 72 bits, AV by their range, and moves by the bits they take. -/
theorem accumulatorTable : Obligations.AccumulatorTable := ⟨accumulatorProducts, accumulatorMoves, illegalIn 0x1C⟩

theorem transfersAndAddressArithmetic : Claim.TransfersAndAddressArithmetic := by
  intro s t f ready th ad a1 a2 d1 d2
  refine ⟨fun aux => ⟨fun rs2 rd => ?_, fun rs2 rs1 => ?_, fun rd => ?_, fun rs1 rs2 => ?_, fun rs2 rd rs1 => ?_⟩, fun aux rd rs1 => ?_⟩
  · have check : (isA f.rd && legal2 f) = true := by simp [rd, rs2, aux]
    exact ⟨retires_setA ready check rfl (BitVec.ofNat_toNat ..).symm, retires_setA ready check rfl rfl⟩
  · have check : (isA f.rs1 && legal2 f) = true := by simp [rs1, rs2, aux]
    exact ⟨retires_setD ready check rfl (BitVec.ofNat_toNat ..).symm, retires_setD ready check rfl (addrHigh_eq a1)⟩
  · have check : (isA f.rd && legal3 f) = true := by simp [rd, aux]
    exact retires_setA ready check rfl (addrOf_halves d2 d1)
  · have check : (isA f.rs1 && isA f.rs2 && legal3 f) = true := by simp [rs1, rs2, aux]
    exact retires_setD ready check rfl (BitVec.ofNat_toNat ..).symm
  · exact retires_setA ready (by simp [rd, rs1, rs2, aux]) rfl rfl
  · have check : (isA f.rd && isA f.rs1 && auxWithin f.aux 3) = true := by simp [rd, rs1, aux]
    have offset : scaled th f = BitVec.ofInt 48 (d2.toInt * 2 ^ f.aux.toNat) := by
      rw [scaled, Nat.mod_eq_of_lt aux]
      exact shiftLeft_ofInt ..
    refine ⟨retires_setA ready check rfl ?_, retires_setA ready check rfl ?_⟩
    · rw [BitVec.ofInt_add, ofInt_toNat, ← offset]; rfl
    · rw [Int.sub_eq_add_neg, BitVec.ofInt_add, ofInt_toNat, BitVec.ofInt_neg, ← BitVec.sub_eq_add_neg, ← offset]; rfl

/-- Settles O15: moves by the bits they take, sums and differences modulo 2^48. -/
theorem transferTable : Obligations.TransferTable := ⟨transfersAndAddressArithmetic, illegalIn 0x1E⟩

end

section
/-! SUPPORT. Packed decimals (R238–R242): what digits spell, that packing a number spells it again, and the rows that work on them. -/

namespace Sys2Proof.Machine

open Host

/-! ### Digits (R238) -/

theorem nibble_succ (v i : Nat) : v / 16 ^ (i + 1) % 16 = v / 16 / 16 ^ i % 16 := by
  rw [Nat.pow_succ', Nat.div_div_eq_div_mul]

theorem validDigits_succ (n v : Nat) : ValidDigits (n + 1) v ↔ v % 16 ≤ 9 ∧ ValidDigits n (v / 16) := by
  constructor
  · intro h
    refine ⟨by simpa using h 0 (Nat.succ_pos n), fun i hi => ?_⟩
    rw [← nibble_succ]
    exact h (i + 1) (Nat.succ_lt_succ hi)
  · rintro ⟨low, high⟩ i hi
    cases i with
    | zero => simpa using low
    | succ i =>
      rw [nibble_succ]
      exact high i (Nat.lt_of_succ_lt_succ hi)

theorem digitsOk_iff (n v : Nat) : digitsOk n v = true ↔ ValidDigits n v := by
  induction n generalizing v with
  | zero => exact ⟨fun _ i hi => absurd hi (Nat.not_lt_zero i), fun _ => rfl⟩
  | succ n ih => rw [digitsOk, Bool.and_eq_true, decide_eq_true_eq, ih, validDigits_succ]

theorem decimalValue_succ (n v : Nat) : decimalValue (n + 1) v = v % 16 + 10 * decimalValue n (v / 16) := by
  have shift : ((fun i => v / 16 ^ i % 16 * 10 ^ i) ∘ Nat.succ) = fun i => 10 * (v / 16 / 16 ^ i % 16 * 10 ^ i) := by
    funext i
    change v / 16 ^ (i + 1) % 16 * 10 ^ (i + 1) = _
    rw [nibble_succ, Nat.pow_succ]
    ring
  rw [decimalValue, List.range_succ_eq_map, List.map_cons, List.sum_cons, List.map_map, shift, List.sum_map_mul_left, decimalValue]
  simp

theorem bcdToNat_eq (n v : Nat) : bcdToNat n v = decimalValue n v := by
  induction n generalizing v with
  | zero => rfl
  | succ n ih => rw [bcdToNat, ih, decimalValue_succ]

theorem natToBcd_lt (n v : Nat) : natToBcd n v < 16 ^ n := by
  induction n generalizing v with
  | zero => exact Nat.one_pos
  | succ n ih =>
    have := ih (v / 10)
    rw [natToBcd, Nat.pow_succ]
    omega

/-- R238: a packed number has valid digits, and spells the number. -/
theorem natToBcd_spec (n v : Nat) : ValidDigits n (natToBcd n v) ∧ decimalValue n (natToBcd n v) = v % 10 ^ n := by
  induction n generalizing v with
  | zero => exact ⟨fun i hi => absurd hi (Nat.not_lt_zero i), (Nat.mod_one v).symm⟩
  | succ n ih =>
    obtain ⟨valid, value⟩ := ih (v / 10)
    have low : natToBcd (n + 1) v % 16 = v % 10 := by rw [natToBcd]; omega
    have high : natToBcd (n + 1) v / 16 = natToBcd n (v / 10) := by rw [natToBcd]; omega
    rw [validDigits_succ, decimalValue_succ, low, high, value, Nat.pow_succ', Nat.mod_mul]
    exact ⟨⟨by omega, valid⟩, rfl⟩

theorem toNat_packed (v : Nat) : (BitVec.ofNat 32 (natToBcd 8 v)).toNat = natToBcd 8 v := by
  rw [BitVec.toNat_ofNat, Nat.mod_eq_of_lt ((natToBcd_lt 8 v).trans_eq (by norm_num))]

/-- R238: an invalid digit clears DC and sets DV. -/
theorem bitAt_badDigitFlags {k : Nat} (h : k < 32) (tsr : Word) :
    bitAt (badDigitFlags tsr) k = if k = 17 then false else if k = 18 then true else bitAt tsr k := by
  rw [badDigitFlags, bitAt_setBit h, bitAt_setBit h]
  rfl

/-! ### Rows of digits (R238, R239) -/

section rows
variable {i : Instr} {s : State} {t : ThreadId} {w : Word} {legal : Bool} (ready : s.ready t) (check : legal = true) {g : Thread → Thread}
  (row : exec i s = .next (issue s t w legal true fun th => Result.regs s t (g th)))

include ready check row

/-- A row that writes the packed digits of `n`, and DC. -/
theorem retires_packed {rd : BitVec 4} {n : Nat} {dc : Bool}
    (value : g (s.thread t) = { (s.thread t).setD rd (BitVec.ofNat 32 (natToBcd 8 n)) with tsr := setBit (s.thread t).tsr tsrDc dc }) :
    ∃ v tsr : Word, Retires i s t { (s.thread t).setD rd v with tsr := tsr } ∧ ValidDigits 8 v.toNat ∧
      decimalValue 8 v.toNat = n % 10 ^ 8 ∧ OnlyBit (s.thread t).tsr tsr 17 dc := by
  obtain ⟨valid, digits⟩ := natToBcd_spec 8 n
  refine ⟨BitVec.ofNat 32 (natToBcd 8 n), _,
    retires_regs ready check row value (Thread.setD_state ..) (Thread.setD_stepArmed ..), ?_, ?_, onlyBit_setBit _ 17 dc⟩
  · rwa [toNat_packed]
  · rwa [toNat_packed]

/-- A row that finds an invalid digit. -/
theorem retires_badDigit {v : Thread} (value : g (s.thread t) = { v with tsr := badDigitFlags (s.thread t).tsr })
    (state : v.state = (s.thread t).state) (step : v.stepArmed = (s.thread t).stepArmed) :
    ∃ tsr : Word, Retires i s t { v with tsr := tsr } ∧
      ∀ k, k < 32 → bitAt tsr k = if k = 17 then false else if k = 18 then true else bitAt (s.thread t).tsr k :=
  ⟨_, retires_regs ready check row value state step, fun _ hk => bitAt_badDigitFlags hk _⟩

end rows

theorem digitsOk_both (n m a b : Nat) : (digitsOk n a && digitsOk m b) = true ↔ ValidDigits n a ∧ ValidDigits m b := by
  rw [Bool.and_eq_true, digitsOk_iff, digitsOk_iff]

section sums
variable {th : Thread} {f : RFields} (c : Nat)

theorem decAdd_valid (h : ValidDigits 8 (th.dreg f.rs1).toNat ∧ ValidDigits 8 (th.dreg f.rs2).toNat) :
    let v := decimalValue 8 (th.dreg f.rs1).toNat + decimalValue 8 (th.dreg f.rs2).toNat + c
    decAdd th f c = { th.setD f.rd (BitVec.ofNat 32 (natToBcd 8 v)) with tsr := setBit th.tsr tsrDc (decide (10 ^ 8 ≤ v)) } := by
  simp only [decAdd, (digitsOk_both ..).2 h, if_true, bcdToNat_eq]

theorem decSub_valid (h : ValidDigits 8 (th.dreg f.rs1).toNat ∧ ValidDigits 8 (th.dreg f.rs2).toNat) :
    let x := decimalValue 8 (th.dreg f.rs1).toNat
    let y := decimalValue 8 (th.dreg f.rs2).toNat + c
    decSub th f c = { th.setD f.rd (BitVec.ofNat 32 (natToBcd 8 (x + 10 ^ 8 - y))) with
      tsr := setBit th.tsr tsrDc (decide (x < y)) } := by
  simp only [decSub, (digitsOk_both ..).2 h, if_true, bcdToNat_eq]

variable (h : ¬(ValidDigits 8 (th.dreg f.rs1).toNat ∧ ValidDigits 8 (th.dreg f.rs2).toNat))

include h

theorem decAdd_invalid : decAdd th f c = { th.setD f.rd 0 with tsr := badDigitFlags th.tsr } := if_neg (mt (digitsOk_both ..).1 h)

theorem decSub_invalid : decSub th f c = { th.setD f.rd 0 with tsr := badDigitFlags th.tsr } := if_neg (mt (digitsOk_both ..).1 h)

end sums

theorem packedToBin_valid {th : Thread} {f : RFields} (h : ValidDigits 8 (th.dreg f.rs1).toNat) :
    packedToBin th f = th.setD f.rd (BitVec.ofNat 32 (decimalValue 8 (th.dreg f.rs1).toNat)) := by
  rw [← bcdToNat_eq]
  exact if_pos ((digitsOk_iff ..).2 h)

theorem packedToBin_invalid {th : Thread} {f : RFields} (h : ¬ValidDigits 8 (th.dreg f.rs1).toNat) :
    packedToBin th f = { th.setD f.rd 0 with tsr := badDigitFlags th.tsr } := if_neg (mt (digitsOk_iff ..).1 h)

/-! ### DAJ (R240) -/

theorem foldl_add_if (p : Nat → Bool) (f : Nat → Nat) (l : List Nat) (k : Nat) :
    l.foldl (fun k i => if p i then k + f i else k) k = k + (l.map fun i => if p i then f i else 0).sum := by
  induction l generalizing k with
  | nil => rfl
  | cons i l ih =>
    rw [List.foldl_cons, ih, List.map_cons, List.sum_cons]
    split <;> omega

theorem dajFix_eq (th : Thread) (v : Nat) : dajFix th v = ((List.range 8).map fun n =>
    if bitAt th.tsr (8 + n) ∨ 9 * ((16 ^ (n + 1) - 1) / 15) < v % 16 ^ (n + 1) then 6 * 16 ^ n else 0).sum := by
  rw [dajFix, foldl_add_if (fun i => th.flagHC i || nines (i + 1) < v % 16 ^ (i + 1)), Nat.zero_add]
  simp only [Bool.or_eq_true, decide_eq_true_eq]
  rfl

/-! ### DACC (R241) -/

theorem bitAt_dacc {k : Nat} (h : k < 32) (tsr : Word) (carry : Bool) (count : Nat) :
    bitAt (if carry = true ∧ count = 255 then setBit (setBit tsr tsrDc carry) tsrDv true else setBit tsr tsrDc carry) k =
      if k = 17 then carry else if k = 18 then bitAt tsr 18 || (carry && count == 255) else bitAt tsr k := by
  by_cases full : carry = true ∧ count = 255
  · rw [if_pos full, bitAt_setBit h, bitAt_setBit h]
    by_cases dv : k = 18
    · simp [dv, tsrDv, full]
    · rw [if_neg dv, if_neg (by exact dv)]
      rfl
  · have still : (carry && count == 255) = false := by simpa using full
    rw [if_neg full, bitAt_setBit h, still, Bool.or_false]
    by_cases dv : k = 18
    · rw [if_pos dv, dv]
      rfl
    · rw [if_neg dv]
      rfl

/-- R241: the count of carries stops at 255. -/
theorem daccCount {count : Nat} (h : count < 256) (carry : Bool) :
    (if carry = true ∧ count < 255 then count + 1 else count) = if carry then min 255 (count + 1) else count := by
  cases carry with
  | false => simp
  | true =>
    simp only [true_and, if_true]
    split <;> omega

section dacc
variable {th : Thread} {f : RFields}

theorem decAccumulate_valid
    (h : ValidDigits 8 (th.dreg f.rs1).toNat ∧ ValidDigits 16 ((th.acc (accOf f.rd)).toNat % 2 ^ 64)) :
    let acc := (th.acc (accOf f.rd)).toNat
    let sum := decimalValue 16 (acc % 2 ^ 64) + decimalValue 8 (th.dreg f.rs1).toNat
    let carry := decide (10 ^ 16 ≤ sum)
    decAccumulate th f = { th.setAcc (accOf f.rd) (BitVec.ofNat 72
        ((if carry then min 255 (acc / 2 ^ 64 + 1) else acc / 2 ^ 64) * 2 ^ 64 + natToBcd 16 sum)) with
      tsr := if carry = true ∧ acc / 2 ^ 64 = 255 then setBit (setBit th.tsr tsrDc carry) tsrDv true else setBit th.tsr tsrDc carry } := by
  intro acc sum carry
  have small : acc / 2 ^ 64 < 256 := by
    have := (th.acc (accOf f.rd)).isLt
    omega
  rw [← daccCount small carry]
  simp only [decAccumulate, (digitsOk_both ..).2 h, if_true, bcdToNat_eq, carry, decide_eq_true_eq]
  rfl

theorem decAccumulate_invalid
    (h : ¬(ValidDigits 8 (th.dreg f.rs1).toNat ∧ ValidDigits 16 ((th.acc (accOf f.rd)).toNat % 2 ^ 64))) :
    decAccumulate th f = { th with tsr := badDigitFlags th.tsr } := if_neg (mt (digitsOk_both ..).1 h)

end dacc

/-! ### ASC2P (R242) -/

theorem isDigitChar_eq : isDigitChar = fun c => decide (0x30 ≤ c.toNat ∧ c.toNat ≤ 0x39) := by
  funext c
  rw [isDigitChar, Bool.decide_and]

theorem packDigits_eq (cs : List Byte) : packDigits cs =
    (cs.takeWhile isDigitChar).foldl (fun x c => 16 * x + (c.toNat - 0x30)) 0 := by
  simp only [packDigits, Nat.mul_comm]

theorem foldl_digits_lt (l : List Byte) (digits : ∀ c ∈ l, isDigitChar c = true) (x n : Nat) (h : x < 16 ^ n) :
    l.foldl (fun x c => 16 * x + (c.toNat - 0x30)) x < 16 ^ (n + l.length) := by
  induction l generalizing x n with
  | nil => exact h
  | cons c l ih =>
    have digit : c.toNat - 0x30 ≤ 9 := by
      have := digits c List.mem_cons_self
      simp only [isDigitChar, Bool.and_eq_true, decide_eq_true_eq] at this
      omega
    rw [List.foldl_cons, List.length_cons, Nat.add_comm l.length, ← Nat.add_assoc]
    refine ih (fun c hc => digits c (List.mem_cons_of_mem _ hc)) _ _ ?_
    rw [Nat.pow_succ]
    omega

theorem packDigits_lt {cs : List Byte} (h : cs.length ≤ 8) : packDigits cs < 2 ^ 32 := by
  rw [packDigits_eq]
  have len : (cs.takeWhile isDigitChar).length ≤ 8 := (List.takeWhile_sublist _).length_le.trans h
  refine (foldl_digits_lt _ (fun c hc => List.mem_takeWhile_imp hc) 0 0 Nat.one_pos).trans_le ?_
  exact (Nat.pow_le_pow_right (by decide) (by omega)).trans_eq (by norm_num : 16 ^ 8 = 2 ^ 32)

theorem nonDigitMask_lt (cs : List Byte) : nonDigitMask cs < 2 ^ cs.length := by
  induction cs with
  | nil => exact Nat.one_pos
  | cons c cs ih =>
    have : b2n (!isDigitChar c) < 2 := by cases isDigitChar c <;> decide
    rw [nonDigitMask, List.length_cons, Nat.pow_succ]
    omega

theorem testBit_nonDigitMask (cs : List Byte) (j : Nat) :
    (nonDigitMask cs).testBit j = cs[j]?.any fun c => !isDigitChar c := by
  induction cs generalizing j with
  | nil => simp [nonDigitMask]
  | cons c cs ih =>
    have bit : nonDigitMask (c :: cs) = 2 ^ 1 * nonDigitMask cs + b2n (!isDigitChar c) := by rw [nonDigitMask]; omega
    have low : b2n (!isDigitChar c) < 2 ^ 1 := by cases isDigitChar c <;> decide
    rw [bit, Nat.testBit_two_pow_mul_add _ low]
    cases j with
    | zero =>
      change (b2n (!isDigitChar c)).testBit 0 = !isDigitChar c
      cases isDigitChar c <;> rfl
    | succ j => simpa using ih j

/-- R242: the mask register of ASC2P: a bit for each character that is no digit, and the count of leading digits. -/
theorem bitAt_asciiMask {cs : List Byte} (h : cs.length ≤ 8) {j : Nat} (hj : j < 32) :
    let l := (cs.takeWhile isDigitChar).length
    bitAt (BitVec.ofNat 32 (nonDigitMask cs + l * 2 ^ 8)) j =
      if j < 8 then (cs[j]?.any fun c => !isDigitChar c)
      else if j < 12 then bitAt (BitVec.ofNat 32 l) (j - 8) else false := by
  intro l
  have len : l ≤ 8 := (List.takeWhile_sublist _).length_le.trans h
  have low : nonDigitMask cs < 2 ^ 8 := (nonDigitMask_lt cs).trans_le (Nat.pow_le_pow_right (by decide) h)
  rw [bitAt_ofNat hj, Nat.add_comm, Nat.mul_comm, Nat.testBit_two_pow_mul_add _ low]
  split
  · exact testBit_nonDigitMask cs j
  · split
    · rw [bitAt_ofNat (by omega)]
    · have : 2 ^ 4 ≤ 2 ^ (j - 8) := Nat.pow_le_pow_right (by decide) (by omega)
      exact Nat.testBit_lt_two_pow (by omega)

end Sys2Proof.Machine

open Sys2Proof Sys2Proof.Machine Host

theorem decimalArithmetic : Claim.DecimalArithmetic := by
  intro s t f ready aux th a b dc works fails
  have check : legal3 f = true := (legal3_iff f).2 aux
  refine ⟨fun ha hb => ?_, fun bad i hi => ?_⟩
  · have add := decAdd_valid 0 ⟨ha, hb⟩
    have sub := decSub_valid 0 ⟨ha, hb⟩
    dsimp only at add sub
    rw [Nat.add_zero] at add sub
    exact ⟨retires_packed ready check rfl add, retires_packed ready check rfl (decAdd_valid dc ⟨ha, hb⟩),
      retires_packed ready check rfl sub, retires_packed ready check rfl (decSub_valid dc ⟨ha, hb⟩)⟩
  · have stops (i : Instr) {w : Word} {g : Thread → Thread}
        (row : exec i s = .next (issue s t w (legal3 f) true fun th => Result.regs s t (g th)))
        (value : g th = { th.setD f.rd 0 with tsr := badDigitFlags th.tsr }) : fails i :=
      retires_badDigit ready check row value (Thread.setD_state ..) (Thread.setD_stepArmed ..)
    simp only [List.mem_cons, List.not_mem_nil, or_false] at hi
    rcases hi with rfl | rfl | rfl | rfl
    · exact stops _ rfl (decAdd_invalid _ bad)
    · exact stops _ rfl (decAdd_invalid _ bad)
    · exact stops _ rfl (decSub_invalid _ bad)
    · exact stops _ rfl (decSub_invalid _ bad)

theorem decimalAdjustAndAccumulate : Claim.DecimalAdjustAndAccumulate := by
  intro s t f ready rs2 aux th a i digits count k
  have two : legal2 f = true := (legal2_iff f).2 ⟨rs2, aux⟩
  refine ⟨⟨_, retires_setD_tsr ready two rfl ?_, onlyBit_setBit _ 17 _⟩, fun rd valid valid16 => ?_, fun rd bad => ?_⟩
  · exact congrArg (fun k => BitVec.ofNat 32 (a + k)) (dajFix_eq th a)
  · have check : (isAcc f.rd && legal2 f) = true := by simp [rd, two]
    intro sum carry
    obtain ⟨packed, value⟩ := natToBcd_spec 16 sum
    exact ⟨natToBcd 16 sum, _, (natToBcd_lt 16 sum).trans_eq (by norm_num), packed, value,
      retires_regs ready check rfl (decAccumulate_valid ⟨valid, valid16⟩) (Thread.setAcc_state ..) (Thread.setAcc_stepArmed ..),
      fun j hj => bitAt_dacc hj _ carry count⟩
  · have check : (isAcc f.rd && legal2 f) = true := by simp [rd, two]
    exact retires_badDigit ready check rfl (decAccumulate_invalid bad) rfl rfl

theorem digitConversions : Claim.DigitConversions := by
  intro s t f ready th a n chars lead
  refine ⟨fun one eight rs2 mask => ?_, fun rs2 aux => ⟨fun valid => ?_, fun bad => ?_, ?_⟩⟩
  · have check : legalAsc2p f = true := by
      simp only [legalAsc2p, Bool.and_eq_true, Bool.or_eq_true, decide_eq_true_eq, beq_iff_eq, bne_iff_ne]
      exact ⟨⟨⟨one, eight⟩, rs2⟩, mask⟩
    have len : chars.length ≤ 8 := (List.length_take_le ..).trans eight
    have row : Retires (.asc2p t f) s t ((th.setD f.rd (BitVec.ofNat 32 (packDigits chars))).setD (f.aux.setWidth 4)
        (BitVec.ofNat 32 (nonDigitMask chars + (chars.takeWhile isDigitChar).length * 2 ^ 8))) :=
      retires_regs ready check rfl rfl (by simp only [Thread.setD_state]; rfl) (by simp only [Thread.setD_stepArmed]; rfl)
    have leading : chars.takeWhile isDigitChar = lead := by rw [isDigitChar_eq]
    refine ⟨_, _, row, ?_, fun j hj => ?_⟩
    · rw [BitVec.toNat_ofNat, Nat.mod_eq_of_lt (packDigits_lt len), packDigits_eq, leading]
    · rw [bitAt_asciiMask len hj, leading, isDigitChar_eq]
      cases chars[j]? <;> rfl
  · exact retires_regs ready ((legal2_iff f).2 ⟨rs2, aux⟩) rfl (packedToBin_valid valid) (Thread.setD_state ..) (Thread.setD_stepArmed ..)
  · exact retires_badDigit ready ((legal2_iff f).2 ⟨rs2, aux⟩) rfl (packedToBin_invalid bad) (Thread.setD_state ..) (Thread.setD_stepArmed ..)
  · exact retires_packed ready ((legal2_iff f).2 ⟨rs2, aux⟩) rfl rfl

/-- Settles O14: packing and spelling are inverse, so each row is a sum or difference of the numbers its digits spell. -/
theorem decimalTable : Obligations.DecimalTable := ⟨decimalArithmetic, decimalAdjustAndAccumulate, digitConversions⟩

end

section
/-! SUPPORT. Branches and jumps (R207, R230): where a thread goes on, and the counter that a branch trains. -/

namespace Sys2Proof.Machine

open Host

/-! ### The end of an instruction that completes (R206) -/

section settle
variable {s v : State} {t : Nat} (run : (v.thread t).state = .run) (step : (v.thread t).stepArmed = false)

include run step

theorem settle_ok (pc : Addr) : settle s t pc (.ok v) = v.setThread t { v.thread t with pc := pc + 4, jumpFrom := none } := by
  refine endStep_no ?_
  rw [State.modThread, thread_setThread_self (by simp [run])]
  exact step

theorem settle_jump (pc a : Addr) : settle s t pc (.jump v a) = v.setThread t { v.thread t with pc := a, jumpFrom := some pc } := by
  refine endStep_no ?_
  rw [State.modThread, thread_setThread_self (by simp [run])]
  exact step

end settle

/-! ### Conditional branches -/

theorem branchTarget_eq {n : Nat} (pc : Addr) (off : BitVec n) :
    pc + off.signExtend 48 * 4 = pc + BitVec.ofInt 48 (4 * off.toInt) := by
  rw [BitVec.ofInt_mul, BitVec.mul_comm]
  rfl

theorem not_slt (a b : Word) : (!a.slt b) = decide (b.toInt ≤ a.toInt) := by
  rw [BitVec.slt, ← decide_not, decide_eq_decide, not_lt]

theorem not_ult {n : Nat} (a b : BitVec n) : (!a.ult b) = decide (b.toNat ≤ a.toNat) := by
  rw [BitVec.ult, ← decide_not, decide_eq_decide, not_lt]

theorem bne_eq_decide_ne {α : Type} [DecidableEq α] (a b : α) : (a != b) = decide (a ≠ b) := by
  rw [Bool.eq_iff_iff, bne_iff_ne, decide_eq_true_eq]

/-- R230: a condition on D registers, by its code. -/
theorem condD_eq {cond : BitVec 4} {a b : Word} {x : Nat × Bool}
    (h : x ∈ [(0, decide (a = b)), (1, decide (a ≠ b)), (2, decide (a.toInt < b.toInt)), (3, decide (b.toInt ≤ a.toInt)),
      (4, decide (a.toNat < b.toNat)), (5, decide (b.toNat ≤ a.toNat))]) (code : cond.toNat = x.1) : condD cond a b = some x.2 := by
  simp only [List.mem_cons, List.not_mem_nil, or_false] at h
  rcases h with rfl | rfl | rfl | rfl | rfl | rfl <;> simp only [condD, code, bne_eq_decide_ne, not_slt, not_ult] <;> rfl

/-- R230: a condition on a flag of TSR and its opposite, by their codes. -/
theorem condF_eq {cond : BitVec 4} (tsr : Word) {x : Nat × Nat} (h : x ∈ [(0, 16), (2, 17), (4, 18), (6, 19)]) :
    (cond.toNat = x.1 → condF cond tsr = some (bitAt tsr x.2)) ∧ (cond.toNat = x.1 + 1 → condF cond tsr = some (!bitAt tsr x.2)) := by
  simp only [List.mem_cons, List.not_mem_nil, or_false] at h
  rcases h with rfl | rfl | rfl | rfl <;> exact ⟨fun code => by simp only [condF, code]; rfl, fun code => by simp only [condF, code]; rfl⟩

/-- R230: a condition on A registers, by its code. -/
theorem condA_eq {cond : BitVec 4} {p q : Addr} {x : Nat × Bool}
    (h : x ∈ [(0, decide (p = q)), (1, decide (p ≠ q)), (4, decide (p.toNat < q.toNat)), (5, decide (q.toNat ≤ p.toNat))])
    (code : cond.toNat = x.1) : condA cond p q = some x.2 := by
  simp only [List.mem_cons, List.not_mem_nil, or_false] at h
  rcases h with rfl | rfl | rfl | rfl <;> simp only [condA, code, bne_eq_decide_ne, not_ult] <;> rfl

/-- R230, R207: the branch goes to its target where `taken`, else on; beside its thread only its own counter changes. -/
def BranchGoes (i : Instr) (s : State) (t : ThreadId) (f : BFields) (taken : Bool) : Prop :=
  let th := s.thread t
  ∃ u, exec i s = .next u ∧
    u.thread t = (if taken then { th with pc := th.pc + BitVec.ofInt 48 (4 * f.off.toInt), jumpFrom := some th.pc }
      else { th with pc := th.pc + 4, jumpFrom := none }) ∧
    OnlyThread { s with cores := { s.cores with bht := u.cores.bht } } u t ∧
    ∀ k, k ≠ counterIndex t th.pc → sget 1 u.cores.bht k = sget 1 s.cores.bht k

theorem trainBranch_wf {s : State} (h : Cores.wf s.cores = true) (t : Nat) (pc : Addr) (taken : Bool) :
    Cores.wf (trainBranch s t pc taken).cores = true := by
  rw [Cores.wf_iff] at h ⊢
  obtain ⟨threads, chans, clusters, cxen, cxlog, bht⟩ := h
  exact ⟨threads, chans, clusters, cxen, cxlog, smod_wf (d := 1) bht (counterIndex t pc) (stepBranch · taken)⟩

/-- Training a branch changes its own counter. -/
theorem bht_trainBranch {s : State} (h : Cores.wf s.cores = true) (t : Nat) (pc : Addr) (taken : Bool) {k : Nat}
    (other : k ≠ counterIndex t pc) : sget 1 (trainBranch s t pc taken).cores.bht k = sget 1 s.cores.bht k := by
  rw [Cores.wf_iff] at h
  obtain ⟨-, -, -, -, -, bht⟩ := h
  exact (sget_sput bht _ _ _).trans (if_neg other)

/-- R230: a branch whose condition is `taken`. -/
theorem branchGoes {i : Instr} {s : State} {t : ThreadId} {f : BFields} {op : Nat} {legal : BFields → Bool}
    {cond : Thread → BFields → Option Bool} {taken : Bool} (ready : s.ready t) (row : exec i s = branchRow op legal cond t f s)
    (check : legal f = true) (holds : cond (s.thread t) f = some taken) : BranchGoes i s t f taken := by
  have only (v : Thread) (run : v.state = .run) := OnlyThread.setThread (t := t) (trainBranch_wf ready.form t (s.thread t).pc taken) run
  have kept (v : Thread) (k : Nat) (other : k ≠ counterIndex t (s.thread t).pc) :
      sget 1 ((trainBranch s t (s.thread t).pc taken).setThread t v).cores.bht k = sget 1 s.cores.bht k := bht_trainBranch ready.form _ _ _ other
  rw [branchRow, check, holds, Option.isSome_some, Bool.and_true, issue_ready ready] at row
  simp only [holds] at row
  cases taken with
  | true =>
    have stops : exec i s = _ := row.trans (congrArg _ (settle_jump (v := trainBranch s t (s.thread t).pc true) ready.run ready.noStep ..))
    refine ⟨_, stops, ?_, only _ ready.run, kept _⟩
    rw [thread_setThread_self (by exact (show (s.thread t).state ≠ .idle by simp [ready.run])), branchTarget, branchTarget_eq]
    rfl
  | false =>
    have stops : exec i s = _ := row.trans (congrArg _ (settle_ok (v := trainBranch s t (s.thread t).pc false) ready.run ready.noStep ..))
    refine ⟨_, stops, ?_, only _ ready.run, kept _⟩
    rw [thread_setThread_self (by exact (show (s.thread t).state ≠ .idle by simp [ready.run]))]
    rfl

/-! ### Jumps -/

/-- An instruction whose body stores its thread and jumps. -/
theorem jumps_body {i : Instr} {s : State} {t : ThreadId} {w : Word} {legal : Bool} {body : Thread → Result} {v : Thread} {a : Addr}
    (ready : s.ready t) (row : exec i s = .next (issue s t w legal true body)) (check : legal = true)
    (jump : body (s.thread t) = .jump (s.setThread t v) a) (state : v.state = (s.thread t).state)
    (step : v.stepArmed = (s.thread t).stepArmed) : Jumps i s t v a :=
  jumps_row ready row check rfl jump (state.trans ready.run) (step.trans ready.noStep)

/-- An instruction whose body only jumps. -/
theorem jumps_only {i : Instr} {s : State} {t : ThreadId} {w : Word} {legal : Bool} {body : Thread → Result} {a : Addr}
    (ready : s.ready t) (row : exec i s = .next (issue s t w legal true body)) (check : legal = true)
    (jump : body (s.thread t) = .jump s a) : Jumps i s t (s.thread t) a := by
  subst check
  have run : { s.thread t with pc := a, jumpFrom := some (s.thread t).pc }.state = .run := ready.run
  refine ⟨_, ?_, thread_setThread_self (by rw [run]; simp) s t, OnlyThread.setThread ready.form run⟩
  rw [row, issue_ready ready, jump, settle_jump ready.run ready.noStep]

end Sys2Proof.Machine

open Sys2Proof Sys2Proof.Machine Host

theorem conditionalBranches : Claim.ConditionalBranches := by
  intro s t f ready th a b p q goes
  refine ⟨fun x hx code => ?_, fun rs1 rs2 x hx => ⟨fun code => ?_, fun code => ?_⟩, fun rs1 rs2 x hx code => ?_⟩
  · exact branchGoes ready (legal := fun _ => true) (cond := fun th f => condD f.cond (th.dreg f.rs1) (th.dreg f.rs2)) rfl rfl
      (condD_eq hx code)
  · exact branchGoes ready (legal := fun f => f.rs1 == 0 && f.rs2 == 0) (cond := fun th f => condF f.cond th.tsr) rfl (by simp [rs1, rs2])
      ((condF_eq _ hx).1 code)
  · exact branchGoes ready (legal := fun f => f.rs1 == 0 && f.rs2 == 0) (cond := fun th f => condF f.cond th.tsr) rfl (by simp [rs1, rs2])
      ((condF_eq _ hx).2 code)
  · exact branchGoes ready (legal := fun f => isA f.rs1 && isA f.rs2)
      (cond := fun th f => condA f.cond (th.areg (aOf f.rs1)) (th.areg (aOf f.rs2))) rfl (by simp [rs1, rs2]) (condA_eq hx code)

theorem jumpsAndLinks : Claim.JumpsAndLinks := by
  intro s t ready th
  constructor
  · intro f a
    have target : th.pc + f.off.signExtend 48 * 4 = a := branchTarget_eq ..
    refine ⟨fun link => ?_, fun link la => ?_⟩
    · exact jumps_body ready rfl (by simp [link]) ((if_pos link).trans (by rw [target]; rfl)) rfl rfl
    · exact jumps_only ready rfl (by simp [la]) ((if_neg (by simp [link])).trans (by rw [target]))
  · intro f a rsv
    refine ⟨fun link => ?_, fun link la => ?_⟩
    · exact jumps_body ready rfl (by simp [rsv, link]) (if_pos link) rfl rfl
    · have check : (f.rsv == 0 && (f.link == 1 || f.la == 0)) = true := by simp [rsv, la]
      have noLink : f.link ≠ 1 := by simp [link]
      split
      · next pops => exact jumps_body ready rfl check ((if_neg noLink).trans ((if_pos pops).trans (by rw [List.drop_one]; rfl))) rfl rfl
      · next stays => exact jumps_only ready rfl check ((if_neg noLink).trans (if_neg stays))

/-- Settles O16: a branch by its condition, a jump by what it does to the link and the return stack. -/
theorem branchesAndJumps : Obligations.BranchesAndJumps := ⟨conditionalBranches, jumpsAndLinks⟩

end

section
/-! SUPPORT. The system registers (R220–R222, R256): what a write leaves, and the checks of a move in their order. -/

namespace Sys2Proof.Machine

open Host

/-! ### The checks of a system instruction (R222) -/

section checks
variable {i : Instr} {s : State} {t : ThreadId} {w : Word} {legal permitted : Bool} {body : Thread → Result} (ready : s.ready t)
  (row : exec i s = .next (issue s t w legal permitted body))

include ready row

theorem raises_illegal (check : legal = false) : Raises i s t 0x02 (w.setWidth 48) := by
  rw [Raises, row, check, issue_illegal ready, codeIllegal]

theorem raises_priv (check : legal = true) (level : permitted = false) : Raises i s t 0x03 (w.setWidth 48) := by
  rw [Raises, row, check, level, issue_priv ready, codePriv]

theorem runs_body (check : legal = true) (level : permitted = true) :
    exec i s = .next (settle s t (s.thread t).pc (body (s.thread t))) := by
  rw [row, check, level, issue_ready ready]

/-- An instruction, of any level, that writes registers of its thread. -/
theorem retires_permitted {v : Thread} (check : legal = true) (level : permitted = true)
    (ok : body (s.thread t) = .ok (s.setThread t v)) (state : v.state = (s.thread t).state)
    (step : v.stepArmed = (s.thread t).stepArmed) : Retires i s t v :=
  retires_row ready row check level ok (state.trans ready.run) (step.trans ready.noStep)

end checks

theorem sysReadable_eq {n : Nat} {x : SysInfo} (h : sysInfo n = some x) (level : Nat) : sysReadable level n = decide (x.rd ≤ level) := by
  rw [sysReadable, h]

theorem sysWritable_eq {n : Nat} {x : SysInfo} (h : sysInfo n = some x) (level : Nat) : sysWritable level n = decide (x.wr ≤ level) := by
  rw [sysWritable, h]

/-- R222: a number that is not assigned with the width the instruction moves. -/
theorem sysLegal_false {n : Nat} {wide : Bool} (h : ∀ x, sysInfo n = some x → x.wide = !wide) : sysLegal n wide = false := by
  rw [Bool.eq_false_iff, Ne, sysLegal_iff]
  rintro ⟨x, assigned, width⟩
  rw [h x assigned] at width
  cases wide <;> cases width

/-! ### Writes (R221, R256) -/

/-- A write of a system register changes the thread's registers, or nothing of any thread. -/
theorem sysWrite_thread (s : State) (t : Nat) (th : Thread) (n : Nat) (v : Word) :
    (∃ x, sysWrite s t th n v = s.setThread t x ∧ x.state = th.state ∧ x.stepArmed = th.stepArmed) ∨
      ((sysWrite s t th n v).cores.threads = s.cores.threads ∧
        (Cores.wf s.cores = true → Cores.wf (sysWrite s t th n v).cores = true)) := by
  unfold sysWrite
  split
  case h_2 =>
    refine .inr ⟨rfl, fun h => ?_⟩
    rw [Cores.wf_iff] at h ⊢
    obtain ⟨threads, chans, clusters, cxen, cxlog, bht⟩ := h
    exact ⟨threads, chans, clusters, sput_wf cxen _ _, cxlog, bht⟩
  case h_11 | h_12 | h_13 => exact .inr ⟨rfl, id⟩
  all_goals exact .inl ⟨_, rfl, rfl, rfl⟩

section moves
variable {s : State} {t : Nat} (form : Cores.wf s.cores = true) (n : Nat) (v : Word)

include form

theorem sysWrite_wf (th : Thread) : Cores.wf (sysWrite s t th n v).cores = true := by
  rcases sysWrite_thread s t th n v with ⟨x, e, -, -⟩ | ⟨-, wf⟩
  · rw [e]
    exact State.setThread_wf form t x
  · exact wf form

theorem sysWrite_state : ((sysWrite s t (s.thread t) n v).thread t).state = (s.thread t).state ∧
    ((sysWrite s t (s.thread t) n v).thread t).stepArmed = (s.thread t).stepArmed := by
  rcases sysWrite_thread s t (s.thread t) n v with ⟨x, e, state, step⟩ | ⟨same, -⟩
  · rw [e, State.thread_setThread form, if_pos rfl]
    exact ⟨state, step⟩
  · have same : (sysWrite s t (s.thread t) n v).thread t = s.thread t := congrArg (sget Thread.cleared · t) same
    rw [same]
    exact ⟨rfl, rfl⟩

end moves

theorem sysWriteWide_state (th : Thread) (n : Nat) (v : Addr) :
    (sysWriteWide th n v).state = th.state ∧ (sysWriteWide th n v).stepArmed = th.stepArmed := by
  unfold sysWriteWide
  split <;> exact ⟨rfl, rfl⟩

/-- R220, R222: MFS and MFSA. -/
theorem systemRegisterReads {s : State} {t : ThreadId} (f : SFields) (ready : s.ready t) (rs1 : f.rs1 = 0) {x : SysInfo}
    (hx : sysInfo f.imm.toNat = some x) :
    let th := s.thread t
    let n := f.imm.toNat
    (x.wide = false → x.rd ≤ th.level →
      Retires (.mfs t f) s t (if n = 2 then { th.setD f.rd (sysRead s t th n) with nowHi := s.now.extractLsb' 32 32 }
        else th.setD f.rd (sysRead s t th n))) ∧
    (x.wide = true → x.rd ≤ th.level → f.rd.toNat < 8 → Retires (.mfsa t f) s t (th.setA (f.rd.setWidth 3) (sysReadWide th n))) ∧
    (x.wide = false → th.level < x.rd → Raises (.mfs t f) s t 0x03 ((SFields.word 0 f).setWidth 48)) ∧
    (x.wide = true → th.level < x.rd → f.rd.toNat < 8 → Raises (.mfsa t f) s t 0x03 ((SFields.word 2 f).setWidth 48)) := by
  intro th n
  have number : f.imm = 0x002 ↔ n = 2 := by rw [BitVec.toNat_eq]; rfl
  have narrow (width : x.wide = false) : (f.rs1 == 0 && sysLegal n false) = true := by simp [rs1]; exact ⟨x, hx, width⟩
  have wide (width : x.wide = true) (rd : f.rd.toNat < 8) : (isA f.rd && f.rs1 == 0 && sysLegal n true) = true := by
    simp [rd, rs1]; exact ⟨x, hx, width⟩
  have high (read : x.rd ≤ th.level) : sysReadable th.level n = true := (sysReadable_eq hx _).trans (decide_eq_true read)
  have low (read : th.level < x.rd) : sysReadable th.level n = false := (sysReadable_eq hx _).trans (decide_eq_false (Nat.not_le.2 read))
  refine ⟨fun width read => ?_, fun width read rd => ?_, fun width read => ?_, fun width read rd => ?_⟩
  · refine retires_permitted ready rfl (narrow width) (high read) (by simp only [number]; rfl) ?_ ?_
    · split <;> exact Thread.setD_state ..
    · split <;> exact Thread.setD_stepArmed ..
  · exact retires_permitted ready rfl (wide width rd) (high read) rfl rfl rfl
  · exact raises_priv ready rfl (narrow width) (low read)
  · exact raises_priv ready rfl (wide width rd) (low read)

/-- R220, R222: MTS and MTSA. -/
theorem systemRegisterStores {s : State} {t : ThreadId} (f : SFields) (ready : s.ready t) (rd : f.rd = 0) {x : SysInfo}
    (hx : sysInfo f.imm.toNat = some x) :
    let th := s.thread t
    let n := f.imm.toNat
    (x.wide = false → x.wr ≤ th.level → ∃ u, exec (.mts t f) s = .next u ∧
      let v := sysWrite s t th n (th.dreg f.rs1)
      u.thread t = { v.thread t with pc := th.pc + 4, jumpFrom := none } ∧ OnlyThread v u t) ∧
    (x.wide = true → x.wr ≤ th.level → f.rs1.toNat < 8 →
      Retires (.mtsa t f) s t (sysWriteWide th n (th.areg (f.rs1.setWidth 3)))) ∧
    (x.wide = false → th.level < x.wr → Raises (.mts t f) s t 0x03 ((SFields.word 1 f).setWidth 48)) ∧
    (x.wide = true → th.level < x.wr → f.rs1.toNat < 8 → Raises (.mtsa t f) s t 0x03 ((SFields.word 3 f).setWidth 48)) := by
  intro th n
  have narrow (width : x.wide = false) : (f.rd == 0 && sysLegal n false) = true := by simp [rd]; exact ⟨x, hx, width⟩
  have wide (width : x.wide = true) (rs1 : f.rs1.toNat < 8) : (f.rd == 0 && isA f.rs1 && sysLegal n true) = true := by
    simp [rd, rs1]; exact ⟨x, hx, width⟩
  have high (write : x.wr ≤ th.level) : sysWritable th.level n = true := (sysWritable_eq hx _).trans (decide_eq_true write)
  have low (write : th.level < x.wr) : sysWritable th.level n = false :=
    (sysWritable_eq hx _).trans (decide_eq_false (Nat.not_le.2 write))
  refine ⟨fun width write => ?_, fun width write rs1 => ?_, fun width write => ?_, fun width write rs1 => ?_⟩
  · let v := sysWrite s t th n (th.dreg f.rs1)
    obtain ⟨state, step⟩ := sysWrite_state ready.form n (th.dreg f.rs1) (t := t)
    have run : (v.thread t).state = .run := state.trans ready.run
    have row : exec (.mts t f) s = .next (settle s t th.pc (.ok v)) :=
      runs_body (body := fun th => .ok (sysWrite s t th n (th.dreg f.rs1))) ready rfl (narrow width) (high write)
    refine ⟨_, row.trans (congrArg _ (settle_ok run (step.trans ready.noStep) _)), thread_setThread_self ?_ _ _,
      OnlyThread.setThread (sysWrite_wf ready.form n _ th) run⟩
    exact (show (v.thread t).state ≠ .idle by simp [run])
  · obtain ⟨state, step⟩ := sysWriteWide_state th n (th.areg (f.rs1.setWidth 3))
    exact retires_permitted ready rfl (wide width rs1) (high write) rfl state step
  · exact raises_priv ready rfl (narrow width) (low write)
  · exact raises_priv ready rfl (wide width rs1) (low write)

end Sys2Proof.Machine

open Sys2Proof Sys2Proof.Machine Host

theorem systemRegisterMoves : Claim.SystemRegisterMoves := by
  intro s t f ready th n info word
  refine ⟨fun rs1 => ?_, fun rd => ?_, fun wide => ?_, fun narrow => ?_⟩
  · have reads (x : SysInfo) (hx : info = some x) := systemRegisterReads f ready rs1 hx
    exact ⟨fun x hx => (reads x hx).1, fun x hx => (reads x hx).2.1, fun x hx => (reads x hx).2.2.1, fun x hx => (reads x hx).2.2.2⟩
  · have stores (x : SysInfo) (hx : info = some x) := systemRegisterStores f ready rd hx
    exact ⟨fun x hx => (stores x hx).1, fun x hx => (stores x hx).2.1, fun x hx => (stores x hx).2.2.1, fun x hx => (stores x hx).2.2.2⟩
  · have none (b : Bool) : (b && sysLegal n false) = false := by rw [sysLegal_false wide, Bool.and_false]
    exact ⟨raises_illegal ready rfl (none _), raises_illegal ready rfl (none _)⟩
  · have none (b : Bool) : (b && sysLegal n true) = false := by rw [sysLegal_false narrow, Bool.and_false]
    exact ⟨raises_illegal ready rfl (none _), raises_illegal ready rfl (none _)⟩

theorem systemRegisterWrites : Claim.SystemRegisterWrites := by
  intro s t th v a form after mask
  have stored {n : Nat} {x : Thread} (e : sysWrite s t th n v = s.setThread t x) : after n = x := by
    change (sysWrite s t th n v).thread t = x
    rw [e, State.thread_setThread form, if_pos rfl]
  have tsr : after 0x000 = { th with tsr := th.tsr &&& ~~~mask ||| v &&& mask } := stored rfl
  have causeS : after 0x011 = { th with ecauseS := v &&& 0xE000003F } := stored rfl
  have causeM : after 0x021 = { th with ecauseM := v &&& 0xE000003F } := stored rfl
  have half : after 0x040 = { th with tcmpLo := some v } := stored rfl
  have pend : after 0x043 = { th with evpend := th.evpend &&& ~~~v.setWidth 16 } := stored rfl
  have irq : after 0x044 = { th with evirq := v.setWidth 17 } := stored rfl
  have wstat : after 0x045 = { th with wstat := th.wstat &&& 0x1FF } := stored rfl
  refine ⟨by rw [tsr], by rw [causeS], by rw [causeM], by rw [half], fun s' hs w => ?_, fun k hk => ?_, by rw [irq], by rw [wstat],
    rfl, rfl, rfl, rfl, rfl, rfl⟩
  · have low : s'.thread t = { th with tcmpLo := some v } := by rw [hs]; exact half
    have form' : Cores.wf s'.cores = true := by rw [hs]; exact sysWrite_wf form _ _ _
    rw [low, sysWrite, State.thread_setThread form', if_pos rfl]
    rfl
  · rw [pend, BitVec.getLsbD_and, BitVec.getLsbD_not, BitVec.getLsbD_setWidth, decide_eq_true hk, Bool.true_and, Bool.true_and]

/-- Settles O20: the checks of a move in their order, and each written register by the row of its number. -/
theorem systemRegisters : Obligations.SystemRegisters := ⟨systemRegisterMoves, systemRegisterWrites⟩

end

section
/-! SUPPORT. Exceptions taken and left (R220, R245–R250): the bits of TSR and ECAUSE, which handler an exception enters, and what ERET
restores. -/

namespace Sys2Proof.Machine

open Host

/-! ### LEVEL and ECAUSE, bit by bit (R220, R221) -/

theorem bits_eq_of_bitAt {w v : Word} {hi lo : Nat} (h : ∀ i < hi + 1 - lo, bitAt w (lo + i) = bitAt v (lo + i)) :
    bits w hi lo = bits v hi lo := by
  refine Nat.eq_of_testBit_eq fun i => ?_
  rw [testBit_bits, testBit_bits]
  by_cases inside : i < hi + 1 - lo
  · rw [h i inside]
  · rw [decide_eq_false inside, Bool.false_and, Bool.false_and]

theorem level_setBit (w : Word) {i : Nat} (h : i < 30) (b : Bool) : bits (setBit w i b) 31 30 = bits w 31 30 :=
  bits_eq_of_bitAt fun k hk => by rw [bitAt_setBit (by omega), if_neg (by omega)]

theorem bitAt_mask30 {k : Nat} (h : k < 32) : bitAt 0x3FFFFFFF k = decide (k < 30) := by
  have all : ∀ k : Fin 32, bitAt 0x3FFFFFFF k = decide (k.val < 30) := by decide
  exact all ⟨k, h⟩

theorem bitAt_setLevel {k : Nat} (h : k < 32) (w : Word) (l : Nat) :
    bitAt (setLevel w l) k = if k < 30 then bitAt w k else l.testBit (k - 30) := by
  rw [setLevel, bitAt_or, bitAt_and, bitAt_mask30 h, bitAt_at' h]
  by_cases low : k < 30
  · simp [low]
  · simp [low, Nat.not_lt.1 low]

theorem level_setLevel (w : Word) {l : Nat} (h : l < 4) : bits (setLevel w l) 31 30 = l := by
  rw [← bits_at' (v := l) (hi := 31) (lo := 30) (by decide) h]
  refine bits_eq_of_bitAt fun k hk => ?_
  rw [bitAt_setLevel (by omega), if_neg (by omega), bitAt_at' (by omega), decide_eq_true (by omega), Bool.true_and, bits_at' (by decide) h]

theorem bitAt_ecauseOf {k : Nat} (h : k < 32) (tsr : Word) (code : Nat) :
    bitAt (ecauseOf tsr code) k = (bitAt tsr k && decide (29 ≤ k) || code.testBit k) := by
  have high : bitAt 0xE0000000 k = decide (29 ≤ k) := by
    have all : ∀ k : Fin 32, bitAt 0xE0000000 k = decide (29 ≤ k.val) := by decide
    exact all ⟨k, h⟩
  rw [ecauseOf, bitAt_or, bitAt_and, bitAt_ofNat h, high]

/-- R221: ECAUSE holds the level and IE before the exception, and its code. -/
theorem ecauseOf_saved (tsr : Word) {code : Nat} (small : code < 0x20) :
    bits (ecauseOf tsr code) 31 30 = bits tsr 31 30 ∧ bitAt (ecauseOf tsr code) 29 = bitAt tsr 29 ∧ bits (ecauseOf tsr code) 5 0 = code := by
  have none {k : Nat} (h : 5 ≤ k) : code.testBit k = false :=
    Nat.testBit_lt_two_pow (small.trans_le (Nat.pow_le_pow_right (by decide) h : 2 ^ 5 ≤ 2 ^ k))
  refine ⟨bits_eq_of_bitAt fun k hk => ?_, ?_, Nat.eq_of_testBit_eq fun k => ?_⟩
  · rw [bitAt_ecauseOf (by omega), none (by omega), decide_eq_true (by omega), Bool.and_true, Bool.or_false]
  · rw [bitAt_ecauseOf (by decide), none (by decide), decide_eq_true (by decide), Bool.and_true, Bool.or_false]
  · rw [testBit_bits]
    by_cases inside : k < 6
    · rw [Nat.zero_add, bitAt_ecauseOf (by omega)]
      simp [inside, show ¬29 ≤ k by omega]
    · rw [none (by omega)]
      simp [inside]

/-! ### The handler's TSR (R248) -/

/-- TSR after an exception to level `l`: the level, IE clear, and EXL of the level set. -/
theorem handlerTsr_bits (tsr : Word) {l exl : Nat} (level : l < 4) (h : exl < 29) :
    let now := setBit (setBit (setLevel tsr l) tsrIe false) exl true
    bits now 31 30 = l ∧ bitAt now 29 = false ∧ bitAt now exl = true := by
  refine ⟨?_, ?_, ?_⟩
  · rw [level_setBit _ (by omega), level_setBit _ (by decide), level_setLevel tsr level]
  · rw [bitAt_setBit (by decide), if_neg (by omega), bitAt_setBit (by decide)]
    exact if_pos rfl
  · rw [bitAt_setBit (by omega), if_pos rfl]

theorem enterHandler_supervisor (th : Thread) (code : Nat) (epc einfo : Addr) : enterHandler th 1 code epc einfo =
    { th with epcS := epc, ecauseS := ecauseOf th.tsr code, einfoS := einfo,
              tsr := setBit (setBit (setLevel th.tsr 1) tsrIe false) tsrExlS true,
              pc := th.vbarS + BitVec.ofNat 48 (0x40 * code), jumpFrom := none } := by
  rw [enterHandler, if_neg (by decide)]

theorem enterHandler_monitor (th : Thread) (code : Nat) (epc einfo : Addr) : enterHandler th 2 code epc einfo =
    { th with epcM := epc, ecauseM := ecauseOf th.tsr code, einfoM := einfo,
              tsr := setBit (setBit (setLevel th.tsr 2) tsrIe false) tsrExlM true,
              pc := th.vbarM + BitVec.ofNat 48 (0x40 * code), jumpFrom := none } := by
  rw [enterHandler, if_pos rfl]

/-! ### Which handler (R246, R250) -/

/-- R246: the exceptions that are taken at Monitor. -/
def ToMonitor (th : Thread) (code : Nat) : Prop := code = 0x0B ∨ code = 0x10 ∨ code = 0x11 ∨ code = 0x12 ∨ th.level = 2

section entry
variable {s : State} {t code : Nat} (epc einfo : Addr)

theorem takenLevel_supervisor (h : ¬ToMonitor (s.thread t) code) (low : (s.thread t).level < 2) :
    max (targetLevel code) (s.thread t).level = 1 := by
  have target : targetLevel code = 1 := if_neg fun code => h (by unfold ToMonitor; tauto)
  omega

theorem takenLevel_monitor (h : ToMonitor (s.thread t) code) (low : (s.thread t).level < 3) :
    max (targetLevel code) (s.thread t).level = 2 := by
  unfold targetLevel
  unfold ToMonitor at h
  split <;> omega

theorem takeException_supervisor (h : ¬ToMonitor (s.thread t) code) (low : (s.thread t).level < 2)
    (exl : bitAt (s.thread t).tsr 28 = false) :
    takeException s t code epc einfo = s.setThread t (enterHandler (s.thread t) 1 code epc einfo) := by
  simp [takeException, takenLevel_supervisor h low, tsrExlS, exl]

theorem takeException_double (h : ¬ToMonitor (s.thread t) code) (low : (s.thread t).level < 2)
    (exlS : bitAt (s.thread t).tsr 28 = true) (exlM : bitAt (s.thread t).tsr 27 = false) :
    takeException s t code epc einfo = s.setThread t (enterHandler (s.thread t) 2 0x12 epc (BitVec.ofNat 48 code)) := by
  simp [takeException, takenLevel_supervisor h low, tsrExlS, exlS, tsrExlM, exlM, codeDouble]

theorem takeException_monitor (h : ToMonitor (s.thread t) code) (low : (s.thread t).level < 3)
    (exl : bitAt (s.thread t).tsr 27 = false) :
    takeException s t code epc einfo = s.setThread t (enterHandler (s.thread t) 2 code epc einfo) := by
  simp [takeException, takenLevel_monitor h low, tsrExlM, exl]

end entry

/-- R247: an exception whose EPC is the next instruction. -/
theorem settle_call {s : State} {t : ThreadId} (h : s.ready t) (pc : Addr) (code : Nat) (einfo : Addr) :
    settle s t pc (.call code einfo) = takeException s t code (pc + 4) einfo :=
  endStep_no (takeException_stepArmed h.form h.noStep code (pc + 4) einfo)

end Sys2Proof.Machine

open Sys2Proof Sys2Proof.Machine Host

theorem exceptionEntry : Claim.ExceptionEntry := by
  intro s t code epc einfo form run pos small th u now monitor saved
  have entered {h : Thread} (e : u = s.setThread t h) (state : h.state = th.state) : now = h ∧ OnlyThread s u t := by
    have work : h.state = .run := state.trans run
    refine ⟨(congrArg (State.thread · t) e).trans ?_, e ▸ OnlyThread.setThread form work⟩
    exact (State.thread_setThread form ..).trans (if_pos rfl)
  refine ⟨fun super exl low => ?_, fun super exlS exlM low => ?_, fun high exl low => ?_⟩
  · obtain ⟨e, only⟩ := entered (takeException_supervisor epc einfo super low exl) (enterHandler_state ..)
    obtain ⟨level, ie, set⟩ := handlerTsr_bits th.tsr (l := 1) (exl := 28) (by decide) (by decide)
    rw [e, enterHandler_supervisor]
    exact ⟨rfl, rfl, ecauseOf_saved th.tsr small, level, ie, set, rfl, rfl, rfl, rfl, only⟩
  · obtain ⟨e, only⟩ := entered (takeException_double epc einfo super low exlS exlM) (enterHandler_state ..)
    obtain ⟨level, ie, set⟩ := handlerTsr_bits th.tsr (l := 2) (exl := 27) (by decide) (by decide)
    rw [e, enterHandler_monitor]
    exact ⟨rfl, rfl, ecauseOf_saved th.tsr (by decide), level, ie, set, rfl, rfl, rfl, only⟩
  · obtain ⟨e, only⟩ := entered (takeException_monitor epc einfo high low exl) (enterHandler_state ..)
    obtain ⟨level, ie, set⟩ := handlerTsr_bits th.tsr (l := 2) (exl := 27) (by decide) (by decide)
    rw [e, enterHandler_monitor]
    exact ⟨rfl, rfl, ecauseOf_saved th.tsr small, level, ie, set, rfl, rfl, rfl, rfl, only⟩

theorem callsTakeTheirException : Claim.CallsTakeTheirException := by
  intro s t f ready rd rs1 pc imm
  have check : legalImm12 f = true := (legalImm12_iff f).2 ⟨rd, rs1⟩
  have detail : f.imm.setWidth 48 = imm := (BitVec.ofNat_toNat ..).symm
  refine ⟨?_, ?_, ?_⟩
  · rw [runs_body ready rfl check rfl, settle_call ready, detail, codeSyscall]
  · rw [runs_body ready rfl check rfl, settle_call ready, detail, codeMoncall]
  · rw [runs_body ready rfl check rfl, settle_raise ready, detail, codeBreak]

/-- Settles O21: each exception by the handler that it enters, with the bits of its ECAUSE and TSR. -/
theorem exceptionsAreTaken : Obligations.ExceptionsAreTaken := ⟨exceptionEntry, callsTakeTheirException⟩

end

section
/-! SUPPORT. ERET, FENCE and CLRF (R234, R248): the TSR that each leaves, bit by bit. -/

namespace Sys2Proof.Machine

open Host

/-! ### CLRF (R234) -/

theorem bitAt_clearBit {k : Nat} (h : k < 32) (w : Word) (i : Nat) (b : Bool) :
    bitAt (if b then setBit w i false else w) k = (bitAt w k && !(k == i && b)) := by
  rw [apply_ite (bitAt · k), bitAt_setBit h]
  by_cases e : k = i <;> cases b <;> simp [e]

theorem bitAt_clearHc {k : Nat} (h : k < 32) (w : Word) (b : Bool) :
    bitAt (if b then w &&& 0xFFFF00FF else w) k = (bitAt w k && !(decide (8 ≤ k ∧ k < 16) && b)) := by
  have mask : bitAt 0xFFFF00FF k = !decide (8 ≤ k ∧ k < 16) := by
    have all : ∀ k : Fin 32, bitAt 0xFFFF00FF k = !decide (8 ≤ k.val ∧ k.val < 16) := by decide
    exact all ⟨k, h⟩
  rw [apply_ite (bitAt · k), bitAt_and, mask]
  cases b <;> simp

/-- R234: CLRF clears the flags that IMM12 names, and no other bit. -/
theorem bitAt_clearFlags {k : Nat} (h : k < 32) (tsr : Word) (imm : BitVec 12) : bitAt (clearFlags tsr imm) k =
    (bitAt tsr k && !((k == 16 && imm.getLsbD 0) || (decide (8 ≤ k ∧ k < 16) && imm.getLsbD 1) ||
      (k == 17 && imm.getLsbD 2) || (k == 18 && imm.getLsbD 3) || (k == 19 && imm.getLsbD 4))) := by
  have named {i : Nat} (hi : i < 12) : bitAt (imm.setWidth 32) i = imm.getLsbD i := by
    change (imm.setWidth 32).getLsbD i = _
    rw [BitVec.getLsbD_setWidth, decide_eq_true (by omega), Bool.true_and]
  rw [clearFlags]
  simp only [bitAt_clearBit h, bitAt_clearHc h, named (show 0 < 12 by decide), named (show 1 < 12 by decide), named (show 2 < 12 by decide),
    named (show 3 < 12 by decide), named (show 4 < 12 by decide), Bool.not_or, Bool.and_assoc]
  rfl

/-! ### ERET (R248) -/

/-- TSR after ERET: LEVEL `l`, IE `ie`, and EXL of the level clear. -/
theorem returnTsr_bits (tsr : Word) {l exl : Nat} (level : l < 4) (h : exl = 27 ∨ exl = 28) (ie : Bool) :
    let now := setBit (setBit (setLevel tsr l) tsrIe ie) exl false
    bits now 31 30 = l ∧ bitAt now 29 = ie ∧ bitAt now exl = false ∧ ∀ k, k < 27 → bitAt now k = bitAt tsr k := by
  refine ⟨?_, ?_, ?_, fun k hk => ?_⟩
  · rw [level_setBit _ (by omega), level_setBit _ (by decide), level_setLevel tsr level]
  · rw [bitAt_setBit (by decide), if_neg (by omega), bitAt_setBit (by decide)]
    exact if_pos rfl
  · rw [bitAt_setBit (by omega), if_pos rfl]
  · have apart : k ≠ tsrIe := by simp only [tsrIe]; omega
    rw [bitAt_setBit (by omega), if_neg (by omega), bitAt_setBit (by omega), if_neg apart, bitAt_setLevel (by omega), if_pos (by omega)]

/-- A ready thread whose instruction stores it and ends is left as stored. -/
theorem leaves_gone {i : Instr} {s : State} {t : ThreadId} {v : Thread} (ready : s.ready t)
    (row : exec i s = .next (settle s t (s.thread t).pc (.gone (endStep (s.setThread t v) t)))) (state : v.state = (s.thread t).state)
    (step : v.stepArmed = (s.thread t).stepArmed) : Leaves i s t v := by
  have run : v.state = .run := state.trans ready.run
  have stored : (s.setThread t v).thread t = v := thread_setThread_self (by simp [run]) s t
  refine ⟨_, row.trans (congrArg _ (endStep_no ?_)), stored, OnlyThread.setThread ready.form run⟩
  rw [stored]
  exact step.trans ready.noStep

end Sys2Proof.Machine

open Sys2Proof Sys2Proof.Machine Host

/-- Settles O22: each instruction by the TSR and PC that it leaves. -/
theorem returnsFencesAndFlags : Obligations.ReturnsFencesAndFlags := by
  intro s t f ready rd rs1 th
  have imm12 : legalImm12 f = true := (legalImm12_iff f).2 ⟨rd, rs1⟩
  refine ⟨fun imm user => ?_, fun imm level => ?_, fun pos small => ?_, fun small => ?_⟩
  · refine raises_priv (permitted := decide (1 ≤ th.level)) ready rfl ?_ (by rw [user]; rfl)
    simp [imm12, imm]
  · have legal : (legalImm12 f && f.imm == 0) = true := by simp [imm12, imm]
    have row := runs_body (i := .eret t f) (permitted := decide (1 ≤ th.level)) ready rfl legal (decide_eq_true (by omega))
    refine ⟨returnFrom th, leaves_gone ready row rfl rfl, ?_⟩
    obtain ⟨back, ie, exl, low⟩ := returnTsr_bits th.tsr (l := min th.level (bits (if th.level = 1 then th.ecauseS else th.ecauseM) 31 30))
      (exl := if th.level = 1 then 28 else 27) (by omega) (by split <;> simp) (bitAt (if th.level = 1 then th.ecauseS else th.ecauseM) 29)
    exact ⟨rfl, back, ie, exl, low, rfl⟩
  · have legal : (legalImm12 f && f.imm != 0 && decide (f.imm.toNat < 8)) = true := by
      simp [imm12, (fence_imm f.imm).2 pos, small]
    have row : exec (.fence t f) s = _ := (runs_body (body := fun _ => .ok s) ready rfl legal rfl).trans
      (congrArg _ (settle_ok ready.run ready.noStep _))
    have run : { th with pc := th.pc + 4, jumpFrom := none }.state = .run := ready.run
    exact ⟨_, row, thread_setThread_self (by rw [run]; simp) s t, OnlyThread.setThread ready.form run⟩
  · have legal : (legalImm12 f && decide (f.imm.toNat < 32)) = true := by simp [imm12, small]
    exact ⟨_, retires_permitted (v := { th with tsr := clearFlags th.tsr f.imm }) ready rfl legal rfl rfl rfl rfl,
      fun k hk => bitAt_clearFlags hk ..⟩

end

section
/-! SUPPORT. Loads and stores (R206, R209–R213, R229): the row of each load, the value it writes, its address and base update, and the
return of what a thread awaits. -/

namespace Sys2Proof.Machine

open Host

/-! ### The rows (R229) -/

theorem isEight_eq (size : AccessSize) : size.isEight = (size == .eight) := by cases size <;> rfl
theorem isWord_eq (size : AccessSize) : size.isWord = (size == .word) := by cases size <;> rfl

theorem exec_load {r : LoadRow} (h : r ∈ loadRows) (t : ThreadId) (f : MFields) (s : State) :
    exec (r.instr t f) s = loadRow r.op r.size r.signed t f s := by
  simp only [loadRows, List.mem_cons, List.not_mem_nil, or_false] at h
  rcases h with rfl | rfl | rfl | rfl | rfl | rfl <;> rfl

theorem signExtend_byte (v : Nat) : (BitVec.ofNat 8 v).signExtend 32 = BitVec.ofInt 32 (signedOf 8 v) := by
  have value : (BitVec.ofNat 8 v).toInt = signedOf 8 v := by
    rw [BitVec.toInt_eq_toNat_cond, BitVec.toNat_ofNat]
    simp only [signedOf]
    split <;> split <;> omega
  rw [← value]
  rfl

theorem signExtend_half (v : Nat) : (BitVec.ofNat 16 v).signExtend 32 = BitVec.ofInt 32 (signedOf 16 v) := by
  have value : (BitVec.ofNat 16 v).toInt = signedOf 16 v := by
    rw [BitVec.toInt_eq_toNat_cond, BitVec.toNat_ofNat]
    simp only [signedOf]
    split <;> split <;> omega
  rw [← value]
  rfl

/-- R229: what the data of a load writes, by its row. -/
theorem loaded_eq {r : LoadRow} (h : r ∈ loadRows) (th : Thread) (f : MFields) (v : Nat) (upd : Option BaseUpdate) :
    th.loaded f.rt r.size r.signed v upd = (th.takes r f v).update upd := by
  simp only [loadRows, List.mem_cons, List.not_mem_nil, or_false] at h
  rcases h with rfl | rfl | rfl | rfl | rfl | rfl
  · exact congrArg (fun w => (th.setD f.rt w).update upd) (signExtend_byte v)
  · rfl
  · exact congrArg (fun w => (th.setD f.rt w).update upd) (signExtend_half v)
  · rfl
  · rfl
  · rfl

/-! ### Addresses and bases (R229) -/

/-- R229: the effective address, by the mode. -/
theorem effectiveAddress_eq (th : Thread) (f : MFields) : effectiveAddress th f =
    if f.mode = 1 then th.areg f.ab
    else if f.mode = 3 then
      th.areg f.ab + BitVec.ofNat 48 ((th.dreg (f.disp.setWidth 4)).toNat * 2 ^ (f.disp.toNat / 16 % 4))
    else th.areg f.ab + BitVec.ofInt 48 f.disp.toInt := by
  have indexed : ((th.dreg (f.disp.setWidth 4)).setWidth 48 <<< (f.disp.extractLsb' 4 2).toNat : Addr) =
      BitVec.ofNat 48 ((th.dreg (f.disp.setWidth 4)).toNat * 2 ^ (f.disp.toNat / 16 % 4)) := by
    refine BitVec.eq_of_toNat_eq ?_
    rw [BitVec.toNat_shiftLeft, BitVec.toNat_setWidth_of_le (by decide), BitVec.extractLsb'_toNat, Nat.shiftRight_eq_div_pow,
      Nat.shiftLeft_eq, BitVec.toNat_ofNat]
  have modes : ∀ m : BitVec 2, m = 0 ∨ m = 1 ∨ m = 2 ∨ m = 3 := by decide
  rw [effectiveAddress, indexed]
  rcases modes f.mode with h | h | h | h <;> rw [h] <;> rfl

/-- R229: the base update is that of the mode. -/
theorem update_baseUpdate (th old : Thread) (f : MFields) :
    th.update (baseUpdate old f) = th.based f old (effectiveAddress old f) := by
  unfold baseUpdate Thread.based
  split
  · rfl
  · split <;> rfl

/-! ### What a load leaves of its thread -/

section fields
variable (th : Thread) (r : LoadRow) (f : MFields) (v : Nat) (upd : Option BaseUpdate)

theorem update_state : (th.update upd).state = th.state ∧ (th.update upd).stepArmed = th.stepArmed ∧
    (th.update upd).haltReq = th.haltReq := by
  cases upd <;> exact ⟨rfl, rfl, rfl⟩

theorem setD_haltReq (rd : BitVec 4) (w : Word) : (th.setD rd w).haltReq = th.haltReq := by
  unfold Thread.setD; split <;> rfl

theorem takes_state : (th.takes r f v).state = th.state ∧ (th.takes r f v).stepArmed = th.stepArmed ∧
    (th.takes r f v).haltReq = th.haltReq := by
  unfold Thread.takes
  split
  · exact ⟨rfl, rfl, rfl⟩
  · exact ⟨Thread.setD_state .., Thread.setD_stepArmed .., setD_haltReq ..⟩

theorem update_outstanding : ({ th with outstanding := none } : Thread).update upd = { th.update upd with outstanding := none } := by
  cases upd <;> rfl

theorem setD_outstanding (rd : BitVec 4) (w : Word) :
    ({ th with outstanding := none } : Thread).setD rd w = { th.setD rd w with outstanding := none } := by
  unfold Thread.setD; split <;> rfl

theorem takes_outstanding : ({ th with outstanding := none } : Thread).takes r f v = { th.takes r f v with outstanding := none } := by
  unfold Thread.takes
  split
  · rfl
  · exact setD_outstanding ..

end fields

/-! ### Issue of a load -/

section issue
variable {s : State} {t : ThreadId} {f : MFields} {size : AccessSize} (ready : s.ready t) (legal : LegalMem true size f) {place : Place}
  (check : checkAccess s t (effectiveAddress (s.thread t) f) size.bytes false (size == .eight) (size == .word) = .inl place)
  (op : Nat) (signed : Bool)

include ready legal check

theorem loadRow_near (near : nearPlace t place = true) : loadRow op size signed t f s =
    .next (settle s t (s.thread t).pc (.regs s t
      ((s.thread t).loaded f.rt size signed (readPlace s place size.bytes) (baseUpdate (s.thread t) f)))) := by
  rw [loadRow, (memLegal_iff ..).2 legal, issue_ready ready]
  simp only [isEight_eq, isWord_eq, check, near, if_true]

/-- R206: a far load outside the portal. -/
theorem loadRow_far (far : nearPlace t place = false) (outside : portalOffset place = none) : loadRow op size signed t f s =
    .next (s.setThread t { s.thread t with
      outstanding := some (.load f.rt size signed (effectiveAddress (s.thread t) f) (baseUpdate (s.thread t) f)) }) := by
  rw [loadRow, (memLegal_iff ..).2 legal, issue_ready ready]
  simp only [isEight_eq, isWord_eq, check, far, outside, Option.bind_none, Bool.false_eq_true, if_false]
  rw [settle_stay ready]
  rfl

end issue

theorem portalOffset_none {place : Place} (h : ∀ off, place = .window off → off < tryBase + 0x10000 ∨ tryBase + 0x1C000 ≤ off) :
    portalOffset place = none := by
  cases place with
  | window off => exact if_neg fun inside => by have := h off rfl; omega
  | _ => rfl

/-! ### The return (R206, R213) -/

section returns
variable {i : Instr} {s : State} {t : ThreadId}

/-- What thread `t` awaited has come, and it moves on. -/
theorem leaves_finishReturn {g : Thread → Thread} {v : Thread} (form : Cores.wf s.cores = true)
    (row : exec i s = .next (finishReturn s t g))
    (value : { g { s.thread t with outstanding := none } with pc := (s.thread t).pc + 4, jumpFrom := none } = v)
    (run : v.state = .run) (step : v.stepArmed = false) (halt : v.haltReq = false) : Leaves i s t v := by
  have stored : (s.setThread t v).thread t = v := thread_setThread_self (by simp [run]) s t
  have moved : finishReturn s t g = s.setThread t v := by
    simp only [finishReturn, State.modThread, value, stored, halt, Bool.false_eq_true, if_false]
    exact endStep_no (by rw [stored, step])
  exact ⟨_, row.trans (congrArg _ moved), stored, OnlyThread.setThread form run⟩

/-- R213: the data does not come. -/
theorem failReturn_eq (run : (s.thread t).state = .run) (step : (s.thread t).stepArmed = false) (halt : (s.thread t).haltReq = false)
    (ea : Addr) : failReturn s t ea =
      takeException (s.setThread t { s.thread t with outstanding := none }) t 0x09 (s.thread t).pc ea := by
  have stored : (s.setThread t { s.thread t with outstanding := none }).thread t = { s.thread t with outstanding := none } :=
    thread_setThread_self (by exact (show (s.thread t).state ≠ .idle by simp [run])) s t
  have work : ((s.setThread t { s.thread t with outstanding := none }).thread t).state ≠ .idle := by rw [stored]; simp [run]
  simp only [failReturn, State.modThread, haltReq_takeException work (by rw [stored]; exact halt), Bool.false_eq_true, if_false]
  rw [endStep_takeException work (by rw [stored]; exact step), stored, codeLoadEcc]

theorem fetchPlace_memory {place : Place} (window : ∀ off, place ≠ .window off) (hbm : ∀ off, place ≠ .hbm off) (n : Nat) :
    fetchPlace s t place n = (s, some (readPlace s place n)) := by
  cases place with
  | window off => exact absurd rfl (window off)
  | hbm off => exact absurd rfl (hbm off)
  | _ => rfl

/-- R206, R213: what the return of a load from an SRAM does. -/
theorem exec_loadReturn {rt : BitVec 4} {size : AccessSize} {signed : Bool} {ea : Addr} {upd : Option BaseUpdate} {place : Place}
    (out : (s.thread t).outstanding = some (.load rt size signed ea upd)) (at' : placeAt t ea = some place)
    (window : ∀ off, place ≠ .window off) (hbm : ∀ off, place ≠ .hbm off) (ecc : Bool) : exec (.loadDataReturn t ecc) s =
      .next (if ecc then failReturn s t ea
        else finishReturn s t fun th => th.loaded rt size signed (readPlace s place size.bytes) upd) := by
  change execLoadDataReturn t ecc s = _
  simp only [execLoadDataReturn, out, returnTo, at', fetchPlace_memory window hbm]

end returns

end Sys2Proof.Machine

open Sys2Proof Sys2Proof.Machine Host

theorem nearLoadsComplete : Claim.NearLoadsComplete := by
  intro r hr s t f place ready legal th ea check near
  obtain ⟨state, step, -⟩ := takes_state th r f (readPlace s place r.size.bytes)
  obtain ⟨state', step', -⟩ := update_state (th.takes r f (readPlace s place r.size.bytes)) (baseUpdate th f)
  have row := (exec_load hr t f s).trans (loadRow_near ready legal check r.op r.signed near)
  rw [loaded_eq hr] at row
  rw [← update_baseUpdate]
  obtain ⟨u, hu, left, only⟩ := exec_ok ready ((state'.trans state).trans ready.run) ((step'.trans step).trans ready.noStep)
  exact ⟨u, row.trans (congrArg _ hu), left, only⟩

theorem farLoadsLeaveTheCore : Claim.FarLoadsLeaveTheCore := by
  intro r hr s t f place ready legal th base ea
  have address : effectiveAddress th f = ea := effectiveAddress_eq th f
  refine ⟨address, fun check far outside => ⟨baseUpdate th f, by rw [← address, update_baseUpdate], ?_⟩⟩
  rw [← address] at check ⊢
  have run : { th with outstanding := some (.load f.rt r.size r.signed (effectiveAddress th f) (baseUpdate th f)) }.state = .run := ready.run
  exact ⟨_, (exec_load hr t f s).trans (loadRow_far ready legal check r.op r.signed far (portalOffset_none outside)),
    thread_setThread_self (by rw [run]; simp) s t, OnlyThread.setThread ready.form run⟩

theorem loadDataReturns : Claim.LoadDataReturns := by
  intro r hr s t f ea upd place th form run step halt out at' window hbm
  have returns := exec_loadReturn out at' window hbm
  obtain ⟨state₁, step₁, halt₁⟩ := takes_state th r f (readPlace s place r.size.bytes)
  obtain ⟨state₂, step₂, halt₂⟩ := update_state (th.takes r f (readPlace s place r.size.bytes)) upd
  have moves : exec (.loadDataReturn t false) s =
      .next (finishReturn s t fun th => th.loaded f.rt r.size r.signed (readPlace s place r.size.bytes) upd) := returns false
  refine ⟨leaves_finishReturn form moves ?_ (state₂.trans (state₁.trans run)) (step₂.trans (step₁.trans step))
    (halt₂.trans (halt₁.trans halt)), ?_⟩
  · rw [loaded_eq hr, takes_outstanding, update_outstanding]
  · rw [returns true, if_pos rfl, failReturn_eq run step halt]

/-- Settles O17: a near load by its row, a far one by what it awaits, and the return by what it finds. -/
theorem loadsOfEverySize : Obligations.LoadsOfEverySize := ⟨nearLoadsComplete, farLoadsLeaveTheCore, loadDataReturns⟩

end

section
/-! SUPPORT. A store at LEVEL 3: `checkAccess` lets it pass to the instruction store, which `writePlace` leaves as it is (R209, R229). -/

namespace Sys2Proof.Machine

open Host

/-- A thread in RUN at LEVEL 3, with 0xFF in D1 and A0 at the first byte of the instruction store. -/
def levelThree : Thread := { Thread.cleared with state := .run, tsr := 0xC0000000, d := [(1, 0xFF)] }

/-- Thread 0 as `levelThree`, everything else as after reset. -/
def levelThreeState : State := { State.reset with cores := { Cores.reset with threads := [(0, levelThree)] } }

/-- STB of D1 to the address in A0. -/
def storeAtZero : MFields := { rt := 1, ab := 0, mode := 0, disp := 0 }

theorem levelThreeState_ready : levelThreeState.ready 0 := ⟨rfl, rfl, by decide, rfl, by decide⟩

theorem levelThreeState_wf : levelThreeState.wf := by unfold State.wf; decide

theorem levelThree_passes : checkAccess levelThreeState 0 (effectiveAddress levelThree storeAtZero) 1 true false false = .inl (.istore 0) := by
  decide

end Sys2Proof.Machine

open Sys2Proof Sys2Proof.Machine Host

/-- Refutes O18: the Write column of the instruction store admits no level (R209), which the model writes as 3; a thread whose LEVEL is 3
passes that check, its STB to address 0 completes, and the byte there stays 0 where the statement asks 0xFF. -/
theorem not_storesOfEverySize : ¬ Obligations.StoresOfEverySize := by
  rintro ⟨stores, -⟩
  obtain ⟨u, e, -, ⟨-, -, bytes⟩, -⟩ := stores ⟨.stb, 0x0E, .byte, false⟩ (by simp [storeRows]) levelThreeState 0 storeAtZero (.istore 0)
    levelThreeState_ready levelThreeState_wf ⟨by decide, by decide⟩ levelThree_passes (by simp) (by simp)
  have written : readPlace u (.istore 0) 1 = 0xFF := bytes (.istore 0)
  cases e
  exact absurd written (by decide)

end

section
/-! SUPPORT. Threads that fork, join and end (R254, R257–R260): the pool thread that FORK takes, the state of a child, and what the end of
a thread leaves of its family. -/

namespace Sys2Proof.Machine

open Host

/-! ### Entries of a sparse store -/

theorem sget_of_mem_rising {α : Type} {d v : α} {b k : Nat} {m : SMap α} (h : srising b m = true) (mem : (k, v) ∈ m) :
    b < k ∧ sget d m k = v := by
  induction m generalizing b with
  | nil => cases mem
  | cons e m ih =>
    obtain ⟨j, w⟩ := e
    simp only [srising, Bool.and_eq_true, decide_eq_true_eq] at h
    rcases List.mem_cons.1 mem with eq | rest
    · cases eq
      exact ⟨h.1, if_pos rfl⟩
    · obtain ⟨above, value⟩ := ih h.2 rest
      exact ⟨h.1.trans above, (if_neg (Nat.ne_of_lt above)).trans value⟩

/-- An entry of a store in canonical form is what its key reads. -/
theorem sget_of_mem {α : Type} [DecidableEq α] {d v : α} {k : Nat} {m : SMap α} (h : swf d m = true) (mem : (k, v) ∈ m) :
    sget d m k = v := by
  rw [swf, Bool.and_eq_true] at h
  cases m with
  | nil => cases mem
  | cons e m =>
    obtain ⟨j, w⟩ := e
    have rising : srising j m = true := h.1
    rcases List.mem_cons.1 mem with eq | rest
    · cases eq
      exact if_pos rfl
    · obtain ⟨above, value⟩ := sget_of_mem_rising (d := d) rising rest
      exact (if_neg (Nat.ne_of_lt above)).trans value

/-- A key that does not read as the default is listed. -/
theorem mem_of_sget {α : Type} {d : α} {k : Nat} {m : SMap α} (h : sget d m k ≠ d) : (k, sget d m k) ∈ m := by
  induction m with
  | nil => exact absurd rfl h
  | cons e m ih =>
    by_cases eq : e.1 = k
    · rw [sget, if_pos eq, ← eq]
      exact List.mem_cons_self
    · rw [sget, if_neg eq] at h ⊢
      exact List.mem_cons_of_mem _ (ih h)

/-! ### The pool of a core (R258) -/

/-- R258: a thread that FORK of thread `t` may take. -/
def State.idlePool (s : State) (t : ThreadId) (k : Nat) : Prop :=
  (s.thread k).state = .idle ∧ (1024 ≤ t.val ∨ s.dispatchThread (coreOf t) (k % 8) = false)

theorem poolThread_eq (s : State) (t : ThreadId) : s.poolThread t = ((List.range 8).find? fun j =>
    (s.thread (8 * (t.val / 8) + j)).state == .idle && (1024 ≤ t.val || !s.dispatchThread (coreOf t) ((8 * (t.val / 8) + j) % 8))).map
      (8 * (t.val / 8) + ·) := by
  rw [State.poolThread, List.find?_map]
  rfl

theorem idlePool_iff (s : State) (t : ThreadId) (k : Nat) :
    ((s.thread k).state == .idle && (1024 ≤ t.val || !s.dispatchThread (coreOf t) (k % 8))) = true ↔ s.idlePool t k := by
  simp [State.idlePool]

/-- R258: no thread of the core's pool is idle. -/
theorem poolThread_none {s : State} {t : ThreadId} (h : ∀ k, k / 8 = t.val / 8 → ¬s.idlePool t k) : s.poolThread t = none := by
  rw [poolThread_eq, Option.map_eq_none_iff, List.find?_range_eq_none]
  intro j hj
  rw [Bool.not_eq_true', ← Bool.not_eq_true, idlePool_iff]
  exact h _ (by omega)

/-- R258: the lowest idle thread of the core's pool. -/
theorem poolThread_some {s : State} {t : ThreadId} {k : Nat} (core : k / 8 = t.val / 8) (idle : s.idlePool t k)
    (lowest : ∀ j, j / 8 = t.val / 8 → j < k → ¬s.idlePool t j) : s.poolThread t = some k := by
  have index : 8 * (t.val / 8) + k % 8 = k := by omega
  have found : (List.range 8).find? (fun j => (s.thread (8 * (t.val / 8) + j)).state == .idle &&
      (1024 ≤ t.val || !s.dispatchThread (coreOf t) ((8 * (t.val / 8) + j) % 8))) = some (k % 8) := by
    rw [List.find?_range_eq_some, idlePool_iff, index, List.mem_range]
    refine ⟨idle, Nat.mod_lt _ (by decide), fun j hj => ?_⟩
    rw [Bool.not_eq_true', ← Bool.not_eq_true, idlePool_iff]
    exact lowest _ (by omega) (by omega)
  rw [poolThread_eq, found, Option.map_some, index]

/-! ### The child (R258) -/

section child
variable (parent : Nat) (th : Thread) (f : RFields) (k : Nat)

theorem childState_dreg (r : BitVec 4) : (childState parent th f k).dreg r =
    if r = 2 then th.dreg (f.rs2 + 1) else if r = 1 then th.dreg f.rs2 else 0 := by
  by_cases zero : r = 0
  · subst zero
    rfl
  · rw [Thread.dreg, if_neg zero]
    simp only [BitVec.toNat_eq (x := r)]
    exact sget_sput_sput_nil (α := Word) ..

theorem childState_areg (r : BitVec 3) : (childState parent th f k).areg r =
    if r = 7 then BitVec.ofNat 48 (0x108000 + 0x1000 * (k % 8)) else if r = 1 then th.areg 1 else 0 := by
  simp only [BitVec.toNat_eq (x := r)]
  exact sget_sput_sput_nil (α := Addr) ..

theorem childState_tsr : (childState parent th f k).level = th.level ∧ bitAt (childState parent th f k).tsr 29 = true := by
  have fits : th.level < 4 := Nat.mod_lt _ (by decide)
  refine ⟨level_setLevel _ fits, (bitAt_setLevel (by decide) _ _).trans ?_⟩
  rfl

end child

/-! ### The end of a thread (R259, R260) -/

theorem thread_setThread_ne {k t : Nat} (h : k ≠ t) (s : State) (v : Thread) : (s.setThread t v).thread k = s.thread k :=
  sget_sput_ne h _

/-- Clearing the parent of each listed thread. -/
theorem thread_clearParents (l : List (Nat × Thread)) {s : State} (form : Cores.wf s.cores = true) :
    let u := l.foldl (fun st e => st.modThread e.1 fun th => { th with parent := none }) s
    Cores.wf u.cores = true ∧ ∀ k, u.thread k = if k ∈ l.map (·.1) then { s.thread k with parent := none } else s.thread k := by
  induction l generalizing s with
  | nil => exact ⟨form, fun k => (if_neg (by simp)).symm⟩
  | cons e l ih =>
    obtain ⟨wf, reads⟩ := ih (State.setThread_wf form e.1 { s.thread e.1 with parent := none })
    refine ⟨wf, fun k => (reads k).trans ?_⟩
    rw [State.thread_setThread form, List.map_cons]
    by_cases first : k = e.1
    · subst first
      simp
    · rw [if_neg first]
      exact if_congr (by simp [first]) rfl rfl

/-- R259: the children of a thread, and no others, become orphans. -/
theorem thread_orphanChildren {s : State} (form : Cores.wf s.cores = true) (t : Nat) :
    Cores.wf (orphanChildren s t).cores = true ∧ ∀ k, (orphanChildren s t).thread k =
      if (s.thread k).parent = some t then { s.thread k with parent := none } else s.thread k := by
  obtain ⟨wf, reads⟩ := thread_clearParents (s.cores.threads.filter fun e => e.2.parent == some t) form
  refine ⟨wf, fun k => (reads k).trans ?_⟩
  have threads : swf Thread.cleared s.cores.threads = true := ((Cores.wf_iff _).1 form).1
  have listed : k ∈ (s.cores.threads.filter fun e => e.2.parent == some t).map (·.1) ↔ (s.thread k).parent = some t := by
    rw [List.mem_map]
    constructor
    · rintro ⟨⟨j, v⟩, mem, rfl⟩
      obtain ⟨mem, child⟩ := List.mem_filter.1 mem
      rw [State.thread, sget_of_mem threads mem]
      exact beq_iff_eq.1 child
    · intro child
      have here : s.thread k ≠ Thread.cleared := fun h => by rw [h] at child; cases child
      exact ⟨(k, s.thread k), List.mem_filter.2 ⟨mem_of_sget here, beq_iff_eq.2 child⟩, rfl⟩
  simp only [listed]

/-- R197, R251: a thread that holds no work. -/
def Thread.rested (th : Thread) : Thread :=
  { th with state := .idle, wait := .none, parent := none, children := 0, item := none, outstanding := none,
            irqCheck := none, irqDebug := none, irqCxLate := none, haltReq := false, stepArmed := false }

theorem thread_becomeIdle {s : State} (form : Cores.wf s.cores = true) (t k : Nat) :
    (becomeIdle s t).thread k = if k = t then (s.thread t).rested else s.thread k := State.thread_setThread form ..

section ends
variable {s : State} {t : Nat} (item : (s.thread t).item = none) (late : (s.thread t).irqCxLate = none)

/-- R260: the thread itself at its end, with no work item to complete. -/
def State.ended (s : State) (t : Nat) : State := becomeIdle (orphanChildren s t) t

theorem thread_ended (form : Cores.wf s.cores = true) (k : Nat) : (s.ended t).thread k =
    if k = t then (if (s.thread t).parent = some t then { s.thread t with parent := none } else s.thread t).rested
    else if (s.thread k).parent = some t then { s.thread k with parent := none } else s.thread k := by
  obtain ⟨wf, reads⟩ := thread_orphanChildren form t
  rw [State.ended, thread_becomeIdle wf, reads, reads]

include item late

theorem end_noItem : endItem (loseCxLate s t) t = s := by
  have none : loseCxLate s t = s := by simp [loseCxLate, late]
  simp [none, endItem, item]

/-- R259: a thread without a parent ends alone. -/
theorem completeEnd_alone (parent : (s.thread t).parent = none) : completeEnd s t = s.ended t := by
  simp [completeEnd, endThread, parent, end_noItem item late, State.ended]

/-- R259: the end of a child whose parent goes on working. -/
theorem completeEnd_child (form : Cores.wf s.cores = true) {p : Nat} (parent : (s.thread t).parent = some p) (other : p ≠ t)
    (run : (s.thread p).state = .run) (own : (s.thread p).parent ≠ some t) :
    completeEnd s t = (s.ended t).setThread p { s.thread p with children := (s.thread p).children - 1 } := by
  have before : (s.ended t).thread p = s.thread p := by rw [thread_ended form, if_neg other, if_neg own]
  have after : ((s.ended t).setThread p { s.thread p with children := (s.thread p).children - 1 }).thread p =
      { s.thread p with children := (s.thread p).children - 1 } :=
    thread_setThread_self (by exact (show (s.thread p).state ≠ .idle by simp [run])) _ _
  have works : ¬((s.thread p).children - 1 = 0 ∧ (s.thread p).state = .wait) := by simp [run]
  simp only [completeEnd, endThread, parent, end_noItem item late]
  rw [← State.ended, State.modThread, before, after]
  exact if_neg works

end ends

end Sys2Proof.Machine

open Sys2Proof Sys2Proof.Machine Host

theorem statusWordsArrive : Claim.StatusWordsArrive := by
  intro s t rd w upd ecc th form run step halt out
  have row : exec (.loadDataReturn t ecc) s = .next (finishReturn s t fun th => (th.setD rd w).update upd) := by
    change execLoadDataReturn t ecc s = _
    rw [execLoadDataReturn, out]
    rfl
  obtain ⟨state, armed, req⟩ := update_state (th.setD rd w) upd
  refine leaves_finishReturn form row ?_ (state.trans ((Thread.setD_state ..).trans run)) (armed.trans ((Thread.setD_stepArmed ..).trans step))
    (req.trans ((setD_haltReq ..).trans halt))
  rw [setD_outstanding, update_outstanding]

theorem forkStartsAChild : Claim.ForkStartsAChild := by
  intro s t f ready rs1 rs2 aux th idle inCore
  have check : (isA f.rs1 && f.rs2 != 15 && f.aux == 0) = true := by
    rw [Bool.and_eq_true, Bool.and_eq_true, bne_iff_ne, beq_iff_eq]
    exact ⟨⟨decide_eq_true rs1, rs2⟩, aux⟩
  have row (body : Result) (h : (match s.poolThread t with
      | none => answer (thrCount s t 0x3010) t f.rd (statusWord 3 0)
      | some k => answer ((s.setThread k (childState t th f k)).modThread t fun x => { x with children := x.children + 1 }) t f.rd
          (statusWord 0 (k % 1024))) = body) : exec (.fork t f) s = .next (settle s t th.pc body) := by
    rw [← h]
    exact workRow_ready (legal := fun f => isA f.rs1 && f.rs2 != 15 && f.aux == 0) ready check 0x00 _
  refine ⟨fun none => ?_, fun k core free lowest => ?_⟩
  · have row := row _ (by rw [poolThread_none none])
    exact row.trans (congrArg _ (settle_stay ready _ _))
  · have row := row _ (by rw [poolThread_some core free lowest])
    have other : k ≠ t.val := by
      rintro rfl
      exact absurd (free.1.symm.trans ready.run) (by decide)
    have run : th.state ≠ .idle := by simp [th, ready.run]
    let child := childState t th f k
    let s1 := s.setThread k child
    let s2 := s1.setThread t { s1.thread t with children := (s1.thread t).children + 1 }
    have atParent1 : s1.thread t = th := thread_setThread_ne other.symm _ _
    have atParent2 : s2.thread t = { th with children := th.children + 1 } := by
      rw [← atParent1]
      exact thread_setThread_self (by rw [← atParent1] at run; exact run) _ _
    have running : child.state ≠ .idle := show ThreadState.run ≠ .idle by decide
    have atChild : (s2.awaiting t f.rd (statusWord 0 (k % 1024))).thread k = child :=
      (thread_setThread_ne other _ _).trans ((thread_setThread_ne other _ _).trans (thread_setThread_self running _ _))
    obtain ⟨level, ie⟩ := childState_tsr t th f k
    refine ⟨s2.awaiting t f.rd (statusWord 0 (k % 1024)), row.trans (congrArg _ (settle_stay ready _ _)), ?_, ?_, fun j hk ht => ?_, rfl⟩
    · rw [atChild]
      refine ⟨rfl, rfl, level, ie, ?_, ?_, ?_, ?_, rfl, rfl, fun r hr => ?_, rfl, rfl, rfl, rfl⟩
      · rw [childState_dreg, if_neg (by decide), if_pos rfl]
      · rw [childState_dreg, if_pos rfl]
      · rw [childState_areg, if_neg (by decide), if_pos rfl]
      · rw [childState_areg, if_pos rfl]
      · have not2 : r ≠ 2 := by rintro rfl; exact absurd hr (by decide)
        have not1 : r ≠ 1 := by rintro rfl; exact absurd hr (by decide)
        rw [childState_dreg, if_neg not2, if_neg not1]
    · have small : k % 1024 % 65536 = k % 1024 := by omega
      have word : statusWord 0 (k % 1024) = BitVec.ofNat 32 (k % 1024 * 65536) := by rw [statusWord, small, Nat.zero_add]
      rw [State.awaiting, thread_setThread_self (by rw [atParent2]; exact run), atParent2, word]
    · exact (thread_setThread_ne ht _ _).trans ((thread_setThread_ne ht _ _).trans (thread_setThread_ne hk _ _))

theorem joinEndYield : Claim.JoinEndYield := by
  intro s t f ready rs1 rs2 aux th
  have onlyRd : legalRd f = true := by simp [legalRd, rs1, rs2, aux]
  have join : exec (.join t f) s = .next (settle s t th.pc
      (if th.children = 0 then answer s t f.rd (statusWord 0 0) else waitOrTimeout s t f.rd (.join f.rd))) :=
    workRow_ready ready onlyRd 0x01 _
  refine ⟨fun alone => ?_, fun family late => ?_, fun family waits => ?_, fun rd => ?_⟩
  · rw [if_pos alone] at join
    exact join.trans (congrArg _ (settle_stay ready _ _))
  · rw [if_neg family, waitOrTimeout, if_pos (compareReached_iff.2 late)] at join
    exact join.trans (congrArg _ (settle_stay ready _ _))
  · rw [if_neg family, waitOrTimeout_waits waits] at join
    exact join.trans (congrArg _ (settle_stay ready _ _))
  · have noField : legalNone f = true := by simp [legalNone, rd, rs1, rs2, aux]
    have yieldRow := workRow_ready ready noField 0x0A fun _ => .ok s
    have endRow : exec (.endOp t f) s = .next (settle s t th.pc (if th.children = 0 then .gone (completeEnd s t)
        else if th.compareReached s.now then .gone (completeEnd (thrCount s t 0x300C) t) else startWait s t .endjoin)) :=
      workRow_ready ready noField 0x02 _
    have ends (childless : th.children = 0) : exec (.endOp t f) s = .next (completeEnd s t) := by
      rw [if_pos childless] at endRow
      exact endRow
    refine ⟨?_, fun family waits => ?_, fun family late => ?_, ends, fun childless item late parent => ?_,
      fun p childless item late parent other run own => ?_⟩
    · have run : { th with pc := th.pc + 4, jumpFrom := none }.state = .run := ready.run
      exact ⟨_, yieldRow.trans (congrArg _ (settle_ok ready.run ready.noStep _)), thread_setThread_self (by rw [run]; simp) s t,
        OnlyThread.setThread ready.form run⟩
    · rw [if_neg family, if_neg (mt compareReached_iff.1 waits)] at endRow
      exact endRow.trans (congrArg _ (settle_stay ready _ _))
    · rw [if_neg family, if_pos (compareReached_iff.2 late)] at endRow
      exact endRow
    · refine ⟨s.ended t, (ends childless).trans (congrArg _ (completeEnd_alone item late parent)), ?_, ?_, ?_, fun k other => ?_⟩
      · rw [thread_ended ready.form, if_pos rfl]
        rfl
      · rw [thread_ended ready.form, if_pos rfl]
        rfl
      · rw [thread_ended ready.form, if_pos rfl]
        rfl
      · rw [thread_ended ready.form, if_neg other]
    · have before : (s.ended t).thread p = s.thread p := by rw [thread_ended ready.form, if_neg other, if_neg own]
      have atChild (v : Thread) : ((s.ended t).setThread p v).thread t = (s.ended t).thread t := thread_setThread_ne other.symm _ _
      refine ⟨_, (ends childless).trans (congrArg _ (completeEnd_child item late ready.form parent other run own)), ?_, ?_, ?_⟩
      · rw [atChild, thread_ended ready.form, if_pos rfl]
        rfl
      · rw [atChild, thread_ended ready.form, if_pos rfl]
        rfl
      · exact thread_setThread_self (by exact (show (s.thread p).state ≠ .idle by simp [run])) _ _

/-- Settles O23: FORK by the pool thread it finds, JOIN and END by the children left, the end of a thread by its family. -/
theorem threadsForkJoinAndEnd : Obligations.ThreadsForkJoinAndEnd := ⟨statusWordsArrive, forkStartsAChild, joinEndYield⟩

end

section
/-! SUPPORT. The detector and the interrupts of a thread (R246, R247, R282–R284): the wait that the detector finds, and the interrupt of
highest priority. -/

namespace Sys2Proof.Machine

open Host

theorem evAt_zero (v : Nat) : evAt 0 v = BitVec.ofNat 128 v := congrArg _ (Nat.mul_one v)

/-! ### The wait that the detector ends (R257, R282) -/

theorem closedWait_state {s : State} {v : Nat} (h : s.closedWait v = true) : (s.thread v).state = .wait := by
  rw [State.closedWait, Bool.and_eq_true, Bool.and_eq_true] at h
  exact beq_iff_eq.1 h.1.1

/-- R257: the waits that the detector ends with the status word DEADLOCK. -/
theorem endEarly_deadlock {s : State} {v : Nat} (waits : (s.thread v).state = .wait) {rd : BitVec 4} (wait : (s.thread v).wait = .join rd ∨
    (∃ m, (s.thread v).wait = .waite rd m) ∨ ∃ n, (s.thread v).wait = .send rd n) : endEarly s v 2 = s.resumed v rd 2 := by
  have answers : endEarly s v 2 = endWait s v rd (statusWord 2 0) := by
    rcases wait with h | ⟨m, h⟩ | ⟨n, h⟩ <;> rw [endEarly, h]
  exact answers.trans (endWait_waiting waits rd 2)

/-! ### Which interrupt is taken (R246, R247, R249) -/

section priority
variable {th : Thread} {now : Time} {a : Addr}

theorem interrupt_check (check : th.irqCheck = some a) : th.interrupt now = some (0x10, a) := by
  simp only [Thread.interrupt, check]
  rfl

variable (check : th.irqCheck = none)
include check

theorem interrupt_debug (debug : th.irqDebug = some a) : th.interrupt now = some (0x11, a) := by
  simp only [Thread.interrupt, check, debug]
  rfl

variable (debug : th.irqDebug = none)
include debug

theorem interrupt_masked (masked : ¬(bitAt th.tsr 29 = true ∧ bitAt th.tsr 28 = false)) : th.interrupt now = none := by
  have shut : (bitAt th.tsr tsrIe && !bitAt th.tsr tsrExlS) = false := by simpa [tsrIe, tsrExlS] using masked
  simp only [Thread.interrupt, check, debug, shut]
  rfl

variable (taken : bitAt th.tsr 29 = true ∧ bitAt th.tsr 28 = false)
include taken

theorem interrupt_late (late : th.irqCxLate = some a) : th.interrupt now = some (0x13, a) := by
  simp only [Thread.interrupt, check, debug, late, tsrIe, tsrExlS, taken]
  rfl

theorem interrupt_line (late : th.irqCxLate = none) (event : th.evpend &&& th.evirq.setWidth 16 ≠ 0) :
    th.interrupt now = some (0x14, 0) := by
  have line : th.irqLine now = true := by
    rw [Thread.irqLine, bne_iff_ne.2 event, Bool.true_or]
  simp only [Thread.interrupt, check, debug, late, tsrIe, tsrExlS, taken, line]
  rfl

end priority

/-! ### An interrupt is taken (R247) -/

section interrupts
variable {s : State} {t : ThreadId} (out : (s.thread t).outstanding = none)
include out

theorem exec_interruptTake (works : (s.thread t).state = .run ∨ (s.thread t).state = .wait) {code : Nat} {info : Addr}
    (h : (s.thread t).interrupt s.now = some (code, info)) :
    exec (.interruptTake t) s = .next (takeException ((withdrawWait s t).modThread t fun x => x.takeIrq code) t code
      (((withdrawWait s t).modThread t fun x => x.takeIrq code).thread t).pc info) := by
  have free : (s.thread t).outstanding.isNone = true := by rw [out]; rfl
  change execInterruptTake t s = _
  rw [execInterruptTake, if_pos ⟨works, free⟩, h]

omit out in
theorem exec_interruptTake_none (h : (s.thread t).interrupt s.now = none) : exec (.interruptTake t) s = .next s := by
  change execInterruptTake t s = _
  rw [execInterruptTake, h, ite_self]

/-- R247: a thread that runs takes its interrupt at its PC. -/
theorem exec_interruptTake_run (run : (s.thread t).state = .run) {code : Nat} {info : Addr}
    (h : (s.thread t).interrupt s.now = some (code, info)) : exec (.interruptTake t) s =
      .next (takeException (s.setThread t ((s.thread t).takeIrq code)) t code (s.thread t).pc info) := by
  have taken : ((s.thread t).takeIrq code).state = .run ∧ ((s.thread t).takeIrq code).pc = (s.thread t).pc := by
    unfold Thread.takeIrq
    split_ifs <;> exact ⟨run, rfl⟩
  have stays : withdrawWait s t = s := if_pos (by simp [run])
  have here : (s.setThread t ((s.thread t).takeIrq code)).thread t = (s.thread t).takeIrq code :=
    thread_setThread_self (by simp [taken.1]) s t
  have row := exec_interruptTake out (.inl run) h
  rw [stays, State.modThread, here, taken.2] at row
  exact row

end interrupts

end Sys2Proof.Machine

open Sys2Proof Sys2Proof.Machine Host

theorem deadlockEndsOneWait : Claim.DeadlockEndsOneWait := by
  intro s c v form found holds long cl marked
  have same : marked.thread v = s.thread v := rfl
  have waits : (marked.thread v).state = .wait := same ▸ closedWait_state (List.find?_some found)
  refine ⟨?_, fun rd join => endEarly_deadlock waits (.inl join), fun rd m waite => endEarly_deadlock waits (.inr (.inl ⟨m, waite⟩)),
    fun rd n send => endEarly_deadlock waits (.inr (.inr ⟨n, send⟩))⟩
  change execClusterDeadlock c s = _
  rw [execClusterDeadlock, found]
  refine (if_pos ⟨holds, long⟩).trans ?_
  rw [evAt_zero]
  rfl

theorem interruptsByPriority : Claim.InterruptsByPriority := by
  intro s t target form th open' take
  refine ⟨fun idle => if_pos idle, fun works => if_neg works, fun run out => ⟨fun a check => ?_, fun a check debug => ?_,
    fun a check debug ie late => ?_, fun check debug late ie event => ?_, fun check debug masked => ?_⟩, fun rd a state out wait check => ?_,
    fun still => ?_⟩
  · exact exec_interruptTake_run out run (interrupt_check check)
  · exact exec_interruptTake_run out run (interrupt_debug check debug)
  · exact exec_interruptTake_run out run (interrupt_late check debug ie late)
  · exact exec_interruptTake_run out run (interrupt_line check debug ie late event)
  · exact exec_interruptTake_none (interrupt_masked check debug masked)
  · have row := exec_interruptTake out (.inr state) (interrupt_check check)
    have awake : withdrawWait s t = s.setThread t { th with state := .run, wait := .none } := by
      rw [withdrawWait, if_neg (not_not_intro state), show (s.thread t).wait = .join rd from wait]
      rfl
    have here : (s.setThread t { th with state := .run, wait := .none }).thread t = { th with state := .run, wait := .none } :=
      thread_setThread_self (by exact (show ThreadState.run ≠ .idle by decide)) s t
    have taken (v : State) : (v.setThread t { th with state := .run, wait := .none, irqCheck := none }).thread t =
        { th with state := .run, wait := .none, irqCheck := none } :=
      thread_setThread_self (by exact (show ThreadState.run ≠ .idle by decide)) v t
    rw [awake, State.modThread, here] at row
    exact row.trans (congrArg (fun x : Thread => Outcome.next (takeException _ t 0x10 x.pc a)) (taken _))
  · have rests : ¬(th.state = .run ∨ th.state = .wait) := by
      rcases still with halt | idle
      · simp [halt]
      · simp [idle]
    exact if_neg fun both => rests both.1

/-- Settles O27: the detector by the wait it finds, the interrupts one priority at a time. -/
theorem deadlockAndInterrupts : Obligations.DeadlockAndInterrupts := ⟨deadlockEndsOneWait, interruptsByPriority⟩

end

section
/-! SUPPORT. The portal of Trays (R330–R333, R338, R339): the answer to an allocation load, the level that every access needs, and the end
of a wait. -/

namespace Sys2Proof.Machine

open Host

/-! ### The answer to an allocation load (R330, R332, R333, R338) -/

theorem askOffset_size (u : Nat) (blocking : Bool) :
    askOffset (.size (64 * (u + 1))) blocking = (if blocking then 0x10000 else 0x11000) + 4 * u := by
  rw [askOffset, Nat.mul_div_cancel_left _ (by decide), Nat.add_sub_cancel]

section answers
variable {s : State} {r : Nat} {ask : AllocReq} {blocking : Bool} {off : Nat} (fresh : sfind s.trays.unclaimed r = none)
include fresh

/-- R339: with no unclaimed grant standing, the request is a fresh one. -/
theorem allocLoad_fresh : allocLoad s r ask blocking off = allocLoad.allocFresh r ask blocking off s := by
  rw [allocLoad, fresh]

theorem allocLoad_frozen (frozen : s.dev = .frozen) : allocLoad s r ask blocking off = (s, .value 0xFFFFFFFA) := by
  rw [allocLoad_fresh fresh, allocLoad.allocFresh, if_pos frozen]

variable (live : s.dev ≠ .frozen)
include live

theorem allocLoad_noFit (cs : s.candidates ask = []) : allocLoad s r ask blocking off = (s, .value 0xFFFFFFFD) := by
  rw [allocLoad_fresh fresh, allocLoad.allocFresh, if_neg live]
  exact if_pos (by rw [cs]; rfl)

/-- R333: the first candidate that fits gives a buffer to the requester. -/
theorem allocLoad_served {q h : Nat} {v : State} (fit : s.firstFit r (s.candidates ask) = some q) (taken : s.takeBuffer q = some (h, v)) :
    allocLoad s r ask blocking off = ((v.setBuf h (.alloc [r] [])).count (tryBase + 0x900), .value (BitVec.ofNat 32 h)) := by
  have asks : (s.candidates ask).isEmpty = false := by
    rw [List.isEmpty_eq_false_iff]
    intro empty
    rw [empty] at fit
    cases fit
  have served : s.allocFrom q r = some ((h, (v.setBuf h (.alloc [r] [])).count (tryBase + 0x900))) := by rw [State.allocFrom, taken]
  rw [allocLoad_fresh fresh, allocLoad.allocFresh, if_neg live]
  dsimp only
  rw [asks, fit, Option.bind_some, served]
  rfl

variable (cs : s.candidates ask ≠ []) (fit : s.firstFit r (s.candidates ask) = none)
include cs fit

theorem allocLoad_refused (h : blocking = false) : allocLoad s r ask blocking off =
    (s, .value (if (s.candidates ask).any fun q => s.aboveReserve (quotaGroup r) q (s.freeCount q) then 0xFFFFFFFE else 0xFFFFFFFF)) := by
  have asks : (s.candidates ask).isEmpty = false := List.isEmpty_eq_false_iff.2 cs
  rw [allocLoad_fresh fresh, allocLoad.allocFresh, if_neg live]
  dsimp only
  rw [asks, fit, h]
  exact (apply_ite (fun w => (s, AllocAnswer.value w)) _ _ _).symm

theorem allocLoad_waits (h : blocking = true) : allocLoad s r ask blocking off =
    ((s.setTrays { s.trays with waiters := s.trays.waiters ++
      [{ req := r, ask := ask, offset := off, since := s.now, reported := false, wd := .none }] }).count (tryBase + 0x908), .wait) := by
  have asks : (s.candidates ask).isEmpty = false := List.isEmpty_eq_false_iff.2 cs
  rw [allocLoad_fresh fresh, allocLoad.allocFresh, if_neg live]
  dsimp only
  rw [asks, fit, h]
  rfl

end answers

/-! ### A portal access of a ready thread (R209, R331) -/

section access
variable {s : State} {t : ThreadId} {i : Instr} {off : Nat} {body : Result} (ready : s.ready t) (row : exec i s = portalRow t off body s)
include ready row

theorem portal_permitted (level : 1 ≤ (s.thread t).level) : exec i s = .next (settle s t (s.thread t).pc body) := by
  rw [row, portalRow, issue_ready ready, if_neg (by omega)]

/-- R331: below Supervisor every access raises ACCESS with its address. -/
theorem portal_denied (level : (s.thread t).level = 0) : Raises i s t 0x07 (portalAddr off) := by
  rw [Raises, row, portalRow, issue_ready ready, if_pos level, settle_raise ready, codeAccess]

end access

section loads
variable {s : State} {t : ThreadId} {i : Instr} {ask : AllocReq} {blocking : Bool} {rt : BitVec 4} (ready : s.ready t)
  (load : exec i s = .next (settle s t (s.thread t).pc (portalAlloc s t ask blocking rt none))) {v : State}
include ready load

theorem load_arrives {w : Word} (answer : allocLoad s t ask blocking (askOffset ask blocking) = (v, .value w)) :
    exec i s = .next (v.awaiting t rt w) := by
  rw [load, portalAlloc, answer, settle_stay ready]
  rfl

theorem load_waits (answer : allocLoad s t ask blocking (askOffset ask blocking) = (v, .wait)) :
    exec i s = .next (v.waiting t (.trays rt ask (askOffset ask blocking) none)) := by
  rw [load, portalAlloc, answer, settle_stay ready]
  rfl

end loads

/-! ### The end of an allocation wait (R338) -/

theorem endTrayWait_waiting {s : State} {t : Nat} {rd : BitVec 4} {ask : AllocReq} {off : Nat} {upd : Option BaseUpdate}
    (wait : (s.thread t).wait = .trays rd ask off upd) (state : (s.thread t).state = .wait) (v : Word) :
    endTrayWait s t v = (s.setTrays { s.trays with waiters := s.trays.waiters.filter fun x => x.req != t }).setThread t
      { s.thread t with state := .run, wait := .none, outstanding := some (.status rd v upd) } := by
  have same (m : Trays) : (s.setTrays m).thread t = s.thread t := rfl
  rw [endTrayWait, State.modThread, same, wait]
  simp only [state, if_true]

/-- R338, R339: what a withdrawal that reaches Trays leaves. -/
def withdrawn (s : State) (t : Nat) : Withdrawal → State
  | .none => s
  | .timeout => (endTrayWait s t 0xFFFFFFFC).count (thrBase (clusterOf t) + 0x300C)
  | .deadlock => endTrayWait s t 0xFFFFFFFB
  | .interrupt => s.setTrays { s.trays with waiters := s.trays.waiters.filter fun x => x.req != t }

theorem exec_traysWithdraw {s : State} {t : ThreadId} {w : TryWaiter} (found : (s.trays.waiters.find? fun x => x.req == t.val) = some w)
    {kind : Withdrawal} (h : w.wd = kind) : exec (.traysWithdraw t) s = .next (withdrawn s t kind) := by
  change execTraysWithdraw t s = _
  rw [execTraysWithdraw, found]
  dsimp only
  rw [h]
  cases kind <;> rfl

end Sys2Proof.Machine

open Sys2Proof Sys2Proof.Machine Host

theorem allocationLoads : Claim.AllocationLoads := by
  intro s t u p blocking rt ready level fresh x mem cs fit arrives
  obtain ⟨load, offset⟩ : exec x.1 s = .next (settle s t (s.thread t).pc (portalAlloc s t x.2.1 blocking rt none)) ∧
      askOffset x.2.1 blocking = x.2.2 := by
    rcases List.mem_pair.1 mem with rfl | rfl
    · exact ⟨portal_permitted ready rfl level, askOffset_size ..⟩
    · exact ⟨portal_permitted ready rfl level, rfl⟩
  refine ⟨fun frozen => ?_, fun live empty => ?_, fun q h v live fits taken => ?_,
    fun live asks full once => ⟨fun quota => ?_, fun empty => ?_⟩, fun live asks full waits => ?_⟩
  · exact load_arrives ready load (allocLoad_frozen fresh frozen)
  · exact load_arrives ready load (allocLoad_noFit fresh live empty)
  · exact load_arrives ready load (allocLoad_served fresh live fits taken)
  · have answer := allocLoad_refused (off := askOffset x.2.1 blocking) fresh live asks full once
    rw [if_pos quota] at answer
    exact load_arrives ready load answer
  · have answer := allocLoad_refused (off := askOffset x.2.1 blocking) fresh live asks full once
    rw [if_neg (by rw [empty]; decide)] at answer
    exact load_arrives ready load answer
  · rw [← offset]
    exact load_waits ready load (allocLoad_waits fresh live asks full waits)

theorem portalNeedsSupervisor : Claim.PortalNeedsSupervisor := by
  intro s t u p rt whom h ready level x mem
  have size (blocking : Bool) : Raises (.traysAllocSize t u blocking rt) s t 0x07
      (portalAddr ((if blocking then 0x10000 else 0x11000) + 4 * u.toNat)) := by
    rw [← askOffset_size]
    exact portal_denied ready rfl level
  simp only [List.mem_cons, List.not_mem_nil, or_false] at mem
  rcases mem with rfl | rfl | rfl | rfl | rfl | rfl | rfl
  · exact size true
  · exact size false
  · exact portal_denied ready rfl level
  · exact portal_denied ready rfl level
  · exact portal_denied ready rfl level
  · exact portal_denied ready rfl level
  · exact portal_denied ready rfl level

theorem allocationWaitsEnd : Claim.AllocationWaitsEnd := by
  intro s t w found gone
  have report : exec (.traysWaitReport t) s = if w.reported = true ∨ s.elapsed w.since < s.waitReport then .next s
      else .next ((s.setTrays { s.trays with waiters := s.trays.waiters.map fun x =>
        if x.req = t.val then { x with reported := true } else x }).count (tryBase + 0x90C)) := by
    change execTraysWaitReport t s = _
    rw [execTraysWaitReport, found]
  have withdraw (kind : Withdrawal) (h : w.wd = kind) : exec (.traysWithdraw t) s = .next (withdrawn s t kind) :=
    exec_traysWithdraw found h
  refine ⟨fun early => report.trans (if_pos early), fun first long => report.trans (if_neg ?_), withdraw .none, withdraw .interrupt,
    fun rd ask off upd wait state => ⟨fun kind => ?_, fun kind => ?_⟩⟩
  · simp [first, long]
  · exact (withdraw .timeout kind).trans (by rw [withdrawn, endTrayWait_waiting wait state])
  · exact (withdraw .deadlock kind).trans (by rw [withdrawn, endTrayWait_waiting wait state])

/-- Settles O34: the answer to each allocation load, the level of every portal access, and the end of each wait. -/
theorem buffersAreAllocated : Obligations.BuffersAreAllocated := ⟨allocationLoads, portalNeedsSupervisor, allocationWaitsEnd⟩

end

section
/-! SUPPORT. Waits and events (R256, R262–R265, R287): the status that a wait ends with, whom an event reaches, and the wait that the timer
compare ends. -/

namespace Sys2Proof.Machine

open Host

/-! ### Status words (R257) -/

theorem statusWord_half (st : Nat) {v : Nat} (h : v < 65536) : statusWord st v = BitVec.ofNat 32 (st + v * 65536) := by
  rw [statusWord, Nat.mod_eq_of_lt h]

theorem statusWord_zero (st : Nat) : statusWord st 0 = BitVec.ofNat 32 st := statusWord_half st (by decide)

/-- R264: the status word of a WAITE is its events, in the upper half. -/
theorem statusWord_events (hit : BitVec 16) : statusWord 0 hit.toNat = BitVec.ofNat 32 (hit.toNat * 65536) := by
  rw [statusWord_half 0 hit.isLt, Nat.zero_add]

/-- A ready thread whose instruction stores it and awaits a status word is left awaiting it. -/
theorem leaves_answer {i : Instr} {s : State} {t : ThreadId} {v : Thread} {rd : BitVec 4} {w : Word} (ready : s.ready t)
    (row : exec i s = .next (settle s t (s.thread t).pc (answer (s.setThread t v) t rd w))) (state : v.state = (s.thread t).state) :
    Leaves i s t { v with outstanding := some (.status rd w none) } := by
  have run : v.state = .run := state.trans ready.run
  have stored : (s.setThread t v).thread t = v := thread_setThread_self (by simp [run]) s t
  have answered : answer (s.setThread t v) t rd w =
      .stay ((s.setThread t v).setThread t { v with outstanding := some (.status rd w none) }) := by
    rw [answer, State.modThread, stored]
  rw [answered, settle_stay ready] at row
  exact ⟨_, row, thread_setThread_awaiting rfl _ _,
    (OnlyThread.setThread ready.form run).trans (OnlyThread.setThread (State.setThread_wf ready.form _ _) run)⟩

theorem waitOrTimeout_late {s : State} {t : Nat} (h : s.compared t) (rd : BitVec 4) (w : Wait) :
    waitOrTimeout s t rd w = .stay ((s.count (thrBase (clusterOf t) + 0x300C)).awaiting t rd 1) := if_pos (compareReached_iff.2 h)

/-! ### Posted events (R263, R264) -/

theorem posterAccepted_iff (p : PostMsg) : posterAccepted p.poster p.target p.event = true ↔
    if p.event < 8 then clusterOf p.poster = clusterOf p.target else p.event < 12 ∨ 1024 ≤ p.poster := by
  unfold posterAccepted
  split
  · exact beq_iff_eq
  · split <;> simp [*]

/-- R263: event `e` is set in EVPEND. -/
def Thread.withEvent (th : Thread) (e : Nat) : Thread := { th with evpend := th.evpend ||| BitVec.ofNat 16 (2 ^ e) }

/-- R264: what the pending events of thread `t` do to the WAITE that it may be in. -/
def eventsEndWait (s : State) (t : Nat) : Outcome State Fault Refusal :=
  match (s.thread t).wait with
  | .waite rd m =>
    if (s.thread t).state = .wait ∧ (s.thread t).evpend &&& m ≠ 0 then
      .next (endWait (consumeEvents s t m) t rd (statusWord 0 ((s.thread t).evpend &&& m).toNat))
    else .next s
  | _ => .next s

theorem eventsEndWait_none {s : State} {t : Nat} (h : (s.thread t).wait = .none) : eventsEndWait s t = .next s := by
  rw [eventsEndWait, h]

/-- R264: an event of its mask ends a WAITE, and is consumed. -/
theorem eventsEndWait_waite {s : State} {t : Nat} {rd : BitVec 4} {m : BitVec 16} (waits : (s.thread t).state = .wait)
    (h : (s.thread t).wait = .waite rd m) (hit : (s.thread t).evpend &&& m ≠ 0) : ∃ u, eventsEndWait s t = .next u ∧
      u.thread t = { s.thread t with
        state := .run, wait := .none, evpend := (s.thread t).evpend &&& ~~~m
        outstanding := some (.status rd (statusWord 0 ((s.thread t).evpend &&& m).toNat) none) } := by
  have consumed : (consumeEvents s t m).thread t = { s.thread t with evpend := (s.thread t).evpend &&& ~~~m } :=
    thread_setThread_self (by exact (show (s.thread t).state ≠ .idle by simp [waits])) _ _
  rw [eventsEndWait, h]
  refine ⟨_, if_pos ⟨waits, hit⟩, ?_⟩
  rw [endWait_waiting (by rw [consumed]; exact waits), State.resumed, thread_setThread_awaiting rfl, consumed]

section arrive
variable {s : State} {p : PostMsg} {rest : List PostMsg} (first : s.cores.posts = p :: rest)

/-- R263: the state in which the oldest event is no longer on its way. -/
def State.postTaken (s : State) (rest : List PostMsg) : State := { s with cores := { s.cores with posts := rest } }

include first

theorem exec_postArrive_noThread (h : 1031 < p.target) :
    exec .postArrive s = .next ((s.postTaken rest).count (thrBase (clusterOf p.poster) + 0x3014)) := by
  change execPostArrive s = _
  rw [execPostArrive, first]
  exact if_pos h

variable (h : p.target ≤ 1031)
include h

theorem exec_postArrive_lost (lost : posterAccepted p.poster p.target p.event = false ∨ (s.thread p.target).state = .idle) :
    exec .postArrive s = .next ((s.postTaken rest).count (thrBase (clusterOf p.target) + 0x3014)) := by
  change execPostArrive s = _
  rw [execPostArrive, first]
  refine (if_neg (Nat.not_lt.2 h)).trans (if_pos ?_)
  rw [Bool.not_eq_true']
  exact lost

variable (accepted : posterAccepted p.poster p.target p.event = true)
include accepted

/-- R263: an event that its target accepts is set in EVPEND. -/
theorem exec_postArrive_set (work : (s.thread p.target).state ≠ .idle) : exec .postArrive s =
    eventsEndWait ((s.postTaken rest).setThread p.target (s.thread p.target |>.withEvent p.event)) p.target := by
  change execPostArrive s = _
  rw [execPostArrive, first]
  refine (if_neg (Nat.not_lt.2 h)).trans ((if_neg ?_).trans rfl)
  rw [accepted, Bool.not_true]
  exact not_or.2 ⟨Bool.false_ne_true, work⟩

end arrive

/-- An event that a mask names is among the events of the mask. -/
theorem events_hit {e : Nat} (small : e < 16) {m : BitVec 16} (named : m.getLsbD e = true) (pend : BitVec 16) :
    (pend ||| BitVec.ofNat 16 (2 ^ e)) &&& m ≠ 0 := by
  intro none
  have bit : ((pend ||| BitVec.ofNat 16 (2 ^ e)) &&& m).getLsbD e = false := by rw [none]; exact BitVec.getLsbD_zero
  rw [BitVec.getLsbD_and, BitVec.getLsbD_or, BitVec.getLsbD_ofNat, named, Nat.testBit_two_pow_self, decide_eq_true small] at bit
  simp at bit

theorem events_consumed (pend m : BitVec 16) : pend &&& ~~~m &&& m = 0 := by
  rw [BitVec.and_assoc, BitVec.and_comm (~~~m), BitVec.and_not_self]
  exact BitVec.and_zero

/-! ### Waits that end early (R257, R262) -/

/-- R257: the register that a wait's status word goes to, for a wait that ends without leaving a queue. -/
def Wait.statusRd : Wait → Option (BitVec 4)
  | .join rd | .waite rd _ | .send rd _ | .submit rd _ | .pktout rd _ _ => some rd
  | _ => Option.none

theorem endEarly_status {s : State} {t : Nat} {rd : BitVec 4} (waits : (s.thread t).state = .wait)
    (h : (s.thread t).wait.statusRd = some rd) (status : Nat) :
    endEarly s t status = s.resumed t rd (BitVec.ofNat 32 status) := by
  rw [← endWait_waiting waits]
  cases wait : (s.thread t).wait with
  | join _ | waite _ _ | send _ _ | pktout _ _ _ =>
    rw [wait] at h
    cases h
    rw [endEarly, wait, statusWord_zero]
  | submit _ _ =>
    rw [wait] at h
    cases h
    rw [endEarly, wait]
  | _ => rw [wait] at h; cases h

theorem endEarly_waitt {s : State} {t : Nat} {rd : BitVec 4} (waits : (s.thread t).state = .wait) (h : (s.thread t).wait = .waitt rd)
    (status : Nat) : endEarly s t status = s.resumed t rd 0 := by
  rw [endEarly, h]
  exact endWait_waiting waits rd 0

theorem endEarly_recv {s : State} {t : Nat} {rd : BitVec 4} {n : Nat} {dest : Addr} (waits : (s.thread t).state = .wait)
    (h : (s.thread t).wait = .recv rd n dest) (status : Nat) :
    endEarly s t status = (leaveChan s (clusterOf t) n t).resumed t rd (BitVec.ofNat 32 status) := by
  rw [endEarly, h, ← statusWord_zero]
  exact endWait_waiting (s := leaveChan s (clusterOf t) n t) waits rd _

theorem endEarly_endjoin {s : State} {t : Nat} (h : (s.thread t).wait = .endjoin) (status : Nat) :
    endEarly s t status = completeEnd s t := by
  rw [endEarly, h]

theorem statusRd_timesOut {w : Wait} {rd : BitVec 4} (h : w.statusRd = some rd) : w.timesOut = true := by
  cases w with
  | join _ | waite _ _ | send _ _ | submit _ _ | pktout _ _ _ => rfl
  | _ => cases h

section compare
variable {s : State} {t : ThreadId}

theorem exec_timerCompare_stays (h : ¬((s.thread t).state = .wait ∧ s.compared t)) : exec (.timerCompareReached t) s = .next s :=
  if_neg (by rwa [compareReached_iff])

variable (waits : (s.thread t).state = .wait) (late : s.compared t)
include waits late

/-- R262, R287: the compare ends the wait, and counts it where the wait times out at the thread. -/
theorem exec_timerCompare : exec (.timerCompareReached t) s =
    .next (endEarly (if (s.thread t).wait.timesOut then s.count (thrBase (clusterOf t) + 0x300C) else s) t 1) :=
  if_pos ⟨waits, compareReached_iff.2 late⟩

theorem exec_timerCompare_counted (counts : (s.thread t).wait.timesOut = true) : exec (.timerCompareReached t) s =
    .next (endEarly (s.count (thrBase (clusterOf t) + 0x300C)) t 1) := by
  rw [exec_timerCompare waits late, if_pos counts]

theorem exec_timerCompare_uncounted (counts : (s.thread t).wait.timesOut = false) : exec (.timerCompareReached t) s =
    .next (endEarly s t 1) := by
  rw [exec_timerCompare waits late, counts]
  rfl

theorem exec_timerCompare_status {rd : BitVec 4} (h : (s.thread t).wait.statusRd = some rd) : exec (.timerCompareReached t) s =
    .next ((s.count (thrBase (clusterOf t) + 0x300C)).resumed t rd 1) :=
  (exec_timerCompare_counted waits late (statusRd_timesOut h)).trans (congrArg _ (endEarly_status (s := s.count _) waits h 1))

end compare

/-! ### Channels of a state (R267) -/

theorem State.chan_setChan {s : State} (form : Cores.wf s.cores = true) (c n m : Nat) (v : Channel) :
    (s.setChan c n v).chan c m = if m = n then v else s.chan c m := by
  have key : 32 * c + m = 32 * c + n ↔ m = n := by omega
  exact (sget_sput ((Cores.wf_iff _).1 form).2.1 _ _ _).trans (if_congr key rfl rfl)

theorem State.chan_setChan_self {s : State} (form : Cores.wf s.cores = true) (c n : Nat) (v : Channel) : (s.setChan c n v).chan c n = v :=
  (State.chan_setChan form c n n v).trans (if_pos rfl)

theorem chan_leaveChan {s : State} (form : Cores.wf s.cores = true) (c n t : Nat) : (leaveChan s c n t).chan c n = { s.chan c n with
    claimers := (s.chan c n).claimers.filter (· != t), receivers := (s.chan c n).receivers.filter (· != t) } :=
  State.chan_setChan_self form c n _

end Sys2Proof.Machine

open Sys2Proof Sys2Proof.Machine Host

theorem timerAndEventWaits : Claim.TimerAndEventWaits := by
  intro s t f ready rs2 aux th m hit
  have fields : (f.rs2 == 0 && f.aux == 0) = true := by rw [rs2, aux]; rfl
  have waite : exec (.waite t f) s = .next (settle s t th.pc
      (if m = 0 ∨ hit ≠ 0 then answer (consumeEvents s t m) t f.rd (statusWord 0 hit.toNat) else waitOrTimeout s t f.rd (.waite f.rd m))) :=
    workRow_ready (legal := fun f => f.rs2 == 0 && f.aux == 0) ready fields 0x04 _
  refine ⟨fun rs1 => ?_, fun done => ?_, fun named none late => ?_, fun named none waits => ?_⟩
  · have waitt : exec (.waitt t f) s = .next (settle s t th.pc (if !th.arm then answer s t f.rd (statusWord 6 0)
        else if th.compareReached s.now then answer s t f.rd (statusWord 0 0) else startWait s t (.waitt f.rd))) :=
      workRow_ready ready ((legalRd_iff f).2 ⟨rs1, rs2, aux⟩) 0x03 _
    refine ⟨fun off => ?_, fun late => ?_, fun on waits => ?_⟩
    · rw [if_pos (by rw [off]; rfl)] at waitt
      exact waitt.trans (congrArg _ (settle_stay ready _ _))
    · have on : ¬(!th.arm) = true := by rw [show th.arm = true from late.1]; decide
      rw [if_neg on, if_pos (compareReached_iff.2 late)] at waitt
      exact waitt.trans (congrArg _ (settle_stay ready _ _))
    · rw [if_neg (by rw [on]; decide), if_neg (mt compareReached_iff.1 waits)] at waitt
      exact waitt.trans (congrArg _ (settle_stay ready _ _))
  · rw [if_pos done, statusWord_events] at waite
    exact leaves_answer (v := { th with evpend := th.evpend &&& ~~~m }) ready waite rfl
  · rw [if_neg (not_or.2 ⟨named, not_not.2 none⟩), waitOrTimeout_late late] at waite
    exact waite.trans (congrArg _ (settle_stay ready _ _))
  · rw [if_neg (not_or.2 ⟨named, not_not.2 none⟩), waitOrTimeout_waits waits] at waite
    exact waite.trans (congrArg _ (settle_stay ready _ _))

theorem postedEvents : Claim.PostedEvents := by
  intro s t f form
  refine ⟨fun ready rd rs2 aux => ?_, fun p rest first => ?_⟩
  · have fields : (f.rd == 0 && f.rs2 == 0 && auxWithin f.aux 0xF) = true := by
      simp only [Bool.and_eq_true, beq_iff_eq, auxWithin_0x0F]
      exact ⟨⟨rd, rs2⟩, aux⟩
    let v : State := { s with cores := { s.cores with posts := s.cores.posts ++
      [{ poster := t, target := ((s.thread t).dreg f.rs1).toNat % 4096, event := f.aux.toNat }] } }
    have run : (v.thread t).state = .run := ready.run
    have row : exec (.post t f) s = .next (settle s t (s.thread t).pc (.ok v)) :=
      workRow_ready (legal := fun f => f.rd == 0 && f.rs2 == 0 && auxWithin f.aux 0xF) ready fields 0x05 _
    rw [settle_ok run ready.noStep] at row
    exact ⟨_, row, thread_setThread_self (by exact (show (v.thread t).state ≠ .idle by simp [run])) _ _, rfl,
      OnlyThread.setThread (s := v) form run⟩
  · intro taken th accepted
    have stored (work : th.state ≠ .idle) : (taken.setThread p.target (th.withEvent p.event)).thread p.target = th.withEvent p.event :=
      thread_setThread_self (by exact work) _ _
    refine ⟨exec_postArrive_noThread first, fun low lost => ?_, fun low takes run idle => ?_, fun rd m low takes waits wait small named => ?_⟩
    · refine exec_postArrive_lost first low (lost.imp_left fun refused => ?_)
      rw [← Bool.not_eq_true, posterAccepted_iff]
      exact refused
    · have work : th.state ≠ .idle := by rw [run]; decide
      exact (exec_postArrive_set first low ((posterAccepted_iff p).2 takes) work).trans
        (eventsEndWait_none ((congrArg Thread.wait (stored work)).trans idle))
    · have work : th.state ≠ .idle := by rw [waits]; decide
      obtain ⟨u, row, woken⟩ := eventsEndWait_waite (s := taken.setThread p.target (th.withEvent p.event)) (t := p.target)
        ((congrArg Thread.state (stored work)).trans waits) ((congrArg Thread.wait (stored work)).trans wait)
        (by rw [stored work]; exact events_hit small named _)
      rw [stored work, statusWord_events] at woken
      refine ⟨u, (exec_postArrive_set first low ((posterAccepted_iff p).2 takes) work).trans row, ?_⟩
      rw [woken]
      exact ⟨rfl, events_consumed _ _, rfl⟩

theorem timerCompareEndsWaits : Claim.TimerCompareEndsWaits := by
  intro s t form th counted
  refine ⟨exec_timerCompare_stays, fun waits late => ⟨fun rd h => ?_, fun rd h => ?_, fun rd m h => ?_, fun rd n h => ?_, fun rd w h => ?_,
    fun rd r o h => ?_, fun rd n d h => ?_, fun h => ?_⟩⟩
  · exact (exec_timerCompare_uncounted waits late (by rw [h]; rfl)).trans (congrArg _ (endEarly_waitt waits h 1))
  · exact exec_timerCompare_status waits late (by rw [h]; rfl)
  · exact exec_timerCompare_status waits late (by rw [h]; rfl)
  · exact exec_timerCompare_status waits late (by rw [h]; rfl)
  · exact exec_timerCompare_status waits late (by rw [h]; rfl)
  · exact exec_timerCompare_status waits late (by rw [h]; rfl)
  · refine ⟨_, (exec_timerCompare_counted waits late (by rw [h]; rfl)).trans (congrArg _ (endEarly_recv (s := counted) waits h 1)), ?_,
      thread_setThread_awaiting rfl _ _⟩
    change t.val ∉ ((leaveChan counted (clusterOf t) n t).chan (clusterOf t) n).receivers
    rw [chan_leaveChan (s := counted) form]
    simp
  · exact (exec_timerCompare_counted waits late (by rw [h]; rfl)).trans (congrArg _ (endEarly_endjoin (s := counted) h 1))

/-- Settles O24: each wait by its condition, an event by whom it reaches, the compare by the wait that it ends. -/
theorem waitsAndEvents : Obligations.WaitsAndEvents := ⟨timerAndEventWaits, postedEvents, timerCompareEndsWaits⟩

end

section
/-! SUPPORT. Message channels (R267–R273): what a write of a channel leaves, the messages that become visible, and the bytes that a receiver
finds in its scratch. -/

namespace Sys2Proof.Machine

open Host

/-! ### Channels beside threads (R267) -/

theorem State.setChan_wf {s : State} (form : Cores.wf s.cores = true) (c n : Nat) (v : Channel) : Cores.wf (s.setChan c n v).cores = true :=
  Cores.chans_wf (fun w => sput_wf w _ _) form

/-- An instruction of a ready thread that stores one channel and completes. -/
theorem completes_setChan {i : Instr} {s : State} {t : ThreadId} {c n : Nat} {v : Channel} (ready : s.ready t)
    (row : exec i s = .next (settle s t (s.thread t).pc (.ok (s.setChan c n v)))) : ∃ u, exec i s = .next u ∧ u.chan c n = v ∧
      u.thread t = { s.thread t with pc := (s.thread t).pc + 4, jumpFrom := none } ∧
      (∀ k, k ≠ 32 * c + n → sget Channel.empty u.cores.chans k = sget Channel.empty s.cores.chans k) ∧
      OnlyThread { s with cores := { s.cores with chans := u.cores.chans } } u t := by
  have run : ((s.setChan c n v).thread t).state = .run := ready.run
  rw [settle_ok run ready.noStep] at row
  have work : ((s.setChan c n v).thread t).state ≠ .idle := by simp [run]
  exact ⟨_, row, State.chan_setChan_self ready.form c n v, thread_setThread_self (by exact work) _ _,
    fun k other => sget_sput_ne other _, OnlyThread.setThread (s := s.setChan c n v) (State.setChan_wf ready.form c n v) run⟩

/-- R272: the record of a failure at a channel that an instruction names. -/
theorem failureRecord_mod (status n : Nat) : failureRecord status (n % 32) = BitVec.ofNat 10 (512 + 16 * (n % 32) + status) := by
  rw [failureRecord, Nat.mod_mod]

/-! ### Visible messages (R269–R271) -/

theorem serveReceiver_none {s : State} {c n : Nat} (h : (s.chan c n).receivers = []) : serveReceiver s c n = s := by
  rw [serveReceiver, h]

theorem freeChan_unclaimed {s : State} {c n : Nat} (h : (s.chan c n).claimers = []) :
    freeChan s c n = s.setChan c n { Channel.empty with receivers := (s.chan c n).receivers } := by
  rw [freeChan, h]

/-- R272: an instruction that finds its channel's failure record returns the status, and clears VALID. -/
theorem leaves_failedStatus {i : Instr} {s : State} {t : ThreadId} {rd : BitVec 4} (ready : s.ready t)
    (row : exec i s = .next (settle s t (s.thread t).pc (failedStatus s t (s.thread t) rd))) : Leaves i s t { s.thread t with
      wstat := (s.thread t).wstat &&& 0x1FF
      outstanding := some (.status rd (BitVec.ofNat 32 ((s.thread t).wstat.toNat % 16)) none) } := by
  rw [failedStatus, statusWord_zero] at row
  exact leaves_answer (v := { s.thread t with wstat := (s.thread t).wstat &&& 0x1FF }) ready row rfl

/-! ### The bytes of a message (R271) -/

/-- Bytes within those just written are read back. -/
theorem readBytes_writeBytes_within {m : SMap Byte} (h : swf 0 m = true) (bs : List Byte) (a k n : Nat) (fits : k + n ≤ bs.length) :
    readBytes (writeBytes m a bs) (a + k) n = (bs.drop k).take n := by
  induction n generalizing k with
  | zero => rfl
  | succ n ih =>
    have byte : sget 0 (writeBytes m a bs) (a + k) = bs[k] := by
      rw [sget_writeBytes _ _ _ h, if_pos (by omega), Nat.add_sub_cancel_left, List.getD_eq_getElem _ _ (by omega)]
    rw [readBytes, byte, Nat.add_assoc, ih (k + 1) (by omega), List.drop_eq_getElem_cons (i := k) (by omega), List.take_succ_cons]

theorem length_messageWords (ch : Channel) : (messageWords ch).length = 8 := by simp [messageWords]

theorem messageWords_get (ch : Channel) {i : Nat} (h : i < 8) :
    (messageWords ch)[i]? = some (if i < ch.n then sget 0 ch.words i else 0) := by
  simp [messageWords, h]

/-- R271: the bytes of a message in a receiver's scratch.  Irreducible, so that no unification evaluates their 32 writes. -/
@[irreducible] def Channel.bytes (ch : Channel) : List Byte := (messageWords ch).flatMap fun w => leBytes 4 w.toNat

theorem length_bytes (ch : Channel) : ch.bytes.length = 32 := by
  rw [Channel.bytes, length_itemBytes, length_messageWords]

/-- R271: word `i` of a message that was taken; the words at N and above are 0. -/
theorem readLE_message {m : SMap Byte} (h : swf 0 m = true) (ch : Channel) (off : Nat) {i : Nat} (small : i < 8) :
    readLE (writeBytes m off ch.bytes) (off + 4 * i) 4 = if i < ch.n then (sget 0 ch.words i).toNat else 0 := by
  have word := word_of_bytes id (messageWords_get ch small)
  rw [readLE, readBytes_writeBytes_within h _ _ _ _ (by rw [length_bytes]; omega), Channel.bytes]
  refine (congrArg leNat word).trans ((leNat_word _).trans ?_)
  exact apply_ite BitVec.toNat _ _ _

/-- R271: the state in which a FULL channel that no thread waits for has given the bytes of its message to the scratch. -/
def State.messageTaken (s : State) (c n off : Nat) (bs : List Byte) : State :=
  (s.setMems { s.mems with scratch := writeBytes s.mems.scratch off bs }).setChan c n Channel.empty

section taken
variable {s : State} {t : ThreadId} (c n off : Nat) (bs : List Byte)

theorem mems_messageTaken : (s.messageTaken c n off bs).mems = { s.mems with scratch := writeBytes s.mems.scratch off bs } := rfl

theorem chan_messageTaken (form : Cores.wf s.cores = true) : (s.messageTaken c n off bs).chan c n = Channel.empty :=
  State.chan_setChan_self (s := s.setMems _) form c n _

theorem awaiting_messageTaken (rd : BitVec 4) (w : Word) : ((s.messageTaken c n off bs).awaiting t rd w).thread t =
    { s.thread t with outstanding := some (.status rd w none) } := thread_setThread_awaiting rfl _ _

/-- R271: the receiver and the scratch are all that a taken message touches beside the channels. -/
theorem onlyThread_messageTaken (ready : s.ready t) {v : Thread} (run : v.state = .run) :
    let u := (s.messageTaken c n off bs).setThread t v
    OnlyThread { s with mems := u.mems, cores := { s.cores with chans := u.cores.chans } } u t :=
  OnlyThread.setThread (s := s.messageTaken c n off bs) (State.setChan_wf (s := s.setMems _) ready.form c n _) run

end taken

theorem takeMessage_full {s : State} {c n : Nat} (full : (s.chan c n).st = .full) (alone : (s.chan c n).receivers = [])
    (unclaimed : (s.chan c n).claimers = []) (t : Nat) (dest : Addr) :
    takeMessage s c n t dest = (s.messageTaken c n (0x10000 * coreOf t + (dest.toNat - 0x100000)) (s.chan c n).bytes, (s.chan c n).n) := by
  have freed (m : Mems) : freeChan (s.setMems m) c n = (s.setMems m).setChan c n Channel.empty := by
    rw [freeChan_unclaimed (s := s.setMems m) unclaimed, show ((s.setMems m).chan c n).receivers = [] from alone]
    rfl
  rw [takeMessage, full, if_neg (by decide), Channel.bytes]
  exact Prod.ext (freed _) rfl

/-! ### The instructions (R268–R271) -/

section rows
variable {s : State} {t : ThreadId} {f : RFields} (ready : s.ready t)
include ready

theorem exec_chw (rd : f.rd = 0) (aux : f.aux.toNat < 8) :
    let th := s.thread t
    let c := clusterOf t
    let n := (th.dreg f.rs1).toNat % 32
    let ch := s.chan c n
    exec (.chw t f) s = .next (settle s t th.pc (if th.failed n then .ok s
      else if ch.st = .filling ∧ ch.owner = t.val then
        .ok (s.setChan c n { ch with words := sput 0 ch.words f.aux.toNat (th.dreg f.rs2), top := max ch.top (f.aux.toNat + 1) })
      else if ch.st = .free then .ok (claim s c n t f.aux.toNat (th.dreg f.rs2))
      else if th.compareReached s.now then .ok (thrCount (s.setThread t { th with wstat := failureRecord 1 n }) t 0x300C)
      else startWait (s.setChan c n { ch with claimers := ch.claimers ++ [t.val] }) t (.claim n f.aux.toNat (th.dreg f.rs2)))) := by
  have fields : (f.rd == 0 && auxWithin f.aux 7) = true := by
    simp only [Bool.and_eq_true, beq_iff_eq, auxWithin_7]
    exact ⟨rd, aux⟩
  exact workRow_ready (legal := fun f => f.rd == 0 && auxWithin f.aux 7) ready fields 0x06 _

variable (rs2 : f.rs2 = 0)
include rs2

theorem exec_chcommit (low : 1 ≤ f.aux.toNat) (high : f.aux.toNat ≤ 8) :
    let th := s.thread t
    let c := clusterOf t
    let n := (th.dreg f.rs1).toNat % 32
    let ch := s.chan c n
    exec (.chcommit t f) s = .next (settle s t th.pc (if th.failed n then failedStatus s t th f.rd
      else if ch.st = .filling ∧ ch.owner = t.val then
        answer (serveReceiver (commitMessage s c n f.aux.toNat .full) c n) t f.rd (statusWord 0 0)
      else answer s t f.rd (statusWord 4 0))) := by
  have fields : (f.rs2 == 0 && 1 ≤ f.aux.toNat && f.aux.toNat ≤ 8) = true := by
    simp only [Bool.and_eq_true, beq_iff_eq, decide_eq_true_eq]
    exact ⟨⟨rs2, low⟩, high⟩
  exact workRow_ready (legal := fun f => f.rs2 == 0 && 1 ≤ f.aux.toNat && f.aux.toNat ≤ 8) ready fields 0x07 _

theorem exec_send (aux : f.aux = 0) :
    let th := s.thread t
    let c := clusterOf t
    let n := (th.dreg f.rs1).toNat % 32
    let ch := s.chan c n
    let s1 := serveReceiver (commitMessage s c n ch.top .sending) c n
    exec (.send t f) s = .next (settle s t th.pc (if th.failed n then failedStatus s t th f.rd
      else if ch.owner = t.val ∧ ch.st = .filling then
        if (s1.chan c n).st = .acked ∧ (s1.chan c n).owner = t.val then answer (freeChan s1 c n) t f.rd (statusWord 0 0)
        else waitOrTimeout s1 t f.rd (.send f.rd n)
      else if ch.owner = t.val ∧ ch.st = .sending then waitOrTimeout s t f.rd (.send f.rd n)
      else if ch.owner = t.val ∧ ch.st = .acked then answer (freeChan s c n) t f.rd (statusWord 0 0)
      else answer s t f.rd (statusWord 4 0))) := by
  have fields : (f.rs2 == 0 && f.aux == 0) = true := by rw [rs2, aux]; rfl
  exact workRow_ready (legal := fun f => f.rs2 == 0 && f.aux == 0) ready fields 0x08 _

omit rs2
variable (fields : (isA f.rs2 && f.aux == 0) = true)
include fields

theorem exec_recv_raises {code : Nat} (h : scratchArea t ((s.thread t).areg (aOf f.rs2)) 32 4 = .inr code) :
    Raises (.recv t f) s t code ((s.thread t).areg (aOf f.rs2)) := by
  refine (workRow_ready (legal := fun f => isA f.rs2 && f.aux == 0) ready fields 0x09 _).trans ?_
  dsimp only
  rw [h]
  exact congrArg _ (settle_raise ready _ _ _)

/-- R271: what RECV answers for channel `n` and a destination in the scratch. -/
theorem exec_recv {n off : Nat} {dest : Addr} (chan : ((s.thread t).dreg f.rs1).toNat % 32 = n) (base : (s.thread t).areg (aOf f.rs2) = dest)
    (h : scratchArea t dest 32 4 = .inl off) : exec (.recv t f) s = .next (settle s t (s.thread t).pc
      (if ((s.chan (clusterOf t) n).st = .full ∨ (s.chan (clusterOf t) n).st = .sending) ∧ (s.chan (clusterOf t) n).receivers.isEmpty then
        answer (takeMessage s (clusterOf t) n t dest).1 t f.rd (statusWord 0 (takeMessage s (clusterOf t) n t dest).2)
      else if (s.thread t).compareReached s.now then answer (thrCount s t 0x300C) t f.rd (statusWord 1 0)
      else startWait (s.setChan (clusterOf t) n { s.chan (clusterOf t) n with receivers := (s.chan (clusterOf t) n).receivers ++ [t.val] }) t
        (.recv f.rd n dest))) := by
  subst chan base
  refine (workRow_ready (legal := fun f => isA f.rs2 && f.aux == 0) ready fields 0x09 _).trans ?_
  dsimp only
  rw [h]
  rfl

/-- R271: RECV of a message that is visible in a channel no other thread waits for. -/
theorem exec_recv_full {n off : Nat} {dest : Addr} (chan : ((s.thread t).dreg f.rs1).toNat % 32 = n)
    (base : (s.thread t).areg (aOf f.rs2) = dest) (h : scratchArea t dest 32 4 = .inl off)
    (place : 0x10000 * coreOf t + (dest.toNat - 0x100000) = off) (full : (s.chan (clusterOf t) n).st = .full)
    (alone : (s.chan (clusterOf t) n).receivers = []) (unclaimed : (s.chan (clusterOf t) n).claimers = []) : exec (.recv t f) s =
      .next ((s.messageTaken (clusterOf t) n off (s.chan (clusterOf t) n).bytes).awaiting t f.rd
        (BitVec.ofNat 32 ((s.chan (clusterOf t) n).n % 65536 * 65536))) := by
  rw [exec_recv ready fields chan base h, if_pos ⟨.inl full, by rw [alone]; rfl⟩, takeMessage_full full alone unclaimed, answer, place,
    settle_stay ready, statusWord, Nat.zero_add]
  rfl

end rows

end Sys2Proof.Machine

open Sys2Proof Sys2Proof.Machine Host

theorem channelWritesClaimAndFill : Claim.ChannelWritesClaimAndFill := by
  intro s t f ready rd aux th c n ch data idx goesOn
  have row := exec_chw ready rd aux
  dsimp only at row
  refine ⟨fun failed => ?_, fun clear => ?_⟩
  · rw [if_pos failed, settle_ok ready.run ready.noStep] at row
    have run : { th with pc := th.pc + 4, jumpFrom := none }.state = .run := ready.run
    exact ⟨_, row, thread_setThread_self (by rw [run]; decide) s t, OnlyThread.setThread ready.form run⟩
  rw [if_neg (Bool.eq_false_iff.1 clear)] at row
  refine ⟨fun filling own => ?_, fun free => ?_, fun other taken waits => ?_, fun other taken late => ?_⟩
  · rw [if_pos ⟨filling, own⟩] at row
    exact completes_setChan ready row
  · rw [if_neg (fun both => absurd (free.symm.trans both.1) (by decide)), if_pos free] at row
    exact completes_setChan ready row
  · rw [if_neg other, if_neg taken, if_neg (mt compareReached_iff.1 waits)] at row
    exact row.trans (congrArg _ (settle_stay ready _ _))
  · rw [if_neg other, if_neg taken, if_pos (compareReached_iff.2 late), failureRecord_mod] at row
    let v : Thread := { th with wstat := BitVec.ofNat 10 (512 + 16 * n + 1) }
    have run : v.state = .run := ready.run
    have stored : (thrCount (s.setThread t v) t 0x300C).thread t = v := thread_setThread_self (by rw [run]; decide) s t
    rw [settle_ok (by rw [stored]; exact run) (by rw [stored]; exact ready.noStep), stored] at row
    exact ⟨_, row, thread_setThread_self (by exact (show v.state ≠ .idle by rw [run]; decide)) _ _⟩

theorem commitAndSend : Claim.CommitAndSend := by
  intro s t f ready rs2 th c n ch message
  have visible (k : Nat) (st : ChanState) : (message k st).chan c n = { ch with st := st, n := k, words := ch.words.filter fun e => e.1 < k } :=
    State.chan_setChan_self ready.form c n _
  have silent {k : Nat} {st : ChanState} (alone : ch.receivers = []) : serveReceiver (message k st) c n = message k st :=
    serveReceiver_none (by rw [visible]; exact alone)
  refine ⟨fun low high => ?_, fun aux => ?_⟩
  · have row := exec_chcommit ready rs2 low high
    dsimp only at row
    have passed (clear : th.failed n = false) (filling : ch.st = .filling) (own : ch.owner = t.val) : exec (.chcommit t f) s =
        .next ((serveReceiver (message f.aux.toNat .full) c n).awaiting t f.rd 0) := by
      rw [if_neg (Bool.eq_false_iff.1 clear), if_pos ⟨filling, own⟩] at row
      exact row.trans (congrArg _ (settle_stay ready _ _))
    refine ⟨fun failed => ?_, fun clear other => ?_, fun clear filling own alone => ?_, passed⟩
    · rw [if_pos failed] at row
      exact leaves_failedStatus ready row
    · rw [if_neg (Bool.eq_false_iff.1 clear), if_neg other] at row
      exact row.trans (congrArg _ (settle_stay ready _ _))
    · rw [passed clear filling own, silent alone]
  · have row := exec_send ready rs2 aux
    dsimp only at row
    refine ⟨fun failed => ?_, fun clear other => ?_, fun clear own filling alone waits => ?_, fun clear own acked => ?_⟩
    · rw [if_pos failed] at row
      exact leaves_failedStatus ready row
    · have neither {x : ChanState} (h : x ∈ [ChanState.filling, .sending, .acked]) : ¬(ch.owner = t.val ∧ ch.st = x) := by
        rintro ⟨own, st⟩
        simp only [List.mem_cons, List.not_mem_nil, or_false] at h
        rcases h with rfl | rfl | rfl <;> simp [own, st] at other
      rw [if_neg (Bool.eq_false_iff.1 clear), if_neg (neither (by simp)), if_neg (neither (by simp)), if_neg (neither (by simp))] at row
      exact row.trans (congrArg _ (settle_stay ready _ _))
    · have kept : ¬(((message ch.top .sending).chan c n).st = .acked ∧ ((message ch.top .sending).chan c n).owner = t.val) := by
        rw [visible]
        exact fun both => absurd (show ChanState.sending = .acked from both.1) (by decide)
      have sent : serveReceiver (commitMessage s c n ch.top .sending) c n = message ch.top .sending := silent alone
      rw [if_neg (Bool.eq_false_iff.1 clear), if_pos ⟨own, filling⟩, sent, if_neg kept,
        waitOrTimeout_waits (s := message ch.top .sending) waits] at row
      exact row.trans (congrArg _ (settle_stay ready _ _))
    · have other {x : ChanState} (h : ChanState.acked ≠ x) : ¬(ch.owner = t.val ∧ ch.st = x) := fun both => h (acked.symm.trans both.2)
      rw [if_neg (Bool.eq_false_iff.1 clear), if_neg (other (by decide)), if_neg (other (by decide)), if_pos ⟨own, acked⟩] at row
      exact row.trans (congrArg _ (settle_stay ready _ _))

theorem receiveTakesTheMessage : Claim.ReceiveTakesTheMessage := by
  intro s t f ready wf base aux th c n ch dest off
  have fields : (isA f.rs2 && f.aux == 0) = true := by
    simp only [Bool.and_eq_true, isA_iff, beq_iff_eq]
    exact ⟨base, aux⟩
  refine ⟨fun odd => exec_recv_raises ready fields (scratchArea_misaligned t odd),
    fun al out => exec_recv_raises ready fields (scratchArea_outside t al out), fun al low high => ?_⟩
  have area : scratchArea t dest 32 4 = .inl off := scratchArea_inside t al low high
  have row := exec_recv ready fields rfl rfl area
  refine ⟨fun full alone unclaimed => ?_, fun notFull notSending waits => ?_, fun notFull notSending late => ?_⟩
  · have scratch : swf 0 s.mems.scratch = true := ((Memory.wf_iff _).1 wf.1).2.1
    refine ⟨_, exec_recv_full ready fields rfl rfl area rfl full alone unclaimed, ?_, ?_, ?_, ?_, ?_, ?_⟩
    · exact congrArg Channel.st (chan_messageTaken c n off ch.bytes ready.form)
    · exact awaiting_messageTaken c n off ch.bytes f.rd _
    · intro i small
      exact readLE_message scratch ch off small
    · intro a out
      refine (sget_writeBytes _ _ _ scratch).trans (if_neg ?_)
      rw [length_bytes]
      omega
    · rw [State.awaiting, State.setThread_mems, mems_messageTaken]
    · exact onlyThread_messageTaken c n off ch.bytes ready ready.run
  · rw [if_neg (fun both => both.1.elim notFull notSending), if_neg (mt compareReached_iff.1 waits)] at row
    exact row.trans (congrArg _ (settle_stay ready _ _))
  · rw [if_neg (fun both => both.1.elim notFull notSending), if_pos (compareReached_iff.2 late)] at row
    exact row.trans (congrArg _ (settle_stay ready _ _))

/-- Settles O26: each instruction by the branch that its channel's state takes; a message by its bytes in the scratch. -/
theorem channelMessages : Obligations.ChannelMessages := ⟨channelWritesClaimAndFill, commitAndSend, receiveTakesTheMessage⟩

end

section
/-! SUPPORT. Requests of the debug unit and breakpoints (R266, R273, R275–R277, R279): the checks of a request in their order, and the
channels of a thread that halts and resumes. -/

namespace Sys2Proof.Machine

open Host

/-! ### The checks of a request (R276) -/

section checks
variable {s : State} {c : Nat} (op k ch : Nat)

theorem dbgRequest_off (h : s.dbgMode c ≠ 2) : dbgRequest s c op k ch = setDbgResult s c 1 := if_pos h

variable (full : s.dbgMode c = 2)
include full

theorem dbgRequest_busy (busy : s.dbgBusy c = true) : dbgRequest s c op k ch = setDbgResult s c 4 :=
  (if_neg (not_not.2 full)).trans (if_pos busy)

variable (ready : s.dbgBusy c = false)
include ready

theorem dbgRequest_refused (h : dbgAllowed s op c (threadOf c k) ch = false) : dbgRequest s c op k ch = setDbgResult s c 2 := by
  rw [dbgRequest, if_neg (not_not.2 full), ready, h]
  rfl

theorem dbgRequest_runs (h : dbgAllowed s op c (threadOf c k) ch = true) :
    dbgRequest s c op k ch = dbgAct (setDbgResult s c 0) op c (threadOf c k) ch := by
  rw [dbgRequest, if_neg (not_not.2 full), ready, h]
  rfl

end checks

/-- R276: the six requests. -/
theorem exec_dbgRequest {c : Fin 17} {k : Fin 64} {ch : Fin 32} {i : Instr}
    (h : i ∈ [Instr.halt c k, .resume c k, .step c k, .kill c k, .trap c k, .chabort c ch]) (s : State) :
    ∃ op k ch, exec i s = .next (dbgRequest s c op k ch) := by
  simp only [List.mem_cons, List.not_mem_nil, or_false] at h
  rcases h with rfl | rfl | rfl | rfl | rfl | rfl
  · exact ⟨1, k, 0, rfl⟩
  · exact ⟨2, k, 0, rfl⟩
  · exact ⟨3, k, 0, rfl⟩
  · exact ⟨4, k, 0, rfl⟩
  · exact ⟨5, k, 0, rfl⟩
  · exact ⟨6, 0, ch, rfl⟩

theorem clusterOf_threadOf (c : Nat) {k : Nat} (h : k < 64) : clusterOf (threadOf c k) = c := by
  rw [clusterOf, threadOf]
  omega

theorem mem_clusterThreads {c k : Nat} (small : k < 64) (h : c < 16 ∨ k < 8) (last : c < 17) : threadOf c k ∈ clusterThreads c := by
  unfold clusterThreads threadOf
  split
  · next block =>
    subst block
    exact List.mem_map.2 ⟨k, List.mem_range.2 (by omega), rfl⟩
  · exact List.mem_map.2 ⟨k, List.mem_range.2 small, rfl⟩

/-- R276: no request of a thread of the cluster is in progress. -/
theorem dbgBusy_false {s : State} {c x : Nat} (ready : s.dbgBusy c = false) (h : x ∈ clusterThreads c) :
    (s.thread x).haltReq = false ∧ (s.thread x).stepArmed = false := by
  have all := List.any_eq_false.1 ready x h
  simpa using all

/-! ### Channels of a thread that halts or resumes (R273, R277) -/

/-- R273: channel `ch` when its owner `t` halts (`halting`) or resumes. -/
def Channel.hold (ch : Channel) (t : Nat) (halting : Bool) : Channel :=
  if halting ∧ ch.st = .filling ∧ ch.owner = t then { ch with st := .held }
  else if !halting ∧ ch.st = .held ∧ ch.owner = t then { ch with st := .filling }
  else ch

/-- R273, R277: one step of `holdChannels`. -/
def holdChannel (t : Nat) (halting : Bool) (s : State) (n : Nat) : State :=
  let ch := s.chan (clusterOf t) n
  if halting ∧ ch.st = .filling ∧ ch.owner = t then s.setChan (clusterOf t) n { ch with st := .held }
  else if !halting ∧ ch.st = .held ∧ ch.owner = t then s.setChan (clusterOf t) n { ch with st := .filling }
  else s

theorem holdChannel_cases (t : Nat) (halting : Bool) (s : State) (n : Nat) :
    holdChannel t halting s n = s.setChan (clusterOf t) n ((s.chan (clusterOf t) n).hold t halting) ∨
      holdChannel t halting s n = s ∧ (s.chan (clusterOf t) n).hold t halting = s.chan (clusterOf t) n := by
  unfold holdChannel Channel.hold
  dsimp only
  split_ifs
  · exact .inl rfl
  · exact .inl rfl
  · exact .inr ⟨rfl, rfl⟩

theorem chan_holdChannel {s : State} (form : Cores.wf s.cores = true) (t : Nat) (halting : Bool) (n : Nat) :
    Cores.wf (holdChannel t halting s n).cores = true ∧ ∀ m, (holdChannel t halting s n).chan (clusterOf t) m =
      if m = n then (s.chan (clusterOf t) n).hold t halting else s.chan (clusterOf t) m := by
  rcases holdChannel_cases t halting s n with stored | ⟨same, kept⟩
  · rw [stored]
    exact ⟨State.setChan_wf form _ _ _, fun m => State.chan_setChan form _ _ _ _⟩
  · rw [same, kept]
    refine ⟨form, fun m => ?_⟩
    split
    · next h => rw [h]
    · rfl

/-- R273, R277: every channel of the thread is held or goes on. -/
theorem chan_holdChannels {s : State} (form : Cores.wf s.cores = true) (t : Nat) (halting : Bool) {n : Nat} (h : n < 32) :
    (holdChannels s t halting).chan (clusterOf t) n = (s.chan (clusterOf t) n).hold t halting := by
  have upTo (k : Nat) : Cores.wf ((List.range k).foldl (holdChannel t halting) s).cores = true ∧
      ∀ m, ((List.range k).foldl (holdChannel t halting) s).chan (clusterOf t) m =
        if m < k then (s.chan (clusterOf t) m).hold t halting else s.chan (clusterOf t) m := by
    induction k with
    | zero => exact ⟨form, fun m => rfl⟩
    | succ k ih =>
      obtain ⟨wf, reads⟩ := ih
      obtain ⟨wf', step⟩ := chan_holdChannel wf t halting k
      rw [List.range_succ, List.foldl_append]
      refine ⟨wf', fun m => (step m).trans ?_⟩
      rw [reads, reads, if_neg (Nat.lt_irrefl k)]
      by_cases here : m = k
      · rw [if_pos here, if_pos (by omega), here]
      · have below : m < k ↔ m < k + 1 := by omega
        rw [if_neg here, if_congr below rfl rfl]
  exact ((upTo 32).2 n).trans (if_pos h)

section halts
variable {s : State} {t : Nat}

theorem thread_haltThread : (haltThread s t).thread t =
    { s.thread t with state := .halt, wait := .none, haltReq := false, stepArmed := false } := by
  rw [haltThread, holdChannels_thread]
  exact thread_setThread_self (by exact (show ThreadState.halt ≠ .idle by decide)) _ _

/-- R276: the same of a thread without a request in progress. -/
theorem thread_haltThread_unasked (req : (s.thread t).haltReq = false) (step : (s.thread t).stepArmed = false) :
    (haltThread s t).thread t = { s.thread t with state := .halt, wait := .none } := by
  rw [thread_haltThread]
  simp only [req, step]

theorem thread_haltThread_ne {x : Nat} (h : x ≠ t) : (haltThread s t).thread x = s.thread x := by
  rw [haltThread, holdChannels_thread]
  exact thread_setThread_ne h _ _

/-- R273: a channel that the thread fills is held while it halts. -/
theorem chan_haltThread (form : Cores.wf s.cores = true) {c n : Nat} (cluster : clusterOf t = c) (h : n < 32)
    (filling : (s.chan c n).st = .filling) (own : (s.chan c n).owner = t) : ((haltThread s t).chan c n).st = .held := by
  subst cluster
  have held : (s.chan (clusterOf t) n).hold t true = { s.chan (clusterOf t) n with st := .held } := if_pos ⟨rfl, filling, own⟩
  rw [haltThread, State.modThread, chan_holdChannels (State.setThread_wf form _ _) t true h]
  exact congrArg Channel.st held

theorem thread_resumeThread (x : Nat) : (resumeThread s t).thread x = if x = t then { s.thread t with state := .run } else s.thread x := by
  rw [resumeThread, holdChannels_thread]
  split
  · next h =>
    rw [h]
    exact thread_setThread_self (by exact (show ThreadState.run ≠ .idle by decide)) _ _
  · next h => exact thread_setThread_ne h _ _

/-- R273, R277: a channel that was held for the thread goes on at its resume. -/
theorem chan_resumeThread (form : Cores.wf s.cores = true) {c n : Nat} (cluster : clusterOf t = c) (h : n < 32)
    (held : (s.chan c n).st = .held) (own : (s.chan c n).owner = t) : ((resumeThread s t).chan c n).st = .filling := by
  subst cluster
  have filling : (s.chan (clusterOf t) n).hold t false = { s.chan (clusterOf t) n with st := .filling } :=
    (if_neg fun both => Bool.false_ne_true both.1).trans (if_pos ⟨rfl, held, own⟩)
  rw [resumeThread, State.modThread, chan_holdChannels (State.setThread_wf form _ _) t false h]
  exact congrArg Channel.st filling

variable (run : (s.thread t).state = .run)
include run

/-- R266, R276: a thread that awaits nothing halts at once. -/
theorem haltRequest_free (free : (s.thread t).outstanding = none) : haltRequest s t = haltThread s t := by
  have stays : withdrawWait s t = s := if_pos (by simp [run])
  rw [haltRequest, if_neg (by simp [run]), if_neg (by simp [free]), stays]

/-- R276: a thread that awaits a value halts at its instruction's boundary. -/
theorem haltRequest_awaits (out : (s.thread t).outstanding ≠ none) :
    haltRequest s t = s.setThread t { s.thread t with haltReq := true } :=
  (if_neg (by simp [run])).trans (if_pos (Option.isSome_iff_ne_none.2 out))

end halts

end Sys2Proof.Machine

open Sys2Proof Sys2Proof.Machine Host

theorem debugRequestsAreChecked : Claim.DebugRequestsAreChecked := by
  intro s c k ch t st cs busy refused requests
  refine ⟨fun off i mem => ?_, fun full inProgress i mem => ?_, fun full ready => ⟨fun idle => ?_, fun notHalted => ?_, fun still => ?_,
    fun notFilling notHeld => ?_⟩⟩
  · obtain ⟨op, k, ch, row⟩ := exec_dbgRequest mem s
    exact row.trans (congrArg Outcome.next (dbgRequest_off op k ch off))
  · obtain ⟨op, k, ch, row⟩ := exec_dbgRequest mem s
    exact row.trans (congrArg Outcome.next (dbgRequest_busy op k ch full inProgress))
  · have none : (st != .idle) = false := by rw [idle]; rfl
    exact ⟨congrArg Outcome.next (dbgRequest_refused 1 k 0 full ready none), congrArg Outcome.next (dbgRequest_refused 4 k 0 full ready none)⟩
  · have none : (st == .halt) = false := beq_eq_false_iff_ne.2 notHalted
    exact ⟨congrArg Outcome.next (dbgRequest_refused 2 k 0 full ready none), congrArg Outcome.next (dbgRequest_refused 3 k 0 full ready none)⟩
  · have none : (st == .run || st == .wait) = false := by rcases still with h | h <;> rw [h] <;> rfl
    exact congrArg Outcome.next (dbgRequest_refused 5 k 0 full ready none)
  · have none : (cs == .filling || cs == .held) = false := by
      rw [beq_eq_false_iff_ne.2 notFilling, beq_eq_false_iff_ne.2 notHeld]
      rfl
    exact congrArg Outcome.next (dbgRequest_refused 6 0 ch full ready none)

theorem debugRequestsAct : Claim.DebugRequestsAct := by
  intro s c k ch form member full ready t th ok
  have runs (op : Nat) (allowed : dbgAllowed s op c.val t 0 = true) : dbgRequest s c.val op k.val 0 = dbgAct ok op c.val t 0 :=
    dbgRequest_runs op k 0 full ready allowed
  have cluster : clusterOf t = c.val := clusterOf_threadOf c.val k.isLt
  obtain ⟨noHalt, noStep⟩ := dbgBusy_false ready (mem_clusterThreads k.isLt member c.isLt)
  have okForm : Cores.wf ok.cores = true := Cores.clusters_wf (fun w => sput_wf w _ _) form
  refine ⟨fun run free => ?_, fun run out => ?_, fun halt => ?_, fun halt => ?_, fun work => ?_, fun work => ?_, ?_⟩
  · have row : exec (.halt c k) s = .next (haltThread ok t) :=
      congrArg Outcome.next ((runs 1 (by exact (show (th.state != .idle) = true by rw [run]; rfl))).trans (haltRequest_free (s := ok) run free))
    refine ⟨_, row, ?_, fun x other => thread_haltThread_ne other, fun n small filling own => ?_⟩
    · exact thread_haltThread_unasked (s := ok) noHalt noStep
    · exact chan_haltThread (s := ok) okForm cluster small filling own
  · exact congrArg Outcome.next ((runs 1 (by exact (show (th.state != .idle) = true by rw [run]; rfl))).trans (haltRequest_awaits (s := ok) run out))
  · have row : exec (.resume c k) s = .next (resumeThread ok t) :=
      congrArg Outcome.next (runs 2 (by exact (show (th.state == .halt) = true by rw [halt]; rfl)))
    refine ⟨_, row, (thread_resumeThread t).trans (if_pos rfl), fun x other => (thread_resumeThread x).trans (if_neg other),
      fun n small held own => ?_⟩
    exact chan_resumeThread (s := ok) okForm cluster small held own
  · exact congrArg Outcome.next (runs 3 (by exact (show (th.state == .halt) = true by rw [halt]; rfl)))
  · exact congrArg Outcome.next (runs 4 (by exact (show (th.state != .idle) = true from bne_iff_ne.2 work)))
  · have allowed : (th.state == .run || th.state == .wait) = true := by rcases work with h | h <;> rw [h] <;> rfl
    exact ⟨_, rfl, congrArg Outcome.next (runs 5 allowed)⟩
  · intro channel partly unclaimed
    have allowed : (channel.st == .filling || channel.st == .held) = true := by rcases partly with h | h <;> rw [h] <;> rfl
    let told := (ok.setThread channel.owner { s.thread channel.owner with wstat := failureRecord 5 ch.val }).count (thrBase c.val + 0x3004)
    have form' : Cores.wf told.cores = true := State.setThread_wf okForm _ _
    have row : exec (.chabort c ch) s = .next (told.setChan c.val ch.val { Channel.empty with receivers := channel.receivers }) :=
      congrArg Outcome.next ((dbgRequest_runs 6 0 ch full ready allowed).trans (freeChan_unclaimed (s := told) unclaimed))
    refine ⟨_, row, congrArg Channel.st (State.chan_setChan_self form' _ _ _), ?_, rfl⟩
    refine (congrArg Thread.wstat ((State.thread_setThread okForm channel.owner channel.owner _).trans (if_pos rfl))).trans ?_
    rw [← Nat.mod_eq_of_lt ch.isLt]
    exact failureRecord_mod 5 ch.val

theorem breakpointsHaltTrapOrTrace : Claim.BreakpointsHaltTrapOrTrace := by
  intro s t n v th hits mode
  have matches_iff : s.bpMatches t n.val = true ↔ hits := by
    simp only [State.bpMatches, Bool.and_eq_true, Bool.or_eq_true, beq_iff_eq, and_assoc]
    rfl
  have row : exec (.breakpointHit t n) s = if !th.issues ∨ !s.bpMatches t n.val ∨ mode = 0 then .next s
      else if mode = 1 ∨ bits v 30 29 = 2 then .next (traceRecord s t)
      else if bits v 30 29 = 0 then .next (haltThread s t)
      else .next (endStep (takeException s t 0x11 th.pc (BitVec.ofNat 48 (2 + 4 * n.val))) t) := rfl
  refine ⟨fun passes => row.trans (if_pos ?_), fun hit issues => ?_⟩
  · rw [Bool.not_eq_true', Bool.not_eq_true', ← Bool.not_eq_true (s.bpMatches t n.val), matches_iff]
    exact or_rotate.1 (or_rotate.1 passes)
  have stops (on : mode ≠ 0) : ¬((!th.issues) = true ∨ (!s.bpMatches t n.val) = true ∨ mode = 0) := by
    simp [issues, matches_iff.2 hit, on]
  refine ⟨fun trace => ?_, fun full action => ?_, fun full action unarmed => ?_⟩
  · have on : mode ≠ 0 := by rcases trace with h | h <;> omega
    rw [row, if_neg (stops on), if_pos (trace.imp_right And.right)]
  · rw [row, if_neg (stops (by omega)), if_neg (by omega), if_pos action]
  · have work : th.state ≠ .idle := by
      intro idle
      simp [Thread.issues, idle] at issues
    rw [row, if_neg (stops (by omega)), if_neg (by omega), if_neg (by omega), endStep_takeException work unarmed]

end

section
/-! SUPPORT. The kill of a thread (R259, R260, R278): in a state where it waits for nothing and holds nothing, what it would give up is
empty, and it ends as if by END. -/

namespace Sys2Proof.Machine

open Host

/-! ### Channels that no thread uses (R273) -/

section channels
variable {s : State} (unused : s.cores.chans = [])
include unused

theorem chan_none (c n : Nat) : s.chan c n = Channel.empty := by
  rw [State.chan, unused]
  rfl

theorem setChan_none (c n : Nat) : s.setChan c n Channel.empty = s := by
  have same : sput Channel.empty s.cores.chans (32 * c + n) Channel.empty = s.cores.chans := by
    rw [unused]
    exact if_pos rfl
  rw [State.setChan, same]

theorem leaveChan_none (c n t : Nat) : leaveChan s c n t = s := by
  rw [leaveChan, chan_none unused]
  exact setChan_none unused c n

theorem killChan_none (t n : Nat) : killChan t s n = s := by
  rw [killChan, leaveChan_none unused, chan_none unused]
  exact if_pos (.inr rfl)

theorem killChans_none (t : Nat) (l : List Nat) : l.foldl (killChan t) s = s := by
  induction l with
  | nil => rfl
  | cons n l ih => rw [List.foldl_cons, killChan_none unused, ih]

end channels

/-! ### Locks, semaphores and buffers that no thread holds (R312, R339) -/

theorem lckReset_none {s : State} (locks : s.lck.locks = []) (sems : s.lck.sems = []) (unclaimed : s.lck.unclaimed = []) (t : Nat) :
    lckReset s t = s := by
  have free : s.waitedLock t = none := by rw [State.waitedLock, locks]; rfl
  have requests : removeRequests s t = s := by
    have noLocks (g : Nat × LockSt → Nat × LockSt) : s.lck.locks.map g = s.lck.locks := by rw [locks]; rfl
    have noSems (g : Nat × SemSt → Nat × SemSt) (p : Nat × SemSt → Bool) : (s.lck.sems.map g).filter p = s.lck.sems := by rw [sems]; rfl
    rw [removeRequests, free, noLocks, noSems]
    rfl
  have grants : dropSemGrants s t none = s := by
    have no (p : Nat × Nat → Bool) : s.lck.unclaimed.filter p = s.lck.unclaimed := by rw [unclaimed]; rfl
    have keep : s.setLck { s.lck with unclaimed := s.lck.unclaimed } = s := rfl
    rw [dropSemGrants, no, no, keep, unclaimed]
    rfl
  rw [lckReset, requests, grants, locks]
  rfl

theorem traysKill_none {s : State} (waiters : s.trays.waiters = []) (unclaimed : s.trays.unclaimed = []) (t : Nat) : traysKill s t = s := by
  have no (p : TryWaiter → Bool) : s.trays.waiters.filter p = s.trays.waiters := by rw [waiters]; rfl
  have same : s.setTrays { s.trays with waiters := s.trays.waiters } = s := rfl
  rw [traysKill, no, same, dropUnclaimed, unclaimed]
  rfl

/-! ### The end of a killed thread (R278) -/

section kill
variable {s : State} {t : Nat}

theorem killThread_idle (h : (s.thread t).state = .idle) : killThread s t = s := if_pos h

/-- R260: the end of a thread without work counts nothing. -/
theorem counters_ended (s : State) (t : Nat) : (s.ended t).counters = s.counters := by
  change (orphanChildren s t).counters = _
  unfold orphanChildren
  exact List.foldlRecOn _ _ (motive := fun u : State => u.counters = s.counters) rfl fun u hu e _ => hu

/-- R278: what a killed thread would give up before its end is empty. -/
structure State.HoldsNothing (s : State) (t : Nat) : Prop where
  item : (s.thread t).item = none
  late : (s.thread t).irqCxLate = none
  parent : (s.thread t).parent = none
  locks : s.lck.locks = []
  sems : s.lck.sems = []
  grants : s.lck.unclaimed = []
  waiters : s.trays.waiters = []
  buffers : s.trays.unclaimed = []
  chans : s.cores.chans = []

/-- R278: the kill of such a thread is its END, counted. -/
theorem killThread_alone (work : (s.thread t).state ≠ .idle) (h : s.HoldsNothing t) :
    killThread s t = thrCount ((s.setThread t { s.thread t with item := none }).ended t) t 0x3018 := by
  have late : loseCxLate s t = s := by rw [loseCxLate, h.late]
  have stored : (s.setThread t { s.thread t with item := none }).thread t = { s.thread t with item := none } :=
    thread_setThread_self (by exact work) s t
  rw [killThread, if_neg work]
  dsimp only
  rw [killChans_none h.chans, lckReset_none h.locks h.sems h.grants, traysKill_none h.waiters h.buffers, late, h.item, State.modThread,
    completeEnd_alone (by rw [stored]) (by rw [stored]; exact h.late) (by rw [stored]; exact h.parent)]

end kill

end Sys2Proof.Machine

open Sys2Proof Sys2Proof.Machine Host

theorem killEndsAThread : Claim.KillEndsAThread := by
  intro s t wf
  refine ⟨killThread_idle, fun low work item late parent locks sems grants waiters buffers chans => ?_⟩
  obtain ⟨-, -, counters, form⟩ := wf
  have killed := killThread_alone work ⟨item, late, parent, locks, sems, grants, waiters, buffers, chans⟩
  have form' := State.setThread_wf form t { s.thread t with item := none }
  rw [killed]
  constructor
  · refine (thread_ended form' t).trans ?_
    rw [if_pos rfl, thread_setThread_self (by exact work), if_neg (by exact (show (s.thread t).parent ≠ some t by simp [parent]))]
    simp only [Thread.rested, item, late, parent]
  · change sget 0 (smod 0 ((s.setThread t { s.thread t with item := none }).ended t).counters _ _) _ = _
    rw [counters_ended, State.setThread_counters, smod, sget_sput counters, if_pos rfl]

end

section
/-! SUPPORT. Writes of the register window (R275, R285): the register that each offset names. -/

namespace Sys2Proof.Machine

open Host

/-! ### Parts of a wider register -/

theorem putSlice_low (v : Nat) (w : Word) : putSlice v 0 w = v / 2 ^ 32 * 2 ^ 32 + w.toNat := by
  rw [putSlice]
  omega

theorem putSlice_high {v : Nat} (h : v < 2 ^ 64) (w : Word) : putSlice v 32 w = v % 2 ^ 32 + w.toNat * 2 ^ 32 := by
  rw [putSlice]
  omega

/-! ### The word at an offset (R285) -/

section window
variable (th : Thread) (w : Word)

theorem windowPut_d (r : BitVec 4) : windowPut th (4 * r.toNat) w = th.setD r w := by
  unfold windowPut
  rw [if_pos (by omega), Nat.mul_div_cancel_left _ (by decide), BitVec.ofNat_toNat, BitVec.setWidth_eq]

/-- R285: a half of an A register. -/
theorem windowPut_a (r : BitVec 3) {h : Nat} (half : h < 2) : windowPut th (0x40 + 8 * r.toNat + 4 * h) w =
    th.setA r (BitVec.ofNat 48 (putSlice (th.areg r).toNat (32 * h) w)) := by
  have index : BitVec.ofNat 3 ((0x40 + 8 * r.toNat + 4 * h - 0x40) / 8) = r := by
    rw [show (0x40 + 8 * r.toNat + 4 * h - 0x40) / 8 = r.toNat by omega, BitVec.ofNat_toNat, BitVec.setWidth_eq]
  have part : (if (0x40 + 8 * r.toNat + 4 * h) % 8 = 0 then 0 else 32) = 32 * h := by split <;> omega
  unfold windowPut
  rw [if_neg (by omega), if_pos (by omega), index, part]

theorem windowPut_acc0 {j : Nat} (h : j < 3) :
    windowPut th (0x80 + 4 * j) w = { th with acc0 := BitVec.ofNat 72 (putSlice th.acc0.toNat (32 * j) w) } := by
  unfold windowPut
  rw [if_neg (by omega), if_neg (by omega), if_pos (by omega), show 8 * (0x80 + 4 * j - 0x80) = 32 * j by omega]

theorem windowPut_acc1 {j : Nat} (h : j < 3) :
    windowPut th (0x8C + 4 * j) w = { th with acc1 := BitVec.ofNat 72 (putSlice th.acc1.toNat (32 * j) w) } := by
  unfold windowPut
  rw [if_neg (by omega), if_neg (by omega), if_neg (by omega), if_pos (by omega),
    show 8 * (0x8C + 4 * j - 0x8C) = 32 * j by omega]

end window

theorem tcmp_low (v : Time) (w : Word) : v.extractLsb' 32 32 ++ w = BitVec.ofNat 64 (v.toNat / 2 ^ 32 * 2 ^ 32 + w.toNat) := by
  have := v.isLt
  refine BitVec.eq_of_toNat_eq ?_
  rw [BitVec.toNat_append, BitVec.extractLsb'_toNat, ← Nat.shiftLeft_add_eq_or_of_lt w.isLt, Nat.shiftLeft_eq, Nat.shiftRight_eq_div_pow,
    BitVec.toNat_ofNat]
  omega

theorem tcmp_high (v : Time) (w : Word) : (w ++ v.setWidth 32 : Time) = BitVec.ofNat 64 (v.toNat % 2 ^ 32 + w.toNat * 2 ^ 32) := by
  refine BitVec.eq_of_toNat_eq ?_
  rw [BitVec.toNat_append, ← Nat.shiftLeft_add_eq_or_of_lt (BitVec.isLt _), Nat.shiftLeft_eq, BitVec.toNat_setWidth, BitVec.toNat_ofNat]
  omega

/-! ### A write of the window (R275) -/

section write
variable {s : State} {c : Fin 17} {o : BitVec 8} (w : Word) (aligned : o.toNat % 4 = 0) (inside : o.toNat < 0xB4)
include aligned inside

theorem exec_dbgWinWrite : exec (.dbgWinWrite c o w) s = .next (windowWrite s c o.toNat w) := if_pos ⟨aligned, inside⟩

theorem exec_dbgWinWrite_off (h : s.dbgMode c ≠ 2) : exec (.dbgWinWrite c o w) s = .next (setDbgResult s c 1) :=
  (exec_dbgWinWrite w aligned inside).trans (congrArg Outcome.next (if_pos h))

variable (full : s.dbgMode c = 2)
include full

theorem exec_dbgWinWrite_refused (h : (s.thread (s.windowThread c)).state ≠ .halt) :
    exec (.dbgWinWrite c o w) s = .next (setDbgResult s c 2) :=
  (exec_dbgWinWrite w aligned inside).trans (congrArg Outcome.next ((if_neg (not_not.2 full)).trans (if_pos h)))

theorem exec_dbgWinWrite_halted (h : (s.thread (s.windowThread c)).state = .halt) : exec (.dbgWinWrite c o w) s =
    .next (s.setThread (s.windowThread c) (windowPut (s.thread (s.windowThread c)) o.toNat w)) :=
  (exec_dbgWinWrite w aligned inside).trans
    (congrArg Outcome.next ((if_neg (not_not.2 full)).trans (if_neg (not_not.2 h))))

end write

end Sys2Proof.Machine

open Sys2Proof Sys2Proof.Machine Host

theorem debugWindowWrites : Claim.DebugWindowWrites := by
  intro s c o w form t th write part aligned inside
  refine ⟨exec_dbgWinWrite_off w aligned inside, exec_dbgWinWrite_refused w aligned inside,
    fun full halt => ⟨_, exec_dbgWinWrite_halted w aligned inside full halt, fun r h => ?_, fun r h => ?_, fun r h => ?_, fun j small h => ?_,
      fun j small h => ?_, ?_, ?_, ?_, ?_, ?_, ?_, ?_⟩⟩
  · rw [h]
    exact windowPut_d th w r
  · rw [h, ← putSlice_low]
    exact windowPut_a th w r (h := 0) (by decide)
  · have fits : (th.areg r).toNat < 2 ^ 64 := (BitVec.isLt _).trans (by decide)
    rw [← putSlice_high fits, show o.toNat = 0x40 + 8 * r.toNat + 4 * 1 by omega]
    exact windowPut_a th w r (h := 1) (by decide)
  · rw [h]
    exact windowPut_acc0 th w small
  · rw [h]
    exact windowPut_acc1 th w small
  · rintro rfl
    exact congrArg (fun pc => { th with pc := pc, jumpFrom := none }) (BitVec.ofNat_toNat ..).symm
  · rintro rfl
    rfl
  · rintro rfl
    exact congrArg (fun e => { th with evpend := e }) (BitVec.ofNat_toNat ..).symm
  · rintro rfl
    exact congrArg (fun v => { th with tcmp := v }) (tcmp_low th.tcmp w)
  · rintro rfl
    exact congrArg (fun v => { th with tcmp := v }) (tcmp_high th.tcmp w)
  · rintro rfl
    rfl
  · rintro rfl
    exact congrArg (fun v => { th with wstat := v }) (BitVec.ofNat_toNat ..).symm

/-- Settles O28: requests by their checks, a kill by what the thread holds, the window by its offsets, a breakpoint by its mode. -/
theorem debugUnit : Obligations.DebugUnit :=
  ⟨debugRequestsAreChecked, debugRequestsAct, killEndsAThread, debugWindowWrites, breakpointsHaltTrapOrTrace⟩

end

section
/-! SUPPORT. The lock unit (R303–R314, R316): what each request answers, whom a grant goes to, and how an instruction brings its request
there. -/

namespace Sys2Proof.Machine

open Host

/-! ### What a signal to the Dealer leaves (R309) -/

section signal
variable (s : State) (holder : Nat)

theorem signalInh_cores : (signalInh s holder).cores = s.cores := by
  unfold signalInh; dsimp only; split <;> rfl

theorem signalInh_locks : (signalInh s holder).lck.locks = s.lck.locks := by
  unfold signalInh; dsimp only; split <;> rfl

theorem thread_signalInh (k : Nat) : (signalInh s holder).thread k = s.thread k := by rw [State.thread, signalInh_cores, State.thread]

end signal

/-! ### Instructions of the lock unit (R303, R315) -/

/-- R314: a requester all of whose unclaimed grants are kept gives none back. -/
theorem dropSemGrants_kept {s : State} {req : Nat} {keep : Option Nat} (h : ∀ g ∈ s.lck.unclaimed, g.1 = req → some g.2 = keep) :
    dropSemGrants s req keep = s := by
  have kept (g) (hg : g ∈ s.lck.unclaimed) : (g.1 == req && some g.2 != keep) = false := by
    rw [Bool.and_eq_false_imp, beq_iff_eq]
    intro own
    simp [h g hg own]
  have mine : s.lck.unclaimed.filter (fun g => g.1 == req && some g.2 != keep) = [] :=
    List.filter_eq_nil_iff.2 fun g hg => by simp [kept g hg]
  have rest : s.lck.unclaimed.filter (fun g => !(g.1 == req && some g.2 != keep)) = s.lck.unclaimed :=
    List.filter_eq_self.2 fun g hg => by simp [kept g hg]
  rw [dropSemGrants]
  dsimp only
  rw [mine, rest]
  rfl

theorem dropSemGrants_none {s : State} {req : Nat} (h : ∀ g ∈ s.lck.unclaimed, g.1 ≠ req) (keep : Option Nat) :
    dropSemGrants s req keep = s := dropSemGrants_kept fun g hg own => absurd own (h g hg)

theorem legalLock_iff (m : Nat) (f : RFields) : legalLock m f = true ↔ f.rs2 = 0 ∧ auxWithin f.aux m = true := by simp [legalLock]

section rows
variable {s u : State} {t : ThreadId} {f : RFields} {fn m : Nat} {req : State → Nat → Thread → RFields → State × LckAnswer}
  {wait : Thread → RFields → Wait} (ready : s.ready t) (fields : legalLock m f = true)

include ready fields

/-- R303: an answered request leaves its thread awaiting the status word. -/
theorem lockRow_done {st v : Nat} (answer : req s t (s.thread t) f = (u, .done st v)) {w : Word} (word : statusWord st v = w) :
    lockRow fn m req wait t f s = .next (u.awaiting t f.rd w) := by
  rw [lockRow, fields, issue_ready ready, answer, ← word]
  exact congrArg _ (settle_stay ready _ _)

/-- R303: a request that is queued leaves its thread waiting. -/
theorem lockRow_waits (answer : req s t (s.thread t) f = (u, .waits)) {w : Wait} (kind : wait (u.thread t) f = w) :
    lockRow fn m req wait t f s = .next (u.waiting t w) := by
  rw [lockRow, fields, issue_ready ready, answer, ← kind]
  exact congrArg _ (settle_stay ready _ _)

end rows

/-! ### The order of grants (R308) -/

/-- R308: the rank of a waiter: above every EP when it is trumped, and its EP otherwise, unless only age counts. -/
def State.grantRank (s : State) (fifo : Bool) (w : LckWaiter) : WithTop Nat :=
  if w.trumped then ⊤ else if fifo then 0 else (s.ep w.req : WithTop Nat)

theorem grantRank_trumped (s : State) (fifo : Bool) (w : LckWaiter) : s.grantRank fifo w = ⊤ ↔ w.trumped = true := by
  unfold State.grantRank
  split
  · next trumped => simp [trumped]
  · next free => split <;> simp [free]

theorem grantRank_ep {w : LckWaiter} (h : w.trumped = false) (s : State) : s.grantRank false w = (s.ep w.req : WithTop Nat) := by
  simp [State.grantRank, h]

theorem rankBefore_iff (s : State) (fifo : Bool) (a b : LckWaiter) :
    rankBefore s fifo a b = true ↔ s.grantRank fifo b < s.grantRank fifo a := by
  unfold rankBefore State.grantRank
  cases a.trumped <;> cases b.trumped <;> cases fifo <;> simp

/-- R308: the waiter chosen ranks highest, and is the oldest of its rank. -/
theorem chooseWaiter_highest (s : State) (fifo : Bool) : ∀ (ws : List LckWaiter) {w : LckWaiter}, chooseWaiter s fifo ws = some w →
    w ∈ ws ∧ (∀ x ∈ ws, s.grantRank fifo x ≤ s.grantRank fifo w) ∧
      ∀ a b, ws = a ++ w :: b → w ∉ a → ∀ x ∈ a, s.grantRank fifo x < s.grantRank fifo w
  | [], w, h => by cases h
  | y :: ys, w, h => by
    rw [chooseWaiter] at h
    cases rest : chooseWaiter s fifo ys with
    | none =>
      have last : ys = [] := by
        cases ys with
        | nil => rfl
        | cons z zs => rw [chooseWaiter] at rest; split at rest <;> cases rest
      rw [rest] at h
      cases h
      subst last
      refine ⟨by simp, by simp, fun a b split fresh => ?_⟩
      cases a with
      | nil => simp
      | cons z zs => simp at split
    | some v =>
      obtain ⟨mem, highest, oldest⟩ := chooseWaiter_highest s fifo ys rest
      rw [rest] at h
      dsimp only at h
      split at h
      · next later =>
        rw [rankBefore_iff] at later
        cases h
        refine ⟨by simp [mem], ?_, fun a b split fresh => ?_⟩
        · rintro x (_ | ⟨_, hx⟩)
          · exact later.le
          · exact highest x hx
        · cases a with
          | nil => simp
          | cons z zs =>
            obtain ⟨rfl, rest⟩ := List.cons.inj split
            rintro x (_ | ⟨_, hx⟩)
            · exact later
            · exact oldest zs b rest (fun h => fresh (.tail _ h)) x hx
      · next sooner =>
        rw [rankBefore_iff, not_lt] at sooner
        cases h
        refine ⟨by simp, ?_, fun a b split fresh => ?_⟩
        · rintro x (_ | ⟨_, hx⟩)
          · exact le_rfl
          · exact (highest x hx).trans sooner
        · cases a with
          | nil => simp
          | cons z zs => exact absurd (List.cons.inj split).1 fun e => fresh (e ▸ .head _)

/-! ### The requests (R303–R306, R310, R316) -/

section requests
variable {s : State} {req n : Nat} {l : LockSt}

theorem lockRequest_free (free : sfind s.lck.locks n = none) (wait : Bool) : lockRequest s req n wait =
    ((s.setLck { s.lck with locks := sins s.lck.locks n { holder := req, waiters := [] } }).count (lckBase + 0x900), .done 0 0) := by
  rw [lockRequest, free]
  rfl

theorem lockRequest_own (held : sfind s.lck.locks n = some l) (own : l.holder = req) (wait : Bool) :
    lockRequest s req n wait = (s, .done 0 1) := by
  rw [lockRequest, held]
  exact if_pos own

section other
variable (held : sfind s.lck.locks n = some l) (other : l.holder ≠ req)
include held other

theorem lockRequest_busy : lockRequest s req n false = (s, .done 3 0) := by
  rw [lockRequest, held]
  exact if_neg other

theorem lockRequest_cycle (cycle : closesCycle s req (s.lck.locks.length + 1) l.holder = true) :
    lockRequest s req n true = (s.count (lckBase + 0x90C), .done 2 0) := by
  rw [lockRequest, held]
  exact (if_neg other).trans (if_pos cycle)

theorem lockRequest_queued (free : closesCycle s req (s.lck.locks.length + 1) l.holder = false) : lockRequest s req n true =
    (signalInh ((s.setLck { s.lck with
      locks := sins s.lck.locks n { l with waiters := l.waiters ++ [{ req := req, since := s.now, trumped := false, wd := .none }] }
    }).count (lckBase + 0x904)) l.holder, .waits) := by
  rw [lockRequest, held]
  exact (if_neg other).trans (if_neg (Bool.eq_false_iff.1 free))

end other

theorem unlockRequest_refused (other : ∀ l, sfind s.lck.locks n = some l → l.holder ≠ req) :
    unlockRequest s req n = (s.count (lckBase + 0x918), .done 4 0) := by
  unfold unlockRequest
  split
  · rfl
  · next l held => exact if_neg (other l held)

theorem unlockRequest_own (held : sfind s.lck.locks n = some l) (own : l.holder = req) :
    unlockRequest s req n = (passLock s n l, .done 0 0) := by
  rw [unlockRequest, held]
  exact if_pos own

/-! ### A lock that loses its holder (R310, R321) -/

theorem passLock_free (alone : l.waiters = []) :
    passLock s n l = signalInh (s.setLck { s.lck with locks := sdel s.lck.locks n }) l.holder := by
  rw [passLock, alone, chooseWaiter]

theorem endLockWait_waiting {t : Nat} {rd : BitVec 4} (waits : (s.thread t).state = .wait) (kind : lockWaitRd (s.thread t) = some rd)
    (v : Word) : endLockWait s t v = s.resumed t rd v := by
  rw [endLockWait, kind]
  exact endWait_waiting waits rd v

theorem passLock_granted {w : LckWaiter} (chosen : chooseWaiter s false l.waiters = some w) (staying : w.wd ≠ .interrupt)
    (waits : (s.thread w.req).state = .wait) {rd : BitVec 4} (kind : lockWaitRd (s.thread w.req) = some rd) : passLock s n l =
      signalInh (signalInh (((s.setLck { s.lck with
        locks := sins s.lck.locks n { holder := w.req, waiters := dropWaiter w.req l.waiters } }).count lckGrant).resumed
          w.req rd 0) l.holder) w.req := by
  rw [passLock, chosen]
  dsimp only
  rw [if_neg staying, endLockWait_waiting (by exact waits) (by exact kind)]
  rfl

end requests

end Sys2Proof.Machine

open Sys2Proof Sys2Proof.Machine Host

theorem locksAreTakenOrWaitedFor : Claim.LocksAreTakenOrWaitedFor := by
  intro s t f ready rs2 aux unclaimed n
  have fields : legalLock 0 f = true := (legalLock_iff 0 f).2 ⟨rs2, (auxWithin_0 _).2 aux⟩
  have kept := dropSemGrants_none unclaimed none
  have lock {u st v} (h : lockRequest s t n true = (u, .done st v)) :
      exec (.lock t f) s = .next (u.awaiting t f.rd (statusWord st v)) := 
    show execLock t f s = _ from lockRow_done ready fields ((congrArg (lockRequest · t n true) kept).trans h) rfl
  have trylock {u st v} (h : lockRequest s t n false = (u, .done st v)) :
      exec (.trylock t f) s = .next (u.awaiting t f.rd (statusWord st v)) := 
    show execTrylock t f s = _ from lockRow_done ready fields ((congrArg (lockRequest · t n false) kept).trans h) rfl
  have both {u st v} (h : ∀ wait, lockRequest s t n wait = (u, .done st v)) : ∀ i ∈ [Instr.lock t f, .trylock t f],
      exec i s = .next (u.awaiting t f.rd (statusWord st v)) := by
    simpa using And.intro (lock (h true)) (trylock (h false))
  refine ⟨fun free => both (lockRequest_free free), fun l held own => both (lockRequest_own held own), fun l held other =>
    ⟨trylock (lockRequest_busy held other), fun cycle => lock (lockRequest_cycle held other cycle), fun free => ?_⟩⟩
  change execLock t f s = _
  refine lockRow_waits ready fields ((congrArg (lockRequest · t n true) kept).trans (lockRequest_queued held other free)) ?_
  rw [thread_signalInh]
  rfl

theorem unlockHandsOver : Claim.UnlockHandsOver := by
  intro s t f ready rs2 aux unclaimed n
  have fields : legalLock 0 f = true := (legalLock_iff 0 f).2 ⟨rs2, (auxWithin_0 _).2 aux⟩
  have unlock {u st v} (h : unlockRequest s t n = (u, .done st v)) :
      exec (.unlock t f) s = .next (u.awaiting t f.rd (statusWord st v)) :=
    show execUnlock t f s = _ from
      lockRow_done ready fields ((congrArg (unlockRequest · t n) (dropSemGrants_none unclaimed none)).trans h) rfl
  refine ⟨fun other => unlock (unlockRequest_refused other), fun l held own => ⟨fun alone => ?_, fun w chosen other staying waits rd wait => ?_⟩⟩
  · have freed := own ▸ passLock_free (s := s) (n := n) alone
    exact freed ▸ unlock (unlockRequest_own held own)
  · have passed := passLock_granted (n := n) chosen staying waits (show lockWaitRd (s.thread w.req) = some rd by rw [lockWaitRd, wait])
    refine ⟨_, unlock (unlockRequest_own held own), ?_, ?_, ?_⟩
    · rw [State.awaiting, thread_setThread_ne other, passed, thread_signalInh, thread_signalInh]
      exact thread_setThread_awaiting rfl _ _
    · rw [State.awaiting, thread_setThread_awaiting rfl, passed, thread_signalInh, thread_signalInh, State.resumed,
        thread_setThread_ne other.symm]
      rfl
    · rw [State.awaiting, State.setThread_lck, passed, signalInh_locks, signalInh_locks]
      rfl

theorem grantOrder : Claim.GrantOrder := by
  intro s ws w chosen
  obtain ⟨mem, highest, oldest⟩ := chooseWaiter_highest s false ws chosen
  refine ⟨mem, fun ⟨x, hx, trumped⟩ => ?_, fun free => ?_⟩
  · have top : s.grantRank false w = ⊤ := top_unique ((grantRank_trumped s false x).2 trumped ▸ highest x hx)
    refine ⟨(grantRank_trumped s false w).1 top, fun a b split fresh x hx => ?_⟩
    rw [Bool.eq_false_iff, Ne, ← grantRank_trumped s false x]
    exact (oldest a b split fresh x hx).ne_top
  · have rank (x) (hx : x ∈ ws) := grantRank_ep (free x hx) s
    refine ⟨fun x hx => ?_, fun a b split fresh x hx => ?_⟩
    · simpa [rank x hx, rank w mem] using highest x hx
    · simpa [rank x (split ▸ List.mem_append_left _ hx), rank w mem] using oldest a b split fresh x hx

theorem unclaimedGrantIsTaken : Claim.UnclaimedGrantIsTaken := by
  intro s t f ready rs2 aux n unclaimed
  have fields : legalLock 1 f = true := (legalLock_iff 1 f).2 ⟨rs2, (auxWithin_1 _).2 aux⟩
  have kept : dropSemGrants s t (some n) = s := dropSemGrants_kept (by simp [unclaimed])
  have taken (wait : Bool) : takeRequest s t n wait = (s.setLck { s.lck with unclaimed := [] }, .done 0 (s.sem n).count.toNat) := by
    simp [takeRequest, unclaimed]
  change execSemp t f s = _
  exact lockRow_done ready fields ((congrArg (takeRequest · t n (!f.aux.getLsbD 0)) kept).trans (taken _)) (statusWord_events _)

/-- Settles O31: each request by what it finds at the lock; the waiter chosen is the first of those of the highest rank. -/
theorem locksAreHeldAndHandedOver : Obligations.LocksAreHeldAndHandedOver :=
  ⟨locksAreTakenOrWaitedFor, unlockHandsOver, grantOrder, unclaimedGrantIsTaken⟩

end

section
/-! SUPPORT. Semaphores, trumped waiters, forced release and withdrawal (R303, R304, R306, R308, R309, R311–R314, R323): what each request
for units answers, and what the other commands of the lock unit leave. -/

namespace Sys2Proof.Machine

open Host

/-! ### Units of a semaphore (R303, R308) -/

/-- R303: the status word of a unit carries the count that is left. -/
theorem statusWord_value {v : Nat} (h : v < 65536) : statusWord 0 v = BitVec.ofNat 32 (v * 65536) := by
  rw [statusWord_half 0 h, Nat.zero_add]

section requests
variable {s : State} {req n : Nat}

section take
variable (fresh : (req, n) ∉ s.lck.unclaimed)
include fresh

theorem takeRequest_unit (units : (s.sem n).count ≠ 0) (wait : Bool) : takeRequest s req n wait =
    ((s.setSem n { s.sem n with count := (s.sem n).count - 1 }).count (lckBase + 0x900), .done 0 ((s.sem n).count.toNat - 1)) := by
  have one : 1 ≤ (s.sem n).count.toNat := Nat.one_le_iff_ne_zero.2 fun zero => units (BitVec.eq_of_toNat_eq zero)
  have left : ((s.sem n).count - 1).toNat = (s.sem n).count.toNat - 1 := BitVec.toNat_sub_of_le one
  rw [takeRequest, ← left]
  exact (if_neg (by simpa using fresh)).trans (if_pos units)

variable (none : (s.sem n).count = 0)
include none

theorem takeRequest_empty (wait : Bool) : takeRequest s req n wait = if !wait then (s, .done 3 0) else
    ((s.setSem n { s.sem n with
      waiters := (s.sem n).waiters ++ [{ req := req, since := s.now, trumped := false, wd := .none }] }).count (lckBase + 0x904), .waits) :=
  (if_neg (by simpa using fresh)).trans (if_neg (not_not.2 none))

end take

theorem giveRequest_granted {w : LckWaiter} (chosen : chooseWaiter s s.semFifo (s.sem n).waiters = some w) :
    giveRequest s n = (grantSem s n w, .done 0 (s.sem n).count.toNat) := by
  rw [giveRequest, chosen]

theorem giveRequest_unwaited (alone : (s.sem n).waiters = []) : giveRequest s n = if (s.sem n).count = 0xFFFF then (s, .done 5 0)
    else (s.setSem n { s.sem n with count := (s.sem n).count + 1 }, .done 0 ((s.sem n).count.toNat + 1)) := by
  have nobody : chooseWaiter s s.semFifo (s.sem n).waiters = none := by rw [alone]; rfl
  rw [giveRequest, nobody]

end requests

/-! ### LOCK_TRUMP (R308, R309) -/

theorem exec_lockTrump_sem (s : State) (n : BitVec 14) (req : BitVec 12) : exec (.lockTrump true n req) s =
    .next (if markTrumped s req.toNat (s.sem (n.toNat % 4096)).waiters = (s.sem (n.toNat % 4096)).waiters then s
      else (s.setSem (n.toNat % 4096) { s.sem (n.toNat % 4096) with
        waiters := markTrumped s req.toNat (s.sem (n.toNat % 4096)).waiters }).count (lckBase + 0x908)) := rfl

section lock
variable {s : State} {n : BitVec 14} (req : BitVec 12)

theorem exec_lockTrump_free (free : sfind s.lck.locks n.toNat = none) : exec (.lockTrump false n req) s = .next s := by
  change execLockTrump false n req s = _
  rw [execLockTrump, free]
  rfl

theorem exec_lockTrump_held {l : LockSt} (held : sfind s.lck.locks n.toNat = some l) : exec (.lockTrump false n req) s =
    .next (if markTrumped s req.toNat l.waiters = l.waiters then s
      else signalInh ((s.setLck { s.lck with
        locks := sins s.lck.locks n.toNat { l with waiters := markTrumped s req.toNat l.waiters } }).count (lckBase + 0x908)) l.holder) := by
  change execLockTrump false n req s = _
  rw [execLockTrump, held]
  rfl

end lock

/-! ### Forced release (R306, R311) -/

section force
variable {s : State} {n : Nat} (forcer : Nat)

theorem forceLock_free (free : sfind s.lck.locks n = none) :
    forceLock s forcer n = (s.setLck { s.lck with forceResult := 1 }, 1) := by
  rw [forceLock, free]

variable {l : LockSt} (held : sfind s.lck.locks n = some l)
include held

theorem forceLock_config (config : s.configClass n = true) : forceLock s forcer n = (s.setLck { s.lck with forceResult := 2 }, 2) := by
  rw [forceLock, held]
  exact if_pos config

/-- R311: the record of a forced release, its count and its event, in a state whose lock has been passed on. -/
def State.forced (passed : State) (e : FlogEntry) : State :=
  ((passed.setLck { passed.lck with
    flog := sput FlogEntry.empty passed.lck.flog passed.lck.flogIdx e
    flogIdx := (passed.lck.flogIdx + 1) % 8
    forceResult := 0 }).count (lckBase + 0x914)).logEvent 0x50 1 (evAt 0 e.lock ||| evAt 2 e.holder ||| evAt 4 e.forcer)

theorem forceLock_data (data : s.configClass n = false) : forceLock s forcer n =
    ((passLock s n l).forced { time := s.now, lock := n, forcer := forcer, holder := l.holder }, 0) := by
  rw [forceLock, held]
  exact if_neg (Bool.eq_false_iff.1 data)

end force

section command
variable {p : Path} (n : BitVec 14) (s : State)

theorem exec_lckForce (writes : Path.writes p = true) : exec (.lckForce p n) s = .next (forceLock s (Path.requester p) n.toNat).1 :=
  congrArg Outcome.next (if_pos writes)

theorem exec_lckForce_ignored (reads : Path.writes p = false) : exec (.lckForce p n) s = .next s :=
  congrArg Outcome.next (if_neg (Bool.eq_false_iff.1 reads))

end command

/-! ### Withdrawal (R313, R314) -/

/-- R313: what a withdrawal that reaches the lock unit leaves. -/
def lockWithdrawn (s : State) (t : Nat) : Withdrawal → State
  | .none => s
  | .timeout => ((endLockWait (removeRequests s t) t 1).count (lckBase + 0x910)).count (thrBase (clusterOf t) + 0x300C)
  | .deadlock | .interrupt => removeRequests s t

theorem exec_lockWithdraw {s : State} {t : ThreadId} {kind : Withdrawal} (h : s.lckWithdrawal t = kind) :
    exec (.lockWithdraw t) s = .next (lockWithdrawn s t kind) := by
  change execLockWithdraw t s = _
  rw [execLockWithdraw, h]
  cases kind <;> rfl

theorem removeRequests_locks (s : State) (req : Nat) : (removeRequests s req).lck.locks =
    s.lck.locks.map fun e => (e.1, { e.2 with waiters := dropWaiter req e.2.waiters }) := by
  unfold removeRequests
  dsimp only
  split
  · rfl
  · rw [signalInh_locks]
    rfl

/-! ### LCK_SEM_INITn (R323) -/

theorem sem_setSem {s : State} (form : swf SemSt.empty s.lck.sems = true) (k j : Nat) (v : SemSt) :
    (s.setSem k v).sem j = if j = k then v else s.sem j := sget_sput form k j v

theorem setSem_form {s : State} (form : swf SemSt.empty s.lck.sems = true) (k : Nat) (v : SemSt) :
    swf SemSt.empty (s.setSem k v).lck.sems = true := sput_wf form k v

/-- R323: semaphores for which nobody waits take their counts. -/
theorem semInit_unwaited {s : State} {n : Nat} (form : swf SemSt.empty s.lck.sems = true) (even : (s.sem (2 * n)).waiters = [])
    (odd : (s.sem (2 * n + 1)).waiters = []) (value : Word) : semInit s n value =
      ((s.setReg (lckBase + 0x1000 + 4 * n) value).setSem (2 * n) { s.sem (2 * n) with count := value.setWidth 16 }).setSem (2 * n + 1)
        { s.sem (2 * n + 1) with count := value.extractLsb' 16 16 } := by
  have even' : ((s.setReg (lckBase + 0x1000 + 4 * n) value).sem (2 * n)) = s.sem (2 * n) := rfl
  have odd' (v : SemSt) : ((s.setReg (lckBase + 0x1000 + 4 * n) value).setSem (2 * n) v).sem (2 * n + 1) = s.sem (2 * n + 1) :=
    (sem_setSem form ..).trans (if_neg (by omega))
  simp only [semInit, even', even, List.length_nil, grantSems, odd', odd]

end Sys2Proof.Machine

open Sys2Proof Sys2Proof.Machine Host

theorem semaphoresTakeAndGive : Claim.SemaphoresTakeAndGive := by
  intro s t f ready rs2 unclaimed n v put
  have fresh : (t.val, n) ∉ s.lck.unclaimed := fun mem => unclaimed _ mem rfl
  have kept (keep) := dropSemGrants_none unclaimed keep
  have semp (aux : f.aux.toNat < 2) {u st v w} (h : takeRequest s t n (!f.aux.getLsbD 0) = (u, .done st v)) (word : statusWord st v = w) :
      exec (.semp t f) s = .next (u.awaiting t f.rd w) :=
    show execSemp t f s = _ from lockRow_done ready ((legalLock_iff 1 f).2 ⟨rs2, (auxWithin_1 _).2 aux⟩)
      ((congrArg (takeRequest · t n (!f.aux.getLsbD 0)) (kept (some n))).trans h) word
  have semv (aux : f.aux = 0) {u st v w} (h : giveRequest s n = (u, .done st v)) (word : statusWord st v = w) :
      exec (.semv t f) s = .next (u.awaiting t f.rd w) :=
    show execSemv t f s = _ from lockRow_done ready ((legalLock_iff 0 f).2 ⟨rs2, (auxWithin_0 _).2 aux⟩)
      ((congrArg (giveRequest · n) (kept none)).trans h) word
  refine ⟨fun aux units => semp aux (takeRequest_unit fresh units _) (statusWord_value (by omega)), fun aux none => ?_, fun aux none => ?_,
    fun aux alone => ⟨fun full => ?_, fun room => ?_⟩, fun aux w chosen => ?_⟩
  · exact semp (by simp [aux]) ((takeRequest_empty fresh none _).trans (if_pos (by simp [aux]))) rfl
  · change execSemp t f s = _
    refine lockRow_waits ready ((legalLock_iff 1 f).2 ⟨rs2, (auxWithin_1 _).2 (by simp [aux])⟩) ?_ rfl
    exact (congrArg (takeRequest · t n (!f.aux.getLsbD 0)) (kept (some n))).trans
      ((takeRequest_empty fresh none _).trans (if_neg (by simp [aux])))
  · exact semv aux ((giveRequest_unwaited alone).trans (if_pos full)) rfl
  · have below : v.count.toNat ≠ 65535 := fun full => room (BitVec.eq_of_toNat_eq full)
    have fits : v.count.toNat + 1 < 65536 := by have := v.count.isLt; omega
    exact semv aux ((giveRequest_unwaited alone).trans (if_neg room)) (statusWord_value fits)
  · exact semv aux (giveRequest_granted chosen) (statusWord_value v.count.isLt)

theorem agedWaitersAreTrumped : Claim.AgedWaitersAreTrumped := by
  intro s n req aged
  refine ⟨fun l held older => ?_, fun l held same => ?_, exec_lockTrump_free req, fun older => ?_, fun derived => ?_⟩
  · exact (exec_lockTrump_held req held).trans (congrArg _ (if_neg older))
  · exact (exec_lockTrump_held req held).trans (congrArg _ (if_pos same))
  · exact (exec_lockTrump_sem s n req).trans (congrArg _ (if_neg older))
  · rw [State.lockTrumpAge, State.expert, derived]
    rfl

theorem forcedReleaseAndWithdrawal : Claim.ForcedReleaseAndWithdrawal := by
  intro s p n t cls
  refine ⟨fun writes => ?_, exec_lckForce_ignored n s, fun h => exec_lockWithdraw h, fun h => ?_, fun h => exec_lockWithdraw h,
    fun l mem w hw => ?_⟩
  · have force {u : State × Nat} (h : forceLock s (Path.requester p) n.toNat = u) : exec (.lckForce p n) s = .next u.1 :=
      (exec_lckForce n s writes).trans (congrArg (Outcome.next ·.1) h)
    exact ⟨fun free => force (forceLock_free _ free), fun l held config => force (forceLock_config _ held config),
      fun l held data => force (forceLock_data _ held data)⟩
  · rcases h with h | h <;> exact exec_lockWithdraw h
  · rw [removeRequests_locks, List.mem_map] at mem
    obtain ⟨e, -, entry⟩ := mem
    obtain rfl : _ = l := congrArg Prod.snd entry
    simpa using (List.mem_filter.1 hw).2

theorem semaphoreInitSetsCounts : Claim.SemaphoreInitSetsCounts := by
  intro s p n value ⟨_, regs, _⟩ form writes even odd
  have high : value.extractLsb' 16 16 = BitVec.ofNat 16 (value.toNat / 2 ^ 16) := by
    rw [BitVec.extractLsb', Nat.shiftRight_eq_div_pow]
  have run : exec (.semInitWrite p n value) s = .next (semInit s n.toNat value) := congrArg Outcome.next (if_pos writes)
  rw [semInit_unwaited form even odd] at run
  have form' := setSem_form form (2 * n.toNat) { s.sem (2 * n.toNat) with count := value.setWidth 16 }
  have sems (k) := sem_setSem form' (2 * n.toNat + 1) k { s.sem (2 * n.toNat + 1) with count := value.extractLsb' 16 16 }
  have sem (k) := sem_setSem form (2 * n.toNat) k { s.sem (2 * n.toNat) with count := value.setWidth 16 }
  refine ⟨_, run, ?_, ?_, ?_, fun k other other' => ?_, rfl⟩
  · exact (reg_setReg regs ..).trans (if_pos rfl)
  · exact (sems _).trans ((if_neg (by omega)).trans ((sem _).trans (if_pos rfl)))
  · exact (sems _).trans ((if_pos rfl).trans (by rw [high]))
  · exact (sems _).trans ((if_neg other').trans ((sem _).trans (if_neg other)))

/-- Settles O32: each request by the units it finds; each other command by the waiters it marks, passes over or takes out. -/
theorem semaphoresAndWithdrawal : Obligations.SemaphoresAndWithdrawal :=
  ⟨semaphoresTakeAndGive, agedWaitersAreTrumped, forcedReleaseAndWithdrawal, semaphoreInitSetsCounts⟩

end

section
/-! SUPPORT. Atomic instructions (R317–R320): where one leaves its core, what it writes when it returns, and the bytes of a word in its
memory. -/

namespace Sys2Proof.Machine

open Host

/-! ### Numbers in a memory -/

theorem leBytes_getD {n j : Nat} (h : j < n) (v : Nat) : (leBytes n v).getD j 0 = BitVec.ofNat 8 (v / 256 ^ j) := by
  induction n generalizing j v with
  | zero => omega
  | succ n ih =>
    cases j with
    | zero => simp [leBytes]
    | succ j =>
      rw [leBytes, List.getD_cons_succ, ih (by omega), Nat.div_div_eq_div_mul, Nat.pow_succ']

theorem readLE_byte (m : SMap Byte) (a : Nat) : readLE m a 1 = (sget 0 m a).toNat := by simp [readLE, readBytes, leNat]

/-- The position of byte `b` among the `n` bytes from `a` up. -/
def bytePos (a n b : Nat) : Option Nat := if a ≤ b ∧ b < a + n then some (b - a) else none

/-- The bytes of a number that is stored, and every other byte. -/
theorem readLE_writeLE {m : SMap Byte} (form : swf 0 m = true) (a n v b : Nat) : readLE (writeLE m a n v) b 1 =
    match bytePos a n b with
    | some j => v / 256 ^ j % 256
    | none => readLE m b 1 := by
  rw [readLE_byte, readLE_byte, writeLE, sget_writeBytes _ a b form, length_leBytes, bytePos]
  split
  · next inside => rw [leBytes_getD (by omega), BitVec.toNat_ofNat]
  · rfl

/-- R209: storing at a place of shared or packet SRAM changes its bytes alone. -/
theorem stores_writePlace {s : State} (form : s.wf) {place : Place} {off : Nat} (sram : place = .shared off ∨ place = .pkt off)
    (n v : Nat) : Stores s (writePlace s place n v) place n v := by
  obtain ⟨mems, -⟩ := form
  simp only [Memory.wf, Bool.and_eq_true] at mems
  obtain ⟨⟨⟨⟨⟨⟨⟨-, -⟩, shared⟩, -⟩, pkt⟩, -⟩, -⟩, -⟩ := mems
  rcases sram with rfl | rfl
  · refine ⟨rfl, rfl, fun q => ?_⟩
    cases q with
    | shared b => exact readLE_writeLE shared off n v b
    | _ => rfl
  · refine ⟨rfl, rfl, fun q => ?_⟩
    cases q with
    | pkt b => exact readLE_writeLE pkt off n v b
    | _ => rfl

/-! ### The instructions (R317–R319) -/

/-- R317, R318: the atomics, each with its operation and whether its AUX bits are legal. -/
def atomicRows (th : Thread) (t : ThreadId) (f : RFields) : List (Instr × AtomicOp × Bool) :=
  [(.aaddw t f, .add, decide (f.aux = 0)), (.aswpw t f, .swap, decide (f.aux = 0)),
    (.acasw t f, .cas (th.dreg (f.aux.setWidth 4)), decide (f.aux.toNat < 16)), (.aandw t f, .and, decide (f.aux = 0)),
    (.aorw t f, .or, decide (f.aux = 0))]

section issue
variable {s : State} {t : ThreadId} {f : RFields}

/-- R206, R318: what an atomic of a ready thread comes to, by the place of its address. -/
def atomicBody (s : State) (t : ThreadId) (rd : BitVec 4) (op : AtomicOp) (operand : Word) (ea : Addr) : Result :=
  match checkAccess s t ea 4 true true true with
  | .inr code => .raise code ea
  | .inl place =>
    if atomicPlace place then .stay (s.setThread t { s.thread t with outstanding := some (.atomic rd op operand ea) })
    else .raise codeAccess ea

theorem atomicRow_ready (ready : s.ready t) (base : isA f.rs1 = true) {legal : RFields → Bool} (fields : legal f = true) (fn : Nat)
    (op : Thread → RFields → AtomicOp) : atomicRow fn legal op t f s = .next (settle s t (s.thread t).pc
      (atomicBody s t f.rd (op (s.thread t) f) ((s.thread t).dreg f.rs2) ((s.thread t).areg (aOf f.rs1)))) := by
  rw [atomicRow, base, fields, Bool.and_true, issue_ready ready]
  rfl

theorem exec_atomic (ready : s.ready t) (base : isA f.rs1 = true) {x : Instr × AtomicOp × Bool} (h : x ∈ atomicRows (s.thread t) t f)
    (legal : x.2.2 = true) : exec x.1 s = .next (settle s t (s.thread t).pc
      (atomicBody s t f.rd x.2.1 ((s.thread t).dreg f.rs2) ((s.thread t).areg (aOf f.rs1)))) := by
  simp only [atomicRows, List.mem_cons, List.not_mem_nil, or_false] at h
  rcases h with rfl | rfl | rfl | rfl | rfl
  · exact atomicRow_ready ready base (legal := fun f => f.aux == 0) (by simpa using legal) 0x05 fun _ _ => .add
  · exact atomicRow_ready ready base (legal := fun f => f.aux == 0) (by simpa using legal) 0x06 fun _ _ => .swap
  · exact atomicRow_ready ready base (legal := fun f => auxWithin f.aux 0xF) (by simpa using legal) 0x07
      fun th f => .cas (th.dreg (f.aux.setWidth 4))
  · exact atomicRow_ready ready base (legal := fun f => f.aux == 0) (by simpa using legal) 0x08 fun _ _ => .and
  · exact atomicRow_ready ready base (legal := fun f => f.aux == 0) (by simpa using legal) 0x09 fun _ _ => .or

end issue

/-! ### The return (R319, R320) -/

section returns
variable {s : State} {t : ThreadId}

/-- R319: the SRAM after an atomic has written its word, with the count. -/
def State.atomicDone (s : State) (place : Place) (v : Word) : State := (writePlace s place 4 v.toNat).count (lckBase + 0x91C)

theorem exec_atomicReturn {rd : BitVec 4} {op : AtomicOp} {operand : Word} {ea : Addr} {place : Place}
    (out : (s.thread t).outstanding = some (.atomic rd op operand ea)) (at' : placeAt t ea = some place)
    (window : ∀ off, place ≠ .window off) (hbm : ∀ off, place ≠ .hbm off) (ecc : Bool) : exec (.loadDataReturn t ecc) s =
      .next (if ecc then failReturn s t ea
        else finishReturn (s.atomicDone place (atomicValue op (BitVec.ofNat 32 (readPlace s place 4)) operand)) t fun th =>
          th.setD rd (BitVec.ofNat 32 (readPlace s place 4))) := by
  change execLoadDataReturn t ecc s = _
  simp only [execLoadDataReturn, out, returnTo, at', fetchPlace_memory window hbm]
  rfl

/-- What thread `t` awaited has come, and it moves on. -/
theorem finishReturn_eq {g : Thread → Thread} {v : Thread}
    (value : { g { s.thread t with outstanding := none } with pc := (s.thread t).pc + 4, jumpFrom := none } = v)
    (run : v.state = .run) (step : v.stepArmed = false) (halt : v.haltReq = false) : finishReturn s t g = s.setThread t v := by
  have stored : (s.setThread t v).thread t = v := thread_setThread_self (by simp [run]) s t
  simp only [finishReturn, State.modThread, value, stored, halt, Bool.false_eq_true, if_false]
  exact endStep_no (by rw [stored, step])

end returns

end Sys2Proof.Machine

open Sys2Proof Sys2Proof.Machine Host

theorem atomicsLeaveTheCore : Claim.AtomicsLeaveTheCore := by
  intro s t f ready base th ea check x hx legal
  have run := exec_atomic ready ((isA_iff _).2 base) hx legal
  have raises {code} (h : atomicBody s t f.rd x.2.1 (th.dreg f.rs2) ea = .raise code ea) : Raises x.1 s t code ea :=
    run.trans ((congrArg (fun r => Outcome.next (settle s t th.pc r)) h).trans (congrArg _ (settle_raise ready _ _ _)))
  have body {place} (h : check = .inl place) : atomicBody s t f.rd x.2.1 (th.dreg f.rs2) ea =
      if atomicPlace place then .stay (s.setThread t { th with outstanding := some (.atomic f.rd x.2.1 (th.dreg f.rs2) ea) })
      else .raise codeAccess ea := by
    rw [atomicBody, show checkAccess s t ea 4 true true true = .inl place from h]
  refine ⟨fun code h => raises ?_, fun off h => raises ?_, fun off h => ?_⟩
  · rw [atomicBody, show checkAccess s t ea 4 true true true = .inr code from h]
  · rcases h with h | h | h <;> exact body h
  · have stays : atomicBody s t f.rd x.2.1 (th.dreg f.rs2) ea =
        .stay (s.setThread t { th with outstanding := some (.atomic f.rd x.2.1 (th.dreg f.rs2) ea) }) := by
      rcases h with h | h | h <;> exact body h
    exact ⟨_, run.trans ((congrArg (fun r => Outcome.next (settle s t th.pc r)) stays).trans (congrArg _ (settle_stay ready _ _))),
      thread_setThread_awaiting rfl _ _, OnlyThread.setThread ready.form ready.run⟩

theorem atomicsReturnTheOldValue : Claim.AtomicsReturnTheOldValue := by
  intro s t rd op operand ea off place th form run step halt out at' sram old new
  have window (off') : place ≠ .window off' := by rcases sram with rfl | rfl <;> exact Place.noConfusion
  have hbm (off') : place ≠ .hbm off' := by rcases sram with rfl | rfl <;> exact Place.noConfusion
  have ⟨_, _, _, formed⟩ := form
  have returns := exec_atomicReturn out at' window hbm
  have value : atomicValue op old operand = new := by cases op <;> rfl
  refine ⟨?_, (returns true).trans (congrArg _ (failReturn_eq run step halt ea))⟩
  have run' := returns false
  rw [value] at run'
  have frame : ({ s with mems := (s.atomicDone place new).mems, counters := (s.count (lckBase + 0x91C)).counters } : State) =
      s.atomicDone place new := by rcases sram with rfl | rfl <;> rfl
  have same : (s.atomicDone place new).cores = s.cores := by rw [← frame]
  have there : (s.atomicDone place new).thread t = th := by rw [State.thread, same]; rfl
  have cores : Cores.wf (s.atomicDone place new).cores = true := by rw [same]; exact formed
  have moved := finishReturn_eq (s := s.atomicDone place new) (t := t) (g := fun th => th.setD rd old)
    (v := { th.setD rd old with outstanding := none, pc := th.pc + 4, jumpFrom := none }) (by rw [there, setD_outstanding])
    ((Thread.setD_state ..).trans run) ((Thread.setD_stepArmed ..).trans step) ((setD_haltReq ..).trans halt)
  refine ⟨_, run'.trans (congrArg _ moved), thread_setThread_self (by simp [run]) _ _, stores_writePlace form sram 4 new.toNat, ?_, ?_⟩
  · rw [State.setThread_counters, ← frame]
  · refine Eq.mp (congrArg (OnlyThread · _ t) ?_) (OnlyThread.setThread cores ((Thread.setD_state ..).trans run))
    rw [State.setThread_counters, State.setThread_mems, ← frame]

/-- Settles O33: an atomic by the place of its address, its return by the bytes of the word that it writes. -/
theorem atomicOperations : Obligations.AtomicOperations := ⟨atomicsLeaveTheCore, atomicsReturnTheOldValue⟩

end

section
/-! SUPPORT. The fused coprocessor (R289–R294): an enabled function writes registers of its thread, and what the values of the hashes, the
masked compare, gather and scatter are bit by bit. -/

namespace Sys2Proof.Machine

open Host

/-! ### A function that is present and enabled (R296, R297) -/

section rows
variable {i : Instr} {s : State} {t : ThreadId} {w : Word} {legal : Bool} {cxf group : Nat}

theorem retires_cx {g : Thread → Thread} {v : Thread} (ready : s.ready t) (present : s.cxReady t cxf group) (check : legal = true)
    (row : exec i s = .next (issue s t w legal true fun th =>
      if cxAbsent s.variant cxf then .raise codeCxAbsent (w.setWidth 48)
      else if !cxEnabled s t cxf then .raise codeCxDenied (w.setWidth 48)
      else Result.regs s t (g th)))
    (unit : cxGroup cxf = group) (value : g (s.thread t) = v) (state : v.state = (s.thread t).state)
    (step : v.stepArmed = (s.thread t).stepArmed) : Retires i s t v := by
  obtain ⟨here, enabled⟩ := present
  have on : cxEnabled s t cxf = true := by rw [cxEnabled, unit, enabled]
  exact retires_permitted ready row check rfl (by simp [here, on, value, Result.regs]) state step

theorem retires_cx_setD {rd : BitVec 4} {g : Thread → Word} {v : Word} (ready : s.ready t) (present : s.cxReady t cxf group)
    (check : legal = true) (row : exec i s = .next (issue s t w legal true fun th =>
      if cxAbsent s.variant cxf then .raise codeCxAbsent (w.setWidth 48)
      else if !cxEnabled s t cxf then .raise codeCxDenied (w.setWidth 48)
      else Result.regs s t (th.setD rd (g th))))
    (unit : cxGroup cxf = group) (value : g (s.thread t) = v) : Retires i s t ((s.thread t).setD rd v) :=
  retires_cx ready present check row unit (by rw [value]) (Thread.setD_state ..) (Thread.setD_stepArmed ..)

end rows

/-! ### Pairs and quads (R289) -/

/-- R291: a count of 1 to 4 bytes. -/
theorem legalCount_of {f : XFields} (low : 1 ≤ f.cxc.toNat) (high : f.cxc.toNat ≤ 4) : legalCount f = true := by
  simp [legalCount, low, high]

theorem isPair_of {r : BitVec 4} (h : r.toNat % 2 = 0 ∧ r ≠ 0) : isPair r = true := by simpa [isPair] using h

theorem isQuad_of {r : BitVec 4} (h : r = 4 ∨ r = 8 ∨ r = 12) : isQuad r = true := by
  rcases h with rfl | rfl | rfl <;> rfl

theorem pair_eq (th : Thread) (r : BitVec 4) : th.pair r = th.dreg (r + 1) ++ th.dreg r := by
  rw [Thread.pair, Thread.dAt, Thread.dAt, BitVec.ofNat_eq_ofNat, BitVec.add_zero]

/-- Values written to D registers, in their order. -/
def Thread.setAll (th : Thread) (l : List (BitVec 4 × Word)) : Thread := l.foldl (fun x e => x.setD e.1 e.2) th

section setAll
variable (th : Thread) (l : List (BitVec 4 × Word))

theorem setAll_cons (e : BitVec 4 × Word) : th.setAll (e :: l) = (th.setD e.1 e.2).setAll l := rfl

theorem setAll_d : th.setAll l = { th with d := (th.setAll l).d } := by
  induction l generalizing th with
  | nil => rfl
  | cons e l ih =>
    rw [setAll_cons, ih]
    unfold Thread.setD
    split <;> rfl

theorem setAll_state : (th.setAll l).state = th.state := by rw [setAll_d]

theorem setAll_stepArmed : (th.setAll l).stepArmed = th.stepArmed := by rw [setAll_d]

variable {th l}

theorem setD_form (form : swf 0 th.d = true) (r : BitVec 4) (v : Word) : swf 0 (th.setD r v).d = true := by
  unfold Thread.setD
  split
  · exact form
  · exact sput_wf form _ _

theorem dreg_setD (form : swf 0 th.d = true) {r : BitVec 4} (nonzero : r ≠ 0) (v : Word) (k : BitVec 4) :
    (th.setD r v).dreg k = if k = r then v else th.dreg k := by
  by_cases zero : k = 0
  · subst zero
    rw [if_neg nonzero.symm]
    rfl
  · rw [Thread.dreg, if_neg zero, Thread.setD, if_neg nonzero, Thread.dreg, if_neg zero]
    simp only [BitVec.toNat_eq (x := k) (y := r)]
    exact sget_sput form _ _ _

theorem dreg_setAll_other (form : swf 0 th.d = true) (nonzero : 0 ∉ l.map Prod.fst) {k : BitVec 4} (other : k ∉ l.map Prod.fst) :
    (th.setAll l).dreg k = th.dreg k := by
  induction l generalizing th with
  | nil => rfl
  | cons e l ih =>
    simp only [List.map_cons, List.mem_cons, not_or] at nonzero other
    rw [setAll_cons, ih (setD_form form ..) nonzero.2 other.2, dreg_setD form (Ne.symm nonzero.1), if_neg other.1]

/-- Distinct registers hold what was written to them. -/
theorem dreg_setAll (form : swf 0 th.d = true) (nonzero : 0 ∉ l.map Prod.fst) (distinct : (l.map Prod.fst).Nodup) {e : BitVec 4 × Word}
    (mem : e ∈ l) : (th.setAll l).dreg e.1 = e.2 := by
  induction l generalizing th with
  | nil => cases mem
  | cons x l ih =>
    simp only [List.map_cons, List.mem_cons, not_or, List.nodup_cons] at nonzero distinct
    rw [setAll_cons]
    rcases List.mem_cons.1 mem with rfl | mem
    · rw [dreg_setAll_other (setD_form form ..) nonzero.2 distinct.1, dreg_setD form (Ne.symm nonzero.1), if_pos rfl]
    · exact ih (setD_form form ..) nonzero.2 distinct.2 mem

end setAll

theorem setQuad_state (th : Thread) (r : BitVec 4) (bs : List Byte) : (th.setQuad r bs).state = th.state :=
  setAll_state th ((List.range 4).map fun j => (r + BitVec.ofNat 4 j, BitVec.ofNat 32 (leNat ((bs.drop (4 * j)).take 4))))

theorem setQuad_stepArmed (th : Thread) (r : BitVec 4) (bs : List Byte) : (th.setQuad r bs).stepArmed = th.stepArmed :=
  setAll_stepArmed th ((List.range 4).map fun j => (r + BitVec.ofNat 4 j, BitVec.ofNat 32 (leNat ((bs.drop (4 * j)).take 4))))

/-- R289: byte `4j + k` of a quad is byte `k` of its register `j`. -/
theorem quad_getD (th : Thread) (r : BitVec 4) {b : Nat} (h : b < 16) :
    (th.quad r).getD b 0 = (th.dreg (r + BitVec.ofNat 4 (b / 4))).extractLsb' (8 * (b % 4)) 8 := by
  have there : (List.range 4)[b / 4]? = some (b / 4) := by rw [List.getElem?_range (by omega)]
  have word : ((th.quad r).drop (4 * (b / 4))).take 4 = leBytes 4 (th.dAt r (b / 4)).toNat := word_of_bytes (th.dAt r) there
  have place : (th.quad r).getD b 0 = (((th.quad r).drop (4 * (b / 4))).take 4).getD (b % 4) 0 := by
    rw [List.getD_eq_getElem?_getD, List.getD_eq_getElem?_getD, List.getElem?_take_of_lt (by omega), List.getElem?_drop,
      Nat.div_add_mod]
  rw [place, word, leBytes_getD (by omega), BitVec.extractLsb', Nat.shiftRight_eq_div_pow, Nat.pow_mul]
  rfl

/-! ### The Toeplitz step (R292) -/

theorem keySlice_getLsbD (key : BitVec 64) {i j : Nat} (hi : i < 32) (hj : j < 32) :
    (keySlice key i).getLsbD j = (key.setWidth 32 ++ key.extractLsb' 32 32 : BitVec 64).getLsbD (32 - i + j) := by
  have at' : 32 + j - i = 32 - i + j := by omega
  simp only [keySlice, BitVec.getLsbD_extractLsb', BitVec.getLsbD_shiftLeft, hj, decide_true, Bool.true_and, at',
    decide_eq_true (show 32 + j < 64 by omega), decide_eq_false (show ¬32 + j < i by omega), Bool.not_false]

theorem toeplitz_getLsbD (w : Word) (key : BitVec 64) {j : Nat} (hj : j < 32) : (toeplitz w key).getLsbD j =
    (List.range 32).foldl (fun x i => x ^^ (w.getLsbD (31 - i) &&
      (key.setWidth 32 ++ key.extractLsb' 32 32 : BitVec 64).getLsbD (32 - i + j))) false := by
  have each (l : List Nat) (small : ∀ i ∈ l, i < 32) (acc : Word) :
      (l.foldl (fun acc i => if bitAt w (31 - i) then acc ^^^ keySlice key i else acc) acc).getLsbD j =
        l.foldl (fun x i => x ^^ (w.getLsbD (31 - i) &&
          (key.setWidth 32 ++ key.extractLsb' 32 32 : BitVec 64).getLsbD (32 - i + j))) (acc.getLsbD j) := by
    induction l generalizing acc with
    | nil => rfl
    | cons i l ih =>
      have bit : (if bitAt w (31 - i) then acc ^^^ keySlice key i else acc).getLsbD j = (acc.getLsbD j ^^ (w.getLsbD (31 - i) &&
          (key.setWidth 32 ++ key.extractLsb' 32 32 : BitVec 64).getLsbD (32 - i + j))) := by
        rw [← keySlice_getLsbD key (small i (.head _)) hj, show w.getLsbD (31 - i) = bitAt w (31 - i) from rfl]
        cases bitAt w (31 - i) <;> simp
      rw [List.foldl_cons, List.foldl_cons, ih (fun k hk => small k (.tail _ hk)), bit]
  have zero : (0 : Word).getLsbD j = false := by simp
  exact (each _ (fun i hi => List.mem_range.1 hi) 0).trans (by rw [zero])

/-! ### The masked compare (R294) -/

/-- R294: byte `k` of the two blocks differs under the mask. -/
def missAt (a b m : List Byte) (k : Nat) : Bool := a.getD k 0 &&& m.getD k 0 != b.getD k 0 &&& m.getD k 0

theorem bitAt_maskedCompare (a b m : List Byte) : (∀ k, k < 16 → bitAt (maskedCompare a b m) (16 + k) = missAt a b m k) ∧
    (bitAt (maskedCompare a b m) 0 = true ↔ ∀ k, k < 16 → missAt a b m k = false) ∧
    ∀ i, 1 ≤ i → i < 16 → bitAt (maskedCompare a b m) i = false := by
  obtain ⟨-, bits⟩ := testBit_foldl_bits (missAt a b m) 16
  have built : maskedCompare a b m = BitVec.ofNat 32 (((List.range 16).foldl (fun acc i => acc + b2n (missAt a b m i) * 2 ^ i) 0) * 65536 +
    b2n (((List.range 16).foldl (fun acc i => acc + b2n (missAt a b m i) * 2 ^ i) 0) == 0)) := rfl
  generalize (List.range 16).foldl (fun acc i => acc + b2n (missAt a b m i) * 2 ^ i) 0 = miss at bits built
  have flag : b2n (miss == 0) < 2 ^ 16 := by cases miss == 0 <;> decide
  have bit {i : Nat} (h : i < 32) : bitAt (maskedCompare a b m) i =
      if i < 16 then (b2n (miss == 0)).testBit i else miss.testBit (i - 16) := by
    rw [built, bitAt_ofNat h, Nat.mul_comm, show 65536 = 2 ^ 16 from rfl, Nat.testBit_two_pow_mul_add _ flag]
  refine ⟨fun k hk => ?_, ?_, fun i low high => ?_⟩
  · rw [bit (by omega), if_neg (by omega), Nat.add_sub_cancel_left, bits, decide_eq_true hk, Bool.true_and]
  · have none : miss = 0 ↔ ∀ k, k < 16 → missAt a b m k = false := by
      refine ⟨fun zero k hk => ?_, fun all => Nat.eq_of_testBit_eq fun k => ?_⟩
      · have := bits k
        rwa [zero, Nat.zero_testBit, decide_eq_true hk, Bool.true_and, eq_comm] at this
      · rw [bits, Nat.zero_testBit]
        by_cases hk : k < 16
        · rw [all k hk, Bool.and_false]
        · rw [decide_eq_false hk, Bool.false_and]
    rw [bit (by decide), if_pos (by decide), ← none]
    by_cases zero : miss = 0 <;> simp [zero, b2n]
  · rw [bit (by omega), if_pos high]
    exact Nat.testBit_lt_two_pow ((show b2n (miss == 0) < 2 by cases miss == 0 <;> decide).trans_le (Nat.le_self_pow (by omega) 2))

/-! ### Gather and scatter (R290) -/

/-- A bit set below the bits of a number. -/
theorem testBit_b2n_add {n i : Nat} (h : 2 ^ (i + 1) ∣ n) (b : Bool) (j : Nat) :
    (b2n b * 2 ^ i + n).testBit j = if j = i then b else n.testBit j := by
  obtain ⟨q, rfl⟩ := h
  have low : b2n b * 2 ^ i < 2 ^ (i + 1) := by
    rw [Nat.pow_succ']
    have : 0 < 2 ^ i := Nat.two_pow_pos i
    cases b <;> simp [b2n]
  have bit : (b2n b * 2 ^ i).testBit j = (decide (j = i) && b) := by
    cases b
    · simp [b2n]
    · simp [b2n, Nat.testBit_two_pow, eq_comm]
  rw [Nat.add_comm, Nat.testBit_two_pow_mul_add _ low, bit, Nat.testBit_two_pow_mul]
  rcases Nat.lt_trichotomy j i with lt | rfl | gt
  · simp [show j < i + 1 by omega, show ¬i + 1 ≤ j by omega, lt.ne]
  · simp
  · simp [show ¬j < i + 1 by omega, show i + 1 ≤ j by omega, gt.ne']

/-- The 1 positions of `m` among the `n` positions from `i` up. -/
def onesFrom (m : Word) (i n : Nat) : Nat := (List.range' i n).countP fun k => bitAt m k

theorem onesFrom_succ (m : Word) (i n : Nat) : onesFrom m i (n + 1) = b2n (bitAt m i) + onesFrom m (i + 1) n := by
  rw [onesFrom, List.range'_succ, List.countP_cons, Nat.add_comm]
  rfl

section gather
variable (v m : Word)

theorem gather_dvd (n i k : Nat) : 2 ^ k ∣ gather n v m i k := by
  induction n generalizing i k with
  | zero => exact Nat.dvd_zero _
  | succ n ih =>
    unfold gather
    split
    · exact (Nat.dvd_mul_left _ _).add ((Nat.pow_dvd_pow 2 (Nat.le_succ k)).trans (ih ..))
    · exact ih ..

theorem testBit_gather {n i k y : Nat} (h : y < n) (one : bitAt m (i + y) = true) :
    (gather n v m i k).testBit (k + onesFrom m i y) = bitAt v (i + y) := by
  induction n generalizing i k y with
  | zero => omega
  | succ n ih =>
    unfold gather
    cases y with
    | zero =>
      rw [Nat.add_zero] at one ⊢
      rw [if_pos one, testBit_b2n_add (gather_dvd ..)]
      exact if_pos rfl
    | succ y =>
      have next : i + (y + 1) = i + 1 + y := by omega
      rw [next] at one ⊢
      rw [onesFrom_succ]
      cases first : bitAt m i with
      | true =>
        rw [if_pos rfl, testBit_b2n_add (gather_dvd ..), if_neg (by simp [b2n]), ← ih (k := k + 1) (by omega) one]
        simp [b2n, Nat.add_assoc]
      | false => simpa [b2n] using ih (k := k) (by omega) one

theorem testBit_gather_above {n i k p : Nat} (h : k + onesFrom m i n ≤ p) : (gather n v m i k).testBit p = false := by
  induction n generalizing i k with
  | zero => exact Nat.zero_testBit p
  | succ n ih =>
    rw [onesFrom_succ] at h
    unfold gather
    cases first : bitAt m i with
    | true =>
      simp only [first, b2n, if_true] at h
      rw [if_pos rfl, testBit_b2n_add (gather_dvd ..), if_neg (by omega)]
      exact ih (by omega)
    | false =>
      simp only [first, b2n, Bool.false_eq_true, if_false] at h
      exact ih (by omega)

theorem scatter_dvd (n i k : Nat) : 2 ^ i ∣ scatter n v m i k := by
  induction n generalizing i k with
  | zero => exact Nat.dvd_zero _
  | succ n ih =>
    have rest (k) : 2 ^ i ∣ scatter n v m (i + 1) k := (Nat.pow_dvd_pow 2 (Nat.le_succ i)).trans (ih ..)
    unfold scatter
    split
    · exact (Nat.dvd_mul_left _ _).add (rest _)
    · exact rest _

theorem testBit_scatter {n i k y : Nat} (h : y < n) :
    (scatter n v m i k).testBit (i + y) = (bitAt m (i + y) && bitAt v (k + onesFrom m i y)) := by
  induction n generalizing i k y with
  | zero => omega
  | succ n ih =>
    unfold scatter
    cases y with
    | zero =>
      cases first : bitAt m i with
      | true =>
        rw [if_pos rfl, testBit_b2n_add (scatter_dvd ..)]
        simp [onesFrom]
      | false =>
        obtain ⟨q, eq⟩ := scatter_dvd v m n (i + 1) k
        rw [if_neg Bool.false_ne_true, eq, Nat.testBit_two_pow_mul]
        simp
    | succ y =>
      have next : i + (y + 1) = i + 1 + y := by omega
      rw [next, onesFrom_succ]
      cases first : bitAt m i with
      | true =>
        rw [if_pos rfl, testBit_b2n_add (scatter_dvd ..), if_neg (by omega), ih (by omega)]
        simp [b2n, Nat.add_assoc]
      | false => simpa [b2n] using ih (k := k) (by omega)

end gather

/-! ### The values of the functions -/

/-- R292: the lesser and the greater of two words, as SYMH orders them. -/
theorem symhOrder (a b : Word) : (if b.ult a then b else a).toNat = min a.toNat b.toNat ∧
    (if b.ult a then a else b).toNat = max a.toNat b.toNat := by
  rcases Nat.lt_or_ge b.toNat a.toNat with lt | ge
  · simp only [BitVec.ult, decide_eq_true lt, if_true]
    exact ⟨(Nat.min_eq_right lt.le).symm, (Nat.max_eq_left lt.le).symm⟩
  · simp only [BitVec.ult, decide_eq_false ge.not_gt, Bool.false_eq_true, if_false]
    exact ⟨(Nat.min_eq_left ge).symm, (Nat.max_eq_right ge).symm⟩

/-- The four registers of a quad. -/
def quadRegs (r : BitVec 4) : List (BitVec 4) := (List.range 4).map fun k => r + BitVec.ofNat 4 k

/-- R289: two quads share no register, and neither holds D0. -/
theorem quadRegs_apart {p q : BitVec 4} (hp : p = 4 ∨ p = 8 ∨ p = 12) (hq : q = 4 ∨ q = 8 ∨ q = 12) (ne : p ≠ q) :
    0 ∉ quadRegs p ++ quadRegs q ∧ (quadRegs p ++ quadRegs q).Nodup ∧
      ∀ r : BitVec 4, r.toNat / 4 ≠ p.toNat / 4 → r.toNat / 4 ≠ q.toNat / 4 → r ∉ quadRegs p ++ quadRegs q := by
  rcases hp with rfl | rfl | rfl <;> rcases hq with rfl | rfl | rfl <;> revert ne <;> decide

/-- What SHA256R writes to its two quads. -/
def shaWrites (p q : BitVec 4) (v : Sha) : List (BitVec 4 × Word) :=
  (quadRegs p ++ quadRegs q).zip [v.a, v.b, v.c, v.d, v.e, v.f, v.g, v.h]

end Sys2Proof.Machine

open Sys2Proof Sys2Proof.Machine Host

theorem cxChecksAndHashes : Claim.CxChecksAndHashes := by
  intro s t f ready th n a b pair
  refine ⟨fun cx low high => ?_, fun cx low high rd rs1 => ?_, fun cx cxc rs1 => ?_, fun cx cxc => ?_⟩
  · exact retires_cx_setD ready cx (legalCount_of low high) rfl rfl rfl
  · refine retires_cx ready cx (by simp [legalCount_of low high, isPair_of rd, rs1]) rfl rfl ?_
      (setAll_state th [(f.rd, _), (f.rd + 1, _)]) (setAll_stepArmed th [(f.rd, _), (f.rd + 1, _)])
    exact congrArg (fun p => th.setPair f.rd (crc64 p (leBytes n b.toNat))) (pair_eq ..)
  · have key : (th.pair f.rs1).setWidth 32 ++ (th.pair f.rs1).extractLsb' 32 32 = th.dreg f.rs1 ++ th.dreg (f.rs1 + 1) := by
      rw [pair_eq, BitVec.setWidth_append_eq_right, BitVec.extractLsb'_append_eq_left]
    refine ⟨th.dreg f.rd ^^^ toeplitz b (th.pair f.rs1), ?_, fun j hj => ?_⟩
    · exact retires_cx_setD ready cx (by simp [cxc, isPair_of rs1]) rfl rfl rfl
    · rw [BitVec.getLsbD_xor, toeplitz_getLsbD _ _ hj, key]
  · obtain ⟨least, greatest⟩ := symhOrder a b
    rw [← least, ← greatest]
    exact retires_cx_setD ready cx (by simp [cxc]) rfl rfl rfl

theorem cxCiphersAndDigests : Claim.CxCiphersAndDigests := by
  intro s t f ready th quad last
  refine ⟨fun rd rs1 rs2 cxc => ?_, fun cx rd rs1 rs2 cxc => ?_, fun cx cxc => ?_, fun cx rd rs1 ne even nonzero cxc apart apart' => ?_⟩
  · have fields : legalAes f = true := by simp [legalAes, isQuad_of rd, isQuad_of rs1, rs2, cxc]
    exact ⟨fun cx => retires_cx ready cx fields rfl rfl rfl (setQuad_state ..) (setQuad_stepArmed ..),
      fun cx => retires_cx ready cx fields rfl rfl rfl (setQuad_state ..) (setQuad_stepArmed ..)⟩
  · exact retires_cx ready cx (by simp [isQuad_of rd, isQuad_of rs1, isQuad_of rs2, cxc]) rfl rfl rfl (setQuad_state ..)
      (setQuad_stepArmed ..)
  · exact retires_cx_setD ready cx (by simpa using cxc) rfl rfl rfl
  · let v := shaRound (shaRound ⟨th.dAt f.rd 0, th.dAt f.rd 1, th.dAt f.rd 2, th.dAt f.rd 3, th.dAt f.rs1 0, th.dAt f.rs1 1,
      th.dAt f.rs1 2, th.dAt f.rs1 3⟩ (th.dAt f.rs2 0)) (th.dAt f.rs2 1)
    have keys : (shaWrites f.rd f.rs1 v).map Prod.fst = quadRegs f.rd ++ quadRegs f.rs1 := rfl
    obtain ⟨zero, distinct, others⟩ := quadRegs_apart rd rs1 ne
    rw [← keys] at zero distinct others
    refine ⟨th.setAll (shaWrites f.rd f.rs1 v), ?_, setAll_d .., fun form => ⟨?_, fun r hr hr' => ?_⟩⟩
    · exact retires_cx ready cx (by simp [isQuad_of rd, isQuad_of rs1, isPair_of ⟨even, nonzero⟩, cxc, ne, pairOutside, apart, apart'])
        rfl rfl rfl (setAll_state ..) (setAll_stepArmed ..)
    · exact List.map_congr_left (l := shaWrites f.rd f.rs1 v) fun e mem => dreg_setAll form zero distinct mem
    · exact dreg_setAll_other form zero (others r hr hr')

theorem cxCompareGatherScatter : Claim.CxCompareGatherScatter := by
  intro s t f ready th quad a m below
  have small (i : Nat) : below i ≤ i := (List.countP_le_length).trans (List.length_range ..).le
  have ones (i : Nat) : 0 + onesFrom m 0 i = below i := by rw [Nat.zero_add, onesFrom, ← List.range_eq_range']
  refine ⟨fun cx rs1 rs2 cxc => ⟨maskedCompare (th.quad f.rs1) (th.quad f.rs2) (th.quad (f.cxc.setWidth 4)), ?_, ?_⟩,
    fun cx cxc => ⟨BitVec.ofNat 32 (gather 32 a m 0 0), ?_, fun i hi one => ?_, fun i low high => ?_⟩,
    fun cx cxc => ⟨BitVec.ofNat 32 (scatter 32 a m 0 0), ?_, fun i hi => ?_⟩⟩
  · exact retires_cx_setD ready cx (by rcases cxc with h | h | h <;> simp [isQuad_of rs1, isQuad_of rs2, h, Quads]) rfl rfl rfl
  · intro byte miss
    obtain ⟨each, none, rest⟩ := bitAt_maskedCompare (th.quad f.rs1) (th.quad f.rs2) (th.quad (f.cxc.setWidth 4))
    have missed {k : Nat} (hk : k < 16) : missAt (th.quad f.rs1) (th.quad f.rs2) (th.quad (f.cxc.setWidth 4)) k = true ↔ miss k := by
      rw [missAt, quad_getD _ _ hk, quad_getD _ _ hk, quad_getD _ _ hk, bne_iff_ne]
    refine ⟨fun k hk => by rw [each k hk, missed hk], none.trans (forall₂_congr fun k hk => ?_), rest⟩
    rw [← missed hk, Bool.not_eq_true]
  · exact retires_cx_setD ready cx (by simp [cxc]) rfl rfl rfl
  · have moved := testBit_gather a m (k := 0) hi (show bitAt m (0 + i) = true by rwa [Nat.zero_add])
    rwa [ones, Nat.zero_add, ← bitAt_ofNat ((small i).trans_lt hi)] at moved
  · rw [bitAt_ofNat high]
    exact testBit_gather_above _ _ ((ones 32).trans_le low)
  · exact retires_cx_setD ready cx (by simp [cxc]) rfl rfl rfl
  · have moved := testBit_scatter a m (i := 0) (k := 0) hi
    rwa [ones, Nat.zero_add, ← bitAt_ofNat hi] at moved

/-- Settles O29: the values of the hashes, of the compare and of the moved bits bit by bit, the rounds as the registers they write. -/
theorem cxFunctions : Obligations.CxFunctions := ⟨cxChecksAndHashes, cxCiphersAndDigests, cxCompareGatherScatter⟩

end

section
/-! SUPPORT. Commands for locks, the ring, profiles, Negatives, events and the device (R303, R311, R315, R433, R531, R532, R536, R538): the
row of each command, and the operations that the commands share. -/

namespace Sys2Proof.Machine

open Host

/-! ### Rows (R538) -/

section rows
variable {s t : State} {p : CmdPort} {d : Desc} {r : CmdResult}

theorem answers_lockAcquire (h : s.accepts p d 0x0300) (e : lockAcquire s p d = (t, some r)) : Answers (.lockAcquire p d) s p d t r :=
  commandRow_answers h (by rw [commandBody, h.opcode]; rfl) e

theorem answers_lockRelease (h : s.accepts p d 0x0301) (e : lockRelease s p d = (t, some r)) : Answers (.lockRelease p d) s p d t r :=
  commandRow_answers h (by rw [commandBody, h.opcode]; rfl) e

theorem answers_semTake (h : s.accepts p d 0x0302) (e : semTake s p d = (t, some r)) : Answers (.semTake p d) s p d t r :=
  commandRow_answers h (by rw [commandBody, h.opcode]; rfl) e

theorem answers_lockForce (h : s.accepts p d 0x0303) (e : lockForce s p d = (t, some r)) : Answers (.lockForce p d) s p d t r :=
  commandRow_answers h (by rw [commandBody, h.opcode]; rfl) e

theorem answers_ringOp (h : s.accepts p d 0x0400) (e : ringOp s d = (t, some r)) : Answers (.ringOp p d) s p d t r :=
  commandRow_answers h (by rw [commandBody, h.opcode]; rfl) e

theorem answers_profileSwitch {flashOk : Bool} (h : s.accepts p d 0x0500) (e : profileSwitch s d flashOk = (t, some r)) :
    Answers (.profileSwitch p d flashOk) s p d t r :=
  commandRow_answers h (by rw [commandBody, h.opcode]; rfl) e

theorem answers_profileCancel (h : s.accepts p d 0x0501) (e : profileCancel s = (t, some r)) : Answers (.profileCancel p d) s p d t r :=
  commandRow_answers h (by rw [commandBody, h.opcode]; rfl) e

theorem answers_profileStatus (h : s.accepts p d 0x0502) (e : profileStatus s = (t, some r)) : Answers (.profileStatus p d) s p d t r :=
  commandRow_answers h (by rw [commandBody, h.opcode]; rfl) e

theorem answers_negativeRead (h : s.accepts p d 0x0510) (e : negativeRead s p d = (t, some r)) : Answers (.negativeRead p d) s p d t r :=
  commandRow_answers h (by rw [commandBody, h.opcode]; rfl) e

theorem answers_negativeClear (h : s.accepts p d 0x0511) (e : negativeClear s d = (t, some r)) : Answers (.negativeClear p d) s p d t r :=
  commandRow_answers h (by rw [commandBody, h.opcode]; rfl) e

theorem answers_eventRingSet (h : s.accepts p d 0x0520) (e : eventRingSet s (fnOf p) d = (t, some r)) :
    Answers (.eventRingSet p d) s p d t r :=
  commandRow_answers h (by rw [commandBody, h.opcode]; rfl) e

theorem answers_eventRead (h : s.accepts p d 0x0521) (e : eventRead s p d = (t, some r)) : Answers (.eventRead p d) s p d t r :=
  commandRow_answers h (by rw [commandBody, h.opcode]; rfl) e

theorem answers_debugMode (h : s.accepts p d 0x0540) (e : debugMode s d = (t, some r)) : Answers (.debugMode p d) s p d t r :=
  commandRow_answers h (by rw [commandBody, h.opcode]; rfl) e

theorem answers_threadReset (h : s.accepts p d 0x0541) (e : threadReset s d = (t, some r)) : Answers (.threadReset p d) s p d t r :=
  commandRow_answers h (by rw [commandBody, h.opcode]; rfl) e

theorem answers_traysReclaim (h : s.accepts p d 0x0550) (e : traysReclaim s d = (t, some r)) : Answers (.traysReclaim p d) s p d t r :=
  commandRow_answers h (by rw [commandBody, h.opcode]; rfl) e

theorem answers_taiSet (h : s.accepts p d 0x0560) (e : taiSet s d = (t, some r)) : Answers (.taiSet p d) s p d t r :=
  commandRow_answers h (by rw [commandBody, h.opcode]; rfl) e

theorem answers_regRead (h : s.accepts p d 0x0570) (e : regReadCmd s p d = (t, some r)) : Answers (.regRead p d) s p d t r :=
  commandRow_answers h (by rw [commandBody, h.opcode]; rfl) e

theorem answers_regWrite (h : s.accepts p d 0x0571) (e : regWriteCmd s d = (t, some r)) : Answers (.regWrite p d) s p d t r :=
  commandRow_answers h (by rw [commandBody, h.opcode]; rfl) e

theorem answers_deviceReset (h : s.accepts p d 0x0580) (e : deviceReset s d = (t, some r)) : Answers (.deviceReset p d) s p d t r :=
  commandRow_answers h (by rw [commandBody, h.opcode]; rfl) e

theorem answers_identify (h : s.accepts p d 0x0581) (e : identify s = (t, some r)) : Answers (.identify p d) s p d t r :=
  commandRow_answers h (by rw [commandBody, h.opcode]; rfl) e

end rows

/-! ### Ports (R535, R536, R587) -/

/-- R538: a command that the board and the PFs alone may issue. -/
theorem CmdRule.host_or_board {r : CmdRule} {a : Authority} (permitted : r.permits a = true) (tenant : r.tenant = false)
    (fabric : r.fabric = false) : a = .host ∨ a = .board := by
  cases a with
  | host => exact .inl rfl
  | board => exact .inr rfl
  | tenant => exact absurd (tenant.symm.trans permitted) Bool.false_ne_true
  | fabric => exact absurd (fabric.symm.trans permitted) Bool.false_ne_true

section ports
variable {p : CmdPort}

section host
variable (host : authorityOf p = .host)
include host

theorem overLimit_host (n : Nat) : overLimit p n = false := by
  cases p with
  | ring fn r idx sol => rfl
  | board tag | fabric node seq => simp [authorityOf] at host

/-- R536: on a ring the data go to host memory. -/
theorem returnData_host (s : State) (d : Desc) (bs : List Byte) (r : CmdResult) :
    returnData s p d bs r = (s.setMems { s.mems with host := writeBytes s.mems.host (wideOf d) bs }, r) := by
  cases p with
  | ring fn r idx sol => rfl
  | board tag | fabric node seq => simp [authorityOf] at host

end host

section board
variable (board : authorityOf p = .board)
include board

theorem overLimit_board (n : Nat) : overLimit p n = decide (1024 < n) := by
  cases p with
  | board tag => rfl
  | ring fn r idx sol =>
    rw [authorityOf] at board
    split at board <;> cases board
  | fabric node seq => cases board

/-- R536: on the board port the data follow the completion. -/
theorem returnData_board (s : State) (d : Desc) (bs : List Byte) (r : CmdResult) : returnData s p d bs r = (s, { r with data := bs }) := by
  cases p with
  | board tag => rfl
  | ring fn r idx sol =>
    rw [authorityOf] at board
    split at board <;> cases board
  | fabric node seq => cases board

end board

theorem pathOfPort_eq (p : CmdPort) : pathOfPort p = if authorityOf p = .fabric then .fabric else .board := by
  cases p with
  | ring fn r idx sol =>
    rw [authorityOf]
    split <;> rfl
  | board tag | fabric node seq => rfl

end ports

/-! ### The operations of RING_CMD (R433) -/

section ring
variable (s : State) (dim : Nat)

theorem splice_result : (splice s dim).2 < 3 := by
  cases st : (s.die dim).st with
  | join | leave | play => simp [splice, st]
  | pass => by_cases may : s.maySplice dim = true <;> simp [splice, st, may]

theorem leaveRing_result : (leaveRing s dim).2 < 3 := by
  cases st : (s.die dim).st <;> simp [leaveRing, st]

theorem passRing_result : (passRing s dim).2 < 3 := by
  cases st : (s.die dim).st <;> simp [passRing, st]

theorem ringCommand_result (op : Nat) : (ringCommand s op).2 < 3 := by
  unfold ringCommand
  split
  · exact splice_result ..
  · exact splice_result ..
  · exact leaveRing_result ..
  · exact leaveRing_result ..
  · exact passRing_result ..
  · exact passRing_result ..

end ring

/-! ### Profiles (R528, R531, R538) -/

section profile
variable {s : State} {n : Nat}

theorem acceptImage_refused {r : Refused} (refused : imageRefusal s (s.flashImage n) = some r) :
    acceptImage s n true = (refuseImage s n r, .error r.status) := by
  rw [acceptImage, if_pos rfl, refused]

theorem acceptImage_accepted (accepted : imageRefusal s (s.flashImage n) = none) :
    acceptImage s n true = (writeAccepted s (s.flashImage n), .ok (s.flashImage n)) := by
  rw [acceptImage, if_pos rfl, accepted]

theorem bits_setWidth (w : Word) : BitVec.ofNat 2 (bits w 1 0) = w.setWidth 2 := by
  refine BitVec.eq_of_toNat_eq ?_
  simp [bits]

section switch
variable {d : Desc} (live : s.dev = .idle ∨ s.dev = .run)
include live

theorem profileSwitch_busy (pending : s.mgt.switch ≠ none) (flashOk : Bool) : profileSwitch s d flashOk = fails s stBusy :=
  (if_neg fun ⟨idle, run⟩ => live.elim idle run).trans (if_pos (Option.isSome_iff_ne_none.2 pending))

variable (free : s.mgt.switch = none)
include free

theorem profileSwitch_refused {r : Refused} (refused : imageRefusal s (s.flashImage (bits d.w2 1 0)) = some r) :
    profileSwitch s d true = fails (refuseImage s (bits d.w2 1 0) r) r.status := by
  rw [profileSwitch, if_neg fun ⟨idle, run⟩ => live.elim idle run, free, Option.isSome_none, if_neg Bool.false_ne_true,
    acceptImage_refused refused]

variable {img : List Byte} {t : State} (image : s.flashImage (bits d.w2 1 0) = img) (accepted : imageRefusal s img = none)
  (written : writeAccepted s img = t)
include image accepted written

/-- R531: T is compared once the image has been accepted. -/
theorem profileSwitch_accepted : profileSwitch s d true = if wideOf d ≤ t.nowN + usFtu 100 then fails t stLateTime
    else succeeds (t.setMgt { t.mgt with switch := some { profile := BitVec.ofNat 2 (bits d.w2 1 0), time := timeOf d, image := img } }) 0 := by
  subst image written
  rw [profileSwitch, if_neg fun ⟨idle, run⟩ => live.elim idle run, free, Option.isSome_none, if_neg Bool.false_ne_true,
    acceptImage_accepted accepted, bits_setWidth]

theorem profileSwitch_late (late : wideOf d ≤ t.nowN + usFtu 100) : profileSwitch s d true = fails t stLateTime :=
  (profileSwitch_accepted live free image accepted written).trans (if_pos late)

theorem profileSwitch_pending (early : t.nowN + usFtu 100 < wideOf d) : profileSwitch s d true =
    succeeds (t.setMgt { t.mgt with switch := some { profile := BitVec.ofNat 2 (bits d.w2 1 0), time := timeOf d, image := img } }) 0 :=
  (profileSwitch_accepted live free image accepted written).trans (if_neg (Nat.not_le.2 early))

end switch

/-- R538: RESULT0 of PROFILE_STATUS. -/
def profileWord (active pending shown state : Nat) : Word := at' active 0 ||| at' pending 2 ||| at' shown 4 ||| at' state 5

theorem profileWord_fields {a b c e : Nat} (ha : a < 4) (hb : b < 4) (hc : c < 2) (he : e < 16) : bits (profileWord a b c e) 1 0 = a ∧
    bits (profileWord a b c e) 3 2 = b ∧ bits (profileWord a b c e) 4 4 = c ∧ bits (profileWord a b c e) 8 5 = e := by
  simp only [profileWord, bits_or]
  refine ⟨?_, ?_, ?_, ?_⟩
  · rw [bits_at' (by decide) ha, bits_at'_above (p := 2) (by decide) (by decide), bits_at'_above (p := 4) (by decide) (by decide),
      bits_at'_above (p := 5) (by decide) (by decide)]
    simp
  · rw [bits_at'_below (v := a) (by decide) ha, bits_at' (by decide) hb, bits_at'_above (p := 4) (by decide) (by decide),
      bits_at'_above (p := 5) (by decide) (by decide)]
    simp
  · rw [bits_at'_below (v := a) (by decide) (ha.trans (by decide)), bits_at'_below (v := b) (by decide) hb, bits_at' (by decide) hc,
      bits_at'_above (p := 5) (by decide) (by decide)]
    simp
  · rw [bits_at'_below (v := a) (by decide) (ha.trans (by decide)), bits_at'_below (v := b) (by decide) (hb.trans (by decide)),
      bits_at'_below (v := c) (by decide) hc, bits_at' (by decide) he]
    simp

theorem bitAt_bits (w : Word) (i : Nat) : bitAt w i = (bits w i i).testBit 0 := by
  rw [testBit_bits, decide_eq_true (by omega), Bool.true_and, Nat.add_zero]

theorem DevState.code_lt (x : DevState) : x.code < 16 := by cases x <;> decide

end profile

end Sys2Proof.Machine

open Sys2Proof Sys2Proof.Machine Host

theorem lockCommands : Claim.LockCommands := by
  intro s p d q n m x
  refine ⟨fun h => ⟨fun free => ?_, fun l held own => ?_, fun l held other => ?_⟩,
    fun h => ⟨fun other => ?_, fun l held own alone => ?_⟩, fun h fresh => ⟨fun units => ?_, fun empty => ?_⟩,
    fun h => ⟨fun free => ?_, fun l held config => ?_, fun l held data alone => ?_⟩⟩
  · exact answers_lockAcquire h (congrArg (lockOutcome false) (lockRequest_free free false))
  · exact answers_lockAcquire h (congrArg (lockOutcome false) (lockRequest_own held own false))
  · exact answers_lockAcquire h (congrArg (lockOutcome false) (lockRequest_busy held other))
  · exact answers_lockRelease h (congrArg (lockOutcome false) (unlockRequest_refused other))
  · rw [← own, ← passLock_free alone]
    exact answers_lockRelease h (congrArg (lockOutcome false) (unlockRequest_own held own))
  · exact answers_semTake h (congrArg (lockOutcome true) (takeRequest_unit fresh units false))
  · exact answers_semTake h (congrArg (lockOutcome true) (takeRequest_empty fresh empty false))
  · exact answers_lockForce h (congrArg (fun x : State × Nat => succeeds x.1 x.2) (forceLock_free q free))
  · exact answers_lockForce h (congrArg (fun x : State × Nat => succeeds x.1 x.2) (forceLock_config q held config))
  · rw [← passLock_free alone]
    exact answers_lockForce h (congrArg (fun x : State × Nat => succeeds x.1 x.2) (forceLock_data q held data))

theorem ringOpCommand : Claim.RingOpCommand := by
  intro s p d h op t r done
  refine ⟨fun absent => answers_ringOp h (if_pos (by simp [absent])),
    fun present reserved => answers_ringOp h ((if_neg (by simp [present])).trans (if_pos reserved)), fun present low high => ?_⟩
  have run : ringOp s d = if r = 0 then succeeds done 0 else fails done (if r = 1 then stBadState else stBusy) :=
    (if_neg (by simp [present])).trans (if_neg (show ¬(op = 0 ∨ 7 ≤ op) by omega))
  refine ⟨ringCommand_result s op, answers_ringOp h (run.trans ?_)⟩
  split <;> rfl

theorem profileCommands : Claim.ProfileCommands := by
  intro s p d flashOk switch n img
  refine ⟨fun h => ⟨fun idle run => answers_profileSwitch h (if_pos ⟨idle, run⟩), fun live => ⟨fun pending => ?_, fun free => ⟨?_, ?_⟩⟩⟩,
    fun h => ⟨fun free => ?_, fun x pending => ?_⟩, fun h => ?_⟩
  · exact answers_profileSwitch h (profileSwitch_busy live pending flashOk)
  · rintro r rfl refused
    exact answers_profileSwitch h (profileSwitch_refused live free refused)
  · rintro rfl accepted t
    exact ⟨fun late => answers_profileSwitch h (profileSwitch_late live free rfl accepted rfl late),
      fun early => answers_profileSwitch h (profileSwitch_pending live free rfl accepted rfl early)⟩
  · exact answers_profileCancel h (by rw [profileCancel, free]; rfl)
  · exact answers_profileCancel h (by rw [profileCancel, pending]; rfl)
  · have pending : (s.switchShown.map fun x => x.profile.toNat).getD 0 < 4 := by
      cases s.switchShown with
      | none => decide
      | some x => exact x.profile.isLt
    have shown : b2n s.switchShown.isSome < 2 := by cases s.switchShown.isSome <;> decide
    obtain ⟨active, profile, flag, state⟩ := profileWord_fields s.mgt.active.isLt pending shown s.dev.code_lt
    refine ⟨_, answers_profileStatus h rfl, active, fun x some => profile.trans ?_, ?_, state⟩
    · rw [some]
      rfl
    · refine (bitAt_bits _ 4).trans ((congrArg (Nat.testBit · 0) flag).trans ?_)
      cases s.switchShown.isSome <;> rfl

theorem negativeCommands : Claim.NegativeCommands := by
  intro s p d c off n bs onRing bad
  have stack : s.variant.hasStack c = true → ¬(!s.variant.hasStack c) = true := fun present => by simp [present]
  have lost : s.variant.hasStack c = false → (!s.variant.hasStack c) = true := fun absent => by simp [absent]
  refine ⟨fun h => ?_, fun h => ⟨fun absent => ?_, fun present busy => ?_, fun present free => ?_⟩⟩
  · have who : authorityOf p = .host ∨ authorityOf p = .board := CmdRule.host_or_board (h.permitted rfl) rfl rfl
    have limit : overLimit p n = true ↔ ¬onRing ∧ 1024 < n := by
      rcases who with host | board
      · simp [overLimit_host host, onRing, host]
      · simp [overLimit_board board, onRing, board]
    have refused : (off % 64 ≠ 0 ∨ n % 64 ≠ 0 ∨ 65536 < off + n ∨ overLimit p n = true) ↔ bad := by rw [limit]
    have run (present : s.variant.hasStack c = true) (sound : ¬bad) :
        negativeRead s p d = ((returnData s p d bs (.value d.w6)).1, some (returnData s p d bs (.value d.w6)).2) :=
      (if_neg (stack present)).trans (if_neg (sound ∘ refused.1))
    refine ⟨fun absent => answers_negativeRead h (if_pos (lost absent)), fun present wrong => ?_, fun present sound host => ?_,
      fun present sound other => ?_⟩
    · exact answers_negativeRead h ((if_neg (stack present)).trans (if_pos (refused.2 wrong)))
    · exact answers_negativeRead h ((run present sound).trans (by rw [returnData_host host]; rfl))
    · exact answers_negativeRead h ((run present sound).trans (by rw [returnData_board (who.resolve_left other)]))
  · exact answers_negativeClear h (if_pos (lost absent))
  · exact answers_negativeClear h ((if_neg (stack present)).trans (if_pos busy))
  · have erasable : ¬(s.hbmCtl c).negBusy.isSome = true := by simp [free]
    exact answers_negativeClear h ((if_neg (stack present)).trans (if_neg erasable))

theorem eventCommands : Claim.EventCommands := by
  intro s p d n rs bs result rings
  have run (sound : ¬(n = 0 ∨ 256 < n ∨ overLimit p (32 * n) = true)) :
      eventRead s p d = ((returnData s p d bs result).1, some (returnData s p d bs result).2) := if_neg sound
  refine ⟨fun h => ⟨fun bad => ?_, fun zero => ?_, fun page set => ?_⟩,
    fun h => ⟨fun bad => ?_, fun low high host => ?_, fun low high board => ?_⟩⟩
  · exact answers_eventRingSet h (if_pos (by simp [(aligned4K_eq_false _).2 bad]))
  · exact answers_eventRingSet h ((if_neg (by simp [zero, aligned4K])).trans (if_pos zero))
  · exact answers_eventRingSet h ((if_neg (by simp [(aligned4K_iff _).2 page])).trans (if_neg set))
  · refine answers_eventRead h (if_pos (bad.imp_right (Or.imp_right fun ⟨board, long⟩ => ?_)))
    rw [overLimit_board board]
    exact decide_eq_true long
  · refine answers_eventRead h ((run ?_).trans (by rw [returnData_host host]; rfl))
    rw [overLimit_host host]
    rintro (zero | long | limit)
    · exact Nat.not_lt.2 low (Nat.lt_one_iff.2 zero)
    · exact Nat.not_lt.2 high long
    · cases limit
  · refine answers_eventRead h ((run ?_).trans (by rw [returnData_board board]))
    rw [overLimit_board board, decide_eq_true_eq]
    omega

theorem deviceCommands : Claim.DeviceCommands := by
  intro s p d c t r
  refine ⟨fun h => ⟨fun bad => answers_debugMode h (if_pos bad), fun mode core => ?_⟩,
    fun h => ⟨fun off => ?_, fun on low => ?_, fun on high => ?_⟩,
    fun h => ⟨fun bad => answers_traysReclaim h (if_pos bad), fun ok busy => ?_, fun ok free => ?_⟩,
    fun h => ⟨fun follows => answers_taiSet h (if_pos follows), fun leads => ⟨_, answers_taiSet h (if_neg (by simp [leads]))⟩⟩,
    fun h => ?_, fun h => answers_regWrite h ?_, fun h => ⟨fun off => ?_, fun on free => ?_, fun on busy => ?_⟩,
    fun h => answers_identify h rfl⟩
  · refine answers_debugMode h ((if_neg (by rintro (bad | bad) <;> omega)).trans ?_)
    rw [if_neg (show ¬bits d.w2 4 0 = 31 by omega)]
    rfl
  · exact answers_threadReset h (if_neg (by simp [off]))
  · exact answers_threadReset h ((if_pos on).trans (if_pos low))
  · exact answers_threadReset h ((if_pos on).trans (if_neg (Nat.not_lt.2 high)))
  · exact answers_traysReclaim h ((if_neg (Nat.not_le.2 ok)).trans (if_pos (Option.isSome_iff_ne_none.2 busy)))
  · have idle : ¬s.trays.reclaim.isSome = true := by simp [free]
    exact answers_traysReclaim h ((if_neg (Nat.not_le.2 ok)).trans ((if_neg idle).trans (congrArg (succeeds · 0) (if_neg idle))))
  · intro path
    have run : regReadCmd s p d = ((Sys2Proof.Machine.regRead s (pathOfPort p) d.w2.toNat).1,
        some (.value (Sys2Proof.Machine.regRead s (pathOfPort p) d.w2.toNat).2)) := rfl
    exact answers_regRead h (run.trans (by rw [pathOfPort_eq]))
  · have run : regWriteCmd s d = if (Sys2Proof.Machine.regWrite s .board d.w2.toNat d.w3).2 = true
        then succeeds (Sys2Proof.Machine.regWrite s .board d.w2.toNat d.w3).1 0
        else fails (Sys2Proof.Machine.regWrite s .board d.w2.toNat d.w3).1 stBadField := rfl
    rw [run]
    split <;> rfl
  · exact answers_deviceReset h (if_pos (by simp [off]))
  · exact answers_deviceReset h ((if_neg (by simp [on])).trans (congrArg (succeeds · 0) (if_neg (by simp [free]))))
  · exact answers_deviceReset h ((if_neg (by simp [on])).trans (congrArg (succeeds · 0) (if_pos (Option.isSome_iff_ne_none.2 busy))))

/-- Settles O54: each command by the outcome of its body, with the lock unit's own requests for the lock commands. -/
theorem lockProfileEventAndDeviceCommands : Obligations.LockProfileEventAndDeviceCommands :=
  ⟨lockCommands, ringOpCommand, profileCommands, negativeCommands, eventCommands, deviceCommands⟩

end

section
/-! SUPPORT. Buffers and their names (R333, R337, R340–R347): what a transfer leaves, the buffer that goes back to its pool, the record of a
rejection, and the commands of reclaim and ECC. -/

namespace Sys2Proof.Machine

open Host

/-! ### Lists of names (R340, R341) -/

theorem eraseName_eq_erase (r : Nat) (owners : List Nat) : eraseName r owners = owners.erase r := by
  induction owners with
  | nil => rfl
  | cons x xs ih => by_cases same : x = r <;> simp [eraseName, same, ih]

theorem replaceName_append {r : Nat} {a : List Nat} (absent : r ∉ a) (r' : Nat) (b : List Nat) :
    replaceName r r' (a ++ r :: b) = a ++ r' :: b := by
  induction a with
  | nil => exact if_pos rfl
  | cons x a ih =>
    obtain ⟨ne, rest⟩ := not_or.1 (mt List.mem_cons.2 absent)
    rw [List.cons_append, replaceName, if_neg (Ne.symm ne), ih rest, List.cons_append]

/-! ### A transfer by one of a buffer's names (R340, R341, R344) -/

section transfer
variable {s : State} {r h : Nat} {owners chain : List Nat} (good : s.badHandle h = false)
  (held : sfind s.trays.bufs h = some (.alloc owners chain)) (named : r ∈ owners)
include good held named

/-- R344: a name is refused for its target or for a fifth name alone. -/
theorem tryReason_named (op : TryOp) (target : Nat) : tryReason s op r h target =
    if op ≠ .free ∧ 1090 ≤ target then some 6 else if op = .share ∧ 4 ≤ owners.length then some 5 else none := by
  simp only [tryReason, good, held, List.contains_eq_mem, named, decide_true, Bool.not_true, Bool.false_eq_true, if_false]

theorem tryApply_free (target : Nat) : tryApply s .free r h target =
    if owners.erase r = [] then (returnChain s h chain, true) else (s.setBuf h (.alloc (owners.erase r) chain), true) := by
  have permitted : tryReason s .free r h target = none := tryReason_named good held named .free target
  simp only [tryApply, permitted, held, eraseName_eq_erase, List.isEmpty_iff]

theorem tryApply_give {target : Nat} (known : target < 1090) :
    tryApply s .give r h target = (s.setBuf h (.alloc (replaceName r target owners) chain), true) := by
  have permitted : tryReason s .give r h target = none := by
    rw [tryReason_named good held named, if_neg (by omega), if_neg nofun]
  simp only [tryApply, permitted, held]

theorem tryApply_share {target : Nat} (known : target < 1090) (room : owners.length < 4) :
    tryApply s .share r h target = (s.setBuf h (.alloc (owners ++ [target]) chain), true) := by
  have permitted : tryReason s .share r h target = none := by
    rw [tryReason_named good held named, if_neg (by omega), if_neg (by omega)]
  simp only [tryApply, permitted, held]

end transfer

/-! ### The packet record of a buffer -/

theorem forgetPacket_held {s : State} {h : Nat} {owners chain : List Nat} (held : sfind s.trays.bufs h = some (.alloc owners chain)) :
    forgetPacket s h = s := by rw [forgetPacket, held]

theorem forgetPacket_only (s : State) (h : Nat) : ∃ pkts, forgetPacket s h = { s with pkts := pkts } := by
  unfold forgetPacket
  split
  · exact ⟨s.pkts, rfl⟩
  · exact ⟨sdel s.pkts h, rfl⟩

/-! ### A store to the portal (R331, R339) -/

section store
variable {s v : State} {t : ThreadId} {i : Instr} {off h target : Nat} {op : TryOp} (ready : s.ready t)
  (level : 1 ≤ (s.thread t).level) (fresh : sfind s.trays.unclaimed t.val = none)
  (row : exec i s = portalRow t off (.ok (portalStore s t op h target)) s) (applied : (tryApply s op t h target).1 = v)
include ready level fresh row applied

/-- The transfer acts, the record of a packet without its buffer is forgotten, and the thread moves on. -/
theorem store_applied (cores : v.cores = s.cores) : ∃ pkts, forgetPacket v h = { v with pkts := pkts } ∧
    exec i s = .next (State.setThread { v with pkts := pkts } t { s.thread t with pc := (s.thread t).pc + 4, jumpFrom := none }) := by
  obtain ⟨pkts, forgotten⟩ := forgetPacket_only v h
  have stored : portalStore s t op h target = { v with pkts := pkts } := by
    rw [portalStore, dropUnclaimed, fresh, applied, forgotten]
  have same : State.thread { v with pkts := pkts } t = s.thread t := by
    change v.thread t = s.thread t
    rw [State.thread, State.thread, cores]
  refine ⟨pkts, forgotten, ?_⟩
  rw [portal_permitted ready row level, stored, settle_ok (by rw [same, ready.run]) (by rw [same, ready.noStep]), same]

/-- R340, R341: a transfer that leaves the buffer held changes its names alone. -/
theorem store_renames {now chain : List Nat} (renamed : v = s.setBuf h (.alloc now chain)) : ∃ u, exec i s = .next u ∧
    u.thread t = { s.thread t with pc := (s.thread t).pc + 4, jumpFrom := none } ∧
    OnlyThread { s with trays := { s.trays with bufs := sins s.trays.bufs h (.alloc now chain) } } u t := by
  subst renamed
  obtain ⟨pkts, forgotten, stored⟩ := store_applied ready level fresh row applied rfl
  rw [← forgotten, forgetPacket_held (sfind_sins _ _ _)] at stored
  exact ⟨_, stored, thread_setThread_self (by simp [ready.run]) _ t,
    OnlyThread.setThread (s := s.setBuf h (.alloc now chain)) ready.form ready.run⟩

end store

/-! ### A buffer that goes back (R333, R337, R340) -/

/-- R333, R350: with the expert set off a freed buffer joins the tail of its pool's list. -/
theorem returnBuffer_tail {s : State} (waiters : s.trays.waiters = []) (derived : bitAt (s.reg tryBase) 31 = false) (h : Nat) :
    returnBuffer s h = { s with
      counters := (s.count (tryBase + 0x904)).counters
      trays := { s.trays with
        bufs := sdel s.trays.bufs h
        free := lset s.trays.free (poolOf h)
          { s.freeList (poolOf h) with back := (s.freeList (poolOf h)).back ++ [indexIn h] } } } := by
  have tail (u : State) (regs : u.regs = s.regs) : ¬bitAt (BitVec.ofNat 32 (u.expert tryBase (tryBase + 0x40) 24 24 0)) 0 = true := by
    have off : ¬bitAt (u.reg tryBase) 31 = true := by rw [State.reg, regs, ← State.reg, derived]; decide
    rw [State.expert, if_neg off]
    decide
  unfold returnBuffer
  dsimp only
  split
  · next found => simp [waiters, State.waiterFor] at found
  · exact if_neg (tail _ rfl)

theorem returnChain_single {s : State} {h : Nat} {b : BufSt} (held : sfind s.trays.bufs h = some b) (live : b ≠ .lost) :
    returnChain s h [] = returnBuffer s h := by
  rw [returnChain, List.foldl_cons, List.foldl_nil, held]
  exact if_neg (by simpa using live)

/-! ### A rejection (R344, R345) -/

/-- R345: a rejected transfer leaves the names, its record with the place of the next, and the count of its reason. -/
theorem tryApply_rejected {s : State} {op : TryOp} {r h target why : Nat} (reason : tryReason s op r h target = some why) :
    ∃ u, tryApply s op r h target = (u, false) ∧ u.trays.bufs = s.trays.bufs ∧
      u.trays.elog = sput ElogEntry.empty s.trays.elog s.trays.elogIdx
        { time := s.now, handle := h, req := r, op := op.code, reason := why } ∧
      u.trays.elogIdx = (s.trays.elogIdx + 1) % 16 ∧
      u.counters = (s.count (tryBase + 0x940 + 4 * why)).counters := by
  refine ⟨rejectTry s op r h why, by rw [tryApply, reason], ?_⟩
  unfold rejectTry
  dsimp only
  rw [logEvent_eq_logged]
  exact ⟨rfl, rfl, rfl, rfl⟩

/-! ### Reclaim (R347) -/

/-- R349, R587: TRY_RECLAIM lies at its offset on every path that writes. -/
theorem target_tryReclaim (s : State) {p : Path} (hp : ∀ f, p ≠ .vf f) :
    s.target p (tryBase + 0xC) = .reg (tryBase + 0xC) tryBase (ro 0x0C) := by
  have alive : s.deadReg tryBase (tryBase + 0xC - tryBase) = false := by
    simp [State.deadReg, ringBase, hbmBase, ethBase, tryBase]
  exact target_row (by decide) (by decide) (by decide) (by decide) alive hp

theorem exec_tryReclaim {s : State} {p : Path} (ha : s.answers p = true) (hp : Path.writes p = true) (r : BitVec 12) :
    exec (.tryReclaim p r) s = .next (if 1090 ≤ r.toNat then flagError s errEncoding p (tryBase + 0xC) true else startReclaim s r.toNat) := by
  have notVf : ∀ f, p ≠ .vf f := by rintro f rfl; cases hp
  have notFabric : p ≠ .fabric := by rintro rfl; cases hp
  have requester : bits (r.setWidth 32) 11 0 = r.toNat := by
    have := r.isLt
    simp only [bits, BitVec.toNat_setWidth]
    omega
  have write : regWrite s p (tryBase + 0xC) (r.setWidth 32) = writeReclaim s p (tryBase + 0xC) (r.setWidth 32) :=
    regWrite_special _ ha notFabric (target_tryReclaim s notVf) rfl rfl
  change Outcome.next (regWrite s p (tryBase + 0xC) (r.setWidth 32)).1 = _
  rw [write, writeReclaim, requester]
  split <;> rfl

/-- R586, R587: a VF reaches no TRY_RECLAIM, and the fabric writes no register. -/
theorem exec_tryReclaim_unwritten {s : State} {p : Path} (hp : Path.writes p = false) (r : BitVec 12) :
    exec (.tryReclaim p r) s = .next s := by
  change Outcome.next (regWrite s p (tryBase + 0xC) (r.setWidth 32)).1 = _
  unfold regWrite
  cases p with
  | fabric => rw [if_pos (Or.inr rfl)]
  | vf f =>
    have dead : s.target (.vf f) (tryBase + 0xC) = .dead := rfl
    rw [dead]
    split <;> rfl
  | _ => cases hp

theorem exec_traysReclaimed {s : State} {r : Nat} (running : s.trays.reclaim = some r) :
    ∃ u, exec .traysReclaimed s = .next u ∧ u.trays.reclaim = none ∧
      u.trays.reclaimResult = ((s.trays.bufs.filter fun e => (s.pool (poolOf e.1)).en).foldl (reclaimBuffer r) (s, 0)).2 := by
  change ∃ u, execTraysReclaimed s = .next u ∧ _
  rw [execTraysReclaimed, running]
  dsimp only
  generalize (s.trays.bufs.filter fun e => (s.pool (poolOf e.1)).en).foldl (reclaimBuffer r) (s, 0) = scan
  obtain ⟨pkts, forgotten⟩ := foldl_setPkts forgetPacket_only (scan.1.pkts.map (·.1))
    (scan.1.setTrays { scan.1.trays with reclaim := none, reclaimResult := scan.2 })
  refine ⟨_, rfl, ?_⟩
  rw [logEvent_eq_logged]
  exact forgotten ▸ ⟨rfl, rfl⟩

/-! ### An uncorrectable error (R346) -/

theorem not_mem_without (f : FreeList) (i : Nat) : i ∉ (f.without i).front ++ (f.without i).back := by simp [FreeList.without]

theorem exec_traysEcc {s : State} {h : Word} (good : s.badHandle h.toNat = false) :
    ∃ u, exec (.traysEcc h) s = .next u ∧ u.counters = (s.count (tryBase + 0x914)).counters ∧ u.trays = { s.trays with
      bufs := sins s.trays.bufs h.toNat .lost
      free := lset s.trays.free (poolOf h.toNat) ((s.freeList (poolOf h.toNat)).without (indexIn h.toNat)) } := by
  refine ⟨_, if_neg (by simp [good]), ?_⟩
  rw [logEvent_eq_logged]
  exact ⟨rfl, rfl⟩

end Sys2Proof.Machine

open Sys2Proof Sys2Proof.Machine Host

theorem ownersAreNamed : Claim.OwnersAreNamed := by
  intro s t h whom owners chain ready level fresh good held _ named leaves
  refine ⟨fun left => ?_, fun known a b split first => ?_, fun known room => ?_⟩
  · have freed := (tryApply_free good held named 0).trans (if_neg left)
    exact store_renames ready level fresh rfl (congrArg Prod.fst freed) rfl
  · have given := tryApply_give good held named known
    rw [split, replaceName_append first] at given
    exact store_renames ready level fresh rfl (congrArg Prod.fst given) rfl
  · exact store_renames ready level fresh rfl (congrArg Prod.fst (tryApply_share good held named known room)) rfl

theorem lastFreeReturnsTheBuffer : Claim.LastFreeReturnsTheBuffer := by
  intro s t h ready level fresh good held waiters derived
  have freed : (tryApply s .free t h.toNat 0).1 = returnBuffer s h.toNat := by
    rw [tryApply_free good held (List.mem_singleton_self _), if_pos (List.erase_cons_head ..), returnChain_single held nofun]
  rw [returnBuffer_tail waiters derived] at freed
  obtain ⟨pkts, -, row⟩ := store_applied (i := .free t h) ready level fresh rfl freed rfl
  exact ⟨_, row, rfl, rfl, thread_setThread_self (by simp [ready.run]) _ t⟩

theorem rejectedTransfers : Claim.RejectedTransfers := by
  intro s op r h target why
  by_cases bad : s.badHandle h = true
  · intro owners reason is _
    exact tryApply_rejected ((if_pos bad).trans (congrArg some ((if_pos bad).symm.trans is)))
  · cases held : sfind s.trays.bufs h with
    | none =>
      intro owners reason is _
      exact tryApply_rejected (by simp [tryReason, bad, held, ← is, reason])
    | some b => cases b with
      | cont | lost =>
        intro owners reason is _
        exact tryApply_rejected (by simp [tryReason, bad, held, ← is, reason])
      | alloc names chain =>
        intro owners reason is rejected
        by_cases named : r ∈ names
        · have value : reason = if op ≠ .free ∧ 1090 ≤ target then 6 else if op = .share ∧ 4 ≤ names.length then 5 else 0 :=
            (if_neg bad).trans (if_neg (not_not_intro named))
          refine tryApply_rejected ((tryReason_named (by simpa using bad) held named op target).trans ?_)
          rw [← is, value]
          rw [← is, value] at rejected
          split_ifs at rejected ⊢
          · rfl
          · rfl
          · exact absurd rejected (Nat.lt_irrefl 0)
        · exact tryApply_rejected (by simp [tryReason, bad, held, named, ← is, reason, owners])

theorem reclaimAndLostBuffers : Claim.ReclaimAndLostBuffers := by
  intro s p r h
  refine ⟨fun ha hp low => ⟨fun idle => ?_, fun busy => ?_⟩, fun ha hp high => ?_, fun hp => exec_tryReclaim_unwritten hp r,
    fun idle => ?_, fun running => exec_traysReclaimed running, fun bad => if_pos bad, fun good => ?_⟩
  · rw [exec_tryReclaim ha hp, if_neg (Nat.not_le.2 low), startReclaim, if_neg (by simp [idle])]
  · rw [exec_tryReclaim ha hp, if_neg (Nat.not_le.2 low), startReclaim, if_pos (Option.isSome_iff_ne_none.2 busy)]
  · rw [exec_tryReclaim ha hp, if_pos high]
  · change execTraysReclaimed s = _
    rw [execTraysReclaimed, idle]
  · obtain ⟨u, row, counters, trays⟩ := exec_traysEcc good
    refine ⟨u, row, by rw [trays], counters, fun i listed pool => ?_⟩
    have list : u.freeList (poolOf h.toNat) = (s.freeList (poolOf h.toNat)).without (indexIn h.toNat) := by
      rw [State.freeList, trays, getD_lset, if_pos ⟨rfl, pool⟩]
    rw [list] at listed
    rintro rfl
    exact not_mem_without _ _ listed

/-- Settles O35: each transfer by the names that it leaves, the last FREE by the buffer that goes back, and each command of reclaim and ECC. -/
theorem buffersAreOwned : Obligations.BuffersAreOwned :=
  ⟨ownersAreNamed, lastFreeReturnsTheBuffer, rejectedTransfers, reclaimAndLostBuffers⟩

end

section
/-! SUPPORT. The traffic manager (R358–R381, R512): a copy on its way onto a queue, off its head and out of an output, and the queues
that are trumped, flushed or go down. -/

namespace Sys2Proof.Machine

open Host

theorem swtSet_swtSet (s : State) (v w : Swt) : (s.swtSet v).swtSet w = s.swtSet w := rfl

theorem count_swtSet (s : State) (w : Swt) (off : Nat) : (s.swtSet w).count off = (s.count off).swtSet w := rfl

/-! ### A release and its copies (R342, R359) -/

section copies
variable {s : State} {n : Nat} {x : RelState} (found : sfind s.swt.rels n = some x)
include found

theorem endRelease_busy (busy : x.todo ≠ [] ∨ x.live ≠ 0) : endRelease s n = s := by
  have others : ¬(x.todo.isEmpty = true ∧ x.live = 0) := by
    rintro ⟨empty, idle⟩
    exact busy.elim (· (List.isEmpty_iff.1 empty)) (· idle)
  simp only [endRelease, found, if_neg others]

/-- R342: a copy that is done leaves its release one copy less, while there are others. -/
theorem copyDone_busy (busy : 2 ≤ x.live ∨ x.todo ≠ []) :
    copyDone s n = s.swtSet { s.swt with rels := sins s.swt.rels n { x with live := x.live - 1 } } := by
  have others : x.todo ≠ [] ∨ x.live - 1 ≠ 0 := busy.symm.imp_right (by omega)
  simp only [copyDone, found]
  exact endRelease_busy (sfind_sins ..) others

end copies

/-! ### Enqueue (R358–R360, R367) -/

/-- The only copy left of release `n` is taken up. -/
def State.offers (s : State) (n : Nat) (x : RelState) : State :=
  s.swtSet { s.swt with rels := sins s.swt.rels n { x with todo := [] } }

/-- R370: the average of a queue after an attempt. -/
def State.averaged (s : State) (q : Nat) : State :=
  s.setSqueue q { s.squeue q with avg := avgAfter (s.squeue q).avg (s.squeue q).depth (bits (s.reg (s.redOff q)) 27 24) }

/-- R371: below the lower threshold of its colour nothing is dropped at random. -/
theorem redDrop_low {s : State} {off a c : Nat} (low : a < bits (s.reg (off + 4 + 8 * c)) 19 0) : redDrop s off a c = (s, false) :=
  if_pos low

/-- R383: outside FROZEN a head stays. -/
theorem trimHead_thawed {s : State} (thawed : s.dev ≠ .frozen) (q : Nat) : trimHead s q = s := by
  unfold trimHead
  cases (s.squeue q).frames.length with
  | zero => rfl
  | succ n =>
    unfold trimHead.go
    split
    · rfl
    · exact if_neg (by simp [State.frozenCopy, thawed])

section enqueue
variable {s : State} {n : Nat} {x : RelState} {o : BitVec 64}

theorem enqueueCopy_noQueue (absent : s.queueFor o x.r.klass.toNat = none) : enqueueCopy s n x o = swtDrop s 3 := by
  simp only [enqueueCopy, absent, refuseCopy]

variable {q out : Nat} {route : Bool × Bool × Bool} (queued : s.queueFor o x.r.klass.toNat = some (q, out, route))
include queued

theorem enqueueCopy_inactive (off : s.outActive out = false ∨ s.nodeEn .queue q = false) :
    enqueueCopy s n x o = refuseCopy s (some q) (copyLen o x.r.len) 3 := by
  simp only [enqueueCopy, queued]
  exact if_pos (by simpa using off)

theorem enqueueCopy_long (active : s.outActive out = true) (enabled : s.nodeEn .queue q = true)
    (long : s.outMtu out < copyLen o x.r.len) : enqueueCopy s n x o = refuseCopy s (some q) (copyLen o x.r.len) 9 := by
  simp only [enqueueCopy, queued]
  rw [if_neg (by simp [active, enabled]), if_pos long]

variable (active : s.outActive out = true) (enabled : s.nodeEn .queue q = true) (fits : copyLen o x.r.len ≤ s.outMtu out)
include active enabled fits

theorem enqueueCopy_down (down : out < 16 ∧ (s.swtOut out).st = .down) :
    enqueueCopy s n x o = refuseCopy (s.averaged q) (some q) (copyLen o x.r.len) 7 := by
  simp only [enqueueCopy, queued]
  rw [if_neg (by simp [active, enabled]), if_neg (Nat.not_lt.2 fits)]
  exact if_pos down

variable (up : ¬(out < 16 ∧ (s.swtOut out).st = .down))
include up

theorem enqueueCopy_full (full : bits (s.reg (s.redOff q)) 19 0 * 1024 < (s.squeue q).depth + copyLen o x.r.len) :
    enqueueCopy s n x o = refuseCopy (s.averaged q) (some q) (copyLen o x.r.len) 5 := by
  simp only [enqueueCopy, queued]
  rw [if_neg (by simp [active, enabled]), if_neg (Nat.not_lt.2 fits)]
  exact (if_neg up).trans (if_pos full)

/-- R359: a copy that no check refuses goes to the tail of its queue and is one more of its release. -/
theorem enqueueCopy_queued {y : RelState} (room : (s.squeue q).depth + copyLen o x.r.len ≤ bits (s.reg (s.redOff q)) 19 0 * 1024)
    (thawed : s.dev ≠ .frozen)
    (low : avgAfter (s.squeue q).avg (s.squeue q).depth (bits (s.reg (s.redOff q)) 27 24) / 256 <
      bits (s.reg (s.redOff q + 4 + 8 * x.r.colour.toNat)) 19 0)
    (found : sfind s.swt.rels n = some y) :
    let c : SwtCopy :=
      { rel := n, out := o, len := copyLen o x.r.len, since := s.now, ce := false, bad := false, route := route, queue := q }
    let w := (s.averaged q).squeue q
    ∃ qcounts, enqueueCopy s n x o = (s.count (swtBase + 0xC00)).swtSet { s.swt with
      queues := sput SwtQueue.empty (s.averaged q).swt.queues q { w with frames := w.frames ++ [c], depth := w.depth + c.len }
      rels := sins s.swt.rels n { y with live := y.live + 1 }
      qcounts := qcounts } := by
  intro c w
  let t := (s.averaged q).setSqueue q { w with frames := w.frames ++ [c], depth := w.depth + c.len }
  have kept : redDrop (s.averaged q) (s.redOff q)
      (avgAfter (s.squeue q).avg (s.squeue q).depth (bits (s.reg (s.redOff q)) 27 24) / 256) x.r.colour.toNat = (s.averaged q, false) :=
    redDrop_low low
  have there : sfind t.swt.rels n = some y := found
  dsimp only [t, w, State.averaged] at kept there
  simp only [enqueueCopy, queued]
  rw [if_neg (by simp [active, enabled]), if_neg (Nat.not_lt.2 fits)]
  refine ⟨?qcounts, (if_neg up).trans ((if_neg (Nat.not_lt.2 room)).trans ?queued)⟩
  case queued =>
    simp only [kept, Bool.false_and, Bool.false_eq_true, if_false]
    rw [there]
    simp only [countQueue, State.setSqueue, State.swtSet_swt, swtSet_swtSet, count_swtSet]
    exact trimHead_thawed (s := (s.count (swtBase + 0xC00)).swtSet _) thawed q

end enqueue

section single
variable {s : State} {n : Nat} {x : RelState} {o : BitVec 64} (oldest : s.oldestRelease = some (n, x)) (one : x.todo = [o])
include oldest one

theorem exec_swtEnqueue_single : exec .swtEnqueue s = .next (endRelease (enqueueCopy (s.offers n x) n x o) n) := by
  change execSwtEnqueue s = _
  simp only [execSwtEnqueue, oldest, one]
  rfl

/-- R360: a copy that is refused leaves the release to its other copies. -/
theorem exec_swtEnqueue_refused (live : 0 < x.live) {u : State} (same : u.swt.rels = (s.offers n x).swt.rels)
    (refused : enqueueCopy (s.offers n x) n x o = u) : exec .swtEnqueue s = .next u := by
  have found : sfind u.swt.rels n = some { x with todo := [] } := by rw [same]; exact sfind_sins ..
  rw [exec_swtEnqueue_single oldest one, refused, endRelease_busy found (.inr (Nat.ne_of_gt live))]

end single

/-! ### Dequeue (R369, R376, R380) -/

/-- Only the scheduler's own state of the nodes differs. -/
def NodesOnly (s u : State) : Prop := ∃ nodes, u = s.swtSet { s.swt with nodes := nodes }

theorem NodesOnly.refl (s : State) : NodesOnly s s := ⟨s.swt.nodes, rfl⟩

theorem NodesOnly.trans {s u w : State} (h : NodesOnly s u) (k : NodesOnly u w) : NodesOnly s w := by
  obtain ⟨_, rfl⟩ := h
  obtain ⟨nodes, rfl⟩ := k
  exact ⟨nodes, rfl⟩

theorem NodesOnly.foldl {α : Type} {f : State → α → State} (hf : ∀ st y, NodesOnly st (f st y)) (l : List α) (s : State) :
    NodesOnly s (l.foldl f s) := by
  induction l generalizing s with
  | nil => exact .refl s
  | cons y l ih => exact (hf s y).trans (ih (f s y))

theorem setSnode_only (s : State) (k : Nat) (v : SwtNode) : NodesOnly s (s.setSnode k v) := ⟨_, rfl⟩

theorem clearDeficit_only (s : State) (l : SwtLevel) (n : Nat) (idle : Bool) : NodesOnly s (clearDeficit s l n idle) := by
  cases idle with
  | true => exact setSnode_only ..
  | false => exact .refl s

/-- R377: a charge changes the buckets and deficits of the nodes on the path. -/
theorem chargePath_only (s : State) (p : SwtPick) (len : Nat) : NodesOnly s (chargePath s p len) := by
  have charged := NodesOnly.foldl (fun st k => setSnode_only st k { st.snode k with deficit := (st.snode k).deficit - len }) p.charged s
  refine charged.trans (.trans ?_ (clearDeficit_only ..))
  refine .trans ?_ (clearDeficit_only ..)
  refine .trans ?_ (clearDeficit_only ..)
  exact ((setSnode_only ..).trans (setSnode_only ..)).trans (setSnode_only ..)

section dequeue
variable {s : State} {q : Nat} {c : SwtCopy} {r : List SwtCopy} (head : (s.squeue q).frames = c :: r)
include head

theorem popQueue_head : popQueue s q = s.setSqueue q
    { s.squeue q with frames := r, depth := (s.squeue q).depth - c.len, trumped := (s.squeue q).trumped && s.headAged r } := by
  simp only [popQueue, head]

/-- R380: a head that is not too old stays. -/
theorem dropAged_fresh (fresh : s.tooOld q c = false) : dropAged s q = s := by
  simp only [dropAged, head, List.length_cons, dropAged.go, fresh, Bool.false_eq_true, if_false]

/-- R376: the head of the selected queue is taken, when it is not too old. -/
theorem takeNext_head {o : Nat} {p : SwtPick} (pick : s.pickQueue o = some p) (selected : p.queue = q) (fresh : s.tooOld q c = false)
    (thawed : s.dev ≠ .frozen) (n : Nat) : ∃ u, takeNext o (n + 1) s = (u, some c) ∧ NodesOnly (popQueue s q) u := by
  subst selected
  obtain ⟨nodes, picked⟩ := NodesOnly.foldl (fun st (e : Nat × SwtNode) => setSnode_only st e.1 e.2) p.nodes s
  have first : ((s.swtSet { s.swt with nodes := nodes }).squeue p.queue).frames = c :: r := head
  have popped : NodesOnly (popQueue s p.queue) (popQueue (s.swtSet { s.swt with nodes := nodes }) p.queue) := by
    rw [popQueue_head head, popQueue_head first]
    exact ⟨nodes, rfl⟩
  refine ⟨_, ?_, popped.trans (chargePath_only _ p c.len)⟩
  simp only [takeNext, pick, picked]
  rw [dropAged_fresh first fresh]
  simp only [first]
  rw [trimHead_thawed (by rw [popQueue_head first]; exact thawed)]

end dequeue

theorem exec_swtDequeue_takes {s u : State} {o : Fin 22} {c : SwtCopy} {x : RelState} (ready : s.canStart o = true)
    (taken : takeNext o (s.busyQueues o).length s = (u, some c)) (found : sfind u.swt.rels c.rel = some x) (notRing : o.val < 18) :
    exec (.swtDequeue o) s = .next (u.setSwtOut o { u.swtOut o with tx := some c, start := u.now }) := by
  change execSwtDequeue o s = _
  simp only [execSwtDequeue, ready, Bool.not_true, Bool.false_eq_true, if_false, taken, found]
  rw [if_neg (by omega)]

/-- R376: an output that can start a frame of an Ethernet or host queue starts the head of the one selected. -/
theorem exec_swtDequeue_starts {s : State} {o : Fin 22} {p : SwtPick} {c : SwtCopy} {r : List SwtCopy} {x : RelState}
    (ready : s.canStart o = true) (busy : s.busyQueues o ≠ []) (pick : s.pickQueue o = some p)
    (head : (s.squeue p.queue).frames = c :: r) (fresh : s.tooOld p.queue c = false) (thawed : s.dev ≠ .frozen)
    (found : sfind s.swt.rels c.rel = some x) (notRing : o.val < 18) :
    ∃ u, NodesOnly (popQueue s p.queue) u ∧
      exec (.swtDequeue o) s = .next (u.setSwtOut o { u.swtOut o with tx := some c, start := u.now }) := by
  obtain ⟨n, length⟩ := Nat.exists_eq_succ_of_ne_zero (mt List.length_eq_zero_iff.1 busy)
  obtain ⟨u, taken, only⟩ := takeNext_head head pick rfl fresh thawed n
  rw [← Nat.succ_eq_add_one, ← length] at taken
  refine ⟨u, only, exec_swtDequeue_takes ready taken (x := x) ?_ notRing⟩
  obtain ⟨nodes, rfl⟩ := only
  rw [popQueue_head head]
  exact found

/-! ### The end of a transmission (R359, R486) -/

/-- R486: a frame that is no PTP event leaves an Ethernet port as it is, padded. -/
theorem ethTransmit_wire {s : State} {p : Nat} {f : List Byte} (plain : s.ptpEvent p (f ++ List.replicate (60 - f.length) 0) = none)
    (wire : s.ethLoop p = 0 ∨ s.ethLoop p = 3) (start : Time) (bad : Bool) :
    let out := f ++ List.replicate (60 - f.length) 0
    let counted := (s.count (ethCnt p 0x24)).countN (ethCnt p 0x28) out.length
    ethTransmit s p start f bad = { s with
      counters := (if bad = true then counted.count (ethCnt p 0x2C) else counted).counters, sent := .eth p out bad :: s.sent } := by
  have sent : ptpTransmit s p start (f ++ List.replicate (60 - f.length) 0) = (s, f ++ List.replicate (60 - f.length) 0) := by
    rw [ptpTransmit, plain]
  have outside : ¬(s.ethLoop p = 1 ∨ s.ethLoop p = 2) := by omega
  simp only [ethTransmit, sent, if_neg outside]
  cases bad <;> rfl

theorem finishCopy_busy {s : State} {c : SwtCopy} {x : RelState} (found : sfind s.swt.rels c.rel = some x)
    (busy : 2 ≤ x.live ∨ x.todo ≠ []) (o : Nat) : ∃ qcounts, finishCopy s o c = (s.count (swtBase + 0xC04)).swtSet { s.swt with
      outs := sput SwtOut.reset s.swt.outs o { s.swtOut o with tx := none }
      rels := sins s.swt.rels c.rel { x with live := x.live - 1 }
      qcounts := qcounts } := ⟨_, copyDone_busy found busy⟩

theorem exec_swtTxDone_eth {s : State} {o : Fin 22} {c : SwtCopy} (sending : (s.swtOut o).tx = some c) (notHost : outDtype c.out ≠ 2)
    (eth : o.val < 16) :
    exec (.swtTxDone o) s = .next (ethTransmit (finishCopy s o c) o (s.swtOut o).start (s.copyBytes c) c.bad) := by
  change execSwtTxDone o s = _
  simp only [execSwtTxDone, sending]
  rw [if_neg notHost, if_pos eth]

/-! ### Flushes and holds (R375, R381) -/

theorem flushQueue_nil {s : State} {q : Nat} (empty : (s.squeue q).frames = []) (reason : Nat) :
    flushQueue s q reason = s.setSqueue q { s.squeue q with frames := [], depth := 0, trumped := false } := by
  simp only [flushQueue, empty, List.foldl_nil]

theorem flushQueue_single {s : State} {q : Nat} {c : SwtCopy} (single : (s.squeue q).frames = [c]) (reason : Nat) :
    flushQueue s q reason = dropCopy (s.setSqueue q { s.squeue q with frames := [], depth := 0, trumped := false }) c reason := by
  simp only [flushQueue, single, List.foldl_cons, List.foldl_nil]

/-- R375, R385: SWT_QFLUSH lies at its offset on every path that manages. -/
theorem exec_swtQflush {s : State} {p : Path} (answers : s.answers p = true) (manages : Path.manages p) (q : BitVec 15) :
    exec (.swtQflush p q) s = .next (flushQueue s q.toNat 8) := by
  have alive : s.deadReg swtBase (swtBase + 8 - swtBase) = false := by simp [State.deadReg, ringBase, hbmBase, ethBase, swtBase]
  have row : s.target p (swtBase + 8) = .reg (swtBase + 8) swtBase (ro 0x08) :=
    target_row (by decide) (by decide) (by decide) (by decide) alive manages.ne_vf
  have queue : bits (q.setWidth 32) 14 0 = q.toNat := by
    have := q.isLt
    simp only [bits, BitVec.toNat_setWidth]
    omega
  change Outcome.next (regWrite s p (swtBase + 8) (q.setWidth 32)).1 = _
  rw [regWrite_special _ answers manages.ne_fabric row rfl rfl, queue]

theorem exec_swtHoldExpire (s : State) (o : Fin 16) : exec (.swtHoldExpire o) s = .next
    (if (s.swtOut o).st = .hold ∧ usFtu (100 * s.fld (swtBase + 0x104 + 8 * o) 9 0) ≤ s.elapsed (s.swtOut o).holdSince
      then flushOutput (s.setSwtOut o { s.swtOut o with st := .down }) o 7 else s) := rfl

end Sys2Proof.Machine

open Sys2Proof Sys2Proof.Machine Host

theorem copiesAreEnqueued : Claim.CopiesAreEnqueued := by
  intro s n x o oldest one live len s0
  refine ⟨fun absent => exec_swtEnqueue_refused oldest one live rfl (enqueueCopy_noQueue absent), fun q out route queued => ?_⟩
  have queued : (s.offers n x).queueFor o x.r.klass.toNat = some (q, out, route) := queued
  intro dropped v ctl avg s1
  refine ⟨fun off => exec_swtEnqueue_refused oldest one live rfl (enqueueCopy_inactive queued off),
    fun active enabled long => exec_swtEnqueue_refused oldest one live rfl (enqueueCopy_long queued active enabled long),
    fun active enabled fits => ⟨fun eth down => ?_, fun up full => ?_, fun up room thawed low => ?_⟩⟩
  · exact exec_swtEnqueue_refused oldest one live rfl (enqueueCopy_down queued active enabled fits ⟨eth, down⟩)
  · exact exec_swtEnqueue_refused oldest one live rfl (enqueueCopy_full queued active enabled fits up full)
  · have taken : sfind (s.offers n x).swt.rels n = some { x with todo := [] } := sfind_sins ..
    obtain ⟨qcounts, put⟩ := enqueueCopy_queued queued active enabled fits up room thawed low taken
    rw [Does, exec_swtEnqueue_single oldest one, put, endRelease_busy (sfind_sins ..) (.inr (Nat.succ_ne_zero _))]
    exact ⟨_, rfl, rfl, sfind_sins .., rfl, rfl, rfl, rfl⟩

theorem outputsSendTheSelectedCopy : Claim.OutputsSendTheSelectedCopy := by
  intro s o
  refine ⟨fun p c r x ready busy pick head fresh thawed found notRing => ?_,
    fun c x sending notHost eth found busy wire plain => ?_, fun c sending good => ?_, fun c sending bad => ?_, fun idle => ⟨?_, ?_⟩⟩
  · obtain ⟨u, ⟨nodes, only⟩, row⟩ := exec_swtDequeue_starts ready busy pick head fresh thawed found notRing
    rw [popQueue_head head] at only
    subst only
    exact ⟨_, row, rfl, rfl, rfl⟩
  · obtain ⟨qcounts, finished⟩ := finishCopy_busy found busy o
    rw [Does, exec_swtTxDone_eth sending notHost eth, finished, ethTransmit_wire ?plain ?wire]
    case plain => exact plain
    case wire => exact wire
    refine ⟨_, rfl, rfl, rfl, sfind_sins .., rfl, ?_, rfl⟩
    cases c.bad <;> rfl
  · change execSwtTxEcc o s = _
    simp only [execSwtTxEcc, sending, good, Bool.false_eq_true, if_false]
  · change execSwtTxEcc o s = _
    simp only [execSwtTxEcc, sending, bad, if_true]
  · change execSwtTxEcc o s = _
    rw [execSwtTxEcc, idle]
  · change execSwtTxDone o s = _
    simp only [execSwtTxDone, idle]

theorem queuesTrumpFlushAndGoDown : Claim.QueuesTrumpFlushAndGoDown := by
  intro s q p o v
  refine ⟨fun eligible calm aged => congrArg Outcome.next (if_pos ⟨eligible, by simp [v, calm], aged⟩),
    fun answers manages => ⟨fun empty => ?_, fun c x single found busy => ?_⟩, fun held expired => ?_, fun other => ?_⟩
  · rw [exec_swtQflush answers manages, flushQueue_nil empty]
  · rw [Does, exec_swtQflush answers manages, flushQueue_single single, dropCopy, copyDone_busy (by exact found) busy]
    exact ⟨_, rfl, rfl, sfind_sins .., rfl⟩
  · have down : exec (.swtHoldExpire o) s = .next (flushOutput (s.setSwtOut o { s.swtOut o with st := .down }) o 7) := by
      rw [exec_swtHoldExpire, if_pos ⟨held, expired⟩]
    refine ⟨down, fun idle => down.trans ?_⟩
    have idle : (s.setSwtOut o { s.swtOut o with st := .down }).busyQueues o = [] := idle
    rw [flushOutput, idle, List.foldl_nil]
  · rw [exec_swtHoldExpire, if_neg fun h => other h.1]

/-- Settles O40: a copy by the first check that it fails, an output by the head that it takes, a queue by the frames that it loses. -/
theorem switchQueues : Obligations.SwitchQueues := ⟨copiesAreEnqueued, outputsSendTheSelectedCopy, queuesTrumpFlushAndGoDown⟩

end

section
/-! SUPPORT. How the host queue engine finds work (R443–R450): polls and the requests they send, bitmap words, doorbell records, and the
fetch of descriptors. -/

namespace Sys2Proof.Machine

open Host

/-! ### A function that is served (R436) -/

/-- A function that is active is listed. -/
theorem ne_reset_of_active {f : HqeFn} (active : f.active = true) : f ≠ HqeFn.reset := by
  rintro rfl
  cases active

theorem active_of_hqeRuns {s : State} {fn : Nat} (runs : s.hqeRuns fn = true) : (s.fn fn).active = true :=
  (Bool.and_eq_true_iff.1 runs).2

/-- Requests go to the host, in order. -/
def State.asks (s : State) (l : List Sent) : State := { s with sent := l.reverse ++ s.sent }

theorem foldl_askRead {α : Type} (fn n : Nat) (a : α → Nat) (l : List α) (s : State) :
    l.foldl (fun st x => askRead st fn (a x) n) s = s.asks (l.map fun x => .hostRead fn (a x) n) := by
  induction l generalizing s with
  | nil => rfl
  | cons x l ih =>
    rw [List.foldl_cons, ih]
    simp [State.asks, askRead]

theorem foldl_askSwap (fn : Nat) (l : List Nat) (s : State) :
    l.foldl (fun st i => askSwap st fn (st.bitmapAt fn i)) s = s.asks (l.map fun i => .hostSwap fn (s.bitmapAt fn i)) := by
  induction l generalizing s with
  | nil => rfl
  | cons i l ih =>
    have same (j : Nat) : (askSwap s fn (s.bitmapAt fn i)).bitmapAt fn j = s.bitmapAt fn j := rfl
    rw [List.foldl_cons, ih]
    simp only [same]
    simp [State.asks, askSwap]

/-! ### The end of a poll (R449) -/

section poll
variable {s : State} {fn : Nat}

/-- R449: a poll goes on while an answer is to come. -/
theorem endPoll_waits (waits : (s.fn fn).p.line = true ∨ (s.fn fn).p.swaps ≠ [] ∨ (s.fn fn).p.records ≠ []) : endPoll s fn = s := by
  refine if_neg fun ⟨_, line, swaps, records⟩ => ?_
  rcases waits with waits | waits | waits
  · simp [waits] at line
  · exact waits (List.isEmpty_iff.1 swaps)
  · exact waits (List.isEmpty_iff.1 records)

/-- R449: a poll that has found nothing doubles the interval to the next. -/
theorem endPoll_idle (polls : (s.fn fn).p = { Poll.none with active := true }) : endPoll s fn =
    s.setFn fn { s.fn fn with p := Poll.none, interval := min (2 * (s.fn fn).interval) (s.pollMax fn) } := by
  rw [endPoll]
  simp only [polls]
  rfl

theorem endPoll_only (s : State) (fn : Nat) : endPoll s fn = { s with hqe := (endPoll s fn).hqe } := by
  rw [endPoll]
  dsimp only
  split <;> rfl

variable (active : (s.fn fn).active = true)
include active

theorem fn_setPoll (p : Poll) : (s.setPoll fn p).fn fn = { s.fn fn with p := p } := fn_setFn (ne_reset_of_active (by exact active))

theorem setPoll_setPoll (p p' : Poll) : (s.setPoll fn p).setPoll fn p' = s.setPoll fn p' := by
  rw [State.setPoll, fn_setPoll active, State.setPoll, setFn_setFn (ne_reset_of_active (by exact active))]
  rfl

end poll

/-! ### Polls that start (R448, R449) -/

section start
variable {s : State} {fn : Fin 1028} (due : s.pollDue fn = true) (gap : nsFtu s.pollGap ≤ s.elapsed s.hqe.lastPoll)
  (turn : s.pollTurn fn = true)

/-- The state in which a poll `p` of a function has begun. -/
def State.polls (s : State) (fn : Nat) (p : Poll) : State :=
  State.setFn { s.count (hqeBase + 0x900) with hqe := { s.hqe with lastPoll := s.now, lastFn := fn } } fn
    { s.fn fn with lastPoll := s.now, p := p }

theorem fn_polls (active : (s.fn fn).active = true) (p : Poll) : ((s.polls fn p).fn fn).p = p := by
  rw [State.polls, fn_setFn (ne_reset_of_active (by exact active))]

include due gap turn

theorem exec_hqePoll_bitmap (bitmap : (s.fn fn).bitmap = true) : exec (.hqePoll fn) s = .next
    ((s.polls fn { Poll.none with active := true, line := true }).asks [.hostRead fn (s.fn fn).sum.toNat 64]) := by
  change execHqePoll fn s = _
  rw [execHqePoll, if_neg (by simp [due, gap, turn])]
  exact if_pos bitmap

theorem exec_hqePoll_records (direct : (s.fn fn).bitmap = false) (rings : s.activeRings fn ≠ []) : exec (.hqePoll fn) s = .next
    ((s.polls fn { Poll.none with active := true, records := s.activeRings fn }).asks
      ((recordLines (s.activeRings fn)).map fun l => .hostRead fn ((s.fn fn).db.toNat + 64 * l) 64)) := by
  have runs : s.hqeRuns fn = true := (Bool.and_eq_true_iff.1 (Bool.and_eq_true_iff.1 due).1).1
  have records : (((s.polls fn { Poll.none with active := true, records := s.activeRings fn }).asks
      ((recordLines (s.activeRings fn)).map fun l => .hostRead fn ((s.fn fn).db.toNat + 64 * l) 64)).fn fn).p.records ≠ [] := by
    change ((s.polls fn _).fn fn).p.records ≠ []
    rw [fn_polls (active_of_hqeRuns runs)]
    exact rings
  change execHqePoll fn s = _
  rw [execHqePoll, if_neg (by simp [due, gap, turn])]
  refine (if_neg (by simp [direct])).trans (congrArg Outcome.next ?_)
  rw [foldl_askRead]
  exact endPoll_waits (.inr (.inr records))

end start

theorem exec_hqePoll_early {s : State} {fn : Fin 1028} (early : s.pollDue fn = false ∨ s.elapsed s.hqe.lastPoll < nsFtu s.pollGap) :
    exec (.hqePoll fn) s = .next s := if_pos (by rcases early with h | h <;> simp [h])

/-! ### Answers of the bitmap (R446, R448) -/

theorem bitmapAt_first (s : State) (fn : Nat) {i : Nat} (h : i < 8) : s.bitmapAt fn i = (s.fn fn).sum.toNat + 8 * i := by
  rw [State.bitmapAt, if_pos h]

theorem bitmapAt_second (s : State) (fn w : Nat) : s.bitmapAt fn (8 + w) = (s.fn fn).sum.toNat + 64 + 8 * w := by
  rw [State.bitmapAt, if_neg (by omega), Nat.add_sub_cancel_left, Nat.add_assoc]

/-- The words of a level-1 line that are not zero. -/
def lineWords (line : BitVec 512) : List Nat := (List.range 8).filter fun i => line.extractLsb' (64 * i) 64 != 0

/-- The level-2 words that a level-1 word names. -/
def namedWords (slot : Nat) (old : BitVec 64) : List Nat :=
  (setBits old).flatMap fun b => [2 * (64 * slot + b), 2 * (64 * slot + b) + 1]

section bitmap
variable {s : State} {fn : Fin 1028} (runs : s.hqeRuns fn = true)
include runs

theorem bitmapAt_setPoll (p : Poll) (i : Nat) : (s.setPoll fn p).bitmapAt fn i = s.bitmapAt fn i := by
  rw [State.bitmapAt, fn_setPoll (active_of_hqeRuns runs)]
  rfl

theorem exec_summaryReadDone {line : BitVec 512} (awaited : (s.fn fn).p.line = true) : exec (.summaryReadDone fn line) s =
    .next (endPoll ((s.setPoll fn { (s.fn fn).p with line := false, swaps := (s.fn fn).p.swaps ++ lineWords line }).asks
      ((lineWords line).map fun i => .hostSwap fn ((s.fn fn).sum.toNat + 8 * i))) fn) := by
  have swaps : ((lineWords line).map fun i => Sent.hostSwap fn (s.bitmapAt fn i)) =
      (lineWords line).map fun i => .hostSwap fn ((s.fn fn).sum.toNat + 8 * i) :=
    List.map_congr_left fun i listed => by rw [bitmapAt_first s fn (List.mem_range.1 (List.mem_filter.1 listed).1)]
  change execSummaryReadDone fn line s = _
  rw [execSummaryReadDone, if_neg (by simp [runs, awaited])]
  dsimp only
  rw [foldl_askSwap]
  simp only [bitmapAt_setPoll runs]
  rw [← swaps]
  rfl

variable {slot : BitVec 11} (awaited : slot.toNat ∈ (s.fn fn).p.swaps) (old : BitVec 64)
include awaited

/-- R448: a level-1 word asks for the level-2 words that its bits name. -/
theorem exec_atomicSwapDone_first (first : slot.toNat < 8) : exec (.atomicSwapDone fn slot old) s =
    .next (endPoll ((s.setPoll fn
      { (s.fn fn).p with swaps := (s.fn fn).p.swaps.erase slot.toNat ++ (namedWords slot.toNat old).map (8 + ·) }).asks
        ((namedWords slot.toNat old).map fun w => .hostSwap fn ((s.fn fn).sum.toNat + 64 + 8 * w))) fn) := by
  have words : ((setBits old).flatMap fun b => [8 + 2 * (64 * slot.toNat + b), 9 + 2 * (64 * slot.toNat + b)]) =
      (namedWords slot.toNat old).map (8 + ·) := by
    rw [namedWords, List.map_flatMap]
    refine List.flatMap_congr fun b _ => ?_
    simp only [List.map_cons, List.map_nil]
    congr 2
    omega
  have swaps : ((namedWords slot.toNat old).map (8 + ·)).map (fun i => Sent.hostSwap fn (s.bitmapAt fn i)) =
      (namedWords slot.toNat old).map fun w => .hostSwap fn ((s.fn fn).sum.toNat + 64 + 8 * w) := by
    rw [List.map_map]
    exact List.map_congr_left fun w _ => congrArg (Sent.hostSwap fn) (bitmapAt_second s fn w)
  change execAtomicSwapDone fn slot old s = _
  rw [execAtomicSwapDone, if_neg (by simp [runs, awaited])]
  dsimp only
  rw [if_pos first, fn_setPoll (active_of_hqeRuns runs), setPoll_setPoll (active_of_hqeRuns runs), words, foldl_askSwap]
  simp only [bitmapAt_setPoll runs]
  rw [swaps]

theorem exec_atomicSwapDone_second (second : 8 ≤ slot.toNat) : exec (.atomicSwapDone fn slot old) s =
    .next (endPoll (((setBits old).map (64 * (slot.toNat - 8) + ·)).foldl (bitmapRing fn)
      (s.setPoll fn { (s.fn fn).p with swaps := (s.fn fn).p.swaps.erase slot.toNat })) fn) := by
  change execAtomicSwapDone fn slot old s = _
  rw [execAtomicSwapDone, if_neg (by simp [runs, awaited])]
  exact if_neg (by omega)

end bitmap

/-- The records of the rings that are ACTIVE have been asked for, and the others counted (R448). -/
structure RecordsAsked (fn : Nat) (s : State) (rings : List Nat) (u : State) : Prop where
  sent : u.sent = ((rings.filter fun r => (s.activeRing fn r).isSome).map fun r =>
    Sent.hostRead fn ((s.fn fn).db.toNat + 8 * r) 8).reverse ++ s.sent
  counted : sget 0 u.counters (hqeBase + 0x910) =
    sget 0 s.counters (hqeBase + 0x910) + (rings.length - (rings.filter fun r => (s.activeRing fn r).isSome).length)
  only : u = { s with hqe := u.hqe, sent := u.sent, counters := u.counters }

theorem sget_count (s : State) (off : Nat) : sget 0 (s.count off).counters off = sget 0 s.counters off + 1 :=
  sget_sput_self (Nat.succ_ne_zero _) _ _

theorem foldl_bitmapRing (fn : Nat) (rings : List Nat) {s : State} (active : (s.fn fn).active = true) :
    RecordsAsked fn s rings (rings.foldl (bitmapRing fn) s) := by
  induction rings generalizing s with
  | nil => exact ⟨rfl, rfl, rfl⟩
  | cons r rings ih =>
    have short := List.length_filter_le (fun r => (s.activeRing fn r).isSome) rings
    rw [List.foldl_cons, bitmapRing]
    cases ring : s.activeRing fn r with
    | none =>
      obtain ⟨sent, counted, only⟩ := ih (s := s.count (hqeBase + 0x910)) active
      have same (j : Nat) : (s.count (hqeBase + 0x910)).activeRing fn j = s.activeRing fn j := rfl
      simp only [same] at sent counted
      rw [sget_count] at counted
      refine ⟨?_, ?_, ?_⟩
      · rw [List.filter_cons, if_neg (by simp [ring])]
        exact sent
      · simp only [List.filter_cons, ring, Option.isSome_none, Bool.false_eq_true, if_false, List.length_cons]
        omega
      · exact only
    | some v =>
      dsimp only
      let t := askRead (s.setPoll fn { (s.fn fn).p with records := (s.fn fn).p.records ++ [r] }) fn (s.doorbellAt fn r) 8
      have polled : t.fn fn = { s.fn fn with p := { (s.fn fn).p with records := (s.fn fn).p.records ++ [r] } } := fn_setPoll active _
      obtain ⟨sent, counted, only⟩ := ih (s := t) (by rw [polled]; exact active)
      have same (j : Nat) : t.activeRing fn j = s.activeRing fn j := rfl
      simp only [same] at sent counted
      rw [polled] at sent
      have door : s.doorbellAt fn r = (s.fn fn).db.toNat + 8 * r := rfl
      refine ⟨?_, ?_, ?_⟩
      · rw [sent]
        simp [ring, t, askRead, ← door, State.setPoll, State.setFn, State.setHqe]
      · simp only [List.filter_cons, ring, Option.isSome_some, if_true, List.length_cons]
        rw [counted, Nat.add_sub_add_right]
        rfl
      · exact only

theorem exec_unserved {s : State} {fn : Fin 1028} (stopped : s.hqeRuns fn = false) : exec (.hqePoll fn) s = .next s ∧
    (∀ line, exec (.summaryReadDone fn line) s = .next s) ∧ ∀ slot old, exec (.atomicSwapDone fn slot old) s = .next s :=
  ⟨exec_hqePoll_early (.inl (by simp [State.pollDue, stopped])), fun _ => if_pos (by simp [stopped]),
    fun _ _ => if_pos (by simp [stopped])⟩

/-! ### Doorbell records (R444, R445) -/

section doorbell
variable {s : State} {fn : Fin 1028} {r : BitVec 16} (record : BitVec 64)

/-- The record of ring `r` has been read. -/
def State.heard (s : State) (fn r : Nat) : State := s.setPoll fn { (s.fn fn).p with records := (s.fn fn).p.records.erase r }

theorem exec_doorbellRead (runs : s.hqeRuns fn = true) (asked : r.toNat ∈ (s.fn fn).p.records) : exec (.doorbellRead fn r record) s =
    .next (endPoll (hearDoorbell (s.heard fn r.toNat) fn r.toNat record) fn) := by
  change execDoorbellRead fn r record s = _
  rw [execDoorbellRead, if_neg (by simp [runs, asked])]
  rfl

theorem exec_doorbellRead_unasked (unasked : r.toNat ∉ (s.fn fn).p.records) : exec (.doorbellRead fn r record) s = .next s :=
  if_pos (by simp [unasked])

/-- R449: the poll goes on while other records are to come. -/
theorem exec_doorbellRead_more (runs : s.hqeRuns fn = true) (asked : r.toNat ∈ (s.fn fn).p.records)
    (more : (s.fn fn).p.records.erase r.toNat ≠ []) {u : State} (same : (u.fn fn).p.records = ((s.heard fn r.toNat).fn fn).p.records)
    (hears : hearDoorbell (s.heard fn r.toNat) fn r.toNat record = u) : exec (.doorbellRead fn r record) s = .next u := by
  rw [State.heard, fn_setPoll (active_of_hqeRuns runs)] at same
  rw [exec_doorbellRead record runs asked, hears, endPoll_waits (.inr (.inr (by rw [same]; exact more)))]

end doorbell

section hears
variable {s : State} {fn r : Nat} {record : BitVec 64}

theorem hearDoorbell_absent (absent : s.hring fn r = none) : hearDoorbell s fn r record = s.count (hqeBase + 0x908) := by
  rw [hearDoorbell, absent]

variable {v : HRing} (found : s.hring fn r = some v)
include found

theorem hearDoorbell_stale (stale : record.toNat / 2 ^ 32 % 65536 ≠ v.gen) : hearDoorbell s fn r record = s.count (hqeBase + 0x908) := by
  simp only [hearDoorbell, found]
  exact if_pos stale

variable (gen : record.toNat / 2 ^ 32 % 65536 = v.gen)
include gen

theorem hearDoorbell_reserved (flags : record.toNat / 2 ^ 49 ≠ 0) : hearDoorbell s fn r record = s.count (hqeBase + 0x90C) := by
  simp only [hearDoorbell, found]
  rw [if_neg (not_not_intro gen), if_pos flags]

variable (flags : record.toNat / 2 ^ 49 = 0)
include flags

theorem hearDoorbell_stopped (stopped : v.fault = true ∨ v.dying.isSome = true) :
    hearDoorbell s fn r record = s.count (hqeBase + 0x908) := by
  simp only [hearDoorbell, found]
  rw [if_neg (not_not_intro gen), if_neg (not_not_intro flags), if_pos stopped]

variable (good : v.fault = false) (alive : v.dying = none)
include good alive

theorem hearDoorbell_taken (room : (record.toNat % 2 ^ 32 + 2 ^ 32 - v.ci) % 2 ^ 32 ≤ ringEntries v.sizeCode) :
    hearDoorbell s fn r record =
      (s.setHring fn r { v with pi := record.toNat % 2 ^ 32, solicit := record.getLsbD 48 }).setPoll fn
        { (s.fn fn).p with found := (s.fn fn).p.found || record.toNat % 2 ^ 32 != v.pi } := by
  simp only [hearDoorbell, found]
  rw [if_neg (not_not_intro gen), if_neg (not_not_intro flags), if_neg (by simp [good, alive]), if_neg (Nat.not_lt.2 room)]

/-- R445: a producer index beyond the ring is a FAULT with one completion, which no descriptor stands behind. -/
theorem hearDoorbell_beyond (beyond : ringEntries v.sizeCode < (record.toNat % 2 ^ 32 + 2 ^ 32 - v.ci) % 2 ^ 32) (notRx : v.typ ≠ .rx) :
    ∃ (cookie w6 : Word) (c : Nat), hearDoorbell s fn r record =
      postCompletion (State.setHring { s with freeCtr := c } fn r { v with fault := true }) fn v.cq
        { d := completion v.typ.kind 2 r cookie (BitVec.ofNat 32 (v.ci % 65536)) 0 s.now (if v.typ = .tx then w6 else 0) 0
          solicit := false } := by
  simp only [hearDoorbell, found]
  rw [if_neg (not_not_intro gen), if_neg (not_not_intro flags), if_neg (by simp [good, alive]), if_pos beyond]
  exact ⟨_, _, _, if_neg notRx⟩

end hears

section entry
variable {s : State} {fn : Nat} (active : (s.fn fn).active = true)
include active

theorem signalVector_poll (v : Nat) : ((signalVector s fn v).fn fn).p = (s.fn fn).p := by
  rw [signalVector_eq]
  split
  · rfl
  · split
    · rfl
    · rw [fn_setFn (ne_reset_of_active (by exact active))]

theorem signalCq_poll (q : Nat) (solicit : Bool) : ((signalCq s fn q solicit).fn fn).p = (s.fn fn).p := by
  unfold signalCq
  split
  · rfl
  · next c _ =>
    dsimp only
    split
    · exact signalVector_poll (s := s.setCq fn q { c with unsignalled := 0 }) active c.vector
    · rfl

/-- R458: an entry leaves the poll of a function that is active. -/
theorem postCompletion_poll (q : Nat) (e : Completion) : ((postCompletion s fn q e).fn fn).p = (s.fn fn).p := by
  unfold postCompletion
  split
  · rfl
  · split
    · unfold writeEntry
      dsimp only
      have same (m : Mems) (c : Cq) : ((s.setMems m).setCq fn q c).fn fn = s.fn fn := rfl
      rw [signalCq_poll, same]
      rw [same]
      exact active
    · rfl

end entry

/-! ### Descriptor fetches (R450, R452, R460) -/

/-- R452, R460: a TX or CMD ring waits for room in its completion ring, and a TX ring for its port. -/
theorem mayFetch_iff (s : State) (fn : Nat) (v : HRing) : s.mayFetch fn v = true ↔ v.typ = .rx ∨
    (¬(∃ q, s.hcq fn v.cq = some q ∧ q.full = true) ∧
      (v.typ = .cmd ∨ (s.gateOpen = true ∧ s.xoff (s.hostInput fn) v.prio = false))) := by
  unfold State.mayFetch
  cases s.hcq fn v.cq <;> cases v.typ <;> simp [and_assoc]

/-- R57, R450: descriptors join those fetched, each with the index of its entry, the first with the next fetch timestamp. -/
theorem takeDescriptors_eq (ds : List Desc) {v : HRing} (low : v.ci < 2 ^ 32) (s : State) : ∃ (tim : Tim) (l : List HDesc),
    takeDescriptors v s ds = ({ s with tim := tim }, { v with ci := (v.ci + ds.length) % 2 ^ 32, fetched := v.fetched ++ l }) ∧
    l.map (·.d) = ds ∧
    (∀ i x, l[i]? = some x → x.idx = (v.ci + i) % 2 ^ 32 % ringEntries v.sizeCode ∧ x.solicit = v.solicit) ∧
    ∀ x, l[0]? = some x → x.stamp = (s.stamp 33 s.now).1 := by
  induction ds generalizing v s with
  | nil => exact ⟨s.tim, [], by rw [List.length_nil, Nat.add_zero, Nat.mod_eq_of_lt low, List.append_nil]; rfl, rfl, by simp, by simp⟩
  | cons d ds ih =>
    let first : HDesc := { d := d, idx := v.ci % ringEntries v.sizeCode, stamp := (s.stamp 33 s.now).1, solicit := v.solicit }
    obtain ⟨tim, l, taken, descs, entries, -⟩ :=
      ih (v := { v with ci := (v.ci + 1) % 2 ^ 32, fetched := v.fetched ++ [first] }) (Nat.mod_lt _ (by decide)) (s.stamp 33 s.now).2
    refine ⟨tim, first :: l, ?_, by rw [List.map_cons, descs], fun i x at_i => ?_, fun x head => ?_⟩
    · have count : ((v.ci + 1) % 2 ^ 32 + ds.length) % 2 ^ 32 = (v.ci + (d :: ds).length) % 2 ^ 32 := by
        rw [List.length_cons]
        omega
      refine taken.trans ?_
      dsimp only
      rw [count, List.append_assoc]
      rfl
    · cases i with
      | zero =>
        cases Option.some.inj at_i
        exact ⟨by rw [Nat.add_zero, Nat.mod_eq_of_lt low], rfl⟩
      | succ i =>
        obtain ⟨idx, solicit⟩ := entries i x at_i
        have place : ((v.ci + 1) % 2 ^ 32 + i) % 2 ^ 32 = (v.ci + (i + 1)) % 2 ^ 32 := by omega
        exact ⟨by rw [idx, ← place], solicit⟩
    · cases Option.some.inj head
      rfl

theorem exec_descriptorFetch {s : State} {fn : Fin 1028} {r : BitVec 16} {ds : List Desc} {v : HRing}
    (found : s.hring fn r.toNat = some v) (good : v.fault = false) (alive : v.dying = none) :
    let asked := askRead s fn (v.base + 32 * (v.ci % ringEntries v.sizeCode)) (32 * ds.length)
    exec (.descriptorFetch fn r ds) s =
      if s.hqeRuns fn = false ∨ s.mayFetch fn v = false ∨ ds = [] ∨ s.fetchMax < ds.length ∨
          (v.pi + 2 ^ 32 - v.ci) % 2 ^ 32 < ds.length
      then .next s
      else .next (((takeDescriptors v asked ds).1.setHring fn r.toNat (takeDescriptors v asked ds).2).countN (hqeBase + 0x904)
        ds.length) := by
  have active : s.activeRing fn r.toNat = some v := by simp [State.activeRing, found, good, alive]
  change execDescriptorFetch fn r ds s = _
  simp only [execDescriptorFetch, active, Bool.not_eq_true', List.isEmpty_iff]

end Sys2Proof.Machine

open Sys2Proof Sys2Proof.Machine Host

theorem pollsFindDoorbells : Claim.PollsFindDoorbells := by
  intro s fn f p counted rs
  refine ⟨fun due gap turn => ⟨exec_hqePoll_bitmap due gap turn, exec_hqePoll_records due gap turn⟩, exec_hqePoll_early,
    fun line runs awaited => ?_, fun slot old runs awaited => ?_, exec_unserved⟩
  · have active := active_of_hqeRuns runs
    have row := exec_summaryReadDone (line := line) runs awaited
    intro ws
    refine ⟨fun words => row.trans (congrArg _ (endPoll_waits (.inr (.inl ?_)))), fun none polls swaps records idle => ?_⟩
    · change ((s.setPoll fn _).fn fn).p.swaps ≠ []
      rw [fn_setPoll active]
      exact List.append_ne_nil_of_right_ne_nil _ words
    · have none : lineWords line = [] := none
      have quiet : { p with line := false, swaps := p.swaps ++ [] } = { Poll.none with active := true } := by
        simp only [Poll.none, polls, swaps, records, idle, List.append_nil]
      rw [none] at row
      refine row.trans (congrArg _ ?_)
      change endPoll (s.setPoll fn { p with line := false, swaps := p.swaps ++ [] }) fn = _
      rw [quiet, endPoll_idle (by rw [fn_setPoll active]), State.pollMax, fn_setPoll active, State.setPoll,
        setFn_setFn (ne_reset_of_active (by exact active))]
      rfl
  · have active := active_of_hqeRuns runs
    intro bits
    refine ⟨fun first some => ?_, fun second => ?_⟩
    · have named : (namedWords slot.toNat old).map (8 + ·) ≠ [] := by
        obtain ⟨b, rest, split⟩ := List.exists_cons_of_ne_nil some
        have split : setBits old = b :: rest := split
        simp [namedWords, split]
      rw [Does, exec_atomicSwapDone_first runs awaited old first, endPoll_waits (.inr (.inl ?more))]
      case more =>
        change ((s.setPoll fn _).fn fn).p.swaps ≠ []
        rw [fn_setPoll active]
        exact List.append_ne_nil_of_right_ne_nil _ named
      refine ⟨_, rfl, ?_, rfl, rfl⟩
      change ((s.setPoll fn _).fn fn).p.swaps = _
      rw [fn_setPoll active]
      rfl
    · obtain ⟨sent, counted, only⟩ := foldl_bitmapRing fn ((setBits old).map (64 * (slot.toNat - 8) + ·))
        (s := s.setPoll fn { p with swaps := p.swaps.erase slot.toNat }) (by rw [fn_setPoll active]; exact active)
      rw [fn_setPoll active] at sent
      rw [Does, exec_atomicSwapDone_second runs awaited old second, endPoll_only]
      exact ⟨_, rfl, sent, counted, by rw [only]; rfl⟩

theorem doorbellsAreChecked : Claim.DoorbellsAreChecked := by
  intro s fn r record runs f p heard counts gen flags pi
  have active := active_of_hqeRuns runs
  have own : heard.fn fn = { f with p := { p with records := p.records.erase r.toNat } } := fn_setPoll active _
  have stays : (heard.fn fn).active = true := by rw [own]; exact active
  refine ⟨exec_doorbellRead_unasked record, fun asked more => ?_, fun single absent => ?_⟩
  · have goes {u : State} (same : (u.fn fn).p.records = (heard.fn fn).p.records)
        (hears : hearDoorbell heard fn r.toNat record = u) : exec (.doorbellRead fn r record) s = .next u :=
      exec_doorbellRead_more record runs asked more same hears
    refine ⟨fun absent => goes rfl (hearDoorbell_absent absent), fun v found => ?_⟩
    have found : heard.hring fn r.toNat = some v := found
    refine ⟨fun stale => goes rfl (hearDoorbell_stale found stale), fun gen flags => goes rfl (hearDoorbell_reserved found gen flags),
      fun gen flags stopped => goes rfl (hearDoorbell_stopped found gen flags stopped), fun gen flags good alive => ?_⟩
    intro ahead
    refine ⟨fun room => ?_, fun beyond notRx => ?_⟩
    · have taken := hearDoorbell_taken found gen flags good alive room
      rw [own] at taken
      refine (goes ?_ taken).trans (congrArg _ ?_)
      · rw [fn_setPoll (by exact stays), own]
      · exact setPoll_setPoll (s := s.setHring fn r.toNat { v with pi := pi, solicit := record.getLsbD 48 }) active _ _
    · obtain ⟨cookie, w6, c, faults⟩ := hearDoorbell_beyond found gen flags good alive beyond notRx
      exact ⟨cookie, w6, c, goes (congrArg Poll.records (postCompletion_poll (by exact stays) ..)) faults⟩
  · have single : (s.fn fn).p = { Poll.none with active := true, records := [r.toNat] } := single
    have absent : heard.hring fn r.toNat = none := absent
    have last : { p with records := p.records.erase r.toNat } = { Poll.none with active := true } := by
      change { (s.fn fn).p with records := (s.fn fn).p.records.erase r.toNat } = _
      rw [single]
      simp [Poll.none]
    rw [last] at own
    rw [exec_doorbellRead record runs (by simp [single])]
    change Outcome.next (endPoll (hearDoorbell heard fn r.toNat record) fn) = _
    rw [hearDoorbell_absent absent, endPoll_idle (s := heard.count (hqeBase + 0x908)) (congrArg HqeFn.p own)]
    have same : (heard.count (hqeBase + 0x908)).fn fn = heard.fn fn := rfl
    rw [State.pollMax, same, own]
    exact congrArg (fun t => Outcome.next (State.count t (hqeBase + 0x908))) (setFn_setFn (ne_reset_of_active (by exact active)) _)

theorem descriptorsAreFetchedInOrder : Claim.DescriptorsAreFetchedInOrder := by
  intro s fn r ds v found good alive left size full may
  have permitted : s.mayFetch fn v = true ↔ may := mayFetch_iff s fn v
  refine ⟨fun runs may some limit there low => ?_, fun refused => ?_⟩
  · obtain ⟨tim, l, taken, descs, entries, first⟩ :=
      takeDescriptors_eq ds low (askRead s fn (v.base + 32 * (v.ci % ringEntries v.sizeCode)) (32 * ds.length))
    have passes : ¬(s.hqeRuns fn = false ∨ s.mayFetch fn v = false ∨ ds = [] ∨ s.fetchMax < ds.length ∨ left < ds.length) := by
      simp [runs, permitted.2 may, some, Nat.not_lt.2 limit, Nat.not_lt.2 there]
    rw [Does, exec_descriptorFetch found good alive, if_neg passes, taken]
    exact ⟨_, rfl, l, descs, entries, first, hring_setHring _ fn r.toNat _, rfl, rfl, rfl⟩
  · rw [exec_descriptorFetch found good alive, if_pos]
    rw [← permitted, Bool.not_eq_true] at refused
    exact refused

end

section
/-! SUPPORT. The descriptors that the host queue engine works off (R450–R457): segments and data of transmit frames, and receive buffers,
each with the completion that it ends in. -/

namespace Sys2Proof.Machine

open Host

/-! ### Completions of a ring that stays (R453, R457, R469) -/

theorem failDescriptor_tx {v : HRing} (tx : v.typ = .tx) (s : State) (fn r status idx : Nat) (cookie w6 : Word) (solicit : Bool) :
    failDescriptor s fn r v status idx cookie w6 solicit = postCompletion s fn v.cq
      { d := completion 1 status r cookie (BitVec.ofNat 32 (idx % 65536)) 0 s.now w6 0, solicit := solicit } := by
  simp [failDescriptor, tx, RingType.kind]

/-- The completion of an RX descriptor names its entry in the low half of W2. -/
theorem bits_low_or (n : Word) (idx : Nat) : bits ((n &&& 0x7FF00000) ||| BitVec.ofNat 32 (idx % 65536)) 15 0 = idx % 65536 := by
  have mask : n.toNat % 2 ^ 16 &&& 0x7FF00000 % 2 ^ 16 = 0 := Nat.and_zero _
  have low : BitVec.toNat (0x7FF00000 : Word) = 0x7FF00000 := rfl
  rw [bits, Nat.pow_zero, Nat.div_one, BitVec.toNat_or, BitVec.toNat_and, low, BitVec.toNat_ofNat, Nat.or_mod_two_pow,
    Nat.and_mod_two_pow, mask, Nat.zero_or]
  omega

theorem failDescriptor_rx {v : HRing} (rx : v.typ = .rx) (s : State) (fn r status idx : Nat) (cookie w : Word) (solicit : Bool) :
    ∃ (w2 w3 w6 w7 : Word) (c : Nat), bits w2 15 0 = idx % 65536 ∧ failDescriptor s fn r v status idx cookie w solicit =
      postCompletion { s with freeCtr := c } fn v.cq { d := completion 2 status r cookie w2 w3 s.now w6 w7, solicit := solicit } := by
  rw [failDescriptor, if_pos rx]
  exact ⟨_, _, _, _, _, bits_low_or _ idx, rfl⟩

section alive
variable {s : State} {fn r : Nat} {v : HRing} (found : s.hring fn r = some v) (alive : v.dying = none)
include found alive

theorem finishDestroy_posted (q : Nat) (e : Completion) : finishDestroy (postCompletion s fn q e) fn r = postCompletion s fn q e :=
  finishDestroy_alive ((hring_of_rings (postCompletion_rings ..) fn r).trans found) alive

variable (good : v.fault = false)
include good

/-- R453: a transmit frame of a ring that is ACTIVE completes once. -/
theorem finishDestroy_completeTx (f : TxFrame) {status : Nat} (noDma : status ≠ stDmaError) (reason : Nat) :
    finishDestroy (completeTx s fn r f status reason) fn r = postCompletion s fn v.cq
      { d := completion 1 status r f.cookie (BitVec.ofNat 32 (f.idx + reason * 65536)) 0 s.now (f.ots.setWidth 32) 0
        solicit := f.solicit } := by
  simp only [completeTx, found, good, Bool.false_eq_true, if_false, if_neg noDma]
  exact finishDestroy_posted found alive ..

theorem finishDestroy_completeTx_dma (f : TxFrame) (reason : Nat) :
    finishDestroy (completeTx s fn r f stDmaError reason) fn r = postCompletion (s.count (hqeBase + 0x920)) fn v.cq
      { d := completion 1 stDmaError r f.cookie (BitVec.ofNat 32 (f.idx + reason * 65536)) 0 s.now (f.ots.setWidth 32) 0
        solicit := f.solicit } := by
  simp only [completeTx, found, good, Bool.false_eq_true, if_false, if_true]
  exact finishDestroy_posted (s := s.count (hqeBase + 0x920)) found alive ..

end alive

/-! ### Segments (R451) -/

/-- R451: the data of a segment is asked for, unless its frame is bad. -/
def State.segmentAsked (s : State) (fn : Nat) (h : HDesc) (f : TxFrame) : State :=
  { s with sent := if f.bad = true then s.sent
    else .hostRead fn (h.d.w2.toNat + 2 ^ 32 * h.d.w3.toNat) (bits h.d.w0 29 16) :: s.sent }

theorem malformed_iff (f : TxFrame) : f.malformed = true ↔ f.bad = true ∨ 16 < f.segs ∨ f.total ≠ f.frameLen := by
  simp [TxFrame.malformed, or_assoc]

section segment
variable {s : State} {fn : Fin 1028} {r : BitVec 16} {v : HRing} {h : HDesc} {rest : List HDesc}
  (found : s.hring fn r.toNat = some v) (tx : v.typ = .tx) (runs : s.hqeRuns fn = true) (fetched : v.fetched = h :: rest)
include found tx runs fetched

theorem exec_txSeg_other (alive : v.dying = none) (other : bits h.d.w0 7 0 ≠ 0x01) : exec (.txSeg fn r) s = .next
    (postCompletion (s.setHring fn r.toNat { v with fetched := rest }) fn v.cq
      { d := completion 1 1 r.toNat h.d.w1 (BitVec.ofNat 32 (h.idx % 65536)) 0 s.now (h.stamp.setWidth 32) 0, solicit := h.solicit }) := by
  have left := hring_setHring s fn r.toNat { v with fetched := rest }
  change execTxSeg fn r s = _
  simp only [execTxSeg, found, fetched]
  rw [if_neg (by simp [runs, tx]), if_pos other, failDescriptor_tx tx, finishDestroy_posted left alive]
  rfl

variable (segment : bits h.d.w0 7 0 = 0x01)
include segment

/-- R451: what a segment makes of the frame that is being gathered. -/
theorem exec_txSeg : exec (.txSeg fn r) s = .next (
    let f := addSegment h v.frame
    let t := s.segmentAsked fn h f
    if bitAt h.d.w0 9 = false then t.setHring fn r.toNat { v with fetched := rest, frame := some f }
    else if f.malformed = true then
      finishDestroy (completeTx (t.setHring fn r.toNat { v with fetched := rest, frame := none }) fn r.toNat f stBadField 0) fn r.toNat
    else t.setHring fn r.toNat { v with fetched := rest, frame := none, reads := v.reads ++ [f] }) := by
  have asked (f : TxFrame) : s.segmentAsked fn h f = if f.bad then s
      else askRead s fn (h.d.w2.toNat + 2 ^ 32 * h.d.w3.toNat) (bits h.d.w0 29 16) := by
    rw [State.segmentAsked]
    split <;> rfl
  change execTxSeg fn r s = _
  simp only [execTxSeg, found, fetched]
  rw [if_neg (by simp [runs, tx]), if_neg (not_not_intro segment)]
  rw [asked, ← apply_ite Outcome.next, ← apply_ite Outcome.next]
  simp only [Bool.not_eq_true']

end segment

/-! ### Frame data (R352, R451–R453) -/

theorem foldl_hqe {α : Type} {f : State → α → State} (hf : ∀ st x, (f st x).hqe = st.hqe) (l : List α) (s : State) :
    (l.foldl f s).hqe = s.hqe := by
  induction l generalizing s with
  | nil => rfl
  | cons x l ih => rw [List.foldl_cons, ih, hf]

theorem hbmWrite_hqe (s : State) (a : Nat) (bs : List Byte) : (hbmWrite s a bs).hqe = s.hqe := by
  unfold hbmWrite
  dsimp only
  rw [State.setMems_hqe, foldl_hqe (fun st l => by split <;> rfl), foldl_hqe (fun st b => by split <;> rfl)]

theorem bufWrite_hqe (s : State) (h i : Nat) (bs : List Byte) : (s.bufWrite h i bs).hqe = s.hqe := by
  unfold State.bufWrite
  split
  · exact hbmWrite_hqe ..
  · rfl

theorem writeParts_hqe (hs : List Nat) (parts : List (List Byte)) (s : State) : (writeParts hs parts s).hqe = s.hqe := by
  induction hs generalizing parts s with
  | nil => rfl
  | cons h hs ih => cases parts with
    | nil => rfl
    | cons b bs => exact (ih _ _).trans ((bufWrite_hqe ..).trans (bufWrite_hqe ..))

theorem takeBuffer_hqe {s t : State} {p h : Nat} (taken : s.takeBuffer p = some (h, t)) : t.hqe = s.hqe := by
  unfold State.takeBuffer at taken
  dsimp only at taken
  split at taken
  · cases taken
    rfl
  · split at taken
    · cases taken
      rfl
    · split at taken <;> cases taken
      rfl

theorem admitBuffers_hqe {p n : Nat} {s t : State} {hs : List Nat} (taken : admitBuffers p n s = some (hs, t)) : t.hqe = s.hqe := by
  induction n generalizing s hs with
  | zero =>
    cases taken
    rfl
  | succ n ih =>
    unfold admitBuffers at taken
    split at taken
    · cases taken
    · next first =>
      split at taken
      · cases taken
      · next others =>
        cases taken
        rw [ih others, State.count_hqe, takeBuffer_hqe first]

theorem admitFrame_hqe (s : State) (p : Nat) (frame : List Byte) : (admitFrame s p frame).1.hqe = s.hqe := by
  unfold admitFrame
  dsimp only
  split
  · next taken =>
    split at taken
    · rw [writeParts_hqe, State.setTrays_hqe, admitBuffers_hqe taken]
    · cases taken
  · rfl

theorem occAdd_hqe (s : State) (i k n : Nat) : (occAdd s i k n).hqe = s.hqe := by
  unfold occAdd
  dsimp only
  split <;> rfl

theorem occSub_hqe (s : State) (i k n : Nat) : (occSub s i k n).hqe = s.hqe := by
  unfold occSub
  dsimp only
  split <;> rfl

/-- R352: admission leaves the rings. -/
theorem admitPacket_hqe (s : State) (k : Pkt) (pool : Nat) (frame : List Byte) : (admitPacket s k pool frame).1.hqe = s.hqe := by
  have admitted := admitFrame_hqe s pool frame
  unfold admitPacket
  dsimp only
  split
  · exact (occSub_hqe ..).trans (occAdd_hqe ..)
  · split
    · next refused =>
      rw [refused] at admitted
      exact ((occSub_hqe ..).trans (occAdd_hqe ..)).trans admitted
    · next stored =>
      rw [stored] at admitted
      exact (occAdd_hqe ..).trans admitted

theorem cshAdmit_hqe (s : State) (h : Nat) : (cshAdmit s h).hqe = s.hqe := by
  unfold cshAdmit
  dsimp only
  split
  · rfl
  · split
    · rfl
    · unfold State.cshOffer
      split <;> rfl

theorem offerLoupe_hqe (s : State) (h : Nat) : (offerLoupe s h).hqe = s.hqe := cshAdmit_hqe ..

/-- R451–R453: the packet that a gathered frame becomes. -/
def State.hostPacket (s : State) (fn r : Nat) (v : HRing) (f : TxFrame) : Pkt := { Pkt.none with
  input := s.hostInput fn, prio := v.prio, ots := f.ots, arrival := f.ots, node := BitVec.ofNat 14 s.ownNode
  sport := BitVec.ofNat 5 (s.hostInput fn), port := BitVec.ofNat 5 (s.hostInput fn), fn := fn, hring := r, held := s.heldFrom s.now }

section admission
variable {s t : State} {fn r : Nat} {v : HRing} {f : TxFrame} {data : List Byte}

theorem hostAdmit_refused (refused : admitPacket s (s.hostPacket fn r v f) (s.admitPool 4) data = (t, none)) :
    hostAdmit s fn r v f data = completeTx t fn r f stDropped
      (if s.overLimit (s.hostPacket fn r v f) (s.admitPool 4) data = true then 2 else 1) := by
  unfold State.hostPacket at refused ⊢
  simp only [hostAdmit, refused]

theorem hostAdmit_admitted {h : Nat} (admitted : admitPacket s (s.hostPacket fn r v f) (s.admitPool 4) data = (t, some h)) :
    hostAdmit s fn r v f data = completeTx (offerLoupe t h) fn r f stOk 0 := by
  unfold State.hostPacket at admitted
  simp only [hostAdmit, admitted]

end admission

section data
variable {s : State} {fn : Fin 1028} {r : BitVec 16} {v : HRing} {f : TxFrame} {rest : List TxFrame}
  (found : s.hring fn r.toNat = some v) (reads : v.reads = f :: rest)
include found reads

theorem exec_txDataReadDone_short {data : List Byte} (short : data.length ≠ f.frameLen) :
    exec (.txDataReadDone fn r data true) s = .next s := by
  change execTxDataReadDone fn r data true s = _
  simp only [execTxDataReadDone, found, reads]
  exact if_pos (.inr ⟨trivial, short⟩)

variable (runs : s.hqeRuns fn = true)
include runs

theorem exec_txDataReadDone_failed (data : List Byte) : exec (.txDataReadDone fn r data false) s = .next
    (finishDestroy (completeTx (s.setHring fn r.toNat { v with reads := rest }) fn r.toNat f stDmaError 0) fn r.toNat) := by
  change execTxDataReadDone fn r data false s = _
  simp only [execTxDataReadDone, found, reads]
  rw [if_neg (by simp [runs])]
  rfl

theorem exec_txDataReadDone_whole {data : List Byte} (whole : data.length = f.frameLen) : exec (.txDataReadDone fn r data true) s = .next
    (finishDestroy (hostAdmit (s.setHring fn r.toNat { v with reads := rest }) fn r.toNat v f data) fn r.toNat) := by
  change execTxDataReadDone fn r data true s = _
  simp only [execTxDataReadDone, found, reads]
  rw [if_neg (by simp [runs, whole])]
  rfl

end data

/-! ### Receive buffers (R454) -/

theorem rxBufOk_iff (d : Desc) : rxBufOk d = true ↔
    bits d.w0 31 8 = 0 ∧ 64 ≤ d.w4.toNat ∧ d.w4.toNat ≤ 16384 ∧ d.w5 = 0 ∧ d.w6 = 0 ∧ d.w7 = 0 := by
  simp [rxBufOk, and_assoc]

section buffer
variable {s : State} {fn : Fin 1028} {r : BitVec 16} {v : HRing} {h : HDesc} {rest : List HDesc} (rx : v.typ = .rx)
include rx

/-- R457: an RX descriptor that is refused with `status` completes with what names it. -/
theorem rxBuf_refused (alive : v.dying = none) (status : Nat) (refused : exec (.rxBuf fn r) s = .next (finishDestroy (failDescriptor
      (s.setHring fn r.toNat { v with fetched := rest }) fn r.toNat v status h.idx h.d.w1 0 h.solicit) fn r.toNat)) :
    ∃ (w2 w3 w6 w7 : Word) (c : Nat), bits w2 15 0 = h.idx % 65536 ∧ exec (.rxBuf fn r) s = .next
      (postCompletion (State.setHring { s with freeCtr := c } fn r.toNat { v with fetched := rest }) fn v.cq
        { d := completion 2 status r.toNat h.d.w1 w2 w3 s.now w6 w7, solicit := h.solicit }) := by
  obtain ⟨w2, w3, w6, w7, c, entry, failed⟩ := failDescriptor_rx rx (s.setHring fn r.toNat { v with fetched := rest }) fn r.toNat status
    h.idx h.d.w1 0 h.solicit
  have left := hring_setHring { s with freeCtr := c } fn r.toNat { v with fetched := rest }
  refine ⟨w2, w3, w6, w7, c, entry, ?_⟩
  rw [refused, failed]
  exact congrArg _ (finishDestroy_posted left alive ..)

variable (found : s.hring fn r.toNat = some v) (fetched : v.fetched = h :: rest) (runs : s.hqeRuns fn = true)
include found fetched runs

theorem exec_rxBuf_other (other : bits h.d.w0 7 0 ≠ 0x10) : exec (.rxBuf fn r) s = .next (finishDestroy (failDescriptor
    (s.setHring fn r.toNat { v with fetched := rest }) fn r.toNat v stBadOpcode h.idx h.d.w1 0 h.solicit) fn r.toNat) := by
  change execRxBuf fn r s = _
  simp only [execRxBuf, found, fetched]
  rw [if_neg (by simp [runs, rx]), if_pos other]

variable (buffer : bits h.d.w0 7 0 = 0x10)
include buffer

theorem exec_rxBuf_bad (bad : rxBufOk h.d = false) : exec (.rxBuf fn r) s = .next (finishDestroy (failDescriptor
    (s.setHring fn r.toNat { v with fetched := rest }) fn r.toNat v stBadField h.idx h.d.w1 0 h.solicit) fn r.toNat) := by
  change execRxBuf fn r s = _
  simp only [execRxBuf, found, fetched]
  rw [if_neg (by simp [runs, rx]), if_neg (not_not_intro buffer), if_pos (by simp [bad])]

theorem exec_rxBuf_posted (alive : v.dying = none) (good : rxBufOk h.d = true) : exec (.rxBuf fn r) s = .next (s.setHring fn r.toNat { v with
    fetched := rest
    posted := v.posted ++ [{ cookie := h.d.w1, addr := h.d.w2.toNat + 2 ^ 32 * h.d.w3.toNat, len := h.d.w4.toNat, idx := h.idx
                             solicit := h.solicit }] }) := by
  change execRxBuf fn r s = _
  simp only [execRxBuf, found, fetched]
  rw [if_neg (by simp [runs, rx]), if_neg (not_not_intro buffer), if_neg (by simp [good]),
    finishDestroy_alive (hring_setHring ..) (by exact alive)]

end buffer

end Sys2Proof.Machine

open Sys2Proof Sys2Proof.Machine Host

theorem framesAreTransmitted : Claim.FramesAreTransmitted := by
  intro s fn r v found typ good alive runs tx
  refine ⟨fun h rest fetched => ?_, fun f rest data reads => ?_⟩
  · intro f asks goes
    refine ⟨exec_txSeg_other found typ runs fetched alive, fun segment => ?_⟩
    have row := exec_txSeg found typ runs fetched segment
    refine ⟨fun more => ?_, fun last sound segs total => ?_, fun last broken => ?_⟩
    · exact row.trans (congrArg Outcome.next (if_pos more))
    · have formed : ¬f.malformed = true := by
        rw [malformed_iff]
        simp [sound, Nat.not_lt.2 segs, total]
      exact row.trans (congrArg Outcome.next ((if_neg (by simp [last])).trans (if_neg formed)))
    · refine row.trans (congrArg Outcome.next ((if_neg (by simp [last])).trans ((if_pos ((malformed_iff f).2 broken)).trans ?_)))
      exact finishDestroy_completeTx (hring_setHring ..) (by exact alive) (by exact good) f (by decide) 0
  · intro taken inp k
    have left : taken.hring fn r.toNat = some { v with reads := rest } := hring_setHring ..
    refine ⟨?_, fun whole => ⟨fun t refused => ?_, fun t m admitted => ?_⟩, exec_txDataReadDone_short found reads⟩
    · rw [exec_txDataReadDone_failed found reads runs]
      exact congrArg Outcome.next (finishDestroy_completeTx_dma left (by exact alive) (by exact good) f 0)
    · have rings : t.hqe = taken.hqe := (congrArg (·.1.hqe) refused).symm.trans (admitPacket_hqe ..)
      have left := (hring_of_rings (congrArg Hqe.rings rings) fn r.toNat).trans left
      rw [exec_txDataReadDone_whole found reads runs whole, hostAdmit_refused refused,
        finishDestroy_completeTx left (by exact alive) (by exact good) f (by decide)]
      rfl
    · have rings : (offerLoupe t m).hqe = taken.hqe :=
        (offerLoupe_hqe t m).trans ((congrArg (·.1.hqe) admitted).symm.trans (admitPacket_hqe ..))
      have left := (hring_of_rings (congrArg Hqe.rings rings) fn r.toNat).trans left
      rw [exec_txDataReadDone_whole found reads runs whole, hostAdmit_admitted admitted,
        finishDestroy_completeTx left (by exact alive) (by exact good) f (by decide)]
      rfl

theorem copiesAreDelivered : Claim.CopiesAreDelivered := by
  intro s fn r v h rest found rx alive fetched runs sound b fails
  refine ⟨fun buffer good => exec_rxBuf_posted rx found fetched runs buffer alive ((rxBufOk_iff h.d).2 good), fun other => ?_,
    fun buffer bad => ?_⟩
  · exact rxBuf_refused rx alive stBadOpcode (exec_rxBuf_other rx found fetched runs other)
  · have bad : rxBufOk h.d = false := by rwa [← Bool.not_eq_true, rxBufOk_iff]
    exact rxBuf_refused rx alive stBadField (exec_rxBuf_bad rx found fetched runs buffer bad)

end

section
/-! SUPPORT. What the host queue engine hands over (R382, R455–R464): a HOST copy by the first row that applies to it, and the entries of a
completion ring with their signals. -/

namespace Sys2Proof.Machine

open Host

/-! ### What becomes of a HOST copy (R455) -/

section act
variable {s : State} {c : SwtCopy} {fn r : Nat} (owner : s.ringOwner (outDest c.out) = (fn, r))
include owner

theorem hostAct_absent (absent : s.hring fn r = none) : s.hostAct c = .notActive := by
  simp only [State.hostAct, owner, absent]

variable {v : HRing} (found : s.hring fn r = some v)
include found

theorem hostAct_inactive (off : v.fault = true ∨ v.dying.isSome = true ∨ (s.fn fn).flrBusy = true) : s.hostAct c = .notActive := by
  simp only [State.hostAct, owner, found]
  exact if_pos (.inr off)

variable (rx : v.typ = .rx) (good : v.fault = false) (alive : v.dying = none) (free : (s.fn fn).flrBusy = false)
include rx good alive free

theorem hostAct_short (short : buffersFor c.len v.posted = none) :
    s.hostAct c = if 8 ≤ v.posted.length then .tooBig else if v.nobuf = true then .noBuffer else .wait := by
  simp only [State.hostAct, owner, found]
  rw [if_neg (by simp [rx, good, alive, free]), short]

variable {n : Nat} (fits : buffersFor c.len v.posted = some n)
include fits

theorem hostAct_scattered (many : 8 < n) : s.hostAct c = .tooBig := by
  simp only [State.hostAct, owner, found]
  rw [if_neg (by simp [rx, good, alive, free]), fits]
  exact if_pos many

theorem hostAct_fits (few : n ≤ 8) {q : Cq} (cq : s.hcq fn v.cq = some q) :
    s.hostAct c = if q.noRoom = true then .wait else .write n := by
  simp only [State.hostAct, owner, found]
  rw [if_neg (by simp [rx, good, alive, free]), fits]
  dsimp only
  rw [if_neg (Nat.not_lt.2 few), cq]

end act

/-- R455: a HOST copy is refused with its count, goes back to the head of its queue, or is written. -/
def State.handOver (s : State) (o : Nat) (c : SwtCopy) : HostAct → State
  | .notActive => refuseHost s o c
  | .tooBig => refuseHost (s.count (hqeBase + 0x91C)) o c
  | .noBuffer => refuseHost (s.count (hqeBase + 0x918)) o c
  | .wait => requeueCopy s o c
  | .write n => writeCopy s o c n

theorem exec_rxDeliver {s : State} {o : Fin 22} {c : SwtCopy} (sending : (s.swtOut o).tx = some c) (host : outDtype c.out = 2)
    {a : HostAct} (act : s.hostAct c = a) : exec (.rxDeliver o) s = .next (s.handOver o c a) := by
  change execRxDeliver o s = _
  simp only [execRxDeliver, sending]
  rw [if_neg (not_not_intro host), act]
  cases a <;> rfl

/-- R455, R457, R460: the data fills the posted buffers in turn, and the completion follows. -/
theorem writeCopy_filled {s : State} {c : SwtCopy} {fn r : Nat} (owner : s.ringOwner (outDest c.out) = (fn, r)) {v : HRing}
    (found : s.hring fn r = some v) {x : RelState} (rel : sfind s.swt.rels c.rel = some x) {b : RxBuf} {bs : List RxBuf}
    (posted : v.posted = b :: bs) (o n : Nat) :
    writeCopy s o c n = finishCopy (postCompletion
      ((s.setMems { s.mems with host := fillBuffers s.mems.host (v.posted.take n) (s.copyBytes c) }).setHring fn r
        { v with posted := v.posted.drop n }) fn v.cq
      { d := rxCompletion s r n b x.r (if c.bad = true then stDataEcc else stOk) (s.copyBytes c).length
        solicit := (v.posted.take n).any (·.solicit) }) o c := by
  simp only [writeCopy, owner, found, rel, posted]

/-! ### Entries of a completion ring (R458, R460, R464) -/

theorem hcq_setCq (s : State) (fn q : Nat) (c : Cq) : (s.setCq fn q c).hcq fn q = some c := sfind_sins _ _ _

theorem setCq_setCq (s : State) (fn q : Nat) (c c' : Cq) : (s.setCq fn q c).setCq fn q c' = s.setCq fn q c' := by
  simp only [State.setCq, State.setHqe, sins_sins]

theorem withPhase_eq (d : Desc) (pi size : Nat) :
    withPhase d pi size = { d with w7 := (d.w7 &&& 0x7FFFFFFF) ||| at' (if pi / size % 2 = 0 then 1 else 0) 31 } := by
  simp only [withPhase, b2n, beq_iff_eq]

/-- R458: an entry goes to its place in host memory. -/
def State.entryWritten (s : State) (c : Cq) (e : Completion) : State :=
  let entry := Desc.bytes (withPhase e.d c.pi (ringEntries c.sizeCode))
  s.setMems { s.mems with host := writeBytes s.mems.host (c.base + 32 * (c.pi % ringEntries c.sizeCode)) entry }

theorem writeEntry_eq (s : State) (fn q : Nat) (c : Cq) (e : Completion) :
    writeEntry s fn q c e = if c.irq = true ∧ (e.solicit = true ∨ c.modCnt ≤ c.unsignalled + 1)
      then signalVector ((s.entryWritten c e).setCq fn q { c with pi := (c.pi + 1) % 2 ^ 32, unsignalled := 0 }) fn c.vector
      else (s.entryWritten c e).setCq fn q { c with
        pi := (c.pi + 1) % 2 ^ 32, unsignalled := c.unsignalled + 1, first := if c.unsignalled = 0 then s.now else c.first } := by
  have written : writeEntry s fn q c e =
      signalCq ((s.entryWritten c e).setCq fn q { c with pi := (c.pi + 1) % 2 ^ 32 }) fn q e.solicit := rfl
  obtain ⟨mems, stored⟩ : ∃ mems, s.entryWritten c e = s.setMems mems := ⟨_, rfl⟩
  rw [written, signalCq, hcq_setCq, stored]
  dsimp only
  rw [setCq_setCq, setCq_setCq]
  rfl

section ring
variable {s : State} {fn q : Nat} {c : Cq} (found : s.hcq fn q = some c) (e : Completion)
include found

theorem postCompletion_written (alone : c.waiting = []) (room : c.used < ringEntries c.sizeCode) (thawed : s.dev ≠ .frozen) :
    postCompletion s fn q e = writeEntry s fn q c e := by
  rw [postCompletion, found]
  exact if_pos ⟨by rw [alone]; rfl, room, thawed⟩

/-- R460, R469: an entry waits behind others, for room, and while the device is FROZEN. -/
theorem postCompletion_waits (waits : c.waiting ≠ [] ∨ ringEntries c.sizeCode ≤ c.used ∨ s.dev = .frozen) :
    postCompletion s fn q e = s.setCq fn q { c with waiting := c.waiting ++ [e] } := by
  rw [postCompletion, found]
  refine if_neg fun ⟨alone, room, thawed⟩ => ?_
  rcases waits with waits | waits | waits
  · exact waits (List.isEmpty_iff.1 alone)
  · exact absurd room (Nat.not_lt.2 waits)
  · exact thawed waits

end ring

/-- R460: a ring without room keeps its entries. -/
theorem drainWaiting_kept {s : State} {fn q : Nat} {c : Cq} (found : s.hcq fn q = some c)
    (kept : c.waiting = [] ∨ ringEntries c.sizeCode ≤ c.used) (n : Nat) : drainWaiting fn q n s = s := by
  cases n with
  | zero => rfl
  | succ n =>
    simp only [drainWaiting, found]
    split
    · rfl
    · next waiting =>
      exact if_neg (Nat.not_lt.2 (kept.resolve_left (by rw [waiting]; exact List.cons_ne_nil _ _)))

section recheck
variable {s : State} {fn : Fin 1028} {q : BitVec 16} {c : Cq} (found : s.hcq fn q.toNat = some c)
include found

/-- R460: a consumer index that lets no waiting entry go is taken, and a ring that becomes full is counted. -/
theorem exec_cqRecheck_kept (runs : s.hqeRuns fn = true) (noRoom : c.noRoom = true) (ci : Word)
    (kept : c.waiting = [] ∨ ringEntries c.sizeCode ≤ (c.pi + 2 ^ 32 - ci.toNat) % 2 ^ 32) {full : Bool}
    (value : (!c.waiting.isEmpty || decide (ringEntries c.sizeCode ≤ (c.pi + 2 ^ 32 - ci.toNat) % 2 ^ 32)) = full) :
    exec (.cqRecheck fn q ci) s = .next (
      let t := s.setCq fn q.toNat { c with ci := ci.toNat, full := full }
      if full = true ∧ c.full = false then t.count (hqeBase + 0x914) else t) := by
  subst value
  have drained : drainWaiting fn q.toNat c.waiting.length (s.setCq fn q.toNat { c with ci := ci.toNat }) =
      s.setCq fn q.toNat { c with ci := ci.toNat } := drainWaiting_kept (hcq_setCq ..) kept _
  change execCqRecheck fn q ci s = _
  simp only [execCqRecheck, found]
  rw [if_neg (by simp [runs, noRoom]), drained, hcq_setCq]
  simp only [setCq_setCq, Bool.and_eq_true, Bool.not_eq_true']
  rfl

theorem exec_cqRecheck_ignored (ignored : s.hqeRuns fn = false ∨ c.noRoom = false) (ci : Word) :
    exec (.cqRecheck fn q ci) s = .next s := by
  change execCqRecheck fn q ci s = _
  simp only [execCqRecheck, found]
  exact if_pos (by simpa using ignored)

theorem exec_modTimeExpire : exec (.modTimeExpire fn q) s = .next
    (if s.hqeRuns fn = true ∧ c.irq = true ∧ c.modTime ≠ 0 ∧ c.unsignalled ≠ 0 ∧ nsFtu (100 * c.modTime) ≤ s.elapsed c.first
      then signalVector (s.setCq fn q.toNat { c with unsignalled := 0 }) fn c.vector else s) := by
  change execModTimeExpire fn q s = _
  simp only [execModTimeExpire, found]

end recheck

end Sys2Proof.Machine

open Sys2Proof Sys2Proof.Machine Host

theorem hostCopiesWaitOrGo : Claim.HostCopiesWaitOrGo := by
  intro s o c sending host fn r refuses q waits
  have owner : s.ringOwner (outDest c.out) = (fn, r) := rfl
  refine ⟨fun absent => exec_rxDeliver sending host (hostAct_absent owner absent), fun v found rx =>
    ⟨fun off => exec_rxDeliver sending host (hostAct_inactive owner found off), fun good alive free =>
      ⟨fun short long => ?_, fun short few nobuf => ?_, fun short few keep => ?_, fun n fits => ⟨fun many => ?_, fun cq few there =>
        ⟨fun full => ?_, fun x b bs room rel posted => ?_⟩⟩⟩⟩⟩
  · exact exec_rxDeliver sending host ((hostAct_short owner found rx good alive free short).trans (if_pos long))
  · exact exec_rxDeliver sending host ((hostAct_short owner found rx good alive free short).trans
      ((if_neg (Nat.not_le.2 few)).trans (if_pos nobuf)))
  · exact exec_rxDeliver sending host ((hostAct_short owner found rx good alive free short).trans
      ((if_neg (Nat.not_le.2 few)).trans (if_neg (by simp [keep]))))
  · exact exec_rxDeliver sending host (hostAct_scattered owner found rx good alive free fits many)
  · exact exec_rxDeliver sending host ((hostAct_fits owner found rx good alive free fits few there).trans (if_pos full))
  · have act := (hostAct_fits owner found rx good alive free fits few there).trans (if_neg (by simp [room]))
    exact (exec_rxDeliver sending host act).trans (congrArg Outcome.next (writeCopy_filled owner found rel posted o n))

theorem completionRingsFillAndSignal : Claim.CompletionRingsFillAndSignal := by
  intro s fn q c e found size f entry written pi signalled
  have signals (t : State) (own : t.fn fn = f) (same : t.sent = s.sent) : signalVector t fn c.vector = signalled t := by
    rw [signalVector_eq, own, same]
  have place : s.entryWritten c e = written := by
    rw [State.entryWritten, withPhase_eq]
    rfl
  obtain ⟨mems, stored⟩ : ∃ mems, written = s.setMems mems := ⟨_, rfl⟩
  clear_value written
  subst stored
  refine ⟨fun alone room thawed => ⟨fun irq due => ?_, fun quiet => ?_⟩, fun waits => postCompletion_waits found e waits,
    fun ci runs noRoom => ?_, exec_cqRecheck_ignored found, fun runs irq time entries elapsed => ?_, fun quiet => ?_⟩
  · rw [postCompletion_written found e alone room thawed, writeEntry_eq, if_pos ⟨irq, due⟩, place]
    exact signals _ rfl rfl
  · have quiet : ¬(c.irq = true ∧ (e.solicit = true ∨ c.modCnt ≤ c.unsignalled + 1)) := by
      rintro ⟨irq, due⟩
      rcases quiet with off | ⟨unsolicited, few⟩
      · simp [off] at irq
      · exact due.elim (by simp [unsolicited]) (Nat.not_le.2 few)
    rw [postCompletion_written found e alone room thawed, writeEntry_eq, if_neg quiet, place]
  · intro used
    refine ⟨fun alone => ?_, fun waiting full => ?_⟩
    · have row := exec_cqRecheck_kept found runs noRoom ci (.inl alone) (full := decide (size ≤ used)) (by rw [alone]; rfl)
      simpa only [decide_eq_true_eq] using row
    · have row := exec_cqRecheck_kept found runs noRoom ci (.inr full) (full := true)
        (Bool.or_eq_true_iff.2 (.inr (decide_eq_true full)))
      simpa only [true_and] using row
  · rw [exec_modTimeExpire found, if_pos ⟨runs, irq, time, entries, elapsed⟩]
    exact congrArg _ (signals _ rfl rfl)
  · rw [exec_modTimeExpire found, if_neg]
    rintro ⟨runs, irq, time, entries, -⟩
    rcases quiet with off | off | off | off
    · simp [off] at runs
    · simp [off] at irq
    · exact time off
    · exact entries off

/-- Settles O50: polls by the requests they send, rings by what is fetched and worked off, copies and entries by the room there is. -/
theorem hostQueueEngine : Obligations.HostQueueEngine :=
  ⟨pollsFindDoorbells, doorbellsAreChecked, descriptorsAreFetchedInOrder, framesAreTransmitted, copiesAreDelivered, hostCopiesWaitOrGo,
    completionRingsFillAndSignal⟩

end
